-- ==== Sys2Proof/Word.lean ====
section
/-!
DEFINITION. Word.lean: the word types of the BRK-5120 and the shape of a sparse table.
Registers are 32 bits wide (R497), bytes 8 bits, seeds and counters 64 bits.
Counts, times in ns and addresses are plain natural numbers.
-/
namespace Sys2Proof

/-- A register word (R497: registers are 32 bits wide). -/
abbrev Word := BitVec 32
/-- One byte of memory, of a flit or of a frame. -/
abbrev Byte := BitVec 8
/-- A 64-bit quantity: a seed, a scale entry, a model digest part. -/
abbrev DWord := BitVec 64
/-- A value of the timebase, in nanoseconds (R8). -/
abbrev Time := Nat
/-- A sparse table: key and value, keys rising; an absent key stands for the table's own default. -/
abbrev Tab (α : Type) := List (Nat × α)

end Sys2Proof
end

