-- ==== Sys2Proof/Syntax.lean ====
section
/-!
DEFINITION. Syntax.lean: the commands of the block: one constructor per row of the table of operations and events.
-/
namespace Sys2Proof

/-- Who makes a register access (R485, R486): the host over BAR0 or the control complex. -/
inductive Agent where
  | host | control
  deriving DecidableEq, Repr

/-- Why a physical core is retired (R90). -/
inductive RetireCause where
  | noSpareRow | accParity | golden | request
  deriving DecidableEq, Repr

/-- A credit request as it reaches a Dresser (R187, R188): the writer's partition and context, its number, a landing
credit's destination context slot or a placed credit's range in the scratchpad window, an operand fetch's source, and
whether it is a prefetch (R194). -/
structure CreditArg where
  part : Nat
  ctx : Nat
  writer : Nat
  landing : Option Nat
  off : Nat
  len : Nat
  src : Option Nat
  prefetch : Bool
  deriving DecidableEq, Repr

/-- What a shared-cache read meets in the line it hits (R199). -/
inductive ShcErr where
  | none | single | double
  deriving DecidableEq, Repr

/-- What inline ECC finds in a DRAM block (R208). -/
inductive EccKind where
  | clean | single | double | misdirected
  deriving DecidableEq, Repr

/-- Who made a read that met an error: a context on a core, a DMA chain at the head of a queue, or another block. -/
inductive Reader where
  | slot (l s : Nat)
  | dma (e vc : Nat)
  | other
  deriving DecidableEq, Repr


/-- A received Ethernet frame (R300 to R302): its bytes from the destination address to the frame check sequence, how many packets of the port's
receive buffer have been written to their bitstream rings since the frame before it, and whether the management queue is full. -/
structure RxFrame where
  bytes : List Byte
  moved : Nat
  mgmtFull : Bool
  deriving DecidableEq, Repr

/-- How a PTP message came (R304): its port, over IEEE 802.3 or UDP and IPv4, its domain, and the port identity of its sender. -/
structure PtpMsg where
  port : Fin 8
  l2 : Bool
  domain : Nat
  source : Nat
  deriving DecidableEq, Repr

/-- A delay request-response exchange (R305, R306): the response, when the request was stamped as it left, when the master received it, and 7 more than
the message interval as a power of two. -/
structure PtpDelay where
  msg : PtpMsg
  sent : Time
  gm : Nat
  logInt : Nat
  deriving DecidableEq, Repr

/-- An Announce message (R304): the fields that the best master clock algorithm compares, in its order, with stepsRemoved, and 7 more than the
message interval as a power of two. -/
structure Announce where
  prio1 : Nat
  cls : Nat
  accuracy : Nat
  variance : Nat
  prio2 : Nat
  identity : Nat
  steps : Nat
  logInt : Nat
  deriving DecidableEq, Repr

/-- An Announce message as it came. -/
structure PtpAnnounce where
  msg : PtpMsg
  an : Announce
  deriving DecidableEq, Repr

/-- A magic packet (R451): the port that receives it and the MAC address that it names. -/
structure MagicPacket where
  port : Fin 8
  mac : Nat
  deriving DecidableEq, Repr

/-- A claim on a work counter (R200, R201): the context slot that makes it, and whether it meets an uncorrectable error in the counter's state or bitmap. -/
structure ClaimOp where
  slot : Fin 8
  err : Bool
  deriving DecidableEq, Repr

/-- A completion's counter (R200, R201): its number in the cluster, and whether the completion meets an uncorrectable error there. -/
structure CtrOp where
  ctr : Fin 64
  err : Bool
  deriving DecidableEq, Repr

/-- A decoded picture (R310): its coded size, the first sample and the size of its conformance or cropping window, its bits a sample, whether it is
4:0:0, its samples row by row, the reference pictures that its parameter sets need, and the pictures, by frame counter, that stay references. -/
structure DecPic where
  w : Nat
  h : Nat
  cropX : Nat
  cropY : Nat
  cropW : Nat
  cropH : Nat
  bits : Nat
  mono : Bool
  y : List Nat
  cb : List Nat
  cr : List Nat
  need : Nat
  refs : List Nat
  deriving DecidableEq, Repr

/-- How the decode of an access unit ends (R310, R311, R315, R320): with a picture, or an error. -/
inductive DecResult where
  | picture (pic : DecPic)
  | unsupported
  | error
  | poison
  deriving DecidableEq, Repr

/-- What a peer frame carries (R275, R276): a DMA write, the refusal of one of this member's chains, or a member's own
statement that it joins or leaves service, with its bitmap of the versions of family 6 (R474). -/
inductive PeerBody where
  | write (part addr : Nat) (bytes : List Byte) (sig : Option Nat)
  | refused (e vc addr : Nat)
  | service (member : Nat) (up : Bool) (vers : Nat)
  deriving DecidableEq, Repr

/-- What a line fetch reads (R346): a source row of a layer, or a neural line of the enhanced layer. -/
inductive LineSrc where
  | source (layer row : Nat)
  | neural (row : Nat)
  deriving DecidableEq, Repr

/-- How an AUX request is answered (R363). -/
inductive AuxReply where
  | ack (data : List Byte)
  | nack
  | defer
  | timeout
  deriving DecidableEq, Repr

/-- A channel of the Hutch (R400), and of a safe input or output (R391, R394). -/
inductive Chan where
  | a | b
  deriving DecidableEq, Repr

/-- A copy of a cyclic frame as it comes back (R376, R377): a bad frame check sequence, the working counter of its LRW, and
its process image. -/
structure FrameCopy where
  bad : Bool
  wkc : Nat
  image : List Byte
  deriving DecidableEq, Repr

/-- A datagram of a frame of the motion port (R371, R374): its command (LWR 11, LRW 12, FPWR 5, ARMW 13, any other code), its 32-bit address
(a logical address, or station and register) and its data. -/
structure Dgram where
  cmd : Nat
  addr : Nat
  data : List Byte
  deriving DecidableEq, Repr

/-- What FRAME_SEND starts: the port, and the acyclic datagrams that the resident firmware has inserted (R371, R374). -/
structure FrameOut where
  port : Fin 2
  acyclic : List Dgram
  deriving DecidableEq, Repr

/-- An engine that runs the golden input (R414, R91): a logical core, the Footstool of a cluster, the spare of a cluster. -/
inductive GoldEngine where
  | core (l : Fin 256)
  | foot (c : Fin 16)
  | spare (c : Fin 16)
  deriving DecidableEq, Repr

/-- A heartbeat (R402): the channel that sends it, its zone decisions (bit z: zone z is invalid for it), its tripped-group bitmap and its
sequence number. -/
structure HutBeat where
  ch : Chan
  zones : Nat
  groups : Nat
  seq : Nat
  deriving DecidableEq, Repr

/-- The start of a golden run (R416, R417): the engine, and JB in ns, the budget against which firmware admitted the job of the engine's partition
that consumes its zone streams (R381). -/
structure GoldStart where
  engine : GoldEngine
  jb : Nat
  deriving DecidableEq, Repr

/-- What ends the supply (R438): the 12 V input below 10.8 V for 2 µs, or a rail's regulator with its STATUS_WORD. -/
inductive PowerLoss where
  | vin
  | rail (r : Fin 12) (status : Word)
  deriving DecidableEq, Repr

/-- What the POLICY record says (R461, R491, R492, R513): fields to stage after the lock, the register windows and DRAM ranges of the
management commands as base and length, the UDP port and key of the management service, the resets it permits, and the pins GPIO3 to GPIO7 that
are driven (by bit) with their levels. -/
structure Policy where
  entries : List (Nat × Word)
  wr : List (Nat × Nat)
  mem : List (Nat × Nat)
  udp : Nat
  key : List Byte
  mayMgmt : Bool
  mayModule : Bool
  gpioOut : Nat
  gpioLevel : Nat
  deriving DecidableEq, Repr

/-- A POLICY record that says nothing. -/
def Policy.none : Policy := ⟨[], [], [], 0, [], false, false, 0, 0⟩

/-- What the records of an image hold in layouts that the spec does not give (R415, R461): the value of every RWL field of the HUT block, the
expected signatures of the golden input on a tensor core and on a Footstool, and what the POLICY record says. -/
structure ImageRecs where
  hut : List (Nat × Word)
  coreSig : Word
  footSig : Word
  pol : Policy
  deriving DecidableEq, Repr

/-- The field that records a code, by its instance (R494). -/
inductive EventSource where
  | tc (l : Fin 256)
  | dma (e : Fin 22)
  | sch (p : Fin 16) (n : Fin 64)
  | stream (n : Fin 512)
  | output (d : Fin 4)
  | motion (m : Fin 2)
  | group (g : Fin 8)
  | hutch
  | boot
  | model (i : Fin 32)
  deriving DecidableEq, Repr

/-- An event raised to the firmware (R469): the thermal ladder, a floor breach, a field that records a code, a change of a stream, another. -/
inductive FwEvent where
  | hot
  | floorBreach
  | fault (src : EventSource)
  | stream (n : Fin 512)
  | other (code : Nat)
  deriving DecidableEq, Repr

/-- A read of the register space (R485): the byte offset of its word, and the bytes of the word that are asked for. -/
structure BusRead where
  off : Nat
  be : Fin 16
  deriving DecidableEq, Repr

/-- A step of an IMAGE_WRITE (R491): it starts, or it ends with what the copy reads back as equal to what was written, or not. -/
inductive ImageStep where
  | start
  | finish (same : Bool)
  deriving DecidableEq, Repr

/-- Why a policy module is called (R469). -/
inductive CallKind where
  | epoch
  | event (e : FwEvent)
  | service
  deriving DecidableEq, Repr

/-- A register access of a policy module: a read, or a write of a word; `fits` is what the firmware's check of R49 says of the job, where the write
asks for an admission (R470). -/
inductive ModAccess where
  | read (off : Nat)
  | write (off : Nat) (w : Word) (fits : Bool)
  deriving DecidableEq, Repr


/-- The commands of the block, one constructor per row of the table.  `t` is the timebase value at which the command
takes place; a boundary event brings its own instant with it. -/
inductive Instr where
  /-- EPOCH_BOUNDARY (R472): The timebase reaches a multiple of 5 000 000 ns, and the commit groups of the epoch boundary commit in their fixed order. -/
  | epochBoundary
  /-- SLOT_BOUNDARY (R260): At each 312.5 µs slot boundary, each core pre-empts, refills and binds contexts for the owning group. -/
  | slotBoundary
  /-- CORE_STEP (R32): One turn of a core's completion ring performs one step of the array and the other engines, and advances STEP_COUNT. -/
  | coreStep (t : Time) (l : Fin 256) (par : Option (Nat × Nat × Bool))
  /-- DRAIN_COMPLETE (R62): The last drained row of a slot is acknowledged by its destination, and the slot returns to FREE. -/
  | drainComplete (t : Time) (l : Fin 256) (a : Fin 32)
  /-- ISSUE_MMA (R144): MMA is checked at issue and walks its tile share pass by pass, with spills, side passes and drains. -/
  | issueMma (t : Time) (l : Fin 256) (k : Fin 8)
  /-- ISSUE_XPND (R165): XPND expands image windows into a row-major matrix, or sends a direct convolution to the Footstool. -/
  | issueXpnd (t : Time) (l : Fin 256) (k : Fin 8)
  /-- ISSUE_ATTN (R224): ATTN computes masked running-softmax attention over key blocks, optionally from KV pages. -/
  | issueAttn (t : Time) (l : Fin 256) (k : Fin 8)
  /-- ISSUE_EWISE (R155): EWISE evaluates an element-wise operation in FP32 and converts the result to the output format. -/
  | issueEwise (t : Time) (l : Fin 256) (k : Fin 8)
  /-- ISSUE_POOL (R176): POOL computes maximum or average pooling in FP32 over padded windows. -/
  | issuePool (t : Time) (l : Fin 256) (k : Fin 8)
  /-- ISSUE_ARGMAXC (R178): ARGMAXC writes the index of the largest channel at each position. -/
  | issueArgmaxc (t : Time) (l : Fin 256) (k : Fin 8)
  /-- ISSUE_STAT (R117): STAT gathers statistics of a tensor in memory and writes its scale record. -/
  | issueStat (t : Time) (l : Fin 256) (k : Fin 8)
  /-- ISSUE_SCALE_ENTRIES (R75): SCALE with KIND 0 loads scale register entries from the core's scratchpad. -/
  | issueScaleEntries (t : Time) (l : Fin 256) (k : Fin 8)
  /-- ISSUE_SCALE_TABLE (R70): SCALE with KIND 1 loads an activation table from a 1 056-byte image. -/
  | issueScaleTable (t : Time) (l : Fin 256) (k : Fin 8)
  /-- ISSUE_FILL (R156): FILL writes a bit pattern into scratchpads of one cluster. -/
  | issueFill (t : Time) (l : Fin 256) (k : Fin 8)
  /-- ISSUE_SCOPY (R156): SCOPY copies within or between the scratchpads of one cluster. -/
  | issueScopy (t : Time) (l : Fin 256) (k : Fin 8)
  /-- ISSUE_DMA (R157): A DMA instruction hands each rank's descriptor chain to the engine of its cluster. -/
  | issueDma (t : Time) (l : Fin 256) (k : Fin 8)
  /-- ISSUE_KVAPP (R235): KVAPP checks and appends quantised keys and values to a head group of a KV sequence. -/
  | issueKvapp (t : Time) (l : Fin 256) (k : Fin 8)
  /-- SYNC_WAIT (R158): SYNC WAIT holds the context until its token reaches VALUE. -/
  | syncWait (t : Time) (l : Fin 256) (k : Fin 8)
  /-- SYNC_SIGNAL (R158): SYNC SIGNAL adds VALUE to a partition token on each rank. -/
  | syncSignal (t : Time) (l : Fin 256) (k : Fin 8)
  /-- SYNC_BLOAD (R158): SYNC BLOAD loads bound registers from memory. -/
  | syncBload (t : Time) (l : Fin 256) (k : Fin 8)
  /-- SYNC_WAIT_RELEASE (R158): A waiting context is released when the token condition becomes true. -/
  | syncWaitRelease (t : Time) (l : Fin 256) (k : Fin 8)
  /-- ACC_SLOT_GRANT (R148): A waiting instruction is granted its ACC_SLOTS accumulator slots once enough of them are FREE. -/
  | accSlotGrant (t : Time) (l : Fin 256) (k : Fin 8)
  /-- INSTRUCTION_HOLD_RELEASE (R130): A second instruction held by an overlap or a BARRIER issues once the earlier instruction completes. -/
  | instructionHoldRelease (t : Time) (l : Fin 256) (k : Fin 8)
  /-- INSTRUCTION_COMPLETE (R131): An instruction completes on a core when its tiles have drained and its writes are acknowledged, and it signals DONE. -/
  | instructionComplete (t : Time) (l : Fin 256) (k : Fin 8)
  /-- STATS_PARTIAL_ARRIVE (R117): A rank's statistics flit arrives at rank 0 and is combined into its partial. -/
  | statsPartialArrive (t : Time) (p : Fin 16) (n : Fin 64) (rank : Fin 256)
  /-- JOB_END (R269): END completes on every rank, the job figures are written, and the context loops, stops or is freed. -/
  | jobEnd (t : Time) (p : Fin 16) (n : Fin 64)
  /-- FOOTSTOOL_CHUNK_BOUNDARY (R85): At a request or chunk boundary, the Footstool starts the pending request of the highest class. -/
  | footstoolChunkBoundary (t : Time) (c : Fin 16)
  /-- FOOTSTOOL_REQUEST_COMPLETE (R84): A Footstool request completes and its issuing context resumes. -/
  | footstoolRequestComplete (t : Time) (c : Fin 16)
  /-- FOOTSTOOL_PARITY_ERROR (R87): A Footstool buffer parity error re-fetches the data, faults the request, or makes the Footstool UNAVAILABLE. -/
  | footstoolParityError (t : Time) (c : Fin 16) (row : Nat) (held : Bool)
  /-- CORE_RETIRE (R91): A physical core is retired: it stops, its contexts fault, the fuse is programmed and a spare is prepared. -/
  | coreRetire (t : Time) (l : Fin 256) (cause : RetireCause)
  /-- CL_RETIRE_REQ (R90): A write to CL_RETIRE_REQ with CONFIRM 1 retires the core holding the named logical index. -/
  | clRetireReq (t : Time) (ag : Agent) (l : Fin 256) (w : Word)
  /-- CORE_RESET (R96): A write of CORE_RESET stops the core, faults its contexts and frees its slots and counters. -/
  | coreReset (t : Time) (ag : Agent) (l : Fin 256)
  /-- TC_QUIESCE (R94): A write to QUIESCE stops the issue of new instructions on the core, or lets it resume. -/
  | tcQuiesce (t : Time) (ag : Agent) (l : Fin 256) (q : Bool)
  /-- CREDIT_REQUEST (R188): A writer requests a landing or placed credit from the destination Dresser, which checks the request and grants, refuses or queues it. -/
  | creditRequest (t : Time) (l : Fin 256) (rq : CreditArg)
  /-- CREDIT_GRANT (R188): A waiting credit request is granted when a drawer or a credit-table entry becomes free. -/
  | creditGrant (t : Time) (l : Fin 256)
  /-- WRITE_ACK (R188): Every byte of a credit has been written, and the Dresser returns the acknowledgement and frees the entry. -/
  | writeAck (t : Time) (l : Fin 256) (tag : Nat)
  /-- LANDING_DRAWER_CONSUMED (R189): The last byte of a FULL landing drawer is read, and the drawer returns to FREE. -/
  | landingDrawerConsumed (t : Time) (l : Fin 256) (d : Fin 256)
  /-- MULTICAST_SEND (R190): A leader holding every destination credit issues the source read, which the routers replicate. -/
  | multicastSend (t : Time) (l : Fin 256) (k : Fin 8) (src : Nat) (len : Nat) (dests : List Nat)
  /-- HALO_ROW_SEND (R192): The lower rank sends a shared row to the next rank and advances the exchange counter. -/
  | haloRowSend (t : Time) (l : Fin 256) (k : Fin 8) (src : Nat) (len : Nat)
  /-- PROMISE_CANCEL (R193): A promised block or row is cancelled, and the receiver fetches it from the source itself. -/
  | promiseCancel (t : Time) (l : Fin 256) (src : Nat) (mc : Bool)
  /-- SHC_READ (R196): A cached read is looked up in its home slice and hits, or misses and fills. -/
  | shcRead (t : Time) (l : Fin 256) (k : Fin 8) (addr : Nat) (err : ShcErr)
  /-- SHC_INV (R198): A write to SHC_INV drops every line of the named partition in every slice. -/
  | shcInv (t : Time) (ag : Agent) (p : Fin 16)
  /-- SHC_INV_DONE (R198): The invalidation completes and BUSY clears. -/
  | shcInvDone (t : Time)
  /-- WCTR_CLAIM (R201): A claim on a work counter arms it, takes an item or a replayed item, waits, or receives NONE. -/
  | wctrClaim (t : Time) (l : Fin 256) (k : ClaimOp)
  /-- WCTR_COMPLETION (R201): A completion sets the item's bitmap bit or is discarded as a duplicate. -/
  | wctrCompletion (t : Time) (c : Fin 16) (k : CtrOp) (l : Fin 256) (tag item sat nan : Nat)
  /-- WCTR_CLEAR (R216): A write of 1 to WCTR_STATE.CLEAR returns a POISONED counter to IDLE. -/
  | wctrClear (t : Time) (ag : Agent) (c : Fin 16) (k : Fin 64)
  /-- DMA_CHAIN_ACCEPT (R203): An engine accepts a chain into the queue of its virtual channel and fetches its descriptors. -/
  | dmaChainAccept (t : Time) (e : Fin 22) (p : Fin 16) (n : Fin 64) (base : Nat) (count : Nat)
  /-- DMA_DESC_START (R205): A descriptor starts once the descriptors ahead of it that overlap it allow. -/
  | dmaDescStart (t : Time) (e : Fin 22) (vc : Fin 4) (ix : Nat)
  /-- DMA_DESC_COMPLETE (R205): All writes of a descriptor are acknowledged, and SIG signals its token. -/
  | dmaDescComplete (t : Time) (e : Fin 22) (vc : Fin 4) (ix : Nat)
  /-- DMA_DESC_FAULT (R206): The chain reaches an invalid descriptor or an access fault, stops, and faults its context. -/
  | dmaDescFault (t : Time) (e : Fin 22) (vc : Fin 4)
  /-- DRAM_READ_ECC (R208): A DRAM read is checked by inline ECC, and is corrected or returned poisoned. -/
  | dramReadEcc (t : Time) (addr : Nat) (kind : EccKind) (rd : Reader)
  /-- PATROL_SCRUB (R208): Each controller reads and corrects its whole space once in each 24 hours. -/
  | patrolScrub (t : Time) (m : Fin 6) (single : List Nat) (double : List Nat)
  /-- SPAD_PARITY_ERROR (R210): A scratchpad parity error re-fetches a landing drawer or faults with SPAD_PARITY. -/
  | spadParityError (t : Time) (l : Fin 256) (off : Nat) (rd : Reader)
  /-- BANK_CLOSING_DONE (R212): A CLOSING bank whose credits and reads have all completed becomes GATED. -/
  | bankClosingDone (t : Time) (l : Fin 256) (b : Fin 16)
  /-- BANK_GATE_ABORT (R212): An access to a CLOSING bank cancels gating and returns the bank to ON. -/
  | bankGateAbort (t : Time) (l : Fin 256) (b : Fin 16)
  /-- BANK_WAKE (R213): An access that reaches a GATED bank makes it WAKING. -/
  | bankWake (t : Time) (l : Fin 256) (b : Fin 16) (wr : Bool)
  /-- BANK_WAKE_DONE (R213): The zero fill completes, the bank turns ON and the waiting access proceeds. -/
  | bankWakeDone (t : Time) (l : Fin 256) (b : Fin 16)
  /-- KVAPP_COMPLETE (R236): An append completes on rank 0, and every rank completes and receives the new length. -/
  | kvappComplete (t : Time) (l : Fin 256) (k : Fin 8)
  /-- KV_COPY_ON_WRITE (R240): The copy of a shared page completes, and the page table is updated in one Wardrobe operation. -/
  | kvCopyOnWrite (t : Time) (l : Fin 256) (k : Fin 8)
  /-- KV_PIN_RELEASE (R239): A core has the last byte of a page it reads and releases the pin, which may free a DRAINING page. -/
  | kvPinRelease (t : Time) (l : Fin 256) (k : Fin 8) (page : Nat)
  /-- KV_BATCH_BOUNDARY (R247): A SIGNAL on BTOK makes the Wardrobe apply the ring's requests, write their status and signal DTOK. -/
  | kvBatchBoundary (t : Time) (p : Fin 16)
  /-- KV_TREE_INSERT (R244): A node is inserted for each whole prefix block whose pages have all become SEALED. -/
  | kvTreeInsert (t : Time) (q : Fin 2048) (blk : Nat)
  /-- KV_HOT_COPY (R245): A HOT page is copied into the hot area of each cluster of the partition. -/
  | kvHotCopy (t : Time) (page : Nat) (c : Fin 16)
  /-- PARTITION_RESET (R271): A partition reset tears down its contexts, frees its sequences, counters, cache lines and tokens, and returns to ON. -/
  | partitionReset (t : Time) (p : Fin 16)
  /-- CONTEXT_TEARDOWN (R270): A fault tears its context down on every core of its core set, and the context becomes FAULTED. -/
  | contextTeardown (t : Time) (p : Fin 16) (n : Fin 64)
  /-- SCH_TOK_SIGNAL (R279): A write to SCH_TOK_SIGNAL adds VALUE to a partition token. -/
  | schTokSignal (t : Time) (ag : Agent) (w : Word)
  /-- GEN_READ (R289): A read in the generator range returns a Philox byte from the seed, partition, context and address. -/
  | genRead (t : Time) (p : Fin 16) (n : Fin 64) (addr : Nat)
  /-- GEN_WRITE (R289): A write to the generator range faults with FENCE_CROSS or RNG_WRITE and writes nothing. -/
  | genWrite (t : Time) (p : Fin 16) (n : Fin 64) (addr : Nat)
  /-- BRK_RESUME (R293): A write of RESUME refills the saved slots, clears HIT and continues the context. -/
  | brkResume (t : Time) (ag : Agent) (l : Fin 256)
  /-- PEER_FRAME (R275): A peer frame with its CRC arrives, is acknowledged, or is retransmitted. -/
  | peerFrame (t : Time) (p : Fin 8) (src : Fin 8) (seq : Nat) (crcOk : Bool) (body : PeerBody)
  /-- PEER_TIME_EXCHANGE (R274): A timestamped exchange on a peer link disciplines a member's timebase to member 0. -/
  | peerTimeExchange (t : Time) (p : Fin 8) (off : Int) (origin : Nat)
  /-- PEER_UNREACHABLE (R275): A member unreachable for 1 ms faults every chain addressed to it with PEER_LOST. -/
  | peerUnreachable (t : Time) (m : Fin 8)
  /-- RX_FRAME (R301): A port in camera mode receives and timestamps a frame and classifies it to PTP, a stream, RTCP, management or discard. -/
  | rxFrame (t : Time) (p : Fin 8) (f : RxFrame)
  /-- PTP_SYNC (R306): A Sync message updates the offset, sets ORIGIN once, and writes the servo output to GLB_TB_ADJ. -/
  | ptpSync (t : Time) (m : PtpMsg) (gm logInt : Nat)
  /-- PTP_DELAY_RESP (R306): A delay request-response exchange updates the mean path delay. -/
  | ptpDelayResp (t : Time) (d : PtpDelay)
  /-- PTP_ANNOUNCE (R304): An Announce message feeds the best master clock algorithm. -/
  | ptpAnnounce (t : Time) (an : PtpAnnounce)
  /-- PTP_HOLDOVER (R307): No Sync arrives for 8 intervals, HOLDOVER sets and the last adjustment is kept. -/
  | ptpHoldover (t : Time)
  /-- GAP_TIMEOUT (R317): A gap is declared lost after REORDER_US or REORDER_PKTS, and the AU is dropped with PKT_LOSS. -/
  | gapTimeout (t : Time) (n : Fin 512)
  /-- AU_IDLE_TIMEOUT (R318): An AU still incomplete IDLE_MS after its last packet is dropped, as is a stream silent for IDLE_MS. -/
  | auIdleTimeout (t : Time) (n : Fin 512)
  /-- AU_COMPLETE (R309): An AU is complete from its first packet to its marker packet with no gap. -/
  | auComplete (t : Time) (n : Fin 512)
  /-- DECODE_START (R316): An engine starts an AU, chosen by publication deadline, once its first packet is in the ring. -/
  | decodeStart (t : Time) (e : Fin 32)
  /-- DECODE_COMPLETE (R325): Decode and CRC complete, and the frame record is published with notices to the consumers. -/
  | decodeComplete (t : Time) (n : Fin 512) (ctr : Nat) (r : DecResult)
  /-- NOTICE_RELEASE (R327): A SIGNAL on RTOK reads a release entry and frees its notice slot and hold. -/
  | noticeRelease (t : Time) (p : Fin 16)
  /-- ETH_LINK_DOWN (R330): A port link goes down and LINK_DOWN_COUNT increments, while its streams stay enabled. -/
  | ethLinkDown (t : Time) (p : Fin 8)
  /-- DPO_FRAME_BOUNDARY (R360): At an output's frame boundary, the output group commits, flips are taken and retired, and FRAME_CNT advances. -/
  | dpoFrameBoundary (t : Time) (d : Fin 4) (bad : List (Nat × Nat))
  /-- LINE_FETCH (R346): The Sideboard fetches layer lines ahead of the raster, urgently below the watermark. -/
  | lineFetch (t : Time) (d : Fin 4) (src : LineSrc) (bad : List Nat)
  /-- PIXEL_UNDERRUN (R347): A pixel whose data is absent repeats the previous output pixel and is counted. -/
  | pixelUnderrun (t : Time) (d : Fin 4) (x : Nat)
  /-- COEF_LOAD_COMPLETE (R350): A scaler coefficient load completes, and the new tables apply from line 0 or from the next frame. -/
  | coefLoadComplete (t : Time) (d : Fin 4)
  /-- STRIPE_RELEASE (R355): At a stripe's release line, a request is issued into its slot, or the stripe is skipped. -/
  | stripeRelease (t : Time) (d : Fin 4) (k : Nat) (bad : List Nat)
  /-- STRIPE_DEADLINE (R356): At the decision line, a done stripe is shown from the neural lines, or the scaled fallback is shown. -/
  | stripeDeadline (t : Time) (d : Fin 4) (k : Nat)
  /-- DPO_TRAIN (R339): A write of TRAIN trains the link, or refuses with LINK_CFG. -/
  | dpoTrain (t : Time) (ag : Agent) (d : Fin 4)
  /-- DPO_TRAIN_DONE (R339): Link training ends with LINK_UP, or with TRAIN_FAIL and an idle main link. -/
  | dpoTrainDone (t : Time) (d : Fin 4) (ok : Bool)
  /-- HPD_CHANGE (R362): A debounced HPD level connects or disconnects the sink. -/
  | hpdChange (t : Time) (d : Fin 4) (up : Bool)
  /-- IRQ_HPD (R362): An IRQ_HPD pulse reads the lane status and may clear LINK_UP with LINK_LOST. -/
  | irqHpd (t : Time) (d : Fin 4) (lost : Bool)
  /-- AUX_GO (R363): A write of AUX_CMD.GO sends one AUX request. -/
  | auxGo (t : Time) (ag : Agent) (d : Fin 4) (w : Word)
  /-- AUX_REPLY (R363): An AUX request ends with ACK, NACK, DEFER after retries, or TIMEOUT after 500 µs. -/
  | auxReply (t : Time) (d : Fin 4) (r : AuxReply)
  /-- USB_TOUCH_REPORT (R365): An input report maps each contact to a layer and writes a touch event to the ring. -/
  | usbTouchReport (t : Time) (p : Fin 2) (bytes : List Byte)
  /-- USB_OVERCURRENT (R505): USBn_OC_N going low removes VBUSEN within 1 ms, and the port retries after 1 s. -/
  | usbOvercurrent (t : Time) (p : Fin 2)
  /-- EMISSION_POINT (R379): At E(n), the port selects the command set, applies zone caps and envelope checks, and prepares the frame. -/
  | emissionPoint (t : Time)
  /-- FRAME_SEND (R374): At S(n), the EtherCAT frame starts on the wire, with bytes taken from the latch state. -/
  | frameSend (t : Time) (x : FrameOut)
  /-- FRAME_RETURN (R376): A returned frame, or both ring copies merged, give the input set or mark it invalid. -/
  | frameReturn (t : Time) (m : Fin 2) (broken : Bool) (x : FrameCopy) (y : Option FrameCopy)
  /-- FRAME_LOSS_TIMEOUT (R376): A frame not back by E(n+1) is lost, and LOSS_LIMIT such cycles trip with FRAME_LOSS. -/
  | frameLossTimeout (t : Time) (m : Fin 2)
  /-- COMMAND_SET_SIGNAL (R378): A signal of CTOK makes a command set available, and the port reads its header at once. -/
  | commandSetSignal (t : Time) (m : Fin 2)
  /-- LATCH_SET (R389): A cause reaches a group latch, which clears the axis-valid bits and drives the safe outputs to the safe state. -/
  | latchSet (t : Time) (g : Fin 8) (code : Fin 16) (a b : Bool)
  /-- SAFE_INPUT_DEMAND (R392): A channel holds its demand level for FILTER, and the input's groups trip with SAFE_INPUT. -/
  | safeInputDemand (t : Time) (inp : Fin 8) (ch : Chan)
  /-- TEST_PULSE (R391): An input or output test pulse starts each TP_PERIOD on one channel. -/
  | testPulse (t : Time) (out : Bool) (n : Fin 8) (ch : Chan)
  /-- TEST_PULSE_FAULT (R392): A channel that fails to read low during its pulse trips its groups with INPUT_FAULT. -/
  | testPulseFault (t : Time) (inp : Fin 8) (ch : Chan)
  /-- DISCREPANCY_TIMEOUT (R392): Two channels that disagree for longer than DISC trip the input's groups with INPUT_FAULT. -/
  | discrepancyTimeout (t : Time) (inp : Fin 8)
  /-- OUTPUT_READBACK_FAULT (R394): A readback that differs for more than 500 µs trips the output's groups with OUTPUT_FAULT. -/
  | outputReadbackFault (t : Time) (o : Fin 8) (ch : Chan)
  /-- OUTPUT_FAULT_CLEAR (R394): An output fault clears after the readback has matched for 1 s. -/
  | outputFaultClear (t : Time) (o : Fin 8)
  /-- BRAKE_DELAY_EXPIRE (R394): A BRAKE output turns off DELAY after its group trips. -/
  | brakeDelayExpire (t : Time) (o : Fin 8)
  /-- RESET_BUTTON_RELEASE (R395): Release of a RESET input after a press of 100 ms to 5 s requests a group reset. -/
  | resetButtonRelease (t : Time) (inp : Fin 8)
  /-- SIO_RESET (R395): A write to SIO_RESET requests a reset of the groups that permit register reset. -/
  | sioReset (t : Time) (ag : Agent) (w : Word)
  /-- GROUP_RESET_GRANT (R395): Both channels grant a valid reset request, and the group returns to RUN at the next E(n), or the request is refused. -/
  | groupResetGrant (t : Time) (g : Fin 8) (ok : Bool)
  /-- HEARTBEAT (R402): The channels exchange a heartbeat with zone decisions and tripped groups every 10 µs. -/
  | heartbeat (t : Time) (b : HutBeat)
  /-- HEARTBEAT_MISS (R402): Three missed heartbeats restart the silent channel with CHANNEL_RESTART. -/
  | heartbeatMiss (t : Time) (ch : Chan)
  /-- CHANNEL_DECISION_MISMATCH (R402): Zone decisions that differ for more than 1 ms trip every group with CHANNEL_MISMATCH. -/
  | channelDecisionMismatch (t : Time)
  /-- CHANNEL_RESTART_DONE (R402): A channel restart completes, or fails twice and fails the channel. -/
  | channelRestartDone (t : Time) (ch : Chan) (ok : Bool)
  /-- SUPERVISION_START (R404): Both channels pass their self-test and SUPERVISING sets. -/
  | supervisionStart (t : Time)
  /-- TIMEBASE_CROSSCHECK (R405): Each 1 ms a channel compares the timebase with its oscillator and trips with TIMEBASE_FAULT beyond 1 000 ppm. -/
  | timebaseCrosscheck (t : Time) (ch : Chan) (ppm : Nat)
  /-- HUTCH_PICTURE_READ (R408): Channel A reads a noticed picture, checks it, copies its zone crops, and releases the notice. -/
  | hutchPictureRead (t : Time) (bad : Bool)
  /-- CHECKER_RESULT (R409): The checker engine completes the presence network on a zone crop. -/
  | checkerResult (t : Time) (z : Fin 16) (present : Bool)
  /-- ZONE_REPORT (R410): A signal of ZTOK makes a zone report entry available, and the Hutch checks it. -/
  | zoneReport (t : Time) (m : Fin 2)
  /-- ZONE_COMPARE (R411): Both channels compare the checker's result with the report, and the zone becomes valid or invalid. -/
  | zoneCompare (t : Time) (z : Fin 16) (ctr : Nat)
  /-- CMP_BUDGET_EXPIRE (R411): A result missing at PUBLISH_TS plus CMP_BUDGET makes the zone invalid with CHK_MISSING. -/
  | cmpBudgetExpire (t : Time) (z : Fin 16) (ctr : Nat)
  /-- ZONE_AGE_EXPIRE (R411): A zone whose latest compared frame is older than AGE_LIMIT becomes invalid. -/
  | zoneAgeExpire (t : Time) (z : Fin 16)
  /-- GOLDEN_RUN_START (R417): A golden run starts on an engine at an instant that meets its class's conditions. -/
  | goldenRunStart (t : Time) (g : GoldStart)
  /-- GOLDEN_RUN_ABANDON (R417): A class-S window opens during a golden run, and the run is abandoned at the next step. -/
  | goldenRunAbandon (t : Time) (e : GoldEngine)
  /-- GOLDEN_RUN_COMPLETE (R419): A golden signature is compared, and a match clears the engine while a mismatch makes it unverified or confirms its failure. -/
  | goldenRunComplete (t : Time) (e : GoldEngine) (sig : Word)
  /-- GOLDEN_FRAME_END (R418): A golden frame ends without a completed run, and the engine counts a deferral. -/
  | goldenFrameEnd (t : Time) (e : GoldEngine)
  /-- CHECKER_GOLDEN_CROP (R420): Once per second the checker engine runs its golden crop. -/
  | checkerGoldenCrop (t : Time) (ok : Bool)
  /-- S_CONTEXT_LOST (R422): A faulted class-S context or a class-S partition reset trips the groups of its motion port within 1 µs. -/
  | sContextLost (t : Time) (p : Fin 16)
  /-- A_RESTART (R423): A faulted class-A context makes the Hutch reset the partition, set FALLBACK and signal FB_TOK. -/
  | aRestart (t : Time) (p : Fin 16)
  /-- RDY_TOK_SIGNAL (R423): The restarted class-A partition signals RDY_TOK, and FALLBACK clears. -/
  | rdyTokSignal (t : Time) (p : Fin 16)
  /-- A_LIMIT_EXPIRE (R424): RDY_TOK not signalled within A_LIMIT_MS records A_RESTART_LATE. -/
  | aLimitExpire (t : Time) (p : Fin 16)
  /-- WATCHDOG_EXPIRE (R425): WDOG_EPOCHS without a KICK cause a Hutch watchdog reset. -/
  | watchdogExpire (t : Time)
  /-- KICK (R426): The mailbox command KICK restarts the watchdog count. -/
  | kick (t : Time) (ag : Agent)
  /-- STOP_GROUPS (R426): The mailbox command STOP_GROUPS sets both latches of the named groups. -/
  | stopGroups (t : Time) (ag : Agent)
  /-- INVALIDATE_ZONES (R426): The mailbox command INVALIDATE_ZONES makes zones invalid for ARG1 epochs. -/
  | invalidateZones (t : Time) (ag : Agent)
  /-- INVALIDATE_ZONES_EXPIRE (R426): The epochs of an INVALIDATE_ZONES command run out. -/
  | invalidateZonesExpire (t : Time)
  /-- READ_EVENT (R426): The mailbox command READ_EVENT returns an entry of the Hutch event log. -/
  | readEvent (t : Time) (ag : Agent)
  /-- HUTCH_MAILBOX_REJECT (R426): A message with an unknown CMD or VERSION is answered with RESULT 0x02. -/
  | hutchMailboxReject (t : Time) (ag : Agent)
  /-- PROOF_TEST (R428): Each channel runs its daily proof test at PROOF_OFFSET_S, channel B 1 s after channel A. -/
  | proofTest (t : Time) (ch : Chan)
  /-- POWER_ON (R437): The 3.3 V standby input in range starts VAON and the rail sequence. -/
  | powerOn (t : Time) (vin : Bool)
  /-- RAIL_SEQUENCE_STEP (R437): A step's rails report power good and the next step is enabled, or a timeout of 2 ms makes a rail fault. -/
  | railSequenceStep (t : Time) (ok : Bool) (r : Fin 12) (status : Word)
  /-- POWER_DOWN (R438): Loss of VIN, a rail fault, a thermal trip or STANDBY trips the groups and removes the rails in order. -/
  | powerDown (t : Time) (why : PowerLoss)
  /-- VIN_RESTORE (R438): The 12 V input returns, and the rail sequence runs again from t1. -/
  | vinRestore (t : Time)
  /-- SENSOR_SAMPLE (R439): The sampler reads all 48 sensors every 100 µs. -/
  | sensorSample (t : Time) (vals rates : List Nat)
  /-- LADDER_STEP (R442): Every 1 ms each VCORE rail applies the first applicable rule of the thermal ladder. -/
  | ladderStep (t : Time)
  /-- CAP_STEP (R446): Every 1 ms of excess the power cap lowers the rails or raises the holds, and undoes its steps as power falls. -/
  | capStep (t : Time) (avg : Nat)
  /-- HOLD_PERIOD (R442): The ring of each class-B core of a held cluster stops for h × 6.25 µs of each 100 µs. -/
  | holdPeriod (t : Time) (c : Fin 16)
  /-- CORE_POWER_UP (R448): An OFF core given to a partition is powered and zero-filled within 60 µs. -/
  | corePowerUp (t : Time) (l : Fin 256)
  /-- STANDBY_REQUEST (R450): A write of STANDBY is granted at the next boundary if nothing is enabled, and is otherwise refused. -/
  | standbyRequest (t : Time) (ag : Agent) (w : Word)
  /-- WAKE_MAGIC_PACKET (R451): A magic packet on WAKE_PORT ends STANDBY. -/
  | wakeMagicPacket (t : Time) (p : MagicPacket)
  /-- WAKE_ALARM (R451): The timebase at or beyond the alarm count with ALARM_EN set ends STANDBY. -/
  | wakeAlarm (t : Time)
  /-- BOOT_ROM_PHASE (R456): The boot ROM reads fuses and the xSPI parameter table and enters 8D-8D-8D mode. -/
  | bootRomPhase (t : Time) (ok : Bool)
  /-- IMAGE_CHECK (R462): A copy is read, hashed and checked, and is accepted or rejected. -/
  | imageCheck (t : Time) (r : ImageRecs)
  /-- MEMORY_TRAINING (R456): The controllers train DRAM and zero it when required, and the Wardrobe sets READY. -/
  | memoryTraining (t : Time) (ok : Bool)
  /-- BOOT_LOCK (R466): The lock is taken, every RWL field is locked, and policy entries are staged. -/
  | bootLock (t : Time) (pol : Policy)
  /-- MODEL_LOAD (R465): A model image is copied from the eMMC to DRAM and checked against its digest and range. -/
  | modelLoad (t : Time) (ix : Fin 32) (err : Bool)
  /-- BOOT_SERVICE (R456): The module reaches SERVICE, and the security version may advance. -/
  | bootService (t : Time) (ctxs : List (Nat × Nat))
  /-- BOOT_RECOV_GO (R463): In FAIL a write of GO checks the staged image and installs it in both copies. -/
  | bootRecovGo (t : Time) (ag : Agent) (w : Word)
  /-- POLICY_CALLBACK (R469): The firmware calls a policy module under holds and aborts it on a window breach or an overrun. -/
  | policyCallback (t : Time) (j : Nat) (kind : CallKind) (acc : List ModAccess) (us : Nat)
  /-- RESET_N_ASSERT (R475): RESET_N held low for at least 1 µs causes a module reset. -/
  | resetNAssert (t : Time) (ns : Nat) (held : Bool)
  /-- MODULE_RESET (R475): A write to GLB_RESET with KEY and MODULE causes a module reset. -/
  | moduleReset (t : Time) (ag : Agent) (w : Word)
  /-- MANAGEMENT_RESET (R476): A write to GLB_RESET with KEY and MGMT restarts the control complex while the data plane runs on. -/
  | managementReset (t : Time) (ag : Agent) (w : Word)
  /-- COMMIT_DISCARD (R472): A write to GLB_COMMIT_DISCARD returns a group's pending values to the committed values. -/
  | commitDiscard (t : Time) (ag : Agent) (w : Word)
  /-- VER_HOST_WRITE (R474): A write to GLB_VER_HOST negotiates the mailbox version. -/
  | verHostWrite (t : Time) (ag : Agent) (w : Word)
  /-- GLB_TB_ADJ_WRITE (R47): A write to GLB_TB_ADJ sets the rate adjustment, limited to ±500 000 ppb. -/
  | glbTbAdjWrite (t : Time) (ag : Agent) (w : Word)
  /-- GLB_TB_SET (R47): A write to GLB_TB_SET_HI loads the timebase counter if the value is not lower. -/
  | glbTbSet (t : Time) (ag : Agent) (w : Word)
  /-- LATCHING_READ (R46): A read of a low register latches the upper half of the same value for the reading agent. -/
  | latchingRead (t : Time) (ag : Agent) (r : BusRead)
  /-- REGISTER_WRITE (R12): A write to a register without a row of its own acts by its access code, or is ignored or counted. -/
  | registerWrite (t : Time) (ag : Agent) (off : Nat) (be : Fin 16) (w : Word)
  /-- PCIE_RESET (R484): PERST, a hot reset or an FLR resets the HIF block only. -/
  | pcieReset (t : Time)
  /-- PCIE_LINK_DOWN (R484): A link that goes down disables every telemetry ring and counts the dropped records. -/
  | pcieLinkDown (t : Time) (lost : List Nat)
  /-- HOST_DRAM_READ (R488): A BAR2 read through an aperture reaches DRAM, or completes with Unsupported Request. -/
  | hostDramRead (t : Time) (off len : Nat)
  /-- HOST_DRAM_WRITE (R488): A BAR2 write through an aperture reaches DRAM, or is discarded. -/
  | hostDramWrite (t : Time) (off : Nat) (bytes : List Byte)
  /-- MAILBOX_GO (R490): A host write of GO hands a message to the firmware, which replies and raises MSI-X. -/
  | mailboxGo (t : Time) (ag : Agent) (m : Fin 8) (w : Word)
  /-- MGMT_VERSION (R491): The management command VERSION returns GLB_VER_SUPPORT. -/
  | mgmtVersion (t : Time) (m : Fin 8)
  /-- MGMT_READ_REG (R491): The management command READ_REG returns up to 12 register words. -/
  | mgmtReadReg (t : Time) (m : Fin 8)
  /-- MGMT_WRITE_REG (R491): The management command WRITE_REG writes a masked value inside MGMT_WR. -/
  | mgmtWriteReg (t : Time) (m : Fin 8)
  /-- MGMT_READ_MEM (R491): The management command READ_MEM returns memory bytes inside MGMT_MEM. -/
  | mgmtReadMem (t : Time) (m : Fin 8)
  /-- MGMT_WRITE_MEM (R491): The management command WRITE_MEM writes memory bytes inside MGMT_MEM. -/
  | mgmtWriteMem (t : Time) (m : Fin 8)
  /-- MGMT_IMAGE_WRITE (R491): The management command IMAGE_WRITE writes an image copy and reads it back. -/
  | mgmtImageWrite (t : Time) (m : Fin 8) (w : ImageStep)
  /-- MGMT_RESET (R491): The management command RESET performs a management or module reset. -/
  | mgmtReset (t : Time) (m : Fin 8)
  /-- MGMT_ECHO (R491): The management command ECHO returns its payload. -/
  | mgmtEcho (t : Time) (m : Fin 8)
  /-- MGMT_DATAGRAM (R492): An authenticated management datagram over UDP is carried out, or dropped with MGMT_AUTH_FAIL. -/
  | mgmtDatagram (t : Time) (p : Fin 8) (udp src : Nat) (bytes : List Byte) (ok : Bool)
  /-- SMBUS_TRANSACTION (R513): An SMBus block transaction carries a management command to the firmware. -/
  | smbusTransaction (t : Time) (msg : List Byte) (pec ok : Bool)
  /-- TELEMETRY_EVENT (R494): A recorded code writes an EVENT record to each ring enabled for its class. -/
  | telemetryEvent (t : Time) (src : EventSource) (m : Fin 6)
  /-- TR_ENABLE (R503): Setting a ring's EN resets its HEAD and SEQ to 0. -/
  | trEnable (t : Time) (ag : Agent) (r : Fin 4) (w : Word)
  /-- MEMRD_START (R502): A write to MEMRD_HI starts a 4-byte device read for BAR0. -/
  | memrdStart (t : Time) (ag : Agent) (w : Word)
  /-- MEMRD_DONE (R502): The HIF_MEMRD read completes and sets DONE, or is refused and sets ERR. -/
  | memrdDone (t : Time)
  /-- JTAG_BYPASS (R512): The JTAG instruction BYPASS selects the bypass register. -/
  | jtagBypass (t : Time)
  /-- JTAG_IDCODE (R512): The JTAG instruction IDCODE returns the device identity. -/
  | jtagIdcode (t : Time)
  /-- JTAG_SAMPLE_PRELOAD (R512): The JTAG instruction SAMPLE/PRELOAD captures and preloads boundary cells. -/
  | jtagSamplePreload (t : Time) (pins pre : List Bool)
  /-- JTAG_EXTEST (R512): The JTAG instruction EXTEST drives boundary cells, and acts as BYPASS while RESET_N is high. -/
  | jtagExtest (t : Time)
  /-- ETH_LINK_UP (R330): The link of an Ethernet port comes up, a replaced camera resumes through R317 and R319, and a peer link becomes usable for a gang join. -/
  | ethLinkUp (t : Time) (p : Fin 8)
  /-- MOT_LINK_CHANGE (R377): The link of MOT0 or MOT1 goes up or down, which changes LINK and makes RING read DOWN when neither port has link. -/
  | motLinkChange (t : Time) (m : Fin 2) (up : Bool)
  /-- PCIE_LINK_UP (R456): PCIe link training completes and HIF_LINK.LINK_UP sets with the trained width and speed. -/
  | pcieLinkUp (t : Time) (width speed : Nat)
  /-- PCIE_CONFIG_REQUEST (R483): A configuration request arrives at the endpoint and is answered with Configuration Request Retry Status before LOCKED or FAIL, and served afterwards. -/
  | pcieConfigRequest (t : Time) (wr : Bool) (off : Nat) (be : Fin 16) (w : Word)
  /-- USB_CONNECT_CHANGE (R364): A device attaches to or detaches from a USB port, CONN changes, and the firmware enumerates the device and writes the report map. -/
  | usbConnectChange (t : Time) (p : Fin 2) (speed : Fin 4) (map : List Word)
  /-- USB_OVERCURRENT_RETRY (R505): One second after an overcurrent removed VBUS, the port enables USBn_VBUSEN again. -/
  | usbOvercurrentRetry (t : Time) (p : Fin 2)
  /-- PROOF_TEST_DONE (R428): A channel's proof test ends within 40 ms, PROOF clears, supervision by both channels resumes, and UNSUP_NS stops accumulating. -/
  | proofTestDone (t : Time) (ch : Chan)
  /-- SAFE_INPUT_DEMAND_END (R392): Both channels of a safe input leave their demand level, SAFE_INPUT turns inactive, a pending input fault may clear, and RESET_OK may set. -/
  | safeInputDemandEnd (t : Time) (inp : Fin 8) (ch : Chan) (both : Bool)
  /-- VSTBY_3V3_LOSS (R511): The 3.3 V standby input is lost, every rail falls including VAON, the Hutch stops, and every safe output goes low. -/
  | vstby3v3Loss (t : Time)
  /-- SCAN_LINE_START (R340): At the start of each raster line, the compositor scans out the line from the line buffer, frees the lines passed, sees completed stripes, and at line 0 applies new coefficient tables and takes FLIP_TS. -/
  | scanLineStart (t : Time) (d : Fin 4)
  deriving DecidableEq, Repr

end Sys2Proof
end

