-- ==== Sys2Proof/Machine/Tab.lean ====
section
/-!
DEFINITION. Machine/Tab.lean: sparse tables, byte memories and list helpers.
A table keeps its keys rising; a byte memory (R10, R31) keeps addresses rising and lists no byte equal to
what an unlisted address reads as, so that equal contents are equal data.
-/
namespace Sys2Proof.Machine
open Sys2Proof

/-- The value of key `k`, if the table holds one. -/
def tget? {α : Type} : Tab α → Nat → Option α
  | [], _ => none
  | (a, v) :: r, k => if a = k then some v else tget? r k

/-- The value of key `k`, or the table's default. -/
def tget {α : Type} (d : α) (t : Tab α) (k : Nat) : α := (tget? t k).getD d

/-- Put `v` at key `k`, keeping the keys rising. -/
def tset {α : Type} : Tab α → Nat → α → Tab α
  | [], k, v => [(k, v)]
  | (a, w) :: r, k, v =>
    if k < a then (k, v) :: (a, w) :: r
    else if k = a then (k, v) :: r
    else (a, w) :: tset r k v

/-- Change the value of key `k` by `f`, starting from the default `d`. -/
def tmod {α : Type} (d : α) (t : Tab α) (k : Nat) (f : α → α) : Tab α := tset t k (f (tget d t k))

/-- Remove key `k`. -/
def tdel {α : Type} : Tab α → Nat → Tab α
  | [], _ => []
  | (a, w) :: r, k => if a = k then tdel r k else (a, w) :: tdel r k

/-- Keep the entries whose key meets `p`. -/
def tkeep {α : Type} (p : Nat → Bool) (t : Tab α) : Tab α := t.filter (fun e => p e.1)

/-- Keys strictly rising, all above the bound given. -/
def tsorted {α : Type} : Nat → Tab α → Bool
  | _, [] => true
  | b, (a, _) :: r => decide (b ≤ a) && tsorted (a + 1) r

/-- The naturals from `a`, `n` of them. -/
def rangeFrom (a : Nat) : Nat → List Nat
  | 0 => []
  | n + 1 => a :: rangeFrom (a + 1) n

/-- One byte at address `a`; `d` is what an unlisted address reads as. -/
def mget (d : Byte) : List Host.Cell → Nat → Byte
  | [], _ => d
  | (x, v) :: r, a => if x = a then v else mget d r a

/-- Store one byte, keeping the canonical form. -/
def mset (d : Byte) : List Host.Cell → Nat → Byte → List Host.Cell
  | [], a, v => if v = d then [] else [(a, v)]
  | (x, w) :: r, a, v =>
    if a < x then (if v = d then (x, w) :: r else (a, v) :: (x, w) :: r)
    else if a = x then (if v = d then r else (a, v) :: r)
    else (x, w) :: mset d r a v

/-- The canonical form: addresses strictly rising from `b`, no entry equal to the default. -/
def cellsFrom (d : Byte) : Nat → List Host.Cell → Bool
  | _, [] => true
  | b, (a, v) :: r => decide (b ≤ a) && decide (v ≠ d) && cellsFrom d (a + 1) r

/-- The canonical form of a whole byte memory. -/
def cellsWf (d : Byte) (m : List Host.Cell) : Bool := cellsFrom d 0 m

/-- `n` bytes from address `a`, lowest address first (R10). -/
def mgets (d : Byte) (m : List Host.Cell) (a : Nat) : Nat → List Byte
  | 0 => []
  | n + 1 => mget d m a :: mgets d m (a + 1) n

/-- Store a list of bytes from address `a`. -/
def msets (d : Byte) (m : List Host.Cell) (a : Nat) : List Byte → List Host.Cell
  | [] => m
  | v :: r => msets d (mset d m a v) (a + 1) r

/-- Set `n` bytes from `a` to the default: what a zero fill leaves where the default is zero. -/
def mclear (m : List Host.Cell) (a n : Nat) : List Host.Cell :=
  m.filter (fun c => decide (c.1 < a) || decide (a + n ≤ c.1))

/-- Set each of `n` bytes from `a` to what `f` gives for its address. -/
def mput (d : Byte) (m : List Host.Cell) (a n : Nat) (f : Nat → Byte) : List Host.Cell :=
  m.filter (fun c => decide (c.1 < a)) ++ ((rangeFrom a n).filterMap (fun x => if f x = d then none else some (x, f x)))
    ++ m.filter (fun c => decide (a + n ≤ c.1))

/-- The little-endian value of a list of bytes (R10). -/
def leVal : List Byte → Nat
  | [] => 0
  | b :: r => b.toNat + 256 * leVal r

/-- The `n` little-endian bytes of `v` (R10). -/
def leBytes : Nat → Nat → List Byte
  | 0, _ => []
  | n + 1, v => BitVec.ofNat 8 v :: leBytes n (v / 256)

/-- Element `i` of a list, or a default. -/
def nth {α : Type} (d : α) (l : List α) (i : Nat) : α := (l[i]?).getD d

/-- Replace element `i` of a list (no change beyond its end). -/
def setNth {α : Type} : List α → Nat → α → List α
  | [], _, _ => []
  | _ :: r, 0, v => v :: r
  | x :: r, i + 1, v => x :: setNth r i v

/-- The first element that meets `p`. -/
def firstIdx (p : Nat → Bool) : List Nat → Option Nat
  | [] => none
  | x :: r => if p x then some x else firstIdx p r

end Sys2Proof.Machine
end

