-- ==== Sys2Proof/Machine/Bits.lean ====
section
/-!
DEFINITION. Machine/Bits.lean: bit fields, two's-complement numbers and cyclic codes.
-/
namespace Sys2Proof.Machine
open Sys2Proof

/-- Field of width `w` from bit `lo` of a number (R10). -/
def fieldOf (v lo w : Nat) : Nat := v / 2 ^ lo % 2 ^ w

/-- Bit `i` of a number. -/
def bitOf (v i : Nat) : Bool := v.testBit i

/-- The mask of a field: ones at [lo + w − 1 : lo]. -/
def fieldMask (lo w : Nat) : Nat := (2 ^ w - 1) * 2 ^ lo

/-- A word with the field [lo + w − 1 : lo] replaced by `v` (cut to `w` bits). -/
def putField (x : Word) (lo w v : Nat) : Word :=
  (x &&& ~~~(BitVec.ofNat 32 (fieldMask lo w))) ||| BitVec.ofNat 32 (v % 2 ^ w * 2 ^ lo)

/-- Where the mask has a one the new word, elsewhere the old one. -/
def mergeWord (mask old new : Word) : Word := (old &&& ~~~mask) ||| (new &&& mask)

/-- A number of `w` bits read as two's complement. -/
def sx (w v : Nat) : Int := if v % 2 ^ w < 2 ^ (w - 1) then ((v % 2 ^ w : Nat) : Int) else ((v % 2 ^ w : Nat) : Int) - ((2 ^ w : Nat) : Int)

/-- The `w`-bit two's-complement pattern of an integer. -/
def tc (w : Nat) (i : Int) : Nat := (i % ((2 ^ w : Nat) : Int)).toNat

/-- Clamp an integer to [lo, hi]. -/
def clampInt (lo hi i : Int) : Int := if i < lo then lo else if hi < i then hi else i

/-- Clamp a natural to [lo, hi]. -/
def clampNat (lo hi n : Nat) : Nat := if n < lo then lo else if hi < n then hi else n

/-- The bits of a mask that are set, among the first `n`. -/
def bitsSet (mask n : Nat) : List Nat := (rangeFrom 0 n).filter (fun i => mask.testBit i)

/-- How many of the first `n` bits of a mask are set. -/
def popCount (mask n : Nat) : Nat := (bitsSet mask n).length

/-- A number from octets, most significant first. -/
def beVal (bs : List Byte) : Nat := bs.foldl (fun v b => 256 * v + b.toNat) 0

/-- One bit of a reflected cyclic redundancy code. -/
def crcBit (poly c : Nat) : Nat := if c % 2 = 1 then (c / 2) ^^^ poly else c / 2

/-- One byte of a reflected cyclic redundancy code. -/
def crcByte (poly c : Nat) (b : Byte) : Nat :=
  let f := crcBit poly
  f (f (f (f (f (f (f (f (c ^^^ b.toNat))))))))

/-- The code of a list of bytes, from the state given. -/
def crcBytes (poly c : Nat) : List Byte → Nat
  | [] => c
  | b :: r => crcBytes poly (crcByte poly c b) r

/-- CRC-32C (R324): reflected polynomial 0x82F6_3B78, initial value and final XOR 0xFFFF_FFFF. -/
def crc32c (bs : List Byte) : Nat := crcBytes 0x82F63B78 0xFFFFFFFF bs ^^^ 0xFFFFFFFF

end Sys2Proof.Machine
end

