-- ==== Sys2Proof/Machine/Crypto.lean ====
section
/-!
DEFINITION. Machine/Crypto.lean: the algorithms that the spec names and the standards define: SHA-384 (R460, R462, R465), HMAC-SHA-384 (R492)
and ECDSA on the curve P-384 (R460).  Their constants and steps are those of the standards (PRESUMED, log entry 8).
-/
namespace Sys2Proof.Machine
open Sys2Proof

/-! ## SHA-384 -/

/-- A number as `n` octets, most significant first. -/
def beBytes : Nat → Nat → List Byte
  | 0, _ => []
  | n + 1, v => beBytes n (v / 256) ++ [BitVec.ofNat 8 v]

/-- Rotation of a 64-bit word to the right. -/
def rotr64 (x n : Nat) : Nat := x / 2 ^ n ||| x * 2 ^ (64 - n) % 2 ^ 64
/-- Bitwise complement of a 64-bit word. -/
def not64 (x : Nat) : Nat := 2 ^ 64 - 1 - x

/-- The initial hash value of SHA-384. -/
def shaIv : List Nat :=
  [0xCBBB9D5DC1059ED8, 0x629A292A367CD507, 0x9159015A3070DD17, 0x152FECD8F70E5939,
      0x67332667FFC00B31, 0x8EB44A8768581511, 0xDB0C2E0D64F98FA7, 0x47B5481DBEFA4FA4]

/-- The round constants. -/
def shaK : List Nat :=
  [0x428A2F98D728AE22, 0x7137449123EF65CD, 0xB5C0FBCFEC4D3B2F, 0xE9B5DBA58189DBBC,
      0x3956C25BF348B538, 0x59F111F1B605D019, 0x923F82A4AF194F9B, 0xAB1C5ED5DA6D8118,
      0xD807AA98A3030242, 0x12835B0145706FBE, 0x243185BE4EE4B28C, 0x550C7DC3D5FFB4E2,
      0x72BE5D74F27B896F, 0x80DEB1FE3B1696B1, 0x9BDC06A725C71235, 0xC19BF174CF692694]
    ++ [0xE49B69C19EF14AD2, 0xEFBE4786384F25E3, 0x0FC19DC68B8CD5B5, 0x240CA1CC77AC9C65,
      0x2DE92C6F592B0275, 0x4A7484AA6EA6E483, 0x5CB0A9DCBD41FBD4, 0x76F988DA831153B5,
      0x983E5152EE66DFAB, 0xA831C66D2DB43210, 0xB00327C898FB213F, 0xBF597FC7BEEF0EE4,
      0xC6E00BF33DA88FC2, 0xD5A79147930AA725, 0x06CA6351E003826F, 0x142929670A0E6E70]
    ++ [0x27B70A8546D22FFC, 0x2E1B21385C26C926, 0x4D2C6DFC5AC42AED, 0x53380D139D95B3DF,
      0x650A73548BAF63DE, 0x766A0ABB3C77B2A8, 0x81C2C92E47EDAEE6, 0x92722C851482353B,
      0xA2BFE8A14CF10364, 0xA81A664BBC423001, 0xC24B8B70D0F89791, 0xC76C51A30654BE30,
      0xD192E819D6EF5218, 0xD69906245565A910, 0xF40E35855771202A, 0x106AA07032BBD1B8]
    ++ [0x19A4C116B8D2D0C8, 0x1E376C085141AB53, 0x2748774CDF8EEB99, 0x34B0BCB5E19B48A8,
      0x391C0CB3C5C95A63, 0x4ED8AA4AE3418ACB, 0x5B9CCA4F7763E373, 0x682E6FF3D6B2B8A3,
      0x748F82EE5DEFB2FC, 0x78A5636F43172F60, 0x84C87814A1F0AB72, 0x8CC702081A6439EC,
      0x90BEFFFA23631E28, 0xA4506CEBDE82BDE9, 0xBEF9A3F7B2C67915, 0xC67178F2E372532B]
    ++ [0xCA273ECEEA26619C, 0xD186B8C721C0C207, 0xEADA7DD6CDE0EB1E, 0xF57D4F7FEE6ED178,
      0x06F067AA72176FBA, 0x0A637DC5A2C898A6, 0x113F9804BEF90DAE, 0x1B710B35131C471B,
      0x28DB77F523047D84, 0x32CAAB7B40C72493, 0x3C9EBE0A15C9BEBC, 0x431D67C49C100D4C,
      0x4CC5D4BECB3E42B6, 0x597F299CFC657E2A, 0x5FCB6FAB3AD6FAEC, 0x6C44198C4A475817]

/-- The next word of the message schedule, from the sixteen before it. -/
def shaNext (w : List Nat) : Nat :=
  let x := nth 0 w 14
  let y := nth 0 w 1
  ((rotr64 x 19 ^^^ rotr64 x 61 ^^^ x / 2 ^ 6) + nth 0 w 9 + (rotr64 y 1 ^^^ rotr64 y 8 ^^^ y / 2 ^ 7) + nth 0 w 0) % 2 ^ 64

/-- One round on the eight working words. -/
def shaRound (k w : Nat) (r : List Nat) : List Nat :=
  let a := nth 0 r 0
  let b := nth 0 r 1
  let c := nth 0 r 2
  let e := nth 0 r 4
  let f := nth 0 r 5
  let g := nth 0 r 6
  let t1 := nth 0 r 7 + (rotr64 e 14 ^^^ rotr64 e 18 ^^^ rotr64 e 41) + ((e &&& f) ^^^ (not64 e &&& g)) + k + w
  let t2 := (rotr64 a 28 ^^^ rotr64 a 34 ^^^ rotr64 a 39) + ((a &&& b) ^^^ (a &&& c) ^^^ (b &&& c))
  [(t1 + t2) % 2 ^ 64, a, b, c, (nth 0 r 3 + t1) % 2 ^ 64, e, f, g]

/-- The rounds over a block, with the sixteen words of the schedule in force. -/
def shaRounds : List Nat → List Nat → List Nat → List Nat
  | [], _, r => r
  | k :: ks, w, r => shaRounds ks (w.drop 1 ++ [shaNext w]) (shaRound k (nth 0 w 0) r)

/-- Digest `n` blocks of 128 bytes. -/
def shaBlocks : Nat → List Byte → List Nat → List Nat
  | 0, _, h => h
  | n + 1, bs, h =>
    let w := (rangeFrom 0 16).map (fun i => beVal ((bs.drop (8 * i)).take 8))
    shaBlocks n (bs.drop 128) ((h.zip (shaRounds shaK w h)).map (fun x => (x.1 + x.2) % 2 ^ 64))

/-- The message with its padding. -/
def shaPad (bs : List Byte) : List Byte :=
  bs ++ [0x80] ++ List.replicate ((239 - bs.length % 128) % 128) 0 ++ beBytes 16 (8 * bs.length)

/-- SHA-384 of a byte string. -/
def sha384 (bs : List Byte) : List Byte :=
  let p := shaPad bs
  (((shaBlocks (p.length / 128) p shaIv).take 6).map (beBytes 8)).flatten

/-- HMAC-SHA-384 under a key of at most 128 bytes. -/
def hmac384 (key msg : List Byte) : List Byte :=
  let k := key ++ List.replicate (128 - key.length) 0
  sha384 (k.map (· ^^^ 0x5C) ++ sha384 (k.map (· ^^^ 0x36) ++ msg))

/-! ## ECDSA on P-384 -/

/-- The field prime. -/
def ecP : Nat := 2 ^ 384 - 2 ^ 128 - 2 ^ 96 + 2 ^ 32 - 1
/-- The constant b of the curve y² = x³ − 3x + b. -/
def ecB : Nat := 0xB3312FA7E23EE7E4988E056BE3F82D19181D9C6EFE8141120314088F5013875AC656398D8A2ED19D2A85C8EDD3EC2AEF
/-- The order of the base point. -/
def ecN : Nat := 0xFFFFFFFFFFFFFFFFFFFFFFFFFFFFFFFFFFFFFFFFFFFFFFFFC7634D81F4372DDF581A0DB248B0A77AECEC196ACCC52973
/-- The base point. -/
def ecG : Nat × Nat × Nat :=
  (0xAA87CA22BE8B05378EB1C71EF320AD746E1D3B628BA79B9859F741E082542A385502F25DBF55296C3A545E3872760AB7,
   0x3617DE4A96262C6F5D9E98BF9292DC29F8F41DBD289A147CE9DA3113B5F0B8C00A60B1CE1D7E819D7A431D7C90EA0E5F, 1)

/-- x − y modulo the prime, for reduced x and y. -/
def ecSub (x y : Nat) : Nat := (x + ecP - y) % ecP

/-- Twice a point in Jacobian coordinates (x/z², y/z³); z = 0 is the point at infinity. -/
def ecDouble (a : Nat × Nat × Nat) : Nat × Nat × Nat :=
  let x := a.1
  let y := a.2.1
  let z := a.2.2
  let zz := z * z % ecP
  let yy := y * y % ecP
  let s := 4 * x * yy % ecP
  let m := 3 * (ecSub x zz * ((x + zz) % ecP)) % ecP
  let x3 := ecSub (m * m % ecP) (2 * s % ecP)
  (x3, ecSub (m * ecSub s x3 % ecP) (8 * (yy * yy) % ecP), 2 * y * z % ecP)

/-- The sum of two points. -/
def ecAdd (a b : Nat × Nat × Nat) : Nat × Nat × Nat :=
  if a.2.2 = 0 then b else if b.2.2 = 0 then a else
  let za := a.2.2 * a.2.2 % ecP
  let zb := b.2.2 * b.2.2 % ecP
  let u1 := a.1 * zb % ecP
  let u2 := b.1 * za % ecP
  let s1 := a.2.1 * zb * b.2.2 % ecP
  let s2 := b.2.1 * za * a.2.2 % ecP
  if u1 = u2 then (if s1 = s2 then ecDouble a else (1, 1, 0)) else
  let h := ecSub u2 u1
  let r := ecSub s2 s1
  let hh := h * h % ecP
  let hhh := h * hh % ecP
  let v := u1 * hh % ecP
  let x3 := ecSub (ecSub (r * r % ecP) hhh) (2 * v % ecP)
  (x3, ecSub (r * ecSub v x3 % ecP) (s1 * hhh % ecP), a.2.2 * b.2.2 * h % ecP)

/-- k times a point, from the low bit of k on: `n` bits are left. -/
def ecMulBits (k : Nat) (a acc : Nat × Nat × Nat) : Nat → Nat × Nat × Nat
  | 0 => acc
  | n + 1 => ecMulBits (k / 2) (ecDouble a) (if k % 2 = 1 then ecAdd acc a else acc) n

/-- k times a point, for k below 2³⁸⁴. -/
def ecMul (k : Nat) (a : Nat × Nat × Nat) : Nat × Nat × Nat := ecMulBits k a (1, 1, 0) 384

/-- a^e modulo m, from the low bit of e on: `n` bits are left. -/
def powBits (m : Nat) : Nat → Nat → Nat → Nat → Nat
  | 0, _, _, acc => acc
  | n + 1, a, e, acc => powBits m n (a * a % m) (e / 2) (if e % 2 = 1 then acc * a % m else acc)

/-- The inverse modulo a prime of 384 bits. -/
def invMod (m a : Nat) : Nat := powBits m 384 (a % m) (m - 2) 1

/-- The point that a key encodes, uncompressed; none where it encodes no point of the curve. -/
def ecPoint (key : List Byte) : Option (Nat × Nat × Nat) :=
  let x := beVal ((key.drop 1).take 48)
  let y := beVal ((key.drop 49).take 48)
  if key.length = 97 ∧ key.head? = some 4 ∧ x < ecP ∧ y < ecP ∧ y * y % ecP = ecSub ((x * x * x + ecB) % ecP) (3 * x % ecP) then some (x, y, 1) else none

/-- The ECDSA check of a signature (r, s) over the SHA-384 digest of a message. -/
def ecdsaOk (key msg : List Byte) (r s : Nat) : Bool := match ecPoint key with
  | none => false
  | some q =>
    let w := invMod ecN s
    let e := beVal (sha384 msg)
    let p := ecAdd (ecMul (e * w % ecN) ecG) (ecMul (r * w % ecN) q)
    let zi := invMod ecP p.2.2
    decide (1 ≤ r) && decide (r < ecN) && decide (1 ≤ s) && decide (s < ecN) && decide (p.2.2 ≠ 0) && decide (p.1 * (zi * zi % ecP) % ecP % ecN = r)

end Sys2Proof.Machine
end

