-- ==== Sys2Proof/Machine/RegMap.lean ====
section
/-!
DEFINITION. Machine/RegMap.lean: the management register space (R497) and every field of the register tables of
chapters 02 to 17: bit position, access code (R12) and reset value.  Fused fields, and the identity order of the logical
map at reset, are the values of log entry 2.
-/
namespace Sys2Proof.Machine
open Sys2Proof

/-- Access codes of R12. -/
inductive Access where
  | rw | ro | w1c | wo | rwc | rwl
  deriving DecidableEq, Repr

/-- A field: its name, lowest bit, width, access code and reset value. -/
structure FieldDef where
  name : String
  lo : Nat
  w : Nat
  acc : Access
  rst : Nat
  deriving DecidableEq, Repr

/-- A register or an array of registers: base offset, the counts and strides of the array, the fields. -/
structure RegDef where
  base : Nat
  dims : List (Nat × Nat)
  fields : List FieldDef
  deriving DecidableEq, Repr

/-- Registers of block GLB. -/
def regsGlb : List RegDef := [
  ⟨0x100, [], [⟨"NS_LO", 0, 32, .ro, 0⟩]⟩,
  ⟨0x104, [], [⟨"NS_HI", 0, 32, .ro, 0⟩]⟩,
  ⟨0x108, [], [⟨"EPOCH_LO", 0, 32, .ro, 0⟩]⟩,
  ⟨0x10c, [], [⟨"EPOCH_HI", 0, 32, .ro, 0⟩]⟩,
  ⟨0x110, [], [⟨"ADJ_PPB", 0, 32, .rw, 0⟩]⟩,
  ⟨0x114, [], [⟨"SET_LO", 0, 32, .rwl, 0⟩]⟩,
  ⟨0x118, [], [⟨"SET_HI", 0, 32, .rwl, 0⟩]⟩,
  ⟨0x11c, [], [⟨"LOCKED", 2, 1, .ro, 0⟩, ⟨"SLEW_LIMIT", 1, 1, .w1c, 0⟩, ⟨"SERVO_SEEN", 0, 1, .ro, 0⟩]⟩,
  ⟨0x200, [], [⟨"KEY", 24, 8, .wo, 0⟩, ⟨"MODULE", 2, 1, .wo, 0⟩, ⟨"MGMT", 1, 1, .wo, 0⟩]⟩,
  ⟨0x204, [], [⟨"STANDBY_EXIT", 5, 1, .w1c, 0⟩, ⟨"HUTCH_WDOG", 4, 1, .w1c, 0⟩, ⟨"MGMT", 3, 1, .w1c, 0⟩, ⟨"MODULE_REG", 2, 1, .w1c, 0⟩, ⟨"PIN", 1, 1, .w1c, 0⟩, ⟨"POWER_ON", 0, 1, .w1c, 1⟩]⟩,
  ⟨0x208, [], [⟨"DPO", 8, 4, .rw, 0⟩, ⟨"GRP", 0, 5, .rw, 0⟩]⟩,
  ⟨0x20c, [], [⟨"DISCARD", 0, 32, .wo, 0⟩]⟩,
  ⟨0x210, [], [⟨"PEND", 0, 32, .ro, 0⟩]⟩,
  ⟨0x214, [(4, 0x4)], [⟨"Counters", 0, 32, .ro, 0⟩]⟩,
  ⟨0x230, [], [⟨"FAM1", 16, 16, .ro, 2⟩, ⟨"FAM0", 0, 16, .ro, 6⟩]⟩,
  ⟨0x234, [], [⟨"FAM3", 16, 16, .ro, 2⟩, ⟨"FAM2", 0, 16, .ro, 2⟩]⟩,
  ⟨0x238, [], [⟨"FAM5", 16, 16, .ro, 2⟩, ⟨"FAM4", 0, 16, .ro, 2⟩]⟩,
  ⟨0x23c, [], [⟨"FAM7", 16, 16, .ro, 2⟩, ⟨"FAM6", 0, 16, .ro, 2⟩]⟩,
  ⟨0x240, [], [⟨"HOST", 0, 16, .rw, 0⟩]⟩,
  ⟨0x244, [], [⟨"PEER", 4, 4, .ro, 0⟩, ⟨"MBOX", 0, 4, .ro, 0⟩]⟩,
  ⟨0x0, [], [⟨"DEVICE", 16, 16, .ro, 0x5120⟩, ⟨"GRADE", 8, 8, .ro, 1⟩, ⟨"STEPPING", 0, 8, .ro, 0xa1⟩]⟩,
  ⟨0x4, [], [⟨"LOGICAL", 0, 9, .ro, 0x100⟩]⟩,
  ⟨0x8, [(2, 0x4)], [⟨"SERIAL", 0, 32, .ro, 0⟩]⟩]

/-- Registers of block BUR. -/
def regsBur : List RegDef := [
  ⟨0x10000, [], [⟨"STATE", 30, 2, .ro, 0⟩, ⟨"THERMTRIP_SEEN", 7, 1, .ro, 0⟩, ⟨"RAIL_FAULT", 6, 1, .ro, 0⟩, ⟨"STANDBY_REFUSED", 5, 1, .w1c, 0⟩, ⟨"FLOOR_BREACH", 4, 1, .w1c, 0⟩, ⟨"CAP_ACTIVE", 3, 1, .ro, 0⟩, ⟨"HOLDING", 2, 1, .ro, 0⟩, ⟨"HOT", 1, 1, .ro, 0⟩]⟩,
  ⟨0x10004, [], [⟨"STANDBY", 31, 1, .wo, 0⟩, ⟨"QUIET_EN", 0, 1, .rwc, 0⟩]⟩,
  ⟨0x10008, [], [⟨"PCAP_HARD", 16, 16, .rwl, 0x672⟩, ⟨"PCAP", 0, 16, .rwc, 0x672⟩]⟩,
  ⟨0x1000c, [], [⟨"PIN_PEAK", 16, 16, .rw, 0⟩, ⟨"PIN", 0, 16, .ro, 0⟩]⟩,
  ⟨0x10010, [], [⟨"WAKE_EN", 31, 1, .rw, 0⟩, ⟨"ALARM_EN", 30, 1, .rw, 0⟩, ⟨"WAKE_PORT", 0, 3, .rw, 0⟩]⟩,
  ⟨0x10014, [], [⟨"ALARM_LO", 0, 32, .rw, 0⟩]⟩,
  ⟨0x10018, [], [⟨"ALARM_HI", 0, 32, .rw, 0⟩]⟩,
  ⟨0x1001c, [], [⟨"HOLD_MARGIN", 16, 8, .rwc, 2⟩, ⟨"THROTTLE_MARGIN", 8, 8, .rwc, 5⟩, ⟨"HOLD_MAX", 0, 8, .rwc, 0xc⟩]⟩,
  ⟨0x10020, [(5, 0x4)], [⟨"Counters", 0, 32, .ro, 0⟩]⟩,
  ⟨0x10034, [], [⟨"STATUS_WORD", 16, 16, .ro, 0⟩, ⟨"RAIL", 0, 4, .ro, 0⟩]⟩,
  ⟨0x10100, [(4, 0x10)], [⟨"VMIN", 16, 16, .rwc, 0x258⟩, ⟨"VTARGET", 0, 16, .rwc, 0x2ee⟩]⟩,
  ⟨0x10104, [(4, 0x10)], [⟨"VMEAS", 16, 16, .ro, 0⟩, ⟨"VSET", 0, 16, .ro, 0⟩]⟩,
  ⟨0x10108, [(4, 0x10)], [⟨"VDOWN_COUNT", 0, 32, .ro, 0⟩]⟩,
  ⟨0x10140, [(8, 0x4)], [⟨"PG", 31, 1, .ro, 0⟩, ⟨"VMEAS", 0, 16, .ro, 0⟩]⟩,
  ⟨0x10200, [(16, 0x10)], [⟨"TJ_LIMIT", 16, 8, .rwl, 0x69⟩, ⟨"ADM_TEMP", 8, 8, .rwc, 0x69⟩]⟩,
  ⟨0x10204, [(16, 0x10)], [⟨"ADM_FLOOR", 16, 16, .ro, 0x384⟩, ⟨"RATE", 0, 16, .ro, 0⟩]⟩,
  ⟨0x10208, [(16, 0x10)], [⟨"TJ", 16, 16, .ro, 0⟩, ⟨"HOLD", 12, 4, .ro, 0⟩, ⟨"BANK_GATE_EN", 11, 1, .rw, 0⟩, ⟨"GATE", 0, 2, .ro, 0⟩]⟩,
  ⟨0x1020c, [(16, 0x10)], [⟨"HOLD_NS", 0, 32, .ro, 0⟩]⟩,
  ⟨0x10400, [(48, 0x4)], [⟨"VALUE", 0, 16, .ro, 0⟩]⟩]

/-- Registers of block HUT, part 0. -/
def regsHut0 : List RegDef := [
  ⟨0x20000, [], [⟨"SUPERVISING", 31, 1, .ro, 0⟩, ⟨"CH_A_RUN", 30, 1, .ro, 0⟩, ⟨"CH_B_RUN", 29, 1, .ro, 0⟩, ⟨"FALLBACK", 28, 1, .ro, 0⟩, ⟨"PROOF", 27, 1, .ro, 0⟩, ⟨"LAST_EVT", 0, 16, .ro, 0⟩]⟩,
  ⟨0x20004, [], [⟨"WDOG_EPOCHS", 24, 8, .rwl, 0x14⟩, ⟨"A_LIMIT_MS", 0, 16, .rwl, 0x5dc⟩]⟩,
  ⟨0x20008, [], [⟨"FB_PARTS", 16, 16, .rwl, 0⟩, ⟨"RDY_TOK", 8, 6, .rwl, 0⟩, ⟨"FB_TOK", 0, 6, .rwl, 0⟩]⟩,
  ⟨0x2000c, [], [⟨"STATUS_LO", 5, 27, .rwl, 0⟩]⟩,
  ⟨0x20010, [], [⟨"STATUS_HI", 0, 16, .rwl, 0⟩]⟩,
  ⟨0x20014, [], [⟨"ZRING0_LO", 5, 27, .rwl, 0⟩]⟩,
  ⟨0x20018, [], [⟨"LOG2_LEN0", 24, 4, .rwl, 6⟩, ⟨"ZTOK0", 16, 6, .rwl, 0⟩, ⟨"ZRING0_HI", 0, 16, .rwl, 0⟩]⟩,
  ⟨0x2001c, [], [⟨"PROOF_OFFSET_S", 0, 32, .rwl, 0x2a30⟩]⟩,
  ⟨0x20020, [], [⟨"MIN_GAP_US", 0, 20, .rwl, 0xc350⟩]⟩,
  ⟨0x20024, [], [⟨"ZRING1_LO", 5, 27, .rwl, 0⟩]⟩,
  ⟨0x20028, [], [⟨"LOG2_LEN1", 24, 4, .rwl, 6⟩, ⟨"ZTOK1", 16, 6, .rwl, 0⟩, ⟨"ZRING1_HI", 0, 16, .rwl, 0⟩]⟩,
  ⟨0x20040, [(11, 0x4)], [⟨"Counters", 0, 32, .ro, 0⟩]⟩,
  ⟨0x2006c, [], [⟨"UNSUP_NS_LO", 0, 32, .ro, 0⟩]⟩,
  ⟨0x20070, [], [⟨"UNSUP_NS_HI", 0, 32, .ro, 0⟩]⟩,
  ⟨0x20100, [(16, 0x20)], [⟨"EN", 31, 1, .rwl, 0⟩, ⟨"PORT", 30, 1, .rwl, 0⟩, ⟨"STREAM", 16, 9, .rwl, 0⟩, ⟨"PRESENT_CAP", 0, 16, .rwl, 0⟩]⟩,
  ⟨0x20104, [(16, 0x20)], [⟨"CROP_Y", 16, 16, .rwl, 0⟩, ⟨"CROP_X", 0, 16, .rwl, 0⟩]⟩,
  ⟨0x20108, [(16, 0x20)], [⟨"CROP_H", 16, 16, .rwl, 0⟩, ⟨"CROP_W", 0, 16, .rwl, 0⟩]⟩,
  ⟨0x2010c, [(16, 0x20)], [⟨"AGE_LIMIT_MS", 16, 16, .rwl, 0x64⟩, ⟨"CMP_BUDGET", 0, 16, .rwl, 0x1f40⟩]⟩,
  ⟨0x20110, [(16, 0x20)], [⟨"HUT_INVALID", 1, 1, .ro, 1⟩, ⟨"CHK_PRESENT", 0, 1, .ro, 0⟩]⟩,
  ⟨0x20114, [(16, 0x20)], [⟨"LAST_FRAME", 0, 32, .ro, 0⟩]⟩,
  ⟨0x20118, [(16, 0x20)], [⟨"DIS_IN_WINDOW", 0, 2, .ro, 0⟩]⟩,
  ⟨0x2011c, [(16, 0x20)], [⟨"DISAGREE_Z", 0, 32, .ro, 0⟩]⟩,
  ⟨0x20300, [(16, 0x4)], [⟨"GF_EPOCHS", 0, 7, .rwl, 0xd⟩]⟩,
  ⟨0x20400, [(8, 0x4)], [⟨"HUT_UNVERIFIED", 0, 32, .ro, 0⟩]⟩]

/-- Registers of block HUT, part 1. -/
def regsHut1 : List RegDef := [
  ⟨0x20420, [], [⟨"CHECKER", 16, 1, .ro, 0⟩, ⟨"FOOTSTOOL", 0, 16, .ro, 0⟩]⟩,
  ⟨0x20800, [(4, 0x4)], [⟨"MB_DATAw", 0, 32, .rw, 0⟩]⟩,
  ⟨0x20810, [], [⟨"GO", 31, 1, .wo, 0⟩, ⟨"BUSY", 30, 1, .ro, 0⟩, ⟨"RESULT", 16, 8, .ro, 0⟩]⟩]

/-- Registers of block HUT. -/
def regsHut : List RegDef := regsHut0 ++ regsHut1

/-- Registers of block BOOT. -/
def regsBoot : List RegDef := [
  ⟨0x30000, [], [⟨"PHASE", 28, 4, .ro, 0⟩, ⟨"LOCK", 27, 1, .ro, 0⟩, ⟨"COPY", 26, 1, .ro, 0⟩, ⟨"A_REJECTED", 25, 1, .ro, 0⟩, ⟨"B_REJECTED", 24, 1, .ro, 0⟩, ⟨"LAST_ERR", 0, 16, .ro, 0⟩]⟩,
  ⟨0x30004, [], [⟨"FUSED_SVN", 16, 7, .ro, 0⟩, ⟨"IMAGE_SVN", 0, 7, .ro, 0⟩]⟩,
  ⟨0x30008, [], [⟨"BUILD_LO", 0, 32, .ro, 0⟩]⟩,
  ⟨0x3000c, [], [⟨"BUILD_HI", 0, 32, .ro, 0⟩]⟩,
  ⟨0x30010, [], [⟨"BOOT_TIME_MS", 0, 32, .ro, 0⟩]⟩,
  ⟨0x30014, [], [⟨"REC_SKIP", 0, 32, .ro, 0⟩]⟩,
  ⟨0x30018, [], [⟨"POLICY_FAULT_COUNT", 0, 32, .ro, 0⟩]⟩,
  ⟨0x30020, [], [⟨"GO", 31, 1, .wo, 0⟩, ⟨"BUSY", 30, 1, .ro, 0⟩, ⟨"LEN", 0, 25, .rw, 0⟩]⟩,
  ⟨0x30100, [(32, 0x4)], [⟨"STATE", 30, 2, .ro, 0⟩, ⟨"PART", 16, 4, .ro, 0⟩, ⟨"CODE", 0, 16, .ro, 0⟩]⟩]

/-- Registers of block SCH, part 0. -/
def regsSch0 : List RegDef := [
  ⟨0x40000, [], [⟨"SKEW_HIGH", 9, 1, .ro, 0⟩, ⟨"NO_ECC", 8, 1, .ro, 0⟩, ⟨"GANG_CHANGE", 7, 1, .w1c, 0⟩, ⟨"WCTR_CONFLICT", 6, 1, .w1c, 0⟩, ⟨"WIN_CONFLICT", 5, 1, .w1c, 0⟩, ⟨"SHARE_CONFLICT", 4, 1, .w1c, 0⟩, ⟨"CORE_CONFLICT", 3, 1, .w1c, 0⟩, ⟨"CFG_CONFLICT", 2, 1, .w1c, 0⟩]⟩,
  ⟨0x40004, [], [⟨"SCH_COMMIT_EPOCH", 0, 32, .ro, 0⟩]⟩,
  ⟨0x40008, [], [⟨"IN_SERVICE", 16, 8, .ro, 0⟩, ⟨"SIZE", 8, 4, .rwl, 1⟩, ⟨"MEMBER", 0, 3, .rwl, 0⟩]⟩,
  ⟨0x4000c, [], [⟨"SCH_GANG_SKEW", 0, 32, .ro, 0⟩]⟩,
  ⟨0x40010, [], [⟨"PART", 28, 4, .wo, 0⟩, ⟨"TOKEN", 22, 6, .wo, 0⟩, ⟨"VALUE", 0, 22, .wo, 0⟩]⟩,
  ⟨0x41000, [(16, 0x100)], [⟨"EN", 31, 1, .rwc, 0⟩, ⟨"RESET", 30, 1, .rwc, 0⟩, ⟨"STATE", 16, 2, .ro, 0⟩, ⟨"CLASS", 0, 2, .rwc, 3⟩]⟩,
  ⟨0x41004, [(16, 0x100), (8, 0x4)], [⟨"MASK", 0, 32, .rwc, 0⟩]⟩,
  ⟨0x41024, [(16, 0x100)], [⟨"FAB", 8, 7, .rwc, 0⟩, ⟨"MEM", 0, 7, .rwc, 0⟩]⟩,
  ⟨0x41028, [(16, 0x100)], [⟨"GRP0", 0, 4, .rwc, 0⟩, ⟨"GRP1", 4, 4, .rwc, 0⟩, ⟨"GRP2", 8, 4, .rwc, 0⟩, ⟨"GRP3", 12, 4, .rwc, 0⟩, ⟨"GRP4", 16, 4, .rwc, 0⟩, ⟨"GRP5", 20, 4, .rwc, 0⟩, ⟨"GRP6", 24, 4, .rwc, 0⟩, ⟨"GRP7", 28, 4, .rwc, 0⟩]⟩,
  ⟨0x4102c, [(16, 0x100)], [⟨"GRP8", 0, 4, .rwc, 0⟩, ⟨"GRP9", 4, 4, .rwc, 0⟩, ⟨"GRP10", 8, 4, .rwc, 0⟩, ⟨"GRP11", 12, 4, .rwc, 0⟩, ⟨"GRP12", 16, 4, .rwc, 0⟩, ⟨"GRP13", 20, 4, .rwc, 0⟩, ⟨"GRP14", 24, 4, .rwc, 0⟩, ⟨"GRP15", 28, 4, .rwc, 0⟩]⟩,
  ⟨0x41030, [(16, 0x100)], [⟨"LEN", 7, 7, .rwc, 0⟩, ⟨"BASE", 0, 6, .rwc, 0⟩]⟩,
  ⟨0x41034, [(16, 0x100)], [⟨"HANDOVER", 16, 9, .ro, 0⟩, ⟨"CORES", 0, 9, .ro, 0⟩]⟩,
  ⟨0x41038, [(16, 0x100)], [⟨"NONDET_COUNT", 0, 32, .ro, 0⟩]⟩,
  ⟨0x4103c, [(16, 0x100)], [⟨"FENCE_COUNT", 0, 32, .ro, 0⟩]⟩,
  ⟨0x41040, [(16, 0x100), (8, 0x8)], [⟨"EN", 31, 1, .rwc, 0⟩, ⟨"RD", 30, 1, .rwc, 0⟩, ⟨"WR", 29, 1, .rwc, 0⟩, ⟨"CACHED", 28, 1, .rwc, 0⟩, ⟨"BASE", 0, 21, .rwc, 0⟩]⟩,
  ⟨0x41044, [(16, 0x100), (8, 0x8)], [⟨"LEN", 0, 21, .rwc, 0⟩]⟩,
  ⟨0x41080, [(16, 0x100)], [⟨"PREEMPT_COUNT", 0, 32, .ro, 0⟩]⟩,
  ⟨0x41084, [(16, 0x100)], [⟨"BIND_WAIT_COUNT", 0, 32, .ro, 0⟩]⟩,
  ⟨0x41088, [(16, 0x100)], [⟨"AFF_FALLBACK_COUNT", 0, 32, .ro, 0⟩]⟩,
  ⟨0x4108c, [(16, 0x100)], [⟨"FENCE_LAST_LO", 0, 32, .ro, 0⟩]⟩,
  ⟨0x41090, [(16, 0x100)], [⟨"FENCE_LAST_HI", 0, 16, .ro, 0⟩]⟩,
  ⟨0x44000, [(16, 0x400), (64, 0x10)], [⟨"ADDR_LO", 7, 25, .rw, 0⟩]⟩,
  ⟨0x44004, [(16, 0x400), (64, 0x10)], [⟨"ADDR_HI", 0, 16, .rw, 0⟩]⟩,
  ⟨0x44008, [(16, 0x400), (64, 0x10)], [⟨"CMD", 0, 2, .rwc, 0⟩]⟩]

/-- Registers of block SCH, part 1. -/
def regsSch1 : List RegDef := [
  ⟨0x4400c, [(16, 0x400), (64, 0x10)], [⟨"FAULT", 16, 16, .ro, 0⟩, ⟨"STOP_PEND", 7, 1, .ro, 0⟩, ⟨"GROUP", 3, 4, .ro, 0⟩, ⟨"STATE", 0, 3, .ro, 0⟩]⟩,
  ⟨0x48000, [(16, 0x800), (64, 0x20)], [⟨"JOB_COUNT", 0, 32, .ro, 0⟩]⟩,
  ⟨0x48004, [(16, 0x800), (64, 0x20)], [⟨"WALL_NS", 0, 32, .ro, 0⟩]⟩,
  ⟨0x48008, [(16, 0x800), (64, 0x20)], [⟨"RUN_NS", 0, 32, .ro, 0⟩]⟩,
  ⟨0x4800c, [(16, 0x800), (64, 0x20)], [⟨"STALL_C_NS", 0, 32, .ro, 0⟩]⟩,
  ⟨0x48010, [(16, 0x800), (64, 0x20)], [⟨"TOKEN_NS", 0, 32, .ro, 0⟩]⟩,
  ⟨0x48014, [(16, 0x800), (64, 0x20)], [⟨"STEPS", 0, 32, .ro, 0⟩]⟩,
  ⟨0x48018, [(16, 0x800), (64, 0x20)], [⟨"MAX_SLOWDOWN", 16, 16, .ro, 0⟩, ⟨"SLOWDOWN", 0, 16, .ro, 0⟩]⟩,
  ⟨0x43000, [(16, 0x20)], [⟨"SEED_LO", 0, 32, .rwc, 0⟩]⟩,
  ⟨0x43004, [(16, 0x20)], [⟨"SEED_HI", 0, 32, .rwc, 0⟩]⟩,
  ⟨0x43008, [(16, 0x20)], [⟨"LAUNCH_LO", 0, 32, .rwc, 0⟩]⟩,
  ⟨0x4300c, [(16, 0x20)], [⟨"LAUNCH_HI", 0, 32, .rwc, 0⟩]⟩,
  ⟨0x43010, [(16, 0x20)], [⟨"LAUNCH_PEND", 0, 1, .ro, 0⟩]⟩,
  ⟨0x42000, [(16, 0x100), (64, 0x4)], [⟨"TOKEN", 0, 32, .ro, 0⟩]⟩]

/-- Registers of block SCH. -/
def regsSch : List RegDef := regsSch0 ++ regsSch1

/-- Registers of block KVP, part 0. -/
def regsKvp0 : List RegDef := [
  ⟨0x50000, [], [⟨"POOL_BASE_LO", 14, 18, .rwl, 0⟩]⟩,
  ⟨0x50004, [], [⟨"POOL_BASE_HI", 0, 16, .rwl, 0⟩]⟩,
  ⟨0x50008, [], [⟨"POOL_PAGES", 0, 20, .rwl, 0⟩]⟩,
  ⟨0x5000c, [], [⟨"META_BASE_LO", 16, 16, .rwl, 0⟩]⟩,
  ⟨0x50010, [], [⟨"META_BASE_HI", 0, 16, .rwl, 0⟩]⟩,
  ⟨0x50014, [], [⟨"TREE_NODES", 0, 17, .rwl, 0⟩]⟩,
  ⟨0x50018, [], [⟨"LIMIT_CONFLICT", 1, 1, .w1c, 0⟩, ⟨"READY", 0, 1, .ro, 0⟩]⟩,
  ⟨0x5001c, [], [⟨"FREE_PAGES", 0, 20, .ro, 0⟩]⟩,
  ⟨0x50020, [], [⟨"DRAINING_PAGES", 0, 20, .ro, 0⟩]⟩,
  ⟨0x50024, [], [⟨"KV_COW_COUNT", 0, 32, .ro, 0⟩]⟩,
  ⟨0x50028, [], [⟨"KV_SAT_COUNT", 0, 32, .ro, 0⟩]⟩,
  ⟨0x5002c, [], [⟨"KV_TREE_HIT_COUNT", 0, 32, .ro, 0⟩]⟩,
  ⟨0x50030, [], [⟨"KV_HASH_COLLIDE", 0, 32, .ro, 0⟩]⟩,
  ⟨0x50034, [], [⟨"KV_TREE_FULL", 0, 32, .ro, 0⟩]⟩,
  ⟨0x50038, [], [⟨"KV_HOT_OVERFLOW", 0, 32, .ro, 0⟩]⟩,
  ⟨0x50100, [(16, 0x40)], [⟨"RING_LO", 6, 26, .rwc, 0⟩]⟩,
  ⟨0x50104, [(16, 0x40)], [⟨"RING_HI", 0, 16, .rwc, 0⟩]⟩,
  ⟨0x50108, [(16, 0x40)], [⟨"LOG2_LEN", 24, 4, .rwc, 4⟩, ⟨"EN", 23, 1, .rwc, 0⟩, ⟨"DTOK", 8, 6, .rwc, 0⟩, ⟨"BTOK", 0, 6, .rwc, 0⟩]⟩,
  ⟨0x5010c, [(16, 0x40)], [⟨"RING_HEAD", 0, 12, .ro, 0⟩]⟩,
  ⟨0x50110, [(16, 0x40)], [⟨"PART_LIMIT", 0, 20, .rwc, 0⟩]⟩,
  ⟨0x50114, [(16, 0x40)], [⟨"PART_HELD", 0, 20, .ro, 0⟩]⟩,
  ⟨0x50118, [(16, 0x40)], [⟨"KV_DEFER_COUNT", 0, 32, .ro, 0⟩]⟩,
  ⟨0x5011c, [(16, 0x40)], [⟨"EMPTY_ROW", 0, 1, .w1c, 0⟩]⟩,
  ⟨0x50120, [(16, 0x40)], [⟨"EMPTY_ROW_COUNT", 0, 32, .ro, 0⟩]⟩]

/-- Registers of block KVP, part 1. -/
def regsKvp1 : List RegDef := [
  ⟨0x50124, [(16, 0x40)], [⟨"SEQ_ACTIVE", 0, 12, .ro, 0⟩]⟩,
  ⟨0x50128, [(16, 0x40)], [⟨"HOT_LEN", 8, 9, .rwc, 0⟩, ⟨"HOT_BASE", 0, 8, .rwc, 0⟩]⟩]

/-- Registers of block KVP. -/
def regsKvp : List RegDef := regsKvp0 ++ regsKvp1

/-- Registers of block SHC. -/
def regsShc : List RegDef := [
  ⟨0x60000, [(16, 0x800)], [⟨"BYPASS", 7, 1, .ro, 0⟩, ⟨"WAY_CONFLICT", 6, 1, .w1c, 0⟩]⟩,
  ⟨0x60004, [(16, 0x800)], [⟨"ECC_CORR_COUNT", 0, 32, .ro, 0⟩]⟩,
  ⟨0x60008, [(16, 0x800)], [⟨"SHC_UNCORR_COUNT", 0, 32, .ro, 0⟩]⟩,
  ⟨0x6000c, [(16, 0x800)], [⟨"SHC_LINE_RETIRED", 0, 7, .ro, 0⟩]⟩,
  ⟨0x60010, [(16, 0x800)], [⟨"DUP_CLAIM_COUNT", 0, 32, .ro, 0⟩]⟩,
  ⟨0x60040, [(16, 0x800), (8, 0x4)], [⟨"WAYS_ODD", 16, 16, .rwc, 0⟩, ⟨"WAYS_EVEN", 0, 16, .rwc, 0⟩]⟩,
  ⟨0x60400, [(16, 0x800), (64, 0x10)], [⟨"STATE", 30, 2, .ro, 0⟩, ⟨"CLEAR", 29, 1, .wo, 0⟩, ⟨"PARTICIPANTS", 0, 8, .ro, 0⟩]⟩,
  ⟨0x60404, [(16, 0x800), (64, 0x10)], [⟨"TAG", 0, 32, .ro, 0⟩]⟩,
  ⟨0x60408, [(16, 0x800), (64, 0x10)], [⟨"LIMIT", 16, 16, .ro, 0⟩, ⟨"NEXT", 0, 16, .ro, 0⟩]⟩,
  ⟨0x6040c, [(16, 0x800), (64, 0x10)], [⟨"DUP", 16, 16, .ro, 0⟩, ⟨"DONE", 0, 16, .ro, 0⟩]⟩,
  ⟨0x68000, [], [⟨"BUSY", 31, 1, .ro, 0⟩, ⟨"PART", 0, 4, .wo, 0⟩]⟩]

/-- Registers of block DMA. -/
def regsDma : List RegDef := [
  ⟨0x80000, [(22, 0x100)], [⟨"QUEUED", 16, 8, .ro, 0⟩, ⟨"BUSY", 0, 4, .ro, 0⟩]⟩,
  ⟨0x80004, [(22, 0x100)], [⟨"DESC_DONE", 0, 32, .ro, 0⟩]⟩,
  ⟨0x80008, [(22, 0x100)], [⟨"BYTES_LO", 0, 32, .ro, 0⟩]⟩,
  ⟨0x8000c, [(22, 0x100)], [⟨"BYTES_HI", 0, 32, .ro, 0⟩]⟩,
  ⟨0x80010, [(22, 0x100)], [⟨"VALID", 31, 1, .w1c, 0⟩, ⟨"PART", 16, 4, .ro, 0⟩, ⟨"CODE", 0, 16, .ro, 0⟩]⟩,
  ⟨0x80014, [(22, 0x100)], [⟨"BURST_COUNT", 0, 32, .ro, 0⟩]⟩]

/-- Registers of block TC, part 0. -/
def regsTc0 : List RegDef := [
  ⟨0x100000, [(256, 0x1000)], [⟨"CLUSTER", 20, 4, .ro, 0⟩, ⟨"PHYS", 8, 9, .ro, 0⟩, ⟨"LOGICAL", 0, 8, .ro, 0⟩]⟩,
  ⟨0x100004, [(256, 0x1000)], [⟨"PART", 16, 4, .ro, 0⟩, ⟨"PART_VALID", 15, 1, .ro, 0⟩, ⟨"RUN_SLOT", 12, 3, .ro, 0⟩, ⟨"STATE", 8, 3, .ro, 0⟩, ⟨"RESIDENT", 0, 8, .ro, 0⟩]⟩,
  ⟨0x100008, [(256, 0x1000)], [⟨"VALID", 31, 1, .w1c, 0⟩, ⟨"SLOT", 24, 3, .ro, 0⟩, ⟨"CONTEXT", 16, 6, .ro, 0⟩, ⟨"CODE", 0, 16, .ro, 0⟩]⟩,
  ⟨0x10000c, [(256, 0x1000)], [⟨"CORE_RESET", 31, 1, .wo, 0⟩, ⟨"QUIESCE", 0, 1, .rw, 0⟩]⟩,
  ⟨0x100010, [(256, 0x1000)], [⟨"ACC_PAR_COUNT", 0, 32, .ro, 0⟩]⟩,
  ⟨0x100014, [(256, 0x1000)], [⟨"ACC_RECOMPUTE_COUNT", 0, 32, .ro, 0⟩]⟩,
  ⟨0x100018, [(256, 0x1000)], [⟨"ACC_LIVE", 0, 32, .ro, 0⟩]⟩,
  ⟨0x100100, [(256, 0x1000), (8, 0x40)], [⟨"VALID", 31, 1, .ro, 0⟩, ⟨"DET", 30, 1, .ro, 0⟩, ⟨"CONTEXT", 4, 6, .ro, 0⟩, ⟨"PART", 0, 4, .ro, 0⟩]⟩,
  ⟨0x100104, [(256, 0x1000), (8, 0x40)], [⟨"STEP_LO", 0, 32, .ro, 0⟩]⟩,
  ⟨0x100108, [(256, 0x1000), (8, 0x40)], [⟨"STEP_HI", 0, 32, .ro, 0⟩]⟩,
  ⟨0x10010c, [(256, 0x1000), (8, 0x40)], [⟨"STALL_LO", 0, 32, .ro, 0⟩]⟩,
  ⟨0x100110, [(256, 0x1000), (8, 0x40)], [⟨"STALL_HI", 0, 32, .ro, 0⟩]⟩,
  ⟨0x100114, [(256, 0x1000), (8, 0x40)], [⟨"SCALE_LEN", 16, 11, .ro, 0⟩, ⟨"SCALE_BASE", 0, 10, .ro, 0⟩]⟩,
  ⟨0x100118, [(256, 0x1000), (8, 0x40)], [⟨"TAB_MASK", 0, 4, .ro, 0⟩]⟩,
  ⟨0x10011c, [(256, 0x1000), (8, 0x40)], [⟨"TILES", 8, 6, .ro, 0⟩, ⟨"DRAWER", 0, 8, .ro, 0⟩]⟩,
  ⟨0x100300, [(256, 0x1000), (8, 0x80), (16, 0x4)], [⟨"BOUNDn", 0, 32, .ro, 0⟩]⟩,
  ⟨0x100340, [(256, 0x1000), (8, 0x80), (16, 0x4)], [⟨"PMASKn", 0, 32, .ro, 0xffffffff⟩]⟩,
  ⟨0x100800, [(256, 0x1000)], [⟨"ENTRY3", 24, 5, .ro, 3⟩, ⟨"ENTRY2", 16, 5, .ro, 2⟩, ⟨"ENTRY1", 8, 5, .ro, 1⟩, ⟨"ENTRY0", 0, 5, .ro, 0⟩]⟩,
  ⟨0x100804, [(256, 0x1000)], [⟨"ENTRY3", 24, 5, .ro, 7⟩, ⟨"ENTRY2", 16, 5, .ro, 6⟩, ⟨"ENTRY1", 8, 5, .ro, 5⟩, ⟨"ENTRY0", 0, 5, .ro, 4⟩]⟩,
  ⟨0x100808, [(256, 0x1000)], [⟨"ENTRY3", 24, 5, .ro, 11⟩, ⟨"ENTRY2", 16, 5, .ro, 10⟩, ⟨"ENTRY1", 8, 5, .ro, 9⟩, ⟨"ENTRY0", 0, 5, .ro, 8⟩]⟩,
  ⟨0x10080c, [(256, 0x1000)], [⟨"ENTRY3", 24, 5, .ro, 15⟩, ⟨"ENTRY2", 16, 5, .ro, 14⟩, ⟨"ENTRY1", 8, 5, .ro, 13⟩, ⟨"ENTRY0", 0, 5, .ro, 12⟩]⟩,
  ⟨0x100810, [(256, 0x1000)], [⟨"STATE", 8, 2, .ro, 0⟩, ⟨"SPARE_IDX", 0, 5, .ro, 0x10⟩]⟩,
  ⟨0x100814, [(256, 0x1000)], [⟨"MASK", 0, 17, .ro, 0⟩]⟩,
  ⟨0x100818, [(256, 0x1000)], [⟨"CONFIRM", 31, 1, .wo, 0⟩, ⟨"LOGICAL_IN_CL", 0, 4, .wo, 0⟩]⟩]

/-- Registers of block TC, part 1. -/
def regsTc1 : List RegDef := [
  ⟨0x10081c, [(256, 0x1000)], [⟨"REQ_LIMIT", 16, 12, .rwc, 0x40⟩]⟩,
  ⟨0x100820, [(256, 0x1000)], [⟨"FS_STATE", 0, 2, .ro, 0⟩]⟩,
  ⟨0x100824, [(256, 0x1000)], [⟨"FS_STEP_LO", 0, 32, .ro, 0⟩]⟩,
  ⟨0x100828, [(256, 0x1000)], [⟨"FS_STEP_HI", 0, 32, .ro, 0⟩]⟩,
  ⟨0x10082c, [(256, 0x1000)], [⟨"FS_PARITY_COUNT", 0, 32, .ro, 0⟩]⟩,
  ⟨0x100830, [(256, 0x1000)], [⟨"FS_CHUNK_COUNT", 0, 32, .ro, 0⟩]⟩,
  ⟨0x100040, [(256, 0x1000)], [⟨"BANK_STATE", 0, 32, .ro, 0⟩]⟩,
  ⟨0x100044, [(256, 0x1000)], [⟨"LAND_FREE", 16, 9, .ro, 0x20⟩, ⟨"LAND_DRAWERS", 0, 9, .rwc, 0x20⟩]⟩,
  ⟨0x100048, [(256, 0x1000)], [⟨"SPAD_PAR_COUNT", 0, 32, .ro, 0⟩]⟩,
  ⟨0x10004c, [(256, 0x1000)], [⟨"SPAD_REFETCH_COUNT", 0, 32, .ro, 0⟩]⟩,
  ⟨0x100050, [(256, 0x1000)], [⟨"ROW_SPARE_COUNT", 0, 32, .ro, 0⟩]⟩,
  ⟨0x100054, [(256, 0x1000)], [⟨"BANK", 16, 4, .rw, 0⟩, ⟨"LEFT", 0, 6, .ro, 0x20⟩]⟩,
  ⟨0x100058, [(256, 0x1000)], [⟨"LATE_WRITE_WAKE", 0, 32, .ro, 0⟩]⟩,
  ⟨0x10005c, [(256, 0x1000)], [⟨"GATED_READ_COUNT", 0, 32, .ro, 0⟩]⟩,
  ⟨0x100060, [(256, 0x1000)], [⟨"GATE_ABORT_COUNT", 0, 32, .ro, 0⟩]⟩,
  ⟨0x100064, [(256, 0x1000)], [⟨"MCAST_REFETCH_COUNT", 0, 32, .ro, 0⟩]⟩,
  ⟨0x100068, [(256, 0x1000)], [⟨"HALO_REFETCH_COUNT", 0, 32, .ro, 0⟩]⟩,
  ⟨0x100080, [(256, 0x1000)], [⟨"BRK_LO", 0, 32, .rw, 0⟩]⟩,
  ⟨0x100084, [(256, 0x1000)], [⟨"BRK_HI", 0, 32, .rw, 0⟩]⟩,
  ⟨0x100088, [(256, 0x1000)], [⟨"RESUME", 31, 1, .wo, 0⟩, ⟨"SLOT", 8, 3, .rw, 0⟩, ⟨"HIT", 1, 1, .ro, 0⟩, ⟨"EN", 0, 1, .rw, 0⟩]⟩]

/-- Registers of block TC. -/
def regsTc : List RegDef := regsTc0 ++ regsTc1

/-- Registers of block ING, part 0. -/
def regsIng0 : List RegDef := [
  ⟨0x200000, [(8, 0x100)], [⟨"MODE", 30, 2, .rwl, 0⟩, ⟨"SPEED", 29, 1, .rwl, 0⟩, ⟨"FEC", 27, 2, .rwl, 2⟩, ⟨"VLAN_EN", 12, 1, .rwl, 0⟩, ⟨"VLAN_ID", 0, 12, .rwl, 0⟩]⟩,
  ⟨0x200004, [(8, 0x100)], [⟨"MAC_LO", 0, 32, .rwl, 0⟩]⟩,
  ⟨0x200008, [(8, 0x100)], [⟨"MAC_HI", 0, 16, .rwl, 0⟩]⟩,
  ⟨0x20000c, [(8, 0x100)], [⟨"IPV4", 0, 32, .rwl, 0⟩]⟩,
  ⟨0x200010, [(8, 0x100), (4, 0x4)], [⟨"IPV6i", 0, 32, .rwl, 0⟩]⟩,
  ⟨0x200020, [(8, 0x100)], [⟨"LINK", 0, 1, .ro, 0⟩]⟩,
  ⟨0x200024, [(8, 0x100), (8, 0x4)], [⟨"Counters", 0, 32, .ro, 0⟩]⟩,
  ⟨0x200800, [], [⟨"EN", 31, 1, .rwl, 0⟩, ⟨"TRANSPORT", 30, 1, .rwl, 0⟩, ⟨"PORT", 27, 3, .rwl, 0⟩, ⟨"DOMAIN", 0, 8, .rwl, 0⟩]⟩,
  ⟨0x200804, [], [⟨"KI", 16, 16, .rw, 0x40⟩, ⟨"KP", 0, 16, .rw, 0x80⟩]⟩,
  ⟨0x200808, [], [⟨"LOCK_NS", 0, 32, .rw, 0x3e8⟩]⟩,
  ⟨0x20080c, [], [⟨"HOLDOVER", 2, 1, .ro, 0⟩, ⟨"ORIGIN_SET", 1, 1, .ro, 0⟩, ⟨"SERVO_LOCK", 0, 1, .ro, 0⟩]⟩,
  ⟨0x200810, [], [⟨"OFFSET", 0, 32, .ro, 0⟩]⟩,
  ⟨0x200814, [], [⟨"PATH_DELAY", 0, 32, .ro, 0⟩]⟩,
  ⟨0x200818, [], [⟨"ORIGIN_LO", 0, 32, .ro, 0⟩]⟩,
  ⟨0x20081c, [], [⟨"ORIGIN_HI", 0, 32, .ro, 0⟩]⟩,
  ⟨0x200820, [], [⟨"SYNC_COUNT", 0, 32, .ro, 0⟩]⟩,
  ⟨0x200c00, [(16, 0x20)], [⟨"NOTICE_LO", 6, 26, .rwc, 0⟩]⟩,
  ⟨0x200c04, [(16, 0x20)], [⟨"NOTICE_HI", 0, 16, .rwc, 0⟩]⟩,
  ⟨0x200c08, [(16, 0x20)], [⟨"RELEASE_LO", 3, 29, .rwc, 0⟩]⟩,
  ⟨0x200c0c, [(16, 0x20)], [⟨"RELEASE_HI", 0, 16, .rwc, 0⟩]⟩,
  ⟨0x200c10, [(16, 0x20)], [⟨"EN", 31, 1, .rwc, 0⟩, ⟨"LOG2_LEN", 24, 4, .rwc, 4⟩, ⟨"RTOK", 8, 6, .rwc, 0⟩, ⟨"NTOK", 0, 6, .rwc, 0⟩]⟩,
  ⟨0x200c14, [(16, 0x20)], [⟨"HELD", 0, 13, .ro, 0⟩]⟩,
  ⟨0x200c18, [(16, 0x20)], [⟨"RELEASE_BAD", 0, 32, .ro, 0⟩]⟩,
  ⟨0x200c1c, [(16, 0x20)], [⟨"NOTICE_DROP", 0, 32, .ro, 0⟩]⟩]

/-- Registers of block ING, part 1. -/
def regsIng1 : List RegDef := [
  ⟨0x204000, [(512, 0x40)], [⟨"EN", 31, 1, .rwc, 0⟩, ⟨"REASSIGN", 30, 1, .rwc, 0⟩, ⟨"PLI", 29, 1, .rwc, 0⟩, ⟨"SSRC_EN", 28, 1, .rwc, 0⟩, ⟨"PORT", 24, 3, .rwc, 0⟩, ⟨"CODEC", 22, 2, .rwc, 0⟩, ⟨"NBUF", 16, 5, .rwc, 4⟩, ⟨"UDP_PORT", 0, 16, .rwc, 0⟩]⟩,
  ⟨0x204004, [(512, 0x40)], [⟨"STR_SSRC", 0, 32, .rwc, 0⟩]⟩,
  ⟨0x204008, [(512, 0x40)], [⟨"STR_GROUP", 0, 32, .rwc, 0⟩]⟩,
  ⟨0x20400c, [(512, 0x40)], [⟨"MAX_H", 16, 16, .rwc, 0x438⟩, ⟨"MAX_W", 0, 16, .rwc, 0x780⟩]⟩,
  ⟨0x204010, [(512, 0x40)], [⟨"RATE", 0, 17, .rwc, 0x3a98⟩]⟩,
  ⟨0x204014, [(512, 0x40)], [⟨"HDREXT_ID", 24, 8, .rwc, 0⟩, ⟨"CAP_DELAY_US", 0, 16, .rwc, 0⟩]⟩,
  ⟨0x204018, [(512, 0x40)], [⟨"PUB_BUDGET", 0, 20, .rwc, 0x186a0⟩]⟩,
  ⟨0x20401c, [(512, 0x40)], [⟨"REORDER_PKTS", 16, 7, .rwc, 0x20⟩, ⟨"REORDER_US", 0, 16, .rwc, 0x7d0⟩]⟩,
  ⟨0x204020, [(512, 0x40)], [⟨"IDLE_MS", 0, 16, .rwc, 0x3e8⟩]⟩,
  ⟨0x204024, [(512, 0x40), (4, 0x4)], [⟨"EN", 31, 1, .rwc, 0⟩, ⟨"TARGET", 16, 5, .rwc, 0⟩]⟩]

/-- Registers of block ING. -/
def regsIng : List RegDef := regsIng0 ++ regsIng1

/-- Registers of block VDC. -/
def regsVdc : List RegDef := [
  ⟨0x280000, [], [⟨"POOL_BASE_LO", 16, 16, .rwl, 0⟩]⟩,
  ⟨0x280004, [], [⟨"POOL_BASE_HI", 0, 16, .rwl, 0⟩]⟩,
  ⟨0x280008, [], [⟨"POOL_LEN", 0, 21, .rwl, 0⟩]⟩,
  ⟨0x28000c, [], [⟨"POOL_FREE", 0, 21, .ro, 0⟩]⟩,
  ⟨0x280010, [], [⟨"POOL_CONFLICT", 2, 1, .w1c, 0⟩, ⟨"ENGINE_CONFLICT", 1, 1, .w1c, 0⟩, ⟨"STREAM_CONFLICT", 0, 1, .w1c, 0⟩]⟩,
  ⟨0x280100, [(32, 0x10)], [⟨"STREAMS", 24, 8, .ro, 0⟩, ⟨"COMMITTED", 0, 24, .ro, 0⟩]⟩,
  ⟨0x280104, [(32, 0x10)], [⟨"AU_DONE", 0, 32, .ro, 0⟩]⟩,
  ⟨0x280108, [(32, 0x10)], [⟨"POISON_COUNT", 0, 32, .ro, 0⟩]⟩,
  ⟨0x281000, [(512, 0x40)], [⟨"STATE", 29, 3, .ro, 0⟩, ⟨"ENGINE", 24, 5, .ro, 0⟩, ⟨"LAST_ERR", 0, 16, .ro, 0⟩]⟩,
  ⟨0x281004, [(512, 0x40)], [⟨"VDC_STR_CTR", 0, 32, .rw, 0⟩]⟩,
  ⟨0x281008, [(512, 0x40)], [⟨"PUB_MIN_SLACK", 0, 32, .rw, 0x7fffffff⟩]⟩,
  ⟨0x28100c, [(512, 0x40), (11, 0x4)], [⟨"Counters", 0, 32, .ro, 0⟩]⟩]

/-- Registers of block DPO, part 0. -/
def regsDpo0 : List RegDef := [
  ⟨0x300000, [(4, 0x10000)], [⟨"EN", 31, 1, .rwc, 0⟩, ⟨"EVT_EN", 30, 1, .rwc, 0⟩, ⟨"EVT_TOK", 20, 6, .rwc, 0⟩, ⟨"EVT_PART", 16, 4, .rwc, 0⟩, ⟨"PPC8", 0, 1, .rwc, 0⟩]⟩,
  ⟨0x300004, [(4, 0x10000)], [⟨"LAST_ERR", 16, 16, .ro, 0⟩, ⟨"TRAIN_BUSY", 4, 1, .ro, 0⟩, ⟨"LINK_UP", 3, 1, .ro, 0⟩, ⟨"HPD", 2, 1, .ro, 0⟩, ⟨"CONFLICT", 1, 1, .w1c, 0⟩, ⟨"RUN", 0, 1, .ro, 0⟩]⟩,
  ⟨0x300008, [(4, 0x10000)], [⟨"RATE", 30, 2, .rw, 3⟩, ⟨"LANES", 28, 2, .rw, 2⟩, ⟨"DSC", 27, 1, .rw, 0⟩, ⟨"DSC_BPP", 16, 10, .rw, 0xc0⟩, ⟨"ENC", 10, 2, .rw, 0⟩, ⟨"BPC10", 9, 1, .rw, 0⟩]⟩,
  ⟨0x30000c, [(4, 0x10000)], [⟨"TRAIN", 31, 1, .wo, 0⟩]⟩,
  ⟨0x300010, [(4, 0x10000)], [⟨"PCLK", 0, 32, .rwc, 0x8d9ee20⟩]⟩,
  ⟨0x300014, [(4, 0x10000)], [⟨"H_ACTIVE", 16, 16, .rwc, 0x780⟩, ⟨"H_FP", 0, 16, .rwc, 0x58⟩]⟩,
  ⟨0x300018, [(4, 0x10000)], [⟨"H_SYNC", 16, 16, .rwc, 0x2c⟩, ⟨"H_BP", 0, 16, .rwc, 0x94⟩]⟩,
  ⟨0x30001c, [(4, 0x10000)], [⟨"V_ACTIVE", 16, 16, .rwc, 0x438⟩, ⟨"V_FP", 0, 16, .rwc, 4⟩]⟩,
  ⟨0x300020, [(4, 0x10000)], [⟨"V_SYNC", 16, 16, .rwc, 5⟩, ⟨"V_BP", 0, 16, .rwc, 0x24⟩]⟩,
  ⟨0x300024, [(4, 0x10000)], [⟨"HS_NEG", 31, 1, .rwc, 0⟩, ⟨"VS_NEG", 30, 1, .rwc, 0⟩, ⟨"BG", 0, 30, .rwc, 0⟩]⟩,
  ⟨0x300030, [(4, 0x10000)], [⟨"FRAME_CNT", 0, 32, .ro, 0⟩]⟩,
  ⟨0x300034, [(4, 0x10000)], [⟨"FRAME_TS_LO", 0, 32, .ro, 0⟩]⟩,
  ⟨0x300038, [(4, 0x10000)], [⟨"FRAME_TS_HI", 0, 32, .ro, 0⟩]⟩,
  ⟨0x30003c, [(4, 0x10000)], [⟨"FLIP_TS_LO", 0, 32, .ro, 0⟩]⟩,
  ⟨0x300040, [(4, 0x10000)], [⟨"FLIP_TS_HI", 0, 32, .ro, 0⟩]⟩,
  ⟨0x300044, [(4, 0x10000)], [⟨"FLIP_FRAME", 0, 32, .ro, 0⟩]⟩,
  ⟨0x300048, [(4, 0x10000)], [⟨"STRIPE_MIN_SLACK", 0, 32, .rw, 0x7fffffff⟩]⟩,
  ⟨0x30004c, [(4, 0x10000), (11, 0x4)], [⟨"Counters", 0, 32, .ro, 0⟩]⟩,
  ⟨0x300080, [(4, 0x10000)], [⟨"SCL_COEF_LO", 6, 26, .rwc, 0⟩]⟩,
  ⟨0x300084, [(4, 0x10000)], [⟨"SCL_COEF_HI", 0, 16, .rwc, 0⟩]⟩,
  ⟨0x300088, [(4, 0x10000)], [⟨"NEURAL_EN", 31, 1, .rwc, 0⟩, ⟨"REBASE", 30, 1, .rwc, 0⟩, ⟨"PART", 24, 4, .rwc, 0⟩, ⟨"REQ_TOK", 18, 6, .rwc, 0⟩, ⟨"DTOK_BASE", 12, 6, .rwc, 0⟩, ⟨"NSLOT", 8, 2, .rwc, 1⟩]⟩,
  ⟨0x30008c, [(4, 0x10000)], [⟨"LEAD_LINES", 16, 16, .rwc, 0xc0⟩, ⟨"DECIDE_LINES", 0, 16, .rwc, 0x10⟩]⟩,
  ⟨0x300090, [(4, 0x10000)], [⟨"DONE_INC", 0, 9, .rwc, 1⟩]⟩,
  ⟨0x300094, [(4, 0x10000)], [⟨"NRL_RING_LO", 6, 26, .rwc, 0⟩]⟩]

/-- Registers of block DPO, part 1. -/
def regsDpo1 : List RegDef := [
  ⟨0x300098, [(4, 0x10000)], [⟨"NRL_RING_HI", 0, 16, .rwc, 0⟩]⟩,
  ⟨0x30009c, [(4, 0x10000)], [⟨"NRL_BUF_LO", 16, 16, .rwc, 0⟩]⟩,
  ⟨0x3000a0, [(4, 0x10000)], [⟨"STRIDE", 16, 8, .rwc, 0x10⟩, ⟨"NRL_BUF_HI", 0, 16, .rwc, 0⟩]⟩,
  ⟨0x3000a4, [(4, 0x10000)], [⟨"RETIME", 31, 1, .rwc, 0⟩, ⟨"NFMT", 30, 1, .rwc, 0⟩, ⟨"DELAY_US", 0, 20, .rwc, 0x13880⟩]⟩,
  ⟨0x3000a8, [(4, 0x10000)], [⟨"NRL_SEQ", 0, 32, .ro, 0⟩]⟩,
  ⟨0x3000c0, [(4, 0x10000)], [⟨"GO", 31, 1, .wo, 0⟩, ⟨"REQ", 24, 4, .rw, 9⟩, ⟨"LEN", 20, 4, .rw, 0⟩, ⟨"ADDR", 0, 20, .rw, 0⟩]⟩,
  ⟨0x3000c4, [(4, 0x10000)], [⟨"BUSY", 31, 1, .ro, 0⟩, ⟨"REPLY", 2, 2, .ro, 0⟩]⟩,
  ⟨0x3000d0, [(4, 0x10000), (4, 0x4)], [⟨"AUX_DATAw", 0, 32, .rw, 0⟩]⟩,
  ⟨0x300100, [(4, 0x10000), (8, 0x40)], [⟨"EN", 31, 1, .rwc, 0⟩, ⟨"SRC_RING", 30, 1, .rwc, 0⟩, ⟨"SCALE", 29, 1, .rwc, 0⟩, ⟨"NEURAL", 28, 1, .rwc, 0⟩, ⟨"TOUCH", 27, 1, .rwc, 0⟩, ⟨"BLEND", 25, 2, .rwc, 0⟩, ⟨"CSC", 23, 2, .rwc, 1⟩, ⟨"FMT", 20, 3, .rwc, 3⟩, ⟨"ALPHA", 0, 8, .rwc, 0xff⟩]⟩,
  ⟨0x300104, [(4, 0x10000), (8, 0x40)], [⟨"BUF_LO", 0, 32, .rwc, 0⟩]⟩,
  ⟨0x300108, [(4, 0x10000), (8, 0x40)], [⟨"BUF_HI", 0, 16, .rwc, 0⟩]⟩,
  ⟨0x30010c, [(4, 0x10000), (8, 0x40)], [⟨"CHROMA_OFF", 0, 32, .rwc, 0⟩]⟩,
  ⟨0x300110, [(4, 0x10000), (8, 0x40)], [⟨"PITCH", 0, 20, .rwc, 0⟩]⟩,
  ⟨0x300114, [(4, 0x10000), (8, 0x40)], [⟨"SRC_Y", 16, 16, .rwc, 0⟩, ⟨"SRC_X", 0, 16, .rwc, 0⟩]⟩,
  ⟨0x300118, [(4, 0x10000), (8, 0x40)], [⟨"SRC_H", 16, 16, .rwc, 0x438⟩, ⟨"SRC_W", 0, 16, .rwc, 0x780⟩]⟩,
  ⟨0x30011c, [(4, 0x10000), (8, 0x40)], [⟨"DST_Y", 16, 16, .rwc, 0⟩, ⟨"DST_X", 0, 16, .rwc, 0⟩]⟩,
  ⟨0x300120, [(4, 0x10000), (8, 0x40)], [⟨"DST_H", 16, 16, .rwc, 0x438⟩, ⟨"DST_W", 0, 16, .rwc, 0x780⟩]⟩,
  ⟨0x300124, [(4, 0x10000), (8, 0x40)], [⟨"WM", 8, 8, .rwc, 2⟩, ⟨"LB_LINES", 0, 8, .rwc, 8⟩]⟩,
  ⟨0x300128, [(4, 0x10000), (8, 0x40)], [⟨"RING_LO", 5, 27, .rwc, 0⟩]⟩,
  ⟨0x30012c, [(4, 0x10000), (8, 0x40)], [⟨"RING_HI", 0, 16, .rwc, 0⟩]⟩,
  ⟨0x300130, [(4, 0x10000), (8, 0x40)], [⟨"LOG2_LEN", 24, 4, .rwc, 3⟩, ⟨"PPART", 16, 4, .rwc, 0⟩, ⟨"RTOK", 8, 6, .rwc, 0⟩, ⟨"PTOK", 0, 6, .rwc, 0⟩]⟩,
  ⟨0x300134, [(4, 0x10000), (8, 0x40)], [⟨"CUR_ENTRY", 0, 32, .ro, 0⟩]⟩,
  ⟨0x300138, [(4, 0x10000), (8, 0x40)], [⟨"RETIRED", 0, 32, .ro, 0⟩]⟩]

/-- Registers of block DPO. -/
def regsDpo : List RegDef := regsDpo0 ++ regsDpo1

/-- Registers of block MOT, part 0. -/
def regsMot0 : List RegDef := [
  ⟨0x380000, [], [⟨"TOPO", 30, 2, .rwl, 0⟩, ⟨"RUN", 29, 1, .rwc, 0⟩, ⟨"STALE_LIMIT", 24, 4, .rwl, 3⟩, ⟨"LOSS_LIMIT", 20, 4, .rwl, 3⟩]⟩,
  ⟨0x380004, [], [⟨"CYCLE_NS", 0, 32, .rwl, 0xf4240⟩]⟩,
  ⟨0x380008, [], [⟨"PHASE_NS", 0, 32, .rwl, 0⟩]⟩,
  ⟨0x38000c, [], [⟨"PI_LEN", 16, 16, .rwl, 0⟩, ⟨"REF_ADP", 0, 16, .rwl, 0⟩]⟩,
  ⟨0x380010, [], [⟨"VALID_LADDR", 0, 32, .rwl, 0⟩]⟩,
  ⟨0x380014, [], [⟨"PI_LADDR", 0, 32, .rwl, 0⟩]⟩,
  ⟨0x380018, [], [⟨"REF_DELAY_NS", 0, 32, .rwc, 0⟩]⟩,
  ⟨0x38001c, [], [⟨"LAST_ERR", 16, 16, .ro, 0⟩, ⟨"RING", 6, 2, .ro, 2⟩, ⟨"RUNNING", 0, 1, .ro, 0⟩]⟩,
  ⟨0x380020, [], [⟨"CYCLE_LO", 0, 32, .ro, 0⟩]⟩,
  ⟨0x380024, [], [⟨"CYCLE_HI", 0, 32, .ro, 0⟩]⟩,
  ⟨0x380028, [], [⟨"DC_BASE_LO", 0, 32, .ro, 0⟩]⟩,
  ⟨0x38002c, [], [⟨"DC_BASE_HI", 0, 32, .ro, 0⟩]⟩,
  ⟨0x380100, [(2, 0x80)], [⟨"CMD_LO", 11, 21, .rwc, 0⟩]⟩,
  ⟨0x380104, [(2, 0x80)], [⟨"CMD_HI", 0, 16, .rwc, 0⟩]⟩,
  ⟨0x380108, [(2, 0x80)], [⟨"IN_LO", 11, 21, .rwc, 0⟩]⟩,
  ⟨0x38010c, [(2, 0x80)], [⟨"IN_HI", 0, 16, .rwc, 0⟩]⟩,
  ⟨0x380110, [(2, 0x80)], [⟨"EN", 31, 1, .rwc, 0⟩, ⟨"LOG2_LEN", 24, 4, .rwc, 3⟩, ⟨"CPART", 16, 4, .rwc, 0⟩, ⟨"ITOK", 8, 6, .rwc, 0⟩, ⟨"CTOK", 0, 6, .rwc, 0⟩]⟩,
  ⟨0x380114, [(2, 0x80)], [⟨"WKC_EXP", 0, 16, .rwl, 0⟩]⟩,
  ⟨0x380118, [(2, 0x80)], [⟨"LINK", 0, 1, .ro, 0⟩]⟩,
  ⟨0x38011c, [(2, 0x80)], [⟨"EMIT_MIN_SLACK", 0, 32, .rw, 0x7fffffff⟩]⟩,
  ⟨0x380120, [(2, 0x80), (6, 0x4)], [⟨"Counters", 0, 32, .ro, 0⟩]⟩,
  ⟨0x380400, [(16, 0x10)], [⟨"SAFE_CAP", 0, 16, .rwl, 0⟩]⟩,
  ⟨0x380404, [(16, 0x10)], [⟨"CAP_H", 16, 16, .ro, 0xffff⟩, ⟨"CAP_S", 0, 16, .ro, 0xffff⟩]⟩,
  ⟨0x380408, [(16, 0x10)], [⟨"INVALID", 0, 1, .ro, 1⟩]⟩]

/-- Registers of block MOT, part 1. -/
def regsMot1 : List RegDef := [
  ⟨0x38040c, [(16, 0x10)], [⟨"INVALID_COUNT", 0, 32, .ro, 0⟩]⟩,
  ⟨0x381000, [(64, 0x40)], [⟨"EN", 31, 1, .rwc, 0⟩, ⟨"PORT", 30, 1, .rwc, 0⟩, ⟨"MODE", 28, 2, .rwc, 0⟩, ⟨"GROUP", 20, 3, .rwl, 0⟩, ⟨"ZONES", 0, 16, .rwl, 0⟩]⟩,
  ⟨0x381004, [(64, 0x40)], [⟨"IN_OFF", 16, 16, .rwl, 0⟩, ⟨"OUT_OFF", 0, 16, .rwl, 0⟩]⟩,
  ⟨0x381008, [(64, 0x40)], [⟨"POS_MIN", 0, 32, .rwc, 0⟩]⟩,
  ⟨0x38100c, [(64, 0x40)], [⟨"POS_MAX", 0, 32, .rwc, 0⟩]⟩,
  ⟨0x381010, [(64, 0x40)], [⟨"VMAX", 0, 32, .rwc, 0⟩]⟩,
  ⟨0x381014, [(64, 0x40)], [⟨"AMAX", 0, 32, .rwc, 0⟩]⟩,
  ⟨0x381018, [(64, 0x40)], [⟨"DEC_CAP", 0, 32, .rwc, 0⟩]⟩,
  ⟨0x38101c, [(64, 0x40)], [⟨"HARD_TMAX", 16, 16, .rwl, 0⟩, ⟨"TMAX", 0, 16, .rwc, 0⟩]⟩,
  ⟨0x381020, [(64, 0x40)], [⟨"V_SCALE", 0, 32, .rwc, 0⟩]⟩,
  ⟨0x381024, [(64, 0x40)], [⟨"HARD_POS_MIN", 0, 32, .rwl, 0⟩]⟩,
  ⟨0x381028, [(64, 0x40)], [⟨"HARD_POS_MAX", 0, 32, .rwl, 0⟩]⟩,
  ⟨0x38102c, [(64, 0x40)], [⟨"HARD_VMAX", 0, 32, .rwl, 0⟩]⟩,
  ⟨0x381030, [(64, 0x40)], [⟨"HARD_AMAX", 0, 32, .rwl, 0⟩]⟩,
  ⟨0x381034, [(64, 0x40)], [⟨"LAST_VIOL", 16, 16, .ro, 0⟩, ⟨"ENV_CLAMP", 1, 1, .w1c, 0⟩, ⟨"VALID", 0, 1, .ro, 0⟩]⟩,
  ⟨0x381038, [(64, 0x40)], [⟨"VLIM", 0, 32, .ro, 0⟩]⟩,
  ⟨0x38103c, [(64, 0x40)], [⟨"VIOL_COUNT", 0, 32, .ro, 0⟩]⟩]

/-- Registers of block MOT. -/
def regsMot : List RegDef := regsMot0 ++ regsMot1

/-- Registers of block SIO. -/
def regsSio : List RegDef := [
  ⟨0x390000, [(8, 0x10)], [⟨"TYPE", 30, 2, .rwl, 0⟩, ⟨"ROLE", 28, 2, .rwl, 0⟩, ⟨"GROUPS", 16, 8, .rwl, 0⟩, ⟨"FILTER", 8, 8, .rwl, 0⟩, ⟨"DISC", 0, 8, .rwl, 0xa⟩]⟩,
  ⟨0x390004, [(8, 0x10)], [⟨"TP_EN", 31, 1, .rwl, 1⟩, ⟨"TP_WIDTH", 16, 8, .rwl, 0x14⟩, ⟨"TP_PERIOD", 0, 16, .rwl, 0x64⟩]⟩,
  ⟨0x390008, [(8, 0x10)], [⟨"FAULT", 4, 1, .ro, 0⟩, ⟨"DEMAND", 3, 1, .ro, 1⟩, ⟨"LEVEL_B", 1, 1, .ro, 0⟩, ⟨"LEVEL_A", 0, 1, .ro, 0⟩]⟩,
  ⟨0x39000c, [(8, 0x10)], [⟨"DEMAND_COUNT", 0, 32, .ro, 0⟩]⟩,
  ⟨0x390100, [(8, 0x10)], [⟨"ROLE", 30, 2, .rwl, 0⟩, ⟨"GROUPS", 16, 8, .rwl, 0⟩, ⟨"DELAY", 0, 16, .rwl, 0⟩]⟩,
  ⟨0x390104, [(8, 0x10)], [⟨"TP_EN", 31, 1, .rwl, 1⟩, ⟨"TP_WIDTH", 16, 8, .rwl, 0x1e⟩, ⟨"TP_PERIOD", 0, 16, .rwl, 0x3e8⟩]⟩,
  ⟨0x390108, [(8, 0x10)], [⟨"FAULT", 3, 1, .ro, 0⟩, ⟨"ON", 2, 1, .ro, 0⟩, ⟨"RB_B", 1, 1, .ro, 0⟩, ⟨"RB_A", 0, 1, .ro, 0⟩]⟩,
  ⟨0x390200, [(8, 0x10)], [⟨"TRIPPED", 31, 1, .ro, 1⟩, ⟨"RESET_OK", 30, 1, .ro, 0⟩, ⟨"FIRST_CAUSE", 0, 16, .ro, 0x90b⟩]⟩,
  ⟨0x390204, [(8, 0x10)], [⟨"CAUSES", 1, 15, .ro, 0x400⟩]⟩,
  ⟨0x390208, [(8, 0x10)], [⟨"RESET_REFUSED", 16, 16, .ro, 0⟩, ⟨"TRIP_COUNT", 0, 16, .ro, 0⟩]⟩,
  ⟨0x39020c, [(8, 0x10)], [⟨"REG_RESET_EN", 0, 1, .rwl, 0⟩]⟩,
  ⟨0x390300, [], [⟨"GROUPS", 0, 8, .wo, 0⟩]⟩]

/-- Registers of block MEM. -/
def regsMem : List RegDef := [
  ⟨0x400000, [], [⟨"ECC_EN", 0, 1, .rwl, 1⟩]⟩,
  ⟨0x400004, [], [⟨"MEM_TOP", 0, 32, .ro, 0x174000⟩]⟩,
  ⟨0x401000, [(6, 0x100)], [⟨"TRAINED", 0, 4, .ro, 0⟩]⟩,
  ⟨0x401004, [(6, 0x100)], [⟨"DRAM_ECC_CORR_COUNT", 0, 32, .ro, 0⟩]⟩,
  ⟨0x401008, [(6, 0x100)], [⟨"DRAM_ECC_UNCORR_COUNT", 0, 32, .ro, 0⟩]⟩,
  ⟨0x40100c, [(6, 0x100)], [⟨"SCRUB_PASS_COUNT", 0, 32, .ro, 0⟩]⟩,
  ⟨0x401010, [(6, 0x100)], [⟨"LAST_UNCORR_LO", 0, 32, .ro, 0⟩]⟩,
  ⟨0x401014, [(6, 0x100)], [⟨"LAST_UNCORR_HI", 0, 16, .ro, 0⟩]⟩]

/-- Registers of block HIF. -/
def regsHif : List RegDef := [
  ⟨0x480000, [], [⟨"WIDTH", 4, 4, .ro, 0⟩, ⟨"SPEED", 1, 3, .ro, 0⟩, ⟨"LINK_UP", 0, 1, .ro, 0⟩]⟩,
  ⟨0x480004, [], [⟨"HOST_WR", 0, 17, .rwl, 0x8000⟩]⟩,
  ⟨0x480008, [], [⟨"VENDOR", 0, 16, .ro, 0⟩]⟩,
  ⟨0x48000c, [(5, 0x4)], [⟨"Counters", 0, 32, .ro, 0⟩]⟩,
  ⟨0x480020, [], [⟨"MEMRD_LO", 0, 32, .rw, 0⟩]⟩,
  ⟨0x480024, [], [⟨"ERR", 1, 1, .ro, 0⟩, ⟨"DONE", 0, 1, .ro, 0⟩]⟩,
  ⟨0x480028, [], [⟨"MEMRD_HI", 0, 16, .rw, 0⟩]⟩,
  ⟨0x48002c, [], [⟨"MEMRD_DATA", 0, 32, .ro, 0⟩]⟩,
  ⟨0x480040, [(4, 0x10)], [⟨"EN", 31, 1, .rw, 0⟩, ⟨"RD", 30, 1, .rw, 0⟩, ⟨"WR", 29, 1, .rw, 0⟩, ⟨"BASE", 0, 16, .rw, 0⟩]⟩,
  ⟨0x480100, [(8, 0x80), (16, 0x4)], [⟨"MB_DATAk", 0, 32, .rw, 0⟩]⟩,
  ⟨0x480140, [(8, 0x80)], [⟨"GO", 31, 1, .wo, 0⟩, ⟨"OWNER", 30, 1, .ro, 0⟩, ⟨"RESULT", 16, 8, .ro, 0⟩]⟩,
  ⟨0x480144, [(8, 0x80)], [⟨"MB_DROP", 0, 32, .ro, 0⟩]⟩,
  ⟨0x480500, [(4, 0x40)], [⟨"TR_LO", 5, 27, .rw, 0⟩]⟩,
  ⟨0x480504, [(4, 0x40)], [⟨"TR_HI", 0, 32, .rw, 0⟩]⟩,
  ⟨0x480508, [(4, 0x40)], [⟨"EN", 31, 1, .rw, 0⟩, ⟨"LOG2_LEN", 24, 4, .rw, 8⟩, ⟨"CLASSES", 1, 10, .rw, 0⟩]⟩,
  ⟨0x48050c, [(4, 0x40)], [⟨"HEAD", 0, 32, .ro, 0⟩]⟩,
  ⟨0x480510, [(4, 0x40)], [⟨"TAIL", 0, 32, .rw, 0⟩]⟩,
  ⟨0x480514, [(4, 0x40)], [⟨"THRESH", 16, 16, .rw, 1⟩, ⟨"PERIOD", 0, 16, .rw, 0⟩]⟩,
  ⟨0x480518, [(4, 0x40)], [⟨"TELEM_DROP", 0, 32, .ro, 0⟩]⟩,
  ⟨0x480520, [(4, 0x40), (8, 0x4)], [⟨"EN", 31, 1, .rw, 0⟩, ⟨"OFFSET", 0, 23, .rw, 0⟩]⟩]

/-- Registers of block USB. -/
def regsUsb : List RegDef := [
  ⟨0x4c0000, [(2, 0x100)], [⟨"EN", 31, 1, .rw, 0⟩, ⟨"SPEED", 29, 2, .ro, 0⟩, ⟨"CONN", 28, 1, .ro, 0⟩]⟩,
  ⟨0x4c0004, [(2, 0x100)], [⟨"REPORT_ID", 24, 8, .rw, 0⟩, ⟨"CONTACTS", 20, 4, .rw, 0⟩, ⟨"STRIDE", 0, 16, .rw, 0⟩]⟩,
  ⟨0x4c0008, [(2, 0x100)], [⟨"X_OFF", 16, 16, .rw, 0⟩, ⟨"X_BITS", 0, 5, .rw, 0⟩]⟩,
  ⟨0x4c000c, [(2, 0x100)], [⟨"Y_OFF", 16, 16, .rw, 0⟩, ⟨"Y_BITS", 0, 5, .rw, 0⟩]⟩,
  ⟨0x4c0010, [(2, 0x100)], [⟨"TIP_OFF", 16, 16, .rw, 0⟩, ⟨"ID_OFF", 0, 16, .rw, 0⟩]⟩,
  ⟨0x4c0014, [(2, 0x100)], [⟨"LMAX_Y", 16, 16, .rw, 0⟩, ⟨"LMAX_X", 0, 16, .rw, 0⟩]⟩,
  ⟨0x4c0018, [(2, 0x100)], [⟨"MAP_EN", 31, 1, .rw, 0⟩, ⟨"OUTPUT", 0, 2, .rw, 0⟩]⟩,
  ⟨0x4c001c, [(2, 0x100)], [⟨"TRING_LO", 4, 28, .rw, 0⟩]⟩,
  ⟨0x4c0020, [(2, 0x100)], [⟨"LOG2_LEN", 24, 4, .rw, 6⟩, ⟨"TRING_HI", 0, 16, .rw, 0⟩]⟩,
  ⟨0x4c0024, [(2, 0x100)], [⟨"TRING_HEAD", 0, 32, .ro, 0⟩]⟩,
  ⟨0x4c0028, [(2, 0x100)], [⟨"TOUCH_COUNT", 0, 32, .ro, 0⟩]⟩]

/-- The block number of a management offset (R497), none where no block covers it. -/
def blockOf (off : Nat) : Option Nat :=
   if 0x0 ≤ off ∧ off ≤ 0xfff then some 0
  else if 0x10000 ≤ off ∧ off ≤ 0x104bf then some 1
  else if 0x20000 ≤ off ∧ off ≤ 0x20813 then some 2
  else if 0x30000 ≤ off ∧ off ≤ 0x3017f then some 3
  else if 0x40000 ≤ off ∧ off ≤ 0x4ffff then some 4
  else if 0x50000 ≤ off ∧ off ≤ 0x504ff then some 5
  else if 0x60000 ≤ off ∧ off ≤ 0x68003 then some 6
  else if 0x80000 ≤ off ∧ off ≤ 0x815ff then some 7
  else if 0x100000 ≤ off ∧ off ≤ 0x1fffff then some 8
  else if 0x200000 ≤ off ∧ off ≤ 0x20bfff then some 9
  else if 0x280000 ≤ off ∧ off ≤ 0x288fff then some 10
  else if 0x300000 ≤ off ∧ off ≤ 0x33ffff then some 11
  else if 0x380000 ≤ off ∧ off ≤ 0x381fff then some 12
  else if 0x390000 ≤ off ∧ off ≤ 0x390303 then some 13
  else if 0x400000 ≤ off ∧ off ≤ 0x401517 then some 14
  else if 0x480000 ≤ off ∧ off ≤ 0x480bff then some 15
  else if 0x4c0000 ≤ off ∧ off ≤ 0x4c012b then some 16
  else none

/-- The registers of block `b`. -/
def regsOfBlock : Nat → List RegDef
  | 0 => regsGlb
  | 1 => regsBur
  | 2 => regsHut
  | 3 => regsBoot
  | 4 => regsSch
  | 5 => regsKvp
  | 6 => regsShc
  | 7 => regsDma
  | 8 => regsTc
  | 9 => regsIng
  | 10 => regsVdc
  | 11 => regsDpo
  | 12 => regsMot
  | 13 => regsSio
  | 14 => regsMem
  | 15 => regsHif
  | 16 => regsUsb
  | _ => []

/-- Whether an offset from a base falls on an element of the array. -/
def dimsHit : List (Nat × Nat) → Nat → Bool
  | [], r => decide (r = 0)
  | (n, st) :: ds, r => decide (r / st < n) && dimsHit ds (r % st)

/-- Whether a register definition covers the offset. -/
def defHit (d : RegDef) (off : Nat) : Bool := decide (d.base ≤ off) && dimsHit d.dims (off - d.base)

/-- The cluster registers appear identically in the windows of all 16 logical cores of the cluster (R94): the offset in
the window of the cluster's first core stands for all. -/
def canonOff (off : Nat) : Nat :=
  if 0x100000 ≤ off ∧ off < 0x200000 ∧ 0x800 ≤ off % 0x1000 ∧ off % 0x1000 < 0x900
  then off / 0x10000 * 0x10000 + off % 0x1000 else off

/-- The fields of the register at an offset: none where the word is reserved (R11) or unassigned (R487). -/
def fieldsAt (off : Nat) : List FieldDef :=
  match blockOf off with
  | none => []
  | some b => match (regsOfBlock b).find? (fun d => defHit d off) with
    | none => []
    | some d => d.fields

/-- The word that a register holds at reset (R11: reserved fields read zero). -/
def regReset (off : Nat) : Word :=
  BitVec.ofNat 32 ((fieldsAt off).foldl (fun a f => a + f.rst * 2 ^ f.lo) 0)

/-- The bits of a register whose fields meet `p`. -/
def maskWhere (p : FieldDef → Bool) (off : Nat) : Word :=
  BitVec.ofNat 32 (((fieldsAt off).filter p).foldl (fun a f => a + fieldMask f.lo f.w) 0)

/-- The bits of a register with one access code. -/
def maskOf (a : Access) (off : Nat) : Word := maskWhere (fun f => decide (f.acc = a)) off

end Sys2Proof.Machine
end

