-- ==== Sys2Proof/Machine/IngTypes.lean ====
section
/-!
DEFINITION. Machine/IngTypes.lean: the state of camera ingest, PTP and the gang beside their registers (chapters 09 and 11).
-/
namespace Sys2Proof.Machine
open Sys2Proof

/-- What one RTP packet says under its payload format (R308, R309, R318, R319): its payload, whether the packet type is supported, whether it shows a
slice, slices known not to be referenced, a random access point or a RASL picture, and the NTP-format time of its header extension (R323). -/
structure RtpPkt where
  seq : Nat
  ts : Nat
  ssrc : Nat
  marker : Bool
  payload : List Byte
  supported : Bool
  vcl : Bool
  nonRef : Bool
  rap : Bool
  rasl : Bool
  ntp : Option Nat
  deriving DecidableEq, Repr

/-- State of a stream (R328, R329, R336). -/
inductive StrSt where
  | off | resync | run | ending
  deriving DecidableEq, Repr

/-- A picture buffer of the decode pool (R315): its first 64 KiB unit and length, the frame record of the picture it holds,
whether it is a reference or being decoded into, and the holds on it: target and notice slot (R326). -/
structure PicBuf where
  unit : Nat
  len : Nat
  ctr : Option Nat
  record : List Byte
  ref : Bool
  busy : Bool
  holds : List (Nat × Nat)
  old : Bool                 -- its stream is OFF: it returns to the pool with its last hold (R329)
  deriving DecidableEq, Repr

/-- An access unit (R309): its frame counter, RTP timestamp, the arrival of its first and last packet, its size. -/
structure Au where
  ctr : Nat
  ts : Nat
  arrival : Time
  lastArr : Time
  size : Nat
  marker : Bool              -- its marker packet has been delivered
  complete : Bool
  vcl : Bool                 -- a slice of it has been delivered
  nonRef : Bool              -- known to be a non-reference picture
  rap : Bool
  rasl : Bool
  wait : Bool                -- opened in RESYNC or behind a random access point, and its first slice has not come (R319)
  started : Bool             -- its decode has started (R316)
  ntp : Option Nat           -- NTP-format time of its first packet
  buf : Option Nat           -- first unit of the buffer it is decoded into
  eng : Nat                  -- engine that decodes it (R314)
  deriving DecidableEq, Repr

/-- A packet in the receive buffer of a port that is still to be written to its stream's bitstream ring, and where there (R302). -/
structure RxWait where
  stream : Nat
  off : Nat
  bytes : List Byte
  deriving DecidableEq, Repr

/-- A held packet and its arrival (R317); its payload stands in the receive buffer of its port (R302). -/
structure HeldPkt where
  pkt : RtpPkt
  arr : Time
  deriving DecidableEq, Repr

/-- A stream (R312 to R330). -/
structure Strm where
  st : StrSt
  engine : Nat
  moving : Option Nat        -- engine it moves to at its next random access point (R314)
  bufs : List PicBuf
  ring : Option Nat          -- first 64 KiB unit of its bitstream ring
  wr : Nat                   -- where the next payload goes in the ring
  expected : Option Nat
  held : List HeldPkt        -- in ascending distance from the expected number
  lost : List Nat            -- sequence numbers declared lost
  behind : Nat               -- consecutive packets with d ≥ 32 768
  ssrc : Option Nat
  lossNext : Bool            -- the access unit of the next delivered packet misses packets
  curTs : Option Nat         -- timestamp of the access unit in delivery
  curEnd : Bool              -- its marker packet has been delivered
  aus : List Au              -- oldest first
  synced : Bool              -- a random access point has started since RESYNC was entered
  raslSkip : Bool
  discont : Bool             -- it has published no picture since it was enabled (R328)
  drops : List Nat           -- frame counters dropped or passed over, after which no picture has been published (R321)
  gone : Bool                -- it has ended, and no commit has enabled it since (R329)
  lastPkt : Time
  pubAt : Option Time        -- when it last published a frame record (R417)
  pliAt : Option Time
  plis : Nat                 -- picture loss indications requested
  sr : Option (Nat × Nat)    -- NTP time and RTP timestamp of the latest sender report
  deriving DecidableEq, Repr

/-- A stream that is OFF. -/
def Strm.reset : Strm :=
  { st := .off, engine := 0, moving := none, bufs := [], ring := none, wr := 0, expected := none, held := [], lost := [], behind := 0,
    ssrc := none, lossNext := false, curTs := none, curEnd := false, aus := [], synced := false, raslSkip := false, discont := false, drops := [], gone := false, lastPkt := 0, pubAt := none,
    pliAt := none, plis := 0, sr := none }

/-- A notice ring (R326, R327): the next notice number, the next release entry, signals of RTOK whose entry has not been read, what each slot holds (stream and frame
counter), and for the Hutch's ring, which lies inside channel A's SRAM (R407), the records written to it. -/
structure Ring where
  next : Nat
  rel : Nat
  due : Nat
  slots : Tab (Nat × Nat)
  recs : Tab (List Byte)
  deriving DecidableEq, Repr

/-- A ring after reset. -/
def Ring.reset : Ring := ⟨0, 0, 0, [], []⟩

/-- A master that announces itself (R304): its port identity, its latest Announce message and when it came, and whether it qualifies: the message before
came within four intervals. -/
structure Foreign where
  source : Nat
  an : Announce
  at_ : Time
  qualified : Bool
  deriving DecidableEq, Repr

/-- Ingest and PTP. -/
structure Ing where
  strms : Tab Strm
  rings : Tab Ring           -- by target: 0 to 15 partition, 16 the Hutch
  rx : Tab (List RxWait)     -- receive buffers of the ports: packets delivered and still to be written to a ring (R302)
  mgmt : List (Nat × List Byte)  -- frames handed to the control complex, by port, newest last (R301)
  delays : List Nat          -- last eight path delays, newest first (R306)
  sumOff : Int               -- Σo
  inRow : Nat                -- consecutive Syncs with |o| < LOCK_NS
  outRow : Nat               -- consecutive Syncs with |o| ≥ LOCK_NS
  lastSync : Option (Time × Nat × Nat)  -- arrival, interval and origin time of the last Sync used
  masters : List Foreign     -- masters that have announced themselves, by when they first did
  work : Tab (Nat × Nat)     -- by decode engine: stream and frame counter of the access unit that its working memory was last written for (R184)
  deriving DecidableEq, Repr

/-- Ingest after reset. -/
def Ing.reset : Ing := ⟨[], [], [], [], [], 0, 0, 0, none, [], []⟩

/-- The gang (R273 to R276): since when the offset has been within 50 ns, whether it has exceeded that since the last epoch boundary, ORIGIN as member 0 gave it, members that
stated a change, the next frame number expected from each, and the bitmap of versions that each has given (R474). -/
structure Gang where
  okSince : Option Time
  slipped : Bool
  origin : Option Nat
  want : Tab Bool
  seqs : Tab Nat
  vers : Tab Nat
  deriving DecidableEq, Repr

/-- A gang of which nothing is known. -/
def Gang.reset : Gang := ⟨none, false, none, [], [], []⟩

end Sys2Proof.Machine
end

