-- ==== Sys2Proof/Machine/Rtp.lean ====
section
/-!
DEFINITION. Machine/Rtp.lean: what the bytes of a received frame say: Ethernet, IP, UDP, PTP, RTCP and RTP headers and the payload formats of R308 (R300,
R301, R304, R308, R318, R319, R323).  Numbers that the spec names by their standard alone are those of the standard (PRESUMED, log entry 65).
-/
namespace Sys2Proof.Machine
open Sys2Proof

/-- A big-endian field of `n` bytes at offset `o`. -/
def be (b : List Byte) (o n : Nat) : Nat := beVal ((b.drop o).take n)

/-- One byte as a number. -/
def byteAt (b : List Byte) (o : Nat) : Nat := (nth 0 b o).toNat

/-! ## Ethernet and IP (R300, R301) -/

/-- The frame check sequence of IEEE 802.3 over the bytes before it. -/
def fcsOk (b : List Byte) : Bool :=
  decide (leVal (b.drop (b.length - 4)) = crcBytes 0xEDB88320 0xFFFFFFFF (b.take (b.length - 4)) ^^^ 0xFFFFFFFF)

/-- The tag of a frame, its EtherType, and its payload without the frame check sequence. -/
structure Eth where
  dst : Nat
  vlan : Option Nat
  type : Nat
  body : List Byte
  deriving DecidableEq, Repr

/-- The Ethernet header of a frame with at most one IEEE 802.1Q tag (R300). -/
def ethOf (b : List Byte) : Eth :=
  let p := b.take (b.length - 4)
  if be p 12 2 = 0x8100 then ⟨be p 0 6, some (be p 14 2 % 4096), be p 16 2, p.drop 18⟩ else ⟨be p 0 6, none, be p 12 2, p.drop 14⟩

/-- A PAUSE or priority flow control frame (R300). -/
def isPause (e : Eth) : Bool := decide (e.type = 0x8808) && (decide (be e.body 0 2 = 1) || decide (be e.body 0 2 = 0x0101))

/-- The sum of 16-bit words, most significant byte first, of an Internet checksum. -/
def sum16 : List Byte → Nat
  | [] => 0
  | [a] => 256 * a.toNat
  | a :: b :: r => 256 * a.toNat + b.toNat + sum16 r

/-- A range that holds its own Internet checksum checks. -/
def inetOk (n : Nat) : Bool :=
  let a := n % 65536 + n / 65536
  decide ((a % 65536 + a / 65536) % 65535 = 0) && decide (n ≠ 0)

/-- A UDP datagram: IPv6 or IPv4, source and destination address, ports and body. -/
structure Udp where
  v6 : Bool
  src : Nat
  dst : Nat
  sport : Nat
  dport : Nat
  body : List Byte
  deriving DecidableEq, Repr

/-- What a frame carries above Ethernet: a header or a checksum that is bad, a datagram, or anything else. -/
inductive Carried where
  | bad
  | udp (u : Udp)
  | other
  deriving DecidableEq, Repr

/-- The UDP datagram in the payload of an IP packet from `src` to `dst`; `sum` is the sum of the pseudo header without its length. -/
def udpOf (v6 : Bool) (src dst sum : Nat) (p : List Byte) : Carried :=
  let n := be p 4 2
  if n < 8 ∨ p.length < n then .other
  else if be p 6 2 ≠ 0 ∧ inetOk (sum + n + sum16 (p.take n)) = false then .bad
  else .udp ⟨v6, src, dst, be p 0 2, be p 2 2, (p.take n).drop 8⟩

/-- IPv4: a bad header checksum, a whole UDP datagram, or anything else. -/
def ipv4Of (p : List Byte) : Carried :=
  let h := byteAt p 0 % 16 * 4
  if byteAt p 0 / 16 ≠ 4 ∨ h < 20 ∨ p.length < h then .other
  else if inetOk (sum16 (p.take h)) = false then .bad
  else if byteAt p 9 = 17 ∧ be p 6 2 % 16384 = 0 ∧ be p 2 2 ≤ p.length
    then udpOf false (be p 12 4) (be p 16 4) (sum16 ((p.drop 12).take 8) + 17) ((p.take (be p 2 2)).drop h)
  else .other

/-- IPv6: a UDP datagram that follows the fixed header, or anything else. -/
def ipv6Of (p : List Byte) : Carried :=
  if byteAt p 0 / 16 = 6 ∧ byteAt p 6 = 17 ∧ 40 + be p 4 2 ≤ p.length
  then udpOf true (be p 8 16) (be p 24 16) (sum16 ((p.drop 8).take 32) + 17) ((p.drop 40).take (be p 4 2)) else .other

/-- What a frame carries. -/
def carried (e : Eth) : Carried :=
  if e.type = 0x0800 then ipv4Of e.body else if e.type = 0x86DD then ipv6Of e.body else .other

/-! ## PTP and RTCP (R301, R304) -/

/-- The PTP message of a frame under the transport chosen: UDP over IPv4 (Annex C) or IEEE 802.3 (Annex E). -/
def ptpOf (l2 : Bool) (e : Eth) : Option (List Byte) :=
  if l2 then (if e.type = 0x88F7 then some e.body else none)
  else match carried e with
    | .udp u => if u.v6 = false ∧ (u.dport = 319 ∨ u.dport = 320) then some u.body else none
    | _ => none

/-- A PTP management message. -/
def ptpMgmt (b : List Byte) : Bool := decide (byteAt b 0 % 16 = 0xD)

/-- An RTCP sender report: SSRC, NTP time and RTP timestamp. -/
def srOf (b : List Byte) : Option (Nat × Nat × Nat) :=
  if byteAt b 0 / 64 = 2 ∧ byteAt b 1 = 200 ∧ 28 ≤ b.length then some (be b 4 4, be b 8 8, be b 16 4) else none

/-! ## RTP (R308, R323) -/

/-- Header extensions of the one-byte form: identifier and data. -/
def extOne : Nat → List Byte → List (Nat × List Byte)
  | 0, _ => []
  | _, [] => []
  | n + 1, b :: r =>
    let id := b.toNat / 16
    let len := b.toNat % 16 + 1
    if b = 0 then extOne n r else if id = 15 then [] else (id, r.take len) :: extOne n (r.drop len)

/-- Header extensions of the two-byte form. -/
def extTwo : Nat → List Byte → List (Nat × List Byte)
  | 0, _ => []
  | n + 1, b :: l :: r => if b = 0 then extTwo n (l :: r) else (b.toNat, r.take l.toNat) :: extTwo n (r.drop l.toNat)
  | _, _ => []

/-- Offset of the header extension of an RTP packet: past the contributing sources. -/
def extOff (b : List Byte) : Nat := 12 + 4 * (byteAt b 0 % 16)

/-- Bytes that the header extension takes. -/
def extLen (b : List Byte) : Nat := if (byteAt b 0).testBit 4 then 4 + 4 * be b (extOff b + 2) 2 else 0

/-- The elements of the header extension, in the forms of RFC 8285. -/
def extsOf (b : List Byte) : List (Nat × List Byte) :=
  let d := (b.drop (extOff b + 4)).take (extLen b - 4)
  if extLen b = 0 then []
  else if be b (extOff b) 2 = 0xBEDE then extOne d.length d
  else if be b (extOff b) 2 / 16 = 0x100 then extTwo d.length d else []

/-- The payload of an RTP packet, without its padding. -/
def rtpPayload (b : List Byte) : List Byte :=
  let p := b.drop (extOff b + extLen b)
  if (byteAt b 0).testBit 5 then p.take (p.length - byteAt b (b.length - 1)) else p

/-! ## Payload formats (R308, R318, R319) -/

/-- What NAL units show: a type that is supported, a slice, a slice of a picture that is not referenced, a random access point, a RASL picture. -/
structure NalInfo where
  ok : Bool
  vcl : Bool
  nonRef : Bool
  rap : Bool
  rasl : Bool
  deriving DecidableEq, Repr

/-- A packet type that is not supported. -/
def NalInfo.bad : NalInfo := ⟨false, false, false, false, false⟩

/-- What two NAL units of one packet show together. -/
def nalJoin (a b : NalInfo) : NalInfo := ⟨a.ok && b.ok, a.vcl || b.vcl, a.nonRef || b.nonRef, a.rap || b.rap, a.rasl || b.rasl⟩

/-- A NAL unit of H.264 by nal_ref_idc and nal_unit_type: slices are types 1 to 5, an IDR picture is type 5. -/
def nal264 (ref type : Nat) : NalInfo :=
  let vcl := decide (1 ≤ type) && decide (type ≤ 5)
  ⟨true, vcl, vcl && decide (ref = 0), decide (type = 5), false⟩

/-- A NAL unit of H.265 by nal_unit_type: below 32 a slice; IDR, CRA and BLA pictures are 16 to 21, RASL pictures 8 and 9, and the even types below 16
are sub-layer non-reference pictures. -/
def nal265 (type : Nat) : NalInfo :=
  ⟨true, decide (type < 32), decide (type < 16) && decide (type % 2 = 0), decide (16 ≤ type) && decide (type ≤ 21), decide (type = 8 ∨ type = 9)⟩

/-- The NAL units of an aggregation packet, each behind its 16-bit size. -/
def aggregate (f : List Byte → NalInfo) : Nat → List Byte → NalInfo
  | 0, _ => ⟨true, false, false, false, false⟩
  | _, [] => ⟨true, false, false, false, false⟩
  | n + 1, b => nalJoin (f (b.drop 2)) (aggregate f n (b.drop (2 + be b 0 2)))

/-- A packet of RFC 6184: a single NAL unit, STAP-A or FU-A. -/
def pay264 (p : List Byte) : NalInfo :=
  let f := fun (b : List Byte) => nal264 (byteAt b 0 / 32 % 4) (byteAt b 0 % 32)
  let t := byteAt p 0 % 32
  if t = 24 then aggregate f p.length (p.drop 1)
  else if t = 28 then nal264 (byteAt p 0 / 32 % 4) (byteAt p 1 % 32)
  else if 1 ≤ t ∧ t ≤ 23 then f p else NalInfo.bad

/-- A packet of RFC 7798: a single NAL unit, an aggregation packet or a fragmentation unit. -/
def pay265 (p : List Byte) : NalInfo :=
  let f := fun (b : List Byte) => nal265 (byteAt b 0 / 2 % 64)
  let t := byteAt p 0 / 2 % 64
  if t = 48 then aggregate f p.length (p.drop 2)
  else if t = 49 then nal265 (byteAt p 2 % 64)
  else if t < 48 then f p else NalInfo.bad

/-- A packet of RFC 9134 of a progressive frame; every access unit is a random access point and no reference (R318). -/
def payXs (p : List Byte) : NalInfo := if byteAt p 0 / 8 % 4 = 0 then ⟨true, true, true, true, false⟩ else NalInfo.bad

/-- The packet types that a codec supports. -/
def payOf (codec : Nat) (p : List Byte) : NalInfo := match codec with
  | 0 => pay264 p
  | 1 => pay265 p
  | _ => payXs p

/-- The RTP packet of a datagram, if it is one of version 2, under a codec and the identifier of its NTP header extension (R308, R323). -/
def rtpOf (codec ntpId : Nat) (b : List Byte) : RtpPkt :=
  let p := rtpPayload b
  let i := payOf codec p
  { seq := be b 2 2, ts := be b 4 4, ssrc := be b 8 4, marker := (byteAt b 1).testBit 7, payload := p,
    supported := decide (byteAt b 0 / 64 = 2) && decide (p ≠ []) && i.ok, vcl := i.vcl, nonRef := i.nonRef, rap := i.rap, rasl := i.rasl,
    ntp := if ntpId = 0 then none else ((extsOf b).find? (fun e => decide (e.1 = ntpId) && decide (e.2.length = 8))).map (fun e => beVal e.2) }

end Sys2Proof.Machine
end

