-- ==== Sys2Proof/Machine/IoTypes.lean ====
section
/-!
DEFINITION. Machine/IoTypes.lean: the state of ingest, display, motion, safe I/O, the Hutch, the Bureau, boot, the host
link and the service ports beside their registers (chapters 11 to 18).
-/
namespace Sys2Proof.Machine
open Sys2Proof

/-! ## Display (chapter 12) -/

/-- A flip entry that a layer shows (R351): its number, buffer, chroma offset, pitch and capture time. -/
structure Flip where
  entry : Nat
  buf : Nat
  chroma : Nat
  pitch : Nat
  ts : Nat
  deriving DecidableEq, Repr

/-- The flip ring of a layer (R351, R352): the token value at enabling, the entry shown, entries retired, and of those
not retired the ones shown at some time and the ones discarded. -/
structure FlipRing where
  base : Word
  cur : Option Flip
  retired : Nat
  shown : List Nat
  bad : List Nat
  deriving DecidableEq, Repr

/-- The fields of the neural stage as they stood at a frame's release point (R361): the layer, its registers from +0x00 and
the NRL registers from 0x088. -/
structure Snap where
  layer : Nat
  lw : List Word
  nw : List Word
  deriving DecidableEq, Repr

/-- The selection of a frame (R359): pictures A and B, PHASE, and the fields it goes with. -/
structure Sel where
  frame : Nat
  snap : Option Snap
  a : Flip
  b : Flip
  phase : Nat
  old : Bool                 -- a commit has changed the neural layer since (R359, R361)
  gone : Bool                -- the layer's ring has been started anew since (R351)
  deriving DecidableEq, Repr

/-- A stripe of a frame, released (R353 to R356): the token of its slot, the value of it that says it is done, whether it was issued,
whether the slots were blocked since (R358), the start of the first line at which it was seen done, the entries it
names of the ring of a layer (8: of none any more), and what was decided at its deadline. -/
structure NStripe where
  frame : Nat
  idx : Nat
  part : Nat
  tok : Nat
  goal : Word
  issued : Bool
  dead : Bool
  seen : Option Time
  layer : Nat
  a : Nat
  b : Nat
  neural : Option Bool
  deriving DecidableEq, Repr

/-- A line in the line buffer (R345): layer, row, bytes, and its 64-byte blocks that were returned poisoned. -/
structure BufLine where
  layer : Nat
  row : Nat
  bytes : List Byte
  bad : List Nat
  deriving DecidableEq, Repr

/-- A colour at 12 bits per component. -/
abbrev Pix := Nat × Nat × Nat

/-- A scaled line (R345): layer, destination row, and its pixels with their alpha; none where the source was poisoned or culled. -/
structure ScLine where
  layer : Nat
  row : Nat
  pix : List (Option (Pix × Nat))
  deriving DecidableEq, Repr

/-- The state of an output (chapter 12): the line begun last (blanking lines before line 0 are negative), flip rings,
selections, neural slots (base, issue count, goal of the last stripe), the line buffer, coefficient tables, the line
being sent (a pixel without data is none), AUX retries. -/
structure Dpo where
  line : Int
  rings : Tab FlipRing
  sel : Option Sel
  selNext : Option Sel
  selPrev : Option Sel       -- the last selection before the frame's own, since the layer was enabled (R359)
  quiet : Option Nat         -- frame for which no request is issued (R361)
  slots : Tab (Word × Nat × Option Word)
  blocked : Bool
  stripes : List NStripe
  lines : List BufLine
  chromas : List BufLine
  scaled : List ScLine
  nlines : List BufLine
  coef : List Byte
  coefNext : Option (List Byte)
  coefLoad : Bool
  pix : List (Option Pix)
  lastPix : Pix              -- last pixel of the preceding active line, or the background (R347)
  under : Bool               -- a pixel of this line was repeated
  flipped : Bool             -- the frame shows an entry or buffer new on some layer (R360)
  zeroAt : Time              -- when line 0 of the frame began
  culled : Nat               -- bytes culled, less than one KiB
  skips : List (Nat × Bool × Nat)  -- rows of the frame culled whole: layer, whether of the chroma plane, row
  tries : Nat                -- DEFER replies of the AUX request
  ycc : Bool                 -- trained encoding is YCbCr 4:4:4 (R339)
  deep : Bool                -- trained depth is 10 bits a component
  deriving DecidableEq, Repr

/-- An output after reset. -/
def Dpo.reset : Dpo :=
  { line := 0, rings := [], sel := none, selNext := none, selPrev := none, quiet := none, slots := [], blocked := false, stripes := [], lines := [],
    chromas := [], scaled := [], nlines := [], coef := [], coefNext := none, coefLoad := false, pix := [], lastPix := (0, 0, 0), under := false,
    flipped := false, zeroAt := 0, culled := 0, skips := [], tries := 0, ycc := false, deep := false }

/-! ## Motion and safe I/O (chapter 13) -/

/-- A frame of a cycle (R374): when it started on the wire, the axis-valid bitmap and the process image as far as sent,
its axes (number, group, OUT_OFF, MODE), the bytes of each axis's target that it replaces, the addresses of its datagrams, the data of its
ARMW datagram and its acyclic datagrams. -/
structure Tx where
  cycle : Nat
  start : Option Time
  bitmap : List Byte
  image : List Byte
  sysTime : Nat
  axes : List (Nat × Nat × Nat × Nat)
  keep : Tab (List Byte)     -- per axis, the six bytes after CTRL as emitted last
  validAddr : Nat
  refAdp : Nat
  piAddr : Nat
  armw : List Byte
  acyclic : List Dgram
  deriving DecidableEq, Repr

/-- An input set (R382), and whether it is valid. -/
structure InSet where
  cycle : Nat
  valid : Bool
  image : List Byte
  deriving DecidableEq, Repr

/-- An entry of the command ring that has become available: its number, its cycle, when its signal was received. -/
structure Head where
  entry : Nat
  cycle : Nat
  at_ : Time
  deriving DecidableEq, Repr

/-- A motion port (R373 to R382): BASE of its ring, the next entry to read, the entries available, consecutive stale cycles and
cycles with invalid inputs, whether the set of the last cycle was on time and its GROUP_STOP, the frame on its way, the
last input set, the axis-valid bitmap of the last frame, and the image of the last valid input set. -/
structure MPort where
  base : Word
  ptr : Nat
  heads : List Head
  stale : Nat
  loss : Nat
  onTime : Bool
  gstop : Nat
  tx : Option Tx
  inp : Option InSet
  sent : List Byte
  good : Option (List Byte)
  deriving DecidableEq, Repr

/-- A port that does nothing. -/
def MPort.reset : MPort := ⟨0, 0, [], 0, 0, false, 0, none, none, [], none⟩

/-- What is kept of an axis between cycles (R380, R383, R384, R387): position and velocity of the command emitted last (the velocity in
10⁻⁹ counts per cycle), VLIM, CTRL and TORQUE, whether the next cycle is its first, whether it was in RUN, and ACT_POS of
the last valid input set. -/
structure MAxis where
  p : Int
  v : Int
  vlim : Nat
  ctrl : Nat
  torque : Nat
  target : List Byte
  fresh : Bool
  pos : Int
  deriving DecidableEq, Repr

/-- An axis before its first cycle. -/
def MAxis.reset : MAxis := ⟨0, 0, 0, 0, 0, [], true, 0⟩

/-- The motion port: the next cycle, the base of system time once latched, ports and axes. -/
structure Mot where
  next : Nat
  dcBase : Option Nat
  ports : Tab MPort
  axes : Tab MAxis
  deriving DecidableEq, Repr

/-- The motion port after reset. -/
def Mot.reset : Mot := ⟨0, none, [], []⟩

/-- A stop group (R388, R395): when its latch in each channel was set, a reset request that waits for the channels, a reset granted,
and when its first cause came. -/
structure Grp where
  latA : Option Time
  latB : Option Time
  req : Bool
  granted : Bool
  firstAt : Option Time
  deriving DecidableEq, Repr

/-- A group at power-on: tripped with START (R390). -/
def Grp.reset : Grp := ⟨some 0, some 0, false, false, none⟩

/-- A safe input (R391, R392): channels in demand, when it was pressed and released, since when its channels disagree, when the
last test pulse of each channel started, since when each channel's contact stands at the demand level, channels that did not read low in
their pulse; when the last fault came, whether both channels were seen not in demand together since then, and the channels that have passed a
test pulse since then. -/
structure SIn where
  demA : Bool
  demB : Bool
  press : Option Time
  rel : Option Time
  discAt : Option Time
  pulseA : Option Time
  pulseB : Option Time
  sinceA : Option Time
  sinceB : Option Time
  stuckA : Bool
  stuckB : Bool
  faultAt : Time
  clear : Bool
  passA : Bool
  passB : Bool
  deriving DecidableEq, Repr

/-- A safe input at power-on: it reads as in demand (R399). -/
def SIn.reset : SIn := ⟨true, true, none, none, none, none, none, some 0, some 0, false, false, 0, false, false, false⟩

/-- A safe output (R394): channels of a BRAKE output that are off, channels whose readback differs, when it did last, when the last
test pulse of each channel started, and since when the readback of each channel differs. -/
structure SOut where
  offA : Bool
  offB : Bool
  badA : Bool
  badB : Bool
  faultAt : Time
  pulseA : Option Time
  pulseB : Option Time
  diffA : Option Time
  diffB : Option Time
  deriving DecidableEq, Repr

/-- A safe output at power-on: off (R403). -/
def SOut.reset : SOut := ⟨true, true, false, false, 0, none, none, none, none⟩

/-- Safe I/O: groups, inputs, outputs, whether START is active (R390), and whether every output still requests the safe state since power-on
(R29). -/
structure Sio where
  grps : Tab Grp
  ins : Tab SIn
  outs : Tab SOut
  start : Bool
  hold : Bool
  deriving DecidableEq, Repr

/-- Safe I/O at power-on. -/
def Sio.reset : Sio := ⟨[], [], [], true, true⟩

/-! ## The Hutch (chapter 14) -/

/-- A zone of the Hutch (R411 to R413): the state its latest comparison set, the capture time of its latest compared frame, the counters of
its disagreements (newest first), the checker's latest result (counter, presence, capture time), the epoch before
which a mailbox command holds it invalid, and the latest frame that made it invalid without a comparison (R28, R411). -/
structure HZone where
  valid : Bool
  capAt : Option Nat
  dis : List Nat
  chk : Option (Nat × Bool × Nat)
  until_ : Nat
  bar : Option Nat
  deriving DecidableEq, Repr

/-- A zone before its first comparison. -/
def HZone.reset : HZone := ⟨false, none, [], none, 0, none⟩

/-- A channel of the Hutch (R400, R402, R428): restarting, restarts failed in succession, failed, under proof test, the last heartbeat
received from it, its last proof test (the day, plus one), its own comparison state by zone (R411), the latest heartbeat that it
received, since when a decision of the other channel has differed from its own (by zone; key 16: the copies of the
configuration, R432), and what its SRAM holds of the HUTCH record (R402). -/
structure HChan where
  restarting : Bool
  fails : Nat
  failed : Bool
  testing : Bool
  beat : Time
  day : Nat
  zones : Tab HZone
  got : Option HutBeat
  diff : Tab Time
  sram : List Byte
  deriving DecidableEq, Repr

/-- A channel at power-on. -/
def HChan.reset : HChan := ⟨false, 0, false, false, 0, 0, [], none, [], []⟩

/-- A comparison (R411): its zone and frame, the frame's capture and publication, and the two results. -/
structure Cmp where
  zone : Nat
  ctr : Nat
  cap : Nat
  publish : Nat
  chk : Option Bool
  rep : Option Bool
  part : Option Nat
  closed : Bool
  deriving DecidableEq, Repr

/-- The crops of a picture that the checker has still to run (R408, R409): stream, counter, capture, publication, and the bytes of each zone's crop. -/
structure Crops where
  stream : Nat
  ctr : Nat
  cap : Nat
  publish : Nat
  zones : List (Nat × List Byte)
  deriving DecidableEq, Repr

/-- The golden state of an engine (R414 to R419): a run in progress and its start, whether a golden frame has begun for it, whether a run
has been completed in it, whether the frame before ended without one and is still to be counted, consecutive deferrals, an
unconfirmed mismatch, the unverified bit, and the engine's signature unit as its last run left it (R415). -/
structure Gold where
  run : Option Time
  began : Bool
  done : Bool
  owed : Bool
  defer : Nat
  mis : Bool
  unv : Bool
  sig : Word
  deriving DecidableEq, Repr

/-- An engine never tested. -/
def Gold.reset : Gold := ⟨none, false, false, false, 0, false, false, 0⟩

/-- An event of the Hutch's log (R426): timebase, code, argument. -/
abbrev HEvent := Nat × Nat × Nat

/-- The Hutch: channels, channel B's own copy of the configuration (R406, R432; a register not listed is at its reset value) and of the golden
signatures of a core and a Footstool (R415), whether it has begun to supervise (R404), since when supervision is interrupted, comparisons, the crops
the checker has still to run, the last counter accepted of each stream, zone rings
(BASE, next entry), engines by key (core l, 256 + cluster for a Footstool, 272 + cluster for a spare, 288 the checker),
class-A restarts pending with their limits, class-S restarts pending, class-S partitions that entered RESETTING otherwise,
the event log (newest first), the epoch of the last KICK, and SEQ of the status record. -/
structure Hut where
  chA : HChan
  chB : HChan
  copyB : Tab Word
  sigsB : Word × Word
  passed : Bool
  unsupFrom : Option Time
  cmps : List Cmp
  crops : List Crops
  lastCtr : Tab Nat
  rings : Tab (Word × Nat)
  gold : Tab Gold
  apend : Tab Time
  spend : List Nat
  lost : List Nat
  log : List HEvent
  kickEpoch : Option Nat
  seq : Nat
  deriving DecidableEq, Repr

/-- The Hutch at power-on. -/
def Hut.reset : Hut :=
  { chA := HChan.reset, chB := HChan.reset, copyB := [], sigsB := (0, 0), passed := false, unsupFrom := none, cmps := [], crops := [], lastCtr := [],
    rings := [], gold := [], apend := [], spend := [], lost := [], log := [], kickEpoch := none, seq := 0 }

/-! ## The Bureau (chapter 15) -/

/-- What WAKE_PORT keeps through STANDBY as it was locked at boot: its MAC address, SPEED and FEC (R300, R434). -/
structure WakePort where
  mac : Nat
  speed : Nat
  fec : Nat
  deriving DecidableEq, Repr

/-- The Bureau: the 3.3 V standby input and the 12 V input in range, steps of R437 completed (8: all), a power-down that only a
module reset or a power-on ends (R438, R444), STANDBY (R447), a request for it and when it was written (R450), THERMTRIP_N low
(R510), the set point of the thermal ladder and of the power cap per rail (none: no step in force), their holds per cluster, the
last millisecond of the ladder and the instant of the last average (R442, R446), floor breaches by partition (none: a condition
holds; or since when neither does, R443), hold periods by cluster (start and end), clusters gated (R448), what WAKE_PORT keeps
in STANDBY (R434), and whether the rails have been read since power-on, from when PG of VAON reports it (R454, log entry 96). -/
structure Bur where
  vaon : Bool
  vin : Bool
  seq : Nat
  latched : Bool
  standby : Bool
  request : Option Time
  tripPin : Bool
  ladder : Tab Nat
  cap : Tab Nat
  ladHold : Tab Nat
  capHold : Tab Nat
  ladMs : Nat
  capAt : Time
  breach : Tab (Option Time)
  holds : Tab (Time × Time)
  gated : List Nat
  wake : Option WakePort
  railsRead : Bool
  deriving DecidableEq, Repr

/-- The Bureau once VAON is good (R437): no rail is up and the 12 V input has not been read yet. -/
def Bur.reset : Bur :=
  { vaon := true, vin := false, seq := 0, latched := false, standby := false, request := none, tripPin := false, ladder := [], cap := [],
    ladHold := [], capHold := [], ladMs := 0, capAt := 0, breach := [], holds := [], gated := [], wake := none, railsRead := false }

/-! ## Boot (chapter 16) -/

/-- A policy module that is loaded (R467 to R469): its number in the image, windows (base, length, WR), budget, callbacks, aborts so
far, the last epoch of an EPOCH call plus one, and whether the SERVICE call was made. -/
structure PolMod where
  idx : Nat
  wins : List (Nat × Nat × Bool)
  budget : Nat
  calls : Nat
  aborts : Nat
  last : Nat
  served : Bool
  deriving DecidableEq, Repr

/-- Boot: the xSPI and the eMMC device, key slots revoked (R460), RESET_N low, the start of boot (R456), DRAM
still to be zeroed, DRAM trained, HUT and BUR fields kept through STANDBY (R466), copies still to be tried after a
management reset (R476), whether the firmware runs, what the SRAM of the control complex holds of it (R184), ADVANCE_SVN, the modules of the image as payloads, the model table, the
policy as the POLICY record states it, the modules loaded. -/
structure Boot where
  flash : List Host.Cell
  emmc : List Host.Cell
  revoked : List Nat
  resetN : Bool
  from_ : Time
  zero : Bool
  trained : Bool
  kept : Bool
  held : Bool
  mgmt : List Bool
  fw : Bool
  sram : List Byte
  advance : Bool
  payloads : List (List Byte)
  models : List (List Byte)
  pol : Policy
  mods : List PolMod
  deriving DecidableEq, Repr

/-- Boot before anything has run: both devices erased, no key slot revoked (log entry 2). -/
def Boot.reset : Boot :=
  { flash := [], emmc := [], revoked := [], resetN := false, from_ := 0, zero := true, trained := false, kept := false, held := false,
    mgmt := [], fw := false, sram := [], advance := false, payloads := [], models := [], pol := Policy.none, mods := [] }

/-! ## The host link and the service pins (chapters 17 and 18) -/

/-- How an access of the host is answered (R456, R488). -/
inductive BusReply where
  | none
  | data (bytes : List Byte)
  | unsupported
  | retry
  deriving DecidableEq, Repr

/-- A message handed to the firmware (R490): its mailbox, its bytes, and whether the host side was reset since (R484). -/
abbrev MbMsg := Nat × List Byte × Bool

/-- The host link: the telemetry rings in host memory (R493) with SEQ and the records dropped and not yet told (R495), the MSI-X
table and pending bits (R496), messages sent by vector, configuration space as written, the answer to the last access, a
HIF_MEMRD read in progress (R502). -/
structure Hif where
  mem : List Host.Cell
  rings : Tab (Nat × Nat)
  msix : Tab Word
  pba : Nat
  sent : Tab Nat
  cfg : Tab Word
  answer : BusReply
  memrd : Option Nat
  deriving DecidableEq, Repr

/-- The host link after reset. -/
def Hif.reset : Hif := ⟨[], [], [], 0, [], [], .none, none⟩

/-- The instruction register of the JTAG port (R512). -/
inductive JtagIr where
  | bypass | idcode | sample | extest
  deriving DecidableEq, Repr

/-- Service: messages handed over and not answered, in order of GO (R490), the last counter accepted from each source (R492), the
last datagram sent, the last reply over SMBus, since when the watchdog is suspended (epoch, R477), VBUS removed (R505), the
JTAG instruction, its data register and the boundary cells preloaded (R512), the event read last and the groups whose present
FIRST_CAUSE has been read (R513), what the control complex last read, and the codes that fields of R494 have recorded and whose EVENT
record is still to be written, oldest first, with their arguments (log entry 94), and the message whose IMAGE_WRITE is in progress (R491). -/
structure Svc where
  queue : List MbMsg
  ctrs : Tab Nat
  sent : List Byte
  smb : List Byte
  wdog : Nat
  vbusOff : Tab Time
  ir : JtagIr
  dr : List Bool
  cells : List Bool
  seenEvt : Option HEvent
  seenTrip : Tab Nat
  word : Word
  untold : List (EventSource × Nat × Nat)
  img : Option MbMsg
  deriving DecidableEq, Repr

/-- Service after reset. -/
def Svc.reset : Svc := ⟨[], [], [], [], 0, [], .idcode, [], [], none, [], 0, [], none⟩

end Sys2Proof.Machine
end

