-- ==== Sys2Proof/Config.lean ====
section
/-!
DEFINITION. Config.lean: what an implementation fixes and the spec leaves open.
Each constant is opaque: nothing in Lean can evaluate it, so a claim holds for every value of it.
The log entry that declares each one is named in its docstring.
-/
namespace Sys2Proof.Config

/-- A free value: the `n`-th one drawn from the machine's counter (log entry 3). -/
opaque freeValue : Nat → BitVec 64

/-- The sign of a NaN that an operation generates, or takes from one of two NaN operands: R102 fixes the sign
only of a NaN that replaces one NaN (log entry 4).  `op` names the operation. -/
opaque nanSign : (op a b : Nat) → Bool

/-- Which of the results that R72 permits (within 1 or 2 ulp) a reciprocal, root, divide, exp2 or log2 returns, as
an offset in ulp from the correctly rounded result: R73 makes it a function of the operand bits (log entry 5). -/
opaque ulpPick : (op a b : Nat) → Int

/-- The FP32 result of a vector operation at an operand for which the spec states none: log2 of zero or of a
negative number, the reciprocal square root of a negative number (log entry 5). -/
opaque vecOpen : (op a : Nat) → BitVec 32

/-- A byte that the Wardrobe reads from the generator range for a partition: R289 gives bytes to reads made for a context, and none to reads
made for a partition alone (log entry 80). -/
opaque partGen : (part addr : Nat) → BitVec 8

/-- Pyrmor's public key in the boot ROM, as SEC 1 encodes it: the spec names it and does not give it (R461; log entry 8). -/
opaque romKey : List (BitVec 8)

/-- Whether the signature blocks of a HUTCH record are valid against that key: the record's layout, and with it their place, is not in the
spec (R461; log entry 8). -/
opaque hutchSigned : (payload : List (BitVec 8)) → Bool

/-- The SHA-384 digest of the public key fused in a key slot (R460; log entry 2). -/
opaque fusedKey : (slot : Nat) → List (BitVec 8)

/-- How a field of a configuration register acts that holds a value the spec reserves and for which no rule says what follows: the value of
its list that it acts as (log entry 57). -/
opaque reservedAs : (field value : Nat) → Nat

/-- Pyrmor's manufacturer identity in the JTAG IDCODE, bits [11:1] (R512; log entry 41). -/
opaque jtagMaker : BitVec 11

/-- The boundary cells that only observe, those of the safe outputs and the test pulses among them, as the boundary-scan description places
them (R512; log entry 41). -/
opaque observeOnly : Nat → Bool

/-- What a byte of a decode engine's working memory holds for an access unit of a stream, by its frame counter (R184; log entry 95). -/
opaque decoderByte : Nat → Nat → Nat → BitVec 8

end Sys2Proof.Config
end

