-- ==== Sys2Proof/Machine/Num.lean ====
section
/-!
DEFINITION. Machine/Num.lean: the formats of chapter 04 and exact arithmetic on them.
A floating-point value is decoded to a signed dyadic m × 2^e, computed exactly, and rounded once, to nearest with
ties to even (R107).  Conversions into a narrower format follow R108.
-/
namespace Sys2Proof.Machine
open Sys2Proof

/-- A value: a NaN, an infinity, or ± m × 2^e (R101). -/
inductive Num where
  | nan (neg : Bool)
  | inf (neg : Bool)
  | fin (neg : Bool) (m : Nat) (e : Int)
  deriving DecidableEq, Repr

/-- The element formats of R136. -/
inductive Fmt where
  | u8 | s8 | s4 | cb4 | s16 | s32 | e4m3 | e5m2 | bf16 | fp32
  deriving DecidableEq, Repr

/-- FORMAT codes (R136); a reserved code names no format. -/
def fmtOfCode : Nat → Option Fmt
  | 1 => some .u8 | 2 => some .s8 | 3 => some .s4 | 4 => some .cb4 | 5 => some .s16
  | 6 => some .s32 | 7 => some .e4m3 | 8 => some .e5m2 | 9 => some .bf16 | 10 => some .fp32
  | _ => none

/-- Element size E in bytes, taken as 1 for the 4-bit formats (R137). -/
def fmtBytes : Fmt → Nat
  | .s16 => 2 | .bf16 => 2 | .s32 => 4 | .fp32 => 4 | _ => 1

/-- A format of 4-bit codes (R99). -/
def fmtIs4 : Fmt → Bool
  | .s4 => true | .cb4 => true | _ => false

/-- A floating-point format (R101). -/
def fmtIsFloat : Fmt → Bool
  | .e4m3 => true | .e5m2 => true | .bf16 => true | .fp32 => true | _ => false

/-- Shape of a floating-point format: mantissa bits, bias, exponent field's largest value (R101). -/
structure FShape where
  mb : Nat
  bias : Nat
  emax : Nat
  width : Nat
  ieee : Bool      -- the all-ones exponent holds infinity and NaN (false: E4M3)
  deriving DecidableEq, Repr

/-- Shapes of the four floating-point formats (R101). -/
def fshape : Fmt → FShape
  | .e4m3 => ⟨3, 7, 15, 8, false⟩
  | .e5m2 => ⟨2, 15, 31, 8, true⟩
  | .bf16 => ⟨7, 127, 255, 16, true⟩
  | _ => ⟨23, 127, 255, 32, true⟩

/-- Number of bits of a natural: 0 for 0. -/
def bitLen (n : Nat) : Nat := if n = 0 then 0 else Nat.log2 n + 1

/-- m ÷ 2^s rounded to nearest, ties to even (R107). -/
def rneShift (m s : Nat) : Nat :=
  let q := m / 2 ^ s
  let r := m % 2 ^ s
  if 2 * r < 2 ^ s then q else if 2 ^ s < 2 * r then q + 1 else q + q % 2

/-- Decode a pattern of a floating-point format (R101). -/
def decodeF (f : FShape) (v : Nat) : Num :=
  let neg := v.testBit (f.width - 1)
  let ex := v / 2 ^ f.mb % (f.emax + 1)
  let ma := v % 2 ^ f.mb
  if f.ieee && ex = f.emax then (if ma = 0 then .inf neg else .nan neg)
  else if !f.ieee && ex = f.emax && ma = 2 ^ f.mb - 1 then .nan neg
  else if ex = 0 then .fin neg ma (1 - (f.bias : Int) - f.mb)
  else .fin neg (2 ^ f.mb + ma) ((ex : Int) - f.bias - f.mb)

/-- Round a magnitude to the format's precision as if its exponent range were unbounded above, subnormals kept
(R107, R108): the mantissa and its exponent. -/
def roundSig (f : FShape) (m : Nat) (e : Int) : Nat × Int :=
  let emin : Int := 1 - (f.bias : Int) - f.mb
  let want : Int := e + (bitLen m : Int) - ((f.mb + 1 : Nat) : Int)
  let ue := if want < emin then emin else want
  if ue ≤ e then (m * 2 ^ (e - ue).toNat, ue)
  else
    let q := rneShift m (ue - e).toNat
    if q = 2 ^ (f.mb + 1) then (2 ^ f.mb, ue + 1) else (q, ue)

/-- The sign bit of a pattern. -/
def signBit (f : FShape) (neg : Bool) : Nat := if neg then 2 ^ (f.width - 1) else 0

/-- The canonical NaN of a format (R102). -/
def canonNaN (f : FShape) (neg : Bool) : Nat :=
  signBit f neg + (if f.width = 8 then 0x7F else if f.width = 16 then 0x7FC0 else 0x7FC00000)

/-- The pattern of infinity. -/
def infPat (f : FShape) (neg : Bool) : Nat := signBit f neg + f.emax * 2 ^ f.mb

/-- The pattern of the largest finite magnitude (R101). -/
def maxPat (f : FShape) (neg : Bool) : Nat :=
  signBit f neg + (if f.ieee then (f.emax - 1) * 2 ^ f.mb + (2 ^ f.mb - 1) else f.emax * 2 ^ f.mb + (2 ^ f.mb - 2))

/-- Whether a rounded magnitude lies beyond the largest finite value of the format. -/
def beyondMax (f : FShape) (m : Nat) (e : Int) : Bool :=
  let ex := e + f.mb + f.bias       -- exponent field of a normal value
  decide (2 ^ f.mb ≤ m) &&
    (if f.ieee then decide ((f.emax : Int) ≤ ex)
     else decide ((f.emax : Int) < ex) || (decide (ex = f.emax) && decide (m = 2 ^ (f.mb + 1) - 1)))

/-- The pattern of a rounded magnitude that lies within range. -/
def packF (f : FShape) (neg : Bool) (m : Nat) (e : Int) : Nat :=
  signBit f neg + (if m < 2 ^ f.mb then m else (e + f.mb + f.bias).toNat * 2 ^ f.mb + (m - 2 ^ f.mb))

/-- A code together with what R108 counts: a saturation, a NaN result. -/
structure Conv where
  code : Nat
  sat : Bool
  nan : Bool
  deriving DecidableEq, Repr

/-- Convert a value to E4M3, E5M2 or BF16 (R108): one rounding, beyond the largest finite value saturates. -/
def convFloat (f : FShape) : Num → Conv
  | .nan n => ⟨canonNaN f n, false, true⟩
  | .inf n => ⟨maxPat f n, true, false⟩
  | .fin n m e =>
    let r := roundSig f m e
    if beyondMax f r.1 r.2 then ⟨maxPat f n, true, false⟩ else ⟨packF f n r.1 r.2, false, false⟩

/-- An FP32 pattern, with overflow to infinity (IEEE 754-2019; R108: within the drain stages and the vector unit). -/
def packFp32 : Num → Word
  | .nan n => BitVec.ofNat 32 (canonNaN (fshape .fp32) n)
  | .inf n => BitVec.ofNat 32 (infPat (fshape .fp32) n)
  | .fin n m e =>
    let f := fshape .fp32
    let r := roundSig f m e
    BitVec.ofNat 32 (if beyondMax f r.1 r.2 then infPat f n else packF f n r.1 r.2)

/-- The value of an FP32 pattern. -/
def num32 (w : Word) : Num := decodeF (fshape .fp32) w.toNat

/-- ± m × 2^e rounded to an integer, ties to even (R107). -/
def roundInt (neg : Bool) (m : Nat) (e : Int) : Int :=
  let q : Nat := if 0 ≤ e then m * 2 ^ e.toNat else rneShift m (-e).toNat
  if neg then -(q : Int) else q

/-- Convert a value to an integer format with zero point `zp` (R108): the range check applies after ZP is added;
a NaN gives the code ZP. -/
def convInt (lo hi zp : Int) (w : Nat) : Num → Conv
  | .nan _ => ⟨tc w zp, false, true⟩
  | .inf n => ⟨tc w (if n then lo else hi), true, false⟩
  | .fin n m e =>
    let v := roundInt n m e + zp
    if v < lo then ⟨tc w lo, true, false⟩ else if hi < v then ⟨tc w hi, true, false⟩ else ⟨tc w v, false, false⟩

/-- Conversion of an exact value into any target format (R108); ZP acts for U8 and S8 only. -/
def convTo (f : Fmt) (zp : Int) (v : Num) : Conv :=
  match f with
  | .u8 => convInt 0 255 zp 8 v
  | .s8 => convInt (-128) 127 zp 8 v
  | .s16 => convInt (-32768) 32767 0 16 v
  | .s32 => convInt (-2147483648) 2147483647 0 32 v
  | .e4m3 => convFloat (fshape .e4m3) v
  | .e5m2 => convFloat (fshape .e5m2) v
  | .bf16 => convFloat (fshape .bf16) v
  | .fp32 => match v with
    | .nan n => ⟨canonNaN (fshape .fp32) n, false, true⟩
    | w => ⟨(packFp32 w).toNat, false, false⟩
  | .s4 => convInt (-8) 7 0 4 v
  | .cb4 => convInt (-8) 7 0 4 v

/-- Signed mantissas of two dyadics on one exponent. -/
def alignPair (n1 : Bool) (m1 : Nat) (e1 : Int) (n2 : Bool) (m2 : Nat) (e2 : Int) : Int × Int × Int :=
  let e := min e1 e2
  let a : Int := m1 * 2 ^ (e1 - e).toNat
  let b : Int := m2 * 2 ^ (e2 - e).toNat
  (if n1 then -a else a, if n2 then -b else b, e)

/-- Exact sum of two values; the sign of an exact zero is negative only for (−0) + (−0).
`op`, `a`, `b` name the operation for the sign of a generated NaN. -/
def numAdd (op a b : Nat) : Num → Num → Num
  | .nan n, .nan m => if n = m then .nan n else .nan (Config.nanSign op a b)
  | .nan n, _ => .nan n
  | _, .nan n => .nan n
  | .inf n, .inf m => if n = m then .inf n else .nan (Config.nanSign op a b)
  | .inf n, .fin .. => .inf n
  | .fin .., .inf n => .inf n
  | .fin n1 m1 e1, .fin n2 m2 e2 =>
    let r := alignPair n1 m1 e1 n2 m2 e2
    let s := r.1 + r.2.1
    if s = 0 then .fin (n1 && n2) 0 r.2.2 else .fin (decide (s < 0)) s.natAbs r.2.2

/-- Exact product of two values. -/
def numMul (op a b : Nat) : Num → Num → Num
  | .nan n, .nan m => if n = m then .nan n else .nan (Config.nanSign op a b)
  | .nan n, _ => .nan n
  | _, .nan n => .nan n
  | .inf n, .inf m => .inf (n != m)
  | .inf n, .fin s m _ => if m = 0 then .nan (Config.nanSign op a b) else .inf (n != s)
  | .fin s m _, .inf n => if m = 0 then .nan (Config.nanSign op a b) else .inf (n != s)
  | .fin n1 m1 e1, .fin n2 m2 e2 => .fin (n1 != n2) (m1 * m2) (e1 + e2)

/-- The opposite value. -/
def numNeg : Num → Num
  | .nan n => .nan (!n) | .inf n => .inf (!n) | .fin n m e => .fin (!n) m e

/-- An integer as a value. -/
def numInt (i : Int) : Num := .fin (decide (i < 0)) i.natAbs 0

/-- Whether a value is a NaN. -/
def numIsNaN : Num → Bool
  | .nan _ => true | _ => false

/-- Whether a value is an infinity. -/
def numIsInf : Num → Bool
  | .inf _ => true | _ => false

/-- Strictly less, on numbers; zeros of either sign are equal.  False where either is a NaN. -/
def numLt : Num → Num → Bool
  | .nan _, _ => false
  | _, .nan _ => false
  | .inf n, .inf m => n && !m
  | .inf n, .fin .. => n
  | .fin .., .inf m => !m
  | .fin n1 m1 e1, .fin n2 m2 e2 =>
    let r := alignPair n1 m1 e1 n2 m2 e2
    decide (r.1 < r.2.1)

/-- A zero of negative sign. -/
def numNegZero : Num → Bool
  | .fin n m _ => n && decide (m = 0) | _ => false

/-- The maximum of IEEE 754-2019 (R72): a NaN operand yields a NaN, −0.0 orders below +0.0. -/
def numMax (a b : Nat) (x y : Num) : Num :=
  match x, y with
  | .nan n, .nan m => if n = m then .nan n else .nan (Config.nanSign 20 a b)
  | .nan n, _ => .nan n
  | _, .nan n => .nan n
  | x, y => if numLt x y || (!numLt y x && numNegZero x) then y else x

/-- The minimum of IEEE 754-2019 (R72). -/
def numMin (a b : Nat) (x y : Num) : Num :=
  match x, y with
  | .nan n, .nan m => if n = m then .nan n else .nan (Config.nanSign 21 a b)
  | .nan n, _ => .nan n
  | _, .nan n => .nan n
  | x, y => if numLt y x || (!numLt x y && numNegZero y) then y else x

/-- FP32 operations of R72, correctly rounded (stage arithmetic of the drain and the vector unit). -/
def fAdd (a b : Word) : Word := packFp32 (numAdd 1 a.toNat b.toNat (num32 a) (num32 b))
/-- The opposite of a number; a NaN keeps its sign (R102). -/
def numMinus : Num → Num
  | .nan n => .nan n | v => numNeg v
/-- FP32 subtract. -/
def fSub (a b : Word) : Word := packFp32 (numAdd 2 a.toNat b.toNat (num32 a) (numMinus (num32 b)))
/-- FP32 multiply. -/
def fMul (a b : Word) : Word := packFp32 (numMul 3 a.toNat b.toNat (num32 a) (num32 b))
/-- FP32 fused multiply-add: one rounding. -/
def fFma (a b c : Word) : Word :=
  packFp32 (numAdd 4 (a.toNat + 2 ^ 32 * b.toNat) c.toNat (numMul 5 a.toNat b.toNat (num32 a) (num32 b)) (num32 c))
/-- FP32 maximum. -/
def fMax (a b : Word) : Word := packFp32 (numMax a.toNat b.toNat (num32 a) (num32 b))
/-- FP32 minimum. -/
def fMin (a b : Word) : Word := packFp32 (numMin a.toNat b.toNat (num32 a) (num32 b))
/-- FP32 absolute value and negation act on the sign bit; a NaN yields the canonical NaN of its own sign (R102). -/
def fAbs (a : Word) : Word := match num32 a with
  | .nan n => packFp32 (.nan n) | .inf _ => packFp32 (.inf false) | .fin _ m e => packFp32 (.fin false m e)
/-- FP32 negation. -/
def fNeg (a : Word) : Word := packFp32 (numMinus (num32 a))
/-- +0.0. -/
def fZero : Word := 0
/-- 1.0. -/
def fOne : Word := 0x3F800000
/-- An exact integer rounded to FP32 (R65: an S32 sum converts by rounding to nearest even). -/
def fOfInt (i : Int) : Word := packFp32 (numInt i)

/-- Correctly rounded quotient of two finite magnitudes, as a dyadic with a sticky bit below the rounding point. -/
def quotDyadic (m1 : Nat) (e1 : Int) (m2 : Nat) (e2 : Int) : Nat × Int :=
  let k := 64 + bitLen m2
  let q := m1 * 2 ^ k / m2
  let r := m1 * 2 ^ k % m2
  (2 * q + (if r = 0 then 0 else 1), e1 - e2 - k - 1)

/-- The quotient of IEEE 754-2019 before rounding. -/
def numDiv (op a b : Nat) : Num → Num → Num
  | .nan n, .nan m => if n = m then .nan n else .nan (Config.nanSign op a b)
  | .nan n, _ => .nan n
  | _, .nan n => .nan n
  | .inf _, .inf _ => .nan (Config.nanSign op a b)
  | .inf n, .fin m _ _ => .inf (n != m)
  | .fin n _ _, .inf m => .fin (n != m) 0 0
  | .fin n1 m1 e1, .fin n2 m2 e2 =>
    if m2 = 0 then (if m1 = 0 then .nan (Config.nanSign op a b) else .inf (n1 != n2))
    else let q := quotDyadic m1 e1 m2 e2; .fin (n1 != n2) q.1 q.2

/-- FP32 quotient, correctly rounded (R111: OUT_MUL; R176: the average). -/
def fDivRn (a b : Word) : Word := packFp32 (numDiv 6 a.toNat b.toNat (num32 a) (num32 b))

/-- A pattern `k` ulp away in magnitude, kept inside the finite magnitudes of its sign. -/
def stepUlp (w : Word) (k : Int) : Word :=
  let s : Nat := w.toNat / 2 ^ 31
  let m : Int := ((w.toNat % 2 ^ 31 : Nat) : Int)
  BitVec.ofNat 32 (s * 2 ^ 31 + (clampInt 0 0x7F7FFFFF (m + k)).toNat)

/-- Exponent of one ulp of an FP32 pattern. -/
def ulpExp (w : Word) : Int :=
  let ex : Nat := w.toNat / 2 ^ 23 % 256
  if ex = 0 then -149 else (ex : Int) - 150

/-- Magnitude of a finite FP32 pattern in units of 2^-149. -/
def magUnits (w : Word) : Nat := match num32 w with
  | .fin _ m e => m * 2 ^ (e + 149).toNat
  | _ => 0

/-- Choose the result that the implementation returns among those within one ulp of a / b: the correctly rounded
result moved by the offset of Config.ulpPick, taken only where the moved result still lies within one ulp (R72). -/
def withinUlpDiv (op : Nat) (a b r : Word) : Word :=
  match num32 a, num32 b, num32 r with
  | .fin _ ma ea, .fin _ mb eb, .fin .. =>
    if ma = 0 || mb = 0 then r else
    let c := stepUlp r (clampInt (-1) 1 (Config.ulpPick op a.toNat b.toNat))
    -- |c − a/b| ≤ ulp(r), all in units of 2^-149 times the divisor
    let ua : Int := (ma * 2 ^ (ea + 149).toNat : Nat) * (2 ^ 149 : Nat)
    let ub : Int := (mb * 2 ^ (eb + 149).toNat : Nat)
    let diff := ((magUnits c : Nat) * ub - ua).natAbs
    if diff ≤ 2 ^ (ulpExp r + 149).toNat * ub.natAbs then c else r
  | _, _, _ => r

/-- Vector divide: within 1 ulp (R72). -/
def vDiv (a b : Word) : Word := withinUlpDiv 30 a b (fDivRn a b)
/-- Vector reciprocal: within 1 ulp (R72). -/
def vRcp (a : Word) : Word := withinUlpDiv 31 fOne a (fDivRn fOne a)

/-- Whether the FP32 magnitude c, in units of 2^-149, lies within d units of 1/√x, x in units of 2^-149. -/
def rsqrtNear (x c d : Nat) : Bool :=
  -- 1/√(x·2^-149) in units of 2^-149 is √(2^447 / x)
  let lo := c - d
  decide (lo * lo * x ≤ 2 ^ 447) && decide (2 ^ 447 ≤ (c + d) * (c + d) * x)

/-- Integer square root, one bit at a time from bit `k` − 1 down. -/
def isqrtFrom (n : Nat) : Nat → Nat → Nat
  | 0, r => r
  | k + 1, r => isqrtFrom n k (if (r + 2 ^ k) * (r + 2 ^ k) ≤ n then r + 2 ^ k else r)

/-- The correctly rounded reciprocal square root of a positive finite value, by its integer square root. -/
def rsqrtRn (m : Nat) (e : Int) : Word :=
  -- value = 1/√(m 2^e); scale so that the radicand is an integer: √(2^(2k) / (m 2^e))
  let ee := if e % 2 = 0 then e else e - 1
  let mm := if e % 2 = 0 then m else 2 * m
  let k : Nat := 64 + bitLen mm
  let q := isqrtFrom (2 ^ (2 * k) / mm) (k + 2) 0
  let exact := q * q * mm = 2 ^ (2 * k)
  packFp32 (.fin false (2 * q + (if exact then 0 else 1)) (-(ee / 2) - k - 1))

/-- Vector reciprocal square root: within 1 ulp (R72).  A negative operand has no stated result. -/
def vRsqrt (a : Word) : Word :=
  match num32 a with
  | .nan n => packFp32 (.nan n)
  | .inf n => if n then Config.vecOpen 32 a.toNat else fZero
  | .fin n m e =>
    if m = 0 then packFp32 (.inf n)
    else if n then Config.vecOpen 32 a.toNat
    else
      let r := rsqrtRn m e
      let c := stepUlp r (clampInt (-1) 1 (Config.ulpPick 32 a.toNat 0))
      if rsqrtNear (magUnits a) (magUnits c) (2 ^ (ulpExp r + 149).toNat) then c else r

/-- ln 2 in units of 2^-80. -/
def ln2Fix : Nat := 837963523372001241319907

/-- Terms of the exponential series, in units of 2^-80: Σ y^i / i!, the current term given. -/
def expSeries (y : Nat) : Nat → Nat → Nat → Nat
  | 0, _, _ => 0
  | k + 1, i, term => term + expSeries y k (i + 1) (term * y / 2 ^ 80 / i)

/-- 2^f for 0 ≤ f < 1, f and the result in units of 2^-80: an approximation far closer than 2^-60. -/
def exp2Frac (f : Nat) : Nat := expSeries (f * ln2Fix / 2 ^ 80) 30 1 (2 ^ 80)

/-- The signed value of a finite FP32 pattern in units of 2^-149. -/
def sgnUnits (w : Word) : Int := if w.getLsbD 31 then -(magUnits w : Int) else (magUnits w : Int)

/-- The FP32 pattern `k` patterns above (for `k` < 0 below) one in magnitude; below zero the sign turns. -/
def crossUlp (w : Word) (k : Int) : Word :=
  let n := ((w.toNat % 2 ^ 31 : Nat) : Int) + k
  if n < 0 then stepUlp (w ^^^ 0x80000000) (-2 * ((w.toNat % 2 ^ 31 : Nat) : Int) - k) else stepUlp w k

/-- Choose the result that the implementation returns among those within two ulp of an exact value: the rounded result `r` moved by the
offset of Config.ulpPick, taken only where the moved one lies within two ulp of it (R72).  The exact value is `v` in units of 2^-240. -/
def withinTwo (op : Nat) (a : Word) (v : Int) (r : Word) : Word :=
  match num32 r with
  | .fin .. =>
    let c := crossUlp r (clampInt (-2) 2 (Config.ulpPick op a.toNat 0))
    if (sgnUnits c * (2 ^ 91 : Nat) - v).natAbs ≤ 2 * 2 ^ (ulpExp r + 240).toNat then c else r
  | _ => r

/-- Vector exp2: within 2 ulp (R72); exact at zero, where any other result would let the blocks that other rows of a query tile process
change a row (R224, R287; log entry 5). -/
def vExp2 (a : Word) : Word :=
  match num32 a with
  | .nan n => packFp32 (.nan n)
  | .inf n => if n then fZero else packFp32 (.inf false)
  | .fin n m e =>
    if m = 0 then fOne else
    -- x in units of 2^-80, floor
    let x : Int := (if 0 ≤ e + 80 then ((m * 2 ^ (min (e + 80) 200).toNat : Nat) : Int) else ((m / 2 ^ (-(e + 80)).toNat : Nat) : Int))
    let x := if n then -x else x
    let k := x / (2 ^ 80 : Nat)
    let f := (x % (2 ^ 80 : Nat)).toNat
    if 130 < k then packFp32 (.inf false)
    else if k < -160 then withinTwo 33 a 0 fZero
    else withinTwo 33 a ((exp2Frac f * 2 ^ (k + 160).toNat : Nat) : Int) (packFp32 (.fin false (exp2Frac f) (k - 80)))

/-- Bits of log2 of a mantissa y in [1, 2), in units of 2^-64, by repeated squaring. -/
def log2Bits : Nat → Nat → Nat → Nat
  | 0, _, acc => acc
  | k + 1, y, acc =>
    let z := y * y / 2 ^ 64
    if 2 ^ 65 ≤ z then log2Bits k (z / 2) (2 * acc + 1) else log2Bits k z (2 * acc)

/-- Vector log2: within 2 ulp (R72).  Zero and negative operands have no stated result. -/
def vLog2 (a : Word) : Word :=
  match num32 a with
  | .nan n => packFp32 (.nan n)
  | .inf n => if n then Config.vecOpen 34 a.toNat else packFp32 (.inf false)
  | .fin n m e =>
    if n || m = 0 then Config.vecOpen 34 a.toNat
    else
      let bl := bitLen m
      let y := m * 2 ^ 64 / 2 ^ (bl - 1)
      let frac := log2Bits 56 y 0
      let v : Int := (e + bl - 1) * (2 ^ 56 : Nat) + frac
      withinTwo 34 a (v * (2 ^ 184 : Nat)) (if v = 0 then fZero else packFp32 (.fin (decide (v < 0)) v.natAbs (-56)))

/-- The value a code of a format stands for before any scale: (code − ZP) for U8 and S8, the code for S16 and S32, the
widened value for the floating-point formats (R110, R155). -/
def codeNum (f : Fmt) (zp : Int) (c : Nat) : Num :=
  match f with
  | .u8 => numInt ((c % 256 : Nat) - zp)
  | .s8 => numInt (sx 8 c - zp)
  | .s4 => numInt (sx 4 c)
  | .cb4 => numInt ((c % 16 : Nat))
  | .s16 => numInt (sx 16 c)
  | .s32 => numInt (sx 32 c)
  | .e4m3 => decodeF (fshape .e4m3) (c % 256)
  | .e5m2 => decodeF (fshape .e5m2) (c % 256)
  | .bf16 => decodeF (fshape .bf16) (c % 65536)
  | .fp32 => decodeF (fshape .fp32) (c % 2 ^ 32)

/-- The FP32 value of an element under a scale: one rounding (R110, R155, R176); without a scale the code alone. -/
def elemFp32 (f : Fmt) (zp : Int) (scale : Option Word) (c : Nat) : Word :=
  match scale with
  | none => packFp32 (codeNum f zp c)
  | some s => packFp32 (numMul 7 c s.toNat (codeNum f zp c) (num32 s))

end Sys2Proof.Machine
end

