-- ==== Sys2Proof/Machine/TensorTypes.lean ====
section
/-!
DEFINITION. Machine/TensorTypes.lean: the state of a logical core, of its contexts' instructions in flight, of a
physical core and of a cluster's Footstool (chapters 03 to 07).
-/
namespace Sys2Proof.Machine
open Sys2Proof

/-- State of an accumulator tile slot (R62). -/
inductive AccSt where
  | free | accumulating | live | draining
  deriving DecidableEq, Repr

/-- A matrix operand with the bounds and the scale read at issue (R135 to R138, R121). -/
structure Opnd where
  base : Nat
  fmt : Fmt
  lay : Nat          -- 0 row-major, 1 blocks of 16 channels, 2 blocks of 32 channels
  rowStride : Nat
  batStride : Nat
  zp : Int
  isLocal : Bool
  mrows : Nat        -- maxima of the descriptor
  mcols : Nat
  mbat : Nat
  rows : Nat         -- bounds read at issue
  cols : Nat
  bats : Nat
  recAddr : Nat      -- tensor scale record address, 0 none
  scale : Option Word
  wref : Nat         -- weight operands: SCALE_REF [15:0]
  aux : Nat          -- codebook table
  esc : Bool
  escCount : Nat
  escBase : Nat
  isConst : Bool
  okRows : Bool      -- the bound was read and is within range (R138, R139)
  okCols : Bool
  okBats : Bool
  deriving DecidableEq, Repr

/-- Statistics gathered at the input of stage 5 (R115). -/
structure Stats where
  maxPos : Word
  maxNeg : Word
  sat : Nat
  nan : Nat
  chan : Tab Word    -- channel maxima, with CH_STATS
  deriving DecidableEq, Repr

/-- An empty partial (R117). -/
def Stats.none : Stats := ⟨0, 0, 0, 0, []⟩

/-- A tile slot of the accumulator memory (R61, R62): the context slot and instruction that hold it, its tile's
position in the pass-0 order, its elements (element (i, j) at key 32·i + j), the next row to drain, the stamp of its
last write and whether its tile has finished its last pass. -/
structure AccSlot where
  st : AccSt
  cs : Nat
  ip : Nat
  tile : Nat
  words : Tab Word
  row : Nat
  stamp : Nat
  fin : Bool
  stats : Stats              -- statistics of the rows drained so far (R116)
  deriving DecidableEq, Repr

/-- A FREE slot. -/
def AccSlot.none : AccSlot := ⟨.free, 0, 0, 0, [], 0, 0, false, Stats.none⟩

/-- The output record of an invocation: its address, S_o, format and zero point, and the ranks combined (R117, R118). -/
structure OutRec where
  addr : Nat
  so : Word
  fmt : Fmt
  zp : Int
  raw : Bool
  chans : Nat
  deriving DecidableEq, Repr

/-- An output tile of the core's share: batch, tile row, tile column and the tile row's place in the share (R143). -/
structure Tile where
  b : Nat
  mt : Nat
  nt : Nat
  j : Nat
  deriving DecidableEq, Repr

/-- One side-pass step (R123, R127). -/
inductive SideOp where
  | wide (pos group : Nat)     -- listed index `pos`, rows 8·group to 8·group + 7
  | esc (entries : List Nat)   -- up to eight entries of the side list
  deriving DecidableEq, Repr

/-- The tile whose accumulation is in progress. -/
structure Cur where
  tile : Nat                 -- position in the pass-0 order
  slot : Nat
  spill : Nat                -- spill steps still to run
  spillTile : Nat            -- tile whose partial sum is being spilled
  refill : Nat               -- refill steps still to run
  fresh : Bool               -- the next array step overwrites the slot
  macs : List (Nat × Nat)    -- pass and reduction step, still to run
  sides : List SideOp        -- side-pass steps still to run
  last : Bool                -- the tile drains when these have run
  deriving DecidableEq, Repr

/-- An MMA in flight on one core (R141 to R152). -/
structure Mma where
  mode : Nat
  a : Opnd
  w : Opnd
  o : Opnd
  r : Option Opnd
  x : Option Opnd
  raw : Bool
  act : Nat
  tab : Nat
  clip : Word
  inScale : Option Word      -- CUR_SCALE of the input record where IN_SCALE is set (R109)
  outMul : Word
  passes : Nat
  passTok : Option (Nat × Word)  -- token and its value at issue (R144)
  rowMask : Nat
  colMask : Nat
  tiles : List Tile
  cols : List Nat            -- tile columns of the share
  mtiles : Nat               -- tile rows per batch
  start : Nat                -- first tile row of the share
  ks : List Nat              -- reduction steps of every tile (R57, R80, R122)
  kActive : List Nat         -- reduction indices that are neither masked nor wide
  wide : List (Nat × Nat)    -- listed indices below the bound: position in the list, index
  aPass : Nat
  wPass : Nat
  spillBase : Nat
  dyn : Option (Nat × Nat × Nat)  -- slice, counter, RT
  items : List Nat           -- tile rows claimed, in claim order (R146)
  opened : Bool              -- a further claim may follow
  redo : List (Nat × Nat × Bool)  -- slots whose tile is to be recomputed, over so many passes, and drained (R63)
  pass : Nat
  pos : Nat                  -- tiles of this pass already begun
  cur : Option Cur
  drainQ : List Nat          -- accumulator slots waiting for the drain path
  spilled : List Nat         -- tiles held in their spill entries
  spillUsed : List Nat       -- tiles that have been spilled so far
  drained : List Nat         -- tiles whose drain was acknowledged
  stamp : Nat
  rowCnt : Tab (Nat × Nat)   -- DYN: SAT_COUNT and NAN_COUNT of the tiles drained in each row claimed (R117)
  deriving DecidableEq, Repr

/-- What a unit of work of another opcode does when its steps have run. -/
inductive Eff where
  | xpnd (trow kb : Nat)
  | attnInit (trow : Nat)
  | attnBlock (trow kb : Nat)
  | attnEnd (trow : Nat)
  | ewise (trow : Nat)
  | pool (trow : Nat)
  | argmax (trow : Nat)
  | stat (trow : Nat)
  | scaleEntries (first count : Nat)
  | scaleTable
  | fill (first count : Nat)
  | scopy (first count : Nat)
  | kvapp
  deriving DecidableEq, Repr

/-- A unit of work: steps still to run, its effect, and the steps it has in all (what a recompute of R63 runs again). -/
structure WorkUnit where
  left : Nat
  eff : Eff
  all : Nat
  deriving DecidableEq, Repr

/-- A unit none of whose steps has run. -/
def WorkUnit.fresh (n : Nat) (e : Eff) : WorkUnit := ⟨n, e, n⟩

/-- Why an instruction in flight is not yet complete although its ring work is. -/
inductive Ext where
  | none
  | dma           -- the chain has not completed (or, with ASYNC, not been accepted)
  | footstool     -- the Footstool request has not completed
  | kvapp         -- the append has not completed
  deriving DecidableEq, Repr

/-- A macro-instruction in flight on one core (R130, R131). -/
structure InFlight where
  ip : Nat
  bytes : List Byte
  opnds : List (Option Opnd)
  start : Nat                -- first tile row of the core's share (R143)
  len : Nat                  -- tile rows of the share
  mt : Nat                   -- tile rows of one batch
  fuse : Option Nat          -- ip of the producer that a fused operand follows (R147)
  mma : Option Mma
  units : List WorkUnit
  ext : Ext
  stats : Stats
  out : Option OutRec
  reads : List (Nat × Nat)   -- device address ranges: first byte, length
  writes : List (Nat × Nat)
  bregs : List Nat           -- bound registers the instruction writes
  pages : List Nat           -- KV pages pinned
  granted : List Nat         -- accumulator slots granted (R148)
  aux : Nat                  -- KV: the length read at issue (R239)
  qpos : Nat                 -- ATTN: position of the first query row, as read at issue (R222)
  ptab : List Nat            -- paged ATTN: the page list read at issue (R239)
  work : List Nat            -- landing drawers held as work drawers (R221)
  parked : List (List Byte)  -- what they hold while the context is unbound (R264)
  deriving DecidableEq, Repr

/-- What a context waits for on one core. -/
inductive Wait where
  | none
  | token (tok : Nat) (val : Word)   -- SYNC WAIT (R158)
  | slots (n : Nat)                  -- an accumulator grant (R148)
  | room                             -- work drawers or pins of an instruction that is to issue (R221, R239)
  | hold                             -- an overlap or a BARRIER (R130, R131)
  | operand                          -- an operand or a credit (R188)
  | work                             -- work issued cannot go on: a claim, a pass token, an acknowledgement, a transfer (R32)
  | footstool                        -- a Footstool request (R84)
  deriving DecidableEq, Repr

/-- A slot saved under R64: its tile, whether it was draining and from which row, its elements' save drawer. -/
structure Saved where
  acc : AccSlot
  index : Nat        -- accumulator slot it came from
  place : Nat        -- 4 KiB entry of the save region that holds it
  deriving DecidableEq, Repr

/-- What the immediately preceding instruction of a context left for fusion (R147): its output, its grid, the number of
tile rows and the tile rows of one batch. -/
structure PrevOut where
  o : Opnd
  gm : Nat
  gn : Nat
  rt : Nat
  mt : Nat
  dyn : Bool                 -- its rows were claimed from a work counter (R146)
  deriving DecidableEq, Repr

/-- A context slot that holds a resident context (R77 to R80). -/
structure SlotCtx where
  part : Nat
  ctx : Nat
  rank : Nat
  det : Bool
  steps : Nat
  stall : Nat
  scaleBase : Nat
  scaleLen : Nat
  tabMask : Nat
  saveDrawer : Nat
  saveTiles : Nat
  bounds : List Word
  pmasks : List Word
  ip : Nat                    -- next instruction to issue
  base : Nat                  -- program base of the job (R128, R266)
  flight : List InFlight      -- oldest first, at most two
  prev : Option PrevOut
  wait : Wait
  since : Time                -- last instant counted into the figures of R269
  saved : List Saved
  released : Bool             -- its grant has been released, and is acquired again before it goes on (R152)
  ibuf : Tab (List Byte)      -- the instruction buffer: 16 instructions of 64 bytes by their addresses (R129)
  ended : Bool                -- END completed on this rank
  runNs : Nat
  stallC : Nat
  tokenNs : Nat
  hit : Bool                  -- stopped by the step break (R293)
  allotBase : Nat
  allotLen : Nat
  stageLen : Nat
  shareId : Nat
  deriving DecidableEq, Repr

/-- State of a scratchpad bank (R212). -/
inductive BankSt where
  | on | closing | gated | waking
  deriving DecidableEq, Repr

/-- State of a landing drawer (R189). -/
inductive DrawerSt where
  | free | granted | full
  deriving DecidableEq, Repr

/-- A landing drawer in use: its state, the context slot it belongs to, the source recorded (R210), and the later instruction whose
operand it prefetches (R153). -/
structure Drawer where
  st : DrawerSt
  cs : Nat
  src : Option (Nat × Nat)   -- source address and length of an operand fetch, multicast or halo
  pre : Option Nat
  deriving DecidableEq, Repr

/-- A credit request at a Dresser (R187, R188): the writer, the kind and the bytes. -/
structure CreditReq where
  part : Nat
  ctx : Nat
  writer : Nat                -- engine or core number of the writer
  landing : Option Nat        -- landing credit: the destination context slot
  off : Nat                   -- placed credit: window offset and length
  len : Nat
  src : Option Nat            -- source address of an operand fetch
  prefetch : Bool
  deriving DecidableEq, Repr

/-- A credit granted and not yet acknowledged. -/
structure Credit where
  tag : Nat
  req : CreditReq
  drawer : Nat                -- the landing drawer assigned, or the drawer of the range
  sent : Bool                 -- its data has been sent (R193)
  deriving DecidableEq, Repr

/-- An operand stage (R55, R60): the context slot and instruction it serves, the tile, the pass and the block of 32 reduction indices it
holds, each row's address and bytes, and for a codebook the 16 bytes of the tile's column block. -/
structure Stage where
  cs : Nat
  ip : Nat
  tile : Nat
  pass : Nat
  blk : Nat
  rows : Tab (Nat × List Byte)
  book : List Byte
  deriving DecidableEq, Repr

/-- An empty stage. -/
def Stage.none : Stage := ⟨0, 0, 0, 0, 0, [], []⟩

/-- A residency record (R267). -/
structure Resid where
  part : Nat
  buf : Nat
  rank : Nat
  base : Nat
  len : Nat
  deriving DecidableEq, Repr

/-- A logical core (R55): power, context slots, ring, accumulator, scale file, tables, scratchpad management. -/
structure LCore where
  on : Bool                   -- powered (TC_STATUS.STATE OFF otherwise)
  stopped : Bool              -- retired or reset and not yet returned to service: UNAVAILABLE
  slots : Tab SlotCtx
  ring : Option Nat
  acc : Tab AccSlot
  grantQ : List (Nat × Nat)   -- context slot and slots wanted, in order of request (R148)
  stages : Tab Stage          -- operand stages: activations at 0 and 1, weights at 2 and 3 (R55)
  scale : Tab DWord
  tabs : Tab (List Byte)
  banks : Tab BankSt
  drawers : Tab Drawer
  credits : List Credit
  waitQ : List CreditReq
  halo : Tab Nat              -- exchange counter of the instruction in issue, per context slot (R192)
  resid : List Resid
  tag : Nat                   -- next credit tag
  deriving DecidableEq, Repr

/-- A core after reset: powered off, nothing resident, every bank ON (R94, R215). -/
def LCore.reset : LCore :=
  { on := false, stopped := false, slots := [], ring := none, acc := [], grantQ := [], stages := [], scale := [],
    tabs := [], banks := [], drawers := [], credits := [], waitQ := [], halo := [], resid := [], tag := 0 }

/-- What a physical core keeps (R63, R211): accumulator words with a parity error since power-on, the suspect rows and
the spare rows left of each bank. -/
structure Phys where
  accErr : List Nat           -- word index 1024·slot + 32·i + j
  suspects : Tab (List Nat)   -- per bank, newest first, at most four
  left : Tab Nat              -- per bank, spare rows left
  spared : List (Nat × Nat)   -- rows spared in the field: bank and row
  spares : Nat                -- ROW_SPARE_COUNT (R211, R215)
  deriving DecidableEq, Repr

/-- A physical core at power-on. -/
def Phys.reset : Phys := ⟨[], [], [], [], 0⟩

/-- A Footstool request (R82 to R85). -/
structure FsReq where
  core : Nat
  slot : Nat
  part : Nat
  ctx : Nat
  cls : Nat
  fl : InFlight
  scale : List DWord          -- scale entries copied at issue
  table : List Byte           -- activation table image copied at issue
  done : Nat                  -- 16 × 16 output blocks accumulated
  total : Nat
  blockSteps : Nat
  deriving DecidableEq, Repr

/-- The Footstool of a cluster (R81 to R87) and the preparation of its spare (R91). -/
structure Cluster where
  queue : List FsReq
  cur : Option FsReq
  fsSteps : Nat
  unavail : Bool
  badRows : List Nat          -- buffer rows with a parity error
  buf : Tab (List Byte)       -- the 256 KiB buffer: what each source range fetched into it holds (R84)
  prep : Option Nat           -- logical-in-cluster index whose spare is being prepared
  prepOk : Bool               -- its golden input has passed
  deriving DecidableEq, Repr

/-- A cluster after reset. -/
def Cluster.reset : Cluster := ⟨[], none, 0, false, [], [], none, false⟩

end Sys2Proof.Machine
end

