-- ==== Sys2Proof/Machine/MoveTypes.lean ====
section
/-!
DEFINITION. Machine/MoveTypes.lean: the shared cache, work counters, DMA engines, KV cache and contexts
(chapters 07 to 10).
-/
namespace Sys2Proof.Machine
open Sys2Proof

/-- A line of a shared-cache slice (R196): its set and way, its address and the bytes it holds; lists are kept in
order of use, most recent first. -/
structure Line where
  set : Nat
  way : Nat
  addr : Nat
  part : Nat
  data : List Byte
  deriving DecidableEq, Repr

/-- A slice of the shared cache (R196 to R199). -/
structure Slice where
  lines : List Line                 -- most recently used first
  corr : Tab Nat                    -- corrections per line frame since power-on, key 16·set + way
  retired : List Nat                -- retired line frames
  deriving DecidableEq, Repr

/-- An empty slice. -/
def Slice.reset : Slice := ⟨[], [], []⟩

/-- State of a work counter (R200). -/
inductive WctrSt where
  | idle | active | poisoned
  deriving DecidableEq, Repr

/-- A work counter (R200, R201). -/
structure Wctr where
  st : WctrSt
  tag : Nat
  limit : Nat
  next : Nat
  done : Nat
  parts : Nat
  replay : List Nat
  bits : List Nat                   -- items completed
  dup : Nat
  held : List (Nat × Nat × Nat)     -- claims served and not completed: core, context slot, item
  waiting : List (Nat × Nat × Nat × Nat × Nat)  -- claims waiting: core, context slot, tag, RT, GRID_M
  sat : Nat                         -- SAT_COUNT and NAN_COUNT of kept completions (R117)
  nan : Nat
  sent : List (Nat × Nat × Nat × Nat × Nat)  -- completions under way: core, tag, item, SAT_COUNT, NAN_COUNT (R117, R202)
  deriving DecidableEq, Repr

/-- An idle counter. -/
def Wctr.reset : Wctr := ⟨.idle, 0, 0, 0, 0, 0, [], [], 0, [], [], 0, 0, []⟩

/-- A DMA chain (R203 to R206): descriptor i is in the list of the started or the completed once it is. -/
structure Chain where
  part : Nat
  ctx : Nat
  core : Option Nat                 -- issuing core; none for the blocks behind an I/O router
  slot : Nat
  ip : Nat
  base : Nat
  count : Nat
  async : Bool
  doneTok : Option Nat
  started : List Nat
  done : List Nat
  fetched : Nat                     -- descriptors fetched, in bursts of 16
  descs : Tab (List Byte)           -- the descriptors as fetched; one that the fences keep from being read is absent (R206, R255)
  landed : List (Nat × Nat × Nat)   -- bytes already written under an acknowledged credit: descriptor, address, length (R188)
  deriving DecidableEq, Repr

/-- A DMA engine: one queue per virtual channel, the head of each running (R203). -/
structure Engine where
  q : Tab (List Chain)
  deriving DecidableEq, Repr

/-- An idle engine. -/
def Engine.reset : Engine := ⟨[]⟩

/-- A KV sequence (R231, R232). -/
structure Seq where
  part : Nat
  model : List Byte                 -- the model record copied at admission
  lens : Tab Nat                    -- length of each head group
  pages : Tab (List Nat)            -- page table of each head group
  reserve : List Nat                -- reserved FREE pages
  prefixLen : Nat
  tokens : List Nat                 -- prefix tokens, for INSERT
  insert : Bool
  hot : Bool
  deriving DecidableEq, Repr

/-- A node of the prefix tree (R242). -/
structure Node where
  key : Nat
  chain : List Nat                  -- keys of the blocks before it
  part : Nat
  tokens : List Nat
  pages : List Nat                  -- one page per head group
  hot : Bool
  deriving DecidableEq, Repr

/-- An append in progress on rank 0, or completed and not yet known to every rank (R236, R240). -/
structure Append where
  part : Nat
  ctx : Nat
  ip : Nat
  seq : Nat
  hgrp : Nat
  copy : Option (Nat × Nat)         -- source page and target page of a copy in progress
  newLen : Option Nat               -- the new length, once the append has completed
  told : List Nat                   -- ranks that have completed the instruction
  takes : List Nat                  -- pages of the reservation that it pinned and opens as its tokens reach them
  deriving DecidableEq, Repr

/-- A batch boundary that has not been applied in full (R241, R247): whether the Wardrobe has begun it, and ring indices of its FREE and EVICT
entries still to be applied and of all its entries, once it has been read. -/
structure Boundary where
  part : Nat
  due : Bool
  read : Option (List Nat × List Nat)
  deriving DecidableEq, Repr

/-- The Wardrobe (R229 to R248). -/
structure Kv where
  seqs : Tab Seq
  nodes : List Node
  freed : List Nat                  -- pages returned to the free list, next to be taken first
  fresh : Nat                       -- pages never taken: from `fresh` up
  appends : List Append
  hotQ : List (Nat × Nat)           -- page and cluster still to be copied into the hot area
  hotDone : List (Nat × Nat × Nat)  -- page, cluster, first hot drawer used
  bounds : List Boundary            -- boundaries still to be applied, oldest first
  deriving DecidableEq, Repr

/-- The Wardrobe after reset. -/
def Kv.reset : Kv := ⟨[], [], [], 0, [], [], [], []⟩

/-- State of a context (R262). -/
inductive CtxSt where
  | free | admitted | resident | faulted
  deriving DecidableEq, Repr

/-- A statistics partial on its way to rank 0 (R117). -/
structure Partial where
  rank : Nat
  ip : Nat
  stats : Stats
  deriving DecidableEq, Repr

/-- A record that rank 0 has still to write (R117, R118). -/
structure RecPend where
  ip : Nat
  out : Option OutRec               -- known once rank 0 has completed its share
  stats : Stats
  ranks : List Nat                  -- ranks whose partials have come
  sums : Nat                        -- DYN: counters whose sums have come
  want : Nat                        -- DYN: counters the instruction used
  deriving DecidableEq, Repr

/-- An output scale of an instruction that a rank has completed and whose record is not yet written: the rank, the instruction, the record's
address and S_o (R121). -/
structure SoPend where
  rank : Nat
  ip : Nat
  addr : Nat
  so : Word
  deriving DecidableEq, Repr

/-- A context of a partition (R261 to R269): its descriptor as read at ADMIT, its state and its job. -/
structure Ctx where
  st : CtxSt
  fault : Nat                       -- the code that SCH_CTX_STATUS reports: recorded at the end of the teardown (R270, step 6)
  cause : Nat                       -- first fault code raised since the last ADMIT
  dying : Option Nat                -- core on which a fault was first raised that still has to tear the context down
  halted : List Nat                 -- cores on which a fault has been raised since: their ranks take no further step (R270)
  stopPend : Bool
  desc : Nat                        -- descriptor address
  hdr : List Byte                   -- descriptor header, 128 bytes
  cores : List Nat                  -- core set of the job, in rank order
  seed : DWord
  launch : Time                     -- T of R295; 0 imposes no hold
  first : Bool                      -- the first job since ADMIT has not begun
  bound : Bool                      -- the job has been bound once
  alt : Bool                        -- the job started at PROG_ALT
  waitFrom : Time                   -- AFF_WAIT counts from here
  jobStart : Time                   -- first issue of the job; 0 none yet
  issued : Bool
  ended : List Nat                  -- ranks on which END has completed
  endAt : Time                      -- when END completed on the last of them
  susp : Tab SlotCtx                -- rank states while unbound, as the records and resume blocks hold them
  transit : List Partial
  recs : List RecPend
  soPend : List SoPend
  genOut : Option Byte              -- what its last GEN_READ answered (R289)
  brkFrom : Time                    -- when the step break stopped the first of its ranks that are stopped now (R293)
  brkNs : Nat                       -- nanoseconds of the job during which the step break held it (R293)
  deriving DecidableEq, Repr

/-- A FREE context. -/
def Ctx.reset : Ctx :=
  { st := .free, fault := 0, cause := 0, dying := none, halted := [], stopPend := false, desc := 0, hdr := [], cores := [], seed := 0, launch := 0, first := true,
    bound := false, alt := false, waitFrom := 0, jobStart := 0, issued := false, ended := [], endAt := 0, susp := [],
    transit := [], recs := [], soPend := [], genOut := none, brkFrom := 0, brkNs := 0 }

/-- Scheduling state beside the registers (R252 to R277). -/
structure Sch where
  owner : Tab Nat                   -- logical core → partition + 1; 0 none
  handover : Tab Nat                -- logical core → partition + 1 that waits for it
  lastSlot : Nat                    -- number of the last slot boundary processed, epoch · 16 + slot
  lastEpoch : Nat
  deriving DecidableEq, Repr

end Sys2Proof.Machine
end

