-- ==== Sys2Proof/Machine/State.lean ====
section
/-!
DEFINITION. Machine/State.lean: the state of the block, one field per unit, the reasons a step can stop, and the state
right after power-on.
-/
namespace Sys2Proof.Machine
open Sys2Proof

/-- The timebase island (R45 to R47) and the latches of register reads (R46, R486). -/
structure Clk where
  tb : Time                    -- the 64-bit nanosecond counter
  frac : Nat                   -- its 32-bit fraction
  epochsDone : Nat             -- number of the last epoch boundary processed
  latch : Tab Word             -- upper halves latched: key 2 · offset + agent
  hold : Word                  -- GLB_COMMIT_HOLD before its last write (R472)
  holdAt : Time                -- when that write completed
  deriving DecidableEq, Repr

/-- A staged value of an RWC field's word (R12, R13): when its write completed, and the word. -/
abbrev Staged := List (Time × Word)

/-- Faults of the model.  No command ends in one: every row of the table has an effect or leaves the state alone. -/
inductive Fault where
  /-- Raised by no meaning: the spec gives every row of its table an effect (safe: it stops nothing). -/
  | none
  deriving DecidableEq, Repr

/-- Refusals of the model. -/
inductive Refusal where
  /-- Raised by an arm of exec whose command has no meaning in the model (safe: the machine stops where the hardware goes on). -/
  | notModelled (mnemonic : String)
  deriving DecidableEq, Repr

/-- The state of the block. -/
structure State where
  pending : List Instr         -- commands waiting, first in first out
  clk : Clk
  regs : Tab Word              -- registers that differ from their reset value or were written, by management offset
  pend : Tab Staged            -- staged values, newest first
  mem : List Host.Cell         -- device physical memory: DRAM and scratchpads (R10, R207)
  tc : Tab LCore               -- logical cores
  phys : Tab Phys              -- physical cores, key 17c + index
  cl : Tab Cluster
  ctxs : Tab Ctx               -- contexts, key 64 · partition + context
  sch : Sch
  shc : Tab Slice
  inval : Option Nat           -- SHC_INV in progress: partition
  invalQ : List Nat            -- SHC_INV writes held while BUSY
  wctr : Tab Wctr              -- work counters, key 64 · slice + counter
  dma : Tab Engine
  kv : Kv
  ing : Ing
  dpo : Tab Dpo
  mot : Mot
  sio : Sio
  hut : Hut
  bur : Bur
  boot : Boot
  hif : Hif
  svc : Svc
  gang : Gang
  free : Nat                   -- the next free value to draw (Config.freeValue); the model's own
  deriving DecidableEq, Repr

/-- The block right after power-on (R437, R475): the 3.3 V standby input is in range, the timebase starts at 0, nothing is powered from the
main rails yet, boot stands before phase ROM, every stop group holds START, every register is at its reset value. -/
def State.reset : State :=
  { pending := [], clk := ⟨0, 0, 0, [], 0, 0⟩, regs := [], pend := [], mem := [], tc := [], phys := [], cl := [], ctxs := [],
    sch := ⟨[], [], 0, 0⟩, shc := [], inval := none, invalQ := [], wctr := [], dma := [], kv := Kv.reset, ing := Ing.reset, dpo := [],
    mot := Mot.reset, sio := Sio.reset, hut := Hut.reset, bur := Bur.reset, boot := Boot.reset, hif := Hif.reset, svc := Svc.reset,
    gang := Gang.reset, free := 0 }

end Sys2Proof.Machine
end

