-- ==== Sys2Proof/Machine/Ops.lean ====
section
/-!
DEFINITION. Machine/Ops.lean: the named operations over the state: time, registers, staged values, tokens, memory,
partitions and fences, and raising a fault in a context.
-/
namespace Sys2Proof.Machine
open Sys2Proof

/-- The outcome of a command. -/
abbrev Res := Host.Outcome State Fault Refusal

/-! ## Time (R8, R45) -/

/-- Time reaches `t`; the counter never decreases (R45). -/
def advance (s : State) (t : Time) : State := { s with clk := { s.clk with tb := max s.clk.tb t } }

/-- Nanoseconds of an epoch (R8) and of a time slot (R259). -/
def epochNs : Nat := 5000000
/-- Nanoseconds of a time slot. -/
def slotNs : Nat := 312500

/-- The epoch number: the counter divided by 5 000 000, rounded down (R46). -/
def epochOf (s : State) : Nat := s.clk.tb / epochNs

/-- Draw a fresh free value (log entry 3). -/
def draw (s : State) : DWord × State := (Config.freeValue s.free, { s with free := s.free + 1 })

/-! ## Registers (R12, R13) -/

/-- The word that the register at `off` holds now. -/
def rd (s : State) (off : Nat) : Word := (tget? s.regs (canonOff off)).getD (regReset (canonOff off))

/-- A field of it. -/
def fld (s : State) (off lo w : Nat) : Nat := fieldOf (rd s off).toNat lo w

/-- A one-bit field of it. -/
def flag (s : State) (off i : Nat) : Bool := (rd s off).getLsbD i

/-- Put a word into a register. -/
def wrReg (s : State) (off : Nat) (v : Word) : State := { s with regs := tset s.regs (canonOff off) v }

/-- Put a value into a field. -/
def setFld (s : State) (off lo w v : Nat) : State := wrReg s off (putField (rd s off) lo w v)

/-- Set or clear a one-bit field. -/
def setFlag (s : State) (off i : Nat) (b : Bool) : State := setFld s off i 1 (if b then 1 else 0)

/-- A counter increments by `n` and wraps modulo 2³² (R501). -/
def bumpBy (s : State) (off n : Nat) : State := wrReg s off (rd s off + BitVec.ofNat 32 n)

/-- A counter increments by one (R501). -/
def bump (s : State) (off : Nat) : State := bumpBy s off 1

/-- A 48-bit address held in two registers: [31:0] and, in the other's low half, [47:32]. -/
def addr48 (s : State) (lo hi : Nat) : Nat := (rd s lo).toNat + 2 ^ 32 * fld s hi 0 16

/-- A 64-bit value held in two registers. -/
def val64 (s : State) (lo hi : Nat) : Nat := (rd s lo).toNat + 2 ^ 32 * (rd s hi).toNat

/-- Put a 64-bit value into two registers. -/
def wr64 (s : State) (lo hi v : Nat) : State := wrReg (wrReg s lo (BitVec.ofNat 32 v)) hi (BitVec.ofNat 32 (v / 2 ^ 32))

/-- Stage a word of RWC fields: the last write before a commit is the one committed (R13). -/
def stage (s : State) (off : Nat) (v : Word) : State :=
  { s with pend := tmod [] s.pend (canonOff off) (fun l => (s.clk.tb, v) :: l) }

/-- The staged word that a read returns: the last one written since the last commit (R12). -/
def stagedNow (s : State) (off : Nat) : Option Word := (tget [] s.pend (canonOff off)).head?.map Prod.snd

/-- The staged word that counts at a boundary of instant `b`: the last whose write completed before it (R19). -/
def stagedAt (s : State) (b : Time) (off : Nat) : Option Word :=
  ((tget [] s.pend (canonOff off)).find? (fun e => decide (e.1 < b))).map Prod.snd

/-- The word in force after the commit of `off` at instant `b`: the RWC bits of the staged word, the rest as it is. -/
def committed (s : State) (b : Time) (off : Nat) : Word :=
  match stagedAt s b off with
  | none => rd s off
  | some v => mergeWord (maskOf .rwc (canonOff off)) (rd s off) v

/-- Drop the staged values of `off` that counted at instant `b` (R13: the pending value becomes the one in force). -/
def clearStaged (s : State) (b : Time) (off : Nat) : State :=
  match (tget [] s.pend (canonOff off)).filter (fun e => decide (b ≤ e.1)) with
  | [] => { s with pend := tdel s.pend (canonOff off) }
  | l => { s with pend := tset s.pend (canonOff off) l }

/-- Commit one register as staged. -/
def commitReg (b : Time) (s : State) (off : Nat) : State :=
  match stagedAt s b off with
  | none => s
  | some _ => clearStaged (wrReg s off (committed s b off)) b off

/-- The offsets with a staged value that counts at `b`, among those that meet `p`. -/
def stagedOffs (s : State) (b : Time) (p : Nat → Bool) : List Nat :=
  (s.pend.filter (fun e => p e.1 && e.2.any (fun x => decide (x.1 < b)))).map Prod.fst

/-- The value that an enumerated field acts as: itself where the spec lists it (the first `n` values), else one of them (log entry 57). -/
def listed (field n v : Nat) : Nat := if v < n then v else Config.reservedAs field v % n

/-! ## Who may write (R12, R466, R487) -/

/-- BOOT_STATUS.PHASE. -/
def phase (s : State) : Nat := fld s 0x30000 28 4
/-- BOOT_STATUS.LOCK (R466). -/
def lockTaken (s : State) : Bool := flag s 0x30000 27

/-- Where a host write takes effect (R487): a block that HOST_WR names, GLB_VER_HOST, the safety mailbox, BOOT_RECOV in FAIL, the HIF block. -/
def hostMay (s : State) (off : Nat) : Bool :=
  (match blockOf off with | none => true | some b => decide (b = 15) || flag s 0x480004 b)
    || decide (off = 0x240) || (decide (0x20800 ≤ off) && decide (off < 0x20814)) || (decide (off = 0x30020) && decide (phase s = 15))

/-- A write of an agent to a register has the effect `f`; a host write elsewhere than R487 permits is ignored and counted.  Host access
starts only after the lock, and between the acceptance of a copy and the lock only the boot sequence writes (R466). -/
def onWrite (s : State) (ag : Agent) (off : Nat) (f : State → State) : State := match ag with
  | .control => if phase s = 2 ∧ ¬ lockTaken s then s else f s
  | .host => if ¬ lockTaken s then s else if hostMay s off then f s else bump s 0x48000C

/-! ## Tokens (R158, R280) -/

/-- The offset of token `n` of partition `k` (R280). -/
def tokOff (k n : Nat) : Nat := 0x42000 + 0x100 * (k % 16) + 4 * (n % 64)

/-- The value of a token. -/
def token (s : State) (k n : Nat) : Word := rd s (tokOff k n)

/-- Pool pages of the Wardrobe (R229, R250). -/
def kvPages (s : State) : Nat := min 524288 (fld s 0x50008 0 20)
/-- Base of a partition's Wardrobe registers (R251). -/
def kvPart (p : Nat) : Nat := 0x50100 + 0x40 * p

/-- A signal of token `n` of partition `k` is a batch boundary: the Wardrobe is enabled and BTOK names the token (R229, R247, R251). -/
def boundaryTok (s : State) (k n : Nat) : Bool :=
  flag s (kvPart (k % 16) + 8) 23 && decide (fld s (kvPart (k % 16) + 8) 0 6 = n % 64) && decide (kvPages s ≠ 0)

/-- Notice and release registers of a partition (R334). -/
def noticeReg (k o : Nat) : Nat := 0x200C00 + 0x20 * k + o

/-- A signal of token `n` of partition `k` announces a release entry: its rings are in use and RTOK names the token (R327, R334). -/
def releaseTok (s : State) (k n : Nat) : Bool := flag s (noticeReg (k % 16) 0x10) 31 && decide (fld s (noticeReg (k % 16) 0x10) 8 6 = n % 64)

/-- One more release entry of partition `k` waits to be read (R327). -/
def addDue (t : Tab Ring) (k : Nat) : Tab Ring := tmod Ring.reset t k (fun r => { r with due := r.due + 1 })

/-- A signal adds to a token modulo 2³² (R158); one on BTOK is a batch boundary of the partition (R247), and one on RTOK announces a release
entry (R327). -/
def signal (s : State) (k n : Nat) (v : Word) : State :=
  { s with regs := (wrReg s (tokOff k n) (token s k n + v)).regs,
           kv := { s.kv with bounds := if boundaryTok s k n then s.kv.bounds ++ [⟨k % 16, false, none⟩] else s.kv.bounds },
           ing := { s.ing with rings := if releaseTok s k n then addDue s.ing.rings (k % 16) else s.ing.rings } }

/-- (token − value) modulo 2³² is below 2³¹ (R158). -/
def tokReached (s : State) (k n : Nat) (v : Word) : Bool := decide ((token s k n - v).toNat < 2 ^ 31)

/-! ## Partitions and fences (R252 to R255) -/

/-- Base of a partition's registers (R280). -/
def partOff (k : Nat) : Nat := 0x41000 + 0x100 * (k % 16)
/-- On-chip static RAM (R184), bytes per unit and units: scratchpads, accumulator memory, the shared cache, Footstool buffers, display line buffers,
decoder working memory, the Hutch, the control complex. -/
def sramTable : List (Nat × Nat) :=
  [(0x100000, 256), (0x20000, 256), (0x200000, 16), (0x40000, 16), (0x100000, 4), (0x40000, 32), (0x200000, 1), (0x400000, 1)]

/-- A field of R494 has recorded a code: its EVENT record is still to be written (log entry 94). -/
def noteEvent (src : EventSource) (code arg : Nat) (s : State) : State :=
  { s with svc := { s.svc with untold := s.svc.untold ++ [(src, code, arg)] } }
/-- BOOT_STATUS.LAST_ERR records a code (R479). -/
def bootErr (code : Nat) (s : State) : State := noteEvent .boot code 0 (setFld s 0x30000 0 16 code)
/-- A partition in service (R252). -/
def partEn (s : State) (k : Nat) : Bool := flag s (partOff k) 31
/-- Class of a partition: 0 S, 1 A, 2 D, 3 B (R22). -/
def partClass (s : State) (k : Nat) : Nat := fld s (partOff k) 0 2
/-- Classes S and A run in deterministic mode (R22). -/
def partDet (s : State) (k : Nat) : Bool := decide (partClass s k ≤ 1)

/-- MEM_TOP: the top of usable DRAM in units of 64 KiB, by ECC_EN (R207, R218). -/
def memTop64 (s : State) : Nat := if flag s 0x400000 0 then 0x174000 else 0x180000
/-- Top of usable DRAM. -/
def memTop (s : State) : Nat := memTop64 s * 0x10000
/-- The generator range (R289). -/
def genLo : Nat := 0x1800000000
/-- End of the generator range. -/
def genHi : Nat := 0x2000000000
/-- Base of the scratchpad windows (R92). -/
def spadBase : Nat := 0x800000000000
/-- The scratchpad window of a logical core. -/
def spadOf (l : Nat) : Nat := spadBase + l * 0x100000

/-- The logical core in whose scratchpad window an address lies. -/
def spadCore (a : Nat) : Option Nat :=
  if spadBase ≤ a ∧ a < spadBase + 256 * 0x100000 then some ((a - spadBase) / 0x100000) else none

/-- The partition that owns a logical core (R56), if any. -/
def ownerOf (s : State) (l : Nat) : Option Nat := match tget 0 s.sch.owner l with
  | 0 => none | k + 1 => some k

/-- Whether window `w` of partition `k` covers an address with the permission asked (R254). -/
def windowHas (s : State) (k : Nat) (wr : Bool) (a w : Nat) : Bool :=
  let b := partOff k + 0x40 + 8 * w
  let base := fld s b 0 21 * 0x10000
  flag s b 31 && flag s b (if wr then 29 else 30) && decide (base ≤ a) && decide (a < base + fld s (b + 4) 0 21 * 0x10000)

/-- Whether some window of the partition covers the address with the permission asked. -/
def anyWindow (s : State) (k : Nat) (wr : Bool) (a : Nat) : Bool := (rangeFrom 0 8).any (windowHas s k wr a)

/-- An address in the generator range. -/
def inGen (a : Nat) : Bool := decide (genLo ≤ a) && decide (a < genHi)

/-- Whether the fences of R254 and R255 permit a partition's access to one address. -/
def mayAccess (s : State) (k : Nat) (wr : Bool) (a : Nat) : Bool :=
  match spadCore a with
  | some l => decide (ownerOf s l = some k)
  | none => anyWindow s k wr a && (decide (a < memTop s) || inGen a)

/-- What the check of an access answers (R255, R289). -/
inductive Acc where
  | ok
  | fence (addr : Nat)
  | rngWrite (addr : Nat)
  deriving DecidableEq, Repr

/-- Check an access of `n` blocks of 64 KiB from block `b` on; `a` is the first byte. -/
def checkBlocks (s : State) (k : Nat) (wr : Bool) (a : Nat) : Nat → Nat → Acc
  | 0, _ => .ok
  | n + 1, b =>
    let x := max a (b * 0x10000)
    if mayAccess s k wr x then (if wr && inGen x then .rngWrite x else checkBlocks s k wr a n (b + 1)) else .fence x

/-- Check an access of `len` bytes at `a` for partition `k` (R255): windows, regions and the map have 64 KiB grain. -/
def checkAcc (s : State) (k : Nat) (wr : Bool) (a len : Nat) : Acc :=
  if len = 0 then .ok else checkBlocks s k wr a ((a + len - 1) / 0x10000 + 1 - a / 0x10000) (a / 0x10000)

/-! ## Memory (R10, R207, R289, R290) -/

/-- What a byte that nothing has written reads as (log entry 6). -/
def memDefault : Byte := 0

/-- `n` bytes of device memory. -/
def rdMem (s : State) (a n : Nat) : List Byte := mgets memDefault s.mem a n
/-- A little-endian value in device memory (R10). -/
def rdLE (s : State) (a n : Nat) : Nat := leVal (rdMem s a n)
/-- Store bytes in device memory. -/
def wrMem (s : State) (a : Nat) (bs : List Byte) : State := { s with mem := msets memDefault s.mem a bs }
/-- Store a little-endian value of `n` bytes. -/
def wrLE (s : State) (a n v : Nat) : State := wrMem s a (leBytes n v)
/-- Zero-fill a range: every byte reads zero and parity is valid. -/
def zeroMem (s : State) (a n : Nat) : State := { s with mem := mclear s.mem a n }

/-- The rounds of Philox-4x32-10 (R290). -/
def philoxRounds : Nat → Nat × Nat × Nat × Nat → Nat → Nat → Nat × Nat × Nat × Nat
  | 0, c, _, _ => c
  | r + 1, (c0, c1, c2, c3), k0, k1 =>
    let p := 0xD2511F53 * c0
    let q := 0xCD9E8D57 * c2
    philoxRounds r (q / 2 ^ 32 ^^^ c1 ^^^ k0, q % 2 ^ 32, p / 2 ^ 32 ^^^ c3 ^^^ k1, p % 2 ^ 32)
      ((k0 + 0x9E3779B9) % 2 ^ 32) ((k1 + 0xBB67AE85) % 2 ^ 32)

/-- Philox-4x32-10 (R290). -/
def philox (c : Nat × Nat × Nat × Nat) (k0 k1 : Nat) : Nat × Nat × Nat × Nat := philoxRounds 10 c k0 k1

/-- The byte of the generator range at an address, for a context and its latched seed (R289). -/
def genByte (seed : DWord) (p n a : Nat) : Byte :=
  let o := a - genLo
  let blk := o / 16
  let x := philox (blk % 2 ^ 32, 256 * p + n, 0, 0) (seed.toNat % 2 ^ 32) (seed.toNat / 2 ^ 32)
  let wd := match o % 16 / 4 with | 0 => x.1 | 1 => x.2.1 | 2 => x.2.2.1 | _ => x.2.2.2
  BitVec.ofNat 8 (wd / 256 ^ (o % 4))

/-- The key of a context in the table of contexts. -/
def ctxKey (p n : Nat) : Nat := 64 * p + n
/-- A context. -/
def ctxOf (s : State) (p n : Nat) : Ctx := tget Ctx.reset s.ctxs (ctxKey p n)
/-- Replace a context. -/
def setCtx (s : State) (p n : Nat) (c : Ctx) : State := { s with ctxs := tset s.ctxs (ctxKey p n) c }
/-- A logical core. -/
def coreOf (s : State) (l : Nat) : LCore := tget LCore.reset s.tc l
/-- Replace a logical core. -/
def setCore (s : State) (l : Nat) (c : LCore) : State := { s with tc := tset s.tc l c }
/-- A cluster. -/
def clOf (s : State) (c : Nat) : Cluster := tget Cluster.reset s.cl c
/-- Replace a cluster. -/
def setCl (s : State) (c : Nat) (v : Cluster) : State := { s with cl := tset s.cl c v }
/-- A physical core, by 17c + index. -/
def physOf (s : State) (p : Nat) : Phys := tget Phys.reset s.phys p
/-- Replace a physical core. -/
def setPhys (s : State) (p : Nat) (v : Phys) : State := { s with phys := tset s.phys p v }
/-- The resident context in a slot of a core. -/
def slotOf (s : State) (l k : Nat) : Option SlotCtx := tget? (coreOf s l).slots k
/-- Replace the context of a slot. -/
def setSlot (s : State) (l k : Nat) (v : SlotCtx) : State :=
  let c := coreOf s l
  setCore s l { c with slots := tset c.slots k v }

/-! ## The shared cache's lines (R195, R196) -/

/-- Slices that a partition uses: clusters in which it owns cores (R196). -/
def sliceSet (s : State) (k : Nat) : List Nat :=
  (rangeFrom 0 16).filter (fun c => (rangeFrom (16 * c) 16).any (fun l => decide (ownerOf s l = some k)))

/-- A slice. -/
def sliceOf (s : State) (c : Nat) : Slice := tget Slice.reset s.shc c
/-- Registers of a slice. -/
def shcReg (c o : Nat) : Nat := 0x60000 + 0x800 * c + o

/-- The committed ways of a partition in a slice (R197, R216). -/
def waysOf (s : State) (c p : Nat) : Nat := fld s (shcReg c (0x40 + 4 * (p / 2))) (16 * (p % 2)) 16

/-- A CACHED window with RD covers the address (R195). -/
def cachedAt (s : State) (p a : Nat) : Bool :=
  decide (a < memTop s) && (rangeFrom 0 8).any (fun w => windowHas s p false a w && flag s (partOff p + 0x40 + 8 * w) 28)

/-- The home slice of a line (R196). -/
def homeOf (s : State) (p a : Nat) : Option Nat :=
  let l := sliceSet s p
  let h := fieldOf a 6 16 ^^^ fieldOf a 22 16 ^^^ fieldOf a 38 10
  l[h % l.length]?

/-- The line of a slice that a partition hits at an address (R196). -/
def hitLine (s : State) (c p a : Nat) : Option Line :=
  (sliceOf s c).lines.find? (fun x => decide (x.addr = a / 64 * 64) && decide (x.part = p) && (waysOf s c p).testBit x.way)

/-- The cache's copy that a throughput-mode read of one byte is served from, if it hits (R195, R199). -/
def cachedByte (s : State) (p a : Nat) : Option Byte :=
  if s.shc.isEmpty ∨ partDet s p = true ∨ cachedAt s p a = false then none else
  match homeOf s p a with
  | none => none
  | some h => if flag s (shcReg h 0) 7 then none else (hitLine s h p a).map (fun x => nth 0 x.data (a % 64))

/-- One byte read on behalf of a context: the generator range answers with Philox bytes (R289), a hit in the shared cache with the cache's
copy (R195), everything else with memory. -/
def ctxByte (s : State) (p n a : Nat) : Byte :=
  if inGen a then genByte (ctxOf s p n).seed p n a else (cachedByte s p a).getD (mget memDefault s.mem a)

/-- Bytes read on behalf of a context. -/
def ctxRead (s : State) (p n a len : Nat) : List Byte :=
  if s.shc.isEmpty ∧ (a + len ≤ genLo ∨ genHi ≤ a) then rdMem s a len else (rangeFrom a len).map (ctxByte s p n)

/-- Bytes of memory, or of the generator range under a seed (R289). -/
def seedRead (s : State) (seed : DWord) (p n a len : Nat) : List Byte :=
  if a + len ≤ genLo ∨ genHi ≤ a then rdMem s a len
  else (rangeFrom a len).map (fun x => if inGen x then genByte seed p n x else mget memDefault s.mem x)

/-- Bytes that an agent reads for a context past the shared cache: DMA, and the structures of firmware (R195, R289). -/
def pastRead (s : State) (p n a len : Nat) : List Byte := seedRead s (ctxOf s p n).seed p n a len

/-- A little-endian value read on behalf of a context. -/
def ctxLE (s : State) (p n a len : Nat) : Nat := leVal (ctxRead s p n a len)

/-! ## Banks (R212, R213) -/

/-- The base of a core's register window (R94). -/
def tcOff (l : Nat) : Nat := 0x100000 + 0x1000 * (l % 256)

/-- State of a bank. -/
def bankOf (s : State) (l b : Nat) : BankSt := tget .on (coreOf s l).banks b
/-- Set the state of a bank; ON is not listed. -/
def setBank (s : State) (l b : Nat) (v : BankSt) : State :=
  let c := coreOf s l
  setCore s l { c with banks := if v = .on then tdel c.banks b else tset c.banks b v }

/-- An access cancels gating (R212). -/
def bankAbort (s : State) (l b : Nat) : State :=
  if bankOf s l b = .closing then bump (setBank s l b .on) (tcOff l + 0x60) else s

/-- An access wakes a GATED bank (R213). -/
def bankWake (s : State) (l b : Nat) (wr : Bool) : State :=
  if bankOf s l b = .gated then bump (setBank s l b .waking) (tcOff l + (if wr then 0x58 else 0x5C)) else s

/-- The parts of a byte range that lie in one core's scratchpad window each; a range that begins outside the windows is one part. -/
def corePieces (r : Nat × Nat) : List (Nat × Nat) :=
  if r.2 ≤ 0x100000 - r.1 % 0x100000 ∨ spadCore r.1 = none then [r] else
  let b0 := r.1 / 0x100000
  (rangeFrom b0 (min 256 ((r.1 + r.2 - 1) / 0x100000 + 1 - b0))).map (fun b =>
    let a := max r.1 (b * 0x100000)
    (a, min (r.1 + r.2) ((b + 1) * 0x100000) - a))

/-- An access to `len` bytes at `a` of one core's scratchpad reaches its banks: a CLOSING one returns to ON, a GATED one wakes (R212, R213). -/
def touchCore (s : State) (wr : Bool) (a len : Nat) : State := match spadCore a with
  | none => s
  | some l =>
    if (coreOf s l).banks.isEmpty ∨ len = 0 then s else
    let b0 := (a - spadOf l) / 0x10000
    (rangeFrom b0 ((a - spadOf l + len - 1) / 0x10000 + 1 - b0)).foldl (fun s b => bankWake (bankAbort s l b) l b wr) s

/-- An access to `len` bytes at `a` reaches the banks of every scratchpad that it meets (R212, R213). -/
def touch (s : State) (wr : Bool) (a len : Nat) : State := (corePieces (a, len)).foldl (fun s r => touchCore s wr r.1 r.2) s

/-! ## Promises of other cores (R192, R193) -/

/-- Cores that a partition owns. -/
def ownCount (s : State) (p : Nat) : Nat := (s.sch.owner.filter (fun e => decide (e.2 = p + 1))).length

/-- A landing credit under which core `w` has promised data of a context to another core and has not sent it. -/
def isPromise (w p n l : Nat) (x : Credit) : Bool :=
  x.req.landing.isSome && x.req.src.isSome && decide (x.req.writer = w) && decide (w ≠ l) && decide (w < 256)
    && decide (x.req.part = p) && decide (x.req.ctx = n) && !x.sent

/-- The receiver releases the credit of a cancelled promise and fetches the data itself, into the drawer that it frees (R193); the
refetch is counted. -/
def selfFetch (s : State) (l : Nat) (x : Credit) (mc : Bool) : State :=
  let c := coreOf s l
  bump (setCore s l { c with
    credits := c.credits.filter (fun y => decide (y.tag ≠ x.tag)) ++ [{ x with tag := c.tag, req := { x.req with writer := l } }],
    tag := c.tag + 1 }) (tcOff l + (if mc then 0x64 else 0x68))

/-- What a core has promised for a context and not sent is cancelled at every receiver (R193): blocks of a multicast leader in a partition
of five cores or more, halo rows in a smaller one. -/
def cancelPromises (s : State) (w p n : Nat) : State :=
  (s.tc.map Prod.fst).foldl (fun s l =>
    ((coreOf s l).credits.filter (isPromise w p n l)).foldl (fun s x => selfFetch s l x (decide (5 ≤ ownCount s p))) s) s

/-! ## Faults of a context (R160, R255, R270) -/

/-- Fault codes (R161, R214, R249, R278, R500). -/
def fOpcode : Nat := 0x0101
/-- FENCE_CROSS. -/
def fFence : Nat := 0x0301
/-- RNG_WRITE (R289). -/
def fRngWrite : Nat := 0x0208

/-- TC_FAULT records the first fault since VALID was last cleared (R94, R160). -/
def recordTcFault (s : State) (l k n code : Nat) : State :=
  if flag s (tcOff l + 8) 31 then s
  else wrReg s (tcOff l + 8) (BitVec.ofNat 32 (2 ^ 31 + k % 8 * 2 ^ 24 + n % 64 * 2 ^ 16 + code % 2 ^ 16))

/-- The slot of core `l` in which a context is resident. -/
def slotFor (s : State) (l p n : Nat) : Option Nat :=
  ((coreOf s l).slots.find? (fun e => decide (e.2.part = p) && decide (e.2.ctx = n))).map Prod.fst

/-- A fault is raised in a context on core `l`: its code is kept for the end of the teardown, the context takes no further step there, what it
promised other cores is cancelled, and it waits to be torn down, which is when the fault reaches its other ranks (R160, R193, R270).  The first code since the last ADMIT stays. -/
def raise (s : State) (p n l code : Nat) : State :=
  let c := ctxOf s p n
  match c.st with
  | .free => s
  | .faulted => s
  | _ =>
    let s1 := recordTcFault s l ((slotFor s l p n).getD 0) n code
    let c1 := { c with cause := if c.cause = 0 then code else c.cause, dying := if c.dying.isSome then c.dying else some l, halted := l :: c.halted }
    cancelPromises (setCtx s1 p n c1) l p n

/-- Record a fence fault: FENCE_COUNT and the address (R255). -/
def noteFence (s : State) (p a : Nat) : State :=
  setFld (wrReg (bump s (partOff p + 0x3C)) (partOff p + 0x8C) (BitVec.ofNat 32 a)) (partOff p + 0x90) 0 16 (a / 2 ^ 32)

/-- The fault of an access that its check refused (R255, R289). -/
def raiseAcc (s : State) (p n l : Nat) : Acc → State
  | .ok => s
  | .fence a => raise (noteFence s p a) p n l fFence
  | .rngWrite _ => raise s p n l fRngWrite

/-- The address that a refused access names, and its code. -/
def accCode : Acc → Option Nat
  | .ok => none
  | .fence _ => some fFence
  | .rngWrite _ => some fRngWrite

/-- A hold period runs in a cluster (R442). -/
def holdRuns (s : State) (c : Nat) : Bool := match tget? s.bur.holds c with
  | none => false
  | some h => decide (h.1 ≤ s.clk.tb) && decide (s.clk.tb < h.2)

/-- A core of a class-B partition whose ring a hold has stopped (R442). -/
def coreHeldB (s : State) (l : Nat) : Bool := holdRuns s (l / 16) && (match ownerOf s l with
  | none => false
  | some p => decide (partClass s p = 3))

/-- A choice of the partition that depends on timing is counted (R284). -/
def nondet (s : State) (p : Nat) : State := bump s (partOff p + 0x38)

end Sys2Proof.Machine
end

