-- ==== Sys2Proof/Machine/Operands.lean ====
section
/-!
DEFINITION. Machine/Operands.lean: macro-instruction bytes, matrix descriptors, bounds, scale records, shares of the grid
and element addresses (R132 to R143, R162 to R165), with the issue checks that an operand alone decides.
-/
namespace Sys2Proof.Machine
open Sys2Proof

/-- Faults found by the checks of one issue, bind or admission: a code, and the address where it is a fence. -/
abbrev Errs := List (Nat × Nat)

/-- One error where the condition holds. -/
def errIf (b : Bool) (code : Nat) : Errs := if b then [(code, 0)] else []

/-- The lowest code (R160). -/
def lowest : Errs → Option (Nat × Nat)
  | [] => none
  | e :: r => match lowest r with
    | none => some e
    | some m => if e.1 ≤ m.1 then some e else some m

/-- Raise the lowest code of a list of failed checks (R160); a fence fault is counted and recorded (R255). -/
def raiseErrs (s : State) (p n l : Nat) (es : Errs) : State :=
  match lowest es with
  | none => s
  | some (c, a) => if c = fFence then raise (noteFence s p a) p n l c else raise s p n l c

/-- A refused access as an error. -/
def accErr : Acc → Errs
  | .ok => []
  | .fence a => [(fFence, a)]
  | .rngWrite a => [(fRngWrite, a)]

/-- `n` bytes at offset `o` of a byte string, little-endian. -/
def le (bs : List Byte) (o n : Nat) : Nat := leVal ((bs.drop o).take n)

/-- Bit `i` of the byte at offset `o`. -/
def bit (bs : List Byte) (o i : Nat) : Bool := (le bs o 1).testBit i

/-- ⌈a ÷ b⌉. -/
def cdiv (a b : Nat) : Nat := (a + b - 1) / b

/-! ## Tensor scale records (R112) -/

/-- A 32-bit word of a record. -/
def recW (s : State) (a o : Nat) : Word := BitVec.ofNat 32 (rdLE s (a + o) 4)

/-- NEXT_VALID, ADAPT and CH_STATS are bits of FLAGS. -/
def recFlag (s : State) (a i : Nat) : Bool := (rdLE s (a + 0x22) 1).testBit i

/-- The checks of a named record (R114): alignment, VERSION 1, the fences; a record that is written is read as well, at issue and by
adaptation (R118, R119). -/
def recErrs (s : State) (p n a : Nat) (wr : Bool) : Errs :=
  if a = 0 then [] else
  errIf (decide (a % 64 ≠ 0)) 0x0116 ++
  match checkAcc s p false a 64 with
  | .ok => errIf (decide (ctxLE s p n (a + 0x23) 1 % 16 ≠ 1)) 0x0115 ++ (if wr then accErr (checkAcc s p true a 64) else [])
  | e => accErr e

/-- The output scale S_o of an invocation (R118). -/
def recSo (s : State) (a : Nat) : Word := if recFlag s a 1 then recW s a 0x08 else recW s a 0x00

/-- The output scale of an instruction in flight that writes the record at `a`, the newest such one. -/
def soIn (fl : List InFlight) (a : Nat) : Option Word :=
  fl.foldl (fun b f => match f.out with | some o => if o.addr = a then some o.so else b | none => b) none

/-- The scale of an input tensor as read at issue (R121): the S_o of a producer of the context still in flight, on this core or, once this
rank has completed it, until its record is written; else CUR_SCALE. -/
def recCur (s : State) (p n rank : Nat) (fl : List InFlight) (a : Nat) : Word :=
  match soIn fl a with
  | some w => w
  | none => match (ctxOf s p n).soPend.reverse.find? (fun x => decide (x.rank = rank) && decide (x.addr = a)) with
    | some x => x.so
    | none => BitVec.ofNat 32 (ctxLE s p n a 4)

/-! ## Descriptors (R134 to R139) -/

/-- Address of the context's descriptor table and its length (R261). -/
def descTable (c : Ctx) : Nat × Nat := (le c.hdr 0x08 6, le c.hdr 0x0E 2)

/-- Bound read through a selector (R138): the bound, and the errors of its source and range (R133, R139); a bound that fails reads as zero, so
that no check of a byte range rests on it. -/
def boundOf (s : State) (p n : Nat) (bounds : List Word) (ver baddr sel mx : Nat) : Nat × Errs :=
  let k := sel % 16
  match sel / 64 with
  | 0 => (mx, [])
  | 1 => let b := (nth 0 bounds k).toNat; if mx < b then (0, [(0x010A, 0)]) else (b, [])
  | 2 =>
    if ver = 1 then (0, [(0x0109, 0)]) else
    match checkAcc s p false (baddr + 4 * k) 4 with
    | .ok => let b := leVal (ctxRead s p n (baddr + 4 * k) 4); if mx < b then (0, [(0x010A, 0)]) else (b, [])
    | e => (0, accErr e)
  | _ => (0, [(0x0109, 0)])

/-- How a descriptor is used: as a weight (its SCALE_REF names scale entries), as an image (layouts permitted), with its
record read as an input's scale, or as an output's record. -/
structure Use where
  weight : Bool
  image : Bool
  input : Bool
  output : Bool
  deriving DecidableEq, Repr

/-- The operand that a descriptor describes, with the checks that need nothing else (R133 to R139, R114). -/
def operandOf (s : State) (p : Nat) (sc : SlotCtx) (u : Use) (d : List Byte) : Opnd × Errs :=
  let ver := le d 0x07 1 % 16
  let fcode := le d 0x06 1 % 64
  let lay := le d 0x06 1 / 64
  let fmt := (fmtOfCode fcode).getD .u8
  let e := fmtBytes fmt
  let zp := sx 16 (le d 0x16 2)
  let loc := decide (ver = 2) && bit d 0x27 2
  let baddr := if ver = 2 then le d 0x38 6 else 0
  let mr := le d 0x08 4
  let mc := le d 0x0C 4
  let mb := le d 0x14 2
  let br := boundOf s p sc.ctx sc.bounds ver baddr (le d 0x1E 1) mr
  let bc := boundOf s p sc.ctx sc.bounds ver baddr (le d 0x1F 1) mc
  let bb := boundOf s p sc.ctx sc.bounds ver baddr (le d 0x26 1) mb
  let ref := le d 0x20 6
  let base := le d 0x00 6
  let zpBad := match fmt with
    | .u8 => decide (zp < 0) || decide (255 < zp)
    | .s8 => decide (zp < -128) || decide (127 < zp)
    | _ => false
  let useRec := !u.weight && (u.input || u.output) && decide (ref ≠ 0)
  let o : Opnd :=
    { base := base, fmt := fmt, lay := lay, rowStride := le d 0x10 4, batStride := le d 0x18 6,
      zp := if fmt = .u8 ∨ fmt = .s8 then zp else 0, isLocal := loc, mrows := mr, mcols := mc, mbat := mb,
      rows := br.1, cols := bc.1, bats := bb.1, recAddr := if useRec then ref else 0,
      scale := if useRec && u.input then some (recCur s p sc.ctx sc.rank sc.flight ref) else none,
      wref := ref % 65536, aux := le d 0x28 6, esc := bit d 0x27 0, escCount := le d 0x2E 2, escBase := le d 0x30 6,
      isConst := bit d 0x27 1, okRows := br.2.isEmpty, okCols := bc.2.isEmpty, okBats := bb.2.isEmpty }
  (o, errIf (decide (ver ≠ 1 ∧ ver ≠ 2)) 0x0103
    ++ errIf ((fmtOfCode fcode).isNone || decide (lay = 3) || (decide (lay ≠ 0) && !u.image) || zpBad) 0x0105
    ++ errIf (decide (mr = 0) || decide (mc = 0) || decide (mb = 0)) 0x0107
    ++ errIf (decide (base % e ≠ 0) || decide (o.rowStride % e ≠ 0) || (!loc && decide (o.batStride % e ≠ 0))) 0x0106
    ++ br.2 ++ bc.2 ++ bb.2
    ++ (if useRec then recErrs s p sc.ctx ref u.output else []))

/-- Read descriptor `idx` of the context's table (R134): none where the index lies beyond the table.  What the fences keep from being read reads as
zero; the instruction that names it faults (R255). -/
def descAt (s : State) (p n idx : Nat) : Option (List Byte) :=
  let t := descTable (ctxOf s p n)
  if idx < t.2 then (match checkAcc s p false (t.1 + 64 * idx) 64 with
    | .ok => some (ctxRead s p n (t.1 + 64 * idx) 64)
    | _ => some (List.replicate 64 0)) else none

/-- The fault of a descriptor that the fences keep from being read (R255). -/
def descFence (s : State) (p n idx : Nat) : Errs :=
  let t := descTable (ctxOf s p n)
  if idx < t.2 then accErr (checkAcc s p false (t.1 + 64 * idx) 64) else []

/-- A named operand: the field holds the index in [11:0]; `opt` permits 0xFFF as "no operand" (R134). -/
def getOpnd (s : State) (sc : SlotCtx) (u : Use) (opt : Bool) (w : Nat) : Option Opnd × Errs :=
  let idx := w % 4096
  if opt && decide (idx = 0xFFF) then (none, [])
  else match descAt s sc.part sc.ctx idx with
    | none => (none, [(0x0104, 0)])
    | some d => match descFence s sc.part sc.ctx idx with
      | [] => let r := operandOf s sc.part sc u d; (some r.1, r.2)
      | es => (none, es)

/-! ## Grid, rows and addresses (R137, R143, R162, R163) -/

/-- The contiguous share of position `g` of `parts` over `n` items: its first item and its length (R143). -/
def shareOf (n parts g : Nat) : Nat × Nat :=
  let q := cdiv n parts
  let lo := min (g * q) n
  (lo, min ((g + 1) * q) n - lo)

/-- Bytes of a row of `c` elements (R99, R137). -/
def rowBytes (f : Fmt) (c : Nat) : Nat := if fmtIs4 f then cdiv c 2 else c * fmtBytes f

/-- Channels of a block of an image (R162). -/
def chBlock (o : Opnd) : Nat := if o.lay = 2 then 32 else 16

/-- The device address of row `r` of batch `b` of a row-major operand; `j` and `i` place the row in the core's share
for a LOCAL operand (R137). -/
def rowAddr (l : Nat) (o : Opnd) (b r j i : Nat) : Nat :=
  if o.isLocal then spadOf l + o.base + (32 * j + i) * o.rowStride
  else o.base + (if o.mbat = 1 then 0 else b) * o.batStride + r * o.rowStride

/-- The device address of element (b, y, x, ch) of an image (R162); an image with LOCAL is the whole image at BASE in the executing core's
window, its BATCH_STRIDE ignored (log entry 15). -/
def imgAddr (l : Nat) (o : Opnd) (b y x ch : Nat) : Nat :=
  let cb := chBlock o
  let e := fmtBytes o.fmt
  (if o.isLocal then spadOf l else 0) + o.base + (if o.mbat = 1 ∨ o.isLocal then 0 else b) * o.batStride
    + ch / cb * (o.mrows * o.rowStride) + y * o.rowStride + x * cb * e + ch % cb * e

/-- The code of element `c` of a row that begins at `a`: a nibble in the 4-bit formats (R99). -/
def codeAt (bs : List Byte) (f : Fmt) (c : Nat) : Nat :=
  if fmtIs4 f then (let v := le bs (c / 2) 1; if c % 2 = 0 then v % 16 else v / 16)
  else le bs (c * fmtBytes f) (fmtBytes f)

/-- Bytes from the first to the last element of an image of `ch` channels (R137, R162): the last block ends at channel `ch` − 1. -/
def imgLen (o : Opnd) (bats ch : Nat) : Nat :=
  let cb := chBlock o
  let blocks := cdiv ch cb
  let top := fun k c => k * (o.mrows * o.rowStride) + c * fmtBytes o.fmt
  (bats - 1) * o.batStride + (o.rows - 1) * o.rowStride + (o.cols - 1) * cb * fmtBytes o.fmt
    + max (top (blocks - 1) ((ch - 1) % cb + 1)) (if blocks ≤ 1 then 0 else top (blocks - 2) cb)

/-- The byte range of an operand under its bounds (R137): first device address and length; `rows` of its LOCAL share. -/
def rangeOf (l : Nat) (o : Opnd) (localRows chans : Nat) : Nat × Nat :=
  if o.lay = 0 ∧ o.isLocal then
    (if localRows = 0 ∨ o.cols = 0 then (0, 0) else (spadOf l + o.base, (localRows - 1) * o.rowStride + rowBytes o.fmt o.cols))
  else if o.rows = 0 ∨ o.cols = 0 ∨ o.bats = 0 then (0, 0)
  else
    let bats := if o.mbat = 1 ∨ o.isLocal then 1 else o.bats
    if o.lay = 0 then (o.base, (bats - 1) * o.batStride + (o.rows - 1) * o.rowStride + rowBytes o.fmt o.cols)
    else if chans = 0 then (0, 0)
    else ((if o.isLocal then spadOf l else 0) + o.base, imgLen o bats chans)

/-- Two byte ranges intersect. -/
def meets (a b : Nat × Nat) : Bool :=
  decide (a.2 ≠ 0) && decide (b.2 ≠ 0) && decide (a.1 < b.1 + b.2) && decide (b.1 < a.1 + a.2)

/-- A LOCAL operand's share ends beyond its 1 MiB window (R137). -/
def localErr (o : Opnd) (localRows chans : Nat) : Errs :=
  let len := (rangeOf 0 o localRows chans).2
  errIf (o.isLocal && decide (len ≠ 0) && decide (0x100000 < o.base + len)) 0x0106

/-- An output row longer than the row stride (R137, R164). -/
def rowOverlapErr (o : Opnd) : Errs :=
  let len := if o.lay = 0 then rowBytes o.fmt o.mcols else o.mcols * chBlock o * fmtBytes o.fmt
  errIf (decide (o.rowStride < len)) 0x0108

/-- Equal format, base and strides: an exact match (R137). -/
def sameView (a b : Opnd) : Bool :=
  decide (a.base = b.base) && decide (a.rowStride = b.rowStride) && decide (a.batStride = b.batStride)
    && decide (a.fmt = b.fmt) && (a.isLocal == b.isLocal)

/-- A LOCAL operand of the whole of `bats` batches of `rows` rows occupies so many rows: 32 for each tile row but the last (R137, R143). -/
def flatRows (rows bats : Nat) : Nat :=
  if rows = 0 ∨ bats = 0 then 0 else 32 * (bats * cdiv rows 32) - (32 * cdiv rows 32 - rows)

/-- The local rows of a share of tile rows `start` to `start + len − 1` with `mt` tile rows of `m` rows per batch. -/
def localRows (m mt start len : Nat) : Nat :=
  if len = 0 then 0
  else
    let last := start + len - 1
    32 * (len - 1) + min 32 (m - 32 * (last % mt))

/-! ## Padding (R166, R168) -/

/-- Fold a coordinate into 0 … n − 1 (mirror padding). -/
def foldIdx (i : Int) (n : Nat) : Nat :=
  if n ≤ 1 then 0
  else
    let p : Nat := 2 * (n - 1)
    let j := (i % (p : Int)).toNat
    if n ≤ j then p - j else j

/-- Where a tap reads: an element of the image, or a padding value of the mode. -/
inductive Tap where
  | elem (y x : Nat) (inside : Bool)
  | pad (constant : Bool)
  deriving DecidableEq, Repr

/-- Resolve a tap's coordinates under a padding mode (R168): 0 zero, 1 constant, 2 mirror, 3 replicate. -/
def tapOf (mode : Nat) (iy ix : Int) (h w : Nat) : Tap :=
  let inside := decide (0 ≤ iy) && decide (iy < h) && decide (0 ≤ ix) && decide (ix < w)
  if inside then .elem iy.toNat ix.toNat true
  else match mode with
    | 0 => .pad false
    | 1 => .pad true
    | 2 => .elem (foldIdx iy h) (foldIdx ix w) false
    | _ => .elem (clampInt 0 (h - 1) iy).toNat (clampInt 0 (w - 1) ix).toNat false

end Sys2Proof.Machine
end

