-- ==== Sys2Proof/Machine/Flags.lean ====
section
/-!
DEFINITION. Machine/Flags.lean: the drain's arithmetic, the statistics gathered at the input of stage 5, and the writing and
adaptation of a tensor scale record (R65 to R71, R109 to R119).
-/
namespace Sys2Proof.Machine
open Sys2Proof

/-! ## Activation tables (R70, R71) -/

/-- A 32-bit word of a table image. -/
def tabW (t : List Byte) (o : Nat) : Word := BitVec.ofNat 32 (le t o 4)
/-- VALUE of a segment, BF16 widened to FP32. -/
def tabValue (t : List Byte) (i : Nat) : Word := BitVec.ofNat 32 (le t (0x20 + 4 * i) 2 * 2 ^ 16)
/-- SLOPE of a segment, BF16 widened to FP32. -/
def tabSlope (t : List Byte) (i : Nat) : Word := BitVec.ofNat 32 (le t (0x22 + 4 * i) 2 * 2 ^ 16)

/-- max(⌊d⌋, 0) of a value that is no NaN; an infinity reads as a segment beyond the last. -/
def floorSeg : Num → Nat
  | .nan _ => 0
  | .inf n => if n then 0 else 256
  | .fin n m e => if n then 0 else (if 0 ≤ e then m * 2 ^ (min e 40).toNat else m / 2 ^ (-e).toNat)

/-- Evaluate an activation table (R71). -/
def tabEval (t : List Byte) (x : Word) : Word :=
  if numIsNaN (num32 x) then x
  else if !numLt (num32 x) (num32 (tabW t 4)) && !numIsNaN (num32 (tabW t 4)) then
    (if bit t 0x10 1 then tabW t 0x0C else x)
  else
    let d := fMul (fSub x (tabW t 0)) (tabW t 8)
    if numLt (num32 x) (num32 (tabW t 0)) then
      (if bit t 0x10 0 then fFma (tabSlope t 0) d (tabValue t 0) else fZero)
    else
      let i := min 255 (floorSeg (num32 d))
      fFma (tabSlope t i) (fSub d (fOfInt i)) (tabValue t i)

/-- Stage 3 (R65): 0 none, 1 ReLU, 2 clipped ReLU, 3 table. -/
def activate (act : Nat) (clip : Word) (t : List Byte) (y : Word) : Word :=
  match act with
  | 0 => y
  | 1 => fMax y fZero
  | 2 => fMin (fMax y fZero) clip
  | _ => tabEval t y

/-! ## Stage 5 and statistics (R108, R111, R115) -/

/-- Stage 5: the exact product y × OUT_MUL converted once (R111); an FP32 output passes unchanged. -/
def requant (f : Fmt) (zp : Int) (outMul y : Word) : Conv :=
  match f with
  | .fp32 => ⟨y.toNat, false, numIsNaN (num32 y)⟩
  | f => convTo f zp (numMul 8 y.toNat outMul.toNat (num32 y) (num32 outMul))

/-- Gather one value at the input of stage 5 (R115). -/
def statsAdd (chan : Option Nat) (y : Word) (cv : Conv) (st : Stats) : Stats :=
  let v := num32 y
  let mag := fAbs y
  { maxPos := if numLt (num32 st.maxPos) v then y else st.maxPos,
    maxNeg := if numLt v (num32 fZero) && numLt (num32 st.maxNeg) (num32 mag) then mag else st.maxNeg,
    sat := st.sat + (if cv.sat then 1 else 0),
    nan := st.nan + (if cv.nan then 1 else 0),
    chan := match chan with
      | none => st.chan
      | some c => if numLt (num32 (tget 0 st.chan c)) (num32 mag) then tset st.chan c mag else st.chan }

/-- The larger of two maxima. -/
def maxW (a b : Word) : Word := if numLt (num32 a) (num32 b) then b else a

/-- Combine two partials by maximum and by addition (R117). -/
def statsJoin (a b : Stats) : Stats :=
  { maxPos := maxW a.maxPos b.maxPos, maxNeg := maxW a.maxNeg b.maxNeg, sat := a.sat + b.sat, nan := a.nan + b.nan,
    chan := b.chan.foldl (fun t e => tset t e.1 (maxW (tget 0 t e.1) e.2)) a.chan }

/-! ## Scale adaptation (R119) -/

/-- Codes above and below the zero code (R119); none for the formats that are never adapted. -/
def quantRange (f : Fmt) (zp : Int) : Option (Nat × Nat) :=
  match f with
  | .u8 => some ((255 - zp).toNat, zp.toNat)
  | .s8 => some ((127 - zp).toNat, (128 + zp).toNat)
  | .s16 => some (32767, 32768)
  | .e4m3 => some (448, 448)
  | .e5m2 => some (57344, 57344)
  | _ => none

/-- A non-negative quantity `num ÷ den`, in units of 2^-149, or infinity. -/
structure Need where
  num : Nat
  den : Nat
  inf : Bool
  deriving DecidableEq, Repr

/-- A maximum divided by a number of codes. -/
def needOf (w : Word) (q : Nat) : Need :=
  if q = 0 then ⟨0, 1, false⟩ else ⟨magUnits w, q, numIsInf (num32 w)⟩

/-- The larger of two needs. -/
def needMax (a b : Need) : Need :=
  if a.inf then a else if b.inf then b else if a.num * b.den < b.num * a.den then b else a

/-- need > a × b, exactly. -/
def needAbove (x : Need) (a b : Word) : Bool :=
  match numMul 9 a.toNat b.toNat (num32 a) (num32 b) with
  | .nan _ => false
  | .inf n => n
  | .fin n m e =>
    if x.inf then true
    else if n && decide (m ≠ 0) then true
    else
      -- num · 2^-149 > m · 2^e · den
      let k := e + 149
      if 0 ≤ k then decide (m * 2 ^ k.toNat * x.den < x.num) else decide (m * x.den < x.num * 2 ^ (-k).toNat)

/-- need < a × b, exactly. -/
def needBelow (x : Need) (a b : Word) : Bool :=
  match numMul 9 a.toNat b.toNat (num32 a) (num32 b) with
  | .nan _ => false
  | .inf n => !n && !x.inf
  | .fin n m e =>
    if x.inf then false
    else if n && decide (m ≠ 0) then false
    else
      let k := e + 149
      if 0 ≤ k then decide (x.num < m * 2 ^ k.toNat * x.den) else decide (x.num * 2 ^ (-k).toNat < m * x.den)

/-- round_up of R119: towards +∞ to `mb` mantissa bits. -/
def needRoundUp (x : Need) (mb : Nat) : Num :=
  if x.inf then .inf false
  else if x.num = 0 then .fin false 0 0
  else
    -- scale so that the integer quotient has well above mb bits
    let sh := mb + 2 + bitLen x.den
    let q := x.num * 2 ^ sh / x.den
    let exact := decide (x.num * 2 ^ sh % x.den = 0)
    let drop := bitLen q - (mb + 1)
    let top := q / 2 ^ drop
    let whole := exact && decide (q % 2 ^ drop = 0)
    .fin false (if whole then top else top + 1) ((drop : Int) - sh - 149)

/-- What a completed invocation leaves in its record. -/
structure Adapted where
  next : Option Word
  clamped : Bool
  run : Nat
  deriving DecidableEq, Repr

/-- The smaller and the larger of two numbers that are no NaN. -/
def numPickMin (a b : Num) : Num := if numLt b a then b else a
/-- The larger of two numbers. -/
def numPickMax (a b : Num) : Num := if numLt a b then b else a

/-- The procedure of R119 on the record at `a` whose CUR_SCALE is already S_o; `clamped` and `run` keep their values
where the procedure does not write them. -/
def adapt (s : State) (a : Nat) (cur : Word) (st : Stats) (q : Nat × Nat) : Adapted :=
  let need := needMax (needMax ⟨0, 1, false⟩ (needOf st.maxPos q.1)) (needOf st.maxNeg q.2)
  let hi := recW s a 0x14
  let lo := recW s a 0x18
  let hyst := rdLE s (a + 0x21) 1
  let run := rdLE s (a + 0x34) 1
  let mb := min 23 (rdLE s (a + 0x20) 1 % 32)
  let smin := num32 (recW s a 0x0C)
  let smax := num32 (recW s a 0x10)
  let grow := decide ((recW s a 0x1C).toNat < st.sat) || needAbove need cur hi
  let shrink := decide (0 < hyst) && numLt (num32 lo) (num32 hi) && needBelow need cur lo
  let fin (n : Num) : Adapted :=
    let cl := numLt smax n || numLt n smin
    let m := numPickMin (numPickMax n smin) smax
    let w := packFp32 m
    ⟨if w = cur then none else some w, cl, 0⟩
  if grow then fin (numPickMax (needRoundUp need mb) (num32 cur))
  else if shrink then
    (if run + 1 < hyst then ⟨none, recFlag s a 2, run + 1⟩ else fin (numPickMin (needRoundUp need mb) (num32 cur)))
  else ⟨none, recFlag s a 2, 0⟩

/-- Saturating addition at 0xFFFF_FFFF (SAT_TOTAL, R118). -/
def addStop32 (a b : Nat) : Nat := min 0xFFFFFFFF (a + b)

/-- Write the maxima of `n` channels from channel `c` after the record (R112), with CH_STATS. -/
def writeChan (a : Nat) (t : Tab Word) : Nat → Nat → State → State
  | 0, _, s => s
  | n + 1, c, s => writeChan a t n (c + 1) (wrLE s (a + 0x40 + 4 * c) 4 (tget 0 t c).toNat)

/-- The counts of one invocation as a record holds them: 32 bits, where they stop (R112; log entry 16). -/
def stopCounts (st : Stats) : Stats := { st with sat := min 0xFFFFFFFF st.sat, nan := min 0xFFFFFFFF st.nan }

/-- The writing core writes the record at completion (R118): scale and generation, statistics, adaptation. -/
def writeRecord (s : State) (o : OutRec) (st0 : Stats) : State :=
  if o.addr = 0 then s else
  let a := o.addr
  let st := stopCounts (if o.raw then Stats.none else st0)
  let fl := rdLE s (a + 0x22) 1
  let s1 := wrLE s a 4 o.so.toNat
  let s2 := wrLE s1 (a + 0x04) 4 (rdLE s (a + 0x04) 4 + 1)
  let s3 := wrLE s2 (a + 0x22) 1 (if fl.testBit 1 then fl - 2 else fl)
  let s4 := wrLE (wrLE (wrLE (wrLE s3 (a + 0x24) 4 st.sat) (a + 0x28) 4 st.nan) (a + 0x2C) 4 st.maxPos.toNat) (a + 0x30) 4 st.maxNeg.toNat
  let s5 := wrLE s4 (a + 0x3C) 4 (addStop32 (rdLE s4 (a + 0x3C) 4) st.sat)
  let s6 := if fl.testBit 4 then writeChan a st.chan o.chans 0 s5 else s5
  match quantRange o.fmt o.zp, fl.testBit 0, o.raw with
  | some q, true, false =>
    let r := adapt s6 a o.so st q
    let fl3 := rdLE s6 (a + 0x22) 1
    let fl4 := (if fl3.testBit 2 then fl3 - 4 else fl3) + (if r.clamped then 4 else 0)
    let s7 := wrLE s6 (a + 0x34) 1 r.run
    match r.next with
    | none => wrLE s7 (a + 0x22) 1 fl4
    | some w => wrLE (wrLE (wrLE s7 (a + 0x22) 1 (fl4 + 2)) (a + 0x08) 4 w.toNat) (a + 0x38) 4 (rdLE s7 (a + 0x38) 4 + 1)
  | _, _, _ => s6

end Sys2Proof.Machine
end

