-- ==== Sys2Proof/Machine/Issue.lean ====
section
/-!
DEFINITION. Machine/Issue.lean: decoding a macro-instruction at issue: operands, issue checks, the share of the core and
the work that the instruction will do (R128 to R161, R162 to R180, R219 to R222, R231, R235).
-/
namespace Sys2Proof.Machine
open Sys2Proof

/-- What the issue of an instruction prepares: failed checks, the instruction in flight, the accumulator slots it asks
for, what it leaves for fusion. -/
structure Built where
  errs : Errs
  fl : InFlight
  slots : Nat
  prev : Option PrevOut
  deriving DecidableEq, Repr

/-- An instruction in flight with nothing prepared. -/
def bareFlight (ip : Nat) (bs : List Byte) : InFlight :=
  { ip := ip, bytes := bs, opnds := [], start := 0, len := 0, mt := 1, fuse := none, mma := none, units := [],
    ext := .none, stats := Stats.none, out := none, reads := [], writes := [], bregs := [], pages := [],
    granted := [], aux := 0, qpos := 0, ptab := [], work := [], parked := [] }

/-- OPCODE, VERSION and the header flags (R132). -/
def opcodeOf (bs : List Byte) : Nat := le bs 0 1
/-- VERSION of an instruction. -/
def verOf (bs : List Byte) : Nat := le bs 1 1 % 16
/-- DONE. -/
def doneOf (bs : List Byte) : Bool := bit bs 2 2
/-- END. -/
def endOf (bs : List Byte) : Bool := bit bs 2 1
/-- BARRIER. -/
def barrierOf (bs : List Byte) : Bool := bit bs 2 0
/-- DONE_TOK. -/
def doneTokOf (bs : List Byte) : Nat := le bs 3 1 % 64
/-- A field marked "v2" reads zero in an instruction of version 1 (R133). -/
def v2 (bs : List Byte) (x : Nat) : Nat := if verOf bs = 1 then 0 else x

/-- VERSION other than 1 or 2 (R133). -/
def verErr (bs : List Byte) : Errs := errIf (decide (verOf bs ≠ 1 ∧ verOf bs ≠ 2)) 0x0102

/-- Inputs and outputs of an instruction as a use of their descriptors. -/
def useIn : Use := ⟨false, false, true, false⟩
/-- A weight operand. -/
def useW : Use := ⟨true, false, false, false⟩
/-- An output with a record. -/
def useOut : Use := ⟨false, false, false, true⟩
/-- An operand whose record is neither read nor written. -/
def usePlain : Use := ⟨false, false, false, false⟩
/-- An image input. -/
def useImgIn : Use := ⟨false, true, true, false⟩
/-- An image whose record is not read. -/
def useImgPlain : Use := ⟨false, true, false, false⟩
/-- An image output. -/
def useImgOut : Use := ⟨false, true, false, true⟩

/-- Apply a check to an operand that is present. -/
def onOpnd (o : Option Opnd) (f : Opnd → Errs) : Errs := match o with | none => [] | some x => f x

/-- A format outside the permitted ones (R136). -/
def fmtErr (o : Option Opnd) (ok : Fmt → Bool) : Errs := onOpnd o (fun x => errIf (!ok x.fmt) 0x0105)

/-- Output formats of drain stage 5 (R65). -/
def drainFmt (f : Fmt) : Bool := match f with
  | .u8 => true | .s8 => true | .s16 => true | .e4m3 => true | .e5m2 => true | .bf16 => true | .fp32 => true | _ => false

/-- Output formats that need a record (R114). -/
def quantFmt (f : Fmt) : Bool := drainFmt f && decide (f ≠ .fp32)

/-- The channel maxima of an output record with CH_STATS lie after it, 4 bytes for each output channel, and are written (R112). -/
def chanErrs (s : State) (p : Nat) (o : Option Opnd) (chans : Nat) : Errs :=
  onOpnd o (fun x =>
    if x.recAddr ≠ 0 ∧ recFlag s x.recAddr 4 = true then accErr (checkAcc s p true (x.recAddr + 64) (4 * chans)) else [])

/-- A quantised output without a record (R114). -/
def recMissing (o : Option Opnd) : Errs := onOpnd o (fun x => errIf (quantFmt x.fmt && decide (x.recAddr = 0)) 0x0114)

/-- The scale an invocation uses for its output (R118), 1.0 without a record. -/
def soOf (s : State) (o : Opnd) : Word := if o.recAddr = 0 then fOne else recSo s o.recAddr

/-- The record of an invocation's output. -/
def outRec (s : State) (o : Opnd) (raw : Bool) (chans : Nat) : Option OutRec :=
  if o.recAddr = 0 then none else some ⟨o.recAddr, recSo s o.recAddr, o.fmt, o.zp, raw, chans⟩

/-- Maximum shapes disagree. -/
def shapeErr (a : Option Opnd) (rows cols : Nat) : Errs :=
  onOpnd a (fun x => errIf (decide (x.mrows ≠ rows) || decide (x.mcols ≠ cols)) 0x0107)

/-- A batch count that is neither 1 nor the count of the leading operand (R142). -/
def batchErr (a : Option Opnd) (b : Nat) : Errs := onOpnd a (fun x => errIf (decide (x.mbat ≠ 1) && decide (x.mbat ≠ b)) 0x010B)

/-- Grid position of a rank and the share of tile rows of the core (R143). -/
def gridShare (rt gm gn rank : Nat) : Nat × Nat :=
  if gn = 0 ∨ gm * gn ≤ rank then (0, 0) else shareOf rt gm (rank / gn)

/-- GRID_M of the other opcodes: zero acts as 1 (R154). -/
def gridM1 (x : Nat) : Nat := if x = 0 then 1 else x

/-- GRID_RANGE (R143). -/
def gridErr (gm gn g : Nat) : Errs := errIf (decide (gm = 0) || decide (gn = 0) || decide (g < gm * gn)) 0x010C

/-- The predicate mask a PM field names (R80, R141): all ones without EN. -/
def pmMask (sc : SlotCtx) (pm : Nat) : Nat :=
  if pm.testBit 7 then (nth 0xFFFFFFFF sc.pmasks (pm % 16)).toNat else 0xFFFFFFFF

/-- The SCALE_RANGE check of weight scale entries (R76, R142). -/
def scaleRefErr (sc : SlotCtx) (wref n : Nat) : Errs :=
  let first := wref % 1024
  let last := if wref.testBit 15 then first else first + n - 1
  errIf (decide (n ≠ 0) && decide (sc.scaleLen ≤ last)) 0x0112

/-- A drain that names a table not enabled in TAB_MASK (R70). -/
def tabErr (sc : SlotCtx) (act tab : Nat) : Errs := errIf (decide (act = 3) && !sc.tabMask.testBit tab) 0x0112

/-- Ranges that a set of operands covers on this core. -/
def opRanges (l lr ch : Nat) (os : List (Option Opnd)) : List (Nat × Nat) :=
  os.filterMap (fun o => o.map (fun x => rangeOf l x lr ch))

/-- DESC_OVERLAP of an output with the inputs of one instruction (R137); `same` permits an exact match. -/
def overlapErr (l lr ch : Nat) (same : Bool) (o : Option Opnd) (ins : List (Option Opnd)) : Errs :=
  match o with
  | none => []
  | some x => errIf (ins.any (fun i => match i with
      | none => false
      | some y => meets (rangeOf l x lr ch) (rangeOf l y lr ch) && !(same && sameView x y))) 0x0108

/-- A work counter lies in the partition's range of a slice of its set (R254). -/
def ctrAllowed (s : State) (k slice c : Nat) : Bool :=
  let r := rd s (partOff k + 0x30)
  let base := fieldOf r.toNat 0 6
  let len := fieldOf r.toNat 7 7
  decide (slice ∈ sliceSet s k) && decide (base ≤ c) && decide (c < min 64 (base + len))

/-- An address that names no device byte: the mark of a refused counter. -/
def noAddr : Nat := 2 ^ 48

/-! ## MMA (R141 to R152) -/

/-- The wide list as read at issue (R122): positions and indices. -/
def wideList (s : State) (p n a k : Nat) : List Nat :=
  (rangeFrom 0 k).map (fun i => leVal (ctxRead s p n (a + 2 * i) 2))

/-- A list in strictly ascending order. -/
def ascending : List Nat → Bool
  | a :: b :: r => decide (a < b) && ascending (b :: r)
  | _ => true

/-- Whether the shares of tile rows of a producer and of its consumer are the same rows in the same order on each of `g` cores (R147); rows
claimed from a work counter are in no share fixed at issue (R146). -/
def sameShare (pr : PrevOut) (dyn : Bool) (gm gn rt mt g : Nat) : Bool :=
  !dyn && !pr.dyn && (rangeFrom 0 g).all (fun r =>
    decide (gridShare pr.rt pr.gm pr.gn r = gridShare rt gm gn r) && (decide (pr.mt = mt) || decide ((gridShare rt gm gn r).2 = 0)))

/-- FUSE_SPLIT (R147). -/
def fuseErr (sc : SlotCtx) (on dyn : Bool) (o : Option Opnd) (gm gn rt mt g : Nat) : Errs :=
  if !on then [] else
  match sc.prev, o with
  | some pr, some x =>
    errIf (!(x.isLocal && pr.o.isLocal && decide (x.base = pr.o.base) && decide (pr.gm = gm) && decide (pr.gn = 1)
      && sameShare pr dyn gm gn rt mt g)) 0x0111
  | _, _ => [(0x0111, 0)]

/-- Build an MMA.  With DYN a LOCAL operand has the rows of the core's claims one tile row after the other, in claim order, and no byte range is formed
for it at issue, since no row is claimed yet (R137, R146): the model's choice (log entry 75). -/
def buildMma (s : State) (l : Nat) (sc : SlotCtx) (bs : List Byte) : Built :=
  let p := sc.part
  let n := sc.ctx
  let mode := le bs 0x0E 1 % 8
  let dr := le bs 0x0F 1
  let raw := dr.testBit 2
  let act := dr / 16 % 4
  let tab := dr / 64
  let accN := le bs 0x17 1 % 64
  let passes := le bs 0x18 1
  let ptok := v2 bs (le bs 0x19 1)
  let gm := le bs 0x1A 1
  let gn := le bs 0x1B 1
  let wc := le bs 0x1C 2
  let dyn := wc.testBit 15
  let fuse := le bs 0x1E 1
  let wn := v2 bs (le bs 0x1F 1)
  let sb := le bs 0x28 6
  let st := le bs 0x2E 2
  let wl := v2 bs (le bs 0x30 6)
  let ra := getOpnd s sc useIn false (le bs 0x04 2)
  let rw := getOpnd s sc useW false (le bs 0x06 2)
  let ro := getOpnd s sc useOut false (le bs 0x08 2)
  let rr := getOpnd s sc useIn true (le bs 0x0A 2)
  let rx := if wn = 0 then (none, []) else getOpnd s sc usePlain true (v2 bs (le bs 0x0C 2))
  let A := ra.1
  let W := rw.1
  let am := (A.map Opnd.mrows).getD 0
  let ak := (A.map Opnd.mcols).getD 0
  let ab := (A.map Opnd.mbat).getD 0
  let M := (A.map Opnd.rows).getD 0
  let K := (A.map Opnd.cols).getD 0
  let Bn := (A.map Opnd.bats).getD 0
  let N := (W.map Opnd.rows).getD 0
  let mt := cdiv M 32
  let rf := Bn * mt
  let rt := if N = 0 ∨ K = 0 then 0 else rf
  let nt := cdiv N 32
  let g := (ctxOf s p n).cores.length
  let rowsSh := if dyn then (0, 0) else gridShare rt gm gn sc.rank
  let colsSh := if gn = 0 ∨ gm * gn ≤ sc.rank then (0, 0) else shareOf nt gn (sc.rank % gn)
  let cols := rangeFrom colsSh.1 colsSh.2
  let tiles := ((rangeFrom rowsSh.1 rowsSh.2).map (fun t => cols.map (fun c => (⟨t / mt, t % mt, c, t - rowsSh.1⟩ : Tile)))).flatten
  let lr := localRows M mt rowsSh.1 rowsSh.2
  let wlr := localRows N nt colsSh.1 colsSh.2
  let span := fun (q : Option Opnd) (rows cols lr last : Nat) => (opRanges l lr 0 [q.map (fun x => { x with rows := rows, cols := cols, bats := Bn })]).map
    (fun r => if r.2 = 0 then r else (r.1, r.2 + last))
  let far := fun (q : Option Opnd) (rs : List (Nat × Nat)) => onOpnd q (fun x => errIf (x.isLocal && rs.any (fun r => decide (spadOf (l + 1) < r.1 + r.2))) 0x0106)
  let spA := span A M K lr ((passes - 1) * le bs 0x20 4)
  let spW := span W N K wlr ((passes - 1) * le bs 0x24 4)
  let spR := span rr.1 M N lr 0
  let spX := span rx.1 M wn lr 0
  let spO := span ro.1 M N lr 0
  let wide := if wn ≤ 32 then wideList s p n wl wn else []
  let pmk := pmMask sc (le bs 0x16 1)
  let kAct := (rangeFrom 0 K).filter (fun k => pmk.testBit (k % 32) && !wide.contains k)
  let pairs := decide (mode = 1 ∨ mode = 2)
  let ks := if pairs then (rangeFrom 0 (cdiv K 2)).filter (fun q => kAct.contains (2 * q) || kAct.contains (2 * q + 1)) else kAct
  let esc := (W.map Opnd.esc).getD false
  let slice := wc / 64 % 16
  let ctr := wc % 64
  let dctr := ctr + (if gn = 0 then 0 else sc.rank % gn)
  let aIn := if mode = 3 then (fun f => decide (f = Fmt.e4m3 ∨ f = Fmt.e5m2)) else (fun f => decide (f = Fmt.u8 ∨ f = Fmt.s8))
  let wIn := match mode with
    | 0 => (fun f => decide (f = Fmt.s8)) | 1 => (fun f => decide (f = Fmt.s4)) | 2 => (fun f => decide (f = Fmt.cb4))
    | _ => (fun f => decide (f = Fmt.e4m3 ∨ f = Fmt.e5m2))
  let errs := verErr bs ++ errIf (decide (3 < mode)) 0x0101
    ++ ra.2 ++ rw.2 ++ ro.2 ++ rr.2 ++ rx.2
    ++ fmtErr A aIn ++ fmtErr W wIn
    ++ fmtErr ro.1 (fun f => if raw then decide (f = .s32) else drainFmt f)
    ++ fmtErr rr.1 (fun f => !fmtIs4 f && decide (f ≠ .s32)) ++ fmtErr rx.1 (fun f => decide (f = .s16))
    ++ onOpnd W (fun w => errIf (decide (w.mcols ≠ ak)) 0x0107)
    ++ shapeErr ro.1 am ((W.map Opnd.mrows).getD 0) ++ shapeErr rr.1 am ((W.map Opnd.mrows).getD 0) ++ shapeErr rx.1 am wn
    ++ batchErr W ab ++ batchErr ro.1 ab ++ batchErr rr.1 ab ++ batchErr rx.1 ab
    ++ errIf (dr.testBit 3 != rr.1.isSome) 0x0107 ++ errIf (decide (0 < wn) && rx.1.isNone) 0x0107
    ++ (if raw then [] else scaleRefErr sc ((W.map Opnd.wref).getD 0) N) ++ tabErr sc act tab
    ++ gridErr gm gn g
    ++ errIf (dyn && sc.det) 0x010D ++ errIf (dyn && decide (1 < passes)) 0x0110
    ++ (if dyn then ((rangeFrom 0 gn).filter (fun i => !ctrAllowed s p slice (ctr + i))).map (fun _ => (fFence, noAddr)) else [])
    ++ errIf (dyn && decide (16384 < rt)) 0x0206
    ++ errIf (decide (accN = 0) || decide (32 < accN)) 0x010E
    ++ errIf (decide (passes = 0) || decide (64 < passes)) 0x0110
    ++ errIf (decide (1 < passes) && (decide (0 < wn) || esc || dyn)) 0x0110
    ++ errIf (decide (sb % 4096 ≠ 0)) 0x0106
    ++ errIf (decide (1 < passes) && decide (accN < tiles.length) && (decide (sb = 0) || decide (st < tiles.length))) 0x010F
    ++ (if raw then [] else recMissing ro.1) ++ chanErrs s p ro.1 N
    ++ errIf (decide (32 < wn)) 0x0117 ++ errIf (!ascending wide || wide.any (fun k => decide (ak ≤ k))) 0x0118
    ++ errIf (decide (0 < wn) && decide (mode = 3)) 0x0119
    ++ (if wn = 0 then [] else accErr (checkAcc s p false wl (2 * wn)))
    ++ errIf (esc && decide (mode ≠ 2)) 0x011A
    ++ onOpnd W (fun w => errIf (w.esc && (decide (4096 < w.escCount) || decide (65536 < w.mcols) || decide (65536 < w.mrows))) 0x011B)
    ++ onOpnd ro.1 rowOverlapErr ++ far A spA ++ far W spW ++ far ro.1 spO ++ far rr.1 spR ++ far rx.1 spX
    ++ errIf (spO.any (fun o => (spA ++ spW ++ spR ++ spX).any (meets o))) 0x0108
    ++ fuseErr sc (fuse.testBit 0) dyn A gm gn rf mt g ++ fuseErr sc (v2 bs fuse |>.testBit 1) dyn rr.1 gm gn rf mt g
  let base := bareFlight sc.ip bs
  match A, W, ro.1 with
  | some a, some w, some o =>
    let m : Mma :=
      { mode := mode, a := a, w := w, o := o, r := rr.1, x := rx.1, raw := raw, act := act, tab := tab,
        clip := BitVec.ofNat 32 (le bs 0x10 4), inScale := if dr.testBit 0 then some (a.scale.getD fOne) else none,
        outMul := fDivRn fOne (soOf s o), passes := passes,
        passTok := if ptok.testBit 7 then some (ptok % 64, token s p (ptok % 64)) else none,
        rowMask := pmMask sc (le bs 0x14 1), colMask := pmMask sc (le bs 0x15 1), tiles := tiles, cols := cols, mtiles := mt,
        start := rowsSh.1, ks := ks, kActive := kAct,
        wide := ((rangeFrom 0 wide.length).map (fun i => (i, nth 0 wide i))).filter (fun e => decide (e.2 < K)),
        aPass := le bs 0x20 4, wPass := le bs 0x24 4, spillBase := sb,
        dyn := if dyn then some (slice, dctr, rt) else none, items := [], opened := dyn && decide (sc.rank < gm * gn), redo := [], pass := 0, pos := 0, cur := none,
        drainQ := [], spilled := [], spillUsed := [], drained := [], stamp := 0, rowCnt := [] }
    { errs := errs,
      fl := { base with
              opnds := [A, W, ro.1, rr.1, rx.1], start := rowsSh.1, len := rowsSh.2, mt := mt, mma := some m,
              fuse := if fuse.testBit 0 || (v2 bs fuse).testBit 1 then some (sc.ip - 64) else none,
              out := outRec s o raw N,
              reads := ((rangeFrom 0 passes).map (fun q =>
                (if fuse.testBit 0 then [] else span (some { a with base := a.base + q * le bs 0x20 4 }) M K lr 0)
                  ++ span (some { w with base := w.base + q * le bs 0x24 4 }) N K wlr 0)).flatten
                ++ (if (v2 bs fuse).testBit 1 then [] else spR) ++ spX
                ++ (if wn = 0 then [] else [(wl, 2 * wn)]) ++ (if w.esc then [(w.escBase, 8 * w.escCount)] else [])
                ++ (if mode = 2 then cols.map (fun c => (w.aux + 16 * c, 16)) else []),
              writes := spO },
      slots := if tiles.isEmpty && !dyn then 0 else if gm * gn ≤ sc.rank then 0 else accN,
      prev := some ⟨o, gm, gn, rf, mt, dyn⟩ }
  | _, _, _ => ⟨errs, base, 0, none⟩

/-! ## Element-wise, statistics, pooling and index instructions -/

/-- Steps of an input of EWISE or STAT (R155). -/
def inSteps (o : Opnd) : Nat :=
  (if o.fmt = .fp32 then 0 else 1) + (if o.scale.isSome || decide (o.zp ≠ 0) then 1 else 0)

/-- Units of work, one per tile row of a share. -/
def rowUnits (start len : Nat) (steps : Nat → Nat) (eff : Nat → Eff) : List WorkUnit :=
  (rangeFrom start len).map (fun t => .fresh (steps t) (eff t))

/-- Rows of tile row `t` below the bound `m`, with `mt` tile rows per batch. -/
def rowsOf (m mt t : Nat) : Nat := min 32 (m - 32 * (t % mt))

/-- Steps of an EWISE operation (R155). -/
def opSteps (op : Nat) : Nat := match op with
  | 8 => 0 | 9 => 2 | 10 => 2 | 11 => 4 | 12 => 4 | 13 => 4 | _ => 1

/-- Operations of EWISE that read their second operand. -/
def opBinary (op : Nat) : Bool := decide (op ≤ 5) || decide (op = 11) || decide (op = 14)

/-- Build an EWISE.  The output's bounds govern: an input is read in the output's bounds along each dimension in which it is not broadcast, and its own
bound selectors limit nothing (R155 does not say); the model's choice (log entry 72). -/
def buildEwise (s : State) (l : Nat) (sc : SlotCtx) (bs : List Byte) : Built :=
  let op := le bs 0x0C 1 % 16
  let ternary := decide (op = 3 ∨ op = 14)
  let gm := gridM1 (le bs 0x0D 1)
  let ra := getOpnd s sc useIn false (le bs 0x04 2)
  let rb := if opBinary op then getOpnd s sc useIn true (le bs 0x06 2) else (none, [])
  let rc := if ternary then getOpnd s sc useIn true (le bs 0x08 2) else (none, [])
  let ro := getOpnd s sc useOut false (le bs 0x0A 2)
  let O := ro.1
  let M := (O.map Opnd.rows).getD 0
  let N := (O.map Opnd.cols).getD 0
  let mt := cdiv M 32
  let rf := (O.map Opnd.bats).getD 0 * mt
  let rt := if N = 0 then 0 else rf
  let sh := gridShare rt gm 1 sc.rank
  let lr := localRows M mt sh.1 sh.2
  let okF := fun f => !fmtIs4 f
  let bshape := fun (x : Opnd) =>
    errIf ((decide (x.mrows ≠ 1) && decide (x.mrows ≠ (O.map Opnd.mrows).getD 0)) ||
      (decide (x.mcols ≠ 1) && decide (x.mcols ≠ (O.map Opnd.mcols).getD 0))) 0x0107
  let B := (O.map Opnd.bats).getD 0
  let ins := [ra.1, rb.1, rc.1].map (fun q => q.map (fun x =>
    { x with rows := min x.mrows M, cols := min x.mcols N, bats := min x.mbat B }))
  let lrIn := fun (x : Opnd) => if x.mrows ≠ 1 then lr else if sh.2 = 0 then 0 else if x.mbat = 1 then 1 else 32 * ((sh.1 + sh.2 - 1) / mt - sh.1 / mt) + 1
  let inRanges := ins.filterMap (fun q => q.map (fun x => rangeOf l x (lrIn x) 0))
  let cin := (ins.map (fun o => match o with | none => 0 | some x => inSteps x)).sum
  let cost := cin + opSteps op + (if (O.map Opnd.fmt) = some Fmt.fp32 then 0 else 1)
  let errs := verErr bs ++ errIf (decide (op = 15)) 0x0101 ++ ra.2 ++ rb.2 ++ rc.2 ++ ro.2
    ++ fmtErr ra.1 okF ++ fmtErr rb.1 okF ++ fmtErr rc.1 okF ++ fmtErr O okF
    ++ errIf (ternary && rc.1.isNone) 0x0107
    ++ onOpnd ra.1 bshape ++ onOpnd rb.1 bshape ++ onOpnd rc.1 bshape
    ++ batchErr ra.1 ((O.map Opnd.mbat).getD 0) ++ batchErr rb.1 ((O.map Opnd.mbat).getD 0) ++ batchErr rc.1 ((O.map Opnd.mbat).getD 0)
    ++ gridErr gm 1 (ctxOf s sc.part sc.ctx).cores.length
    ++ recMissing O ++ chanErrs s sc.part O N ++ onOpnd O rowOverlapErr ++ onOpnd O (fun o => localErr o lr 0)
    ++ (ins.map (fun q => onOpnd q (fun x => localErr x (lrIn x) 0 ++ onOpnd O (fun o =>
        errIf (meets (rangeOf l o lr 0) (rangeOf l x (lrIn x) 0) && !sameView o x) 0x0108)))).flatten
  let base := bareFlight sc.ip bs
  { errs := errs,
    fl := { base with
            opnds := [ra.1, rb.1, rc.1, O], start := sh.1, len := sh.2, mt := mt,
            units := rowUnits sh.1 sh.2 (fun t => rowsOf M mt t * cdiv N 32 * cost) .ewise,
            out := O.bind (fun o => outRec s o false N), reads := inRanges, writes := opRanges l lr 0 [O] },
    slots := 0, prev := O.map (fun o => ⟨o, gm, 1, rf, mt, false⟩) }

/-- Build a STAT (R117). -/
def buildStat (s : State) (l : Nat) (sc : SlotCtx) (bs : List Byte) : Built :=
  let ri := getOpnd s sc ⟨false, false, true, true⟩ false (le bs 0x04 2)
  let I := ri.1
  let M := (I.map Opnd.rows).getD 0
  let N := (I.map Opnd.cols).getD 0
  let mt := cdiv M 32
  let rt := if N = 0 then 0 else (I.map Opnd.bats).getD 0 * mt
  let sh := gridShare rt 1 1 sc.rank
  let lr := localRows M mt sh.1 sh.2
  let cost := (I.map inSteps).getD 0 + 1
  { errs := verErr bs ++ ri.2 ++ fmtErr I (fun f => !fmtIs4 f) ++ onOpnd I (fun o => errIf (decide (o.recAddr = 0)) 0x0114) ++ chanErrs s sc.part I N
      ++ onOpnd I (fun o => localErr o lr 0),
    fl := { bareFlight sc.ip bs with
            opnds := [I], start := sh.1, len := sh.2, mt := mt,
            units := rowUnits sh.1 sh.2 (fun t => rowsOf M mt t * cdiv N 32 * cost) .stat,
            out := I.bind (fun o => outRec s o false N), reads := opRanges l lr 0 [I] },
    slots := 0, prev := none }

/-- A bound of an image is zero: an instruction that reads it has no tile (R139). -/
def emptyImg (o : Option Opnd) : Bool := match o with
  | none => true
  | some x => decide (x.rows = 0 ∨ x.cols = 0 ∨ x.bats = 0)

/-- Build a POOL (R175 to R177). -/
def buildPool (s : State) (l : Nat) (sc : SlotCtx) (bs : List Byte) : Built :=
  let c := le bs 0x08 2
  let kind := le bs 0x0A 1 % 4
  let kh := le bs 0x0B 1
  let kw := le bs 0x0C 1
  let sh := le bs 0x0D 1
  let sw := le bs 0x0E 1
  let gm := gridM1 (le bs 0x16 1)
  let ri := getOpnd s sc useImgIn false (le bs 0x04 2)
  let ro := getOpnd s sc useImgOut false (le bs 0x06 2)
  let ok := fun f => match f with | Fmt.u8 => true | .s8 => true | .e4m3 => true | .e5m2 => true | .bf16 => true | _ => false
  let OH := (ro.1.map Opnd.rows).getD 0
  let OW := (ro.1.map Opnd.cols).getD 0
  let xt := cdiv OW 32
  let rf := (ro.1.map Opnd.bats).getD 0 * OH * xt
  let rt := if emptyImg ri.1 then 0 else rf
  let share := gridShare rt gm 1 sc.rank
  let out16 := fun x => decide (x < 1 ∨ 16 < x)
  let cost := c * (kh * kw + (if kind = 0 then 1 else 5))
  { errs := verErr bs ++ ri.2 ++ ro.2 ++ fmtErr ri.1 ok ++ fmtErr ro.1 ok
      ++ onOpnd ri.1 (fun o => errIf (decide (o.lay = 0)) 0x0105) ++ onOpnd ro.1 (fun o => errIf (decide (o.lay = 0)) 0x0105)
      ++ errIf (decide ((ri.1.map Opnd.lay) ≠ (ro.1.map Opnd.lay))) 0x0105
      ++ errIf (decide (c = 0)) 0x0107
      ++ errIf (decide (kind = 3) || out16 kh || out16 kw || out16 sh || out16 sw) 0x0120
      ++ errIf (decide ((ri.1.map Opnd.bats) ≠ (ro.1.map Opnd.bats))) 0x010B
      ++ gridErr gm 1 (ctxOf s sc.part sc.ctx).cores.length
      ++ recMissing ro.1 ++ chanErrs s sc.part ro.1 c ++ onOpnd ro.1 rowOverlapErr ++ onOpnd ri.1 (fun o => localErr o 0 c) ++ onOpnd ro.1 (fun o => localErr o 0 c)
      ++ overlapErr l 0 c false ro.1 [ri.1],
    fl := { bareFlight sc.ip bs with
            opnds := [ri.1, ro.1], start := share.1, len := share.2, mt := xt,
            units := rowUnits share.1 share.2 (fun _ => cost) .pool,
            out := ro.1.bind (fun o => outRec s o false c), reads := opRanges l 0 c [ri.1], writes := opRanges l 0 c [ro.1] },
    slots := 0, prev := ro.1.map (fun o => ⟨o, gm, 1, rf, xt, false⟩) }

/-- Build an ARGMAXC (R178, R179).  Rows and batches of input and output are compared by their maxima, and the output's own bounds are not
read: the model's choice (log entry 67). -/
def buildArgmax (s : State) (l : Nat) (sc : SlotCtx) (bs : List Byte) : Built :=
  let gm := gridM1 (le bs 0x08 1)
  let ri := getOpnd s sc useImgPlain false (le bs 0x04 2)
  let ro := getOpnd s sc usePlain false (le bs 0x06 2)
  let ok := fun f => match f with
    | Fmt.u8 => true | .s8 => true | .e4m3 => true | .e5m2 => true | .bf16 => true | .fp32 => true | _ => false
  let M := (ri.1.map Opnd.rows).getD 0
  let C := (ri.1.map Opnd.cols).getD 0
  let flat := ri.1.map (fun o => if o.lay = 0 then o else { o with cols := min 1 o.cols })
  let mt := cdiv M 32
  let rf := (ri.1.map Opnd.bats).getD 0 * mt
  let rt := if C = 0 then 0 else rf
  let share := gridShare rt gm 1 sc.rank
  let lr := localRows M mt share.1 share.2
  { errs := verErr bs ++ ri.2 ++ ro.2 ++ fmtErr ri.1 ok ++ fmtErr ro.1 (fun f => decide (f = .s16 ∨ f = .s32))
      ++ onOpnd ri.1 (fun o => errIf (decide (o.lay ≠ 0) && decide (o.rowStride ≠ chBlock o * fmtBytes o.fmt)) 0x0106)
      ++ shapeErr ro.1 ((ri.1.map Opnd.mrows).getD 0) 1
      ++ errIf (decide ((ri.1.map Opnd.mbat) ≠ (ro.1.map Opnd.mbat))) 0x0107
      ++ onOpnd ro.1 (fun o => errIf (decide (o.fmt = .s16) && decide (32767 < (ri.1.map Opnd.mcols).getD 0)) 0x0105)
      ++ gridErr gm 1 (ctxOf s sc.part sc.ctx).cores.length
      ++ onOpnd ro.1 rowOverlapErr ++ onOpnd flat (fun o => localErr o lr C) ++ onOpnd ro.1 (fun o => localErr o lr C)
      ++ overlapErr l lr C false ro.1 [flat],
    fl := { bareFlight sc.ip bs with
            opnds := [ri.1, ro.1], start := share.1, len := share.2, mt := mt,
            units := rowUnits share.1 share.2 (fun _ => C + 1) .argmax,
            reads := opRanges l lr C [flat], writes := opRanges l lr C [ro.1] },
    slots := 0, prev := ro.1.map (fun o => ⟨o, gm, 1, rf, mt, false⟩) }

/-! ## XPND (R165 to R174) -/

/-- DIRECT of an XPND. -/
def xpndDirect (bs : List Byte) : Bool := bit bs 0x12 2

/-- A filter, stride or dilation outside the ranges of XPND or of the Footstool (R83, R154). -/
def xpndRange (bs : List Byte) : Bool :=
  let out7 := fun x => decide (x < 1 ∨ 7 < x)
  let out16 := fun x => decide (x < 1 ∨ 16 < x)
  out7 (le bs 0x0C 1) || out7 (le bs 0x0D 1) || out16 (le bs 0x0E 1) || out16 (le bs 0x0F 1)
    || out16 (le bs 0x10 1) || out16 (le bs 0x11 1)

/-- Build an expansion.  A bound of zero for K, or of zero batches in for a Q that is not 0, fails the checks of R165 (DESC_SHAPE), though R139 calls a
bound of zero legal: the model's choice (log entry 73). -/
def buildExpand (s : State) (l : Nat) (sc : SlotCtx) (bs : List Byte) : Built :=
  let cin := le bs 0x0A 2
  let kh := le bs 0x0C 1
  let kw := le bs 0x0D 1
  let gm := gridM1 (le bs 0x24 1)
  let ri := getOpnd s sc useImgPlain false (le bs 0x04 2)
  let ro := getOpnd s sc usePlain false (le bs 0x06 2)
  let ok := fun f => match f with | Fmt.u8 => true | .s8 => true | .e4m3 => true | .e5m2 => true | _ => false
  let cb := (ri.1.map chBlock).getD 16
  let cp := cb * cdiv cin cb
  let OW := (ro.1.map Opnd.rows).getD 0
  let K := (ro.1.map Opnd.cols).getD 0
  let Q := (ro.1.map Opnd.bats).getD 0
  let Bin := (ri.1.map Opnd.bats).getD 0
  let mt := cdiv OW 32
  let rf := Q * mt
  let rt := if K = 0 ∨ emptyImg ri.1 = true then 0 else rf
  let share := gridShare rt gm 1 sc.rank
  let lr := localRows OW mt share.1 share.2
  let kRead := (ro.1.map Opnd.okCols).getD false
  let qRead := (ri.1.map Opnd.okBats).getD false && (ro.1.map Opnd.okBats).getD false
  let units := ((rangeFrom share.1 share.2).map (fun t => (rangeFrom 0 (cdiv K 32)).map (fun kb => WorkUnit.fresh 1 (.xpnd t kb)))).flatten
  { errs := verErr bs ++ ri.2 ++ ro.2 ++ fmtErr ri.1 ok
      ++ onOpnd ri.1 (fun o => errIf (decide (o.lay = 0)) 0x0105)
      ++ errIf (decide ((ri.1.map Opnd.fmt) ≠ (ro.1.map Opnd.fmt)) || decide ((ri.1.map Opnd.zp) ≠ (ro.1.map Opnd.zp))) 0x0105
      ++ errIf (decide (cin = 0) || (kRead && decide (K ≠ kh * kw * cp)) || (qRead && (if Bin = 0 then decide (Q ≠ 0) else decide (Q % Bin ≠ 0)))) 0x0107
      ++ errIf (xpndRange bs) 0x0120 ++ gridErr gm 1 (ctxOf s sc.part sc.ctx).cores.length
      ++ onOpnd ro.1 rowOverlapErr ++ onOpnd ri.1 (fun o => localErr o 0 cin) ++ onOpnd ro.1 (fun o => localErr o lr 0)
      ++ overlapErr l lr cin false ro.1 [ri.1],
    fl := { bareFlight sc.ip bs with
            opnds := [ri.1, ro.1], start := share.1, len := share.2, mt := mt, units := units,
            reads := opRanges l lr cin [ri.1], writes := opRanges l lr cin [ro.1] },
    slots := 0, prev := ro.1.map (fun o => ⟨o, gm, 1, rf, mt, false⟩) }

/-- Footstool chunk limit of a cluster in steps (R85); REQ_LIMIT below 4 acts as 4 (R94). -/
def fsLimit (s : State) (c : Nat) : Nat := max 4 (fld s (tcOff (16 * c) + 0x81C) 16 12) * 1024

/-- Build a Footstool request (R82 to R87, R174); the share is a run of tile rows of 32 output pixels of one output row (R180). -/
def buildDirect (s : State) (l : Nat) (sc : SlotCtx) (bs : List Byte) : Built :=
  let cin := le bs 0x0A 2
  let kh := le bs 0x0C 1
  let kw := le bs 0x0D 1
  let dr := le bs 0x1C 1
  let act := dr / 16 % 4
  let gm := gridM1 (le bs 0x24 1)
  let ri := getOpnd s sc useImgIn false (le bs 0x04 2)
  let ro := getOpnd s sc useImgOut false (le bs 0x06 2)
  let rw := getOpnd s sc useW false (le bs 0x08 2)
  let N := (rw.1.map Opnd.rows).getD 0
  let xt := cdiv ((ro.1.map Opnd.cols).getD 0) 32
  let rf := (ro.1.map Opnd.bats).getD 0 * (ro.1.map Opnd.rows).getD 0 * xt
  let rt := if N = 0 ∨ emptyImg ri.1 = true then 0 else rf
  let share := gridShare rt gm 1 sc.rank
  let wr := flatRows N 1
  let blk := cdiv cin 4 * kh * kw
  let cls := partClass s sc.part
  { errs := verErr bs ++ ri.2 ++ ro.2 ++ rw.2 ++ fmtErr ri.1 (fun f => decide (f = .u8 ∨ f = .s8)) ++ fmtErr ro.1 drainFmt
      ++ fmtErr rw.1 (fun f => decide (f = .s8))
      ++ onOpnd ri.1 (fun o => errIf (decide (o.lay = 0)) 0x0105) ++ onOpnd ro.1 (fun o => errIf (decide (o.lay = 0)) 0x0105)
      ++ errIf (dr.testBit 2) 0x0105
      ++ errIf (decide (cin = 0) || dr.testBit 3) 0x0107 ++ onOpnd rw.1 (fun w => errIf (decide (w.mcols ≠ kh * kw * cin)) 0x0107)
      ++ errIf (decide ((ri.1.map Opnd.bats) ≠ (ro.1.map Opnd.bats))) 0x010B
      ++ errIf (xpndRange bs || decide (le bs 0x1A 2 ≠ 0) || decide (4096 < (ri.1.map Opnd.cols).getD 0)) 0x011E
      ++ errIf (decide (cls = 1 ∨ cls = 3) && decide (fsLimit s (l / 16) < blk)) 0x011F
      ++ errIf ((clOf s (l / 16)).unavail) 0x0406
      ++ scaleRefErr sc ((rw.1.map Opnd.wref).getD 0) N ++ tabErr sc act (dr / 64) ++ onOpnd rw.1 (fun w => errIf w.esc 0x011A)
      ++ gridErr gm 1 (ctxOf s sc.part sc.ctx).cores.length
      ++ recMissing ro.1 ++ chanErrs s sc.part ro.1 N ++ onOpnd ro.1 rowOverlapErr ++ onOpnd ri.1 (fun o => localErr o 0 cin) ++ onOpnd ro.1 (fun o => localErr o 0 N)
      ++ onOpnd rw.1 (fun o => localErr o wr 0) ++ onOpnd ro.1 (fun o => errIf ((opRanges l 0 cin [ri.1] ++ opRanges l wr 0 [rw.1]).any (meets (rangeOf l o 0 N))) 0x0108),
    fl := { bareFlight sc.ip bs with
            opnds := [ri.1, ro.1, rw.1], start := share.1, len := share.2,
            mt := xt, ext := if share.2 = 0 then .none else .footstool,
            out := ro.1.bind (fun o => outRec s o false N),
            reads := opRanges l 0 cin [ri.1] ++ opRanges l wr 0 [rw.1], writes := opRanges l 0 N [ro.1] },
    slots := 0, prev := ro.1.map (fun o => ⟨o, gm, 1, rf, xt, false⟩) }

/-- Build an XPND. -/
def buildXpnd (s : State) (l : Nat) (sc : SlotCtx) (bs : List Byte) : Built :=
  if xpndDirect bs then buildDirect s l sc bs else buildExpand s l sc bs

/-! ## SCALE, FILL, SCOPY, DMA (R70, R75, R156, R157, R191) -/

/-- Build a SCALE of scale entries. -/
def buildScaleEntries (l : Nat) (sc : SlotCtx) (bs : List Byte) : Built :=
  let first := le bs 0x06 2 % 1024
  let count := le bs 0x08 2 % 2048
  let src := le bs 0x0A 6
  { errs := verErr bs
      ++ errIf (decide (count = 0) || decide (1024 < count) || decide (sc.scaleLen < first + count)) 0x0112
      ++ errIf (decide (src % 8 ≠ 0) || decide (0x100000 < src + 8 * count)) 0x0106,
    fl := { bareFlight sc.ip bs with
            units := (rangeFrom 0 (cdiv count 32)).map (fun i => .fresh 1 (.scaleEntries (32 * i) (min 32 (count - 32 * i)))),
            reads := [(spadOf l + src, 8 * count)] },
    slots := 0, prev := none }

/-- Build a SCALE of an activation table. -/
def buildScaleTable (l : Nat) (sc : SlotCtx) (bs : List Byte) : Built :=
  let src := le bs 0x0A 6
  { errs := verErr bs ++ errIf (!sc.tabMask.testBit (le bs 0x05 1 % 4)) 0x0112
      ++ errIf (decide (src % 4 ≠ 0) || decide (0x100000 < src + 1056)) 0x0106,
    fl := { bareFlight sc.ip bs with units := [.fresh 5 .scaleTable], reads := [(spadOf l + src, 1056)] },
    slots := 0, prev := none }

/-- A byte range lies in the scratchpads of one cluster (R156). -/
def inCluster (c : Nat) (r : Nat × Nat) : Bool :=
  decide (r.2 = 0) || (decide (spadOf (16 * c) ≤ r.1) && decide (r.1 + r.2 ≤ spadOf (16 * c + 16)))

/-- A byte range lies in one core's scratchpad window. -/
def inCore (l : Nat) (r : Nat × Nat) : Bool :=
  decide (r.2 = 0) || (decide (spadOf l ≤ r.1) && decide (r.1 + r.2 ≤ spadOf (l + 1)))

/-- Rows an operand holds in all its batches. -/
def allRows (o : Opnd) : Nat := o.rows * o.bats

/-- Rows that a LOCAL operand spans in all its batches (R137). -/
def spanRows (o : Opnd) : Nat := flatRows o.rows o.bats

/-- Build a FILL: the producer of no fused operand (log entry 74). -/
def buildFill (s : State) (l : Nat) (sc : SlotCtx) (bs : List Byte) : Built :=
  let ro := getOpnd s sc usePlain false (le bs 0x04 2)
  let rows := (ro.1.map allRows).getD 0
  let lr := (ro.1.map spanRows).getD 0
  let r := (ro.1.map (fun o => rangeOf l o lr 0)).getD (0, 0)
  let bytes := rows * (ro.1.map (fun o => rowBytes o.fmt o.cols)).getD 0
  { errs := verErr bs ++ ro.2 ++ onOpnd ro.1 rowOverlapErr ++ onOpnd ro.1 (fun o => localErr o lr 0)
      ++ errIf (!inCluster (l / 16) r) 0x0121,
    fl := { bareFlight sc.ip bs with
            opnds := [ro.1], len := rows,
            units := if bytes = 0 then [] else [.fresh (if inCore l r then cdiv bytes 256 else 0) (.fill 0 rows)], writes := [r] },
    slots := 0, prev := none }

/-- Build an SCOPY: the bounds of the source hold for both (R154).  FILL and SCOPY, whose bodies have no GRID_M, are the producer of no fused operand
(R147): the model's choice (log entry 74). -/
def buildScopy (s : State) (l : Nat) (sc : SlotCtx) (bs : List Byte) : Built :=
  let ri := getOpnd s sc usePlain false (le bs 0x04 2)
  let ro := getOpnd s sc usePlain false (le bs 0x06 2)
  let rows := (ri.1.map allRows).getD 0
  let lr := (ri.1.map spanRows).getD 0
  let dst := ro.1.bind (fun o => ri.1.map (fun i => { o with rows := i.rows, cols := i.cols, bats := i.bats }))
  let r1 := (ri.1.map (fun o => rangeOf l o lr 0)).getD (0, 0)
  let r2 := (dst.map (fun o => rangeOf l o lr 0)).getD (0, 0)
  let bytes := rows * (ri.1.map (fun o => rowBytes o.fmt o.cols)).getD 0
  { errs := verErr bs ++ ri.2 ++ ro.2 ++ errIf (decide ((ri.1.map Opnd.fmt) ≠ (ro.1.map Opnd.fmt))) 0x0105
      ++ shapeErr ro.1 ((ri.1.map Opnd.mrows).getD 0) ((ri.1.map Opnd.mcols).getD 0)
      ++ errIf (decide ((ri.1.map Opnd.mbat) ≠ (ro.1.map Opnd.mbat))) 0x010B
      ++ onOpnd ro.1 rowOverlapErr ++ onOpnd ri.1 (fun o => localErr o lr 0) ++ onOpnd dst (fun o => localErr o lr 0)
      ++ overlapErr l lr 0 true dst [ri.1] ++ errIf (!inCluster (l / 16) r1 || !inCluster (l / 16) r2) 0x0121,
    fl := { bareFlight sc.ip bs with
            opnds := [ri.1, dst], len := rows,
            units := if bytes = 0 then [] else [.fresh (if inCore l r1 && inCore l r2 then cdiv bytes 128 else 0) (.scopy 0 rows)],
            reads := [r1], writes := [r2] },
    slots := 0, prev := none }

/-- First descriptor of a rank's chain (R157). -/
def chainBase (bs : List Byte) (rank : Nat) : Nat := le bs 0x08 6 + rank * v2 bs (le bs 0x10 4)

/-- Source and destination ranges of a DMA descriptor (R204), multicast destinations by their window offset left out. -/
def dmaRanges (d : List Byte) : List (Nat × Nat) × List (Nat × Nat) :=
  let kind := le d 6 1 / 64
  let rows := if kind = 0 then 1 else le d 0x0E 2
  let len := le d 0x10 4
  let src := (le d 0 6, (rows - 1) * le d 0x14 4 + len)
  let dl := (rows - 1) * le d 0x18 4 + len
  if kind = 2 then
    ([src], (bitsSet (le d 0x1E 2) 16).map (fun j => (spadOf (16 * (le d 0x1D 1 % 16) + j) + le d 0x08 6, dl)))
  else ([src], [(le d 0x08 6, dl)])

/-- The ranges of a whole chain. -/
def chainRanges (s : State) (p n base : Nat) : Nat → List (Nat × Nat) × List (Nat × Nat)
  | 0 => ([], [])
  | k + 1 =>
    let r := chainRanges s p n base k
    let d := dmaRanges (pastRead s p n (base + 32 * k) 32)
    (d.1 ++ r.1, d.2 ++ r.2)

/-- Build a DMA. -/
def buildDma (s : State) (sc : SlotCtx) (bs : List Byte) : Built :=
  let rank0 := decide (v2 bs (le bs 0x04 1) / 2 % 2 = 1)
  let async := bit bs 0x04 0
  let count := le bs 0x0E 2
  let cst := v2 bs (le bs 0x10 4)
  let idle := rank0 && decide (sc.rank ≠ 0)
  let rg := if idle || async then ([], []) else chainRanges s sc.part sc.ctx (chainBase bs sc.rank) count
  { errs := verErr bs ++ errIf (decide (cst % 32 ≠ 0)) 0x0106 ++ errIf (decide (count = 0)) 0x0107,
    fl := { bareFlight sc.ip bs with ext := if idle then .none else .dma, reads := rg.1, writes := rg.2 },
    slots := 0, prev := none }

/-! ## ATTN and KVAPP (R219 to R222, R231, R235) -/

/-- Header of a KV page (R230, R233). -/
def kvHdr (s : State) (pg : Nat) : Nat := fld s 0x5000C 16 16 * 65536 + 2 ^ 32 * fld s 0x50010 0 16 + 32 * pg
/-- Address of a KV page (R229). -/
def kvPage (s : State) (pg : Nat) : Nat := fld s 0x50000 14 18 * 0x4000 + 2 ^ 32 * fld s 0x50004 0 16 + 0x4000 * pg

/-- HGROUPS, ND and stored format of a model record (R232). -/
def modelHgroups (m : List Byte) : Nat := le m 0x09 1
/-- ND. -/
def modelNd (m : List Byte) : Nat := le m 0x0A 1 % 8
/-- Stored format code. -/
def modelQfmt (m : List Byte) : Nat := le m 0x0B 1 % 4
/-- The element format of a stored format code (R154, R232). -/
def kvFmt (q : Nat) : Fmt := match q with | 0 => .s8 | 1 => .e4m3 | _ => .e5m2

/-- The sequence that an instruction of partition `p` may use: ACTIVE and its own (R231); a pool of zero pages leaves none (R229). -/
def seqFor (s : State) (p q : Nat) : Option Seq :=
  if kvPages s = 0 then none else (tget? s.kv.seqs q).filter (fun x => decide (q ≤ 2047) && decide (x.part = p))

/-- The checks of R229 and R231 on a sequence, its head group and the head dimension. -/
def seqErrs (s : State) (p q hg d : Nat) : Errs :=
  if kvPages s = 0 then [(0x0509, 0)] else
  match seqFor s p q with
  | none => [(0x0501, 0)]
  | some x => errIf (decide (modelHgroups x.model ≤ hg)) 0x0502 ++ errIf (decide (d ≠ 32 * modelNd x.model)) 0x050A

/-- Length of a head group. -/
def seqLen (s : State) (q hg : Nat) : Nat := match tget? s.kv.seqs q with | none => 0 | some x => tget 0 x.lens hg
/-- Page table of a head group. -/
def seqPages (s : State) (q hg : Nat) : List Nat := match tget? s.kv.seqs q with | none => [] | some x => tget [] x.pages hg

/-- A value read through a bound selector that has no maximum of its own: the position of a query or of a token
(R138, R154); memory is named by the descriptor's BOUND_ADDR.  Source 0b00, for which the rules name no maximum, gives the ROWS maximum of the
descriptor, and the other sources have no limit: the model's choice (log entry 67). -/
def posOf (s : State) (sc : SlotCtx) (desc sel : Nat) : Nat × Errs :=
  match descAt s sc.part sc.ctx (desc % 4096) with
  | none => (0, [])
  | some d =>
    let ver := le d 0x07 1 % 16
    boundOf s sc.part sc.ctx sc.bounds ver (if ver = 2 then le d 0x38 6 else 0) sel (if sel / 64 = 0 then le d 0x08 4 else 0xFFFFFFFF)

/-- Landing drawers of the pool (R186, R215): values below 4 act as 4, above 128 as 128. -/
def landPool (s : State) (l : Nat) : Nat := clampNat 4 128 (fld s (tcOff l + 0x44) 0 9)

/-- Landing drawers of the pool that are FREE, lowest first. -/
def freeDrawers (s : State) (l : Nat) : List Nat :=
  let n := landPool s l
  (rangeFrom (256 - n) n).filter (fun d => match tget? (coreOf s l).drawers d with | none => true | some x => decide (x.st = .free))

/-- Drawers of a context slot in use. -/
def usedDrawers (s : State) (l k : Nat) : Nat :=
  ((coreOf s l).drawers.filter (fun e => decide (e.2.cs = k) && decide (e.2.st ≠ .free))).length

/-- Blocks of 32 keys that a query tile processes (R222): with CAUSAL none beyond the last unmasked row's position. -/
def attnBlocks (lk : Nat) (causal : Bool) (qpos r : Nat) : List Nat :=
  (rangeFrom 0 (cdiv lk 32)).filter (fun kb => !causal || decide (32 * kb ≤ qpos + r - 1))

/-- A block with a key that is not permitted for some unmasked row (R222). -/
def attnPartial (lk : Nat) (causal : Bool) (qpos kb : Nat) : Bool :=
  decide (lk < 32 * kb + 32) || (causal && decide (qpos < 32 * kb + 31))

/-- The units of a query tile (R224, R228): the first scores, each block's array and vector work turning on one ring, and
the finalisation.  The array computes the scores of the next block, where there is one, beside the product over the keys of this block
below Lk. -/
def attnUnits (d lk : Nat) (causal int8 : Bool) (qpos r t : Nat) : List WorkUnit :=
  let nd := d / 32
  let blocks := attnBlocks lk causal qpos r
  let a := fun kb => (if blocks.getLast? = some kb then 0 else d) + nd * min 32 (lk - 32 * kb)
  let v := fun kb => (if int8 then 19 else 17) * r + (if attnPartial lk causal qpos kb then r else 0) + 9 + 2 * r * nd
  [.fresh (if blocks.isEmpty then 0 else d) (.attnInit t)] ++ blocks.map (fun kb => .fresh (max (a kb) (v kb)) (.attnBlock t kb))
    ++ [.fresh (2 + 2 * r * nd) (.attnEnd t)]

/-- Build an ATTN. -/
def buildAttn (s : State) (l : Nat) (sc : SlotCtx) (bs : List Byte) : Built :=
  let p := sc.part
  let paged := bit bs 0x0C 1
  let causal := bit bs 0x0C 0
  let q := le bs 0x0E 2 % 2048
  let hg := le bs 0x14 1
  let accN := le bs 0x15 1 % 64
  let gm := gridM1 (le bs 0x16 1)
  let rq := getOpnd s sc useIn false (le bs 0x04 2)
  let ku := if paged then usePlain else useIn
  let rk := getOpnd s sc ku false (le bs 0x06 2)
  let rv := getOpnd s sc ku false (le bs 0x08 2)
  let ro := getOpnd s sc useOut false (le bs 0x0A 2)
  let rp := if causal then posOf s sc (le bs 0x04 2) (le bs 0x0D 1) else (0, [])
  let qf := (rq.1.map Opnd.fmt).getD .u8
  let int8 := decide (qf = .u8 ∨ qf = .s8)
  let M := (rq.1.map Opnd.rows).getD 0
  let D := (rq.1.map Opnd.cols).getD 0
  let nd := D / 32
  let mt := cdiv M 32
  let rt := (rq.1.map Opnd.bats).getD 0 * mt
  let share := gridShare rt gm 1 sc.rank
  let lr := localRows M mt share.1 share.2
  let kvOk := if int8 then (fun f => decide (f = Fmt.s8)) else (fun f => decide (f = Fmt.e4m3 ∨ f = Fmt.e5m2))
  let stored := (seqFor s p q).map (fun x => kvFmt (modelQfmt x.model))
  let paging := fun (f : Fmt) => match stored with | none => true | some g => decide (f = g) && kvOk f
  let kvr := if paged then 0 else (rk.1.map Opnd.rows).getD 0
  let lk := if paged then seqLen s q hg else (rk.1.map Opnd.rows).getD 0
  let mb := (rq.1.map Opnd.mbat).getD 0
  let allBlocks := ((rangeFrom share.1 share.2).map (fun t => attnBlocks lk causal (rp.1 + 32 * (t % mt)) (rowsOf M mt t))).flatten
  let pages := if paged then ((allBlocks.map (fun kb => nth 0 (seqPages s q hg) (kb / 2))).eraseDups) else []
  let dOk := decide (D = 32 ∨ D = 64 ∨ D = 96 ∨ D = 128)
  let work := if share.2 = 0 then [] else (freeDrawers s l).take (nd + 1)
  let errs := verErr bs ++ rq.2 ++ (if paged then (rk.2 ++ rv.2).filter (fun e => decide (e.1 = 0x0104))
        ++ descFence s p sc.ctx (le bs 0x06 2 % 4096) ++ descFence s p sc.ctx (le bs 0x08 2 % 4096) else rk.2 ++ rv.2) ++ ro.2 ++ rp.2
    ++ fmtErr rq.1 (fun f => decide (f = .u8 ∨ f = .s8 ∨ f = .e4m3 ∨ f = .e5m2)) ++ fmtErr ro.1 drainFmt
    ++ fmtErr rk.1 (if paged then paging else kvOk) ++ fmtErr rv.1 (if paged then paging else kvOk)
    ++ errIf (!dOk) 0x0107
    ++ (if paged then [] else shapeErr rk.1 ((rk.1.map Opnd.mrows).getD 0) ((rq.1.map Opnd.mcols).getD 0)
          ++ shapeErr rv.1 ((rk.1.map Opnd.mrows).getD 0) ((rq.1.map Opnd.mcols).getD 0) ++ batchErr rk.1 mb ++ batchErr rv.1 mb)
    ++ shapeErr ro.1 ((rq.1.map Opnd.mrows).getD 0) ((rq.1.map Opnd.mcols).getD 0)
    ++ onOpnd ro.1 (fun o => errIf (decide (o.mbat ≠ mb)) 0x0107)
    ++ gridErr gm 1 (ctxOf s p sc.ctx).cores.length
    ++ errIf (decide (accN = 0) || decide (32 < accN)) 0x010E ++ errIf (decide (accN < 2 * (nd + 1))) 0x0507
    ++ errIf (decide (sc.stageLen < nd + 3)) 0x0506
    ++ (if paged then seqErrs s p (le bs 0x0E 2 % 2048) hg D
          ++ errIf (pages.any (fun pg => decide (rdLE s (kvHdr s pg + 1) 1 % 16 ≠ 1))) 0x0508 else [])
    ++ recMissing ro.1 ++ chanErrs s p ro.1 D ++ onOpnd ro.1 rowOverlapErr ++ onOpnd ro.1 (fun o => localErr o lr 0) ++ onOpnd rq.1 (fun o => localErr o lr 0)
    ++ overlapErr l lr 0 false ro.1 [rq.1]
    ++ (if paged then [] else onOpnd rk.1 (fun o => localErr o kvr 0) ++ onOpnd rv.1 (fun o => localErr o kvr 0)
          ++ onOpnd ro.1 (fun o => errIf ((opRanges l kvr 0 [rk.1, rv.1]).any (meets (rangeOf l o lr 0))) 0x0108))
  { errs := errs,
    fl := { bareFlight sc.ip bs with
            opnds := [rq.1, rk.1, rv.1, ro.1], start := share.1, len := share.2, mt := mt,
            units := ((rangeFrom share.1 share.2).map
              (fun t => attnUnits D lk causal int8 (rp.1 + 32 * (t % mt)) (rowsOf M mt t) t)).flatten,
            qpos := rp.1, ptab := if paged then seqPages s q hg else [],
            out := ro.1.bind (fun o => outRec s o false D), pages := pages, aux := lk, work := work,
            reads := opRanges l lr 0 [rq.1] ++ (if paged then pages.map (fun pg => (kvPage s pg, 0x4000)) else opRanges l kvr 0 [rk.1, rv.1]),
            writes := opRanges l lr 0 [ro.1] },
    slots := if share.2 = 0 then 0 else 2 * (nd + 1), prev := ro.1.map (fun o => ⟨o, gm, 1, rt, mt, false⟩) }

/-- Pages an append of `t` tokens at length `len` opens: new pages beyond those mapped (R235). -/
def pagesOpened (len t : Nat) : Nat := cdiv (len + t) 64 - cdiv len 64

/-- Whether the append's first token falls into a page with REFCNT above 1 (R240). -/
def needsCopy (s : State) (q hg len t : Nat) : Bool :=
  decide (0 < t) && decide (len % 64 ≠ 0) &&
    decide (1 < rdLE s (kvHdr s (nth 0 (seqPages s q hg) (len / 64)) + 4) 2)

/-- The page that holds the last tokens of a head group, where an append continues it. -/
def tailPage (s : State) (q hg len t : Nat) : List Nat :=
  if len % 64 = 0 ∨ t = 0 then [] else [nth 0 (seqPages s q hg) (len / 64)]

/-- Pages of a sequence's reservation that no append in flight, of another context, opens (R235, R236). -/
def freeReserve (s : State) (q : Nat) : List Nat :=
  (((tget? s.kv.seqs q).map Seq.reserve).getD []).filter (fun g =>
    !s.kv.appends.any (fun a => decide (a.seq = q) && a.newLen.isNone && a.takes.contains g))

/-- The pages that an append of `t` tokens at length `len` writes: the tail page or its copy, and the pages it opens from the reservation
(R235, R236, R240). -/
def appPages (s : State) (q hg len t : Nat) : List Nat :=
  let rsv := freeReserve s q
  if needsCopy s q hg len t then rsv.take (pagesOpened len t + 1) else tailPage s q hg len t ++ rsv.take (pagesOpened len t)

/-- Build a KVAPP.  The checks on the length, the reservation and the pages are those of rank 0, which appends (R236); its
steps are taken at the bound of R238, to which a copy adds none. -/
def buildKvapp (s : State) (l : Nat) (sc : SlotCtx) (bs : List Byte) : Built :=
  let p := sc.part
  let q := le bs 0x08 2 % 2048
  let hg := le bs 0x0A 1
  let lb := le bs 0x0C 1
  let qf := le bs 0x0D 1 % 4
  let rk := getOpnd s sc useIn false (le bs 0x04 2)
  let rv := getOpnd s sc useIn false (le bs 0x06 2)
  let rp := posOf s sc (le bs 0x04 2) (le bs 0x0B 1)
  let T := (rk.1.map Opnd.rows).getD 0
  let D := (rk.1.map Opnd.cols).getD 0
  let len := seqLen s q hg
  let ok := fun f => decide (f = Fmt.fp32 ∨ f = Fmt.bf16)
  let rank0 := decide (sc.rank = 0)
  let copy := needsCopy s q hg len T
  let need := pagesOpened len T + (if copy then 1 else 0)
  let stored := match seqFor s p q with | none => qf | some x => modelQfmt x.model
  let rsv := (freeReserve s q).length
  let used := appPages s q hg len T
  { errs := verErr bs ++ rk.2 ++ rv.2 ++ rp.2 ++ fmtErr rk.1 ok ++ fmtErr rv.1 ok ++ errIf (decide (qf = 3) || decide (qf ≠ stored)) 0x0105
      ++ shapeErr rv.1 ((rk.1.map Opnd.mrows).getD 0) ((rk.1.map Opnd.mcols).getD 0)
      ++ onOpnd rk.1 (fun o => localErr o T 0) ++ onOpnd rv.1 (fun o => localErr o T 0)
      ++ seqErrs s p q hg D
      ++ (if rank0 && decide (kvPages s ≠ 0) then errIf (decide (rp.1 ≠ len)) 0x0503 ++ errIf (decide (32768 < len + T)) 0x0504 ++ errIf (decide (rsv < need)) 0x0505
            ++ errIf ((tailPage s q hg len T ++ used).any (fun pg => decide (rdLE s (kvHdr s pg + 1) 1 % 16 ≠ 1))) 0x0508 else []),
    fl := { bareFlight sc.ip bs with
            opnds := [rk.1, rv.1], ext := .kvapp, aux := len,
            units := if rank0 ∧ T ≠ 0 then [.fresh (4 * (D / 32) * T + 16 * pagesOpened len T) .kvapp] else [],
            bregs := if lb.testBit 7 then [lb % 16] else [],
            reads := opRanges l T 0 [rk.1, rv.1.map (fun o => { o with rows := T, cols := D })],
            writes := used.map (fun pg => (kvPage s pg, 0x4000)), pages := if rank0 then used else [] },
    slots := 0, prev := none }

/-! ## Operands by name -/

/-- Descriptor fields of an instruction that name an operand. -/
def descFields (bs : List Byte) : List Nat :=
  let d := fun o => le bs o 2 % 4096
  let opt := fun o => if d o = 0xFFF then [] else [d o]
  match opcodeOf bs with
  | 1 => [d 4, d 6, d 8] ++ opt 0x0A ++ (if v2 bs (le bs 0x1F 1) = 0 then [] else opt 0x0C)
  | 2 => [d 4, d 6] ++ (if xpndDirect bs then [d 8] else [])
  | 3 => [d 4, d 6, d 8, d 0x0A]
  | 4 => let op := le bs 0x0C 1 % 16
         [d 4] ++ (if opBinary op then opt 6 else []) ++ (if op = 3 ∨ op = 14 then opt 8 else []) ++ [d 0x0A]
  | 5 => [d 4, d 6]
  | 6 => [d 4, d 6]
  | 7 => [d 4]
  | 9 => [d 4]
  | 10 => [d 4, d 6]
  | 12 => [d 4, d 6]
  | _ => []

/-! ## SYNC (R158, R159) -/

/-- Build a SYNC: WAIT, SIGNAL, BLOAD or the reserved operation. -/
def buildSync (s : State) (sc : SlotCtx) (bs : List Byte) : Built :=
  let op := le bs 4 1 % 4
  let breg := le bs 6 1 % 16
  let cnt := le bs 7 1
  let bad := decide (op = 2) && (decide (cnt = 0) || decide (16 < breg + cnt))
  { errs := verErr bs ++ errIf (decide (op = 3) || bad) 0x0122
      ++ (if decide (op = 2) && !bad then accErr (checkAcc s sc.part false (le bs 0x0C 6) (4 * cnt)) else []),
    fl := { bareFlight sc.ip bs with
            reads := if op = 2 then [(le bs 0x0C 6, 4 * cnt)] else [],
            bregs := if op = 2 then rangeFrom breg cnt else [] },
    slots := 0, prev := none }

end Sys2Proof.Machine
end

