-- ==== Sys2Proof/Machine/Dresser.lean ====
section
/-!
DEFINITION. Machine/Dresser.lean: the cluster map, the Dresser's banks, drawers and credits, writes into scratchpads under them, prefetch,
and the waits of a context slot (R32, R77, R91, R153, R185 to R194, R212, R269).
-/
namespace Sys2Proof.Machine
open Sys2Proof

/-! ## The cluster map (R88, R91) -/

/-- Register of a cluster. -/
def clReg (c o : Nat) : Nat := tcOff (16 * c) + o

/-- The physical index within its cluster that answers as logical core `l`; 0x1F while unavailable. -/
def mapOf (s : State) (l : Nat) : Nat := fld s (clReg (l / 16) (0x800 + 4 * (l % 16 / 4))) (8 * (l % 4)) 5
/-- Change the map entry of a logical core. -/
def setMap (s : State) (l v : Nat) : State := setFld s (clReg (l / 16) (0x800 + 4 * (l % 16 / 4))) (8 * (l % 4)) 5 v
/-- A core is UNAVAILABLE (R91): it stopped and no spare has stood in. -/
def coreUnavail (s : State) (l : Nat) : Bool := (coreOf s l).stopped || decide (mapOf s l = 0x1F)

/-! ## Groups, slots and waits (R32, R259, R269) -/

/-- The group of the context in a slot. -/
def groupOf (s : State) (c : SlotCtx) : Nat := le (ctxOf s c.part c.ctx).hdr 0x16 1 % 16
/-- Its priority. -/
def prioOf (s : State) (c : SlotCtx) : Nat := le (ctxOf s c.part c.ctx).hdr 0x17 1 % 8

/-- Number of the current time slot (R259). -/
def slotNow (s : State) : Nat := s.clk.tb % epochNs / slotNs

/-- The group that owns slot `x` of a partition (R259). -/
def slotOwner (s : State) (p x : Nat) : Nat := fld s (partOff p + (if x < 8 then 0x28 else 0x2C)) (4 * (x % 8)) 4

/-- The context's group owns the current slot. -/
def ownsSlot (s : State) (c : SlotCtx) : Bool := decide (slotOwner s c.part (slotNow s) = groupOf s c)

/-- Some rank of a context is stopped by the step break. -/
def anyHit (s : State) (p n : Nat) : Bool :=
  s.tc.any (fun e => e.2.slots.any (fun k => decide (k.2.part = p) && decide (k.2.ctx = n) && k.2.hit))
    || (ctxOf s p n).susp.any (fun e => e.2.hit)

/-- The step break holds a rank: it is stopped, or it waits on a token while another rank of its job is (R293). -/
def breakHolds (s : State) (c : SlotCtx) : Bool :=
  c.hit || (match c.wait with | .token _ _ => anyHit s c.part c.ctx | _ => false)

/-- Nanoseconds since its last instant counted that a context's wait adds, in slot `x`: those of a slot of its group, and none while the
step break holds it (R269, R293). -/
def waited (s : State) (x : Nat) (c : SlotCtx) : Nat :=
  if decide (slotOwner s c.part x = groupOf s c) && !breakHolds s c then s.clk.tb - c.since else 0

/-- A wait counted up to now (R32, R269). -/
def chargeWait (s : State) (x : Nat) (c : SlotCtx) : SlotCtx :=
  let d := waited s x c
  match c.wait with
  | .none => { c with since := s.clk.tb }
  | .token _ _ => { c with since := s.clk.tb, stall := (c.stall + d) % 2 ^ 64, tokenNs := c.tokenNs + d }
  | _ => { c with since := s.clk.tb, stall := (c.stall + d) % 2 ^ 64, stallC := c.stallC + d }

/-- Nanoseconds since its last instant counted during which a hold stopped the ring of a class-B core with work of the context issued (R442). -/
def heldNs (s : State) (l : Nat) (c : SlotCtx) : Nat := match tget? s.bur.holds (l / 16) with
  | none => 0
  | some h => if partClass s c.part = 3 ∧ c.flight ≠ [] then min s.clk.tb h.2 - max c.since h.1 else 0

/-- The figures of a slot at the end of time slot `x`: a wait is counted up to now, and for work that a hold period kept from the ring the hold (R32, R269,
R442). -/
def chargeSlot (s : State) (l x : Nat) (c : SlotCtx) : SlotCtx :=
  if c.wait = .none ∧ slotOwner s c.part x = groupOf s c ∧ c.hit = false then
    (let h := heldNs s l c
     { c with since := s.clk.tb, stall := (c.stall + h) % 2 ^ 64, stallC := c.stallC + h })
  else chargeWait s x c

/-- STALL_NS as a read finds it: with the wait that goes on (R32). -/
def stallNow (s : State) (l : Nat) (c : SlotCtx) : Nat :=
  ((chargeWait s (slotNow s) c).stall + (if c.wait = .none then heldNs s l c else 0)) % 2 ^ 64

/-- End the wait of a slot. -/
def endWait (s : State) (l k : Nat) : State := match slotOf s l k with
  | none => s
  | some c => setSlot s l k { chargeWait s (slotNow s) c with wait := .none }

/-- A context that holds the ring lets it go (R77). -/
def dropRing (s : State) (l k : Nat) : State :=
  let c := coreOf s l
  if c.ring = some k then setCore s l { c with ring := none } else s

/-- Make a slot wait from now on; if it holds the ring, the core gives the ring again (R77). -/
def beginWait (s : State) (l k : Nat) (w : Wait) : State := match slotOf s l k with
  | none => s
  | some c => dropRing (setSlot s l k { chargeWait s (slotNow s) c with wait := w }) l k

/-! ## Banks and drawers (R185, R186, R212) -/

/-- Drawers of a bank. -/
def bankDrawers (b : Nat) : List Nat := rangeFrom (16 * b) 16

/-- A run of drawers meets a bank. -/
def runInBank (base len b : Nat) : Bool := decide (len ≠ 0) && decide (base < 16 * b + 16) && decide (16 * b < base + len)

/-- Placed runs of contexts resident or held on a core, with those of contexts unbound (R186, R264). -/
def heldRuns (s : State) (l : Nat) : List (Nat × Nat) :=
  (coreOf s l).slots.map (fun e => (e.2.allotBase, e.2.allotLen))
  ++ ((s.ctxs.map (fun e => if e.2.cores.contains l then e.2.susp.map (fun x => (x.2.allotBase, x.2.allotLen)) else [])).flatten)

/-- A bank may leave ON for CLOSING (R212): no placed run and no landing drawer in use lies in it. -/
def bankIdle (s : State) (l b : Nat) : Bool :=
  !(heldRuns s l).any (fun r => runInBank r.1 r.2 b)
    && (bankDrawers b).all (fun d => match tget? (coreOf s l).drawers d with | none => true | some x => decide (x.st = .free))

/-- The mark of a GRANTED drawer whose context has been unbound, or whose prefetch has been discarded: it returns to the pool once its write
completes (R189, R194). -/
def noSlot : Nat := 256

/-- Drawers leave a context: a FULL one returns to the pool, a GRANTED one once its write completes (R189). -/
def leaveDrawers (go : Drawer → Bool) (d : Tab Drawer) : Tab Drawer :=
  d.filterMap (fun e => if !go e.2 then some e else if e.2.st = .granted then some (e.1, { e.2 with cs := noSlot, pre := none }) else none)

/-! ## Credits (R187 to R190, R194) -/

/-- DEST_UNAVAILABLE. -/
def fDest : Nat := 0x0203

/-- Two placed ranges overlap. -/
def placedMeets (a b : CreditReq) : Bool :=
  a.landing.isNone && b.landing.isNone && decide (a.off < b.off + b.len) && decide (b.off < a.off + a.len)

/-- Placed credits outstanding. -/
def placedCredits (c : LCore) : List Credit := c.credits.filter (fun x => x.req.landing.isNone)

/-- STAGE_LEN of a context slot. -/
def stageOf (s : State) (l k : Nat) : Nat := match slotOf s l k with | none => 0 | some c => c.stageLen

/-- A request that the Dresser can grant now (R188, R194). -/
def grantable (s : State) (l : Nat) (r : CreditReq) : Bool :=
  let c := coreOf s l
  decide ((c.credits.filter (fun x => decide (x.req.writer = r.writer))).length < 4) &&
  match r.landing with
  | none => decide (bankOf s l (r.off / 0x10000) = .on) && !(placedCredits c).any (fun x => placedMeets x.req r)
      && decide ((placedCredits c).length < 16)
  | some k => match freeDrawers s l with
    | [] => false
    | d :: _ => decide (bankOf s l (d / 16) = .on) && decide ((if r.prefetch then 2 else 0) < stageOf s l k - usedDrawers s l k)

/-- Writers beside the cores: DMA engine `e` and the Footstool of cluster `c`. -/
def dmaWriter (e : Nat) : Nat := 256 + e
/-- The Footstool of a cluster as a writer. -/
def footWriter (c : Nat) : Nat := 278 + c

/-- The Wardrobe as a writer: its copies into the hot areas (R187, R246). -/
def kvWriter : Nat := 294

/-- The context slot of the writer of a request, if the writer is a core. -/
def writerSlot (s : State) (r : CreditReq) : Option (Nat × Nat) :=
  if r.writer < 256 then (slotFor s r.writer r.part r.ctx).map (fun k => (r.writer, k)) else none

/-- A request waits: its writer's context waits for the credit, unless it prefetches (R32, R77, R188). -/
def waitCredit (s : State) (r : CreditReq) : State :=
  if r.prefetch then s else
  match writerSlot s r with
  | none => s
  | some (w, k) => match slotOf s w k with
    | none => s
    | some c => if c.wait = .none ∨ c.wait = .work then beginWait s w k .operand else s

/-- A request of a writer that waits at some Dresser. -/
def stillWaits (s : State) (r : CreditReq) : Bool :=
  s.tc.any (fun e => e.2.waitQ.any (fun q => decide (q.writer = r.writer) && decide (q.part = r.part) && decide (q.ctx = r.ctx) && !q.prefetch))

/-- A credit has been granted: the writer's wait ends once no request of its context waits any more. -/
def doneCredit (s : State) (r : CreditReq) : State := match writerSlot s r with
  | none => s
  | some (w, k) => match slotOf s w k with
    | none => s
    | some c => if c.wait = .operand ∧ stillWaits s r = false then endWait s w k else s

/-- Instructions decoded ahead of issue: at most four from the next one on, up to one with END (R153). -/
def aheadFrom (b : Tab (List Byte)) : Nat → Nat → List (Nat × List Byte)
  | 0, _ => []
  | n + 1, ip => match tget? b ip with
    | none => []
    | some bs => (ip, bs) :: (if endOf bs then [] else aheadFrom b n (ip + 64))

/-- Channels that an instruction gives the images it names. -/
def chansOf (bs : List Byte) (o : Opnd) : Nat := match opcodeOf bs with
  | 2 => le bs 0x0A 2
  | 5 => le bs 0x08 2
  | _ => o.mcols

/-- The byte range of an operand at its maxima. -/
def fullRange (l : Nat) (o : Opnd) (ch : Nat) : Nat × Nat :=
  rangeOf l { o with rows := o.mrows, cols := o.mcols, bats := o.mbat } (flatRows o.mrows o.mbat) ch

/-- A byte range lies in another. -/
def within (a b : Nat × Nat) : Bool := decide (b.1 ≤ a.1) && decide (a.1 + a.2 ≤ b.1 + b.2)

/-- The CONST operands of the instructions decoded ahead, in their order: the instruction, the operand's place in it, the operand and its byte range
(R153). -/
def constAhead (s : State) (l : Nat) (c : SlotCtx) : List (Nat × Nat × Opnd × (Nat × Nat)) :=
  ((aheadFrom c.ibuf 4 c.ip).map (fun e =>
    let ds := descFields e.2
    (rangeFrom 0 ds.length).filterMap (fun j => match descAt s c.part c.ctx (nth 0 ds j) with
      | none => none
      | some d =>
        let o := (operandOf s c.part c usePlain d).1
        if bit d 0x27 1 && !o.isLocal then some (e.1, j, o, fullRange l o (chansOf e.2 o)) else none))).flatten

/-- Where the byte at `a` stands in the order in which its operand is consumed (R144): by block of 32 rows, then by block of 32 reduction indices, then
by row; an image by its address. -/
def blockOrder (o : Opnd) (a : Nat) : Nat :=
  if o.lay ≠ 0 ∨ o.rowStride = 0 then a - o.base else
  let x := if o.mbat = 1 ∨ o.batStride = 0 then (0, a - o.base) else ((a - o.base) / o.batStride, (a - o.base) % o.batStride)
  let r := x.2 / o.rowStride
  let kb := x.2 % o.rowStride / (if fmtIs4 o.fmt then 16 else 32 * fmtBytes o.fmt)
  ((x.1 * 2 ^ 32 + r / 32) * 2 ^ 32 + kb) * 32 + r % 32

/-- The place of `len` bytes at `src` among what the instructions decoded ahead will consume: the instruction, the operand, the block (R153). -/
def aheadKey (s : State) (l : Nat) (c : SlotCtx) (src len : Nat) : Option (Nat × Nat × Nat) :=
  ((constAhead s l c).find? (fun x => within (src, len) x.2.2.2)).map (fun x => (x.1, x.2.1, blockOrder x.2.2.1 src))

/-- One place comes no later than another. -/
def keyLe (a b : Nat × Nat × Nat) : Bool :=
  decide (a.1 < b.1) || (decide (a.1 = b.1) && (decide (a.2.1 < b.2.1) || (decide (a.2.1 = b.2.1) && decide (a.2.2 ≤ b.2.2))))

/-- The block of 32 reduction indices that step `k` consumes. -/
def stepBlock (m : Mma) (k : Nat) : Nat := (if m.mode = 1 ∨ m.mode = 2 then 2 * k else k) / 32

/-- Whether a stage holds a block. -/
def stageIs (k ip ti q kb : Nat) (g : Stage) : Bool :=
  decide (g.cs = k) && decide (g.ip = ip) && decide (g.tile = ti) && decide (g.pass = q) && decide (g.blk = kb)

/-- The pair of stages that holds a block: 0 or 1. -/
def stagePair (s : State) (l k ip ti q kb : Nat) : Option Nat :=
  [0, 1].find? (fun x => (((tget? (coreOf s l).stages x).map (stageIs k ip ti q kb)).getD false)
    && (((tget? (coreOf s l).stages (2 + x)).map (stageIs k ip ti q kb)).getD false))

/-- A context slot's FULL landing drawer that holds a byte range of a source. -/
def drawerWith (s : State) (l k a len : Nat) : Option (Nat × Drawer) :=
  (coreOf s l).drawers.find? (fun e => decide (e.2.st = .full) && decide (e.2.cs = k) && (match e.2.src with
      | none => false
      | some r => within (a, len) (r.1, min r.2 0x1000)))

/-- A range that slot `k` of core `l` can read in its own scratchpad: it lies there, or a FULL landing drawer of the slot holds it (R60, R192). -/
def atHand (s : State) (l k : Nat) (r : Nat × Nat) : Bool := inCore l r || (drawerWith s l k r.1 r.2).isSome

/-- Every fetch of an instruction in flight has been made: what it reads is at hand, or none of its steps still needs it (R153). -/
def fetchesMade (s : State) (l k : Nat) (f : InFlight) : Bool := f.reads.all (atHand s l k) || (f.units.isEmpty && (match f.mma with
  | none => true
  | some m => decide (m.passes ≤ m.pass + 1) && decide (m.tiles.length ≤ m.pos) && !m.opened && m.redo.isEmpty
      && (m.r.isNone || decide (m.drained.length = m.tiles.length))
      && (match m.cur with
        | none => true
        | some c => c.sides.isEmpty && c.macs.all (fun x => (stagePair s l k f.ip c.tile x.1 (stepBlock m x.2)).isSome))))

/-- In deterministic mode a prefetch follows every fetch of the instructions in flight, and prefetches are made in the order in which the later
instructions will consume them (R153). -/
def prefetchOrder (s : State) (l k : Nat) (c : SlotCtx) (key : Nat × Nat × Nat) : Bool :=
  let co := coreOf s l
  !co.waitQ.any (fun q => decide (q.landing = some k) && !q.prefetch && decide (q.writer = l)) && c.flight.all (fetchesMade s l k)
    && co.drawers.all (fun e => decide (e.2.cs ≠ k) || e.2.pre.isNone || (match e.2.src with
      | none => true
      | some x => (match aheadKey s l c x.1 x.2 with | none => true | some y => keyLe y key)))

/-- The instruction that a prefetch request serves, if it may be made: an own fetch of a CONST operand decoded ahead (R153, R194). -/
def prefetchIp (s : State) (l : Nat) (r : CreditReq) : Option Nat :=
  if r.writer ≠ l then none else
  match r.landing, r.src with
  | some k, some a => match slotOf s l k with
    | none => none
    | some c => ((aheadKey s l c a r.len).filter (fun y => !c.det || prefetchOrder s l k c y)).map Prod.fst
  | _, _ => none

/-- Grant a request: a credit with its tag, and for a landing credit a drawer (R188, R189). -/
def grantCredit (s : State) (l : Nat) (r : CreditReq) : State :=
  let c := coreOf s l
  let d := match r.landing with | none => r.off / 0x1000 | some _ => (freeDrawers s l).headD 0
  let dr := match r.landing with
    | none => c.drawers
    | some k => tset c.drawers d ⟨.granted, k, r.src.map (fun a => (a, r.len)), if r.prefetch then prefetchIp s l r else none⟩
  doneCredit (setCore s l { c with credits := c.credits ++ [⟨c.tag, r, d, false⟩], drawers := dr, tag := c.tag + 1 }) r

/-- Same kind of credit: landing or placed. -/
def sameKind (a b : CreditReq) : Bool := a.landing.isSome == b.landing.isSome

/-- A credit that a writer holds for the source that a request names. -/
def sameSend (r : CreditReq) (x : Credit) : Bool :=
  x.req.landing.isSome && decide (x.req.writer = r.writer) && decide (x.req.src = r.src) && decide (x.req.part = r.part) && decide (x.req.ctx = r.ctx)

/-- A placed credit that a writer holds for the window range that a request names: at another destination, for the same multicast. -/
def sameCast (r : CreditReq) (x : Credit) : Bool :=
  r.landing.isNone && x.req.landing.isNone && decide (x.req.writer = r.writer) && decide (x.req.part = r.part) && decide (x.req.ctx = r.ctx)
    && decide (x.req.off = r.off) && decide (x.req.len = r.len)

/-- A multicast writer that a destination refuses releases the credits it holds for the source (R190). -/
def releaseSend (s : State) (r : CreditReq) : State :=
  if r.landing.isNone then { s with tc := s.tc.map (fun e => (e.1, { e.2 with credits := e.2.credits.filter (fun x => !sameCast r x) })) } else
  if r.src.isNone then s else
  { s with tc := s.tc.map (fun e => (e.1, { e.2 with
      credits := e.2.credits.filter (fun x => !sameSend r x),
      drawers := (e.2.credits.filter (sameSend r)).foldl (fun d x => tdel d x.drawer) e.2.drawers })) }

/-- A descriptor that a DMA engine is running writes a window range of both cores: a multicast (R204). -/
def castBoth (s : State) (r : CreditReq) (a b : Nat) : Bool :=
  decide (256 ≤ r.writer) && (tget Engine.reset s.dma (r.writer - 256)).q.any (fun v => match v.2 with
    | [] => false
    | c :: _ => (c.started.filter (fun i => !c.done.contains i)).any (fun i =>
      let d := tget [] c.descs i
      decide (le d 6 1 / 64 = 2) && [a, b].all (fun l => (dmaRanges d).2.any (within (spadOf l + r.off, r.len)))))

/-- A refusal faults the writer's context (R188, R190). -/
def refuse (s0 : State) (l : Nat) (r : CreditReq) (code : Nat) : State :=
  let s := releaseSend s0 r
  let wl := if r.writer < 256 then r.writer else l
  if code = fFence then raise (noteFence s r.part (spadOf l + r.off)) r.part r.ctx wl code else raise s r.part r.ctx wl code

/-- The bank that a request reaches. -/
def reqBank (s : State) (l : Nat) (r : CreditReq) : Nat := match r.landing with
  | none => r.off / 0x10000
  | some _ => (freeDrawers s l).headD 255 / 16

/-- The order in which a writer acquires credits (R190): for one source of a multicast, destination by destination in ascending logical
index, the next only once the one before it is granted; a unicast writer at one destination at a time.  A DMA engine acquires placed credits for a
multicast descriptor in the same way (R205). -/
def inOrder (s : State) (l : Nat) (r : CreditReq) : Bool :=
  match r.landing with
  | some _ => decide (r.src = none) || s.tc.all (fun e =>
      !(e.2.waitQ.any (fun q => q.landing.isSome && decide (q.writer = r.writer) && decide (q.src = r.src) && decide (q.part = r.part)))
        && (!(e.2.credits.any (sameSend r)) || decide (e.1 < l)))
  | none => s.tc.all (fun e => decide (e.1 = l) || (!e.2.waitQ.any (fun q => q.landing.isNone && decide (q.writer = r.writer))
      && ((placedCredits e.2).filter (fun x => decide (x.req.writer = r.writer))).all (fun x => sameCast r x && decide (e.1 < l) && castBoth s r e.1 l)))

/-- A request that a writer may make at all: of at most 4 KiB within one drawer, in the order of R190, and if it prefetches, one that R153
permits. -/
def wellAsked (s : State) (l : Nat) (r : CreditReq) : Bool :=
  decide (0 < r.len) && decide (r.len ≤ 0x1000)
    && (r.landing.isSome || (decide (r.off / 0x1000 = (r.off + r.len - 1) / 0x1000) && decide (r.off + r.len ≤ 0x100000)))
    && inOrder s l r && (!r.prefetch || (prefetchIp s l r).isSome)

/-- A credit request at the Dresser of core `l` (R188). -/
def creditRequest (s : State) (l : Nat) (r : CreditReq) : State :=
  if ownerOf s l ≠ some r.part then refuse s l r fFence
  else if coreUnavail s l then refuse s l r fDest
  else if wellAsked s l r = false then s
  else
    let b := reqBank s l r
    let s1 := bankWake (bankAbort s l b) l b true
    let c := coreOf s1 l
    if grantable s1 l r && !c.waitQ.any (sameKind r) then grantCredit s1 l r
    else waitCredit (setCore s1 l { c with waitQ := c.waitQ ++ [r] }) r

/-- Grant the first waiting request of a kind that can be granted; each kind is served in order of arrival (R188). -/
def creditGrant (s : State) (l : Nat) : State :=
  let c := coreOf s l
  let heads := [c.waitQ.find? (fun r => r.landing.isSome), c.waitQ.find? (fun r => r.landing.isNone)].filterMap id
  match heads.find? (grantable s l) with
  | none => s
  | some r => grantCredit (setCore s l { c with waitQ := c.waitQ.erase r }) l r

/-! ## Writes under credits (R187, R191, R205) -/

/-- A writer may write a range of a scratchpad now: under credits that it holds there, or under one that the Dresser would grant at once and
that the write gives back within the same command (log entry 18). -/
def rangeOpen (s : State) (writer l off len : Nat) : Bool :=
  let c := coreOf s l
  let mine := (placedCredits c).filter (fun x => decide (x.req.writer = writer))
  let b0 := off / 0x10000
  mine.any (fun x => within (off, len) (x.req.off, x.req.len)) ||
    ((rangeFrom b0 ((off + len - 1) / 0x10000 + 1 - b0)).all (fun b => decide (bankOf s l b = .on))
      && !(placedCredits c).any (fun x => decide (x.req.writer ≠ writer) && decide (x.req.off < off + len) && decide (off < x.req.off + x.req.len))
      && decide ((placedCredits c).length < 16) && decide (mine.length < 4) && !c.waitQ.any (fun q => q.landing.isNone))

/-- The scratchpad that a range lies in, unless it is that of core `own` itself, whose own writes need no credit (R187). -/
def remoteSpad (own : Option Nat) (a : Nat) : Option Nat := (spadCore a).filter (fun l => decide (own ≠ some l))

/-- Whether a list of ranges may be written now by a writer (R187); a core UNAVAILABLE is not waited for: the write faults (R188). -/
def rangesOpen (s : State) (writer : Nat) (own : Option Nat) (rs : List (Nat × Nat)) : Bool :=
  ((rs.map corePieces).flatten).all (fun r => decide (r.2 = 0) || (match remoteSpad own r.1 with
    | none => true
    | some l => coreUnavail s l || rangeOpen s writer l (r.1 - spadOf l) r.2))

/-- The banks that a write waits for are woken, or their gating is cancelled (R212, R213). -/
def touchRanges (s : State) (wr : Bool) (rs : List (Nat × Nat)) : State := rs.foldl (fun s r => touch s wr r.1 r.2) s

/-- A placed credit that a context's writer still holds for bytes of a list of ranges: a write not yet acknowledged (R131, R188). -/
def unacked (s : State) (writer p n : Nat) (rs : List (Nat × Nat)) : Bool :=
  s.tc.any (fun e => e.2.credits.any (fun x => x.req.landing.isNone && decide (x.req.writer = writer) && decide (x.req.part = p) && decide (x.req.ctx = n)
    && rs.any (meets (spadOf e.1 + x.req.off, x.req.len))))

/-- A request of a context for a credit still waits for bytes of a list of ranges. -/
def unasked (s : State) (writer p n : Nat) (rs : List (Nat × Nat)) : Bool :=
  s.tc.any (fun e => e.2.waitQ.any (fun x => x.landing.isNone && decide (x.writer = writer) && decide (x.part = p) && decide (x.ctx = n)
    && rs.any (meets (spadOf e.1 + x.off, x.len))))

/-! ## Operand fetches (R153, R192, R193) -/

/-- Bytes that an instruction of slot `k` reads are under way to a landing drawer: promised by another core, or fetched by its own Dresser; the
reader waits for them (R192, R193, R210). -/
def promised (s : State) (l k : Nat) (f : InFlight) : Bool :=
  (coreOf s l).credits.any (fun x => decide (x.req.landing = some k)
    && (match x.req.src with | none => false | some a => f.reads.any (meets (a, x.req.len))))

/-- Data of a source lands in the drawer of a credit. -/
def landData (s : State) (p n src len l : Nat) (c : Credit) : State :=
  wrMem s (spadOf l + 0x1000 * c.drawer) (ctxRead s p n src (min len 0x1000))

/-- A landing drawer for a fetch that the slot makes itself: FREE, within the context's STAGE_LEN, in a bank that is not gated (R188, R192). -/
def fetchDrawer (s : State) (l k : Nat) : Option Nat :=
  if usedDrawers s l k < stageOf s l k then
    (freeDrawers s l).head?.filter (fun d => decide (bankOf s l (d / 16) = .on ∨ bankOf s l (d / 16) = .closing))
  else none

/-- Every range is at hand, or a landing drawer can take what is not (R192). -/
def fetchReady (s : State) (l k : Nat) (rs : List (Nat × Nat)) : Bool := rs.all (atHand s l k) || (fetchDrawer s l k).isSome

/-- Write a byte string into one landing drawer, a piece of at most 4 KiB after the other: a piece lands once the one before it has been read. -/
def landBytes (a : Nat) : Nat → List Byte → State → State
  | 0, _, s => s
  | n + 1, bs, s => match bs with
    | [] => s
    | _ => landBytes a n (bs.drop 0x1000) (wrMem s a (bs.take 0x1000))

/-- The core's own fetch (R60, R192): what is not at hand is read from its source into the lowest FREE landing drawer of its pool, one range after the
other in the order given, and the drawer is FREE again once its last byte has been read (R189).  Where a range stands within the drawer the spec does
not say: they stand one behind the other, the model's choice (log entry 68). -/
def landReads (s : State) (l p n : Nat) (rs : List (Nat × Nat)) : State := match slotFor s l p n with
  | none => s
  | some k =>
    let far := rs.filter (fun r => !atHand s l k r)
    if far.isEmpty then s else match fetchDrawer s l k with
    | none => s
    | some d =>
      let bs := (far.map (fun r => ctxRead s p n r.1 r.2)).flatten
      landBytes (spadOf l + 0x1000 * d) (bs.length / 0x1000 + 1) bs (touch s true (spadOf l + 0x1000 * d) (min 0x1000 bs.length))

/-- The bytes of an operand as the core reads them: from a FULL landing drawer of the slot that holds them, else as its own fetch of the same step
lands them (R192). -/
def opRead (s : State) (l k p n a len : Nat) : List Byte :=
  match drawerWith s l k a len with
  | some (d, x) => rdMem s (spadOf l + 0x1000 * d + (a - (x.src.getD (0, 0)).1)) len
  | none => ctxRead s p n a len

/-- At issue, what was fetched ahead for the instruction becomes its own; what its bounds make unnecessary, and everything if it faults, is
discarded and its drawers are released (R153). -/
def takePrefetch (s : State) (l k ip : Nat) (reads : List (Nat × Nat)) (faulted : Bool) : State :=
  let c := coreOf s l
  let useless := fun (x : Drawer) => decide (x.cs = k) && decide (x.pre = some ip)
    && (faulted || !(match x.src with | none => false | some r => reads.any (meets r)))
  setCore s l { c with drawers := (leaveDrawers useless c.drawers).map (fun e => (e.1, if e.2.pre = some ip then { e.2 with pre := none } else e.2)) }

end Sys2Proof.Machine
end

