-- ==== Sys2Proof/Machine/Array.lean ====
section
/-!
DEFINITION. Machine/Array.lean: the steps of the array: reduction steps, side passes, spill and refill, and the rows of the
drain (R57 to R69, R80, R105 to R111, R122 to R127, R144, R150).
-/
namespace Sys2Proof.Machine
open Sys2Proof

/-! ## Accesses of a context -/

/-- The first access of a list that its check refuses (R255). -/
def firstBad (s : State) (p : Nat) (wr : Bool) : List (Nat × Nat) → Acc
  | [] => .ok
  | (a, n) :: r => match checkAcc s p wr a n with
    | .ok => firstBad s p wr r
    | e => e

/-- The context of a core goes on: nothing has been raised in it that still tears it down. -/
def alive (s : State) (p n : Nat) : Bool := (ctxOf s p n).dying.isNone

/-- The rank of a context on core `l` goes on: the fault raised in its context, if there is one, was raised on another core and has not reached this one
yet (R270). -/
def aliveOn (s : State) (p n l : Nat) : Bool := alive s p n || !(ctxOf s p n).halted.contains l

/-- Do something after the reads it needs have passed their check and reached the banks they lie in (R212, R213); else raise the fault (R255). -/
def afterReads (s : State) (p n l : Nat) (rs : List (Nat × Nat)) (f : State → State) : State :=
  match firstBad s p false rs with
  | .ok => f (touchRanges s false rs)
  | e => raiseAcc s p n l e

/-- The same for the operands of an instruction: what lies elsewhere is fetched into a landing drawer of the core first (R60, R192). -/
def afterFetch (s : State) (p n l : Nat) (rs : List (Nat × Nat)) (f : State → State) : State :=
  afterReads s p n l rs (fun s => f (landReads s l p n rs))

/-- A destination address in the scratchpad of another core that is UNAVAILABLE (R188). -/
def deadDest (s : State) (l a : Nat) : Bool := match remoteSpad (some l) a with
  | none => false
  | some d => coreUnavail s d

/-- Write elements in order; the first access outside, or into a scratchpad that is UNAVAILABLE, faults, and what lies before it stands
(R188, R255). -/
def wrElems (p n l : Nat) : List (Nat × List Byte) → State → State
  | [], s => s
  | (a, bs) :: r, s => match checkAcc s p true a bs.length with
    | .ok => if deadDest s l a then raise s p n l fDest else wrElems p n l r (wrMem (touch s true a bs.length) a bs)
    | e => raiseAcc s p n l e

/-- The code of element `c` of a row that begins at `rowA` (R99, R137). -/
def elemCode (s : State) (p n : Nat) (f : Fmt) (rowA c : Nat) : Nat :=
  if fmtIs4 f then
    (let v := leVal (ctxRead s p n (rowA + c / 2) 1); if c % 2 = 0 then v % 16 else v / 16)
  else leVal (ctxRead s p n (rowA + c * fmtBytes f) (fmtBytes f))

/-- The byte range of element `c` of a row. -/
def elemRange (f : Fmt) (rowA c : Nat) : Nat × Nat :=
  if fmtIs4 f then (rowA + c / 2, 1) else (rowA + c * fmtBytes f, fmtBytes f)

/-! ## A tile of an MMA -/

/-- A tile of an MMA by its position in the pass-0 order. -/
def tileOf (m : Mma) (ti : Nat) : Tile := nth ⟨0, 0, 0, 0⟩ m.tiles ti

/-- An operand as pass `q` reads it (R144). -/
def passA (m : Mma) (q : Nat) : Opnd := { m.a with base := m.a.base + q * m.aPass }
/-- The weights as pass `q` reads them. -/
def passW (m : Mma) (q : Nat) : Opnd := { m.w with base := m.w.base + q * m.wPass }

/-- Rows of a tile that are enabled by the bound and the mask (R80, R140). -/
def tileRows (m : Mma) (t : Tile) : List Nat :=
  (rangeFrom 0 32).filter (fun i => decide (32 * t.mt + i < m.a.rows) && m.rowMask.testBit i)
/-- Columns of a tile that are enabled. -/
def tileCols (m : Mma) (t : Tile) : List Nat :=
  (rangeFrom 0 32).filter (fun j => decide (32 * t.nt + j < m.w.rows) && m.colMask.testBit j)

/-- Place of a tile column in the core's share of columns. -/
def colPlace (m : Mma) (t : Tile) : Nat := t.nt - (m.cols.headD 0)

/-- Address of row `i` of the activations of a tile. -/
def aRow (l : Nat) (m : Mma) (q : Nat) (t : Tile) (i : Nat) : Nat := rowAddr l (passA m q) t.b (32 * t.mt + i) t.j i
/-- Address of the weight row of column `j` of a tile. -/
def wRow (l : Nat) (m : Mma) (q : Nat) (t : Tile) (j : Nat) : Nat :=
  rowAddr l (passW m q) t.b (32 * t.nt + j) (colPlace m t) j

/-- Reduction indices of step `k`: one, or the enabled ones of a pair (R57, R80). -/
def stepIdx (m : Mma) (k : Nat) : List Nat :=
  if m.mode = 1 ∨ m.mode = 2 then [2 * k, 2 * k + 1].filter (fun i => m.kActive.contains i) else [k]

/-- An activation code less its zero point (R100). -/
def actInt (o : Opnd) (c : Nat) : Int := match o.fmt with
  | .u8 => (c : Int) - o.zp
  | _ => sx 8 c - o.zp

/-- Byte range of a codebook entry (R104). -/
def codeEntry (m : Mma) (t : Tile) (c : Nat) : Nat × Nat := (m.w.aux + 16 * t.nt + c, 1)

/-! ### The operand stages (R55, R60) -/

/-- Bytes of the reduction indices of block `kb` in a row of a format that begins at `rowA`: those below the bound. -/
def blockRange (f : Fmt) (rowA kb bound : Nat) : Nat × Nat :=
  let m := min 32 (bound - 32 * kb)
  if fmtIs4 f then (rowA + 16 * kb, cdiv m 2) else (rowA + 32 * kb * fmtBytes f, m * fmtBytes f)

/-- What the stage fill of block `kb` reads: each enabled row's bytes of the activations and of the weights, and the codebook. -/
def stageReads (l : Nat) (m : Mma) (q : Nat) (t : Tile) (kb : Nat) : List (Nat × Nat) :=
  (tileRows m t).map (fun i => blockRange m.a.fmt (aRow l m q t i) kb m.a.cols)
    ++ (tileCols m t).map (fun j => blockRange m.w.fmt (wRow l m q t j) kb m.a.cols)
    ++ (if m.mode = 2 then [(m.w.aux + 16 * t.nt, 16)] else [])

/-- Fill one activation stage and one weight stage with a block (R60). -/
def stageFill (s : State) (l k p n ip : Nat) (m : Mma) (ti q kb x : Nat) : State :=
  let t := tileOf m ti
  let row := fun (r : Nat × Nat) => opRead s l k p n r.1 r.2
  let ra := (tileRows m t).map (fun i => (i, (aRow l m q t i, row (blockRange m.a.fmt (aRow l m q t i) kb m.a.cols))))
  let rw := (tileCols m t).map (fun j => (j, (wRow l m q t j, row (blockRange m.w.fmt (wRow l m q t j) kb m.a.cols))))
  let book := if m.mode = 2 then opRead s l k p n (m.w.aux + 16 * t.nt) 16 else []
  let ga : Stage := ⟨k, ip, ti, q, kb, ra, []⟩
  let gw : Stage := ⟨k, ip, ti, q, kb, rw, book⟩
  let c := coreOf s l
  setCore s l { c with stages := tset (tset c.stages x ga) (2 + x) gw }

/-- The code of reduction index `x` in row `i` of a stage. -/
def stageCode (g : Stage) (f : Fmt) (i x : Nat) : Nat := codeAt (tget (0, []) g.rows i).2 f (x % 32)

/-- A weight code as an integer: S8, S4 or its codebook entry; an escape adds nothing (R103, R104, R125). -/
def weightInt (s : State) (p n : Nat) (m : Mma) (t : Tile) (c : Nat) : Int :=
  match m.mode with
  | 0 => sx 8 c
  | 1 => sx 4 c
  | _ => if m.w.esc ∧ c = 8 then 0 else sx 8 (leVal (ctxRead s p n (codeEntry m t c).1 1))

/-- The product of one cell in one step of an integer mode. -/
def cellInt (as ws : List (Nat × List Int)) (i j : Nat) : Int :=
  let a := tget [] as i
  let w := tget [] ws j
  ((rangeFrom 0 a.length).map (fun x => nth 0 a x * nth 0 w x)).sum

/-- The cells of a tile, by update of each enabled element; `fresh` cells start from the product itself (R62). -/
def updCells (rows cols : List Nat) (fresh : Bool) (old : Tab Word) (init : Nat → Nat → Word) (add : Nat → Nat → Word → Word) : Tab Word :=
  if fresh then (rows.map (fun i => cols.map (fun j => (32 * i + j, init i j)))).flatten
  else old.map (fun e => (e.1, add (e.1 / 32) (e.1 % 32) e.2))

/-- A weight code of a stage as an integer (R103, R104, R125). -/
def stageWeight (m : Mma) (gw : Stage) (c : Nat) : Int := match m.mode with
  | 0 => sx 8 c
  | 1 => sx 4 c
  | _ => if m.w.esc ∧ c = 8 then 0 else sx 8 (le gw.book c 1)

/-- One reduction step on the elements of a slot, from the activation stage `ga` and the weight stage `gw` (R57, R59, R60, R105, R106). -/
def macWords (ga gw : Stage) (m : Mma) (t : Tile) (k : Nat) (fresh : Bool) (old : Tab Word) : Tab Word :=
  let rows := tileRows m t
  let cols := tileCols m t
  let ix := stepIdx m k
  if m.mode = 3 then
    let as := rows.map (fun i => (i, packFp32 (codeNum m.a.fmt 0 (stageCode ga m.a.fmt i k))))
    let ws := cols.map (fun j => (j, packFp32 (codeNum m.w.fmt 0 (stageCode gw m.w.fmt j k))))
    let prod := fun i j => fMul (tget 0 as i) (tget 0 ws j)
    updCells rows cols fresh old prod (fun i j w => fAdd w (prod i j))
  else
    let as := rows.map (fun i => (i, ix.map (fun x => actInt m.a (stageCode ga m.a.fmt i x))))
    let ws := cols.map (fun j => (j, ix.map (fun x => stageWeight m gw (stageCode gw m.w.fmt j x))))
    updCells rows cols fresh old (fun i j => BitVec.ofInt 32 (cellInt as ws i j))
      (fun i j w => w + BitVec.ofInt 32 (cellInt as ws i j))

/-- The enabled elements of a tile at zero (R62). -/
def zeroWords (m : Mma) (t : Tile) : Tab Word := updCells (tileRows m t) (tileCols m t) true [] (fun _ _ => 0) (fun _ _ w => w)

/-! ## Side passes (R122 to R127) -/

/-- An entry of the side list: K, N and VALUE (R126). -/
structure Esc where
  k : Nat
  n : Nat
  v : Int
  deriving DecidableEq, Repr

/-- Entry `i` of the side list. -/
def escAt (s : State) (p n : Nat) (m : Mma) (i : Nat) : Esc :=
  let v := leVal (ctxRead s p n (m.w.escBase + 8 * i) 8)
  ⟨fieldOf v 0 16, fieldOf v 16 16, sx 16 (fieldOf v 32 16)⟩

/-- Entries of the side list in a tile's column block and below its bounds (R127).  R127 passes over entries at or beyond the bound of K; that
those at or beyond the bound of N are passed over too is the model's choice (log entry 58). -/
def escOf (s : State) (p n : Nat) (m : Mma) (t : Tile) : List Nat :=
  if !m.w.esc then [] else
  (rangeFrom 0 m.w.escCount).filter (fun i =>
    let e := escAt s p n m i
    decide (e.n / 32 = t.nt) && decide (e.k < m.a.cols) && decide (e.n < m.w.rows))

/-- The code of the weight at reduction index `k`, column `j` of a tile. -/
def wCode (s : State) (p n l : Nat) (m : Mma) (t : Tile) (j k : Nat) : Nat := elemCode s p n m.w.fmt (wRow l m 0 t j) k

/-- ESC_WIDE and ESC_MISMATCH of a tile (R127).  Entries are matched by their position, so a list that is not in the ascending order of R126 is
taken as if it were: the model's choice (log entry 58). -/
def escErrs (s : State) (p n l : Nat) (m : Mma) (t : Tile) : Errs :=
  if !m.w.esc then [] else
  let es := (escOf s p n m t).map (escAt s p n m)
  let bound := (rangeFrom 0 32).filter (fun j => decide (32 * t.nt + j < m.w.rows))
  let wide := m.wide.map Prod.snd
  errIf (es.any (fun e => decide (wCode s p n l m t (e.n % 32) e.k ≠ 8)
      || decide (1 < (es.filter (fun f => decide (f.k = e.k ∧ f.n = e.n))).length))) 0x011C
    ++ errIf (m.kActive.any (fun k => bound.any (fun j => decide (wCode s p n l m t j k = 8)
      && !es.any (fun e => decide (e.k = k ∧ e.n = 32 * t.nt + j))))) 0x011C
    ++ errIf (es.any (fun e => wide.contains e.k)) 0x011D

/-- Groups of up to eight of a list. -/
def chunk8 {α : Type} : Nat → List α → List (List α)
  | 0, _ => []
  | _ + 1, [] => []
  | f + 1, l => l.take 8 :: chunk8 f (l.drop 8)

/-- The side-pass steps of a tile: the wide side pass, then the escape side pass (R123, R127, R144). -/
def tileSides (s : State) (p n : Nat) (m : Mma) (t : Tile) : List SideOp :=
  let g := cdiv (tileRows m t).length 8
  let es := (escOf s p n m t).filter (fun i => m.kActive.contains (escAt s p n m i).k)
  (m.wide.map (fun w => (rangeFrom 0 g).map (fun x => SideOp.wide w.1 x))).flatten ++ (chunk8 es.length es).map SideOp.esc

/-- Address of row `i` of the wide array of a tile. -/
def xRow (l : Nat) (m : Mma) (t : Tile) (i : Nat) : Nat := match m.x with
  | none => 0
  | some x => rowAddr l x t.b (32 * t.mt + i) t.j i

/-- Reads of one side-pass step. -/
def sideReads (s : State) (p n l : Nat) (m : Mma) (t : Tile) : SideOp → List (Nat × Nat)
  | .wide pos g =>
    let k := (m.wide.find? (fun w => decide (w.1 = pos))).elim 0 Prod.snd
    (((tileRows m t).drop (8 * g)).take 8).map (fun i => elemRange .s16 (xRow l m t i) pos)
      ++ (tileCols m t).map (fun j => elemRange m.w.fmt (wRow l m 0 t j) k)
  | .esc es => es.map (fun i => (m.w.escBase + 8 * i, 8))
      ++ (es.map (fun i => (tileRows m t).map (fun r => elemRange m.a.fmt (aRow l m 0 t r) (escAt s p n m i).k))).flatten

/-- One side-pass step on the elements of a slot (R122, R127). -/
def sideWords (s : State) (p n l : Nat) (m : Mma) (t : Tile) (op : SideOp) (old : Tab Word) : Tab Word :=
  match op with
  | .wide pos g =>
    let k := (m.wide.find? (fun w => decide (w.1 = pos))).elim 0 Prod.snd
    let rows := ((tileRows m t).drop (8 * g)).take 8
    let ws := (tileCols m t).map (fun j => (j, weightInt s p n m t (elemCode s p n m.w.fmt (wRow l m 0 t j) k)))
    old.map (fun e => if rows.contains (e.1 / 32) then
      (e.1, e.2 + BitVec.ofInt 32 (sx 16 (elemCode s p n .s16 (xRow l m t (e.1 / 32)) pos) * tget 0 ws (e.1 % 32))) else e)
  | .esc es =>
    es.foldl (fun o i =>
      let en := escAt s p n m i
      let rows := tileRows m t
      o.map (fun e => if e.1 % 32 = en.n % 32 ∧ rows.contains (e.1 / 32) = true then
        (e.1, e.2 + BitVec.ofInt 32 (actInt m.a (elemCode s p n m.a.fmt (aRow l m 0 t (e.1 / 32)) en.k) * en.v)) else e)) old

/-! ## Accumulator slots, raw drains and refills (R61, R62, R68, R150) -/

/-- An accumulator slot of a core. -/
def accOf (s : State) (l a : Nat) : AccSlot := tget AccSlot.none (coreOf s l).acc a
/-- Replace an accumulator slot; a FREE slot is not listed. -/
def setAcc (s : State) (l a : Nat) (v : AccSlot) : State :=
  let c := coreOf s l
  setCore s l { c with acc := if v.st = .free then tdel c.acc a else tset c.acc a v }

/-- `k` elements from key `i`: an element that no step has defined is a free value (R68). -/
def rawElems : Nat → Nat → Tab Word → Nat → List Word × Nat
  | 0, _, _, f => ([], f)
  | k + 1, i, w, f =>
    match w with
    | (key, v) :: r =>
      if key = i then (let x := rawElems k (i + 1) r f; (v :: x.1, x.2))
      else (let x := rawElems k (i + 1) w (f + 1); ((Config.freeValue f).setWidth 32 :: x.1, x.2))
    | [] => (let x := rawElems k (i + 1) [] (f + 1); ((Config.freeValue f).setWidth 32 :: x.1, x.2))

/-- Write a slot raw, all 32 × 32 elements, at an address (R68). -/
def rawSave (s : State) (addr : Nat) (w : Tab Word) : State :=
  let r := rawElems 1024 0 w s.free
  wrMem (touch { s with free := r.2 } true addr 0x1000) addr (r.1.map (fun x => leBytes 4 x.toNat)).flatten

/-- Read all elements of a slot back, masked ones included, bit for bit (R68, R150). -/
def rawLoad (s : State) (addr : Nat) : Tab Word :=
  (rangeFrom 0 1024).map (fun k => (k, BitVec.ofNat 32 (rdLE s (addr + 4 * k) 4)))

/-- The position in pass-0 order of the tile at place `pos` of pass `q`: serpentine (R144). -/
def serpent (m : Mma) (q pos : Nat) : Nat := if q % 2 = 1 then m.tiles.length - 1 - pos else pos

/-! ## The drain (R65 to R68, R109 to R111, R115) -/

/-- Stages 1 to 4 on a value already in FP32 (R65, R109, R110). -/
def drainStages (entry : DWord) (inScale : Option Word) (act : Nat) (clip : Word) (tab : List Byte) (resid : Option Word) (y : Word) : Word :=
  let sc := entry.setWidth 32
  let bias := (entry >>> 32).setWidth 32
  let e := match inScale with | none => sc | some a => fMul sc a
  let y3 := activate act clip tab (fAdd (fMul y e) bias)
  match resid with | none => y3 | some r => fAdd y3 r

/-- The scale entry of output channel `n` for a weight reference (R76, R142). -/
def scaleIdx (wref n : Nat) : Nat := if wref.testBit 15 then wref % 1024 else wref % 1024 + n

/-- CH_STATS is set in the record of an output (R112). -/
def chStats (s : State) (o : Option OutRec) : Bool := match o with | none => false | some r => recFlag s r.addr 4

/-- An element in the code of its format, as bytes. -/
def codeBytes (f : Fmt) (c : Nat) : List Byte := leBytes (fmtBytes f) c

/-- A residual element, dequantised (R110). -/
def residOf (s : State) (p n l : Nat) (m : Mma) (t : Tile) (i j : Nat) : Option Word :=
  m.r.map (fun r => elemFp32 r.fmt r.zp r.scale (elemCode s p n r.fmt (rowAddr l r t.b (32 * t.mt + i) t.j i) (32 * t.nt + j)))

/-- What one row of a drain gives: elements to write, and statistics. -/
def drainRow (s : State) (l : Nat) (sc : SlotCtx) (fl : InFlight) (m : Mma) (t : Tile) (w : Tab Word) (i : Nat) (st : Stats) :
    List (Nat × List Byte) × Stats :=
  let c := coreOf s l
  let rowA := rowAddr l m.o t.b (32 * t.mt + i) t.j i
  let ch := chStats s fl.out
  let tabB := tget [] c.tabs m.tab
  (tileCols m t).foldl (fun (acc : List (Nat × List Byte) × Stats) j =>
    let x := tget 0 w (32 * i + j)
    let n := 32 * t.nt + j
    if m.raw then (acc.1 ++ [(rowA + 4 * n, leBytes 4 x.toNat)], acc.2)
    else
      let y0 := if m.mode = 3 then x else fOfInt (sx 32 x.toNat)
      let y := drainStages (tget 0 c.scale (sc.scaleBase + scaleIdx m.w.wref n)) m.inScale m.act m.clip tabB
        (residOf s sc.part sc.ctx l m t i j) y0
      let cv := requant m.o.fmt m.o.zp m.outMul y
      (acc.1 ++ [(rowA + n * fmtBytes m.o.fmt, codeBytes m.o.fmt cv.code)], statsAdd (if ch then some n else none) y cv acc.2))
    ([], st)

/-- Reads of the residual for one drain row. -/
def drainReads (l : Nat) (m : Mma) (t : Tile) (i : Nat) : List (Nat × Nat) := match m.r with
  | none => []
  | some r => (tileCols m t).map (fun j => elemRange r.fmt (rowAddr l r t.b (32 * t.mt + i) t.j i) (32 * t.nt + j))

/-- The next enabled row of a tile at or after `i`. -/
def nextRow (m : Mma) (t : Tile) (i : Nat) : Option Nat := (tileRows m t).find? (fun r => decide (i ≤ r))

end Sys2Proof.Machine
end

