-- ==== Sys2Proof/Machine/Vector.lean ====
section
/-!
DEFINITION. Machine/Vector.lean: what a unit of work of an instruction other than MMA does: EWISE, STAT, POOL, ARGMAXC,
XPND, ATTN, SCALE, FILL and SCOPY (R70, R72 to R75, R155, R156, R165 to R179, R219 to R227).
-/
namespace Sys2Proof.Machine
open Sys2Proof

/-- A state and the statistics gathered so far. -/
abbrev SSt := State × Stats

/-- The scale S_o of an instruction in flight, fixed at issue (R118); 1.0 where the output names no record, an S32 output of an EWISE among them, for
which no rule gives a scale: the model's choice (log entry 76). -/
def flSo (fl : InFlight) : Word := match fl.out with | none => fOne | some o => o.so

/-- An operand of an instruction in flight. -/
def opnd (fl : InFlight) (i : Nat) : Option Opnd := (fl.opnds[i]?).getD none

/-- Convert and gather the values of one row: channel, address and value of each (R111, R115). -/
def emit (f : Fmt) (zp : Int) (om : Word) (ch : Bool) (xs : List (Nat × Nat × Word)) (st : Stats) : List (Nat × List Byte) × Stats :=
  xs.foldl (fun (a : List (Nat × List Byte) × Stats) x =>
    let cv := requant f zp om x.2.2
    (a.1 ++ [(x.2.1, codeBytes f cv.code)], statsAdd (if ch then some x.1 else none) x.2.2 cv a.2)) ([], st)

/-- Do the rows of a unit in order, while the context goes on. -/
def eachRow (p n l : Nat) (f : Nat → SSt → SSt) (rows : List Nat) (x : SSt) : SSt :=
  rows.foldl (fun a i => if aliveOn a.1 p n l then f i a else a) x

/-- Read, compute and write one row, once its operands have been fetched. -/
def rowWith (fetch : State → State) (p n l : Nat) (reads : List (Nat × Nat)) (x : SSt) (f : State → List (Nat × List Byte) × Stats) : SSt :=
  match firstBad x.1 p false reads with
  | .ok =>
    let s := fetch (touchRanges x.1 false reads)
    let r := f s
    (wrElems p n l r.1 s, r.2)
  | e => (raiseAcc x.1 p n l e, x.2)

/-- One row on a core: its operands reach the core's own scratchpad first (R192). -/
def rowDo (p n l : Nat) (reads : List (Nat × Nat)) (x : SSt) (f : State → List (Nat × List Byte) × Stats) : SSt :=
  rowWith (fun s => landReads s l p n reads) p n l reads x f

/-! ## EWISE and STAT (R155, R117) -/

/-- Address of the row of an input of EWISE, broadcast along a dimension of 1 (R155); `jb` counts the batches of the share begun before it, which
are the tile rows of a LOCAL input of one row (R137). -/
def inRow (l : Nat) (o : Opnd) (b r jb j i : Nat) : Nat :=
  if o.mrows = 1 then rowAddr l o b 0 (if o.mbat = 1 then 0 else jb) 0 else rowAddr l o b r j i
/-- Column of an input of EWISE. -/
def inCol (o : Opnd) (c : Nat) : Nat := if o.mcols = 1 then 0 else c

/-- The value of an input element (R155). -/
def inVal (s : State) (p n : Nat) (o : Opnd) (rowA c : Nat) : Word := elemFp32 o.fmt o.zp o.scale (elemCode s p n o.fmt rowA (inCol o c))

/-- The operations of EWISE (R154, R72). -/
def ewiseOp (op : Nat) (a b c : Word) : Word :=
  match op with
  | 0 => fAdd a b
  | 1 => fSub a b
  | 2 => fMul a b
  | 3 => fFma a b c
  | 4 => fMax a b
  | 5 => fMin a b
  | 6 => fAbs a
  | 7 => fNeg a
  | 8 => a
  | 9 => vRcp a
  | 10 => vRsqrt a
  | 11 => vDiv a b
  | 12 => vExp2 a
  | 13 => vLog2 a
  | _ => if c.toNat % 2 ^ 31 = 0 then b else a

/-- One tile row of an EWISE. -/
def effEwise (l : Nat) (sc : SlotCtx) (fl : InFlight) (t : Nat) (x : SSt) : SSt :=
  match opnd fl 3, opnd fl 0 with
  | some o, some a =>
    let p := sc.part
    let n := sc.ctx
    let op := le fl.bytes 0x0C 1 % 16
    let imm := BitVec.ofNat 32 (le fl.bytes 0x10 4)
    let b := t / fl.mt
    let mtile := t % fl.mt
    let j := t - fl.start
    let ins := [some a, opnd fl 1, opnd fl 2]
    let om := fDivRn fOne (flSo fl)
    let rowOf := fun (q : Opnd) i => inRow l q b (32 * mtile + i) (b - fl.start / fl.mt) j i
    eachRow p n l (fun i y =>
      rowDo p n l ((ins.filterMap (fun q => q.map (fun q => (rangeFrom 0 o.cols).map (fun c => elemRange q.fmt (rowOf q i) (inCol q c))))).flatten) y
        (fun s =>
          let val := fun (q : Option Opnd) (d : Word) c => match q with | none => d | some q => inVal s p n q (rowOf q i) c
          emit o.fmt o.zp om (chStats s fl.out) ((rangeFrom 0 o.cols).map (fun c =>
            (c, rowAddr l o b (32 * mtile + i) j i + c * fmtBytes o.fmt,
              ewiseOp op (val (some a) 0 c) (val (opnd fl 1) imm c) (val (opnd fl 2) 0 c)))) y.2))
      (rangeFrom 0 (rowsOf o.rows fl.mt t)) x
  | _, _ => x

/-- One tile row of a STAT: the gathering of R115 on real values, its counts those of R117. -/
def effStat (l : Nat) (sc : SlotCtx) (fl : InFlight) (t : Nat) (x : SSt) : SSt :=
  match opnd fl 0 with
  | some o =>
    let b := t / fl.mt
    let mtile := t % fl.mt
    eachRow sc.part sc.ctx l (fun i y =>
      let ra := rowAddr l o b (32 * mtile + i) (t - fl.start) i
      rowDo sc.part sc.ctx l ((rangeFrom 0 o.cols).map (fun c => elemRange o.fmt ra c)) y (fun s =>
        let ch := chStats s fl.out
        ([], (rangeFrom 0 o.cols).foldl (fun st c =>
          let v := inVal s sc.part sc.ctx { o with mcols := 2 } ra c
          statsAdd (if ch then some c else none) v ⟨0, numIsInf (num32 v), numIsNaN (num32 v)⟩ st) y.2)))
      (rangeFrom 0 (rowsOf o.rows fl.mt t)) x
  | none => x

/-! ## POOL, ARGMAXC and XPND (R165 to R179) -/

/-- Byte range of an image element. -/
def imgRange (l : Nat) (o : Opnd) (b y x ch : Nat) : Nat × Nat := (imgAddr l o b y x ch, fmtBytes o.fmt)
/-- Code of an image element. -/
def imgCode (s : State) (p n l : Nat) (o : Opnd) (b y x ch : Nat) : Nat :=
  leVal (ctxRead s p n (imgAddr l o b y x ch) (fmtBytes o.fmt))

/-- Taps of a pooling window, in ascending row and then column, with their padding resolved (R175). -/
def poolTaps (bs : List Byte) (h w oy ox : Nat) : List Tap :=
  let mode := le bs 0x0F 1 % 4
  ((rangeFrom 0 (le bs 0x0B 1)).map (fun ty => (rangeFrom 0 (le bs 0x0C 1)).map (fun tx =>
    tapOf mode (((oy * le bs 0x0D 1 + ty : Nat) : Int) - (le bs 0x10 2 : Nat)) (((ox * le bs 0x0E 1 + tx : Nat) : Int) - (le bs 0x12 2 : Nat)) h w))).flatten

/-- The value of a tap (R176).  A constant for BF16 is all 16 bits of PAD_VALUE: the model's choice between R168 and R176 (log entry 67). -/
def poolVal (s : State) (p n l : Nat) (o : Opnd) (bs : List Byte) (b ch : Nat) : Tap → Word
  | .elem y x _ => elemFp32 o.fmt o.zp o.scale (imgCode s p n l o b y x ch)
  | .pad c => if c then elemFp32 o.fmt o.zp o.scale (le bs 0x14 2 % 2 ^ (8 * fmtBytes o.fmt)) else fZero

/-- Fold a list of values from its first: that the sum of an average begins with its first tap is the model's choice (log entry 67). -/
def fold1 (f : Word → Word → Word) : List Word → Word
  | [] => fZero
  | a :: r => r.foldl f a

/-- The result of a window (R176): maximum, or the sum in order divided with one rounding. -/
def poolOf (kind : Nat) (taps : List (Bool × Word)) : Word :=
  match kind with
  | 0 => fold1 fMax (taps.map Prod.snd)
  | 1 => fDivRn (fold1 fAdd (taps.map Prod.snd)) (fOfInt taps.length)
  | _ =>
    let ins := taps.filter Prod.fst
    if ins.isEmpty then fZero else fDivRn (fold1 fAdd (ins.map Prod.snd)) (fOfInt ins.length)

/-- A tap reads an element inside the image, before any fold or clamp (R175). -/
def tapInside : Tap → Bool
  | .elem _ _ ins => ins
  | .pad _ => false

/-- Reads of a list of taps. -/
def tapReads (l : Nat) (o : Opnd) (b ch : Nat) (ts : List Tap) : List (Nat × Nat) :=
  ts.filterMap (fun t => match t with | .elem y x _ => some (imgRange l o b y x ch) | .pad _ => none)

/-- One tile row of a POOL: 32 output pixels of one output row in all channels (R177). -/
def effPool (l : Nat) (sc : SlotCtx) (fl : InFlight) (t : Nat) (x : SSt) : SSt :=
  match opnd fl 0, opnd fl 1 with
  | some i, some o =>
    let p := sc.part
    let n := sc.ctx
    let bs := fl.bytes
    let row := t / fl.mt
    let b := row / o.rows
    let oy := row % o.rows
    let x0 := 32 * (t % fl.mt)
    let om := fDivRn fOne (flSo fl)
    eachRow p n l (fun ch y =>
      let px := rangeFrom x0 (min 32 (o.cols - x0))
      rowDo p n l ((px.map (fun ox => tapReads l i b ch (poolTaps bs i.rows i.cols oy ox))).flatten) y (fun s =>
        emit o.fmt o.zp om (chStats s fl.out) (px.map (fun ox =>
          (ch, imgAddr l o b oy ox ch,
            poolOf (le bs 0x0A 1 % 4) ((poolTaps bs i.rows i.cols oy ox).map (fun tp => (tapInside tp, poolVal s p n l i bs b ch tp)))))) y.2))
      (rangeFrom 0 (le bs 0x08 2)) x
  | _, _ => x

/-- A channel replaces the best so far (R178): strictly greater, a NaN above every number. -/
def argBetter (a best : Num) : Bool :=
  if numIsNaN best then false else if numIsNaN a then true
  else numLt best a && !(numIsZero best && numIsZero a)
where
  numIsZero : Num → Bool
    | .fin _ m _ => decide (m = 0)
    | _ => false

/-- The lowest index of the largest value. -/
def argMax : List (Nat × Num) → Nat
  | [] => 0
  | (i, v) :: r => (r.foldl (fun (b : Nat × Num) x => if argBetter x.2 b.2 then x else b) (i, v)).1

/-- Address of element (b, r, c) of the input of ARGMAXC: a matrix, or an image in the matrix view (R163). -/
def argAddr (l : Nat) (o : Opnd) (b r j i c : Nat) : Nat :=
  if o.lay = 0 then rowAddr l o b r j i + c * fmtBytes o.fmt else imgAddr l o b r 0 c

/-- One tile row of an ARGMAXC: 32 positions. -/
def effArgmax (l : Nat) (sc : SlotCtx) (fl : InFlight) (t : Nat) (x : SSt) : SSt :=
  match opnd fl 0, opnd fl 1 with
  | some i, some o =>
    let p := sc.part
    let n := sc.ctx
    let b := t / fl.mt
    let mtile := t % fl.mt
    let j := t - fl.start
    eachRow p n l (fun r y =>
      let ad := fun c => argAddr l i b (32 * mtile + r) j r c
      rowDo p n l ((rangeFrom 0 i.cols).map (fun c => (ad c, fmtBytes i.fmt))) y (fun s =>
        let k := argMax ((rangeFrom 0 i.cols).map (fun c => (c, codeNum i.fmt 0 (leVal (ctxRead s p n (ad c) (fmtBytes i.fmt))))))
        ([(rowAddr l o b (32 * mtile + r) j r, leBytes (fmtBytes o.fmt) k)], y.2)))
      (rangeFrom 0 (rowsOf i.rows fl.mt t)) x
  | _, _ => x

/-- The zero code of an expansion (R167). -/
def zeroCode (o : Opnd) : Nat := match o.fmt with | .u8 => tc 8 o.zp | .s8 => tc 8 o.zp | _ => 0

/-- The tap of an expansion or of a Footstool request for local tap (u, v) (R166, R168). -/
def xpndTap (bs : List Byte) (h w oy ox u v : Nat) : Tap :=
  tapOf (le bs 0x12 1 % 4)
    (((oy * le bs 0x0E 1 + (le bs 0x1A 1 + u) * le bs 0x10 1 : Nat) : Int) - (le bs 0x14 2 : Nat))
    (((ox * le bs 0x0F 1 + (le bs 0x1B 1 + v) * le bs 0x11 1 : Nat) : Int) - (le bs 0x16 2 : Nat)) h w

/-- The code a tap gives: an element, or the padding code of the mode (R167, R168). -/
def tapCode (s : State) (p n l : Nat) (o : Opnd) (bs : List Byte) (b ch : Nat) : Tap → Nat
  | .elem y x _ => imgCode s p n l o b y x ch
  | .pad c => if c then le bs 0x18 2 % 256 else zeroCode o

/-- One block of 32 rows × 32 columns of an expanded matrix (R165 to R170). -/
def effXpnd (l : Nat) (sc : SlotCtx) (fl : InFlight) (t kb : Nat) (x : SSt) : SSt :=
  match opnd fl 0, opnd fl 1 with
  | some i, some o =>
    let p := sc.part
    let n := sc.ctx
    let bs := fl.bytes
    let cin := le bs 0x0A 2
    let kw := le bs 0x0D 1
    let cp := chBlock i * cdiv cin (chBlock i)
    let q := t / fl.mt
    let mtile := t % fl.mt
    let oh := if i.bats = 0 then 0 else o.bats / i.bats
    let b := if oh = 0 then 0 else q / oh
    let oy := if oh = 0 then 0 else q % oh
    let j := t - fl.start
    let ks := rangeFrom (32 * kb) (min 32 (o.cols - 32 * kb))
    eachRow p n l (fun r y =>
      let tp := fun k => xpndTap bs i.rows i.cols oy (32 * mtile + r) (k / cp / kw) (k / cp % kw)
      rowDo p n l ((ks.map (fun k => if k % cp < cin then tapReads l i b (k % cp) [tp k] else [])).flatten) y (fun s =>
        (ks.map (fun k => (rowAddr l o q (32 * mtile + r) j r + k,
          [BitVec.ofNat 8 (if k % cp < cin then tapCode s p n l i bs b (k % cp) (tp k) else zeroCode i)])), y.2)))
      (rangeFrom 0 (rowsOf o.rows fl.mt t)) x
  | _, _ => x

/-! ## ATTN (R219 to R227) -/

/-- One level of the lane tree (R73). -/
def treeLevel (f : Word → Word → Word) : List Word → List Word
  | a :: b :: r => f a b :: treeLevel f r
  | r => r

/-- The fixed pairwise tree over 32 lanes. -/
def laneTree (f : Word → Word → Word) (l : List Word) : Word :=
  (treeLevel f (treeLevel f (treeLevel f (treeLevel f (treeLevel f l))))).headD 0

/-- FP32 minus infinity. -/
def fNegInf : Word := 0xFF800000
/-- log2(e) rounded to FP32 (R224). -/
def fL2E : Word := 0x3FB8AA3B
/-- FP32 255. -/
def f255 : Word := 0x437F0000

/-- Base address of work drawer `w` of an ATTN (R221). -/
def workAddr (l : Nat) (fl : InFlight) (w : Nat) : Nat := spadOf l + 0x1000 * nth 0 fl.work w
/-- One of the four arrays of W0: m at 0x400, l at 0x480, corr at 0x500, nb at 0x580. -/
def workVar (l : Nat) (fl : InFlight) (o i : Nat) : Nat := workAddr l fl 0 + o + 4 * i
/-- Address of element (i, d) of the running output. -/
def workOut (l : Nat) (fl : InFlight) (i d : Nat) : Nat := workAddr l fl (1 + d / 32) + 128 * i + 4 * (d % 32)
/-- An FP32 word of memory. -/
def rdW (s : State) (a : Nat) : Word := BitVec.ofNat 32 (rdLE s a 4)
/-- Store an FP32 word. -/
def wrW (s : State) (a : Nat) (w : Word) : State := wrLE s a 4 w.toNat

/-- PAGED and CAUSAL of an ATTN. -/
def attnPaged (fl : InFlight) : Bool := bit fl.bytes 0x0C 1
/-- CAUSAL. -/
def attnCausal (fl : InFlight) : Bool := bit fl.bytes 0x0C 0

/-- The page that holds block `kb`. -/
def blockPage (fl : InFlight) (kb : Nat) : Nat := nth 0 fl.ptab (kb / 2)

/-- Address of element `d` of the key (or value) of token `k` for query head `b`.  A LOCAL operand is the same rows of the window for every head, tile row
⌊k ÷ 32⌋ (R137 does not say): the model's choice (log entry 77). -/
def kvAddr (s : State) (l : Nat) (fl : InFlight) (o : Opnd) (value : Bool) (b k d : Nat) : Nat :=
  if attnPaged fl then kvPage s (blockPage fl (k / 32)) + (if value then 0x2000 else 0) + 128 * (k % 64) + d
  else rowAddr l o b k (k / 32) (k % 32) + d

/-- Key `k` is permitted for row `i` (R222). -/
def permitted (fl : InFlight) (qpos i k : Nat) : Bool := decide (k < fl.aux) && (!attnCausal fl || decide (k ≤ qpos + i))

/-- A dot product of two lists of codes: S32 sum in INT8 mode, FP32 sum in order in FP8 mode (R57, R105, R106). -/
def dotInt (f g : Nat → Int) (n : Nat) : Word := BitVec.ofInt 32 ((rangeFrom 0 n).map (fun d => f d * g d)).sum
/-- The FP32 sum of products, in ascending index, the first product starting it. -/
def dotFp (f g : Nat → Word) : List Nat → Word
  | [] => fZero
  | d :: r => r.foldl (fun a e => fAdd a (fMul (f e) (g e))) (fMul (f d) (g d))

/-- First scores of a query tile: m = −∞, l = 0 and O = 0 for its rows. -/
def effAttnInit (l : Nat) (fl : InFlight) (rows d : Nat) (s : State) : State :=
  (rangeFrom 0 rows).foldl (fun s i =>
    let s1 := wrW (wrW s (workVar l fl 0x400 i) fNegInf) (workVar l fl 0x480 i) 0
    (rangeFrom 0 d).foldl (fun s c => wrW s (workOut l fl i c) 0) s1) s

/-- One row of one block of the running softmax (R224, R225). -/
def attnRow (l : Nat) (sc : SlotCtx) (fl : InFlight) (q k v : Opnd) (t kb i : Nat) (s : State) : State :=
  let p := sc.part
  let n := sc.ctx
  let b := t / fl.mt
  let mtile := t % fl.mt
  let qpos := fl.qpos + 32 * mtile
  let D := q.cols
  let fp8 := decide (q.fmt = .e4m3 ∨ q.fmt = .e5m2)
  let paged := attnPaged fl
  let sm := BitVec.ofNat 32 (le fl.bytes 0x10 4)
  let hdr := kvHdr s (blockPage fl kb)
  let sk := if paged then rdW s (hdr + 8) else k.scale.getD fOne
  let sv := if paged then rdW s (hdr + 12) else v.scale.getD fOne
  let c := fMul (fMul (q.scale.getD fOne) sk) sm
  let cv := fMul sv (if fp8 then fOne else fDivRn fOne f255)
  let qa := rowAddr l q b (32 * mtile + i) (t - fl.start) i
  let rdB := fun a => if paged then rdLE s a 1 else leVal (ctxRead s p n a 1)
  let keys := (rangeFrom (32 * kb) 32)
  let score := fun kk =>
    if fp8 then dotFp (fun d => packFp32 (codeNum q.fmt 0 (elemCode s p n q.fmt qa d)))
        (fun d => packFp32 (codeNum k.fmt 0 (rdB (kvAddr s l fl k false b kk d)))) (rangeFrom 0 D)
    else fOfInt (sx 32 (dotInt (fun d => actInt q (elemCode s p n q.fmt qa d)) (fun d => sx 8 (rdB (kvAddr s l fl k false b kk d))) D).toNat)
  let sv32 := keys.map (fun kk => if permitted fl qpos i kk then fMul (score kk) c else fNegInf)
  let bm := laneTree fMax sv32
  let m0 := rdW s (workVar l fl 0x400 i)
  let mn := fMax m0 bm
  let corr := if mn = fNegInf then fOne else vExp2 (fMul (fSub m0 mn) fL2E)
  let nb := fNeg (fMul mn fL2E)
  let ps := if mn = fNegInf then keys.map (fun _ => fZero) else sv32.map (fun x => vExp2 (fFma x fL2E nb))
  let l1 := fFma (rdW s (workVar l fl 0x480 i)) corr (laneTree fAdd ps)
  let codes := ps.map (fun x => if fp8 then (convTo .e4m3 0 (num32 x)).code else (convTo .u8 0 (num32 (fMul x f255))).code)
  let s1 := wrMem s (workAddr l fl 0 + 32 * i) (codes.map (BitVec.ofNat 8))
  let s2 := wrW (wrW (wrW (wrW s1 (workVar l fl 0x400 i) mn) (workVar l fl 0x480 i) l1) (workVar l fl 0x500 i) corr) (workVar l fl 0x580 i) nb
  let nk := min 32 (fl.aux - 32 * kb)
  (rangeFrom 0 D).foldl (fun s' d =>
    let u := if fp8 then dotFp (fun x => packFp32 (codeNum .e4m3 0 (nth 0 codes x)))
          (fun x => packFp32 (codeNum v.fmt 0 (rdB (kvAddr s l fl v true b (32 * kb + x) d)))) (rangeFrom 0 nk)
      else fOfInt (sx 32 (dotInt (fun x => ((nth (0 : Nat) codes x : Nat) : Int)) (fun x => sx 8 (rdB (kvAddr s l fl v true b (32 * kb + x) d))) nk).toNat)
    wrW s' (workOut l fl i d) (fFma u cv (fMul (rdW s' (workOut l fl i d)) corr))) s2

/-- Reads of one block by one row: its query, and the keys and values that lie below Lk. -/
def attnReads (s : State) (l : Nat) (fl : InFlight) (q k v : Opnd) (t kb i : Nat) : List (Nat × Nat) :=
  let b := t / fl.mt
  let nk := min 32 (fl.aux - 32 * kb)
  (rowAddr l q b (32 * (t % fl.mt) + i) (t - fl.start) i, q.cols) ::
    (if attnPaged fl then [] else
      ((rangeFrom (32 * kb) nk).map (fun kk => [(kvAddr s l fl k false b kk 0, q.cols), (kvAddr s l fl v true b kk 0, q.cols)])).flatten)

/-- What one row of one block is fetched from: what it reads, and in a paged ATTN the keys and values in their pages (R223, R239). -/
def attnFetch (s : State) (l : Nat) (fl : InFlight) (q k v : Opnd) (t kb i : Nat) : List (Nat × Nat) :=
  attnReads s l fl q k v t kb i ++
    (if attnPaged fl then
      (let n := min 32 (fl.aux - 32 * kb)
       [(kvAddr s l fl k false 0 (32 * kb) 0, 128 * n), (kvAddr s l fl v true 0 (32 * kb) 0, 128 * n)])
    else [])

/-- An access to the work drawers of an ATTN (R212, R213, R221). -/
def touchWork (l : Nat) (fl : InFlight) (s : State) : State :=
  touchRanges s true (fl.work.map (fun d => (spadOf l + 0x1000 * d, 0x1000)))

/-- Count an empty row (R227). -/
def countEmpty (s : State) (p : Nat) : State :=
  let o := 0x50100 + 0x40 * p
  bump (setFlag s (o + 0x1C) 0 true) (o + 0x20)

/-- Finalise one row of a query tile (R224, R227). -/
def attnEndRow (l : Nat) (sc : SlotCtx) (fl : InFlight) (o : Opnd) (D t i : Nat) (x : SSt) : SSt :=
  let b := t / fl.mt
  let empty := decide (rdW x.1 (workVar l fl 0x400 i) = fNegInf)
  let s0 := if empty then countEmpty x.1 sc.part else x.1
  let r := vRcp (rdW s0 (workVar l fl 0x480 i))
  let ra := rowAddr l o b (32 * (t % fl.mt) + i) (t - fl.start) i
  rowDo sc.part sc.ctx l [] (s0, x.2) (fun s =>
    emit o.fmt o.zp (fDivRn fOne (flSo fl)) (chStats s fl.out) ((rangeFrom 0 D).map (fun d =>
      (d, ra + d * fmtBytes o.fmt, if empty then fZero else fMul (rdW s (workOut l fl i d)) r))) x.2)

/-- One unit of an ATTN. -/
def effAttn (l : Nat) (sc : SlotCtx) (fl : InFlight) (e : Eff) (x : SSt) : SSt :=
  match opnd fl 0, opnd fl 3 with
  | some q, some o =>
    match e with
    | .attnInit t => (effAttnInit l fl (rowsOf q.rows fl.mt t) q.cols (touchWork l fl x.1), x.2)
    | .attnBlock t kb =>
      let k := (opnd fl 1).getD q
      let v := (opnd fl 2).getD q
      eachRow sc.part sc.ctx l (fun i y => (afterReads y.1 sc.part sc.ctx l (attnReads y.1 l fl q k v t kb i) (fun s =>
          attnRow l sc fl q k v t kb i (landReads (touchWork l fl s) l sc.part sc.ctx (attnFetch s l fl q k v t kb i))), y.2))
        (rangeFrom 0 (rowsOf q.rows fl.mt t)) x
    | .attnEnd t =>
      eachRow sc.part sc.ctx l (fun i y => attnEndRow l sc fl o q.cols t i y) (rangeFrom 0 (rowsOf q.rows fl.mt t)) x
    | _ => x
  | _, _ => x

/-! ## SCALE, FILL and SCOPY (R70, R75, R156, R191) -/

/-- Load scale entries `first` to `first + count − 1` of a SCALE instruction. -/
def effScaleEntries (l : Nat) (sc : SlotCtx) (fl : InFlight) (first count : Nat) (s : State) : State :=
  let base := sc.scaleBase + le fl.bytes 0x06 2 % 1024
  let s := touch s false (spadOf l + le fl.bytes 0x0A 6 + 8 * first) (8 * count)
  (rangeFrom first count).foldl (fun s i =>
    let c := coreOf s l
    setCore s l { c with scale := tset c.scale (base + i) (BitVec.ofNat 64 (rdLE s (spadOf l + le fl.bytes 0x0A 6 + 8 * i) 8)) }) s

/-- Load an activation table. -/
def effScaleTable (l : Nat) (fl : InFlight) (s0 : State) : State :=
  let s := touch s0 false (spadOf l + le fl.bytes 0x0A 6) 1056
  let c := coreOf s l
  setCore s l { c with tabs := tset c.tabs (le fl.bytes 0x05 1 % 4) (rdMem s (spadOf l + le fl.bytes 0x0A 6) 1056) }

/-- Row address of row `r` over all batches of a FILL or SCOPY operand. -/
def flatRow (l : Nat) (o : Opnd) (r : Nat) : Nat :=
  let y := r % o.rows
  rowAddr l o (r / o.rows) y (r / o.rows * cdiv o.rows 32 + y / 32) (y % 32)

/-- The bytes of a row of `c` elements with the codes given; the last nibble of an odd row of a 4-bit format keeps its upper
half from `old`. -/
def rowOfCodes (f : Fmt) (c : Nat) (code : Nat → Nat) (old : Nat) : List Byte :=
  if fmtIs4 f then
    (rangeFrom 0 (cdiv c 2)).map (fun i => BitVec.ofNat 8
      (code (2 * i) % 16 + 16 * (if 2 * i + 1 < c then code (2 * i + 1) % 16 else old / 16)))
  else ((rangeFrom 0 c).map (fun i => leBytes (fmtBytes f) (code i))).flatten

/-- Store one row, a piece of 64 bytes at a time as its addresses are permitted. -/
def wrRow (p n l a : Nat) (bs : List Byte) (s : State) : State :=
  wrElems p n l ((rangeFrom 0 bs.length).map (fun i => (a + i, [nth 0 bs i]))) s

/-- FILL (R156, R191). -/
def effFill (l : Nat) (sc : SlotCtx) (fl : InFlight) (first count : Nat) (x : SSt) : SSt :=
  match opnd fl 0 with
  | some o =>
    let v := le fl.bytes 0x08 4
    eachRow sc.part sc.ctx l (fun r y =>
      let a := flatRow l o r
      (wrRow sc.part sc.ctx l a (rowOfCodes o.fmt o.cols (fun _ => v) (rdLE y.1 (a + o.cols / 2) 1)) y.1, y.2))
      (rangeFrom first count) x
  | none => x

/-- SCOPY (R156, R191). -/
def effScopy (l : Nat) (sc : SlotCtx) (fl : InFlight) (first count : Nat) (x : SSt) : SSt :=
  match opnd fl 0, opnd fl 1 with
  | some i, some o =>
    eachRow sc.part sc.ctx l (fun r y =>
      let a := flatRow l i r
      let d := flatRow l o r
      (afterReads y.1 sc.part sc.ctx l [(a, rowBytes i.fmt i.cols)] (fun s =>
        wrRow sc.part sc.ctx l d (rowOfCodes i.fmt i.cols (fun c => elemCode s sc.part sc.ctx i.fmt a c) (rdLE s (d + i.cols / 2) 1)) s), y.2))
      (rangeFrom first count) x
  | _, _ => x

/-- The tile row that a unit belongs to. -/
def unitRow : Eff → Nat
  | .xpnd t _ => t
  | .attnInit t => t
  | .attnBlock t _ => t
  | .attnEnd t => t
  | .ewise t => t
  | .pool t => t
  | .argmax t => t
  | .stat t => t
  | .scaleEntries f _ => f
  | .scaleTable => 0
  | .fill f _ => f
  | .scopy f _ => f
  | .kvapp => 0

/-- The effect of a unit of work. -/
def unitEff (l : Nat) (sc : SlotCtx) (fl : InFlight) (e : Eff) (x : SSt) : SSt :=
  match e with
  | .xpnd t kb => effXpnd l sc fl t kb x
  | .attnInit _ => effAttn l sc fl e x
  | .attnBlock _ _ => effAttn l sc fl e x
  | .attnEnd _ => effAttn l sc fl e x
  | .ewise t => effEwise l sc fl t x
  | .pool t => effPool l sc fl t x
  | .argmax t => effArgmax l sc fl t x
  | .stat t => effStat l sc fl t x
  | .scaleEntries f c => (effScaleEntries l sc fl f c x.1, x.2)
  | .scaleTable => (effScaleTable l fl x.1, x.2)
  | .fill f c => effFill l sc fl f c x
  | .scopy f c => effScopy l sc fl f c x
  | .kvapp => x

end Sys2Proof.Machine
end

