-- ==== Sys2Proof/Machine/Turn.lean ====
section
/-!
DEFINITION. Machine/Turn.lean: one turn of a core's completion ring: the transitions that take no step, the row of the drain,
the step of the array and the step of the other engines; the choice of the context that holds the ring; saving and
refilling accumulator slots (R32, R61 to R64, R77, R144 to R152).
-/
namespace Sys2Proof.Machine
open Sys2Proof

/-! ## Flights -/

/-- An instruction in flight of a context slot. -/
def flightAt (s : State) (l k i : Nat) : Option InFlight := (slotOf s l k).bind (fun c => c.flight[i]?)

/-- The state of a context's rank on core `l`, resident or unbound (R264). -/
def rankAt (s : State) (l p n : Nat) : Option SlotCtx := match slotFor s l p n with
  | some k => slotOf s l k
  | none => ((ctxOf s p n).susp.find? (fun e => decide ((ctxOf s p n).cores[e.1]? = some l))).map Prod.snd

/-- Change it. -/
def modRank (s : State) (l p n : Nat) (f : SlotCtx → SlotCtx) : State := match slotFor s l p n with
  | some k => (match slotOf s l k with | none => s | some c => setSlot s l k (f c))
  | none =>
    let c := ctxOf s p n
    setCtx s p n { c with susp := c.susp.map (fun e => if c.cores[e.1]? = some l then (e.1, f e.2) else e) }

/-- What an instruction of a rank waited for outside its ring is done. -/
def extDone (s : State) (l p n ip : Nat) (ext : Ext) (f : InFlight → InFlight) : State :=
  modRank s l p n (fun c => { c with flight := c.flight.map (fun x => if x.ip = ip ∧ x.ext = ext then f { x with ext := .none } else x) })

/-- Replace an instruction in flight. -/
def setFlight (s : State) (l k i : Nat) (f : InFlight) : State := match slotOf s l k with
  | none => s
  | some c => setSlot s l k { c with flight := setNth c.flight i f }

/-- Put the state of an MMA back into its instruction. -/
def putMma (s : State) (l k i : Nat) (m : Mma) : State := match flightAt s l k i with
  | none => s
  | some f => setFlight s l k i { f with mma := some m }

/-- Accumulator slots that a context slot holds in a grant; a context that has been saved or displaced has released it (R152). -/
def grantedOf (c : SlotCtx) : List Nat := if c.released then [] else (c.flight.map InFlight.granted).flatten

/-- Accumulator slots of a core that are FREE and in no grant (R148). -/
def freeAcc (s : State) (l : Nat) : List Nat :=
  let used := ((coreOf s l).slots.map (fun e => grantedOf e.2)).flatten
  (rangeFrom 0 32).filter (fun a => decide ((accOf s l a).st = .free) && !used.contains a)

/-- Tile rows of a share that are done, in order (R147). -/
def rowsDone (f : InFlight) : Nat := match f.mma with
  | some m =>
    let left := (rangeFrom 0 m.tiles.length).filter (fun ti => !m.drained.contains ti)
    match left with
    | [] => if m.opened then (m.tiles.map Tile.j).foldl max 0 else f.len
    | ti :: r => (r.map (fun x => (tileOf m x).j)).foldl min (tileOf m ti).j
  | none => match f.units with
    | [] => f.len
    | u :: _ => unitRow u.eff - f.start

/-- A consumer may start tile row `j`: its producer has drained every tile of that row on this core (R147). -/
def fuseReady (c : SlotCtx) (f : InFlight) (j : Nat) : Bool := match f.fuse with
  | none => true
  | some ip => match c.flight.find? (fun g => decide (g.ip = ip)) with
    | none => true
    | some g => decide (j < rowsDone g)

/-! ## Whether the next access can be made (R62, R187, R192, R213) -/

/-- Every scratchpad bank that a list of ranges meets is ON, or CLOSING, whose gating an access cancels (R212). -/
def rangesOn (s : State) (rs : List (Nat × Nat)) : Bool :=
  ((rs.map corePieces).flatten).all (fun r => match spadCore r.1 with
    | none => true
    | some l => (coreOf s l).banks.all (fun e => decide (e.2 = .on ∨ e.2 = .closing)
        || !meets r (spadOf l + 0x10000 * e.1, 0x10000)))

/-- The operands of an instruction can be read: nothing that another core has promised is outstanding, no bank of them is gated, and a landing drawer
can take what lies outside the core's own scratchpad (R60, R192). -/
def opsReady (s : State) (l k : Nat) (f : InFlight) : Bool := !promised s l k f && rangesOn s f.reads && fetchReady s l k f.reads

/-- The output of an instruction can be written: under credits where it lies in another core's scratchpad (R187), in banks that are ON. -/
def writesReady (s : State) (l : Nat) (ws : List (Nat × Nat)) : Bool := rangesOpen s l (some l) ws && rangesOn s ws

/-- What one drain row writes: from its first to its last enabled element. -/
def drainWrites (l : Nat) (m : Mma) (t : Tile) (i : Nat) : List (Nat × Nat) := match tileCols m t with
  | [] => []
  | j :: r =>
    let w := if m.raw then 4 else fmtBytes m.o.fmt
    let n := 32 * t.nt
    [(rowAddr l m.o t.b (32 * t.mt + i) t.j i + (n + j) * w, (r.getLastD j - j + 1) * w)]

/-! ## Transitions that take no step -/

/-- An instruction in flight has no step left for any engine: what it still waits for lies outside the ring. -/
def spent (f : InFlight) : Bool := f.units.isEmpty && (match f.mma with
  | none => true
  | some m => decide (m.passes ≤ m.pass) && m.cur.isNone && m.redo.isEmpty && !m.opened && m.drainQ.isEmpty)

/-- A token of another agent opens the way for an instruction.  In deterministic mode the instructions before it run out of steps first, so that the
instant at which the token is signalled shows in no STEP_COUNT (R33; log entry 69). -/
def tokOpen (s : State) (c : SlotCtx) (before : List InFlight) (tok : Nat) (v : Word) : Bool :=
  tokReached s c.part tok v && (!c.det || before.all spent)

/-- The pass token has advanced as often as pass `q` of instruction `i` needs (R144). -/
def passOpen (s : State) (c : SlotCtx) (i : Nat) (m : Mma) : Bool := match m.passTok with
  | none => true
  | some (tok, v) => tokOpen s c (c.flight.take i) tok (v + BitVec.ofNat 32 (m.pass + 1))

/-- Take slots off the drain queue whose rows have all been drained. -/
def settleDrain (s : State) (l k i : Nat) (m : Mma) : Option State := match m.drainQ with
  | [] => none
  | a :: r =>
    let acc := accOf s l a
    match nextRow m (tileOf m acc.tile) acc.row with
    | none => some (putMma (setAcc s l a { acc with st := .draining, row := 32 }) l k i { m with drainQ := r })
    | some _ => none

/-- Close the tile in progress once its steps have run: LIVE, and drained after its last pass (R62, R144). -/
def settleFinish (s : State) (l k i : Nat) (m : Mma) : Option State := match m.cur with
  | none => none
  | some c =>
    if c.spill ≠ 0 ∨ c.refill ≠ 0 ∨ ¬ c.macs.isEmpty ∨ ¬ c.sides.isEmpty then none else
    let acc := accOf s l c.slot
    let w := if c.fresh then zeroWords m (tileOf m c.tile) else acc.words
    some (putMma (setAcc s l c.slot { acc with st := .live, words := w, fin := c.last, row := 0, stats := Stats.none }) l k i
      { m with cur := none, drainQ := if c.last then m.drainQ ++ [c.slot] else m.drainQ })

/-- Start recomputing a tile (R63). -/
def settleRedo (s : State) (sc : SlotCtx) (l k i : Nat) (m : Mma) : Option State := match m.cur, m.redo with
  | none, (a, n, last) :: r =>
    let acc := accOf s l a
    let t := tileOf m acc.tile
    some (putMma (setAcc s l a { acc with st := .accumulating, words := [], row := 0, stats := Stats.none }) l k i
      { m with redo := r, cur := some ⟨acc.tile, a, 0, 0, 0, true, ((rangeFrom 0 n).map (fun q => m.ks.map (fun x => (q, x)))).flatten,
                        if last then tileSides s sc.part sc.ctx m t else [], last⟩ })
  | _, _ => none

/-- The granted slots of a tile in the order in which a FREE one is taken: R150 names no order among them; the tile at position `ti` takes the granted
slot at place `ti` modulo their number where that is FREE, as in the table of four tiles after R69, and else the next in grant order: the model's
choice (log entry 70). -/
def slotOrder (g : List Nat) (ti : Nat) : List Nat := if g.length = 0 then [] else g.drop (ti % g.length) ++ g.take (ti % g.length)

/-- The slot that a tile takes (R150): its own, a FREE granted one, or the least recently written partial sum to spill. -/
def slotFind (s : State) (l : Nat) (g : List Nat) (ti : Nat) : Option (Nat × Bool) :=
  match g.find? (fun a => decide ((accOf s l a).st ≠ .free) && decide ((accOf s l a).tile = ti)) with
  | some a => some (a, false)
  | none => match (slotOrder g ti).find? (fun a => decide ((accOf s l a).st = .free)) with
    | some a => some (a, false)
    | none =>
      match g.filter (fun a => decide ((accOf s l a).st = .live) && !(accOf s l a).fin) with
      | [] => none
      | a :: r => some (r.foldl (fun b x => if (accOf s l x).stamp < (accOf s l b).stamp then x else b) a, true)

/-- A slot whose tile has been drained to its last row, which its destination has not acknowledged yet (R62). -/
def ackDue (a : AccSlot) : Bool := decide (a.st = .draining) && decide (32 ≤ a.row)

/-- Granted slots whose tiles still turn the ring for the array or the drain. -/
def tilesRunning (s : State) (l : Nat) (g : List Nat) : Nat :=
  (g.filter (fun a => decide ((accOf s l a).st ≠ .free) && !ackDue (accOf s l a))).length

/-- The order of R144 lets an MMA begin its next tile: with PASSES = 1 a tile accumulates while the one before it drains, and the drains before that
have run, as the step count of R145 says; in deterministic mode no sum is spilled for want of an acknowledgement alone. -/
def tileTurn (s : State) (c : SlotCtx) (l : Nat) (f : InFlight) (m : Mma) (spill : Bool) : Bool :=
  (decide (1 < m.passes) || decide (tilesRunning s l f.granted ≤ 1))
    && !(spill && c.det && f.granted.any (fun a => ackDue (accOf s l a)))

/-- Begin the next tile of the pass, if it can (R144, R147, R150), in a slot of the context's group (R259, R260); a tile of the last pass is checked
against its side list (R127). -/
def settleBegin (s : State) (sc : SlotCtx) (l k i : Nat) (f : InFlight) (m : Mma) : Option State :=
  if m.cur.isSome ∨ ¬ m.redo.isEmpty ∨ m.passes ≤ m.pass ∨ m.tiles.length ≤ m.pos then none else
  if m.pos = 0 ∧ ¬ passOpen s sc i m ∨ ¬ ownsSlot s sc then none else
  let ti := serpent m m.pass m.pos
  let t := tileOf m ti
  if ¬ fuseReady sc f t.j then none else
  match slotFind s l f.granted ti with
  | none => none
  | some (a, sp) =>
    if ¬ tileTurn s sc l f m sp then none else
    let last := decide (m.pass + 1 = m.passes)
    let bad := if last && m.w.esc then firstBad s sc.part false [(m.w.escBase, 8 * m.w.escCount)] else .ok
    match bad with
    | .ok =>
      let es := if last then escErrs s sc.part sc.ctx l m t else []
      if ¬ es.isEmpty then some (raiseErrs s sc.part sc.ctx l es) else
      let acc := accOf s l a
      let s1 := if sp then s
        else if acc.st = .free then setAcc s l a ⟨.accumulating, k, f.ip, ti, [], 0, m.stamp, false, Stats.none⟩
        else setAcc s l a { acc with st := .accumulating }
      some (putMma s1 l k i { m with
        pos := m.pos + 1,
        cur := some ⟨ti, a, if sp then 32 else 0, acc.tile, if m.spilled.contains ti then 32 else 0,
                     decide (m.pass = 0), m.ks.map (fun x => (m.pass, x)),
                     if last then tileSides s sc.part sc.ctx m t else [], last⟩ })
    | e => some (raiseAcc s sc.part sc.ctx l e)

/-- End a pass once every tile of it has run; its token is signalled once (R144). -/
def settlePass (s : State) (sc : SlotCtx) (l k i : Nat) (m : Mma) : Option State :=
  if m.cur.isSome ∨ ¬ m.redo.isEmpty ∨ m.passes ≤ m.pass ∨ m.pos < m.tiles.length ∨ m.opened then none else
  if m.tiles.isEmpty ∧ ¬ passOpen s sc i m then none else
  let s1 := match m.passTok with | none => s | some (tok, _) => signal s sc.part tok 1
  some (putMma s1 l k i { m with pass := m.pass + 1, pos := if m.pass + 1 < m.passes then 0 else m.tiles.length })

/-- Earlier drains of the context have completed: what a SCALE instruction waits for (R69). -/
def earlierDrained (sc : SlotCtx) (i : Nat) : Bool :=
  (sc.flight.take i).all (fun f => match f.mma with
    | none => f.units.isEmpty
    | some m => decide (m.drained.length = m.tiles.length) && !m.opened)

/-- A unit may run now. -/
def unitGate (sc : SlotCtx) (i : Nat) (e : Eff) : Bool := match e with
  | .scaleEntries _ _ => earlierDrained sc i
  | .scaleTable => earlierDrained sc i
  | .attnInit _ => ((sc.flight[i]?).map (fun f => !f.granted.isEmpty)).getD false
  | _ => true

/-- The other engines have a step for an instruction: its unit may run. -/
def unitHas (sc : SlotCtx) (i : Nat) (f : InFlight) : Bool := match f.units with
  | [] => false
  | u :: _ => unitGate sc i u.eff

/-- The step of the other engines can be taken: the operands can be read and the output can be written. -/
def unitReady (s : State) (l k : Nat) (f : InFlight) : Bool := opsReady s l k f && writesReady s l f.writes

/-- The other engines can do work for an instruction. -/
def canUnit (s : State) (l k : Nat) (sc : SlotCtx) (i : Nat) (f : InFlight) : Bool := unitHas sc i f && unitReady s l k f

/-! ### The accumulator slots of an ATTN (R62, R221, R228) -/

/-- The half of an ATTN's grant that serves block `kb`: a slot for the scores, then one for each output tile of the product. -/
def attnHalf (f : InFlight) (kb : Nat) : List Nat :=
  let h := f.granted.length / 2
  (f.granted.drop (kb % 2 * h)).take h

/-- The accumulator slots that the array uses while a unit of an ATTN runs: those of its block, and the score slot of the next one (R228). -/
def attnUse (f : InFlight) : List Nat := match f.units with
  | ⟨_, .attnBlock t kb, _⟩ :: r => attnHalf f kb ++ (match r with
    | ⟨_, .attnBlock t' kb', _⟩ :: _ => if t' = t then (attnHalf f kb').take 1 else []
    | _ => [])
  | _ => []

/-- The state of slot `a` while a unit of an ATTN runs (R62, R228): the scores of the block in use are DRAINING into the vector unit, its products
accumulate until the last step of the unit, in which they drain into the running output, and the scores of the next block accumulate, and are LIVE
in that last step. -/
def attnSt (f : InFlight) (a : Nat) : AccSt := match f.units with
  | ⟨left, .attnBlock _ kb, _⟩ :: _ =>
    if (attnHalf f kb).head? = some a then .draining
    else if (attnHalf f kb).contains a then (if left ≤ 2 then .draining else .accumulating)
    else if left ≤ 2 then .live else .accumulating
  | _ => .accumulating

/-- The slots that the array uses stand in their states (R62). -/
def attnMark (s : State) (l k : Nat) (f : InFlight) : State :=
  (attnUse f).foldl (fun s a => setAcc s l a ⟨attnSt f a, k, f.ip, 0, [], 0, 0, false, Stats.none⟩) s

/-- The slots of a block that has been used up return to FREE. -/
def attnFree (s : State) (l : Nat) (f : InFlight) : State := match f.units with
  | ⟨_, .attnBlock _ kb, _⟩ :: _ => (attnHalf f kb).foldl (fun s a => setAcc s l a AccSlot.none) s
  | _ => s

/-- Apply the effect of the unit at the head and drop it. -/
def unitApply (s : State) (sc : SlotCtx) (l k i : Nat) (f : InFlight) (u : WorkUnit) : State :=
  let r := unitEff l sc f u.eff (attnFree s l f, f.stats)
  match flightAt r.1 l k i with
  | none => r.1
  | some f' => setFlight r.1 l k i { f' with units := f'.units.drop 1, stats := r.2 }

/-- Units that take no step of this core act at once. -/
def settleUnit (s : State) (sc : SlotCtx) (l k i : Nat) (f : InFlight) : Option State := match f.units with
  | [] => none
  | u :: _ => if u.left = 0 ∧ canUnit s l k sc i f then some (unitApply s sc l k i f u) else none

/-- The first that answers. -/
def orElse' {α : Type} (a : Option α) (b : Option α) : Option α := match a with | some x => some x | none => b

/-- One transition of an instruction that takes no step. -/
def settle1 (s : State) (l k i : Nat) : Option State :=
  match slotOf s l k, flightAt s l k i with
  | some sc, some f =>
    if ¬ aliveOn s sc.part sc.ctx l ∨ sc.released ∨ sc.hit then none else
    match f.mma with
    | none => settleUnit s sc l k i f
    | some m =>
      orElse' (settleDrain s l k i m) (orElse' (settleFinish s l k i m) (orElse' (settleRedo s sc l k i m)
        (orElse' (settleBegin s sc l k i f m) (settlePass s sc l k i m))))
  | _, _ => none

/-- Run the transitions that take no step until none applies. -/
def settleN : Nat → State → Nat → Nat → Nat → State
  | 0, s, _, _, _ => s
  | n + 1, s, l, k, i => match settle1 s l k i with
    | none => s
    | some s' => settleN n s' l k i

/-- A bound on the transitions of an instruction. -/
def settleFuel (s : State) (l k i : Nat) : Nat := match flightAt s l k i with
  | none => 0
  | some f => match f.mma with
    | none => f.units.length + 1
    | some m => (4 * m.tiles.length + 8) * (m.passes + 1)

/-! ## What one turn does -/

/-- The row that the drain has to run for this instruction: the MMA, its tile and the row (R62). -/
def drainNext (s : State) (l : Nat) (f : InFlight) : Option (Mma × Tile × Nat) := match f.mma with
  | none => none
  | some m => match m.drainQ with
    | [] => none
    | a :: _ =>
      let t := tileOf m (accOf s l a).tile
      (nextRow m t (accOf s l a).row).map (fun r => (m, t, r))

/-- The drain has a row to run for this instruction. -/
def drainHas (s : State) (l : Nat) (f : InFlight) : Bool := (drainNext s l f).isSome

/-- The row can be run: its destination takes it, and its residual can be read (R62, R84, R187, R192). -/
def drainReady (s : State) (l k : Nat) (f : InFlight) : Bool := match drainNext s l f with
  | none => false
  | some (m, t, r) => writesReady s l (drainWrites l m t r) && (m.r.isNone || (rangesOn s f.reads && fetchReady s l k (drainReads l m t r)))

/-- The instruction is an ATTN, which uses the array and the vector unit together. -/
def isAttn (f : InFlight) : Bool := decide (opcodeOf f.bytes = 3) && !f.units.isEmpty

/-- One row of the drain (R67): at most the 32 elements of the next enabled row. -/
def drainOp (s : State) (l _k _i : Nat) (sc : SlotCtx) (f : InFlight) : State := match f.mma with
  | none => s
  | some m => match m.drainQ with
    | [] => s
    | a :: _ =>
      let acc := accOf s l a
      let t := tileOf m acc.tile
      match nextRow m t acc.row with
      | none => s
      | some r =>
        afterFetch s sc.part sc.ctx l (drainReads l m t r) (fun s =>
          let d := drainRow s l sc f m t acc.words r acc.stats
          let s1 := wrElems sc.part sc.ctx l d.1 s
          if aliveOn s1 sc.part sc.ctx l then
            setAcc s1 l a { acc with st := .draining, row := r + 1, stats := d.2 }
          else s1)

/-- The block whose fill follows the one in use: that of the first later step of another block (R60). -/
def nextBlock (m : Mma) (q kb : Nat) (macs : List (Nat × Nat)) : Option (Nat × Nat) :=
  (macs.find? (fun e => decide (e.1 ≠ q ∨ stepBlock m e.2 ≠ kb))).map (fun e => (e.1, stepBlock m e.2))

/-- The free pair of stages is filled with the next block of the tile while the array consumes the pair `x` (R60); a fill that the fences
refuse faults when the array needs it. -/
def stageAhead (s : State) (l k p n ip : Nat) (m : Mma) (ti x : Nat) (nb : Option (Nat × Nat)) : State := match nb with
  | none => s
  | some (q, kb) =>
    if (stagePair s l k ip ti q kb).isSome then s else
    match firstBad s p false (stageReads l m q (tileOf m ti) kb) with
    | .ok => stageFill (landReads s l p n (stageReads l m q (tileOf m ti) kb)) l k p n ip m ti q kb (1 - x)
    | _ => s

/-- One reduction step of the array, from the stages that hold its block; a block that no stage holds yet is filled first (R60). -/
def macOp (s : State) (l k i : Nat) (sc : SlotCtx) (f : InFlight) (m : Mma) (c : Cur) (q x : Nat) (r : List (Nat × Nat)) : State :=
  let t := tileOf m c.tile
  let kb := stepBlock m x
  let go := fun (s : State) (y : Nat) =>
    let ga := tget Stage.none (coreOf s l).stages y
    let gw := tget Stage.none (coreOf s l).stages (2 + y)
    let acc := accOf s l c.slot
    putMma (setAcc (stageAhead s l k sc.part sc.ctx f.ip m c.tile y (nextBlock m q kb r)) l c.slot
      { acc with words := macWords ga gw m t x c.fresh acc.words, stamp := m.stamp }) l k i
      { m with cur := some { c with macs := r, fresh := false }, stamp := m.stamp + 1 }
  match stagePair s l k f.ip c.tile q kb with
  | some y => go s y
  | none => afterFetch s sc.part sc.ctx l (stageReads l m q t kb) (fun s => go (stageFill s l k sc.part sc.ctx f.ip m c.tile q kb 0) 0)

/-- One step of the array: a spill or refill step, a reduction step, or a side-pass step. -/
def arrayOp (s : State) (l k i : Nat) (sc : SlotCtx) (f : InFlight) : State := match f.mma with
  | none => s
  | some m => match m.cur with
    | none => s
    | some c =>
      let p := sc.part
      let n := sc.ctx
      let t := tileOf m c.tile
      let acc := accOf s l c.slot
      if c.spill ≠ 0 then
        (if c.spill = 1 then
          (match checkAcc s p true (m.spillBase + 0x1000 * acc.tile) 0x1000 with
          | .ok =>
            let s1 := rawSave s (m.spillBase + 0x1000 * acc.tile) acc.words
            putMma (setAcc s1 l c.slot ⟨.accumulating, k, f.ip, c.tile, [], 0, m.stamp, false, Stats.none⟩) l k i
              { m with cur := some { c with spill := 0 }, spilled := m.spilled ++ [acc.tile], spillUsed := if m.spillUsed.contains acc.tile then m.spillUsed else m.spillUsed ++ [acc.tile] }
          | e => raiseAcc s p n l e)
        else putMma s l k i { m with cur := some { c with spill := c.spill - 1 } })
      else if c.refill ≠ 0 then
        (if c.refill = 1 then
          afterReads s p n l [(m.spillBase + 0x1000 * c.tile, 0x1000)] (fun s =>
            putMma (setAcc s l c.slot { acc with words := rawLoad s (m.spillBase + 0x1000 * c.tile), stamp := m.stamp }) l k i
              { m with cur := some { c with refill := 0 }, spilled := m.spilled.filter (fun x => decide (x ≠ c.tile)), stamp := m.stamp + 1 })
        else putMma s l k i { m with cur := some { c with refill := c.refill - 1 } })
      else match c.macs with
        | (q, x) :: r => macOp s l k i sc f m c q x r
        | [] => match c.sides with
          | op :: r =>
            afterFetch s p n l (sideReads s p n l m t op) (fun s =>
              let w0 := if c.fresh then zeroWords m t else acc.words
              putMma (setAcc s l c.slot { acc with words := sideWords s p n l m t op w0, stamp := m.stamp }) l k i
                { m with cur := some { c with sides := r, fresh := false }, stamp := m.stamp + 1 })
          | [] => s

/-- One step of the other engines. -/
def unitOp (s : State) (l k i : Nat) (sc : SlotCtx) (f : InFlight) : State := match f.units with
  | [] => s
  | u :: r =>
    let s1 := attnMark s l k f
    if u.left ≤ 1 then unitApply s1 sc l k i f u
    else setFlight s1 l k i { f with units := { u with left := u.left - 1 } :: r }

/-- The index of the first instruction in flight that meets a condition. -/
def firstFlight (c : SlotCtx) (q : Nat → InFlight → Bool) : Option Nat :=
  (rangeFrom 0 c.flight.length).find? (fun i => match c.flight[i]? with | none => false | some f => q i f)

/-- Do an engine's work for the instruction it serves: the first in flight that has a step for it. -/
def engine (s : State) (l k : Nat) (q : State → SlotCtx → Nat → InFlight → Bool)
    (op : State → Nat → Nat → Nat → SlotCtx → InFlight → State) : State :=
  match slotOf s l k with
  | none => s
  | some c =>
    if ¬ aliveOn s c.part c.ctx l then s else
    match firstFlight c (q s c) with
    | none => s
    | some i => match c.flight[i]? with
      | none => s
      | some f => op s l k i c f

/-- The array has a step to run for this instruction: it serves the first one with a step, and none while an ATTN of the context uses it. -/
def arrayHas (c : SlotCtx) (f : InFlight) : Bool := (match f.mma with | none => false | some m => m.cur.isSome) && !c.flight.any isAttn

/-- The instruction that an engine serves, and whether its step can be taken: true where it serves none. -/
def engineReady (c : SlotCtx) (has : Nat → InFlight → Bool) (ready : InFlight → Bool) : Bool := match firstFlight c has with
  | none => true
  | some i => match c.flight[i]? with
    | none => true
    | some f => ready f

/-- Every engine with a step can take it: the ring, which the engines share, does not turn while one of them waits for an operand or a credit
(R32, R60, R188). -/
def enginesReady (s : State) (l k : Nat) (c : SlotCtx) : Bool :=
  engineReady c (fun _ f => drainHas s l f) (drainReady s l k) && engineReady c (fun _ f => arrayHas c f) (opsReady s l k)
    && engineReady c (fun i f => unitHas c i f) (unitReady s l k)

/-- The core runs: powered and in service. -/
def coreRuns (s : State) (l : Nat) : Bool := (coreOf s l).on && !(coreOf s l).stopped

/-! ## The ring (R77, R259) -/

/-- The first of two instructions has started its last tile (R130). -/
def startedLast (f : InFlight) : Bool := match f.mma with
  | some m => decide (m.passes ≤ m.pass + 1) && decide (m.tiles.length ≤ m.pos) && !m.opened
  | none => decide (f.units.length ≤ 1) || (decide (f.len ≠ 0) && f.units.all (fun u => decide (unitRow u.eff + 1 = f.start + f.len)))

/-- The wait that issue ends: none, or one of work already issued; `held` marks an instruction that waits for earlier ones to complete. -/
def issueWait (held : Bool) (w : Wait) : Bool := if held then decide (w = .hold) else decide (w = .none ∨ w = .work ∨ w = .room)

/-- The context of a slot may issue its next instruction (R77, R94, R130, R259, R295). -/
def mayIssue (s : State) (l : Nat) (sc : SlotCtx) (held : Bool) : Bool :=
  coreRuns s l && !flag s (tcOff l + 0x0C) 0 && aliveOn s sc.part sc.ctx l && !sc.released && !sc.hit && !sc.ended
    && issueWait held sc.wait && ownsSlot s sc
    && decide ((ctxOf s sc.part sc.ctx).st = .resident) && decide ((ctxOf s sc.part sc.ctx).launch = 0)
    && !sc.flight.any (fun f => endOf f.bytes) && decide (sc.flight.length < 2) && (held || sc.flight.all startedLast)

/-- A context has an instruction that can issue; one held waits until those before it have completed (R77, R130). -/
def canIssue (s : State) (l : Nat) (c : SlotCtx) : Bool :=
  mayIssue s l c (decide (c.wait = .hold)) && decide (c.wait ≠ .room) && (decide (c.wait ≠ .hold) || c.flight.isEmpty)

/-- The grant request that is served next: the first, in order of request, of a context that has not released its grant, or to acquire a
released grant again, which `0` slots stand for (R148, R152). -/
def grantHead (s : State) (l : Nat) : Option (Nat × Nat) :=
  (coreOf s l).grantQ.find? (fun e => decide (e.2 = 0) || (match slotOf s l e.1 with | none => false | some c => !c.released))

/-- A SYNC WAIT that still waits. -/
def syncWaits (sc : SlotCtx) (f : InFlight) : Bool :=
  decide (opcodeOf f.bytes = 13) && decide (le f.bytes 4 1 % 4 = 0) && (match sc.wait with | .token _ _ => true | _ => false)

/-- The next tile of an MMA waits for a granted slot to become FREE, or for rows of its producer. -/
def tileWaits (s : State) (l : Nat) (c : SlotCtx) (f : InFlight) : Bool := match f.mma with
  | none => false
  | some m => m.cur.isNone && m.redo.isEmpty && decide (m.pass < m.passes) && decide (m.pos < m.tiles.length)
      && (!f.granted.any (fun a => decide ((accOf s l a).st = .free)) || !fuseReady c f (tileOf m (serpent m m.pass m.pos)).j)

/-- The newest instruction of a context waits for a grant of accumulator slots. -/
def grantWaits (c : SlotCtx) : Bool := match c.wait with | .slots _ => true | _ => false

/-- The grant it waits for can be made now. -/
def grantDue (s : State) (l k : Nat) : Bool := match grantHead s l with
  | none => false
  | some e => decide (e.1 = k) && decide (e.2 ≠ 0) && decide (e.2 ≤ (freeAcc s l).length)

/-- In deterministic mode the ring does not turn past an instant that something outside it decides, so that STEP_COUNT is the same at every boundary
of an instruction (R33; log entry 69): while the next instruction can issue; while the next tile or grant waits for the acknowledgement of a slot that
has been drained; while a grant can be made; while a third instruction could issue but for one in flight that has no step left. -/
def ringHeld (s : State) (l k : Nat) (c : SlotCtx) : Bool :=
  c.det && (canIssue s l c
    || ((coreOf s l).acc.any (fun e => decide (e.2.cs = k) && ackDue e.2) && (grantWaits c || c.flight.any (tileWaits s l c)))
    || (grantWaits c && grantDue s l k)
    || (decide (2 ≤ c.flight.length) && c.flight.all startedLast && c.flight.any (fun f => spent f && !syncWaits c f)))

/-- A context has something to turn the ring for: an engine with a step of one of its instructions in flight (R77), each of which can be taken; none
while it waits for the Footstool, an operand or a credit (R32, R84). -/
def canTurn (s : State) (l k : Nat) : Bool := match slotOf s l k with
  | none => false
  | some c => aliveOn s c.part c.ctx l && !c.released && !c.hit && decide (c.wait ≠ .footstool) && decide (c.wait ≠ .operand)
    && ((firstFlight c (fun i f => drainHas s l f || arrayHas c f || unitHas c i f)).isSome) && enginesReady s l k c && !ringHeld s l k c

/-- The steps of one turn for context slot `k`: drain, array, other engines (R32). -/
def turnOps (s : State) (l k : Nat) : State :=
  let s1 := engine s l k (fun s _ _ f => drainHas s l f) drainOp
  let s2 := engine s1 l k (fun _ c _ f => arrayHas c f) arrayOp
  engine s2 l k (fun _ c i f => unitHas c i f) unitOp

/-- A slot whose context may turn the ring now: it is of the owning group and ready (R77). -/
def ringReady (s : State) (l k : Nat) : Bool := match slotOf s l k with
  | none => false
  | some c => ownsSlot s c && (canTurn s l k || canIssue s l c)

/-- The better of two slots: lower PRIO, then lower context number (R77). -/
def ringBefore (s : State) (a b : SlotCtx) : Bool :=
  decide (prioOf s a < prioOf s b) || (decide (prioOf s a = prioOf s b) && decide (a.ctx < b.ctx))

/-- The slot that gets the ring when it is given again (R77). -/
def ringPick (s : State) (l : Nat) : Option Nat :=
  ((coreOf s l).slots.filter (fun e => ringReady s l e.1)).foldl
    (fun b e => match b with
      | none => some e.1
      | some k => match slotOf s l k with
        | none => some e.1
        | some c => if ringBefore s e.2 c then some e.1 else some k) none

/-- The slot that turns the ring: the one that holds it while it can turn, else the one that gets it (R77). -/
def ringOf (s : State) (l : Nat) : Option Nat := match (coreOf s l).ring with
  | some k => if ringReady s l k then some k else ringPick s l
  | none => ringPick s l

/-! ## Completion of an instruction (R117, R131) -/

/-- Work counters whose sums a DYN instruction needs (R117). -/
def dynWant (f : InFlight) : Nat := match f.mma with
  | none => 0
  | some m => if m.dyn.isSome then le f.bytes 0x1B 1 else 0

/-- Rank 0, which writes the record of an output, holds the partials of every other rank and the sums of every counter (R117). -/
def partialsIn (s : State) (sc : SlotCtx) (f : InFlight) : Bool :=
  if f.out.isNone ∨ sc.rank ≠ 0 then true else
  let c := ctxOf s sc.part sc.ctx
  let r := (c.recs.find? (fun r => decide (r.ip = f.ip))).getD ⟨f.ip, none, Stats.none, [], 0, 0⟩
  decide (c.cores.length ≤ r.ranks.length + 1) && decide (dynWant f ≤ r.sums)

/-- An instruction in flight is done: every tile drained, every unit run, nothing outside outstanding, every write acknowledged, and at rank 0
every partial of its record in (R117, R131, R188). -/
def flightDone (s : State) (l : Nat) (sc : SlotCtx) (f : InFlight) : Bool :=
  f.units.isEmpty && decide (f.ext = .none) && !syncWaits sc f && (match f.mma with
    | none => true
    | some m => decide (m.passes ≤ m.pass) && m.cur.isNone && m.redo.isEmpty && !m.opened && decide (m.drained.length = m.tiles.length))
    && !unacked s l sc.part sc.ctx f.writes && !unasked s l sc.part sc.ctx f.writes && partialsIn s sc f

/-! ## Settling a context slot -/

/-- The ranges that the next steps of a context need and cannot have yet: banks that lie gated under operands, and under an output or the landing
drawer of a fetch that waits. -/
def blockedRanges (s : State) (l k : Nat) (c : SlotCtx) : List (Nat × Nat) × List (Nat × Nat) :=
  ((c.flight.map InFlight.reads).flatten.filter (fun r => !rangesOn s [r]),
   (c.flight.map InFlight.writes).flatten.filter (fun r => !writesReady s l [r])
     ++ (if c.flight.all (fun f => fetchReady s l k f.reads) then [] else ((freeDrawers s l).take 1).map (fun d => (spadOf l + 0x1000 * d, 0x1000))))

/-- Work issued that cannot go on waits from now on, and what it waits for in a gated bank wakes it; such a wait ends once it can go on (R32,
R212, R213). -/
def noteWait (s : State) (l k : Nat) : State := match slotOf s l k with
  | none => s
  | some c =>
    let busy := ¬ aliveOn s c.part c.ctx l ∨ c.released ∨ c.hit ∨ c.flight.isEmpty ∨ canTurn s l k ∨ canIssue s l c ∨ c.flight.any (flightDone s l c)
    match c.wait with
    | .none =>
      if busy then s else
      let r := blockedRanges s l k c
      touchRanges (touchRanges (beginWait s l k .work) false r.1) true r.2
    | .work => if busy then endWait s l k else s
    | _ => s

/-- Settle both instructions in flight of a context slot. -/
def settle (s : State) (l k : Nat) : State :=
  let s1 := settleN (settleFuel s l k 0) s l k 0
  let s2 := settleN (settleFuel s1 l k 1) s1 l k 1
  noteWait (settleN (settleFuel s2 l k 0) s2 l k 0) l k

/-! ## Work counters and the completions sent to them (R117, R146, R200) -/

/-- A work counter of a slice. -/
def wctrOf (s : State) (key : Nat) : Wctr := tget Wctr.reset s.wctr key
/-- Replace a work counter. -/
def setWctr (s : State) (key : Nat) (w : Wctr) : State := { s with wctr := tset s.wctr key w }

/-- The claim tag of an instruction (R200). -/
def claimTag (c : SlotCtx) (ip : Nat) : Nat := c.part % 16 * 2 ^ 28 + c.ctx % 64 * 2 ^ 22 + (ip - c.base) / 64 % 2 ^ 22

/-- Tiles of row `j` of a share that have been drained. -/
def rowDrained (m : Mma) (j : Nat) : Nat := (m.drained.filter (fun i => decide ((tileOf m i).j = j))).length

/-- The completion of a claimed row leaves for its counter, with the counts of its tiles (R117, R202). -/
def sendRow (s : State) (l : Nat) (sc : SlotCtx) (ip : Nat) (m : Mma) (j : Nat) : State := match m.dyn with
  | none => s
  | some (sl, ct, _) =>
    if rowDrained m j < m.cols.length ∨ m.items.length ≤ j then s else
    let key := 64 * sl + ct
    let w := wctrOf s key
    let n := tget (0, 0) m.rowCnt j
    setWctr s key { w with sent := w.sent ++ [(l, claimTag sc ip, nth 0 m.items j, n.1, n.2)] }

/-! ## Saving and refilling accumulator slots (R64, R152) -/

/-- An MMA once the drain of tile `ti` has been acknowledged: its row's counts grow (R117). -/
def drainedTile (m : Mma) (ti : Nat) (st : Stats) : Mma :=
  { m with drained := m.drained ++ [ti], rowCnt := tmod (0, 0) m.rowCnt (tileOf m ti).j (fun x => (x.1 + st.sat, x.2 + st.nan)) }

/-- Further tiles of an MMA may need its granted slots. -/
def moreTiles (m : Mma) : Bool :=
  decide (m.pass < m.passes) && (decide (m.pos < m.tiles.length) || m.opened || decide (m.pass + 1 < m.passes))

/-- Complete the drain of a slot whose last row has been drained and acknowledged: it returns to FREE, its statistics count, the grant lets it
go once no further tile needs it, and the completion of a claimed row is sent (R62, R116, R148). -/
def drainAck (s : State) (l a : Nat) : State :=
  let acc := accOf s l a
  if acc.st ≠ .draining ∨ acc.row < 32 then s else
  match slotOf s l acc.cs with
  | none => setAcc s l a AccSlot.none
  | some c => match firstFlight c (fun _ f => decide (f.ip = acc.ip) && f.mma.isSome) with
    | none => setAcc s l a AccSlot.none
    | some i => match c.flight[i]? with
      | none => s
      | some f => match f.mma with
        | none => s
        | some m =>
          let t := tileOf m acc.tile
          if unacked s l c.part c.ctx ((tileRows m t).map (drainWrites l m t)).flatten then s else
          let m1 := drainedTile m acc.tile acc.stats
          sendRow (setFlight (setAcc s l a AccSlot.none) l acc.cs i { f with
            mma := some m1, stats := statsJoin f.stats acc.stats,
            granted := if moreTiles m then f.granted else f.granted.filter (fun x => decide (x ≠ a)) }) l c f.ip m1 t.j

/-- The accumulator slots of a context slot that count as LIVE for a save (R64). -/
def liveSlots (s : State) (l k : Nat) : List Nat :=
  (rangeFrom 0 32).filter (fun a => decide ((accOf s l a).st ≠ .free) && decide ((accOf s l a).cs = k))

/-- ACC_SAVE_MISSING (R64, R161). -/
def fAccSave : Nat := 0x0123

/-- Save every LIVE slot of a context raw to its save region and release its grant; more slots than the region holds
fault the context (R64, R152). -/
def saveSlots (s : State) (l k : Nat) : State :=
  match slotOf s l k with
  | none => s
  | some c =>
    let ls := liveSlots s l k
    if c.saveTiles < ls.length then raise s c.part c.ctx l fAccSave else
    let s1 := (rangeFrom 0 ls.length).foldl (fun s i =>
      rawSave s (spadOf l + 0x1000 * (c.saveDrawer + i)) (accOf s l (nth 0 ls i)).words) s
    let sv := (rangeFrom 0 ls.length).map (fun i => (⟨accOf s l (nth 0 ls i), nth 0 ls i, i⟩ : Saved))
    let s2 := ls.foldl (fun s a => setAcc s l a AccSlot.none) s1
    match slotOf s2 l k with
    | none => s2
    | some c2 => setSlot s2 l k { c2 with saved := sv, released := decide (sv ≠ []) }

/-- Where an accumulator slot went when its grant was acquired again (log entry 71). -/
def remap (m : List (Nat × Nat)) (a : Nat) : Nat := ((m.find? (fun e => decide (e.1 = a))).map Prod.snd).getD a

/-- An MMA whose slots have moved. -/
def remapMma (r : List (Nat × Nat)) (m : Mma) : Mma :=
  { m with cur := m.cur.map (fun c => { c with slot := remap r c.slot }), drainQ := m.drainQ.map (remap r),
           redo := m.redo.map (fun x => (remap r x.1, x.2)) }

/-- The part of its save region that a context's saved slots take. -/
def savedRange (l : Nat) (c : SlotCtx) : List (Nat × Nat) :=
  if c.saved.isEmpty then [] else [(spadOf l + 0x1000 * c.saveDrawer, 0x1000 * c.saved.length)]

/-- Acquire a released grant again and refill the saved slots bit for bit, if enough slots are FREE and no bank of the save region is gated (R64, R152,
R212).  Which of the FREE slots are granted the spec does not say: the lowest, so that saved sums may move to other slots; the model's choice (log
entry 71). -/
def refillSlots (s : State) (l k : Nat) : Option State :=
  match slotOf s l k with
  | none => none
  | some c =>
    let old := (c.flight.map InFlight.granted).flatten
    let fr := freeAcc s l
    if ¬ c.released ∨ fr.length < old.length ∨ ¬ rangesOn s (savedRange l c) then none else
    let r := (rangeFrom 0 old.length).map (fun i => (nth 0 old i, nth 0 fr i))
    let s1 := c.saved.foldl (fun s x =>
      setAcc s l (remap r x.index) { x.acc with words := rawLoad s (spadOf l + 0x1000 * (c.saveDrawer + x.place)) }) (touchRanges s false (savedRange l c))
    some (setSlot s1 l k { c with saved := [], released := false, flight := c.flight.map (fun f =>
      { f with granted := f.granted.map (remap r), mma := f.mma.map (remapMma r) }) })

/-- A context resumes with a released grant: it is acquired again and its slots are refilled at once, or it waits in order of request; a wait
of another kind goes on (R148, R152, R260). -/
def resumeSlots (s : State) (l k : Nat) : State := match slotOf s l k with
  | none => s
  | some c =>
    let co := coreOf s l
    if ¬ c.released ∨ co.grantQ.contains (k, 0) then s else
    match if (grantHead s l).isNone then refillSlots s l k else none with
    | some s1 => s1
    | none =>
      let s1 := touchRanges (setCore s l { co with grantQ := co.grantQ ++ [(k, 0)] }) false (savedRange l c)
      if c.wait = .none ∨ c.wait = .work then beginWait s1 l k (.slots 0) else s1

/-- A context whose slot ends gives up acquiring its grant until its next one. -/
def dropResume (s : State) (l k : Nat) : State := match slotOf s l k with
  | none => s
  | some c =>
    let co := coreOf s l
    let s1 := if co.grantQ.contains (k, 0) then setCore s l { co with grantQ := co.grantQ.erase (k, 0) } else s
    if c.wait = .slots 0 then endWait s1 l k else s1

end Sys2Proof.Machine
end

