-- ==== Sys2Proof/Machine/Kv.lean ====
section
/-!
DEFINITION. Machine/Kv.lean: the Wardrobe: pages, pins and references, appends and copies, the prefix tree, hot pages,
batch boundaries (R229 to R251).
-/
namespace Sys2Proof.Machine
open Sys2Proof

/-- Registers of the Wardrobe. -/
def kvFreePages : Nat := 0x5001C
/-- DRAINING_PAGES. -/
def kvDraining : Nat := 0x50020
/-! ## Page headers and the free list (R233, R234) -/

/-- A field of a page header. -/
def ph (s : State) (pg o n : Nat) : Nat := rdLE s (kvHdr s pg + o) n
/-- Write a field of a page header. -/
def phSet (pg o n v : Nat) (s : State) : State := wrLE s (kvHdr s pg + o) n v

/-- The page that the free list hands out next. -/
def freeHead (s : State) : Nat := match s.kv.freed with | p :: _ => p | [] => s.kv.fresh

/-- A page returns to the free list (R234): its owner holds one page less. -/
def pageFree (s : State) (pg : Nat) : State :=
  let o := ph s pg 0x10 1 % 16
  let s1 := phSet pg 0x14 4 (freeHead s) (phSet pg 0x00 1 0 s)
  let s2 := { s1 with kv := { s1.kv with freed := pg :: s1.kv.freed } }
  setFld (setFld s2 (kvPart o + 0x14) 0 20 (fld s2 (kvPart o + 0x14) 0 20 - 1)) kvFreePages 0 20 (fld s2 kvFreePages 0 20 + 1)

/-- The header bytes of a page on the free list that no sequence has used: VERSION 1, NEXT the page after it, all else zero (R233). -/
def freeHeader (a : Nat) : Byte :=
  if a % 32 = 1 then 1
  else if 0x14 ≤ a % 32 ∧ a % 32 < 0x18 then BitVec.ofNat 8 ((a / 32 + 1) / 256 ^ (a % 32 - 0x14)) else 0

/-- The Wardrobe initialises its metadata: every page is FREE and on the free list in ascending order, and READY sets (R233, R250, R456). -/
def kvInit (s : State) : State :=
  let b := kvHdr s 0
  let n := kvPages s
  setFlag (setFld { s with
    mem := mput memDefault s.mem b (32 * n) (fun x => freeHeader (x - b)), kv := { s.kv with freed := [], fresh := 0 } }
    kvFreePages 0 20 n) 0x50018 0 true

/-- Take a page off the free list into a reservation of partition `p` (R234). -/
def pageTake (s : State) (p : Nat) : Option (Nat × State) :=
  let go := fun (pg : Nat) (s1 : State) =>
    let s2 := phSet pg 0x10 1 p s1
    (pg, setFld (setFld s2 (kvPart p + 0x14) 0 20 (fld s2 (kvPart p + 0x14) 0 20 + 1)) kvFreePages 0 20 (fld s2 kvFreePages 0 20 - 1))
  match s.kv.freed with
  | pg :: r => some (go pg { s with kv := { s.kv with freed := r } })
  | [] => if s.kv.fresh < kvPages s then some (go s.kv.fresh { s with kv := { s.kv with fresh := s.kv.fresh + 1 } }) else none

/-- Take `n` pages. -/
def pageTakeN (p : Nat) : Nat → State → List Nat × State
  | 0, s => ([], s)
  | n + 1, s => match pageTake s p with
    | none => ([], s)
    | some (pg, s1) => let r := pageTakeN p n s1; (pg :: r.1, r.2)

/-- Drop one reference (R234): at zero the page becomes FREE, or DRAINING while it is pinned. -/
def dropRef (s : State) (pg : Nat) : State :=
  let n := ph s pg 0x04 2 - 1
  let s1 := phSet pg 0x04 2 n s
  if n ≠ 0 then s1
  else if ph s1 pg 0x06 2 = 0 then pageFree s1 pg
  else setFld (phSet pg 0x00 1 (ph s1 pg 0 1 / 4 * 4 + 3) s1) kvDraining 0 20 (fld s1 kvDraining 0 20 + 1)

/-- Add one reference. -/
def addRef (s : State) (pg : Nat) : State := phSet pg 0x04 2 (ph s pg 0x04 2 + 1) s

/-- Pin a page (R239). -/
def pin (s : State) (pg : Nat) : State := phSet pg 0x06 2 (ph s pg 0x06 2 + 1) s
/-- A pin that would exceed 0xFFFF waits. -/
def canPin (s : State) (pg : Nat) : Bool := decide (ph s pg 0x06 2 < 0xFFFF)

/-- Release a pin: a DRAINING page without pins becomes FREE (R234). -/
def unpin (s : State) (pg : Nat) : State :=
  let n := ph s pg 0x06 2 - 1
  let s1 := phSet pg 0x06 2 n s
  if n = 0 ∧ ph s1 pg 0 1 % 4 = 3 then setFld (pageFree s1 pg) kvDraining 0 20 (fld s1 kvDraining 0 20 - 1) else s1

/-- A reserved page becomes OPEN (R234): REFCNT 1, GEN + 1. -/
def pageOpen (s : State) (pg seq hg fmt fill : Nat) : State :=
  phSet pg 0x1C 4 0 (phSet pg 0x18 2 seq (phSet pg 0x12 2 ((ph s pg 0x12 2 + 1) % 65536) (phSet pg 0x04 2 1
    (phSet pg 0x03 1 (hg % 16 * 16 + fmt % 4) (phSet pg 0x02 1 fill (phSet pg 0x01 1 1 (phSet pg 0x00 1 1 s)))))))

/-! ## Sequences -/

/-- Replace a sequence. -/
def setSeq (s : State) (q : Nat) (x : Seq) : State := { s with kv := { s.kv with seqs := tset s.kv.seqs q x } }

/-- A sequence becomes FREE (R247): its references are dropped, its unused reservation returns to the free list. -/
def seqFree (s : State) (q : Nat) : State := match tget? s.kv.seqs q with
  | none => s
  | some x =>
    let s1 := ((x.pages.map Prod.snd).flatten).foldl dropRef s
    let s2 := x.reserve.foldl pageFree s1
    let s3 := { s2 with kv := { s2.kv with seqs := tdel s2.kv.seqs q } }
    setFld s3 (kvPart x.part + 0x24) 0 12 (fld s3 (kvPart x.part + 0x24) 0 12 - 1)

/-- A sequence with an append in flight (R241). -/
def seqBusy (s : State) (q : Nat) : Bool := s.kv.appends.any (fun a => decide (a.seq = q) && a.newLen.isNone)

/-! ## The prefix tree (R242 to R244) -/

/-- One bit of CRC-64/ECMA-182, not reflected. -/
def crc64Bit (c : Nat) : Nat :=
  if 2 ^ 63 ≤ c then (c * 2 % 2 ^ 64) ^^^ 0x42F0E1EBA9EA3693 else c * 2

/-- One byte of it. -/
def crc64Byte (c : Nat) (b : Byte) : Nat :=
  crc64Bit (crc64Bit (crc64Bit (crc64Bit (crc64Bit (crc64Bit (crc64Bit (crc64Bit (c ^^^ (b.toNat * 2 ^ 56)))))))))

/-- CRC-64 of a byte string. -/
def crc64 (bs : List Byte) : Nat := bs.foldl crc64Byte 0

/-- The key of a block: over the key before it and its 64 tokens (R242). -/
def blockKey (prev : Nat) (toks : List Nat) : Nat := crc64 (leBytes 8 prev ++ (toks.map (leBytes 4)).flatten)

/-- MODEL_KEY of a model record. -/
def modelKey (m : List Byte) : Nat := le m 0 8

/-- The keys of the first `n` blocks of a token list. -/
def blockKeys (prev : Nat) (toks : List Nat) : Nat → List Nat
  | 0 => []
  | n + 1 => let k := blockKey prev (toks.take 64); k :: blockKeys k (toks.drop 64) n

/-- A walk: the nodes matched, and whether an equal key with unequal tokens ended it (R242, R243). -/
def treeWalk (nodes : List Node) (p : Nat) (prev : Nat) (toks : List Nat) : Nat → List Node × Bool
  | 0 => ([], false)
  | n + 1 =>
    let k := blockKey prev (toks.take 64)
    match nodes.find? (fun x => decide (x.part = p) && decide (x.key = k)) with
    | none => ([], false)
    | some x => if x.tokens = toks.take 64 then (let r := treeWalk nodes p k (toks.drop 64) n; (x :: r.1, r.2)) else ([], true)

/-- Clusters in which a partition holds cores. -/
def partClusters (s : State) (p : Nat) : List Nat := sliceSet s p

/-- A page becomes HOT and is queued for each cluster of its partition (R245). -/
def pageHot (p : Nat) (s : State) (pg : Nat) : State :=
  if (ph s pg 0 1).testBit 2 then s else
  let s1 := phSet pg 0x00 1 (ph s pg 0 1 + 4) s
  { s1 with kv := { s1.kv with hotQ := s1.kv.hotQ ++ (partClusters s1 p).map (fun c => (pg, c)) } }

/-- A node becomes HOT. -/
def nodeHot (s : State) (x : Node) : State :=
  let s1 := { s with kv := { s.kv with nodes := s.kv.nodes.map (fun y => if y.part = x.part ∧ y.key = x.key then { y with hot := true } else y) } }
  x.pages.foldl (pageHot x.part) s1

/-- A page is HOT no more once no HOT node holds it: its copies are freed (R245). -/
def coolPage (s : State) (pg : Nat) : State :=
  if s.kv.nodes.any (fun x => x.hot && x.pages.contains pg) then s else
  let s1 := if (ph s pg 0 1).testBit 2 then phSet pg 0x00 1 (ph s pg 0 1 - 4) s else s
  { s1 with kv := { s1.kv with hotQ := s1.kv.hotQ.filter (fun e => decide (e.1 ≠ pg)), hotDone := s1.kv.hotDone.filter (fun e => decide (e.1 ≠ pg)) } }

/-- Remove a node and drop its page references (R244). -/
def nodeDrop (s : State) (x : Node) : State :=
  let s1 := { s with kv := { s.kv with nodes := s.kv.nodes.filter (fun y => !(decide (y.part = x.part) && decide (y.key = x.key))) } }
  x.pages.foldl dropRef (x.pages.foldl coolPage s1)

/-- EVICT: the node of the key and every node whose key chain passes through it; key 0 stands for every node of the partition (R244). -/
def evict (s : State) (p key : Nat) : State :=
  (s.kv.nodes.filter (fun x => decide (x.part = p) && (decide (key = 0) || decide (x.key = key) || x.chain.contains key))).foldl nodeDrop s

/-- Pages of block `blk` of a sequence, one per head group, if every one is mapped. -/
def blockPages (x : Seq) (blk : Nat) : Option (List Nat) :=
  let l := (rangeFrom 0 (modelHgroups x.model)).map (fun h => (tget [] x.pages h)[blk]?)
  if l.all Option.isSome then some (l.map (fun o => o.getD 0)) else none

/-- Insert a node for a whole prefix block whose pages are all SEALED (R244). -/
def treeInsert (s : State) (q blk : Nat) : State := match tget? s.kv.seqs q with
  | none => s
  | some x =>
    if ¬ x.insert ∨ x.prefixLen < 64 * blk + 64 then s else
    match blockPages x blk with
    | none => s
    | some pgs =>
      if pgs.any (fun pg => decide (ph s pg 0 1 % 4 ≠ 2)) then s else
      let ks := blockKeys (modelKey x.model) x.tokens (blk + 1)
      let k := nth 0 ks blk
      if s.kv.nodes.any (fun y => decide (y.part = x.part) && decide (y.key = k)) then s else
      if fld s 0x50014 0 17 ≤ s.kv.nodes.length then bump s 0x50034 else
      let nd : Node := ⟨k, ks.take blk, x.part, (x.tokens.drop (64 * blk)).take 64, pgs, false⟩
      let s1 := pgs.foldl addRef { s with kv := { s.kv with nodes := s.kv.nodes ++ [nd] } }
      if x.hot then nodeHot s1 nd else s1

/-! ## Requests (R246, R247) -/

/-- Entries of a request ring (R251): values of LOG2_LEN below 4 act as 4, above 12 as 12. -/
def ringLen (s : State) (p : Nat) : Nat := 2 ^ clampNat 4 12 (fld s (kvPart p + 8) 24 4)
/-- Address of ring entry `i`. -/
def ringAddr (s : State) (p i : Nat) : Nat :=
  fld s (kvPart p) 6 26 * 64 + 2 ^ 32 * fld s (kvPart p + 4) 0 16 + 64 * (i % ringLen s p)
/-- Bytes that the Wardrobe reads for a partition, under the fences (R254, R255): a read that they refuse is not made, and counts as zeros. -/
def kvRead (s : State) (p a n : Nat) : List Byte := match checkAcc s p false a n with
  | .ok => if a + n ≤ genLo ∨ genHi ≤ a then rdMem s a n
    else (rangeFrom a n).map (fun x => if inGen x then Config.partGen p x else mget memDefault s.mem x)
  | _ => List.replicate n 0
/-- What the fences record of an access that the Wardrobe makes for a partition: no context caused it, so none faults (log entry 80). -/
def kvNote (s : State) (p : Nat) (wr : Bool) (a n : Nat) : State := match checkAcc s p wr a n with
  | .fence x => noteFence s p x
  | _ => s
/-- A write that the Wardrobe makes for a partition, under the fences (R254, R255, R289). -/
def kvWrite (p a n v : Nat) (s : State) : State := match checkAcc s p true a n with
  | .ok => wrLE s a n v
  | .fence x => noteFence s p x
  | .rngWrite _ => s
/-- A field of a ring entry. -/
def rq (s : State) (p i o n : Nat) : Nat := leVal (kvRead s p (ringAddr s p i + o) n)
/-- `n` more pages keep a partition within its limit: `n` is no greater than PART_LIMIT − PART_HELD (R247, R248). -/
def inLimit (s : State) (p n : Nat) : Bool := decide (fld s (kvPart p + 0x14) 0 20 + n ≤ fld s (kvPart p + 0x10) 0 20)

/-- Valid entries from the head on, at most a ring's worth (R247). -/
def ringEntries (s : State) (p : Nat) : Nat → Nat → List Nat
  | 0, _ => []
  | n + 1, i => if rq s p i 0x3F 1 % 2 = 1 then i % ringLen s p :: ringEntries s p n (i + 1) else []

/-- Write STATUS. -/
def setStatus (p i v : Nat) (s : State) : State := kvWrite p (ringAddr s p i + 2) 1 v s

/-- A sequence of the partition that is ACTIVE. -/
def seqActive (s : State) (p q : Nat) : Bool := match tget? s.kv.seqs q with | none => false | some x => decide (x.part = p)

/-- A positive, normal, finite FP32 number. -/
def posNormal (w : Nat) : Bool := decide (0x00800000 ≤ w) && decide (w < 0x7F800000)

/-- A model record that an ADMIT accepts (R232). -/
def modelOk (m : List Byte) : Bool :=
  decide (le m 8 1 % 16 = 1) && decide (1 ≤ modelHgroups m) && decide (modelHgroups m ≤ 16) && decide (1 ≤ modelNd m) && decide (modelNd m ≤ 4)
    && decide (modelQfmt m < 3)
    && (rangeFrom 0 (modelHgroups m)).all (fun h => posNormal (le m (0x10 + 4 * h) 4) && posNormal (le m (0x50 + 4 * h) 4))

/-- The prefix tokens of an ADMIT: those before the first that the fences refuse (R243, R255; log entry 80). -/
def prefixToks (s : State) (p i : Nat) : List Nat :=
  let a := rq s p i 0x10 6
  let n := rq s p i 0x0C 4
  let k := match checkAcc s p false a (4 * n) with | .ok => n | .fence x => (x - a) / 4 | .rngWrite _ => n
  (rangeFrom 0 k).map (fun x => leVal (kvRead s p (a + 4 * x) 4))

/-- Start a sequence, empty, by tree walk or by fork (R243, R246). -/
def admitSeq (s : State) (p i : Nat) (model : List Byte) (res : List Nat) : State :=
  let q := rq s p i 4 2
  let flags := rq s p i 6 1
  let src := flags / 8 % 4
  let hot := flags.testBit 1
  let hg := modelHgroups model
  let toks := if src = 1 then prefixToks s p i else []
  let plen := toks.length
  let act := fun (s : State) => setFld s (kvPart p + 0x24) 0 12 (fld s (kvPart p + 0x24) 0 12 + 1)
  match src with
  | 1 =>
    let w := treeWalk s.kv.nodes p (modelKey model) toks (plen / 64)
    let n := w.1.length
    let s1 := (w.1.map (fun x => x.pages)).flatten.foldl addRef (kvNote s p false (rq s p i 0x10 6) (4 * rq s p i 0x0C 4))
    let pages := (rangeFrom 0 hg).map (fun h => (h, w.1.map (fun x => nth 0 x.pages h)))
    let s2 := setSeq s1 q ⟨p, model, (rangeFrom 0 hg).map (fun h => (h, 64 * n)), pages, res, plen, toks, flags.testBit 0, hot⟩
    let s3 := kvWrite p (ringAddr s p i + 0x28) 4 (64 * n) (bumpBy (if w.2 then bump s2 0x50030 else s2) 0x5002C n)
    act (if hot then w.1.foldl nodeHot s3 else s3)
  | 2 => match tget? s.kv.seqs (rq s p i 0x16 2) with
    | none => s
    | some x =>
      let s1 := ((x.pages.map Prod.snd).flatten).foldl addRef s
      act (setSeq s1 q { x with reserve := res, insert := flags.testBit 0, hot := hot })
  | _ => act (setSeq s q ⟨p, model, (rangeFrom 0 hg).map (fun h => (h, 0)), [], res, 0, [], flags.testBit 0, hot⟩)

/-- The model of an ADMIT: the record in memory, or that of the source sequence (R246). -/
def admitModel (s : State) (p i : Nat) : Option (List Byte) :=
  if rq s p i 6 1 / 8 % 4 = 2 then
    (match tget? s.kv.seqs (rq s p i 0x16 2) with
    | none => none
    | some x => if x.part = p then some x.model else none)
  else
    let a := rq s p i 0x18 6
    if a % 64 ≠ 0 then none else
    match checkAcc s p false a 192 with
    | .ok => let m := kvRead s p a 192; if modelOk m then some m else none
    | _ => none

/-- The status that rejects a request before it is tried, if any (R246). -/
def rejectOf (s : State) (p i : Nat) : Option Nat :=
  let op := rq s p i 0 1
  let q := rq s p i 4 2
  if rq s p i 1 1 % 16 ≠ 1 then some 0x81
  else match op with
    | 1 =>
      if rq s p i 6 1 / 8 % 4 = 3 then some 0x84
      else if 2047 < q ∨ (tget? s.kv.seqs q).isSome then some 0x82
      else if (admitModel s p i).isNone then some 0x83
      else if fld s (kvPart p + 0x10) 0 20 < rq s p i 8 4 then some 0x85 else none
    | 2 => if seqActive s p q then none else some 0x82
    | 3 => if !seqActive s p q then some 0x82 else if fld s (kvPart p + 0x10) 0 20 < rq s p i 8 4 then some 0x85 else none
    | 4 => none
    | _ => some 0x84

/-- Grant an ADMIT or a RESERVE: its pages move into the reservation (R247). -/
def grant (s : State) (p i : Nat) : State :=
  let r := pageTakeN p (rq s p i 8 4) s
  if rq s p i 0 1 = 1 then
    (match admitModel s p i with
    | none => s
    | some m => setStatus p i 1 (admitSeq r.2 p i m r.1))
  else match tget? r.2.kv.seqs (rq s p i 4 2) with
    | none => s
    | some x => setStatus p i 1 (setSeq r.2 (rq s p i 4 2) { x with reserve := x.reserve ++ r.1 })

/-- A reserved OP, which is no request of step 2 (R246, R247). -/
def reservedOp (s : State) (p i : Nat) : Bool := decide (rq s p i 0 1 ≠ 1 ∧ rq s p i 0 1 ≠ 3)

/-- ADMIT and RESERVE in order; after the first that is not granted those that follow are DEFERRED (R247). -/
def grantAll (p : Nat) : List Nat → Bool → State → State
  | [], _, s => s
  | i :: r, stop, s =>
    match rejectOf s p i with
    | some v => if stop && !reservedOp s p i then grantAll p r stop (bump (setStatus p i 2 s) (kvPart p + 0x18)) else grantAll p r stop (setStatus p i v s)
    | none =>
      if stop || !inLimit s p (rq s p i 8 4) then grantAll p r true (bump (setStatus p i 2 s) (kvPart p + 0x18))
      else grantAll p r false (grant s p i)

/-- Advance RING_HEAD past the leading entries that are DONE or REJECTED, clearing their VALID (R246, R247). -/
def advanceHead (p : Nat) : Nat → State → State
  | 0, s => s
  | n + 1, s =>
    let h := fld s (kvPart p + 0x0C) 0 12
    let st := rq s p h 2 1
    if rq s p h 0x3F 1 % 2 = 1 ∧ (st = 1 ∨ 0x80 ≤ st) then
      advanceHead p n (setFld (kvWrite p (ringAddr s p h + 0x3F) 1 (rq s p h 0x3F 1 / 2 * 2) s) (kvPart p + 0x0C) 0 12 ((h + 1) % ringLen s p))
    else s

/-- FREE and EVICT in ring order, until one meets an append in flight: what is left (R241, R247). -/
def freeAll (p : Nat) : List Nat → State → List Nat × State
  | [], s => ([], s)
  | i :: r, s =>
    match rejectOf s p i with
    | some v => freeAll p r (setStatus p i v s)
    | none =>
      if rq s p i 0 1 = 2 then
        (if seqBusy s (rq s p i 4 2) then (i :: r, s) else freeAll p r (setStatus p i 1 (seqFree s (rq s p i 4 2))))
      else freeAll p r (setStatus p i 1 (evict s p (rq s p i 0x20 8)))

/-- Insert into a list ordered by a key, after its equals. -/
def insertBy (k : Nat → Nat) (x : Nat) : List Nat → List Nat
  | [] => [x]
  | y :: r => if k x < k y then x :: y :: r else y :: insertBy k x r

/-- A FREE or an EVICT. -/
def isFreeOp (s : State) (p i : Nat) : Bool := decide (rq s p i 0 1 = 2 ∨ rq s p i 0 1 = 4)

/-- The Wardrobe reads a ring from its head on: the reads that the fences refuse are recorded, those of a model record outside them too
(R246, R247, R255). -/
def ringNotes (s : State) (p : Nat) : State :=
  let h := fld s (kvPart p + 0x0C) 0 12
  let es := ringEntries s p (ringLen s p) h
  let s1 := es.foldl (fun s1 i =>
    if rq s p i 0 1 = 1 ∧ rq s p i 6 1 / 8 % 4 < 2 ∧ (rq s p i 2 1 = 0 ∨ rq s p i 2 1 = 2) ∧ rq s p i 0x18 6 % 64 = 0
    then kvNote s1 p false (rq s p i 0x18 6) 192 else s1) s
  if es.length = ringLen s p then s1 else kvNote s1 p false (ringAddr s p (h + es.length)) 64

/-- Apply one boundary as far as it goes (R247). -/
def applyBoundary (s0 : State) (b : Boundary) : Option Boundary × State :=
  let p := b.part
  let s := if b.read.isSome then s0 else ringNotes s0 p
  let rd := match b.read with
    | some x => x
    | none =>
      let all := (ringEntries s p (ringLen s p) (fld s (kvPart p + 0x0C) 0 12)).filter (fun i => decide (rq s p i 2 1 = 0 ∨ rq s p i 2 1 = 2))
      (all.filter (isFreeOp s p), all)
  let f := freeAll p rd.1 s
  match f.1 with
  | i :: r => (some ⟨p, true, some (i :: r, rd.2)⟩, f.2)
  | [] =>
    let s1 := grantAll p ((rd.2.filter (fun i => !isFreeOp s p i)).foldl (fun l i => insertBy (fun x => rq s p x 3 1 % 8) i l) []) false f.2
    (none, signal (advanceHead p (ringLen s1 p) s1) p (fld s1 (kvPart p + 8) 8 6) 1)

/-- Apply the boundaries that the Wardrobe has begun, in order within each partition; what their signals add comes after the rest. -/
def runBounds : List Boundary → List Boundary → State → State
  | [], left, s => { s with kv := { s.kv with bounds := left ++ s.kv.bounds } }
  | b :: r, left, s =>
    if !b.due || left.any (fun x => decide (x.part = b.part)) then runBounds r (left ++ [b]) s
    else match applyBoundary s b with
      | (none, s1) => runBounds r left s1
      | (some b1, s1) => runBounds r (left ++ [b1]) s1

/-- Run the boundaries that wait. -/
def runBoundaries (s : State) : State := runBounds s.kv.bounds [] { s with kv := { s.kv with bounds := [] } }

/-- Begin the first boundary of a partition that has not begun. -/
def markDue (p : Nat) : List Boundary → List Boundary
  | [] => []
  | b :: r => if b.part = p ∧ b.due = false then { b with due := true } :: r else b :: markDue p r

/-- The Wardrobe comes to the next batch boundary of a partition, which a SIGNAL on BTOK made (R247). -/
def kvBoundary (s : State) (p : Nat) : State := runBoundaries { s with kv := { s.kv with bounds := markDue p s.kv.bounds } }

/-! ## Appends (R235 to R240) -/

/-- The finite magnitudes of a list of FP32 values: the largest (R237). -/
def amaxOf (xs : List Word) : Word :=
  xs.foldl (fun a x => if numIsNaN (num32 x) || numIsInf (num32 x) then a else maxW a (fAbs x)) 0

/-- QMAX of a stored format (R237). -/
def qMax (q : Nat) : Nat := match q with | 0 => 127 | 1 => 448 | _ => 57344

/-- The scale of a page (R237). -/
def pageScale (floor : Word) (q : Nat) (xs : List Word) : Word := maxW floor (packFp32 (needRoundUp (needOf (amaxOf xs) (qMax q)) 3))

/-- Store one vector of a token: its codes, zero beyond D, and how many saturated (R229, R237). -/
def quantRow (q : Nat) (scale : Word) (xs : List Word) : List Byte × Nat :=
  let inv := fDivRn fOne scale
  let cs := xs.map (fun x => convTo (kvFmt q) 0 (numMul 40 x.toNat inv.toNat (num32 x) (num32 inv)))
  (cs.map (fun c => BitVec.ofNat 8 c.code) ++ List.replicate (128 - xs.length) 0, (cs.filter Conv.sat).length)

/-- Values of row `r` of an append operand. -/
def appRow (s : State) (p n l : Nat) (o : Opnd) (r : Nat) : List Word :=
  let ra := rowAddr l o 0 r (r / 32) (r % 32)
  (rangeFrom 0 o.cols).map (fun c => elemFp32 o.fmt o.zp o.scale (elemCode s p n o.fmt ra c))

/-- A 16-bit count that stops at 0xFFFF. -/
def addStop16 (a b : Nat) : Nat := min 0xFFFF (a + b)

/-- Append row `r` of T rows, which opens the pages of `takes` in turn, to a head group whose length is `len0` before the append; a value has the columns of a key (R235, R237). -/
def appendTok (p n l q hg len0 T : Nat) (takes : List Nat) (k v : Opnd) (s : State) (r : Nat) : State := match tget? s.kv.seqs q with
  | none => s
  | some x =>
    let pos := len0 + r
    let qf := modelQfmt x.model
    let opening := decide (pos % 64 = 0)
    let rows := rangeFrom r (min (64 - pos % 64) (T - r))
    let pg := if opening then nth 0 takes (pos / 64 - (len0 + 63) / 64) else nth 0 (tget [] x.pages hg) (pos / 64)
    let s1 := if opening then
        (let sK := pageScale (BitVec.ofNat 32 (le x.model (0x10 + 4 * hg) 4)) qf ((rows.map (appRow s p n l k)).flatten)
         let sV := pageScale (BitVec.ofNat 32 (le x.model (0x50 + 4 * hg) 4)) qf ((rows.map (appRow s p n l v)).flatten)
         let s1 := pageOpen s pg q hg qf 0
         setSeq (phSet pg 0x0C 4 sV.toNat (phSet pg 0x08 4 sK.toNat s1)) q
           { x with reserve := x.reserve.filter (fun g => decide (g ≠ pg)), pages := tmod [] x.pages hg (fun l => l ++ [pg]) })
      else s
    let kb := quantRow qf (BitVec.ofNat 32 (ph s1 pg 8 4)) (appRow s1 p n l k r)
    let vb := quantRow qf (BitVec.ofNat 32 (ph s1 pg 12 4)) (appRow s1 p n l v r)
    let s2 := wrMem (wrMem s1 (kvPage s1 pg + 128 * (pos % 64)) kb.1) (kvPage s1 pg + 0x2000 + 128 * (pos % 64)) vb.1
    let s3 := phSet pg 0x1E 2 (addStop16 (ph s2 pg 0x1E 2) vb.2) (phSet pg 0x1C 2 (addStop16 (ph s2 pg 0x1C 2) kb.2) s2)
    let fill := pos % 64 + 1
    let s4 := phSet pg 0x02 1 fill s3
    let s5 := if fill = 64 then phSet pg 0x00 1 (ph s4 pg 0 1 / 4 * 4 + 2) s4 else s4
    let s6 := bumpBy s5 0x50028 (kb.2 + vb.2)
    match tget? s6.kv.seqs q with
    | none => s6
    | some y => setSeq s6 q { y with lens := tset y.lens hg (pos + 1) }

/-- The append of an instruction, if the Wardrobe holds one. -/
def appendOf (s : State) (p n ip : Nat) : Option Append :=
  s.kv.appends.find? (fun a => decide (a.part = p) && decide (a.ctx = n) && decide (a.ip = ip))

/-- Change the append of an instruction. -/
def modAppend (s : State) (p n ip : Nat) (f : Append → Append) : State :=
  { s with kv := { s.kv with appends := s.kv.appends.map (fun a => if a.part = p ∧ a.ctx = n ∧ a.ip = ip then f a else a) } }

/-- Register the append of rank 0, pin every page that it writes, and start its copy where it needs one (R236, R240). -/
def startAppend (s : State) (sc : SlotCtx) (fl : InFlight) : State :=
  let q := le fl.bytes 0x08 2 % 2048
  let hg := le fl.bytes 0x0A 1
  let T := (((opnd fl 0).map Opnd.rows).getD 0)
  let copy := needsCopy s q hg fl.aux T
  let opens := fl.pages.drop (if copy then 1 else (tailPage s q hg fl.aux T).length)
  let base : Append := ⟨sc.part, sc.ctx, fl.ip, q, hg, none, none, [], opens⟩
  let s1 := fl.pages.foldl pin s
  match copy, tget? s.kv.seqs q with
  | true, some x =>
    let src := nth 0 (tget [] x.pages hg) (fl.aux / 64)
    let dst := fl.pages.headD 0
    let s2 := pin s1 src
    let s3 := pageOpen s2 dst q hg (modelQfmt x.model) (ph s2 src 2 1)
    let s4 := phSet dst 0x0C 4 (ph s3 src 0x0C 4) (phSet dst 0x08 4 (ph s3 src 0x08 4) s3)
    let s5 := setSeq s4 q { x with reserve := x.reserve.filter (fun g => decide (g ≠ dst)) }
    { s5 with kv := { s5.kv with appends := s5.kv.appends ++ [{ base with copy := some (src, dst) }] } }
  | _, _ => { s1 with kv := { s1.kv with appends := s1.kv.appends ++ [base] } }

/-- The copy of a shared page completes: steps 3 to 6 of R240. -/
def copyDone (s : State) (p n ip : Nat) : State := match appendOf s p n ip with
  | none => s
  | some a => match a.copy, tget? s.kv.seqs a.seq with
    | some (src, dst), some x =>
      let s1 := wrMem s (kvPage s dst) (rdMem s (kvPage s src) 0x4000)
      let tab := tget [] x.pages a.hgrp
      let s2 := setSeq s1 a.seq { x with pages := tset x.pages a.hgrp (tab.map (fun g => if g = src then dst else g)) }
      modAppend (unpin (dropRef (bump s2 0x50024) src) src) p n ip (fun a => { a with copy := none })
    | some (src, _), none => modAppend (unpin s src) p n ip (fun a => { a with copy := none })
    | none, _ => s

/-- The flight index of an instruction of a slot. -/
def flightIdx (s : State) (l k ip : Nat) (ext : Ext) : Option Nat := match slotOf s l k with
  | none => none
  | some c => firstFlight c (fun _ f => decide (f.ip = ip) && decide (f.ext = ext))

/-- Put the new length into LEN_BREG of a slot (R159). -/
def putLen (s : State) (l k ip len : Nat) : State := match slotOf s l k with
  | none => s
  | some c => match c.flight.find? (fun f => decide (f.ip = ip)) with
    | none => s
    | some f =>
      let lb := le f.bytes 0x0C 1
      if lb.testBit 7 then setSlot s l k { c with bounds := setNth c.bounds (lb % 16) (BitVec.ofNat 32 len) } else s

/-- One rank completes its KVAPP once the append has completed (R236); the last rank ends the Wardrobe's record of it. -/
def tellRank (s : State) (l k i : Nat) : State := match slotOf s l k, flightAt s l k i with
  | some c, some f => match appendOf s c.part c.ctx f.ip with
    | none => s
    | some a => match a.newLen with
      | none => s
      | some len =>
        let s1 := setFlight (putLen s l k f.ip len) l k i f
        let s2 := match flightAt s1 l k i with | none => s1 | some f => setFlight s1 l k i { f with ext := .none }
        let s3 := modAppend s2 c.part c.ctx f.ip (fun a => { a with told := a.told ++ [c.rank] })
        match appendOf s3 c.part c.ctx f.ip with
        | none => s3
        | some a1 => if (ctxOf s3 c.part c.ctx).cores.length ≤ a1.told.length then
            { s3 with kv := { s3.kv with appends := s3.kv.appends.filter (fun b => decide (b ≠ a1)) } } else s3
  | _, _ => s

/-- Tell every rank of a context that has the instruction in flight. -/
def tellAll (s : State) (p n ip : Nat) : State :=
  ((ctxOf s p n).cores).foldl (fun s l => match slotFor s l p n with
    | none => s
    | some k => match flightIdx s l k ip .kvapp with | none => s | some i => tellRank s l k i) s

/-- The reads of an append. -/
def appReads (l : Nat) (o : Opnd) : List (Nat × Nat) :=
  (rangeFrom 0 o.rows).map (fun r => (rowAddr l o 0 r (r / 32) (r % 32), o.cols * fmtBytes o.fmt))

/-- An append completes on rank 0 (R236): the tokens are written, the pins released, every rank told, and the boundaries
that waited for it run (R241). -/
def appendDone (s : State) (l k : Nat) : State := match slotOf s l k with
  | none => s
  | some c =>
    if c.rank ≠ 0 ∨ ¬ aliveOn s c.part c.ctx l then s else
    match firstFlight c (fun _ f => decide (f.ext = .kvapp) && f.units.isEmpty) with
    | none => s
    | some i => match c.flight[i]? with
      | none => s
      | some f => match appendOf s c.part c.ctx f.ip, opnd f 0, opnd f 1 with
        | some a, some ko, some v =>
          let vo := { v with cols := ko.cols }
          if a.copy.isSome ∨ a.newLen.isSome then s else
          afterReads s c.part c.ctx l (appReads l ko ++ appReads l vo) (fun s =>
            let s1 := (rangeFrom 0 ko.rows).foldl (appendTok c.part c.ctx l a.seq a.hgrp f.aux ko.rows a.takes ko vo) s
            let s2 := f.pages.foldl unpin s1
            let s3 := match flightAt s2 l k i with | none => s2 | some f => setFlight s2 l k i { f with pages := [] }
            let s4 := modAppend s3 c.part c.ctx f.ip (fun a => { a with newLen := some (f.aux + ko.rows) })
            runBoundaries (tellAll s4 c.part c.ctx f.ip))
        | _, _, _ => s

/-! ## Hot pages (R245) -/

/-- Hot-area places of a partition: groups of four drawers. -/
def hotPlaces (s : State) (p : Nat) : List Nat :=
  (rangeFrom 0 (fld s (kvPart p + 0x28) 8 9 / 4)).map (fun i => fld s (kvPart p + 0x28) 0 8 + 4 * i)

/-- Copy a HOT page into the hot area of a cluster, in the order pages became HOT. -/
def hotCopy (s : State) (pg c : Nat) : State :=
  match s.kv.hotQ.find? (fun e => decide (e.2 = c)) with
  | none => s
  | some e =>
    if e.1 ≠ pg then s else
    let p := ph s pg 0x10 1 % 16
    let s1 := { s with kv := { s.kv with hotQ := s.kv.hotQ.filter (fun x => decide (x ≠ e)) } }
    let used := (s.kv.hotDone.filter (fun x => decide (x.2.1 = c) && decide (ph s x.1 0x10 1 % 16 = p))).map (fun x => x.2.2)
    match (hotPlaces s p).find? (fun d => !used.contains d), (rangeFrom (16 * c) 16).find? (fun l => decide (ownerOf s l = some p) && !coreUnavail s l) with
    | some d, some l =>
      let w := [(spadOf l + 0x1000 * d, 0x4000)]
      if ¬ rangesOpen s kvWriter none w ∨ ¬ rangesOn s w then touchRanges s true w else
      let s2 := wrMem (touchRanges s1 true w) (spadOf l + 0x1000 * d) (rdMem s1 (kvPage s1 pg) 0x4000)
      { s2 with kv := { s2.kv with hotDone := s2.kv.hotDone ++ [(pg, c, d)] } }
    | _, _ => bump s1 0x50038

/-! ## The commands -/

/-- KVAPP_COMPLETE. -/
def execKvappComplete (t : Time) (l : Fin 256) (k : Fin 8) (s : State) : Res := .next (appendDone (advance s t) l k)

/-- KV_COPY_ON_WRITE. -/
def execKvCopyOnWrite (t : Time) (l : Fin 256) (k : Fin 8) (s0 : State) : Res :=
  let s := advance s0 t
  .next (match slotOf s l k with
    | none => s
    | some c => match firstFlight c (fun _ f => decide (f.ext = .kvapp) &&
        (match appendOf s c.part c.ctx f.ip with | none => false | some a => a.copy.isSome)) with
      | none => s
      | some i => match c.flight[i]? with
        | none => s
        | some f => settle (copyDone s c.part c.ctx f.ip) l k)

/-- A block that an ATTN has still to process reads a page. -/
def stillReads (f : InFlight) (page : Nat) : Bool := f.units.any (fun u => match u.eff with
  | .attnBlock _ kb => decide (blockPage f kb = page)
  | _ => false)

/-- KV_PIN_RELEASE: a core has the last byte that it reads from a page: no block that it has still to process reads it (R239, log entry 59). -/
def execKvPinRelease (t : Time) (l : Fin 256) (k : Fin 8) (page : Nat) (s0 : State) : Res :=
  let s := advance s0 t
  .next (match slotOf s l k with
    | none => s
    | some c => match firstFlight c (fun _ f => decide (opcodeOf f.bytes = 3) && f.pages.contains page) with
      | none => s
      | some i => match c.flight[i]? with
        | none => s
        | some f => if stillReads f page then s else unpin (setFlight s l k i { f with pages := f.pages.filter (fun x => decide (x ≠ page)) }) page)

/-- KV_BATCH_BOUNDARY. -/
def execKvBatchBoundary (t : Time) (p : Fin 16) (s : State) : Res := .next (kvBoundary (advance s t) p)

/-- KV_TREE_INSERT. -/
def execKvTreeInsert (t : Time) (q : Fin 2048) (blk : Nat) (s : State) : Res := .next (treeInsert (advance s t) q blk)

/-- KV_HOT_COPY. -/
def execKvHotCopy (t : Time) (page : Nat) (c : Fin 16) (s : State) : Res := .next (hotCopy (advance s t) page c)

end Sys2Proof.Machine
end

