-- ==== Sys2Proof/Machine/Cores.lean ====
section
/-!
DEFINITION. Machine/Cores.lean: work counters, the cluster map, and the retirement of a physical core (R88 to R93, R200 to
R202).
-/
namespace Sys2Proof.Machine
open Sys2Proof

/-! ## Work counters (R200 to R202) -/

/-- WCTR_POISON. -/
def fPoison : Nat := 0x0207

/-- The DYN instruction of a slot that may still claim, and its place among the instructions in flight. -/
def dynFlight (c : SlotCtx) : Option (Nat × Mma × Nat × Nat × Nat) :=
  match firstFlight c (fun _ f => match f.mma with | none => false | some m => m.opened && m.dyn.isSome) with
  | none => none
  | some i => match c.flight[i]? with
    | none => none
    | some f => match f.mma with
      | none => none
      | some m => match m.dyn with
        | none => none
        | some (sl, k, rt) => some (i, m, sl, k, rt)

/-- A core receives an item: its row's tiles over the core's columns follow those it has (R146); a core whose share has no column completes
it at once. -/
def giveItem (s : State) (l k item : Nat) : State := match slotOf s l k with
  | none => s
  | some c => match dynFlight c with
    | none => s
    | some (i, m, _, _, _) =>
      let m1 := { m with
        items := m.items ++ [item],
        tiles := m.tiles ++ m.cols.map (fun x => ⟨item / m.mtiles, item % m.mtiles, x, m.items.length⟩) }
      let s1 := putMma (nondet s c.part) l k i m1
      let s2 := match c.flight[i]? with
        | none => s1
        | some f => if m.cols.isEmpty then sendRow s1 l c f.ip m1 m.items.length else s1
      settle s2 l k

/-- A core receives NONE: its instruction claims no more. -/
def giveNone (s : State) (l k : Nat) : State := match slotOf s l k with
  | none => s
  | some c => match dynFlight c with
    | none => s
    | some (i, m, _, _, _) => settle (putMma (nondet s c.part) l k i { m with opened := false }) l k

/-- The record of rank 0 for an instruction, made if it does not exist. -/
def modRec (c : Ctx) (ip : Nat) (f : RecPend → RecPend) : Ctx :=
  if c.recs.any (fun r => decide (r.ip = ip)) then { c with recs := c.recs.map (fun r => if r.ip = ip then f r else r) }
  else { c with recs := c.recs ++ [f ⟨ip, none, Stats.none, [], 0, 0⟩] }

/-- The counter returns to IDLE and sends its sums to rank 0 of its tag's context (R117, R201). -/
def wctrIdle (s : State) (key : Nat) : State :=
  let w := wctrOf s key
  let p := w.tag / 2 ^ 28 % 16
  let n := w.tag / 2 ^ 22 % 64
  let s1 := setWctr s key { w with st := .idle, replay := [], held := [], sat := 0, nan := 0 }
  let c := ctxOf s1 p n
  match (c.cores.head?).bind (fun l => rankAt s1 l p n) with
  | none => s1
  | some sc =>
    let ip := sc.base + 64 * (w.tag % 2 ^ 22)
    setCtx s1 p n (modRec c ip (fun r =>
      { r with sums := r.sums + 1, stats := { r.stats with sat := r.stats.sat + w.sat, nan := r.stats.nan + w.nan } }))

/-- One participant less; at none the counter returns to IDLE (R201). -/
def wctrLeave (s : State) (key : Nat) : State :=
  let w := wctrOf s key
  if w.parts ≤ 1 then wctrIdle (setWctr s key { w with parts := 0 }) key else setWctr s key { w with parts := w.parts - 1 }

/-- Serve one claim if the counter can: steps 1 to 3 of R201. -/
def wctrServe (s : State) (key : Nat) (cl : Nat × Nat × Nat × Nat × Nat) : Option State :=
  let w0 := wctrOf s key
  let w := if w0.st = .idle then { w0 with
                                    st := .active, tag := cl.2.2.1, limit := cl.2.2.2.1, next := 0, done := 0, parts := cl.2.2.2.2,
                                    replay := [], bits := [], held := [], sat := 0, nan := 0 } else w0
  match w.st with
  | .poisoned => match slotOf s cl.1 cl.2.1 with
    | none => some s
    | some c => some (raise s c.part c.ctx cl.1 fPoison)
  | .idle => none
  | .active =>
    if w.tag ≠ cl.2.2.1 then none else
    match w.replay with
    | x :: r => some (giveItem (setWctr s key { w with replay := r, held := w.held ++ [(cl.1, cl.2.1, x)] }) cl.1 cl.2.1 x)
    | [] =>
      if w.next < w.limit then
        some (giveItem (setWctr s key { w with next := w.next + 1, held := w.held ++ [(cl.1, cl.2.1, w.next)] }) cl.1 cl.2.1 w.next)
      else if w.held.isEmpty then some (giveNone (wctrLeave (setWctr s key w) key) cl.1 cl.2.1)
      else none

/-- Serve the first waiting claim that can be served, and so on. -/
def wctrRun : Nat → State → Nat → State
  | 0, s, _ => s
  | n + 1, s, key =>
    let w := wctrOf s key
    match w.waiting.find? (fun cl => (wctrServe s key cl).isSome) with
    | none => s
    | some cl => match wctrServe (setWctr s key { w with waiting := w.waiting.filter (fun x => decide (x ≠ cl)) }) key cl with
      | none => s
      | some s1 => wctrRun n s1 key

/-- Serve the claims that wait. -/
def wctrServeAll (s : State) (key : Nat) : State := wctrRun (wctrOf s key).waiting.length s key

/-- An uncorrectable error in the state or the bitmap of a counter sets it POISONED; the claims that wait there fault (R200). -/
def wctrPoison (s : State) (key : Nat) : State := wctrServeAll (setWctr s key { wctrOf s key with st := .poisoned }) key

/-- A core claims for the DYN instruction in a slot, at a counter that the fences let its partition use (R146, R255); it holds at most one claim
per counter (R201). -/
def wctrClaim (s : State) (l k : Nat) : State := match slotOf s l k with
  | none => s
  | some c => match dynFlight c with
    | none => s
    | some (i, m, sl, ct, rt) =>
      let key := 64 * sl + ct
      let w := wctrOf s key
      if ¬ aliveOn s c.part c.ctx l ∨ w.held.any (fun h => decide (h.1 = l ∧ h.2.1 = k)) ∨ w.waiting.any (fun h => decide (h.1 = l ∧ h.2.1 = k)) then s else
      match c.flight[i]? with
      | none => s
      | some f =>
        if m.items.length * m.cols.length > m.drained.length then s else
        if ctrAllowed s c.part sl ct = false then raiseErrs s c.part c.ctx l [(fFence, noAddr)] else
        let w1 := { w with waiting := w.waiting ++ [(l, k, claimTag c f.ip, rt, le f.bytes 0x1A 1)] }
        wctrRun (w1.waiting.length) (setWctr s key w1) key

/-- A completion reaches a counter: steps 4 and 5 of R201. -/
def wctrComplete (s : State) (key l tag item sat nan : Nat) : State :=
  let w := wctrOf s key
  match w.st with
  | .poisoned => raise s (tag / 2 ^ 28 % 16) (tag / 2 ^ 22 % 64) l fPoison
  | .idle => s
  | .active =>
    if w.tag ≠ tag ∨ w.limit ≤ item then s else
    let held := w.held.filter (fun h => !(decide (h.1 = l) && decide (h.2.2 = item)))
    if w.bits.contains item then
      wctrServeAll (bump (setWctr s key { w with held := held, dup := min 0xFFFF (w.dup + 1) }) (0x60010 + 0x800 * (key / 64))) key
    else wctrServeAll (setWctr s key { w with held := held, bits := item :: w.bits, done := w.done + 1, sat := w.sat + sat, nan := w.nan + nan }) key

/-- A completion under way from a core to a counter arrives; with an error met there the counter is POISONED first (R117, R200, R201). -/
def wctrArrive (s0 : State) (key l tag item sat nan : Nat) (err : Bool) : State :=
  if ¬ (wctrOf s0 key).sent.contains (l, tag, item, sat, nan) then s0 else
  let s := if err then wctrPoison s0 key else s0
  let w := wctrOf s key
  wctrComplete (setWctr s key { w with sent := w.sent.erase (l, tag, item, sat, nan) }) key l tag item sat nan

/-- A core takes part in what a counter serves: the DYN instruction of one of its slots still claims from it (R201). -/
def takesPart (s : State) (l key : Nat) (w : Wctr) : Bool := (coreOf s l).slots.any (fun e => match dynFlight e.2 with
  | none => false
  | some (i, _, sl, ct, _) => decide (64 * sl + ct = key) && (match e.2.flight[i]? with | none => false | some f => decide (w.tag = claimTag e.2 f.ip)))

/-- Claims of a retired core: appended to the replay queue, one participant less (R202). -/
def wctrRetire (l : Nat) (s : State) (key : Nat) : State :=
  let w := wctrOf s key
  let mine := w.held.filter (fun h => decide (h.1 = l))
  if w.st ≠ .active ∨ (mine.isEmpty ∧ takesPart s l key w = false) then setWctr s key { w with waiting := w.waiting.filter (fun h => decide (h.1 ≠ l)) } else
  let s1 := setWctr s key { w with
                                   held := w.held.filter (fun h => decide (h.1 ≠ l)), replay := w.replay ++ mine.map (fun h => h.2.2),
                                   waiting := w.waiting.filter (fun h => decide (h.1 ≠ l)) }
  wctrServeAll (wctrLeave s1 key) key

/-- A context has been torn down on every core: its counters return to IDLE (R202). -/
def wctrDrop (p n : Nat) (s : State) (key : Nat) : State :=
  let w0 := wctrOf s key
  let w := { w0 with sent := w0.sent.filter (fun x => decide (x.2.1 / 2 ^ 22 ≠ 64 * p + n)) }
  if w.st = .active ∧ w.tag / 2 ^ 22 = 64 * p + n then wctrServeAll (setWctr s key { w with st := .idle, replay := [], held := [], sat := 0, nan := 0 }) key
  else setWctr s key w

/-! ## The cluster map (R88, R91) -/

/-- Key of the physical core that answers as `l`. -/
def physKey (s : State) (l : Nat) : Nat := 17 * (l / 16) + mapOf s l
/-- State of the spare: 0 READY, 1 PREPARING, 2 NONE. -/
def spareState (s : State) (c : Nat) : Nat := fld s (clReg c 0x810) 8 2

/-- CORE_RETIRED. -/
def fRetired : Nat := 0x0405

/-- A fault in every context resident on a core. -/
def raiseAll (s : State) (l code : Nat) : State := (coreOf s l).slots.foldl (fun s e => raise s e.2.part e.2.ctx l code) s

/-- A physical core is retired: steps 1 to 4 of R91, and step 6 where no spare is READY. -/
def coreRetire (s : State) (l : Nat) : State :=
  if (coreOf s l).stopped ∨ mapOf s l = 0x1F then s else
  let c := l / 16
  let s1 := raiseAll s l fRetired
  let s2 := (s1.wctr.map Prod.fst).foldl (wctrRetire l) s1
  let co := coreOf s2 l
  let s3 := setCore s2 l { co with stopped := true, ring := none, resid := [] }
  let s4 := setFld s3 (clReg c 0x814) 0 17 (fld s3 (clReg c 0x814) 0 17 ||| 2 ^ mapOf s l)
  if spareState s4 c = 0 then
    (let cl := clOf s4 c
     setCl (setFld s4 (clReg c 0x810) 8 2 1) c { cl with prep := some (l % 16), prepOk := false })
  else setMap s4 l 0x1F

/-- The spare fails its golden input: it is retired in turn, and the logical index stays UNAVAILABLE (R91). -/
def spareFail (s : State) (c : Nat) : State :=
  let cl := clOf s c
  match cl.prep with
  | none => s
  | some j =>
    let idx := fld s (clReg c 0x810) 0 5
    let s1 := setFld s (clReg c 0x814) 0 17 (fld s (clReg c 0x814) 0 17 ||| 2 ^ idx)
    setCl (setMap (setFld (setFld s1 (clReg c 0x810) 8 2 2) (clReg c 0x810) 0 5 0x1F) (16 * c + j) 0x1F) c { cl with prep := none, prepOk := false }

/-- The spare stands in at an epoch boundary (R91, R92): scratchpad contents are not carried over. -/
def spareStand (s : State) (c : Nat) : State :=
  let cl := clOf s c
  match cl.prep with
  | none => s
  | some j =>
    if ¬ cl.prepOk then s else
    let l := 16 * c + j
    let idx := fld s (clReg c 0x810) 0 5
    let s1 := setMap (setFld (setFld s (clReg c 0x810) 8 2 2) (clReg c 0x810) 0 5 0x1F) l idx
    let s2 := zeroMem s1 (spadOf l) 0x100000
    setCl (setCore s2 l { LCore.reset with on := true }) c { cl with prep := none, prepOk := false }

/-- Its spare is being prepared (R263). -/
def coreSparing (s : State) (l : Nat) : Bool := decide ((clOf s (l / 16)).prep = some (l % 16))

/-! ## The commands -/

/-- The counter that the DYN instruction of a slot claims from. -/
def claimKey (s : State) (l k : Nat) : Option Nat :=
  ((slotOf s l k).bind dynFlight).map (fun x => 64 * x.2.2.1 + x.2.2.2.1)

/-- WCTR_CLAIM. -/
def execWctrClaim (t : Time) (l : Fin 256) (k : ClaimOp) (s0 : State) : Res :=
  let s := advance s0 t
  .next (wctrClaim (match if k.err then claimKey s l k.slot else none with | none => s | some key => wctrPoison s key) l k.slot)

/-- WCTR_COMPLETION: one that is under way from core `l`, with its tag, item and counts, reaches its counter. -/
def execWctrCompletion (t : Time) (c : Fin 16) (k : CtrOp) (l : Fin 256) (tag item sat nan : Nat) (s : State) : Res :=
  .next (wctrArrive (advance s t) (64 * c + k.ctr) l tag item sat nan k.err)

/-- CLEAR of a POISONED counter (R200, R216). -/
def wctrClear (key : Nat) (s : State) : State :=
  let w := wctrOf s key
  if w.st = .poisoned then wctrServeAll (setWctr s key { w with st := .idle, replay := [], held := [] }) key else s

/-- WCTR_CLEAR: a write of 1 to WCTR_STATE.CLEAR (R200, R216). -/
def execWctrClear (t : Time) (ag : Agent) (c : Fin 16) (k : Fin 64) (s : State) : Res :=
  .next (onWrite (advance s t) ag (0x60400 + 0x800 * c + 0x10 * k) (wctrClear (64 * c + k)))

/-- CORE_RETIRE: whatever its cause, a retirement proceeds in the one order of R91. -/
def execCoreRetire (t : Time) (l : Fin 256) (_ : RetireCause) (s : State) : Res := .next (coreRetire (advance s t) l)

/-- A retirement by request in cluster `c` (R90). -/
def retireReq (c : Nat) (w : Word) (s : State) : State := if w.getLsbD 31 then coreRetire s (16 * c + w.toNat % 16) else s

/-- CL_RETIRE_REQ: a write with CONFIRM = 1 retires the core that holds LOGICAL_IN_CL in the cluster of window `l` (R90, R94). -/
def execClRetireReq (t : Time) (ag : Agent) (l : Fin 256) (w : Word) (s : State) : Res :=
  .next (onWrite (advance s t) ag (clReg (l / 16) 0x818) (retireReq (l / 16) w))

end Sys2Proof.Machine
end

