-- ==== Sys2Proof/Machine/Move.lean ====
section
/-!
DEFINITION. Machine/Move.lean: acknowledgements of credits, multicast and halo rows, the shared cache, DMA chains, memory and scratchpad
errors, bank gating (R185 to R218).
-/
namespace Sys2Proof.Machine
open Sys2Proof

/-! ## Banks (R212, R213) -/

/-- The Bureau requests that a bank be gated (R212): CLOSING, or the request is refused. -/
def bankRequest (s : State) (l b : Nat) : Bool × State :=
  if bankOf s l b = .on ∧ bankIdle s l b then (true, setBank s l b .closing) else (false, s)

/-- A credit covers a bank. -/
def creditInBank (c : Credit) (b : Nat) : Bool := decide (c.drawer / 16 = b)

/-- Every outstanding credit of a CLOSING bank has been acknowledged: GATED, its contents lost (R212); records of buffers
under it are dropped (R267). -/
def bankClosed (s : State) (l b : Nat) : State :=
  if bankOf s l b ≠ .closing ∨ (coreOf s l).credits.any (fun c => creditInBank c b) then s else
  let s1 := zeroMem (setBank s l b .gated) (spadOf l + 0x10000 * b) 0x10000
  let c := coreOf s1 l
  setCore s1 l { c with resid := c.resid.filter (fun r => !runInBank r.base r.len b) }

/-! ## Credits (R187 to R189, R194) -/

/-- A partition has writes granted and not acknowledged. -/
def granting (s : State) (p : Nat) : Bool := s.tc.any (fun e => e.2.credits.any (fun c => decide (c.req.part = p)))

/-- Partition CPART of motion port `m`, and token ZTOK of zone ring `m` (R378, R410). -/
def zringTok (s : State) (m : Nat) : Nat × Nat := (fld s (0x380110 + 0x80 * m) 16 4, fld s (if m = 0 then 0x20018 else 0x20028) 16 6)

/-- BASE of a zone ring is taken anew when the partition completes a reset; the ring is read again from slot 0 (R410). -/
def zringBase (s : State) (m : Nat) : State :=
  let e := zringTok s m
  { s with hut := { s.hut with rings := tset s.hut.rings m (token s e.1 e.2, 0) } }

/-- STATE of a resetting partition reads ON once every granted write has been acknowledged (R271, R410). -/
def resetDone (s : State) (p : Nat) : State :=
  if fld s (partOff p) 16 2 = 2 ∧ ¬ granting s p then
    (s.hut.rings.map Prod.fst).foldl (fun s m => if (zringTok s m).1 = p then zringBase s m else s) (setFld s (partOff p) 16 2 1)
  else s

/-- The data of an own fetch: a landing credit that the core holds of its own Dresser for a source, checked as it was asked for (R192, R255). -/
def fetched (s : State) (l : Nat) (x : Credit) : State := match x.req.landing, x.req.src with
  | some _, some a => if x.req.writer = l then landData s x.req.part x.req.ctx a x.req.len l x else s
  | _, _ => s

/-- The landing drawer of an acknowledged credit is FULL, or returns to the pool if its context has left (R189). -/
def drawerFull (c : LCore) (x : Credit) : Tab Drawer := match x.req.landing with
  | none => c.drawers
  | some _ => match tget? c.drawers x.drawer with
    | none => c.drawers
    | some d => if d.cs = noSlot then tdel c.drawers x.drawer else tset c.drawers x.drawer { d with st := .full }

/-- The contexts that an acknowledgement concerns go on: the writer's, and the one whose drawer it is. -/
def settleAck (s : State) (l : Nat) (r : CreditReq) : State :=
  let s1 := match writerSlot s r with | none => s | some (w, k) => settle s w k
  match r.landing with | none => s1 | some k => settle s1 l k

/-! ### DMA engines and their chains -/

/-- An engine. -/
def engineOf (s : State) (e : Nat) : Engine := tget Engine.reset s.dma e
/-- A queue of an engine. -/
def queueOf (s : State) (e vc : Nat) : List Chain := tget [] (engineOf s e).q vc
/-- Replace a queue. -/
def setQueue (s : State) (e vc : Nat) (l : List Chain) : State :=
  { s with dma := tset s.dma e { engineOf s e with q := if l.isEmpty then tdel (engineOf s e).q vc else tset (engineOf s e).q vc l } }
/-- Registers of an engine. -/
def dmaReg (e o : Nat) : Nat := 0x80000 + 0x100 * e + o

/-- The virtual channel of a partition's class (R40). -/
def vcOf (s : State) (p : Nat) : Nat := match partClass s p with | 0 => 0 | 1 => 1 | _ => 3

/-- The virtual channel of a chain (R40, R203): by its partition's class on a cluster's engine and on that of IO4, where the motion ports and the Hutch
are of class S and PCIe is not; VC2 for the ingest, decode and display blocks of IO0 to IO3, VC3 for the control complex (R489). -/
def chainVc (s : State) (e p : Nat) : Nat := if e < 16 ∨ e = 20 then vcOf s p else if e < 20 then 2 else 3

/-- Base of the peer windows and the span of one member (R275). -/
def peerBase : Nat := 0x400000000000
/-- Span of a member's window. -/
def peerSpan : Nat := 0x40000000000

/-- SIZE of the gang; 0 acts as 1 (R279). -/
def gangSize (s : State) : Nat := max 1 (fld s 0x40008 8 4)
/-- MEMBER. -/
def gangMember (s : State) : Nat := fld s 0x40008 0 3

/-- The member that a peer address names, and the DRAM address there. -/
def peerOf (s : State) (a : Nat) : Option (Nat × Nat) :=
  if peerBase ≤ a ∧ a < peerBase + gangSize s * peerSpan then some ((a - peerBase) / peerSpan, (a - peerBase) % peerSpan) else none

/-- Descriptor `i` of a chain, as it was fetched (R203, R206). -/
def descOf (c : Chain) (i : Nat) : List Byte := tget [] c.descs i
/-- KIND. -/
def dKind (d : List Byte) : Nat := le d 6 1 / 64
/-- SIG. -/
def dSig (d : List Byte) : Bool := bit d 6 5
/-- Rows of a descriptor. -/
def dRows (d : List Byte) : Nat := le d 0x0E 2
/-- LEN. -/
def dLen (d : List Byte) : Nat := le d 0x10 4

/-- DMA_DESC_VERSION and DMA_DESC_INVALID (R206). -/
def descErr (d : List Byte) : Errs :=
  errIf (decide (le d 7 1 % 16 ≠ 1 ∧ le d 7 1 % 16 ≠ 2)) 0x0205
    ++ errIf (decide (dKind d = 3) || decide (dRows d = 0) || decide (dLen d = 0) || decide (16777216 < dLen d)
        || (decide (dKind d = 0) && decide (dRows d ≠ 1)) || (decide (dKind d = 2) && decide (le d 0x1E 2 = 0))) 0x0204

/-- Destination addresses of row `r`: one, or one per multicast core (R204). -/
def dDests (d : List Byte) (r : Nat) : List Nat :=
  let o := le d 0x08 6 + r * le d 0x18 4
  if dKind d = 2 then (bitsSet (le d 0x1E 2) 16).map (fun j => spadOf (16 * (le d 0x1D 1 % 16) + j) + o) else [o]

/-- Source address of row `r`. -/
def dSrc (d : List Byte) (r : Nat) : Nat := le d 0 6 + r * le d 0x14 4

/-- Check one access of a chain: a peer address is checked at its member, an own one against the fences (R255, R275); a
scratchpad destination needs a core in service (R188). -/
def dmaAcc (s : State) (p : Nat) (wr : Bool) (a n : Nat) : Errs := match peerOf s a with
  | some (m, x) => if m = gangMember s then accErr (checkAcc s p wr x n) else []
  | none => match checkAcc s p wr a n with
    | .ok => errIf (wr && (corePieces (a, n)).any (fun r => (spadCore r.1).any (coreUnavail s))) fDest
    | e => accErr e

/-- Bytes of a write, from its first on, that its check lets be made: those before the first byte outside the fences or in a scratchpad that is
UNAVAILABLE (R188, R255). -/
def openPrefix (s : State) (p a n : Nat) : Nat := match checkAcc s p true a n with
  | .fence x => x - a
  | .rngWrite x => x - a
  | .ok => match (corePieces (a, n)).find? (fun r => (spadCore r.1).any (coreUnavail s)) with
    | none => n
    | some r => r.1 - a

/-- A chain whose burst from descriptor `i` on has been fetched: each descriptor that the fences let the engine read (R203, R255). -/
def fetchBurst (s : State) (c : Chain) (i : Nat) : Chain :=
  let j := (rangeFrom i (min 16 (c.count - i))).filter (fun x => decide (checkAcc s c.part false (c.base + 32 * x) 32 = .ok))
  { c with fetched := i + 16, descs := j.foldl (fun t x => tset t x (pastRead s c.part c.ctx (c.base + 32 * x) 32)) c.descs }

/-- The access faults of a descriptor. -/
def descAcc (s : State) (p : Nat) (d : List Byte) : Errs :=
  ((rangeFrom 0 (dRows d)).map (fun r => dmaAcc s p false (dSrc d r) (dLen d)
    ++ ((dDests d r).map (fun a => dmaAcc s p true a (dLen d))).flatten)).flatten

/-- The address that an address of a descriptor stands for on this module. -/
def ownAddr (s : State) (a : Nat) : Option Nat := match peerOf s a with
  | none => some a
  | some (m, x) => if m = gangMember s then some x else none

/-- Bytes that a chain reads: its own memory, or those of another member, which this module does not hold (free values). -/
def dmaRead (s : State) (p n a len : Nat) : List Byte × State := match ownAddr s a with
  | some x => (pastRead s p n x len, touch s false x len)
  | none => ((rangeFrom s.free len).map (fun i => (Config.freeValue i).setWidth 8), { s with free := s.free + len })

/-- Bytes that a chain writes; a write to another member leaves this module. -/
def dmaWrite (s : State) (a : Nat) (bs : List Byte) : State := match ownAddr s a with
  | some x => wrMem (touch s true x bs.length) x bs
  | none => s

/-- A byte that a descriptor has already written under an acknowledged credit. -/
def landedAt (i : Nat) (ls : List (Nat × Nat × Nat)) (a : Nat) : Bool := ls.any (fun x => decide (x.1 = i) && decide (x.2.1 ≤ a) && decide (a < x.2.1 + x.2.2))

/-- Bytes to write at an address, those already written by the descriptor left as they are. -/
def keepLanded (s : State) (i : Nat) (ls : List (Nat × Nat × Nat)) (a : Nat) (bs : List Byte) : List Byte :=
  if ls.isEmpty then bs else (rangeFrom 0 bs.length).map (fun j => if landedAt i ls (a + j) then mget memDefault s.mem (a + j) else nth 0 bs j)

/-- Descriptors of a chain started and not complete. -/
def running (c : Chain) : List Nat := c.started.filter (fun i => !c.done.contains i)

/-- Replace the head chain of a queue. -/
def setHead (s : State) (e vc : Nat) (c : Chain) : State := setQueue s e vc (c :: (queueOf s e vc).drop 1)

/-- Descriptor `i` at the head of a queue writes what it has for the bytes of a range (R188, R205). -/
def landDesc (e vc : Nat) (rg : Nat × Nat) (s : State) (i : Nat) : State := match queueOf s e vc with
  | [] => s
  | c :: _ =>
    let d := descOf c i
    if ¬ (descAcc s c.part d).isEmpty then s else
    (rangeFrom 0 (dRows d)).foldl (fun s r => (dDests d r).foldl (fun s a => match ownAddr s a with
      | none => s
      | some y =>
        let lo := max y rg.1
        let hi := min (y + dLen d) (rg.1 + rg.2)
        if hi ≤ lo then s else
        let x := dmaRead s c.part c.ctx (dSrc d r + (lo - y)) (hi - lo)
        let s1 := wrMem x.2 lo x.1
        match queueOf s1 e vc with
        | [] => s1
        | c1 :: _ => setHead s1 e vc { c1 with landed := c1.landed ++ [(i, lo, hi - lo)] }) s) s

/-- What a DMA engine writes under a placed credit is written before the credit is acknowledged (R188). -/
def dmaLand (s : State) (l : Nat) (x : Credit) : State :=
  if x.req.landing.isSome ∨ x.req.writer < 256 ∨ 278 ≤ x.req.writer then s else
  let e := x.req.writer - 256
  (engineOf s e).q.foldl (fun s v => match v.2 with
    | [] => s
    | c :: _ => if c.part ≠ x.req.part ∨ c.ctx ≠ x.req.ctx then s else (running c).foldl (landDesc e v.1 (spadOf l + x.req.off, x.req.len)) s) s

/-! ### Acknowledgements -/

/-- Every byte of a credit has been written (R188, R189): an own fetch lands now, and what a DMA engine writes under the credit; data promised by another
core must have been sent before. -/
def writeAck (s0 : State) (l tag : Nat) : State :=
  match (coreOf s0 l).credits.find? (fun x => decide (x.tag = tag)) with
  | none => s0
  | some x =>
    if isPromise x.req.writer x.req.part x.req.ctx l x then s0 else
    let s := dmaLand (fetched s0 l x) l x
    let c := coreOf s l
    let s1 := setCore s l { c with credits := c.credits.filter (fun y => decide (y.tag ≠ tag)), drawers := drawerFull c x }
    resetDone (settleAck s1 l x.req) x.req.part

/-- The last byte of a FULL landing drawer has been read (R189). -/
def drawerRead (s : State) (l d : Nat) : State :=
  let c := coreOf s l
  match tget? c.drawers d with
  | none => s
  | some x => if x.st = .full ∧ x.pre = none then setCore s l { c with drawers := tdel c.drawers d } else s

/-! ## Multicast and halo rows (R190, R192, R193) -/

/-- The landing credit that a writer holds at a core for a source. -/
def creditFrom (s : State) (l writer src : Nat) : Option Credit :=
  (coreOf s l).credits.find? (fun x => decide (x.req.writer = writer) && x.req.landing.isSome && decide (x.req.src = some src))

/-- Data of a source lands at a core under a credit, and counts as sent (R190, R193). -/
def sendData (s : State) (p n src len d : Nat) (cr : Credit) : State :=
  let s1 := landData s p n src len d cr
  let c := coreOf s1 d
  setCore s1 d { c with credits := c.credits.map (fun y => if y.tag = cr.tag then { y with sent := true } else y) }

/-- The core of a rank of a context. -/
def coreAt (s : State) (p n rank : Nat) : Option Nat := (ctxOf s p n).cores[rank]?

/-- The activations or image input of an instruction, the operand that other cores share: neither LOCAL nor CONST (R192). -/
def sharedInput (f : InFlight) : Option Opnd :=
  let o := match f.mma with
    | some m => some m.a
    | none => if [2, 5, 6].contains (opcodeOf f.bytes) then opnd f 0 else none
  o.filter (fun o => !o.isLocal && !o.isConst)

/-- A source range lies in the shared input of an instruction. -/
def sharesSrc (l src len : Nat) (f : InFlight) : Bool := match sharedInput f with
  | none => false
  | some o => within (src, len) (fullRange l o (chansOf f.bytes o))

/-- The ranks that a block of an instruction is multicast to by rank `g` as its leader: its grid row, or the ranks of the two shares that read
it (R192). -/
def castRanks (f : InFlight) (g : Nat) : List Nat := match f.mma with
  | some _ => let gn := max 1 (le f.bytes 0x1B 1); if g % gn = 0 then rangeFrom g gn else []
  | none => [g, g + 1]

/-- A leader in a throughput-mode partition of five cores or more, which holds every destination credit, issues the source read, which the
routers replicate (R190, R192). -/
def multicast (s : State) (l k src len : Nat) (dests : List Nat) : State := match slotOf s l k with
  | none => s
  | some c =>
    let ok := c.flight.any (fun f => sharesSrc l src len f && decide (dests ≠ []) && decide (dests = (castRanks f c.rank).filterMap (coreAt s c.part c.ctx)))
    if c.det ∨ ownCount s c.part < 5 ∨ ¬ aliveOn s c.part c.ctx l ∨ ¬ ok ∨ dests.any (fun d => (creditFrom s d l src).isNone) then s else
    afterReads s c.part c.ctx l [(src, len)] (fun s =>
      dests.foldl (fun s d => match creditFrom s d l src with | none => s | some cr => sendData s c.part c.ctx src len d cr) s)

/-- In a throughput-mode partition of one to four cores the lower rank sends a shared row under a landing credit of the next rank and advances
that pair's counter (R192). -/
def haloSend (s : State) (l k src len : Nat) : State := match slotOf s l k with
  | none => s
  | some c =>
    match coreAt s c.part c.ctx (c.rank + 1) with
    | none => s
    | some d => match creditFrom s d l src, slotFor s d c.part c.ctx with
      | some cr, some dk =>
        if c.det ∨ 4 < ownCount s c.part ∨ ¬ aliveOn s c.part c.ctx l ∨ ¬ c.flight.any (sharesSrc l src len) then s else
        afterReads s c.part c.ctx l [(src, len)] (fun s =>
          let s1 := sendData s c.part c.ctx src len d cr
          let co := coreOf s1 d
          setCore s1 d { co with halo := tmod 0 co.halo dk (· + 1) })
      | _, _ => s

/-- The context of a promise runs on the core that made it: a receiver waits only then (R193). -/
def senderRuns (s : State) (w p n : Nat) : Bool := match (slotFor s w p n).bind (slotOf s w) with
  | none => false
  | some c => coreRuns s w && aliveOn s p n w && ownsSlot s c && !c.released && !c.hit

/-- A promise of a core that does not run the context is cancelled: the receiver releases the credit it granted and fetches the data from the
source itself (R193).  `mc` says which kind of promise is meant: a block of a multicast, else a row of a halo exchange. -/
def promiseCancel (s : State) (l src : Nat) (mc : Bool) : State :=
  match (coreOf s l).credits.find? (fun x => decide (x.req.src = some src) && isPromise x.req.writer x.req.part x.req.ctx l x) with
  | none => s
  | some x => if senderRuns s x.req.writer x.req.part x.req.ctx ∨ mc ≠ decide (5 ≤ ownCount s x.req.part) then s else selfFetch s l x mc

/-! ## The shared cache (R195 to R199) -/

/-- Replace a slice. -/
def setSlice (s : State) (c : Nat) (v : Slice) : State := { s with shc := tset s.shc c v }
/-- A line frame meets an error: counted, and retired at its third correction or at any double-bit error (R199). -/
def frameErr (s : State) (c st way : Nat) (double : Bool) : State :=
  let sl := sliceOf s c
  let f := 16 * st + way
  let n := tget 0 sl.corr f + 1
  let sl1 := if double then sl else { sl with corr := tset sl.corr f n }
  if (double || decide (3 ≤ n)) && !sl.retired.contains f then
    (let s1 := setSlice s c { sl1 with retired := f :: sl1.retired, lines := sl1.lines.filter (fun x => !(decide (x.set = st) && decide (x.way = way))) }
     let s2 := setFld s1 (shcReg c 0x0C) 0 7 (min 64 (sl1.retired.length + 1))
     if 64 ≤ sl1.retired.length + 1 then setFlag s2 (shcReg c 0) 7 true else s2)
  else setSlice s c sl1

/-- Fill a line on a miss: a free enabled way, else the least recently used of them (R196). -/
def fillLine (s : State) (c p a : Nat) : State :=
  let la := a / 64 * 64
  let st := fieldOf a 6 11
  let sl := sliceOf s c
  let ways := (bitsSet (waysOf s c p) 16).filter (fun w => !sl.retired.contains (16 * st + w))
  let mine := sl.lines.filter (fun x => decide (x.set = st) && ways.contains x.way)
  match ways.find? (fun w => !mine.any (fun x => decide (x.way = w))) with
  | some w => setSlice s c { sl with lines := ⟨st, w, la, p, rdMem s la 64⟩ :: sl.lines }
  | none => match mine.getLast? with
    | none => s
    | some v => setSlice s c { sl with lines := ⟨st, v.way, la, p, rdMem s la 64⟩ :: sl.lines.erase v }

/-- A cached read (R195, R196, R199). -/
def shcRead (s : State) (l k a : Nat) (err : ShcErr) : State := match slotOf s l k with
  | none => s
  | some c =>
    if c.det ∨ ¬ cachedAt s c.part a ∨ s.inval.isSome then s else
    match homeOf s c.part a with
    | none => s
    | some h =>
      if flag s (shcReg h 0) 7 then s else
      let sl := sliceOf s h
      let ways := waysOf s h c.part
      match sl.lines.find? (fun x => decide (x.addr = a / 64 * 64) && decide (x.part = c.part) && ways.testBit x.way) with
      | none => fillLine s h c.part a
      | some x => match err with
        | .none => setSlice s h { sl with lines := x :: sl.lines.erase x }
        | .single => frameErr (bump (setSlice s h { sl with lines := x :: sl.lines.erase x }) (shcReg h 4)) h x.set x.way false
        | .double => fillLine (frameErr (bump (setSlice s h { sl with lines := sl.lines.erase x }) (shcReg h 8)) h x.set x.way true) h c.part a

/-- Drop every line of a partition in every slice (R198). -/
def dropLines (s : State) (p : Nat) : State :=
  { s with shc := s.shc.map (fun e => (e.1, { e.2 with lines := e.2.lines.filter (fun x => decide (x.part ≠ p)) })) }

/-- A write to SHC_INV; one made while BUSY is held until it clears (R216). -/
def shcInv (s : State) (p : Nat) : State := match s.inval with
  | some _ => { s with invalQ := s.invalQ ++ [p] }
  | none => { dropLines s p with inval := some p }

/-- The invalidation completes. -/
def shcInvDone (s : State) : State := match s.inval with
  | none => s
  | some _ => match s.invalQ with
    | [] => { s with inval := none }
    | p :: r => { dropLines s p with inval := some p, invalQ := r }

/-! ## DMA (R203 to R206, R275) -/

/-- Move the rows of descriptor `i`. -/
def moveRows (p n i : Nat) (ls : List (Nat × Nat × Nat)) (d : List Byte) : List Nat → State → State
  | [], s => s
  | r :: q, s =>
    let x := dmaRead s p n (dSrc d r) (dLen d)
    moveRows p n i ls d q ((dDests d r).foldl (fun s a => dmaWrite s a (keepLanded s i ls ((ownAddr s a).getD a) x.1)) x.2)

/-- Free bytes over a range: what R206 calls undefined. -/
def freeBytes (s : State) (a n : Nat) : State :=
  wrMem { s with free := s.free + n } a ((rangeFrom s.free n).map (fun i => (Config.freeValue i).setWidth 8))

/-- Own ranges that a descriptor writes. -/
def ownDests (s : State) (d : List Byte) : List (Nat × Nat) :=
  ((rangeFrom 0 (dRows d)).map (fun r => (dDests d r).filterMap (fun a => (ownAddr s a).map (fun x => (x, dLen d))))).flatten

/-- A byte of a scratchpad for which a DMA engine holds a credit: its write completes even where the descriptor is cut (R205). -/
def creditCovers (s : State) (e a : Nat) : Bool := match spadCore a with
  | none => false
  | some l => (placedCredits (coreOf s l)).any (fun x => decide (x.req.writer = dmaWriter e)
      && decide (x.req.off ≤ a - spadOf l) && decide (a - spadOf l < x.req.off + x.req.len))

/-- Each byte of a cut range holds the new data where its write holds a credit or has been made, elsewhere either the new data or what it held before
(R205). -/
def cutBytes (e i : Nat) (ls : List (Nat × Nat × Nat)) (s : State) (a : Nat) (new0 : List Byte) : State :=
  let new := keepLanded s i ls a new0
  let n := new.length
  wrMem { s with free := s.free + n } a ((rangeFrom 0 n).map (fun i =>
    if creditCovers s e (a + i) || (Config.freeValue (s.free + i)).getLsbD 0 then nth 0 new i else mget memDefault s.mem (a + i)))

/-- Cut descriptor `i` in progress of engine `e` (R205). -/
def cutDesc (e p n i : Nat) (ls : List (Nat × Nat × Nat)) (d : List Byte) (s : State) : State :=
  if ¬ (descAcc s p d).isEmpty then s else
  (rangeFrom 0 (dRows d)).foldl (fun s r =>
    let x := dmaRead s p n (dSrc d r) (dLen d)
    (dDests d r).foldl (fun s a => match ownAddr s a with | none => s | some y => cutBytes e i ls s y x.1) x.2) s

/-- Stop a chain of engine `e`: its descriptors in progress are cut (R205). -/
def stopChain (e : Nat) (s : State) (c : Chain) : State := (running c).foldl (fun s i => cutDesc e c.part c.ctx i c.landed (descOf c i) s) s

/-- The chains of a context stop, and leave their queues (R205, R270). -/
def stopChains (s : State) (p n : Nat) : State :=
  s.dma.foldl (fun s e => e.2.q.foldl (fun s v =>
    let gone := v.2.filter (fun c => decide (c.part = p) && decide (c.ctx = n) && c.core.isSome)
    setQueue (gone.foldl (stopChain e.1) s) e.1 v.1 (v.2.filter (fun c => !(decide (c.part = p) && decide (c.ctx = n) && c.core.isSome)))) s) s

/-- The DMA instruction in flight that hands a chain to the engine of its cluster, and that no engine has accepted yet. -/
def chainOwner (s : State) (e p n base count : Nat) : Option (Nat × Nat × Nat) :=
  ((rangeFrom (16 * e) 16).filterMap (fun l => match slotFor s l p n with
    | none => none
    | some k => match slotOf s l k with
      | none => none
      | some c => match firstFlight c (fun _ f => decide (f.ext = .dma) && decide (chainBase f.bytes c.rank = base) && decide (le f.bytes 0x0E 2 = count)
          && !(s.dma.any (fun g => g.2.q.any (fun v => v.2.any (fun ch => decide (ch.core = some l) && decide (ch.part = p) && decide (ch.ctx = n) && decide (ch.ip = f.ip)))))) with
        | none => none
        | some i => some (l, k, i))).head?

/-- An engine accepts a chain into the queue of its virtual channel and fetches its first burst (R203); with ASYNC the
instruction is then complete (R157). -/
def chainAccept (s : State) (e p n base count : Nat) : State :=
  if count = 0 ∨ 65535 < count then s else
  let vc := chainVc s e p
  let put := fun (s : State) (c : Chain) => bump (setQueue s e vc (queueOf s e vc ++ [fetchBurst s c 0])) (dmaReg e 0x14)
  if 16 ≤ e then put s ⟨p, n, none, 0, 0, base, count, false, none, [], [], 0, [], []⟩ else
  match chainOwner s e p n base count with
  | none => s
  | some (l, k, i) => match flightAt s l k i with
    | none => s
    | some f =>
      let async := bit f.bytes 0x04 0
      let s1 := put s ⟨p, n, some l, k, f.ip, base, count, async, if async && doneOf f.bytes then some (doneTokOf f.bytes) else none, [], [], 0, [], []⟩
      if async then settle (setFlight s1 l k i { f with ext := .none }) l k else s1

/-- Two lists of ranges meet. -/
def rangesMeet (a b : List (Nat × Nat)) : Bool := a.any (fun x => b.any (meets x))

/-- A descriptor waits for every earlier one of its chain whose destination meets its source or destination (R205). -/
def descReady (c : Chain) (i : Nat) : Bool :=
  let r := dmaRanges (descOf c i)
  (running c).all (fun j => !rangesMeet (dmaRanges (descOf c j)).2 (r.1 ++ r.2))

/-- A descriptor starts (R205); the next burst is fetched while the current one runs (R203). -/
def descStart (s : State) (e vc i : Nat) : State := match queueOf s e vc with
  | [] => s
  | c :: _ =>
    if i ≠ c.started.length ∨ c.count ≤ i ∨ (tget? c.descs i).isNone ∨ ¬ (descErr (descOf c i)).isEmpty ∨ ¬ descReady c i then s else
    let more := decide (i % 16 = 0) && decide (c.fetched < c.count)
    let c1 := { c with started := c.started ++ [i] }
    let s1 := setHead s e vc (if more then fetchBurst s c1 c1.fetched else c1)
    if more then bump s1 (dmaReg e 0x14) else s1

/-- Bytes that a descriptor writes. -/
def descBytes (d : List Byte) : Nat := dRows d * dLen d * (if dKind d = 2 then popCount (le d 0x1E 2) 16 else 1)

/-- The instruction of a chain that has completed (R157). -/
def chainEnd (s : State) (c : Chain) : State :=
  let s1 := match c.doneTok with | none => s | some tok => signal s c.part tok 1
  match c.core with
  | none => s1
  | some l =>
    if c.async then s1 else
    let s2 := extDone s1 l c.part c.ctx c.ip .dma id
    match slotFor s2 l c.part c.ctx with | none => s2 | some k => settle s2 l k

/-- The writes of a descriptor can all be made and acknowledged now: the engine may write every scratchpad range under its credits, and no
credit or request of it for those bytes is outstanding (R187, R188, R205). -/
def descOpen (s : State) (e : Nat) (c : Chain) (d : List Byte) : Bool :=
  let w := ownDests s d
  rangesOpen s (dmaWriter e) none w && rangesOn s w && !unacked s (dmaWriter e) c.part c.ctx w && !unasked s (dmaWriter e) c.part c.ctx w

/-- A descriptor completes: its writes are made and counted, SIG signals its token (R205, R275).  Where its writes have to wait, the banks that
they reach are woken (R212, R213). -/
def descComplete (s : State) (e vc i : Nat) : State := match queueOf s e vc with
  | [] => s
  | c :: r =>
    let d := descOf c i
    if ¬ (running c).contains i ∨ ¬ (descAcc s c.part d).isEmpty then s else
    if ¬ descOpen s e c d then touchRanges s true (ownDests s d) else
    let s1 := moveRows c.part c.ctx i c.landed d (rangeFrom 0 (dRows d)) s
    let b := val64 s1 (dmaReg e 8) (dmaReg e 0xC) + descBytes d
    let s2 := wr64 (bump s1 (dmaReg e 4)) (dmaReg e 8) (dmaReg e 0xC) (b % 2 ^ 64)
    let s3 := if dSig d then signal s2 c.part (le d 0x1C 1 % 64) 1 else s2
    let c1 := { c with done := c.done ++ [i] }
    if c1.done.length = c.count then chainEnd (setQueue s3 e vc r) c1 else setHead s3 e vc c1

/-- A chain ends in a fault (R206): DMA_FAULT records the first, descriptors in progress stop, the context faults.  What the faulting descriptor writes
before its first access outside is undefined (R255). -/
def chainFault (s : State) (e vc code addr : Nat) (bad : Option Nat) : State := match queueOf s e vc with
  | [] => s
  | c :: r =>
    let s0 := match bad with
      | none => s
      | some i =>
        let d := descOf c i
        (rangeFrom 0 (dRows d)).foldl (fun s q => (dDests d q).foldl (fun s a =>
          match ownAddr s a with
          | none => s
          | some x => let k := openPrefix s c.part x (dLen d); if k = 0 then s else freeBytes s x k) s) s
    let s1 := stopChain e s0 { c with started := c.started.filter (fun j => decide (bad ≠ some j)) }
    let s2 := setQueue s1 e vc r
    let s3 := if flag s2 (dmaReg e 0x10) 31 then s2
      else wrReg s2 (dmaReg e 0x10) (BitVec.ofNat 32 (2 ^ 31 + c.part % 16 * 2 ^ 16 + code % 2 ^ 16))
    let s4 := if code = fFence then noteFence s3 c.part addr else s3
    match c.core with
    | none => s4
    | some l => raise s4 c.part c.ctx l code

/-- The chain at the head of a queue reaches an invalid descriptor or an access fault (R206). -/
def descFault (s : State) (e vc : Nat) : State := match queueOf s e vc with
  | [] => s
  | c :: _ =>
    match (running c).find? (fun i => !(descAcc s c.part (descOf c i)).isEmpty) with
    | some i => match lowest (descAcc s c.part (descOf c i)) with
      | none => s
      | some x => chainFault s e vc x.1 x.2 (some i)
    | none =>
      let i := c.started.length
      if c.count ≤ i ∨ c.fetched ≤ i then s else
      let a := c.base + 32 * i
      match lowest (if (tget? c.descs i).isNone then [(fFence, a)] else descErr (descOf c i)) with
      | none => s
      | some x => chainFault s e vc x.1 x.2 none

/-! ## Memory errors (R207 to R211) -/

/-- The controller of a DRAM address (R207). -/
def mcOf (a : Nat) : Nat := a / 256 % 24 / 4
/-- Registers of a controller. -/
def mcReg (m o : Nat) : Nat := 0x401000 + 0x100 * m + o
/-- DRAM_UNCORR. -/
def fDram : Nat := 0x0404
/-- SPAD_PARITY. -/
def fSpad : Nat := 0x0401

/-- A fault at whoever made a read. -/
def readerFault (s : State) (rd : Reader) (code : Nat) : State := match rd with
  | .slot l k => match slotOf s l k with | none => s | some c => raise s c.part c.ctx l code
  | .dma e vc => chainFault s e vc code 0 (match queueOf s e vc with | [] => none | c :: _ => (running c).head?)
  | .other => s

/-- Record an uncorrectable block (R208). -/
def noteUncorr (s : State) (a : Nat) : State :=
  setFld (wrReg (bump s (mcReg (mcOf a) 8)) (mcReg (mcOf a) 0x10) (BitVec.ofNat 32 a)) (mcReg (mcOf a) 0x14) 0 16 (a / 2 ^ 32)

/-- What inline ECC finds on a read (R208, R209). -/
def dramEcc (s : State) (a : Nat) (kind : EccKind) (rd : Reader) : State :=
  if ¬ flag s 0x400000 0 ∨ memTop s ≤ a then s else
  match kind with
  | .clean => s
  | .single => bump s (mcReg (mcOf a) 4)
  | .double => readerFault (noteUncorr s a) rd fDram
  | .misdirected => readerFault (noteUncorr s a) rd fDram

/-- A patrol pass of a controller (R208). -/
def patrol (s : State) (m : Nat) (single double : List Nat) : State :=
  if ¬ flag s 0x400000 0 then s else
  let s1 := bumpBy s (mcReg m 4) single.length
  bump (double.foldl noteUncorr s1) (mcReg m 0xC)

/-- A parity error at a row: suspect, spared at the second, or the core is retired (R211).  A row that is spared leaves the list of suspects:
the model's choice (log entry 60). -/
def rowError (s : State) (l off : Nat) : State :=
  let bank := off / 0x10000
  let row := off % 0x10000 / 64
  let pk := physKey s l
  let ph := physOf s pk
  let sus := tget [] ph.suspects bank
  if ¬ sus.contains row then setPhys s pk { ph with suspects := tset ph.suspects bank ((row :: sus).take 4) } else
  let left := tget 32 ph.left bank
  if left = 0 then coreRetire s l else
  let s1 := setPhys s pk { ph with
                                   left := tset ph.left bank (left - 1), spared := ph.spared ++ [(bank, row)], spares := ph.spares + 1,
                                   suspects := tset ph.suspects bank (sus.filter (fun r => decide (r ≠ row))) }
  zeroMem s1 (spadOf l + off / 64 * 64) 64

/-- The Dresser fetches the credited range of a landing drawer again: the drawer is GRANTED to a fetch of its own until the data has come, and
its reader waits (R210). -/
def refetch (s : State) (l d : Nat) (x : Drawer) (sc : SlotCtx) (a n : Nat) : State :=
  let c := coreOf s l
  settle (setCore s l { c with
    drawers := tset c.drawers d { x with st := .granted },
    credits := c.credits ++ [⟨c.tag, ⟨sc.part, sc.ctx, l, some x.cs, 0, n, some a, false⟩, d, false⟩], tag := c.tag + 1 }) l x.cs

/-- A scratchpad parity error (R210): a FULL landing drawer with a source record is fetched again, anything else faults. -/
def spadParity (s : State) (l off : Nat) (rd : Reader) : State :=
  if 0x100000 ≤ off then s else
  let s1 := rowError (bump s (tcOff l + 0x48)) l off
  if (coreOf s1 l).stopped then s1 else
  let d := off / 0x1000
  match tget? (coreOf s1 l).drawers d with
  | some x => match x.src with
    | some (a, n) =>
      let s2 := bump s1 (tcOff l + 0x4C)
      (match slotOf s2 l x.cs with
      | none => s2
      | some c => if x.st = .full then refetch s2 l d x c a n else s2)
    | none => readerFault s1 rd fSpad
  | none => readerFault s1 rd fSpad

/-! ## Requests of fetches and of DMA engines (R153, R192, R206, R255) -/

/-- What an instruction still fetches, in the order in which it consumes it (R144): block by block of an MMA, then whatever else it reads. -/
def needOrder (l : Nat) (f : InFlight) : List (Nat × Nat) := (match f.mma with
  | none => []
  | some m => ((rangeFrom m.pass (m.passes - m.pass)).map (fun q => ((rangeFrom 0 m.tiles.length).map (fun i =>
      ((rangeFrom 0 (cdiv m.a.cols 32)).map (stageReads l m q (tileOf m (serpent m q i)))).flatten)).flatten)).flatten) ++ f.reads

/-- The first place at which an instruction in flight consumes bytes of a source. -/
def needKey (l : Nat) (c : SlotCtx) (src len : Nat) : Option Nat :=
  let rs := (c.flight.map (needOrder l)).flatten
  (rangeFrom 0 rs.length).find? (fun i => meets (nth (0, 0) rs i) (src, len))

/-- A landing credit for a context in deterministic mode is asked for by its own core alone, each fetch of its instructions in the order in which they
consume it (R153, R192). -/
def detFetch (s : State) (l : Nat) (r : CreditReq) : Bool := match r.landing, r.src with
  | some k, some a => match slotOf s l k with
    | none => true
    | some c => !c.det || (decide (r.writer = l) && (r.prefetch || (match needKey l c a r.len with
      | none => false
      | some y => (coreOf s l).drawers.all (fun e => decide (e.2.cs ≠ k) || e.2.pre.isSome || (match e.2.src with
        | none => true
        | some x => (match needKey l c x.1 x.2 with | none => true | some z => decide (z ≤ y)))))))
  | _, _ => true

/-- The check of a core's own fetch (R255). -/
def fetchAcc (s : State) (l : Nat) (r : CreditReq) : Acc := match r.landing, r.src with
  | some _, some a => if r.writer = l then checkAcc s r.part false a r.len else .ok
  | _, _ => .ok

/-- The chain of a DMA engine, at the head of one of its queues, whose descriptor in progress a request serves. -/
def askingChain (s : State) (r : CreditReq) : Option (Nat × Nat × Nat) :=
  if r.writer < 256 ∨ 278 ≤ r.writer then none else
  ((engineOf s (r.writer - 256)).q.filterMap (fun v => match v.2 with
    | [] => none
    | c :: _ => if c.part = r.part ∧ c.ctx = r.ctx then ((running c).head?).map (fun i => (r.writer - 256, v.1, i)) else none)).head?

/-- The code with which the Dresser of core `l` refuses a request (R188). -/
def refusal (s : State) (l : Nat) (r : CreditReq) : Option Nat :=
  if ownerOf s l ≠ some r.part then some fFence else if coreUnavail s l then some fDest else none

/-- A request for a credit as its writer makes it: a refusal ends a DMA engine's chain (R206), a fetch outside the fences is not made and faults unless it
prefetches (R255). -/
def askCredit (s : State) (l : Nat) (r : CreditReq) : State :=
  match fetchAcc s l r with
  | .ok =>
    if detFetch s l r = false then s else
    (match refusal s l r, askingChain s r with
    | some code, some x => chainFault (releaseSend s r) x.1 x.2.1 code (spadOf l + r.off) (some x.2.2)
    | _, _ => creditRequest s l r)
  | e => if r.prefetch then s else raiseAcc s r.part r.ctx l e

/-! ## The commands -/

/-- CREDIT_REQUEST. -/
def execCreditRequest (t : Time) (l : Fin 256) (r : CreditArg) (s : State) : Res :=
  .next (askCredit (advance s t) l ⟨r.part, r.ctx, r.writer, r.landing, r.off, r.len, r.src, r.prefetch⟩)
/-- CREDIT_GRANT. -/
def execCreditGrant (t : Time) (l : Fin 256) (s : State) : Res := .next (creditGrant (advance s t) l)
/-- LANDING_DRAWER_CONSUMED. -/
def execLandingDrawerConsumed (t : Time) (l d : Fin 256) (s : State) : Res := .next (drawerRead (advance s t) l d)
/-- MULTICAST_SEND. -/
def execMulticastSend (t : Time) (l : Fin 256) (k : Fin 8) (src len : Nat) (dests : List Nat) (s : State) : Res :=
  .next (multicast (advance s t) l k src len dests)
/-- HALO_ROW_SEND. -/
def execHaloRowSend (t : Time) (l : Fin 256) (k : Fin 8) (src len : Nat) (s : State) : Res := .next (haloSend (advance s t) l k src len)
/-- PROMISE_CANCEL: at the receiver. -/
def execPromiseCancel (t : Time) (l : Fin 256) (src : Nat) (mc : Bool) (s : State) : Res := .next (promiseCancel (advance s t) l src mc)
/-- SHC_READ. -/
def execShcRead (t : Time) (l : Fin 256) (k : Fin 8) (a : Nat) (err : ShcErr) (s : State) : Res := .next (shcRead (advance s t) l k a err)
/-- SHC_INV. -/
def execShcInv (t : Time) (ag : Agent) (p : Fin 16) (s : State) : Res := .next (onWrite (advance s t) ag 0x68000 (fun s => shcInv s p))
/-- SHC_INV_DONE. -/
def execShcInvDone (t : Time) (s : State) : Res := .next (shcInvDone (advance s t))
/-- DMA_CHAIN_ACCEPT. -/
def execDmaChainAccept (t : Time) (e : Fin 22) (p : Fin 16) (n : Fin 64) (base count : Nat) (s : State) : Res :=
  .next (chainAccept (advance s t) e p n base count)
/-- DMA_DESC_START. -/
def execDmaDescStart (t : Time) (e : Fin 22) (vc : Fin 4) (i : Nat) (s : State) : Res := .next (descStart (advance s t) e vc i)
/-- DMA_DESC_COMPLETE. -/
def execDmaDescComplete (t : Time) (e : Fin 22) (vc : Fin 4) (i : Nat) (s : State) : Res := .next (descComplete (advance s t) e vc i)
/-- DMA_DESC_FAULT. -/
def execDmaDescFault (t : Time) (e : Fin 22) (vc : Fin 4) (s : State) : Res := .next (descFault (advance s t) e vc)
/-- DRAM_READ_ECC. -/
def execDramReadEcc (t : Time) (a : Nat) (kind : EccKind) (rd : Reader) (s : State) : Res := .next (dramEcc (advance s t) a kind rd)
/-- PATROL_SCRUB. -/
def execPatrolScrub (t : Time) (m : Fin 6) (single double : List Nat) (s : State) : Res := .next (patrol (advance s t) m single double)
/-- SPAD_PARITY_ERROR. -/
def execSpadParityError (t : Time) (l : Fin 256) (off : Nat) (rd : Reader) (s : State) : Res := .next (spadParity (advance s t) l off rd)
/-- BANK_CLOSING_DONE. -/
def execBankClosingDone (t : Time) (l : Fin 256) (b : Fin 16) (s : State) : Res := .next (bankClosed (advance s t) l b)
/-- BANK_GATE_ABORT. -/
def execBankGateAbort (t : Time) (l : Fin 256) (b : Fin 16) (s : State) : Res := .next (bankAbort (advance s t) l b)
/-- BANK_WAKE. -/
def execBankWake (t : Time) (l : Fin 256) (b : Fin 16) (wr : Bool) (s : State) : Res := .next (bankWake (advance s t) l b wr)
/-- BANK_WAKE_DONE. -/
def execBankWakeDone (t : Time) (l : Fin 256) (b : Fin 16) (s0 : State) : Res :=
  let s := advance s0 t
  .next (if bankOf s l b = .waking then setBank s l b .on else s)

end Sys2Proof.Machine
end

