-- ==== Sys2Proof/Machine/Foot.lean ====
section
/-!
DEFINITION. Machine/Foot.lean: the Footstool of a cluster: its queue, chunks, blocks and buffer errors (R81 to R87, R174).
-/
namespace Sys2Proof.Machine
open Sys2Proof

/-- FS_PARITY and FOOTSTOOL_UNAVAILABLE. -/
def fFsParity : Nat := 0x0403
/-- FOOTSTOOL_UNAVAILABLE (R87). -/
def fFsUnavail : Nat := 0x0406

/-- The blocks of a request in order: for each tile row of the share its one or two runs of 16 pixels, and for each run its blocks of 16 channels,
as output row, first pixel and first channel (R82, R174, R180). -/
def fsBlocks (f : InFlight) : List (Nat × Nat × Nat) :=
  let n := ((opnd f 2).map Opnd.rows).getD 0
  let ow := ((opnd f 1).map Opnd.cols).getD 0
  ((rangeFrom f.start f.len).map (fun t =>
    (([32 * (t % f.mt), 32 * (t % f.mt) + 16].filter (fun x => decide (x < ow))).map (fun x =>
      (rangeFrom 0 (cdiv n 16)).map (fun c => (t / f.mt, x, 16 * c)))).flatten)).flatten

/-- The request that an issued XPND with DIRECT makes; scale entries and table image are copied now (R82, R174). -/
def fsRequest (s : State) (l k : Nat) (sc : SlotCtx) (f : InFlight) : FsReq :=
  let c := coreOf s l
  let n := ((opnd f 2).map Opnd.rows).getD 0
  let wref := ((opnd f 2).map Opnd.wref).getD 0
  { core := l, slot := k, part := sc.part, ctx := sc.ctx, cls := partClass s sc.part, fl := f,
    scale := (rangeFrom 0 n).map (fun i => tget 0 c.scale (sc.scaleBase + scaleIdx wref i)),
    table := tget [] c.tabs (le f.bytes 0x1C 1 / 64), done := 0, total := (fsBlocks f).length,
    blockSteps := cdiv (le f.bytes 0x0A 2) 4 * le f.bytes 0x0C 1 * le f.bytes 0x0D 1 }

/-- Whether the instruction of a request is still in flight and its context goes on. -/
def fsAlive (s : State) (r : FsReq) : Bool := match rankAt s r.core r.part r.ctx with
  | none => false
  | some c => aliveOn s r.part r.ctx r.core && c.flight.any (fun f => decide (f.ip = r.fl.ip) && decide (f.ext = .footstool))

/-- Address of the weight row of channel `n`: a LOCAL matrix has its rows placed as any LOCAL operand's (R137, R174).  A weight descriptor with
more than one matrix gives batch `b` its own: the model's choice (log entry 61). -/
def fsRow (r : FsReq) (w : Opnd) (b n : Nat) : Nat := rowAddr r.core w b n (n / 32) (n % 32)

/-- What a range fetched into the buffer holds (R84). -/
def bufCode (buf : Tab (List Byte)) (a : Nat) : Nat := leVal (tget [] buf a)

/-- The code that a tap gives, from the buffer (R167, R168). -/
def fsTap (buf : Tab (List Byte)) (r : FsReq) (i : Opnd) (b ch : Nat) : Tap → Nat
  | .elem y x _ => bufCode buf (imgAddr r.core i b y x ch)
  | .pad c => if c then le r.fl.bytes 0x18 2 % 256 else zeroCode i

/-- The exact sum of one output pixel and channel, from what the buffer holds (R82, R84, R174). -/
def fsSum (buf : Tab (List Byte)) (r : FsReq) (i w : Opnd) (b oy ox n : Nat) : Int :=
  let bs := r.fl.bytes
  let cin := le bs 0x0A 2
  let kw := le bs 0x0D 1
  ((rangeFrom 0 (le bs 0x0C 1 * kw)).map (fun uv =>
    let tp := xpndTap bs i.rows i.cols oy ox (uv / kw) (uv % kw)
    ((rangeFrom 0 cin).map (fun ch => actInt i (fsTap buf r i b ch tp)
      * sx 8 (codeAt (tget [] buf (fsRow r w b n)) w.fmt (uv * cin + ch)))).sum)).sum

/-- Reads of one output pixel over the channels of a block. -/
def fsReads (r : FsReq) (i w : Opnd) (b oy ox n0 nn : Nat) : List (Nat × Nat) :=
  let bs := r.fl.bytes
  let cin := le bs 0x0A 2
  let kw := le bs 0x0D 1
  let k := le bs 0x0C 1 * kw
  ((rangeFrom 0 k).map (fun uv => ((rangeFrom 0 cin).map (fun ch =>
    tapReads r.core i b ch [xpndTap bs i.rows i.cols oy ox (uv / kw) (uv % kw)])).flatten)).flatten
  ++ (rangeFrom n0 nn).map (fun n => (fsRow r w b n, k * cin))

/-- The ranges fetched into the buffer by DMA (R84). -/
def fsFill (s : State) (r : FsReq) (c : Nat) (rs : List (Nat × Nat)) : State :=
  setCl s c { clOf s c with buf := rs.foldl (fun t x => tset t x.1 (pastRead s r.part r.ctx x.1 x.2)) [] }

/-- One block of 16 pixels and 16 channels: its input comes into the buffer, it is accumulated, then drained through the five stages (R82, R84). -/
def fsBlock (r : FsReq) (j : Nat × Nat × Nat) (x : SSt) : SSt :=
  match opnd r.fl 0, opnd r.fl 1, opnd r.fl 2 with
  | some i, some o, some w =>
    let bs := r.fl.bytes
    let cl := r.core / 16
    let b := j.1 / o.rows
    let oy := j.1 % o.rows
    let x0 := j.2.1
    let n0 := j.2.2
    let nn := min 16 (w.rows - n0)
    let dr := le bs 0x1C 1
    let om := fDivRn fOne (flSo r.fl)
    let inS := if dr.testBit 0 then some (i.scale.getD fOne) else none
    eachRow r.part r.ctx r.core (fun ox y =>
      let rs := fsReads r i w b oy ox n0 nn
      rowWith id r.part r.ctx r.core rs (if firstBad y.1 r.part false rs = .ok then (fsFill y.1 r cl rs, y.2) else y) (fun s =>
        let buf := (clOf s cl).buf
        emit o.fmt o.zp om (chStats s r.fl.out) ((rangeFrom n0 nn).map (fun n =>
          (n, imgAddr r.core o b oy ox n,
            drainStages (nth 0 r.scale n) inS (dr / 16 % 4) (BitVec.ofNat 32 (le bs 0x20 4)) r.table none
              (fOfInt (sx 32 (tc 32 (fsSum buf r i w b oy ox n))))))) y.2))
      (rangeFrom x0 (min 16 (o.cols - x0))) x
  | _, _, _ => x

/-- FS_STEP_COUNT advances by a block (R81). -/
def fsCount (c : Nat) (r : FsReq) (s : State) : State :=
  let cl := clOf s c
  setCl s c { cl with fsSteps := (cl.fsSteps + r.blockSteps) % 2 ^ 64 }

/-- Run `n` blocks of a request in order, each while its context goes on, and count their steps (R81). -/
def fsRun (s : State) (c : Nat) (r : FsReq) (n : Nat) : State × FsReq :=
  let x := (((fsBlocks r.fl).drop r.done).take n).foldl (fun (x : SSt) j =>
    if aliveOn x.1 r.part r.ctx r.core then (let y := fsBlock r j x; (fsCount c r y.1, y.2)) else x) (s, r.fl.stats)
  (x.1, { r with done := r.done + n, fl := { r.fl with stats := x.2 } })

/-- The output of a request can be written: under the Dresser credits of the cores it lies in (R84, R187). -/
def fsOpen (s : State) (c : Nat) (r : FsReq) : Bool :=
  rangesOpen s (footWriter c) none r.fl.writes && rangesOn s r.fl.writes && rangesOn s r.fl.reads

/-- The banks that a request waits for are woken (R213). -/
def fsTouch (s : State) (r : FsReq) : State := touchRanges (touchRanges s false r.fl.reads) true r.fl.writes

/-- Order of classes: S, D, A, B (R85). -/
def fsRank (cls : Nat) : Nat := match cls with | 0 => 0 | 2 => 1 | 1 => 2 | _ => 3

/-- The pending request of the highest class, the first to arrive within it. -/
def fsNext (q : List FsReq) : Option FsReq :=
  q.foldl (fun b r => match b with | none => some r | some x => if fsRank r.cls < fsRank x.cls then some r else some x) none

/-- A golden run holds the Footstool, or is next to be served (R415). -/
def fsGolden (s : State) (c : Nat) : Bool := (tget Gold.reset s.hut.gold (256 + c)).run.isSome

/-- Start the pending request of the highest class; a golden run goes before every one, and no class-B chunk starts while a hold
period runs (R85, R415, R442). -/
def fsStart (s : State) (c : Nat) : State :=
  let cl := clOf s c
  if fsGolden s c then s else
  let q := cl.queue.filter (fsAlive s)
  match fsNext (q.filter (fun r => decide (r.cls ≠ 3) || !holdRuns s c)) with
  | none => setCl s c { cl with queue := q }
  | some r => setCl s c { cl with queue := q.erase r, cur := some r }

/-- Requests of classes A and B run in chunks (R85). -/
def fsChunked (r : FsReq) : Bool := decide (r.cls = 1 ∨ r.cls = 3)
/-- Blocks of a chunk. -/
def fsChunk (s : State) (c : Nat) (r : FsReq) : Nat := max 1 (fsLimit s c / max 1 r.blockSteps)

/-- A request whose context has been torn down is withdrawn at the boundary that its chunk in progress runs to (R270); what it leaves in its output
is part of what R160 leaves open (log entry 62). -/
def fsWithdraw (s : State) (c : Nat) (r : FsReq) : State :=
  let n := if fsChunked r then min (fsChunk s c r) (r.total - r.done) else r.total - r.done
  let s1 := (List.replicate n ()).foldl (fun s _ => fsCount c r s) s
  setCl s1 c { clOf s1 c with cur := none }

/-- A request or chunk boundary (R85): a chunk of the running request ends, and the highest class goes on. -/
def fsBoundary (s : State) (c : Nat) : State :=
  let cl := clOf s c
  match cl.cur with
  | none => fsStart s c
  | some r =>
    if ¬ fsAlive s r then fsStart (fsWithdraw s c r) c
    else if ¬ fsOpen s c r then fsTouch s r
    else if ¬ fsChunked r ∨ r.total - r.done ≤ fsChunk s c r then s
    else
      let x := fsRun s c r (fsChunk s c r)
      let cl1 := clOf x.1 c
      fsStart (bump (setCl x.1 c { cl1 with cur := none, queue := x.2 :: cl1.queue }) (clReg c 0x830)) c

/-- A request completes: its last blocks run, and its context resumes (R84). -/
def fsComplete (s : State) (c : Nat) : State :=
  let cl := clOf s c
  match cl.cur with
  | none => s
  | some r =>
    if ¬ fsAlive s r then fsWithdraw s c r
    else if ¬ fsOpen s c r then fsTouch s r
    else if fsChunked r ∧ fsChunk s c r < r.total - r.done then s
    else
      let x := fsRun s c r (r.total - r.done)
      let s1 := setCl x.1 c { clOf x.1 c with cur := none }
      if ¬ aliveOn s1 r.part r.ctx r.core then s1 else
      let s2 := extDone s1 r.core r.part r.ctx r.fl.ip .footstool (fun f => { f with stats := x.2.fl.stats })
      let s3 := modRank s2 r.core r.part r.ctx (fun sc => { chargeWait s2 (slotNow s2) sc with wait := .none })
      match slotFor s3 r.core r.part r.ctx with | none => s3 | some k => settle s3 r.core k

/-- The Footstool becomes UNAVAILABLE; its requests fault (R87). -/
def fsEnd (s : State) (c : Nat) : State :=
  let cl := clOf s c
  (cl.queue ++ cl.cur.toList).foldl (fun s r => if fsAlive s r then raise s r.part r.ctx r.core fFsUnavail else s)
    (setCl s c { cl with unavail := true, queue := [], cur := none })

/-- A buffer error (R87): the source still holds the data, or the request faults; a second one at a row ends the service. -/
def fsParity (s0 : State) (c row : Nat) (held : Bool) : State :=
  let s := bump s0 (clReg c 0x82C)
  let cl := clOf s c
  if cl.unavail then s else
  if cl.badRows.contains row then fsEnd s c
  else
    let s1 := setCl s c { cl with badRows := row :: cl.badRows }
    match cl.cur with
    | none => s1
    | some r => if held || !fsAlive s1 r then s1 else raise s1 r.part r.ctx r.core fFsParity

/-- FOOTSTOOL_CHUNK_BOUNDARY. -/
def execFootstoolChunkBoundary (t : Time) (c : Fin 16) (s : State) : Res := .next (fsBoundary (advance s t) c)
/-- FOOTSTOOL_REQUEST_COMPLETE. -/
def execFootstoolRequestComplete (t : Time) (c : Fin 16) (s : State) : Res := .next (fsComplete (advance s t) c)
/-- FOOTSTOOL_PARITY_ERROR: at buffer row `row`; `held` says that the source still holds the data. -/
def execFootstoolParityError (t : Time) (c : Fin 16) (row : Nat) (held : Bool) (s : State) : Res := .next (fsParity (advance s t) c row held)

end Sys2Proof.Machine
end

