-- ==== Sys2Proof/Machine/Tensor.lean ====
section
/-!
DEFINITION. Machine/Tensor.lean: the Trestle of a core: issue, holds, grants, SYNC, completion, one turn of the ring
and parity of the accumulator (R32, R63, R77, R128 to R161, R293).
-/
namespace Sys2Proof.Machine
open Sys2Proof

/-! ## Issue (R128 to R131, R148, R160) -/

/-- Bound selectors in the body of an instruction. -/
def bodySels (bs : List Byte) : List Nat := match opcodeOf bs with
  | 3 => if bit bs 0x0C 0 then [le bs 0x0D 1] else []
  | 12 => [le bs 0x0B 1]
  | _ => []

/-- The bound register that a selector names (R138). -/
def selReg (sel : Nat) : Option Nat := if sel / 64 = 1 then some (sel % 16) else none

/-- Bound registers that an instruction names, read or written (R130). -/
def namedRegs (s : State) (sc : SlotCtx) (bs : List Byte) : List Nat :=
  let ds := (descFields bs).filterMap (descAt s sc.part sc.ctx)
  ((ds.map (fun d => [le d 0x1E 1, le d 0x1F 1, le d 0x26 1])).flatten ++ bodySels bs).filterMap selReg
    ++ (if opcodeOf bs = 12 ∧ (le bs 0x0C 1).testBit 7 then [le bs 0x0C 1 % 16] else [])
    ++ (if opcodeOf bs = 13 ∧ le bs 4 1 % 4 = 2 then rangeFrom (le bs 6 1 % 16) (le bs 7 1) else [])

/-- The issue of an instruction prepared by its opcode; a reserved opcode has nothing to prepare (R132, R161). -/
def buildOf (s : State) (l : Nat) (sc : SlotCtx) (bs : List Byte) : Built := match opcodeOf bs with
  | 1 => buildMma s l sc bs
  | 2 => buildXpnd s l sc bs
  | 3 => buildAttn s l sc bs
  | 4 => buildEwise s l sc bs
  | 5 => buildPool s l sc bs
  | 6 => buildArgmax s l sc bs
  | 7 => buildStat s l sc bs
  | 8 => if bit bs 4 0 then buildScaleTable l sc bs else buildScaleEntries l sc bs
  | 9 => buildFill s l sc bs
  | 10 => buildScopy s l sc bs
  | 11 => buildDma s sc bs
  | 12 => buildKvapp s l sc bs
  | 13 => buildSync s sc bs
  | _ => ⟨[(fOpcode, 0)], bareFlight sc.ip bs, 0, none⟩

/-- The ranges for which an instruction is held itself: those of a DMA with ASYNC too, which hold no later instruction (R130, R157). -/
def holdRanges (s : State) (sc : SlotCtx) (bs : List Byte) (f : InFlight) : List (Nat × Nat) × List (Nat × Nat) :=
  if opcodeOf bs = 11 ∧ bit bs 0x04 0 = true ∧ f.ext = .dma then chainRanges s sc.part sc.ctx (chainBase bs sc.rank) (le bs 0x0E 2)
  else (f.reads, f.writes)

/-- A BARRIER, a bound register still to be written, or an overlap of byte ranges holds the instruction until those before it
complete (R130, R131). -/
def mustHold (s : State) (sc : SlotCtx) (bs : List Byte) (b : Built) : Bool :=
  let r := holdRanges s sc bs b.fl
  (barrierOf bs && !sc.flight.isEmpty)
    || sc.flight.any (fun f => (namedRegs s sc bs).any (fun r => f.bregs.contains r)
      || rangesMeet r.1 f.writes || rangesMeet r.2 (f.reads ++ f.writes))

/-- The work drawers of an instruction, as ranges of the scratchpad (R221). -/
def workRanges (l : Nat) (f : InFlight) : List (Nat × Nat) := f.work.map (fun d => (spadOf l + 0x1000 * d, 0x1000))

/-- Whether an instruction finds what it takes at issue: the pins of a KVAPP, and of an ATTN its pins, its work drawers, in banks that are not gated,
and two landing drawers beside them (R212, R221, R239, R240). -/
def issueRoom (s : State) (l k : Nat) (sc : SlotCtx) (f : InFlight) : Bool :=
  if opcodeOf f.bytes = 12 then f.pages.all (canPin s) else
  if opcodeOf f.bytes ≠ 3 ∨ f.len = 0 then true else
  let nd := ((opnd f 0).map Opnd.cols).getD 0 / 32
  decide (f.work.length = nd + 1) && decide (usedDrawers s l k + nd + 1 ≤ sc.stageLen - 2) && f.pages.all (canPin s) && rangesOn s (workRanges l f)

/-- The newest instruction of a slot is granted the `n` lowest FREE accumulator slots (R148). -/
def giveSlots (s : State) (l k n : Nat) : State := match slotOf s l k with
  | none => s
  | some c => setSlot s l k { c with
      flight := (rangeFrom 0 c.flight.length).filterMap (fun i =>
        (c.flight[i]?).map (fun f => if i + 1 = c.flight.length then { f with granted := (freeAcc s l).take n } else f)) }

/-- Grant accumulator slots to the newest instruction, or let it wait in order of request (R148). -/
def askSlots (s : State) (l k n : Nat) : State := match slotOf s l k with
  | none => s
  | some _ =>
    if n = 0 then s else
    let co := coreOf s l
    if (grantHead s l).isNone ∧ n ≤ (freeAcc s l).length then giveSlots s l k n
    else beginWait (setCore s l { co with grantQ := co.grantQ ++ [(k, n)] }) l k (.slots n)

/-- The bound registers after a BLOAD (R158). -/
def loadBounds (s : State) (p n : Nat) (bs : List Byte) (b : List Word) : List Word :=
  (rangeFrom 0 (le bs 7 1)).foldl (fun b i =>
    setNth b (le bs 6 1 % 16 + i) (BitVec.ofNat 32 (leVal (ctxRead s p n (le bs 0x0C 6 + 4 * i) 4)))) b

/-- The first `n` pieces of at most 4 KiB of a range. -/
def firstPieces (r : Nat × Nat) (n : Nat) : List (Nat × Nat) :=
  (rangeFrom 0 n).filterMap (fun i => if 0x1000 * i < r.2 then some (r.1 + 0x1000 * i, min 0x1000 (r.2 - 0x1000 * i)) else none)

/-- A slot has fetched a piece already, or is fetching it. -/
def pieceHeld (s : State) (l k : Nat) (r : Nat × Nat) : Bool :=
  (coreOf s l).drawers.any (fun e => decide (e.2.cs = k) && decide (e.2.src = some r))

/-- The Trestle asks its Dresser for a landing drawer for one piece of a CONST operand, if it can have one at once (R153, R194). -/
def prefetchPiece (l k : Nat) (c : SlotCtx) (s : State) (r : Nat × Nat) : State :=
  let q : CreditReq := ⟨c.part, c.ctx, l, some k, 0, r.2, some r.1, true⟩
  if ¬ pieceHeld s l k r ∧ checkAcc s c.part false r.1 r.2 = .ok ∧ wellAsked s l q = true ∧ grantable s l q = true
      ∧ (coreOf s l).waitQ.any (sameKind q) = false then grantCredit s l q
  else s

/-- As an instruction issues, the Trestle starts to fetch the first blocks of the CONST operands of the instructions decoded ahead, as far as the credits
of its Dresser allow (R153); further pieces are asked for by CREDIT_REQUEST as drawers are freed. -/
def startPrefetch (s : State) (l k : Nat) : State := match slotOf s l k with
  | none => s
  | some c => ((constAhead s l c).map (fun x => firstPieces x.2.2.2 4)).flatten.foldl (prefetchPiece l k c) s

/-- What an instruction does at once when it issues, beside its work (R84, R158, R221, R236, R239). -/
def issueEffect (s : State) (l k : Nat) (sc : SlotCtx) (f : InFlight) : State :=
  let bs := f.bytes
  let p := sc.part
  match opcodeOf bs with
  | 2 =>
    if f.ext = .footstool then
      (let c := l / 16
       let cl := clOf s c
       beginWait (setCl s c { cl with queue := cl.queue ++ [fsRequest s l k sc f] }) l k .footstool)
    else s
  | 3 =>
    let co := coreOf s l
    f.pages.foldl pin (touchRanges (setCore s l { co with drawers := f.work.foldl (fun d x => tset d x ⟨.full, k, none, none⟩) co.drawers }) true (workRanges l f))
  | 12 =>
    if sc.rank = 0 then startAppend s sc f
    else match flightIdx s l k f.ip .kvapp with
      | none => s
      | some i => match appendOf s p sc.ctx f.ip with
        | none => s
        | some a => if a.newLen.isSome then tellRank s l k i else s
  | 13 => match le bs 4 1 % 4 with
    | 0 =>
      let tok := le bs 5 1 % 64
      let v := BitVec.ofNat 32 (le bs 8 4)
      if tokOpen s sc sc.flight tok v then s else beginWait s l k (.token tok v)
    | 1 => signal s p (le bs 5 1 % 64) (BitVec.ofNat 32 (le bs 8 4))
    | _ => match slotOf s l k with
      | none => s
      | some c => setSlot s l k { c with bounds := loadBounds s p sc.ctx bs c.bounds }
  | _ => s

/-- What happens as an instruction issues: what it does at once, and the prefetches that begin (R153). -/
def issueActs (s : State) (l k : Nat) (sc : SlotCtx) (f : InFlight) : State := startPrefetch (issueEffect s l k sc f) l k

/-- The partial of a rank's share: a core of a DYN instruction leaves its counts to the counters (R117). -/
def partialOf (f : InFlight) : Stats := match f.mma with
  | none => f.stats
  | some m => if m.dyn.isSome then { f.stats with sat := 0, nan := 0 } else f.stats

/-- What a rank does with its partial as it completes an instruction (R117, R118): rank 0, which holds all the others, writes the record; any other
rank sends it to rank 0, and keeps S_o for its own later instructions until the record is written (R121). -/
def sendStats (s : State) (sc : SlotCtx) (f : InFlight) : State := match f.out with
  | none => s
  | some o =>
    let p := sc.part
    let n := sc.ctx
    let c := ctxOf s p n
    if sc.rank ≠ 0 then
      setCtx s p n { c with
        transit := c.transit ++ [⟨sc.rank, f.ip, partialOf f⟩],
        soPend := c.soPend.filter (fun x => !(decide (x.rank = sc.rank) && decide (x.ip = f.ip))) ++ [⟨sc.rank, f.ip, o.addr, o.so⟩] }
    else
      let r := (c.recs.find? (fun r => decide (r.ip = f.ip))).getD ⟨f.ip, none, Stats.none, [], 0, 0⟩
      let s1 := writeRecord s o (statsJoin r.stats (partialOf f))
      setCtx s1 p n { ctxOf s1 p n with
        recs := c.recs.filter (fun x => decide (x.ip ≠ f.ip)), soPend := c.soPend.filter (fun x => decide (x.ip ≠ f.ip)) }

/-- Landing drawers held as work drawers return to the pool. -/
def freeWork (s : State) (l : Nat) (f : InFlight) : State :=
  let c := coreOf s l
  setCore s l { c with drawers := f.work.foldl tdel c.drawers }

/-- The instruction that completes next: the oldest that is done; one with END waits for those before it, since the stream ends with it
(R128, R131). -/
def nextDone (s : State) (l : Nat) (sc : SlotCtx) : Option Nat :=
  firstFlight sc (fun i f => flightDone s l sc f && (decide (i = 0) || !endOf f.bytes))

/-- The operand stages of a slot hold nothing of an instruction any more. -/
def dropStages (s : State) (l k ip : Nat) : State :=
  let c := coreOf s l
  setCore s l { c with stages := c.stages.filter (fun e => !(decide (e.2.cs = k) && decide (e.2.ip = ip))) }

/-- An instruction of a slot completes (R131): statistics, DONE, END; the core gives the ring again (R77). -/
def complete (s : State) (l k : Nat) : State := match slotOf s l k with
  | none => s
  | some sc => match (nextDone s l sc).bind (fun i => (sc.flight[i]?).map (fun f => (i, f))) with
    | none => s
    | some (i, f) =>
      if ¬ aliveOn s sc.part sc.ctx l ∨ sc.released ∨ sc.hit then s else
      let idle := decide (opcodeOf f.bytes = 11) && bit f.bytes 4 0 && !(bit f.bytes 4 1 && decide (verOf f.bytes = 2) && decide (sc.rank ≠ 0))
      let s1 := if doneOf f.bytes && !idle then signal s sc.part (doneTokOf f.bytes) 1 else s
      let s2 := f.pages.foldl unpin (freeWork s1 l f)
      let s3 := sendStats s2 sc f
      let s4 := setSlot (dropStages s3 l k f.ip) l k { sc with flight := sc.flight.eraseIdx i, ended := sc.ended || endOf f.bytes }
      let s5 := if endOf f.bytes then
          (let c := ctxOf s4 sc.part sc.ctx
           setCtx s4 sc.part sc.ctx { c with ended := c.ended ++ [sc.rank], endAt := s.clk.tb })
        else s4
      settle (dropRing s5 l k) l k

/-- The instruction that completes next is a SYNC. -/
def syncNext (s : State) (l k : Nat) : Bool := match slotOf s l k with
  | none => false
  | some c => match (nextDone s l c).bind (fun i => c.flight[i]?) with | none => false | some f => decide (opcodeOf f.bytes = 13)

/-- A SYNC completes as soon as it is done. -/
def finishSync (s : State) (l k : Nat) : State := if syncNext s l k then complete s l k else s

/-- The exchange counter of a slot is cleared as an instruction issues (R192). -/
def clearHalo (s : State) (l k : Nat) : State :=
  let c := coreOf s l
  setCore s l { c with halo := tdel c.halo k }

/-- Issue a prepared instruction: the failed checks fault the context before anything is done (R160). -/
def issueBuilt (s : State) (l k : Nat) (sc : SlotCtx) (b : Built) : State :=
  if ¬ b.errs.isEmpty then raiseErrs (takePrefetch s l k sc.ip [] true) sc.part sc.ctx l b.errs else
  if ¬ issueRoom s l k sc b.fl then touchRanges (if sc.wait = .room then s else beginWait s l k .room) true ((workRanges l b.fl).filter (fun r => !rangesOn s [r])) else
  let c := ctxOf s sc.part sc.ctx
  let s0 := takePrefetch (clearHalo (if c.issued then s else setCtx s sc.part sc.ctx { c with issued := true, jobStart := s.clk.tb }) l k)
    l k sc.ip b.fl.reads false
  let s1 := setSlot s0 l k { chargeWait s (slotNow s) sc with
    wait := .none, ip := sc.ip + 64, prev := b.prev, flight := sc.flight ++ [b.fl] }
  settle (finishSync (askSlots (issueActs s1 l k sc b.fl) l k b.slots) l k) l k

/-- The instruction buffer of a slot filled with the burst of 16 instructions from `ip` on: those that the fences let the Trestle read (R129,
R255). -/
def burstAt (s : State) (p n ip : Nat) : Tab (List Byte) :=
  ((rangeFrom 0 16).filter (fun i => decide (checkAcc s p false (ip + 64 * i) 64 = .ok))).map (fun i => (ip + 64 * i, ctxRead s p n (ip + 64 * i) 64))

/-- A slot whose buffer holds its next instruction: fetched in a burst if it does not (R129). -/
def fetchInstr (s : State) (sc : SlotCtx) : SlotCtx :=
  if (tget? sc.ibuf sc.ip).isSome then sc else { sc with ibuf := burstAt s sc.part sc.ctx sc.ip }

/-- The next instruction of a slot issues, if it may and is of the kind asked for; a reserved opcode faults whatever is
asked for. -/
def issue (s0 : State) (l k : Nat) (want : List Byte → Bool) (held : Bool) : State := match slotOf s0 l k with
  | none => s0
  | some sc0 =>
    if ¬ mayIssue s0 l sc0 held then s0 else
    let sc := fetchInstr s0 sc0
    let s := setSlot s0 l k sc
    match tget? sc.ibuf sc.ip with
    | some bs =>
      if ¬ want bs ∧ 1 ≤ opcodeOf bs ∧ opcodeOf bs ≤ 13 then s else
      let b := buildOf s l sc bs
      if mustHold s sc bs b then (if held then s else beginWait s l k .hold) else issueBuilt s l k sc b
    | none => raiseAcc s sc.part sc.ctx l (checkAcc s sc.part false sc.ip 64)

/-- An instruction of an opcode. -/
def isOp (op : Nat) (bs : List Byte) : Bool := decide (opcodeOf bs = op)
/-- A SYNC of an operation, or of the reserved one. -/
def isSync (op : Nat) (bs : List Byte) : Bool := decide (opcodeOf bs = 13) && (decide (le bs 4 1 % 4 = op) || decide (le bs 4 1 % 4 = 3))

/-- ISSUE_MMA. -/
def execIssueMma (t : Time) (l : Fin 256) (k : Fin 8) (s : State) : Res := .next (issue (advance s t) l k (isOp 1) false)
/-- ISSUE_XPND. -/
def execIssueXpnd (t : Time) (l : Fin 256) (k : Fin 8) (s : State) : Res := .next (issue (advance s t) l k (isOp 2) false)
/-- ISSUE_ATTN. -/
def execIssueAttn (t : Time) (l : Fin 256) (k : Fin 8) (s : State) : Res := .next (issue (advance s t) l k (isOp 3) false)
/-- ISSUE_EWISE. -/
def execIssueEwise (t : Time) (l : Fin 256) (k : Fin 8) (s : State) : Res := .next (issue (advance s t) l k (isOp 4) false)
/-- ISSUE_POOL. -/
def execIssuePool (t : Time) (l : Fin 256) (k : Fin 8) (s : State) : Res := .next (issue (advance s t) l k (isOp 5) false)
/-- ISSUE_ARGMAXC. -/
def execIssueArgmaxc (t : Time) (l : Fin 256) (k : Fin 8) (s : State) : Res := .next (issue (advance s t) l k (isOp 6) false)
/-- ISSUE_STAT. -/
def execIssueStat (t : Time) (l : Fin 256) (k : Fin 8) (s : State) : Res := .next (issue (advance s t) l k (isOp 7) false)
/-- ISSUE_SCALE_ENTRIES. -/
def execIssueScaleEntries (t : Time) (l : Fin 256) (k : Fin 8) (s : State) : Res :=
  .next (issue (advance s t) l k (fun b => isOp 8 b && !bit b 4 0) false)
/-- ISSUE_SCALE_TABLE. -/
def execIssueScaleTable (t : Time) (l : Fin 256) (k : Fin 8) (s : State) : Res :=
  .next (issue (advance s t) l k (fun b => isOp 8 b && bit b 4 0) false)
/-- ISSUE_FILL. -/
def execIssueFill (t : Time) (l : Fin 256) (k : Fin 8) (s : State) : Res := .next (issue (advance s t) l k (isOp 9) false)
/-- ISSUE_SCOPY. -/
def execIssueScopy (t : Time) (l : Fin 256) (k : Fin 8) (s : State) : Res := .next (issue (advance s t) l k (isOp 10) false)
/-- ISSUE_DMA. -/
def execIssueDma (t : Time) (l : Fin 256) (k : Fin 8) (s : State) : Res := .next (issue (advance s t) l k (isOp 11) false)
/-- ISSUE_KVAPP. -/
def execIssueKvapp (t : Time) (l : Fin 256) (k : Fin 8) (s : State) : Res := .next (issue (advance s t) l k (isOp 12) false)
/-- SYNC_WAIT. -/
def execSyncWait (t : Time) (l : Fin 256) (k : Fin 8) (s : State) : Res := .next (issue (advance s t) l k (isSync 0) false)
/-- SYNC_SIGNAL. -/
def execSyncSignal (t : Time) (l : Fin 256) (k : Fin 8) (s : State) : Res := .next (issue (advance s t) l k (isSync 1) false)
/-- SYNC_BLOAD. -/
def execSyncBload (t : Time) (l : Fin 256) (k : Fin 8) (s : State) : Res := .next (issue (advance s t) l k (isSync 2) false)

/-- A waiting context is released once its token has reached VALUE (R158), in deterministic mode with the instructions before it out of steps (log entry
69). -/
def syncRelease (s : State) (l k : Nat) : State := match slotOf s l k with
  | none => s
  | some c => match c.wait with
    | .token tok v => if tokOpen s c c.flight.dropLast tok v && aliveOn s c.part c.ctx l && !c.hit then settle (finishSync (endWait s l k) l k) l k else s
    | _ => s

/-- SYNC_WAIT_RELEASE. -/
def execSyncWaitRelease (t : Time) (l : Fin 256) (k : Fin 8) (s : State) : Res := .next (syncRelease (advance s t) l k)

/-- A grant is made in order of request, once enough slots are FREE: to an MMA or an ATTN that waits for it, or to a context that acquires its
released grant again and has its slots refilled (R148, R152). -/
def slotGrant (s : State) (l k : Nat) : State :=
  match grantHead s l, slotOf s l k with
  | some (k', n), some c =>
    let co := coreOf s l
    let s1 := setCore s l { co with grantQ := co.grantQ.erase (k', n) }
    if k' ≠ k then s
    else if n = 0 then
      (match refillSlots s1 l k with
      | none => s
      | some s2 => settle (if c.wait = .slots 0 then endWait s2 l k else s2) l k)
    else if (freeAcc s l).length < n then s
    else settle (giveSlots (endWait s1 l k) l k n) l k
  | _, _ => s

/-- ACC_SLOT_GRANT. -/
def execAccSlotGrant (t : Time) (l : Fin 256) (k : Fin 8) (s : State) : Res := .next (slotGrant (advance s t) l k)

/-- INSTRUCTION_HOLD_RELEASE: the held instruction issues once those before it have completed. -/
def execInstructionHoldRelease (t : Time) (l : Fin 256) (k : Fin 8) (s : State) : Res :=
  .next (issue (advance s t) l k (fun _ => true) true)

/-- INSTRUCTION_COMPLETE. -/
def execInstructionComplete (t : Time) (l : Fin 256) (k : Fin 8) (s : State) : Res :=
  .next (finishSync (complete (advance s t) l k) l k)

/-- DRAIN_COMPLETE: the last row of a slot has been acknowledged (R62). -/
def execDrainComplete (t : Time) (l : Fin 256) (a : Fin 32) (s0 : State) : Res :=
  let s := advance s0 t
  .next (settle (drainAck s l a) l (accOf s l a).cs)

/-! ## Statistics at rank 0 (R117, R118) -/

/-- The partial of a rank joins what rank 0 holds for its instruction. -/
def joinPartial (p n : Nat) (s : State) (x : Partial) : State :=
  setCtx s p n (modRec (ctxOf s p n) x.ip (fun r => { r with stats := statsJoin r.stats x.stats, ranks := r.ranks ++ [x.rank] }))

/-- A flit of a partial can land at rank 0: its Dresser can grant a landing credit for it now, which the flit gives back (log entry 18). -/
def flitLands (s : State) (l0 k0 p n writer : Nat) : Bool :=
  grantable s l0 ⟨p, n, writer, some k0, 0, 64, none, false⟩ && !(coreOf s l0).waitQ.any (fun q => q.landing.isSome)

/-- The first partial under way from a rank arrives at rank 0. -/
def partialArrive (s : State) (p n rank : Nat) : State :=
  let c := ctxOf s p n
  match c.transit.find? (fun x => decide (x.rank = rank)), c.cores.head? with
  | some x, some l0 => match slotFor s l0 p n with
    | none => s
    | some k0 =>
      if flitLands s l0 k0 p n (nth l0 c.cores rank) then
        settle (joinPartial p n (setCtx s p n { c with transit := c.transit.erase x }) x) l0 k0
      else s
  | _, _ => s

/-- STATS_PARTIAL_ARRIVE. -/
def execStatsPartialArrive (t : Time) (p : Fin 16) (n : Fin 64) (rank : Fin 256) (s : State) : Res := .next (partialArrive (advance s t) p n rank)

/-! ## A turn of the ring (R32, R63, R77, R293) -/

/-- ACC_PARITY. -/
def fAccParity : Nat := 0x0402

/-- Passes that a slot's sum holds, and whether it is finished (R63, R144). -/
def passesHeld (m : Mma) (acc : AccSlot) : Nat × Bool :=
  if acc.fin then (m.passes, true) else
  match m.cur with
  | some c => if c.tile = acc.tile then (m.pass + 1, c.last) else
    ((if (rangeFrom 0 m.pos).any (fun i => decide (serpent m m.pass i = acc.tile)) then m.pass + 1 else m.pass), false)
  | none => ((if (rangeFrom 0 m.pos).any (fun i => decide (serpent m m.pass i = acc.tile)) then m.pass + 1 else m.pass), false)

/-- An MMA whose slot `a` is to be computed again from reduction index 0 (R63): the tile in progress there is dropped, and a tile that waits for
the slot to be spilled begins again afterwards. -/
def redoMma (m : Mma) (a : Nat) (acc : AccSlot) : Mma :=
  let h := passesHeld m acc
  let mine := match m.cur with | none => false | some x => decide (x.slot = a)
  let spilling := match m.cur with | none => false | some x => decide (x.slot = a) && decide (x.spill ≠ 0)
  { m with
    cur := if mine then none else m.cur, pos := if spilling then m.pos - 1 else m.pos,
    drainQ := m.drainQ.filter (fun x => decide (x ≠ a)), spilled := m.spilled.filter (fun x => decide (x ≠ acc.tile)),
    redo := m.redo ++ [(a, h.1, h.2)] }

/-- An ATTN whose block is to be computed again: the steps of its unit run anew (R63). -/
def redoUnit (f : InFlight) : InFlight := match f.units with
  | [] => f
  | u :: r => { f with units := { u with left := u.all } :: r }

/-- Recompute the tile of a slot from reduction index 0 (R63). -/
def redoTile (s : State) (l k a : Nat) : State := match slotOf s l k with
  | none => s
  | some c =>
    let acc := accOf s l a
    let mma := c.flight.any (fun f => decide (f.ip = acc.ip) && f.mma.isSome)
    let s1 := setAcc s l a (if mma then { acc with words := [], row := 0, st := .live, fin := false } else { acc with words := [] })
    setSlot (bump s1 (tcOff l + 0x14)) l k { c with flight := c.flight.map (fun f =>
      if f.ip ≠ acc.ip then f else match f.mma with
        | none => redoUnit f
        | some m => { f with mma := some (redoMma m a acc) }) }

/-- A slot whose words the array or the drain can still read: it is not FREE, its rows have not all been sent, and it does not wait to be
recomputed. -/
def readable (s : State) (l a : Nat) : Bool :=
  let acc := accOf s l a
  decide (acc.st ≠ .free) && decide (acc.row < 32) && (match slotOf s l acc.cs with
    | none => true
    | some c => !c.flight.any (fun f => decide (f.ip = acc.ip) && (match f.mma with | none => false | some m => m.redo.any (fun r => decide (r.1 = a)))))

/-- A parity error at word `w` of accumulator slot `a`, met by the array or the drain (R63); `held` says that every operand
of the tile is still in the scratchpad. -/
def accParity (s0 : State) (l a w : Nat) (held : Bool) : State :=
  let acc := accOf s0 l a
  if readable s0 l a = false ∨ 32 ≤ a ∨ 1024 ≤ w then s0 else
  let s := bump s0 (tcOff l + 0x10)
  let pk := physKey s l
  let ph := physOf s pk
  if ph.accErr.contains (1024 * a + w) then coreRetire s l else
  let s1 := setPhys s pk { ph with accErr := (1024 * a + w) :: ph.accErr }
  match slotOf s1 l acc.cs with
  | none => s1
  | some c => if c.det ∨ ¬ held then raise s1 c.part c.ctx l fAccParity else settle (redoTile s1 l acc.cs a) l acc.cs

/-- Settle every slot of a core. -/
def settleAll (s : State) (l : Nat) : State := (coreOf s l).slots.foldl (fun s e => settle s l e.1) s

/-- Contexts that neither wait nor turn the ring count nothing. -/
def idleSince (s : State) (l : Nat) : State :=
  let c := coreOf s l
  setCore s l { c with slots := c.slots.map (fun e => (e.1, if e.2.wait = .none then { e.2 with since := s.clk.tb } else e.2)) }

/-- The step count that stops a slot (R293, R299). -/
def brkHit (s : State) (l k steps : Nat) : Bool :=
  flag s (tcOff l + 0x88) 0 && decide (fld s (tcOff l + 0x88) 8 3 = k) && decide (val64 s (tcOff l + 0x80) (tcOff l + 0x84) = steps)

/-- The token waits of a context's ranks counted up to now: what the step break holds begins or ends here (R293). -/
def chargeTokens (s : State) (p n : Nat) : State :=
  { s with tc := s.tc.map (fun e => (e.1, { e.2 with slots := e.2.slots.map (fun k => (k.1,
      if k.2.part = p ∧ k.2.ctx = n then (match k.2.wait with | .token _ _ => chargeWait s (slotNow s) k.2 | _ => k.2) else k.2)) })) }

/-- A rank is stopped by the step break; the job is held from the first rank stopped to the last that goes on (R293). -/
def stopHit (s : State) (l k : Nat) (c : SlotCtx) : State :=
  let x := ctxOf s c.part c.ctx
  let s1 := if anyHit s c.part c.ctx then s else setCtx (chargeTokens s c.part c.ctx) c.part c.ctx { x with brkFrom := s.clk.tb }
  dropRing (setSlot s1 l k { c with hit := true }) l k

/-- A rank stopped by the step break goes on. -/
def clearHit (s : State) (l k : Nat) (c : SlotCtx) : State :=
  let s1 := setSlot (chargeTokens s c.part c.ctx) l k { c with hit := false, since := s.clk.tb }
  let x := ctxOf s1 c.part c.ctx
  if anyHit s1 c.part c.ctx then s1 else setCtx s1 c.part c.ctx { x with brkNs := x.brkNs + (s.clk.tb - x.brkFrom) }

/-- Count a turn of slot `k` (R32, R269), and stop at the step break. -/
def countTurn (s : State) (l k : Nat) : State := match slotOf s l k with
  | none => s
  | some c =>
    let n := (c.steps + 1) % 2 ^ 64
    let h := heldNs s l c
    let s1 := idleSince (setSlot s l k { c with
      steps := n, runNs := c.runNs + (s.clk.tb - c.since - h), stall := (c.stall + h) % 2 ^ 64, stallC := c.stallC + h, since := s.clk.tb }) l
    if ¬ brkHit s1 l k n ∨ ¬ aliveOn s1 c.part c.ctx l then s1 else
    let s2 := saveSlots s1 l k
    if ¬ aliveOn s2 c.part c.ctx l then s2 else
    match slotOf s2 l k with
    | none => s2
    | some c2 => stopHit s2 l k c2

/-- A golden run takes the steps of a core: they are steps of no context (R415). -/
def goldRuns (s : State) (l : Nat) : Bool := (tget Gold.reset s.hut.gold l).run.isSome

/-- One turn of the ring of a core (R32): nothing happens where no context can turn it, a hold has stopped it (R442) or a golden run takes it (R415). -/
def coreStep (s0 : State) (l : Nat) (par : Option (Nat × Nat × Bool)) : State :=
  if ¬ coreRuns s0 l ∨ coreHeldB s0 l ∨ goldRuns s0 l then s0 else
  let s := settleAll s0 l
  match ringOf s l with
  | none => setCore s l { coreOf s l with ring := none }
  | some k =>
    let s1 := match par with | none => s | some (a, w, h) => accParity s l a w h
    let s2 := setCore s1 l { coreOf s1 l with ring := some k }
    if ¬ coreRuns s2 l ∨ ¬ canTurn s2 l k then s2 else countTurn (settle (turnOps s2 l k) l k) l k

/-- CORE_STEP: `par` is a parity error met in the step: accumulator slot, word, operands still held. -/
def execCoreStep (t : Time) (l : Fin 256) (par : Option (Nat × Nat × Bool)) (s : State) : Res := .next (coreStep (advance s t) l par)

/-! ## Quiesce (R94) -/

/-- TC_QUIESCE: a write of QUIESCE. -/
def execTcQuiesce (t : Time) (ag : Agent) (l : Fin 256) (q : Bool) (s : State) : Res :=
  .next (onWrite (advance s t) ag (tcOff l + 0xC) (fun s => setFlag s (tcOff l + 0x0C) 0 q))

end Sys2Proof.Machine
end

