-- ==== Sys2Proof/Machine/Sched.lean ====
section
/-!
DEFINITION. Machine/Sched.lean: unbinding and teardown, job ends, the commit of the scheduler's group, admission, binding
and displacement, slot boundaries (R253 to R272, R277, R291, R295).
-/
namespace Sys2Proof.Machine
open Sys2Proof

/-! ## Leaving a core (R186, R189, R270) -/

/-- The requests that core `l` has waiting at every Dresser for a context. -/
def dropAsks (s : State) (l p n : Nat) : State :=
  { s with tc := s.tc.map (fun e => (e.1, { e.2 with
      waitQ := e.2.waitQ.filter (fun r => !(decide (r.writer = l) && decide (r.part = p) && decide (r.ctx = n))) })) }

/-- A context leaves a slot of a core: accumulator slots, operand stages, grants, waiting requests and claims, landing drawers (R186, R189); what it
has promised other cores is cancelled (R193). -/
def leaveSlot (s0 : State) (l k : Nat) : State := match slotOf s0 l k with
  | none => s0
  | some sc =>
    let s := dropAsks (cancelPromises s0 l sc.part sc.ctx) l sc.part sc.ctx
    let c := coreOf s l
    let s1 := setCore s l { c with
      slots := tdel c.slots k, ring := if c.ring = some k then none else c.ring,
      acc := c.acc.filter (fun e => !(decide (e.2.st ≠ .free) && decide (e.2.cs = k))),
      stages := c.stages.filter (fun e => decide (e.2.cs ≠ k)),
      grantQ := c.grantQ.filter (fun e => decide (e.1 ≠ k)), drawers := leaveDrawers (fun d => decide (d.cs = k)) c.drawers,
      credits := c.credits.map (fun x => if x.req.landing = some k then { x with req := { x.req with landing := some noSlot } } else x),
      waitQ := c.waitQ.filter (fun r => decide (r.landing ≠ some k)),
      halo := tdel c.halo k }
    { s1 with wctr := s1.wctr.map (fun e => (e.1, { e.2 with waiting := e.2.waiting.filter (fun h => !(decide (h.1 = l) && decide (h.2.1 = k))) })) }

/-- The spill entries that a torn-down rank's instructions have used hold free values (R152); those that `keep` names are left as they are. -/
def spillLost (keep : Nat → Bool) (p : Nat) (s : State) (c : SlotCtx) : State :=
  (c.flight.filterMap InFlight.mma).foldl (fun s m => m.spillUsed.foldl (fun s i =>
    let a := m.spillBase + 0x1000 * i
    if keep a = false ∧ checkAcc s p true a 0x1000 = .ok then freeBytes s a 0x1000 else s) s) s

/-- No spill entry is kept. -/
def keepNone (_ : Nat) : Bool := false

/-- A context leaves a slot for good: its spill entries are lost, but for those that `keep` names, and its pins are released too. -/
def dropSlotBut (keep : Nat → Bool) (s : State) (l k : Nat) : State := match slotOf s l k with
  | none => s
  | some sc => (sc.flight.map InFlight.pages).flatten.foldl unpin (leaveSlot (spillLost keep sc.part s sc) l k)

/-- A context leaves a slot for good: its spill entries are lost and its pins are released too. -/
def dropSlot (s : State) (l k : Nat) : State := dropSlotBut keepNone s l k

/-- A copy in progress of a context is completed, and its append ends (R240, R270). -/
def endAppend (p n : Nat) (s : State) (a : Append) : State :=
  if a.part ≠ p ∨ a.ctx ≠ n then s else
  let s1 := if a.copy.isSome then copyDone s p n a.ip else s
  { s1 with kv := { s1.kv with appends := s1.kv.appends.filter (fun b => !(decide (b.part = p) && decide (b.ctx = n) && decide (b.ip = a.ip))) } }

/-- Waiting requests of a context at every Dresser. -/
def dropRequests (s : State) (p n : Nat) : State :=
  { s with tc := s.tc.map (fun e => (e.1, { e.2 with waitQ := e.2.waitQ.filter (fun r => !(decide (r.part = p) && decide (r.ctx = n))) })) }

/-- Tear a context down on every core, steps 1 to 5 of R270.  The rest of its output, which R160 calls undefined, keeps the bytes that memory
holds: the model's choice (log entry 62). -/
def teardown (s : State) (p n : Nat) : State :=
  let c := ctxOf s p n
  let s0 := (c.susp.map Prod.snd).foldl (spillLost keepNone p) s
  let s1 := s0.kv.appends.foldl (endAppend p n) s0
  let s2 := ((c.susp.map (fun e => (e.2.flight.map InFlight.pages).flatten)).flatten).foldl unpin s1
  let s3 := c.cores.foldl (fun s l => match slotFor s l p n with | none => s | some k => dropSlot s l k) s2
  let s4 := dropRequests (stopChains s3 p n) p n
  let s5 := (s4.wctr.map Prod.fst).foldl (wctrDrop p n) s4
  runBoundaries s5

/-- A context after its teardown or its last job: nothing of the job is left. -/
def ctxEnd (c : Ctx) (st : CtxSt) (code : Nat) : Ctx :=
  { c with
    st := st, fault := if c.cause ≠ 0 then c.cause else if c.fault ≠ 0 then c.fault else code, dying := none, halted := [], stopPend := false, cores := [],
    bound := false, launch := 0, issued := false, ended := [], susp := [], transit := [], recs := [], soPend := [] }

/-- Tear down, and leave the context in a state with a code unless one was recorded (R262, R270). -/
def teardownTo (s : State) (p n : Nat) (st : CtxSt) (code : Nat) : State :=
  let s1 := teardown s p n
  setCtx s1 p n (ctxEnd (ctxOf s1 p n) st code)

/-- CONTEXT_TEARDOWN: the fault raised in a context tears it down; it becomes FAULTED (R270). -/
def execContextTeardown (t : Time) (p : Fin 16) (n : Fin 64) (s0 : State) : Res :=
  let s := advance s0 t
  .next (if (ctxOf s p n).dying.isNone then s else teardownTo s p n .faulted 0)

/-- CORE_RESET_ABORT. -/
def fCoreReset : Nat := 0x0307

/-- Clear the counters that a core reset clears (R96). -/
def clearCoreCounters (s : State) (l : Nat) : State :=
  [0x10, 0x14, 0x18, 0x48, 0x4C, 0x58, 0x5C, 0x60, 0x64, 0x68].foldl (fun s o => wrReg s (tcOff l + o) 0) s

/-- A core reset (R96): spill entries in a scratchpad, whose contents it leaves unchanged, stay as they are. -/
def coreReset (s : State) (l : Nat) : State :=
  let s1 := raiseAll s l fCoreReset
  let s2 := ((coreOf s1 l).slots.map Prod.fst).foldl (fun s k => dropSlotBut (fun a => (spadCore a).isSome) s l k) s1
  let c := coreOf s2 l
  clearCoreCounters (setCore s2 l { c with acc := [], grantQ := [], stages := [], scale := [], tabs := [], resid := [], ring := none }) l

/-- CORE_RESET: a write of CORE_RESET = 1. -/
def execCoreReset (t : Time) (ag : Agent) (l : Fin 256) (s : State) : Res := .next (onWrite (advance s t) ag (tcOff l + 0xC) (fun s => coreReset s l))

/-! ## The end of a job (R117, R118, R262, R266, R267, R269) -/

/-- Job registers of a context (R281). -/
def jobReg (p n o : Nat) : Nat := 0x48000 + 0x800 * (p % 16) + 0x20 * (n % 64) + o
/-- Context registers (R281). -/
def ctxReg (p n o : Nat) : Nat := 0x44000 + 0x400 * (p % 16) + 0x10 * (n % 64) + o

/-- Ranks of a context as its cores hold them. -/
def ranksOf (s : State) (p n : Nat) : List SlotCtx := (ctxOf s p n).cores.filterMap (fun l => rankAt s l p n)

/-- SLOWDOWN of a rank (R269); a rank that ran no time has none that the spec states: a free value. -/
def slowdown (s : State) (c : SlotCtx) : Nat × State :=
  if c.runNs = 0 then (let d := draw s; (d.1.toNat % 2 ^ 16, d.2))
  else (min 0xFFFF (256 * (c.runNs + c.stallC) / c.runNs), s)

/-- The rank with the largest SLOWDOWN, the first of equals. -/
def worstRank : List SlotCtx → State → Option (Nat × SlotCtx) × State
  | [], s => (none, s)
  | c :: r, s =>
    let x := slowdown s c
    match worstRank r x.2 with
    | (none, s1) => (some (x.1, c), s1)
    | (some (m, b), s1) => (if x.1 < m then some (m, b) else some (x.1, c), s1)

/-- A figure of 32 bits. -/
def figure (v : Nat) : Word := BitVec.ofNat 32 v

/-- Write the figures of the job that ended (R269), without the time that the step break held it (R293). -/
def jobFigures (s : State) (p n : Nat) : State :=
  let c := ctxOf s p n
  let rs := ranksOf s p n
  match worstRank rs s with
  | (none, s1) => s1
  | (some (sd, r), s1) =>
    let w := fun s o v => wrReg s (jobReg p n o) (figure v)
    let s2 := bump s1 (jobReg p n 0)
    let s3 := w (w (w (w (w s2 0x04 (min 0xFFFFFFFF (c.endAt - c.jobStart - c.brkNs))) 0x08 r.runNs) 0x0C r.stallC) 0x10 r.tokenNs) 0x14
      ((rs.map SlotCtx.steps).foldl max 0)
    setFld (setFld s3 (jobReg p n 0x18) 0 16 sd) (jobReg p n 0x18) 16 16 (max sd (fld s3 (jobReg p n 0x18) 16 16))

/-- Set the tokens marked in PRIV_TOK to 0 (R266). -/
def clearPriv (s : State) (p n : Nat) : State :=
  let m := le (ctxOf s p n).hdr 0x58 8
  (bitsSet m 64).foldl (fun s i => wrReg s (tokOff p i) 0) s

/-- Program base of a job (R266, R267). -/
def progOf (hdr : List Byte) (alt : Bool) : Nat := if alt && decide (le hdr 0x10 6 ≠ 0) then le hdr 0x10 6 else le hdr 0 6

/-- FLAGS of a descriptor header: AFFINITY and LOOP (R261). -/
def hdrAffinity (hdr : List Byte) : Bool := bit hdr 7 2
/-- LOOP. -/
def hdrLoop (hdr : List Byte) : Bool := bit hdr 7 1
/-- BUF_IN. -/
def hdrBufIn (hdr : List Byte) : Nat := le hdr 0x52 2
/-- BUF_OUT. -/
def hdrBufOut (hdr : List Byte) : Nat := le hdr 0x54 2

/-- A core records the buffer that a job leaves behind; of five the oldest is dropped (R267). -/
def residAdd (s : State) (l : Nat) (r : Resid) : State :=
  let c := coreOf s l
  setCore s l { c with resid := (r :: c.resid).take 4 }

/-- Record the buffer of a job that ended on every rank. -/
def recordBuf (s : State) (p n : Nat) : State :=
  let c := ctxOf s p n
  let b := hdrBufOut c.hdr
  if b = 0 then s else
  (rangeFrom 0 c.cores.length).foldl (fun s g => residAdd s (nth 0 c.cores g) ⟨p, b, g, le c.hdr 0x40 1, le c.hdr 0x42 2 % 512⟩) s

/-- Whether core `l` holds the buffer of rank `g`. -/
def holdsBuf (s : State) (l p b g : Nat) : Bool :=
  (coreOf s l).resid.any (fun r => decide (r.part = p) && decide (r.buf = b) && decide (r.rank = g))

/-- A rank begins its next job: its counts and its position start anew (R32, R266). -/
def rankJob (now : Time) (base : Nat) (c : SlotCtx) : SlotCtx :=
  { c with
    steps := 0, stall := 0, ip := base, base := base, flight := [], prev := none, wait := .none, since := now, ended := false, ibuf := [],
    runNs := 0, stallC := 0, tokenNs := 0 }

/-- A context between two jobs: nothing of the job that ended is left (R269). -/
def betweenJobs (now : Time) (c : Ctx) : Ctx :=
  { c with issued := false, jobStart := 0, ended := [], first := false, waitFrom := now, brkFrom := 0, brkNs := 0 }

/-- The next job of a LOOP context begins on the cores of the one before (R262, R266). -/
def nextJob (s : State) (p n : Nat) : State :=
  let c := ctxOf s p n
  let s1 := c.cores.foldl (fun s l => modRank s l p n (rankJob s.clk.tb (progOf c.hdr false))) s
  clearPriv (setCtx s1 p n (betweenJobs s.clk.tb (ctxOf s1 p n))) p n

/-- A context gives its slots up on every core of its core set. -/
def leaveCores (s : State) (p n : Nat) : State :=
  (ctxOf s p n).cores.foldl (fun s l => match slotFor s l p n with | none => s | some k => dropSlot s l k) s

/-! ## Admission (R253, R255, R261, R262, R291, R295) -/

/-- A byte lies in a DRAM window of the partition with RD and WR at which memory answers (R255). -/
def bothWindows (s : State) (p a : Nat) : Bool :=
  (rangeFrom 0 8).any (fun w => windowHas s p false a w && windowHas s p true a w) && (decide (a < memTop s) || inGen a)

/-- First byte of a structure outside such windows. -/
def firstOutside (s : State) (p a len : Nat) : Option Nat :=
  if len = 0 then none else
  ((rangeFrom (a / 0x10000) ((a + len - 1) / 0x10000 + 1 - a / 0x10000)).map (fun b => max a (b * 0x10000))).find? (fun x => !bothWindows s p x)

/-- The population of the CORES mask. -/
def coresMask (hdr : List Byte) : List Nat := (rangeFrom 0 256).filter (fun l => (le hdr 0x20 32).testBit l)
/-- CORE_COUNT. -/
def coreCount (hdr : List Byte) : Nat := le hdr 0x1E 2
/-- SAVE_BASE. -/
def saveBase (hdr : List Byte) : Nat := le hdr 0x18 6

/-- CTX_DESC_INVALID (R261). -/
def hdrErr (s : State) (p : Nat) (hdr : List Byte) : Errs :=
  errIf (decide (le hdr 6 1 % 16 ≠ 1) || decide (le hdr 0x0E 2 = 0) || decide (4096 < le hdr 0x0E 2)
    || decide (coreCount hdr = 0) || decide (256 < coreCount hdr)
    || (!hdrAffinity hdr && decide ((coresMask hdr).length ≠ coreCount hdr)) || (hdrAffinity hdr && partDet s p)) 0x0302

/-- What lies outside the windows, in the order of R255: descriptor, descriptor table, save area. -/
def admitOutside (s : State) (p a : Nat) (hdr : List Byte) : Option Nat :=
  match firstOutside s p a (128 + 32 * coreCount hdr) with
  | some x => some x
  | none => match firstOutside s p (le hdr 8 6) (64 * le hdr 0x0E 2) with
    | some x => some x
    | none => firstOutside s p (saveBase hdr) (coreCount hdr * 0x4000)

/-- Base of the seed and launch registers (R298). -/
def seedReg (p o : Nat) : Nat := 0x43000 + 0x20 * (p % 16) + o

/-- A committed ADMIT at instant `b` (R253 step 4, R262). -/
def admitCtx (b : Time) (p n : Nat) (s : State) : State :=
  if (ctxOf s p n).st ≠ .free ∨ ¬ partEn s p then s else
  let a := fld s (ctxReg p n 0) 7 25 * 128 + 2 ^ 32 * fld s (ctxReg p n 4) 0 16
  let seed := BitVec.ofNat 64 (val64 s (seedReg p 0) (seedReg p 4))
  let hdr := match firstOutside s p a 128 with | some _ => List.replicate 128 0 | none => seedRead s seed p n a 128
  let s1 := [0, 4, 8, 0xC, 0x10, 0x14, 0x18].foldl (fun s o => wrReg s (jobReg p n o) 0) s
  let bad := match firstOutside s p a 128 with | some x => some x | none => admitOutside s p a hdr
  match bad with
  | some x => setCtx (noteFence s1 p x) p n { Ctx.reset with st := .faulted, fault := fFence, desc := a, hdr := hdr }
  | none =>
    if ¬ (hdrErr s p hdr).isEmpty then setCtx s1 p n { Ctx.reset with st := .faulted, fault := 0x0302, desc := a, hdr := hdr } else
    let t := val64 s (seedReg p 8) (seedReg p 0xC)
    setCtx s1 p n { Ctx.reset with
      st := .admitted, desc := a, hdr := hdr, seed := seed,
      launch := if t ≤ b then 0 else t, waitFrom := b }

/-- CTX_KILLED. -/
def fKilled : Nat := 0x0304

/-- A committed KILL. -/
def kill (p n : Nat) (s : State) : State := if (ctxOf s p n).st = .free then s else teardownTo s p n .free fKilled

/-- A committed STOP lets the current job finish. -/
def stop (p n : Nat) (s : State) : State :=
  let c := ctxOf s p n
  match c.st with
  | .admitted => setCtx s p n { c with stopPend := true }
  | .resident => setCtx s p n { c with stopPend := true }
  | _ => s

/-- CMD of a context as it commits at instant `b`. -/
def cmdOf (s : State) (b : Time) (p n : Nat) : Nat := match stagedAt s b (ctxReg p n 8) with | none => 0 | some w => w.toNat % 4

/-- The context commands of a partition: KILL, then STOP, then ADMIT, each in ascending context number (R253). -/
def partCommands (b : Time) (s : State) (p : Nat) : State :=
  let cmds := (rangeFrom 0 64).map (fun n => (n, cmdOf s b p n))
  let of := fun k => (cmds.filter (fun e => decide (e.2 = k))).map Prod.fst
  let s1 := (cmds.filter (fun e => decide (e.2 ≠ 0))).foldl (fun s e => clearStaged s b (ctxReg p e.1 8)) s
  let s2 := (of 3).foldl (fun s n => kill p n s) s1
  let s3 := (of 2).foldl (fun s n => stop p n s) s2
  (of 1).foldl (fun s n => admitCtx b p n s) s3

/-! ## Partition reset (R248, R271) -/

/-- PART_RESET_ABORT. -/
def fPartReset : Nat := 0x0305

/-- Steps 2 to 6 of R271 within this chapter, and STATE (steps 1 and 7).  A POISONED counter stays as it is: only CLEAR ends that state (R200; log entry
78). -/
def partResetCore (s0 : State) (p : Nat) : State :=
  let s := setFld s0 (partOff p) 16 2 2
  let s1 := (rangeFrom 0 64).foldl (fun s n => if (ctxOf s p n).st = .free then s else teardownTo s p n .free fPartReset) s
  let s2 := (s1.kv.seqs.filter (fun e => decide (e.2.part = p))).foldl (fun s e => seqFree s e.1) s1
  let s3 := (s2.wctr.map Prod.fst).foldl (fun s key =>
    if ctrAllowed s p (key / 64) (key % 64) ∧ (wctrOf s key).st ≠ .poisoned then setWctr s key { wctrOf s key with st := .idle, replay := [], held := [], waiting := [], sat := 0, nan := 0 } else s) s2
  let s4 := dropLines s3 p
  let s5 := (rangeFrom 0 64).foldl (fun s i => wrReg s (tokOff p i) 0) s4
  let s6 : State := { s5 with tc := s5.tc.map (fun e => (e.1, { e.2 with resid := e.2.resid.filter (fun r => decide (r.part ≠ p)) })) }
  let s7 := runBoundaries { s6 with kv := { s6.kv with bounds := s6.kv.bounds.filter (fun b => decide (b.part ≠ p)) } }
  if partEn s7 p then resetDone s7 p else setFld s7 (partOff p) 16 2 0

/-! ## The commit of the scheduler's group (R253, R197, R248, R277) -/

/-- A partition register. -/
def isPartReg (off : Nat) : Bool := decide (0x41000 ≤ off) && decide (off < 0x42000)
/-- A seed or launch register. -/
def isSeedReg (off : Nat) : Bool := decide (0x43000 ≤ off) && decide (off < 0x43200)
/-- A WAYS register. -/
def isWaysReg (off : Nat) : Bool := decide (0x60000 ≤ off) && decide (off < 0x68000) && decide (0x40 ≤ off % 0x800) && decide (off % 0x800 < 0x60)
/-- A Wardrobe partition register. -/
def isKvReg (off : Nat) : Bool := decide (0x50100 ≤ off) && decide (off < 0x50500)
/-- A context command. -/
def isCmdReg (off : Nat) : Bool := decide (0x44000 ≤ off) && decide (off < 0x48000) && decide (off % 0x10 = 8)
/-- The SCH group (R471). -/
def isSchReg (off : Nat) : Bool := isPartReg off || isSeedReg off || isWaysReg off || isKvReg off || isCmdReg off

/-- Set a status bit of SCH_STATUS. -/
def schStatus (s : State) (i : Nat) : State := setFlag s 0x40000 i true

/-- A context of the partition is not FREE. -/
def partBusy (s : State) (p : Nat) : Bool := (rangeFrom 0 64).any (fun n => decide ((ctxOf s p n).st ≠ .free))

/-- A model image of the partition is in error: it is not enabled (R465). -/
def modelError (s : State) (p : Nat) : Bool :=
  (rangeFrom 0 32).any (fun i => decide (fld s (0x30100 + 4 * i) 30 2 = 2) && decide (fld s (0x30100 + 4 * i) 16 4 = p))

/-- CLASS and EN of one partition, with CFG_CONFLICT and NO_ECC; `s0` is the state before the commit. -/
def commitCfg (s0 : State) (s : State) (p : Nat) : State :=
  let off := partOff p
  let clash := (decide (partClass s0 p ≠ partClass s p) || (partEn s0 p && !partEn s p)) && partBusy s0 p
  let s1 := if clash then schStatus (setFld (setFlag s off 31 (partEn s0 p)) off 0 2 (partClass s0 p)) 2 else s
  let s2 := if partEn s1 p && ((partDet s1 p && !flag s1 0x400000 0) || modelError s1 p) then setFlag s1 off 31 false else s1
  if fld s2 off 16 2 = 2 then s2 else setFld s2 off 16 2 (if partEn s2 p then 1 else 0)

/-- Bit `l` of the committed core mask of a partition. -/
def maskHas (s : State) (p l : Nat) : Bool := flag s (partOff p + 4 + 4 * (l / 32)) (l % 32)
/-- Clear it. -/
def maskClear (s : State) (p l : Nat) : State := setFlag s (partOff p + 4 + 4 * (l / 32)) (l % 32) false

/-- Contexts of partition `p` that are resident on core `l`, or held there while unbound (R264, R277). -/
def coreHeld (s : State) (p l : Nat) : Bool :=
  (rangeFrom 0 64).any (fun n => let c := ctxOf s p n; decide (c.st ≠ .free) && c.cores.contains l)

/-- The mark of a core that no partition waits for. -/
def noPart : Nat := 17

/-- Give core `l` to `d` (partition + 1, or 0); records of its buffers are dropped when it leaves a partition (R267). -/
def giveCore (s : State) (l d : Nat) : State :=
  let o := tget 0 s.sch.owner l
  let s1 := { s with
    sch := { s.sch with owner := if d = 0 then tdel s.sch.owner l else tset s.sch.owner l d, handover := tdel s.sch.handover l } }
  if o = 0 ∨ o = d then s1 else
  let c := coreOf s1 l
  setCore s1 l { c with resid := [] }

/-- The partition that a core is passing to, while that partition still stages it: until it has passed, the core does not count as staged there (R253,
R277). -/
def passingTo (s : State) (l : Nat) (want : List Nat) : Option Nat := match tget? s.sch.handover l with
  | some (h + 1) => if want.contains h then some h else none
  | _ => none

/-- Owner of one core after the commit: the lowest enabled partition that stages it, once its old owner holds nothing there
(R253, R277); a core that is passing goes on to the partition that took it, unless its old owner stages it again and keeps it (log entry 63). -/
def commitCore (s : State) (l : Nat) : State :=
  let all := (rangeFrom 0 16).filter (fun p => partEn s p && maskHas s p l)
  let pass := passingTo s l all
  let want := all.filter (fun p => decide (pass ≠ some p))
  let s1 := (want.drop 1).foldl (fun s p => schStatus (maskClear s p l) 3) s
  let keeps := (ownerOf s l).any (fun o => want.head? = some o)
  let d := match pass, want with | some p, [] => p + 1 | some p, w :: _ => if keeps then w + 1 else p + 1 | none, [] => 0 | none, p :: _ => p + 1
  match tget 0 s1.sch.owner l with
  | 0 => if d = 0 then s1 else giveCore s1 l d
  | o + 1 =>
    if d = o + 1 then { s1 with sch := { s1.sch with handover := tdel s1.sch.handover l } }
    else if coreHeld s1 o l then { s1 with sch := { s1.sch with handover := tset s1.sch.handover l (if d = 0 then noPart else d) } }
    else giveCore s1 l d

/-- Shares of the enabled partitions: above 64 every partition keeps those it had (R253). -/
def commitShares (s0 s : State) : State :=
  let en := (rangeFrom 0 16).filter (partEn s)
  let sum := fun lo => (en.map (fun p => fld s (partOff p + 0x24) lo 7)).sum
  if sum 8 ≤ 64 ∧ sum 0 ≤ 64 then s
  else schStatus ((rangeFrom 0 16).foldl (fun s p => wrReg s (partOff p + 0x24) (rd s0 (partOff p + 0x24))) s) 4

/-- Byte range of a window; none while it is disabled or empty. -/
def winRange (s : State) (p w : Nat) : Nat × Nat :=
  let b := partOff p + 0x40 + 8 * w
  if flag s b 31 then (fld s b 0 21 * 0x10000, fld s (b + 4) 0 21 * 0x10000) else (0, 0)
/-- WR of a window. -/
def winWr (s : State) (p w : Nat) : Bool := flag s (partOff p + 0x40 + 8 * w) 29

/-- The Wardrobe's pool and metadata (R229, R230). -/
def kvRanges (s : State) : List (Nat × Nat) :=
  let n := kvPages s
  if n = 0 then [] else [(kvPage s 0, n * 0x4000), (kvHdr s 0, 32 * n + 67633152 + 384 * fld s 0x50014 0 17)]

/-- One window: it commits disabled where it meets the Wardrobe, or both write and meet a lower partition's (R253). -/
def commitWin (s : State) (pw : Nat × Nat) : State :=
  let r := winRange s pw.1 pw.2
  let kv := (kvRanges s).any (meets r)
  let other := winWr s pw.1 pw.2 && (rangeFrom 0 pw.1).any (fun q => partEn s q && (rangeFrom 0 8).any (fun v => winWr s q v && meets r (winRange s q v)))
  if kv || (other && partEn s pw.1) then schStatus (setFlag s (partOff pw.1 + 0x40 + 8 * pw.2) 31 false) 5 else s

/-- Counters of a partition in a slice: first and one past the last. -/
def ctrRange (s : State) (p : Nat) : Nat × Nat :=
  let b := fld s (partOff p + 0x30) 0 6
  (b, min 64 (b + fld s (partOff p + 0x30) 7 7))

/-- Counter ranges of a partition against those of the lower ones. -/
def commitCtr (s : State) (p : Nat) : State :=
  let r := ctrRange s p
  let bad := (rangeFrom 0 p).any (fun q => partEn s q && (let x := ctrRange s q
    decide (max r.1 x.1 < min r.2 x.2)) && (sliceSet s q).any (fun c => (sliceSet s p).contains c))
  if partEn s p && bad then schStatus (setFld s (partOff p + 0x30) 7 7 0) 6 else s

/-- Way masks of a slice: bits that a lower partition has are cleared (R197). -/
def commitWays (s : State) (c : Nat) : State :=
  ((rangeFrom 0 16).foldl (fun (x : Nat × State) p =>
    let w := waysOf x.2 c p
    let clash := w &&& x.1
    (x.1 ||| w, if clash = 0 then x.2 else setFlag (setFld x.2 (shcReg c (0x40 + 4 * (p / 2))) (16 * (p % 2)) 16 (w ^^^ clash)) (shcReg c 0) 6 true)) (0, s)).2

/-- The Wardrobe's limits: above the pool the previous ones stay (R248). -/
def commitLimits (s0 s : State) : State :=
  let lim := fun (s : State) p => fld s (kvPart p + 0x10) 0 20
  if ((rangeFrom 0 16).map (lim s)).sum ≤ kvPages s then s
  else setFlag ((rangeFrom 0 16).foldl (fun s p => setFld s (kvPart p + 0x10) 0 20 (lim s0 p)) s) 0x50018 1 true

/-- Commit every register of a group that has a staged value. -/
def commitAll (b : Time) (p : Nat → Bool) (s : State) : State := (stagedOffs s b p).foldl (commitReg b) s

/-- Steps 1 to 3 of R253; RESET is cleared by the commit. -/
def schCommit (b : Time) (s0 : State) : State :=
  let s1 := commitAll b (fun o => isPartReg o || isSeedReg o) s0
  let s2 := (rangeFrom 0 16).foldl (commitCfg s0) s1
  let s3 := (rangeFrom 0 256).foldl commitCore s2
  let s4 := commitShares s0 s3
  let s5 := ((rangeFrom 0 16).map (fun p => (rangeFrom 0 8).map (fun w => (p, w)))).flatten.foldl commitWin s4
  let s6 := (rangeFrom 0 16).foldl commitCtr s5
  let s7 := (rangeFrom 0 16).foldl (fun s p => setFlag s (partOff p) 30 false) s6
  let s8 := (rangeFrom 0 16).foldl commitWays (commitAll b isWaysReg s7)
  commitLimits s8 (commitAll b isKvReg s8)

/-- Partitions whose staged RESET commits at instant `b` (R271). -/
def resetList (s : State) (b : Time) : List Nat := (rangeFrom 0 16).filter (fun p => (committed s b (partOff p)).getLsbD 30)

/-! ## Binding and displacement (R78, R186, R263 to R267) -/

/-- Bytes of a context record (R78). -/
def recBytes (scaleLen tabMask : Nat) : Nat := 0x100 + 8 * scaleLen + 1056 * popCount tabMask 4

/-- The words of SCALE_WIN, TAB_MASK and ACC_SAVE of a slot (R94). -/
def slotWords (c : SlotCtx) : List Nat := [c.scaleLen * 2 ^ 16 + c.scaleBase, c.tabMask, c.saveTiles * 256 + c.saveDrawer]

/-- The context record of a slot (R78). -/
def recordOf (co : LCore) (c : SlotCtx) : List Byte :=
  ((c.bounds ++ c.pmasks).map (fun w => leBytes 4 w.toNat)).flatten ++ leBytes 8 c.steps ++ leBytes 8 c.stall
    ++ ((slotWords c).map (leBytes 4)).flatten ++ leBytes 4 1 ++ List.replicate 96 0
    ++ ((rangeFrom c.scaleBase c.scaleLen).map (fun i => leBytes 8 (tget 0 co.scale i).toNat)).flatten
    ++ ((bitsSet c.tabMask 4).map (fun i => (tget [] co.tabs i ++ List.replicate 1056 0).take 1056)).flatten

/-- Position within an instruction (R261): tile in the order of R144, pass, reduction block. -/
def posWord (f : InFlight) : Nat := match f.mma with
  | some m =>
    let blk := match m.cur with
      | none => 0
      | some c => match c.macs with
        | [] => cdiv m.a.cols 32
        | (_, x) :: _ => (if m.mode = 1 ∨ m.mode = 2 then 2 * x else x) / 32
    (if m.cur.isSome then m.pos - 1 else m.pos) + m.pass * 2 ^ 32 + blk * 2 ^ 40
  | none => match f.units with
    | [] => f.len
    | u :: _ => (unitRow u.eff - f.start) + (match u.eff with | .xpnd _ kb => kb | .attnBlock _ kb => kb | _ => 0) * 2 ^ 40

/-- The resume block of a rank (R261). -/
def resumeBlock (l : Nat) (c : SlotCtx) : List Byte :=
  let st := if c.ended then 3 else if ¬ c.flight.isEmpty then 2 else if c.ip = c.base then 0 else 1
  let pos := fun i => match c.flight[i]? with | none => 0 | some f => posWord f
  leBytes 6 (match c.flight with | [] => c.ip | f :: _ => f.ip) ++ leBytes 1 st ++ leBytes 1 l
    ++ leBytes 8 (pos 0) ++ leBytes 8 (pos 1) ++ leBytes 8 0

/-- Set the contents of work drawers aside (R264). -/
def park (s : State) (l : Nat) (f : InFlight) : InFlight :=
  { f with parked := f.work.map (fun d => rdMem s (spadOf l + 0x1000 * d) 0x1000) }

/-- A rank as it is kept while its context is unbound: its work drawers' contents, its released grant, no instruction buffer, and no wait that
its next binding asks for anew (R129, R152, R264). -/
def suspRank (s : State) (l : Nat) (c : SlotCtx) : SlotCtx :=
  { c with
    flight := c.flight.map (park s l), ibuf := [], released := c.released || c.flight.any (fun f => decide (f.granted ≠ [])),
    wait := match c.wait with | .room => .none | .operand => .none | .work => .none | .slots 0 => .none | w => w }

/-- Unbind one rank of a displaced context: record, resume block, and what the rank keeps (R78, R255, R264). -/
def unbindRank (p n : Nat) (s : State) (l : Nat) : State := match slotFor s l p n with
  | none => s
  | some k => match slotOf s l k with
    | none => s
    | some sc =>
      let c := ctxOf s p n
      let a := saveBase c.hdr + 0x4000 * sc.rank
      let b := c.desc + 0x80 + 32 * sc.rank
      match checkAcc s p true a (recBytes sc.scaleLen sc.tabMask), checkAcc s p true b 32 with
      | .ok, .ok =>
        let s1 := wrMem s a (recordOf (coreOf s l) sc)
        let s2 := wrMem s1 b (resumeBlock l sc)
        let s3 := leaveSlot s2 l k
        setCtx s3 p n { ctxOf s3 p n with susp := tset (ctxOf s3 p n).susp sc.rank (suspRank s l sc) }
      | .ok, e => raiseAcc s p n l e
      | e, _ => raiseAcc s p n l e

/-- Pre-empt a rank that holds LIVE slots: what it has promised is cancelled and the slots are saved (R64, R193, R260); a rank whose grant has been
released already only stops acquiring it. -/
def preemptRank (s : State) (l k : Nat) : Bool × State := match slotOf s l k with
  | none => (false, s)
  | some c =>
    if ¬ alive s c.part c.ctx then (false, s)
    else if c.released then (false, dropResume s l k)
    else if (liveSlots s l k).isEmpty then (false, s)
    else
      let s1 := saveSlots (cancelPromises s l c.part c.ctx) l k
      (alive s1 c.part c.ctx, s1)

/-- Pre-empt a context on the cores given; PREEMPT_COUNT counts it once if it saved a slot (R260). -/
def preemptOn (p n : Nat) (ls : List Nat) (s : State) : State :=
  let r := ls.foldl (fun (x : Bool × State) l => match slotFor x.2 l p n with
    | none => x
    | some k => let y := preemptRank x.2 l k; (x.1 || y.1, y.2)) (false, s)
  if r.1 then bump r.2 (partOff p + 0x80) else r.2

/-- Displace a context: pre-empted, unbound, ADMITTED again (R262, R264, R265). -/
def displace (s : State) (p n : Nat) : State :=
  let c := ctxOf s p n
  let s1 := preemptOn p n c.cores s
  if ¬ alive s1 p n then s1 else
  let s2 := c.cores.foldl (unbindRank p n) s1
  if alive s2 p n then setCtx s2 p n { ctxOf s2 p n with st := .admitted } else s2

/-- The lowest FREE context slot of a core. -/
def freeSlot (s : State) (l : Nat) : Option Nat := (rangeFrom 0 8).find? (fun k => (slotOf s l k).isNone)

/-- The resident context that a core would displace for one of the owning group: of another group, with the highest PRIO
number, then the highest context number (R265). -/
def victimOf (s : State) (l p own : Nat) : Option Nat :=
  ((coreOf s l).slots.filter (fun e => decide (e.2.part = p) && decide (groupOf s e.2 ≠ own) && alive s p e.2.ctx)).foldl
    (fun b e => match b with
      | none => some e.2.ctx
      | some m => match slotFor s l p m with
        | none => some e.2.ctx
        | some k => match slotOf s l k with
          | none => some e.2.ctx
          | some c => if ringBefore s c e.2 then some e.2.ctx else some m) none

/-- Contexts to displace so that every core can give a slot; none where some core cannot (R265). -/
def victims (s : State) (p own : Nat) (owning : Bool) : List Nat → List Nat → Option (List Nat)
  | [], vs => some vs
  | l :: r, vs =>
    if (freeSlot s l).isSome ∨ vs.any (fun m => (slotFor s l p m).isSome) then victims s p own owning r vs
    else if owning then (match victimOf s l p own with | none => none | some m => victims s p own owning r (vs ++ [m])) else none

/-- Fields of a descriptor header that a bind takes (R261). -/
def hdrScaleBase (h : List Byte) : Nat := le h 0x44 4 % 1024
/-- SCALE_LEN. -/
def hdrScaleLen (h : List Byte) : Nat := le h 0x46 2 % 2048
/-- ALLOT_BASE. -/
def hdrAllotBase (h : List Byte) : Nat := le h 0x40 1
/-- ALLOT_LEN. -/
def hdrAllotLen (h : List Byte) : Nat := le h 0x42 2 % 512
/-- STAGE_LEN. -/
def hdrStageLen (h : List Byte) : Nat := le h 0x41 1
/-- SHARE_ID. -/
def hdrShare (h : List Byte) : Nat := le h 0x50 2

/-- Two runs [base, base + len) meet. -/
def runsMeet (a la b lb : Nat) : Bool := meets (a, la) (b, lb)

/-- Placed runs held on a core, with their buffer identifiers, but for the context's own (R186, R264). -/
def otherRuns (s : State) (l p n : Nat) : List (Nat × Nat × Nat × Nat) :=
  ((coreOf s l).slots.filter (fun e => !(decide (e.2.part = p) && decide (e.2.ctx = n)))).map
      (fun e => (e.2.part, e.2.allotBase, e.2.allotLen, e.2.shareId))
  ++ ((s.ctxs.filter (fun e => decide (e.1 ≠ ctxKey p n) && decide (e.2.st = .admitted) && e.2.bound && e.2.cores.contains l)).map
      (fun e => (e.1 / 64, hdrAllotBase e.2.hdr, hdrAllotLen e.2.hdr, hdrShare e.2.hdr)))

/-- The checks of a bind on one core (R76, R78, R186). -/
def bindErrs (s : State) (p n g l : Nat) : Errs :=
  let c := ctxOf s p n
  let h := c.hdr
  let res := (coreOf s l).slots.map Prod.snd
  let a := saveBase h + 0x4000 * g
  errIf (res.any (fun r => runsMeet (hdrScaleBase h) (hdrScaleLen h) r.scaleBase r.scaleLen)) 0x0113
  ++ (if ¬ c.bound then [] else
      match checkAcc s p false a (recBytes (hdrScaleLen h) (le h 0x48 4 % 16)) with
      | .ok => errIf (decide (rdLE s (a + 0x9C) 4 % 16 ≠ 1)) 0x0124
      | e => accErr e)
  ++ errIf (runsMeet (hdrAllotBase h) (hdrAllotLen h) (256 - landPool s l) (landPool s l)
      || (otherRuns s l p n).any (fun r => runsMeet (hdrAllotBase h) (hdrAllotLen h) r.2.1 r.2.2.1 && (decide (hdrShare h = 0) || decide (hdrShare h ≠ r.2.2.2)))) 0x0201
  ++ errIf (decide (hdrStageLen h < 4) || decide (landPool s l < hdrStageLen h + (res.map SlotCtx.stageLen).sum)) 0x0202

/-- A rank's state when its context is bound for the first time (R79, R80, R266). -/
def newRank (s : State) (p n g base : Nat) : SlotCtx :=
  let h := (ctxOf s p n).hdr
  { part := p, ctx := n, rank := g, det := partDet s p, steps := 0, stall := 0, scaleBase := hdrScaleBase h, scaleLen := hdrScaleLen h,
    tabMask := le h 0x48 4 % 16, saveDrawer := le h 0x4C 1, saveTiles := le h 0x4D 1 % 64, bounds := List.replicate 16 0,
    pmasks := List.replicate 16 0xFFFFFFFF, ip := base, base := base, flight := [], prev := none, wait := .none, since := s.clk.tb,
    saved := [], released := false, ibuf := [], ended := false, runNs := 0, stallC := 0, tokenNs := 0, hit := false, allotBase := hdrAllotBase h,
    allotLen := hdrAllotLen h, stageLen := hdrStageLen h, shareId := hdrShare h }

/-- A rank restored from its record (R78) and what it keeps beside it. -/
def restoreRank (s : State) (a : Nat) (c : SlotCtx) : SlotCtx :=
  let w := fun o => rdLE s (a + o) 4
  { c with
    bounds := (rangeFrom 0 16).map (fun i => BitVec.ofNat 32 (w (4 * i))), pmasks := (rangeFrom 0 16).map (fun i => BitVec.ofNat 32 (w (0x40 + 4 * i))),
    steps := rdLE s (a + 0x80) 8, stall := rdLE s (a + 0x88) 8, scaleBase := w 0x90 % 1024, scaleLen := w 0x90 / 2 ^ 16 % 2048,
    tabMask := w 0x94 % 16, saveDrawer := w 0x98 % 256, saveTiles := w 0x98 / 256 % 64, since := s.clk.tb }

/-- Load the scale entries and tables of a record into the core (R78). -/
def restoreCore (s : State) (l a : Nat) (c : SlotCtx) : State :=
  let co := coreOf s l
  let sc := (rangeFrom 0 c.scaleLen).foldl (fun t i => tset t (c.scaleBase + i) (BitVec.ofNat 64 (rdLE s (a + 0x100 + 8 * i) 8))) co.scale
  let tbs := bitsSet c.tabMask 4
  let tb := (rangeFrom 0 tbs.length).foldl (fun t i => tset t (nth 0 tbs i) (rdMem s (a + 0x100 + 8 * c.scaleLen + 1056 * i) 1056)) co.tabs
  setCore s l { co with scale := sc, tabs := tb }

/-- Give the work drawers of an instruction back, and what they held (R221, R264). -/
def unpark (s : State) (l k : Nat) (f : InFlight) : State × InFlight :=
  if f.parked.isEmpty then (s, f) else
  let ds := (freeDrawers s l).take f.parked.length
  let co := coreOf s l
  let s1 := setCore s l { co with drawers := ds.foldl (fun d x => tset d x ⟨.full, k, none, none⟩) co.drawers }
  ((rangeFrom 0 ds.length).foldl (fun s i => wrMem s (spadOf l + 0x1000 * nth 0 ds i) (nth [] f.parked i)) s1, { f with work := ds, parked := [] })

/-- Drawers that a rank needs to be bound again. -/
def parkedLen (c : SlotCtx) : Nat := (c.flight.map (fun f => f.parked.length)).sum

/-- Records dropped when a context binds (R267). -/
def residBind (h : List Byte) (r : Resid) : Bool :=
  !(runsMeet (hdrAllotBase h) (hdrAllotLen h) r.base r.len && decide (hdrBufIn h ≠ r.buf))

/-- Tell a rank that was unbound that an append has completed (R236). -/
def catchUp (s : State) (l k : Nat) : State := match slotOf s l k with
  | none => s
  | some c => c.flight.foldl (fun s f => if f.ext ≠ .kvapp then s else
      match flightIdx s l k f.ip .kvapp with | none => s | some i => tellRank s l k i) s

/-- A rank bound again goes on: its request for a grant joins the queue again, and a released grant is acquired again if its group owns the slot
(R148, R152, R260). -/
def rejoin (s : State) (l k : Nat) : State := match slotOf s l k with
  | none => s
  | some c =>
    let co := coreOf s l
    let s1 := match c.wait with | .slots n => setCore s l { co with grantQ := co.grantQ ++ [(k, n)] } | _ => s
    if c.released && !c.hit && ownsSlot s1 c then settle (resumeSlots s1 l k) l k else settle s1 l k

/-- Bind one rank into a slot of its core. -/
def bindRank (p n base : Nat) (s : State) (gl : Nat × Nat) : State :=
  let g := gl.1
  let l := gl.2
  match freeSlot s l with
  | none => s
  | some k =>
    let c := ctxOf s p n
    let a := saveBase c.hdr + 0x4000 * g
    let co := coreOf s l
    let s0 := setCore s l { co with resid := co.resid.filter (residBind c.hdr) }
    match tget? c.susp g with
    | none => setSlot s0 l k (newRank s0 p n g base)
    | some r0 =>
      let r := restoreRank s0 a r0
      let s1 := restoreCore s0 l a r
      let x := r.flight.foldl (fun (x : State × List InFlight) f => let y := unpark x.1 l k f; (y.1, x.2 ++ [y.2])) (s1, [])
      let s2 := setSlot x.1 l k { r with
        flight := x.2, saved := r.saved.map (fun v => { v with acc := { v.acc with cs := k } }) }
      let s3 := { s2 with
        wctr := s2.wctr.map (fun e => (e.1, if e.2.tag / 2 ^ 22 = ctxKey p n then
          { e.2 with held := e.2.held.map (fun h => if h.1 = l then (h.1, k, h.2.2) else h) } else e.2)),
        ctxs := tset s2.ctxs (ctxKey p n) { ctxOf s2 p n with susp := tdel (ctxOf s2 p n).susp g } }
      rejoin (catchUp s3 l k) l k

/-- Bind a context on its core set (R262, R266). -/
def bindAll (s : State) (p n : Nat) (cores : List Nat) (alt : Bool) : State :=
  let c := ctxOf s p n
  let s1 := setCtx s p n { c with cores := cores, st := .resident, bound := true, alt := if c.bound then c.alt else alt }
  let s2 := (rangeFrom 0 cores.length).foldl (fun s g => bindRank p n (progOf c.hdr alt) s (g, nth 0 cores g)) s1
  if c.bound then s2 else clearPriv s2 p n

/-- A binding is deferred (R265). -/
def bindWait (s : State) (p : Nat) : State := bump s (partOff p + 0x84)

/-- CTX_CORESET. -/
def fCoreset : Nat := 0x0303

/-- What the core set of a binding meets on one core (R263, R277). -/
inductive CoreOk where
  | ok | wait | bad
  deriving DecidableEq, Repr

/-- One core of a core set. -/
def coreOk (s : State) (p l : Nat) (again : Bool) : CoreOk :=
  let ho := tget 0 s.sch.handover l
  if ownerOf s l = some p then
    (if coreUnavail s l then (if coreSparing s l then .wait else .bad)
     else if (!again && decide (ho ≠ 0)) || !(coreOf s l).on then .wait else .ok)
  else if ho = p + 1 then .wait else .bad

/-- The core set can be bound now, must wait, or is not the partition's. -/
def coresOk (s : State) (p : Nat) (again : Bool) (cores : List Nat) : CoreOk :=
  let r := cores.map (fun l => coreOk s p l again)
  if r.contains .bad then .bad else if r.contains .wait then .wait else .ok

/-- Every check of a bind over a core set. -/
def allBindErrs (s : State) (p n : Nat) (cores : List Nat) : Errs :=
  ((rangeFrom 0 cores.length).map (fun g => (bindErrs s p n g (nth 0 cores g)).map (fun e => (e.1, e.2)))).flatten

/-- The work drawers of a context that is bound again are FREE. -/
def drawersReady (s : State) (p n : Nat) (cores : List Nat) : Bool :=
  (rangeFrom 0 cores.length).all (fun g => match tget? (ctxOf s p n).susp g with
    | none => true
    | some r => decide (parkedLen r ≤ (freeDrawers s (nth 0 cores g)).length))

/-- Bind a context on a core set that is in order: displace where it may, check, bind (R265).  A failed check is recorded in TC_FAULT of the core set's
first core, whichever core it was found on: the model's choice (log entry 79).  The first answer says that it waits. -/
def tryBind (s : State) (p n own : Nat) (cores : List Nat) (alt aff : Bool) : Bool × State :=
  let c := ctxOf s p n
  let owning := decide (le c.hdr 0x16 1 % 16 = own)
  match victims s p own owning cores [] with
  | none => (true, s)
  | some vs =>
    let s1 := vs.foldl (fun s m => displace s p m) s
    if cores.any (fun l => (freeSlot s1 l).isNone) || !drawersReady s1 p n cores then (true, s1) else
    match allBindErrs s1 p n cores with
    | [] =>
      let s2 := if aff then nondet s1 p else s1
      let s3 := if aff && alt then bump s2 (partOff p + 0x88) else s2
      (false, bindAll s3 p n cores alt)
    | es => (false, raiseErrs s1 p n (cores.headD 0) es)

/-- A core that an AFFINITY job can be placed on now (R267). -/
def placeable (s : State) (p n own : Nat) (owning : Bool) (l : Nat) : Bool :=
  decide (coreOk s p l false = .ok) && (victims s p own owning [l] []).isSome && (bindErrs s p n 0 l).isEmpty

/-- Holders of buffer `b`, one for each rank from `r` on, among cores in ascending order: ranks follow the order of the cores (R129, R267). -/
def holdersFrom (s : State) (p b : Nat) : List Nat → Nat → List Nat
  | [], _ => []
  | l :: t, r => if holdsBuf s l p b r then l :: holdersFrom s p b t (r + 1) else holdersFrom s p b t r

/-- Place and bind an AFFINITY job (R267).  The first answer says that it waits. -/
def placeBind (s : State) (p n own : Nat) : Bool × State :=
  let c := ctxOf s p n
  let h := c.hdr
  let owning := decide (le h 0x16 1 % 16 = own)
  let g := coreCount h
  let bi := hdrBufIn h
  let mine := (rangeFrom 0 256).filter (fun l => decide (ownerOf s l = some p))
  let free := mine.filter (placeable s p n own owning)
  let near := (holdersFrom s p bi free 0).take g
  let exist := decide (bi ≠ 0) && decide (g ≤ (holdersFrom s p bi mine 0).length)
  if exist && decide (near.length = g) && (victims s p own owning near []).isSome then tryBind s p n own near false true
  else if exist && decide (s.clk.tb < c.waitFrom + le h 0x56 1 * epochNs) then (true, s)
  else if (free.take g).length < g then (true, s) else tryBind s p n own (free.take g) true true

/-- A binding that waits is counted, once per context and boundary (R265). -/
def countWait (p : Nat) (r : Bool × State) : State := if r.1 then bindWait r.2 p else r.2

/-- Bind one ADMITTED context if it can be bound (R263, R265). -/
def bindOne (own : Nat) (p : Nat) (s : State) (n : Nat) : State :=
  let c := ctxOf s p n
  if c.st ≠ .admitted ∨ c.dying.isSome then s
  else if hdrAffinity c.hdr && !c.bound then countWait p (placeBind s p n own)
  else
    let cores := if c.bound then c.cores else coresMask c.hdr
    match coresOk s p c.bound cores with
    | .wait => bindWait s p
    | .bad => raiseErrs s p n (cores.headD 0) ((fCoreset, 0) :: allBindErrs s p n cores)
    | .ok => countWait p (tryBind s p n own cores false false)

/-- The mark of no group: a binding under it displaces nothing. -/
def noGroup : Nat := 16

/-- The next job of a LOOP context with AFFINITY: the context gives its cores up and the job is placed at its first binding, at once where that can
be and else at a later boundary (R263, R267; log entry 64). -/
def placeNext (s : State) (p n : Nat) : State :=
  let s1 := leaveCores s p n
  let s2 := setCtx s1 p n { betweenJobs s.clk.tb (ctxOf s1 p n) with st := .admitted, cores := [], bound := false, susp := [] }
  (placeBind s2 p n noGroup).2

/-- END has completed on every rank (R128, R262, R269). -/
def jobEnd (s0 : State) (p n : Nat) : State :=
  let c := ctxOf s0 p n
  if c.st ≠ .resident ∨ c.dying.isSome ∨ c.cores.isEmpty ∨ ¬ (rangeFrom 0 c.cores.length).all c.ended.contains then s0 else
  let s := recordBuf (jobFigures s0 p n) p n
  if hdrLoop c.hdr && !c.stopPend then (if hdrAffinity c.hdr then placeNext s p n else nextJob s p n)
  else
    let s1 := leaveCores s p n
    setCtx s1 p n (ctxEnd (ctxOf s1 p n) .free 0)

/-- JOB_END. -/
def execJobEnd (t : Time) (p : Fin 16) (n : Fin 64) (s : State) : Res := .next (jobEnd (advance s t) p n)

/-- ADMITTED contexts of a partition in binding order (R265). -/
def bindOrder (s : State) (p own : Nat) : List Nat :=
  let key := fun n => let h := (ctxOf s p n).hdr
    (if le h 0x16 1 % 16 = own then 0 else 512) + le h 0x17 1 % 8 * 64 + n
  ((rangeFrom 0 64).filter (fun n => decide ((ctxOf s p n).st = .admitted))).foldl (fun l n => insertBy key n l) []

/-- Bindings of a partition at the start of slot `x`. -/
def bindPart (x : Nat) (s : State) (p : Nat) : State :=
  let own := slotOwner s p x
  (bindOrder s p own).foldl (bindOne own p) s

/-! ## Slot boundaries (R259, R260, R265, R295) -/

/-- Count waits in the slot that ends, and start anew. -/
def chargeAll (x : Nat) (s : State) : State :=
  { s with tc := s.tc.map (fun e => (e.1, { e.2 with slots := e.2.slots.map (fun k => (k.1, { chargeSlot s e.1 x k.2 with since := s.clk.tb })) })) }

/-- Resident contexts by a condition on their group. -/
def residents (s : State) (x : Nat) (owning : Bool) : List (Nat × Nat) :=
  ((s.tc.map (fun e => (e.2.slots.filter (fun k => decide (slotOwner s k.2.part x = groupOf s k.2) == owning)).map (fun k => (k.2.part, k.2.ctx)))).flatten).eraseDups

/-- Refill the owning contexts of a core (R260 step 2). -/
def refillCore (x : Nat) (s : State) (l : Nat) : State :=
  ((coreOf s l).slots.map Prod.fst).foldl (fun s k => match slotOf s l k with
    | none => s
    | some c =>
      if c.hit ∨ ¬ c.released ∨ slotOwner s c.part x ≠ groupOf s c ∨ ¬ alive s c.part c.ctx then s
      else settle (resumeSlots s l k) l k) s

/-- The hold of a launch ends at the first slot boundary at or after T (R295). -/
def launchAll (b : Time) (s : State) : State :=
  { s with ctxs := s.ctxs.map (fun e => (e.1, if e.2.launch ≤ b then { e.2 with launch := 0 } else e.2)) }

/-- The start of slot `x` of an epoch at instant `b` (R260). -/
def slotStart (b : Time) (x : Nat) (s0 : State) : State :=
  let s := chargeAll ((x + 15) % 16) s0
  let s1 := (residents s x false).foldl (fun s e => preemptOn e.1 e.2 (ctxOf s e.1 e.2).cores s) s
  let s2 := (s1.tc.map Prod.fst).foldl (refillCore x) s1
  (rangeFrom 0 16).foldl (bindPart x) (launchAll b s2)

/-- SLOT_BOUNDARY: the next slot boundary that is no epoch boundary; slot 0 begins within an epoch boundary (R472). -/
def execSlotBoundary (s : State) : Res :=
  let k := s.sch.lastSlot + 1
  if k % 16 = 0 then .next s else
  let s1 := advance s (k * slotNs)
  .next (slotStart (k * slotNs) (k % 16) { s1 with sch := { s1.sch with lastSlot := k } })

/-! ## Tokens, the generator range, the step break -/

/-- The signal that a word written to SCH_TOK_SIGNAL asks for (R279, R280). -/
def tokSignal (w : Word) (s : State) : State :=
  signal s (w.toNat / 2 ^ 28) (w.toNat / 2 ^ 22 % 64) (BitVec.ofNat 32 (w.toNat % 2 ^ 22))

/-- SCH_TOK_SIGNAL: a write adds VALUE to a token (R279). -/
def execSchTokSignal (t : Time) (ag : Agent) (w : Word) (s : State) : Res := .next (onWrite (advance s t) ag 0x40010 (tokSignal w))

/-- The core at which an access of a context counts. -/
def ctxCore (s : State) (p n : Nat) : Nat := (ctxOf s p n).cores.headD 0

/-- A read of one byte in the generator range on behalf of a context: the byte is kept as the answer of its last such read (R289); a read that the
windows do not permit faults. -/
def genRead (s : State) (p n a : Nat) : State := match checkAcc s p false a 1 with
  | .ok => setCtx s p n { ctxOf s p n with genOut := some (genByte (ctxOf s p n).seed p n a) }
  | e => raiseAcc s p n (ctxCore s p n) e

/-- GEN_READ. -/
def execGenRead (t : Time) (p : Fin 16) (n : Fin 64) (a : Nat) (s0 : State) : Res :=
  let s := advance s0 t
  .next (if inGen a then genRead s p n a else s)

/-- GEN_WRITE: a write to the generator range faults and writes nothing (R289). -/
def execGenWrite (t : Time) (p : Fin 16) (n : Fin 64) (a : Nat) (s0 : State) : Res :=
  let s := advance s0 t
  .next (if inGen a then raiseAcc s p n (ctxCore s p n) (checkAcc s p true a 1) else s)

/-- The context stopped by the step break in the slot that SLOT names refills its saved slots, HIT clears, and it continues (R293, R299). -/
def brkResume (l : Nat) (s : State) : State :=
  let k := fld s (tcOff l + 0x88) 8 3
  match slotOf s l k with
  | none => s
  | some c =>
    if ¬ c.hit then s else
    let s1 := clearHit s l k c
    settle (if ownsSlot s1 c then resumeSlots s1 l k else s1) l k

/-- BRK_RESUME: a write of RESUME = 1 (R293). -/
def execBrkResume (t : Time) (ag : Agent) (l : Fin 256) (s : State) : Res := .next (onWrite (advance s t) ag (tcOff l + 0x88) (brkResume l))

end Sys2Proof.Machine
end

