-- ==== Sys2Proof/Machine/Ing.lean ====
section
/-!
DEFINITION. Machine/Ing.lean: camera ingest, decode and publication (R300 to R336), PTP (R304 to R307) and the gang
(R273 to R276).
-/
namespace Sys2Proof.Machine
open Sys2Proof

/-! ## Registers (R332 to R336) -/

/-- Registers of a port. -/
def portReg (p o : Nat) : Nat := 0x200000 + 0x100 * p + o
/-- PTP registers. -/
def ptpReg (o : Nat) : Nat := 0x200800 + o
/-- Entry of a stream. -/
def entReg (n o : Nat) : Nat := 0x204000 + 0x40 * n + o
/-- Registers of a decode engine. -/
def engReg (e o : Nat) : Nat := 0x280100 + 0x10 * e + o
/-- Status of a stream. -/
def strReg (n o : Nat) : Nat := 0x281000 + 0x40 * n + o

/-- A stream. -/
def strmOf (s : State) (n : Nat) : Strm := tget Strm.reset s.ing.strms n
/-- Replace a stream. -/
def setStrm (s : State) (n : Nat) (v : Strm) : State :=
  let i := s.ing
  { s with ing := { i with strms := tset i.strms n v } }
/-- A notice ring, by target. -/
def nringOf (s : State) (k : Nat) : Ring := tget Ring.reset s.ing.rings k
/-- Replace a notice ring. -/
def setNring (s : State) (k : Nat) (v : Ring) : State :=
  let i := s.ing
  { s with ing := { i with rings := tset i.rings k v } }

/-- MODE of a port: 1 camera, 2 peer (R300). -/
def portMode (s : State) (p : Nat) : Nat := listed 0 3 (fld s (portReg p 0) 30 2)
/-- FEC of a port: 0 none, 1 BASE-R, 2 RS-FEC (R332). -/
def portFec (s : State) (p : Nat) : Nat := listed 9 3 (fld s (portReg p 0) 27 2)
/-- The port is set to an Ethernet option that its mode supports (R300, R303): camera mode 25GBASE-R with any FEC or 10GBASE-R without, peer mode
25GBASE-R with RS-FEC. -/
def portOk (s : State) (p : Nat) : Bool := match portMode s p with
  | 1 => !flag s (portReg p 0) 29 || decide (portFec s p = 0)
  | 2 => !flag s (portReg p 0) 29 && decide (portFec s p = 2)
  | _ => false
/-- A port in camera mode. -/
def isCamera (s : State) (p : Nat) : Bool := decide (portMode s p = 1) && portOk s p
/-- A port in peer mode. -/
def isPeer (s : State) (p : Nat) : Bool := decide (portMode s p = 2) && portOk s p
/-- LINK of a port. -/
def linkUp (s : State) (p : Nat) : Bool := flag s (portReg p 0x20) 0
/-- CODEC of an entry. -/
def codecOf (s : State) (n : Nat) : Nat := fld s (entReg n 0) 22 2
/-- NBUF, clamped (R335). -/
def nbufOf (s : State) (n : Nat) : Nat := clampNat 2 16 (fld s (entReg n 0) 16 5)
/-- MAX_W and MAX_H. -/
def declW (s : State) (n : Nat) : Nat := fld s (entReg n 0xC) 0 16
/-- MAX_H. -/
def declH (s : State) (n : Nat) : Nat := fld s (entReg n 0xC) 16 16
/-- PUB_BUDGET in ns. -/
def pubBudget (s : State) (n : Nat) : Nat := 1000 * fld s (entReg n 0x18) 0 20
/-- IDLE_MS in ns. -/
def idleNs (s : State) (n : Nat) : Nat := 1000000 * fld s (entReg n 0x20) 0 16

/-- Class 0x07 codes (R331). -/
def eUnsupported : Nat := 0x0701
/-- PIC_TOO_LARGE. -/
def eTooLarge : Nat := 0x0702
/-- DPB_SHORT. -/
def eDpb : Nat := 0x0703
/-- DECODE_ERROR. -/
def eDecode : Nat := 0x0704
/-- DRAM_POISON. -/
def ePoison : Nat := 0x0705
/-- BUF_EMPTY. -/
def eBufEmpty : Nat := 0x0706
/-- AU_TOO_LARGE. -/
def eAuLarge : Nat := 0x0707
/-- PKT_LOSS. -/
def ePktLoss : Nat := 0x0708
/-- STREAM_RESTART. -/
def eRestart : Nat := 0x0709

/-- LAST_ERR records a code (R331). -/
def strErr (s : State) (n code : Nat) : State := noteEvent (.stream (Fin.ofNat 512 n)) code 0 (setFld s (strReg n 0) 0 16 code)

/-! ## The decode pool and buffers (R302, R315) -/

/-- POOL_LEN. -/
def poolLen (s : State) : Nat := fld s 0x280008 0 21
/-- Address of a 64 KiB unit of the decode pool. -/
def poolAddr (s : State) (u : Nat) : Nat := fld s 0x280000 16 16 * 0x10000 + 2 ^ 32 * fld s 0x280004 0 16 + u * 0x10000
/-- Bytes of a bitstream ring (R315). -/
def bitRing : Nat := 0x200000
/-- Bytes of a port's receive buffer (R302). -/
def rxBytes : Nat := 0x40000

/-- Write bytes at offset `o` of the bitstream ring that begins at unit `u`; it wraps at its end. -/
def ringWrite (s : State) (u o : Nat) (bs : List Byte) : State :=
  wrMem (wrMem s (poolAddr s u + o) (bs.take (bitRing - o))) (poolAddr s u) (bs.drop (bitRing - o))

/-- A packet of a receive buffer is written to the ring of its stream, if that stream still holds one (R302). -/
def ringPut (s : State) (x : RxWait) : State := match (strmOf s x.stream).ring with
  | none => s
  | some u => ringWrite s u x.off x.bytes

/-- The receive buffer of a port. -/
def rxOf (s : State) (p : Nat) : List RxWait := tget [] s.ing.rx p
/-- Replace it. -/
def setRx (s : State) (p : Nat) (l : List RxWait) : State :=
  let i := s.ing
  { s with ing := { i with rx := tset i.rx p l } }

/-- The first `k` packets of a port's receive buffer are written to their rings (R302). -/
def rxMove (s : State) (p k : Nat) : State := setRx (((rxOf s p).take k).foldl ringPut s) p ((rxOf s p).drop k)

/-- What a port's receive buffer still holds of stream `n` is written to its ring. -/
def rxFlush (s : State) (n : Nat) : State :=
  let p := fld s (entReg n 0) 24 3
  setRx (((rxOf s p).filter (fun x => decide (x.stream = n))).foldl ringPut s) p ((rxOf s p).filter (fun x => decide (x.stream ≠ n)))

/-- Bytes that a port's receive buffer holds: packets still to be written, and packets held for their order (R302, R317). -/
def rxUsed (s : State) (p : Nat) : Nat :=
  ((rxOf s p).map (fun x => x.bytes.length)).sum
    + (s.ing.strms.map (fun e => if fld s (entReg e.1 0) 24 3 = p then (e.2.held.map (fun h => h.pkt.payload.length)).sum else 0)).sum

/-- A buffer is free when it is no reference, is not decoded into and no consumer holds it (R315). -/
def bufFree (b : PicBuf) : Bool := !b.ref && !b.busy && b.holds.isEmpty && !b.old

/-- Buffers of an ended stream return to the pool with their last hold (R329). -/
def pruneBufs (l : List PicBuf) : List PicBuf := l.filter (fun b => !(b.old && b.holds.isEmpty))

/-- Change the buffer whose first unit is `u`. -/
def modBuf (x : Strm) (u : Nat) (f : PicBuf → PicBuf) : Strm := { x with bufs := x.bufs.map (fun b => if b.unit = u then f b else b) }

/-! ## Notices and holds (R325 to R327) -/

/-- Release the hold of slot `i` of target `k` on the pictures of stream `n` (R326, R327). -/
def dropHold (s : State) (k i n : Nat) : State :=
  let x := strmOf s n
  setStrm s n { x with bufs := pruneBufs (x.bufs.map (fun b => { b with holds := b.holds.filter (fun h => decide (h ≠ (k, i))) })) }

/-- Free a notice slot and its hold. -/
def freeNotice (s : State) (k i : Nat) : State := match tget? (nringOf s k).slots i with
  | none => s
  | some (n, _) =>
    let r := nringOf s k
    dropHold (setNring s k { r with slots := tdel r.slots i, recs := tdel r.recs i }) k i n

/-- Entries of a notice ring: 64 for the Hutch (R407), 2^LOG2_LEN for a partition (R334). -/
def ringSize (s : State) (k : Nat) : Nat := if k = 16 then 64 else 2 ^ clampNat 4 12 (fld s (noticeReg k 0x10) 24 4)
/-- Rings in use. -/
def ringEn (s : State) (k : Nat) : Bool := decide (k = 16) || flag s (noticeReg k 0x10) 31

/-- A notice of stream `n`, frame `ctr`, to target `k` (R326); `bi` is the first unit of the buffer that gains the hold. -/
def notify (n ctr : Nat) (rec64 : List Byte) (bi : Option Nat) (s : State) (k : Nat) : State :=
  let r := nringOf s k
  let i := r.next % ringSize s k
  if ¬ ringEn s k ∨ (tget? r.slots i).isSome then
    let s1 := bump s (strReg n 0x34)
    if k = 16 then s1 else bump s1 (noticeReg k 0x1C)
  else
    let s1 := setNring s k { r with next := r.next + 1, slots := tset r.slots i (n, ctr), recs := if k = 16 then tset r.recs i rec64 else r.recs }
    let s2 := match bi with
      | none => s1
      | some u => setStrm s1 n (modBuf (strmOf s1 n) u (fun b => { b with holds := b.holds ++ [(k, i)] }))
    if k = 16 then s2 else
    signal (wrMem s2 (fld s2 (noticeReg k 0) 6 26 * 64 + 2 ^ 32 * fld s2 (noticeReg k 4) 0 16 + 64 * i) rec64) k (fld s2 (noticeReg k 0x10) 0 6) 1

/-- Targets of the enabled consumer entries of a stream, in ascending index (R325, R335). -/
def targetsOf (s : State) (n : Nat) : List Nat :=
  ((rangeFrom 0 4).filter (fun c => flag s (entReg n (0x24 + 4 * c)) 31 && decide (fld s (entReg n (0x24 + 4 * c)) 16 5 ≤ 16))).map
    (fun c => fld s (entReg n (0x24 + 4 * c)) 16 5)

/-- Send notices to every enabled consumer. -/
def notifyAll (s : State) (n ctr : Nat) (rec64 : List Byte) (bi : Option Nat) : State :=
  (targetsOf s n).foldl (notify n ctr rec64 bi) s

/-- What a frame record says (R321). -/
structure FrameRec where
  capture : Nat
  arrival : Nat
  publish : Nat
  ctr : Nat
  stream : Nat
  flags : Nat
  buf : Nat
  fmt : Nat
  width : Nat
  height : Nat
  stride : Nat
  chroma : Nat
  rtp : Nat
  crc : Nat

/-- The 64 bytes of a frame record (R321). -/
def frameBytes (f : FrameRec) : List Byte :=
  leBytes 8 f.capture ++ leBytes 8 f.arrival ++ leBytes 8 f.publish ++ leBytes 4 f.ctr ++ leBytes 2 f.stream ++ leBytes 1 1 ++ leBytes 1 f.flags
    ++ leBytes 6 f.buf ++ leBytes 2 f.fmt ++ leBytes 2 f.width ++ leBytes 2 f.height ++ leBytes 4 f.stride ++ leBytes 4 f.chroma
    ++ leBytes 4 f.rtp ++ leBytes 4 0 ++ leBytes 4 f.crc

/-- Buffers of a stream that goes OFF. -/
def retireBufs (l : List PicBuf) : List PicBuf := pruneBufs (l.map (fun b => { b with old := true, ref := false, busy := false }))

/-- The end record is published and the stream is OFF (R329); its fields that R329 does not state are free values, its reserved bits zero. -/
def endStream (s : State) (n : Nat) : State :=
  let t := s.clk.tb
  let d := draw s
  let e := draw d.2
  let f := draw e.2
  let ctr := (rd s (strReg n 4)).toNat
  let r := frameBytes ⟨t, t, t, ctr, n, 0x60, 0, d.1.toNat % 16, d.1.toNat / 2 ^ 16, d.1.toNat / 2 ^ 32, e.1.toNat, e.1.toNat / 2 ^ 32, f.1.toNat, f.1.toNat / 2 ^ 32⟩
  let s1 := notifyAll (rxFlush f.2 n) n ctr r none
  let x := strmOf s1 n
  setStrm s1 n { Strm.reset with bufs := retireBufs x.bufs, plis := x.plis, pliAt := x.pliAt, gone := true }

/-- An ENDING stream with no access unit left ends (R329). -/
def endCheck (s : State) (n : Nat) : State :=
  let x := strmOf s n
  if x.st = .ending ∧ x.aus.isEmpty then endStream s n else s

/-! ## Access units and resynchronisation (R318 to R320) -/

/-- Replace an access unit. -/
def setAu (x : Strm) (a : Au) : Strm := { x with aus := x.aus.map (fun b => if b.ctr = a.ctr then a else b) }

/-- An access unit by its counter. -/
def auOf (x : Strm) (ctr : Nat) : Option Au := x.aus.find? (fun a => decide (a.ctr = ctr))

/-- Counter `a` comes before `b` (R322). -/
def ctrBefore (a b : Nat) : Bool := let d := (b + 2 ^ 32 - a) % 2 ^ 32; decide (0 < d) && decide (d < 2 ^ 31)

/-- Take an access unit that is not published out of a stream: its buffer is free again. -/
def cutAu (x : Strm) (ctr : Nat) : Strm := match auOf x ctr with
  | none => x
  | some a =>
    let y := match a.buf with
      | none => x
      | some u => modBuf x u (fun b => { b with busy := false })
    { y with aus := y.aus.filter (fun b => decide (b.ctr ≠ ctr)), drops := ctr :: y.drops }

/-- The random access point of RESYNC has come: what follows is decoded, but for its RASL pictures (R319), and a moving stream moves (R314): it and what
opened after it decode on the new engine, what opened before on the old one, and so does the point itself where its decode had started before it
was known (log entry 87). -/
def syncAt (x : Strm) (a : Au) : Strm :=
  let e := x.moving.getD x.engine
  let y := { x with
    raslSkip := !x.synced, synced := true, engine := e, moving := none,
    aus := x.aus.map (fun b => if ctrBefore a.ctr b.ctr ∧ ¬ b.started then { b with eng := e } else b) }
  setAu y { a with wait := false, eng := if a.started then a.eng else e }

/-- Whether an access unit is passed over (R319): it has shown a slice or ended and is no random access point while one is awaited, or it is a RASL
picture of the point. -/
def passes (x : Strm) (a : Au) : Bool := a.wait && !a.rap && ((!x.synced && (a.vcl || a.marker)) || (x.raslSkip && a.rasl))

/-- Judge an access unit that is open: it is passed over (and counted), is the random access point, is decoded, or still waits for its first slice. -/
def judge (x : Strm) (a : Au) : Strm × Nat :=
  if passes x a then (cutAu x a.ctr, 1)
  else if a.wait && a.rap then (syncAt x a, 0)
  else if a.wait && x.synced && (a.vcl || a.marker) then (setAu x { a with wait := false }, 0)
  else (x, 0)

/-- Judge access units in order: the stream, and how many were passed over. -/
def judgeAll : List Au → Strm → Nat → Strm × Nat
  | [], x, k => (x, k)
  | a :: r, x, k => let y := judge x { a with wait := true }; judgeAll r (match auOf y.1 a.ctr with
      | none => y.1
      | some b => if b.vcl ∨ b.rap ∨ b.marker then y.1 else setAu y.1 { b with wait := true }) (k + y.2)

/-- The access units opened after one. -/
def ausAfter (x : Strm) (ctr : Nat) : List Au := x.aus.filter (fun a => ctrBefore ctr a.ctr)

/-- A stream enters RESYNC because of access unit `ctr` (R318 to R320, R330): what was opened later is passed over up to a
random access point, and with PLI one request is made per 250 ms. -/
def resync (s : State) (n ctr : Nat) : State :=
  let x := strmOf s n
  if x.st = .off then s else
  let entry := decide (x.st ≠ .resync)
  let y := judgeAll (ausAfter x ctr) { x with st := if x.st = .ending then .ending else .resync, synced := false, raslSkip := false } 0
  let ask := entry && flag s (entReg n 0) 29 && (match x.pliAt with | none => true | some t => decide (t + 250000000 ≤ s.clk.tb))
  let z := if ask then { y.1 with pliAt := some s.clk.tb, plis := y.1.plis + 1 } else y.1
  bumpBy (setStrm s n z) (strReg n 0x28) y.2

/-- An access unit is dropped, with a code (0: none), and RESYNC where asked, or where it is the random access point that RESYNC waited for. -/
def dropAu (s : State) (n ctr code : Nat) (into : Bool) : State :=
  let x := strmOf s n
  let point := decide (x.st = .resync) && (match auOf x ctr with | none => false | some a => a.rap)
  let s1 := bump (setStrm s n (cutAu x ctr)) (strReg n 0x24)
  let s2 := if code = 0 then s1 else strErr s1 n code
  endCheck (if into || point then resync s2 n ctr else s2) n

/-- The last access unit opened: the one before VDC_STR_CTR. -/
def lastCtr (s : State) (n : Nat) : Nat := ((rd s (strReg n 4)).toNat + 2 ^ 32 - 1) % 2 ^ 32

/-! ## Packets (R308, R309, R317, R318) -/

/-- The first free buffer of a stream. -/
def freeBuf (x : Strm) : Option Nat := (x.bufs.find? bufFree).map PicBuf.unit

/-- An access unit opens with its first packet (R309, R322).  It begins its decode with a buffer of its own (R315): one is given when it is known to be decoded. -/
def openAu (s : State) (n : Nat) (p : RtpPkt) (arr : Time) : State :=
  let ctr := (rd s (strReg n 4)).toNat
  let s1 := bump s (strReg n 4)
  let x := strmOf s1 n
  setStrm s1 n { x with curTs := some p.ts, curEnd := false, aus := x.aus ++ [⟨ctr, p.ts, arr, arr, 0, false, false, false, false, false, false, !x.synced || x.raslSkip, false, p.ntp, none, x.engine⟩] }

/-- The access unit in delivery, if it has not been dropped. -/
def curAu (x : Strm) : Option Au := match x.curTs with
  | none => none
  | some ts => match x.aus.getLast? with
    | none => none
    | some a => if a.ts = ts then some a else none

/-- An access unit that is to be decoded takes a free buffer, or is dropped with BUF_EMPTY (R315). -/
def takeBuf (s : State) (n ctr : Nat) : State :=
  let x := strmOf s n
  match auOf x ctr with
  | none => s
  | some a => if a.wait ∨ a.buf.isSome then s else match freeBuf x with
    | none => dropAu s n ctr eBufEmpty false
    | some u => setStrm s n (setAu (modBuf x u (fun b => { b with busy := true, ctr := some ctr })) { a with buf := some u })

/-- Judge access unit `ctr` after a packet of it (R319); `point`: the packet has shown that it is a random access point. -/
def judgeAu (s : State) (n ctr : Nat) (point : Bool) : State :=
  let x := strmOf s n
  match auOf x ctr with
  | none => s
  | some a =>
    if a.wait then
      let y := judge x a
      takeBuf (bumpBy (setStrm s n y.1) (strReg n 0x28) y.2) n ctr
    else takeBuf (if point then setStrm s n { syncAt x a with raslSkip := false } else s) n ctr

/-- An access unit with one more packet. -/
def addPkt (a : Au) (h : HeldPkt) : Au :=
  let p := h.pkt
  { a with
    lastArr := max a.lastArr h.arr, size := a.size + p.payload.length, marker := p.marker, vcl := a.vcl || p.vcl, nonRef := a.nonRef || p.nonRef,
    rap := a.rap || p.rap, rasl := a.rasl || p.rasl }

/-- A payload waits in the receive buffer of its port for its place in the bitstream ring (R302). -/
def rxPut (s : State) (n : Nat) (bs : List Byte) : State :=
  let p := fld s (entReg n 0) 24 3
  let x := strmOf s n
  setRx (setStrm s n { x with wr := (x.wr + bs.length) % bitRing }) p (rxOf s p ++ [⟨n, x.wr, bs⟩])

/-- Deliver a packet in order of sequence (R309). -/
def deliver (s : State) (n : Nat) (h : HeldPkt) : State :=
  let p := h.pkt
  let x0 := strmOf s n
  let lost := x0.lossNext
  let s0 := setStrm s n { x0 with expected := some ((p.seq + 1) % 65536), lossNext := false, lost := x0.lost.filter (fun q => decide (q ≠ p.seq % 65536)) }
  let s1 := if x0.curTs = some p.ts then s0 else openAu s0 n p h.arr
  let x1 := strmOf s1 n
  let s2 := setStrm s1 n { x1 with curEnd := p.marker }
  match curAu (strmOf s2 n) with
  | none => s2
  | some a =>
    let b := addPkt a h
    let s3 := rxPut (setStrm s2 n (setAu (strmOf s2 n) b)) n p.payload
    if lost then dropAu s3 n b.ctr ePktLoss (!b.nonRef)
    else if ¬ p.supported then dropAu s3 n b.ctr eUnsupported false
    else if 1048576 < b.size then dropAu s3 n b.ctr eAuLarge false
    else judgeAu s3 n b.ctr (b.rap && !a.rap)

/-- Deliver the held packets that follow without a gap. -/
def deliverHeld (n : Nat) : Nat → State → State
  | 0, s => s
  | k + 1, s =>
    let x := strmOf s n
    match x.held with
    | [] => s
    | h :: r => if some (h.pkt.seq % 65536) = x.expected then deliverHeld n k (deliver (setStrm s n { x with held := r }) n h) else s

/-- Deliver everything that is in order. -/
def deliverAll (s : State) (n : Nat) : State := deliverHeld n ((strmOf s n).held.length) s

/-- Distance of a sequence number from the expected one (R317). -/
def seqDist (x : Strm) (seq : Nat) : Nat := match x.expected with
  | none => 0
  | some e => (seq % 65536 + 65536 - e) % 65536

/-- Put a held packet in its place. -/
def holdPkt (d : Nat → Nat) (h : HeldPkt) : List HeldPkt → List HeldPkt
  | [] => [h]
  | x :: r => if d h.pkt.seq < d x.pkt.seq then h :: x :: r else x :: holdPkt d h r

/-- A restart of the camera (R317): the expected number is rebased and nothing counts as lost. -/
def restart (s : State) (n : Nat) (h : HeldPkt) : State :=
  let x := strmOf s n
  let s1 := setStrm s n { x with held := [], lost := [], behind := 0, ssrc := some h.pkt.ssrc, lossNext := false, expected := some (h.pkt.seq % 65536) }
  let s2 := match curAu x with
    | none => s1
    | some a => if x.curEnd then s1 else dropAu s1 n a.ctr 0 false
  deliver (resync (strErr s2 n eRestart) n (lastCtr s2 n)) n h

/-- An RTP packet reaches its stream (R317). -/
def rtpPacket (s0 : State) (n : Nat) (p : RtpPkt) : State :=
  let h : HeldPkt := ⟨p, s0.clk.tb⟩
  let x := { strmOf s0 n with lastPkt := s0.clk.tb }
  let s := setStrm s0 n x
  if x.expected.isNone then deliverAll (deliver (setStrm s n { x with ssrc := some p.ssrc }) n h) n
  else if ¬ flag s (entReg n 0) 28 ∧ x.ssrc ≠ some p.ssrc then restart s n h
  else
    let d := seqDist x p.seq
    if d = 0 then deliverAll (deliver (setStrm s n { x with behind := 0 }) n h) n
    else if d ≤ 1023 then
      if x.held.any (fun g => decide (g.pkt.seq % 65536 = p.seq % 65536)) then bump (setStrm s n { x with behind := 0 }) (strReg n 0x1C)
      else
        let fills := x.held.any (fun g => decide (d < seqDist x g.pkt.seq))
        let s1 := setStrm s n { x with behind := 0, held := holdPkt (seqDist x) h x.held }
        if fills then bump s1 (strReg n 0x20) else s1
    else if d ≤ 32767 then restart s n h
    else if 15 ≤ x.behind then restart s n h
    else
      let s1 := setStrm s n { x with behind := x.behind + 1 }
      bump s1 (strReg n (if x.lost.contains (p.seq % 65536) then 0x18 else 0x1C))

/-- Declare a gap lost (R317, R318): PKT_LOST counts each missing number, and the access unit in delivery misses packets unless its marker has come.  So may the
one that the next packet belongs to, but where the single packet missing was the last of the one in delivery. -/
def loseGap (s : State) (n : Nat) (x : Strm) (h : HeldPkt) : State :=
  let d := seqDist x h.pkt.seq
  let e := x.expected.getD 0
  let gone := (rangeFrom 0 d).map (fun i => (e + i) % 65536)
  let tail := decide (d = 1) && x.curTs.isSome && !x.curEnd && decide (x.curTs ≠ some h.pkt.ts)
  let s1 := bumpBy (setStrm s n { x with lost := (gone.reverse ++ x.lost).take 32768, expected := some (h.pkt.seq % 65536), lossNext := !tail }) (strReg n 0x14) d
  let s2 := match curAu x with
    | none => s1
    | some a => if x.curEnd then s1 else dropAu s1 n a.ctr ePktLoss (!a.nonRef)
  deliverAll s2 n

/-- GAP_TIMEOUT: the oldest gap is declared lost once REORDER_US have passed since the first packet beyond it arrived, or
REORDER_PKTS packets lie beyond it (R317). -/
def execGapTimeout (t : Time) (n : Fin 512) (s0 : State) : Res :=
  let s := advance s0 t
  let x := strmOf s n
  .next (match x.held with
  | [] => s
  | h :: _ =>
    let first := x.held.foldl (fun m g => min m g.arr) h.arr
    if first + 1000 * fld s (entReg n 0x1C) 0 16 ≤ s.clk.tb ∨ clampNat 1 64 (fld s (entReg n 0x1C) 16 7) ≤ x.held.length then loseGap s n x h else s)

/-- When the last packet of an access unit arrived: delivered, or held behind a gap (R317, R318). -/
def lastOf (x : Strm) (a : Au) : Time := x.held.foldl (fun m h => if h.pkt.ts = a.ts then max m h.arr else m) a.lastArr

/-- An access unit still incomplete IDLE_MS after its last packet is dropped (R318), if it has not been passed over meanwhile. -/
def idleAu (n : Nat) (s : State) (ctr : Nat) : State := match auOf (strmOf s n) ctr with
  | none => s
  | some a => if a.marker ∨ s.clk.tb < lastOf (strmOf s n) a + idleNs s n then s else dropAu s n ctr ePktLoss (!a.nonRef)

/-- AU_IDLE_TIMEOUT (R318, R330). -/
def execAuIdleTimeout (t : Time) (n : Fin 512) (s0 : State) : Res :=
  let s := advance s0 t
  let x := strmOf s n
  .next (if x.st = .off then s else
    let s1 := (x.aus.map Au.ctr).foldl (idleAu n) s
    if x.lastPkt + idleNs s n ≤ s.clk.tb ∧ (strmOf s1 n).st = .run then resync s1 n (lastCtr s1 n) else s1)

/-- AU_COMPLETE: the oldest access unit whose marker packet has been delivered is complete (R309). -/
def execAuComplete (t : Time) (n : Fin 512) (s0 : State) : Res :=
  let s := advance s0 t
  let x := strmOf s n
  .next (match x.aus.find? (fun a => a.marker && !a.complete) with
  | none => s
  | some a => setStrm s n (setAu x { a with complete := true }))

/-! ## Receiving (R300 to R303) -/

/-- Count a frame. -/
def rxCount (s : State) (p o : Nat) : State := bump s (portReg p o)

/-- Streams that are enabled: RESYNC or RUN. -/
def strmOn (x : Strm) : Bool := decide (x.st = .resync) || decide (x.st = .run)

/-- The three conditions of R312. -/
def entryMatches (s : State) (n p udp ssrc : Nat) : Bool :=
  decide (fld s (entReg n 0) 24 3 = p) && decide (fld s (entReg n 0) 0 16 = udp) && (!flag s (entReg n 0) 28 || decide ((rd s (entReg n 4)).toNat = ssrc))

/-- The enabled entry that a datagram matches (R301, R312). -/
def matchEntry (s : State) (p udp ssrc : Nat) : Option Nat :=
  (s.ing.strms.find? (fun e => strmOn e.2 && entryMatches s e.1 p udp ssrc)).map Prod.fst

/-- A datagram of a stream that is ending or has ended (R329). -/
def endedEntry (s : State) (p udp ssrc : Nat) : Bool :=
  s.ing.strms.any (fun e => (decide (e.2.st = .ending) || e.2.gone) && entryMatches s e.1 p udp ssrc)

/-- STR_GROUP of the committed streams of a port (R301). -/
def groupsOn (s : State) (p : Nat) : List Nat :=
  ((s.ing.strms.filter (fun e => strmOn e.2 && decide (fld s (entReg e.1 0) 24 3 = p))).map (fun e => (rd s (entReg e.1 8)).toNat)).filter (fun g => decide (g ≠ 0))

/-- The IPv6 address of a port, word 0 the least significant. -/
def ipv6At (s : State) (p : Nat) : Nat := ((rangeFrom 0 4).map (fun i => (rd s (portReg p (0x10 + 4 * i))).toNat * 2 ^ (32 * i))).sum

/-- A datagram to the port's own address or to a committed group (R301 step 3). -/
def ownIp (s : State) (p : Nat) (u : Udp) : Bool :=
  if u.v6 then decide (u.dst = ipv6At s p) && decide (u.dst ≠ 0)
  else (decide (u.dst = (rd s (portReg p 0xC)).toNat) && decide (u.dst ≠ 0)) || (groupsOn s p).contains u.dst

/-- The MAC address of a port. -/
def portMac (s : State) (p : Nat) : Nat := (rd s (portReg p 4)).toNat + 2 ^ 32 * fld s (portReg p 8) 0 16

/-- A frame to the port's MAC address, to broadcast, or to the address of a committed group (R301 step 5). -/
def ownMac (s : State) (p : Nat) (e : Eth) : Bool :=
  decide (e.dst = portMac s p) || decide (e.dst = 2 ^ 48 - 1)
    || (groupsOn s p).any (fun g => decide (e.dst = 0x01005E000000 + g % 2 ^ 23))

/-- A frame goes to the management queue, which a full queue drops (R301 step 5). -/
def mgmtPut (s : State) (p : Nat) (f : RxFrame) : State :=
  let i := s.ing
  if f.mgmtFull then rxCount s p 0x3C else { s with ing := { i with mgmt := i.mgmt ++ [(p, f.bytes)] } }

/-- The stream that an RTCP sender report feeds (R301 step 4). -/
def srStream (s : State) (p udp ssrc : Nat) : Option Nat :=
  (s.ing.strms.find? (fun e => strmOn e.2 && decide (fld s (entReg e.1 0) 24 3 = p)
    && decide (fld s (entReg e.1 0) 0 16 + 1 = udp)
    && decide ((if flag s (entReg e.1 0) 28 then some (rd s (entReg e.1 4)).toNat else e.2.ssrc) = some ssrc))).map Prod.fst

/-- Steps 3 and 4 of R301 for a datagram, and what R329 says of the packets of a stream that has ended; none where a later step decides. -/
def rxUdp (s : State) (p : Nat) (u : Udp) (f : RxFrame) : Option State :=
  let ssrc := be u.body 8 4
  match (if ownIp s p u ∧ 12 ≤ u.body.length then matchEntry s p u.dport ssrc else none) with
  | some n => some (rtpPacket s n (rtpOf (codecOf s n) (fld s (entReg n 0x14) 24 8) u.body))
  | none => if 12 ≤ u.body.length ∧ endedEntry s p u.dport ssrc then some (rxCount s p 0x30) else
    match srOf u.body with
    | none => none
    | some (src, ntp, ts) => match srStream s p u.dport src with
      | none => none
      | some n =>
        let x := strmOf s n
        some (mgmtPut (setStrm s n { x with sr := some (ntp, ts) }) p f)

/-- The port that PTP_CFG.PORT selects, in camera mode (R304). -/
def ptpPort (s : State) (p : Nat) : Bool := isCamera s p && decide (fld s (ptpReg 0) 27 3 = p)

/-- A port in camera mode classifies a frame (R301); the messages that go to the PTP block are commands of their own. -/
def rxCamera (s : State) (p : Nat) (e : Eth) (f : RxFrame) : State :=
  let rest := if ownMac s p e then mgmtPut s p f else rxCount s p 0x30
  match (if ptpPort s p then ptpOf (flag s (ptpReg 0) 30) e else none) with
  | some b => if ptpMgmt b then mgmtPut s p f else s
  | none => match carried e with
    | .udp u => (rxUdp s p u f).getD rest
    | _ => rest

/-- A port receives a frame (R300 to R303): packets of its buffer have moved on, and it is discarded, or classified. -/
def rxFrame (s0 : State) (p : Nat) (f : RxFrame) : State :=
  if ¬ portOk s0 p then s0 else
  let s := rxCount (rxMove s0 p f.moved) p 0x28
  let e := ethOf f.bytes
  if fcsOk f.bytes = false ∨ carried e = .bad then rxCount s p 0x2C
  else if f.bytes.length < 64 then s
  else if 9216 < f.bytes.length then rxCount s p 0x34
  else if isPause e then rxCount s p 0x40
  else if flag s (portReg p 0) 12 ∧ e.vlan ≠ some (fld s (portReg p 0) 0 12) then rxCount s p 0x30
  else if rxBytes < rxUsed s p + f.bytes.length then rxCount s p 0x38
  else if portMode s p = 2 then (if e.type = 0x88B5 then s else rxCount s p 0x30)
  else rxCamera s p e f

/-- RX_FRAME. -/
def execRxFrame (t : Time) (p : Fin 8) (f : RxFrame) (s : State) : Res := .next (rxFrame (advance s t) p f)

/-- ETH_LINK_DOWN: LINK clears and the change is counted; the streams stay enabled (R330). -/
def execEthLinkDown (t : Time) (p : Fin 8) (s0 : State) : Res :=
  let s := advance s0 t
  .next (if linkUp s p then bump (setFlag s (portReg p 0x20) 0 false) (portReg p 0x24) else s)

/-- ETH_LINK_UP: a port that is not off, with an option that it supports, shows its link (R300, R303, R332). -/
def execEthLinkUp (t : Time) (p : Fin 8) (s0 : State) : Res :=
  let s := advance s0 t
  .next (if portOk s p then setFlag s (portReg p 0x20) 0 true else s)

/-! ## Decode and publication (R314 to R325) -/

/-- Access units in progress on an engine. -/
def inProgress (s : State) (e : Nat) : Nat :=
  (s.ing.strms.map (fun x => (x.2.aus.filter (fun a => a.started && decide (a.eng = e))).length)).sum

/-- The next access unit to start on an engine: earliest deadline, ties to the lower stream (R316). -/
def nextStart (s : State) (e : Nat) : Option (Nat × Au) :=
  let cand := s.ing.strms.filterMap (fun x =>
    (x.2.aus.find? (fun a => decide (a.eng = e) && !a.started && !a.wait && a.buf.isSome)).map (fun a => (x.1, a)))
  cand.foldl (fun m c => match m with
    | none => some c
    | some b => if c.2.arrival + pubBudget s c.1 < b.2.arrival + pubBudget s b.1 then some c else some b) none

/-- DECODE_START: an engine with fewer than four access units in progress starts the next one, whose first packet is in the bitstream ring (R316). -/
def execDecodeStart (t : Time) (e : Fin 32) (s0 : State) : Res :=
  let s := advance s0 t
  .next (if 4 ≤ inProgress s e then s else match nextStart s e with
  | none => s
  | some (n, a) =>
    let s1 := rxFlush s n
    let i := s1.ing
    setStrm { s1 with ing := { i with work := tset i.work e (n, a.ctr) } } n (setAu (strmOf s1 n) { a with started := true }))

/-- A byte of the working memory of a decode engine (R184): what it holds for an access unit the spec does not say, a free value; zero before the
first (log entry 95). -/
def workByte (s : State) (e i : Nat) : Byte := match tget? s.ing.work e with
  | none => 0
  | some (n, ctr) => if i < 0x40000 then Config.decoderByte n ctr i else 0

/-- Division to nearest, ties to even (R107). -/
def rneDivInt (a : Int) (b : Nat) : Int :=
  let q := a / b
  let r := a % b
  if 2 * r < b then q else if 2 * r > b then q + 1 else if q % 2 = 0 then q else q + 1

/-- An NTP-format value in ns (R323). -/
def ntpNs (v : Nat) : Int := ((v / 2 ^ 32 * 1000000000 : Nat) : Int) + rneDivInt ((v % 2 ^ 32 * 1000000000 : Nat) : Int) (2 ^ 32)

/-- ORIGIN_SET. -/
def originSet (s : State) : Bool := flag s (ptpReg 0xC) 1
/-- ORIGIN: grandmaster time minus the timebase, in ns, two's complement (R306). -/
def originOf (s : State) : Int := sx 64 (val64 s (ptpReg 0x18) (ptpReg 0x1C))

/-- The capture time of R323: the value, whether it is the estimate, and whether it was clamped. -/
def captureOf (s : State) (n : Nat) (a : Au) : Nat × Bool × Bool :=
  let est := a.arrival - 1000 * fld s (entReg n 0x14) 0 16
  let src : Option Int := match a.ntp with
    | some v => some (ntpNs v)
    | none => match (strmOf s n).sr with
      | none => none
      | some (v, ts) => some (ntpNs v + rneDivInt (sx 32 (a.ts + 2 ^ 32 - ts % 2 ^ 32) * 1000000000) 90000)
  match src with
  | none => (est, true, false)
  | some c0 =>
    if ¬ originSet s then (est, true, false) else
    let c := c0 - originOf s
    if (a.arrival : Int) < c ∨ c < (a.arrival : Int) - 1000000000 then (est, true, true) else (c.toNat, false, false)

/-! ### Output formats (R310) -/

/-- Columns and rows of a plane: `w` samples a row, from (x, y), `cw` by `ch`. -/
def cropPlane (l : List Nat) (w x y cw ch : Nat) : List (List Nat) := (rangeFrom y ch).map (fun r => (l.drop (r * w + x)).take cw)

/-- A sample as it is written: one byte for NV12; for P010 ten bits in [15:6], more than ten rounded under R107 to at most 1 023. -/
def sampleBytes (nv12 : Bool) (bits v : Nat) : List Byte :=
  if nv12 then [BitVec.ofNat 8 v]
  else leBytes 2 (64 * (if bits ≤ 10 then v * 2 ^ (10 - bits) % 1024 else min 1023 (rneDivInt v (2 ^ (bits - 10))).toNat))

/-- The pairs of a chroma row, Cb before Cr. -/
def pairRow (w : Nat) (c : List Nat × List Nat) : List Nat := ((c.1.zip c.2).flatMap (fun x => [x.1, x.2])).take w

/-- The output of a picture of a codec: whether it is NV12, or none where R310 lists no such sampling. -/
def outputOf (codec : Nat) (d : DecPic) : Option Bool := match codec with
  | 0 => if d.bits = 8 then some true else none
  | 1 => if d.mono then none else if d.bits = 8 then some true else if d.bits = 10 then some false else none
  | _ => if d.mono ∨ d.bits < 8 ∨ 12 < d.bits then none else some false

/-- The bytes of a cropped picture as published: its luma rows, then its chroma rows, 0x80 for 4:0:0 (R310, R324). -/
def picBytes (nv12 : Bool) (d : DecPic) : List Byte :=
  let luma := cropPlane d.y d.w d.cropX d.cropY d.cropW d.cropH
  let crop := fun l => cropPlane l ((d.w + 1) / 2) (d.cropX / 2) (d.cropY / 2) ((d.cropW + 1) / 2) ((d.cropH + 1) / 2)
  let chroma := if d.mono then List.replicate ((d.cropH + 1) / 2) (List.replicate d.cropW 0x80) else ((crop d.cb).zip (crop d.cr)).map (pairRow d.cropW)
  (luma ++ chroma).flatten.flatMap (sampleBytes nv12 d.bits)

/-! ### Publication (R321 to R325) -/

/-- PUB_MIN_SLACK keeps the lowest slack (R325). -/
def keepSlack (s : State) (n : Nat) (slack : Int) : State :=
  let v := clampInt (-2147483648) 2147483647 slack
  if v < sx 32 (rd s (strReg n 8)).toNat then wrReg s (strReg n 8) (BitVec.ofInt 32 v) else s

/-- FLAGS of a published picture (R321). -/
def pubFlags (ended late disc key est : Bool) : Nat :=
  (if ended then 32 else 0) + (if late then 16 else 0) + (if disc then 8 else 0) + (if key then 4 else 0) + (if est then 2 else 0)

/-- The picture is the first after an access unit that was dropped, or the first since the stream was enabled (R321, R328). -/
def isDiscont (x : Strm) (a : Au) : Bool := x.discont || x.drops.any (fun c => ctrBefore c a.ctr)

/-- A stream after it has published access unit `a` (R315, R321, R328). -/
def afterPublish (x : Strm) (a : Au) (rec64 : List Byte) (refs : List Nat) : Strm :=
  { x with
    bufs := x.bufs.map (fun b =>
      let c := if a.buf = some b.unit then { b with busy := false, record := rec64, ctr := some a.ctr } else b
      if c.old then c else { c with ref := !c.busy && (match c.ctr with | none => false | some k => refs.contains k) }),
    aus := x.aus.filter (fun b => decide (b.ctr ≠ a.ctr)), discont := false, drops := x.drops.filter (fun c => !ctrBefore c a.ctr),
    st := if x.st = .resync ∧ x.synced ∧ a.rap then .run else x.st }

/-- Publish a picture (R321 to R325): `u` is the first unit of its buffer. -/
def publish (s : State) (n : Nat) (a : Au) (u : Nat) (nv12 : Bool) (d : DecPic) : State :=
  let x := strmOf s n
  let now := s.clk.tb
  let bps := if nv12 then 1 else 2
  let bytes := picBytes nv12 d
  let due := a.arrival + pubBudget s n
  let late := decide (due < now)
  let cap := captureOf s n a
  let addr := poolAddr s u
  let r := frameBytes ⟨cap.1, a.arrival, now, a.ctr, n, pubFlags (decide (x.st = .ending)) late (isDiscont x a) a.rap cap.2.1, addr, bps, d.cropW, d.cropH,
    d.cropW * bps, d.cropW * bps * d.cropH, a.ts, crc32c bytes⟩
  let s1 := if cap.2.2 then bump s (strReg n 0x30) else s
  let s2 := keepSlack (if late then bump s1 (strReg n 0x10) else s1) n ((due : Int) - now)
  let s3 := bump (bump (wrMem s2 addr bytes) (strReg n 0xC)) (engReg a.eng 4)
  endCheck (notifyAll (setStrm s3 n { afterPublish x a r d.refs with pubAt := some now }) n a.ctr r a.buf) n

/-- Decode ends for an access unit in progress (R310, R311, R315, R320, R325). -/
def decodeComplete (s : State) (n ctr : Nat) (r : DecResult) : State :=
  let x := strmOf s n
  match auOf x ctr with
  | none => s
  | some a => if ¬ a.started then s else match r with
    | .unsupported => dropAu s n ctr eUnsupported true
    | .error => dropAu (bump s (strReg n 0x2C)) n ctr eDecode true
    | .poison => dropAu (bump s (engReg a.eng 8)) n ctr ePoison true
    | .picture d =>
      if ¬ a.complete then s
      else match outputOf (codecOf s n) d with
        | none => dropAu s n ctr eUnsupported true
        | some nv12 =>
          if declW s n < d.cropW ∨ declH s n < d.cropH ∨ 4096 < d.cropW ∨ 4096 < d.cropH then dropAu s n ctr eTooLarge false
          else if nbufOf s n - 1 < d.need then dropAu s n ctr eDpb true
          else match a.buf with
            | none => s
            | some u => publish s n a u nv12 d

/-- DECODE_COMPLETE. -/
def execDecodeComplete (t : Time) (n : Fin 512) (ctr : Nat) (r : DecResult) (s : State) : Res := .next (decodeComplete (advance s t) n ctr r)

/-- NOTICE_RELEASE: on a signal of RTOK the ingest reads the next release entry (R327). -/
def noticeRelease (s : State) (p : Nat) : State :=
  let r := nringOf s p
  if r.due = 0 then s else
  let a := fld s (noticeReg p 8) 3 29 * 8 + 2 ^ 32 * fld s (noticeReg p 0xC) 0 16 + 8 * (r.rel % ringSize s p)
  let e := rdLE s a 8
  let s1 := setNring s p { r with rel := r.rel + 1, due := r.due - 1 }
  if tget? r.slots (fieldOf e 48 12) = some (fieldOf e 32 9, fieldOf e 0 32) then freeNotice s1 p (fieldOf e 48 12) else bump s1 (noticeReg p 0x18)

/-- NOTICE_RELEASE. -/
def execNoticeRelease (t : Time) (p : Fin 16) (s : State) : Res := .next (noticeRelease (advance s t) p)

/-- What a partition reset does to the notices of the partition (R327): its release ring is read again from its start. -/
def ingPartReset (s : State) (p : Nat) : State :=
  let s1 := ((nringOf s p).slots.map Prod.fst).foldl (fun s i => freeNotice s p i) s
  let r := nringOf s1 p
  if r = Ring.reset then s1 else setNring s1 p { r with rel := 0, due := 0 }

/-! ## The commit of ingest (R303, R312 to R315, R328, R329) -/

/-- Registers of the ING group (R312). -/
def isIngReg (off : Nat) : Bool := decide (0x200C00 ≤ off) && decide (off < 0x20C000)

/-- Declared rate of an entry, in pixels per 1000 s (R314). -/
def rateOf (s : State) (n : Nat) : Nat := declW s n * declH s n * fld s (entReg n 0x10) 0 17

/-- Committed rate of an engine; a moving stream counts on both (R314). -/
def engRate (s : State) (e : Nat) : Nat :=
  (s.ing.strms.map (fun x => if x.2.st ≠ .off ∧ (x.2.engine = e ∨ x.2.moving = some e) then rateOf s x.1 else 0)).sum

/-- The engine with the lowest committed rate that has room, the lowest number of equals (R314). -/
def bestEngine (s : State) (rate : Nat) (l : List Nat) : Option Nat :=
  l.foldl (fun m e =>
    let q := engRate s e
    if 600000000000 < q + rate then m else match m with
      | none => some e
      | some b => if q < engRate s b then some e else some b) none

/-- The engine for an entry: behind the port's own router where possible (R314). -/
def pickEngine (s : State) (n : Nat) : Option Nat :=
  let near := if fld s (entReg n 0) 24 3 < 4 then rangeFrom 0 16 else rangeFrom 16 16
  match bestEngine s (rateOf s n) near with
  | some e => some e
  | none => bestEngine s (rateOf s n) (rangeFrom 0 32)

/-- Ranges of the decode pool in use: first unit and length. -/
def poolUsed (s : State) : List (Nat × Nat) :=
  (s.ing.strms.map (fun x => (match x.2.ring with | none => [] | some u => [(u, 32)]) ++ x.2.bufs.map (fun b => (b.unit, b.len)))).flatten

/-- POOL_FREE. -/
def poolFree (s : State) : Nat := poolLen s - ((poolUsed s).map Prod.snd).sum

/-- The lowest start of a free range of `len` units: at unit 0 or behind a used range. -/
def poolFit (s : State) (used : List (Nat × Nat)) (len : Nat) : Option Nat :=
  let ok := fun u => decide (u + len ≤ poolLen s) && used.all (fun r => decide (u + len ≤ r.1) || decide (r.1 + r.2 ≤ u))
  (0 :: used.map (fun r => r.1 + r.2)).foldl (fun m u => if ok u then (match m with | none => some u | some v => some (min u v)) else m) none

/-- Place ranges of the lengths given, one after the other. -/
def poolTake (s : State) : List Nat → List (Nat × Nat) → List Nat → Option (List Nat)
  | [], _, got => some got.reverse
  | len :: r, used, got => match poolFit s used len with
    | none => none
    | some u => poolTake s r ((u, len) :: used) (u :: got)

/-- Units of one picture buffer (R315): 1.5 samples a pixel, of one byte for H.264 and two otherwise. -/
def bufUnits (s : State) (n : Nat) : Nat :=
  let bytes := declW s n * declH s n * 3 * (if codecOf s n = 0 then 1 else 2)
  (bytes + 131071) / 131072

/-- Clear EN of an entry that conflicts and set a conflict bit of the VDC status (R313); bit 3 stands for none. -/
def refuseEntry (s : State) (n bit : Nat) : State :=
  let s1 := setFlag s (entReg n 0) 31 false
  if bit < 3 then setFlag s1 0x280010 bit true else s1

/-- Two enabled entries clash (R313). -/
def entriesClash (s : State) (m n : Nat) : Bool :=
  flag s (entReg m 0) 31 && decide (fld s (entReg m 0) 24 3 = fld s (entReg n 0) 24 3) && decide (fld s (entReg m 0) 0 16 = fld s (entReg n 0) 0 16)
    && (!flag s (entReg m 0) 28 || !flag s (entReg n 0) 28 || decide (rd s (entReg m 4) = rd s (entReg n 4)))

/-- Start a stream (R314, R315, R328). -/
def startStream (s : State) (n : Nat) : State := match pickEngine s n with
  | none => refuseEntry s n 1
  | some e =>
    let len := bufUnits s n
    match poolTake s (32 :: List.replicate (nbufOf s n) len) (poolUsed s) [] with
    | some (r :: us) =>
      let x := strmOf s n
      setStrm s n { Strm.reset with
        st := .resync, engine := e, ring := some r, discont := true, lastPkt := s.clk.tb, pliAt := x.pliAt, plis := x.plis,
        bufs := x.bufs ++ us.map (fun u => ⟨u, len, none, [], false, false, [], false⟩) }
    | _ => refuseEntry s n 2

/-- EN commits 0: the stream is ENDING, and what is incomplete is dropped (R329). -/
def stopStream (s : State) (n : Nat) : State :=
  let x := strmOf s n
  let s1 := setStrm s n { x with st := .ending, held := [], moving := none }
  let s2 := (x.aus.filter (fun a => !a.marker)).foldl (fun s a => bump (setStrm s n (cutAu (strmOf s n) a.ctr)) (strReg n 0x24)) s1
  endCheck s2 n

/-- REASSIGN: the stream moves at its next random access point (R314). -/
def reassign (s : State) (n : Nat) : State :=
  let x := strmOf s n
  match pickEngine s n with
  | none => s
  | some e => if e = x.engine then s else setStrm s n { x with moving := some e }

/-- The outcome of the commit for one entry (R303, R313); `st0` holds the entries as staged, by which R313 judges two of them. -/
def commitEntry (st0 : State) (lower : List Nat) (s0 : State) (n : Nat) : State :=
  let s := if ¬ flag s0 (entReg n 0) 31 then s0
    else if codecOf s0 n = 3 then refuseEntry s0 n 3
    else if lower.any (fun m => decide (m < n) && entriesClash st0 m n) then refuseEntry s0 n 0
    else if portMode s0 (fld s0 (entReg n 0) 24 3) ≠ 1 then refuseEntry s0 n 0
    else s0
  let st := (strmOf s n).st
  let s1 := if flag s (entReg n 0) 31 then
      (match st with
       | .off => startStream s n
       | .ending => s
       | _ => if flag s (entReg n 0) 30 then reassign s n else s)
    else (match st with
       | .resync => stopStream s n
       | .run => stopStream s n
       | _ => s)
  if flag s1 (entReg n 0) 30 then setFlag s1 (entReg n 0) 30 false else s1

/-- Entries that are enabled, or whose stream is not OFF. -/
def entriesOf (s : State) : List Nat := (rangeFrom 0 512).filter (fun n => flag s (entReg n 0) 31 || flag s (entReg n 0) 30 || decide ((strmOf s n).st ≠ .off))

/-- The commit of the ING group at instant `b` (R312, R313). -/
def ingCommit (b : Time) (s0 : State) : State :=
  let s := commitAll b isIngReg s0
  let l := entriesOf s
  l.foldl (commitEntry s l) s

/-! ## PTP (R304 to R307) -/

/-- A write of GLB_TB_ADJ: limited to ±500 000 ppb (R45, R47). -/
def writeAdj (s : State) (v : Int) : State :=
  let c := clampInt (-500000) 500000 v
  let s1 := setFlag (wrReg s 0x110 (BitVec.ofInt 32 c)) 0x11C 0 true
  if c = v then s1 else setFlag s1 0x11C 1 true

/-- The servo runs (R306, R307). -/
def servoOn (s : State) : Bool := flag s (ptpReg 0) 31 && decide (gangMember s = 0)

/-- Servo output in ppb: KP/256 · o + KI/4096 · Σo, rounded under R107. -/
def servoOut (s : State) (o sum : Int) : Int :=
  rneDivInt (16 * (fld s (ptpReg 4) 0 16 : Int) * o + (fld s (ptpReg 4) 16 16 : Int) * sum) 4096

/-- SERVO_LOCK sets and clears after eight Syncs; LOCKED at the first SERVO_LOCK (R306). -/
def servoLock (s : State) (o : Int) : State :=
  let near := decide (o.natAbs < (rd s (ptpReg 8)).toNat)
  let i := s.ing
  let a := if near then i.inRow + 1 else 0
  let b := if near then 0 else i.outRow + 1
  let s1 : State := { s with ing := { i with inRow := a, outRow := b } }
  let s2 := if 8 ≤ a then setFlag (setFlag s1 (ptpReg 0xC) 0 true) 0x11C 2 true else s1
  if 8 ≤ b then setFlag s2 (ptpReg 0xC) 0 false else s2

/-- A message counts for the clock (R304): it came on the selected port, in camera mode, over the transport and in the domain chosen, with a message
interval from −7 to 1 (`logInt` is 7 more), and the servo runs. -/
def ptpTaken (s : State) (m : PtpMsg) (logInt : Nat) : Bool :=
  servoOn s && ptpPort s m.port && (m.l2 == flag s (ptpReg 0) 30) && decide (m.domain = min 127 (fld s (ptpReg 0) 0 8)) && decide (logInt ≤ 8)

/-- The fields that the best master clock algorithm compares between two grandmasters, first the most significant (R304). -/
def annKey (a : Announce) : List Nat := [a.prio1, a.cls, a.accuracy, a.variance, a.prio2, a.identity]

/-- An interval of messages in ns, given as 7 more than its power of two. -/
def intervalNs (k : Nat) : Nat := 2 ^ k * 7812500

/-- A master that counts: it qualifies, is fewer than 255 steps from its grandmaster, and its last Announce came within three intervals (R304; log
entry 88). -/
def masterLive (s : State) (f : Foreign) : Bool :=
  f.qualified && decide (f.an.steps < 255) && decide (s.clk.tb < f.at_ + 3 * intervalNs f.an.logInt)

/-- The better of two masters (R304): by grandmaster; of one grandmaster, the nearer to it, then the lower port identity. -/
def betterMaster (x y : Foreign) : Bool :=
  if x.an.identity = y.an.identity then decide (x.an.steps < y.an.steps ∨ (x.an.steps = y.an.steps ∧ x.source < y.source))
  else decide (annKey x.an < annKey y.an)

/-- The best master of those that count. -/
def bestMaster (s : State) : Option Nat :=
  ((s.ing.masters.filter (masterLive s)).foldl (fun m f => match m with
    | none => some f
    | some b => if betterMaster f b then some f else some b) none).map Foreign.source

/-- It is a message of the best master (R304): before an Announce has named one, none is. -/
def ofMaster (s : State) (m : PtpMsg) : Bool := decide (bestMaster s = some m.source)

/-- A Sync message of the best master (R306): `gm` is its corrected origin time in ns, and its arrival is stamped (R305). -/
def ptpSync (s0 : State) (m : PtpMsg) (gm logInt : Nat) : State :=
  if ¬ (ptpTaken s0 m logInt && ofMaster s0 m) then s0 else
  let i0 := s0.ing
  let s := setFlag (bump { s0 with ing := { i0 with lastSync := some (s0.clk.tb, logInt, gm) } } (ptpReg 0x20)) (ptpReg 0xC) 2 false
  let now := gm + (rd s (ptpReg 0x14)).toNat
  if ¬ originSet s then
    let s1 := setFlag (wr64 s (ptpReg 0x18) (ptpReg 0x1C) (tc 64 ((now : Int) - s.clk.tb))) (ptpReg 0xC) 1 true
    wrReg s1 (ptpReg 0x10) 0
  else
    let o : Int := (now : Int) - (s.clk.tb + originOf s)
    let sum := s.ing.sumOff + o
    let i := s.ing
    let s1 := wrReg { s with ing := { i with sumOff := sum } } (ptpReg 0x10) (BitVec.ofInt 32 o)
    servoLock (writeAdj s1 (servoOut s1 o sum)) o

/-- PTP_SYNC. -/
def execPtpSync (t : Time) (m : PtpMsg) (gm logInt : Nat) (s : State) : Res := .next (ptpSync (advance s t) m gm logInt)

/-- A delay request-response exchange with the best master (R305, R306): the request was stamped as it left, and the master received it; with the latest Sync
it gives one path delay, half of the round trip; the mean of the last eight is kept, rounded under R107. -/
def ptpDelay (s : State) (d : PtpDelay) : State := match s.ing.lastSync with
  | none => s
  | some (arr, _, org) =>
    if ¬ (ptpTaken s d.msg d.logInt && ofMaster s d.msg) then s else
    let i := s.ing
    let l := (((arr : Int) - org + (d.gm - d.sent)).toNat :: i.delays).take 8
    wrReg { s with ing := { i with delays := l } } (ptpReg 0x14) (BitVec.ofInt 32 (rneDivInt l.sum (2 * l.length)))

/-- PTP_DELAY_RESP. -/
def execPtpDelayResp (t : Time) (d : PtpDelay) (s : State) : Res := .next (ptpDelay (advance s t) d)

/-- The record of a master after one more Announce message of it: it qualifies by two within four intervals (R304; log entry 88). -/
def announced (s : State) (m : PtpMsg) (a : Announce) : Foreign :=
  ⟨m.source, a, s.clk.tb, match s.ing.masters.find? (fun f => decide (f.source = m.source)) with
    | none => false
    | some f => decide (s.clk.tb ≤ f.at_ + 4 * intervalNs a.logInt)⟩

/-- An Announce message on the selected port: the masters heard of are kept, and the best of them counts (R304). -/
def ptpAnnounce (s : State) (m : PtpMsg) (a : Announce) : State :=
  let i := s.ing
  let f := announced s m a
  if ¬ ptpTaken s m 0 then s
  else if i.masters.any (fun g => decide (g.source = m.source))
    then { s with ing := { i with masters := i.masters.map (fun g => if g.source = m.source then f else g) } }
  else { s with ing := { i with masters := i.masters ++ [f] } }

/-- PTP_ANNOUNCE. -/
def execPtpAnnounce (t : Time) (an : PtpAnnounce) (s : State) : Res := .next (ptpAnnounce (advance s t) an.msg an.an)

/-- PTP_HOLDOVER: no Sync for eight intervals (R307). -/
def execPtpHoldover (t : Time) (s0 : State) : Res :=
  let s := advance s0 t
  .next (match s.ing.lastSync with
  | none => s
  | some (a, iv, _) =>
    if ¬ servoOn s ∨ s.clk.tb < a + 8 * (2 ^ iv * 7812500) then s else
    let i := s.ing
    setFlag (setFlag { s with ing := { i with inRow := 0 } } (ptpReg 0xC) 2 true) (ptpReg 0xC) 0 false)

/-! ## The gang (R273 to R276) -/

/-- PEER_LOST. -/
def fPeerLost : Nat := 0x0306

/-- A chain has a descriptor whose source or destination is on member `m`. -/
def chainTo (s : State) (m : Nat) (c : Chain) : Bool :=
  (rangeFrom 0 c.count).any (fun i =>
    let d := descOf c i
    (rangeFrom 0 (dRows d)).any (fun r => (dSrc d r :: dDests d r).any (fun a => match peerOf s a with | none => false | some (x, _) => decide (x = m))))

/-- Fault every chain of one queue that names member `m`. -/
def loseChains (m e vc : Nat) : Nat → State → State
  | 0, s => s
  | k + 1, s => match (queueOf s e vc).find? (chainTo s m) with
    | none => s
    | some c =>
      let rest := (queueOf s e vc).filter (fun x => decide (x ≠ c))
      loseChains m e vc k (chainFault (setQueue s e vc (c :: rest)) e vc fPeerLost 0 none)

/-- PEER_UNREACHABLE: every chain with a descriptor to the member faults with PEER_LOST (R275). -/
def execPeerUnreachable (t : Time) (m : Fin 8) (s0 : State) : Res :=
  let s := advance s0 t
  .next (if m.val = gangMember s ∨ gangSize s ≤ m then s else
    ((s.dma.map (fun e => e.2.q.map (fun v => (e.1, v.1)))).flatten).foldl (fun s x => loseChains m x.1 x.2 (queueOf s x.1 x.2).length s) s)

/-- What an accepted peer frame does (R275, R276). -/
def peerBody (s : State) (b : PeerBody) : State := match b with
  | .write p a bs sig =>
    if p < 16 ∧ spadCore a = none ∧ checkAcc s p true a bs.length = .ok then
      let s1 := wrMem s a bs
      match sig with | none => s1 | some k => signal s1 p k 1
    else s
  | .refused e vc a => chainFault s e vc fFence a none
  | .service m up vers =>
    let g := s.gang
    if m = gangMember s then s else { s with gang := { g with want := tset g.want m up, vers := tset g.vers m vers } }

/-- PEER_FRAME: a port in peer mode counts the frame; one in order with a good CRC is taken, a bad, repeated or early one is not (R275, R303). -/
def execPeerFrame (t : Time) (p src : Fin 8) (seq : Nat) (crcOk : Bool) (b : PeerBody) (s0 : State) : Res :=
  let s := advance s0 t
  .next (if ¬ isPeer s p then s else
    let s1 := rxCount s p 0x28
    let g := s1.gang
    if ¬ crcOk ∨ seq ≠ tget 0 g.seqs src then s1 else peerBody { s1 with gang := { g with seqs := tset g.seqs src (seq + 1) } } b)

/-- PEER_TIME_EXCHANGE: the member's offset from member 0 is measured and its timebase disciplined (R274); which rate
adjustment the discipline writes the spec does not state.  A member whose own servo is disabled never sets LOCKED here: R47 has it set when the counter
is first disciplined, R306 at the first SERVO_LOCK, and the model takes R306 (log entry 82). -/
def execPeerTimeExchange (t : Time) (p : Fin 8) (off : Int) (origin : Nat) (s0 : State) : Res :=
  let s := advance s0 t
  .next (if ¬ isPeer s p ∨ ¬ linkUp s p ∨ gangMember s = 0 then s else
    let high := decide (50 < off.natAbs)
    let g := s.gang
    let s1 := setFlag (wrReg { s with
      gang := { g with
      origin := some origin,
      slipped := g.slipped || high,
      okSince := if high then none else some (g.okSince.getD s.clk.tb) } } 0x4000C (BitVec.ofInt 32 off)) 0x40000 9 high
    let d := draw s1
    writeAdj d.2 (clampInt (-500000) 500000 (sx 32 d.1.toNat)))

/-- This member may be in service from a boundary on (R274, R276). -/
def mayServe (s : State) (b : Time) : Bool :=
  let m := gangMember s
  let left := decide (tget? s.gang.want m = some false)
  (rangeFrom 0 8).any (fun p => isPeer s p && linkUp s p)
    && (decide (m = 0) || (!flag s 0x40000 9 && (match s.gang.okSince with | none => false | some a => decide (a + (if left then epochNs else 0) ≤ b))))

/-- The highest version set in both bitmaps, 0 for none. -/
def commonVer (a b : Nat) : Nat := ((bitsSet (a &&& b) 16).getLast?).getD 0

/-- The bitmap of family 6 of a member: this one's from GLB_VER_SUPPORT, another's as it gave it (R474). -/
def memberVers (s : State) (i : Nat) : Nat := if i = gangMember s then fld s 0x23C 0 16 else tget 0 s.gang.vers i

/-- The versions common to the members of a list (R474). -/
def gangVers (s : State) (l : List Nat) : Nat := l.foldl (fun v i => v &&& memberVers s i) 0xFFFF

/-- The members that the first list of candidates brings into service beside `l`: one that would leave no version in common is not taken (R474). -/
def joinAll (s : State) : List Nat → List Nat → List Nat
  | l, [] => l
  | l, i :: r => joinAll s (if commonVer (gangVers s l) (memberVers s i) = 0 then l else l ++ [i]) r

/-- A member that joins has brought the version of family 6 in use to the highest common to all in service; out of service there is none (R474). -/
def gangVersion (was : Nat) (l : List Nat) (s : State) : State :=
  if ¬ l.contains (gangMember s) then setFld s 0x244 4 4 0
  else if l.all was.testBit then s
  else setFld s 0x244 4 4 (commonVer (gangVers s l) 0xFFFF)

/-- IN_SERVICE at an epoch boundary (R274, R276): a member whose offset has passed 50 ns since the last boundary leaves; one that joins must have a
version in common with those in service, and this member records that it has none (R474).  Where a member joins, ORIGIN is taken from
member 0 (R307). -/
def gangBoundary (b : Time) (s : State) : State :=
  if gangSize s ≤ 1 then s else
  let m := gangMember s
  let was := fld s 0x40008 16 8
  let inNow := was.testBit m
  let fit := if inNow then decide (m = 0) || !(flag s 0x40000 9 || s.gang.slipped) else mayServe s b
  let wish := (rangeFrom 0 8).filter (fun i => decide (i < gangSize s) && (if i = m then fit else tget false s.gang.want i))
  let ins := joinAll s (wish.filter was.testBit) (wish.filter (fun i => !was.testBit i))
  let up := ins.contains m
  let mask := ((rangeFrom 0 8).filter ins.contains).foldl (fun a i => a + 2 ^ i) 0
  let g := s.gang
  let s1 : State := { s with gang := { g with slipped := false, want := if inNow = up then g.want else tset g.want m up } }
  let s2 := if up && !inNow && decide (m ≠ 0) then (match g.origin with
      | none => s1
      | some o => setFlag (wr64 s1 (ptpReg 0x18) (ptpReg 0x1C) o) (ptpReg 0xC) 1 true)
    else s1
  let s3 := gangVersion was ins (if fit && !up then bootErr 0x0A0D s2 else s2)
  if mask = was then s3 else setFlag (setFld s3 0x40008 16 8 mask) 0x40000 7 true

end Sys2Proof.Machine
end

