-- ==== Sys2Proof/Machine/Display.lean ====
section
/-!
DEFINITION. Machine/Display.lean: display composition, neural stripes, scan-out, links and touch (chapter 12).
-/
namespace Sys2Proof.Machine
open Sys2Proof

/-! ## Commit groups (R471, R472) -/

/-- GLB_COMMIT_HOLD as it counts at a boundary of instant `b` (R19, R472). -/
def holdWord (s : State) (b : Time) : Word := if s.clk.holdAt < b then rd s 0x208 else s.clk.hold

/-- Commit one group at a boundary: a held group keeps its pending values and is counted (R472). -/
def commitGroup (b : Time) (i : Nat) (f : State → State) (s : State) : State :=
  if (holdWord s b).getLsbD i then bump s 0x214 else f s

/-! ## Registers (R368, R369) -/

/-- Output registers. -/
def dpoReg (d o : Nat) : Nat := 0x300000 + 0x10000 * d + o
/-- Layer registers. -/
def layReg (d i o : Nat) : Nat := dpoReg d (0x100 + 0x40 * i + o)
/-- An output. -/
def dpoOf (s : State) (d : Nat) : Dpo := tget Dpo.reset s.dpo d
/-- Replace an output. -/
def setDpo (s : State) (d : Nat) (v : Dpo) : State := { s with dpo := tset s.dpo d v }
/-- Record a code of class 0x08 (R367). -/
def dpoErr (s : State) (d code : Nat) : State := noteEvent (.output (Fin.ofNat 4 d)) code 0 (setFld s (dpoReg d 4) 16 16 code)

/-- A timing field: 16 bits. -/
def tim (s : State) (d o lo : Nat) : Nat := fld s (dpoReg d o) lo 16
/-- H_ACTIVE. -/
def hActive (s : State) (d : Nat) : Nat := tim s d 0x14 16
/-- H_TOTAL (R340). -/
def hTotal (s : State) (d : Nat) : Nat := tim s d 0x14 16 + tim s d 0x14 0 + tim s d 0x18 16 + tim s d 0x18 0
/-- V_ACTIVE. -/
def vActive (s : State) (d : Nat) : Nat := tim s d 0x1C 16
/-- V_FP + V_SYNC + V_BP. -/
def vBlank (s : State) (d : Nat) : Nat := tim s d 0x1C 0 + tim s d 0x20 16 + tim s d 0x20 0
/-- V_TOTAL (R340). -/
def vTotal (s : State) (d : Nat) : Nat := vActive s d + vBlank s d
/-- PCLK in Hz. -/
def pclk (s : State) (d : Nat) : Nat := (rd s (dpoReg d 0x10)).toNat
/-- PPC (R339). -/
def ppc (s : State) (d : Nat) : Nat := if flag s (dpoReg d 0) 0 then 8 else 4
/-- FRAME_CNT. -/
def frameCnt (s : State) (d : Nat) : Nat := (rd s (dpoReg d 0x30)).toNat

/-- Division of naturals to nearest, ties to even (R107). -/
def rneDiv (a b : Nat) : Nat := (rneDivInt (a : Int) b).toNat

/-! ## The fields in force (R361) -/

/-- A layer register of the frame shown: the enhanced layer keeps the fields of the frame's release point. -/
def lwOf (s : State) (d i o : Nat) : Word := match (dpoOf s d).sel with
  | some x => match x.snap with
    | some n => if n.layer = i then nth 0 n.lw (o / 4) else rd s (layReg d i o)
    | none => rd s (layReg d i o)
  | none => rd s (layReg d i o)

/-- A field of it. -/
def lf (s : State) (d i o lo w : Nat) : Nat := fieldOf (lwOf s d i o).toNat lo w

/-- The committed registers of the neural stage, for layer `i`. -/
def snapNow (s : State) (d i : Nat) : Snap :=
  ⟨i, (rangeFrom 0 13).map (fun k => rd s (layReg d i (4 * k))), (rangeFrom 0 8).map (fun k => rd s (dpoReg d (0x88 + 4 * k)))⟩

/-- A field of the NRL registers of a snapshot. -/
def nf (n : Snap) (o lo w : Nat) : Nat := fieldOf (nth 0 n.nw ((o - 0x88) / 4)).toNat lo w
/-- A field of the layer registers of a snapshot. -/
def slf (n : Snap) (o lo w : Nat) : Nat := fieldOf (nth 0 n.lw (o / 4)).toNat lo w

/-- The enhanced layer as committed: EN, SCALE and NEURAL. -/
def neuralLayer (s : State) (d : Nat) : Option Nat :=
  firstIdx (fun i => flag s (layReg d i 0) 31 && flag s (layReg d i 0) 29 && flag s (layReg d i 0) 28) (rangeFrom 0 8)

/-- The snapshot that a selection goes with: the one of its release point, or the fields in force (R361). -/
def snapOf (s : State) (d : Nat) (x : Sel) : Option Snap := match x.snap with
  | some n => some n
  | none => (neuralLayer s d).map (snapNow s d)

/-! ## Flip rings (R351, R352) -/

/-- Entries available: those whose number is below this (R351); the comparison is modulo 2³². -/
def available (s : State) (d i : Nat) (r : FlipRing) : Nat :=
  let n := (token s (fld s (layReg d i 0x30) 16 4) (fld s (layReg d i 0x30) 0 6) - r.base - BitVec.ofNat 32 r.retired).toNat
  r.retired + (if n < 2 ^ 31 then n else 0)

/-- Address of entry `e` of a layer's ring. -/
def entryAddr (s : State) (d i e : Nat) : Nat :=
  fld s (layReg d i 0x28) 5 27 * 32 + 2 ^ 32 * fld s (layReg d i 0x2C) 0 16 + 32 * (e % 2 ^ clampNat 2 10 (fld s (layReg d i 0x30) 24 4))

/-- Bytes of a pixel, or of a luma sample, of a format (R342). -/
def pixBytes (f : Nat) : Nat := match f with | 0 => 1 | 1 => 2 | 2 => 3 | _ => 4
/-- A format with a chroma plane. -/
def hasChroma (f : Nat) : Bool := decide (f ≤ 1)
/-- Fetched bytes of a source line, rounded up to 64 (R342). -/
def lineBytes (f w : Nat) : Nat := (pixBytes f * w + (if hasChroma f then (pixBytes f * w + 1) / 2 else 0) + 63) / 64 * 64

/-- Chroma samples that `n` luma samples from `o` on lie in, at half resolution (R342). -/
def chromaSpan (o n : Nat) : Nat := if n = 0 then 0 else (o + n - 1) / 2 - o / 2 + 1

/-- An entry of a ring. -/
def readFlip (s : State) (d i e : Nat) : Flip :=
  let a := entryAddr s d i e
  ⟨e, rdLE s a 6, rdLE s (a + 8) 4, rdLE s (a + 0xC) 4, rdLE s (a + 0x10) 8⟩

/-- The rows of the picture that an entry names, as address ranges. -/
def flipRows (s : State) (d i : Nat) (f : Flip) : List (Nat × Nat) :=
  let g := fun o lo w => fld s (layReg d i o) lo w
  let b := pixBytes (g 0 20 3)
  let w := g 0x18 0 16
  let h := g 0x18 16 16
  (rangeFrom 0 h).map (fun r => (f.buf + (g 0x14 16 16 + r) * f.pitch + g 0x14 0 16 * b, w * b)) ++
  (if hasChroma (g 0 20 3) then (rangeFrom 0 (chromaSpan (g 0x14 16 16) h)).map (fun r =>
    (f.buf + f.chroma + (g 0x14 16 16 / 2 + r) * f.pitch + g 0x14 0 16 / 2 * 2 * b, chromaSpan (g 0x14 0 16) w * 2 * b)) else [])

/-- Why an entry is discarded (R352): FLIP_VERSION or FLIP_FENCE. -/
def flipErr (s : State) (d i : Nat) (bad : List Nat) (e : Nat) : Option Nat :=
  if bad.contains e ∨ rdLE s (entryAddr s d i e + 6) 1 % 16 ≠ 1 then some 0x0807
  else if (flipRows s d i (readFlip s d i e)).all (fun x => decide (checkAcc s (fld s (layReg d i 0x30) 16 4) false x.1 x.2 = .ok)) then none
  else some 0x0806

/-- A layer's ring. -/
def flipRing (s : State) (d i : Nat) : FlipRing := tget ⟨0, none, 0, [], []⟩ (dpoOf s d).rings i
/-- Replace it. -/
def setFlipRing (s : State) (d i : Nat) (r : FlipRing) : State :=
  let x := dpoOf s d
  setDpo s d { x with rings := tset x.rings i r }

/-- Discard an entry, once (R352). -/
def discard (s : State) (d i e code : Nat) : State :=
  let r := flipRing s d i
  if r.bad.contains e then s else dpoErr (bump (setFlipRing s d i { r with bad := e :: r.bad }) (dpoReg d 0x64)) d code

/-- The newest valid entry below `hi` and not below `lo`, in at most `k` reads; what is discarded on the way counts. -/
def newest (d i : Nat) (bad : List Nat) (ok : Flip → Bool) (lo : Nat) : Nat → Nat → State → Option Flip × State
  | 0, _, s => (none, s)
  | k + 1, hi, s =>
    if hi ≤ lo then (none, s) else
    let e := hi - 1
    match flipErr s d i bad e with
    | some c => newest d i bad ok lo k e (discard s d i e c)
    | none => if ok (readFlip s d i e) then (some (readFlip s d i e), s) else newest d i bad ok lo k e s

/-- A selection is one of layer `i`. -/
def selOn (s : State) (d i : Nat) (q : Sel) : Bool := decide ((snapOf s d q).map Snap.layer = some i)

/-- The layer is the enhanced one of the frame: as committed, or by the selection that the frame keeps (R361). -/
def frameNeural (s : State) (d i : Nat) : Bool := decide (neuralLayer s d = some i) || (dpoOf s d).sel.any (selOn s d i)

/-- The oldest entry that a layer still shows or selects, or that a stripe request whose deadline is still to come names (R352). -/
def firstKept (s : State) (d i : Nat) : Nat :=
  let x := dpoOf s d
  let r := flipRing s d i
  let l := (r.cur.toList.map Flip.entry)
    ++ ((x.sel.toList ++ x.selNext.toList).filter (fun q => selOn s d i q && !q.gone)).map (fun q => q.a.entry)
    ++ (x.stripes.filter (fun p => p.issued && p.neural.isNone && decide (p.layer = i))).map (fun p => min p.a p.b)
  match l with
  | [] => r.retired
  | a :: q => q.foldl min a

/-- Retire the oldest entry (R352): RTOK, and FLIP_SKIP where it was neither shown nor discarded. -/
def retireOne (d i : Nat) (s : State) : State :=
  let r := flipRing s d i
  let e := r.retired
  let s1 := setFlipRing s d i { r with retired := e + 1, shown := r.shown.filter (fun x => decide (e < x)), bad := r.bad.filter (fun x => decide (e < x)) }
  let s2 := bump (signal s1 (fld s1 (layReg d i 0x30) 16 4) (fld s1 (layReg d i 0x30) 8 6) 1) (layReg d i 0x38)
  if r.shown.contains e || r.bad.contains e then s2 else bump s2 (dpoReg d 0x60)

/-- Retire entries in order up to the first that is kept; discarded ones at the head go too. -/
def retireAll (d i : Nat) : Nat → State → State
  | 0, s => s
  | k + 1, s =>
    let r := flipRing s d i
    if r.retired < firstKept s d i ∨ (r.bad.contains r.retired ∧ decide (r.retired < firstKept s d i + 1)) then retireAll d i k (retireOne d i s) else s

/-- An entry becomes the one shown. -/
def showFlip (s : State) (d i : Nat) (f : Flip) : State :=
  let r := flipRing s d i
  let s1 := wrReg (setFlipRing s d i { r with cur := some f, shown := if r.shown.contains f.entry then r.shown else f.entry :: r.shown }) (layReg d i 0x34) (BitVec.ofNat 32 f.entry)
  let x := dpoOf s1 d
  setDpo s1 d { x with flipped := true }

/-- Step 4 of R360 for one layer. -/
def takeFlip (d : Nat) (bad : List (Nat × Nat)) (s : State) (i : Nat) : State :=
  if ¬ (flag s (layReg d i 0) 31 ∧ flag s (layReg d i 0) 30) then s else
  let r := flipRing s d i
  let n := available s d i r
  let s1 := if frameNeural s d i then s else
    let lo := match r.cur with | none => r.retired | some f => f.entry + 1
    let q := newest d i ((bad.filter (fun e => decide (e.1 = i))).map Prod.snd) (fun _ => true) lo (n - lo) n s
    match q.1 with | none => q.2 | some f => showFlip q.2 d i f
  retireAll d i (n - r.retired) s1

/-! ## The commit of an output (R341, R342, R345, R348, R353, R355, R360) -/

/-- Registers of output `d` whose fields are RWC. -/
def isDpoReg (d off : Nat) : Bool := decide (dpoReg d 0 ≤ off) && decide (off < dpoReg d 0x300)

/-- Enabled layers. -/
def enabledLayers (s : State) (d : Nat) : List Nat := (rangeFrom 0 8).filter (fun i => flag s (layReg d i 0) 31)
/-- A layer that uses the scaler. -/
def layScaled (s : State) (d i : Nat) : Bool := flag s (layReg d i 0) 29
/-- SRC_W, SRC_H, DST_W, DST_H of a layer. -/
def layGeom (s : State) (d i : Nat) : Nat × Nat × Nat × Nat :=
  (fld s (layReg d i 0x18) 0 16, fld s (layReg d i 0x18) 16 16, fld s (layReg d i 0x20) 0 16, fld s (layReg d i 0x20) 16 16)

/-- The ratio of R348 is within 1/4 to 8. -/
def ratioOk (src dst : Nat) : Bool := decide (0 < src) && decide (0 < dst) && decide (src ≤ 4 * dst) && decide (dst ≤ 8 * src)

/-- What refuses a commit for the timing (R341). -/
def timingBad (s : State) (d : Nat) : Bool :=
  decide (hActive s d % ppc s d ≠ 0) || decide (hTotal s d % ppc s d ≠ 0)
    || decide (hActive s d < 640) || decide (7680 < hActive s d) || decide (vActive s d < 480) || decide (4320 < vActive s d)
    || decide (tim s d 0x14 0 < ppc s d) || decide (tim s d 0x18 16 < ppc s d) || decide (tim s d 0x18 0 < ppc s d)
    || decide (vBlank s d < 4) || decide (300000000 * ppc s d < pclk s d)

/-- What refuses a commit for any layer (R342, R345, R348). -/
def formBad (s : State) (d i : Nat) : Bool :=
  let g := layGeom s d i
  decide (5 < fld s (layReg d i 0) 20 3) || decide (fld s (layReg d i 0x24) 0 8 < (if layScaled s d i then 8 else 2))
    || (if layScaled s d i then !(ratioOk g.1 g.2.2.1 && ratioOk g.2.1 g.2.2.2) else decide (g.1 ≠ g.2.2.1) || decide (g.2.1 ≠ g.2.2.2))

/-- What refuses a commit for one enabled layer (R369). -/
def layerBad (s : State) (d i : Nat) : Bool :=
  let g := layGeom s d i
  (flag s (layReg d i 0) 28 && !layScaled s d i) || decide (hActive s d < fld s (layReg d i 0x1C) 0 16 + g.2.2.1) || decide (vActive s d < fld s (layReg d i 0x1C) 16 16 + g.2.2.2)
    || (flag s (layReg d i 0) 28 && decide (fld s (dpoReg d 0xA0) 16 8 * 0x10000 < 64 * ((g.2.2.1 * 4 + 63) / 64 * 64)))

/-- Bytes of the line buffer that the enabled layers take (R345). -/
def ringBytes (s : State) (d : Nat) : Nat :=
  ((enabledLayers s d).map (fun i => fld s (layReg d i 0x24) 0 8 * lineBytes (fld s (layReg d i 0) 20 3) (layGeom s d i).1
    + (if layScaled s d i then 16 * ((layGeom s d i).2.2.1 * 4) else 0))).sum

/-- What refuses a commit: CFG_REFUSED. -/
def dpoBad (s : State) (d : Nat) : Bool :=
  timingBad s d || (rangeFrom 0 8).any (formBad s d) || (enabledLayers s d).any (layerBad s d)
    || decide (1 < ((rangeFrom 0 8).filter (layScaled s d)).length)
    || decide (1048576 < ringBytes s d)
    || decide (fld s (dpoReg d 0x8C) 16 16 ≤ fld s (dpoReg d 0x8C) 0 16) || decide (fld s (dpoReg d 0x8C) 0 16 < 8)
    || decide (vTotal s d < fld s (dpoReg d 0x8C) 16 16)
    || decide (63 < fld s (dpoReg d 0x88) 12 6 + fld s (dpoReg d 0x88) 8 2)

/-- Take the token values as bases and unblock the slots (R358). -/
def rebase (s : State) (d : Nat) : State :=
  let x := dpoOf s d
  let p := fld s (dpoReg d 0x88) 24 4
  setDpo s d { x with
    slots := (rangeFrom 0 (fld s (dpoReg d 0x88) 8 2 + 1)).map (fun j => (j, token s p (fld s (dpoReg d 0x88) 12 6 + j), 0, none)), blocked := false }

/-- A layer enabled by a commit takes BASE and has shown nothing (R351). -/
def startLayer (s0 : State) (d : Nat) (s : State) (i : Nat) : State :=
  let on := fun (s : State) => flag s (layReg d i 0) 31 && flag s (layReg d i 0) 30
  if on s && !on s0 then
    let s1 := setFlipRing s d i ⟨token s (fld s (layReg d i 0x30) 16 4) (fld s (layReg d i 0x30) 0 6), none, 0, [], []⟩
    let x := dpoOf s1 d
    let end_ := fun (q : Sel) => if selOn s0 d i q then { q with gone := true } else q
    let s2 := setDpo s1 d { x with
      sel := x.sel.map end_, selNext := x.selNext.map end_, stripes := x.stripes.map (fun p => if p.layer = i then { p with layer := 8 } else p) }
    wrReg (wrReg s2 (layReg d i 0x34) 0) (layReg d i 0x38) 0
  else s

/-- The timing fields, PCLK and PPC (R361). -/
def timingWords (s : State) (d : Nat) : List Word :=
  [0x10, 0x14, 0x18, 0x1C, 0x20].map (fun o => rd s (dpoReg d o)) ++ [rd s (dpoReg d 0) &&& 1]

/-- A layer, other than the neural one, that shows its own buffer. -/
def ownBuf (s : State) (d i : Nat) : Bool := flag s (layReg d i 0) 31 && !flag s (layReg d i 0) 30 && !flag s (layReg d i 0) 28

/-- A buffer is new on some layer that shows its own (R360): the layer did not before, or its BUF has changed. -/
def bufNew (s0 s : State) (d : Nat) : Bool :=
  (rangeFrom 0 8).any (fun i => ownBuf s d i && (!ownBuf s0 d i || decide (rd s0 (layReg d i 4) ≠ rd s (layReg d i 4)) || decide (rd s0 (layReg d i 8) ≠ rd s (layReg d i 8))))

/-- The neural layer was enabled, disabled or replaced by the commit: a selection made before it still serves its own frame (R361), and is no earlier
selection for a later one (R359). -/
def neuralFresh (s0 s : State) (d : Nat) : State :=
  if neuralLayer s0 d = neuralLayer s d then s else
  let x := dpoOf s d
  setDpo s d { x with sel := x.sel.map (fun q => { q with old := true }), selNext := x.selNext.map (fun q => { q with old := true }), selPrev := none }

/-- Steps 1 to 3 of R360: the group commits, or is refused as a whole. -/
def dpoCommit (b : Time) (d : Nat) (s0 : State) : State :=
  let l := stagedOffs s0 b (isDpoReg d)
  let s := l.foldl (commitReg b) s0
  if dpoBad s d then setFlag (dpoErr (l.foldl (fun s o => clearStaged s b o) s0) d 0x0804) (dpoReg d 4) 1 true else
  let fresh := flag s (dpoReg d 0x88) 30 || (flag s (dpoReg d 0x88) 31 && !flag s0 (dpoReg d 0x88) 31)
  let s1 := setFlag (if fresh then rebase s d else s) (dpoReg d 0x88) 30 false
  let s2 := neuralFresh s0 ((rangeFrom 0 8).foldl (startLayer s0 d) s1) d
  let x := dpoOf s2 d
  let moved := decide (rd s0 (dpoReg d 0x80) ≠ rd s2 (dpoReg d 0x80)) || decide (rd s0 (dpoReg d 0x84) ≠ rd s2 (dpoReg d 0x84))
  let timed := decide (timingWords s0 d ≠ timingWords s2 d)
  let f := (frameCnt s2 d + 1) % 2 ^ 32
  setDpo s2 d { x with
    coefLoad := x.coefLoad || moved, flipped := x.flipped || bufNew s0 s2 d,
    quiet := if timed then some f else x.quiet,
    selNext := if timed then x.selNext.map (fun q => { q with snap := none }) else x.selNext,
    stripes := if timed then x.stripes.map (fun q => if q.frame = f then { q with dead := true } else q) else x.stripes }

/-- Stripes of a frame under new timing that were issued before it count as skipped (R361). -/
def skipIssued (s : State) (d : Nat) : State :=
  let x := dpoOf s d
  match x.quiet with
  | none => s
  | some f => if f ≠ (frameCnt s d + 1) % 2 ^ 32 then s else bumpBy s (dpoReg d 0x58) (x.stripes.filter (fun q => decide (q.frame = f) && q.issued && q.dead)).length

/-- The background colour, expanded (R343). -/
def bgPix (s : State) (d : Nat) : Pix :=
  let ex := fun v => v * 4 + v / 256
  (ex (fld s (dpoReg d 0x24) 20 10), ex (fld s (dpoReg d 0x24) 10 10), ex (fld s (dpoReg d 0x24) 0 10))

/-- A stripe that was waiting to be seen done is seen at the start of a line (R356). -/
def seeDone (s : State) (d : Nat) : State :=
  let x := dpoOf s d
  setDpo s d { x with
    stripes := x.stripes.map (fun q =>
    if q.issued && !q.dead && !x.blocked && q.seen.isNone && tokReached s q.part q.tok q.goal
    then { q with seen := some s.clk.tb } else q) }

/-- The picture that the scaled path shows of a selection (R359). -/
def selShown (q : Sel) : Flip := if q.phase < 32 then q.a else q.b

/-- FLIP_TS and FLIP_FRAME: the instant of line 0 and the number of the frame (R360). -/
def stampFlip (s : State) (d : Nat) (t : Time) : State :=
  wrReg (wr64 s (dpoReg d 0x3C) (dpoReg d 0x40) t) (dpoReg d 0x44) (rd s (dpoReg d 0x30))

/-- The frame shows an entry or a buffer that is new on a layer: it is stamped at line 0, or with that instant where line 0 has passed (R360). -/
def markFlip (s : State) (d : Nat) : State :=
  let x := dpoOf s d
  if 0 ≤ x.line then stampFlip s d x.zeroAt else setDpo s d { x with flipped := true }

/-- The frame shows its selection from now on; `prev` is the one shown before: an entry new on the layer becomes CUR_ENTRY (R359, R360, R369). -/
def showSel (s : State) (d : Nat) (prev : Option Sel) : State := match (dpoOf s d).sel with
  | none => s
  | some q => match snapOf s d q with
    | none => s
    | some n =>
      let g := selShown q
      if slf n 0 30 1 = 0 ∨ q.gone then (if prev.map (fun p => (selShown p).buf) = some g.buf then s else markFlip s d)
      else
        let r := flipRing s d n.layer
        if r.cur.map Flip.entry = some g.entry then s
        else markFlip (wrReg (setFlipRing s d n.layer { r with cur := some g, shown := g.entry :: r.shown }) (layReg d n.layer 0x34) (BitVec.ofNat 32 g.entry)) d

/-- Steps 4 to 6 of R360 in an output that runs.  A selection made for the frame is its own; where its release point is still to come, the frame has none yet
(R359, R361). -/
def newFrame (d : Nat) (bad : List (Nat × Nat)) (s0 : State) : State :=
  let f := (frameCnt s0 d + 1) % 2 ^ 32
  let x0 := dpoOf s0 d
  let swap := match x0.selNext with | some q => decide (q.frame = f) | none => false
  let prev := match x0.sel with | some q => if q.old then x0.selPrev else some q | none => x0.selPrev
  let s1 := setDpo s0 d { x0 with
    line := -((vBlank s0 d : Nat) : Int), sel := if swap then x0.selNext else none, selNext := none, selPrev := prev, skips := [],
    lines := [], chromas := [], scaled := [], nlines := [], pix := [], lastPix := bgPix s0 d, under := false,
    coef := x0.coefNext.getD x0.coef, coefNext := none,
    stripes := x0.stripes.filter (fun q => decide (q.frame = f) || q.neural.isNone && decide (q.frame = frameCnt s0 d)) }
  let s2 := (rangeFrom 0 8).foldl (takeFlip d bad) (showSel s1 d x0.sel)
  let s3 := wr64 (wrReg s2 (dpoReg d 0x30) (BitVec.ofNat 32 f)) (dpoReg d 0x34) (dpoReg d 0x38) s2.clk.tb
  let s4 := if flag s3 (dpoReg d 0) 30 then signal s3 (fld s3 (dpoReg d 0) 16 4) (fld s3 (dpoReg d 0) 20 6) 1 else s3
  seeDone s4 d

/-- DPO_FRAME_BOUNDARY (R360): of a running output after its last active line; of one that does not run, at any time. -/
def frameBoundary (s : State) (d : Nat) (bad : List (Nat × Nat)) : State :=
  let run := flag s (dpoReg d 4) 0
  let x := dpoOf s d
  if run ∧ x.line + 1 < (vActive s d : Int) then s else
  let b := s.clk.tb
  let s1 := commitGroup b (8 + d) (dpoCommit b d) s
  if ¬ flag s1 (dpoReg d 0) 31 then setFlag s1 (dpoReg d 4) 0 false
  else
    let y := dpoOf s1 d
    let s2 := if run then s1 else wrReg (setFlag (setDpo s1 d { y with quiet := y.quiet.map (fun _ => 1) }) (dpoReg d 4) 0 true) (dpoReg d 0x30) 0
    newFrame d bad (skipIssued s2 d)

/-- DPO_FRAME_BOUNDARY. -/
def execDpoFrameBoundary (t : Time) (d : Fin 4) (bad : List (Nat × Nat)) (s : State) : Res := .next (frameBoundary (advance s t) d bad)

/-! ## Sources, sampling and the scaler (R342, R343, R348, R349) -/

/-- The picture that a layer shows: address, chroma offset, pitch; none where the layer is not composed (R352, R359). -/
def layPic (s : State) (d i : Nat) : Option (Nat × Nat × Nat) :=
  let x := dpoOf s d
  let own := (lf s d i 4 0 32 + 2 ^ 32 * lf s d i 8 0 16, lf s d i 0xC 0 32, lf s d i 0x10 0 20)
  if lf s d i 0 31 1 = 0 then none
  else if lf s d i 0 28 1 = 1 then
    match x.sel with
    | none => none
    | some q => if selOn s d i q then some ((selShown q).buf, (selShown q).chroma, (selShown q).pitch) else none
  else if lf s d i 0 30 1 = 1 then (flipRing s d i).cur.map (fun f => (f.buf, f.chroma, f.pitch))
  else some own

/-- Expand an 8-bit sample to 12 bits (R343). -/
def expand8 (v : Nat) : Nat := v * 16 + v / 16
/-- Expand a 10-bit sample. -/
def expand10 (v : Nat) : Nat := v * 4 + v / 256

/-- The components of a pixel or luma sample, expanded: three colours and alpha (R342, R343). -/
def decodePix (f : Nat) (bs : List Byte) : Nat × Nat × Nat × Nat :=
  let v := leVal bs
  match f with
  | 0 => (expand8 v, 0, 0, 4095)
  | 1 => (expand10 (v / 64 % 1024), 0, 0, 4095)
  | 2 => (expand8 (fieldOf v 16 8), expand8 (fieldOf v 8 8), expand8 (fieldOf v 0 8), 4095)
  | 3 => (expand8 (fieldOf v 16 8), expand8 (fieldOf v 8 8), expand8 (fieldOf v 0 8), expand8 (fieldOf v 24 8))
  | 4 => (expand10 (fieldOf v 20 10), expand10 (fieldOf v 10 10), expand10 (fieldOf v 0 10), 4095)
  | _ => (expand10 (fieldOf v 10 10), expand10 (fieldOf v 0 10), expand10 (fieldOf v 20 10), 4095)

/-- Component `c` of a pixel. -/
def compOf (p : Nat × Nat × Nat × Nat) (c : Nat) : Nat := match c with | 0 => p.1 | 1 => p.2.1 | 2 => p.2.2.1 | _ => p.2.2.2

/-- `n` bytes at offset `o` of a line, unless a block of them was poisoned. -/
def lineAt (l : BufLine) (o n : Nat) : Option (List Byte) :=
  if l.bad.contains (o / 64) || l.bad.contains ((o + n - 1) / 64) then none else some ((l.bytes.drop o).take n)

/-- A line of a layer. -/
def findLine (ls : List BufLine) (i row : Nat) : Option BufLine := ls.find? (fun l => decide (l.layer = i) && decide (l.row = row))

/-- Component `c` of the source sample at (row, column) of a layer: luma plane or packed pixels. -/
def lumaAt (x : Dpo) (i f c row col : Nat) : Option Nat := match findLine x.lines i row with
  | none => none
  | some l => (lineAt l (col * pixBytes f) (pixBytes f)).map (fun b => compOf (decodePix f b) c)

/-- Component `c` (1 Cb, 2 Cr) of the chroma sample at (row, column) of the half-size plane. -/
def chromaAt (x : Dpo) (i f c row col : Nat) : Option Nat := match findLine x.chromas i row with
  | none => none
  | some l => (lineAt l ((2 * col + (c - 1)) * pixBytes f) (pixBytes f)).map (fun b => (decodePix f b).1)

/-- INC of R348. -/
def scaleInc (src dst : Nat) : Nat := rneDiv (src * 65536) dst
/-- POS of R348, in signed 16.16. -/
def scalePos (src dst k : Nat) : Int := ((scaleInc src dst / 2 : Nat) : Int) - 32768 + ((k * scaleInc src dst : Nat) : Int)
/-- Integer position and phase. -/
def posSplit (p : Int) : Int × Nat := (p / 65536, ((p % 65536) / 1024).toNat)

/-- A signed S1.10 coefficient of the loaded image (R350). -/
def coefAt (x : Dpo) (o : Nat) : Int := sx 12 (leVal ((x.coef.drop o).take 2) % 4096)
/-- H[ph][t]. -/
def coefH (x : Dpo) (ph t : Nat) : Int := coefAt x (2 * (8 * ph + t))
/-- V[ph][t]. -/
def coefV (x : Dpo) (ph t : Nat) : Int := coefAt x (0x400 + 2 * (6 * ph + t))

/-- Sum of taps, none where a sample is absent. -/
def tapSum (coef : Nat → Int) (get : Nat → Option Nat) : List Nat → Option Int
  | [] => some 0
  | t :: r => match get t, tapSum coef get r with
    | some v, some a => some (coef t * (v : Int) + a)
    | _, _ => none

/-- A pass of the scaler: the sum over 1024, rounded and clamped (R349). -/
def passOf (coef : Nat → Int) (get : Nat → Option Nat) (n : Nat) : Option Nat :=
  (tapSum coef get (rangeFrom 0 n)).map (fun a => (clampInt 0 4095 (rneDivInt a 1024)).toNat)

/-- Clamp a tap position into the source (R349). -/
def tapPos (n : Nat) (p : Int) : Nat := (clampInt 0 ((n : Int) - 1) p).toNat

/-- The scaled sample at a position: the vertical pass, then the horizontal one (R349). -/
def scaleAt (x : Dpo) (get : Nat → Nat → Option Nat) (w h : Nat) (px py : Int) : Option Nat :=
  let cx := posSplit px
  let cy := posSplit py
  passOf (coefH x cx.2) (fun t =>
    let col := tapPos w (cx.1 - 3 + t)
    passOf (coefV x cy.2) (fun u => get (tapPos h (cy.1 - 2 + u)) col) 6) 8

/-- The weights of red and blue in luma, in 1/10 000, of the matrix of CSC: BT.601, BT.709 or BT.2020 (log entry 7). -/
def lumaWeights (csc : Nat) : Nat × Nat := match csc with | 0 => (2990, 1140) | 3 => (2627, 593) | _ => (2126, 722)

/-- A coefficient in S3.12. -/
def s312 (a b : Nat) : Int := rneDivInt (4096 * a : Nat) b

/-- Convert a colour of a YUV format to RGB (R343 step 3); code 2 of CSC is the full range, and the others the limited one. -/
def toRgb (csc : Nat) (y cb cr : Nat) : Pix :=
  let kr := (lumaWeights csc).1
  let kb := (lumaWeights csc).2
  let kg := 10000 - kr - kb
  let full := decide (csc = 2)
  let n := if full then 4095 else 3584
  let a : Int := (if full then 4096 else s312 4095 3504) * ((y : Int) - (if full then 0 else 256))
  let u : Int := (cb : Int) - 2048
  let v : Int := (cr : Int) - 2048
  let k := fun (x : Int) => (clampInt 0 4095 (rneDivInt x 4096)).toNat
  (k (a + s312 (2 * (10000 - kr) * 4095) (10000 * n) * v),
   k (a - s312 (2 * kb * (10000 - kb) * 4095) (10000 * kg * n) * u - s312 (2 * kr * (10000 - kr) * 4095) (10000 * kg * n) * v),
   k (a + s312 (2 * (10000 - kb) * 4095) (10000 * n) * u))

/-- YCbCr 4:4:4 of a composed colour at `b` bits, by the limited-range matrix of BT.709 (R338, log entry 7). -/
def toYcc (b : Nat) (p : Pix) : Pix :=
  let y := 2126 * p.1 + 7152 * p.2.1 + 722 * p.2.2
  let c := fun (x k : Nat) => (rneDivInt (2 ^ (b - 8) * (224 * ((10000 * x : Nat) - (y : Int)) + (128 * (4095 * k) : Nat))) (4095 * k)).toNat
  (rneDiv (2 ^ (b - 8) * (219 * y + 16 * 40950000)) 40950000, c p.2.2 18556, c p.1 15748)

/-- Formats in YUV. -/
def isYuv (f : Nat) : Bool := decide (f ≤ 1) || decide (f = 5)

/-- The scaler at destination column `cx`, row `cy` of a layer: colour and alpha, from the source lines held (R348, R349). -/
def scalerPix (s : State) (d i cx cy : Nat) : Option (Pix × Nat) :=
  let x := dpoOf s d
  let f := lf s d i 0 20 3
  let w := lf s d i 0x18 0 16
  let h := lf s d i 0x18 16 16
  let px := scalePos w (lf s d i 0x20 0 16) cx
  let py := scalePos h (lf s d i 0x20 16 16) cy
  let comp := fun c =>
    if hasChroma f ∧ 0 < c ∧ c < 3 then scaleAt x (chromaAt x i f c) (chromaSpan (lf s d i 0x14 0 16) w) (chromaSpan (lf s d i 0x14 16 16) h) (px / 2) ((py - 32768) / 2)
    else if c = 3 ∧ f ≠ 3 then some 4095 else scaleAt x (lumaAt x i f c) w h px py
  match comp 0, comp 1, comp 2, comp 3 with
  | some a, some b, some c, some al => some (if isYuv f then toRgb (lf s d i 0 23 2) a b c else (a, b, c), al)
  | _, _, _, _ => none

/-- A scaled line of a layer. -/
def findScaled (ls : List ScLine) (i row : Nat) : Option ScLine := ls.find? (fun l => decide (l.layer = i) && decide (l.row = row))

/-- The scaled pixel of a layer at destination column `cx`, row `cy`, from the ring of scaled lines (R345). -/
def scaledPix (s : State) (d i cx cy : Nat) : Option (Pix × Nat) := match findScaled (dpoOf s d).scaled i cy with
  | none => none
  | some l => nth none l.pix cx

/-- The pixel of an unscaled layer; a chroma sample serves the two by two pixels it covers. -/
def plainPix (s : State) (d i cx cy : Nat) : Option (Pix × Nat) :=
  let x := dpoOf s d
  let f := lf s d i 0 20 3
  let oy := lf s d i 0x14 16 16
  let ox := lf s d i 0x14 0 16
  let comp := fun c => if hasChroma f ∧ 0 < c ∧ c < 3 then chromaAt x i f c ((oy + cy) / 2 - oy / 2) ((ox + cx) / 2 - ox / 2) else lumaAt x i f c cy cx
  match comp 0, comp 1, comp 2, comp 3 with
  | some a, some b, some c, some al => some (if isYuv f then toRgb (lf s d i 0 23 2) a b c else (a, b, c), al)
  | _, _, _, _ => none

/-- Whether the stripe of destination row `r` of the enhanced layer is shown from its neural lines (R356). -/
def rowNeural (s : State) (d r : Nat) : Bool :=
  (dpoOf s d).stripes.any (fun q => decide (q.frame = frameCnt s d) && decide (q.idx = r / 64) && decide (q.neural = some true))

/-- The neural pixel of the enhanced layer (R354, R356). -/
def neuralPix (s : State) (d i cx cy : Nat) : Option (Pix × Nat) :=
  let x := dpoOf s d
  match x.sel with
  | none => none
  | some q => match snapOf s d q, findLine x.nlines i cy with
    | some n, some l => (lineAt l (4 * cx) 4).map (fun b =>
        let p := decodePix (if nf n 0xA4 30 1 = 1 then 4 else 3) b
        ((p.1, p.2.1, p.2.2.1), p.2.2.2))
    | _, _ => none

/-- The layer covers the screen position and is composed. -/
def covers (s : State) (d i x y : Nat) : Bool :=
  let dx := lf s d i 0x1C 0 16
  let dy := lf s d i 0x1C 16 16
  (layPic s d i).isSome && decide (dx ≤ x) && decide (x < dx + lf s d i 0x20 0 16) && decide (dy ≤ y) && decide (y < dy + lf s d i 0x20 16 16)

/-- The colour and alpha that a layer gives at a screen position (R343, R356). -/
def layerPix (s : State) (d i x y : Nat) : Option (Pix × Nat) :=
  let cx := x - lf s d i 0x1C 0 16
  let cy := y - lf s d i 0x1C 16 16
  if lf s d i 0 29 1 = 0 then plainPix s d i cx cy
  else if lf s d i 0 28 1 = 1 ∧ rowNeural s d cy then (match neuralPix s d i cx cy with | some p => some p | none => scaledPix s d i cx cy)
  else scaledPix s d i cx cy

/-- Blend one component (R343 step 4): 0 opaque, 1 straight, 2 premultiplied. -/
def blendComp (mode al c dst : Nat) : Nat := match mode with
  | 1 => rneDiv (c * al + dst * (4095 - al)) 4095
  | 2 => min 4095 (c + rneDiv (dst * (4095 - al)) 4095)
  | _ => c

/-- Blend a colour over a destination. -/
def blendPix (mode al : Nat) (c dst : Pix) : Pix := (blendComp mode al c.1 dst.1, blendComp mode al c.2.1 dst.2.1, blendComp mode al c.2.2 dst.2.2)

/-- Blend the layers given, bottom first, over a colour; none where a layer's data is absent (R347). -/
def blendAll (s : State) (d x y : Nat) : List Nat → Pix → Option Pix
  | [], p => some p
  | i :: r, p => match layerPix s d i x y with
    | none => none
    | some (c, a) => blendAll s d x y r (blendPix (listed 7 3 (lf s d i 0 25 2)) (rneDiv (a * lf s d i 0 0 8) 255) c p)

/-- Layers that show at a position: those from the topmost opaque one up (R344). -/
def shownLayers (s : State) (d x y : Nat) : List Nat :=
  (rangeFrom 0 8).foldl (fun l i => if covers s d i x y then (if listed 7 3 (lf s d i 0 25 2) = 0 then [i] else l ++ [i]) else l) []

/-- The composed pixel at 12 bits. -/
def composePix (s : State) (d y x : Nat) : Option Pix := blendAll s d x y (shownLayers s d x y) (bgPix s d)

/-- An output component at `b` bits (R343). -/
def outComp (b v : Nat) : Nat := rneDiv (v * (2 ^ b - 1)) 4095

/-- The pixel as sent (R338, R343): RGB or YCbCr, 8 or 10 bits a component, as the link was trained last (R339). -/
def outPix (s : State) (d : Nat) (p : Pix) : Pix :=
  let x := dpoOf s d
  let b := if x.deep then 10 else 8
  if x.ycc then toYcc b p else (outComp b p.1, outComp b p.2.1, outComp b p.2.2)

/-- The pixels of active line `y`. -/
def composeLine (s : State) (d y : Nat) : List (Option Pix) := (rangeFrom 0 (hActive s d)).map (fun x => (composePix s d y x).map (outPix s d))

/-- A neural pixel of a shown neural stripe is absent on line `y` (R356). -/
def neuralMiss (s : State) (d y : Nat) : Bool :=
  (rangeFrom 0 (hActive s d)).any (fun x => (shownLayers s d x y).any (fun i =>
    let cy := y - lf s d i 0x1C 16 16
    decide (lf s d i 0 28 1 = 1) && rowNeural s d cy && (neuralPix s d i (x - lf s d i 0x1C 0 16) cy).isNone && (scaledPix s d i (x - lf s d i 0x1C 0 16) cy).isSome))

/-- The pixels of a line with each absent one repeating the one before it (R347). -/
def fillFrom : Pix → List (Option Pix) → Pix
  | p, [] => p
  | p, none :: r => fillFrom p r
  | _, some q :: r => fillFrom q r

/-- At line 0: a coefficient load that has not completed is late (R350), and a flip is stamped (R360). -/
def lineZero (s : State) (d : Nat) : State :=
  let x := dpoOf s d
  let s1 := setDpo (if x.coefLoad then dpoErr (bump s (dpoReg d 0x6C)) d 0x0808 else s) d { x with flipped := false, zeroAt := s.clk.tb }
  if x.flipped then stampFlip s1 d s.clk.tb else s1

/-- The line is composed from what the line buffer holds (R340, R343, R347). -/
def scanLine (s : State) (d : Nat) : State :=
  let x := dpoOf s d
  let y := x.line.toNat
  let s1 := if neuralMiss s d y then bump s (dpoReg d 0x5C) else s
  setDpo s1 d { x with pix := composeLine s d y, under := false, lastPix := if y = 0 then outPix s d (bgPix s d) else fillFrom x.lastPix x.pix }

/-- PIXEL_UNDERRUN: an absent pixel of the line being sent repeats the pixel before it (R347). -/
def execPixelUnderrun (t : Time) (d : Fin 4) (k : Nat) (s0 : State) : Res :=
  let s := advance s0 t
  let x := dpoOf s d
  let before : Option Pix := if k = 0 then some x.lastPix else nth none x.pix (k - 1)
  .next (match x.pix[k]?, before with
  | some none, some p =>
    let s1 := bump (setDpo s d { x with pix := setNth x.pix k (some p), under := true }) (dpoReg d 0x50)
    if x.under then s1 else bump s1 (dpoReg d 0x4C)
  | _, _ => s)

/-! ## Line fetch (R344 to R346) -/

/-- The first destination row that is still to be composed. -/
def dstRow (s : State) (d i : Nat) : Nat := ((dpoOf s d).line + 1 - (lf s d i 0x1C 16 16 : Int)).toNat

/-- The destination row of a scaled layer that its ring of scaled lines takes next (R345). -/
def scaleRow (s : State) (d i : Nat) : Nat := (dpoOf s d).scaled.foldl (fun r l => if l.layer = i then max r (l.row + 1) else r) (dstRow s d i)

/-- The vertical tap rows of destination row `k` of a layer in the luma plane or the packed picture (R349). -/
def tapRows (s : State) (d i k : Nat) : List Nat :=
  let h := lf s d i 0x18 16 16
  let c := (posSplit (scalePos h (lf s d i 0x20 16 16) k)).1
  (rangeFrom 0 6).map (fun (u : Nat) => tapPos h (c - 2 + (u : Int)))

/-- Rows of the chroma plane that the source rectangle of a layer takes in. -/
def chromaRows (s : State) (d i : Nat) : Nat := chromaSpan (lf s d i 0x14 16 16) (lf s d i 0x18 16 16)

/-- The vertical tap rows in the chroma plane. -/
def chromaTaps (s : State) (d i k : Nat) : List Nat :=
  let c := (posSplit ((scalePos (lf s d i 0x18 16 16) (lf s d i 0x20 16 16) k - 32768) / 2)).1
  (rangeFrom 0 6).map (fun (u : Nat) => tapPos (chromaRows s d i) (c - 2 + (u : Int)))

/-- The chroma row that luma row `row` of a layer lies on. -/
def chromaRow (s : State) (d i row : Nat) : Nat := (lf s d i 0x14 16 16 + row) / 2 - lf s d i 0x14 16 16 / 2

/-- The first source row that a layer still needs: to compose, or to scale. -/
def firstNeeded (s : State) (d i : Nat) : Nat :=
  if lf s d i 0 29 1 = 0 then dstRow s d i else nth 0 (tapRows s d i (scaleRow s d i)) 0

/-- The first chroma row it still needs. -/
def firstChroma (s : State) (d i : Nat) : Nat :=
  if lf s d i 0 29 1 = 0 then chromaRow s d i (dstRow s d i) else nth 0 (chromaTaps s d i (scaleRow s d i)) 0

/-- Destination rows of a layer that use row `row` of its luma plane, or of its chroma plane. -/
def usingRows (s : State) (d i : Nat) (chroma : Bool) (row : Nat) : List Nat :=
  if lf s d i 0 29 1 = 0 then (if chroma then (rangeFrom 0 (lf s d i 0x18 16 16)).filter (fun k => decide (chromaRow s d i k = row)) else [row])
  else (rangeFrom 0 (lf s d i 0x20 16 16)).filter (fun k => (if chroma then chromaTaps s d i k else tapRows s d i k).contains row)

/-- Columns of the luma plane, or of the chroma plane, that destination column `x` of a layer needs. -/
def neededCols (s : State) (d i : Nat) (chroma : Bool) (x : Nat) : List Nat :=
  let w := lf s d i 0x18 0 16
  let o := lf s d i 0x14 0 16
  if lf s d i 0 29 1 = 0 then [if chroma then (o + x) / 2 - o / 2 else x]
  else
    let p := scalePos w (lf s d i 0x20 0 16) x
    (rangeFrom 0 8).map (fun (t : Nat) => if chroma then tapPos (chromaSpan o w) ((posSplit (p / 2)).1 - 3 + (t : Int)) else tapPos w ((posSplit p).1 - 3 + (t : Int)))

/-- Destination columns of row `k` of a layer that no opaque layer above covers (R344). -/
def visibleCols (s : State) (d i k : Nat) : List Nat :=
  let dx := lf s d i 0x1C 0 16
  (rangeFrom 0 (lf s d i 0x20 0 16)).filter (fun x => (shownLayers s d (dx + x) (lf s d i 0x1C 16 16 + k)).contains i)

/-- 64-byte blocks that hold the elements of `b` bytes at the columns given, of `n` columns. -/
def blocksOf (n b : Nat) (cols : List Nat) : List Nat :=
  (rangeFrom 0 ((n * b + 63) / 64)).filter (fun k => cols.any (fun c => decide (c * b / 64 = k) || decide ((c * b + b - 1) / 64 = k)))

/-- 64-byte blocks of a source row whose pixels no opaque layer above covers, with the tap margins (R344). -/
def neededBlocks (s : State) (d i row : Nat) : List Nat :=
  blocksOf (lf s d i 0x18 0 16) (pixBytes (lf s d i 0 20 3))
    (((usingRows s d i false row).map (fun k => (visibleCols s d i k).map (neededCols s d i false))).flatten.flatten)

/-- The same of a chroma row. -/
def neededChroma (s : State) (d i row : Nat) : List Nat :=
  blocksOf (chromaSpan (lf s d i 0x14 0 16) (lf s d i 0x18 0 16)) (2 * pixBytes (lf s d i 0 20 3))
    (((usingRows s d i true row).map (fun k => (visibleCols s d i k).map (neededCols s d i true))).flatten.flatten)

/-- The source lines that destination row `k` of a scaled layer needs are held; one that is culled whole is not needed. -/
def scaleReady (s : State) (d i k : Nat) : Bool :=
  let x := dpoOf s d
  (visibleCols s d i k).isEmpty || ((tapRows s d i k).all (fun r => (findLine x.lines i r).isSome || (neededBlocks s d i r).isEmpty)
    && (!hasChroma (lf s d i 0 20 3) || (chromaTaps s d i k).all (fun r => (findLine x.chromas i r).isSome || (neededChroma s d i r).isEmpty)))

/-- Fill the ring of 8 scaled lines of a layer as far as its source lines are held (R345), in at most `n` lines. -/
def scaleAhead (d i : Nat) : Nat → State → State
  | 0, s => s
  | n + 1, s =>
    let x := dpoOf s d
    let k := scaleRow s d i
    if 8 ≤ (x.scaled.filter (fun l => decide (l.layer = i))).length ∨ lf s d i 0x20 16 16 ≤ k ∨ scaleReady s d i k = false then s
    else scaleAhead d i n (setDpo s d { x with scaled := x.scaled ++ [⟨i, k, (rangeFrom 0 (lf s d i 0x20 0 16)).map (fun c => scalerPix s d i c k)⟩] })

/-- Scaled lines that the raster has passed leave their ring, and the ring fills again (R345). -/
def scaleRings (s : State) (d : Nat) : State :=
  let x := dpoOf s d
  let s1 := setDpo s d { x with scaled := x.scaled.filter (fun l => decide (dstRow s d l.layer ≤ l.row)) }
  (rangeFrom 0 8).foldl (fun s i => if lf s d i 0 29 1 = 1 ∧ (layPic s d i).isSome then scaleAhead d i 8 s else s) s1

/-- The same, but that nothing of a frame is scaled while a coefficient load may still end before its first active line (R350). -/
def scaleLines (s : State) (d : Nat) : State := if (dpoOf s d).coefLoad ∧ (dpoOf s d).line < 0 then s else scaleRings s d

/-- Count culled bytes in KiB (R344). -/
def addCulled (s : State) (d n : Nat) : State :=
  let x := dpoOf s d
  bumpBy (setDpo s d { x with culled := (x.culled + n) % 1024 }) (dpoReg d 0x74) ((x.culled + n) / 1024)

/-- Poisoned data is counted and recorded (R347). -/
def scanPoison (s : State) (d : Nat) (bad : List Nat) : State := if bad.isEmpty then s else dpoErr (bumpBy s (dpoReg d 0x68) bad.length) d 0x0805

/-- Lines that the raster has passed leave the rings. -/
def dropPassed (s : State) (d : Nat) : State :=
  let x := dpoOf s d
  setDpo s d { x with
    lines := x.lines.filter (fun l => decide (firstNeeded s d l.layer ≤ l.row)), chromas := x.chromas.filter (fun l => decide (firstChroma s d l.layer ≤ l.row)),
    nlines := x.nlines.filter (fun l => decide (dstRow s d l.layer ≤ l.row)) }

/-- The chroma rows that go with luma row `row` of a layer: its own, or for the scaler all that its taps can need
as soon as the luma row is held (log entry 66). -/
def rowChroma (s : State) (d i row : Nat) : List Nat :=
  let h := chromaRows s d i
  let l := if lf s d i 0 29 1 = 0 then [chromaRow s d i row]
    else (rangeFrom 0 h).filter (fun r => decide (firstChroma s d i ≤ r) && decide (r ≤ chromaRow s d i row + 2))
  if hasChroma (lf s d i 0 20 3) then l.filter (fun r => (findLine (dpoOf s d).chromas i r).isNone) else []

/-- Those of them that are fetched: not culled whole. -/
def fetchedChroma (s : State) (d i row : Nat) : List Nat := (rowChroma s d i row).filter (fun r => !(neededChroma s d i r).isEmpty)

/-- A row is culled whole: it counts once in its frame (R344). -/
def skipRow (d i : Nat) (chroma : Bool) (bytes : Nat) (s : State) (row : Nat) : State :=
  let x := dpoOf s d
  if x.skips.contains (i, chroma, row) then s else addCulled (setDpo s d { x with skips := (i, chroma, row) :: x.skips }) d bytes

/-- Fetch a source row of a layer, and with it chroma rows (R346); one that is culled whole is not fetched, and every block not fetched counts (R344). `bad`
numbers the poisoned blocks: those of the luma row, then those of each chroma row fetched (log entry 66). -/
def fetchSource (s0 : State) (d i row : Nat) (bad : List Nat) : State :=
  let s := dropPassed s0 d
  let x := dpoOf s d
  match layPic s d i with
  | none => s
  | some (buf, co, pitch) =>
    let f := lf s d i 0 20 3
    let b := pixBytes f
    let w := lf s d i 0x18 0 16
    let oy := lf s d i 0x14 16 16
    let ox := lf s d i 0x14 0 16
    if lf s d i 0x18 16 16 ≤ row ∨ row < firstNeeded s d i ∨ (findLine x.lines i row).isSome
      ∨ lf s d i 0x24 0 8 ≤ (x.lines.filter (fun l => decide (l.layer = i))).length then s else
    let need := neededBlocks s d i row
    let blocks := (w * b + 63) / 64
    let cblocks := (chromaSpan ox w * 2 * b + 63) / 64
    let s0 := ((rowChroma s d i row).filter (fun r => (neededChroma s d i r).isEmpty)).foldl (skipRow d i true (64 * cblocks)) s
    if need.isEmpty then skipRow d i false (64 * blocks) s0 row else
    let luma : BufLine := ⟨i, row, rdMem s (buf + (oy + row) * pitch + ox * b) (w * b), bad.filter need.contains⟩
    let cb := chromaSpan ox w * 2 * b
    let rows := fetchedChroma s d i row
    let chroma : List BufLine := ((rangeFrom 0 rows.length).map (fun j => (j, nth 0 rows j))).map (fun q =>
      let cn := neededChroma s d i q.2
      ⟨i, q.2, rdMem s (buf + co + (oy / 2 + q.2) * pitch + ox / 2 * 2 * b) cb, cn.filter (fun k => bad.contains (blocks + q.1 * ((cb + 63) / 64) + k))⟩)
    let y := dpoOf s0 d
    let s1 := setDpo s0 d { y with lines := luma :: y.lines, chromas := chroma ++ y.chromas }
    let less := 64 * (blocks - need.length) + (rows.map (fun r => 64 * (cblocks - (neededChroma s d i r).length))).sum
    scaleLines (addCulled (scanPoison s1 d (luma.bad ++ (chroma.map BufLine.bad).flatten)) d less) d

/-- Fetch a neural line of a stripe that is shown (R356), but for the blocks that opaque layers cover (R344). -/
def fetchNeural (s0 : State) (d row : Nat) (bad : List Nat) : State :=
  let s := dropPassed s0 d
  let x := dpoOf s d
  match x.sel with
  | none => s
  | some q => match snapOf s d q with
    | none => s
    | some n =>
      let w := slf n 0x20 0 16
      match x.stripes.find? (fun p => decide (p.frame = frameCnt s d) && decide (p.idx = row / 64) && decide (p.neural = some true)) with
      | none => s
      | some p =>
        if slf n 0x20 16 16 ≤ row ∨ row < dstRow s d n.layer ∨ (findLine x.nlines n.layer row).isSome ∨ 8 ≤ x.nlines.length then s else
        let base := nf n 0x9C 16 16 * 0x10000 + 2 ^ 32 * nf n 0xA0 0 16 + p.idx % (nf n 0x88 8 2 + 1) * nf n 0xA0 16 8 * 0x10000
        let need := blocksOf w 4 (visibleCols s d n.layer row)
        if need.isEmpty then skipRow d n.layer false (64 * ((w * 4 + 63) / 64)) s row else
        let s1 := addCulled s d (64 * ((w * 4 + 63) / 64 - need.length))
        let y := dpoOf s1 d
        let l : BufLine := ⟨n.layer, row, rdMem s (base + row % 64 * ((w * 4 + 63) / 64 * 64)) (w * 4), bad.filter need.contains⟩
        scanPoison (setDpo s1 d { y with nlines := l :: y.nlines }) d l.bad

/-- SCAN_LINE_START: the next line of the frame begins (R340, R355, R360). -/
def execScanLineStart (t : Time) (d : Fin 4) (s0 : State) : Res :=
  let s := advance s0 t
  .next (if ¬ flag s (dpoReg d 4) 0 ∨ (vActive s d : Int) ≤ (dpoOf s d).line + 1 then s else
    let s' := if (dpoOf s d).line + 1 = 0 ∧ (dpoOf s d).coefLoad then scaleRings s d else s
    let x := dpoOf s' d
    let s1 := seeDone (setDpo s' d { x with line := x.line + 1 }) d
    if x.line + 1 < 0 then s1 else scaleLines (scanLine (if x.line + 1 = 0 then lineZero s1 d else s1) d) d)

/-- LINE_FETCH (R346): urgency orders requests, it changes no line. -/
def execLineFetch (t : Time) (d : Fin 4) (src : LineSrc) (bad : List Nat) (s0 : State) : Res :=
  let s := advance s0 t
  .next (if ¬ flag s (dpoReg d 4) 0 then s else match src with
  | .source i row => if i < 8 then fetchSource s d i row bad else s
  | .neural row => fetchNeural s d row bad)

/-- COEF_LOAD_COMPLETE (R350). -/
def execCoefLoadComplete (t : Time) (d : Fin 4) (s0 : State) : Res :=
  let s := advance s0 t
  let x := dpoOf s d
  let img := rdMem s (fld s (dpoReg d 0x80) 6 26 * 64 + 2 ^ 32 * fld s (dpoReg d 0x84) 0 16) 1792
  .next (if ¬ x.coefLoad then s
    else if x.line < 0 then scaleLines (setDpo s d { x with coefLoad := false, coef := img }) d
    else setDpo s d { x with coefLoad := false, coefNext := some img })

/-! ## Neural stripes (R353 to R359) -/

/-- The line offset of an instant: the frame it belongs to, current or next, if this line is it (R340). -/
def frameAtLine (s : State) (d : Nat) (at' : Int) : Option Nat :=
  let x := dpoOf s d
  let f := frameCnt s d
  if x.line = at' then some f else if x.line = at' + (vTotal s d : Int) then some ((f + 1) % 2 ^ 32) else none

/-- The picture of a layer that takes its buffer from its registers. -/
def regFlip (n : Snap) : Flip := ⟨0, slf n 4 0 32 + 2 ^ 32 * slf n 8 0 16, slf n 0xC 0 32, slf n 0x10 0 20, 0⟩

/-- (time of line 0 of the frame − DELAY_US) × PCLK, at the release point (R359). -/
def tpScaled (s : State) (d : Nat) (n : Snap) : Int :=
  ((s.clk.tb : Int) - 1000 * (nf n 0xA4 0 20 : Nat)) * (pclk s d : Int)
    + ((nf n 0x8C 16 16 : Nat) - (slf n 0x1C 16 16 : Nat) : Int) * (hTotal s d * 1000000000 : Nat)

/-- Sources A and B and PHASE (R359), or none where the rule for A finds no entry. -/
def chooseSel (s : State) (d : Nat) (n : Snap) (bad : List Nat) : Option (Flip × Flip × Nat) × State :=
  let i := n.layer
  let r := flipRing s d i
  if slf n 0 30 1 = 0 then (some (regFlip n, regFlip n, 0), s)
  else
    let hi := available s d i r
    let tp := tpScaled s d n
    let retime := decide (nf n 0xA4 31 1 = 1)
    let q := newest d i bad (fun f => !retime || decide ((f.ts : Int) * pclk s d ≤ tp)) r.retired (hi - r.retired) hi s
    match q.1 with
    | none => (none, q.2)
    | some a =>
      if ¬ retime then (some (a, a, 0), q.2)
      else
        let b := readFlip q.2 d i (a.entry + 1)
        if a.entry + 1 < hi ∧ (flipErr q.2 d i bad (a.entry + 1)).isNone ∧ a.ts < b.ts then
          (some (a, b, ((64 * (tp - (a.ts : Int) * pclk s d)) / (((b.ts : Int) - a.ts) * pclk s d)).toNat % 256), q.2)
        else (some (a, a, 0), bump q.2 (dpoReg d 0x70))

/-- The selection at the release point of frame `f` (R359). -/
def selectFrame (s : State) (d f : Nat) (bad : List Nat) : State := match neuralLayer s d with
  | none => s
  | some i =>
    let n := snapNow s d i
    let c := chooseSel s d n bad
    let x := dpoOf c.2 d
    let last := ([x.selNext, x.sel, x.selPrev].filterMap id).find? (fun q => !q.old && !q.gone)
    let sel : Option Sel := match c.1 with
      | some (a, b, ph) => some ⟨f, some n, a, b, ph, false, false⟩
      | none => last.map (fun q => { q with frame := f, snap := some n })
    if f = frameCnt c.2 d then showSel (setDpo c.2 d { x with sel := sel }) d x.selPrev else setDpo c.2 d { x with selNext := sel }

/-- The selection of a frame. -/
def selFor (s : State) (d f : Nat) : Option Sel :=
  let x := dpoOf s d
  match x.sel with
  | some q => if q.frame = f then some q else (match x.selNext with | some p => if p.frame = f then some p else none | none => none)
  | none => match x.selNext with | some p => if p.frame = f then some p else none | none => none

/-- The 64 bytes of a stripe request (R354). -/
def requestBytes (d seq k f rows ph slot : Nat) (a b : Flip) (dst due : Nat) : List Byte :=
  leBytes 4 seq ++ leBytes 1 1 ++ leBytes 1 d ++ leBytes 2 k ++ leBytes 4 f ++ leBytes 1 rows ++ leBytes 1 ph ++ leBytes 1 slot ++ leBytes 1 0
    ++ leBytes 6 a.buf ++ leBytes 2 0 ++ leBytes 4 a.chroma ++ leBytes 4 a.pitch
    ++ leBytes 6 b.buf ++ leBytes 2 0 ++ leBytes 4 b.chroma ++ leBytes 4 b.pitch ++ leBytes 6 dst ++ leBytes 2 0 ++ leBytes 8 due

/-- Issue the request of stripe `k` of frame `f` into its slot (R354, R355). -/
def issueStripe (s : State) (d k f : Nat) (q : Sel) (n : Snap) : State :=
  let x := dpoOf s d
  let slots := nf n 0x88 8 2 + 1
  let j := k % slots
  let c := tget (0, 0, none) x.slots j
  let u := c.2.1 + 1
  let goal := c.1 + BitVec.ofNat 32 (u * nf n 0x90 0 9)
  let p := nf n 0x88 24 4
  let due := rneDiv (s.clk.tb * pclk s d + (nf n 0x8C 16 16 - nf n 0x8C 0 16) * hTotal s d * 1000000000) (pclk s d)
  let seq := (rd s (dpoReg d 0xA8)).toNat
  let dst := nf n 0x9C 16 16 * 0x10000 + 2 ^ 32 * nf n 0xA0 0 16 + j * nf n 0xA0 16 8 * 0x10000
  let bs := requestBytes d seq k f (min 64 (slf n 0x20 16 16 - 64 * k)) q.phase j q.a q.b dst due
  let s1 := wrMem s (nf n 0x94 6 26 * 64 + 2 ^ 32 * nf n 0x98 0 16 + 64 * (seq % 16)) bs
  let s2 := bump (signal s1 p (nf n 0x88 18 6) 1) (dpoReg d 0xA8)
  let s3 := setDpo s2 d { x with
    slots := tset x.slots j (c.1, u, some goal), stripes := x.stripes ++ [⟨f, k, p, nf n 0x88 12 6 + j, goal, true, false, none, if q.gone then 8 else n.layer, q.a.entry, q.b.entry, none⟩] }
  if slf n 0 30 1 = 0 ∨ q.gone then s3 else
  let r := flipRing s3 d n.layer
  setFlipRing s3 d n.layer { r with shown := [q.a.entry, q.b.entry].filter (fun e => !r.shown.contains e) ++ r.shown }

/-- The release of stripe `k` (R353, R355, R359). -/
def stripeRelease (s0 : State) (d k : Nat) (bad : List Nat) : State :=
  let snap0 : Option Snap := if k = 0 then (neuralLayer s0 d).map (snapNow s0 d) else
    match (dpoOf s0 d).selNext with
    | some q => snapOf s0 d q
    | none => match (dpoOf s0 d).sel with | some q => snapOf s0 d q | none => none
  match snap0 with
  | none => s0
  | some n0 => match frameAtLine s0 d ((slf n0 0x1C 16 16 : Int) + 64 * k - (nf n0 0x8C 16 16 : Nat)) with
    | none => s0
    | some f =>
      let s := if k = 0 ∧ (selFor s0 d f).isNone then selectFrame s0 d f bad else s0
      match selFor s d f with
      | none => s
      | some q => match snapOf s d q with
        | none => s
        | some n =>
          let x := dpoOf s d
          if nf n 0x88 31 1 = 0 ∨ slf n 0x20 16 16 ≤ 64 * k ∨ x.stripes.any (fun p => decide (p.frame = f) && decide (p.idx = k)) then s else
          let j := k % (nf n 0x88 8 2 + 1)
          let free := match (tget (0, 0, none) x.slots j).2.2 with
            | none => true
            | some g => tokReached s (nf n 0x88 24 4) (nf n 0x88 12 6 + j) g
          if free && !x.blocked && decide (x.quiet ≠ some f) then issueStripe s d k f q n
          else bump (setDpo s d { x with stripes := x.stripes ++ [⟨f, k, nf n 0x88 24 4, nf n 0x88 12 6 + j, 0, false, false, none, n.layer, q.a.entry, q.b.entry, none⟩] }) (dpoReg d 0x58)

/-- STRIPE_RELEASE. -/
def execStripeRelease (t : Time) (d : Fin 4) (k : Nat) (bad : List Nat) (s0 : State) : Res :=
  let s := advance s0 t
  .next (if flag s (dpoReg d 4) 0 then stripeRelease s d k bad else s)

/-- The lowest slack (R356). -/
def stripeSlack (s : State) (d : Nat) (v : Int) : State :=
  let c := clampInt (-2147483648) 2147483647 v
  if c < sx 32 (rd s (dpoReg d 0x48)).toNat then wrReg s (dpoReg d 0x48) (BitVec.ofInt 32 c) else s

/-- The deadline of stripe `k` (R356). -/
def stripeDeadline (s : State) (d k : Nat) : State :=
  let x := dpoOf s d
  match x.stripes.find? (fun p => decide (p.idx = k) && p.neural.isNone) with
  | none => s
  | some p => match selFor s d p.frame with
    | none => s
    | some q => match snapOf s d q with
      | none => s
      | some n =>
        if frameAtLine s d ((slf n 0x1C 16 16 : Int) + 64 * k - (nf n 0x8C 0 16 : Nat)) ≠ some p.frame then s else
        let put := fun (v : Bool) => setDpo s d { x with stripes := x.stripes.map (fun r => if r.frame = p.frame ∧ r.idx = k then { r with neural := some v } else r) }
        match (if p.dead || x.blocked || !p.issued then none else p.seen) with
        | some a => stripeSlack (put true) d ((s.clk.tb : Int) - a)
        | none => bump (put false) (dpoReg d 0x54)

/-- STRIPE_DEADLINE. -/
def execStripeDeadline (t : Time) (d : Fin 4) (k : Nat) (s : State) : Res := .next (stripeDeadline (advance s t) d k)

/-- A reset of partition `p` blocks the slots of the outputs it serves (R358). -/
def dpoPartReset (s : State) (p : Nat) : State :=
  (rangeFrom 0 4).foldl (fun s d => if fld s (dpoReg d 0x88) 24 4 ≠ p ∨ (tget? s.dpo d).isNone then s else
    let x := dpoOf s d
    setDpo s d { x with blocked := true, stripes := x.stripes.map (fun q => { q with dead := true }) }) s

/-! ## Link, hot plug and AUX (R339, R362, R363) -/

/-- Link rate in units of 10 Mb/s per lane (R338). -/
def linkRate (r : Nat) : Nat := match r with | 0 => 162 | 1 => 270 | 2 => 540 | _ => 810

/-- LINK_CFG: the link settings cannot carry the timing (R339). -/
def linkBad (s : State) (d : Nat) : Bool :=
  let dsc := flag s (dpoReg d 8) 27
  let b16 := if dsc then fld s (dpoReg d 8) 16 10 else if flag s (dpoReg d 8) 9 then 480 else 384
  (decide (ppc s d = 8) && !dsc) || (dsc && decide (vActive s d % 8 ≠ 0))
    || decide (16 * 2 ^ listed 8 3 (fld s (dpoReg d 8) 28 2) * linkRate (fld s (dpoReg d 8) 30 2) * 10000000 * 8 * (if dsc then 976 else 1000) < pclk s d * b16 * 10000)

/-- Training starts at the values in DPO_LINK, which act from now on (R339). -/
def dpoTrain (d : Nat) (s : State) : State :=
  if flag s (dpoReg d 4) 4 then s
  else if linkBad s d then dpoErr s d 0x0801
  else
    let x := dpoOf s d
    setFlag (setFlag (setDpo s d { x with ycc := decide (listed 6 2 (fld s (dpoReg d 8) 10 2) = 1), deep := flag s (dpoReg d 8) 9 }) (dpoReg d 4) 4 true)
      (dpoReg d 4) 3 false

/-- DPO_TRAIN: a write of TRAIN = 1 (R339). -/
def execDpoTrain (t : Time) (ag : Agent) (d : Fin 4) (s : State) : Res := .next (onWrite (advance s t) ag (dpoReg d 0xC) (dpoTrain d))

/-- DPO_TRAIN_DONE (R339). -/
def execDpoTrainDone (t : Time) (d : Fin 4) (ok : Bool) (s0 : State) : Res :=
  let s := advance s0 t
  .next (if ¬ flag s (dpoReg d 4) 4 then s else
    let s1 := setFlag (setFlag s (dpoReg d 4) 4 false) (dpoReg d 4) 3 ok
    if ok then s1 else dpoErr s1 d 0x0802)

/-- HPD_CHANGE (R362). -/
def execHpdChange (t : Time) (d : Fin 4) (up : Bool) (s0 : State) : Res :=
  let s := setFlag (advance s0 t) (dpoReg d 4) 2 up
  .next (if up then s else setFlag s (dpoReg d 4) 3 false)

/-- IRQ_HPD (R362); `lost` is what the lane status read shows. -/
def execIrqHpd (t : Time) (d : Fin 4) (lost : Bool) (s0 : State) : Res :=
  let s := advance s0 t
  .next (if flag s (dpoReg d 4) 2 && lost then dpoErr (setFlag s (dpoReg d 4) 3 false) d 0x0803 else s)

/-- A request goes out on the AUX channel, unless one is in progress (R363). -/
def auxGo (d : Nat) (w : Word) (s : State) : State :=
  let x := dpoOf s d
  if flag s (dpoReg d 0xC4) 31 then s
  else setFlag (wrReg (setDpo s d { x with tries := 0 }) (dpoReg d 0xC0) (w &&& 0x0FFFFFFF)) (dpoReg d 0xC4) 31 true

/-- AUX_GO: a write of AUX_CMD with GO = 1 (R363). -/
def execAuxGo (t : Time) (ag : Agent) (d : Fin 4) (w : Word) (s : State) : Res := .next (onWrite (advance s t) ag (dpoReg d 0xC0) (auxGo d w))

/-- An AUX request ends with a reply code. -/
def auxEnd (s : State) (d r : Nat) : State := setFld (setFlag s (dpoReg d 0xC4) 31 false) (dpoReg d 0xC4) 2 2 r

/-- Put reply bytes into AUX_DATA. -/
def auxData (s : State) (d : Nat) (bs : List Byte) : State :=
  (rangeFrom 0 (min 16 bs.length)).foldl (fun s i => setFld s (dpoReg d (0xD0 + 4 * (i / 4))) (8 * (i % 4)) 8 (nth 0 bs i).toNat) s

/-- AUX_REPLY (R363). -/
def execAuxReply (t : Time) (d : Fin 4) (r : AuxReply) (s0 : State) : Res :=
  let s := advance s0 t
  let x := dpoOf s d
  let rq := fld s (dpoReg d 0xC0) 24 4
  .next (if ¬ flag s (dpoReg d 0xC4) 31 then s else match r with
  | .ack bs => auxEnd (if rq % 2 = 1 then auxData s d (bs.take (fld s (dpoReg d 0xC0) 20 4 + 1)) else s) d 0
  | .nack => auxEnd s d 1
  | .defer => if x.tries < 7 then setDpo s d { x with tries := x.tries + 1 } else auxEnd s d 2
  | .timeout => auxEnd s d 3)

/-! ## Touch and USB (R364 to R366, R505) -/

/-- USB port registers. -/
def usbReg (p o : Nat) : Nat := 0x4C0000 + 0x100 * p + o

/-- `n` bits of a report from bit `o` after its identifier. -/
def reportBits (bs : List Byte) (o n : Nat) : Nat := fieldOf (leVal (bs.drop 1)) o n

/-- The layer of output `d` that receives a contact at (x, y) (R365). -/
def touchLayer (s : State) (d x y : Nat) : Option Nat :=
  firstIdx (fun i => flag s (layReg d i 0) 31 && flag s (layReg d i 0) 27
    && decide (fld s (layReg d i 0x1C) 0 16 ≤ x) && decide (x < fld s (layReg d i 0x1C) 0 16 + fld s (layReg d i 0x20) 0 16)
    && decide (fld s (layReg d i 0x1C) 16 16 ≤ y) && decide (y < fld s (layReg d i 0x1C) 16 16 + fld s (layReg d i 0x20) 16 16)) [7, 6, 5, 4, 3, 2, 1, 0]

/-- Where a contact lands: coordinates, NO_LAYER, layer (R365); without MAP_EN the coordinates are free values. -/
def mapContact (s : State) (p x y : Nat) : (Nat × Nat × Bool × Nat) × State :=
  if ¬ flag s (usbReg p 0x18) 31 then
    let d := draw s
    ((d.1.toNat % 2 ^ 16, d.1.toNat / 2 ^ 16 % 2 ^ 16, true, 0), d.2)
  else
    let d := fld s (usbReg p 0x18) 0 2
    let ox := x * hActive s d / (fld s (usbReg p 0x14) 0 16 + 1)
    let oy := y * vActive s d / (fld s (usbReg p 0x14) 16 16 + 1)
    match touchLayer s d ox oy with
    | none => ((ox, oy, true, 0), s)
    | some i =>
      let g := layGeom s d i
      ((fld s (layReg d i 0x14) 0 16 + (ox - fld s (layReg d i 0x1C) 0 16) * g.1 / max 1 g.2.2.1,
        fld s (layReg d i 0x14) 16 16 + (oy - fld s (layReg d i 0x1C) 16 16) * g.2.1 / max 1 g.2.2.2, false, i), s)

/-- Write the event of one contact (R366). -/
def touchEvent (p : Nat) (bs : List Byte) (s : State) (c : Nat) : State :=
  let st := c * fld s (usbReg p 4) 0 16
  let x := reportBits bs (fld s (usbReg p 8) 16 16 + st) (fld s (usbReg p 8) 0 5)
  let y := reportBits bs (fld s (usbReg p 0xC) 16 16 + st) (fld s (usbReg p 0xC) 0 5)
  let tip := reportBits bs (fld s (usbReg p 0x10) 16 16 + st) 1
  let id := reportBits bs (fld s (usbReg p 0x10) 0 16 + st) 8
  let m := mapContact s p x y
  let s1 := m.2
  let head := (rd s1 (usbReg p 0x24)).toNat
  let flags := tip * 128 + (if m.1.2.2.1 then 64 else 0) + m.1.2.2.2 * 8 + (if flag s1 (usbReg p 0x18) 31 then fld s1 (usbReg p 0x18) 0 2 else 0) * 2
  let a := fld s1 (usbReg p 0x1C) 4 28 * 16 + 2 ^ 32 * fld s1 (usbReg p 0x20) 0 16 + 16 * (head % 2 ^ clampNat 4 12 (fld s1 (usbReg p 0x20) 24 4))
  bump (bump (wrMem s1 a (leBytes 8 s1.clk.tb ++ leBytes 2 m.1.1 ++ leBytes 2 m.1.2.1 ++ leBytes 1 id ++ leBytes 1 flags ++ leBytes 1 p ++ leBytes 1 head))
    (usbReg p 0x24)) (usbReg p 0x28)

/-- USB_TOUCH_REPORT (R364 to R366). -/
def execUsbTouchReport (t : Time) (p : Fin 2) (bs : List Byte) (s0 : State) : Res :=
  let s := advance s0 t
  .next (if flag s (usbReg p 0) 31 ∧ flag s (usbReg p 0) 28 ∧ bs.head? = some (BitVec.ofNat 8 (fld s (usbReg p 4) 24 8))
    then (rangeFrom 0 (fld s (usbReg p 4) 20 4)).foldl (touchEvent p bs) s else s)

/-- USB_CONNECT_CHANGE: CONN and SPEED change; on attaching the firmware writes the report map (R364, R370). -/
def execUsbConnectChange (t : Time) (p : Fin 2) (speed : Fin 4) (map : List Word) (s0 : State) : Res :=
  let s := advance s0 t
  let s1 := setFlag (setFld s (usbReg p 0) 29 2 speed) (usbReg p 0) 28 (decide (speed.val ≠ 0))
  .next (if speed.val = 0 then s1 else (rangeFrom 0 (min 5 map.length)).foldl (fun s k =>
    wrReg s (usbReg p (4 + 4 * k)) (mergeWord (maskOf .rw (usbReg p (4 + 4 * k))) (rd s (usbReg p (4 + 4 * k))) (nth 0 map k))) s1)

end Sys2Proof.Machine
end

