-- ==== Sys2Proof/Machine/Sio.lean ====
section
/-!
DEFINITION. Machine/Sio.lean: stop groups and the safety latch, safe inputs and outputs, and the reset of a group
(R388 to R395, R399).
-/
namespace Sys2Proof.Machine
open Sys2Proof

/-! ## Registers (R398, R399) -/

/-- Safe input registers. -/
def siReg (i o : Nat) : Nat := 0x390000 + 0x10 * i + o
/-- Safe output registers. -/
def soReg (i o : Nat) : Nat := 0x390100 + 0x10 * i + o
/-- Group registers. -/
def grpReg (g o : Nat) : Nat := 0x390200 + 0x10 * g + o
/-- Port registers of the motion port. -/
def mpReg (m o : Nat) : Nat := 0x380100 + 0x80 * m + o
/-- Zone registers of the motion port. -/
def mzReg (z o : Nat) : Nat := 0x380400 + 0x10 * z + o
/-- Axis registers. -/
def axReg (a o : Nat) : Nat := 0x381000 + 0x40 * a + o

/-- A group. -/
def grpOf (s : State) (g : Nat) : Grp := tget Grp.reset s.sio.grps g
/-- Replace a group. -/
def setGrp (s : State) (g : Nat) (v : Grp) : State := { s with sio := { s.sio with grps := tset s.sio.grps g v } }
/-- A safe input. -/
def sinOf (s : State) (i : Nat) : SIn := tget SIn.reset s.sio.ins i
/-- Replace a safe input. -/
def setSin (s : State) (i : Nat) (v : SIn) : State := { s with sio := { s.sio with ins := tset s.sio.ins i v } }
/-- A safe output. -/
def soutOf (s : State) (o : Nat) : SOut := tget SOut.reset s.sio.outs o
/-- Replace a safe output. -/
def setSout (s : State) (o : Nat) (v : SOut) : State := { s with sio := { s.sio with outs := tset s.sio.outs o v } }
/-- A motion port. -/
def mportOf (s : State) (m : Nat) : MPort := tget MPort.reset s.mot.ports m
/-- Replace a motion port. -/
def setMport (s : State) (m : Nat) (v : MPort) : State := { s with mot := { s.mot with ports := tset s.mot.ports m v } }
/-- An axis. -/
def maxisOf (s : State) (a : Nat) : MAxis := tget MAxis.reset s.mot.axes a
/-- Replace an axis. -/
def setMaxis (s : State) (a : Nat) (v : MAxis) : State := { s with mot := { s.mot with axes := tset s.mot.axes a v } }

/-- MOT_CFG.TOPO: 1 line, 2 ring (R372). -/
def topo (s : State) : Nat := listed 1 3 (fld s 0x380000 30 2)
/-- RUN as committed (R373). -/
def motRun (s : State) : Bool := flag s 0x380000 29
/-- MOT_STATUS.RUNNING. -/
def motRunning (s : State) : Bool := flag s 0x38001C 0
/-- An enabled axis. -/
def axisEn (s : State) (a : Nat) : Bool := flag s (axReg a 0) 31
/-- The port of an axis: PORT in line mode, MOT0 in ring mode (R372). -/
def axisPort (s : State) (a : Nat) : Nat := if topo s = 2 then 0 else fld s (axReg a 0) 30 1
/-- The stop group of an axis. -/
def axisGroup (s : State) (a : Nat) : Nat := fld s (axReg a 0) 20 3
/-- The enabled axes of a port. -/
def portAxes (s : State) (m : Nat) : List Nat := (rangeFrom 0 64).filter (fun a => axisEn s a && decide (axisPort s a = m))
/-- The groups with an axis on a port, ascending. -/
def portGroups (s : State) (m : Nat) : List Nat := (rangeFrom 0 8).filter (fun g => (portAxes s m).any (fun a => decide (axisGroup s a = g)))
/-- The rings of a port are in use (R378); in ring mode those of MOT1 are not (R372). -/
def ringsOn (s : State) (m : Nat) : Bool := flag s (mpReg m 0x10) 31 && (decide (topo s = 1) || (decide (topo s = 2) && decide (m = 0)))
/-- Producer partition of a port. -/
def cpartOf (s : State) (m : Nat) : Nat := fld s (mpReg m 0x10) 16 4
/-- CYCLE_NS (R373). -/
def cycleNs (s : State) : Nat := (rd s 0x380004).toNat
/-- PHASE_NS. -/
def phaseNs (s : State) : Nat := (rd s 0x380008).toNat
/-- E(n). -/
def emitAt (s : State) (n : Nat) : Nat := n * cycleNs s + phaseNs s
/-- SUPERVISING (R404). -/
def supervising (s : State) : Bool := flag s 0x20000 31
/-- The groups that a mask names. -/
def groupsOf (mask : Nat) : List Nat := bitsSet mask 8
/-- Add one to a counter in a field; it wraps (R501). -/
def bumpFld (s : State) (off lo w : Nat) : State := setFld s off lo w (fld s off lo w + 1)

/-! ## The latch (R388, R389, R401) -/

/-- A group is tripped while its latch is set in either channel (R399). -/
def grpTripped (s : State) (g : Nat) : Bool := (grpOf s g).latA.isSome || (grpOf s g).latB.isSome

/-- Whether byte `i` of a frame, counted from its first preamble byte at 80 ns each, has still to be serialised. -/
def txLeft (x : Tx) (now : Time) (i : Nat) : Bool := match x.start with | none => true | some t => decide (now < t + 80 * i)

/-- First byte of the axis-valid bitmap and of the process image in a frame (R374, log entry 20). -/
def bitmapAt : Nat := 34
/-- First byte of the process image. -/
def imageAt : Nat := 94

/-- Bytes of the axis `a` not yet serialised carry the invalid bit, quick stop, and the target emitted last (R389). -/
def dropAxis (now : Time) (x : Tx) (e : Nat × Nat × Nat × Nat) : Tx :=
  let a := e.1
  let off := e.2.2.1
  let bm := if txLeft x now (bitmapAt + a / 8)
    then setNth x.bitmap (a / 8) (BitVec.ofNat 8 ((nth 0 x.bitmap (a / 8)).toNat - (if (nth 0 x.bitmap (a / 8)).toNat.testBit (a % 8) then 2 ^ (a % 8) else 0)))
    else x.bitmap
  let stop : List Byte := [0x02, 0x00] ++ tget [0, 0, 0, 0, 0, 0] x.keep a
  { x with
    bitmap := bm,
    image := (rangeFrom 0 (if e.2.2.2 = 2 then 4 else 8)).foldl (fun im j =>
      if txLeft x now (imageAt + off + j) then setNth im (off + j) (nth 0 stop j) else im) x.image }

/-- Drop what is left of the axes of group `g` on its way (R389). -/
def dropGroup (s : State) (g : Nat) : State :=
  { s with
      mot := { s.mot with ports := s.mot.ports.map (fun e => (e.1, { e.2 with tx := e.2.tx.map (fun x =>
      (x.axes.filter (fun a => decide (a.2.1 = g))).foldl (dropAxis s.clk.tb) x) })) } }

/-- FIRST_CAUSE of a group has recorded a code: its EVENT record is due, and the alert stands until it is read (R494, R513). -/
def causeNew (s : State) (g code : Nat) : State :=
  let s1 := noteEvent (.group (Fin.ofNat 8 g)) code 0 s
  { s1 with svc := { s1.svc with seenTrip := tdel s1.svc.seenTrip g } }

/-- A cause reaches a latch (R388, R389): channels `a` and `b` as named; a reset that was granted or asked for is discarded (R390). -/
def tripOne (a b : Bool) (code : Nat) (s : State) (g : Nat) : State :=
  let r := grpOf s g
  let t := s.clk.tb
  let was := r.latA.isSome || r.latB.isSome
  let first := !was || (decide (r.firstAt = some t) && decide (code < fld s (grpReg g 0) 0 16))
  let s1 := wrReg s (grpReg g 4) (rd s (grpReg g 4) ||| BitVec.ofNat 32 (2 ^ (code % 16)))
  let s2 := if first then causeNew (setFld s1 (grpReg g 0) 0 16 code) g code else s1
  let s3 := if was then s2 else bumpFld s2 (grpReg g 8) 0 16
  let s4 := if r.granted || r.req then bumpFld s3 (grpReg g 8) 16 16 else s3
  dropGroup (setGrp s4 g
    { latA := if a && r.latA.isNone then some t else r.latA, latB := if b && r.latB.isNone then some t else r.latB,
      req := false, granted := false, firstAt := if was then r.firstAt else some t }) g

/-- Trip several groups. -/
def tripGroups (a b : Bool) (code : Nat) (gs : List Nat) (s : State) : State := gs.foldl (tripOne a b code) s

/-- A stop request of the Hutch sets both latches (R402, R405, R413, R422, R426). -/
def hutchStop (gs : List Nat) (s : State) : State := tripGroups true true 0x090A gs s

/-! ## START (R29, R390) -/

/-- A partition in service: enabled and ON. -/
def inService (s : State) (p : Nat) : Bool := partEn s p && decide (fld s (partOff p) 16 2 = 1)

/-- START may clear: cycles run, the Hutch supervises and the producers are in service (R390). -/
def startDone (s : State) : Bool :=
  motRun s && supervising s && ((ringsOn s 0 || ringsOn s 1) && (rangeFrom 0 2).all (fun m => !ringsOn s m || inService s (cpartOf s m)))

/-- The Hutch supervises the outputs and the class-S partition is in service: the interval from power-on of R29 is over. -/
def holdDone (s : State) : Bool := supervising s && (rangeFrom 0 16).any (fun p => decide (partClass s p = 0) && inService s p)

/-- Keep START as R390 states it, and the interval of R29. -/
def updateStart (s0 : State) : State :=
  let s : State := if s0.sio.hold && holdDone s0 then { s0 with sio := { s0.sio with hold := false } } else s0
  if ¬ motRun s then (if s.sio.start then s else tripGroups true true 0x090B (rangeFrom 0 8) { s with sio := { s.sio with start := true } })
  else if s.sio.start && startDone s then { s with sio := { s.sio with start := false } } else s

/-! ## Active causes and the reset (R395) -/

/-- TYPE of a safe input: 0 off, 1 equivalent, 2 antivalent. -/
def sinType (s : State) (i : Nat) : Nat := listed 3 3 (fld s (siReg i 0) 30 2)
/-- ROLE of a safe output: 0 off, 1 STO, 2 BRAKE. -/
def soutRole (s : State) (o : Nat) : Nat := listed 5 3 (fld s (soReg o 0) 30 2)
/-- TYPE of an input names a contact arrangement (R391). -/
def sinOn (s : State) (i : Nat) : Bool := decide (sinType s i = 1) || decide (sinType s i = 2)
/-- ROLE of an input: 0 STOP, 1 RESET. -/
def sinRole (s : State) (i : Nat) : Nat := listed 4 2 (fld s (siReg i 0) 28 2)
/-- An input in demand: either channel. -/
def sinDemand (s : State) (i : Nat) : Bool := (sinOf s i).demA || (sinOf s i).demB
/-- TP_WIDTH of an input or output in ns. -/
def tpWidth (s : State) (off : Nat) : Nat := clampNat 10 100 (fld s off 16 8) * 10000

/-- TP_PERIOD of an input in ns: 10 to 1 000 ms. -/
def siPeriod (s : State) (i : Nat) : Nat := clampNat 10 1000 (fld s (siReg i 4) 0 16) * 1000000
/-- TP_PERIOD of an output in ns: 100 to 10 000 ms. -/
def soPeriod (s : State) (o : Nat) : Nat := clampNat 100 10000 (fld s (soReg o 4) 0 16) * 1000000

/-- A test pulse in progress. -/
def pulsing (s : State) (off : Nat) (p : Option Time) : Bool := match p with
  | none => false
  | some t => decide (s.clk.tb < t + tpWidth s off)

/-- The last test pulse of a channel of an input. -/
def SIn.pulse (x : SIn) : Chan → Option Time
  | .a => x.pulseA
  | .b => x.pulseB
/-- Since when a channel of an input stands at its demand level. -/
def SIn.since (x : SIn) : Chan → Option Time
  | .a => x.sinceA
  | .b => x.sinceB
/-- A channel of an input in demand. -/
def SIn.dem (x : SIn) : Chan → Bool
  | .a => x.demA
  | .b => x.demB
/-- A channel of an input that did not read low in its last pulse. -/
def SIn.stuck (x : SIn) : Chan → Bool
  | .a => x.stuckA
  | .b => x.stuckB

/-- A channel has passed a test pulse since the last fault of its input: channel B of an antivalent input has none, nor has one with TP_EN
clear (R391, R392). -/
def pulsePassed (s : State) (i : Nat) (c : Chan) : Bool :=
  let x := sinOf s i
  (match c with | .a => x.passA | .b => x.passB) || !flag s (siReg i 4) 31 || (decide (c = .b) && decide (sinType s i = 2))
    || (match x.pulse c with
      | none => false
      | some p => decide (x.faultAt ≤ p) && decide (p + tpWidth s (siReg i 4) ≤ s.clk.tb) && !x.stuck c)

/-- FAULT of an input: it persists until both channels were seen not in demand together and every test pulse of one TP_PERIOD has passed
(R392). -/
def sinFault (s : State) (i : Nat) : Bool :=
  flag s (siReg i 8) 4 && !((sinOf s i).clear && pulsePassed s i .a && pulsePassed s i .b)
/-- Whether an input or output names group `g`. -/
def namesGroup (s : State) (off g : Nat) : Bool := flag s off (16 + g)

/-- Limits of R376 and R380: 0 acts as 1. -/
def staleLimit (s : State) : Nat := max 1 (fld s 0x380000 24 4)
/-- LOSS_LIMIT. -/
def lossLimit (s : State) : Nat := max 1 (fld s 0x380000 20 4)

/-- A port with an axis of the group. -/
def groupOnPort (s : State) (g m : Nat) : Bool := (portGroups s m).contains g

/-- Whether cause `d` of group `g` is active (R395 item 1). -/
def causeActive (s : State) (g d : Nat) : Bool := match d with
  | 5 => (rangeFrom 0 2).any (fun m => groupOnPort s g m && decide (staleLimit s ≤ (mportOf s m).stale))
  | 6 => (rangeFrom 0 2).any (fun m => groupOnPort s g m && decide (lossLimit s ≤ (mportOf s m).loss))
  | 7 => (rangeFrom 0 8).any (fun i => sinOn s i && decide (sinRole s i = 0) && namesGroup s (siReg i 0) g && sinDemand s i)
  | 8 => (rangeFrom 0 8).any (fun i => sinOn s i && namesGroup s (siReg i 0) g && sinFault s i)
  | 9 => (rangeFrom 0 8).any (fun o => namesGroup s (soReg o 0) g && flag s (soReg o 8) 3)
  | 11 => s.sio.start
  | 15 => (rangeFrom 0 2).any (fun m => (mportOf s m).gstop.testBit g)
  | _ => false

/-- Item 1 of R395: every recorded cause is inactive, no input or output of the group holds one, and START has cleared. -/
def resetItem1 (s : State) (g : Nat) : Bool :=
  (rangeFrom 1 15).all (fun d => !causeActive s g d || !((rd s (grpReg g 4)).getLsbD d || decide (7 ≤ d ∧ d ≤ 9) || decide (d = 11)))

/-- The ports whose sets item 2 of R395 asks for: those with an axis of the group; for a group without axes, those with rings (log entry 85). -/
def resetPorts (s : State) (g : Nat) : List Nat :=
  let l := (rangeFrom 0 2).filter (groupOnPort s g)
  if l.isEmpty then (rangeFrom 0 2).filter (ringsOn s) else l

/-- Item 2 of R395: the sets of the cycle are on time with GROUP_STOP clear. -/
def resetItem2 (s : State) (g : Nat) : Bool :=
  motRunning s && !(resetPorts s g).isEmpty
    && (resetPorts s g).all (fun m => ringsOn s m && (mportOf s m).onTime && !(mportOf s m).gstop.testBit g)

/-- A request that is discarded is counted. -/
def refuseReset (s : State) (g : Nat) : State := bumpFld (setGrp s g { grpOf s g with req := false, granted := false }) (grpReg g 8) 16 16

/-- A reset request for a tripped group (R395 item 3). -/
def requestReset (s : State) (g : Nat) : State :=
  if ¬ grpTripped s g ∨ (grpOf s g).granted then s
  else if resetItem1 s g && resetItem2 s g then setGrp s g { grpOf s g with req := true } else refuseReset s g

/-- The group returns to RUN (R395): its latches and causes clear. -/
def groupRun (s : State) (g : Nat) : State :=
  wrReg (setGrp s g { latA := none, latB := none, req := false, granted := false, firstAt := none }) (grpReg g 4) 0

/-! ## Outputs (R394) -/

/-- Latch of a group in a channel. -/
def latOf (s : State) (g : Nat) : Chan → Option Time
  | .a => (grpOf s g).latA
  | .b => (grpOf s g).latB

/-- The groups of an output. -/
def soutGroups (s : State) (o : Nat) : List Nat := groupsOf (fld s (soReg o 0) 16 8)

/-- A channel of an output is commanded on (R29, R394). -/
def outOn (s : State) (o : Nat) (c : Chan) : Bool :=
  !s.sio.hold && !flag s (soReg o 8) 3 && (match soutRole s o with
    | 1 => (soutGroups s o).all (fun g => (latOf s g c).isNone)
    | 2 => !(match c with | .a => (soutOf s o).offA | .b => (soutOf s o).offB)
    | _ => false)

/-- BRAKE outputs turn on again once their groups are in RUN (R394). -/
def brakesOn (s : State) : State :=
  (rangeFrom 0 8).foldl (fun s o =>
    let free := (soutGroups s o).all (fun g => !grpTripped s g)
    let x := soutOf s o
    if soutRole s o = 2 then setSout s o { x with offA := x.offA && !free, offB := x.offB && !free } else s) s

/-- The last test pulse of a channel of an output. -/
def SOut.pulse (x : SOut) : Chan → Option Time
  | .a => x.pulseA
  | .b => x.pulseB

/-- The readback of a channel of an output. -/
def readback (s : State) (o : Nat) (c : Chan) : Bool :=
  let x := soutOf s o
  (outOn s o c && !pulsing s (soReg o 4) (x.pulse c)) ^^ (match c with | .a => x.badA | .b => x.badB)

/-- The level at a channel's pin (R391, R392): a closed contact reads high outside its test pulse, and a channel with a test-pulse fault
within it too; channel B of an antivalent input is open when not in demand. -/
def sinLevel (s : State) (i : Nat) (c : Chan) : Bool :=
  let x := sinOf s i
  let dem := (x.since c).isSome
  let closed := match c with | .a => !dem | .b => if sinType s i = 2 then dem else !dem
  if pulsing s (siReg i 4) (x.pulse c) then x.stuck c else closed

/-! ## The commands -/

/-- LATCH_SET: a cause reaches the latches of group `g` in the channels named (R389); the causes are those of R388. -/
def execLatchSet (t : Time) (g : Fin 8) (code : Fin 16) (a b : Bool) (s0 : State) : Res :=
  let s := advance s0 t
  .next (if (1 ≤ code.1 ∧ code.1 ≤ 11 ∨ code.1 = 15) ∧ (a || b) = true then tripOne a b (0x0900 + code) s g else s)

/-- Mark a channel of an input in or out of demand; a disagreement of the channels is timed (R392). -/
def setDemand (s : State) (i : Nat) (c : Chan) (d : Bool) : State :=
  let x := sinOf s i
  let y := match c with | .a => { x with demA := d } | .b => { x with demB := d }
  setSin s i { y with discAt := if y.demA = y.demB then none else if x.discAt.isSome then x.discAt else some s.clk.tb }

/-- FILTER of an input in ns: 50 µs units, up to 60. -/
def filterNs (s : State) (i : Nat) : Nat := min 60 (fld s (siReg i 0) 8 8) * 50000

/-- How long a channel has read its demand level outside its own test pulse (R392). -/
def heldFor (s : State) (i : Nat) (c : Chan) : Nat :=
  let x := sinOf s i
  match x.since c with
  | none => 0
  | some a => s.clk.tb - a - (match x.pulse c with
    | none => 0
    | some p => min s.clk.tb (p + tpWidth s (siReg i 4)) - max a p)

/-- A channel has read its demand level for FILTER; a level that starts during the channel's test pulse counts from the pulse's end (R392). -/
def demandDue (s : State) (i : Nat) (c : Chan) : Bool :=
  let x := sinOf s i
  (match x.since c with
    | none => false
    | some a => !(pulsing s (siReg i 4) (x.pulse c) && (match x.pulse c with | none => false | some p => decide (p ≤ a))))
    && decide (filterNs s i ≤ heldFor s i c)

/-- A channel's contact takes its demand level. -/
def levelOn (s : State) (i : Nat) (c : Chan) : State :=
  let x := sinOf s i
  match c with
  | .a => setSin s i { x with sinceA := some (x.sinceA.getD s.clk.tb) }
  | .b => setSin s i { x with sinceB := some (x.sinceB.getD s.clk.tb) }

/-- A channel's contact leaves its demand level. -/
def levelOff (s : State) (i : Nat) (c : Chan) : State :=
  let x := sinOf s i
  setSin s i (match c with | .a => { x with sinceA := none } | .b => { x with sinceB := none })

/-- SAFE_INPUT_DEMAND: a channel stands at its demand level, from the first such command on; once it has read it for FILTER it is in demand,
and its own latch is set for a STOP input (R392; log entry 86). -/
def execSafeInputDemand (t : Time) (i : Fin 8) (c : Chan) (s0 : State) : Res :=
  let s := levelOn (advance s0 t) i c
  .next (if ¬ sinOn s i ∨ ¬ demandDue s i c then s else
    let was := sinDemand s i
    let s1 := setDemand s i c true
    let s2 := if was then s1 else bump s1 (siReg i 0xC)
    if sinRole s i = 0 then tripGroups (decide (c = .a)) (decide (c = .b)) 0x0907 (groupsOf (fld s (siReg i 0) 16 8)) s2
    else if sinRole s i = 1 ∧ (sinOf s2 i).press.isNone then setSin s2 i { sinOf s2 i with press := some s.clk.tb, rel := none }
    else s2)

/-- One channel leaves its demand level: outside its own test pulse it leaves demand, and both out of demand together is what a fault and the
press of a button wait for (R392, R395). -/
def leaveDemand (s0 : State) (i : Nat) (c : Chan) : State :=
  let s := levelOff s0 i c
  if ¬ sinOn s i ∨ pulsing s (siReg i 4) ((sinOf s i).pulse c) then s else
  let s1 := setDemand s i c false
  if sinDemand s1 i then s1 else
  let x := sinOf s1 i
  setSin s1 i { x with clear := true, rel := if x.press.isSome && x.rel.isNone then some s.clk.tb else x.rel }

/-- SAFE_INPUT_DEMAND_END: a channel, or both at once, leaves its demand level (R392). -/
def execSafeInputDemandEnd (t : Time) (i : Fin 8) (c : Chan) (both : Bool) (s0 : State) : Res :=
  let s := leaveDemand (advance s0 t) i c
  .next (if both then leaveDemand s i (match c with | .a => .b | .b => .a) else s)

/-- A test-pulse or discrepancy fault of an input sets the latches of its groups (R392). -/
def sinFails (s : State) (i : Nat) : State :=
  let s1 := setSin s i { sinOf s i with faultAt := s.clk.tb, clear := !sinDemand s i, passA := false, passB := false }
  tripGroups true true 0x0908 (groupsOf (fld s (siReg i 0) 16 8)) (setFlag s1 (siReg i 8) 4 true)

/-- A period has passed since the start of a channel's last pulse. -/
def periodOver (s : State) (d : Nat) (p : Option Time) : Bool := match p with | none => true | some a => decide (a + d ≤ s.clk.tb)

/-- TEST_PULSE: a pulse starts on one channel of an input or output, TP_PERIOD after the channel's last: half a period from the other
channel's for an input, never on both at once for an output (R391, R394). -/
def execTestPulse (t : Time) (out : Bool) (n : Fin 8) (c : Chan) (s0 : State) : Res :=
  let s := advance s0 t
  let o : Chan := match c with | .a => .b | .b => .a
  .next (if out then
      (let x := soutOf s n
       if ¬ flag s (soReg n 4) 31 ∨ pulsing s (soReg n 4) (x.pulse o) ∨ (soutRole s n ≠ 1 ∧ soutRole s n ≠ 2) ∨ ¬ periodOver s (soPeriod s n) (x.pulse c) then s
       else setSout s n (match c with | .a => { x with pulseA := some s.clk.tb } | .b => { x with pulseB := some s.clk.tb }))
    else
      let x := sinOf s n
      if ¬ flag s (siReg n 4) 31 ∨ ¬ sinOn s n ∨ (c = .b ∧ sinType s n = 2) ∨ ¬ periodOver s (siPeriod s n) (x.pulse c)
        ∨ ¬ periodOver s (siPeriod s n / 2) (x.pulse o) then s
      else setSin s n (match c with
        | .a => { x with pulseA := some s.clk.tb, stuckA := false, passA := pulsePassed s n .a }
        | .b => { x with pulseB := some s.clk.tb, stuckB := false, passB := pulsePassed s n .b }))

/-- TEST_PULSE_FAULT: a channel does not read low from 50 µs after its pulse began until the pulse ends (R392). -/
def execTestPulseFault (t : Time) (i : Fin 8) (c : Chan) (s0 : State) : Res :=
  let s := advance s0 t
  let x := sinOf s i
  .next (match x.pulse c with
    | none => s
    | some p => if sinOn s i ∧ p + 50000 ≤ s.clk.tb ∧ pulsing s (siReg i 4) (some p)
      then sinFails (setSin s i (match c with | .a => { x with stuckA := true } | .b => { x with stuckB := true })) i else s)

/-- DISCREPANCY_TIMEOUT: the channels have disagreed for longer than DISC (R392, R399). -/
def execDiscrepancyTimeout (t : Time) (i : Fin 8) (s0 : State) : Res :=
  let s := advance s0 t
  .next (match (sinOf s i).discAt with
    | none => s
    | some d => if sinOn s i ∧ d + max 1 (min 50 (fld s (siReg i 0) 0 8)) * 10000000 < s.clk.tb then sinFails s i else s)

/-- A channel's readback differs, from the first such command on. -/
def readsBad (s : State) (o : Nat) (c : Chan) : State :=
  let x := soutOf s o
  match c with
  | .a => setSout s o { x with badA := true, faultAt := s.clk.tb, diffA := some (x.diffA.getD s.clk.tb) }
  | .b => setSout s o { x with badB := true, faultAt := s.clk.tb, diffB := some (x.diffB.getD s.clk.tb) }

/-- An output fault (R394): the channel does not read off during its own pulse, or has read a level that differs for more than 500 µs
outside it. -/
def readbackDue (s : State) (o : Nat) (c : Chan) : Bool :=
  let x := soutOf s o
  pulsing s (soReg o 4) (x.pulse c) || (match (match c with | .a => x.diffA | .b => x.diffB) with
    | none => false
    | some a => decide (500000 < s.clk.tb - a - (match x.pulse c with
      | none => 0
      | some p => min s.clk.tb (p + tpWidth s (soReg o 4)) - max a p)))

/-- OUTPUT_READBACK_FAULT: a channel's readback differs from its command; as an output fault it sets the latches of the output's groups (R394;
log entry 86). -/
def execOutputReadbackFault (t : Time) (o : Fin 8) (c : Chan) (s0 : State) : Res :=
  let s := advance s0 t
  .next (if soutRole s o ≠ 1 ∧ soutRole s o ≠ 2 then s else
    let s1 := readsBad s o c
    if readbackDue s1 o c then tripGroups true true 0x0909 (soutGroups s1 o) (setFlag s1 (soReg o 8) 3 true) else s1)

/-- OUTPUT_FAULT_CLEAR: the readback matches again; a fault clears once it has matched for 1 s (R394). -/
def execOutputFaultClear (t : Time) (o : Fin 8) (s0 : State) : Res :=
  let s := advance s0 t
  .next (if ¬ flag s (soReg o 8) 3 ∨ (soutOf s o).faultAt + 1000000000 ≤ s.clk.tb
    then setFlag (setSout s o { soutOf s o with badA := false, badB := false, diffA := none, diffB := none }) (soReg o 8) 3 false else s)

/-- A channel of a BRAKE output whose group tripped DELAY ago. -/
def brakeDue (s : State) (o : Nat) (c : Chan) : Bool :=
  (soutGroups s o).any (fun g => match latOf s g c with
    | none => false
    | some x => decide (x + fld s (soReg o 0) 0 16 * 100000 ≤ s.clk.tb))

/-- BRAKE_DELAY_EXPIRE (R394). -/
def execBrakeDelayExpire (t : Time) (o : Fin 8) (s0 : State) : Res :=
  let s := advance s0 t
  let x := soutOf s o
  .next (if soutRole s o = 2 then setSout s o { x with offA := x.offA || brakeDue s o .a, offB := x.offB || brakeDue s o .b } else s)

/-- RESET_BUTTON_RELEASE: the release of a RESET input after a press of 100 ms to 5 s requests a reset (R395). -/
def execResetButtonRelease (t : Time) (i : Fin 8) (s0 : State) : Res :=
  let s := advance s0 t
  .next (if ¬ sinOn s i ∨ sinRole s i ≠ 1 then s else
    let x := sinOf s i
    let s1 := setSin s i { x with demA := false, demB := false, discAt := none, press := none, rel := none, sinceA := none, sinceB := none, clear := true }
    match x.press with
    | none => s1
    | some p =>
      let d := x.rel.getD s.clk.tb - p
      if 100000000 ≤ d ∧ d ≤ 5000000000 then (groupsOf (fld s (siReg i 0) 16 8)).foldl requestReset s1 else s1)

/-- A write of SIO_RESET (R395). -/
def sioReset (s : State) (w : Word) : State :=
  ((groupsOf w.toNat).filter (fun g => flag s (grpReg g 0xC) 0)).foldl requestReset s

/-- SIO_RESET: the groups that permit a register reset. -/
def execSioReset (t : Time) (ag : Agent) (w : Word) (s : State) : Res := .next (onWrite (advance s t) ag 0x390300 (fun s => sioReset s w))

/-- GROUP_RESET_GRANT: both channels grant the request, or it is refused (R395 item 4); a channel whose sequencer does not run grants nothing. -/
def execGroupResetGrant (t : Time) (g : Fin 8) (ok : Bool) (s0 : State) : Res :=
  let s := advance s0 t
  .next (if ¬ (grpOf s g).req then s
    else if ok && flag s 0x20000 30 && flag s 0x20000 29 && resetItem1 s g && resetItem2 s g
    then setGrp s g { grpOf s g with req := false, granted := true } else refuseReset s g)

end Sys2Proof.Machine
end

