-- ==== Sys2Proof/Machine/Hutch.lean ====
section
/-!
DEFINITION. Machine/Hutch.lean: the safety island (chapter 14): channels, pictures and zone reports, comparison, golden
input, loss and restart of partitions, the safety mailbox and the status record.
-/
namespace Sys2Proof.Machine
open Sys2Proof

/-! ## Registers, events (R426, R431, R432) -/

/-- Zone registers of the Hutch. -/
def hzReg (z o : Nat) : Nat := 0x20100 + 0x20 * z + o
/-- Counters, in the order of R432. -/
def hctReg (i : Nat) : Nat := 0x20040 + 4 * i
/-- A channel. -/
def hchanOf (s : State) : Chan → HChan
  | .a => s.hut.chA
  | .b => s.hut.chB
/-- Replace a channel. -/
def setHchan (s : State) (c : Chan) (v : HChan) : State := match c with
  | .a => { s with hut := { s.hut with chA := v } }
  | .b => { s with hut := { s.hut with chB := v } }
/-- What channel `c` holds of a zone (R400, R411). -/
def hzoneIn (s : State) (c : Chan) (z : Nat) : HZone := tget HZone.reset (hchanOf s c).zones z
/-- What channel A, which has the checker, holds of a zone. -/
def hzoneOf (s : State) (z : Nat) : HZone := hzoneIn s .a z
/-- A channel changes what it holds of a zone. -/
def HChan.modZone (x : HChan) (z : Nat) (f : HZone → HZone) : HChan := { x with zones := tset x.zones z (f (tget HZone.reset x.zones z)) }
/-- Each channel changes what it holds of a zone (R411); a channel that is out is kept in step by the one that runs, whose decisions drive both
channels' outputs (R404, log entry 89). -/
def modHzone (s : State) (z : Nat) (f : HZone → HZone) : State :=
  { s with hut := { s.hut with chA := s.hut.chA.modZone z f, chB := s.hut.chB.modZone z f } }
/-- The other channel. -/
def otherChan : Chan → Chan
  | .a => .b
  | .b => .a
/-- A channel as an argument: 0 A, 1 B. -/
def chanArg : Chan → Nat
  | .a => 0
  | .b => 1

/-- Record a code in LAST_EVT and in the event log, of which 256 entries are kept (R426, R431); the alert of R513 stands until LAST_EVT is read. -/
def hutEvent (code arg : Nat) (s : State) : State :=
  let s1 := noteEvent .hutch code arg (setFld s 0x20000 0 16 code)
  { s1 with hut := { s1.hut with log := ((s.clk.tb, code, arg) :: s.hut.log).take 256 }, svc := { s1.svc with seenEvt := none } }

/-! ## Zones (R410 to R412, R420) -/

/-- EN of a zone. -/
def zoneEn (s : State) (z : Nat) : Bool := flag s (hzReg z 0) 31
/-- STREAM of a zone. -/
def zoneStream (s : State) (z : Nat) : Nat := fld s (hzReg z 0) 16 9
/-- AGE_LIMIT of a zone in ns. -/
def zoneAge (s : State) (z : Nat) : Nat := fld s (hzReg z 0xC) 16 16 * 1000000
/-- CMP_BUDGET of a zone in ns. -/
def zoneBudget (s : State) (z : Nat) : Nat := fld s (hzReg z 0xC) 0 16 * 1000

/-- Only zone ring 0 is used: ring mode, or one CPART for both ports (R410). -/
def oneRing (s : State) : Bool := decide (topo s = 2) || decide (cpartOf s 0 = cpartOf s 1)
/-- The ring of a zone (R410). -/
def zoneRing (s : State) (z : Nat) : Nat := if oneRing s then 0 else fld s (hzReg z 0) 30 1
/-- The partition that reports a zone. -/
def zonePart (s : State) (z : Nat) : Nat := cpartOf s (zoneRing s z)

/-- The golden state of an engine. -/
def goldOf (s : State) (e : Nat) : Gold := tget Gold.reset s.hut.gold e
/-- Replace it. -/
def setGold (s : State) (e : Nat) (v : Gold) : State := { s with hut := { s.hut with gold := tset s.hut.gold e v } }

/-- The logical cores of a partition. -/
def coresOf (s : State) (p : Nat) : List Nat := (s.sch.owner.filter (fun e => decide (e.2 = p + 1))).map Prod.fst

/-- An unverified core or Footstool serves the partition (R420); an engine out of service serves nothing. -/
def partUnverified (s : State) (p : Nat) : Bool :=
  (coresOf s p).any (fun l => ((goldOf s l).unv && !coreUnavail s l) || ((goldOf s (256 + l / 16)).unv && !(clOf s (l / 16)).unavail))

/-- A zone invalid for channel `c` (R411, R420, R426). -/
def chanInvalid (s : State) (c : Chan) (z : Nat) : Bool :=
  let x := hzoneIn s c z
  !zoneEn s z || !x.valid || (match x.capAt with | none => true | some c => decide (c + zoneAge s z < s.clk.tb))
    || decide (epochOf s < x.until_) || (goldOf s 288).unv || partUnverified s (zonePart s z)

/-- A zone invalid for the Hutch: either channel marks it so (R412). -/
def hutInvalid (s : State) (z : Nat) : Bool := chanInvalid s .a z || chanInvalid s .b z

/-- CAP_H of channel `c` (R412). -/
def chanCap (s : State) (c : Chan) (z : Nat) : Nat := match (hzoneIn s c z).chk with
  | some (_, true, c) => if s.clk.tb ≤ c + zoneAge s z then fld s (hzReg z 0) 0 16 else 0xFFFF
  | _ => 0xFFFF
/-- The lower of the two caps (R412). -/
def capH (s : State) (z : Nat) : Nat := min (chanCap s .a z) (chanCap s .b z)

/-! ## The status record (R427) -/

/-- A class-S restart is pending. -/
def restarting (s : State) : Bool := !s.hut.spend.isEmpty

/-- Write the status record. -/
def statusRecord (s0 : State) : State :=
  let s : State := { s0 with hut := { s0.hut with seq := s0.hut.seq + 1 } }
  let bit := fun (b : Bool) (v : Nat) => if b then v else 0
  let flags := bit (flag s 0x20000 31) 128 + bit (flag s 0x20000 28) 64 + bit (restarting s) 32 + bit (flag s 0x20000 30) 16 + bit (flag s 0x20000 29) 8
  let zs := ((rangeFrom 0 16).map (fun z => bit (hutInvalid s z) (2 ^ z))).foldl (· + ·) 0
  let body := leBytes 4 s.hut.seq ++ leBytes 1 1 ++ leBytes 1 flags ++ leBytes 2 zs ++ leBytes 8 s.clk.tb ++ leBytes 12 0
  wrMem s (fld s 0x2000C 5 27 * 32 + 2 ^ 32 * fld s 0x20010 0 16) (body ++ leBytes 4 (crc32c body))

/-- Signal FB_TOK in every partition of FB_PARTS (R423). -/
def signalFb (s : State) : State :=
  (bitsSet (fld s 0x20008 16 16) 16).foldl (fun s k => signal s k (fld s 0x20008 0 6) 1) s

/-! ## Channels and supervision (R402 to R405, R428) -/

/-- A channel runs its sequencer: not restarting, failed or under proof test. -/
def chanRuns (c : HChan) : Bool := !c.restarting && !c.failed && !c.testing

/-- Bring HUT_STATUS and UNSUP_NS up to date after a change of a channel; a change of SUPERVISING writes the status record. -/
def superviseNow (s : State) : State :=
  if ¬ s.hut.passed then s else
  let a := chanRuns s.hut.chA
  let b := chanRuns s.hut.chB
  let was := supervising s
  let s1 := setFlag (setFlag (setFlag (setFlag s 0x20000 30 a) 0x20000 29 b) 0x20000 31 (a && b)) 0x20000 27 (s.hut.chA.testing || s.hut.chB.testing)
  let out := s.hut.chA.restarting || s.hut.chB.restarting || s.hut.chA.testing || s.hut.chB.testing
  let s2 : State := match s1.hut.unsupFrom, out with
    | none, true => { s1 with hut := { s1.hut with unsupFrom := some s.clk.tb } }
    | some f, false => { wr64 s1 0x2006C 0x20070 (val64 s1 0x2006C 0x20070 + (s.clk.tb - f)) with hut := { s1.hut with unsupFrom := none } }
    | _, _ => s1
  if was = (a && b) then s2 else statusRecord s2

/-- Registers of the HUT block with RWL fields (R432). -/
def hutCfg : List Nat :=
  (rangeFrom 1 10).map (fun i => 0x20000 + 4 * i) ++ (rangeFrom 0 16).flatMap (fun z => (rangeFrom 0 4).map (fun i => hzReg z (4 * i)))
    ++ (rangeFrom 0 16).map (fun k => 0x20300 + 4 * k)

/-- A register as channel B's own copy has it (R406, R432). -/
def copyOf (s : State) (off : Nat) : Word := tget (regReset off) s.hut.copyB off

/-- An RWL field of the HUT block in channel B's copy differs from channel A's (R432). -/
def copyDiffers (s : State) : Bool := hutCfg.any (fun o => decide ((copyOf s o ^^^ rd s o) &&& maskOf .rwl o ≠ 0))

/-- Since when decision `k` has differed, now that it has been compared again. -/
def noteDiff (now : Time) (d : Tab Time) (k : Nat) (differs : Bool) : Tab Time :=
  if ¬ differs then tdel d k else if (tget? d k).isSome then d else tset d k now

/-- The receiver compares each zone decision of a heartbeat with its own, and the copies of the configuration (R402, R432). -/
def diffNow (s : State) (b : HutBeat) : Tab Time :=
  let r := otherChan b.ch
  noteDiff s.clk.tb ((rangeFrom 0 16).foldl (fun d z => noteDiff s.clk.tb d z (b.zones.testBit z != chanInvalid s r z)) (hchanOf s r).diff) 16 (copyDiffers s)

/-- A heartbeat reaches the other channel: what it carries is what the link delivers, whatever its sender has decided (R402). -/
def beatIn (s : State) (b : HutBeat) : State :=
  let x := hchanOf s b.ch
  if ¬ (s.hut.passed && chanRuns x) then s else
  let s1 := setHchan s b.ch { x with beat := s.clk.tb }
  let y := hchanOf s1 (otherChan b.ch)
  if chanRuns y then setHchan s1 (otherChan b.ch) { y with got := some b, diff := diffNow s b } else s1

/-- HEARTBEAT (R402). -/
def execHeartbeat (t : Time) (b : HutBeat) (s : State) : Res := .next (beatIn (advance s t) b)

/-- A channel leaves supervision, or comes back: differences are measured anew (R402, R428). -/
def clearDiffs (s : State) : State :=
  { s with hut := { s.hut with chA := { s.hut.chA with diff := [] }, chB := { s.hut.chB with diff := [] } } }

/-- HEARTBEAT_MISS: three heartbeats of channel `c` are missing for the other channel, whose sequencer runs: it restarts (R402). -/
def execHeartbeatMiss (t : Time) (c : Chan) (s0 : State) : Res :=
  let s := advance s0 t
  let x := hchanOf s c
  .next (if s.hut.passed && chanRuns x && chanRuns (hchanOf s (otherChan c)) && decide (x.beat + 30000 ≤ s.clk.tb)
    then superviseNow (hutEvent 0x060B (chanArg c) (bump (clearDiffs (setHchan s c { x with restarting := true })) (hctReg 8))) else s)

/-- A decision that has differed for more than 1 ms in the channel given: its zone, or 16 for the configuration (R402, R432). -/
def overDiff (now : Time) (x : HChan) : Option Nat := (x.diff.find? (fun e => decide (e.2 + 1000000 < now))).map Prod.fst

/-- CHANNEL_DECISION_MISMATCH: a decision of one channel has differed from the other's for more than 1 ms: every group trips; its time is measured anew
(R402, R431, R432, log entry 89). -/
def execChannelDecisionMismatch (t : Time) (s0 : State) : Res :=
  let s := advance s0 t
  .next (if s.hut.passed && chanRuns s.hut.chA && chanRuns s.hut.chB then
      match (overDiff s.clk.tb s.hut.chA).or (overDiff s.clk.tb s.hut.chB) with
      | none => s
      | some z => hutEvent 0x060A z (hutchStop (rangeFrom 0 8) (clearDiffs s))
    else s)

/-- CHANNEL_RESTART_DONE: the channel runs again, or tries once more, or has failed twice and every group trips (R402). -/
def execChannelRestartDone (t : Time) (c : Chan) (ok : Bool) (s0 : State) : Res :=
  let s := advance s0 t
  let x := hchanOf s c
  .next (if ¬ x.restarting then s
    else if ok then superviseNow (clearDiffs (setHchan s c { x with restarting := false, fails := 0, beat := s.clk.tb }))
    else if x.fails = 0 then setHchan s c { x with fails := 1 }
    else superviseNow (hutchStop (rangeFrom 0 8) (setHchan s c { x with restarting := false, fails := 2, failed := true })))

/-- Supervision begins once both channels have passed their self-test (R404). -/
def beginSupervision (s : State) : State :=
  if s.hut.passed then s else
  let s1 : State := { s with hut := { s.hut with passed := true, chA := { s.hut.chA with beat := s.clk.tb }, chB := { s.hut.chB with beat := s.clk.tb } } }
  updateStart (superviseNow s1)

/-- SUPERVISION_START: both channels, which have their record from an accepted image, pass their self-test (R404, R456). -/
def execSupervisionStart (t : Time) (s0 : State) : Res :=
  let s := advance s0 t
  .next (if 2 ≤ phase s ∧ phase s ≠ 15 then beginSupervision s else s)

/-- TIMEBASE_CROSSCHECK: a difference of more than 1 000 ppm trips every group and makes every zone invalid (R405). -/
def execTimebaseCrosscheck (t : Time) (c : Chan) (ppm : Nat) (s0 : State) : Res :=
  let s := advance s0 t
  .next (if s.hut.passed && chanRuns (hchanOf s c) && decide (1000 < ppm) then
      hutEvent 0x060C (chanArg c) (hutchStop (rangeFrom 0 8)
        (setHchan s c { hchanOf s c with zones := (hchanOf s c).zones.map (fun e => (e.1, { e.2 with valid := false })) }))
    else s)

/-- The day whose proof test of channel `c` has come due, plus one (R428); 0 none. -/
def proofDay (s : State) (c : Chan) : Nat :=
  let o := (rd s 0x2001C).toNat
  let off := ((if 86400 ≤ o then 0 else o) + chanArg c) * 1000000000
  if s.clk.tb < off then 0 else (s.clk.tb - off) / 86400000000000 + 1

/-- PROOF_TEST: the daily test of a channel begins; the two are never tested together (R428). -/
def execProofTest (t : Time) (c : Chan) (s0 : State) : Res :=
  let s := advance s0 t
  let x := hchanOf s c
  .next (if s.hut.passed && chanRuns x && !(hchanOf s (otherChan c)).testing && decide (x.day < proofDay s c)
    then superviseNow (clearDiffs (setHchan s c { x with testing := true, day := proofDay s c })) else s)

/-- PROOF_TEST_DONE (R428). -/
def execProofTestDone (t : Time) (c : Chan) (s0 : State) : Res :=
  let s := advance s0 t
  let x := hchanOf s c
  .next (if x.testing then superviseNow (bump (clearDiffs (setHchan s c { x with testing := false, beat := s.clk.tb })) (hctReg 9)) else s)

/-! ## Resetting a partition (R271, R413, R422, R423) -/

/-- Class-S restarts that have come to their end no longer pend; the record says so (R427). -/
def restartCheck (s : State) : State :=
  let still := s.hut.spend.filter (fun p => decide (fld s (partOff p) 16 2 = 2))
  if still = s.hut.spend then s else statusRecord { s with hut := { s.hut with spend := still } }

/-- A partition reset, whole, be another still in progress or not (R271, R327, R358, R410). -/
def partReset (s : State) (p : Nat) : State :=
  let s1 := dpoPartReset (ingPartReset (partResetCore s p) p) p
  restartCheck (if partClass s p = 0 ∧ ¬ s.hut.spend.contains p ∧ ¬ s.hut.lost.contains p
      then { s1 with hut := { s1.hut with lost := s1.hut.lost ++ [p] } } else s1)

/-- PARTITION_RESET: requested by the Hutch, or performed on a commit of RESET = 1 within an epoch boundary (R271). -/
def execPartitionReset (t : Time) (p : Fin 16) (s : State) : Res := .next (partReset (advance s t) p)

/-- WRITE_ACK (R188, R271). -/
def execWriteAck (t : Time) (l : Fin 256) (tag : Nat) (s : State) : Res := .next (restartCheck (writeAck (advance s t) l tag))

/-- The groups that hold an axis of a port whose CPART is the partition (R422). -/
def partGroups (s : State) (p : Nat) : List Nat :=
  (rangeFrom 0 8).filter (fun g => (rangeFrom 0 2).any (fun m => decide (cpartOf s m = p) && groupOnPort s g m))

/-- A context of the partition is FAULTED. -/
def anyFaulted (s : State) (p : Nat) : Bool := (rangeFrom 0 64).any (fun n => decide ((ctxOf s p n).st = .faulted))

/-- S_CONTEXT_LOST: a context of a class-S partition is FAULTED, or the partition was reset: its groups trip (R422). -/
def execSContextLost (t : Time) (p : Fin 16) (s0 : State) : Res :=
  let s := advance s0 t
  .next (if partClass s p = 0 ∧ (anyFaulted s p || s.hut.lost.contains p.1) = true then
      hutEvent 0x060F p (hutchStop (partGroups s p) { s with hut := { s.hut with lost := s.hut.lost.filter (fun q => decide (q ≠ p.1)) } })
    else s)

/-- The zones that partition `p` reports. -/
def partZones (s : State) (p : Nat) : List Nat := (rangeFrom 0 16).filter (fun z => zoneEn s z && decide (zonePart s z = p))

/-- The Hutch restarts a class-S partition (R413, R422). -/
def sRestart (s : State) (p : Nat) : State :=
  let s1 := (partZones s p).foldl (fun s z => setFld (modHzone s z (fun x => { x with dis := [] })) (hzReg z 0x18) 0 2 0) (hutchStop (partGroups s p) s)
  let s2 := bump (statusRecord { s1 with hut := { s1.hut with spend := (s1.hut.spend.filter (fun q => decide (q ≠ p))) ++ [p] } }) (hctReg 6)
  hutEvent 0x0607 p (partReset s2 p)

/-- A_RESTART: a context of a class-A partition is FAULTED: steps 1 to 4 of R423. -/
def execARestart (t : Time) (p : Fin 16) (s0 : State) : Res :=
  let s := advance s0 t
  .next (if partClass s p = 1 ∧ partEn s p = true ∧ anyFaulted s p = true then
      let s1 := setFlag (partReset s p) 0x20000 28 true
      let s2 := signalFb (statusRecord (bump { s1 with hut := { s1.hut with apend := tset s1.hut.apend p (s.clk.tb + fld s 0x20004 0 16 * 1000000) } } (hctReg 7)))
      hutEvent 0x0608 p s2
    else s)

/-- RDY_TOK_SIGNAL: the restarted partition has signalled RDY_TOK: the record says that its restart is over, and FALLBACK clears once none is pending (R423,
R427). -/
def execRdyTokSignal (t : Time) (p : Fin 16) (s0 : State) : Res :=
  let s := advance s0 t
  .next (if (tget? s.hut.apend p).isNone ∨ token s p (fld s 0x20008 8 6) = 0 then s else
    let s1 : State := { s with hut := { s.hut with apend := tdel s.hut.apend p } }
    if s1.hut.apend.isEmpty then signalFb (statusRecord (setFlag s1 0x20000 28 false)) else statusRecord s1)

/-- A_LIMIT_EXPIRE: RDY_TOK is late; FALLBACK stays set (R424). -/
def execALimitExpire (t : Time) (p : Fin 16) (s0 : State) : Res :=
  let s := advance s0 t
  .next (match tget? s.hut.apend p with
    | none => s
    | some lim => if s.clk.tb < lim then s
      else hutEvent 0x0609 p { s with hut := { s.hut with apend := tset s.hut.apend p (2 ^ 64) } })

/-! ## Pictures, the checker and comparison (R407 to R413) -/

/-- The comparison entries of the enabled zones of a stream for a frame that was noticed, from its frame record. -/
def cmpsOf (s : State) (rec64 : List Byte) : List Cmp :=
  let st := le rec64 0x1C 2 % 512
  ((rangeFrom 0 16).filter (fun z => zoneEn s z && decide (zoneStream s z = st))).map (fun z =>
    { zone := z, ctr := le rec64 0x18 4, cap := le rec64 0 8, publish := le rec64 0x10 8, chk := none, rep := none, part := none, closed := false })

/-- Open the comparisons of a frame unless they are. -/
def openCmps (s : State) (rec64 : List Byte) : State :=
  (cmpsOf s rec64).foldl (fun s c => if s.hut.cmps.any (fun d => decide (d.zone = c.zone) && decide (d.ctr = c.ctr)) then s
    else { s with hut := { s.hut with cmps := s.hut.cmps ++ [c] } }) s

/-- Open the comparisons of the notices that wait in the ring (R407). -/
def openWaiting (s : State) : State :=
  (nringOf s 16).recs.foldl (fun s e => if bit e.2 0x1F 5 then s else openCmps s e.2) s

/-- The comparison of a zone and a frame. -/
def cmpOf (s : State) (z ctr : Nat) : Option Cmp := s.hut.cmps.find? (fun c => decide (c.zone = z) && decide (c.ctr = ctr))

/-- Change a comparison. -/
def modCmp (s : State) (z ctr : Nat) (f : Cmp → Cmp) : State :=
  { s with hut := { s.hut with cmps := s.hut.cmps.map (fun c => if decide (c.zone = z) && decide (c.ctr = ctr) then f c else c) } }

/-- The notice of a comparison's frame still waits in the ring. -/
def noticeWaits (s : State) (c : Cmp) : Bool :=
  (nringOf s 16).recs.any (fun e => decide (le e.2 0x18 4 = c.ctr) && decide (le e.2 0x1C 2 % 512 = zoneStream s c.zone))

/-- Close a comparison; closed ones of the zone whose notice no longer waits are forgotten. -/
def closeCmp (s : State) (z ctr : Nat) : State :=
  modCmp { s with hut := { s.hut with cmps := s.hut.cmps.filter (fun c => !(decide (c.zone = z) && c.closed && !noticeWaits s c)) } } z ctr
    (fun c => { c with closed := true })

/-- A result may still come for a comparison (R411). -/
def cmpOpen (s : State) (c : Cmp) : Bool := !c.closed && decide (s.clk.tb < c.publish + zoneBudget s c.zone)

/-- Counter `a` is greater than `b` (R322). -/
def ctrNewer (a b : Nat) : Bool := let d := (a + 2 ^ 32 - b) % 2 ^ 32; decide (1 ≤ d) && decide (d < 2 ^ 31)

/-- Counter `a` is greater than `b`, if there is a `b`. -/
def ctrPast (a : Nat) (b : Option Nat) : Bool := match b with | none => true | some c => ctrNewer a c

/-- Every zone given becomes invalid for frame `ctr`, until a later frame agrees (R28, R411). -/
def zonesInvalid (s : State) (ctr : Nat) (zs : List Nat) : State :=
  zs.foldl (fun s z => modHzone s z (fun x => { x with valid := false, bar := if ctrPast ctr x.bar then some ctr else x.bar })) s

/-- The bytes of `h` rows of `n` bytes from row `y`, byte `x`, in a plane at offset `o` of a picture. -/
def planeBytes (pic : List Byte) (o stride x y n h : Nat) : List Byte := (rangeFrom y h).flatMap (fun r => (pic.drop (o + r * stride + x)).take n)

/-- The crop of a zone from the picture that a frame record describes (R408): its luma rows, then the chroma rows they lie on. -/
def cropOf (s : State) (q pic : List Byte) (z : Nat) : Nat × List Byte :=
  let b := le q 0x26 1 % 16
  let st := le q 0x2C 4
  let x := fld s (hzReg z 4) 0 16
  let y := fld s (hzReg z 4) 16 16
  let w := fld s (hzReg z 8) 0 16
  let h := fld s (hzReg z 8) 16 16
  (z, planeBytes pic 0 st (x * b) y (w * b) h ++ planeBytes pic (le q 0x30 4) st (x / 2 * 2 * b) (y / 2) (chromaSpan x w * 2 * b) (chromaSpan y h))

/-- Read the notice at the head of the ring (R408); `bad`: the picture as read differs from the record.  The age is judged by the limit of each zone: a picture may
be used for some zones and rejected for others, which counts one rejection (log entry 39). -/
def pictureRead (s : State) (bad : Bool) : State :=
  let r := nringOf s 16
  let i := r.rel % 64
  match tget? r.slots i with
  | none => s
  | some _ =>
    let q := tget [] r.recs i
    let done := fun (s : State) =>
      let s1 := freeNotice s 16 i
      setNring s1 16 { nringOf s1 16 with rel := r.rel + 1 }
    if bit q 0x1F 5 then done s else
    let n := le q 0x1C 2 % 512
    let ctr := le q 0x18 4
    let cap := le q 0 8
    let s1 := openCmps s q
    let zs := (cmpsOf s q).map Cmp.zone
    let fresh := ctrPast ctr (tget? s.hut.lastCtr n)
    let bytes := rdMem s (le q 0x20 6) (le q 0x2C 4 * (le q 0x2A 2 + (le q 0x2A 2 + 1) / 2))
    let whole := fresh && !bad && decide (crc32c bytes = le q 0x3C 4)
    let ok := zs.filter (fun z => whole && decide (s.clk.tb ≤ cap + zoneAge s z))
    let lost := zs.filter (fun z => !ok.contains z)
    let s2 := if whole ∧ lost = [] then s1 else hutEvent 0x0603 (lost.head?.getD 0) (bump (zonesInvalid s1 ctr lost) (hctReg 2))
    let s3 : State := if whole ∧ (zs = [] ∨ ok ≠ []) then { s2 with hut := { s2.hut with lastCtr := tset s2.hut.lastCtr n ctr } } else s2
    done (if ok = [] then s3 else { s3 with hut := { s3.hut with crops := s3.hut.crops ++ [⟨n, ctr, cap, le q 0x10 8, ok.map (cropOf s q bytes)⟩] } })

/-- HUTCH_PICTURE_READ. -/
def execHutchPictureRead (t : Time) (bad : Bool) (s0 : State) : Res :=
  let s := advance s0 t
  .next (if s.hut.passed && chanRuns s.hut.chA then pictureRead s bad else s)

/-- CHECKER_RESULT: the network completes on the next crop, in ascending zone number (R409). -/
def execCheckerResult (t : Time) (z : Fin 16) (present : Bool) (s0 : State) : Res :=
  let s := advance s0 t
  .next (match s.hut.crops with
    | [] => s
    | c :: rest => match c.zones with
      | [] => s
      | w :: ws =>
        if w.1 ≠ z.1 then s else
        let s1 : State := { s with hut := { s.hut with crops := if ws.isEmpty then rest else { c with zones := ws } :: rest } }
        let s2 := modHzone s1 z (fun x => { x with chk := some (c.ctr, present, c.cap) })
        modCmp s2 z c.ctr (fun d => if cmpOpen s2 d then { d with chk := some present } else d))

/-- Length of a zone ring (R432). -/
def zringLen (s : State) (m : Nat) : Nat := 2 ^ clampNat 4 12 (fld s (if m = 0 then 0x20018 else 0x20028) 24 4)
/-- Address of a zone ring. -/
def zringAddr (s : State) (m : Nat) : Nat :=
  if m = 0 then fld s 0x20014 5 27 * 32 + 2 ^ 32 * fld s 0x20018 0 16 else fld s 0x20024 5 27 * 32 + 2 ^ 32 * fld s 0x20028 0 16

/-- The checks of a zone report (R410). -/
def reportOk (s : State) (m : Nat) (b : List Byte) : Bool :=
  let z := le b 7 1 % 16
  decide (crc32c (b.take 0x1C) = le b 0x1C 4) && decide (le b 6 1 % 16 = 1) && decide (le b 8 1 ≤ 1)
    && zoneEn s z && decide (zoneStream s z = le b 4 2 % 512) && decide (zoneRing s z = m)

/-- ZONE_REPORT: the next entry of ring `m` has become available (R410). -/
def zoneReport (s : State) (m : Nat) : State :=
  match tget? s.hut.rings m with
  | none => s
  | some (base, e) =>
    let tk := zringTok s m
    if (m = 1 ∧ oneRing s) ∨ ¬ (token s tk.1 tk.2 - base - BitVec.ofNat 32 e - 1).toNat < 2 ^ 31 then s else
    let b := rdMem s (zringAddr s m + e % zringLen s m * 32) 32
    let s1 : State := { s with hut := { s.hut with rings := tset s.hut.rings m (base, e + 1) } }
    let z := le b 7 1 % 16
    if ¬ reportOk s m b then hutEvent 0x060E z s1 else
    let s2 := openWaiting s1
    modCmp s2 z (le b 0 4) (fun c => if cmpOpen s2 c then { c with rep := some (decide (le b 8 1 = 1)), part := some tk.1 } else c)

/-- ZONE_REPORT. -/
def execZoneReport (t : Time) (m : Fin 2) (s0 : State) : Res :=
  let s := advance s0 t
  .next (if s.hut.passed then zoneReport s m else s)

/-- Disagreements whose counters lie with `ctr` within 100 consecutive values (R413). -/
def disWindow (ctr : Nat) (l : List Nat) : List Nat := l.filter (fun d => decide ((ctr + 2 ^ 32 - d) % 2 ^ 32 < 100))

/-- Frame `ctr` is later than every frame of the zone that was compared (R411). -/
def cmpFresh (s : State) (z ctr : Nat) : Bool := (hzoneOf s z).capAt.isNone || ctrNewer ctr (rd s (hzReg z 0x14)).toNat

/-- Disagreements of a zone once frame `ctr` has been compared (R413); `top` is its latest frame compared. -/
def HZone.disNow (x : HZone) (top ctr : Nat) (agree : Bool) : List Nat := disWindow top ((if agree then [] else [ctr]) ++ x.dis)

/-- Each channel takes the outcome of frame `ctr` of a zone; only a later frame changes the state its latest comparison set, and only one later than every frame that
made it invalid otherwise makes it valid (R28, R411, R412, log entry 39). -/
def zoneOutcome (s : State) (z ctr cap : Nat) (agree : Bool) : State :=
  let fresh := cmpFresh s z ctr
  let top := if fresh then ctr else (rd s (hzReg z 0x14)).toNat
  let s1 := modHzone s z (fun x =>
    let y := { x with dis := x.disNow top ctr agree }
    if fresh then { y with valid := agree && (ctrPast ctr x.bar || x.valid), capAt := some cap } else y)
  let s2 := setFld s1 (hzReg z 0x18) 0 2 (min 3 (hzoneOf s1 z).dis.length)
  if fresh then wrReg s2 (hzReg z 0x14) (BitVec.ofNat 32 ctr) else s2

/-- Compare a zone's two results (R411, R413). -/
def zoneCompare (s : State) (z ctr : Nat) : State := match cmpOf s z ctr with
  | none => s
  | some c => match c.closed, c.chk, c.rep with
    | false, some a, some b =>
      let s2 := zoneOutcome (closeCmp s z ctr) z ctr c.cap (decide (a = b))
      if a = b then s2 else
      let s3 := hutEvent 0x0601 z (bump (bump s2 (hctReg 0)) (hzReg z 0x1C))
      if 3 ≤ (hzoneOf s2 z).dis.length then sRestart s3 (c.part.getD (zonePart s z)) else s3
    | _, _, _ => s

/-- ZONE_COMPARE. -/
def execZoneCompare (t : Time) (z : Fin 16) (ctr : Nat) (s : State) : Res := .next (zoneCompare (advance s t) z ctr)

/-- CMP_BUDGET_EXPIRE: a result is missing at the budget (R411). -/
def execCmpBudgetExpire (t : Time) (z : Fin 16) (ctr : Nat) (s0 : State) : Res :=
  let s := openWaiting (advance s0 t)
  .next (match cmpOf s z ctr with
    | none => advance s0 t
    | some c =>
      if c.closed ∨ s.clk.tb < c.publish + zoneBudget s z ∨ (c.chk.isSome ∧ c.rep.isSome) then advance s0 t
      else hutEvent 0x0602 z (bump (zonesInvalid (closeCmp s z ctr) ctr [z.1]) (hctReg 1)))

/-- The latest compared frame of a zone is older than AGE_LIMIT (R411). -/
def HZone.aged (x : HZone) (now limit : Nat) : Bool := match x.capAt with | none => false | some c => decide (c + limit < now)

/-- ZONE_AGE_EXPIRE: the latest compared frame is older than AGE_LIMIT (R411). -/
def execZoneAgeExpire (t : Time) (z : Fin 16) (s0 : State) : Res :=
  let s := advance s0 t
  .next (if (hzoneOf s z).aged s.clk.tb (zoneAge s z) || (hzoneIn s .b z).aged s.clk.tb (zoneAge s z) then
      modHzone s z (fun x => if x.aged s.clk.tb (zoneAge s z) then { x with valid := false } else x)
    else s)

/-! ## Golden input (R414 to R420) -/

/-- The key of an engine: core l, 256 + cluster for its Footstool, 272 + cluster for its spare. -/
def goldKey : GoldEngine → Nat
  | .core l => l
  | .foot c => 256 + c
  | .spare c => 272 + c

/-- Enabled partitions with a core in a cluster, class S first. -/
def clusterParts (s : State) (c : Nat) : List Nat :=
  let ps := (rangeFrom 0 16).filter (fun p => partEn s p && (coresOf s p).any (fun l => decide (l / 16 = c)))
  ps.filter (fun p => decide (partClass s p = 0)) ++ ps.filter (fun p => decide (partClass s p ≠ 0))

/-- The partition whose golden frame and placement rule an engine follows (R414). -/
def goldPart (s : State) : GoldEngine → Option Nat
  | .core l => match ownerOf s l with | none => none | some p => if partEn s p then some p else none
  | .foot c => (clusterParts s c).head?
  | .spare _ => none

/-- GF_EPOCHS (R432): 0 acts as 1, above 64 as 64. -/
def gfEpochs (s : State) (p : Nat) : Nat := clampNat 1 64 (fld s (0x20300 + 4 * p) 0 7)

/-- The owner of the accumulator slots of a golden run. -/
def goldCs : Nat := 256

/-- Take four slots that no grant holds for a golden run (R415); its operands come into the operand stages by the golden-input port (R60). -/
def takeGold (s : State) (l : Nat) : State :=
  let c := coreOf s l
  setCore s l { c with
    acc := ((freeAcc s l).take 4).foldl (fun t a => tset t a { AccSlot.none with st := .accumulating, cs := goldCs }) c.acc,
    stages := (rangeFrom 0 4).map (fun x => (x, { Stage.none with cs := goldCs })) }

/-- Return them. -/
def dropGold (s : State) (l : Nat) : State :=
  let c := coreOf s l
  setCore s l { c with acc := c.acc.filter (fun e => decide (e.2.cs ≠ goldCs)), stages := c.stages.filter (fun e => decide (e.2.cs ≠ goldCs)) }

/-- The golden operands in the buffer of a Footstool are of no use to a request (R415). -/
def dropFoot (s : State) (c : Nat) : State := if (clOf s c).cur.isNone then setCl s c { clOf s c with buf := [] } else s

/-- The time of a golden run, begun at `from_`, adds to STALL_NS of the context that is ready on the core (R415). -/
def stallReady (s : State) (l : Nat) (from_ : Time) : State := match ringOf s l with
  | none => s
  | some k => match slotOf s l k with
    | none => s
    | some c =>
      let d := s.clk.tb - max c.since from_
      setSlot s l k { c with runNs := c.runNs + (from_ - c.since), stall := (c.stall + d) % 2 ^ 64, stallC := c.stallC + d, since := s.clk.tb }

/-- A golden run ends or is abandoned: its engine is as it was. -/
def leaveGold (s : State) (e : GoldEngine) : State := match e with
  | .core l => dropGold s l
  | .foot c => if (clOf s c).cur.isNone then fsStart (dropFoot s c) c else s
  | .spare _ => s

/-- The golden frame of an engine has begun at an epoch boundary (R414). -/
def goldFrame (s : State) (key : Nat) : State :=
  let g := goldOf s key
  setGold s key { g with began := true, done := false, owed := g.owed || (g.began && !g.done) }

/-- The engines of partition `p` whose golden frame starts with its own. -/
def goldEngines (s : State) (p : Nat) : List Nat :=
  coresOf s p ++ ((rangeFrom 0 16).filter (fun c => decide ((clusterParts s c).head? = some p))).map (fun c => 256 + c)

/-- GOLDEN_FRAME_START at boundary number `k`, for every enabled partition whose frame begins there (R414). -/
def goldenFrames (k : Nat) (s : State) : State :=
  (rangeFrom 0 16).foldl (fun s p => if partEn s p && decide (k % gfEpochs s p = 0) then (goldEngines s p).foldl goldFrame s else s) s

/-- GOLD_STEPS (R415). -/
def goldSteps : Nat := 16384

/-- The zone streams of a partition (R417). -/
def zoneStreams (s : State) (p : Nat) : List Nat := (partZones s p).map (zoneStream s)

/-- The end of the window that a publication at `pub` opens: the first emission point at or after it plus JB (R381, R417). -/
def windowEnd (s : State) (pub jb : Nat) : Nat := emitAt s ((pub + jb - phaseNs s + cycleNs s - 1) / cycleNs s)

/-- The admission floor of a partition in M steps/s: the lowest ADM_FLOOR of its cores' clusters (R48, R441). -/
def partFloor (s : State) (p : Nat) : Nat := (coresOf s p).foldl (fun f l => min f (fld s (0x10204 + 0x10 * (l / 16)) 16 16)) 65535

/-- A golden run may start now beside the zone streams of class-S partition `p`: no window is open, and the run would end before each stream's last
publication plus MIN_GAP_US; a stream that has published nothing permits none (R417, log entry 90). -/
def goldGap (s : State) (p jb : Nat) : Bool := (zoneStreams s p).all (fun n => match (strmOf s n).pubAt with
  | none => false
  | some pub => decide (windowEnd s pub jb ≤ s.clk.tb)
      && decide (s.clk.tb * partFloor s p + goldSteps * 1000 < (pub + fld s 0x20020 0 20 * 1000) * partFloor s p))

/-- The instant is one at which R416 or R417 lets a run of the engine start. -/
def goldPlace (s : State) (e : GoldEngine) (jb : Nat) : Bool := match goldPart s e with
  | none => true
  | some p => decide (partClass s p ≠ 0) || goldGap s p jb

/-- GOLDEN_RUN_START: a run starts on an engine whose frame has no completed run, or that must repeat it after a mismatch (R415, R416, R417, R419,
R91). -/
def execGoldenRunStart (t : Time) (x : GoldStart) (s0 : State) : Res :=
  let s := advance s0 t
  let e := x.engine
  let g := goldOf s (goldKey e)
  let due := g.run.isNone && s.hut.passed && goldPlace s e x.jb && (match e with
    | .core l => (goldPart s e).isSome && g.began && (!g.done || g.mis) && !coreUnavail s l && (coreOf s l).on && decide (4 ≤ (freeAcc s l).length)
    | .foot c => (goldPart s e).isSome && g.began && (!g.done || g.mis) && !(clOf s c).unavail
    | .spare c => (clOf s c).prep.isSome && !(clOf s c).prepOk)
  .next (if ¬ due then s else
    let s1 := setGold s (goldKey e) { g with run := some s.clk.tb }
    match e with
    | .core l => takeGold s1 l
    | _ => s1)

/-- A window of the engine's class-S partition has opened since `from_`: a zone stream of it has published (R417). -/
def windowOpened (s : State) (e : GoldEngine) (from_ : Time) : Bool := match goldPart s e with
  | none => false
  | some p => decide (partClass s p = 0) && (zoneStreams s p).any (fun n => match (strmOf s n).pubAt with | none => false | some pub => decide (from_ ≤ pub))

/-- GOLDEN_RUN_ABANDON: a window of the class-S partition has opened; the run starts again later (R417). -/
def execGoldenRunAbandon (t : Time) (e : GoldEngine) (s0 : State) : Res :=
  let s := advance s0 t
  let g := goldOf s (goldKey e)
  .next (match g.run with
    | none => s
    | some from_ => if windowOpened s e from_ = false then s
      else
        let s1 := match e with | .core l => stallReady s l from_ | _ => s
        leaveGold (setGold s1 (goldKey e) { g with run := none }) e)

/-- An unverified engine of a class-S partition has changed: the status record is written (R427). -/
def unvRecord (old s : State) (e : GoldEngine) : State :=
  if (goldOf old (goldKey e)).unv = (goldOf s (goldKey e)).unv then s
  else match goldPart s e with
    | some p => if partClass s p = 0 then statusRecord s else s
    | none => s

/-- The failure of an engine is confirmed (R419). -/
def goldConfirmed (s : State) (e : GoldEngine) : State := match e with
  | .core l => coreRetire s l
  | .foot c => fsEnd s c
  | .spare c => spareFail s c

/-- A signature matches or not (R418, R419); `key` is the engine in events. -/
def goldResult (s : State) (key : Nat) (ok : Bool) (confirm : State → State) : State :=
  let g := goldOf s key
  if ok then
    (let s1 := setGold s key { g with run := none, done := true, defer := 0, mis := false, unv := false }
     if g.mis then bump s1 (hctReg 5) else s1)
  else if g.mis then
    hutEvent 0x0605 key (confirm (bump (setGold s key { g with run := none, done := true, mis := false }) (hctReg 4)))
  else hutEvent 0x0604 key (bump (setGold s key { g with run := none, done := true, mis := true, unv := true }) (hctReg 4))

/-- The signature that channel B expects of an engine (R415). -/
def goldExpect (s : State) : GoldEngine → Word
  | .foot _ => s.hut.sigsB.2
  | _ => s.hut.sigsB.1

/-- GOLDEN_RUN_COMPLETE: the engine's signature unit has come to `sig` over the drained rows; it is compared with the expected value in channel B (R415,
R418, R419, R91). -/
def execGoldenRunComplete (t : Time) (e : GoldEngine) (sig : Word) (s00 : State) : Res :=
  let s0 := advance s00 t
  let ok := decide (sig = goldExpect s0 e)
  let s := if (goldOf s0 (goldKey e)).run.isNone then s0 else setGold s0 (goldKey e) { goldOf s0 (goldKey e) with sig := sig }
  .next (match (goldOf s (goldKey e)).run with
    | none => s
    | some from_ =>
      match e with
      | .core l => unvRecord s (goldResult (dropGold (stallReady s l from_) l) l ok (fun x => goldConfirmed x e)) e
      | .foot c => if (clOf s c).cur.isSome then s else
          let s1 := unvRecord s (goldResult (dropFoot s c) (256 + c) ok (fun x => goldConfirmed x e)) e
          if (clOf s1 c).unavail then s1 else fsStart s1 c
      | .spare c =>
        let s1 := goldResult s (272 + c) ok (fun x => goldConfirmed x e)
        if ok then setCl s1 c { clOf s1 c with prepOk := true } else s1)

/-- GOLDEN_FRAME_END: a golden frame has ended without a completed run (R418). -/
def execGoldenFrameEnd (t : Time) (e : GoldEngine) (s0 : State) : Res :=
  let s := advance s0 t
  let g := goldOf s (goldKey e)
  .next (if ¬ g.owed then s else
    let unv := g.unv || decide (3 ≤ g.defer + 1)
    let s1 := bump (setGold s (goldKey e) { g with owed := false, defer := g.defer + 1, unv := unv }) (hctReg 3)
    unvRecord s (if unv && !g.unv then hutEvent 0x0606 (goldKey e) s1 else s1) e)

/-- CHECKER_GOLDEN_CROP: the checker's own golden crop, with the same mismatch rule (R420). -/
def execCheckerGoldenCrop (t : Time) (ok : Bool) (s0 : State) : Res :=
  let s := advance s0 t
  .next (if s.hut.passed && chanRuns s.hut.chA then goldResult s 288 ok id else s)

/-! ## The safety mailbox (R425, R426) -/

/-- What the message in MB_DATA asks for: 0 none of the commands. -/
def mbKind (s : State) : Nat :=
  let cmd := fld s 0x20800 0 8
  if fld s 0x20800 8 4 = 1 ∧ 1 ≤ cmd ∧ cmd ≤ 4 then cmd else 0

/-- Answer a message. -/
def mbResult (s : State) (r : Nat) : State := setFld s 0x20810 16 8 r

/-- KICK restarts the watchdog count. -/
def mbKick (s : State) : State := mbResult { s with hut := { s.hut with kickEpoch := some (epochOf s) } } 0

/-- STOP_GROUPS. -/
def mbStop (s : State) : State := mbResult (hutchStop (groupsOf (fld s 0x20804 0 8)) s) 0

/-- INVALIDATE_ZONES: for ARG1 epochs. -/
def mbInvalidate (s : State) : State :=
  let n := (rd s 0x20808).toNat
  if n = 0 ∨ 65535 < n then mbResult s 1
  else mbResult ((bitsSet (fld s 0x20804 0 16) 16).foldl (fun s z =>
    modHzone s z (fun x => { x with until_ := max x.until_ (epochOf s + n) })) s) 0

/-- READ_EVENT. -/
def mbRead (s : State) : State := match s.hut.log[(rd s 0x20804).toNat]? with
  | none => mbResult s 1
  | some (tb, code, arg) =>
    let v := tb % 2 ^ 64 + code % 2 ^ 16 * 2 ^ 64 + arg % 2 ^ 32 * 2 ^ 80
    mbResult ((rangeFrom 0 4).foldl (fun s w => wrReg s (0x20800 + 4 * w) (BitVec.ofNat 32 (v / 2 ^ (32 * w)))) s) 0

/-- Any other message. -/
def mbReject (s : State) : State := bump (mbResult s 2) (hctReg 10)

/-- The message in MB_DATA is sent: a write of GO = 1. -/
def mbSend (s : State) : State := match mbKind s with
  | 1 => mbKick s
  | 2 => mbStop s
  | 3 => mbInvalidate s
  | 4 => mbRead s
  | _ => mbReject s

/-- KICK. -/
def execKick (t : Time) (ag : Agent) (s : State) : Res :=
  .next (onWrite (advance s t) ag 0x20810 (fun s => if mbKind s = 1 then mbKick s else s))
/-- STOP_GROUPS. -/
def execStopGroups (t : Time) (ag : Agent) (s : State) : Res :=
  .next (onWrite (advance s t) ag 0x20810 (fun s => if mbKind s = 2 then mbStop s else s))
/-- INVALIDATE_ZONES. -/
def execInvalidateZones (t : Time) (ag : Agent) (s : State) : Res :=
  .next (onWrite (advance s t) ag 0x20810 (fun s => if mbKind s = 3 then mbInvalidate s else s))
/-- READ_EVENT. -/
def execReadEvent (t : Time) (ag : Agent) (s : State) : Res :=
  .next (onWrite (advance s t) ag 0x20810 (fun s => if mbKind s = 4 then mbRead s else s))
/-- HUTCH_MAILBOX_REJECT. -/
def execHutchMailboxReject (t : Time) (ag : Agent) (s : State) : Res :=
  .next (onWrite (advance s t) ag 0x20810 (fun s => if mbKind s = 0 then mbReject s else s))

/-- INVALIDATE_ZONES_EXPIRE: the epochs have run out; the zones are as their comparisons left them (R426). -/
def execInvalidateZonesExpire (t : Time) (s0 : State) : Res :=
  let s := advance s0 t
  let f := fun (x : HChan) => { x with zones := x.zones.map (fun e => (e.1, if e.2.until_ ≤ epochOf s then { e.2 with until_ := 0 } else e.2)) }
  .next { s with hut := { s.hut with chA := f s.hut.chA, chB := f s.hut.chB } }

end Sys2Proof.Machine
end

