-- ==== Sys2Proof/Machine/Motion.lean ====
section
/-!
DEFINITION. Machine/Motion.lean: the EtherCAT motion port: cycles, command sets, envelopes and zone caps, frames and input
sets, and the commit of the MOT group (R371 to R387).
-/
namespace Sys2Proof.Machine
open Sys2Proof

/-! ## Cycles (R373) -/

/-- The range of CYCLE_NS and PHASE_NS. -/
def cycleOk (s : State) : Bool :=
  decide (cycleNs s % 1000 = 0) && decide (125000 ≤ cycleNs s) && decide (cycleNs s ≤ 4000000) && decide (phaseNs s < cycleNs s)
/-- The first cycle whose emission point has not passed: the next to be emitted, or a later one where the instant is past it already. -/
def openCycle (s : State) : Nat := max s.mot.next ((s.clk.tb - phaseNs s + cycleNs s - 1) / cycleNs s)
/-- Record a code of class 0x09 in LAST_ERR (R397). -/
def motErr (s : State) (code : Nat) : State := noteEvent (.motion 0) code 0 (setFld s 0x38001C 16 16 code)
/-- Ports that take part in a cycle: MOT0 alone in ring mode (R372). -/
def activePorts (s : State) : List Nat := match topo s with
  | 1 => (rangeFrom 0 2).filter (fun m => ringsOn s m || !(portAxes s m).isEmpty)
  | 2 => [0]
  | _ => []
/-- Slots of the rings of a port. -/
def ringSlots (s : State) (m : Nat) : Nat := 2 ^ clampNat 2 8 (fld s (mpReg m 0x10) 24 4)
/-- Bytes of the process image, up to 1 200. -/
def piLen (s : State) : Nat := min 1200 (fld s 0x38000C 16 16)

/-! ## Command sets (R378, R379) -/

/-- Address of entry `e` of the command ring. -/
def setAddr (s : State) (m e : Nat) : Nat :=
  fld s (mpReg m 0) 11 21 * 2048 + 2 ^ 32 * fld s (mpReg m 4) 0 16 + e % ringSlots s m * 2048

/-- Read the header of entry `e`, newly available (R378, R379). -/
def readHead (m : Nat) (s : State) (e : Nat) : State :=
  let b := rdMem s (setAddr s m e) 16
  let x := mportOf s m
  let cyc := le b 0 4
  let passed := decide (1 ≤ (openCycle s + 2 ^ 32 - cyc) % 2 ^ 32) && decide ((openCycle s + 2 ^ 32 - cyc) % 2 ^ 32 < 2 ^ 31)
  if le b 4 1 % 16 ≠ 1 then motErr (bump s (mpReg m 0x28)) 0x090C
  else if passed then bump s (mpReg m 0x28)
  else
    let old := x.heads.filter (fun h => decide (h.cycle = cyc))
    bumpBy (setMport s m { x with heads := x.heads.filter (fun h => decide (h.cycle ≠ cyc)) ++ [⟨e, cyc, s.clk.tb⟩] }) (mpReg m 0x28) old.length

/-- COMMAND_SET_SIGNAL: the headers of the entries that CTOK makes available are read (R378). -/
def setSignal (s : State) (m : Nat) : State :=
  if ¬ ringsOn s m then s else
  let x := mportOf s m
  let d := (token s (cpartOf s m) (fld s (mpReg m 0x10) 0 6) - x.base - BitVec.ofNat 32 x.ptr).toNat
  if d = 0 ∨ 2 ^ 31 < d then s
  else
    let s1 := (rangeFrom x.ptr d).foldl (readHead m) s
    setMport s1 m { mportOf s1 m with ptr := x.ptr + d }

/-- COMMAND_SET_SIGNAL. -/
def execCommandSetSignal (t : Time) (m : Fin 2) (s : State) : Res := .next (setSignal (advance s t) m)

/-- The entry of the set for cycle `n`, if one became available by E(n) (R379). -/
def chosenHead (s : State) (m n : Nat) : Option Head :=
  ((mportOf s m).heads.filter (fun h => decide (h.cycle = n % 2 ^ 32) && decide (h.at_ ≤ emitAt s n))).getLast?

/-- Its bytes, read at E(n). -/
def chosenSet (s : State) (m n : Nat) : Option (List Byte) := (chosenHead s m n).map (fun h => rdMem s (setAddr s m h.entry) 0x440)

/-- A cycle takes its set, or is stale (R379, R380). -/
def takeSet (n : Nat) (s : State) (m : Nat) : State :=
  let x := mportOf s m
  let gone := x.heads.filter (fun h => decide (1 ≤ (n + 2 ^ 32 - h.cycle) % 2 ^ 32) && decide ((n + 2 ^ 32 - h.cycle) % 2 ^ 32 < 2 ^ 31)
    || decide (h.cycle = n % 2 ^ 32) && decide (emitAt s n < h.at_))
  let keep := x.heads.filter (fun h => decide (h.cycle ≠ n % 2 ^ 32) && !gone.contains h)
  let s0 := bumpBy s (mpReg m 0x28) gone.length
  match chosenHead s m n, chosenSet s m n with
  | some h, some b =>
    let slack := clampInt (-2147483648) 2147483647 ((emitAt s n : Int) - h.at_)
    let s1 := if slack < sx 32 (rd s0 (mpReg m 0x1C)).toNat then wrReg s0 (mpReg m 0x1C) (BitVec.ofInt 32 slack) else s0
    tripGroups true true 0x090F (groupsOf (le b 5 1)) (setMport s1 m { x with heads := keep, onTime := true, stale := 0, gstop := le b 5 1 })
  | _, _ =>
    let s1 := setMport (bump (bump s0 (mpReg m 0x20)) (mpReg m 0x24)) m { x with heads := keep, onTime := false, stale := x.stale + 1, gstop := 0 }
    if staleLimit s ≤ x.stale + 1 then tripGroups true true 0x0905 (portGroups s m) s1 else s1

/-! ## Input sets (R376, R382) -/

/-- Bytes [o, o + n) of an image as a number. -/
def imgLe (im : List Byte) (o n : Nat) : Nat := leVal ((rangeFrom o n).map (fun i => nth 0 im i))

/-- IN_OFF of an axis. -/
def inOff (s : State) (a : Nat) : Nat := fld s (axReg a 4) 16 16
/-- OUT_OFF of an axis. -/
def outOff (s : State) (a : Nat) : Nat := fld s (axReg a 4) 0 16
/-- MODE: 0 CSP, 1 CSV, else CST. -/
def axMode (s : State) (a : Nat) : Nat := listed 2 3 (fld s (axReg a 0) 28 2)

/-- The position and velocity that an input set gives for an axis, where it is valid. -/
def actOf (s : State) (i : InSet) (a : Nat) : Int × Int := (sx 32 (imgLe i.image (inOff s a + 4) 4), sx 32 (imgLe i.image (inOff s a + 8) 4))

/-- The input set of cycle n − 1 where it is valid. -/
def lastInputs (s : State) (m n : Nat) : Option InSet := match (mportOf s m).inp with
  | some i => if i.valid && decide (i.cycle + 1 = n) then some i else none
  | none => none

/-- `n` free bytes. -/
def drawBytes : Nat → State → List Byte × State
  | 0, s => ([], s)
  | n + 1, s => let d := draw s; let r := drawBytes n d.2; (d.1.setWidth 8 :: r.1, r.2)

/-- The 16 bytes of an axis in an input set: the 12 bytes of the image at its IN_OFF, enabled or not. -/
def axisInput (s : State) (im : List Byte) (a : Nat) : List Byte := (rangeFrom 0 12).map (fun i => nth 0 im (inOff s a + i)) ++ leBytes 4 0

/-- Write the input set of a cycle and signal ITOK (R382). -/
def inputSet (s : State) (m cycle : Nat) (valid : Bool) (im bitmap : List Byte) (recv : Nat) : State :=
  if ¬ ringsOn s m then s else
  let tripped := ((rangeFrom 0 8).map (fun g => if grpTripped s g then 2 ^ g else 0)).foldl (· + ·) 0
  let hdr := leBytes 4 cycle ++ leBytes 1 1 ++ leBytes 1 ((if valid then 128 else 0) + fld s 0x38001C 6 2 * 32) ++ leBytes 2 tripped
    ++ (rangeFrom 0 8).map (fun i => nth 0 bitmap i) ++ leBytes 8 recv ++ leBytes 40 0
  let body := ((rangeFrom 0 64).map (axisInput s im)).flatten
  let a := fld s (mpReg m 8) 11 21 * 2048 + 2 ^ 32 * fld s (mpReg m 0xC) 0 16 + cycle % ringSlots s m * 2048
  signal (wrMem s a (hdr ++ body)) (cpartOf s m) (fld s (mpReg m 0x10) 8 6) 1

/-- The command of an axis as its frame left the pins becomes the one of cycle n − 1 (R383, R389). -/
def finishAxis (x : Tx) (s : State) (e : Nat × Nat × Nat × Nat) : State :=
  let a := e.1
  let off := e.2.2.1
  let y := maxisOf s a
  let tgt := (rangeFrom 2 6).map (fun i => nth 0 x.image (off + i))
  let w := sx 32 (imgLe x.image (off + 2) 4)
  setMaxis s a (match e.2.2.2 with
    | 0 => { y with p := w, v := (w - y.p) * 1000000000, target := tgt }
    | 1 => { y with p := y.pos, v := w * (cycleNs s : Int), target := tgt }
    | _ => { y with p := y.pos, target := tgt })

/-- The frame of a port is over. -/
def finishTx (s : State) (m : Nat) : State := match (mportOf s m).tx with
  | none => s
  | some x =>
    let s1 := setMport s m { mportOf s m with tx := none, sent := x.bitmap }
    if x.start.isNone then s1 else x.axes.foldl (finishAxis x) s1

/-- A cycle with invalid inputs; LOSS_LIMIT of them trip the groups of the port (R376). -/
def invalidInputs (s : State) (m : Nat) : State :=
  let x := mportOf s m
  let s1 := setMport s m { x with loss := x.loss + 1 }
  if lossLimit s ≤ x.loss + 1 then tripGroups true true 0x0906 (portGroups s m) s1 else s1

/-- The frame of a cycle is lost (R376): nothing tells what its input set holds besides its invalidity. -/
def frameLost (s0 : State) (m : Nat) : State := match (mportOf s0 m).tx with
  | none => s0
  | some x =>
    let s := finishTx (bump s0 (mpReg m 0x2C)) m
    let s1 := setMport s m { mportOf s m with inp := some ⟨x.cycle, false, []⟩ }
    let s2 := invalidInputs s1 m
    let f := drawBytes (piLen s2) s2
    let r := draw f.2
    inputSet r.2 m x.cycle false f.1 x.bitmap r.1.toNat

/-- Bytes combined by OR (R377). -/
def orBytes (a b : List Byte) : List Byte :=
  (rangeFrom 0 (max a.length b.length)).map (fun i => nth 0 a i ||| nth 0 b i)

/-- Positions of a valid input set are kept (R387). -/
def keepPos (i : InSet) (s : State) (a : Nat) : State := setMaxis s a { maxisOf s a with pos := (actOf s i a).1 }

/-- FRAME_RETURN (R376, R377, R382): copy `x`, in ring mode merged with copy `y`. -/
def frameReturn (s0 : State) (m : Nat) (broken : Bool) (x : FrameCopy) (y : Option FrameCopy) : State :=
  match (mportOf s0 m).tx with
  | none => s0
  | some tx => match tx.start with
    | none => s0
    | some st =>
      if s0.clk.tb < st then s0 else
      let ring := decide (topo s0 = 2)
      let s := if ring then setFld s0 0x38001C 6 2 (if broken then 1 else 0) else s0
      let goods := (x :: (if ring then y.toList else [])).filter (fun c => !c.bad)
      if goods.isEmpty ∨ (¬ broken ∧ x.bad) ∨ emitAt s (tx.cycle + 1) < s.clk.tb then frameLost s m
      else
        let wkc := goods.foldl (fun n c => n + c.wkc) 0
        let im := goods.foldl (fun b c => orBytes b c.image) []
        let want := fld s (mpReg m 0x14) 0 16
        let ok := decide (wkc = want)
        let s1 := finishTx s m
        let i : InSet := ⟨tx.cycle, ok, im⟩
        let s2 := if ok then (portAxes s m).foldl (keepPos i) (setMport s1 m { mportOf s1 m with inp := some i, loss := 0, good := some im })
          else invalidInputs (bump (setMport s1 m { mportOf s1 m with inp := some i }) (mpReg m 0x30)) m
        let s3 := if ring && ok && goods.all (fun c => decide (c.wkc ≠ want)) then bump s2 (mpReg m 0x34) else s2
        inputSet s3 m tx.cycle ok im tx.bitmap s.clk.tb

/-- FRAME_RETURN. -/
def execFrameReturn (t : Time) (m : Fin 2) (broken : Bool) (x : FrameCopy) (y : Option FrameCopy) (s : State) : Res :=
  .next (frameReturn (advance s t) m broken x y)

/-- FRAME_LOSS_TIMEOUT: the frame is not back by E(n + 1) (R376). -/
def execFrameLossTimeout (t : Time) (m : Fin 2) (s0 : State) : Res :=
  let s := advance s0 t
  .next (match (mportOf s m).tx with
    | none => s
    | some x => if emitAt s (x.cycle + 1) ≤ s.clk.tb then frameLost s m else s)

/-- MOT_LINK_CHANGE: LINK, and in ring mode RING (R377). -/
def execMotLinkChange (t : Time) (m : Fin 2) (up : Bool) (s0 : State) : Res :=
  let s := setFlag (advance s0 t) (mpReg m 0x18) 0 up
  let a := flag s (mpReg 0 0x18) 0
  let b := flag s (mpReg 1 0x18) 0
  .next (if topo s = 2 then setFld s 0x38001C 6 2 (if a && b then 0 else if a || b then 1 else 2) else s)

/-! ## Zones (R384, R385, R412) -/

/-- A zone is invalid in a cycle (R385). -/
def zoneInvalid (s : State) (b : Option (List Byte)) (z : Nat) : Bool := match b with
  | none => true
  | some x => !(le x 6 2).testBit z || hutInvalid s z

/-- ZONE_CAP of the set; a stale cycle has none (log entry 21). -/
def zoneCapS (b : Option (List Byte)) (z : Nat) : Nat := match b with | none => 0xFFFF | some x => le x (0x10 + 2 * z) 2

/-- The limit that a zone gives an axis (R384). -/
def zoneCap (s : State) (b : Option (List Byte)) (scale cap z : Nat) : Nat :=
  let c0 := min (zoneCapS b z) (capH s z)
  let c := if zoneInvalid s b z then min c0 (fld s (mzReg z 0) 0 16) else c0
  if c ≠ 0xFFFF then min cap (c * scale / 65536) else cap

/-- VLIM(n) (R384). -/
def vlimOf (s : State) (b : Option (List Byte)) (a prev : Nat) : Nat :=
  let vmax := (rd s (axReg a 0x10)).toNat
  let cap := (bitsSet (fld s (axReg a 0) 0 16) 16).foldl (zoneCap s b (rd s (axReg a 0x20)).toNat) vmax
  let v := max cap (prev - (rd s (axReg a 0x18)).toNat)
  if cap < v ∧ prev ≤ cap then cap else v

/-- The port whose sets a zone's registers show: that of its lowest axis. -/
def zonePort (s : State) (z : Nat) : Nat := match firstIdx (fun a => axisEn s a && flag s (axReg a 0) z) (rangeFrom 0 64) with
  | some a => axisPort s a
  | none => 0

/-- Zone registers at E(n). -/
def showZone (sets : List (Nat × Option (List Byte))) (s : State) (z : Nat) : State :=
  let b := (tget? sets (zonePort s z)).getD none
  let inv := zoneInvalid s b z
  let s1 := setFld s (mzReg z 4) 16 16 (capH s z)
  let s2 := match b with | none => s1 | some _ => setFld s1 (mzReg z 4) 0 16 (zoneCapS b z)
  let s3 := setFlag s2 (mzReg z 8) 0 inv
  if inv then bump s3 (mzReg z 0xC) else s3

/-! ## Commands and envelopes (R380, R383, R387) -/

/-- A command of an axis. -/
structure MCmd where
  ctrl : Nat
  torque : Int
  pos : Int
  vel : Int

/-- The command of a set (R378). -/
def setCmd (b : List Byte) (a : Nat) : MCmd :=
  let o := 0x40 + 16 * a
  ⟨le b o 2, sx 16 (le b (o + 2) 2), sx 32 (le b (o + 4) 4), sx 32 (le b (o + 8) 4)⟩

/-- Towards zero. -/
def truncDiv (a : Int) (d : Nat) : Int := if a < 0 then -((a.natAbs / d : Nat) : Int) else ((a.natAbs / d : Nat) : Int)

/-- The command of a stale cycle (R380): the motion goes on in its direction, no faster than VLIM. -/
def staleCmd (s : State) (x : MAxis) (vlim : Nat) : MCmd :=
  let mag : Int := (min x.v.natAbs (vlim * 1000000000) : Nat)
  let v := if x.v < 0 then -mag else mag
  ⟨x.ctrl, sx 16 x.torque, x.p + truncDiv v 1000000000, truncDiv v (max 1 (cycleNs s))⟩

/-- The failed checks of a command, as codes in ascending order (R383). -/
def envErrs (s : State) (a : Nat) (x : MAxis) (vlim : Nat) (act : Option (Int × Int)) (c : MCmd) : List Nat :=
  let lo := sx 32 (rd s (axReg a 8)).toNat
  let hi := sx 32 (rd s (axReg a 0xC)).toNat
  let inWin := fun (p : Int) => decide (lo ≤ p) && decide (p ≤ hi)
  let mode := axMode s a
  let v : Option Int := match mode with
    | 0 => some ((c.pos - x.p) * 1000000000)
    | 1 => some (c.vel * (cycleNs s : Int))
    | _ => act.map (fun q => q.2 * (cycleNs s : Int))
  let amax := (rd s (axReg a 0x14)).toNat * 1000000000
  (if (mode = 0 ∧ inWin c.pos = false) ∨ (match act with | none => false | some q => !inWin q.1) = true then [0x0901] else [])
    ++ (match v with | none => [] | some w => if vlim * 1000000000 < w.natAbs then [0x0902] else [])
    ++ (match v with | none => [] | some w => if mode ≤ 1 ∧ amax < (w - x.v).natAbs then [0x0903] else [])
    ++ (if fld s (axReg a 0x1C) 0 16 < c.torque.natAbs then [0x0904] else [])

/-- The bytes of a command in the process image (R378): CTRL, POS or VEL or nothing, TORQUE. -/
def cmdBytes (mode : Nat) (c : MCmd) : List Byte :=
  leBytes 2 c.ctrl ++ (match mode with | 0 => leBytes 4 (tc 32 c.pos) | 1 => leBytes 4 (tc 32 c.vel) | _ => []) ++ leBytes 2 (tc 16 c.torque)

/-- Put bytes into an image. -/
def putBytes (im : List Byte) (o : Nat) (bs : List Byte) : List Byte :=
  (rangeFrom 0 bs.length).foldl (fun im i => setNth im (o + i) (nth 0 bs i)) im

/-- ACT_POS of an axis in the last valid input set of its port (R387); before any there is none, and the value is free (log entry 83). -/
def lastPos (s : State) (a : Nat) : Int × State := match (mportOf s (axisPort s a)).good with
  | some im => (sx 32 (imgLe im (inOff s a + 4) 4), s)
  | none => let d := draw s; (sx 32 (d.1.toNat % 2 ^ 32), d.2)

/-- Axis `a` of port `m` in cycle `n`: its limit, its command and its checks, made on every command, also while its group is tripped and the
latch replaces the bytes (R383, R389). -/
def axisCycle (b : Option (List Byte)) (act : Option InSet) (s0 : State) (a : Nat) : State :=
  let x0 := maxisOf s0 a
  let lp := if x0.fresh then lastPos s0 a else (x0.p, s0)
  let s := lp.2
  let x := if x0.fresh then { x0 with p := lp.1, v := 0, vlim := (rd s (axReg a 0x10)).toNat } else x0
  let vl := vlimOf s b a x.vlim
  let c := match b with | some bs => setCmd bs a | none => staleCmd s x vl
  let q := act.map (fun i => actOf s i a)
  let s1 := wrReg s (axReg a 0x38) (BitVec.ofNat 32 vl)
  let y := { x with vlim := vl, ctrl := c.ctrl, torque := tc 16 c.torque, fresh := false }
  let z := if axMode s a ≤ 1 then y else { y with v := match q with | none => 0 | some w => w.2 * (cycleNs s : Int) }
  let s2 := setMaxis s1 a z
  (envErrs s a x vl q c).foldl (fun s code =>
    tripOne true true code (setFld (bump s (axReg a 0x3C)) (axReg a 0x34) 16 16 code) (axisGroup s a)) s2

/-- The frame that a port prepares (R374): every enabled axis valid, until the latch says otherwise. -/
def prepareTx (s : State) (m n : Nat) (b : Option (List Byte)) : Tx :=
  let as_ := portAxes s m
  let im := as_.foldl (fun im a => let x := maxisOf s a
    let c := match b with | some bs => setCmd bs a | none => staleCmd s x x.vlim
    putBytes im (outOff s a) (cmdBytes (axMode s a) c)) (List.replicate (piLen s) 0)
  { cycle := n, start := none, bitmap := leBytes 8 ((as_.map (fun a => 2 ^ a)).foldl (· + ·) 0), image := im, sysTime := 0,
    axes := as_.map (fun a => (a, axisGroup s a, outOff s a, axMode s a)), keep := as_.map (fun a => (a, (maxisOf s a).target)),
    validAddr := (rd s 0x380010).toNat, refAdp := fld s 0x38000C 0 16, piAddr := (rd s 0x380014).toNat, armw := [], acyclic := [] }

/-- The cyclic datagrams of a frame, in order (R374): LWR of the bitmap, FPWR of the system time, ARMW of the reference time, LRW of the
process image. -/
def cyclicDgrams (x : Tx) : List Dgram :=
  [⟨11, x.validAddr, x.bitmap⟩, ⟨5, x.refAdp + 0x910 * 2 ^ 16, leBytes 8 x.sysTime⟩, ⟨13, x.refAdp + 0x910 * 2 ^ 16, x.armw⟩, ⟨12, x.piAddr, x.image⟩]

/-- The datagrams of a frame, in order. -/
def frameDgrams (x : Tx) : List Dgram := cyclicDgrams x ++ x.acyclic

/-- Bytes of a frame: the Ethernet and EtherCAT headers, and each datagram's header, data and working counter. -/
def frameLen (ds : List Dgram) : Nat := 16 + ds.foldl (fun n d => n + 12 + d.data.length) 0

/-- Acyclic datagrams that still fit into a frame of 1 514 bytes, in order (R371). -/
def fitDgrams : Nat → List Dgram → List Dgram
  | _, [] => []
  | n, d :: r => if n + 12 + d.data.length ≤ 1514 then d :: fitDgrams (n + 12 + d.data.length) r else []

/-- A granted group returns to RUN, or its reset is discarded (R395). -/
def groupGrant (s : State) (g : Nat) : State :=
  if ¬ (grpOf s g).granted then s
  else if resetItem1 s g && resetItem2 s g then
    (rangeFrom 0 64).foldl (fun s a => if axisEn s a && decide (axisGroup s a = g) then setMaxis s a { maxisOf s a with fresh := true } else s) (groupRun s g)
  else refuseReset s g

/-- The emission point of cycle `n` (R373, R379 to R387, R395, R412). -/
def emission (s0 : State) : State :=
  let n := s0.mot.next
  let ports := activePorts s0
  let s1 := updateStart (ports.foldl frameLost s0)
  let sets := ports.map (fun m => (m, chosenSet s1 m n))
  let acts := ports.map (fun m => (m, lastInputs s1 m n))
  let s2 := ports.foldl (takeSet n) s1
  let s3 := brakesOn ((rangeFrom 0 8).foldl groupGrant s2)
  let s4 := (rangeFrom 0 16).foldl (showZone sets) s3
  let s5 := ports.foldl (fun s m => (portAxes s m).foldl (axisCycle ((tget? sets m).getD none) ((tget? acts m).getD none)) s) s4
  let s6 := ports.foldl (fun s m => setMport s m { mportOf s m with tx := some (prepareTx s m n ((tget? sets m).getD none)) }) s5
  wr64 { s6 with mot := { s6.mot with next := n + 1 } } 0x380020 0x380024 n

/-- EMISSION_POINT. -/
def execEmissionPoint (t : Time) (s0 : State) : Res :=
  let s := advance s0 t
  .next (if motRunning s && decide (emitAt s s.mot.next ≤ s.clk.tb) then emission s else s)

/-- Channel B compares the positions of a frame's axis with its own copy of the hard window (R406). -/
def chanBCheck (x : Tx) (inp : Option InSet) (s : State) (e : Nat × Nat × Nat × Nat) : State :=
  let a := e.1
  let lo := sx 32 (copyOf s (axReg a 0x24)).toNat
  let hi := sx 32 (copyOf s (axReg a 0x28)).toNat
  let out := fun (p : Int) => decide (p < lo) || decide (hi < p)
  let bad := (decide (e.2.2.2 = 0) && out (sx 32 (imgLe x.image (e.2.2.1 + 2) 4))) || (match inp with | none => false | some i => out (actOf s i a).1)
  if (nth 0 x.bitmap (a / 8)).toNat.testBit (a % 8) && bad then tripOne false true 0x0901 s e.2.1 else s

/-- FRAME_SEND: at S(n), 16 µs after E(n), the frame starts; its bytes take the latch state, later trips reach what is not yet
serialised (R373 to R375, R389); the acyclic datagrams of the firmware follow the cyclic ones (R374), and the spec does not say what an ARMW
datagram carries as it leaves (log entry 84); channel B reads the frame as it leaves (R406). -/
def frameSend (s : State) (m : Nat) (ac : List Dgram) : State := match (mportOf s m).tx with
  | none => s
  | some x =>
    if x.start.isSome ∨ s.clk.tb < emitAt s x.cycle + 16000 then s else
    let s1 := ((rangeFrom 0 8).filter (grpTripped s)).foldl dropGroup s
    let y := ((mportOf s1 m).tx).getD x
    let sys := s.clk.tb + 640 - s.mot.dcBase.getD 0 + (rd s 0x380018).toNat
    let f := drawBytes 8 s1
    let z0 := { y with start := some s.clk.tb, sysTime := sys, armw := f.1 }
    let z := { z0 with acyclic := fitDgrams (frameLen (cyclicDgrams z0)) ac }
    let s2 := setMport f.2 m { mportOf f.2 m with tx := none, sent := z.bitmap }
    let s3 := z.axes.foldl (chanBCheck z (lastInputs s m x.cycle)) s2
    setMport s3 m { mportOf s3 m with tx := some z }

/-- FRAME_SEND: in ring mode both ports send the one frame (R377). -/
def execFrameSend (t : Time) (x : FrameOut) (s : State) : Res := .next (frameSend (advance s t) x.port x.acyclic)

/-! ## The commit of the MOT group (R373, R375, R378, R386, R410) -/

/-- A register of the motion port. -/
def isMotReg (off : Nat) : Bool := decide (0x380000 ≤ off) && decide (off < 0x382000)

/-- RUN commits (R373, R375). -/
def commitRun (b : Time) (s0 : State) : State :=
  let was := motRun s0
  let s := commitReg b s0 0x380000
  if ¬ motRun s ∨ was then setFlag s 0x38001C 0 (motRun s && (decide (topo s = 1) || decide (topo s = 2)))
  else if ¬ cycleOk s then motErr (setFlag s 0x380000 29 false) 0x090D
  else
    let s1 : State := match s.mot.dcBase with
      | some _ => s
      | none => wr64 { s with mot := { s.mot with dcBase := some b } } 0x380028 0x38002C b
    let n := if b ≤ phaseNs s then 0 else (b - phaseNs s + cycleNs s - 1) / cycleNs s
    setFlag { s1 with mot := { s1.mot with next := max s1.mot.next n } } 0x38001C 0 (decide (topo s = 1) || decide (topo s = 2))

/-- The rings of a port commit: BASE is taken when EN commits (R378), and that of the zone ring with it (R410). -/
def commitPort (b : Time) (s0 : State) (m : Nat) : State :=
  let old := rd s0 (mpReg m 0x10)
  let s := [0, 4, 8, 0xC, 0x10].foldl (fun s o => commitReg b s (mpReg m o)) s0
  let new := rd s (mpReg m 0x10)
  let same := (old.getLsbD 31 == new.getLsbD 31) && decide (fieldOf old.toNat 16 4 = fieldOf new.toNat 16 4) && decide (fieldOf old.toNat 0 6 = fieldOf new.toNat 0 6)
  if same then s
  else if new.getLsbD 31 then
    zringBase (setMport s m { mportOf s m with base := token s (cpartOf s m) (fld s (mpReg m 0x10) 0 6), ptr := 0, heads := [] }) m
  else { s with hut := { s.hut with rings := tdel s.hut.rings m } }

/-- The RWC registers of an axis. -/
def axisRegs : List Nat := [0, 8, 0xC, 0x10, 0x14, 0x18, 0x1C, 0x20]

/-- Clamp the committed envelope of an axis to its hard values (R386); true where something was clamped. -/
def clampAxis (s : State) (a : Nat) : State × Bool :=
  let g := fun o => (rd s (axReg a o)).toNat
  let lo := if sx 32 (g 8) < sx 32 (g 0x24) then g 0x24 else g 8
  let hi := if sx 32 (g 0x28) < sx 32 (g 0xC) then g 0x28 else g 0xC
  let vm := min (g 0x10) (g 0x2C)
  let am := min (g 0x14) (g 0x30)
  let tm := min (fieldOf (g 0x1C) 0 16) (fieldOf (g 0x1C) 16 16)
  let dc := if g 0x18 = 0 ∨ am < g 0x18 then am else g 0x18
  let s1 := [(8, lo), (0xC, hi), (0x10, vm), (0x14, am), (0x18, dc)].foldl (fun s e => wrReg s (axReg a e.1) (BitVec.ofNat 32 e.2)) s
  (setFld s1 (axReg a 0x1C) 0 16 tm,
    decide (lo ≠ g 8) || decide (hi ≠ g 0xC) || decide (vm ≠ g 0x10) || decide (am ≠ g 0x14) || decide (tm ≠ fieldOf (g 0x1C) 0 16))

/-- The fields of an axis commit (R386). -/
def commitAxis (b : Time) (s0 : State) (a : Nat) : State :=
  if axisRegs.all (fun o => (stagedAt s0 b (axReg a o)).isNone) then s0 else
  let s := axisRegs.foldl (fun s o => commitReg b s (axReg a o)) s0
  let c := clampAxis s a
  let lo := sx 32 (rd c.1 (axReg a 8)).toNat
  let hi := sx 32 (rd c.1 (axReg a 0xC)).toNat
  if hi < lo ∨ (axisEn s0 a && !axisEn s a && !grpTripped s0 (axisGroup s0 a)) = true then
    motErr (axisRegs.foldl (fun s o => wrReg s (axReg a o) (rd s0 (axReg a o))) s) 0x090E
  else
    let s1 := if c.2 then setFlag c.1 (axReg a 0x34) 1 true else c.1
    if axisEn s a && !axisEn s0 a then setMaxis s1 a { maxisOf s1 a with fresh := true } else s1

/-- The MOT group commits at boundary `b`. -/
def motCommit (b : Time) (s : State) : State :=
  let s1 := commitRun b (commitReg b s 0x380018)
  (rangeFrom 0 64).foldl (commitAxis b) ((rangeFrom 0 2).foldl (commitPort b) s1)

end Sys2Proof.Machine
end

