-- ==== Sys2Proof/Machine/Bureau.lean ====
section
/-!
DEFINITION. Machine/Bureau.lean: the power manager: rails and their sequence, power-down, sensors, the thermal ladder and the
power cap, floor breaches, hold periods, QUIET, bank gating and STANDBY (R433 to R455).
-/
namespace Sys2Proof.Machine
open Sys2Proof

/-! ## Registers (R453 to R455) -/

/-- Registers of rail VCOREr. -/
def railReg (r o : Nat) : Nat := 0x10100 + 0x10 * r + o
/-- Registers of a cluster in the BUR block. -/
def bclReg (c o : Nat) : Nat := 0x10200 + 0x10 * c + o
/-- Set a status bit of BUR_STATUS. -/
def burStatus (s : State) (i : Nat) (b : Bool) : State := setFlag s 0x10000 i b
/-- The clusters of a rail: mesh row r (R433). -/
def railClusters (r : Nat) : List Nat := rangeFrom (4 * r) 4
/-- VMIN of a rail, mV. -/
def vmin (s : State) (r : Nat) : Nat := fld s (railReg r 0) 16 16
/-- VTARGET of a rail, mV. -/
def vtarget (s : State) (r : Nat) : Nat := fld s (railReg r 0) 0 16
/-- TJ_LIMIT of a cluster, °C, as it acts (R440). -/
def tjLimit (s : State) (c : Nat) : Nat := clampNat 60 105 (fld s (bclReg c 0) 16 8)
/-- ADM_TEMP of a cluster, °C. -/
def admTemp (s : State) (c : Nat) : Nat := fld s (bclReg c 0) 8 8
/-- Junction temperature of a cluster in 1/8 °C: its sensor plus 2 °C (R439). -/
def junction (s : State) (c : Nat) : Int := sx 16 (fld s (0x10400 + 4 * c) 0 16) + 16
/-- HOLD_MAX as it acts. -/
def holdMax (s : State) : Nat := min 12 (fld s 0x1001C 0 8)
/-- HOLD_MARGIN, °C. -/
def holdMargin (s : State) : Nat := fld s 0x1001C 16 8
/-- THROTTLE_MARGIN, °C, as it acts. -/
def throttleMargin (s : State) : Nat := max (holdMargin s) (fld s 0x1001C 8 8)

/-- The main rails are up (R437). -/
def railsUp (s : State) : Bool := decide (s.bur.seq = 8)

/-- PWR_GOOD: high from the completion of the sequence until a power-down, low while RESET_N is low (R510). -/
def pwrGood (s : State) : Bool := railsUp s && !s.boot.resetN
/-- THERMTRIP_N: low from a thermal trip until a module reset or a power-on (R510). -/
def thermtripN (s : State) : Bool := !s.bur.tripPin

/-- A core of the cluster is held by a class-B partition. -/
def hasClassB (s : State) (c : Nat) : Bool := (rangeFrom (16 * c) 16).any (fun l => match ownerOf s l with
  | none => false
  | some p => decide (partClass s p = 3))

/-! ## Set points and holds (R435, R442, R446) -/

/-- The set point V of a rail (R435, R442): the lowest of VTARGET and the set points of ladder and cap, within 0.60 V and 0.85 V, rounded down to
5 mV. -/
def setPoint (s : State) (r : Nat) : Nat :=
  let v := min (vtarget s r) (min (tget 850 s.bur.ladder r) (tget 850 s.bur.cap r))
  clampNat 600 850 v / 5 * 5

/-- The hold in force in a cluster, in sixteenths: the larger of the two (R442). -/
def holdOf (s : State) (c : Nat) : Nat := max (tget 0 s.bur.ladHold c) (tget 0 s.bur.capHold c)

/-- VCORE is commanded: its step of R437 has begun, at 0.75 V, which is VTARGET with no other set point in force. -/
def coreOn (s : State) : Bool := decide (3 ≤ s.bur.seq)

/-- Bring VSET, which is the value commanded (R435), HOLD and the status bits up to date. -/
def burShow (s : State) : State :=
  let s1 := (rangeFrom 0 4).foldl (fun s r => setFld s (railReg r 4) 0 16 (if coreOn s then setPoint s r else 0)) s
  let s2 := (rangeFrom 0 16).foldl (fun s c => setFld s (bclReg c 8) 12 4 (holdOf s c)) s1
  burStatus (burStatus s2 2 ((rangeFrom 0 16).any (fun c => decide (holdOf s2 c ≠ 0)))) 3 (!s2.bur.cap.isEmpty || !s2.bur.capHold.isEmpty)

/-- Set the ladder's set point of a rail; none when it has reached VTARGET. -/
def setLadder (s : State) (r v : Nat) : State :=
  { s with bur := { s.bur with ladder := if vtarget s r ≤ v then tdel s.bur.ladder r else tset s.bur.ladder r v } }

/-- Set the cap's set point of a rail; none when it has reached VTARGET. -/
def setCap (s : State) (r v : Nat) : State :=
  { s with bur := { s.bur with cap := if vtarget s r ≤ v then tdel s.bur.cap r else tset s.bur.cap r v } }

/-- Raise or lower a hold: a hold of 0 is not listed. -/
def putHold (t : Tab Nat) (c h : Nat) : Tab Nat := if h = 0 then tdel t c else tset t c h

/-! ## Floor breaches (R443) -/

/-- A condition of R443 holds for partition `p`. -/
def floorLow (s : State) (p : Nat) : Bool :=
  partEn s p && decide (partClass s p = 0 ∨ partClass s p = 2) &&
    (rangeFrom 0 256).any (fun l => decide (ownerOf s l = some p) &&
      (decide (tget 850 s.bur.ladder (l / 64) < vmin s (l / 64)) || decide ((8 * admTemp s (l / 16) : Int) < junction s (l / 16))))

/-- Watch the floor of one partition. -/
def floorOne (s : State) (p : Nat) : State :=
  let put := fun (v : Option Time) => { s with bur := { s.bur with breach := tset s.bur.breach p v } }
  let start := fun (s : State) => burStatus (bump s 0x10020) 4 true
  match floorLow s p, tget? s.bur.breach p with
  | true, none => start (put none)
  | true, some none => s
  | true, some (some t) => if t + 1000000 ≤ s.clk.tb then start (put none) else put none
  | false, none => s
  | false, some none => put (some s.clk.tb)
  | false, some (some t) => if t + 1000000 ≤ s.clk.tb then { s with bur := { s.bur with breach := tdel s.bur.breach p } } else s

/-- Watch every floor (R50, R443). -/
def floorCheck (s : State) : State := (rangeFrom 0 16).foldl floorOne s

/-! ## Power-down (R438) -/

/-- Bits of the BUR block that follow fields which such an event sets to their reset values: STATE, and ADM_FLOOR of the clusters (R441, R447). -/
def burDerived (off : Nat) : Word :=
  if off = 0x10000 then BitVec.ofNat 32 (fieldMask 30 2)
  else if 0x10200 ≤ off ∧ off < 0x10300 ∧ off % 16 = 4 then BitVec.ofNat 32 (fieldMask 16 16)
  else 0

/-- Registers of always-on blocks and of state that a power-down keeps (R478): the mask of the bits kept.  `all` keeps what an exit from
STANDBY keeps; otherwise what a module reset keeps. -/
def keptMask (all : Bool) (off : Nat) : Word :=
  let full : Word := BitVec.allOnes 32
  let cl := decide (0x100000 ≤ off) && decide (off < 0x200000) && decide (off % 0x10000 < 0x1000)
  if (0x100 ≤ off ∧ off ≤ 0x11F) ∨ off = 0x204 then full
  else if off = 0x30004 then BitVec.ofNat 32 (fieldMask 16 7)
  else if off = ptpReg 0x18 ∨ off = ptpReg 0x1C then full
  else if off = ptpReg 0xC then 2
  else if cl && decide (0x800 ≤ off % 0x1000) && decide (off % 0x1000 ≤ 0x814) then full
  else if 0x60000 ≤ off ∧ off < 0x68000 ∧ off % 0x800 = 0 then BitVec.ofNat 32 (fieldMask 7 1)
  else if 0x60000 ≤ off ∧ off < 0x68000 ∧ off % 0x800 = 0xC then full
  else if 0x10000 ≤ off ∧ off ≤ 0x104BF then
    maskWhere (fun f => decide (f.acc = .ro ∨ f.acc = .w1c) || (all && decide (f.acc ≠ .rwc))) off &&& ~~~(burDerived off)
  else if 0x20000 ≤ off ∧ off ≤ 0x20813 then (if all then full else 0)
  else if 0x390200 ≤ off ∧ off < 0x390280 then (if all then ~~~(maskOf .rwl off) else 0)
  else 0

/-- Registers after such an event: the bits kept, and reset values. -/
def keepRegs (all : Bool) (t : Tab Word) : Tab Word :=
  (t.map (fun e => (e.1, mergeWord (keptMask all e.1) (regReset e.1) e.2))).filter (fun e => decide (e.2 ≠ regReset e.1))

/-- A core whose spare is being prepared stays out of service (R91). -/
def stoppedCores (cl : Tab Cluster) (on : Bool) : Tab LCore :=
  (rangeFrom 0 256).map (fun l => (l, { LCore.reset with on := on, stopped := decide ((tget Cluster.reset cl (l / 16)).prep = some (l % 16)) }))

/-- What an erased byte of the xSPI device reads as (log entry 42). -/
def flashDefault : Byte := 0xFF

/-- Base of a copy in the xSPI device. -/
def copyBase (b : Bool) : Nat := if b then 0x1000000 else 0

/-- An IMAGE_WRITE in progress is cut off: the copy holds free values where it was to be written (R463, R491). -/
def abortImage (s : State) : State := match s.svc.img with
  | none => s
  | some (_, msg, _) =>
    let n := le msg 15 4
    let bytes := (rangeFrom s.free n).map (fun i => (Config.freeValue i).setWidth 8)
    let f := msets flashDefault s.boot.flash (copyBase (decide (le msg 8 1 = 1))) bytes
    { s with free := s.free + n, svc := { s.svc with img := none }, boot := { s.boot with flash := f } }

/-- The state of the units on the main rails after a reset of the module or a power-down (R478): nothing runs, scratchpads and
accumulators are zero, parity records, suspect rows and line retirements are kept. -/
def clearMain (all on : Bool) (s0 : State) : State :=
  let s := abortImage s0
  let cl := s.cl.map (fun e => (e.1, { Cluster.reset with unavail := all && e.2.unavail, badRows := if all then e.2.badRows else [], prep := e.2.prep }))
  let phys := s.phys.map (fun e => (e.1, { e.2 with spares := 0 }))
  { s with
    regs := keepRegs all s.regs, pend := [], mem := s.mem.filter (fun c => decide (c.1 < spadBase)), tc := stoppedCores cl on, cl := cl, phys := phys,
    clk := { s.clk with hold := 0, holdAt := 0 },
    ctxs := [], sch := { s.sch with owner := [], handover := [] }, shc := s.shc.map (fun e => (e.1, { e.2 with lines := [] })),
    inval := none, invalQ := [], wctr := [], dma := [], kv := Kv.reset, ing := Ing.reset, gang := Gang.reset, dpo := [], mot := Mot.reset,
    hif := { Hif.reset with mem := s.hif.mem },
    svc := { Svc.reset with ir := s.svc.ir, dr := s.svc.dr, cells := s.svc.cells, wdog := epochOf s },
    boot := { s.boot with
                          trained := false, kept := all, held := all && (s.boot.held || lockTaken s), mgmt := [], fw := false, advance := false, payloads := [], models := [],
                          pol := Policy.none, mods := [] } }

/-- The groups hold START from now on, which is recorded where it was clear, and every output requests the safe state as from power-on (R29,
R390, R450). -/
def holdStart (s0 : State) : State :=
  let s := if s0.sio.start then s0 else tripGroups true true 0x090B (rangeFrom 0 8) s0
  { s with sio := { s.sio with start := true, hold := true, grps := s.sio.grps.map (fun e => (e.1, { e.2 with req := false, granted := false })) } }

/-- What WAKE_PORT keeps in STANDBY: a port with WAKE_EN keeps its locked settings (R434, R451). -/
def wakePort (s : State) : Option WakePort :=
  let p := fld s 0x10010 0 3
  if flag s 0x10010 31 && portOk s p then some ⟨portMac s p, fld s (portReg p 0) 29 1, fld s (portReg p 0) 27 2⟩ else none

/-- The power-down of R438: every group trips, the main rails are removed in order, and what they supplied is lost, the set points and holds of ladder and
cap with it: a rerun of R437 brings VCORE up at 0.75 V. -/
def powerDown (s : State) : State :=
  let s1 := hutchStop (rangeFrom 0 8) s
  let s2 := holdStart (clearMain true false { s1 with mem := [] })
  let b := { s2.bur with
    seq := 0, gated := [], holds := [], request := none, wake := if railsUp s then wakePort s else s2.bur.wake,
    ladder := [], cap := [], ladHold := [], capHold := [] }
  let s3 := burShow { s2 with bur := b, hut := { s2.hut with kickEpoch := none }, boot := { s2.boot with zero := true } }
  setFld s3 0x10000 30 2 (if s.bur.standby then 2 else 0)

/-- POWER_DOWN: the 12 V input is lost, or a rail fails (R438). -/
def execPowerDown (t : Time) (why : PowerLoss) (s0 : State) : Res :=
  let s := advance s0 t
  .next (if ¬ s.bur.vaon then s else match why with
    | .vin => if ¬ s.bur.vin then s else powerDown { s with bur := { s.bur with vin := false } }
    | .rail r st =>
      let s1 := powerDown s
      let s2 : State := { s1 with bur := { s1.bur with latched := true } }
      wrReg (burStatus s2 6 true) 0x10034 (BitVec.ofNat 32 (st.toNat % 2 ^ 16 * 2 ^ 16 + r.val)))

/-- VIN_RESTORE: the 12 V input is at least 10.8 V again; the sequence runs from t₁ (R437, R438). -/
def execVinRestore (t : Time) (s0 : State) : Res :=
  let s := advance s0 t
  .next (if s.bur.vaon then { s with bur := { s.bur with vin := true } } else s)

/-! ## Power-up (R437) -/

/-- State right after the 3.3 V standby input came into range (R437, R475, R478): fuses, the flash and the eMMC keep their contents. -/
def powerOn (on vin : Bool) (s : State) : State :=
  let s1 := clearMain false false { s with mem := [] }
  { s1 with
    regs := (s1.regs.filter (fun e => decide (0x100000 ≤ e.1) && decide (e.1 < 0x200000))),
    clk := { s.clk with tb := 0, frac := 0, epochsDone := 0, latch := [], hold := 0, holdAt := 0 },
    sch := { s1.sch with lastSlot := 0, lastEpoch := 0 },
    phys := s1.phys.map (fun e => (e.1, { e.2 with accErr := [], suspects := [] })), shc := [],
    sio := Sio.reset, hut := Hut.reset, bur := { Bur.reset with vaon := on, vin := vin }, svc := Svc.reset,
    boot := { s1.boot with zero := true, resetN := false, from_ := 0 } }

/-- POWER_ON: `vin` says whether the 12 V input is in range already (R437, R475). -/
def execPowerOn (t : Time) (vin : Bool) (s : State) : Res :=
  let svn := rd s 0x30004 &&& BitVec.ofNat 32 (fieldMask 16 7)
  .next (wrReg (powerOn true vin (advance s t)) 0x30004 svn)

/-- VSTBY_3V3_LOSS: every rail falls and every safe output goes low (R509, R511). -/
def execVstby3v3Loss (t : Time) (s : State) : Res :=
  let svn := rd s 0x30004 &&& BitVec.ofNat 32 (fieldMask 16 7)
  .next (wrReg (powerOn false false (advance s t)) 0x30004 svn)

/-- The rails of step `k` of R437, by index. -/
def stepRails : Nat → List Nat
  | 1 => [7] | 2 => [5] | 3 => [4] | 4 => [0, 1, 2, 3] | 5 => [8] | 6 => [9] | 7 => [10] | 8 => [11]
  | _ => []

/-- RAIL_SEQUENCE_STEP: the rails of the next step report power good, or one of them, `r`, does not within 2 ms: a rail fault (R437, R438). -/
def execRailSequenceStep (t : Time) (ok : Bool) (r : Fin 12) (status : Word) (s0 : State) : Res :=
  let s := advance s0 t
  let n := s.bur.seq + 1
  .next (if ¬ (s.bur.vaon && s.bur.vin && !s.bur.latched && !s.bur.standby && decide (n ≤ 8)) then s
    else if ¬ ok then
      (if ¬ (stepRails n).contains r.val then s else
       let s1 := powerDown s
       let s2 : State := { s1 with bur := { s1.bur with latched := true } }
       wrReg (burStatus s2 6 true) 0x10034 (BitVec.ofNat 32 (status.toNat % 2 ^ 16 * 2 ^ 16 + r.val)))
    else
      let s1 : State := { s with bur := { s.bur with seq := n } }
      let s2 : State := if n = 4 then { s1 with tc := stoppedCores s1.cl true } else s1
      burShow (if n = 8 then { s2 with boot := { s2.boot with from_ := s.clk.tb }, svc := { s2.svc with wdog := epochOf s } } else s2))

/-! ## Sensors (R439, R444) -/

/-- SENSOR_SAMPLE: all 48 sensors, and the measured rate of each cluster (R439, R455, R519); 110 °C trips (R444). -/
def execSensorSample (t : Time) (vals rates : List Nat) (s0 : State) : Res :=
  let s := advance s0 t
  .next (if ¬ s.bur.vaon then s else
    let s1 := (rangeFrom 0 48).foldl (fun s i => setFld s (0x10400 + 4 * i) 0 16 (nth 0 vals i)) s
    let s2 := (rangeFrom 0 16).foldl (fun s c => setFld (setFld s (bclReg c 8) 16 16 (tc 16 (junction s c))) (bclReg c 4) 0 16 (nth 0 rates c)) s1
    let s3 := (rangeFrom 0 4).foldl (fun s r => setFld s (railReg r 4) 16 16
      ((railClusters r).foldl (fun m c => min m (nth 0 vals (24 + c))) 65535)) s2
    let s4 := (rangeFrom 0 8).foldl (fun s i => setFld s (0x10140 + 4 * i) 0 16 (nth 0 vals (40 + i))) s3
    let s4 : State := { s4 with bur := { s4.bur with railsRead := true } }
    if (rangeFrom 0 24).any (fun i => decide ((880 : Int) ≤ sx 16 (nth 0 vals i))) then
      let s5 := powerDown s4
      burStatus { s5 with bur := { s5.bur with latched := true, tripPin := true } } 7 true
    else floorCheck s4)

/-! ## The thermal ladder (R442) -/

/-- Headroom of a rail in 1/8 °C: the smallest over its clusters. -/
def headroom (s : State) (r : Nat) : Int :=
  (railClusters r).foldl (fun m c => min m (8 * (tjLimit s c : Int) - junction s c)) (2 ^ 16)

/-- One ladder step of one rail: the first rule that holds. -/
def ladderRail (s : State) (r : Nat) : State :=
  let h := headroom s r
  let v := setPoint s r
  let lo := vmin s r
  let bs := (railClusters r).filter (hasClassB s)
  let hold := fun c => tget 0 s.bur.ladHold c
  if h ≤ 8 * (throttleMargin s : Int) ∧ lo < v then
    let s1 := bump (setLadder s r (max lo (v - 10))) (railReg r 8)
    if flag s 0x10000 1 then s1 else burStatus (bump s1 0x10028) 1 true
  else if h ≤ 8 * (holdMargin s : Int) ∧ v ≤ lo ∧ bs.any (fun c => decide (hold c < holdMax s)) then
    { s with bur := { s.bur with ladHold := bs.foldl (fun t c => putHold t c (max (hold c) (min (holdMax s) (hold c + 1)))) s.bur.ladHold } }
  else if h ≤ 0 ∧ v ≤ lo ∧ 600 < v then
    bump (setLadder s r (max 600 (v - 10))) (railReg r 8)
  else if 8 * (throttleMargin s : Int) + 16 < h then
    match tget? s.bur.ladder r with
    | some x =>
      if x < lo then setLadder s r (x + 10)
      else if (railClusters r).any (fun c => decide (0 < hold c)) then
        { s with bur := { s.bur with ladHold := (railClusters r).foldl (fun t c => putHold t c (hold c - 1)) s.bur.ladHold } }
      else setLadder s r (x + 10)
    | none => { s with bur := { s.bur with ladHold := (railClusters r).foldl (fun t c => putHold t c (hold c - 1)) s.bur.ladHold } }
  else s

/-- HOT clears when every ladder step has been undone (R442). -/
def hotCheck (s : State) : State := if s.bur.ladder.isEmpty && s.bur.ladHold.isEmpty then burStatus s 1 false else s

/-- LADDER_STEP: at a whole millisecond of the timebase (R442). -/
def execLadderStep (t : Time) (s0 : State) : Res :=
  let s := advance s0 t
  let ms := s.clk.tb / 1000000
  .next (if ¬ (railsUp s && decide (s.clk.tb % 1000000 = 0) && decide (s.bur.ladMs < ms)) then s else
    floorCheck (burShow (hotCheck ((rangeFrom 0 4).foldl ladderRail { s with bur := { s.bur with ladMs := ms } }))))

/-! ## The power cap (R446) -/

/-- One step down: set points first, then holds, then the excess is counted. -/
def capDown (s : State) : State :=
  let above := (rangeFrom 0 4).filter (fun r => decide (vmin s r < setPoint s r))
  let room := (rangeFrom 0 16).filter (fun c => hasClassB s c && decide (tget 0 s.bur.capHold c < holdMax s))
  if ¬ above.isEmpty then above.foldl (fun s r => bump (setCap s r (max (vmin s r) (tget (vtarget s r) s.bur.cap r - 10))) (railReg r 8)) s
  else if ¬ room.isEmpty then
    { s with bur := { s.bur with capHold := room.foldl (fun t c => putHold t c (tget 0 t c + 1)) s.bur.capHold } }
  else bump s 0x10024

/-- One step undone: holds first. -/
def capUp (s : State) : State :=
  if ¬ s.bur.capHold.isEmpty then
    { s with bur := { s.bur with capHold := (s.bur.capHold.map (fun e => (e.1, e.2 - 1))).filter (fun e => decide (e.2 ≠ 0)) } }
  else s.bur.cap.foldl (fun s e => setCap s e.1 (e.2 + 10)) s

/-- CAP_STEP: the input power averaged over 1 ms, in 0.1 W (R446). -/
def execCapStep (t : Time) (avg : Nat) (s0 : State) : Res :=
  let s := advance s0 t
  .next (if ¬ s.bur.vaon ∨ s.clk.tb < s.bur.capAt + 1000000 then s else
    let s1 : State := { s with bur := { s.bur with capAt := s.clk.tb } }
    let s2 := setFld s1 0x1000C 0 16 (min 65535 avg)
    let s3 := setFld s2 0x1000C 16 16 (max (fld s2 0x1000C 16 16) (min 65535 avg))
    let pcap := fld s3 0x10008 0 16
    if ¬ railsUp s then s3 else floorCheck (burShow (if pcap < avg then capDown s3 else if avg + 50 < pcap then capUp s3 else s3)))

/-! ## Hold periods (R442) -/

/-- The time that the ring of a class-B core stands counts as a stall of the context that turns it (R32, R269). -/
def holdCore (d : Nat) (s : State) (l : Nat) : State :=
  match ownerOf s l, (coreOf s l).ring with
  | some p, some k => if partClass s p ≠ 3 then s else match slotOf s l k with
    | none => s
    | some c => setSlot s l k
        { c with runNs := c.runNs + (s.clk.tb - c.since), since := s.clk.tb + d, stall := (c.stall + d) % 2 ^ 64, stallC := c.stallC + d }
  | _, _ => s

/-- HOLD_PERIOD: h × 6.25 µs of 100 µs in a cluster with a hold of h/16 (R442). -/
def execHoldPeriod (t : Time) (c : Fin 16) (s0 : State) : Res :=
  let s := advance s0 t
  let d := 6250 * holdOf s c
  let busy := match tget? s.bur.holds c.val with | none => false | some x => decide (s.clk.tb < x.1 + 100000)
  .next (if d = 0 ∨ busy = true ∨ ¬ hasClassB s c ∨ ¬ railsUp s then s else
    let s1 : State := { s with bur := { s.bur with holds := tset s.bur.holds c.val (s.clk.tb, s.clk.tb + d) } }
    (rangeFrom (16 * c) 16).foldl (holdCore d) (bumpBy s1 (bclReg c 0xC) d))

/-! ## The commit of the BUR group (R440, R441, R447) -/

/-- Entry of R36 at a voltage row (0: 0.60 V) and a temperature column (0: 50 °C), M steps/s. -/
def rateAt (row col : Nat) : Nat :=
  nth 0 (nth [] [[1050, 960, 900], [1240, 1140, 1070], [1440, 1320, 1240], [1630, 1500, 1410], [1780, 1630, 1530], [1900, 1740, 1630]] row) col

/-- The rate of R36 and R37: the next lower voltage row, the next higher temperature column. -/
def floorRate (mv temp : Nat) : Nat := rateAt (min 5 ((mv - 600) / 50)) (if temp ≤ 50 then 0 else if temp ≤ 85 then 1 else 2)

/-- A register of the BUR block. -/
def isBurReg (off : Nat) : Bool := decide (0x10000 ≤ off) && decide (off ≤ 0x104BF)

/-- Clamp VMIN and VTARGET of a rail; a VMIN above V raises it at once (R440, R445). -/
def commitRail (s0 s : State) (r : Nat) : State :=
  let lo := clampNat 600 850 (vmin s r)
  let s1 := setFld (setFld s (railReg r 0) 16 16 lo) (railReg r 0) 0 16 (clampNat lo 850 (vtarget s r))
  if lo ≤ vmin s0 r then s1 else
    let up := fun (t : Tab Nat) => match tget? t r with | none => t | some v => tset t r (max v lo)
    { s1 with bur := { s1.bur with ladder := up s1.bur.ladder, cap := up s1.bur.cap } }

/-- The BUR group commits at boundary `b` (R440); ADM_FLOOR and STATE follow (R441, R447). -/
def burCommit (b : Time) (s0 : State) : State :=
  let staged := fun off => (stagedAt s0 b off).isSome
  let s1 := commitAll b isBurReg s0
  let s2 := (rangeFrom 0 4).foldl (fun s r => if staged (railReg r 0) then commitRail s0 s r else s) s1
  let s3 := (rangeFrom 0 16).foldl (fun s c => if staged (bclReg c 0) then setFld s (bclReg c 0) 8 8 (clampNat (tjLimit s c) 105 (admTemp s c)) else s) s2
  let hard := min 1650 (fld s3 0x10008 16 16)
  let s4 := if staged 0x10008 then setFld s3 0x10008 0 16 (clampNat 500 (max 500 hard) (fld s3 0x10008 0 16)) else s3
  let s5 := (rangeFrom 0 16).foldl (fun s c => setFld s (bclReg c 4) 16 16 (floorRate (vmin s (c / 4)) (admTemp s c))) s4
  floorCheck (burShow (setFld s5 0x10000 30 2 (if flag s5 0x10004 0 then 1 else 0)))

/-! ## Gating (R447 to R449) -/

/-- Request the gating of a bank; a refusal is counted (R212, R449). -/
def gateBank (l : Nat) (s : State) (b : Nat) : State :=
  if bankOf s l b ≠ .on then s else
  let x := bankRequest s l b
  if x.1 then x.2 else bump x.2 0x1002C

/-- A core that QUIET gates: no enabled partition owns it and none is handing it over (R448). -/
def gateable (s : State) (l : Nat) : Bool := (ownerOf s l).isNone && (tget? s.sch.handover l).isNone && (coreOf s l).on

/-- Gate one core. -/
def gateCore (s : State) (l : Nat) : State :=
  if ¬ gateable s l then s else
  let s1 := (rangeFrom 0 16).foldl (gateBank l) s
  setCore s1 l { coreOf s1 l with on := false, ring := none }

/-- The Footstool of a cluster is IDLE: neither busy nor UNAVAILABLE. -/
def footIdle (s : State) (c : Nat) : Bool := !(clOf s c).unavail && (clOf s c).cur.isNone && (clOf s c).queue.isEmpty && !fsGolden s c

/-- Gate one cluster: its lines are clean copies and are lost (R448). -/
def gateCluster (s : State) (c : Nat) : State :=
  if s.bur.gated.contains c ∨ ¬ (footIdle s c && (rangeFrom (16 * c) 16).all (fun l => !(coreOf s l).on)
    && (rangeFrom 0 64).all (fun k => decide ((wctrOf s (64 * c + k)).st = .idle))) then s
  else
    let s1 := setSlice s c { sliceOf s c with lines := [] }
    { s1 with bur := { s1.bur with gated := s1.bur.gated ++ [c] } }

/-- QUIET_GATING at an epoch boundary (R448). -/
def quietGate (s : State) : State :=
  if ¬ (railsUp s && flag s 0x10004 0) then s
  else (rangeFrom 0 16).foldl gateCluster ((rangeFrom 0 256).foldl gateCore s)

/-- A bank that R449 does not select: a placed run, the landing pool while a context is resident, a KV hot area. -/
def bankWanted (s : State) (l b : Nat) : Bool :=
  let n := landPool s l
  (heldRuns s l).any (fun r => runInBank r.1 r.2 b)
    || (!(coreOf s l).slots.isEmpty && runInBank (256 - n) n b)
    || (match ownerOf s l with
      | none => false
      | some p => runInBank (fld s (kvPart p + 0x28) 0 8) (fld s (kvPart p + 0x28) 8 9) b)

/-- BANK_GATE_REQUEST at an epoch boundary, after the bindings of slot 0 (R449). -/
def gateBanks (s : State) : State :=
  if ¬ railsUp s then s else
  (rangeFrom 0 256).foldl (fun s l =>
    if flag s (bclReg (l / 16) 8) 11 then
      ((rangeFrom 0 16).filter (fun b => !bankWanted s l b)).foldl (gateBank l) s
    else s) s

/-- CORE_POWER_UP: an OFF core that ACTIVE powers, or that an enabled partition owns; scratchpad and accumulator are zero (R447, R448). -/
def execCorePowerUp (t : Time) (l : Fin 256) (s0 : State) : Res :=
  let s := advance s0 t
  let c := coreOf s l
  .next (if c.on ∨ ¬ railsUp s ∨ (flag s 0x10004 0 && (ownerOf s l).isNone) then s else
    let s1 := zeroMem s (spadOf l) 0x100000
    let s2 := setCore s1 l { c with on := true, banks := [], acc := [] }
    { s2 with bur := { s2.bur with gated := s2.bur.gated.filter (fun x => decide (x ≠ l.val / 16)) } })

/-! ## STANDBY (R450, R451) -/

/-- STANDBY_REQUEST: a write of BUR_CTRL (R450, R453); QUIET_EN is staged with it. -/
def standbyWrite (w : Word) (s : State) : State :=
  let s1 := stage s 0x10004 w
  if w.getLsbD 31 then { s1 with bur := { s1.bur with request := some s.clk.tb } } else s1

/-- STANDBY_REQUEST. -/
def execStandbyRequest (t : Time) (ag : Agent) (w : Word) (s : State) : Res := .next (onWrite (advance s t) ag 0x10004 (standbyWrite w))

/-- Nothing is enabled after the commits of the boundary (R450). -/
def standbyOk (s : State) : Bool :=
  (rangeFrom 0 16).all (fun p => !partEn s p) && !motRun s && (rangeFrom 0 4).all (fun d => !flag s (dpoReg d 0) 31)
    && (rangeFrom 0 512).all (fun n => !flag s (entReg n 0) 31)

/-- The boundary at `b` answers a request written before it (R450). -/
def standbyBoundary (b : Time) (s : State) : State := match s.bur.request with
  | none => s
  | some t =>
    if b ≤ t then s else
    let s1 : State := { s with bur := { s.bur with request := none } }
    if ¬ standbyOk s1 then burStatus (bump s1 0x10030) 5 true
    else
      let s2 := powerDown s1
      setFld { s2 with bur := { s2.bur with standby := true } } 0x10000 30 2 2

/-- The module leaves STANDBY: the sequence runs from t₁, then boot (R451). -/
def standbyExit (s : State) : State :=
  setFlag (setFld { s with bur := { s.bur with standby := false } } 0x10000 30 2 0) 0x204 5 true

/-- WAKE_MAGIC_PACKET: a magic packet that names the MAC address kept for WAKE_PORT reaches that port (R434, R451). -/
def execWakeMagicPacket (t : Time) (p : MagicPacket) (s0 : State) : Res :=
  let s := advance s0 t
  .next (if s.bur.standby && flag s 0x10010 31 && decide (fld s 0x10010 0 3 = p.port.val) && decide (s.bur.wake.map WakePort.mac = some p.mac) then standbyExit s else s)

/-- WAKE_ALARM: the timebase is at or beyond the alarm count (R451). -/
def execWakeAlarm (t : Time) (s0 : State) : Res :=
  let s := advance s0 t
  .next (if s.bur.standby && flag s 0x10010 30 && decide (val64 s 0x10014 0x10018 ≤ s.clk.tb) then standbyExit s else s)

end Sys2Proof.Machine
end

