-- ==== Sys2Proof/Machine/Link.lean ====
section
/-!
DEFINITION. Machine/Link.lean: the PCIe endpoint: link, configuration requests, MSI-X, the DRAM window, HIF_MEMRD and the
telemetry rings (R482 to R484, R488, R489, R493 to R496, R502, R503).
-/
namespace Sys2Proof.Machine
open Sys2Proof

/-! ## MSI-X (R496) -/

/-- The link is up. -/
def pcieUp (s : State) : Bool := flag s 0x480000 0

/-- Word `i` of the MSI-X table: a vector is masked after reset (PRESUMED: PCI Local Bus layout, log entry 40). -/
def msixWord (s : State) (i : Nat) : Word := (tget? s.hif.msix i).getD (if i % 4 = 3 then 1 else 0)

/-- Vector `v` is masked. -/
def msixMasked (s : State) (v : Nat) : Bool := (msixWord s (4 * v + 3)).getLsbD 0

/-- Send or pend vector `v`. -/
def msi (v : Nat) (s : State) : State :=
  if ¬ pcieUp s then s
  else if msixMasked s v then { s with hif := { s.hif with pba := s.hif.pba ||| 2 ^ v } }
  else { s with hif := { s.hif with sent := tset s.hif.sent v (tget 0 s.hif.sent v + 1) } }

/-- A pending vector is sent once it is no longer masked. -/
def msiRelease (s : State) (v : Nat) : State :=
  if s.hif.pba.testBit v && !msixMasked s v then msi v { s with hif := { s.hif with pba := s.hif.pba - 2 ^ v } } else s

/-- A write of a word of the table. -/
def msixWrite (i : Nat) (w : Word) (s : State) : State := msiRelease { s with hif := { s.hif with msix := tset s.hif.msix i w } } (i / 4)

/-! ## Telemetry rings (R493 to R495, R503) -/

/-- Registers of a telemetry ring. -/
def trReg (r o : Nat) : Nat := 0x480500 + 0x40 * r + o
/-- A ring in use. -/
def trOn (s : State) (r : Nat) : Bool := flag s (trReg r 8) 31
/-- Records of a ring. -/
def trLen (s : State) (r : Nat) : Nat := 2 ^ clampNat 6 15 (fld s (trReg r 8) 24 4)
/-- HEAD − TAIL modulo 2³². -/
def trUsed (s : State) (r : Nat) : Nat := (rd s (trReg r 0xC) - rd s (trReg r 0x10)).toNat
/-- SEQ and the number of records dropped since the last that was told. -/
def trState (s : State) (r : Nat) : Nat × Nat := tget (0, 0) s.hif.rings r
/-- Replace them. -/
def setTr (s : State) (r : Nat) (v : Nat × Nat) : State := { s with hif := { s.hif with rings := tset s.hif.rings r v } }

/-- Write a record at HEAD (R493); the interrupt comes when HEAD − TAIL reaches THRESH (R495). -/
def putRecord (r type code source value : Nat) (s : State) : State :=
  let x := trState s r
  let a := fld s (trReg r 0) 5 27 * 32 + 2 ^ 32 * (rd s (trReg r 4)).toNat + 32 * ((rd s (trReg r 0xC)).toNat % trLen s r)
  let b := leBytes 8 s.clk.tb ++ leBytes 1 type ++ leBytes 1 1 ++ leBytes 2 code ++ leBytes 4 source ++ leBytes 8 value ++ leBytes 4 x.1 ++ leBytes 4 0
  let s1 : State := { s with hif := { s.hif with mem := msets 0 s.hif.mem a b } }
  let s2 := bump (setTr s1 r (x.1 + 1, x.2)) (trReg r 0xC)
  if trUsed s2 r = fld s2 (trReg r 0x14) 16 16 then msi (8 + r) s2 else s2

/-- A record that finds its ring full is dropped and counted. -/
def dropRecord (s : State) (r : Nat) : State := bump (setTr s r ((trState s r).1, (trState s r).2 + 1)) (trReg r 0x18)

/-- A record for ring `r`: a DROP record precedes it when records were dropped before (R495); the source that a DROP record names is a free
value. -/
def record (type code source value : Nat) (s : State) (r : Nat) : State :=
  if ¬ trOn s r then s
  else if trUsed s r = trLen s r then dropRecord s r
  else if (trState s r).2 = 0 then putRecord r type code source value s
  else
    let d := draw s
    let s1 := putRecord r 3 0 (d.1.toNat % 2 ^ 32) (trState s r).2 d.2
    let s2 := setTr s1 r ((trState s1 r).1, 0)
    if trUsed s2 r = trLen s2 r then dropRecord s2 r else putRecord r type code source value s2

/-- An EVENT record goes to every ring enabled for the class of its code (R494). -/
def eventRecord (code source value : Nat) (s : State) : State :=
  (rangeFrom 0 4).foldl (fun s r => if (rd s (trReg r 8)).getLsbD (code / 256) && decide (1 ≤ code / 256 ∧ code / 256 ≤ 10)
    then record 1 code source value s r else s) s

/-- Block number, instance and code of the field that recorded (R494); for BOOT LAST_ERR the spec names no instance: a free value. -/
def eventOf (s : State) : EventSource → Nat × Nat × Nat × State
  | .tc l => (8, l, fld s (tcOff l + 8) 0 16, s)
  | .dma e => (7, e, fld s (dmaReg e 0x10) 0 16, s)
  | .sch p n => (4, 64 * p + n, (ctxOf s p n).fault, s)
  | .stream n => (10, n, fld s (strReg n 0) 0 16, s)
  | .output d => (11, d, fld s (dpoReg d 4) 16 16, s)
  | .motion m => (12, m, fld s 0x38001C 16 16, s)
  | .group g => (13, g, fld s (grpReg g 0) 0 16, s)
  | .hutch => (2, (match s.hut.log.head? with | some e => e.2.2 | none => 0), fld s 0x20000 0 16, s)
  | .boot => let d := draw s; (3, d.1.toNat % 2 ^ 24, fld s 0x30000 0 16, d.2)
  | .model i => (3, i, fld s (0x30100 + 4 * i) 0 16, s)

/-- The partition whose FENCE_LAST goes with the event. -/
def eventPart (s : State) : EventSource → Nat
  | .tc l => (ownerOf s l).getD 0
  | .dma e => fld s (dmaReg e 0x10) 16 4
  | .sch p _ => p
  | _ => 0

/-- A field whose codes wait in order of recording; the others are read as they stand. -/
def inOrderSrc : EventSource → Bool
  | .tc _ => false
  | .dma _ => false
  | .sch _ _ => false
  | _ => true

/-- The oldest code of a field that is still to be told, with its argument, and the state without it; 0 for none. -/
def takeUntold (s : State) (src : EventSource) : Nat × Nat × State := match s.svc.untold.find? (fun e => decide (e.1 = src)) with
  | none => (0, 0, s)
  | some e => (e.2.1, e.2.2, { s with svc := { s.svc with untold := s.svc.untold.erase e } })

/-- Block number, instance and code of what a field has to tell: the oldest code that it has recorded and that is still to be told, or for TC, DMA and
SCH its present code; 0 for nothing (R494, log entry 94). -/
def dueEvent (s : State) (src : EventSource) : Nat × Nat × Nat × State :=
  let u := takeUntold s src
  let e := eventOf u.2.2 src
  if inOrderSrc src then (e.1, (if src = .hutch then u.2.1 else e.2.1), u.1, e.2.2.2) else e

/-- TELEMETRY_EVENT: the record of what the field has to tell; `m` is the controller of a DRAM error (R494). -/
def execTelemetryEvent (t : Time) (src : EventSource) (m : Fin 6) (s0 : State) : Res :=
  let e := dueEvent (advance s0 t) src
  let s := e.2.2.2
  let code := e.2.2.1
  let p := eventPart s src
  let value := if code = fFence then (rd s (partOff p + 0x8C)).toNat + 2 ^ 32 * fld s (partOff p + 0x90) 0 16
    else if code = fDram then (rd s (mcReg m 0x10)).toNat + 2 ^ 32 * fld s (mcReg m 0x14) 0 16
    else if code / 256 = 6 then e.2.1 else 0
  .next (if code = 0 then s else eventRecord code (2 ^ 24 * e.1 + e.2.1 % 2 ^ 24) value s)

/-- A write of a ring's control word: HEAD and SEQ are 0 when EN is set (R503); records dropped and not yet told stay to be told (R495). -/
def trWrite (r : Nat) (w : Word) (s : State) : State :=
  let s1 := wrReg s (trReg r 8) (mergeWord (maskOf .rw (trReg r 8)) (rd s (trReg r 8)) w)
  if w.getLsbD 31 && !trOn s r then setTr (wrReg s1 (trReg r 0xC) 0) r (0, (trState s r).2) else s1

/-- TR_ENABLE. -/
def execTrEnable (t : Time) (ag : Agent) (r : Fin 4) (w : Word) (s : State) : Res := .next (onWrite (advance s t) ag (trReg r 8) (trWrite r w))

/-! ## The link (R456, R482 to R484) -/

/-- The telemetry rings are disabled. -/
def ringsOff (s : State) : State := (rangeFrom 0 4).foldl (fun s r => setFlag s (trReg r 8) 31 false) s

/-- The registers of the telemetry rings at their reset values; their counters stay (R484, R501). -/
def ringsReset (s : State) : State :=
  { s with regs := s.regs.filter (fun e => !(decide (0x480500 ≤ e.1) && decide (e.1 < 0x480600) && decide (e.1 % 0x40 ≠ 0x18))) }

/-- What the reset of the link, a hot reset or an FLR resets (R484): the link and its configuration space, apertures and rings, the MSI-X
table, the host side of the mailboxes. -/
def hifReset (s : State) : State :=
  let s1 := (rangeFrom 0 4).foldl (fun s w => wrReg s (0x480040 + 0x10 * w) 0) (ringsReset (wrReg s 0x480000 0))
  let s2 := (rangeFrom 0 8).foldl (fun s m => (rangeFrom 0 17).foldl (fun s k => wrReg s (0x480100 + 0x80 * m + 4 * k) 0) s) s1
  { s2 with
    hif := { Hif.reset with mem := s2.hif.mem, memrd := s2.hif.memrd },
    svc := { s2.svc with queue := s2.svc.queue.map (fun e => (e.1, e.2.1, true)), img := s2.svc.img.map (fun e => (e.1, e.2.1, true)) } }

/-- PCIE_RESET: PCIE_PERST_N, a hot reset or an FLR (R484, R511). -/
def execPcieReset (t : Time) (s : State) : Res := .next (hifReset (advance s t))

/-- PCIE_LINK_DOWN: every ring is disabled, and the records in flight are discarded and counted, `lost` per ring (R484). -/
def execPcieLinkDown (t : Time) (lost : List Nat) (s0 : State) : Res :=
  let s := advance s0 t
  .next (if ¬ pcieUp s then s else
    (rangeFrom 0 4).foldl (fun s r => bumpBy s (trReg r 0x18) (nth 0 lost r)) (ringsOff (wrReg s 0x480000 0)))

/-- PCIE_LINK_UP: training ends with a width of 1, 2, 4 or 8 lanes and a speed of 1 to 5 (R456, R482, R503). -/
def execPcieLinkUp (t : Time) (width speed : Nat) (s0 : State) : Res :=
  let s := advance s0 t
  .next (if ¬ railsUp s ∨ pcieUp s ∨ ¬ [1, 2, 4, 8].contains width ∨ speed = 0 ∨ 5 < speed then s
    else wrReg s 0x480000 (BitVec.ofNat 32 (16 * width + 2 * speed + 1)))

/-- Answer the host. -/
def answer (r : BusReply) (s : State) : State := { s with hif := { s.hif with answer := r } }

/-- The bits of a configuration word that the function fixes: identity and class (R482), a header of type 0 with capabilities for power management
(D0 and D3hot), MSI-X (16 vectors, table and pending bits where R496 has them) and PCI Express (512 bytes, 32 GT/s ×8, L1, function-level
reset), and the extended capability for advanced error reporting with ECRC; the BARs of R483, BAR4 and BAR5 zero.  The places are those of the PCI
specifications, or the model's (PRESUMED, log entry 40).  none: a word of which the spec says nothing. -/
def cfgFixed (s : State) (off : Nat) : Option Word := match off with
  | 0x00 => some (BitVec.ofNat 32 (0x5120 * 2 ^ 16 + fld s 0x480008 0 16))
  | 0x04 => some 0x100000
  | 0x0C => some 0
  | 0x10 => some 4
  | 0x14 => some 0
  | 0x18 => some 0xC
  | 0x1C => some 0
  | 0x20 => some 0
  | 0x24 => some 0
  | 0x34 => some 0x40
  | 0x3C => some 0
  | 0x40 => some 0x35001
  | 0x44 => some 0
  | 0x50 => some 0xF6011
  | 0x54 => some 0x480800
  | 0x58 => some 0x480A00
  | 0x60 => some 0x20010
  | 0x64 => some 0x10000002
  | 0x68 => some 0
  | 0x6C => some 0x885
  | 0x70 => some (BitVec.ofNat 32 ((fld s 0x480000 1 3 + 16 * fld s 0x480000 4 4) * 2 ^ 16))
  | 0x100 => some 0x20001
  | 0x118 => some 0xA0
  | _ => none

/-- The writable bits of a configuration word: those of the BARs above their sizes (8 MiB and 16 GiB, R483), those that the PCI specifications give the
capabilities, none of the identity and the read-only words (PRESUMED, log entry 40); every other word takes what is written. -/
def cfgMask (off : Nat) : Word := match off with
  | 0x04 => 0x547
  | 0x0C => 0xFF
  | 0x10 => 0xFF800000
  | 0x14 => 0xFFFFFFFF
  | 0x1C => 0xFFFFFFFC
  | 0x3C => 0xFF
  | 0x44 => 0x3
  | 0x50 => 0xC0000000
  | 0x68 => 0xFFFF
  | 0x70 => 0xFFFF
  | 0x118 => 0x140
  | _ => if [0x00, 0x08, 0x18, 0x20, 0x24, 0x34, 0x40, 0x54, 0x58, 0x60, 0x64, 0x6C, 0x100].contains off then 0 else 0xFFFFFFFF

/-- What a word of configuration space reads as: its fixed bits with what was written, 0 before; the revision beside the class code, and a word of which
the spec says nothing and that nothing has written, are free values (log entry 40). -/
def cfgRead (s : State) (off : Nat) : Word × State := match cfgFixed s off with
  | some w => (w ||| (tget 0 s.hif.cfg off &&& cfgMask off), s)
  | none =>
    let d := draw s
    if off = 0x08 then (putField (BitVec.ofNat 32 d.1.toNat) 8 24 0x120000, d.2)
    else match tget? s.hif.cfg off with
      | some w => (w, s)
      | none => (BitVec.ofNat 32 d.1.toNat, d.2)

/-- The byte lanes of a write. -/
def laneMask (be : Nat) : Word :=
  BitVec.ofNat 32 (((rangeFrom 0 4).map (fun i => if be.testBit i then 255 * 2 ^ (8 * i) else 0)).foldl (· + ·) 0)

/-- PCIE_CONFIG_REQUEST: answered with Configuration Request Retry Status before LOCKED or FAIL (R456, R463, R483), served afterwards. -/
def execPcieConfigRequest (t : Time) (wr : Bool) (off : Nat) (be : Fin 16) (w : Word) (s0 : State) : Res :=
  let s := advance s0 t
  let o := off / 4 * 4 % 4096
  .next (if ¬ pcieUp s then s
    else if phase s < 3 then answer .retry s
    else if wr then
      answer .none (if cfgMask o = 0 then s else { s with
        hif := { s.hif with cfg := tset s.hif.cfg o (mergeWord (laneMask be &&& cfgMask o) (tget 0 s.hif.cfg o) w) } })
    else (let x := cfgRead s o; answer (.data (leBytes 4 x.1.toNat)) x.2))

/-! ## The DRAM window (R483, R488, R489) -/

/-- Registers of an aperture. -/
def apReg (w : Nat) : Nat := 0x480040 + 0x10 * w

/-- The Wardrobe's pool or metadata meets a range (R230). -/
def inKv (s : State) (a n : Nat) : Bool := (kvRanges s).any (meets (a, n))

/-- Device address of a BAR2 access of `n` bytes, none where it is refused (R488, R489). -/
def apAddr (s : State) (wr : Bool) (off n : Nat) : Option Nat :=
  if phase s = 15 then (if off + n ≤ 0x1000000 then some off else none)
  else
    let r := apReg (off / 2 ^ 32)
    let a := fld s r 0 16 * 2 ^ 32 + off % 2 ^ 32
    if off < 2 ^ 34 ∧ off % 2 ^ 32 + n ≤ 2 ^ 32 ∧ flag s r 31 ∧ flag s r (if wr then 29 else 30) ∧ a + n ≤ memTop s ∧ ¬ (wr && inKv s a n)
    then some a else none

/-- HOST_DRAM_READ: `len` bytes at an offset of BAR2. -/
def execHostDramRead (t : Time) (off len : Nat) (s0 : State) : Res :=
  let s := advance s0 t
  .next (if ¬ pcieUp s ∨ phase s < 3 ∨ len = 0 then s else match apAddr s false off len with
    | some a => answer (.data (rdMem s a len)) s
    | none => answer .unsupported (bump s 0x480018))

/-- HOST_DRAM_WRITE. -/
def execHostDramWrite (t : Time) (off : Nat) (bytes : List Byte) (s0 : State) : Res :=
  let s := advance s0 t
  .next (if ¬ pcieUp s ∨ phase s < 3 ∨ bytes = [] then s else match apAddr s true off bytes.length with
    | some a => answer .none (wrMem s a bytes)
    | none => answer .none (bump s 0x480018))

/-! ## HIF_MEMRD (R502) -/

/-- A write of MEMRD_HI starts the read of 4 bytes; DONE clears. -/
def memrdStart (w : Word) (s : State) : State :=
  let s1 := setFlag (wrReg s 0x480028 (w &&& 0xFFFF)) 0x480024 0 false
  { s1 with hif := { s1.hif with memrd := some ((rd s1 0x480020).toNat / 4 * 4 + 2 ^ 32 * fld s1 0x480028 0 16) } }

/-- MEMRD_START. -/
def execMemrdStart (t : Time) (ag : Agent) (w : Word) (s : State) : Res := .next (onWrite (advance s t) ag 0x480028 (memrdStart w))

/-- MEMRD_DONE: the data is valid, or the read is refused as under R488. -/
def execMemrdDone (t : Time) (s0 : State) : Res :=
  let s := advance s0 t
  .next (match s.hif.memrd with
    | none => s
    | some a =>
      let s1 : State := { s with hif := { s.hif with memrd := none } }
      if a + 4 ≤ memTop s then wrReg (wrReg s1 0x48002C (BitVec.ofNat 32 (rdLE s a 4))) 0x480024 1
      else bump (wrReg s1 0x480024 2) 0x480018)

end Sys2Proof.Machine
end

