-- ==== Sys2Proof/Machine/Boot.lean ====
section
/-!
DEFINITION. Machine/Boot.lean: boot phases, the configuration image and its checks, model images, resets and what they keep, the
timebase registers, commit discard and version negotiation (R45 to R47, R456 to R466, R471 to R478, R480, R481).
-/
namespace Sys2Proof.Machine
open Sys2Proof

/-! ## Status (R456, R479, R481) -/

/-- PHASE changes; vector 12 is raised (R496). -/
def setPhase (n : Nat) (s : State) : State := if phase s = n then s else msi 12 (setFld s 0x30000 28 4 n)

/-! ## The timebase (R45, R47) -/

/-- GLB_TB_ADJ_WRITE. -/
def execGlbTbAdjWrite (t : Time) (ag : Agent) (w : Word) (s : State) : Res :=
  .next (onWrite (advance s t) ag 0x110 (fun s => writeAdj s (sx 32 w.toNat)))

/-- A write of GLB_TB_SET_HI loads the counter if the value is not lower; it is locked once LOCKED is set.  Boundaries that the load passes do
not occur (R45); an instant of a whole number of epochs on which the load lands counts as passed (log entry 47).  The counter's 32-bit fraction, which
R47 does not name, becomes 0: the model's choice (log entry 81).  SERVO_SEEN tells of the current
epoch (R47). -/
def tbSet (w : Word) (s : State) : State :=
  if flag s 0x11C 2 then bump s 0x218 else
  let s1 := wrReg s 0x118 w
  let v := val64 s1 0x114 0x118
  if v < s1.clk.tb then s1 else
  let s2 := if v / epochNs = epochOf s1 then s1 else setFlag s1 0x11C 0 false
  { s2 with clk := { s2.clk with tb := v, frac := 0 }, sch := { s2.sch with lastSlot := v / slotNs, lastEpoch := v / epochNs } }

/-- GLB_TB_SET. -/
def execGlbTbSet (t : Time) (ag : Agent) (w : Word) (s : State) : Res := .next (onWrite (advance s t) ag 0x118 (tbSet w))

/-! ## The image (R458 to R462) -/

/-- Bytes of a copy. -/
def copyRead (s : State) (b : Bool) (o n : Nat) : List Byte := mgets flashDefault s.boot.flash (copyBase b + o) n

/-- A record of an image (R459): TYPE, VERSION, CRITICAL, INSTANCE, payload. -/
structure ImgRec where
  type : Nat
  ver : Nat
  critical : Bool
  inst : Nat
  body : List Byte
  deriving DecidableEq, Repr

/-- The records of an image of length `len`, `n` of them from offset `off` on; none where a CRC fails or they do not fill the copy exactly. -/
def imgRecords (get : Nat → Nat → List Byte) (len : Nat) : Nat → Nat → Option (List ImgRec)
  | 0, off => if off = len then some [] else none
  | n + 1, off =>
    let h := get off 16
    let l := le h 4 4
    let stop := off + 16 + (l + 15) / 16 * 16
    if len < stop then none
    else
      let body := get (off + 16) l
      if crc32c (h.take 12 ++ body) ≠ le h 12 4 then none
      else (imgRecords get len n stop).map (fun r => ⟨le h 0 2, le h 2 1 % 16, (le h 3 1).testBit 0, le h 8 2, body⟩ :: r)

/-- A record that the module accepts (R461). -/
def recKnown (r : ImgRec) : Bool := decide (1 ≤ r.type) && decide (r.type ≤ 8) && decide (r.ver = 1)

/-- The records accepted, of one type. -/
def recsOf (l : List ImgRec) (type : Nat) : List ImgRec := l.filter (fun r => recKnown r && decide (r.type = type))

/-- Entries of LOCK_SET's layout (R461): register offset and value. -/
def entriesIn (b : List Byte) : Nat → List (Nat × Word)
  | 0 => []
  | n + 1 => (le b 0 4, BitVec.ofNat 32 (le b 4 4)) :: entriesIn (b.drop 8) n

/-- The entries of the LOCK_SET records, in record order and entry order. -/
def lockEntries (l : List ImgRec) : List (Nat × Word) := ((recsOf l 3).map (fun r => entriesIn r.body (r.body.length / 8))).flatten

/-- A register of the HUT block. -/
def isHutReg (off : Nat) : Bool := decide (0x20000 ≤ off) && decide (off ≤ 0x20813)

/-- An entry names a register with an RWL field, outside the HUT block (R461). -/
def lockOk (e : Nat × Word) : Bool := decide (maskOf .rwl e.1 ≠ 0) && !isHutReg e.1

/-- The occurrences and entries of R461 hold. -/
def recsOk (l : List ImgRec) : Bool :=
  let n := fun t => (recsOf l t).length
  l.all (fun r => recKnown r || !r.critical) && decide (n 1 = 1) && decide (n 2 = 1) && decide (1 ≤ n 3) && decide (n 4 = 1) && decide (n 5 ≤ 8)
    && decide (n 6 ≤ 2) && decide (n 7 = 1) && decide (n 8 ≤ 1) && decide (((recsOf l 7).map (fun r => r.body.length / 80)).sum ≤ 32)
    && (lockEntries l).all lockOk

/-- The header is valid (check 1 of R462); `max` is the room the copy has. -/
def hdrOk (h : List Byte) (max : Nat) : Bool :=
  decide (h.take 4 = [0x42, 0x52, 0x4B, 0x49]) && decide (le h 4 1 % 16 = 1) && decide (le h 8 4 % 16 = 0) && decide (64 ≤ le h 8 4)
    && decide (le h 8 4 + 256 ≤ max) && decide (crc32c (h.take 0x3C) = le h 0x3C 4)

/-- A signature block (R460) that signs `msg` under a key: r and s at their places. -/
def blockSigns (key msg blk : List Byte) : Bool := ecdsaOk key msg (beVal ((blk.drop 0x64).take 48)) (beVal ((blk.drop 0x94).take 48))

/-- The FIRMWARE payload ends with a block of R460's layout that names Pyrmor's key and signs what lies before it (R461). -/
def firmwareSigned (b : List Byte) : Bool :=
  let blk := b.drop (b.length - 256)
  decide (256 ≤ b.length) && decide (blk.take 97 = Config.romKey) && blockSigns Config.romKey (b.take (b.length - 256)) blk

/-- The checks of R462 in their order: the code of the first that fails, or 0. -/
def imgCheck (s : State) (get : Nat → Nat → List Byte) (max : Nat) : Nat :=
  let h := get 0 64
  if ¬ hdrOk h max then 0x0A01
  else
    let len := le h 8 4
    let slot := le h 5 1 % 4
    if s.boot.revoked.contains slot ∨ sha384 (get len 97) ≠ Config.fusedKey slot then 0x0A02
    else if ¬ blockSigns (get len 97) (get 0 len) (get len 256) then 0x0A03
    else if le h 6 1 < fld s 0x30004 16 7 then 0x0A04
    else match imgRecords get len (le h 12 2) 64 with
      | none => 0x0A05
      | some l =>
        if ¬ recsOk l then 0x0A05
        else if (recsOf l 1).all (fun r => firmwareSigned r.body) && (recsOf l 2).all (fun r => Config.hutchSigned r.body) then 0
        else 0x0A03

/-- Channel B copies an entry for HARD_POS_MIN or HARD_POS_MAX of an axis into its own copy of the configuration, unless a STANDBY has kept it (R400,
R406, R478; that the copy comes from LOCK_SET: log entry 97). -/
def copyHard (s : State) (e : Nat × Word) : State :=
  if ¬ s.boot.kept ∧ 0x381000 ≤ e.1 ∧ e.1 < 0x382000 ∧ (e.1 % 0x40 = 0x24 ∨ e.1 % 0x40 = 0x28)
  then { s with hut := { s.hut with copyB := tset s.hut.copyB e.1 e.2 } } else s

/-- A LOCK_SET entry writes the RWL fields of its register (R461); fields kept through STANDBY are not written again, and those of GLB_TB_SET
lock with LOCKED (R466). -/
def lockEntry (s0 : State) (e : Nat × Word) : State :=
  let s := copyHard s0 e
  if s.boot.kept && isBurReg e.1 then s
  else if (e.1 = 0x114 ∨ e.1 = 0x118) ∧ flag s 0x11C 2 then s
  else if e.1 = 0x118 then tbSet e.2 s
  else wrReg s e.1 (mergeWord (maskOf .rwl e.1) (rd s e.1) e.2)

/-- The HUTCH record gives the RWL fields of the HUT block, and channel B its own copy of them (R432); the record's own layout is not in the spec,
so its values come with the command. -/
def hutEntry (s : State) (e : Nat × Word) : State :=
  if s.boot.kept ∨ ¬ isHutReg e.1 then s else
  let v := mergeWord (maskOf .rwl e.1) (rd s e.1) e.2
  wrReg { s with hut := { s.hut with copyB := tset s.hut.copyB e.1 v } } e.1 v

/-- What the SRAM of channel A, and of channel B, holds at most (R400). -/
def sramA : Nat := 0x180000
def sramB : Nat := 0x80000
/-- The SRAM of the control complex (R184). -/
def sramCc : Nat := 0x400000

/-- Both channels are given the HUTCH record, and channel B the golden signatures in it, unless a STANDBY has kept theirs (R400, R415, R456, R478).  The
spec does not say which bytes of the record go to which channel: each holds what its SRAM has room for (log entry 95). -/
def hutLoad (r : ImageRecs) (body : List Byte) (s : State) : State :=
  if s.boot.kept then s else
  let s1 := r.hut.foldl hutEntry s
  { s1 with hut := { s1.hut with
    sigsB := (r.coreSig, r.footSig), chA := { s1.hut.chA with sram := body.take sramA }, chB := { s1.hut.chB with sram := body.take sramB } } }

/-- The entries of the model table, 80 bytes each (R464). -/
def modelsIn (b : List Byte) : Nat → List (List Byte)
  | 0 => []
  | n + 1 => b.take 80 :: modelsIn (b.drop 80) n

/-- A copy is accepted at boot: its identity is reported, LOCK_SET applied, the firmware started, the Hutch given its record (R456, R461, R462). -/
def acceptCopy (b : Bool) (x : ImageRecs) (s : State) : State :=
  let h := copyRead s b 0 64
  match imgRecords (copyRead s b) (le h 8 4) (le h 12 2) 64 with
  | none => s
  | some l =>
    let s1 := setFld (setFlag s 0x30000 26 b) 0x30004 0 7 (le h 6 1)
    let s2 := wrReg (wrReg s1 0x30008 (BitVec.ofNat 32 (le h 0x10 4))) 0x3000C (BitVec.ofNat 32 (le h 0x14 4))
    let s3 := bumpBy s2 0x30014 (l.filter (fun r => !recKnown r)).length
    let s4 := hutLoad x (((recsOf l 2).map ImgRec.body).flatten) ((lockEntries l).foldl lockEntry s3)
    setPhase 2 { s4 with
      boot := { s4.boot with
      fw := true, sram := (((recsOf l 1).map ImgRec.body).flatten).take sramCc, advance := (recsOf l 8).any (fun r => (le r.body 0 1).testBit 0), payloads := (recsOf l 5).map ImgRec.body,
      models := ((recsOf l 7).map (fun r => modelsIn r.body (r.body.length / 80))).flatten } }

/-- DRAM is zeroed where boot owes it; scratchpad windows are no DRAM (R456). -/
def zeroDram (s : State) : State :=
  if s.boot.zero then { s with mem := s.mem.filter (fun c => decide (spadBase ≤ c.1)), boot := { s.boot with zero := false } } else s

/-- Both copies are rejected at boot: FAIL; DRAM is trained and the lock taken with every RWL field as it stands (R462, R463). -/
def failBoot (s : State) : State :=
  let s1 := zeroDram { s with boot := { s.boot with trained := true } }
  setPhase 15 (setFlag (bootErr 0x0A0B s1) 0x30000 27 true)

/-- The copy to be checked next: A, then B; after a management reset the copy that COPY names, then the other (R462, R476). -/
def nextCopy (s : State) : Option Bool := match s.boot.mgmt with
  | b :: _ => some b
  | [] => if phase s = 1 then some (flag s 0x30000 25) else none

/-! ## Policy modules (R467, R468) -/

/-- Windows of a module's header: base, length, WR. -/
def winsIn (b : List Byte) : Nat → List (Nat × Nat × Bool)
  | 0 => []
  | n + 1 => (le b 0 4, le b 4 3, (le b 7 1).testBit 0) :: winsIn (b.drop 8) n

/-- A window with WR may not meet the HUT, BOOT and HIF blocks and GLB offsets 0x100 to 0x2FF (R468). -/
def winOk (w : Nat × Nat × Bool) : Bool :=
  !w.2.2 || ([(0x20000, 0x814), (0x30000, 0x180), (0x480000, 0xC00), (0x100, 0x200)].all (fun r => !meets (w.1, w.2.1) r))

/-- The module that a payload holds. -/
def modOf (i : Nat) (b : List Byte) : PolMod :=
  { idx := i, wins := winsIn (b.drop 0x10) (min 16 (le b 6 1)), budget := le b 8 4, calls := le b 7 1 % 8, aborts := 0, last := 0, served := false }

/-- A fault of a policy module is counted and recorded. -/
def polFault (s : State) : State := bootErr 0x0A0C (bump s 0x30018)

/-- Load one module, or count it. -/
def loadModule (s : State) (e : Nat × List Byte) : State :=
  let m := modOf e.1 e.2
  if (fld s 0x23C 16 16).testBit (le e.2 5 1 % 16) && decide (le e.2 4 1 % 16 = 1) && m.wins.all winOk
  then { s with boot := { s.boot with mods := s.boot.mods ++ [m] } } else polFault s

/-- A copy is accepted after a management reset: the firmware and the policy modules start anew, with what POLICY says; LOCK_SET and HUTCH are not
applied again, and no entry of POLICY is staged (R476, R478). -/
def restartCopy (b : Bool) (x : ImageRecs) (s : State) : State :=
  let h := copyRead s b 0 64
  match imgRecords (copyRead s b) (le h 8 4) (le h 12 2) 64 with
  | none => s
  | some l =>
    let ps := (recsOf l 5).map ImgRec.body
    let s1 := setFlag { s with boot := { s.boot with
      mgmt := [], fw := true, sram := (((recsOf l 1).map ImgRec.body).flatten).take sramCc, payloads := ps, pol := x.pol, mods := [] } } 0x30000 26 b
    ((rangeFrom 0 ps.length).map (fun i => (i, nth [] ps i))).foldl loadModule s1

/-- IMAGE_CHECK: the next copy is read and checked; `x` is what its records hold in layouts that the spec does not give. -/
def execImageCheck (t : Time) (x : ImageRecs) (s0 : State) : Res :=
  let s := advance s0 t
  .next (match nextCopy s with
    | none => s
    | some b =>
      let code := imgCheck s (copyRead s b) 0x1000000
      let rej := bootErr code (setFlag s 0x30000 (if b then 24 else 25) true)
      match s.boot.mgmt with
      | _ :: rest =>
        if code = 0 then restartCopy b x s
        else
          let r : State := { rej with boot := { rej.boot with mgmt := rest } }
          if rest.isEmpty then setPhase 15 (bootErr 0x0A0B r) else r
      | [] =>
        if code = 0 then acceptCopy b x s
        else if b then failBoot rej else rej)

/-! ## Phases (R456) -/

/-- BOOT_ROM_PHASE: fuses and the parameter table are read; `ok` is whether the device offers 8D-8D-8D. -/
def execBootRomPhase (t : Time) (ok : Bool) (s0 : State) : Res :=
  let s := advance s0 t
  .next (if ¬ (railsUp s && !s.boot.resetN && decide (phase s = 0)) then s else if ok then setPhase 1 s else bootErr 0x0A06 s)

/-- MEMORY_TRAINING: the controllers train every channel and zero DRAM where they must; the Wardrobe initialises its metadata (R456). -/
def execMemoryTraining (t : Time) (ok : Bool) (s0 : State) : Res :=
  let s := advance s0 t
  .next (if phase s ≠ 2 ∨ s.boot.trained then s
    else if ¬ ok then bootErr 0x0A07 s
    else kvInit (zeroDram { s with boot := { s.boot with trained := true } }))

/-! ## Model images (R464, R465) -/

/-- MODEL_STATUS of an entry. -/
def modelReg (i : Nat) : Nat := 0x30100 + 4 * i
/-- The entry has been dealt with. -/
def modelDone (s : State) (i : Nat) : Bool := decide (fld s (modelReg i) 30 2 ≠ 0)
/-- The entry is in error. -/
def modelBad (s : State) (i : Nat) : Bool := decide (fld s (modelReg i) 30 2 = 2)
/-- Partition of a model table entry. -/
def modelPart (m : List Byte) : Nat := le m 0 1 % 16

/-- The entry to load next: the lowest ORDER, ties by position. -/
def nextModel (s : State) : Option Nat :=
  ((rangeFrom 0 s.boot.models.length).filter (fun i => !modelDone s i)).foldl (fun b i => match b with
    | none => some i
    | some j => if le (nth [] s.boot.models i) 2 1 < le (nth [] s.boot.models j) 2 1 then some i else some j) none

/-- A range lies inside a window with WR of a partition. -/
def inWindow (s : State) (p a n : Nat) : Bool := (rangeFrom 0 8).any (fun w =>
  let r := winRange s p w
  winWr s p w && decide (r.1 ≤ a) && decide (a + n ≤ r.1 + r.2))

/-- Record the end of a load; a partition with a model in error is not enabled: one that was is reset and leaves service, and no commit enables it
(R465, log entry 91). -/
def modelEnd (i p code : Nat) (s : State) : State :=
  let s1 := wrReg s (modelReg i) (BitVec.ofNat 32 ((if code = 0 then 1 else 2) * 2 ^ 30 + p * 2 ^ 16 + code))
  if code = 0 then s1 else
  let s2 := noteEvent (.model (Fin.ofNat 32 i)) code 0 s1
  if partEn s2 p then partReset (setFlag s2 (partOff p) 31 false) p else s2

/-- MODEL_LOAD: the next model image in order; `err` is a read error that three retries did not mend.  What such an error leaves in the range is
free.  The chapter does not say how an entry of a VERSION other than 1 is handled: it is not copied, and its partition has a model in error with
IMG_RECORD (R473, log entry 92). -/
def execModelLoad (t : Time) (i : Fin 32) (err : Bool) (s0 : State) : Res :=
  let s := advance s0 t
  .next (if ¬ ((phase s = 3 ∨ phase s = 4) ∧ nextModel s = some i.val) then s else
    let s1 := setPhase 4 s
    let m := nth [] s.boot.models i
    let p := modelPart m
    let len := le m 0x10 8
    let dest := le m 0x18 6
    if le m 1 1 % 16 ≠ 1 then modelEnd i p 0x0A05 s1
    else if ¬ inWindow s1 p dest len then modelEnd i p 0x0A0A s1
    else if err then modelEnd i p 0x0A08 (freeBytes s1 dest len)
    else
      let data := mgets 0 s1.boot.emmc (le m 8 8) len
      modelEnd i p (if sha384 data = (m.drop 0x20).take 48 then 0 else 0x0A09) (wrMem s1 dest data))

/-- A model in error keeps the module out of SERVICE where its partition is of class S or A (R465). -/
def modelsStop (s : State) : Bool := (rangeFrom 0 s.boot.models.length).any (fun i =>
  !modelDone s i || (modelBad s i && partDet s (modelPart (nth [] s.boot.models i))))

/-- START has cleared where an enabled port has axes (R456). -/
def startGone (s : State) : Bool := !s.sio.start || (rangeFrom 0 2).all (fun m => !ringsOn s m || (portAxes s m).isEmpty)

/-- An entry of POLICY for a register, as the last that names it gives it. -/
def polEntry (s : State) (off : Nat) : Option Word :=
  ((s.boot.pol.entries.filter (fun e => decide (canonOff e.1 = off))).getLast?).map Prod.snd

/-- The class-A partitions that the image enables: an entry of POLICY sets EN with that class (R456, R461). -/
def imageParts (s : State) : List Nat := (rangeFrom 0 16).filter (fun p => match polEntry s (partOff p) with
  | none => false
  | some w => w.getLsbD 31 && decide (w.toNat % 4 = 1))

/-- The image contexts of a partition that entries of POLICY admit. -/
def imageCtxs (s : State) (p : Nat) : List (Nat × Nat) :=
  ((rangeFrom 0 64).filter (fun n => match polEntry s (ctxReg p n 8) with | none => false | some w => decide (w.toNat % 4 = 1))).map (fun n => (p, n))

/-- Every class-A partition that the image enables is in service, with its image contexts RESIDENT: those that entries of POLICY admit, and those
that the vendor parameters in it name, `more`, whose layout the spec does not give (R456). -/
def imageReady (s : State) (more : List (Nat × Nat)) : Bool :=
  (imageParts s).all (fun p => partEn s p && decide (partClass s p = 1))
    && (((imageParts s).map (imageCtxs s)).flatten ++ more).all (fun e => decide ((ctxOf s e.1 e.2).st = .resident))

/-- BOOT_SERVICE: `ctxs` are the image contexts that vendor parameters of the POLICY record name; MODELS ends at once where no model is left to load, an
empty table included (R456, R463). -/
def execBootService (t : Time) (ctxs : List (Nat × Nat)) (s0 : State) : Res :=
  let s := advance s0 t
  .next (if ¬ ((phase s = 3 ∨ phase s = 4) ∧ supervising s = true ∧ startGone s = true ∧ ¬ modelsStop s
      ∧ imageReady s ctxs = true) then s else
    let s1 := setPhase 5 (wrReg (setPhase 4 s) 0x30010 (BitVec.ofNat 32 ((s.clk.tb - s.boot.from_) / 1000000)))
    let svn := fld s1 0x30004 0 7
    if s1.boot.advance && decide (fld s1 0x30004 16 7 < svn) then setFld s1 0x30004 16 7 (min 64 svn) else s1)

/-! ## Resets (R475 to R478) -/

/-- A module reset, by the bit of its cause (R475, R478). -/
def moduleReset (cause : Nat) (s : State) : State :=
  let up := railsUp s
  let s1 := clearMain false up s
  let s2 : State := { s1 with
    sio := Sio.reset, hut := Hut.reset,
    bur := { s1.bur with latched := false, standby := false, tripPin := false, request := none, gated := [], holds := [], breach := [] },
    boot := { s1.boot with from_ := s.clk.tb } }
  let s3 := setFlag s2 0x204 cause true
  let s4 := if s.bur.standby then setFlag s3 0x204 5 true else s3
  burShow (setFld s4 0x10000 30 2 0)

/-- A management or Hutch watchdog reset, by the bit of its cause and its counter (R476, R478). -/
def mgmtReset (cause ctr : Nat) (s : State) : State :=
  let s1 := (rangeFrom 0 8).foldl (fun s m => setFld (setFlag s (0x480140 + 0x80 * m) 30 false) (0x480140 + 0x80 * m) 16 8 5) (abortImage s)
  let b := flag s 0x30000 26
  let s2 : State := { s1 with
    regs := s1.regs.filter (fun e => decide (e.1 < 0x4C0000 ∨ 0x4C012B < e.1 ∨ e.1 % 0x100 = 0x28)),
    pend := [], clk := { s1.clk with hold := 0, holdAt := 0 },
    svc := { s1.svc with queue := [], ctrs := [], wdog := epochOf s1 }, hut := { s1.hut with kickEpoch := none },
    boot := { s1.boot with mgmt := [b, !b], fw := false, sram := [], mods := [] } }
  bump (setFlag (wrReg s2 0x208 0) 0x204 cause true) ctr

/-- A write to GLB_RESET: nothing without the key; MODULE goes before MGMT (R475, R480). -/
def resetWrite (w : Word) (s : State) : State :=
  if w.toNat / 2 ^ 24 ≠ 0xA5 then s
  else if w.getLsbD 2 then moduleReset 2 s
  else if w.getLsbD 1 then mgmtReset 3 0x21C s
  else s

/-- MODULE_RESET: a write of GLB_RESET. -/
def execModuleReset (t : Time) (ag : Agent) (w : Word) (s : State) : Res := .next (onWrite (advance s t) ag 0x200 (resetWrite w))

/-- MANAGEMENT_RESET: a write of GLB_RESET. -/
def execManagementReset (t : Time) (ag : Agent) (w : Word) (s : State) : Res := .next (onWrite (advance s t) ag 0x200 (resetWrite w))

/-- RESET_N rises: EXTEST acts as BYPASS from now on (R512). -/
def leaveExtest (s : State) : State :=
  if s.svc.ir = .extest then { s with svc := { s.svc with ir := .bypass, dr := [false] } } else s

/-- RESET_N_ASSERT: RESET_N has been low for `ns`, and is still low where `held` says so (R475, R510): at least 1 µs resets the module, below 100 ns
nothing happens, and in between either. -/
def execResetNAssert (t : Time) (ns : Nat) (held : Bool) (s0 : State) : Res :=
  let s := advance s0 t
  let d := draw s
  let go := decide (1000 ≤ ns) || (decide (100 ≤ ns) && d.1.getLsbD 0)
  .next (if ¬ s.bur.vaon then s
    else if s.boot.resetN then
      let s1 : State := { s with boot := { s.boot with resetN := held, from_ := s.clk.tb }, svc := { s.svc with wdog := epochOf s } }
      if held then s1 else leaveExtest s1
    else if ¬ go then (if ns < 100 then s else d.2)
    else
      let s1 := moduleReset 1 d.2
      { s1 with boot := { s1.boot with resetN := held } })

/-- WATCHDOG_EXPIRE: WDOG_EPOCHS epochs without a KICK, or 2 000 epochs without the first one after a reset (R425, R477). -/
def execWatchdogExpire (t : Time) (s0 : State) : Res :=
  let s := advance s0 t
  let due := match s.hut.kickEpoch with
    | some k => decide (k + max 1 (fld s 0x20004 24 8) < epochOf s)
    | none => decide (s.svc.wdog + 2000 ≤ epochOf s)
  .next (if due && railsUp s && !s.boot.resetN && decide (phase s ≠ 15) then mgmtReset 4 0x220 (hutEvent 0x060D 0 s) else s)

/-! ## Recovery (R463) -/

/-- A write of BOOT_RECOV: ignored outside FAIL; GO checks the image at DRAM address 0, and one that is accepted is written to both copies. -/
def recovWrite (w : Word) (s : State) : State :=
  if phase s ≠ 15 then s else
  let n := w.toNat % 2 ^ 25
  let s1 := wrReg s 0x30020 (BitVec.ofNat 32 n)
  if ¬ w.getLsbD 31 then s1 else
  let code := imgCheck s1 (fun o k => rdMem s1 o k) (min n 0x1000000)
  if code ≠ 0 then bootErr code s1
  else
    let img := rdMem s1 0 (min n 0x1000000)
    moduleReset 2 { s1 with boot := { s1.boot with flash := msets flashDefault (msets flashDefault s1.boot.flash 0 img) 0x1000000 img } }

/-- BOOT_RECOV_GO. -/
def execBootRecovGo (t : Time) (ag : Agent) (w : Word) (s : State) : Res := .next (onWrite (advance s t) ag 0x30020 (recovWrite w))

/-! ## Commit groups (R471, R472) -/

/-- A register of the CL group. -/
def isClReg (off : Nat) : Bool :=
  decide (0x100000 ≤ off) && decide (off < 0x200000) && (decide (off % 0x1000 = 0x44) || decide (off % 0x1000 = 0x81C))

/-- The registers of a commit group, by its hold bit (R471). -/
def groupHas (i off : Nat) : Bool := match i with
  | 0 => isSchReg off
  | 1 => isBurReg off
  | 2 => isIngReg off
  | 3 => isMotReg off
  | 4 => isClReg off
  | 8 => isDpoReg 0 off
  | 9 => isDpoReg 1 off
  | 10 => isDpoReg 2 off
  | 11 => isDpoReg 3 off
  | _ => false

/-- Discard the pending values of the groups that a mask names. -/
def discardGroups (mask : Nat) (s : State) : State :=
  { s with pend := s.pend.filter (fun e => !(bitsSet mask 12).any (fun i => groupHas i e.1)) }

/-- COMMIT_DISCARD: a write of GLB_COMMIT_DISCARD. -/
def execCommitDiscard (t : Time) (ag : Agent) (w : Word) (s : State) : Res :=
  .next (onWrite (advance s t) ag 0x20C (discardGroups w.toNat))

/-- A write of GLB_COMMIT_HOLD: the value before it counts at a boundary of the same instant (R472). -/
def holdWrite (w : Word) (s : State) : State :=
  let s1 : State := if s.clk.holdAt = s.clk.tb then s else { s with clk := { s.clk with hold := rd s 0x208, holdAt := s.clk.tb } }
  wrReg s1 0x208 (w &&& 0xF1F)

/-! ## Versions (R473, R474) -/

/-- A write of GLB_VER_HOST. -/
def verWrite (w : Word) (s : State) : State :=
  let s1 := wrReg s 0x240 (w &&& 0xFFFF)
  let v := commonVer (w.toNat % 2 ^ 16) (fld s1 0x238 16 16)
  let s2 := setFld s1 0x244 0 4 v
  if v = 0 then bootErr 0x0A0D s2 else s2

/-- VER_HOST_WRITE. -/
def execVerHostWrite (t : Time) (ag : Agent) (w : Word) (s : State) : Res := .next (onWrite (advance s t) ag 0x240 (verWrite w))

end Sys2Proof.Machine
end

