-- ==== Sys2Proof/Machine/View.lean ====
section
/-!
DEFINITION. Machine/View.lean: what a read of a register returns (R12, R46, R95, R485 to R487): the fields that other state
holds, staged values, write-only fields, and the latched upper halves.
-/
namespace Sys2Proof.Machine
open Sys2Proof

/-- A one-bit value. -/
def bit01 (b : Bool) : Nat := if b then 1 else 0

/-- A field in its place. -/
def at' (lo v : Nat) : Nat := v * 2 ^ lo

/-- A value in place of a register's word. -/
def asWord (v : Nat) : Word := BitVec.ofNat 32 v

/-- Bits gathered from a predicate over the first `n` numbers. -/
def bitsOf (n : Nat) (p : Nat → Bool) : Nat := ((rangeFrom 0 n).map (fun i => if p i then 2 ^ i else 0)).foldl (· + ·) 0

/-- Bits [31:0], or with `hi` bits [63:32], of a value. -/
def half (hi : Bool) (v : Nat) : Word := asWord (if hi then v / 2 ^ 32 else v)

/-! ## GLB (R46, R480) -/

/-- A register of the group has a staged value that differs from its committed value. -/
def groupPend (s : State) (i : Nat) : Bool := s.pend.any (fun e => groupHas i e.1 && (match stagedNow s e.1 with
  | none => false
  | some w => decide ((w &&& maskOf .rwc e.1) ≠ (rd s e.1 &&& maskOf .rwc e.1))))

/-- GLB. -/
def viewGlb (s : State) (off : Nat) : Word := match off with
  | 0x100 => half false s.clk.tb
  | 0x104 => half true s.clk.tb
  | 0x108 => half false (epochOf s)
  | 0x10C => half true (epochOf s)
  | 0x210 => asWord (bitsOf 12 (groupPend s))
  | _ => rd s off

/-! ## BUR (R454, R455) -/

/-- Rail i, 4 to 11, reports power good: rail 6 with the standby input, the others once their step of R437 is complete. -/
def railGood (s : State) (i : Nat) : Bool :=
  if i = 6 then s.bur.vaon && s.bur.railsRead else (rangeFrom 1 s.bur.seq).any (fun k => (stepRails k).contains i)

/-- GATE of a cluster; while the main rails are down it reads as at reset (R455, log entry 96). -/
def gateOf (s : State) (c : Nat) : Nat :=
  if ¬ railsUp s then 0 else if s.bur.gated.contains c then 2 else if (rangeFrom (16 * c) 16).any (fun l => !(coreOf s l).on) then 1 else 0

/-- BUR. -/
def viewBur (s : State) (off : Nat) : Word :=
  if 0x10140 ≤ off ∧ off < 0x10160 then putField (rd s off) 31 1 (bit01 (railGood s ((off - 0x10140) / 4 + 4)))
  else if 0x10200 ≤ off ∧ off < 0x10300 ∧ off % 16 = 8 then putField (rd s off) 0 2 (gateOf s ((off - 0x10200) / 16))
  else rd s off

/-! ## HUT (R432) -/

/-- UNSUP_NS, the interruption in progress included. -/
def unsupNs (s : State) : Nat := val64 s 0x2006C 0x20070 + (match s.hut.unsupFrom with | none => 0 | some f => s.clk.tb - f)

/-- HUT. -/
def viewHut (s : State) (off : Nat) : Word :=
  let z := (off - 0x20100) / 0x20
  if off = 0x2006C then half false (unsupNs s)
  else if off = 0x20070 then half true (unsupNs s)
  else if 0x20100 ≤ off ∧ off < 0x20300 ∧ off % 0x20 = 0x10 then
    asWord (at' 1 (bit01 (hutInvalid s z)) + bit01 (match (hzoneOf s z).chk with | none => false | some x => x.2.1))
  else if 0x20400 ≤ off ∧ off < 0x20420 then asWord (bitsOf 32 (fun j => (goldOf s (8 * (off - 0x20400) + j)).unv))
  else if off = 0x20420 then asWord (at' 16 (bit01 (goldOf s 288).unv) + bitsOf 16 (fun c => (goldOf s (256 + c)).unv))
  else rd s off

/-! ## SCH (R279 to R281, R298) -/

/-- STATE of a context. -/
def ctxStNo : CtxSt → Nat
  | .free => 0
  | .admitted => 1
  | .resident => 2
  | .faulted => 3

/-- SCH_CTX_STATUS. -/
def ctxWord (s : State) (p n : Nat) : Word :=
  let c := ctxOf s p n
  asWord (at' 16 (c.fault % 2 ^ 16) + at' 7 (bit01 c.stopPend) + at' 3 (le c.hdr 0x16 1 % 16) + ctxStNo c.st)

/-- CORES and HANDOVER of a partition. -/
def coresWord (s : State) (p : Nat) : Word :=
  let own := coresOf s p
  asWord (at' 16 (own.filter (fun l => (tget? s.sch.handover l).isSome)).length + (own.filter (fun l => !coreUnavail s l)).length)

/-- A first job of the partition is held for T (R295). -/
def launchPend (s : State) (p : Nat) : Bool := s.ctxs.any (fun e => decide (e.1 / 64 = p) && e.2.first && decide (e.2.launch ≠ 0) && decide (e.2.st ≠ .free))

/-- SCH. -/
def viewSch (s : State) (off : Nat) : Word :=
  if off = 0x40000 then putField (rd s off) 8 1 (bit01 (!flag s 0x400000 0))
  else if 0x41000 ≤ off ∧ off < 0x42000 ∧ off % 0x100 = 0x34 then coresWord s ((off - 0x41000) / 0x100)
  else if 0x43000 ≤ off ∧ off < 0x43200 ∧ off % 0x20 = 0x10 then asWord (bit01 (launchPend s ((off - 0x43000) / 0x20)))
  else if 0x44000 ≤ off ∧ off < 0x48000 ∧ off % 0x10 = 0xC then ctxWord s ((off - 0x44000) / 0x400) ((off - 0x44000) % 0x400 / 0x10)
  else rd s off

/-! ## SHC and DMA (R216, R217) -/

/-- STATE of a work counter. -/
def wctrNo : WctrSt → Nat
  | .idle => 0
  | .active => 1
  | .poisoned => 2

/-- A register of a work counter. -/
def wctrWord (w : Wctr) (o : Nat) : Word := match o with
  | 0 => asWord (at' 30 (wctrNo w.st) + w.parts % 256)
  | 4 => asWord w.tag
  | 8 => asWord (at' 16 (w.limit % 2 ^ 16) + w.next % 2 ^ 16)
  | _ => asWord (at' 16 (w.dup % 2 ^ 16) + w.done % 2 ^ 16)

/-- SHC. -/
def viewShc (s : State) (off : Nat) : Word :=
  if off = 0x68000 then asWord (at' 31 (bit01 s.inval.isSome))
  else if off % 0x800 < 0x400 then rd s off
  else wctrWord (wctrOf s (64 * ((off - 0x60000) / 0x800) + (off % 0x800 - 0x400) / 16)) (off % 16)

/-- DMA. -/
def viewDma (s : State) (off : Nat) : Word :=
  let e := (off - 0x80000) / 0x100
  if off % 0x100 = 0 then
    asWord (at' 16 (((rangeFrom 0 4).map (fun v => (queueOf s e v).length)).sum % 256) + bitsOf 4 (fun v => !(queueOf s e v).isEmpty))
  else rd s off

/-! ## TC (R94, R96, R215) -/

/-- STATE of a core: OFF, IDLE, RUN, WAIT, FAULT while a context is torn down, UNAVAILABLE. -/
def coreStNo (s : State) (l : Nat) : Nat :=
  let co := coreOf s l
  let dying := co.slots.any (fun e => (ctxOf s e.2.part e.2.ctx).dying.isSome)
  if coreUnavail s l then 5
  else if ¬ co.on then 0
  else if dying then 4
  else if co.slots.isEmpty || (flag s (tcOff l + 0xC) 0 && co.slots.all (fun e => e.2.flight.isEmpty)) then 1
  else if (ringOf s l).isSome then 2
  else 3

/-- TC_STATUS. -/
def coreWord (s : State) (l : Nat) : Word :=
  let own := tget 0 s.sch.owner l
  let run := ((ringOf s l).getD ((coreOf s l).ring.getD 0)) % 8
  asWord (at' 16 ((own - 1) % 16) + at' 15 (bit01 (decide (own ≠ 0))) + at' 12 run + at' 8 (coreStNo s l)
    + bitsOf 8 (fun k => (slotOf s l k).isSome))

/-- TC_ID. -/
def idWord (s : State) (l : Nat) : Word :=
  asWord (at' 20 (l / 16) + at' 8 (if coreUnavail s l then 0x1FF else physKey s l) + l)

/-- A register of slot `k` of a core. -/
def slotWord (s : State) (l k o : Nat) : Word := match slotOf s l k with
  | none => 0
  | some c => match o with
    | 0x00 => asWord (at' 31 1 + at' 30 (bit01 c.det) + at' 4 (c.ctx % 64) + c.part % 16)
    | 0x04 => half false c.steps
    | 0x08 => half true c.steps
    | 0x0C => half false (stallNow s l c)
    | 0x10 => half true (stallNow s l c)
    | 0x14 => asWord (at' 16 (c.scaleLen % 2048) + c.scaleBase % 1024)
    | 0x18 => asWord (c.tabMask % 16)
    | 0x1C => asWord (at' 8 (c.saveTiles % 64) + c.saveDrawer % 256)
    | _ => 0

/-- BOUNDn or PMASKn of slot `k`. -/
def boundWord (s : State) (l k n : Nat) : Word := match slotOf s l k with
  | none => if n < 16 then 0 else 0xFFFFFFFF
  | some c => if n < 16 then nth 0 c.bounds n else nth 0xFFFFFFFF c.pmasks (n - 16)

/-- STATE of a bank. -/
def bankNo : BankSt → Nat
  | .on => 0
  | .closing => 1
  | .gated => 2
  | .waking => 3

/-- FS_STATE of a cluster; the Footstool is BUSY with golden input too. -/
def footNo (s : State) (c : Nat) : Nat := if (clOf s c).unavail then 2 else if (clOf s c).cur.isSome || fsGolden s c then 1 else 0

/-- A register of the window of a logical core. -/
def viewTc (s : State) (off : Nat) : Word :=
  let l := (off - 0x100000) / 0x1000
  let o := off % 0x1000
  let co := coreOf s l
  if 0x100 ≤ o ∧ o < 0x300 then slotWord s l ((o - 0x100) / 0x40) (o % 0x40)
  else if 0x300 ≤ o ∧ o < 0x700 then boundWord s l ((o - 0x300) / 0x80) (o % 0x80 / 4)
  else match o with
    | 0x000 => idWord s l
    | 0x004 => coreWord s l
    | 0x018 => asWord (bitsOf 32 (fun a => match tget? co.acc a with | none => false | some x => decide (x.st = .live ∨ x.st = .draining)))
    | 0x040 => asWord (((rangeFrom 0 16).map (fun b => at' (2 * b) (bankNo (bankOf s l b)))).foldl (· + ·) 0)
    | 0x044 => putField (rd s off) 16 9 (freeDrawers s l).length
    | 0x050 => asWord (physOf s (physKey s l)).spares
    | 0x088 => putField (rd s off) 1 1 (bit01 (match slotOf s l (fld s off 8 3) with | none => false | some c => c.hit))
    | 0x054 => putField (rd s off) 0 6 (tget 32 (physOf s (physKey s l)).left (fld s off 16 4))
    | 0x820 => asWord (footNo s (l / 16))
    | 0x824 => half false (clOf s (l / 16)).fsSteps
    | 0x828 => half true (clOf s (l / 16)).fsSteps
    | _ => rd s off

/-! ## MEM (R218) -/

/-- MEM_TOP, and TRAINED of each controller. -/
def viewMem (s : State) (off : Nat) : Word :=
  if off = 0x400004 then asWord (memTop64 s)
  else if 0x401000 ≤ off ∧ off < 0x401600 ∧ off % 0x100 = 0 then asWord (if s.boot.trained then 0xF else 0)
  else rd s off

/-! ## ING, VDC, MOT, SIO, HIF -/

/-- ING: HELD of a notice ring. -/
def viewIng (s : State) (off : Nat) : Word :=
  if 0x200C00 ≤ off ∧ off < 0x200E00 ∧ off % 0x20 = 0x14 then asWord (nringOf s ((off - 0x200C00) / 0x20)).slots.length else rd s off

/-- STATE of a stream. -/
def strmNo : StrSt → Nat
  | .off => 0
  | .resync => 1
  | .run => 2
  | .ending => 3

/-- VDC (R336). -/
def viewVdc (s : State) (off : Nat) : Word :=
  if off = 0x28000C then asWord (poolFree s)
  else if 0x280100 ≤ off ∧ off < 0x280300 ∧ off % 0x10 = 0 then
    let e := (off - 0x280100) / 0x10
    asWord (at' 24 (s.ing.strms.filter (fun x => decide (x.2.st ≠ .off) && decide (x.2.engine = e))).length + engRate s e / 1000000)
  else if 0x281000 ≤ off ∧ off % 0x40 = 0 then
    let x := strmOf s ((off - 0x281000) / 0x40)
    putField (putField (rd s off) 29 3 (strmNo x.st)) 24 5 x.engine
  else rd s off

/-- The axis-valid bit of an axis in the last frame (R398). -/
def axisSent (s : State) (a : Nat) : Bool := (nth 0 (mportOf s (axisPort s a)).sent (a / 8)).getLsbD (a % 8)

/-- MOT (R398). -/
def viewMot (s : State) (off : Nat) : Word :=
  if off = 0x380028 then half false (s.mot.dcBase.getD 0)
  else if off = 0x38002C then half true (s.mot.dcBase.getD 0)
  else if 0x381000 ≤ off ∧ off % 0x40 = 0x34 then putField (rd s off) 0 1 (bit01 (axisSent s ((off - 0x381000) / 0x40)))
  else rd s off

/-- SIO (R399). -/
def viewSio (s : State) (off : Nat) : Word :=
  let i := off % 0x100 / 0x10
  if off < 0x390100 ∧ off % 0x10 = 8 then
    asWord (at' 4 (bit01 (sinFault s i)) + at' 3 (bit01 (sinDemand s i)) + at' 1 (bit01 (sinLevel s i .b)) + bit01 (sinLevel s i .a))
  else if 0x390100 ≤ off ∧ off < 0x390200 ∧ off % 0x10 = 8 then
    asWord (at' 3 (bit01 (flag s off 3)) + at' 2 (bit01 (outOn s i .a && outOn s i .b)) + at' 1 (bit01 (readback s i .b)) + bit01 (readback s i .a))
  else if 0x390200 ≤ off ∧ off < 0x390300 ∧ off % 0x10 = 0 then
    putField (putField (rd s off) 31 1 (bit01 (grpTripped s i))) 30 1 (bit01 (resetItem1 s i))
  else rd s off

/-- HIF: the MSI-X table and the pending bits (R496). -/
def viewHif (s : State) (off : Nat) : Word :=
  if 0x480800 ≤ off ∧ off < 0x480900 then msixWord s ((off - 0x480800) / 4)
  else if off = 0x480A00 then asWord s.hif.pba
  else rd s off

/-! ## Reads -/

/-- The committed word of a register, with every status field as it stands. -/
def viewWord (s : State) (off : Nat) : Word := match blockOf off with
  | none => 0
  | some b => match b with
    | 0 => viewGlb s off
    | 1 => viewBur s off
    | 2 => viewHut s off
    | 4 => viewSch s off
    | 6 => viewShc s off
    | 7 => viewDma s off
    | 8 => viewTc s off
    | 9 => viewIng s off
    | 10 => viewVdc s off
    | 12 => viewMot s off
    | 13 => viewSio s off
    | 14 => viewMem s off
    | 15 => viewHif s off
    | _ => rd s off

/-- RWC fields read their pending value (R12); write-only fields read zero. -/
def plainRead (s : State) (off : Nat) : Word :=
  let w := viewWord s off
  let v := match stagedNow s off with | none => w | some x => mergeWord (maskOf .rwc (canonOff off)) w x
  v &&& ~~~(maskOf .wo (canonOff off))

/-- The low register of a latching pair: a read of it latches the register four bytes above (R46, R95 and those that cite them). -/
def latchLow (off : Nat) : Bool :=
  let o := off % 0x1000
  off == 0x100 || off == 0x108 || off == 0x2006C || off == 0x200818 || off == 0x380020 || off == 0x380028
    || (decide (0x41000 ≤ off) && decide (off < 0x42000) && decide (off % 0x100 = 0x8C))
    || (decide (0x80000 ≤ off) && decide (off < 0x81600) && decide (off % 0x100 = 8))
    || (decide (0x100000 ≤ off) && decide (off < 0x200000)
      && (o == 0x824 || (decide (0x100 ≤ o) && decide (o < 0x300) && (o % 0x40 == 4 || o % 0x40 == 0xC))))
    || (decide (0x300000 ≤ off) && decide (off < 0x340000) && (off % 0x10000 == 0x34 || off % 0x10000 == 0x3C))
    || (decide (0x401000 ≤ off) && decide (off < 0x401600) && decide (off % 0x100 = 0x10))

/-- The key of a latch: the pair and the agent (R486). -/
def latchKey (ag : Agent) (lo : Nat) : Nat := 2 * canonOff lo + (match ag with | .host => 0 | .control => 1)

/-- What an aligned read of one word returns (R485, R487): zero where no register is. -/
def readReg (s : State) (ag : Agent) (off : Nat) : Word :=
  if 4 ≤ off ∧ latchLow (off - 4) then tget 0 s.clk.latch (latchKey ag (off - 4)) else plainRead s off

/-- The effect of a read: the latch of a pair; an unassigned offset is counted (R487).  A read of the event or of a cause answers the
alert of R513. -/
def readEffect (ag : Agent) (off : Nat) (s : State) : State :=
  if (blockOf off).isNone then bump s 0x480010
  else if latchLow off then { s with clk := { s.clk with latch := tset s.clk.latch (latchKey ag off) (plainRead s (off + 4)) } }
  else if off = 0x20000 then { s with svc := { s.svc with seenEvt := s.hut.log.head? } }
  else if 0x390200 ≤ off ∧ off < 0x390280 ∧ off % 0x10 = 0 then
    { s with svc := { s.svc with seenTrip := tset s.svc.seenTrip ((off - 0x390200) / 0x10) (fld s off 0 16) } }
  else s

/-- SMB_ALERT_N is low: an event of the Hutch or a trip has not been read since (R513). -/
def smbAlert (s : State) : Bool :=
  decide (s.hut.log.head? ≠ s.svc.seenEvt) || (rangeFrom 0 8).any (fun g => decide (tget 0 s.svc.seenTrip g ≠ fld s (grpReg g 0) 0 16))

/-- The bytes of a word that a read asks for (R485). -/
def askedBytes (be : Nat) (w : Word) : List Byte := ((rangeFrom 0 4).filter be.testBit).map (fun i => BitVec.ofNat 8 (w.toNat / 2 ^ (8 * i)))

/-- LATCHING_READ: a read of an aligned word of the register space, or of bytes of it, by the host or by the control complex (R46, R485 to R487). -/
def execLatchingRead (t : Time) (ag : Agent) (r : BusRead) (s0 : State) : Res :=
  let s := advance s0 t
  let o := r.off / 4 * 4
  match ag with
  | .host => .next (if ¬ (pcieUp s && lockTaken s) then s else answer (.data (askedBytes r.be (readReg s .host o))) (readEffect .host o s))
  | .control => let s1 := readEffect .control o s; .next { s1 with svc := { s1.svc with word := readReg s .control o &&& laneMask r.be } }

end Sys2Proof.Machine
end

