-- ==== Sys2Proof/Machine/Bus.lean ====
section
/-!
DEFINITION. Machine/Bus.lean: what a write of a register does (R12 to R14, R485, R487), handing a message to a mailbox (R490), the
lock (R466) and the calls of policy modules (R467 to R470).
-/
namespace Sys2Proof.Machine
open Sys2Proof

/-! ## Mailboxes, host side (R490) -/

/-- A register of a mailbox. -/
def mboxReg (m o : Nat) : Nat := 0x480100 + 0x80 * m + o

/-- OWNER of a mailbox is MODULE. -/
def mboxOwned (s : State) (m : Nat) : Bool := flag s (mboxReg m 0x40) 30

/-- The 64 bytes of a mailbox. -/
def mboxData (s : State) (m : Nat) : List Byte := ((rangeFrom 0 16).map (fun k => leBytes 4 (rd s (mboxReg m (4 * k))).toNat)).flatten

/-- A write of GO = 1: OWNER becomes MODULE and the message waits its turn (R490).  A mailbox that the module owns holds its one message. -/
def mailboxGo (m : Nat) (w : Word) (s : State) : State :=
  if ¬ w.getLsbD 31 ∨ mboxOwned s m then s else
  let s1 := setFlag s (mboxReg m 0x40) 30 true
  { s1 with svc := { s1.svc with queue := s1.svc.queue ++ [(m, mboxData s m, false)] } }

/-- MAILBOX_GO: a write of the control word of mailbox `m`. -/
def execMailboxGo (t : Time) (ag : Agent) (m : Fin 8) (w : Word) (s : State) : Res :=
  .next (onWrite (advance s t) ag (mboxReg m 0x40) (mailboxGo m w))

/-- A write of MB_DATA; one of the host while the module owns the mailbox is ignored and counted. -/
def mboxWrite (ag : Agent) (off : Nat) (w : Word) (s : State) : State :=
  let m := (off - 0x480100) / 0x80
  if mboxOwned s m && decide (ag = .host) then bump s (mboxReg m 0x44) else wrReg s off w

/-! ## Writes by access code (R12) -/

/-- Locked RWL bits of a register (R12, R466): all once the lock is taken; those of the BUR and HUT blocks that a STANDBY has kept since a lock
stay locked (R14, R478). -/
def lockedMask (s : State) (c : Nat) : Word :=
  if lockTaken s || (s.boot.held && (isBurReg c || isHutReg c)) then maskOf .rwl c else 0

/-- A write acts on each field by its access code: RW and unlocked RWL fields take it, W1C bits clear, RWC fields are staged, and a locked
RWL field ignores it, which is counted once per write. -/
def plainWrite (off : Nat) (w : Word) (s : State) : State :=
  let c := canonOff off
  let s1 := if lockedMask s c = 0 then s else bump s 0x218
  let m := maskOf .rw c ||| (maskOf .rwl c &&& ~~~(lockedMask s c))
  let v := mergeWord m (rd s1 c) w &&& ~~~(w &&& maskOf .w1c c)
  let s2 := if m ||| maskOf .w1c c = 0 then s1 else wrReg s1 c v
  if maskOf .rwc c = 0 then s2 else stage s2 c w

/-! ## Registers whose write does more -/

/-- GLB. -/
def writeGlb (off : Nat) (w : Word) (s : State) : State := match off with
  | 0x110 => writeAdj s (sx 32 w.toNat)
  | 0x114 => if flag s 0x11C 2 then bump s 0x218 else wrReg s 0x114 w
  | 0x118 => tbSet w s
  | 0x200 => resetWrite w s
  | 0x208 => holdWrite w s
  | 0x20C => discardGroups w.toNat s
  | 0x240 => verWrite w s
  | _ => plainWrite off w s

/-- A write of PIN_PEAK sets it to 0 (R453); STANDBY requests (R450). -/
def writeBur (off : Nat) (w : Word) (s : State) : State := match off with
  | 0x10004 => standbyWrite w s
  | 0x1000C => setFld s 0x1000C 16 16 0
  | _ => plainWrite off w s

/-- TC_CTRL, CL_RETIRE_REQ and the step break (R94, R96, R90, R293). -/
def writeTc (off : Nat) (w : Word) (s : State) : State :=
  let l := (off - 0x100000) / 0x1000
  match off % 0x1000 with
  | 0x00C => if w.getLsbD 31 then coreReset (plainWrite off w s) l else plainWrite off w s
  | 0x088 => if w.getLsbD 31 then brkResume l (plainWrite off w s) else plainWrite off w s
  | 0x818 => retireReq (l / 16) w s
  | _ => plainWrite off w s

/-- SHC: CLEAR of a work counter, SHC_INV (R200, R216). -/
def writeShc (off : Nat) (w : Word) (s : State) : State :=
  if off = 0x68000 then shcInv s (w.toNat % 16)
  else if 0x400 ≤ off % 0x800 ∧ off % 16 = 0 ∧ w.getLsbD 29 then wctrClear (64 * ((off - 0x60000) / 0x800) + (off % 0x800 - 0x400) / 16) s
  else plainWrite off w s

/-- VDC: the frame counter of a stream takes a write only while the stream is OFF; any write of the lowest slack resets it (R336, R51). -/
def writeVdc (off : Nat) (w : Word) (s : State) : State :=
  if 0x281000 ≤ off ∧ off % 0x40 = 4 then (if (strmOf s ((off - 0x281000) / 0x40)).st = .off then plainWrite off w s else s)
  else if 0x281000 ≤ off ∧ off % 0x40 = 8 then wrReg s off 0x7FFFFFFF
  else plainWrite off w s

/-- DPO: training, AUX, the lowest slack (R362, R363, R51). -/
def writeDpo (off : Nat) (w : Word) (s : State) : State :=
  let d := (off - 0x300000) / 0x10000
  match off % 0x10000 with
  | 0x00C => if w.getLsbD 31 then dpoTrain d s else s
  | 0x048 => wrReg s off 0x7FFFFFFF
  | 0x0C0 => if w.getLsbD 31 then auxGo d w s else if flag s (dpoReg d 0xC4) 31 then s else plainWrite off w s
  | _ => plainWrite off w s

/-- HIF: the read window, rings, mailboxes and the MSI-X table (R490, R496, R502, R503). -/
def writeHif (ag : Agent) (off : Nat) (w : Word) (s : State) : State :=
  let m := (off - 0x480100) / 0x80
  let r := (off - 0x480500) / 0x40
  if off = 0x480028 then memrdStart w s
  else if 0x480100 ≤ off ∧ off < 0x480500 then
    (if off % 0x80 < 0x40 then mboxWrite ag off w s else if off % 0x80 = 0x40 then mailboxGo m w s else s)
  else if 0x480500 ≤ off ∧ off < 0x480600 ∧ off % 0x40 = 8 then trWrite r w s
  else if 0x480800 ≤ off ∧ off < 0x480900 then msixWrite ((off - 0x480800) / 4) w s
  else plainWrite off w s

/-- HUT: only the safety mailbox is written; before the lock a write of another register is ignored, as it is after it (R426, R432). -/
def writeHut (off : Nat) (w : Word) (s : State) : State :=
  if off = 0x20810 then (if w.getLsbD 31 then mbSend s else s)
  else if 0x20800 ≤ off ∨ lockTaken s then plainWrite off w s
  else s

/-- A write of a whole word that reaches its register. -/
def writeWord (ag : Agent) (off : Nat) (w : Word) (s : State) : State := match blockOf off with
  | none => bump s 0x480010
  | some b => match b with
    | 0 => writeGlb off w s
    | 1 => writeBur off w s
    | 2 => writeHut off w s
    | 3 => if off = 0x30020 then recovWrite w s else plainWrite off w s
    | 4 => if off = 0x40010 then tokSignal w s else plainWrite off w s
    | 6 => writeShc off w s
    | 8 => writeTc off w s
    | 10 => writeVdc off w s
    | 11 => writeDpo off w s
    | 12 => if off = mpReg 0 0x1C ∨ off = mpReg 1 0x1C then wrReg s off 0x7FFFFFFF else plainWrite off w s
    | 13 => if off = 0x390300 then sioReset s w else plainWrite off w s
    | 15 => writeHif ag off w s
    | _ => plainWrite off w s

/-- A write of an aligned word by an agent (R485, R487): one with partial byte enables is ignored and counted. -/
def busWrite (s : State) (ag : Agent) (off be : Nat) (w : Word) : State :=
  if be % 16 ≠ 15 then onWrite s ag 0x480000 (fun s => bump s 0x480014)
  else if (blockOf off).isNone then onWrite s ag off (fun s => bump s 0x480010)
  else onWrite s ag off (writeWord ag off w)

/-- REGISTER_WRITE. -/
def execRegisterWrite (t : Time) (ag : Agent) (off : Nat) (be : Fin 16) (w : Word) (s : State) : Res :=
  .next (busWrite (advance s t) ag (off / 4 * 4) be w)

/-! ## The lock (R466) -/

/-- Stage an entry of the POLICY record: the RWC fields of its register (R461, R466). -/
def stageEntry (s : State) (e : Nat × Word) : State :=
  let c := canonOff e.1
  if maskOf .rwc c = 0 then s else stage s c (mergeWord (maskOf .rwc c) ((stagedNow s c).getD (rd s c)) e.2)

/-- BOOT_LOCK: the lock is taken, PHASE becomes LOCKED, the entries of POLICY are staged and the policy modules loaded (R456, R466). -/
def execBootLock (t : Time) (pol : Policy) (s0 : State) : Res :=
  let s := advance s0 t
  .next (if ¬ (phase s = 2 ∧ s.boot.trained = true ∧ lockTaken s = false) then s else
    let s1 := setPhase 3 (setFlag s 0x30000 27 true)
    let s2 := pol.entries.foldl stageEntry { s1 with boot := { s1.boot with pol := pol, mods := [] } }
    ((rangeFrom 0 s2.boot.payloads.length).map (fun i => (i, nth [] s2.boot.payloads i))).foldl loadModule s2)

/-! ## Calls (R469, R470) -/

/-- A window of the module covers the word, for a write one with WR. -/
def inWins (m : PolMod) (wr : Bool) (off : Nat) : Bool :=
  m.wins.any (fun w => decide (w.1 ≤ off) && decide (off + 4 ≤ w.1 + w.2.1) && (!wr || w.2.2))

/-- The commit groups that the module's WR windows touch, as a mask. -/
def modGroups (m : PolMod) : Nat :=
  bitsOf 12 (fun i => m.wins.any (fun w => w.2.2 && (rangeFrom 0 (w.2.1 / 4)).any (fun k => groupHas i (w.1 / 4 * 4 + 4 * k))))

/-- A write of `w` asks for the admission of a job of class S or D: CMD of a context register (R470). -/
def asksAdmit (s : State) (off : Nat) (w : Word) : Bool :=
  decide (0x44000 ≤ off) && decide (off < 0x48000) && decide (off % 0x10 = 8) && decide (w.toNat % 4 = 1)
    && decide (partClass s ((off - 0x44000) / 0x400) % 2 = 0)

/-- A module's write: a module requests admissions, which the firmware stages for it; a job of class S or D that fails R49 it refuses (R470). -/
def modWrite (off : Nat) (w : Word) (fits : Bool) (s : State) : State :=
  if asksAdmit s off w && !fits then s else busWrite s .control off 15 w

/-- The accesses of a call in order, up to the first outside its windows; whether all were inside. -/
def modRun (m : PolMod) : List ModAccess → State → Bool × State
  | [], s => (true, s)
  | .read off :: r, s => if inWins m false off then modRun m r (readEffect .control off s) else (false, s)
  | .write off w fits :: r, s => if inWins m true off then modRun m r (modWrite off w fits s) else (false, s)

/-- Number of a kind of call in CALLBACKS. -/
def callBit : CallKind → Nat
  | .epoch => 0
  | .event _ => 1
  | .service => 2

/-- An event is there to be told: its condition holds, or its field holds a code; for a stream's change and any other event the sender answers, and how
often one event is told is not tested (R469, log entry 93). -/
def eventRaised (s : State) : FwEvent → Bool
  | .hot => flag s 0x10000 1
  | .floorBreach => flag s 0x10000 4
  | .fault src => decide ((eventOf s src).2.2.1 ≠ 0)
  | _ => true

/-- A loaded module may be called now: EPOCH once per epoch, after the commits of its boundary; EVENT for an event; SERVICE once when SERVICE is
reached; none after three aborts (R469). -/
def mayCall (s : State) (m : PolMod) (kind : CallKind) : Bool :=
  s.boot.fw && m.calls.testBit (callBit kind) && decide (m.aborts < 3) && (match kind with
    | .epoch => decide (m.last < epochOf s + 1) && decide (s.sch.lastEpoch = epochOf s)
    | .event e => eventRaised s e
    | .service => decide (phase s = 5) && !m.served)

/-- POLICY_CALLBACK: module `j` is called; it makes the accesses `acc` and runs for `us` µs.  The holds of the groups that its WR windows touch are set before
the call and clear after it; an aborted call loses their pending values (R469). -/
def execPolicyCallback (t : Time) (j : Nat) (kind : CallKind) (acc : List ModAccess) (us : Nat) (s0 : State) : Res :=
  let s := advance s0 t
  .next (match s.boot.mods[j]? with
    | none => s
    | some m =>
      if ¬ mayCall s m kind then s else
      let g := modGroups m
      let x := modRun m acc (holdWrite (rd s 0x208 ||| asWord g) s)
      let bad := !x.1 || decide (m.budget < us)
      let s1 := if bad then discardGroups g (polFault x.2) else x.2
      let m1 := { m with
        last := if kind = .epoch then epochOf s + 1 else m.last, served := m.served || decide (kind = .service), aborts := m.aborts + bit01 bad }
      holdWrite (rd s1 0x208 &&& ~~~(asWord g)) { s1 with boot := { s1.boot with mods := setNth s1.boot.mods j m1 } })

end Sys2Proof.Machine
end

