-- ==== Sys2Proof/Machine/Manage.lean ====
section
/-!
DEFINITION. Machine/Manage.lean: the management commands of the resident firmware, over the mailboxes, Ethernet and the SMBus
(R490 to R492, R513), the USB VBUS switch (R505) and the JTAG port (R512).
-/
namespace Sys2Proof.Machine
open Sys2Proof

/-! ## The commands of R491 -/

/-- What carrying out a message answers: RESULT, the reply's payload, whether a reply is sent, and the state. -/
structure Reply where
  result : Nat
  body : List Byte
  sent : Bool
  st : State

/-- A reply without a payload. -/
def plainReply (r : Nat) (s : State) : Reply := ⟨r, [], true, s⟩

/-- CMD of a message. -/
def msgCmd (m : List Byte) : Nat := le m 0 1
/-- A command of the table, in the version accepted. -/
def msgKnown (m : List Byte) : Bool := decide (1 ≤ msgCmd m) && decide (msgCmd m ≤ 8) && decide (le m 1 1 % 16 = 1)
/-- The payload: LEN bytes from byte 8 on. -/
def msgBody (m : List Byte) : List Byte := (m.drop 8).take (min 56 (le m 4 1))

/-- A range lies inside one of the ranges that POLICY lists. -/
def inRanges (l : List (Nat × Nat)) (a n : Nat) : Bool := l.any (fun r => decide (r.1 ≤ a) && decide (a + n ≤ r.1 + r.2))

/-- VERSION. -/
def cmdVersion (s : State) : Reply :=
  ⟨0, ((rangeFrom 0 4).map (fun k => leBytes 4 (readReg s .control (0x230 + 4 * k)).toNat)).flatten, true, s⟩

/-- READ_REG: up to 12 words, the lowest offset first. -/
def cmdReadReg (b : List Byte) (s : State) : Reply :=
  let off := le b 0 4
  let n := le b 4 1
  if b.length < 5 ∨ off % 4 ≠ 0 ∨ n = 0 ∨ 12 < n then plainReply 1 s else
  let x := (rangeFrom 0 n).foldl (fun (x : List Byte × State) k =>
    let s1 := readEffect .control (off + 4 * k) x.2
    (x.1 ++ leBytes 4 (readReg s1 .control (off + 4 * k)).toNat, s1)) ([], s)
  ⟨0, x.1, true, x.2⟩

/-- WRITE_REG: the bits of the mask, inside MGMT_WR; a W1C bit outside the mask is not cleared. -/
def cmdWriteReg (b : List Byte) (s : State) : Reply :=
  let off := le b 0 4
  if b.length < 12 ∨ off % 4 ≠ 0 then plainReply 1 s
  else if ¬ inRanges s.boot.pol.wr off 4 then plainReply 3 s
  else plainReply 0 (busWrite s .control off 15 (mergeWord (asWord (le b 8 4)) (readReg s .control off &&& ~~~(maskOf .w1c (canonOff off))) (asWord (le b 4 4))))

/-- READ_MEM, inside MGMT_MEM. -/
def cmdReadMem (b : List Byte) (s : State) : Reply :=
  let a := le b 0 6
  let n := le b 6 1
  if b.length < 7 ∨ n = 0 ∨ 48 < n then plainReply 1 s
  else if ¬ inRanges s.boot.pol.mem a n then plainReply 3 s
  else ⟨0, rdMem s a n, true, s⟩

/-- WRITE_MEM, inside MGMT_MEM. -/
def cmdWriteMem (b : List Byte) (s : State) : Reply :=
  let a := le b 0 6
  let n := le b 6 1
  if b.length < 7 + n ∨ n = 0 ∨ 40 < n then plainReply 1 s
  else if ¬ inRanges s.boot.pol.mem a n then plainReply 3 s
  else plainReply 0 (wrMem s a ((b.drop 7).take n))

/-- What refuses an IMAGE_WRITE: a bad argument, a source outside MGMT_MEM, another in progress; 0 for nothing. -/
def imageBad (b : List Byte) (s : State) : Nat :=
  let src := le b 1 6
  let len := le b 7 4
  if b.length < 11 ∨ 1 < le b 0 1 ∨ 0x1000000 < len ∨ memTop s < src + len then 1
  else if ¬ inRanges s.boot.pol.mem src len then 3
  else if s.svc.img.isSome then 4
  else 0

/-- IMAGE_WRITE: the copy is written and read back; what a copy holds whose read-back differs is free. -/
def cmdImageWrite (ok : Bool) (b : List Byte) (s : State) : Reply :=
  let src := le b 1 6
  let len := le b 7 4
  if imageBad b s ≠ 0 then plainReply (imageBad b s) s else
  let base := copyBase (decide (le b 0 1 = 1))
  if ok then plainReply 0 { s with boot := { s.boot with flash := msets flashDefault s.boot.flash base (rdMem s src len) } }
  else
    let d := drawBytes len s
    plainReply 6 { d.2 with boot := { d.2.boot with flash := msets flashDefault d.2.boot.flash base d.1 } }

/-- RESET: the reply to a management reset goes before it; a module reset sends none. -/
def cmdReset (b : List Byte) (s : State) : Reply := match le b 0 1 with
  | 1 => plainReply (if s.boot.pol.mayMgmt then 0 else 3) s
  | 2 => if s.boot.pol.mayModule then ⟨0, [], false, s⟩ else plainReply 3 s
  | _ => plainReply 1 s

/-- Carry out a message (R491); `ok` is whether an image reads back as written. -/
def carryOut (m : List Byte) (ok : Bool) (s : State) : Reply :=
  if ¬ msgKnown m then plainReply 2 s
  else if 56 < le m 4 1 then plainReply 1 s
  else
    let b := msgBody m
    match msgCmd m with
    | 1 => cmdVersion s
    | 2 => cmdReadReg b s
    | 3 => cmdWriteReg b s
    | 4 => cmdReadMem b s
    | 5 => cmdWriteMem b s
    | 6 => cmdImageWrite ok b s
    | 7 => cmdReset b s
    | _ => ⟨0, b, true, s⟩

/-- The reset that a RESET message brings once its reply is out. -/
def afterReply (m : List Byte) (r : Reply) (s : State) : State :=
  if ¬ (msgKnown m = true ∧ msgCmd m = 7 ∧ le m 4 1 ≤ 56 ∧ r.result = 0) then s
  else if r.sent then mgmtReset 3 0x21C s
  else moduleReset 2 s

/-- The reply: CMD and SEQ stay, VERSION is 1, LEN and the payload are the reply's; the bytes beyond it stay as the message had them. -/
def replyBytes (m : List Byte) (r : Reply) : List Byte :=
  let c := m.take 64
  let n := r.body.length
  c.take 1 ++ [1] ++ (c.drop 2).take 2 ++ leBytes 1 n ++ [0, 0, 0] ++ r.body ++ (c.drop (8 + n))

/-! ## Over a mailbox (R490) -/

/-- The firmware runs: it has been started and no reset has stopped it. -/
def fwRuns (s : State) : Bool := s.boot.fw && lockTaken s

/-- Put a reply into its mailbox, set RESULT, give the mailbox back, and raise its vector. -/
def mboxReply (m : Nat) (bytes : List Byte) (r : Nat) (s : State) : State :=
  let s1 := (rangeFrom 0 16).foldl (fun s k => wrReg s (mboxReg m (4 * k)) (asWord (le bytes (4 * k) 4))) s
  msi m (setFld (setFlag s1 (mboxReg m 0x40) 30 false) (mboxReg m 0x40) 16 8 r)

/-- The firmware serves the message at the head: that of mailbox `m`, with command `cmd` or one it does not know.  The reply of a message
whose host side was reset is discarded (R484). -/
def mboxServe (cmd m : Nat) (ok : Bool) (s : State) : State := match s.svc.queue with
  | [] => s
  | (k, msg, gone) :: rest =>
    if k ≠ m ∨ ¬ fwRuns s ∨ (msgKnown msg = true ∧ msgCmd msg ≠ cmd) then s else
    let s1 : State := { s with svc := { s.svc with queue := rest } }
    let r := if fld s 0x244 0 4 = 0 then plainReply 2 s1 else carryOut msg ok s1
    let s2 := if r.sent && !gone then mboxReply m (if r.result = 2 then msg else replyBytes msg r) r.result r.st else r.st
    if fld s 0x244 0 4 = 0 then s2 else afterReply msg r s2

/-- MGMT_VERSION. -/
def execMgmtVersion (t : Time) (m : Fin 8) (s : State) : Res := .next (mboxServe 1 m true (advance s t))
/-- MGMT_READ_REG. -/
def execMgmtReadReg (t : Time) (m : Fin 8) (s : State) : Res := .next (mboxServe 2 m true (advance s t))
/-- MGMT_WRITE_REG. -/
def execMgmtWriteReg (t : Time) (m : Fin 8) (s : State) : Res := .next (mboxServe 3 m true (advance s t))
/-- MGMT_READ_MEM. -/
def execMgmtReadMem (t : Time) (m : Fin 8) (s : State) : Res := .next (mboxServe 4 m true (advance s t))
/-- MGMT_WRITE_MEM. -/
def execMgmtWriteMem (t : Time) (m : Fin 8) (s : State) : Res := .next (mboxServe 5 m true (advance s t))
/-- The message at the head is an IMAGE_WRITE of mailbox `m` that may start: it is in progress from now on, and messages behind it are served. -/
def imageStart (m : Nat) (s : State) : Option State := match s.svc.queue with
  | [] => none
  | (k, msg, gone) :: rest =>
    if k = m ∧ fwRuns s = true ∧ fld s 0x244 0 4 ≠ 0 ∧ msgKnown msg = true ∧ msgCmd msg = 6 ∧ le msg 4 1 ≤ 56 ∧ imageBad (msgBody msg) s = 0
    then some { s with svc := { s.svc with queue := rest, img := some (k, msg, gone) } } else none

/-- The IMAGE_WRITE of mailbox `m` in progress ends; its reply goes out as any other. -/
def imageFinish (m : Nat) (same : Bool) (s : State) : State := match s.svc.img with
  | none => s
  | some (k, msg, gone) =>
    if k ≠ m ∨ ¬ fwRuns s then s else
    let r := cmdImageWrite same (msgBody msg) { s with svc := { s.svc with img := none } }
    if gone then r.st else mboxReply m (replyBytes msg r) r.result r.st

/-- MGMT_IMAGE_WRITE: the write starts, is refused, or ends (R491). -/
def execMgmtImageWrite (t : Time) (m : Fin 8) (w : ImageStep) (s0 : State) : Res :=
  let s := advance s0 t
  .next (match w with
    | .start => (imageStart m s).getD (mboxServe 6 m true s)
    | .finish same => imageFinish m same s)
/-- MGMT_RESET. -/
def execMgmtReset (t : Time) (m : Fin 8) (s : State) : Res := .next (mboxServe 7 m true (advance s t))
/-- MGMT_ECHO. -/
def execMgmtEcho (t : Time) (m : Fin 8) (s : State) : Res := .next (mboxServe 8 m true (advance s t))

/-! ## Over Ethernet (R492) -/

/-- The tag over the message and the counter. -/
def dgramTag (s : State) (b : List Byte) : List Byte := hmac384 s.boot.pol.key (b.take 72)

/-- A datagram of `src` for the management service: dropped uncounted for its length, counted where its tag or its counter fails, carried out
otherwise. -/
def serveDatagram (src : Nat) (bytes : List Byte) (ok : Bool) (s : State) : State :=
  let c := le bytes 64 8
  if bytes.length ≠ 120 then s
  else if bytes.drop 72 ≠ dgramTag s bytes ∨ c ≤ tget 0 s.svc.ctrs src then bump s 0x48001C
  else
    let s1 : State := { s with svc := { s.svc with ctrs := tset s.svc.ctrs src c } }
    let msg := bytes.take 64
    let r := carryOut msg ok s1
    let b := (if r.result = 2 then msg else replyBytes msg r) ++ leBytes 8 c
    let s2 : State := if r.sent then { r.st with svc := { r.st.svc with sent := b ++ dgramTag s b } } else r.st
    afterReply msg r s2

/-- The datagram to the MGMT_UDP port that a queued frame of port `p` carries: source address and body. -/
def mgmtUdp (s : State) (p : Nat) (frame : List Byte) : Option (Nat × List Byte) := match carried (ethOf frame) with
  | .udp u => if isCamera s p && ownIp s p u && decide (u.dport = s.boot.pol.udp) then some (u.src, u.body) else none
  | _ => none

/-- The management queue behind the oldest frame of port `p` that carries a datagram of `src` with the body given; the frames before it are for other
services of the firmware, which take them (log entry 50). -/
def afterDatagram (s : State) (p src : Nat) (bytes : List Byte) : Option (List (Nat × List Byte)) :=
  match s.ing.mgmt.dropWhile (fun e => !(decide (e.1 = p) && decide (mgmtUdp s p e.2 = some (src, bytes)))) with
  | [] => none
  | _ :: rest => some rest

/-- MGMT_DATAGRAM: the firmware takes a datagram to its MGMT_UDP port `udp` from the management queue (R301, R492). -/
def execMgmtDatagram (t : Time) (p : Fin 8) (udp src : Nat) (bytes : List Byte) (ok : Bool) (s0 : State) : Res :=
  let s := advance s0 t
  .next (if ¬ fwRuns s ∨ udp ≠ s.boot.pol.udp then s else match afterDatagram s p src bytes with
    | none => s
    | some rest =>
      let i := s.ing
      serveDatagram src bytes ok { s with ing := { i with mgmt := rest } })

/-! ## Over the SMBus (R513) -/

/-- SMBUS_TRANSACTION: a block write of a message and the block read of its reply; a transaction whose error check fails carries nothing. -/
def execSmbusTransaction (t : Time) (msg : List Byte) (pec ok : Bool) (s0 : State) : Res :=
  let s := advance s0 t
  .next (if ¬ fwRuns s ∨ ¬ pec ∨ msg.length ≠ 64 then s
    else
      let r := carryOut msg ok s
      let s2 : State := if r.sent then { r.st with svc := { r.st.svc with smb := if r.result = 2 then msg else replyBytes msg r } } else r.st
      afterReply msg r s2)

/-! ## USB power (R505) -/

/-- USB_OVERCURRENT: USBn_OC_N low removes USBn_VBUSEN. -/
def execUsbOvercurrent (t : Time) (p : Fin 2) (s0 : State) : Res :=
  let s := advance s0 t
  .next { s with svc := { s.svc with vbusOff := tset s.svc.vbusOff p s.clk.tb } }

/-- USB_OVERCURRENT_RETRY: one second later VBUSEN is on again. -/
def execUsbOvercurrentRetry (t : Time) (p : Fin 2) (s0 : State) : Res :=
  let s := advance s0 t
  .next (match tget? s.svc.vbusOff p with
    | none => s
    | some x => if x + 1000000000 ≤ s.clk.tb then { s with svc := { s.svc with vbusOff := tdel s.svc.vbusOff p } } else s)

/-- USBn_VBUSEN. -/
def vbusEn (s : State) (p : Nat) : Bool := (tget? s.svc.vbusOff p).isNone

/-! ## JTAG (R512) -/

/-- The IDCODE word. -/
def jtagId : Nat := at' 28 0xA + at' 12 0x5120 + at' 1 Config.jtagMaker.toNat + 1

/-- JTAG_BYPASS: the one-bit bypass register, which captures 0. -/
def execJtagBypass (t : Time) (s0 : State) : Res :=
  let s := advance s0 t
  .next { s with svc := { s.svc with ir := .bypass, dr := [false] } }

/-- JTAG_IDCODE: bit 0 first. -/
def execJtagIdcode (t : Time) (s0 : State) : Res :=
  let s := advance s0 t
  .next { s with svc := { s.svc with ir := .idcode, dr := (rangeFrom 0 32).map jtagId.testBit } }

/-- JTAG_SAMPLE_PRELOAD: the pins are captured and the cells preloaded. -/
def execJtagSamplePreload (t : Time) (pins pre : List Bool) (s0 : State) : Res :=
  let s := advance s0 t
  .next { s with svc := { s.svc with ir := .sample, dr := pins, cells := pre } }

/-- The pin that JTAG drives at cell `i`: only while EXTEST is in force, and never at an observe-only cell, as those of the safe outputs and the test
pulses are; their places are in the boundary-scan description (R512). -/
def jtagDrives (s : State) (i : Nat) : Option Bool := if s.svc.ir = .extest ∧ Config.observeOnly i = false then s.svc.cells[i]? else none

/-- JTAG_EXTEST: the cells drive the pins and are captured; what an observe-only cell captures is its pin's level, a free value; while RESET_N is high
it acts as BYPASS (R512). -/
def execJtagExtest (t : Time) (s0 : State) : Res :=
  let s := advance s0 t
  .next (if s.boot.resetN then
      let n := s.svc.cells.length
      { s with free := s.free + n, svc := { s.svc with ir := .extest, dr := (rangeFrom 0 n).map (fun i =>
        if Config.observeOnly i then (Config.freeValue (s.free + i)).getLsbD 0 else nth false s.svc.cells i) } }
    else { s with svc := { s.svc with ir := .bypass, dr := [false] } })

end Sys2Proof.Machine
end

