-- ==== Sys2Proof/Machine/Epoch.lean ====
section
/-!
DEFINITION. Machine/Epoch.lean: the epoch boundary: the commit groups in their order, and what else happens there (R19, R472).
-/
namespace Sys2Proof.Machine
open Sys2Proof

/-! ## The CL group (R215, R471) -/

/-- One register of the group: LAND_DRAWERS commits only while no context is resident on its core. -/
def commitCl (b : Time) (s : State) (off : Nat) : State :=
  if off % 0x1000 = 0x44 ∧ ¬ (coreOf s ((off - 0x100000) / 0x1000)).slots.isEmpty then s else commitReg b s off

/-- The CL group. -/
def clCommit (b : Time) (s : State) : State := (stagedOffs s b isClReg).foldl (commitCl b) s

/-! ## The scheduler's group (R253, R271, R277) -/

/-- Steps 1 to 3 of R253, and the partition resets that commit with them. -/
def schSteps (b : Time) (s : State) : State :=
  let l := resetList s b
  l.foldl partReset (schCommit b s)

/-- Cores whose old owner no longer holds anything there pass to the partition that waits, held group or not (R277). -/
def handovers (s : State) : State := (s.sch.handover.map Prod.fst).foldl commitCore s

/-- Step 4 of R253, and SCH_COMMIT_EPOCH. -/
def ctxSteps (e : Nat) (s : State) : State :=
  if (holdWord s (e * epochNs)).getLsbD 0 then s
  else wrReg ((rangeFrom 0 16).foldl (partCommands (e * epochNs)) s) 0x40004 (asWord e)

/-! ## Telemetry (R494) -/

/-- The instance of a register in SOURCE, as for events of its block (R494): logical core, partition × 64 + context, engine, stream, output, motion
port, group; none where the register is of no such instance. -/
def instOf (off : Nat) : Option Nat := match blockOf off with
  | some 4 => if 0x44000 ≤ off ∧ off < 0x48000 then some ((off - 0x44000) / 0x400 * 64 + off % 0x400 / 0x10)
      else if 0x48000 ≤ off ∧ off < 0x50000 then some ((off - 0x48000) / 0x800 * 64 + off % 0x800 / 0x20) else none
  | some 7 => if off < 0x81600 then some ((off - 0x80000) / 0x100) else none
  | some 8 => some ((off - 0x100000) / 0x1000)
  | some 10 => if 0x281000 ≤ off then some ((off - 0x281000) / 0x40) else none
  | some 11 => some ((off - 0x300000) / 0x10000)
  | some 12 => if 0x380100 ≤ off ∧ off < 0x380200 then some ((off - 0x380100) / 0x80) else none
  | some 13 => if 0x390200 ≤ off ∧ off < 0x390280 then some ((off - 0x390200) / 0x10) else none
  | _ => none

/-- One snapshot entry of a ring; an instance that the spec does not state is free. -/
def snapOne (r : Nat) (s : State) (i : Nat) : State :=
  let w := rd s (trReg r (0x20 + 4 * i))
  if ¬ w.getLsbD 31 then s else
  let off := w.toNat % 2 ^ 23 / 4 * 4
  let d := draw s
  record 2 i (at' 24 ((blockOf off).getD 0) + (instOf off).getD (d.1.toNat % 2 ^ 24)) (plainRead s off).toNat d.2 r

/-- The COUNTER records of a boundary. -/
def snapRing (e : Nat) (s : State) (r : Nat) : State :=
  let n := fld s (trReg r 0x14) 0 16
  if n = 0 ∨ e % n ≠ 0 then s else (rangeFrom 0 8).foldl (snapOne r) s

/-! ## The boundary -/

/-- Stand-ins of the boundary: the golden state of the logical core starts afresh (R91), and the status record says so where a class-S engine is
unverified no longer (R427). -/
def standIn (s : State) (c : Nat) : State :=
  let cl := clOf s c
  match cl.prep with
  | none => s
  | some j => if cl.prepOk then (let s1 := spareStand (setGold s (16 * c + j) Gold.reset) c; unvRecord s s1 (.core (Fin.ofNat 256 (16 * c + j)))) else s

/-- The commits of R472 in their order. -/
def commitEpoch (e : Nat) (s : State) : State :=
  let b := e * epochNs
  let s1 := (rangeFrom 0 16).foldl standIn (chargeAll 15 s)
  let s2 := handovers (commitGroup b 0 (schSteps b) s1)
  let s3 := commitGroup b 1 (burCommit b) s2
  let s4 := commitGroup b 2 (ingCommit b) s3
  let s5 := commitGroup b 3 (motCommit b) s4
  let s6 := commitGroup b 4 (clCommit b) s5
  slotStart b 0 (ctxSteps e s6)

/-- What follows the commits. -/
def afterCommits (e : Nat) (s : State) : State :=
  let b := e * epochNs
  let s1 := gateBanks (quietGate (standbyBoundary b s))
  if ¬ railsUp s1 then s1 else
  gangBoundary b (goldenFrames e ((rangeFrom 0 4).foldl (snapRing e) s1))

/-- Epoch boundary number `e`. -/
def epochAt (e : Nat) (s0 : State) : State :=
  let s1 := advance s0 (e * epochNs)
  let s2 : State := { s1 with
    clk := { s1.clk with epochsDone := e }, sch := { s1.sch with lastSlot := 16 * e, lastEpoch := e } }
  let s3 := if railsUp s2 then afterCommits e (commitEpoch e s2) else s2
  updateStart (setFlag s3 0x11C 0 false)

/-- EPOCH_BOUNDARY: the next one. -/
def execEpochBoundary (s : State) : Res := .next (epochAt (s.sch.lastSlot / 16 + 1) s)

end Sys2Proof.Machine
end

