-- ==== Sys2Proof/Machine/Dispatch.lean ====
section
/-!
DEFINITION. Machine/Dispatch.lean: one arm per command, each a direct call of its meaning.
-/
namespace Sys2Proof.Machine
open Sys2Proof

/-- The effect of a command on everything but the queue. -/
def exec (i : Instr) (s : State) : Host.Outcome State Fault Refusal :=
  match i with
  | .epochBoundary => Sys2Proof.Machine.execEpochBoundary s
  | .slotBoundary => Sys2Proof.Machine.execSlotBoundary s
  | .coreStep t l par => Sys2Proof.Machine.execCoreStep t l par s
  | .drainComplete t l a => Sys2Proof.Machine.execDrainComplete t l a s
  | .issueMma t l k => Sys2Proof.Machine.execIssueMma t l k s
  | .issueXpnd t l k => Sys2Proof.Machine.execIssueXpnd t l k s
  | .issueAttn t l k => Sys2Proof.Machine.execIssueAttn t l k s
  | .issueEwise t l k => Sys2Proof.Machine.execIssueEwise t l k s
  | .issuePool t l k => Sys2Proof.Machine.execIssuePool t l k s
  | .issueArgmaxc t l k => Sys2Proof.Machine.execIssueArgmaxc t l k s
  | .issueStat t l k => Sys2Proof.Machine.execIssueStat t l k s
  | .issueScaleEntries t l k => Sys2Proof.Machine.execIssueScaleEntries t l k s
  | .issueScaleTable t l k => Sys2Proof.Machine.execIssueScaleTable t l k s
  | .issueFill t l k => Sys2Proof.Machine.execIssueFill t l k s
  | .issueScopy t l k => Sys2Proof.Machine.execIssueScopy t l k s
  | .issueDma t l k => Sys2Proof.Machine.execIssueDma t l k s
  | .issueKvapp t l k => Sys2Proof.Machine.execIssueKvapp t l k s
  | .syncWait t l k => Sys2Proof.Machine.execSyncWait t l k s
  | .syncSignal t l k => Sys2Proof.Machine.execSyncSignal t l k s
  | .syncBload t l k => Sys2Proof.Machine.execSyncBload t l k s
  | .syncWaitRelease t l k => Sys2Proof.Machine.execSyncWaitRelease t l k s
  | .accSlotGrant t l k => Sys2Proof.Machine.execAccSlotGrant t l k s
  | .instructionHoldRelease t l k => Sys2Proof.Machine.execInstructionHoldRelease t l k s
  | .instructionComplete t l k => Sys2Proof.Machine.execInstructionComplete t l k s
  | .statsPartialArrive t p n rank => Sys2Proof.Machine.execStatsPartialArrive t p n rank s
  | .jobEnd t p n => Sys2Proof.Machine.execJobEnd t p n s
  | .footstoolChunkBoundary t c => Sys2Proof.Machine.execFootstoolChunkBoundary t c s
  | .footstoolRequestComplete t c => Sys2Proof.Machine.execFootstoolRequestComplete t c s
  | .footstoolParityError t c row held => Sys2Proof.Machine.execFootstoolParityError t c row held s
  | .coreRetire t l cause => Sys2Proof.Machine.execCoreRetire t l cause s
  | .clRetireReq t ag l w => Sys2Proof.Machine.execClRetireReq t ag l w s
  | .coreReset t ag l => Sys2Proof.Machine.execCoreReset t ag l s
  | .tcQuiesce t ag l q => Sys2Proof.Machine.execTcQuiesce t ag l q s
  | .creditRequest t l rq => Sys2Proof.Machine.execCreditRequest t l rq s
  | .creditGrant t l => Sys2Proof.Machine.execCreditGrant t l s
  | .writeAck t l tag => Sys2Proof.Machine.execWriteAck t l tag s
  | .landingDrawerConsumed t l d => Sys2Proof.Machine.execLandingDrawerConsumed t l d s
  | .multicastSend t l k src len dests => Sys2Proof.Machine.execMulticastSend t l k src len dests s
  | .haloRowSend t l k src len => Sys2Proof.Machine.execHaloRowSend t l k src len s
  | .promiseCancel t l src mc => Sys2Proof.Machine.execPromiseCancel t l src mc s
  | .shcRead t l k addr err => Sys2Proof.Machine.execShcRead t l k addr err s
  | .shcInv t ag p => Sys2Proof.Machine.execShcInv t ag p s
  | .shcInvDone t => Sys2Proof.Machine.execShcInvDone t s
  | .wctrClaim t l k => Sys2Proof.Machine.execWctrClaim t l k s
  | .wctrCompletion t c k l tag item sat nan => Sys2Proof.Machine.execWctrCompletion t c k l tag item sat nan s
  | .wctrClear t ag c k => Sys2Proof.Machine.execWctrClear t ag c k s
  | .dmaChainAccept t e p n base count => Sys2Proof.Machine.execDmaChainAccept t e p n base count s
  | .dmaDescStart t e vc ix => Sys2Proof.Machine.execDmaDescStart t e vc ix s
  | .dmaDescComplete t e vc ix => Sys2Proof.Machine.execDmaDescComplete t e vc ix s
  | .dmaDescFault t e vc => Sys2Proof.Machine.execDmaDescFault t e vc s
  | .dramReadEcc t addr kind rd => Sys2Proof.Machine.execDramReadEcc t addr kind rd s
  | .patrolScrub t m single double => Sys2Proof.Machine.execPatrolScrub t m single double s
  | .spadParityError t l off rd => Sys2Proof.Machine.execSpadParityError t l off rd s
  | .bankClosingDone t l b => Sys2Proof.Machine.execBankClosingDone t l b s
  | .bankGateAbort t l b => Sys2Proof.Machine.execBankGateAbort t l b s
  | .bankWake t l b wr => Sys2Proof.Machine.execBankWake t l b wr s
  | .bankWakeDone t l b => Sys2Proof.Machine.execBankWakeDone t l b s
  | .kvappComplete t l k => Sys2Proof.Machine.execKvappComplete t l k s
  | .kvCopyOnWrite t l k => Sys2Proof.Machine.execKvCopyOnWrite t l k s
  | .kvPinRelease t l k page => Sys2Proof.Machine.execKvPinRelease t l k page s
  | .kvBatchBoundary t p => Sys2Proof.Machine.execKvBatchBoundary t p s
  | .kvTreeInsert t q blk => Sys2Proof.Machine.execKvTreeInsert t q blk s
  | .kvHotCopy t page c => Sys2Proof.Machine.execKvHotCopy t page c s
  | .partitionReset t p => Sys2Proof.Machine.execPartitionReset t p s
  | .contextTeardown t p n => Sys2Proof.Machine.execContextTeardown t p n s
  | .schTokSignal t ag w => Sys2Proof.Machine.execSchTokSignal t ag w s
  | .genRead t p n addr => Sys2Proof.Machine.execGenRead t p n addr s
  | .genWrite t p n addr => Sys2Proof.Machine.execGenWrite t p n addr s
  | .brkResume t ag l => Sys2Proof.Machine.execBrkResume t ag l s
  | .peerFrame t p src seq crcOk body => Sys2Proof.Machine.execPeerFrame t p src seq crcOk body s
  | .peerTimeExchange t p off origin => Sys2Proof.Machine.execPeerTimeExchange t p off origin s
  | .peerUnreachable t m => Sys2Proof.Machine.execPeerUnreachable t m s
  | .rxFrame t p f => Sys2Proof.Machine.execRxFrame t p f s
  | .ptpSync t m gm logInt => Sys2Proof.Machine.execPtpSync t m gm logInt s
  | .ptpDelayResp t d => Sys2Proof.Machine.execPtpDelayResp t d s
  | .ptpAnnounce t an => Sys2Proof.Machine.execPtpAnnounce t an s
  | .ptpHoldover t => Sys2Proof.Machine.execPtpHoldover t s
  | .gapTimeout t n => Sys2Proof.Machine.execGapTimeout t n s
  | .auIdleTimeout t n => Sys2Proof.Machine.execAuIdleTimeout t n s
  | .auComplete t n => Sys2Proof.Machine.execAuComplete t n s
  | .decodeStart t e => Sys2Proof.Machine.execDecodeStart t e s
  | .decodeComplete t n ctr r => Sys2Proof.Machine.execDecodeComplete t n ctr r s
  | .noticeRelease t p => Sys2Proof.Machine.execNoticeRelease t p s
  | .ethLinkDown t p => Sys2Proof.Machine.execEthLinkDown t p s
  | .dpoFrameBoundary t d bad => Sys2Proof.Machine.execDpoFrameBoundary t d bad s
  | .lineFetch t d src bad => Sys2Proof.Machine.execLineFetch t d src bad s
  | .pixelUnderrun t d x => Sys2Proof.Machine.execPixelUnderrun t d x s
  | .coefLoadComplete t d => Sys2Proof.Machine.execCoefLoadComplete t d s
  | .stripeRelease t d k bad => Sys2Proof.Machine.execStripeRelease t d k bad s
  | .stripeDeadline t d k => Sys2Proof.Machine.execStripeDeadline t d k s
  | .dpoTrain t ag d => Sys2Proof.Machine.execDpoTrain t ag d s
  | .dpoTrainDone t d ok => Sys2Proof.Machine.execDpoTrainDone t d ok s
  | .hpdChange t d up => Sys2Proof.Machine.execHpdChange t d up s
  | .irqHpd t d lost => Sys2Proof.Machine.execIrqHpd t d lost s
  | .auxGo t ag d w => Sys2Proof.Machine.execAuxGo t ag d w s
  | .auxReply t d r => Sys2Proof.Machine.execAuxReply t d r s
  | .usbTouchReport t p bytes => Sys2Proof.Machine.execUsbTouchReport t p bytes s
  | .usbOvercurrent t p => Sys2Proof.Machine.execUsbOvercurrent t p s
  | .emissionPoint t => Sys2Proof.Machine.execEmissionPoint t s
  | .frameSend t x => Sys2Proof.Machine.execFrameSend t x s
  | .frameReturn t m broken x y => Sys2Proof.Machine.execFrameReturn t m broken x y s
  | .frameLossTimeout t m => Sys2Proof.Machine.execFrameLossTimeout t m s
  | .commandSetSignal t m => Sys2Proof.Machine.execCommandSetSignal t m s
  | .latchSet t g code a b => Sys2Proof.Machine.execLatchSet t g code a b s
  | .safeInputDemand t inp ch => Sys2Proof.Machine.execSafeInputDemand t inp ch s
  | .testPulse t out n ch => Sys2Proof.Machine.execTestPulse t out n ch s
  | .testPulseFault t inp ch => Sys2Proof.Machine.execTestPulseFault t inp ch s
  | .discrepancyTimeout t inp => Sys2Proof.Machine.execDiscrepancyTimeout t inp s
  | .outputReadbackFault t o ch => Sys2Proof.Machine.execOutputReadbackFault t o ch s
  | .outputFaultClear t o => Sys2Proof.Machine.execOutputFaultClear t o s
  | .brakeDelayExpire t o => Sys2Proof.Machine.execBrakeDelayExpire t o s
  | .resetButtonRelease t inp => Sys2Proof.Machine.execResetButtonRelease t inp s
  | .sioReset t ag w => Sys2Proof.Machine.execSioReset t ag w s
  | .groupResetGrant t g ok => Sys2Proof.Machine.execGroupResetGrant t g ok s
  | .heartbeat t b => Sys2Proof.Machine.execHeartbeat t b s
  | .heartbeatMiss t ch => Sys2Proof.Machine.execHeartbeatMiss t ch s
  | .channelDecisionMismatch t => Sys2Proof.Machine.execChannelDecisionMismatch t s
  | .channelRestartDone t ch ok => Sys2Proof.Machine.execChannelRestartDone t ch ok s
  | .supervisionStart t => Sys2Proof.Machine.execSupervisionStart t s
  | .timebaseCrosscheck t ch ppm => Sys2Proof.Machine.execTimebaseCrosscheck t ch ppm s
  | .hutchPictureRead t bad => Sys2Proof.Machine.execHutchPictureRead t bad s
  | .checkerResult t z present => Sys2Proof.Machine.execCheckerResult t z present s
  | .zoneReport t m => Sys2Proof.Machine.execZoneReport t m s
  | .zoneCompare t z ctr => Sys2Proof.Machine.execZoneCompare t z ctr s
  | .cmpBudgetExpire t z ctr => Sys2Proof.Machine.execCmpBudgetExpire t z ctr s
  | .zoneAgeExpire t z => Sys2Proof.Machine.execZoneAgeExpire t z s
  | .goldenRunStart t g => Sys2Proof.Machine.execGoldenRunStart t g s
  | .goldenRunAbandon t e => Sys2Proof.Machine.execGoldenRunAbandon t e s
  | .goldenRunComplete t e sig => Sys2Proof.Machine.execGoldenRunComplete t e sig s
  | .goldenFrameEnd t e => Sys2Proof.Machine.execGoldenFrameEnd t e s
  | .checkerGoldenCrop t ok => Sys2Proof.Machine.execCheckerGoldenCrop t ok s
  | .sContextLost t p => Sys2Proof.Machine.execSContextLost t p s
  | .aRestart t p => Sys2Proof.Machine.execARestart t p s
  | .rdyTokSignal t p => Sys2Proof.Machine.execRdyTokSignal t p s
  | .aLimitExpire t p => Sys2Proof.Machine.execALimitExpire t p s
  | .watchdogExpire t => Sys2Proof.Machine.execWatchdogExpire t s
  | .kick t ag => Sys2Proof.Machine.execKick t ag s
  | .stopGroups t ag => Sys2Proof.Machine.execStopGroups t ag s
  | .invalidateZones t ag => Sys2Proof.Machine.execInvalidateZones t ag s
  | .invalidateZonesExpire t => Sys2Proof.Machine.execInvalidateZonesExpire t s
  | .readEvent t ag => Sys2Proof.Machine.execReadEvent t ag s
  | .hutchMailboxReject t ag => Sys2Proof.Machine.execHutchMailboxReject t ag s
  | .proofTest t ch => Sys2Proof.Machine.execProofTest t ch s
  | .powerOn t vin => Sys2Proof.Machine.execPowerOn t vin s
  | .railSequenceStep t ok r status => Sys2Proof.Machine.execRailSequenceStep t ok r status s
  | .powerDown t why => Sys2Proof.Machine.execPowerDown t why s
  | .vinRestore t => Sys2Proof.Machine.execVinRestore t s
  | .sensorSample t vals rates => Sys2Proof.Machine.execSensorSample t vals rates s
  | .ladderStep t => Sys2Proof.Machine.execLadderStep t s
  | .capStep t avg => Sys2Proof.Machine.execCapStep t avg s
  | .holdPeriod t c => Sys2Proof.Machine.execHoldPeriod t c s
  | .corePowerUp t l => Sys2Proof.Machine.execCorePowerUp t l s
  | .standbyRequest t ag w => Sys2Proof.Machine.execStandbyRequest t ag w s
  | .wakeMagicPacket t p => Sys2Proof.Machine.execWakeMagicPacket t p s
  | .wakeAlarm t => Sys2Proof.Machine.execWakeAlarm t s
  | .bootRomPhase t ok => Sys2Proof.Machine.execBootRomPhase t ok s
  | .imageCheck t r => Sys2Proof.Machine.execImageCheck t r s
  | .memoryTraining t ok => Sys2Proof.Machine.execMemoryTraining t ok s
  | .bootLock t pol => Sys2Proof.Machine.execBootLock t pol s
  | .modelLoad t ix err => Sys2Proof.Machine.execModelLoad t ix err s
  | .bootService t ctxs => Sys2Proof.Machine.execBootService t ctxs s
  | .bootRecovGo t ag w => Sys2Proof.Machine.execBootRecovGo t ag w s
  | .policyCallback t j kind acc us => Sys2Proof.Machine.execPolicyCallback t j kind acc us s
  | .resetNAssert t ns held => Sys2Proof.Machine.execResetNAssert t ns held s
  | .moduleReset t ag w => Sys2Proof.Machine.execModuleReset t ag w s
  | .managementReset t ag w => Sys2Proof.Machine.execManagementReset t ag w s
  | .commitDiscard t ag w => Sys2Proof.Machine.execCommitDiscard t ag w s
  | .verHostWrite t ag w => Sys2Proof.Machine.execVerHostWrite t ag w s
  | .glbTbAdjWrite t ag w => Sys2Proof.Machine.execGlbTbAdjWrite t ag w s
  | .glbTbSet t ag w => Sys2Proof.Machine.execGlbTbSet t ag w s
  | .latchingRead t ag r => Sys2Proof.Machine.execLatchingRead t ag r s
  | .registerWrite t ag off be w => Sys2Proof.Machine.execRegisterWrite t ag off be w s
  | .pcieReset t => Sys2Proof.Machine.execPcieReset t s
  | .pcieLinkDown t lost => Sys2Proof.Machine.execPcieLinkDown t lost s
  | .hostDramRead t off len => Sys2Proof.Machine.execHostDramRead t off len s
  | .hostDramWrite t off bytes => Sys2Proof.Machine.execHostDramWrite t off bytes s
  | .mailboxGo t ag m w => Sys2Proof.Machine.execMailboxGo t ag m w s
  | .mgmtVersion t m => Sys2Proof.Machine.execMgmtVersion t m s
  | .mgmtReadReg t m => Sys2Proof.Machine.execMgmtReadReg t m s
  | .mgmtWriteReg t m => Sys2Proof.Machine.execMgmtWriteReg t m s
  | .mgmtReadMem t m => Sys2Proof.Machine.execMgmtReadMem t m s
  | .mgmtWriteMem t m => Sys2Proof.Machine.execMgmtWriteMem t m s
  | .mgmtImageWrite t m w => Sys2Proof.Machine.execMgmtImageWrite t m w s
  | .mgmtReset t m => Sys2Proof.Machine.execMgmtReset t m s
  | .mgmtEcho t m => Sys2Proof.Machine.execMgmtEcho t m s
  | .mgmtDatagram t p udp src bytes ok => Sys2Proof.Machine.execMgmtDatagram t p udp src bytes ok s
  | .smbusTransaction t msg pec ok => Sys2Proof.Machine.execSmbusTransaction t msg pec ok s
  | .telemetryEvent t src m => Sys2Proof.Machine.execTelemetryEvent t src m s
  | .trEnable t ag r w => Sys2Proof.Machine.execTrEnable t ag r w s
  | .memrdStart t ag w => Sys2Proof.Machine.execMemrdStart t ag w s
  | .memrdDone t => Sys2Proof.Machine.execMemrdDone t s
  | .jtagBypass t => Sys2Proof.Machine.execJtagBypass t s
  | .jtagIdcode t => Sys2Proof.Machine.execJtagIdcode t s
  | .jtagSamplePreload t pins pre => Sys2Proof.Machine.execJtagSamplePreload t pins pre s
  | .jtagExtest t => Sys2Proof.Machine.execJtagExtest t s
  | .ethLinkUp t p => Sys2Proof.Machine.execEthLinkUp t p s
  | .motLinkChange t m up => Sys2Proof.Machine.execMotLinkChange t m up s
  | .pcieLinkUp t width speed => Sys2Proof.Machine.execPcieLinkUp t width speed s
  | .pcieConfigRequest t wr off be w => Sys2Proof.Machine.execPcieConfigRequest t wr off be w s
  | .usbConnectChange t p speed map => Sys2Proof.Machine.execUsbConnectChange t p speed map s
  | .usbOvercurrentRetry t p => Sys2Proof.Machine.execUsbOvercurrentRetry t p s
  | .proofTestDone t ch => Sys2Proof.Machine.execProofTestDone t ch s
  | .safeInputDemandEnd t inp ch both => Sys2Proof.Machine.execSafeInputDemandEnd t inp ch both s
  | .vstby3v3Loss t => Sys2Proof.Machine.execVstby3v3Loss t s
  | .scanLineStart t d => Sys2Proof.Machine.execScanLineStart t d s

end Sys2Proof.Machine
end

