-- ==== Sys2Proof/Machine/Tick.lean ====
section
/-!
DEFINITION. Machine/Tick.lean: what passes while no command waits: one clock of the timebase island (chapter 02; log entry 1).
-/
namespace Sys2Proof.Machine
open Sys2Proof

/-- The increment of one clock in units of 2⁻³² ns: 1 ns corrected by GLB_TB_ADJ in parts per billion. -/
def tickInc (s : State) : Nat := ((2 ^ 32 * (1000000000 + sx 32 (rd s 0x110).toNat)) / 1000000000).toNat

/-- One clock of the timebase island; it stands while the standby supply is away. -/
def idle (s : State) : State :=
  if ¬ s.bur.vaon then s else
  let x := s.clk.tb * 2 ^ 32 + s.clk.frac + tickInc s
  { s with clk := { s.clk with tb := x / 2 ^ 32, frac := x % 2 ^ 32 } }

end Sys2Proof.Machine
end

