-- ==== Sys2Proof/Machine/Step.lean ====
section
/-!
DEFINITION. Machine/Step.lean: one step: the command at the front of the queue, or a tick of the timebase.
-/
namespace Sys2Proof.Machine
open Sys2Proof

/-- One step: the first command waiting is carried out with the rest of the queue behind it; on an empty queue the timebase ticks. -/
def step (s : State) : Host.Outcome State Fault Refusal := match s.pending with
  | [] => .next (idle s)
  | c :: r => exec c { s with pending := r }

/-- The state with the command that a word spells at the front of its queue. -/
def State.withFetchWord (s : State) (nbits w : Nat) : State := match decodeTableWord nbits w with
  | none => s
  | some c => { s with pending := c :: s.pending }

end Sys2Proof.Machine
end

