-- ==== Sys2Proof/Safety.lean ====
section
/-!
DEFINITION. Safety.lean: the terms in which the statements speak: the canonical form of the byte memories, stop groups that are tripped,
the conditions under which a command runs, and what the issue of an instruction leaves.
-/
namespace Sys2Proof.Safety
open Sys2Proof Sys2Proof.Machine

/-! ## Invariants -/

/-- The three byte memories that a command can change are in canonical form: device memory, the xSPI device, host memory. -/
def MemoryCanonical (s : State) : Prop :=
  cellsWf memDefault s.mem = true ∧ cellsWf flashDefault s.boot.flash = true ∧ cellsWf 0 s.hif.mem = true

/-- The commands at which the 3.3 V standby supply comes or goes, and with it the timebase (R437, R475). -/
def standbyCommand (c : Instr) : Bool := match c with
  | .powerOn _ _ => true
  | .vstby3v3Loss _ => true
  | _ => false

/-! ## Issue of instructions (R128 to R161) -/

/-- The sixteen commands by which the Trestle issues an instruction, each with the instructions it asks for. -/
def issueCommands (t : Time) (l : Fin 256) (k : Fin 8) : List (Instr × (List Byte → Bool)) :=
  [(.issueMma t l k, isOp 1), (.issueXpnd t l k, isOp 2), (.issueAttn t l k, isOp 3), (.issueEwise t l k, isOp 4),
   (.issuePool t l k, isOp 5), (.issueArgmaxc t l k, isOp 6), (.issueStat t l k, isOp 7),
   (.issueScaleEntries t l k, fun b => isOp 8 b && !bit b 4 0), (.issueScaleTable t l k, fun b => isOp 8 b && bit b 4 0),
   (.issueFill t l k, isOp 9), (.issueScopy t l k, isOp 10), (.issueDma t l k, isOp 11), (.issueKvapp t l k, isOp 12),
   (.syncWait t l k, isSync 0), (.syncSignal t l k, isSync 1), (.syncBload t l k, isSync 2)]

/-- The 64 bytes of the next instruction of a slot, from its instruction buffer, which a burst of 16 fills where it lacks them (R128, R129). -/
def nextBytes (s : State) (sc : SlotCtx) : Option (List Byte) := tget? (fetchInstr s sc).ibuf sc.ip

/-- The state in which the buffer of slot `k` holds its next instruction (R129). -/
def withBurst (s : State) (l k : Nat) (sc : SlotCtx) : State := setSlot s l k (fetchInstr s sc)

/-- The next instruction of a slot, `bs`, has been decoded as `b`, is of the kind asked for, and nothing holds it back (R130, R131); its checks
stand in `b.errs` (R160). -/
structure Decoded (s : State) (l k : Nat) (want : List Byte → Bool) (held : Bool) (sc : SlotCtx) (bs : List Byte) (b : Built) : Prop where
  slot : slotOf s l k = some sc
  may : mayIssue s l sc held = true
  bytes : nextBytes s sc = some bs
  kind : want bs = true
  built : b = buildOf (withBurst s l k sc) l (fetchInstr s sc) bs
  clear : mustHold (withBurst s l k sc) (fetchInstr s sc) bs b = false

/-- The same, every check passes, and the instruction finds the pins and drawers that it takes (R239, R240). -/
structure IssueReady (s : State) (l k : Nat) (want : List Byte → Bool) (held : Bool) (sc : SlotCtx) (bs : List Byte) (b : Built) : Prop
    extends Decoded s l k want held sc bs b where
  checks : b.errs = []
  room : issueRoom (withBurst s l k sc) l k (fetchInstr s sc) b.fl = true

/-- The context after the issue: its pointer is 64 bytes on, the instruction is the newest in flight. -/
def issued (s : State) (sc : SlotCtx) (b : Built) : SlotCtx :=
  { chargeWait s (slotNow s) (fetchInstr s sc) with wait := .none, ip := sc.ip + 64, prev := b.prev, flight := sc.flight ++ [b.fl] }

/-- The state in which a newly issued instruction stands before it does what it does at once: the job has begun, the exchange counter is clear
(R192), and the drawers that were fetched ahead for it are its own (R153). -/
def placed (s : State) (l k : Nat) (sc : SlotCtx) (b : Built) : State :=
  let f := withBurst s l k sc
  let c := ctxOf f sc.part sc.ctx
  let s0 := clearHalo (if c.issued then f else setCtx f sc.part sc.ctx { c with issued := true, jobStart := s.clk.tb }) l k
  setSlot (takePrefetch s0 l k sc.ip b.fl.reads false) l k (issued s sc b)

/-- A fault raised on core `l` in a context that was resident: it is to be torn down, takes no further step there, and the first code is kept (R160). -/
def FaultedOn (s u : State) (p n l code : Nat) : Prop :=
  (ctxOf u p n).dying = some ((ctxOf s p n).dying.getD l) ∧ (ctxOf u p n).halted.contains l = true ∧
    (ctxOf u p n).cause = if (ctxOf s p n).cause = 0 then code else (ctxOf s p n).cause

/-! ## Registers and outputs -/

/-- A write of an agent to a register takes effect: the control complex's outside phase CONFIG, in which the boot ROM writes the fields, and after the
lock; the host's after the lock where the host may write (R466, R487). -/
def writeTakes (s : State) (ag : Agent) (off : Nat) : Prop :=
  (ag = .control ∧ (phase s ≠ 2 ∨ lockTaken s = true)) ∨ (lockTaken s = true ∧ hostMay s off = true)

/-- The fields of the neural stage that say where the release line of stripe `k` lies (R353, R361). -/
def releaseSnap (s : State) (d k : Nat) : Option Snap :=
  if k = 0 then (neuralLayer s d).map (snapNow s d)
  else match (dpoOf s d).selNext, (dpoOf s d).sel with
    | some q, _ => snapOf s d q
    | none, some q => snapOf s d q
    | none, none => none

/-- The slot of stripe `k` has no request under way (R355). -/
def slotFree (s : State) (d k : Nat) (n : Snap) : Bool :=
  match (tget (0, 0, none) (dpoOf s d).slots (k % (nf n 0x88 8 2 + 1))).2.2 with
  | none => true
  | some g => tokReached s (nf n 0x88 24 4) (nf n 0x88 12 6 + k % (nf n 0x88 8 2 + 1)) g

/-! ## Supplies and resets (R403, R475, R476, R478) -/

/-- Both latches of every group are set and every safe output is off (R29, R403). -/
def AllSafe (u : State) : Prop :=
  (∀ g, g < 8 → (grpOf u g).latA.isSome = true ∧ (grpOf u g).latB.isSome = true) ∧ ∀ o, o < 8 → outOn u o .a = false ∧ outOn u o .b = false

/-- The machine as at power-on: nothing counted, stored, booted or powered; the flash keeps its contents, but for
what an IMAGE_WRITE in progress was writing. -/
def FreshlyPowered (s u : State) : Prop :=
  u.clk.tb = 0 ∧ u.mem = [] ∧ u.pend = [] ∧ phase u = 0 ∧ lockTaken u = false ∧ u.bur.seq = 0 ∧ AllSafe u ∧ (s.svc.img = none → u.boot.flash = s.boot.flash)

/-- What every module reset leaves (R475, R478): boot starts again, the safe state holds, the counter goes on. -/
def ModuleWasReset (s : State) (t : Time) (u : State) : Prop :=
  phase u = 0 ∧ lockTaken u = false ∧ u.pend = [] ∧ AllSafe u ∧ u.clk.tb = max s.clk.tb t ∧ u.bur.vaon = s.bur.vaon ∧
    (s.svc.img = none → u.boot.flash = s.boot.flash)

/-- What a reset of the control complex leaves (R476, R478): no pending value, no firmware, no policy module, no hold, both copies to be checked, the running one
first; the data plane and the Hutch go on. -/
def ManagementWasReset (s u : State) : Prop :=
  u.pend = [] ∧ u.boot.fw = false ∧ u.boot.mods = [] ∧ u.boot.mgmt = [flag s 0x30000 26, !flag s 0x30000 26] ∧ rd u 0x208 = 0 ∧ u.mem = s.mem ∧ u.sio = s.sio ∧ u.tc = s.tc ∧ u.ctxs = s.ctxs ∧
    u.hut.chA = s.hut.chA ∧ u.hut.chB = s.hut.chB

/-! ## Reads, mailboxes, records -/

/-- An agent may read registers: the control complex always, the host with the link up and the lock taken (R466). -/
def mayRead (s : State) (ag : Agent) : Prop := ag = .control ∨ (pcieUp s = true ∧ lockTaken s = true)

/-- What an agent's last read returned: the bytes asked for, of the word given (R485). -/
def wordRead (ag : Agent) (u : State) (be : Nat) (w : Word) : Prop := match ag with
  | .control => u.svc.word = w &&& laneMask be
  | .host => u.hif.answer = .data (askedBytes be w)

/-- The message at the head of the queue is mailbox `m`'s, whole, and asks for command `cmd`; the firmware runs and a version is agreed. -/
structure Serving (s : State) (m cmd : Nat) (msg : List Byte) (rest : List MbMsg) : Prop where
  queue : s.svc.queue = (m, msg, false) :: rest
  fw : fwRuns s = true
  ver : fld s 0x244 0 4 ≠ 0
  size : msg.length = 64
  known : msgKnown msg = true
  cmd : msgCmd msg = cmd
  len : le msg 4 1 ≤ 56

/-- The mailbox is the host's again, with a RESULT (R490). -/
def Answered (u : State) (m r : Nat) : Prop := mboxOwned u m = false ∧ fld u (mboxReg m 0x40) 16 8 = r

/-- An event of a source is due as a record, after those due before, and nothing else of telemetry and services has changed (R494). -/
def Noted (s u : State) (src : EventSource) (code arg : Nat) : Prop :=
  u.svc = { s.svc with untold := s.svc.untold ++ [(src, code, arg)] }

/-- The 32 bytes of a telemetry record (R493). -/
def telemetryBytes (tb type code source value seq : Nat) : List Byte :=
  leBytes 8 tb ++ leBytes 1 type ++ leBytes 1 1 ++ leBytes 2 code ++ leBytes 4 source ++ leBytes 8 value ++ leBytes 4 seq ++ leBytes 4 0

/-! ## Frames -/

/-- Commands that may store to device memory or zero it (a scratchpad included); no other command changes a byte of it. -/
def storingCommand (c : Instr) : Bool := match c with
  | .epochBoundary .. | .slotBoundary .. | .coreStep .. | .issueMma .. | .issueXpnd .. | .issueAttn .. | .issueEwise ..
  | .issuePool .. | .issueArgmaxc .. | .issueStat .. | .issueScaleEntries .. | .issueScaleTable .. | .issueFill .. | .issueScopy ..
  | .issueDma .. | .issueKvapp .. | .syncWait .. | .syncSignal .. | .syncBload .. | .syncWaitRelease .. | .instructionHoldRelease ..
  | .instructionComplete .. | .drainComplete .. | .accSlotGrant .. | .footstoolChunkBoundary .. | .footstoolRequestComplete ..
  | .brkResume .. | .statsPartialArrive .. | .jobEnd .. | .coreRetire .. | .clRetireReq .. | .coreReset .. | .writeAck ..
  | .multicastSend .. | .haloRowSend .. | .wctrClaim .. | .wctrCompletion .. | .wctrClear .. | .dmaDescComplete ..
  | .dmaDescFault .. | .dramReadEcc .. | .spadParityError .. | .bankClosingDone .. | .kvappComplete .. | .kvCopyOnWrite ..
  | .kvPinRelease .. | .kvBatchBoundary .. | .kvTreeInsert .. | .kvHotCopy .. | .partitionReset .. | .contextTeardown ..
  | .peerFrame .. | .peerUnreachable .. | .rxFrame .. | .gapTimeout .. | .auIdleTimeout .. | .decodeStart .. | .decodeComplete ..
  | .stripeRelease .. | .usbTouchReport .. | .emissionPoint .. | .frameReturn .. | .frameLossTimeout .. | .heartbeatMiss ..
  | .channelRestartDone .. | .supervisionStart .. | .zoneCompare .. | .creditRequest .. | .dmaChainAccept .. | .goldenRunComplete ..
  | .goldenFrameEnd .. | .aRestart .. | .rdyTokSignal .. | .proofTest .. | .powerOn .. | .railSequenceStep .. | .powerDown ..
  | .sensorSample .. | .corePowerUp .. | .imageCheck .. | .memoryTraining .. | .modelLoad .. | .bootRecovGo .. | .policyCallback ..
  | .resetNAssert .. | .moduleReset .. | .managementReset .. | .registerWrite .. | .pcieReset .. | .hostDramWrite ..
  | .mgmtVersion .. | .mgmtReadReg .. | .mgmtWriteReg .. | .mgmtReadMem .. | .mgmtWriteMem .. | .mgmtImageWrite .. | .mgmtReset ..
  | .mgmtEcho .. | .mgmtDatagram .. | .smbusTransaction .. | .telemetryEvent .. | .proofTestDone .. | .vstby3v3Loss .. => true
  | _ => false

/-- Commands that may change the latches, the safe inputs or the safe outputs: those of chapter 13, the Hutch's, emission and frames, an epoch
boundary, supplies and resets, and those that may write any register. -/
def safetyCommand (c : Instr) : Bool := match c with
  | .epochBoundary .. | .emissionPoint .. | .frameSend .. | .frameReturn .. | .frameLossTimeout .. | .latchSet ..
  | .safeInputDemand .. | .testPulse .. | .testPulseFault .. | .discrepancyTimeout .. | .outputReadbackFault ..
  | .outputFaultClear .. | .brakeDelayExpire .. | .resetButtonRelease .. | .sioReset .. | .groupResetGrant ..
  | .channelDecisionMismatch .. | .channelRestartDone .. | .supervisionStart .. | .timebaseCrosscheck .. | .zoneCompare ..
  | .sContextLost .. | .stopGroups .. | .powerOn .. | .railSequenceStep .. | .powerDown .. | .sensorSample .. | .bootRecovGo ..
  | .policyCallback .. | .resetNAssert .. | .moduleReset .. | .managementReset .. | .registerWrite .. | .mgmtVersion ..
  | .mgmtReadReg .. | .mgmtWriteReg .. | .mgmtReadMem .. | .mgmtWriteMem .. | .mgmtImageWrite .. | .mgmtReset .. | .mgmtEcho ..
  | .mgmtDatagram .. | .smbusTransaction .. | .safeInputDemandEnd .. | .vstby3v3Loss .. => true
  | _ => false

end Sys2Proof.Safety
end

