-- ==== Sys2Proof/Certificates/Slice0/Obligations.lean ====
section
/-!
DEFINITION. Certificates/Slice0/Obligations.lean: the statements about the block, each from the rules of spec/ that its docstring names.
-/
open Sys2Proof Sys2Proof.Machine Sys2Proof.Safety

/-! ## Reset -/

/-- State.reset: power-on as the spec describes it (R29, R280, R390, R399, R403, R437, R456). -/
def Obligations.StateAfterReset : Prop :=
  State.reset.clk.tb = 0 ∧ State.reset.pending = [] ∧ State.reset.mem = [] ∧ phase State.reset = 0 ∧ lockTaken State.reset = false ∧
    AllSafe State.reset ∧ State.reset.bur.seq = 0 ∧
    (∀ g, g < 8 → fld State.reset (grpReg g 0) 0 16 = 0x090B ∧ rd State.reset (grpReg g 4) = 0x0800) ∧
    (∀ i, i < 8 → sinDemand State.reset i = true) ∧
    (∀ k n, k < 16 → n < 64 → token State.reset k n = 0) ∧ (∀ k, k < 16 → partEn State.reset k = false) ∧
    (∀ l, (coreOf State.reset l).on = false)
/-! ## Steps, the queue, time and memory -/

/-- A step carries out the command at the front of the queue, with the rest of the queue behind it; with no command waiting it is one clock of
the timebase island (log entry 1). -/
def Obligations.StepRunsTheCommandAtTheFront : Prop :=
  (∀ (c : Instr) (r : List Instr) (s : State), s.pending = c :: r → step s = exec c { s with pending := r }) ∧
  (∀ s : State, s.pending = [] → ∃ u, step s = .next u ∧ u = { s with clk := { s.clk with tb := u.clk.tb, frac := u.clk.frac } } ∧
    (s.bur.vaon = true → u.clk.tb * 2 ^ 32 + u.clk.frac = s.clk.tb * 2 ^ 32 + s.clk.frac + tickInc s ∧ u.clk.frac < 2 ^ 32) ∧
    (s.bur.vaon = false → u = s))

/-- The frame of all commands: the queue, and device memory for every command that stores nothing. -/
def Obligations.ExecLeavesQueueAndMemory : Prop :=
  ∀ (c : Instr) (s u : State), exec c s = .next u → u.pending = s.pending ∧ (storingCommand c = false → u.mem = s.mem)

/-- The frame of safe I/O: no other command touches a latch, an input or an output. -/
def Obligations.OtherCommandsLeaveSafeIoAlone : Prop :=
  ∀ (c : Instr) (s u : State), safetyCommand c = false → exec c s = .next u → u.sio = s.sio

/-- The timebase counter never decreases (R45) by any step but those at which the standby supply comes or goes. -/
def Obligations.TimebaseNeverDecreases : Prop :=
  ∀ s u : State, (∀ c r, s.pending = c :: r → standbyCommand c = false) → step s = .next u → s.clk.tb ≤ u.clk.tb

/-- Every step keeps the byte memories in canonical form, whichever command it carries out. -/
def Obligations.StepKeepsMemoryCanonical : Prop :=
  ∀ s u : State, MemoryCanonical s → step s = .next u → MemoryCanonical u

/-- The byte memories are in canonical form at reset. -/
def Obligations.ResetMemoryCanonical : Prop := MemoryCanonical State.reset

/-! ## Macro-instructions on a core -/

/-- An instruction that passes its checks and that nothing holds is issued: the pointer advances by 64 bytes (R128), the instruction is the
newest in flight (R130), its slots are granted or asked for (R148), and a SYNC that is done completes (R158). -/
def Obligations.ReadyInstructionIsIssued : Prop :=
  ∀ (t : Time) (l : Fin 256) (k : Fin 8) (s : State) (c : Instr) (want : List Byte → Bool) (sc : SlotCtx) (bs : List Byte) (b : Built),
    (c, want) ∈ issueCommands t l k → IssueReady (advance s t) l k want false sc bs b →
    (slotOf (placed (advance s t) l k sc b) l k = some (issued (advance s t) sc b) ∧
      (issued (advance s t) sc b).ip = sc.ip + 64 ∧ (issued (advance s t) sc b).flight = sc.flight ++ [b.fl]) ∧
    (placed (advance s t) l k sc b).mem = s.mem ∧ tget? (coreOf (placed (advance s t) l k sc b) l).halo k = none ∧
    exec c s = .next (settle (finishSync (askSlots (issueActs (placed (advance s t) l k sc b) l k (fetchInstr (advance s t) sc) b.fl) l k b.slots) l k) l k)

/-- An issue fault is raised before the instruction takes any step, makes any write or signals any token; the lowest code is recorded (R160). -/
def Obligations.FailedCheckFaultsBeforeAnyEffect : Prop :=
  ∀ (t : Time) (l : Fin 256) (k : Fin 8) (s : State) (c : Instr) (want : List Byte → Bool) (sc : SlotCtx) (bs : List Byte) (b : Built) (e : Nat × Nat),
    (c, want) ∈ issueCommands t l k → Decoded (advance s t) l k want false sc bs b → lowest b.errs = some e →
    ∃ u, exec c s = .next u ∧ FaultedOn s u sc.part sc.ctx l e.1 ∧
      (ctxOf u sc.part sc.ctx).fault = (ctxOf s sc.part sc.ctx).fault ∧
      (∃ d, slotOf u l k = some d ∧ d.ip = sc.ip ∧ d.flight = sc.flight ∧ d.bounds = sc.bounds ∧ d.steps = sc.steps) ∧
      (coreOf u l).acc = (coreOf s l).acc ∧ u.mem = s.mem ∧ u.cl = s.cl ∧ u.dma = s.dma ∧ u.kv = s.kv ∧ ∀ q < 16, ∀ n < 64, token u q n = token s q n

/-- SYNC SIGNAL adds VALUE to the token modulo 2³² (R158), and the instruction completes at once (R131). -/
def Obligations.SyncSignalAddsToItsToken : Prop :=
  ∀ (t : Time) (l : Fin 256) (k : Fin 8) (s : State) (sc : SlotCtx) (bs : List Byte) (b : Built),
    IssueReady (advance s t) l k (isSync 1) false sc bs b → sc.flight = [] → doneOf bs = false →
    let tok := le bs 5 1 % 64
    ∃ u c, exec (.syncSignal t l k) s = .next u ∧ slotOf u l k = some c ∧ c.ip = sc.ip + 64 ∧ c.flight = [] ∧ c.wait = .none ∧
      token u sc.part tok = token s sc.part tok + BitVec.ofNat 32 (le bs 8 4) ∧ u.mem = s.mem ∧
      ∀ o, canonOff o ≠ canonOff (tokOff sc.part tok) → rd u o = rd s o

/-- SYNC WAIT holds the context until (token − VALUE) modulo 2³² is below 2³¹, and consumes nothing (R158). -/
def Obligations.SyncWaitHoldsUntilItsToken : Prop :=
  ∀ (t : Time) (l : Fin 256) (k : Fin 8) (s : State) (sc : SlotCtx) (bs : List Byte) (b : Built),
    IssueReady (advance s t) l k (isSync 0) false sc bs b → sc.flight = [] → doneOf bs = false →
    let tok := le bs 5 1 % 64
    let v := BitVec.ofNat 32 (le bs 8 4)
    ∃ u c, exec (.syncWait t l k) s = .next u ∧ slotOf u l k = some c ∧ c.ip = sc.ip + 64 ∧ u.regs = s.regs ∧ u.mem = s.mem ∧
      ((token s sc.part tok - v).toNat < 2 ^ 31 → c.flight = [] ∧ c.wait = .none) ∧
      (2 ^ 31 ≤ (token s sc.part tok - v).toNat → c.flight = [b.fl] ∧ c.wait = .token tok v ∧ c.since = u.clk.tb)

/-- SYNC BLOAD loads BCOUNT words from ADDR into BOUND(BREG) onwards (R158, R159). -/
def Obligations.SyncBloadLoadsBounds : Prop :=
  ∀ (t : Time) (l : Fin 256) (k : Fin 8) (s : State) (sc : SlotCtx) (bs : List Byte) (b : Built),
    IssueReady (advance s t) l k (isSync 2) false sc bs b → sc.flight = [] → doneOf bs = false →
    ∃ u c, exec (.syncBload t l k) s = .next u ∧ slotOf u l k = some c ∧ c.ip = sc.ip + 64 ∧ c.flight = [] ∧ u.regs = s.regs ∧ u.mem = s.mem ∧
      ∀ i < 16, c.bounds[i]? = (sc.bounds[i]?).map (fun old =>
        if le bs 6 1 % 16 ≤ i ∧ i < le bs 6 1 % 16 + le bs 7 1 then
          BitVec.ofNat 32 (leVal (ctxRead (advance s t) sc.part sc.ctx (le bs 0x0C 6 + 4 * (i - le bs 6 1 % 16)) 4))
        else old)

/-- Each turn counts in the STEP_COUNT of the context that holds the ring, and in that of no other (R32, R77). -/
def Obligations.TurnOfTheRingCountsOneStep : Prop :=
  ∀ (t : Time) (l : Fin 256) (s : State),
    let s1 := settleAll (advance s t) l
    coreRuns (advance s t) l = true → coreHeldB (advance s t) l = false → goldRuns s l = false →
    (∀ (k : Nat) (c : SlotCtx), ringOf s1 l = some k →
      let s2 := setCore s1 l { coreOf s1 l with ring := some k }
      canTurn s2 l k = true → slotOf s l k = some c → brkHit s l k ((c.steps + 1) % 2 ^ 64) = false →
      ∃ u, exec (.coreStep t l none) s = .next u ∧ (slotOf u l k).map SlotCtx.steps = some ((c.steps + 1) % 2 ^ 64) ∧
        ∀ j, j ≠ k → (slotOf u l j).map SlotCtx.steps = (slotOf s l j).map SlotCtx.steps) ∧
    (ringOf s1 l = none →
      ∃ u, exec (.coreStep t l none) s = .next u ∧ (coreOf u l).ring = none ∧
        ∀ j, (slotOf u l j).map SlotCtx.steps = (slotOf s l j).map SlotCtx.steps)

/-- An instruction that is done completes on its core: with DONE it adds 1 to the token DONE_TOK names (R131), END is noted (R128), and the core
gives the ring again (R77). -/
def Obligations.DoneInstructionCompletes : Prop :=
  ∀ (t : Time) (l : Fin 256) (k : Fin 8) (s : State) (c : SlotCtx) (f : InFlight),
    slotOf s l k = some c → c.flight = [f] → flightDone s l c f = true → alive s c.part c.ctx = true → c.released = false → c.hit = false →
    opcodeOf f.bytes ≠ 11 → opcodeOf f.bytes ≠ 13 →
    ∃ u c', exec (.instructionComplete t l k) s = .next u ∧ slotOf u l k = some c' ∧ c'.flight = [] ∧ c'.ip = c.ip ∧
      c'.ended = (c.ended || endOf f.bytes) ∧ (coreOf u l).ring ≠ some k.val ∧
      (doneOf f.bytes = true → token u c.part (doneTokOf f.bytes) = token s c.part (doneTokOf f.bytes) + 1) ∧
      (doneOf f.bytes = false → ∀ q < 16, ∀ n < 64, token u q n = token s q n)

/-- What ends a wait of a context: a token (R158), an accumulator grant in order of request (R148), the completion of what held an instruction
(R130, R131), the last acknowledgement of a drain (R62), a partial that reaches rank 0 (R117). -/
def Obligations.WaitsOfAContextEnd : Prop :=
  (∀ (t : Time) (l : Fin 256) (k : Fin 8) (s : State) (c : SlotCtx) (tok : Nat) (v : Word),
    slotOf s l k = some c → c.wait = .token tok v → (token s c.part tok - v).toNat < 2 ^ 31 → alive s c.part c.ctx = true → c.hit = false →
    (c.det = false ∨ c.flight.dropLast.all spent = true) →
    exec (.syncWaitRelease t l k) s = .next (settle (finishSync (endWait (advance s t) l k) l k) l k) ∧
      (slotOf (endWait (advance s t) l k) l k).map SlotCtx.wait = some .none) ∧
  (∀ (t : Time) (l : Fin 256) (k : Fin 8) (s : State) (c : SlotCtx) (n : Nat),
    slotOf s l k = some c → grantHead s l = some (k.val, n) → n ≠ 0 → n ≤ (freeAcc s l).length →
    let s1 := endWait (setCore (advance s t) l { coreOf s l with grantQ := (coreOf s l).grantQ.erase (k.val, n) }) l k
    exec (.accSlotGrant t l k) s = .next (settle (giveSlots s1 l k n) l k) ∧ (coreOf s1 l).grantQ = (coreOf s l).grantQ.erase (k.val, n) ∧
      ∀ i f, c.flight[i]? = some f → i + 1 = c.flight.length →
        ∃ c', slotOf (giveSlots s1 l k n) l k = some c' ∧ c'.wait = .none ∧ c'.flight[i]? = some { f with granted := (freeAcc s1 l).take n }) ∧
  (∀ (t : Time) (l : Fin 256) (k : Fin 8) (s : State) (sc : SlotCtx) (bs : List Byte) (b : Built),
    IssueReady (advance s t) l k (fun _ => true) true sc bs b →
    exec (.instructionHoldRelease t l k) s =
      .next (settle (finishSync (askSlots (issueActs (placed (advance s t) l k sc b) l k (fetchInstr (advance s t) sc) b.fl) l k b.slots) l k) l k) ∧
      (slotOf (placed (advance s t) l k sc b) l k).map SlotCtx.wait = some .none) ∧
  (∀ (t : Time) (l : Fin 256) (a : Fin 32) (s : State),
    (accOf s l a).st = .draining → 32 ≤ (accOf s l a).row →
    (∀ c i f m, slotOf s l (accOf s l a).cs = some c →
      firstFlight c (fun _ f => decide (f.ip = (accOf s l a).ip) && f.mma.isSome) = some i → c.flight[i]? = some f → f.mma = some m →
      unacked s l c.part c.ctx ((tileRows m (tileOf m (accOf s l a).tile)).map (drainWrites l m (tileOf m (accOf s l a).tile))).flatten = false) →
    exec (.drainComplete t l a) s = .next (settle (drainAck (advance s t) l a) l (accOf s l a).cs) ∧
      accOf (drainAck (advance s t) l a) l a = AccSlot.none) ∧
  (∀ (t : Time) (p : Fin 16) (n : Fin 64) (rank : Fin 256) (s : State) (x : Partial) (l0 k0 : Nat),
    (ctxOf s p n).transit.find? (fun y => decide (y.rank = rank.val)) = some x → (ctxOf s p n).cores.head? = some l0 → slotFor s l0 p n = some k0 →
    flitLands (advance s t) l0 k0 p n (nth l0 (ctxOf s p n).cores rank) = true →
    let s1 := joinPartial p n (setCtx (advance s t) p n { ctxOf s p n with transit := (ctxOf s p n).transit.erase x }) x
    exec (.statsPartialArrive t p n rank) s = .next (settle s1 l0 k0) ∧ (ctxOf s1 p n).transit = (ctxOf s p n).transit.erase x ∧
      ∃ r, (ctxOf s1 p n).recs.find? (fun y => decide (y.ip = x.ip)) = some r ∧ rank.val ∈ r.ranks)

/-- A retirement stops the core, sets its bit of CL_RETIRED, and either prepares the READY spare for its logical index or leaves the map entry
at 0x1F (R90, R91). -/
def Obligations.RetirementStopsTheCore : Prop :=
  (∀ (t : Time) (l : Fin 256) (cause : RetireCause) (s : State), (coreOf s l).stopped = false → mapOf s l < 17 →
    ∃ u, exec (.coreRetire t l cause) s = .next u ∧ (coreOf u l).stopped = true ∧ (coreOf u l).ring = none ∧ (coreOf u l).resid = [] ∧
      (fld u (clReg (l / 16) 0x814) 0 17).testBit (mapOf s l) = true ∧
      (spareState s (l / 16) = 0 → spareState u (l / 16) = 1 ∧ (clOf u (l / 16)).prep = some (l.val % 16)) ∧
      (spareState s (l / 16) ≠ 0 → mapOf u l = 0x1F)) ∧
  (∀ (t : Time) (ag : Agent) (l0 l : Fin 256) (w : Word) (s : State), writeTakes s ag (clReg (l0 / 16) 0x818) → w.getLsbD 31 = true →
    l.val = 16 * (l0.val / 16) + w.toNat % 16 → (coreOf s l).stopped = false → mapOf s l < 17 →
    ∃ u, exec (.clRetireReq t ag l0 w) s = .next u ∧ (coreOf u l).stopped = true ∧ (coreOf u l).ring = none ∧ (coreOf u l).resid = [] ∧
      (fld u (clReg (l / 16) 0x814) 0 17).testBit (mapOf s l) = true ∧
      (spareState s (l / 16) = 0 → spareState u (l / 16) = 1 ∧ (clOf u (l / 16)).prep = some (l.val % 16)) ∧
      (spareState s (l / 16) ≠ 0 → mapOf u l = 0x1F))

/-- A core reset clears what R96 names; a write of QUIESCE sets that bit and nothing else (R94). -/
def Obligations.CoreResetAndQuiesce : Prop :=
  (∀ (t : Time) (ag : Agent) (l : Fin 256) (s : State), writeTakes s ag (tcOff l + 0xC) → ∃ u, exec (.coreReset t ag l) s = .next u ∧
    (coreOf u l).acc = [] ∧ (coreOf u l).grantQ = [] ∧ (coreOf u l).scale = [] ∧ (coreOf u l).tabs = [] ∧ (coreOf u l).ring = none ∧
    (∀ k, slotOf u l k = none) ∧
    ∀ o ∈ [0x10, 0x14, 0x18, 0x48, 0x4C, 0x58, 0x5C, 0x60, 0x64, 0x68], rd u (tcOff l + o) = 0) ∧
  (∀ (t : Time) (ag : Agent) (l : Fin 256) (q : Bool) (s : State), writeTakes s ag (tcOff l + 0xC) → ∃ u, exec (.tcQuiesce t ag l q) s = .next u ∧
    flag u (tcOff l + 0xC) 0 = q ∧ u = { advance s t with regs := u.regs } ∧ ∀ o, canonOff o ≠ canonOff (tcOff l + 0xC) → rd u o = rd s o)

/-- The Footstool of a cluster: a pending request starts by class (R85), a request whose last blocks have run leaves the engine (R84), an error is
counted and a second one at a row makes it UNAVAILABLE (R87). -/
def Obligations.FootstoolRequestsAndErrors : Prop :=
  (∀ (t : Time) (c : Fin 16) (s : State) (r : FsReq),
    (clOf s c).cur = none → fsGolden (advance s t) c = false → holdRuns (advance s t) c = false →
    fsNext ((clOf s c).queue.filter (fsAlive s)) = some r →
    ∃ u, exec (.footstoolChunkBoundary t c) s = .next u ∧ (clOf u c).cur = some r ∧ (clOf u c).queue = ((clOf s c).queue.filter (fsAlive s)).erase r ∧
      u.tc = s.tc ∧ u.mem = s.mem ∧ u.regs = s.regs) ∧
  (∀ (t : Time) (c : Fin 16) (s : State) (r : FsReq),
    (clOf s c).cur = some r → fsAlive s r = true → fsOpen (advance s t) c r = true → (fsChunked r = false ∨ r.total - r.done ≤ fsChunk s c r) →
    ∃ u, exec (.footstoolRequestComplete t c) s = .next u ∧ (clOf u c).cur = none) ∧
  (∀ (t : Time) (c : Fin 16) (row : Nat) (held : Bool) (s : State), (clOf s c).unavail = false →
    ∃ u, exec (.footstoolParityError t c row held) s = .next u ∧ rd u (clReg c 0x82C) = rd s (clReg c 0x82C) + 1 ∧ u.mem = s.mem ∧
      (row ∈ (clOf s c).badRows → (clOf u c).unavail = true ∧ (clOf u c).queue = [] ∧ (clOf u c).cur = none) ∧
      (row ∉ (clOf s c).badRows → (clOf u c).unavail = false ∧ (clOf u c).badRows = row :: (clOf s c).badRows))

/-! ## Scratchpad, credits, shared cache, work counters, DMA and memory errors -/

/-- The life of a credit: granted by the Dresser or waiting in order of arrival (R188, R194), acknowledged (R189), its landing drawer read. -/
def Obligations.CreditsAndLandingDrawers : Prop :=
  (∀ (t : Time) (l : Fin 256) (a : CreditArg) (s : State),
    let r : CreditReq := ⟨a.part, a.ctx, a.writer, a.landing, a.off, a.len, a.src, a.prefetch⟩
    fetchAcc (advance s t) l r = .ok → detFetch s l r = true → ownerOf s l = some r.part → coreUnavail s l = false → wellAsked s l r = true → bankOf s l (reqBank s l r) = .on →
    ∃ u, exec (.creditRequest t l a) s = .next u ∧ u.mem = s.mem ∧ u.regs = s.regs ∧
      (grantable s l r = true → (coreOf s l).waitQ.any (sameKind r) = false →
        (coreOf u l).credits = (coreOf s l).credits ++
            [⟨(coreOf s l).tag, r, if r.landing = none then r.off / 0x1000 else (freeDrawers s l).headD 0, false⟩] ∧
          (coreOf u l).tag = (coreOf s l).tag + 1 ∧ (coreOf u l).waitQ = (coreOf s l).waitQ ∧
          ∀ k, r.landing = some k → tget? (coreOf u l).drawers ((freeDrawers s l).headD 0)
            = some ⟨.granted, k, r.src.map (fun x => (x, r.len)), if r.prefetch then prefetchIp s l r else none⟩) ∧
      ((grantable s l r = false ∨ (coreOf s l).waitQ.any (sameKind r) = true) →
        (coreOf u l).waitQ = (coreOf s l).waitQ ++ [r] ∧ (coreOf u l).credits = (coreOf s l).credits)) ∧
  (∀ (t : Time) (l : Fin 256) (s : State) (r : CreditReq), grantable s l r = true →
    ((coreOf s l).waitQ.find? (fun x => x.landing.isSome) = some r ∨
      ((coreOf s l).waitQ.find? (fun x => x.landing.isNone) = some r ∧
        ∀ q, (coreOf s l).waitQ.find? (fun x => x.landing.isSome) = some q → grantable s l q = false)) →
    ∃ u, exec (.creditGrant t l) s = .next u ∧ u.mem = s.mem ∧ u.regs = s.regs ∧ (coreOf u l).waitQ = (coreOf s l).waitQ.erase r ∧
      (coreOf u l).credits = (coreOf s l).credits ++
        [⟨(coreOf s l).tag, r, if r.landing = none then r.off / 0x1000 else (freeDrawers s l).headD 0, false⟩]) ∧
  (∀ (t : Time) (l : Fin 256) (tag : Nat) (s : State) (x : Credit),
    (coreOf s l).credits.find? (fun y => decide (y.tag = tag)) = some x → isPromise x.req.writer x.req.part x.req.ctx l x = false →
    ∃ u, exec (.writeAck t l tag) s = .next (restartCheck (resetDone (settleAck u l x.req) x.req.part)) ∧
      (coreOf u l).credits = (coreOf s l).credits.filter (fun y => decide (y.tag ≠ tag)) ∧
      (∀ k d, x.req.landing = some k → tget? (coreOf s l).drawers x.drawer = some d → d.cs ≠ noSlot →
        tget? (coreOf u l).drawers x.drawer = some { d with st := .full }) ∧
      (∀ k d, x.req.landing = some k → tget? (coreOf s l).drawers x.drawer = some d → d.cs = noSlot → tget? (coreOf u l).drawers x.drawer = none) ∧
      (x.req.landing = none → 256 ≤ x.req.writer → x.req.writer < 278 → u.mem = (dmaLand (advance s t) l x).mem) ∧
      ((x.req.writer < 256 ∨ 278 ≤ x.req.writer ∨ x.req.landing ≠ none) →
        u.regs = s.regs ∧ ((x.req.landing = none ∨ x.req.src = none ∨ x.req.writer ≠ l) → u.mem = s.mem)) ∧
      (∀ k a, x.req.landing = some k → x.req.src = some a → x.req.writer = l → u.mem = (landData s x.req.part x.req.ctx a x.req.len l x).mem)) ∧
  (∀ (t : Time) (l d : Fin 256) (s : State) (x : Drawer), tget? (coreOf s l).drawers d = some x → x.st = .full → x.pre = none →
    ∃ u, exec (.landingDrawerConsumed t l d) s = .next u ∧ u.mem = s.mem ∧ u.regs = s.regs ∧ tget? (coreOf u l).drawers d = none ∧
      ∀ e, e ≠ d.val → tget? (coreOf u l).drawers e = tget? (coreOf s l).drawers e)

/-- Multicast and halo data land in the drawers of their credits (R190, R192); a cancelled promise is counted, and its data is fetched by the
receiver itself (R193). -/
def Obligations.MulticastHaloAndCancelledPromises : Prop :=
  (∀ (t : Time) (l : Fin 256) (k : Fin 8) (src len : Nat) (dests : List Nat) (s : State) (c : SlotCtx) (f : InFlight),
    slotOf s l k = some c → c.det = false → alive s c.part c.ctx = true → 5 ≤ ownCount s c.part → f ∈ c.flight → sharesSrc l src len f = true →
    dests ≠ [] → dests = (castRanks f c.rank).filterMap (coreAt s c.part c.ctx) → (∀ d ∈ dests, creditFrom s d l src ≠ none) →
    firstBad s c.part false [(src, len)] = .ok →
    exec (.multicastSend t l k src len dests) s = .next (dests.foldl (fun s d => match creditFrom s d l src with
        | none => s
        | some cr => sendData s c.part c.ctx src len d cr) (touchRanges (advance s t) false [(src, len)]))) ∧
  (∀ (s : State) (p n src len d : Nat) (cr : Credit), let u := sendData s p n src len d cr
    u.mem = (wrMem s (spadOf d + 0x1000 * cr.drawer) (ctxRead s p n src (min len 0x1000))).mem ∧ u.regs = s.regs ∧
      ∀ y ∈ (coreOf s d).credits, y.tag = cr.tag → { y with sent := true } ∈ (coreOf u d).credits) ∧
  (∀ (t : Time) (l : Fin 256) (k : Fin 8) (src len d dk : Nat) (s : State) (c : SlotCtx) (cr : Credit) (f : InFlight),
    slotOf s l k = some c → c.det = false → alive s c.part c.ctx = true → ownCount s c.part ≤ 4 → f ∈ c.flight → sharesSrc l src len f = true →
    coreAt s c.part c.ctx (c.rank + 1) = some d → creditFrom s d l src = some cr → slotFor s d c.part c.ctx = some dk →
    firstBad s c.part false [(src, len)] = .ok →
    let s1 := touchRanges (advance s t) false [(src, len)]
    ∃ u, exec (.haloRowSend t l k src len) s = .next u ∧ u.regs = s1.regs ∧ tget 0 (coreOf u d).halo dk = tget 0 (coreOf s d).halo dk + 1 ∧
      u.mem = (sendData s1 c.part c.ctx src len d cr).mem ∧ (coreOf u d).credits = (coreOf (sendData s1 c.part c.ctx src len d cr) d).credits) ∧
  (∀ (t : Time) (l : Fin 256) (src : Nat) (s : State) (x : Credit),
    (coreOf s l).credits.find? (fun y => decide (y.req.src = some src) && isPromise y.req.writer y.req.part y.req.ctx l y) = some x →
    senderRuns (advance s t) x.req.writer x.req.part x.req.ctx = false →
    let o := tcOff l + (if 5 ≤ ownCount s x.req.part then 0x64 else 0x68)
    ∃ u, exec (.promiseCancel t l src (decide (5 ≤ ownCount s x.req.part))) s = .next u ∧ u.mem = s.mem ∧ (coreOf u l).drawers = (coreOf s l).drawers ∧
      (coreOf u l).credits = (coreOf s l).credits.filter (fun y => decide (y.tag ≠ x.tag))
        ++ [{ x with tag := (coreOf s l).tag, req := { x.req with writer := l } }] ∧
      rd u o = rd s o + 1 ∧ ∀ q, canonOff q ≠ canonOff o → rd u q = rd s q)

/-- The shared cache: a hit is used (R196), errors are counted and handled by kind (R199), an invalidation drops every line of the partition
(R198) and a second one is held until the first is done (R216). -/
def Obligations.SharedCacheReadsAndInvalidation : Prop :=
  (∀ (t : Time) (l : Fin 256) (k : Fin 8) (a h : Nat) (err : ShcErr) (s : State) (c : SlotCtx) (x : Line),
    slotOf s l k = some c → c.det = false → cachedAt s c.part a = true → s.inval = none → homeOf s c.part a = some h →
    flag s (shcReg h 0) 7 = false →
    hitLine s h c.part a = some x →
    ∃ u, exec (.shcRead t l k a err) s = .next u ∧ u.mem = s.mem ∧ u.tc = s.tc ∧
      (err = .none → (sliceOf u h).lines = x :: (sliceOf s h).lines.erase x ∧ u.regs = s.regs) ∧
      (err = .single → h < 16 → rd u (shcReg h 4) = rd s (shcReg h 4) + 1) ∧
      (err = .double → h < 16 → rd u (shcReg h 8) = rd s (shcReg h 8) + 1 ∧ 16 * x.set + x.way ∈ (sliceOf u h).retired)) ∧
  (∀ (t : Time) (l : Fin 256) (k : Fin 8) (a h : Nat) (err : ShcErr) (s : State) (c : SlotCtx),
    slotOf s l k = some c → c.det = false → cachedAt s c.part a = true → s.inval = none → homeOf s c.part a = some h →
    flag s (shcReg h 0) 7 = false → hitLine s h c.part a = none →
    let usable := fun w => (waysOf s h c.part).testBit w && !(sliceOf s h).retired.contains (16 * fieldOf a 6 11 + w)
    ((∃ w, usable w = true) → ∃ u x, exec (.shcRead t l k a err) s = .next u ∧ u.mem = s.mem ∧ u.tc = s.tc ∧ u.regs = s.regs ∧
      hitLine u h c.part a = some x ∧ x ∈ (sliceOf u h).lines ∧ x.addr = a / 64 * 64 ∧ x.part = c.part ∧ x.data = rdMem s (a / 64 * 64) 64 ∧
      x.set = fieldOf a 6 11 ∧ usable x.way = true ∧ (sliceOf u h).retired = (sliceOf s h).retired ∧
      ∀ y ∈ (sliceOf u h).lines, y = x ∨ y ∈ (sliceOf s h).lines) ∧
    ((∀ w, usable w = false) → exec (.shcRead t l k a err) s = .next (advance s t))) ∧
  (∀ (t : Time) (ag : Agent) (p : Fin 16) (s : State), writeTakes s ag 0x68000 →
    ∃ u, exec (.shcInv t ag p) s = .next u ∧ u.mem = s.mem ∧ u.regs = s.regs ∧
      (s.inval = none → u.inval = some p.val ∧ ∀ c, ∀ x ∈ (sliceOf u c).lines, x.part ≠ p.val) ∧
      (∀ q, s.inval = some q → u.inval = some q ∧ u.invalQ = s.invalQ ++ [p.val] ∧ u.shc = s.shc)) ∧
  (∀ (t : Time) (s : State), s.inval ≠ none →
    ∃ u, exec (.shcInvDone t) s = .next u ∧ u.mem = s.mem ∧ u.regs = s.regs ∧ u.inval = s.invalQ.head? ∧ u.invalQ = s.invalQ.tail)

/-- Work counters: the first claim starts the counter and receives item 0 (R200, R201), an uncorrectable error poisons it, an item is counted once
(R201), CLEAR ends POISONED (R200). -/
def Obligations.WorkCountersServeAndCount : Prop :=
  (∀ (t : Time) (l : Fin 256) (k : Fin 8) (s : State) (c : SlotCtx) (f : InFlight) (i sl ct rt : Nat) (m : Mma),
    slotOf s l k = some c → dynFlight c = some (i, m, sl, ct, rt) → c.flight[i]? = some f → alive s c.part c.ctx = true →
    ctrAllowed s c.part sl ct = true → m.items.length * m.cols.length ≤ m.drained.length → (wctrOf s (64 * sl + ct)).waiting = [] →
    (wctrOf s (64 * sl + ct)).held.any (fun h => decide (h.1 = l.val ∧ h.2.1 = k.val)) = false →
    ((wctrOf s (64 * sl + ct)).st = .idle → 0 < rt →
      ∃ s1, exec (.wctrClaim t l ⟨k, false⟩) s = .next (giveItem s1 l k 0) ∧ s1 = { advance s t with wctr := s1.wctr } ∧
        (wctrOf s1 (64 * sl + ct)).st = .active ∧ (wctrOf s1 (64 * sl + ct)).tag = claimTag c f.ip ∧ (wctrOf s1 (64 * sl + ct)).limit = rt ∧
        (wctrOf s1 (64 * sl + ct)).next = 1 ∧ (wctrOf s1 (64 * sl + ct)).held = [(l.val, k.val, 0)] ∧ (wctrOf s1 (64 * sl + ct)).done = 0 ∧
        (wctrOf s1 (64 * sl + ct)).parts = le f.bytes 0x1A 1 ∧ ∀ x, x ≠ 64 * sl + ct → wctrOf s1 x = wctrOf s x) ∧
    ∃ s1, exec (.wctrClaim t l ⟨k, true⟩) s = .next (raise s1 c.part c.ctx l fPoison) ∧ s1 = { advance s t with wctr := s1.wctr } ∧
      (wctrOf s1 (64 * sl + ct)).st = .poisoned ∧ ∀ x, x ≠ 64 * sl + ct → wctrOf s1 x = wctrOf s x) ∧
  (∀ (t : Time) (c : Fin 16) (k : Fin 64) (l : Fin 256) (tag item sat nan : Nat) (s : State),
    (l.val, tag, item, sat, nan) ∈ (wctrOf s (64 * c + k)).sent →
    (wctrOf s (64 * c + k)).st = .active → (wctrOf s (64 * c + k)).tag = tag → item < (wctrOf s (64 * c + k)).limit →
    ∃ s1, exec (.wctrCompletion t c ⟨k, false⟩ l tag item sat nan) s = .next (wctrServeAll s1 (64 * c + k)) ∧ s1.mem = s.mem ∧ s1.tc = s.tc ∧
      (wctrOf s1 (64 * c + k)).sent = (wctrOf s (64 * c + k)).sent.erase (l.val, tag, item, sat, nan) ∧
      (item ∉ (wctrOf s (64 * c + k)).bits →
        (wctrOf s1 (64 * c + k)).done = (wctrOf s (64 * c + k)).done + 1 ∧ (wctrOf s1 (64 * c + k)).bits = item :: (wctrOf s (64 * c + k)).bits ∧
        (wctrOf s1 (64 * c + k)).sat = (wctrOf s (64 * c + k)).sat + sat ∧ (wctrOf s1 (64 * c + k)).nan = (wctrOf s (64 * c + k)).nan + nan) ∧
      (item ∈ (wctrOf s (64 * c + k)).bits →
        (wctrOf s1 (64 * c + k)).done = (wctrOf s (64 * c + k)).done ∧ (wctrOf s1 (64 * c + k)).bits = (wctrOf s (64 * c + k)).bits ∧
        (wctrOf s1 (64 * c + k)).dup = min 0xFFFF ((wctrOf s (64 * c + k)).dup + 1) ∧
        rd s1 (0x60010 + 0x800 * c) = rd s (0x60010 + 0x800 * c) + 1)) ∧
  (∀ (t : Time) (ag : Agent) (c : Fin 16) (k : Fin 64) (s : State), writeTakes s ag (0x60400 + 0x800 * c + 0x10 * k) →
    (wctrOf s (64 * c + k)).st = .poisoned →
    ∃ s1, exec (.wctrClear t ag c k) s = .next (wctrServeAll s1 (64 * c + k)) ∧ s1 = { advance s t with wctr := s1.wctr } ∧
      (wctrOf s1 (64 * c + k)).st = .idle ∧ (wctrOf s1 (64 * c + k)).held = [] ∧ (wctrOf s1 (64 * c + k)).replay = [])

/-- A chain of DMA descriptors: accepted (R203), started in order (R205), moved and counted (R204, R205), ended by an invalid descriptor (R206). -/
def Obligations.DmaChainsRun : Prop :=
  (∀ (t : Time) (e : Fin 22) (p : Fin 16) (n : Fin 64) (base count : Nat) (s : State), 0 < count → count ≤ 65535 →
    (16 ≤ e.val → ∃ u, exec (.dmaChainAccept t e p n base count) s = .next u ∧ queueOf u e (chainVc s e p) = queueOf s e (chainVc s e p)
        ++ [fetchBurst s ⟨p, n, none, 0, 0, base, count, false, none, [], [], 0, [], []⟩ 0] ∧
      u.mem = s.mem ∧ u.tc = s.tc ∧ rd u (dmaReg e 0x14) = rd s (dmaReg e 0x14) + 1) ∧
    (∀ l k i f, e.val < 16 → chainOwner s e p n base count = some (l, k, i) → flightAt s l k i = some f →
      ∃ u c, exec (.dmaChainAccept t e p n base count) s
          = .next (if bit f.bytes 0x04 0 then settle (setFlight u l k i { f with ext := .none }) l k else u) ∧
        queueOf u e (chainVc s e p) = queueOf s e (chainVc s e p) ++ [fetchBurst s c 0] ∧
        c.part = p.val ∧ c.ctx = n.val ∧ c.core = some l ∧ c.slot = k ∧ c.ip = f.ip ∧ c.base = base ∧ c.count = count ∧ c.started = [] ∧
        c.done = [] ∧ c.async = bit f.bytes 0x04 0 ∧ u.mem = s.mem ∧ u.tc = s.tc ∧ rd u (dmaReg e 0x14) = rd s (dmaReg e 0x14) + 1)) ∧
  (∀ (t : Time) (e : Fin 22) (vc : Fin 4) (s : State) (c : Chain) (r : List Chain),
    queueOf s e vc = c :: r → c.started.length < c.count → tget? c.descs c.started.length ≠ none →
    descErr (descOf c c.started.length) = [] → descReady c c.started.length = true →
    let c1 := { c with started := c.started ++ [c.started.length] }
    ∃ u, exec (.dmaDescStart t e vc c.started.length) s = .next u ∧ u.mem = s.mem ∧ u.tc = s.tc ∧
      queueOf u e vc = (if c.started.length % 16 = 0 ∧ c.fetched < c.count then fetchBurst s c1 c.fetched else c1) :: r) ∧
  (∀ (t : Time) (e : Fin 22) (vc : Fin 4) (ix : Nat) (s : State) (c : Chain) (r : List Chain) (a b : Nat),
    let d := descOf c ix
    MemoryCanonical s → queueOf s e vc = c :: r → ix ∈ running c → descAcc s c.part d = [] → descOpen s e c d = true →
    dKind d = 0 → dRows d = 1 → ownAddr s (dSrc d 0) = some a → ownAddr s (le d 8 6) = some b →
    let c1 := { c with done := c.done ++ [ix] }
    ∃ u, exec (.dmaDescComplete t e vc ix) s = .next (if c1.done.length = c.count then chainEnd (setQueue u e vc r) c1 else setHead u e vc c1) ∧
      rdMem u b (dLen d) = keepLanded s ix c.landed b (pastRead s c.part c.ctx a (dLen d)) ∧
      (∀ x, x < b ∨ b + dLen d ≤ x → mget memDefault u.mem x = mget memDefault s.mem x) ∧
      rd u (dmaReg e 4) = rd s (dmaReg e 4) + 1 ∧ queueOf u e vc = c :: r ∧
      (dSig d = true → token u c.part (le d 0x1C 1 % 64) = token s c.part (le d 0x1C 1 % 64) + 1)) ∧
  (∀ (t : Time) (e : Fin 22) (vc : Fin 4) (s : State) (c : Chain) (r : List Chain) (x : Nat × Nat),
    queueOf s e vc = c :: r → running c = [] → c.started.length < c.count → c.started.length < c.fetched →
    lowest (if tget? c.descs c.started.length = none then [(fFence, c.base + 32 * c.started.length)]
      else descErr (descOf c c.started.length)) = some x →
    ∃ u, exec (.dmaDescFault t e vc) s = .next u ∧ queueOf u e vc = r ∧ u.mem = s.mem ∧
      (flag s (dmaReg e 0x10) 31 = false → flag u (dmaReg e 0x10) 31 = true ∧ fld u (dmaReg e 0x10) 0 16 = x.1) ∧
      ∀ l, c.core = some l → (ctxOf s c.part c.ctx).st = .resident → (ctxOf u c.part c.ctx).dying ≠ none)

/-- Errors of DRAM (R208) and of scratchpad rows (R210, R211). -/
def Obligations.MemoryErrorsAreCounted : Prop :=
  (∀ (t : Time) (a : Nat) (rdr : Reader) (s : State), flag s 0x400000 0 = true → a < memTop s →
    (∃ u, exec (.dramReadEcc t a .single rdr) s = .next u ∧ u = { advance s t with regs := u.regs } ∧
      rd u (mcReg (mcOf a) 4) = rd s (mcReg (mcOf a) 4) + 1 ∧ ∀ o, canonOff o ≠ canonOff (mcReg (mcOf a) 4) → rd u o = rd s o) ∧
    ∀ kind, (kind = .double ∨ kind = .misdirected) → ∃ u, exec (.dramReadEcc t a kind rdr) s = .next u ∧
      rd u (mcReg (mcOf a) 8) = rd s (mcReg (mcOf a) 8) + 1 ∧ (rd u (mcReg (mcOf a) 0x10)).toNat = a % 2 ^ 32 ∧
      fld u (mcReg (mcOf a) 0x14) 0 16 = a / 2 ^ 32 % 2 ^ 16 ∧ (rdr = .other → u = { advance s t with regs := u.regs }) ∧
      (∀ l k c, rdr = .slot l k → slotOf s l k = some c → (ctxOf s c.part c.ctx).st = .resident → u.mem = s.mem ∧
        FaultedOn s u c.part c.ctx l fDram) ∧
      (∀ e vc c r, rdr = .dma e vc → e < 22 → queueOf s e vc = c :: r → queueOf u e vc = r ∧
        (flag s (dmaReg e 0x10) 31 = false → flag u (dmaReg e 0x10) 31 = true ∧ fld u (dmaReg e 0x10) 0 16 = fDram) ∧
        ∀ l, c.core = some l → (ctxOf s c.part c.ctx).st = .resident → FaultedOn s u c.part c.ctx l fDram)) ∧
  (∀ (t : Time) (m : Fin 6) (single double : List Nat) (s : State), flag s 0x400000 0 = true →
    ∃ u, exec (.patrolScrub t m single double) s = .next u ∧ u = { advance s t with regs := u.regs } ∧
      rd u (mcReg m 4) = rd s (mcReg m 4) + BitVec.ofNat 32 single.length ∧ rd u (mcReg m 0xC) = rd s (mcReg m 0xC) + 1) ∧
  (∀ (t : Time) (l : Fin 256) (off : Nat) (rdr : Reader) (s : State), off < 0x100000 → (coreOf s l).stopped = false →
    let bank := off / 0x10000
    let row := off % 0x10000 / 64
    let ph := physOf s (physKey s l)
    let a := spadOf l + off / 64 * 64
    (row ∉ tget [] ph.suspects bank → tget? (coreOf s l).drawers (off / 0x1000) = none →
      (rdr = .other ∨ ∃ j k, rdr = .slot j k) →
      ∃ u, exec (.spadParityError t l off rdr) s = .next u ∧ u.mem = s.mem ∧ rd u (tcOff l + 0x48) = rd s (tcOff l + 0x48) + 1 ∧
        tget [] (physOf u (physKey s l)).suspects bank = (row :: tget [] ph.suspects bank).take 4 ∧ (rdr = .other → u.tc = s.tc ∧ u.ctxs = s.ctxs) ∧
        ∀ j k c, rdr = .slot j k → slotOf s j k = some c → (ctxOf s c.part c.ctx).st = .resident → FaultedOn s u c.part c.ctx j fSpad) ∧
    (∀ x y n sc, row ∉ tget [] ph.suspects bank → tget? (coreOf s l).drawers (off / 0x1000) = some x → x.st = .full → x.src = some (y, n) →
      slotOf s l x.cs = some sc →
      ∃ u, exec (.spadParityError t l off rdr) s = .next (settle u l x.cs) ∧ u.mem = s.mem ∧ u.ctxs = s.ctxs ∧
        rd u (tcOff l + 0x48) = rd s (tcOff l + 0x48) + 1 ∧ rd u (tcOff l + 0x4C) = rd s (tcOff l + 0x4C) + 1 ∧
        tget? (coreOf u l).drawers (off / 0x1000) = some { x with st := .granted } ∧
        (coreOf u l).credits = (coreOf s l).credits
          ++ [⟨(coreOf s l).tag, ⟨sc.part, sc.ctx, l, some x.cs, 0, n, some y, false⟩, off / 0x1000, false⟩]) ∧
    (row ∈ tget [] ph.suspects bank → tget 32 ph.left bank ≠ 0 → tget? (coreOf s l).drawers (off / 0x1000) = none → rdr = .other →
      ∃ u, exec (.spadParityError t l off rdr) s = .next u ∧ rd u (tcOff l + 0x48) = rd s (tcOff l + 0x48) + 1 ∧
        (physOf u (physKey s l)).spares = ph.spares + 1 ∧ tget 32 (physOf u (physKey s l)).left bank = tget 32 ph.left bank - 1 ∧
        (bank, row) ∈ (physOf u (physKey s l)).spared ∧ (∀ x, a ≤ x → x < a + 64 → mget memDefault u.mem x = 0) ∧
        ∀ x, (x < a ∨ a + 64 ≤ x) → mget memDefault u.mem x = mget memDefault s.mem x) ∧
    (row ∈ tget [] ph.suspects bank → tget 32 ph.left bank = 0 → mapOf s l < 17 →
      ∃ u, exec (.spadParityError t l off rdr) s = .next u ∧ (coreOf u l).stopped = true))

/-- Bank gating: CLOSING to GATED with the contents lost, back to ON by an access, and waking (R212, R213). -/
def Obligations.BanksCloseAndWake : Prop :=
  (∀ (t : Time) (l : Fin 256) (b : Fin 16) (s : State), bankOf s l b = .closing → (coreOf s l).credits.any (fun c => creditInBank c b) = false →
    ∃ u, exec (.bankClosingDone t l b) s = .next u ∧ bankOf u l b = .gated ∧ u.regs = s.regs ∧
      (∀ x, spadOf l + 0x10000 * b ≤ x → x < spadOf l + 0x10000 * b + 0x10000 → mget memDefault u.mem x = 0) ∧
      ∀ x, (x < spadOf l + 0x10000 * b ∨ spadOf l + 0x10000 * b + 0x10000 ≤ x) → mget memDefault u.mem x = mget memDefault s.mem x) ∧
  (∀ (t : Time) (l : Fin 256) (b : Fin 16) (s : State), bankOf s l b = .closing →
    ∃ u, exec (.bankGateAbort t l b) s = .next u ∧ bankOf u l b = .on ∧ u.mem = s.mem ∧ rd u (tcOff l + 0x60) = rd s (tcOff l + 0x60) + 1) ∧
  (∀ (t : Time) (l : Fin 256) (b : Fin 16) (wr : Bool) (s : State), bankOf s l b = .gated →
    ∃ u, exec (.bankWake t l b wr) s = .next u ∧ bankOf u l b = .waking ∧ u.mem = s.mem ∧
      rd u (tcOff l + (if wr then 0x58 else 0x5C)) = rd s (tcOff l + (if wr then 0x58 else 0x5C)) + 1) ∧
  (∀ (t : Time) (l : Fin 256) (b : Fin 16) (s : State), bankOf s l b = .waking →
    ∃ u, exec (.bankWakeDone t l b) s = .next u ∧ bankOf u l b = .on ∧ u.mem = s.mem ∧ u.regs = s.regs)

/-! ## Partitions, contexts and the boundaries of time -/

/-- The last write before a commit is the one committed (R13), a write at the boundary or later waits for the next (R19), and only the RWC bits
of the word take effect (R12). -/
def Obligations.CommitTakesTheLastWriteBeforeIt : Prop :=
  ∀ (s : State) (b : Time) (off : Nat),
    (∀ v, stagedAt s b off = some v →
      (∀ i < 32, (rd (commitReg b s off) off).getLsbD i =
        if (maskOf .rwc (canonOff off)).getLsbD i then v.getLsbD i else (rd s off).getLsbD i) ∧
      stagedAt (commitReg b s off) b off = none ∧
      (tget [] (commitReg b s off).pend (canonOff off)) = (tget [] s.pend (canonOff off)).filter (fun e => decide (b ≤ e.1))) ∧
    (stagedAt s b off = none → commitReg b s off = s) ∧
    ∀ o, canonOff o ≠ canonOff off → rd (commitReg b s off) o = rd s o

/-- The slot boundary (R259, R260) and the epoch boundary with its commits in order (R472). -/
def Obligations.BoundariesRunInOrder : Prop :=
  (∀ s : State, (s.sch.lastSlot + 1) % 16 ≠ 0 →
    ∃ s1, exec .slotBoundary s = .next (slotStart ((s.sch.lastSlot + 1) * slotNs) ((s.sch.lastSlot + 1) % 16) s1) ∧
      s1.sch.lastSlot = s.sch.lastSlot + 1 ∧ s1.clk.tb = max s.clk.tb ((s.sch.lastSlot + 1) * slotNs) ∧ s1.regs = s.regs ∧ s1.mem = s.mem ∧
      s1.ctxs = s.ctxs ∧ s1.tc = s.tc) ∧
  (∀ s : State, let e := s.sch.lastSlot / 16 + 1
    ∃ s1, s1.clk.tb = max s.clk.tb (e * epochNs) ∧ s1.clk.epochsDone = e ∧ s1.sch.lastSlot = 16 * e ∧ s1.sch.lastEpoch = e ∧ s1.regs = s.regs ∧
      s1.mem = s.mem ∧
      (railsUp s = false → exec .epochBoundary s = .next (updateStart (setFlag s1 0x11C 0 false))) ∧
      (railsUp s = true → exec .epochBoundary s = .next (updateStart (setFlag (afterCommits e
        (slotStart (e * epochNs) 0 (ctxSteps e
          (commitGroup (e * epochNs) 4 (clCommit (e * epochNs)) (commitGroup (e * epochNs) 3 (motCommit (e * epochNs))
          (commitGroup (e * epochNs) 2 (ingCommit (e * epochNs)) (commitGroup (e * epochNs) 1 (burCommit (e * epochNs))
          (handovers (commitGroup (e * epochNs) 0 (schSteps (e * epochNs)) ((rangeFrom 0 16).foldl standIn (chargeAll 15 s1))))))))))) 0x11C 0 false))))

/-- The ends of a context: its job ends (R262, R266, R267), its fault tears it down (R270), its partition is reset (R271). -/
def Obligations.JobsEndContextsFallPartitionsReset : Prop :=
  (∀ (t : Time) (p : Fin 16) (n : Fin 64) (s : State),
    (ctxOf s p n).st = .resident → (ctxOf s p n).dying = none → (ctxOf s p n).cores ≠ [] →
    (∀ g < (ctxOf s p n).cores.length, g ∈ (ctxOf s p n).ended) →
    ((hdrLoop (ctxOf s p n).hdr = false ∨ (ctxOf s p n).stopPend = true) →
      ∃ u, exec (.jobEnd t p n) s = .next u ∧ (ctxOf u p n).st = .free ∧ (ctxOf u p n).cores = [] ∧ (ctxOf u p n).launch = 0 ∧
        (ctxOf u p n).ended = [] ∧ (ranksOf s p n ≠ [] → rd u (jobReg p n 0) = rd s (jobReg p n 0) + 1)) ∧
    (hdrLoop (ctxOf s p n).hdr = true → (ctxOf s p n).stopPend = false → hdrAffinity (ctxOf s p n).hdr = false →
      ∃ u, exec (.jobEnd t p n) s = .next u ∧ (ctxOf u p n).st = .resident ∧ (ctxOf u p n).ended = [] ∧ (ctxOf u p n).issued = false ∧
        (ctxOf u p n).cores = (ctxOf s p n).cores ∧ (ranksOf s p n ≠ [] → rd u (jobReg p n 0) = rd s (jobReg p n 0) + 1) ∧
        ∀ l ∈ (ctxOf s p n).cores, ∀ k c, slotFor s l p n = some k → slotOf s l k = some c →
          ∃ c', slotOf u l k = some c' ∧ c'.ip = progOf (ctxOf s p n).hdr false ∧ c'.steps = 0 ∧ c'.flight = [] ∧ c'.ended = false) ∧
    (hdrLoop (ctxOf s p n).hdr = true → (ctxOf s p n).stopPend = false → hdrAffinity (ctxOf s p n).hdr = true →
      ∃ s1, exec (.jobEnd t p n) s = .next (placeBind s1 p n noGroup).2 ∧ (ctxOf s1 p n).st = .admitted ∧ (ctxOf s1 p n).cores = [] ∧
        (ctxOf s1 p n).bound = false ∧ (ctxOf s1 p n).issued = false ∧ (ctxOf s1 p n).ended = [])) ∧
  (∀ (t : Time) (p : Fin 16) (n : Fin 64) (s : State), (ctxOf s p n).dying ≠ none →
    ∃ u, exec (.contextTeardown t p n) s = .next u ∧ (ctxOf u p n).st = .faulted ∧ (ctxOf u p n).dying = none ∧ (ctxOf u p n).cores = [] ∧
      ((ctxOf s p n).cause ≠ 0 → (ctxOf u p n).fault = (ctxOf s p n).cause)) ∧
  (∀ (t : Time) (p : Fin 16) (s : State),
    ∃ u, exec (.partitionReset t p) s = .next u ∧ (∀ n < 64, (ctxOf u p n).st = .free) ∧ (∀ i < 64, token u p i = 0) ∧
      (∀ c, ∀ x ∈ (sliceOf u c).lines, x.part ≠ p.val) ∧ ∀ l, ∀ r ∈ (coreOf u l).resid, r.part ≠ p.val)

/-- Writing tokens (R279), reading and writing the generator range (R289, R290), resuming from the step break (R293). -/
def Obligations.TokensGeneratorAndStepBreak : Prop :=
  (∀ (t : Time) (ag : Agent) (w : Word) (s : State), writeTakes s ag 0x40010 →
    let p := w.toNat / 2 ^ 28
    let n := w.toNat / 2 ^ 22 % 64
    ∃ u, exec (.schTokSignal t ag w) s = .next u ∧ u = { advance s t with regs := u.regs, kv := u.kv, ing := u.ing } ∧
      token u p n = token s p n + BitVec.ofNat 32 (w.toNat % 2 ^ 22) ∧
      u.kv.bounds = (if boundaryTok s p n then s.kv.bounds ++ [⟨p, false, none⟩] else s.kv.bounds) ∧
      (releaseTok s p n = true → (tget Ring.reset u.ing.rings p).due = (tget Ring.reset s.ing.rings p).due + 1) ∧
      ∀ o, canonOff o ≠ canonOff (tokOff p n) → rd u o = rd s o) ∧
  (∀ (t : Time) (p : Fin 16) (n : Fin 64) (a : Nat) (s : State), inGen a = true → anyWindow s p false a = true →
    ∃ u, exec (.genRead t p n a) s = .next u ∧ (ctxOf u p n).genOut = some (genByte (ctxOf s p n).seed p n a) ∧
      u = { advance s t with ctxs := u.ctxs } ∧ ctxRead s p n a 1 = [genByte (ctxOf s p n).seed p n a]) ∧
  (∀ (t : Time) (p : Fin 16) (n : Fin 64) (a : Nat) (s : State), inGen a = true → anyWindow s p true a = true →
    (ctxOf s p n).st = .resident → (ctxOf s p n).dying = none → (ctxOf s p n).cause = 0 →
    ∃ u, exec (.genWrite t p n a) s = .next u ∧ u.mem = s.mem ∧ (ctxOf u p n).cause = fRngWrite ∧ (ctxOf u p n).dying ≠ none) ∧
  (∀ (t : Time) (ag : Agent) (l : Fin 256) (s : State) (c : SlotCtx), writeTakes s ag (tcOff l + 0x88) →
    let k := fld s (tcOff l + 0x88) 8 3
    slotOf s l k = some c → c.hit = true →
    ∃ s1, slotOf s1 l k = some { c with hit := false, since := s1.clk.tb } ∧ s1.mem = s.mem ∧ s1.regs = s.regs ∧
      exec (.brkResume t ag l) s = .next (settle (if ownsSlot s1 c then resumeSlots s1 l k else s1) l k))
/-- Appends (R236), copies on write (R240) and pins (R239) of the KV cache. -/
def Obligations.KvAppendsCopiesAndPins : Prop :=
  (∀ (t : Time) (l : Fin 256) (k : Fin 8) (s : State) (c : SlotCtx) (i : Nat) (f : InFlight) (a : Append) (ko vo : Opnd),
    slotOf s l k = some c → c.rank = 0 → alive s c.part c.ctx = true →
    firstFlight c (fun _ f => decide (f.ext = .kvapp) && f.units.isEmpty) = some i → c.flight[i]? = some f →
    appendOf s c.part c.ctx f.ip = some a → opnd f 0 = some ko → opnd f 1 = some vo → a.copy = none → a.newLen = none →
    firstBad s c.part false (appReads l ko ++ appReads l { vo with cols := ko.cols }) = .ok →
    ∃ s1, exec (.kvappComplete t l k) s = .next (runBoundaries (tellAll s1 c.part c.ctx f.ip)) ∧
      appendOf s1 c.part c.ctx f.ip = some { a with newLen := some (f.aux + ko.rows) }) ∧
  (∀ (t : Time) (l : Fin 256) (k : Fin 8) (s : State) (c : SlotCtx) (i src dst : Nat) (f : InFlight) (a : Append) (x : Seq),
    slotOf s l k = some c →
    firstFlight c (fun _ f => decide (f.ext = .kvapp) &&
      (match appendOf s c.part c.ctx f.ip with | none => false | some a => a.copy.isSome)) = some i → c.flight[i]? = some f →
    appendOf s c.part c.ctx f.ip = some a → a.copy = some (src, dst) → tget? s.kv.seqs a.seq = some x →
    ∃ u, exec (.kvCopyOnWrite t l k) s = .next (settle u l k) ∧ rd u 0x50024 = rd s 0x50024 + 1 ∧
      appendOf u c.part c.ctx f.ip = some { a with copy := none } ∧
      (tget? u.kv.seqs a.seq).map (fun y => tget [] y.pages a.hgrp) =
        some ((tget [] x.pages a.hgrp).map (fun g => if g = src then dst else g))) ∧
  (∀ (t : Time) (l : Fin 256) (k : Fin 8) (page i : Nat) (s : State) (c : SlotCtx) (f : InFlight),
    slotOf s l k = some c → firstFlight c (fun _ f => decide (opcodeOf f.bytes = 3) && f.pages.contains page) = some i → c.flight[i]? = some f →
    stillReads f page = false → ∃ s1, exec (.kvPinRelease t l k page) s = .next (unpin s1 page) ∧ s1.mem = s.mem ∧ s1.regs = s.regs ∧
      flightAt s1 l k i = some { f with pages := f.pages.filter (fun x => decide (x ≠ page)) })

/-- Batch boundaries (R247), insertion into the prefix tree (R242 to R244), hot copies (R245). -/
def Obligations.KvBoundariesTreeAndHotPages : Prop :=
  (∀ (t : Time) (p : Fin 16) (s : State),
    exec (.kvBatchBoundary t p) s = .next (runBoundaries { advance s t with kv := { s.kv with bounds := markDue p s.kv.bounds } }) ∧
    (s.kv.bounds = [⟨p, false, none⟩] → rq s p (fld s (kvPart p + 0x0C) 0 12) 0x3F 1 % 2 = 0 →
      let n := fld s (kvPart p + 8) 8 6
      ∃ u, exec (.kvBatchBoundary t p) s = .next u ∧ u.mem = s.mem ∧ u.tc = s.tc ∧
        u.kv = { s.kv with bounds := if boundaryTok s p n then [⟨p, false, none⟩] else [] } ∧ token u p n = token s p n + 1)) ∧
  (∀ (t : Time) (q : Fin 2048) (blk : Nat) (s : State) (x : Seq) (pgs : List Nat),
    tget? s.kv.seqs q = some x → x.insert = true → x.hot = false → 64 * blk + 64 ≤ x.prefixLen → blockPages x blk = some pgs →
    (∀ pg ∈ pgs, ph s pg 0 1 % 4 = 2) → s.kv.nodes.length < fld s 0x50014 0 17 →
    let k := nth 0 (blockKeys (modelKey x.model) x.tokens (blk + 1)) blk
    s.kv.nodes.any (fun y => decide (y.part = x.part) && decide (y.key = k)) = false →
    ∃ u nd, exec (.kvTreeInsert t q blk) s = .next u ∧ u.kv.nodes = s.kv.nodes ++ [nd] ∧ nd.key = k ∧ nd.part = x.part ∧ nd.pages = pgs ∧
      nd.tokens = (x.tokens.drop (64 * blk)).take 64 ∧ nd.hot = false) ∧
  (∀ (t : Time) (page d l : Nat) (c : Fin 16) (s : State),
    let p := ph s page 0x10 1 % 16
    s.kv.hotQ.find? (fun e => decide (e.2 = c.val)) = some (page, c.val) →
    (hotPlaces s p).find? (fun d => !((s.kv.hotDone.filter (fun x => decide (x.2.1 = c.val) && decide (ph s x.1 0x10 1 % 16 = p))).map
      (fun x => x.2.2)).contains d) = some d →
    (rangeFrom (16 * c) 16).find? (fun l => decide (ownerOf s l = some p) && !coreUnavail s l) = some l →
    rangesOpen s kvWriter none [(spadOf l + 0x1000 * d, 0x4000)] = true → rangesOn s [(spadOf l + 0x1000 * d, 0x4000)] = true →
    ∃ u, exec (.kvHotCopy t page c) s = .next u ∧ u.kv = { s.kv with
        hotQ := s.kv.hotQ.filter (fun x => decide (x ≠ (page, c.val))), hotDone := s.kv.hotDone ++ [(page, c.val, d)] } ∧
      u.mem = (wrMem s (spadOf l + 0x1000 * d) (rdMem s (kvPage s page) 0x4000)).mem)

/-! ## Camera ingest, PTP and the gang -/

/-- Port links (R330, R332), the checks of a received frame in their order (R301, R302), and an RTP packet in or out of order (R317). -/
def Obligations.LinksAndReceivedFrames : Prop :=
  (∀ (t : Time) (p : Fin 8) (s : State),
    (portOk s p = true → ∃ u, exec (.ethLinkUp t p) s = .next u ∧ linkUp u p = true ∧ u = { advance s t with regs := u.regs }) ∧
    (portOk s p = false → exec (.ethLinkUp t p) s = .next (advance s t))) ∧
  (∀ (t : Time) (p : Fin 8) (s : State), linkUp s p = true →
    ∃ u, exec (.ethLinkDown t p) s = .next u ∧ linkUp u p = false ∧ rd u (portReg p 0x24) = rd s (portReg p 0x24) + 1 ∧
      u = { advance s t with regs := u.regs }) ∧
  (∀ (t : Time) (p : Fin 8) (f : RxFrame) (s : State), portOk s p = true →
    let s1 := rxCount (rxMove (advance s t) p f.moved) p 0x28
    let e := ethOf f.bytes
    let good := fcsOk f.bytes = true ∧ carried e ≠ .bad ∧ 64 ≤ f.bytes.length
    let vlanOk := flag s1 (portReg p 0) 12 = false ∨ e.vlan = some (fld s1 (portReg p 0) 0 12)
    rd s1 (portReg p 0x28) = rd s (portReg p 0x28) + 1 ∧
    ((fcsOk f.bytes = false ∨ carried e = .bad) → exec (.rxFrame t p f) s = .next (rxCount s1 p 0x2C)) ∧
    (good → 9216 < f.bytes.length → exec (.rxFrame t p f) s = .next (rxCount s1 p 0x34)) ∧
    (good → f.bytes.length ≤ 9216 → isPause e = true → exec (.rxFrame t p f) s = .next (rxCount s1 p 0x40)) ∧
    (good → f.bytes.length ≤ 9216 → isPause e = false → ¬ vlanOk → exec (.rxFrame t p f) s = .next (rxCount s1 p 0x30)) ∧
    (good → f.bytes.length ≤ 9216 → isPause e = false → vlanOk →
      (0x40000 < rxUsed s1 p + f.bytes.length → exec (.rxFrame t p f) s = .next (rxCount s1 p 0x38)) ∧
      (rxUsed s1 p + f.bytes.length ≤ 0x40000 → portMode s1 p = 1 → (if ptpPort s1 p then ptpOf (flag s1 (ptpReg 0) 30) e else none) = none →
        ∀ u n, carried e = .udp u → ownIp s1 p u = true → 12 ≤ u.body.length → matchEntry s1 p u.dport (be u.body 8 4) = some n →
          exec (.rxFrame t p f) s = .next (rtpPacket s1 n (rtpOf (codecOf s1 n) (fld s1 (entReg n 0x14) 24 8) u.body))))) ∧
  (∀ (s : State) (n : Nat) (pkt : RtpPkt),
    let x := { strmOf s n with lastPkt := s.clk.tb }
    x.expected.isSome = true → (flag s (entReg n 0) 28 = true ∨ x.ssrc = some pkt.ssrc) →
    (1 ≤ seqDist x pkt.seq → seqDist x pkt.seq ≤ 1023 → x.held.any (fun h => decide (h.pkt.seq % 65536 = pkt.seq % 65536)) = false →
      (strmOf (rtpPacket s n pkt) n).held = holdPkt (seqDist x) ⟨pkt, s.clk.tb⟩ x.held) ∧
    (seqDist x pkt.seq = 0 →
      rtpPacket s n pkt = deliverAll (deliver (setStrm (setStrm s n x) n { x with behind := 0 }) n ⟨pkt, s.clk.tb⟩) n))

/-- A gap is declared lost (R317, R318), a silent stream resynchronises (R318, R330), an access unit is complete (R309). -/
def Obligations.GapsIdleStreamsAndCompleteUnits : Prop :=
  (∀ (t : Time) (n : Fin 512) (s : State) (h : HeldPkt) (r : List HeldPkt), (strmOf s n).held = h :: r →
    let due := r.foldl (fun m g => min m g.arr) h.arr + 1000 * fld s (entReg n 0x1C) 0 16 ≤ max s.clk.tb t ∨
      clampNat 1 64 (fld s (entReg n 0x1C) 16 7) ≤ (strmOf s n).held.length
    ∃ u, exec (.gapTimeout t n) s = .next u ∧
      (due → rd u (strReg n 0x14) = rd s (strReg n 0x14) + BitVec.ofNat 32 (seqDist (strmOf s n) h.pkt.seq)) ∧ (¬ due → u = advance s t)) ∧
  (∀ (t : Time) (n : Fin 512) (s : State), (strmOf s n).st = .run → (strmOf s n).aus = [] →
    (strmOf s n).lastPkt + idleNs s n ≤ max s.clk.tb t →
    ∃ u, exec (.auIdleTimeout t n) s = .next u ∧ (strmOf u n).st = .resync ∧ (strmOf u n).synced = false ∧ u.mem = s.mem) ∧
  (∀ (t : Time) (n : Fin 512) (s : State) (a : Au), (strmOf s n).aus.find? (fun a => a.marker && !a.complete) = some a →
    ∃ u, exec (.auComplete t n) s = .next u ∧ u.regs = s.regs ∧ u.mem = s.mem ∧
      (strmOf u n).aus = (strmOf s n).aus.map (fun b => if b.ctr = a.ctr then { a with complete := true } else b))

/-- Decoding starts by deadline (R316), ends in publication (R325) or in a drop (R311, R320, R331), and a release entry frees its notice (R327). -/
def Obligations.DecodePublishAndRelease : Prop :=
  (∀ (t : Time) (e : Fin 32) (s : State) (n : Nat) (a : Au), inProgress s e < 4 → nextStart s e = some (n, a) →
    ∃ u, exec (.decodeStart t e) s = .next u ∧ u.regs = s.regs ∧ u.mem = (rxFlush s n).mem ∧
      (strmOf u n).aus = (strmOf s n).aus.map (fun x => if x.ctr = a.ctr then { a with started := true } else x) ∧
      (strmOf u n).bufs = (strmOf s n).bufs) ∧
  (∀ (t : Time) (n : Fin 512) (ctr : Nat) (s : State) (a : Au), auOf (strmOf s n) ctr = some a → a.started = true →
    (∀ d nv12 b, a.complete = true → outputOf (codecOf s n) d = some nv12 → d.cropW ≤ declW s n → d.cropH ≤ declH s n → d.cropW ≤ 4096 →
      d.cropH ≤ 4096 → d.need ≤ nbufOf s n - 1 → a.buf = some b →
      exec (.decodeComplete t n ctr (.picture d)) s = .next (publish (advance s t) n a b nv12 d) ∧
      rd (publish (advance s t) n a b nv12 d) (strReg n 0xC) = rd s (strReg n 0xC) + 1) ∧
    (∃ u, exec (.decodeComplete t n ctr .error) s = .next u ∧ rd u (strReg n 0x2C) = rd s (strReg n 0x2C) + 1 ∧
      rd u (strReg n 0x24) = rd s (strReg n 0x24) + 1) ∧
    (∃ u, exec (.decodeComplete t n ctr .poison) s = .next u ∧ rd u (strReg n 0x24) = rd s (strReg n 0x24) + 1) ∧
    ∃ u, exec (.decodeComplete t n ctr .unsupported) s = .next u ∧ rd u (strReg n 0x24) = rd s (strReg n 0x24) + 1) ∧
  (∀ (t : Time) (p : Fin 16) (s : State), 0 < (nringOf s p).due →
    let r := nringOf s p
    let e := rdLE s (fld s (noticeReg p 8) 3 29 * 8 + 2 ^ 32 * fld s (noticeReg p 0xC) 0 16 + 8 * (r.rel % ringSize s p)) 8
    ∃ u, exec (.noticeRelease t p) s = .next u ∧ (nringOf u p).rel = r.rel + 1 ∧ (nringOf u p).due = r.due - 1 ∧ u.mem = s.mem ∧
      (tget? r.slots (fieldOf e 48 12) = some (fieldOf e 32 9, fieldOf e 0 32) → tget? (nringOf u p).slots (fieldOf e 48 12) = none ∧ u.regs = s.regs) ∧
      (tget? r.slots (fieldOf e 48 12) ≠ some (fieldOf e 32 9, fieldOf e 0 32) →
        (nringOf u p).slots = r.slots ∧ rd u (noticeReg p 0x18) = rd s (noticeReg p 0x18) + 1))

/-- PTP: ORIGIN and offset (R306), correction only by slewing within ±500 ppm (R45), path delay (R306), best master (R304), holdover (R307). -/
def Obligations.PtpDisciplinesTheTimebase : Prop :=
  (∀ (t : Time) (m : PtpMsg) (gm iv : Nat) (s : State), ptpTaken s m iv = true → ofMaster s m = true →
    ∃ u, exec (.ptpSync t m gm iv) s = .next u ∧ u.clk = (advance s t).clk ∧ rd u (ptpReg 0x20) = rd s (ptpReg 0x20) + 1 ∧
      flag u (ptpReg 0xC) 2 = false ∧ u.ing.lastSync = some (max s.clk.tb t, iv, gm) ∧
      (originSet s = false → originSet u = true ∧ rd u (ptpReg 0x10) = 0 ∧
        originOf u = sx 64 (tc 64 (((gm + (rd s (ptpReg 0x14)).toNat : Nat) : Int) - (max s.clk.tb t : Nat)))) ∧
      (originSet s = true → originOf u = originOf s ∧ (sx 32 (rd u 0x110).toNat).natAbs ≤ 500000 ∧
        rd u (ptpReg 0x10) = BitVec.ofInt 32 (((gm + (rd s (ptpReg 0x14)).toNat : Nat) : Int) - ((max s.clk.tb t : Nat) + originOf s)))) ∧
  (∀ (t : Time) (d : PtpDelay) (arr org j : Nat) (s : State), ptpTaken s d.msg d.logInt = true → ofMaster s d.msg = true →
    s.ing.lastSync = some (arr, j, org) →
    let l := (((arr : Int) - org + (d.gm - d.sent)).toNat :: s.ing.delays).take 8
    ∃ u, exec (.ptpDelayResp t d) s = .next u ∧ u.ing.delays = l ∧
      rd u (ptpReg 0x14) = BitVec.ofInt 32 (rneDivInt l.sum (2 * l.length))) ∧
  (∀ (t : Time) (m : PtpMsg) (a : Announce) (s : State), ptpTaken s m 0 = true →
    let f := announced (advance s t) m a
    ∃ u, exec (.ptpAnnounce t ⟨m, a⟩) s = .next u ∧ u.regs = s.regs ∧ u.ing = { s.ing with masters := u.ing.masters } ∧ f ∈ u.ing.masters ∧
      (∀ g, g.source ≠ m.source → (g ∈ u.ing.masters ↔ g ∈ s.ing.masters)) ∧
      (∀ g, s.ing.masters.find? (fun g => decide (g.source = m.source)) = some g → max s.clk.tb t ≤ g.at_ + 4 * intervalNs a.logInt →
        f.qualified = true) ∧
      (masterLive (advance s t) f = true → (∀ g ∈ s.ing.masters, g.source ≠ m.source → masterLive (advance s t) g = true →
        betterMaster f g = true ∧ betterMaster g f = false) → bestMaster u = some m.source)) ∧
  (∀ (t : Time) (s : State) (a iv g : Nat), servoOn s = true → s.ing.lastSync = some (a, iv, g) → a + 8 * (2 ^ iv * 7812500) ≤ max s.clk.tb t →
    ∃ u, exec (.ptpHoldover t) s = .next u ∧ flag u (ptpReg 0xC) 2 = true ∧ flag u (ptpReg 0xC) 0 = false ∧ u.ing.inRow = 0)

/-- The gang: frames in order (R275, R303), the time exchange (R274), an unreachable member (R275). -/
def Obligations.GangFramesTimeAndLoss : Prop :=
  (∀ (t : Time) (p src : Fin 8) (seq : Nat) (b : PeerBody) (s : State), isPeer s p = true → seq = tget 0 s.gang.seqs src →
    ∃ s1, exec (.peerFrame t p src seq true b) s = .next (peerBody s1 b) ∧ tget 0 s1.gang.seqs src = seq + 1 ∧
      rd s1 (portReg p 0x28) = rd s (portReg p 0x28) + 1 ∧ s1 = { advance s t with regs := s1.regs, gang := s1.gang } ∧
      (∀ q a bs sig, b = .write q a bs sig → q < 16 → spadCore a = none → checkAcc s q true a bs.length = .ok →
        (peerBody s1 b).mem = (wrMem s a bs).mem ∧ ∀ k, sig = some k → token (peerBody s1 b) q k = token s q k + 1) ∧
      (∀ e vc a, b = .refused e vc a → peerBody s1 b = chainFault s1 e vc fFence a none) ∧
      (∀ m up vers, b = .service m up vers → m ≠ gangMember s → tget false (peerBody s1 b).gang.want m = up ∧ tget 0 (peerBody s1 b).gang.vers m = vers)) ∧
  (∀ (t : Time) (p src : Fin 8) (seq : Nat) (ok : Bool) (b : PeerBody) (s : State), isPeer s p = true → (ok = false ∨ seq ≠ tget 0 s.gang.seqs src) →
    ∃ u, exec (.peerFrame t p src seq ok b) s = .next u ∧ rd u (portReg p 0x28) = rd s (portReg p 0x28) + 1 ∧ u = { advance s t with regs := u.regs }) ∧
  (∀ (t : Time) (p src : Fin 8) (seq : Nat) (ok : Bool) (b : PeerBody) (s : State), isPeer s p = false →
    exec (.peerFrame t p src seq ok b) s = .next (advance s t)) ∧
  (∀ (t : Time) (p : Fin 8) (off : Int) (origin : Nat) (s : State), isPeer s p = true → linkUp s p = true → gangMember s ≠ 0 →
    ∃ u, exec (.peerTimeExchange t p off origin) s = .next u ∧ rd u 0x4000C = BitVec.ofInt 32 off ∧ flag u 0x40000 9 = decide (50 < off.natAbs) ∧
      (sx 32 (rd u 0x110).toNat).natAbs ≤ 500000 ∧ u.clk = (advance s t).clk ∧ u.gang.origin = some origin) ∧
  (∀ (t : Time) (m : Fin 8) (s : State), m.val ≠ gangMember s → m.val < gangSize s →
    ∃ u, exec (.peerUnreachable t m) s = .next u ∧ ∀ e vc, (∀ c ∈ queueOf u e vc, chainTo s m c = false) ∧
      ∀ c ∈ queueOf s e vc, (chainTo s m c = false → c ∈ queueOf u e vc) ∧
        (chainTo s m c = true → ∀ l, c.core = some l → (ctxOf s c.part c.ctx).st = .resident → (ctxOf u c.part c.ctx).dying ≠ none))
/-! ## Display -/

/-- Frames (R360, R472), lines (R340), line fetch (R346), underrun (R347), coefficients (R350). -/
def Obligations.FramesLinesAndPixels : Prop :=
  (∀ (t : Time) (d : Fin 4) (bad : List (Nat × Nat)) (s : State),
    let s' := advance s t
    let s1 := commitGroup s'.clk.tb (8 + d) (dpoCommit s'.clk.tb d) s'
    (flag s (dpoReg d 4) 0 = true → (dpoOf s d).line + 1 < (vActive s d : Int) → exec (.dpoFrameBoundary t d bad) s = .next s') ∧
    ((holdWord s' s'.clk.tb).getLsbD (8 + d) = true → s1 = bump s' 0x214) ∧
    (flag s (dpoReg d 4) 0 = true → (vActive s d : Int) ≤ (dpoOf s d).line + 1 → flag s1 (dpoReg d 0) 31 = true →
      ∃ u, exec (.dpoFrameBoundary t d bad) s = .next u ∧ u = newFrame d bad (skipIssued s1 d) ∧ rd u (dpoReg d 0x30) = rd s1 (dpoReg d 0x30) + 1) ∧
    (flag s (dpoReg d 4) 0 = false → flag s1 (dpoReg d 0) 31 = true →
      ∃ u, exec (.dpoFrameBoundary t d bad) s = .next u ∧ flag u (dpoReg d 4) 0 = true ∧ rd u (dpoReg d 0x30) = 1) ∧
    (flag s (dpoReg d 4) 0 = false → flag s1 (dpoReg d 0) 31 = false →
      ∃ u, exec (.dpoFrameBoundary t d bad) s = .next u ∧ flag u (dpoReg d 4) 0 = false ∧ u.dpo = s1.dpo)) ∧
  (∀ (t : Time) (d : Fin 4) (s : State), flag s (dpoReg d 4) 0 = true → (dpoOf s d).line + 1 < (vActive s d : Int) →
    ∃ u, exec (.scanLineStart t d) s = .next u ∧ (dpoOf u d).line = (dpoOf s d).line + 1 ∧ u.mem = s.mem ∧
      ((dpoOf s d).line + 1 < 0 → (dpoOf u d).pix = (dpoOf s d).pix ∧ u.regs = s.regs) ∧
      (0 ≤ (dpoOf s d).line + 1 → (dpoOf u d).pix.length = hActive s d) ∧
      ((dpoOf s d).line + 1 = 0 → (dpoOf s d).coefLoad = true → rd u (dpoReg d 0x6C) = rd s (dpoReg d 0x6C) + 1) ∧
      ((dpoOf s d).line + 1 = 0 → (dpoOf s d).flipped = true → rd u (dpoReg d 0x44) = rd s (dpoReg d 0x30))) ∧
  (∀ (t : Time) (d : Fin 4) (i row : Nat) (bad : List Nat) (s : State) (buf co pitch : Nat), flag s (dpoReg d 4) 0 = true → i < 8 →
    let v := dropPassed (advance s t) d
    layPic v d i = some (buf, co, pitch) → row < lf v d i 0x18 16 16 → firstNeeded v d i ≤ row → findLine (dpoOf v d).lines i row = none →
    ((dpoOf v d).lines.filter (fun l => decide (l.layer = i))).length < lf v d i 0x24 0 8 → neededBlocks v d i row ≠ [] →
    ∃ u, exec (.lineFetch t d (.source i row) bad) s = .next u ∧ u.mem = s.mem ∧
      findLine (dpoOf u d).lines i row = some ⟨i, row,
        rdMem s (buf + (lf v d i 0x14 16 16 + row) * pitch + lf v d i 0x14 0 16 * pixBytes (lf v d i 0 20 3)) (lf v d i 0x18 0 16 * pixBytes (lf v d i 0 20 3)),
        bad.filter (neededBlocks v d i row).contains⟩) ∧
  (∀ (t : Time) (d : Fin 4) (k : Nat) (s : State) (p : Pix), (dpoOf s d).pix[k]? = some none →
    (if k = 0 then some (dpoOf s d).lastPix else nth none (dpoOf s d).pix (k - 1)) = some p →
    ∃ u, exec (.pixelUnderrun t d k) s = .next u ∧ u.mem = s.mem ∧ (dpoOf u d).pix = setNth (dpoOf s d).pix k (some p) ∧
      rd u (dpoReg d 0x50) = rd s (dpoReg d 0x50) + 1 ∧
      rd u (dpoReg d 0x4C) = (if (dpoOf s d).under then rd s (dpoReg d 0x4C) else rd s (dpoReg d 0x4C) + 1)) ∧
  (∀ (t : Time) (d : Fin 4) (s : State), (dpoOf s d).coefLoad = true →
    let img := rdMem s (fld s (dpoReg d 0x80) 6 26 * 64 + 2 ^ 32 * fld s (dpoReg d 0x84) 0 16) 1792
    ∃ u, exec (.coefLoadComplete t d) s = .next u ∧ u.regs = s.regs ∧ u.mem = s.mem ∧ (dpoOf u d).coefLoad = false ∧
      ((dpoOf s d).line < 0 → (dpoOf u d).coef = img) ∧ (0 ≤ (dpoOf s d).line → (dpoOf u d).coefNext = some img ∧ (dpoOf u d).coef = (dpoOf s d).coef))

/-- Release (R353 to R355, R359) and deadline (R356) of a neural stripe. -/
def Obligations.StripesAreRequestedAndJudged : Prop :=
  (∀ (t : Time) (d : Fin 4) (k f : Nat) (bad : List Nat) (s : State) (n0 n : Snap) (q : Sel), flag s (dpoReg d 4) 0 = true →
    let s' := advance s t
    releaseSnap s' d k = some n0 → frameAtLine s' d ((slf n0 0x1C 16 16 : Int) + 64 * k - (nf n0 0x8C 16 16 : Nat)) = some f →
    let r := if k = 0 ∧ (selFor s' d f).isNone then selectFrame s' d f bad else s'
    selFor r d f = some q → snapOf r d q = some n → nf n 0x88 31 1 = 1 → 64 * k < slf n 0x20 16 16 →
    (dpoOf r d).stripes.any (fun p => decide (p.frame = f) && decide (p.idx = k)) = false →
    (slotFree r d k n = true → (dpoOf r d).blocked = false → (dpoOf r d).quiet ≠ some f →
      ∃ u due, exec (.stripeRelease t d k bad) s = .next u ∧ rd u (dpoReg d 0xA8) = rd r (dpoReg d 0xA8) + 1 ∧
        token u (nf n 0x88 24 4) (nf n 0x88 18 6) = token r (nf n 0x88 24 4) (nf n 0x88 18 6) + 1 ∧
        u.mem = (wrMem r (nf n 0x94 6 26 * 64 + 2 ^ 32 * nf n 0x98 0 16 + 64 * ((rd r (dpoReg d 0xA8)).toNat % 16))
          (requestBytes d (rd r (dpoReg d 0xA8)).toNat k f (min 64 (slf n 0x20 16 16 - 64 * k)) q.phase (k % (nf n 0x88 8 2 + 1)) q.a q.b
            (nf n 0x9C 16 16 * 0x10000 + 2 ^ 32 * nf n 0xA0 0 16 + k % (nf n 0x88 8 2 + 1) * nf n 0xA0 16 8 * 0x10000) due)).mem) ∧
    ((slotFree r d k n = false ∨ (dpoOf r d).blocked = true ∨ (dpoOf r d).quiet = some f) →
      ∃ u, exec (.stripeRelease t d k bad) s = .next u ∧ u.mem = r.mem ∧ rd u (dpoReg d 0x58) = rd r (dpoReg d 0x58) + 1)) ∧
  (∀ (t : Time) (d : Fin 4) (k : Nat) (s : State) (p : NStripe) (q : Sel) (n : Snap),
    (dpoOf s d).stripes.find? (fun p => decide (p.idx = k) && p.neural.isNone) = some p → selFor s d p.frame = some q → snapOf s d q = some n →
    frameAtLine s d ((slf n 0x1C 16 16 : Int) + 64 * k - (nf n 0x8C 0 16 : Nat)) = some p.frame →
    (p.issued = true → p.dead = false → (dpoOf s d).blocked = false → p.seen.isSome = true →
      ∃ u, exec (.stripeDeadline t d k) s = .next u ∧ u.mem = s.mem ∧ rd u (dpoReg d 0x54) = rd s (dpoReg d 0x54) ∧
        (dpoOf u d).stripes = (dpoOf s d).stripes.map (fun r => if r.frame = p.frame ∧ r.idx = k then { r with neural := some true } else r)) ∧
    ((p.issued = false ∨ p.dead = true ∨ (dpoOf s d).blocked = true ∨ p.seen = none) →
      ∃ u, exec (.stripeDeadline t d k) s = .next u ∧ u.mem = s.mem ∧ rd u (dpoReg d 0x54) = rd s (dpoReg d 0x54) + 1 ∧
        (dpoOf u d).stripes = (dpoOf s d).stripes.map (fun r => if r.frame = p.frame ∧ r.idx = k then { r with neural := some false } else r)))

/-- Link training (R339), hot plug (R362), AUX (R363), touch (R364, R366). -/
def Obligations.LinkAuxAndTouch : Prop :=
  (∀ (t : Time) (ag : Agent) (d : Fin 4) (s : State), writeTakes s ag (dpoReg d 0xC) → flag s (dpoReg d 4) 4 = false →
    ∃ u, exec (.dpoTrain t ag d) s = .next u ∧ u = { advance s t with regs := u.regs, dpo := u.dpo, svc := u.svc } ∧
      (linkBad s d = false → u.svc = s.svc ∧ flag u (dpoReg d 4) 4 = true ∧ flag u (dpoReg d 4) 3 = false ∧ (dpoOf u d).deep = flag s (dpoReg d 8) 9 ∧
        (dpoOf u d).ycc = decide (listed 6 2 (fld s (dpoReg d 8) 10 2) = 1)) ∧
      (linkBad s d = true → fld u (dpoReg d 4) 16 16 = 0x0801 ∧ flag u (dpoReg d 4) 4 = false ∧ u.dpo = s.dpo ∧ Noted s u (.output d) 0x0801 0)) ∧
  (∀ (t : Time) (d : Fin 4) (ok : Bool) (s : State), flag s (dpoReg d 4) 4 = true →
    ∃ u, exec (.dpoTrainDone t d ok) s = .next u ∧ u = { advance s t with regs := u.regs, svc := u.svc } ∧ flag u (dpoReg d 4) 4 = false ∧ flag u (dpoReg d 4) 3 = ok ∧
      (ok = true → u.svc = s.svc) ∧ (ok = false → fld u (dpoReg d 4) 16 16 = 0x0802 ∧ Noted s u (.output d) 0x0802 0)) ∧
  (∀ (t : Time) (d : Fin 4) (up : Bool) (s : State), ∃ u, exec (.hpdChange t d up) s = .next u ∧ u = { advance s t with regs := u.regs } ∧
    flag u (dpoReg d 4) 2 = up ∧ (up = false → flag u (dpoReg d 4) 3 = false)) ∧
  (∀ (t : Time) (d : Fin 4) (s : State), flag s (dpoReg d 4) 2 = true →
    ∃ u, exec (.irqHpd t d true) s = .next u ∧ u = { advance s t with regs := u.regs, svc := u.svc } ∧ flag u (dpoReg d 4) 3 = false ∧
      fld u (dpoReg d 4) 16 16 = 0x0803 ∧ Noted s u (.output d) 0x0803 0) ∧
  (∀ (t : Time) (ag : Agent) (d : Fin 4) (w : Word) (s : State), writeTakes s ag (dpoReg d 0xC0) → flag s (dpoReg d 0xC4) 31 = false →
    ∃ u, exec (.auxGo t ag d w) s = .next u ∧ u.mem = s.mem ∧ flag u (dpoReg d 0xC4) 31 = true ∧ rd u (dpoReg d 0xC0) = w &&& 0x0FFFFFFF) ∧
  (∀ (t : Time) (d : Fin 4) (r : AuxReply) (s : State), flag s (dpoReg d 0xC4) 31 = true →
    ∃ u, exec (.auxReply t d r) s = .next u ∧ u.mem = s.mem ∧
      (r = .defer → (dpoOf s d).tries < 7 → flag u (dpoReg d 0xC4) 31 = true ∧ (dpoOf u d).tries = (dpoOf s d).tries + 1 ∧ u.regs = s.regs) ∧
      (r = .defer → 7 ≤ (dpoOf s d).tries → flag u (dpoReg d 0xC4) 31 = false ∧ fld u (dpoReg d 0xC4) 2 2 = 2) ∧
      (r = .nack → flag u (dpoReg d 0xC4) 31 = false ∧ fld u (dpoReg d 0xC4) 2 2 = 1) ∧
      (r = .timeout → flag u (dpoReg d 0xC4) 31 = false ∧ fld u (dpoReg d 0xC4) 2 2 = 3) ∧
      (∀ bs, r = .ack bs → flag u (dpoReg d 0xC4) 31 = false ∧ fld u (dpoReg d 0xC4) 2 2 = 0)) ∧
  (∀ (t : Time) (p : Fin 2) (sp : Fin 4) (m : List Word) (s : State), ∃ u, exec (.usbConnectChange t p sp m) s = .next u ∧
    u = { advance s t with regs := u.regs } ∧ fld u (usbReg p 0) 29 2 = sp ∧ flag u (usbReg p 0) 28 = decide (sp.val ≠ 0)) ∧
  (∀ (t : Time) (p : Fin 2) (bs : List Byte) (s : State), flag s (usbReg p 0) 31 = true → flag s (usbReg p 0) 28 = true →
    (bs.head? = some (BitVec.ofNat 8 (fld s (usbReg p 4) 24 8)) → ∃ u, exec (.usbTouchReport t p bs) s = .next u ∧
      rd u (usbReg p 0x24) = rd s (usbReg p 0x24) + BitVec.ofNat 32 (fld s (usbReg p 4) 20 4) ∧
      rd u (usbReg p 0x28) = rd s (usbReg p 0x28) + BitVec.ofNat 32 (fld s (usbReg p 4) 20 4)) ∧
    (bs.head? ≠ some (BitVec.ofNat 8 (fld s (usbReg p 4) 24 8)) → exec (.usbTouchReport t p bs) s = .next (advance s t)))
/-! ## Motion and safe inputs and outputs -/

/-- Cycles (R373), frames (R371, R374 to R377), command sets (R378), input sets (R382). -/
def Obligations.MotionCyclesAndFrames : Prop :=
  (∀ (t : Time) (s : State), motRunning s = true →
    (emitAt s s.mot.next ≤ max s.clk.tb t → ∃ u, exec (.emissionPoint t) s = .next u ∧ u.mot.next = s.mot.next + 1 ∧
      rd u 0x380020 = BitVec.ofNat 32 s.mot.next ∧
      ∀ m, m ∈ activePorts s → ∃ x, (mportOf u m).tx = some x ∧ x.cycle = s.mot.next ∧ x.start = none) ∧
    (max s.clk.tb t < emitAt s s.mot.next → exec (.emissionPoint t) s = .next (advance s t))) ∧
  (∀ (t : Time) (m : Fin 2) (ac : List Dgram) (s : State) (x : Tx), (mportOf s m).tx = some x → x.start = none →
    (emitAt s x.cycle + 16000 ≤ max s.clk.tb t → ∃ u z, exec (.frameSend t ⟨m, ac⟩) s = .next u ∧ u.mem = s.mem ∧ (mportOf u m).tx = some z ∧
      z.start = some (max s.clk.tb t) ∧ z.cycle = x.cycle ∧ z.axes = x.axes ∧
      z.sysTime = max s.clk.tb t + 640 - s.mot.dcBase.getD 0 + (rd s 0x380018).toNat ∧ (mportOf u m).sent = z.bitmap ∧
      z.acyclic = fitDgrams (frameLen (cyclicDgrams z)) ac) ∧
    (max s.clk.tb t < emitAt s x.cycle + 16000 → exec (.frameSend t ⟨m, ac⟩) s = .next (advance s t))) ∧
  (∀ (t : Time) (m : Fin 2) (broken : Bool) (c : FrameCopy) (y : Option FrameCopy) (s : State) (x : Tx) (a : Time), topo s ≠ 2 →
    (mportOf s m).tx = some x → x.start = some a → a ≤ max s.clk.tb t → max s.clk.tb t ≤ emitAt s (x.cycle + 1) → c.bad = false →
    (c.wkc = fld s (mpReg m 0x14) 0 16 → ∃ u, exec (.frameReturn t m broken c y) s = .next u ∧ (mportOf u m).tx = none ∧ (mportOf u m).loss = 0 ∧
      (mportOf u m).inp = some ⟨x.cycle, true, orBytes [] c.image⟩ ∧ (ringsOn s m = false → u.regs = s.regs ∧ u.mem = s.mem)) ∧
    (c.wkc ≠ fld s (mpReg m 0x14) 0 16 → ∃ u, exec (.frameReturn t m broken c y) s = .next u ∧ (mportOf u m).tx = none ∧
      (mportOf u m).inp = some ⟨x.cycle, false, orBytes [] c.image⟩ ∧ (mportOf u m).loss = (mportOf s m).loss + 1 ∧
      rd u (mpReg m 0x30) = rd s (mpReg m 0x30) + 1)) ∧
  (∀ (t : Time) (m : Fin 2) (s : State) (x : Tx), (mportOf s m).tx = some x →
    (emitAt s (x.cycle + 1) ≤ max s.clk.tb t → ∃ u, exec (.frameLossTimeout t m) s = .next u ∧ (mportOf u m).tx = none ∧
      (mportOf u m).inp = some ⟨x.cycle, false, []⟩ ∧ (mportOf u m).loss = (mportOf s m).loss + 1 ∧ rd u (mpReg m 0x2C) = rd s (mpReg m 0x2C) + 1) ∧
    (max s.clk.tb t < emitAt s (x.cycle + 1) → exec (.frameLossTimeout t m) s = .next (advance s t))) ∧
  (∀ (t : Time) (m : Fin 2) (s : State),
    let d := (token s (cpartOf s m) (fld s (mpReg m 0x10) 0 6) - (mportOf s m).base - BitVec.ofNat 32 (mportOf s m).ptr).toNat
    (ringsOn s m = true → 1 ≤ d → d ≤ 2 ^ 31 → ∃ u, exec (.commandSetSignal t m) s = .next u ∧ u.mem = s.mem ∧ (mportOf u m).ptr = (mportOf s m).ptr + d) ∧
    ((ringsOn s m = false ∨ d = 0) → exec (.commandSetSignal t m) s = .next (advance s t))) ∧
  (∀ (t : Time) (m : Fin 2) (up : Bool) (s : State), ∃ u, exec (.motLinkChange t m up) s = .next u ∧ u = { advance s t with regs := u.regs } ∧
    flag u (mpReg m 0x18) 0 = up ∧
    (topo s = 2 → fld u 0x38001C 6 2 = 2 - (if flag u (mpReg 0 0x18) 0 then 1 else 0) - (if flag u (mpReg 1 0x18) 0 then 1 else 0)))

/-- The latch (R388, R389), inputs (R391, R392), outputs (R394), resets (R395). -/
def Obligations.SafeInputsOutputsAndResets : Prop :=
  (∀ (t : Time) (g : Fin 8) (c : Fin 16) (a b : Bool) (s : State), (1 ≤ c.val ∧ c.val ≤ 11 ∨ c.val = 15) → (a || b) = true →
    ∃ u, exec (.latchSet t g c a b) s = .next u ∧ u.mem = s.mem ∧ grpTripped u g = true ∧ (a = true → (grpOf u g).latA.isSome) ∧
      (b = true → (grpOf u g).latB.isSome) ∧ flag u (grpReg g 4) c = true ∧ (grpTripped s g = false → fld u (grpReg g 0) 0 16 = 0x900 + c) ∧
      ∀ h, h ≠ g.val → grpOf u h = grpOf s h) ∧
  (∀ (t : Time) (i : Fin 8) (c : Chan) (s : State), sinOn s i = true → let v := levelOn (advance s t) i c
    (demandDue v i c = true → ∃ u, exec (.safeInputDemand t i c) s = .next u ∧ u.mem = s.mem ∧ sinDemand u i = true ∧
      (sinRole s i = 0 → ∀ g, g < 8 → flag s (siReg i 0) (16 + g) = true → (latOf u g c).isSome = true)) ∧
    (demandDue v i c = false → exec (.safeInputDemand t i c) s = .next v ∧ v.sio.grps = s.sio.grps ∧
      (sinOf v i).since c = some (((sinOf s i).since c).getD (max s.clk.tb t)))) ∧
  (∀ (t : Time) (i : Fin 8) (c : Chan) (both : Bool) (s : State), sinOn s i = true →
    pulsing (advance s t) (siReg i 4) ((sinOf s i).pulse c) = false → ∃ u, exec (.safeInputDemandEnd t i c both) s = .next u ∧
    u.mem = s.mem ∧ u.sio.grps = s.sio.grps ∧ (sinOf u i).dem c = false ∧
    (both = true → (∀ d, pulsing (advance s t) (siReg i 4) ((sinOf s i).pulse d) = false) → sinDemand u i = false) ∧
    (sinDemand u i = false → (sinOf u i).clear = true ∧ (pulsePassed u i .a = true → pulsePassed u i .b = true → sinFault u i = false))) ∧
  (∀ (t : Time) (n : Fin 8) (c : Chan) (s : State), flag s (siReg n 4) 31 = true → sinOn s n = true → (c = .b → sinType s n ≠ 2) →
    periodOver (advance s t) (siPeriod s n) ((sinOf s n).pulse c) = true →
    periodOver (advance s t) (siPeriod s n / 2) ((sinOf s n).pulse (match c with | .a => .b | .b => .a)) = true →
    ∃ u, exec (.testPulse t false n c) s = .next u ∧ (sinOf u n).pulse c = some (max s.clk.tb t) ∧
      u.regs = s.regs ∧ u.sio.grps = s.sio.grps) ∧
  (∀ (t : Time) (n : Fin 8) (c : Chan) (s : State), flag s (soReg n 4) 31 = true → (soutRole s n = 1 ∨ soutRole s n = 2) →
    pulsing (advance s t) (soReg n 4) ((soutOf s n).pulse (match c with | .a => .b | .b => .a)) = false →
    periodOver (advance s t) (soPeriod s n) ((soutOf s n).pulse c) = true →
    ∃ u, exec (.testPulse t true n c) s = .next u ∧ (soutOf u n).pulse c = some (max s.clk.tb t) ∧
      u.regs = s.regs ∧ u.sio.grps = s.sio.grps) ∧
  (∀ (t : Time) (i : Fin 8) (c : Chan) (p : Time) (s : State), (sinOf s i).pulse c = some p → sinOn s i = true → flag s (siReg i 4) 31 = true →
    (c = .b → sinType s i ≠ 2) → p + 50000 ≤ max s.clk.tb t → pulsing (advance s t) (siReg i 4) (some p) = true → ∃ u, exec (.testPulseFault t i c) s = .next u ∧ sinFault u i = true ∧
      ∀ g, g < 8 → flag s (siReg i 0) (16 + g) = true → (grpOf u g).latA.isSome = true ∧ (grpOf u g).latB.isSome = true) ∧
  (∀ (t : Time) (i : Fin 8) (d : Time) (s : State), (sinOf s i).discAt = some d → sinOn s i = true →
    (sinOf s i).demA ≠ (sinOf s i).demB →
    d + max 1 (min 50 (fld s (siReg i 0) 0 8)) * 10000000 < max s.clk.tb t → ∃ u, exec (.discrepancyTimeout t i) s = .next u ∧ sinFault u i = true ∧
      ∀ g, g < 8 → flag s (siReg i 0) (16 + g) = true → (grpOf u g).latA.isSome = true ∧ (grpOf u g).latB.isSome = true) ∧
  (∀ (t : Time) (o : Fin 8) (c : Chan) (s : State), (soutRole s o = 1 ∨ soutRole s o = 2) → let v := readsBad (advance s t) o c
    (readbackDue v o c = false → exec (.outputReadbackFault t o c) s = .next v ∧ v.sio.grps = s.sio.grps ∧ v.regs = s.regs) ∧
    (readbackDue v o c = true → ∃ u, exec (.outputReadbackFault t o c) s = .next u ∧ outOn u o .a = false ∧ outOn u o .b = false ∧ flag u (soReg o 8) 3 = true ∧
      ∀ g, g < 8 → flag s (soReg o 0) (16 + g) = true → (grpOf u g).latA.isSome = true ∧ (grpOf u g).latB.isSome = true)) ∧
  (∀ (t : Time) (o : Fin 8) (s : State), flag s (soReg o 8) 3 = true → (soutOf s o).faultAt + 1000000000 ≤ max s.clk.tb t →
    ∃ u, exec (.outputFaultClear t o) s = .next u ∧ flag u (soReg o 8) 3 = false ∧ u.sio.grps = s.sio.grps) ∧
  (∀ (t : Time) (o : Fin 8) (c : Chan) (s : State), soutRole s o = 2 → brakeDue (advance s t) o c = true →
    ∃ u, exec (.brakeDelayExpire t o) s = .next u ∧ outOn u o c = false ∧ u.regs = s.regs ∧ u.sio.grps = s.sio.grps) ∧
  (∀ (t : Time) (i : Fin 8) (p r : Time) (s : State), sinOn s i = true → sinRole s i = 1 → (sinOf s i).press = some p → (sinOf s i).rel = some r →
    ∃ u, exec (.resetButtonRelease t i) s = .next u ∧
      (p + 100000000 ≤ r → r ≤ p + 5000000000 → ∀ g, g < 8 → flag s (siReg i 0) (16 + g) = true → grpTripped s g = true → (grpOf s g).granted = false →
        resetItem1 s g = true → resetItem2 s g = true → (grpOf u g).req = true) ∧
      (r < p + 100000000 → u.sio.grps = s.sio.grps ∧ u.regs = s.regs)) ∧
  (∀ (t : Time) (ag : Agent) (w : Word) (s : State), writeTakes s ag 0x390300 → ∃ u, exec (.sioReset t ag w) s = .next u ∧ u.mem = s.mem ∧
    ∀ g, g < 8 → grpTripped s g = true → (grpOf s g).granted = false → w.getLsbD g = true → flag s (grpReg g 0xC) 0 = true →
      (resetItem1 s g && resetItem2 s g) = true → (grpOf u g).req = true) ∧
  (∀ (t : Time) (g : Fin 8) (ok : Bool) (s : State), (grpOf s g).req = true →
    let may := ok && flag s 0x20000 30 && flag s 0x20000 29 && resetItem1 s g && resetItem2 s g
    ∃ u, exec (.groupResetGrant t g ok) s = .next u ∧ (grpOf u g).req = false ∧ grpTripped u g = grpTripped s g ∧
      (may = true → (grpOf u g).granted = true ∧ u.regs = s.regs) ∧
      (may = false → (grpOf u g).granted = false ∧ fld u (grpReg g 8) 16 16 = (fld s (grpReg g 8) 16 16 + 1) % 2 ^ 16))

/-- A latch clears only through the reset of its group (R390): at an emission point (R395), with the reset granted by both channels. -/
def Obligations.LatchClearsOnlyThroughItsReset : Prop :=
  ∀ (s u : State) (g : Nat) (c : Chan), step s = .next u → (latOf s g c).isSome = true → latOf u g c = none →
    (grpOf s g).granted = true ∧ ∃ t r, s.pending = .emissionPoint t :: r

/-- R387: what an axis starts from in its first cycle, and when a cycle is its first. -/
def Obligations.FirstCycleOfAnAxis : Prop :=
  (∀ (b : Option (List Byte)) (act : Option InSet) (s : State) (a : Nat) (im : List Byte), (maxisOf s a).fresh = true →
    (mportOf s (axisPort s a)).good = some im →
    axisCycle b act s a = axisCycle b act (setMaxis s a { maxisOf s a with
      p := sx 32 (imgLe im (inOff s a + 4) 4), v := 0, vlim := (rd s (axReg a 0x10)).toNat, fresh := false }) a) ∧
  (∀ (t : Time) (m : Fin 2) (broken : Bool) (c : FrameCopy) (y : Option FrameCopy) (s : State) (x : Tx) (st : Time), topo s ≠ 2 →
    (mportOf s m).tx = some x → x.start = some st → st ≤ max s.clk.tb t → max s.clk.tb t ≤ emitAt s (x.cycle + 1) → c.bad = false →
    ∃ u, exec (.frameReturn t m broken c y) s = .next u ∧
      (mportOf u m).good = (if c.wkc = fld s (mpReg m 0x14) 0 16 then some (orBytes [] c.image) else (mportOf s m).good)) ∧
  (∀ (b : Time) (s : State) (a : Nat), a < 64 → axisEn s a = false → axisEn (commitAxis b s a) a = true → (maxisOf (commitAxis b s a) a).fresh = true) ∧
  (∀ (s : State) (g : Nat), (grpOf s g).granted = true → resetItem1 s g = true → resetItem2 s g = true → g < 8 →
    grpTripped (groupGrant s g) g = false ∧
    ∀ a, a < 64 → axisEn s a = true → axisGroup s a = g → (maxisOf (groupGrant s g) a).fresh = true)
/-! ## The Hutch -/

/-- Channels and supervision (R402, R404, R427, R428). -/
def Obligations.HutchChannelsAndSupervision : Prop :=
  (∀ (t : Time) (s : State), s.hut.passed = false →
    (2 ≤ phase s → phase s ≠ 15 → ∃ u, exec (.supervisionStart t) s = .next u ∧ u.hut.passed = true ∧
      supervising u = (chanRuns s.hut.chA && chanRuns s.hut.chB)) ∧
    ((phase s < 2 ∨ phase s = 15) → exec (.supervisionStart t) s = .next (advance s t))) ∧
  (∀ (t : Time) (b : HutBeat) (s : State), s.hut.passed = true → chanRuns (hchanOf s b.ch) = true →
    ∃ u, exec (.heartbeat t b) s = .next u ∧ u.regs = s.regs ∧ u.mem = s.mem ∧ hchanOf u b.ch = { hchanOf s b.ch with beat := max s.clk.tb t } ∧
      (chanRuns (hchanOf s (otherChan b.ch)) = true → (hchanOf u (otherChan b.ch)).got = some b ∧
        (∀ z, z < 16 → (tget? (hchanOf u (otherChan b.ch)).diff z).isSome = (b.zones.testBit z != chanInvalid (advance s t) (otherChan b.ch) z)) ∧
        (tget? (hchanOf u (otherChan b.ch)).diff 16).isSome = copyDiffers s)) ∧
  (∀ (t : Time) (c : Chan) (s : State), s.hut.passed = true → chanRuns (hchanOf s c) = true →
    (chanRuns (hchanOf s (otherChan c)) = true → (hchanOf s c).beat + 30000 ≤ max s.clk.tb t → ∃ u, exec (.heartbeatMiss t c) s = .next u ∧
      (hchanOf u c).restarting = true ∧ supervising u = false ∧ flag u 0x20000 (match c with | .a => 30 | .b => 29) = false ∧
      rd u (hctReg 8) = rd s (hctReg 8) + 1 ∧ fld u 0x20000 0 16 = 0x060B) ∧
    ((hchanOf s (otherChan c)).testing = false → (hchanOf s c).day < proofDay (advance s t) c → ∃ u, exec (.proofTest t c) s = .next u ∧
      (hchanOf u c).testing = true ∧ (hchanOf u c).day = proofDay (advance s t) c ∧ supervising u = false ∧ flag u 0x20000 27 = true)) ∧
  (∀ (t : Time) (z : Nat) (s : State), s.hut.passed = true → chanRuns s.hut.chA = true → chanRuns s.hut.chB = true →
    (overDiff (max s.clk.tb t) s.hut.chA).or (overDiff (max s.clk.tb t) s.hut.chB) = some z →
    ∃ u, exec (.channelDecisionMismatch t) s = .next u ∧ fld u 0x20000 0 16 = 0x060A ∧ u.hut.log.head? = some (max s.clk.tb t, 0x060A, z) ∧
      ∀ g, g < 8 → ∀ c, (latOf u g c).isSome = true) ∧
  (∀ (t : Time) (c : Chan) (s : State), (hchanOf s c).restarting = true → s.hut.passed = true →
    (∃ u, exec (.channelRestartDone t c true) s = .next u ∧ (hchanOf u c).restarting = false ∧ (hchanOf u c).fails = 0 ∧ (hchanOf u c).beat = max s.clk.tb t ∧
      ((hchanOf s c).failed = false → (hchanOf s c).testing = false → supervising u = chanRuns (hchanOf s (otherChan c)))) ∧
    ((hchanOf s c).fails = 0 → ∃ u, exec (.channelRestartDone t c false) s = .next u ∧ u.regs = s.regs ∧ hchanOf u c = { hchanOf s c with fails := 1 }) ∧
    ((hchanOf s c).fails ≠ 0 → ∃ u, exec (.channelRestartDone t c false) s = .next u ∧ (hchanOf u c).failed = true ∧ supervising u = false ∧
      ∀ g, g < 8 → ∀ k, (latOf u g k).isSome = true)) ∧
  (∀ (t : Time) (c : Chan) (s : State), (hchanOf s c).testing = true → ∃ u, exec (.proofTestDone t c) s = .next u ∧ (hchanOf u c).testing = false ∧
    rd u (hctReg 9) = rd s (hctReg 9) + 1)

/-- R405: the cross-check of the timebase against a channel's own oscillator. -/
def Obligations.TimebaseCrosscheckTripsEverything : Prop :=
  ∀ (t : Time) (c : Chan) (ppm : Nat) (s : State), s.hut.passed = true → chanRuns (hchanOf s c) = true →
    (1000 < ppm → ∃ u, exec (.timebaseCrosscheck t c ppm) s = .next u ∧ fld u 0x20000 0 16 = 0x060C ∧ u.mem = s.mem ∧
      (∀ g, g < 8 → (grpOf u g).latA.isSome = true ∧ (grpOf u g).latB.isSome = true ∧ flag u (grpReg g 4) 10 = true) ∧
      ∀ z, hutInvalid u z = true) ∧
    (ppm ≤ 1000 → exec (.timebaseCrosscheck t c ppm) s = .next (advance s t))

/-- Pictures (R407 to R409), zone reports (R410), comparison (R411), restart after three disagreements (R413). -/
def Obligations.PicturesReportsAndComparison : Prop :=
  (∀ (t : Time) (bad : Bool) (s : State) (x : Nat × Nat), s.hut.passed = true → chanRuns s.hut.chA = true →
    tget? (nringOf s 16).slots ((nringOf s 16).rel % 64) = some x →
    let q := tget [] (nringOf s 16).recs ((nringOf s 16).rel % 64)
    ∃ u, exec (.hutchPictureRead t bad) s = .next u ∧ (nringOf u 16).rel = (nringOf s 16).rel + 1 ∧
      tget? (nringOf u 16).slots ((nringOf s 16).rel % 64) = none ∧
      (bit q 0x1F 5 = true → u.hut = s.hut) ∧
      (bit q 0x1F 5 = false → ∀ c, c ∈ cmpsOf s q → (cmpOf u c.zone c.ctr).isSome = true) ∧
      (bit q 0x1F 5 = false → bad = true → u.hut.crops = s.hut.crops ∧ u.hut.lastCtr = s.hut.lastCtr ∧
        (∀ c, c ∈ cmpsOf s q → (hzoneOf u c.zone).valid = false ∧ (hzoneOf u c.zone).bar.isSome = true) ∧
        rd u (hctReg 2) = rd s (hctReg 2) + 1 ∧ fld u 0x20000 0 16 = 0x0603) ∧
      (bit q 0x1F 5 = false → bad = false → tget? s.hut.lastCtr (le q 0x1C 2 % 512) = none →
        crc32c (rdMem s (le q 0x20 6) (le q 0x2C 4 * (le q 0x2A 2 + (le q 0x2A 2 + 1) / 2))) = le q 0x3C 4 →
        (∀ c, c ∈ cmpsOf s q → max s.clk.tb t ≤ le q 0 8 + zoneAge s c.zone) →
        u.hut.chA.zones = s.hut.chA.zones ∧ u.hut.chB.zones = s.hut.chB.zones ∧ tget? u.hut.lastCtr (le q 0x1C 2 % 512) = some (le q 0x18 4) ∧
        (cmpsOf s q ≠ [] → u.hut.crops = s.hut.crops ++ [⟨le q 0x1C 2 % 512, le q 0x18 4, le q 0 8, le q 0x10 8,
          (cmpsOf s q).map (fun c => cropOf s q (rdMem s (le q 0x20 6) (le q 0x2C 4 * (le q 0x2A 2 + (le q 0x2A 2 + 1) / 2))) c.zone)⟩]))) ∧
  (∀ (t : Time) (z : Fin 16) (present : Bool) (s : State) (c : Crops) (im : List Byte) (ws : List (Nat × List Byte)) (rest : List Crops),
    s.hut.crops = c :: rest → c.zones = (z.val, im) :: ws → ∃ u, exec (.checkerResult t z present) s = .next u ∧ u.regs = s.regs ∧ u.mem = s.mem ∧
      (∀ k, (hzoneIn u k z).chk = some (c.ctr, present, c.cap)) ∧ u.hut.crops = (if ws.isEmpty then rest else { c with zones := ws } :: rest) ∧
      ∀ d, cmpOf s z c.ctr = some d → cmpOf u z c.ctr = some (if cmpOpen (advance s t) d then { d with chk := some present } else d)) ∧
  (∀ (t : Time) (m : Fin 2) (s : State) (base : Word) (e : Nat), s.hut.passed = true → tget? s.hut.rings m = some (base, e) → ¬ (m.val = 1 ∧ oneRing s = true) →
    (token s (zringTok s m).1 (zringTok s m).2 - base - BitVec.ofNat 32 e - 1).toNat < 2 ^ 31 →
    let b := rdMem s (zringAddr s m + e % zringLen s m * 32) 32
    ∃ u, exec (.zoneReport t m) s = .next u ∧ tget? u.hut.rings m = some (base, e + 1) ∧ u.mem = s.mem ∧
      (reportOk s m b = false → fld u 0x20000 0 16 = 0x060E ∧ u.hut.cmps = s.hut.cmps) ∧
      (reportOk s m b = true → ∀ c, cmpOf (openWaiting (advance s t)) (le b 7 1 % 16) (le b 0 4) = some c → cmpOpen (advance s t) c = true →
        u.regs = s.regs ∧ cmpOf u (le b 7 1 % 16) (le b 0 4) = some { c with rep := some (decide (le b 8 1 = 1)), part := some (zringTok s m).1 })) ∧
  (∀ (t : Time) (z : Fin 16) (ctr : Nat) (s : State) (c : Cmp) (a b : Bool), cmpOf s z ctr = some c → c.closed = false → c.chk = some a → c.rep = some b →
    (a = b → cmpFresh s z ctr = false → ∃ u, exec (.zoneCompare t z ctr) s = .next u ∧ (hzoneOf u z).valid = (hzoneOf s z).valid ∧
      (hzoneOf u z).capAt = (hzoneOf s z).capAt ∧ rd u (hzReg z 0x14) = rd s (hzReg z 0x14) ∧ cmpOf u z ctr = some { c with closed := true }) ∧
    (a = b → cmpFresh s z ctr = true → ∃ u, exec (.zoneCompare t z ctr) s = .next u ∧
      (hzoneOf u z).valid = (ctrPast ctr (hzoneOf s z).bar || (hzoneOf s z).valid) ∧ (hzoneOf u z).capAt = some c.cap ∧
      rd u (hzReg z 0x14) = BitVec.ofNat 32 ctr ∧ cmpOf u z ctr = some { c with closed := true } ∧ rd u (hctReg 0) = rd s (hctReg 0) ∧ u.sio = s.sio) ∧
    (a ≠ b → cmpFresh s z ctr = true → (disWindow ctr (hzoneOf s z).dis).length < 2 → ∃ u, exec (.zoneCompare t z ctr) s = .next u ∧ (hzoneOf u z).valid = false ∧
      rd u (hzReg z 0x14) = BitVec.ofNat 32 ctr ∧ cmpOf u z ctr = some { c with closed := true } ∧
      rd u (hctReg 0) = rd s (hctReg 0) + 1 ∧ rd u (hzReg z 0x1C) = rd s (hzReg z 0x1C) + 1 ∧ fld u 0x20000 0 16 = 0x0601 ∧ u.sio = s.sio) ∧
    (a ≠ b → cmpFresh s z ctr = true → 2 ≤ (disWindow ctr (hzoneOf s z).dis).length → ∃ u, exec (.zoneCompare t z ctr) s = .next u ∧ fld u 0x20000 0 16 = 0x0607 ∧
      ∀ g, g ∈ partGroups s (c.part.getD (zonePart s z)) → ∀ k, (latOf u g k).isSome = true)) ∧
  (∀ (t : Time) (z : Fin 16) (ctr : Nat) (s : State) (c : Cmp), cmpOf (openWaiting (advance s t)) z ctr = some c → c.closed = false →
    c.publish + zoneBudget s z ≤ max s.clk.tb t → (c.chk = none ∨ c.rep = none) → ∃ u, exec (.cmpBudgetExpire t z ctr) s = .next u ∧
      (hzoneOf u z).valid = false ∧ cmpOf u z ctr = some { c with closed := true } ∧ rd u (hctReg 1) = rd s (hctReg 1) + 1 ∧ fld u 0x20000 0 16 = 0x0602) ∧
  (∀ (t : Time) (z : Fin 16) (c : Nat) (s : State), (hzoneOf s z).capAt = some c → c + zoneAge s z < max s.clk.tb t →
    ∃ u, exec (.zoneAgeExpire t z) s = .next u ∧ (hzoneOf u z).valid = false ∧ u.regs = s.regs ∧ u.mem = s.mem ∧
      ∀ y, y ≠ z.val → ∀ k, hzoneIn u k y = hzoneIn s k y)

/-- R418: deferrals of golden runs, for cores (bit l of HUT_UNVERIFIED) and Footstools (bit c of its last word). -/
def Obligations.GoldenDeferrals : Prop :=
  (∀ (t : Time) (e : GoldEngine) (s : State), (goldOf s (goldKey e)).owed = true → ∃ u, exec (.goldenFrameEnd t e) s = .next u ∧
    rd u (hctReg 3) = rd s (hctReg 3) + 1 ∧ (goldOf u (goldKey e)).defer = (goldOf s (goldKey e)).defer + 1 ∧ (goldOf u (goldKey e)).owed = false ∧
    (2 ≤ (goldOf s (goldKey e)).defer → (goldOf u (goldKey e)).unv = true ∧ ((goldOf s (goldKey e)).unv = false → fld u 0x20000 0 16 = 0x0606)) ∧
    ((goldOf s (goldKey e)).defer < 2 → (goldOf u (goldKey e)).unv = (goldOf s (goldKey e)).unv)) ∧
  (∀ (t : Time) (l : Fin 256) (a : Time) (s : State), (goldOf s l).run = some a → ∃ u, exec (.goldenRunComplete t (.core l) s.hut.sigsB.1) s = .next u ∧
    (goldOf u l).defer = 0 ∧ (goldOf u l).unv = false ∧ (goldOf u l).run = none) ∧
  (∀ (t : Time) (c : Fin 16) (a : Time) (s : State), (goldOf s (256 + c)).run = some a → (clOf s c).cur = none →
    ∃ u, exec (.goldenRunComplete t (.foot c) s.hut.sigsB.2) s = .next u ∧ (goldOf u (256 + c)).defer = 0 ∧ (goldOf u (256 + c)).unv = false ∧
      (goldOf u (256 + c)).run = none) ∧
  (∀ (s : State) (l : Nat), l < 256 → (viewWord s (0x20400 + l / 32 * 4)).getLsbD (l % 32) = (goldOf s l).unv) ∧
  (∀ (s : State) (c : Nat), c < 16 → (viewWord s 0x20420).getLsbD c = (goldOf s (256 + c)).unv)

/-- Golden runs (R415, R417), mismatches (R419), the checker's own crop (R420). -/
def Obligations.GoldenRunsAndMismatches : Prop :=
  (∀ (t : Time) (l : Fin 256) (jb : Nat) (s : State), s.hut.passed = true → (goldOf s l).run = none → goldPlace (advance s t) (.core l) jb = true → (goldPart s (.core l)).isSome = true → (goldOf s l).began = true →
    ((goldOf s l).done = false ∨ (goldOf s l).mis = true) → coreUnavail s l = false → (coreOf s l).on = true →
    (4 ≤ (freeAcc s l).length → ∃ u, exec (.goldenRunStart t ⟨.core l, jb⟩) s = .next u ∧ u.regs = s.regs ∧ u.mem = s.mem ∧
      (goldOf u l).run = some (max s.clk.tb t) ∧
      ∀ a, a ∈ (freeAcc s l).take 4 → (tget AccSlot.none (coreOf u l).acc a).st = .accumulating ∧ (tget AccSlot.none (coreOf u l).acc a).cs = goldCs) ∧
    ((freeAcc s l).length < 4 → exec (.goldenRunStart t ⟨.core l, jb⟩) s = .next (advance s t))) ∧
  (∀ (t : Time) (l : Fin 256) (a : Time) (s : State), (goldOf s l).run = some a → windowOpened s (.core l) a = true →
    ∃ u, exec (.goldenRunAbandon t (.core l)) s = .next u ∧ u.regs = s.regs ∧ u.mem = s.mem ∧ (goldOf u l).run = none ∧
      (coreOf u l).acc = (coreOf s l).acc.filter (fun e => decide (e.2.cs ≠ goldCs))) ∧
  (∀ (t : Time) (l : Fin 256) (a : Time) (sig : Word) (s : State), (goldOf s l).run = some a → sig ≠ s.hut.sigsB.1 →
    ((goldOf s l).mis = false → ∃ u, exec (.goldenRunComplete t (.core l) sig) s = .next u ∧ (goldOf u l).unv = true ∧ (goldOf u l).mis = true ∧
      rd u (hctReg 4) = rd s (hctReg 4) + 1 ∧ fld u 0x20000 0 16 = 0x0604) ∧
    ((goldOf s l).mis = true → ∃ u, exec (.goldenRunComplete t (.core l) sig) s = .next u ∧ fld u 0x20000 0 16 = 0x0605)) ∧
  (∀ (t : Time) (s : State), s.hut.passed = true → chanRuns s.hut.chA = true →
    ((goldOf s 288).mis = false → ∃ u, exec (.checkerGoldenCrop t false) s = .next u ∧ fld u 0x20000 0 16 = 0x0604 ∧ ∀ z, hutInvalid u z = true) ∧
    (∃ u, exec (.checkerGoldenCrop t true) s = .next u ∧ (goldOf u 288).unv = false ∧ u.mem = s.mem))

/-- Loss of class S (R422), restart of class A (R423, R424), the mailbox (R426). -/
def Obligations.LossRestartAndMailbox : Prop :=
  (∀ (t : Time) (p : Fin 16) (s : State), partClass s p = 0 → (anyFaulted s p || s.hut.lost.contains p.val) = true →
    ∃ u, exec (.sContextLost t p) s = .next u ∧ u.mem = s.mem ∧ fld u 0x20000 0 16 = 0x060F ∧ ∀ g, g ∈ partGroups s p → ∀ c, (latOf u g c).isSome = true) ∧
  (∀ (t : Time) (p : Fin 16) (s : State), partClass s p = 1 → partEn s p = true → anyFaulted s p = true →
    ∃ u, exec (.aRestart t p) s = .next u ∧ flag u 0x20000 28 = true ∧ fld u 0x20000 0 16 = 0x0608 ∧ (tget? u.hut.apend p).isSome = true ∧
      rd u (hctReg 7) = rd s (hctReg 7) + 1) ∧
  (∀ (t : Time) (p : Fin 16) (x : Time) (s : State), s.hut.apend = [(p.val, x)] → token s p (fld s 0x20008 8 6) ≠ 0 →
    ∃ u, exec (.rdyTokSignal t p) s = .next u ∧ flag u 0x20000 28 = false ∧ u.hut.apend = []) ∧
  (∀ (t : Time) (p : Fin 16) (x : Time) (s : State), tget? s.hut.apend p = some x → x ≤ max s.clk.tb t →
    ∃ u, exec (.aLimitExpire t p) s = .next u ∧ fld u 0x20000 0 16 = 0x0609 ∧ flag u 0x20000 28 = flag s 0x20000 28) ∧
  (∀ (t : Time) (ag : Agent) (s : State), writeTakes s ag 0x20810 →
    (mbKind s = 1 → ∃ u, exec (.kick t ag) s = .next u ∧ u.hut.kickEpoch = some (max s.clk.tb t / epochNs) ∧ fld u 0x20810 16 8 = 0) ∧
    (mbKind s = 2 → ∃ u, exec (.stopGroups t ag) s = .next u ∧ fld u 0x20810 16 8 = 0 ∧
      ∀ g, g < 8 → flag s 0x20804 g = true → ∀ c, (latOf u g c).isSome = true) ∧
    (mbKind s = 3 → 1 ≤ (rd s 0x20808).toNat → (rd s 0x20808).toNat ≤ 65535 → ∃ u, exec (.invalidateZones t ag) s = .next u ∧ fld u 0x20810 16 8 = 0 ∧
      ∀ z, z < 16 → flag s 0x20804 z = true → hutInvalid u z = true ∧ max s.clk.tb t / epochNs + (rd s 0x20808).toNat ≤ (hzoneOf u z).until_) ∧
    (mbKind s = 3 → ((rd s 0x20808).toNat = 0 ∨ 65535 < (rd s 0x20808).toNat) → ∃ u, exec (.invalidateZones t ag) s = .next u ∧ fld u 0x20810 16 8 = 1 ∧ u.hut = s.hut) ∧
    (mbKind s = 4 → s.hut.log[(rd s 0x20804).toNat]? = none → ∃ u, exec (.readEvent t ag) s = .next u ∧ fld u 0x20810 16 8 = 1) ∧
    (∀ tb code arg, mbKind s = 4 → s.hut.log[(rd s 0x20804).toNat]? = some (tb, code, arg) → tb < 2 ^ 64 → code < 2 ^ 16 → arg < 2 ^ 16 →
      ∃ u, exec (.readEvent t ag) s = .next u ∧ fld u 0x20810 16 8 = 0 ∧ rd u 0x20800 = BitVec.ofNat 32 tb ∧ rd u 0x20804 = BitVec.ofNat 32 (tb / 2 ^ 32) ∧
        rd u 0x20808 = BitVec.ofNat 32 (code + 2 ^ 16 * arg)) ∧
    (mbKind s = 0 → ∃ u, exec (.hutchMailboxReject t ag) s = .next u ∧ fld u 0x20810 16 8 = 2 ∧ rd u (hctReg 10) = rd s (hctReg 10) + 1 ∧ u.hut = s.hut)) ∧
  (∀ (t : Time) (s : State), ∃ u, exec (.invalidateZonesExpire t) s = .next u ∧ u.regs = s.regs ∧ u.mem = s.mem ∧
    ∀ z, (hzoneOf u z).valid = (hzoneOf s z).valid ∧
      (hzoneOf u z).until_ = (if (hzoneOf s z).until_ ≤ max s.clk.tb t / epochNs then 0 else (hzoneOf s z).until_))
/-! ## Power, thermal limits and boot -/

/-- Power-on and loss of standby supply (R403, R475, R511), the sequence (R437), power-down (R438), STANDBY (R450, R451). -/
def Obligations.SuppliesComeAndGo : Prop :=
  (∀ (t : Time) (vin : Bool) (s : State), ∃ u, exec (.powerOn t vin) s = .next u ∧ u.bur.vaon = true ∧ u.bur.vin = vin ∧ FreshlyPowered s u) ∧
  (∀ (t : Time) (s : State), ∃ u, exec (.vstby3v3Loss t) s = .next u ∧ u.bur.vaon = false ∧ FreshlyPowered s u) ∧
  (∀ (t : Time) (r : Fin 12) (w : Word) (s : State), s.bur.vaon = true → s.bur.vin = true → s.bur.standby = false → s.bur.seq < 8 →
    (s.bur.latched = false →
      (∃ u, exec (.railSequenceStep t true r w) s = .next u ∧ u.bur.seq = s.bur.seq + 1 ∧ u.mem = s.mem ∧ u.sio = s.sio) ∧
      ((stepRails (s.bur.seq + 1)).contains r.val = true → ∃ u, exec (.railSequenceStep t false r w) s = .next u ∧ u.bur.seq = 0 ∧ u.bur.latched = true ∧
        flag u 0x10000 6 = true ∧ rd u 0x10034 = BitVec.ofNat 32 (w.toNat % 2 ^ 16 * 2 ^ 16 + r) ∧ ∀ g, g < 8 → ∀ c, (latOf u g c).isSome = true)) ∧
    (s.bur.latched = true → ∀ ok, exec (.railSequenceStep t ok r w) s = .next (advance s t))) ∧
  (∀ (t : Time) (s : State), s.bur.vaon = true → s.bur.vin = true → ∃ u, exec (.powerDown t .vin) s = .next u ∧ u.bur.vin = false ∧ u.bur.seq = 0 ∧
    (railsUp s = true → u.bur.wake = wakePort s) ∧
    u.mem = [] ∧ u.clk.tb = max s.clk.tb t ∧ ∀ g, g < 8 → ∀ c, (latOf u g c).isSome = true) ∧
  (∀ (t : Time) (r : Fin 12) (st : Word) (s : State), s.bur.vaon = true → ∃ u, exec (.powerDown t (.rail r st)) s = .next u ∧
    u.bur.latched = true ∧ u.bur.seq = 0 ∧ u.mem = [] ∧ flag u 0x10000 6 = true ∧ rd u 0x10034 = BitVec.ofNat 32 (st.toNat % 2 ^ 16 * 2 ^ 16 + r) ∧
    ∀ g, g < 8 → ∀ c, (latOf u g c).isSome = true) ∧
  (∀ (t : Time) (s : State), s.bur.vaon = true → ∃ u, exec (.vinRestore t) s = .next u ∧ u = { advance s t with bur := { s.bur with vin := true } }) ∧
  (∀ (t : Time) (ag : Agent) (w : Word) (s : State), writeTakes s ag 0x10004 → ∃ u, exec (.standbyRequest t ag w) s = .next u ∧ u.regs = s.regs ∧ u.mem = s.mem ∧
    stagedNow u 0x10004 = some w ∧ (w.getLsbD 31 = true → u.bur.request = some (max s.clk.tb t)) ∧ (w.getLsbD 31 = false → u.bur = s.bur)) ∧
  (∀ (t : Time) (p : MagicPacket) (s : State), s.bur.standby = true → flag s 0x10010 31 = true →
    (fld s 0x10010 0 3 = p.port.val → s.bur.wake.map WakePort.mac = some p.mac → ∃ u, exec (.wakeMagicPacket t p) s = .next u ∧ u.bur.standby = false ∧ fld u 0x10000 30 2 = 0 ∧ flag u 0x204 5 = true) ∧
    ((fld s 0x10010 0 3 ≠ p.port.val ∨ s.bur.wake.map WakePort.mac ≠ some p.mac) → exec (.wakeMagicPacket t p) s = .next (advance s t))) ∧
  (∀ (t : Time) (s : State), s.bur.standby = true → flag s 0x10010 30 = true →
    (val64 s 0x10014 0x10018 ≤ max s.clk.tb t → ∃ u, exec (.wakeAlarm t) s = .next u ∧ u.bur.standby = false ∧ flag u 0x204 5 = true) ∧
    (max s.clk.tb t < val64 s 0x10014 0x10018 → exec (.wakeAlarm t) s = .next (advance s t)))

/-- Sensors (R439, R455), thermal trip (R444), ladder and holds (R442), cap (R446), core power (R447). -/
def Obligations.ThermalPowerAndHolds : Prop :=
  (∀ (t : Time) (vals rates : List Nat) (s : State), s.bur.vaon = true →
    ((∀ i, i < 24 → sx 16 (nth 0 vals i) < 880) → ∃ u, exec (.sensorSample t vals rates) s = .next u ∧ u.mem = s.mem ∧ u.bur.seq = s.bur.seq ∧
      ∀ i, i < 48 → fld u (0x10400 + 4 * i) 0 16 = nth 0 vals i % 2 ^ 16) ∧
    (∀ i, i < 24 → 880 ≤ sx 16 (nth 0 vals i) → ∃ u, exec (.sensorSample t vals rates) s = .next u ∧ u.bur.seq = 0 ∧ u.bur.latched = true ∧
      flag u 0x10000 7 = true ∧ u.mem = [] ∧ ∀ g, g < 8 → ∀ c, (latOf u g c).isSome = true)) ∧
  (∀ (t : Time) (s : State), railsUp s = true →
    (max s.clk.tb t % 1000000 = 0 → s.bur.ladMs < max s.clk.tb t / 1000000 → ∃ u, exec (.ladderStep t) s = .next u ∧ u.mem = s.mem ∧
      u.bur.ladMs = max s.clk.tb t / 1000000 ∧ (∀ r, r < 4 → fld u (railReg r 4) 0 16 = setPoint u r) ∧
      ∀ r, r < 4 → headroom s r ≤ 8 * (throttleMargin s : Int) → vmin s r < setPoint s r → rd u (railReg r 8) = rd s (railReg r 8) + 1) ∧
    ((max s.clk.tb t % 1000000 ≠ 0 ∨ max s.clk.tb t / 1000000 ≤ s.bur.ladMs) → exec (.ladderStep t) s = .next (advance s t))) ∧
  (∀ (t : Time) (avg : Nat) (s : State), s.bur.vaon = true → railsUp s = true → s.bur.capAt + 1000000 ≤ max s.clk.tb t → ∃ u, exec (.capStep t avg) s = .next u ∧ u.mem = s.mem ∧
    u.bur.capAt = max s.clk.tb t ∧ fld u 0x1000C 0 16 = min 65535 avg ∧ fld u 0x1000C 16 16 = max (fld s 0x1000C 16 16) (min 65535 avg) ∧
    (fld s 0x10008 0 16 < avg → ∀ r, r < 4 → vmin s r < setPoint s r → rd u (railReg r 8) = rd s (railReg r 8) + 1)) ∧
  (∀ (t : Time) (c : Fin 16) (s : State), railsUp s = true → hasClassB s c = true → holdOf s c ≠ 0 → tget? s.bur.holds c = none →
    ∃ u, exec (.holdPeriod t c) s = .next u ∧ u.mem = s.mem ∧ rd u (bclReg c 0xC) = rd s (bclReg c 0xC) + BitVec.ofNat 32 (6250 * holdOf s c) ∧
      tget? u.bur.holds c = some (max s.clk.tb t, max s.clk.tb t + 6250 * holdOf s c)) ∧
  (∀ (t : Time) (l : Fin 256) (s : State), (coreOf s l).on = false → railsUp s = true → (flag s 0x10004 0 = false ∨ (ownerOf s l).isSome = true) →
    ∃ u, exec (.corePowerUp t l) s = .next u ∧ u.regs = s.regs ∧ (coreOf u l).on = true ∧ (coreOf u l).acc = [] ∧
      ∀ o, o < 0x100000 → rdMem u (spadOf l + o) 1 = [0])

/-- Phases and image (R456, R462, R463), model images (R464, R465), the lock (R466), calls of policy modules (R469). -/
def Obligations.BootFromRomToService : Prop :=
  (∀ (t : Time) (ok : Bool) (s : State), railsUp s = true → s.boot.resetN = false → phase s = 0 → ∃ u, exec (.bootRomPhase t ok) s = .next u ∧ u.mem = s.mem ∧
    (ok = true → phase u = 1) ∧ (ok = false → phase u = 0 ∧ fld u 0x30000 0 16 = 0x0A06)) ∧
  (∀ (t : Time) (x : ImageRecs) (s : State), phase s = 1 → s.boot.mgmt = [] →
    let b := flag s 0x30000 25
    let code := imgCheck (advance s t) (copyRead s b) 0x1000000
    (code = 0 → ∃ u, exec (.imageCheck t x) s = .next u ∧ phase u = 2 ∧ u.boot.fw = true ∧ u.mem = s.mem) ∧
    (code ≠ 0 → b = false → ∃ u, exec (.imageCheck t x) s = .next u ∧ phase u = 1 ∧ flag u 0x30000 25 = true ∧ fld u 0x30000 0 16 = code) ∧
    (code ≠ 0 → b = true → ∃ u, exec (.imageCheck t x) s = .next u ∧ phase u = 15 ∧ flag u 0x30000 24 = true ∧ fld u 0x30000 0 16 = 0x0A0B ∧
      lockTaken u = true)) ∧
  (∀ (t : Time) (ok : Bool) (s : State), phase s = 2 → s.boot.trained = false → ∃ u, exec (.memoryTraining t ok) s = .next u ∧
    (ok = true → u.boot.trained = true ∧ flag u 0x50018 0 = true ∧ fld u kvFreePages 0 20 = kvPages s % 2 ^ 20 ∧
      (s.boot.zero = true → ∀ a, a < spadBase → (a < kvHdr s 0 ∨ kvHdr s 0 + 32 * kvPages s ≤ a) → rdMem u a 1 = [0]) ∧
      (∀ p i, p < kvPages s → i < 32 → rdMem u (kvHdr s 0 + 32 * p + i) 1 = [freeHeader (32 * p + i)])) ∧
    (ok = false → u.boot.trained = false ∧ fld u 0x30000 0 16 = 0x0A07 ∧ u.mem = s.mem)) ∧
  (∀ (t : Time) (pol : Policy) (s : State), phase s = 2 → s.boot.trained = true → lockTaken s = false →
    ∃ u, exec (.bootLock t pol) s = .next u ∧ lockTaken u = true ∧ phase u = 3 ∧ u.mem = s.mem ∧ u.boot.pol = pol) ∧
  (∀ (t : Time) (i : Fin 32) (err : Bool) (s : State), (phase s = 3 ∨ phase s = 4) → nextModel s = some i.val →
    let m := nth [] s.boot.models i
    let data := mgets 0 s.boot.emmc (le m 8 8) (le m 0x10 8)
    let fits := inWindow s (modelPart m) (le m 0x18 6) (le m 0x10 8)
    let off := partEn s (modelPart m) = false
    ∃ u, exec (.modelLoad t i err) s = .next u ∧ phase u = 4 ∧
      (modelBad u i = true → partEn u (modelPart m) = false) ∧
      (le m 1 1 % 16 ≠ 1 → fld u (modelReg i) 0 16 = 0x0A05 ∧ modelBad u i = true ∧ (off → u.mem = s.mem)) ∧
      (le m 1 1 % 16 = 1 → fits = false → fld u (modelReg i) 0 16 = 0x0A0A ∧ modelBad u i = true ∧ (off → u.mem = s.mem)) ∧
      (le m 1 1 % 16 = 1 → fits = true → err = true → fld u (modelReg i) 0 16 = 0x0A08 ∧ modelBad u i = true) ∧
      (le m 1 1 % 16 = 1 → fits = true → err = false → sha384 data = (m.drop 0x20).take 48 →
        fld u (modelReg i) 30 2 = 1 ∧ fld u (modelReg i) 0 16 = 0 ∧ u.mem = (wrMem s (le m 0x18 6) data).mem) ∧
      (le m 1 1 % 16 = 1 → fits = true → err = false → sha384 data ≠ (m.drop 0x20).take 48 →
        fld u (modelReg i) 0 16 = 0x0A09 ∧ modelBad u i = true ∧ (off → u.mem = (wrMem s (le m 0x18 6) data).mem))) ∧
  (∀ (t : Time) (ctxs : List (Nat × Nat)) (s : State), (phase s = 3 ∨ phase s = 4) → supervising s = true → startGone s = true → modelsStop s = false →
    imageReady s ctxs = true → ∃ u, exec (.bootService t ctxs) s = .next u ∧ phase u = 5 ∧ u.mem = s.mem ∧
      rd u 0x30010 = BitVec.ofNat 32 ((max s.clk.tb t - s.boot.from_) / 1000000)) ∧
  (∀ (t : Time) (ag : Agent) (w : Word) (s : State), writeTakes s ag 0x30020 →
    (phase s ≠ 15 → exec (.bootRecovGo t ag w) s = .next (advance s t)) ∧
    (phase s = 15 → w.getLsbD 31 = true → imgCheck s (fun o k => rdMem s o k) (min (w.toNat % 2 ^ 25) 0x1000000) ≠ 0 →
      ∃ u, exec (.bootRecovGo t ag w) s = .next u ∧ phase u = 15 ∧ u.boot = s.boot ∧ u.mem = s.mem ∧
        fld u 0x30000 0 16 = imgCheck s (fun o k => rdMem s o k) (min (w.toNat % 2 ^ 25) 0x1000000))) ∧
  (∀ (t : Time) (j : Nat) (kind : CallKind) (acc : List ModAccess) (us : Nat) (s : State) (m : PolMod), s.boot.mods[j]? = some m →
    mayCall (advance s t) m kind = true → ∃ u, exec (.policyCallback t j kind acc us) s = .next u ∧ rd u 0x208 &&& asWord (modGroups m) = 0 ∧
      (acc = [] → (u.boot.mods[j]?).map PolMod.aborts = some (m.aborts + if m.budget < us then 1 else 0) ∧
        rd u 0x30018 = rd s 0x30018 + (if m.budget < us then 1 else 0)) ∧
      (∀ off w fits r, acc = .write off w fits :: r → inWins m true off = false → (u.boot.mods[j]?).map PolMod.aborts = some (m.aborts + 1)))

/-- Resets (R475, R476, R510), watchdog (R425, R477), discard (R472), versions (R474). -/
def Obligations.ResetsDiscardsAndVersions : Prop :=
  (∀ (t : Time) (ag : Agent) (w : Word) (s : State), writeTakes s ag 0x200 →
    (w.toNat / 2 ^ 24 ≠ 0xA5 → exec (.moduleReset t ag w) s = .next (advance s t) ∧ exec (.managementReset t ag w) s = .next (advance s t)) ∧
    (w.toNat / 2 ^ 24 = 0xA5 → w.getLsbD 2 = true → ∃ u, exec (.moduleReset t ag w) s = .next u ∧ ModuleWasReset s t u ∧ flag u 0x204 2 = true) ∧
    (w.toNat / 2 ^ 24 = 0xA5 → w.getLsbD 2 = false → w.getLsbD 1 = true → ∃ u, exec (.managementReset t ag w) s = .next u ∧ ManagementWasReset s u ∧
      flag u 0x204 3 = true ∧ rd u 0x21C = rd s 0x21C + 1)) ∧
  (∀ (t : Time) (ns : Nat) (held : Bool) (s : State), s.bur.vaon = true → s.boot.resetN = false →
    (1000 ≤ ns → ∃ u, exec (.resetNAssert t ns held) s = .next u ∧ ModuleWasReset s t u ∧ flag u 0x204 1 = true ∧ u.boot.resetN = held) ∧
    (ns < 100 → exec (.resetNAssert t ns held) s = .next (advance s t)) ∧
    (100 ≤ ns → ns < 1000 → ∃ u, exec (.resetNAssert t ns held) s = .next u ∧ (ModuleWasReset s t u ∨ u = { advance s t with free := s.free + 1 }))) ∧
  (∀ (t : Time) (k : Nat) (s : State), s.hut.kickEpoch = some k →
    (k + max 1 (fld s 0x20004 24 8) < max s.clk.tb t / epochNs → railsUp s = true → s.boot.resetN = false → phase s ≠ 15 →
      ∃ u, exec (.watchdogExpire t) s = .next u ∧ ManagementWasReset s u ∧ flag u 0x204 4 = true ∧ rd u 0x220 = rd s 0x220 + 1 ∧ fld u 0x20000 0 16 = 0x060D) ∧
    (max s.clk.tb t / epochNs ≤ k + max 1 (fld s 0x20004 24 8) → exec (.watchdogExpire t) s = .next (advance s t))) ∧
  (∀ (t : Time) (s : State), s.hut.kickEpoch = none → s.svc.wdog + 2000 ≤ max s.clk.tb t / epochNs → railsUp s = true → s.boot.resetN = false → phase s ≠ 15 →
    ∃ u, exec (.watchdogExpire t) s = .next u ∧ ManagementWasReset s u ∧ flag u 0x204 4 = true) ∧
  (∀ (t : Time) (ag : Agent) (w : Word) (s : State), writeTakes s ag 0x20C → ∃ u, exec (.commitDiscard t ag w) s = .next u ∧ u.regs = s.regs ∧
    u.mem = s.mem ∧ ∀ off, canonOff off = off →
      ((∃ i, i < 12 ∧ w.getLsbD i = true ∧ groupHas i off = true) → stagedNow u off = none) ∧
      ((∀ i, i < 12 → w.getLsbD i = true → groupHas i off = false) → stagedNow u off = stagedNow s off)) ∧
  (∀ (t : Time) (ag : Agent) (w : Word) (s : State), writeTakes s ag 0x240 → ∃ u, exec (.verHostWrite t ag w) s = .next u ∧ rd u 0x240 = w &&& 0xFFFF ∧
    (∀ v, v < 16 → w.getLsbD v = true → flag s 0x238 (16 + v) = true → (∀ k, v < k → k < 16 → w.getLsbD k = true → flag s 0x238 (16 + k) = false) →
      fld u 0x244 0 4 = v) ∧
    ((∀ k, k < 16 → w.getLsbD k = true → flag s 0x238 (16 + k) = false) → fld u 0x244 0 4 = 0 ∧ fld u 0x30000 0 16 = 0x0A0D))
/-! ## Registers and the host -/

/-- R46, R95 and R486: the pairs of registers of which the low half latches the upper one. -/
def Obligations.LowHalfLatchesUpperHalf : Prop :=
  (∀ (t t2 : Time) (ag : Agent) (off : Nat) (be be2 : Fin 16) (s : State), off % 4 = 0 → latchLow off = true → mayRead s ag →
    ∃ u v, exec (.latchingRead t ag ⟨off, be⟩) s = .next u ∧ exec (.latchingRead t2 ag ⟨off + 4, be2⟩) u = .next v ∧
      wordRead ag u be (plainRead (advance s t) off) ∧ wordRead ag v be2 (plainRead (advance s t) (off + 4)) ∧
      u.regs = s.regs ∧ u.mem = s.mem ∧
      ∀ other x, other ≠ ag → latchLow x = true → readReg u other (x + 4) = readReg s other (x + 4)) ∧
  (∀ (s : State), latchLow 0x100 = true ∧ latchLow 0x108 = true ∧
    plainRead s 0x100 = BitVec.ofNat 32 s.clk.tb ∧ plainRead s 0x104 = BitVec.ofNat 32 (s.clk.tb / 2 ^ 32) ∧
    plainRead s 0x108 = BitVec.ofNat 32 (s.clk.tb / 5000000) ∧ plainRead s 0x10C = BitVec.ofNat 32 (s.clk.tb / 5000000 / 2 ^ 32)) ∧
  (∀ (s : State) (l k : Nat) (c : SlotCtx), l < 256 → k < 8 → slotOf s l k = some c →
    let b := 0x100100 + 0x1000 * l + 0x40 * k
    latchLow (b + 4) = true ∧ latchLow (b + 0xC) = true ∧
    plainRead s (b + 4) = BitVec.ofNat 32 c.steps ∧ plainRead s (b + 8) = BitVec.ofNat 32 (c.steps / 2 ^ 32) ∧
    plainRead s (b + 0xC) = BitVec.ofNat 32 (stallNow s l c) ∧ plainRead s (b + 0x10) = BitVec.ofNat 32 (stallNow s l c / 2 ^ 32))

/-- Access codes (R12, R13), the lock (R466), byte enables and unassigned offsets (R485, R487). -/
def Obligations.RegisterWritesByAccessCode : Prop :=
  (∀ (t : Time) (ag : Agent) (off : Nat) (w : Word) (s : State), off % 4 = 0 → (blockOf off).isSome = true → writeTakes s ag off →
    writeWord ag off w (advance s t) = plainWrite off w (advance s t) →
    let c := canonOff off
    ∃ u, exec (.registerWrite t ag off 15 w) s = .next u ∧ u = { advance s t with regs := u.regs, pend := u.pend } ∧
      rd u off &&& maskOf .rw c = w &&& maskOf .rw c ∧
      rd u off &&& maskOf .ro c = rd s off &&& maskOf .ro c ∧
      rd u off &&& maskOf .w1c c = rd s off &&& ~~~w &&& maskOf .w1c c ∧
      (lockTaken s = false → (s.boot.held = false ∨ (isBurReg c = false ∧ isHutReg c = false)) → rd u off &&& maskOf .rwl c = w &&& maskOf .rwl c) ∧
      ((lockTaken s = true ∨ s.boot.held = true ∧ (isBurReg c = true ∨ isHutReg c = true)) → rd u off &&& maskOf .rwl c = rd s off &&& maskOf .rwl c ∧ (maskOf .rwl c ≠ 0 → rd u 0x218 = rd s 0x218 + 1)) ∧
      rd u off &&& maskOf .rwc c = rd s off &&& maskOf .rwc c ∧
      (maskOf .rwc c ≠ 0 → plainRead u off &&& maskOf .rwc c = w &&& maskOf .rwc c) ∧
      ∀ x, canonOff x ≠ c → canonOff x ≠ 0x218 → rd u x = rd s x) ∧
  (∀ (t : Time) (ag : Agent) (off : Nat) (be : Fin 16) (w : Word) (s : State), off % 4 = 0 →
    (writeTakes s ag 0x480000 → be ≠ 15 → exec (.registerWrite t ag off be w) s = .next (bump (advance s t) 0x480014)) ∧
    (writeTakes s ag off → be = 15 → blockOf off = none → exec (.registerWrite t ag off be w) s = .next (bump (advance s t) 0x480010))) ∧
  (∀ (t : Time) (off : Nat) (w : Word) (s : State), off % 4 = 0 → (blockOf off).isSome = true →
    (lockTaken s = true → hostMay s off = false → exec (.registerWrite t .host off 15 w) s = .next (bump (advance s t) 0x48000C)) ∧
    (lockTaken s = false → exec (.registerWrite t .host off 15 w) s = .next (advance s t)) ∧
    (blockOf off = some 2 → off < 0x20800 → lockTaken s = false → exec (.registerWrite t .control off 15 w) s = .next (advance s t)))

/-- Timebase (R45, R47), link (R456, R482, R484), configuration (R483), DRAM window (R488, R489), mailboxes (R490). -/
def Obligations.TimebaseLinkAndHostMemory : Prop :=
  (∀ (t : Time) (ag : Agent) (w : Word) (s : State), writeTakes s ag 0x110 → ∃ u, exec (.glbTbAdjWrite t ag w) s = .next u ∧ u.clk = (advance s t).clk ∧
    rd u 0x110 = BitVec.ofInt 32 (clampInt (-500000) 500000 (sx 32 w.toNat)) ∧ flag u 0x11C 0 = true ∧
    (500000 < (sx 32 w.toNat).natAbs → flag u 0x11C 1 = true)) ∧
  (∀ (t : Time) (ag : Agent) (w : Word) (s : State), writeTakes s ag 0x118 →
    let v := (rd s 0x114).toNat + 2 ^ 32 * w.toNat
    (flag s 0x11C 2 = false → ∃ u, exec (.glbTbSet t ag w) s = .next u ∧ u.clk.tb = max v (max s.clk.tb t) ∧ rd u 0x118 = w ∧ u.mem = s.mem) ∧
    (flag s 0x11C 2 = true → exec (.glbTbSet t ag w) s = .next (bump (advance s t) 0x218))) ∧
  (∀ (t : Time) (width speed : Nat) (s : State), railsUp s = true → pcieUp s = false → width ∈ [1, 2, 4, 8] → 1 ≤ speed → speed ≤ 5 →
    ∃ u, exec (.pcieLinkUp t width speed) s = .next u ∧ pcieUp u = true ∧ fld u 0x480000 4 4 = width ∧ fld u 0x480000 1 3 = speed ∧
      u = { advance s t with regs := u.regs }) ∧
  (∀ (t : Time) (lost : List Nat) (s : State), pcieUp s = true → ∃ u, exec (.pcieLinkDown t lost) s = .next u ∧ pcieUp u = false ∧
    (∀ r, r < 4 → trOn u r = false ∧ rd u (trReg r 0x18) = rd s (trReg r 0x18) + BitVec.ofNat 32 (nth 0 lost r)) ∧ u = { advance s t with regs := u.regs }) ∧
  (∀ (t : Time) (s : State), ∃ u, exec (.pcieReset t) s = .next u ∧ pcieUp u = false ∧ (∀ r, r < 4 → trOn u r = false ∧ flag u (apReg r) 31 = false) ∧
    (∀ m, m < 8 → mboxOwned u m = false) ∧ u.mem = s.mem ∧ u.sio = s.sio ∧ u.tc = s.tc ∧ u.hif.mem = s.hif.mem) ∧
  (∀ (t : Time) (wr : Bool) (off : Nat) (be : Fin 16) (w : Word) (s : State), pcieUp s = true →
    (phase s < 3 → ∃ u, exec (.pcieConfigRequest t wr off be w) s = .next u ∧ u = { advance s t with hif := { s.hif with answer := .retry } }) ∧
    (3 ≤ phase s → ∃ u, exec (.pcieConfigRequest t false 0 be w) s = .next u ∧ u.regs = s.regs ∧
      u.hif.answer = .data (leBytes 4 (0x51200000 + fld s 0x480008 0 16))) ∧
    (3 ≤ phase s → ∀ t2, ∃ u v, exec (.pcieConfigRequest t true 0x10 15 0xFFFFFFFF) s = .next u ∧ exec (.pcieConfigRequest t2 false 0x10 be w) u = .next v ∧
      v.regs = s.regs ∧ v.hif.answer = .data (leBytes 4 0xFF800004))) ∧
  (∀ (t : Time) (off len : Nat) (s : State), pcieUp s = true → 3 ≤ phase s → len ≠ 0 →
    (∀ a, apAddr s false off len = some a → ∃ u, exec (.hostDramRead t off len) s = .next u ∧ u.mem = s.mem ∧ u.regs = s.regs ∧ u.hif.answer = .data (rdMem s a len)) ∧
    (apAddr s false off len = none → ∃ u, exec (.hostDramRead t off len) s = .next u ∧ u.mem = s.mem ∧ rd u 0x480018 = rd s 0x480018 + 1 ∧
      u.hif.answer = .unsupported)) ∧
  (∀ (t : Time) (off : Nat) (bs : List Byte) (s : State), pcieUp s = true → 3 ≤ phase s → bs ≠ [] →
    (∀ a, apAddr s true off bs.length = some a → ∃ u, exec (.hostDramWrite t off bs) s = .next u ∧ u.mem = (wrMem s a bs).mem ∧ u.regs = s.regs) ∧
    (apAddr s true off bs.length = none → ∃ u, exec (.hostDramWrite t off bs) s = .next u ∧ u.mem = s.mem ∧ rd u 0x480018 = rd s 0x480018 + 1)) ∧
  (∀ (s : State) (wr : Bool) (off n a : Nat), phase s ≠ 15 → apAddr s wr off n = some a →
    flag s (apReg (off / 2 ^ 32)) 31 = true ∧ flag s (apReg (off / 2 ^ 32)) (if wr then 29 else 30) = true ∧ a + n ≤ memTop s ∧
      (wr = true → inKv s a n = false)) ∧
  (∀ (t : Time) (ag : Agent) (m : Fin 8) (w : Word) (s : State), writeTakes s ag (mboxReg m 0x40) → w.getLsbD 31 = true →
    (mboxOwned s m = false → ∃ u, exec (.mailboxGo t ag m w) s = .next u ∧ mboxOwned u m = true ∧ u.mem = s.mem ∧
      u.svc.queue = s.svc.queue ++ [(m.val, mboxData s m, false)]) ∧
    (mboxOwned s m = true → exec (.mailboxGo t ag m w) s = .next (advance s t)))

/-- R502: HIF_MEMRD. -/
def Obligations.MemrdReadsDeviceMemory : Prop :=
  (∀ (t t2 : Time) (ag : Agent) (lo hi : Word) (s : State), writeTakes s ag 0x480020 →
    ∃ u v, exec (.registerWrite t ag 0x480020 15 lo) s = .next u ∧ exec (.memrdStart t2 ag hi) u = .next v ∧ flag v 0x480024 0 = false ∧
      v.hif.memrd = some (lo.toNat / 4 * 4 + 2 ^ 32 * (hi.toNat % 2 ^ 16)) ∧ v.mem = s.mem) ∧
  (∀ (t : Time) (a : Nat) (s : State), s.hif.memrd = some a →
    (a + 4 ≤ memTop s → ∃ u, exec (.memrdDone t) s = .next u ∧ rd u 0x48002C = BitVec.ofNat 32 (rdLE s a 4) ∧ flag u 0x480024 0 = true ∧
      flag u 0x480024 1 = false ∧ rd u 0x480018 = rd s 0x480018 ∧ u.mem = s.mem ∧ u.hif.memrd = none) ∧
    (memTop s < a + 4 → ∃ u, exec (.memrdDone t) s = .next u ∧ flag u 0x480024 1 = true ∧ rd u 0x480018 = rd s 0x480018 + 1 ∧ u.mem = s.mem ∧
      u.hif.memrd = none))

/-- R495: full rings, DROP records, the interrupt at THRESH. -/
def Obligations.TelemetryDropsAndInterrupts : Prop :=
  (∀ (t : Time) (src : EventSource) (m : Fin 6) (r : Nat) (s : State), r < 4 →
    let s' := advance s t
    let e := dueEvent s' src
    let code := e.2.2.1
    let base := fld s (trReg r 0) 5 27 * 32 + 2 ^ 32 * (rd s (trReg r 4)).toNat
    let head := rd s (trReg r 0xC)
    let source := 2 ^ 24 * e.1 + e.2.1 % 2 ^ 24
    1 ≤ code / 256 → code / 256 ≤ 10 → trOn s r = true → (rd s (trReg r 8)).getLsbD (code / 256) = true →
    (∀ q, q < 4 → q ≠ r → trOn s q = false) →
    (trUsed s r = trLen s r → ∃ u, exec (.telemetryEvent t src m) s = .next u ∧ u.hif.mem = s.hif.mem ∧ rd u (trReg r 0x18) = rd s (trReg r 0x18) + 1 ∧
      (trState u r).2 = (trState s r).2 + 1 ∧ rd u (trReg r 0xC) = head) ∧
    (trUsed s r ≠ trLen s r → (trState s r).2 = 0 → ∃ u v, exec (.telemetryEvent t src m) s = .next u ∧
      u.hif.mem = msets 0 s.hif.mem (base + 32 * (head.toNat % trLen s r)) (telemetryBytes s'.clk.tb 1 code source v (trState s r).1) ∧
      rd u (trReg r 0xC) = head + 1 ∧ rd u (trReg r 0x18) = rd s (trReg r 0x18) ∧
      (trUsed u r = fld s (trReg r 0x14) 16 16 → pcieUp s = true →
        if msixMasked s (8 + r) then u.hif.pba.testBit (8 + r) = true else tget 0 u.hif.sent (8 + r) = tget 0 s.hif.sent (8 + r) + 1)) ∧
    (trUsed s r ≠ trLen s r → (trState s r).2 ≠ 0 → trUsed s r + 1 ≠ trLen s r → trUsed s r < 2 ^ 32 - 1 →
      ∃ u v x, exec (.telemetryEvent t src m) s = .next u ∧ rd u (trReg r 0xC) = head + 2 ∧ (trState u r).2 = 0 ∧
        u.hif.mem = msets 0 (msets 0 s.hif.mem (base + 32 * (head.toNat % trLen s r)) (telemetryBytes s'.clk.tb 3 0 x (trState s r).2 (trState s r).1))
          (base + 32 * ((head + 1).toNat % trLen s r)) (telemetryBytes s'.clk.tb 1 code source v ((trState s r).1 + 1))) ∧
    (trUsed s r + 1 = trLen s r → (trState s r).2 ≠ 0 → ∃ u x, exec (.telemetryEvent t src m) s = .next u ∧ rd u (trReg r 0xC) = head + 1 ∧
      (trState u r).2 = 1 ∧ rd u (trReg r 0x18) = rd s (trReg r 0x18) + 1 ∧
      u.hif.mem = msets 0 s.hif.mem (base + 32 * (head.toNat % trLen s r)) (telemetryBytes s'.clk.tb 3 0 x (trState s r).2 (trState s r).1))) ∧
  (∀ (t : Time) (ag : Agent) (r : Fin 4) (w : Word) (s : State), writeTakes s ag (trReg r 8) → w.getLsbD 31 = true → trOn s r = false →
    ∃ u, exec (.trEnable t ag r w) s = .next u ∧ rd u (trReg r 0xC) = 0 ∧ trState u r = (0, (trState s r).2) ∧ trOn u r = true ∧ u.mem = s.mem) ∧
  (∀ (s : State) (src : EventSource) (code arg : Nat) (rest : List (EventSource × Nat × Nat)), inOrderSrc src = true → s.svc.untold = (src, code, arg) :: rest →
    (dueEvent s src).2.2.1 = code ∧ (dueEvent s src).2.2.2.svc.untold = rest) ∧
  (∀ (s : State) (src : EventSource), inOrderSrc src = false → s.svc.untold = [] → dueEvent s src = eventOf s src)

/-- Management commands over a mailbox (R490, R491). -/
def Obligations.ManagementCommandsAnswer : Prop :=
  (∀ (t : Time) (m : Fin 8) (s : State) (msg : List Byte) (q : List MbMsg), Serving s m 1 msg q → ∃ u, exec (.mgmtVersion t m) s = .next u ∧
    Answered u m 0 ∧ u.svc.queue = q ∧ u.mem = s.mem ∧ ∀ k, k < 4 → rd u (mboxReg m (8 + 4 * k)) = readReg (advance s t) .control (0x230 + 4 * k)) ∧
  (∀ (t : Time) (m : Fin 8) (s : State) (msg : List Byte) (q : List MbMsg), Serving s m 2 msg q →
    let off := le (msgBody msg) 0 4
    let n := le (msgBody msg) 4 1
    let bad := (msgBody msg).length < 5 ∨ off % 4 ≠ 0 ∨ n = 0 ∨ 12 < n
    ∃ u, exec (.mgmtReadReg t m) s = .next u ∧ u.mem = s.mem ∧ u.svc.queue = q ∧ (bad → Answered u m 1) ∧ (¬ bad → Answered u m 0 ∧ ∀ k, k < n →
      rd u (mboxReg m (8 + 4 * k)) =
        readReg ((rangeFrom 0 (k + 1)).foldl (fun s j => readEffect .control (off + 4 * j) s) (advance s t)) .control (off + 4 * k))) ∧
  (∀ (t : Time) (m : Fin 8) (s : State) (msg : List Byte) (q : List MbMsg), Serving s m 3 msg q → 12 ≤ (msgBody msg).length →
    let off := le (msgBody msg) 0 4
    off % 4 = 0 →
    (inRanges s.boot.pol.wr off 4 = false → ∃ u, exec (.mgmtWriteReg t m) s = .next u ∧ Answered u m 3 ∧ u.mem = s.mem ∧ u.pend = s.pend) ∧
    (inRanges s.boot.pol.wr off 4 = true → ∃ u v, exec (.mgmtWriteReg t m) s = .next u ∧ Answered u m 0 ∧
      v = busWrite { advance s t with svc := { s.svc with queue := q } } .control off 15
        (mergeWord (asWord (le (msgBody msg) 8 4)) (readReg (advance s t) .control off &&& ~~~(maskOf .w1c (canonOff off))) (asWord (le (msgBody msg) 4 4))) ∧
      u.mem = v.mem ∧ u.pend = v.pend ∧ ∀ x, ¬ (mboxReg m 0 ≤ canonOff x ∧ canonOff x ≤ mboxReg m 0x40) → rd u x = rd v x)) ∧
  (∀ (t : Time) (m : Fin 8) (s : State) (msg : List Byte) (q : List MbMsg), Serving s m 4 msg q → 7 ≤ (msgBody msg).length →
    let a := le (msgBody msg) 0 6
    let n := le (msgBody msg) 6 1
    ∃ u, exec (.mgmtReadMem t m) s = .next u ∧ u.mem = s.mem ∧ u.svc.queue = q ∧ ((n = 0 ∨ 48 < n) → Answered u m 1) ∧
      (1 ≤ n → n ≤ 48 → inRanges s.boot.pol.mem a n = false → Answered u m 3) ∧
      (1 ≤ n → n ≤ 48 → inRanges s.boot.pol.mem a n = true → Answered u m 0 ∧ ∀ i, i < n →
        fld u (mboxReg m (8 + i / 4 * 4)) (8 * (i % 4)) 8 = (nth 0 (rdMem s a n) i).toNat)) ∧
  (∀ (t : Time) (m : Fin 8) (s : State) (msg : List Byte) (q : List MbMsg), Serving s m 5 msg q →
    let a := le (msgBody msg) 0 6
    let n := le (msgBody msg) 6 1
    7 + n ≤ (msgBody msg).length → 1 ≤ n → n ≤ 40 → ∃ u, exec (.mgmtWriteMem t m) s = .next u ∧ u.svc.queue = q ∧
      (inRanges s.boot.pol.mem a n = false → Answered u m 3 ∧ u.mem = s.mem) ∧
      (inRanges s.boot.pol.mem a n = true → Answered u m 0 ∧ u.mem = (wrMem s a (((msgBody msg).drop 7).take n)).mem)) ∧
  (∀ (t : Time) (m : Fin 8) (s : State) (msg : List Byte) (q : List MbMsg), Serving s m 6 msg q →
    ∃ u, exec (.mgmtImageWrite t m .start) s = .next u ∧ u.mem = s.mem ∧ u.svc.queue = q ∧ u.boot = s.boot ∧
      (imageBad (msgBody msg) s = 0 → u.svc.img = some (m.val, msg, false) ∧ u.regs = s.regs) ∧
      (imageBad (msgBody msg) s ≠ 0 → Answered u m (imageBad (msgBody msg) s) ∧ u.svc.img = s.svc.img)) ∧
  (∀ (t : Time) (m : Fin 8) (same : Bool) (s : State) (msg : List Byte), s.svc.img = some (m.val, msg, false) → fwRuns s = true →
    imageBad (msgBody msg) { s with svc := { s.svc with img := none } } = 0 →
    ∃ u, exec (.mgmtImageWrite t m (.finish same)) s = .next u ∧ u.mem = s.mem ∧ u.svc.queue = s.svc.queue ∧ u.svc.img = none ∧
      Answered u m (if same then 0 else 6) ∧
      (same = true → u.boot.flash = msets flashDefault s.boot.flash (copyBase (decide (le (msgBody msg) 0 1 = 1)))
        (rdMem s (le (msgBody msg) 1 6) (le (msgBody msg) 7 4)))) ∧
  (∀ (t : Time) (m : Fin 8) (s : State) (msg : List Byte) (q : List MbMsg), Serving s m 7 msg q →
    (le (msgBody msg) 0 1 = 1 → s.boot.pol.mayMgmt = true → ∃ u, exec (.mgmtReset t m) s = .next u ∧ u.pend = [] ∧ u.boot.fw = false ∧ flag u 0x204 3 = true ∧
      u.mem = s.mem ∧ u.sio = s.sio) ∧
    (le (msgBody msg) 0 1 = 2 → s.boot.pol.mayModule = true → ∃ u, exec (.mgmtReset t m) s = .next u ∧ phase u = 0 ∧ AllSafe u ∧ flag u 0x204 2 = true) ∧
    ((le (msgBody msg) 0 1 = 1 ∧ s.boot.pol.mayMgmt = false ∨ le (msgBody msg) 0 1 = 2 ∧ s.boot.pol.mayModule = false) →
      ∃ u, exec (.mgmtReset t m) s = .next u ∧ Answered u m 3 ∧ u.mem = s.mem ∧ u.boot = s.boot)) ∧
  (∀ (t : Time) (m : Fin 8) (s : State) (msg : List Byte) (q : List MbMsg), Serving s m 8 msg q → ∃ u, exec (.mgmtEcho t m) s = .next u ∧ Answered u m 0 ∧
    u.svc.queue = q ∧ u.mem = s.mem ∧ ∀ k, 2 ≤ k → k < 16 → rd u (mboxReg m (4 * k)) = asWord (le msg (4 * k) 4))

/-- Datagrams (R492), USB power (R505), JTAG (R512), SMBus (R513). -/
def Obligations.DatagramsSmbusUsbAndJtag : Prop :=
  (∀ (t : Time) (p : Fin 8) (udp src : Nat) (bs : List Byte) (ok : Bool) (s : State), fwRuns s = true →
    (udp ≠ s.boot.pol.udp ∨ ∀ e ∈ s.ing.mgmt, e.1 = p.val → mgmtUdp s p e.2 ≠ some (src, bs)) → exec (.mgmtDatagram t p udp src bs ok) s = .next (advance s t)) ∧
  (∀ (t : Time) (p : Fin 8) (src : Nat) (frame bs : List Byte) (before rest : List (Nat × List Byte)) (ok : Bool) (s : State), fwRuns s = true →
    s.ing.mgmt = before ++ (p.val, frame) :: rest → (∀ e ∈ before, e.1 = p.val → mgmtUdp s p e.2 ≠ some (src, bs)) → mgmtUdp s p frame = some (src, bs) →
    bs.length = 120 →
    ((bs.drop 72 ≠ dgramTag s bs ∨ le bs 64 8 ≤ tget 0 s.svc.ctrs src) →
      exec (.mgmtDatagram t p s.boot.pol.udp src bs ok) s = .next (bump { advance s t with ing := { s.ing with mgmt := rest } } 0x48001C)) ∧
    (bs.drop 72 = dgramTag s bs → tget 0 s.svc.ctrs src < le bs 64 8 → msgKnown (bs.take 64) = true → msgCmd (bs.take 64) ≠ 3 → msgCmd (bs.take 64) ≠ 7 →
      ∃ u x, exec (.mgmtDatagram t p s.boot.pol.udp src bs ok) s = .next u ∧ u.ing.mgmt = rest ∧ tget 0 u.svc.ctrs src = le bs 64 8 ∧ x.length = 64 ∧
        u.svc.sent = x ++ leBytes 8 (le bs 64 8) ++ hmac384 s.boot.pol.key (x ++ leBytes 8 (le bs 64 8)))) ∧
  (∀ (t : Time) (msg : List Byte) (ok : Bool) (s : State), fwRuns s = true → msg.length = 64 →
    (msgKnown msg = true → msgCmd msg ≠ 3 → msgCmd msg ≠ 7 → ∃ u r, exec (.smbusTransaction t msg true ok) s = .next u ∧ r = carryOut msg ok (advance s t) ∧
      u.svc.smb = replyBytes msg r) ∧
    exec (.smbusTransaction t msg false ok) s = .next (advance s t)) ∧
  (∀ (t : Time) (p : Fin 2) (s : State), ∃ u, exec (.usbOvercurrent t p) s = .next u ∧ u.regs = s.regs ∧ vbusEn u p = false) ∧
  (∀ (t : Time) (p : Fin 2) (x : Time) (s : State), tget? s.svc.vbusOff p = some x →
    (x + 1000000000 ≤ max s.clk.tb t → ∃ u, exec (.usbOvercurrentRetry t p) s = .next u ∧ u.regs = s.regs ∧ vbusEn u p = true) ∧
    (max s.clk.tb t < x + 1000000000 → exec (.usbOvercurrentRetry t p) s = .next (advance s t))) ∧
  (∀ (t : Time) (s : State), ∃ u, exec (.jtagBypass t) s = .next u ∧ u.svc = { s.svc with ir := .bypass, dr := [false] } ∧ u.regs = s.regs) ∧
  (∀ (t : Time) (s : State), ∃ u, exec (.jtagIdcode t) s = .next u ∧ u.svc.ir = .idcode ∧ u.svc.dr.length = 32 ∧ u.svc.dr.head? = some true ∧
    (∀ i, i < 16 → nth false u.svc.dr (12 + i) = Nat.testBit 0x5120 i) ∧ (∀ i, i < 4 → nth false u.svc.dr (28 + i) = Nat.testBit 0xA i) ∧ u.regs = s.regs) ∧
  (∀ (t : Time) (pins pre : List Bool) (s : State), ∃ u, exec (.jtagSamplePreload t pins pre) s = .next u ∧
    u.svc = { s.svc with ir := .sample, dr := pins, cells := pre } ∧ u.regs = s.regs) ∧
  (∀ (t : Time) (s : State), ∃ u, exec (.jtagExtest t) s = .next u ∧ u.regs = s.regs ∧ u.mem = s.mem ∧
    (s.boot.resetN = true → u.svc.ir = .extest ∧ u.svc.cells = s.svc.cells ∧ u.svc.dr.length = s.svc.cells.length ∧
      ∀ i, i < s.svc.cells.length → Config.observeOnly i = false → jtagDrives u i = s.svc.cells[i]? ∧ nth false u.svc.dr i = nth false s.svc.cells i) ∧
    (s.boot.resetN = true → ∀ i, Config.observeOnly i = true → jtagDrives u i = none) ∧ (s.boot.resetN = false → u.svc.ir = .bypass ∧ u.svc.dr = [false]))
end

