-- ==== Sys2Proof/Laws/Bits.lean ====
section
/-!
SUPPORT. Laws/Bits.lean: a bit field reads as it was put, and the other fields of its word stay.
-/
namespace Sys2Proof.Laws
open Sys2Proof Sys2Proof.Machine

theorem testBit_fieldOf (v lo w i : Nat) : (fieldOf v lo w).testBit i = (decide (i < w) && v.testBit (lo + i)) := by
  simp [fieldOf, Nat.testBit_mod_two_pow, Nat.testBit_div_two_pow, Nat.add_comm]

theorem testBit_fieldMask (lo w i : Nat) : (fieldMask lo w).testBit i = (decide (lo ≤ i) && decide (i - lo < w)) := by
  rw [fieldMask, Nat.testBit_mul_two_pow, Nat.testBit_two_pow_sub_one]

theorem getLsbD_putField (x : Word) (lo w v i : Nat) :
    (putField x lo w v).getLsbD i = (decide (i < 32) && (if lo ≤ i ∧ i - lo < w then v.testBit (i - lo) else x.getLsbD i)) := by
  by_cases hi : i < 32
  · have e : (putField x lo w v).getLsbD i
        = ((x.getLsbD i && !(fieldMask lo w).testBit i) || (v % 2 ^ w * 2 ^ lo).testBit i) := by
      simp only [putField, BitVec.getLsbD_or, BitVec.getLsbD_and, BitVec.getLsbD_not, BitVec.getLsbD_ofNat, hi, decide_true, Bool.true_and]
    rw [e, testBit_fieldMask, Nat.testBit_mul_two_pow, Nat.testBit_mod_two_pow]
    by_cases hl : lo ≤ i <;> by_cases hw : i - lo < w <;> simp [hi, hl, hw]
  · rw [BitVec.getLsbD_of_ge _ _ (Nat.le_of_not_lt hi)]; simp [hi]

theorem fieldOf_toNat_testBit (x : Word) (lo w i : Nat) : (fieldOf x.toNat lo w).testBit i = (decide (i < w) && x.getLsbD (lo + i)) := by
  rw [testBit_fieldOf]; rfl

/-- A field reads as it was put. -/
theorem fieldOf_putField_same (x : Word) (lo w v : Nat) (h : lo + w ≤ 32) : fieldOf (putField x lo w v).toNat lo w = v % 2 ^ w := by
  apply Nat.eq_of_testBit_eq
  intro i
  rw [fieldOf_toNat_testBit, getLsbD_putField, Nat.testBit_mod_two_pow]
  by_cases hi : i < w
  · simp [hi, show lo + i < 32 by omega]
  · simp [hi]

/-- A field apart from the one put stays. -/
theorem fieldOf_putField_ne (x : Word) (lo w v lo2 w2 : Nat) (h : lo2 + w2 ≤ lo ∨ lo + w ≤ lo2) :
    fieldOf (putField x lo w v).toNat lo2 w2 = fieldOf x.toNat lo2 w2 := by
  apply Nat.eq_of_testBit_eq
  intro i
  rw [fieldOf_toNat_testBit, fieldOf_toNat_testBit, getLsbD_putField]
  by_cases hi : i < w2
  · have hn : ¬ (lo ≤ lo2 + i ∧ lo2 + i - lo < w) := by omega
    simp only [hi, hn, if_false, decide_true, Bool.true_and]
    by_cases h32 : lo2 + i < 32
    · simp [h32]
    · simp [h32, BitVec.getLsbD_of_ge _ _ (Nat.le_of_not_lt h32)]
  · simp [hi]

theorem getLsbD_mergeWord (m a b : Word) (i : Nat) : (mergeWord m a b).getLsbD i = if m.getLsbD i then b.getLsbD i else a.getLsbD i := by
  by_cases hi : i < 32
  · simp only [mergeWord, BitVec.getLsbD_or, BitVec.getLsbD_and, BitVec.getLsbD_not, hi, decide_true, Bool.true_and]
    cases m.getLsbD i <;> simp
  · simp [BitVec.getLsbD_of_ge _ _ (Nat.le_of_not_lt hi)]

@[simp] theorem mergeWord_zero (a b : Word) : mergeWord 0 a b = a := by
  apply BitVec.eq_of_getLsbD_eq; intro i _; rw [getLsbD_mergeWord]; simp

theorem clampInt_within (lo hi i : Int) (h : lo ≤ hi) : lo ≤ clampInt lo hi i ∧ clampInt lo hi i ≤ hi := by
  unfold clampInt; split <;> (try split) <;> omega

theorem clampNat_within (lo hi n : Nat) (h : lo ≤ hi) : lo ≤ clampNat lo hi n ∧ clampNat lo hi n ≤ hi := by
  unfold clampNat; split <;> (try split) <;> omega

end Sys2Proof.Laws
end

