-- ==== Sys2Proof/Laws/Exec.lean ====
section
/-!
SUPPORT. Laws/Exec.lean: exec of each command is its meaning.
-/
namespace Sys2Proof.Laws
open Sys2Proof Sys2Proof.Machine

variable (s : State)

theorem exec_epochBoundary : exec (.epochBoundary) s = Sys2Proof.Machine.execEpochBoundary s := rfl
theorem exec_slotBoundary : exec (.slotBoundary) s = Sys2Proof.Machine.execSlotBoundary s := rfl
theorem exec_coreStep (t : Time) (l : Fin 256) (par : Option (Nat × Nat × Bool)) : exec (.coreStep t l par) s = Sys2Proof.Machine.execCoreStep t l par s := rfl
theorem exec_drainComplete (t : Time) (l : Fin 256) (a : Fin 32) : exec (.drainComplete t l a) s = Sys2Proof.Machine.execDrainComplete t l a s := rfl
theorem exec_issueMma (t : Time) (l : Fin 256) (k : Fin 8) : exec (.issueMma t l k) s = Sys2Proof.Machine.execIssueMma t l k s := rfl
theorem exec_issueXpnd (t : Time) (l : Fin 256) (k : Fin 8) : exec (.issueXpnd t l k) s = Sys2Proof.Machine.execIssueXpnd t l k s := rfl
theorem exec_issueAttn (t : Time) (l : Fin 256) (k : Fin 8) : exec (.issueAttn t l k) s = Sys2Proof.Machine.execIssueAttn t l k s := rfl
theorem exec_issueEwise (t : Time) (l : Fin 256) (k : Fin 8) : exec (.issueEwise t l k) s = Sys2Proof.Machine.execIssueEwise t l k s := rfl
theorem exec_issuePool (t : Time) (l : Fin 256) (k : Fin 8) : exec (.issuePool t l k) s = Sys2Proof.Machine.execIssuePool t l k s := rfl
theorem exec_issueArgmaxc (t : Time) (l : Fin 256) (k : Fin 8) : exec (.issueArgmaxc t l k) s = Sys2Proof.Machine.execIssueArgmaxc t l k s := rfl
theorem exec_issueStat (t : Time) (l : Fin 256) (k : Fin 8) : exec (.issueStat t l k) s = Sys2Proof.Machine.execIssueStat t l k s := rfl
theorem exec_issueScaleEntries (t : Time) (l : Fin 256) (k : Fin 8) : exec (.issueScaleEntries t l k) s = Sys2Proof.Machine.execIssueScaleEntries t l k s := rfl
theorem exec_issueScaleTable (t : Time) (l : Fin 256) (k : Fin 8) : exec (.issueScaleTable t l k) s = Sys2Proof.Machine.execIssueScaleTable t l k s := rfl
theorem exec_issueFill (t : Time) (l : Fin 256) (k : Fin 8) : exec (.issueFill t l k) s = Sys2Proof.Machine.execIssueFill t l k s := rfl
theorem exec_issueScopy (t : Time) (l : Fin 256) (k : Fin 8) : exec (.issueScopy t l k) s = Sys2Proof.Machine.execIssueScopy t l k s := rfl
theorem exec_issueDma (t : Time) (l : Fin 256) (k : Fin 8) : exec (.issueDma t l k) s = Sys2Proof.Machine.execIssueDma t l k s := rfl
theorem exec_issueKvapp (t : Time) (l : Fin 256) (k : Fin 8) : exec (.issueKvapp t l k) s = Sys2Proof.Machine.execIssueKvapp t l k s := rfl
theorem exec_syncWait (t : Time) (l : Fin 256) (k : Fin 8) : exec (.syncWait t l k) s = Sys2Proof.Machine.execSyncWait t l k s := rfl
theorem exec_syncSignal (t : Time) (l : Fin 256) (k : Fin 8) : exec (.syncSignal t l k) s = Sys2Proof.Machine.execSyncSignal t l k s := rfl
theorem exec_syncBload (t : Time) (l : Fin 256) (k : Fin 8) : exec (.syncBload t l k) s = Sys2Proof.Machine.execSyncBload t l k s := rfl
theorem exec_syncWaitRelease (t : Time) (l : Fin 256) (k : Fin 8) : exec (.syncWaitRelease t l k) s = Sys2Proof.Machine.execSyncWaitRelease t l k s := rfl
theorem exec_accSlotGrant (t : Time) (l : Fin 256) (k : Fin 8) : exec (.accSlotGrant t l k) s = Sys2Proof.Machine.execAccSlotGrant t l k s := rfl
theorem exec_instructionHoldRelease (t : Time) (l : Fin 256) (k : Fin 8) : exec (.instructionHoldRelease t l k) s = Sys2Proof.Machine.execInstructionHoldRelease t l k s := rfl
theorem exec_instructionComplete (t : Time) (l : Fin 256) (k : Fin 8) : exec (.instructionComplete t l k) s = Sys2Proof.Machine.execInstructionComplete t l k s := rfl
theorem exec_statsPartialArrive (t : Time) (p : Fin 16) (n : Fin 64) (rank : Fin 256) : exec (.statsPartialArrive t p n rank) s = Sys2Proof.Machine.execStatsPartialArrive t p n rank s := rfl
theorem exec_jobEnd (t : Time) (p : Fin 16) (n : Fin 64) : exec (.jobEnd t p n) s = Sys2Proof.Machine.execJobEnd t p n s := rfl
theorem exec_footstoolChunkBoundary (t : Time) (c : Fin 16) : exec (.footstoolChunkBoundary t c) s = Sys2Proof.Machine.execFootstoolChunkBoundary t c s := rfl
theorem exec_footstoolRequestComplete (t : Time) (c : Fin 16) : exec (.footstoolRequestComplete t c) s = Sys2Proof.Machine.execFootstoolRequestComplete t c s := rfl
theorem exec_footstoolParityError (t : Time) (c : Fin 16) (row : Nat) (held : Bool) : exec (.footstoolParityError t c row held) s = Sys2Proof.Machine.execFootstoolParityError t c row held s := rfl
theorem exec_coreRetire (t : Time) (l : Fin 256) (cause : RetireCause) : exec (.coreRetire t l cause) s = Sys2Proof.Machine.execCoreRetire t l cause s := rfl
theorem exec_clRetireReq (t : Time) (ag : Agent) (l : Fin 256) (w : Word) : exec (.clRetireReq t ag l w) s = Sys2Proof.Machine.execClRetireReq t ag l w s := rfl
theorem exec_coreReset (t : Time) (ag : Agent) (l : Fin 256) : exec (.coreReset t ag l) s = Sys2Proof.Machine.execCoreReset t ag l s := rfl
theorem exec_tcQuiesce (t : Time) (ag : Agent) (l : Fin 256) (q : Bool) : exec (.tcQuiesce t ag l q) s = Sys2Proof.Machine.execTcQuiesce t ag l q s := rfl
theorem exec_creditRequest (t : Time) (l : Fin 256) (rq : CreditArg) : exec (.creditRequest t l rq) s = Sys2Proof.Machine.execCreditRequest t l rq s := rfl
theorem exec_creditGrant (t : Time) (l : Fin 256) : exec (.creditGrant t l) s = Sys2Proof.Machine.execCreditGrant t l s := rfl
theorem exec_writeAck (t : Time) (l : Fin 256) (tag : Nat) : exec (.writeAck t l tag) s = Sys2Proof.Machine.execWriteAck t l tag s := rfl
theorem exec_landingDrawerConsumed (t : Time) (l : Fin 256) (d : Fin 256) : exec (.landingDrawerConsumed t l d) s = Sys2Proof.Machine.execLandingDrawerConsumed t l d s := rfl
theorem exec_multicastSend (t : Time) (l : Fin 256) (k : Fin 8) (src : Nat) (len : Nat) (dests : List Nat) : exec (.multicastSend t l k src len dests) s = Sys2Proof.Machine.execMulticastSend t l k src len dests s := rfl
theorem exec_haloRowSend (t : Time) (l : Fin 256) (k : Fin 8) (src : Nat) (len : Nat) : exec (.haloRowSend t l k src len) s = Sys2Proof.Machine.execHaloRowSend t l k src len s := rfl
theorem exec_promiseCancel (t : Time) (l : Fin 256) (src : Nat) (mc : Bool) : exec (.promiseCancel t l src mc) s = Sys2Proof.Machine.execPromiseCancel t l src mc s := rfl
theorem exec_shcRead (t : Time) (l : Fin 256) (k : Fin 8) (addr : Nat) (err : ShcErr) : exec (.shcRead t l k addr err) s = Sys2Proof.Machine.execShcRead t l k addr err s := rfl
theorem exec_shcInv (t : Time) (ag : Agent) (p : Fin 16) : exec (.shcInv t ag p) s = Sys2Proof.Machine.execShcInv t ag p s := rfl
theorem exec_shcInvDone (t : Time) : exec (.shcInvDone t) s = Sys2Proof.Machine.execShcInvDone t s := rfl
theorem exec_wctrClaim (t : Time) (l : Fin 256) (k : ClaimOp) : exec (.wctrClaim t l k) s = Sys2Proof.Machine.execWctrClaim t l k s := rfl
theorem exec_wctrCompletion (t : Time) (c : Fin 16) (k : CtrOp) (l : Fin 256) (tag item sat nan : Nat) : exec (.wctrCompletion t c k l tag item sat nan) s = Sys2Proof.Machine.execWctrCompletion t c k l tag item sat nan s := rfl
theorem exec_wctrClear (t : Time) (ag : Agent) (c : Fin 16) (k : Fin 64) : exec (.wctrClear t ag c k) s = Sys2Proof.Machine.execWctrClear t ag c k s := rfl
theorem exec_dmaChainAccept (t : Time) (e : Fin 22) (p : Fin 16) (n : Fin 64) (base : Nat) (count : Nat) : exec (.dmaChainAccept t e p n base count) s = Sys2Proof.Machine.execDmaChainAccept t e p n base count s := rfl
theorem exec_dmaDescStart (t : Time) (e : Fin 22) (vc : Fin 4) (ix : Nat) : exec (.dmaDescStart t e vc ix) s = Sys2Proof.Machine.execDmaDescStart t e vc ix s := rfl
theorem exec_dmaDescComplete (t : Time) (e : Fin 22) (vc : Fin 4) (ix : Nat) : exec (.dmaDescComplete t e vc ix) s = Sys2Proof.Machine.execDmaDescComplete t e vc ix s := rfl
theorem exec_dmaDescFault (t : Time) (e : Fin 22) (vc : Fin 4) : exec (.dmaDescFault t e vc) s = Sys2Proof.Machine.execDmaDescFault t e vc s := rfl
theorem exec_dramReadEcc (t : Time) (addr : Nat) (kind : EccKind) (rd : Reader) : exec (.dramReadEcc t addr kind rd) s = Sys2Proof.Machine.execDramReadEcc t addr kind rd s := rfl
theorem exec_patrolScrub (t : Time) (m : Fin 6) (single : List Nat) (double : List Nat) : exec (.patrolScrub t m single double) s = Sys2Proof.Machine.execPatrolScrub t m single double s := rfl
theorem exec_spadParityError (t : Time) (l : Fin 256) (off : Nat) (rd : Reader) : exec (.spadParityError t l off rd) s = Sys2Proof.Machine.execSpadParityError t l off rd s := rfl
theorem exec_bankClosingDone (t : Time) (l : Fin 256) (b : Fin 16) : exec (.bankClosingDone t l b) s = Sys2Proof.Machine.execBankClosingDone t l b s := rfl
theorem exec_bankGateAbort (t : Time) (l : Fin 256) (b : Fin 16) : exec (.bankGateAbort t l b) s = Sys2Proof.Machine.execBankGateAbort t l b s := rfl
theorem exec_bankWake (t : Time) (l : Fin 256) (b : Fin 16) (wr : Bool) : exec (.bankWake t l b wr) s = Sys2Proof.Machine.execBankWake t l b wr s := rfl
theorem exec_bankWakeDone (t : Time) (l : Fin 256) (b : Fin 16) : exec (.bankWakeDone t l b) s = Sys2Proof.Machine.execBankWakeDone t l b s := rfl
theorem exec_kvappComplete (t : Time) (l : Fin 256) (k : Fin 8) : exec (.kvappComplete t l k) s = Sys2Proof.Machine.execKvappComplete t l k s := rfl
theorem exec_kvCopyOnWrite (t : Time) (l : Fin 256) (k : Fin 8) : exec (.kvCopyOnWrite t l k) s = Sys2Proof.Machine.execKvCopyOnWrite t l k s := rfl
theorem exec_kvPinRelease (t : Time) (l : Fin 256) (k : Fin 8) (page : Nat) : exec (.kvPinRelease t l k page) s = Sys2Proof.Machine.execKvPinRelease t l k page s := rfl
theorem exec_kvBatchBoundary (t : Time) (p : Fin 16) : exec (.kvBatchBoundary t p) s = Sys2Proof.Machine.execKvBatchBoundary t p s := rfl
theorem exec_kvTreeInsert (t : Time) (q : Fin 2048) (blk : Nat) : exec (.kvTreeInsert t q blk) s = Sys2Proof.Machine.execKvTreeInsert t q blk s := rfl
theorem exec_kvHotCopy (t : Time) (page : Nat) (c : Fin 16) : exec (.kvHotCopy t page c) s = Sys2Proof.Machine.execKvHotCopy t page c s := rfl
theorem exec_partitionReset (t : Time) (p : Fin 16) : exec (.partitionReset t p) s = Sys2Proof.Machine.execPartitionReset t p s := rfl
theorem exec_contextTeardown (t : Time) (p : Fin 16) (n : Fin 64) : exec (.contextTeardown t p n) s = Sys2Proof.Machine.execContextTeardown t p n s := rfl
theorem exec_schTokSignal (t : Time) (ag : Agent) (w : Word) : exec (.schTokSignal t ag w) s = Sys2Proof.Machine.execSchTokSignal t ag w s := rfl
theorem exec_genRead (t : Time) (p : Fin 16) (n : Fin 64) (addr : Nat) : exec (.genRead t p n addr) s = Sys2Proof.Machine.execGenRead t p n addr s := rfl
theorem exec_genWrite (t : Time) (p : Fin 16) (n : Fin 64) (addr : Nat) : exec (.genWrite t p n addr) s = Sys2Proof.Machine.execGenWrite t p n addr s := rfl
theorem exec_brkResume (t : Time) (ag : Agent) (l : Fin 256) : exec (.brkResume t ag l) s = Sys2Proof.Machine.execBrkResume t ag l s := rfl
theorem exec_peerFrame (t : Time) (p : Fin 8) (src : Fin 8) (seq : Nat) (crcOk : Bool) (body : PeerBody) : exec (.peerFrame t p src seq crcOk body) s = Sys2Proof.Machine.execPeerFrame t p src seq crcOk body s := rfl
theorem exec_peerTimeExchange (t : Time) (p : Fin 8) (off : Int) (origin : Nat) : exec (.peerTimeExchange t p off origin) s = Sys2Proof.Machine.execPeerTimeExchange t p off origin s := rfl
theorem exec_peerUnreachable (t : Time) (m : Fin 8) : exec (.peerUnreachable t m) s = Sys2Proof.Machine.execPeerUnreachable t m s := rfl
theorem exec_rxFrame (t : Time) (p : Fin 8) (f : RxFrame) : exec (.rxFrame t p f) s = Sys2Proof.Machine.execRxFrame t p f s := rfl
theorem exec_ptpSync (t : Time) (m : PtpMsg) (gm logInt : Nat) : exec (.ptpSync t m gm logInt) s = Sys2Proof.Machine.execPtpSync t m gm logInt s := rfl
theorem exec_ptpDelayResp (t : Time) (d : PtpDelay) : exec (.ptpDelayResp t d) s = Sys2Proof.Machine.execPtpDelayResp t d s := rfl
theorem exec_ptpAnnounce (t : Time) (an : PtpAnnounce) : exec (.ptpAnnounce t an) s = Sys2Proof.Machine.execPtpAnnounce t an s := rfl
theorem exec_ptpHoldover (t : Time) : exec (.ptpHoldover t) s = Sys2Proof.Machine.execPtpHoldover t s := rfl
theorem exec_gapTimeout (t : Time) (n : Fin 512) : exec (.gapTimeout t n) s = Sys2Proof.Machine.execGapTimeout t n s := rfl
theorem exec_auIdleTimeout (t : Time) (n : Fin 512) : exec (.auIdleTimeout t n) s = Sys2Proof.Machine.execAuIdleTimeout t n s := rfl
theorem exec_auComplete (t : Time) (n : Fin 512) : exec (.auComplete t n) s = Sys2Proof.Machine.execAuComplete t n s := rfl
theorem exec_decodeStart (t : Time) (e : Fin 32) : exec (.decodeStart t e) s = Sys2Proof.Machine.execDecodeStart t e s := rfl
theorem exec_decodeComplete (t : Time) (n : Fin 512) (ctr : Nat) (r : DecResult) : exec (.decodeComplete t n ctr r) s = Sys2Proof.Machine.execDecodeComplete t n ctr r s := rfl
theorem exec_noticeRelease (t : Time) (p : Fin 16) : exec (.noticeRelease t p) s = Sys2Proof.Machine.execNoticeRelease t p s := rfl
theorem exec_ethLinkDown (t : Time) (p : Fin 8) : exec (.ethLinkDown t p) s = Sys2Proof.Machine.execEthLinkDown t p s := rfl
theorem exec_dpoFrameBoundary (t : Time) (d : Fin 4) (bad : List (Nat × Nat)) : exec (.dpoFrameBoundary t d bad) s = Sys2Proof.Machine.execDpoFrameBoundary t d bad s := rfl
theorem exec_lineFetch (t : Time) (d : Fin 4) (src : LineSrc) (bad : List Nat) : exec (.lineFetch t d src bad) s = Sys2Proof.Machine.execLineFetch t d src bad s := rfl
theorem exec_pixelUnderrun (t : Time) (d : Fin 4) (x : Nat) : exec (.pixelUnderrun t d x) s = Sys2Proof.Machine.execPixelUnderrun t d x s := rfl
theorem exec_coefLoadComplete (t : Time) (d : Fin 4) : exec (.coefLoadComplete t d) s = Sys2Proof.Machine.execCoefLoadComplete t d s := rfl
theorem exec_stripeRelease (t : Time) (d : Fin 4) (k : Nat) (bad : List Nat) : exec (.stripeRelease t d k bad) s = Sys2Proof.Machine.execStripeRelease t d k bad s := rfl
theorem exec_stripeDeadline (t : Time) (d : Fin 4) (k : Nat) : exec (.stripeDeadline t d k) s = Sys2Proof.Machine.execStripeDeadline t d k s := rfl
theorem exec_dpoTrain (t : Time) (ag : Agent) (d : Fin 4) : exec (.dpoTrain t ag d) s = Sys2Proof.Machine.execDpoTrain t ag d s := rfl
theorem exec_dpoTrainDone (t : Time) (d : Fin 4) (ok : Bool) : exec (.dpoTrainDone t d ok) s = Sys2Proof.Machine.execDpoTrainDone t d ok s := rfl
theorem exec_hpdChange (t : Time) (d : Fin 4) (up : Bool) : exec (.hpdChange t d up) s = Sys2Proof.Machine.execHpdChange t d up s := rfl
theorem exec_irqHpd (t : Time) (d : Fin 4) (lost : Bool) : exec (.irqHpd t d lost) s = Sys2Proof.Machine.execIrqHpd t d lost s := rfl
theorem exec_auxGo (t : Time) (ag : Agent) (d : Fin 4) (w : Word) : exec (.auxGo t ag d w) s = Sys2Proof.Machine.execAuxGo t ag d w s := rfl
theorem exec_auxReply (t : Time) (d : Fin 4) (r : AuxReply) : exec (.auxReply t d r) s = Sys2Proof.Machine.execAuxReply t d r s := rfl
theorem exec_usbTouchReport (t : Time) (p : Fin 2) (bytes : List Byte) : exec (.usbTouchReport t p bytes) s = Sys2Proof.Machine.execUsbTouchReport t p bytes s := rfl
theorem exec_usbOvercurrent (t : Time) (p : Fin 2) : exec (.usbOvercurrent t p) s = Sys2Proof.Machine.execUsbOvercurrent t p s := rfl
theorem exec_emissionPoint (t : Time) : exec (.emissionPoint t) s = Sys2Proof.Machine.execEmissionPoint t s := rfl
theorem exec_frameSend (t : Time) (x : FrameOut) : exec (.frameSend t x) s = Sys2Proof.Machine.execFrameSend t x s := rfl
theorem exec_frameReturn (t : Time) (m : Fin 2) (broken : Bool) (x : FrameCopy) (y : Option FrameCopy) : exec (.frameReturn t m broken x y) s = Sys2Proof.Machine.execFrameReturn t m broken x y s := rfl
theorem exec_frameLossTimeout (t : Time) (m : Fin 2) : exec (.frameLossTimeout t m) s = Sys2Proof.Machine.execFrameLossTimeout t m s := rfl
theorem exec_commandSetSignal (t : Time) (m : Fin 2) : exec (.commandSetSignal t m) s = Sys2Proof.Machine.execCommandSetSignal t m s := rfl
theorem exec_latchSet (t : Time) (g : Fin 8) (code : Fin 16) (a b : Bool) : exec (.latchSet t g code a b) s = Sys2Proof.Machine.execLatchSet t g code a b s := rfl
theorem exec_safeInputDemand (t : Time) (inp : Fin 8) (ch : Chan) : exec (.safeInputDemand t inp ch) s = Sys2Proof.Machine.execSafeInputDemand t inp ch s := rfl
theorem exec_testPulse (t : Time) (out : Bool) (n : Fin 8) (ch : Chan) : exec (.testPulse t out n ch) s = Sys2Proof.Machine.execTestPulse t out n ch s := rfl
theorem exec_testPulseFault (t : Time) (inp : Fin 8) (ch : Chan) : exec (.testPulseFault t inp ch) s = Sys2Proof.Machine.execTestPulseFault t inp ch s := rfl
theorem exec_discrepancyTimeout (t : Time) (inp : Fin 8) : exec (.discrepancyTimeout t inp) s = Sys2Proof.Machine.execDiscrepancyTimeout t inp s := rfl
theorem exec_outputReadbackFault (t : Time) (o : Fin 8) (ch : Chan) : exec (.outputReadbackFault t o ch) s = Sys2Proof.Machine.execOutputReadbackFault t o ch s := rfl
theorem exec_outputFaultClear (t : Time) (o : Fin 8) : exec (.outputFaultClear t o) s = Sys2Proof.Machine.execOutputFaultClear t o s := rfl
theorem exec_brakeDelayExpire (t : Time) (o : Fin 8) : exec (.brakeDelayExpire t o) s = Sys2Proof.Machine.execBrakeDelayExpire t o s := rfl
theorem exec_resetButtonRelease (t : Time) (inp : Fin 8) : exec (.resetButtonRelease t inp) s = Sys2Proof.Machine.execResetButtonRelease t inp s := rfl
theorem exec_sioReset (t : Time) (ag : Agent) (w : Word) : exec (.sioReset t ag w) s = Sys2Proof.Machine.execSioReset t ag w s := rfl
theorem exec_groupResetGrant (t : Time) (g : Fin 8) (ok : Bool) : exec (.groupResetGrant t g ok) s = Sys2Proof.Machine.execGroupResetGrant t g ok s := rfl
theorem exec_heartbeat (t : Time) (b : HutBeat) : exec (.heartbeat t b) s = Sys2Proof.Machine.execHeartbeat t b s := rfl
theorem exec_heartbeatMiss (t : Time) (ch : Chan) : exec (.heartbeatMiss t ch) s = Sys2Proof.Machine.execHeartbeatMiss t ch s := rfl
theorem exec_channelDecisionMismatch (t : Time) : exec (.channelDecisionMismatch t) s = Sys2Proof.Machine.execChannelDecisionMismatch t s := rfl
theorem exec_channelRestartDone (t : Time) (ch : Chan) (ok : Bool) : exec (.channelRestartDone t ch ok) s = Sys2Proof.Machine.execChannelRestartDone t ch ok s := rfl
theorem exec_supervisionStart (t : Time) : exec (.supervisionStart t) s = Sys2Proof.Machine.execSupervisionStart t s := rfl
theorem exec_timebaseCrosscheck (t : Time) (ch : Chan) (ppm : Nat) : exec (.timebaseCrosscheck t ch ppm) s = Sys2Proof.Machine.execTimebaseCrosscheck t ch ppm s := rfl
theorem exec_hutchPictureRead (t : Time) (bad : Bool) : exec (.hutchPictureRead t bad) s = Sys2Proof.Machine.execHutchPictureRead t bad s := rfl
theorem exec_checkerResult (t : Time) (z : Fin 16) (present : Bool) : exec (.checkerResult t z present) s = Sys2Proof.Machine.execCheckerResult t z present s := rfl
theorem exec_zoneReport (t : Time) (m : Fin 2) : exec (.zoneReport t m) s = Sys2Proof.Machine.execZoneReport t m s := rfl
theorem exec_zoneCompare (t : Time) (z : Fin 16) (ctr : Nat) : exec (.zoneCompare t z ctr) s = Sys2Proof.Machine.execZoneCompare t z ctr s := rfl
theorem exec_cmpBudgetExpire (t : Time) (z : Fin 16) (ctr : Nat) : exec (.cmpBudgetExpire t z ctr) s = Sys2Proof.Machine.execCmpBudgetExpire t z ctr s := rfl
theorem exec_zoneAgeExpire (t : Time) (z : Fin 16) : exec (.zoneAgeExpire t z) s = Sys2Proof.Machine.execZoneAgeExpire t z s := rfl
theorem exec_goldenRunStart (t : Time) (g : GoldStart) : exec (.goldenRunStart t g) s = Sys2Proof.Machine.execGoldenRunStart t g s := rfl
theorem exec_goldenRunAbandon (t : Time) (e : GoldEngine) : exec (.goldenRunAbandon t e) s = Sys2Proof.Machine.execGoldenRunAbandon t e s := rfl
theorem exec_goldenRunComplete (t : Time) (e : GoldEngine) (sig : Word) : exec (.goldenRunComplete t e sig) s = Sys2Proof.Machine.execGoldenRunComplete t e sig s := rfl
theorem exec_goldenFrameEnd (t : Time) (e : GoldEngine) : exec (.goldenFrameEnd t e) s = Sys2Proof.Machine.execGoldenFrameEnd t e s := rfl
theorem exec_checkerGoldenCrop (t : Time) (ok : Bool) : exec (.checkerGoldenCrop t ok) s = Sys2Proof.Machine.execCheckerGoldenCrop t ok s := rfl
theorem exec_sContextLost (t : Time) (p : Fin 16) : exec (.sContextLost t p) s = Sys2Proof.Machine.execSContextLost t p s := rfl
theorem exec_aRestart (t : Time) (p : Fin 16) : exec (.aRestart t p) s = Sys2Proof.Machine.execARestart t p s := rfl
theorem exec_rdyTokSignal (t : Time) (p : Fin 16) : exec (.rdyTokSignal t p) s = Sys2Proof.Machine.execRdyTokSignal t p s := rfl
theorem exec_aLimitExpire (t : Time) (p : Fin 16) : exec (.aLimitExpire t p) s = Sys2Proof.Machine.execALimitExpire t p s := rfl
theorem exec_watchdogExpire (t : Time) : exec (.watchdogExpire t) s = Sys2Proof.Machine.execWatchdogExpire t s := rfl
theorem exec_kick (t : Time) (ag : Agent) : exec (.kick t ag) s = Sys2Proof.Machine.execKick t ag s := rfl
theorem exec_stopGroups (t : Time) (ag : Agent) : exec (.stopGroups t ag) s = Sys2Proof.Machine.execStopGroups t ag s := rfl
theorem exec_invalidateZones (t : Time) (ag : Agent) : exec (.invalidateZones t ag) s = Sys2Proof.Machine.execInvalidateZones t ag s := rfl
theorem exec_invalidateZonesExpire (t : Time) : exec (.invalidateZonesExpire t) s = Sys2Proof.Machine.execInvalidateZonesExpire t s := rfl
theorem exec_readEvent (t : Time) (ag : Agent) : exec (.readEvent t ag) s = Sys2Proof.Machine.execReadEvent t ag s := rfl
theorem exec_hutchMailboxReject (t : Time) (ag : Agent) : exec (.hutchMailboxReject t ag) s = Sys2Proof.Machine.execHutchMailboxReject t ag s := rfl
theorem exec_proofTest (t : Time) (ch : Chan) : exec (.proofTest t ch) s = Sys2Proof.Machine.execProofTest t ch s := rfl
theorem exec_powerOn (t : Time) (vin : Bool) : exec (.powerOn t vin) s = Sys2Proof.Machine.execPowerOn t vin s := rfl
theorem exec_railSequenceStep (t : Time) (ok : Bool) (r : Fin 12) (status : Word) : exec (.railSequenceStep t ok r status) s = Sys2Proof.Machine.execRailSequenceStep t ok r status s := rfl
theorem exec_powerDown (t : Time) (why : PowerLoss) : exec (.powerDown t why) s = Sys2Proof.Machine.execPowerDown t why s := rfl
theorem exec_vinRestore (t : Time) : exec (.vinRestore t) s = Sys2Proof.Machine.execVinRestore t s := rfl
theorem exec_sensorSample (t : Time) (vals rates : List Nat) : exec (.sensorSample t vals rates) s = Sys2Proof.Machine.execSensorSample t vals rates s := rfl
theorem exec_ladderStep (t : Time) : exec (.ladderStep t) s = Sys2Proof.Machine.execLadderStep t s := rfl
theorem exec_capStep (t : Time) (avg : Nat) : exec (.capStep t avg) s = Sys2Proof.Machine.execCapStep t avg s := rfl
theorem exec_holdPeriod (t : Time) (c : Fin 16) : exec (.holdPeriod t c) s = Sys2Proof.Machine.execHoldPeriod t c s := rfl
theorem exec_corePowerUp (t : Time) (l : Fin 256) : exec (.corePowerUp t l) s = Sys2Proof.Machine.execCorePowerUp t l s := rfl
theorem exec_standbyRequest (t : Time) (ag : Agent) (w : Word) : exec (.standbyRequest t ag w) s = Sys2Proof.Machine.execStandbyRequest t ag w s := rfl
theorem exec_wakeMagicPacket (t : Time) (p : MagicPacket) : exec (.wakeMagicPacket t p) s = Sys2Proof.Machine.execWakeMagicPacket t p s := rfl
theorem exec_wakeAlarm (t : Time) : exec (.wakeAlarm t) s = Sys2Proof.Machine.execWakeAlarm t s := rfl
theorem exec_bootRomPhase (t : Time) (ok : Bool) : exec (.bootRomPhase t ok) s = Sys2Proof.Machine.execBootRomPhase t ok s := rfl
theorem exec_imageCheck (t : Time) (r : ImageRecs) : exec (.imageCheck t r) s = Sys2Proof.Machine.execImageCheck t r s := rfl
theorem exec_memoryTraining (t : Time) (ok : Bool) : exec (.memoryTraining t ok) s = Sys2Proof.Machine.execMemoryTraining t ok s := rfl
theorem exec_bootLock (t : Time) (pol : Policy) : exec (.bootLock t pol) s = Sys2Proof.Machine.execBootLock t pol s := rfl
theorem exec_modelLoad (t : Time) (ix : Fin 32) (err : Bool) : exec (.modelLoad t ix err) s = Sys2Proof.Machine.execModelLoad t ix err s := rfl
theorem exec_bootService (t : Time) (ctxs : List (Nat × Nat)) : exec (.bootService t ctxs) s = Sys2Proof.Machine.execBootService t ctxs s := rfl
theorem exec_bootRecovGo (t : Time) (ag : Agent) (w : Word) : exec (.bootRecovGo t ag w) s = Sys2Proof.Machine.execBootRecovGo t ag w s := rfl
theorem exec_policyCallback (t : Time) (j : Nat) (kind : CallKind) (acc : List ModAccess) (us : Nat) : exec (.policyCallback t j kind acc us) s = Sys2Proof.Machine.execPolicyCallback t j kind acc us s := rfl
theorem exec_resetNAssert (t : Time) (ns : Nat) (held : Bool) : exec (.resetNAssert t ns held) s = Sys2Proof.Machine.execResetNAssert t ns held s := rfl
theorem exec_moduleReset (t : Time) (ag : Agent) (w : Word) : exec (.moduleReset t ag w) s = Sys2Proof.Machine.execModuleReset t ag w s := rfl
theorem exec_managementReset (t : Time) (ag : Agent) (w : Word) : exec (.managementReset t ag w) s = Sys2Proof.Machine.execManagementReset t ag w s := rfl
theorem exec_commitDiscard (t : Time) (ag : Agent) (w : Word) : exec (.commitDiscard t ag w) s = Sys2Proof.Machine.execCommitDiscard t ag w s := rfl
theorem exec_verHostWrite (t : Time) (ag : Agent) (w : Word) : exec (.verHostWrite t ag w) s = Sys2Proof.Machine.execVerHostWrite t ag w s := rfl
theorem exec_glbTbAdjWrite (t : Time) (ag : Agent) (w : Word) : exec (.glbTbAdjWrite t ag w) s = Sys2Proof.Machine.execGlbTbAdjWrite t ag w s := rfl
theorem exec_glbTbSet (t : Time) (ag : Agent) (w : Word) : exec (.glbTbSet t ag w) s = Sys2Proof.Machine.execGlbTbSet t ag w s := rfl
theorem exec_latchingRead (t : Time) (ag : Agent) (r : BusRead) : exec (.latchingRead t ag r) s = Sys2Proof.Machine.execLatchingRead t ag r s := rfl
theorem exec_registerWrite (t : Time) (ag : Agent) (off : Nat) (be : Fin 16) (w : Word) : exec (.registerWrite t ag off be w) s = Sys2Proof.Machine.execRegisterWrite t ag off be w s := rfl
theorem exec_pcieReset (t : Time) : exec (.pcieReset t) s = Sys2Proof.Machine.execPcieReset t s := rfl
theorem exec_pcieLinkDown (t : Time) (lost : List Nat) : exec (.pcieLinkDown t lost) s = Sys2Proof.Machine.execPcieLinkDown t lost s := rfl
theorem exec_hostDramRead (t : Time) (off len : Nat) : exec (.hostDramRead t off len) s = Sys2Proof.Machine.execHostDramRead t off len s := rfl
theorem exec_hostDramWrite (t : Time) (off : Nat) (bytes : List Byte) : exec (.hostDramWrite t off bytes) s = Sys2Proof.Machine.execHostDramWrite t off bytes s := rfl
theorem exec_mailboxGo (t : Time) (ag : Agent) (m : Fin 8) (w : Word) : exec (.mailboxGo t ag m w) s = Sys2Proof.Machine.execMailboxGo t ag m w s := rfl
theorem exec_mgmtVersion (t : Time) (m : Fin 8) : exec (.mgmtVersion t m) s = Sys2Proof.Machine.execMgmtVersion t m s := rfl
theorem exec_mgmtReadReg (t : Time) (m : Fin 8) : exec (.mgmtReadReg t m) s = Sys2Proof.Machine.execMgmtReadReg t m s := rfl
theorem exec_mgmtWriteReg (t : Time) (m : Fin 8) : exec (.mgmtWriteReg t m) s = Sys2Proof.Machine.execMgmtWriteReg t m s := rfl
theorem exec_mgmtReadMem (t : Time) (m : Fin 8) : exec (.mgmtReadMem t m) s = Sys2Proof.Machine.execMgmtReadMem t m s := rfl
theorem exec_mgmtWriteMem (t : Time) (m : Fin 8) : exec (.mgmtWriteMem t m) s = Sys2Proof.Machine.execMgmtWriteMem t m s := rfl
theorem exec_mgmtImageWrite (t : Time) (m : Fin 8) (w : ImageStep) : exec (.mgmtImageWrite t m w) s = Sys2Proof.Machine.execMgmtImageWrite t m w s := rfl
theorem exec_mgmtReset (t : Time) (m : Fin 8) : exec (.mgmtReset t m) s = Sys2Proof.Machine.execMgmtReset t m s := rfl
theorem exec_mgmtEcho (t : Time) (m : Fin 8) : exec (.mgmtEcho t m) s = Sys2Proof.Machine.execMgmtEcho t m s := rfl
theorem exec_mgmtDatagram (t : Time) (p : Fin 8) (udp src : Nat) (bytes : List Byte) (ok : Bool) : exec (.mgmtDatagram t p udp src bytes ok) s = Sys2Proof.Machine.execMgmtDatagram t p udp src bytes ok s := rfl
theorem exec_smbusTransaction (t : Time) (msg : List Byte) (pec ok : Bool) : exec (.smbusTransaction t msg pec ok) s = Sys2Proof.Machine.execSmbusTransaction t msg pec ok s := rfl
theorem exec_telemetryEvent (t : Time) (src : EventSource) (m : Fin 6) : exec (.telemetryEvent t src m) s = Sys2Proof.Machine.execTelemetryEvent t src m s := rfl
theorem exec_trEnable (t : Time) (ag : Agent) (r : Fin 4) (w : Word) : exec (.trEnable t ag r w) s = Sys2Proof.Machine.execTrEnable t ag r w s := rfl
theorem exec_memrdStart (t : Time) (ag : Agent) (w : Word) : exec (.memrdStart t ag w) s = Sys2Proof.Machine.execMemrdStart t ag w s := rfl
theorem exec_memrdDone (t : Time) : exec (.memrdDone t) s = Sys2Proof.Machine.execMemrdDone t s := rfl
theorem exec_jtagBypass (t : Time) : exec (.jtagBypass t) s = Sys2Proof.Machine.execJtagBypass t s := rfl
theorem exec_jtagIdcode (t : Time) : exec (.jtagIdcode t) s = Sys2Proof.Machine.execJtagIdcode t s := rfl
theorem exec_jtagSamplePreload (t : Time) (pins pre : List Bool) : exec (.jtagSamplePreload t pins pre) s = Sys2Proof.Machine.execJtagSamplePreload t pins pre s := rfl
theorem exec_jtagExtest (t : Time) : exec (.jtagExtest t) s = Sys2Proof.Machine.execJtagExtest t s := rfl
theorem exec_ethLinkUp (t : Time) (p : Fin 8) : exec (.ethLinkUp t p) s = Sys2Proof.Machine.execEthLinkUp t p s := rfl
theorem exec_motLinkChange (t : Time) (m : Fin 2) (up : Bool) : exec (.motLinkChange t m up) s = Sys2Proof.Machine.execMotLinkChange t m up s := rfl
theorem exec_pcieLinkUp (t : Time) (width speed : Nat) : exec (.pcieLinkUp t width speed) s = Sys2Proof.Machine.execPcieLinkUp t width speed s := rfl
theorem exec_pcieConfigRequest (t : Time) (wr : Bool) (off : Nat) (be : Fin 16) (w : Word) : exec (.pcieConfigRequest t wr off be w) s = Sys2Proof.Machine.execPcieConfigRequest t wr off be w s := rfl
theorem exec_usbConnectChange (t : Time) (p : Fin 2) (speed : Fin 4) (map : List Word) : exec (.usbConnectChange t p speed map) s = Sys2Proof.Machine.execUsbConnectChange t p speed map s := rfl
theorem exec_usbOvercurrentRetry (t : Time) (p : Fin 2) : exec (.usbOvercurrentRetry t p) s = Sys2Proof.Machine.execUsbOvercurrentRetry t p s := rfl
theorem exec_proofTestDone (t : Time) (ch : Chan) : exec (.proofTestDone t ch) s = Sys2Proof.Machine.execProofTestDone t ch s := rfl
theorem exec_safeInputDemandEnd (t : Time) (inp : Fin 8) (ch : Chan) (both : Bool) : exec (.safeInputDemandEnd t inp ch both) s = Sys2Proof.Machine.execSafeInputDemandEnd t inp ch both s := rfl
theorem exec_vstby3v3Loss (t : Time) : exec (.vstby3v3Loss t) s = Sys2Proof.Machine.execVstby3v3Loss t s := rfl
theorem exec_scanLineStart (t : Time) (d : Fin 4) : exec (.scanLineStart t d) s = Sys2Proof.Machine.execScanLineStart t d s := rfl

end Sys2Proof.Laws
end

