-- ==== Sys2Proof/Laws/Tab.lean ====
section
/-!
SUPPORT. Laws/Tab.lean: reading what was written, and leaving the rest alone, for tables and byte memories; every memory operation keeps
the canonical form.
-/
namespace Sys2Proof.Laws
open Sys2Proof Sys2Proof.Machine

/-! ## Tables -/

@[simp] theorem tget?_tset_same {α : Type} (t : Tab α) (k : Nat) (v : α) : tget? (tset t k v) k = some v := by
  induction t with
  | nil => simp [tset, tget?]
  | cons e r ih =>
    obtain ⟨a, w⟩ := e
    simp only [tset]
    split
    · simp [tget?]
    · split
      · simp [tget?]
      · next h => simp [tget?, ih, show a ≠ k from fun e => h e.symm]

theorem tget?_tset_ne {α : Type} (t : Tab α) (k j : Nat) (v : α) (h : j ≠ k) : tget? (tset t k v) j = tget? t j := by
  induction t with
  | nil => simp [tset, tget?, h.symm]
  | cons e r ih =>
    obtain ⟨a, w⟩ := e
    simp only [tset]
    split
    · simp [tget?, h.symm]
    · split
      · next h2 => subst h2; simp [tget?, h.symm]
      · simp [tget?, ih]

theorem tget?_tset {α : Type} (t : Tab α) (k j : Nat) (v : α) : tget? (tset t k v) j = if j = k then some v else tget? t j := by
  split
  · next h => subst h; simp
  · next h => exact tget?_tset_ne t k j v h

@[simp] theorem tget_tset_same {α : Type} (d : α) (t : Tab α) (k : Nat) (v : α) : tget d (tset t k v) k = v := by simp [tget]

theorem tget_tset_ne {α : Type} (d : α) (t : Tab α) (k j : Nat) (v : α) (h : j ≠ k) : tget d (tset t k v) j = tget d t j := by
  simp [tget, tget?_tset_ne t k j v h]

@[simp] theorem tget?_tdel_same {α : Type} (t : Tab α) (k : Nat) : tget? (tdel t k) k = none := by
  induction t with
  | nil => rfl
  | cons e r ih => obtain ⟨a, w⟩ := e; simp only [tdel]; split <;> simp_all [tget?]

theorem tget?_tdel_ne {α : Type} (t : Tab α) (k j : Nat) (h : j ≠ k) : tget? (tdel t k) j = tget? t j := by
  induction t with
  | nil => rfl
  | cons e r ih =>
    obtain ⟨a, w⟩ := e
    simp only [tdel]
    split
    · next h2 => subst h2; simp [tget?, ih, h.symm]
    · simp [tget?, ih]

@[simp] theorem tget?_nil {α : Type} (k : Nat) : tget? ([] : Tab α) k = none := rfl
@[simp] theorem tget_nil {α : Type} (d : α) (k : Nat) : tget d ([] : Tab α) k = d := rfl

/-! ## Lists -/

theorem mem_rangeFrom (n a k : Nat) : k ∈ rangeFrom a n ↔ a ≤ k ∧ k < a + n := by
  induction n generalizing a with
  | zero => simp [rangeFrom]
  | succ n ih => simp [rangeFrom, ih]; omega

/-! ## Byte memories -/

theorem mget_mset_ne (d : Byte) (m : List Host.Cell) (a b : Nat) (v : Byte) (h : b ≠ a) : mget d (mset d m a v) b = mget d m b := by
  induction m with
  | nil => simp only [mset]; split <;> simp [mget, h.symm]
  | cons e r ih =>
    obtain ⟨x, w⟩ := e
    simp only [mset]
    split
    · split <;> simp [mget, h.symm]
    · split
      · next h2 => subst h2; split <;> simp [mget, h.symm]
      · simp [mget, ih]

theorem cellsFrom_mono (d : Byte) (m : List Host.Cell) (b c : Nat) (h : c ≤ b) (hw : cellsFrom d b m = true) : cellsFrom d c m = true := by
  cases m with
  | nil => rfl
  | cons e r => obtain ⟨x, w⟩ := e; simp [cellsFrom] at hw ⊢; exact ⟨⟨by omega, hw.1.2⟩, hw.2⟩

theorem mget_below (d : Byte) (m : List Host.Cell) (b a : Nat) (h : a < b) (hw : cellsFrom d b m = true) : mget d m a = d := by
  induction m generalizing b with
  | nil => rfl
  | cons e r ih =>
    obtain ⟨x, w⟩ := e
    simp [cellsFrom] at hw
    simp [mget, show x ≠ a by omega]
    exact ih (x + 1) (by omega) hw.2

theorem mget_mset_from (d : Byte) (m : List Host.Cell) (b a : Nat) (v : Byte) (hw : cellsFrom d b m = true) : mget d (mset d m a v) a = v := by
  induction m generalizing b with
  | nil => simp only [mset]; split <;> simp_all [mget]
  | cons e r ih =>
    obtain ⟨x, w⟩ := e
    simp [cellsFrom] at hw
    simp only [mset]
    split
    · next h1 =>
      split
      · next h2 => subst h2; simp [mget, show x ≠ a by omega]; exact mget_below _ r (x + 1) a (by omega) hw.2
      · simp [mget]
    · split
      · next h2 =>
        split
        · next h3 => subst h3; subst h2; exact mget_below _ r (a + 1) a (by omega) hw.2
        · simp [mget]
      · next h1 h2 => simp [mget, show x ≠ a by omega]; exact ih (x + 1) hw.2

/-- A byte reads as it was written (R10). -/
theorem mget_mset_same (d : Byte) (m : List Host.Cell) (a : Nat) (v : Byte) (hw : cellsWf d m = true) : mget d (mset d m a v) a = v :=
  mget_mset_from d m 0 a v hw

theorem cellsFrom_mset (d : Byte) (m : List Host.Cell) (b a : Nat) (v : Byte) (hb : b ≤ a) (hw : cellsFrom d b m = true) :
    cellsFrom d b (mset d m a v) = true := by
  induction m generalizing b with
  | nil => simp only [mset]; split <;> simp_all [cellsFrom]
  | cons e r ih =>
    obtain ⟨x, w⟩ := e
    simp [cellsFrom] at hw
    simp only [mset]
    split
    · split <;> simp_all [cellsFrom]
    · split
      · next h2 =>
        subst h2
        split
        · exact cellsFrom_mono d r (a + 1) b (by omega) hw.2
        · simp_all [cellsFrom]
      · simp [cellsFrom, hw]; exact ih (x + 1) (by omega) hw.2

/-- A store keeps the canonical form. -/
theorem cellsWf_mset (d : Byte) (m : List Host.Cell) (a : Nat) (v : Byte) (hw : cellsWf d m = true) : cellsWf d (mset d m a v) = true :=
  cellsFrom_mset d m 0 a v (by omega) hw

/-- A store of bytes keeps the canonical form. -/
theorem cellsWf_msets (d : Byte) (bs : List Byte) (m : List Host.Cell) (a : Nat) (hw : cellsWf d m = true) : cellsWf d (msets d m a bs) = true := by
  induction bs generalizing m a with
  | nil => exact hw
  | cons v r ih => exact ih _ _ (cellsWf_mset d m a v hw)

theorem cellsFrom_filter (d : Byte) (p : Host.Cell → Bool) (m : List Host.Cell) (b : Nat) (hw : cellsFrom d b m = true) :
    cellsFrom d b (m.filter p) = true := by
  induction m generalizing b with
  | nil => rfl
  | cons e r ih =>
    obtain ⟨x, w⟩ := e
    simp [cellsFrom] at hw
    simp only [List.filter]
    split
    · simp [cellsFrom, hw]; exact ih _ hw.2
    · exact cellsFrom_mono d _ (x + 1) b (by omega) (ih _ hw.2)

/-- Dropping entries keeps the canonical form. -/
theorem cellsWf_filter (d : Byte) (p : Host.Cell → Bool) (m : List Host.Cell) (hw : cellsWf d m = true) : cellsWf d (m.filter p) = true :=
  cellsFrom_filter d p m 0 hw

/-- Canonical cells below `c` followed by canonical cells from `c` on are canonical. -/
theorem cellsFrom_append (d : Byte) (m r : List Host.Cell) (b c : Nat) (hw : cellsFrom d b m = true) (hlt : ∀ x ∈ m, x.1 < c) (hb : b ≤ c)
    (hr : cellsFrom d c r = true) : cellsFrom d b (m ++ r) = true := by
  induction m generalizing b with
  | nil => exact cellsFrom_mono d r c b hb hr
  | cons e m ih =>
    obtain ⟨x, w⟩ := e
    have hx : x < c := hlt (x, w) (by simp)
    simp [cellsFrom] at hw
    simp only [List.cons_append, cellsFrom, Bool.and_eq_true, decide_eq_true_eq]
    exact ⟨hw.1, ih (x + 1) hw.2 (fun y hy => hlt y (by simp [hy])) hx⟩

/-- The cells that a fill lists are canonical. -/
theorem cellsFrom_fill (d : Byte) (f : Nat → Byte) (n : Nat) : ∀ a,
    cellsFrom d a ((rangeFrom a n).filterMap (fun x => if f x = d then none else some (x, f x))) = true := by
  induction n with
  | zero => exact fun _ => rfl
  | succ n ih =>
    intro a
    simp only [rangeFrom, List.filterMap_cons]
    split
    · exact cellsFrom_mono d _ (a + 1) a (by omega) (ih (a + 1))
    · rename_i b hb
      split at hb
      · cases hb
      · cases hb; rename_i h; simp [cellsFrom, h, ih (a + 1)]

/-- Entries from `c` on, of canonical cells, are canonical from `c` on. -/
theorem cellsFrom_above (d : Byte) (m : List Host.Cell) (b c : Nat) (hw : cellsFrom d b m = true) :
    cellsFrom d c (m.filter (fun x => decide (c ≤ x.1))) = true := by
  induction m generalizing b c with
  | nil => rfl
  | cons e m ih =>
    obtain ⟨x, w⟩ := e
    simp [cellsFrom] at hw
    simp only [List.filter]
    split
    · rename_i h
      simp at h
      simp only [cellsFrom, Bool.and_eq_true, decide_eq_true_eq]
      exact ⟨⟨h, by simpa using hw.1.2⟩, cellsFrom_filter d _ m (x + 1) hw.2⟩
    · exact ih (x + 1) c hw.2

/-- A fill of a range keeps the canonical form. -/
theorem cellsWf_mput (d : Byte) (m : List Host.Cell) (a n : Nat) (f : Nat → Byte) (hw : cellsWf d m = true) : cellsWf d (mput d m a n f) = true := by
  unfold mput cellsWf
  refine cellsFrom_append d _ _ 0 (a + n) (cellsFrom_append d _ _ 0 a (cellsFrom_filter d _ m 0 hw) ?_ (by omega) (cellsFrom_fill d f n a)) ?_ (by omega)
    (cellsFrom_above d m 0 (a + n) hw)
  · intro x hx; simp at hx; exact hx.2
  · intro x hx
    simp only [List.mem_append, List.mem_filter, decide_eq_true_eq, List.mem_filterMap] at hx
    obtain ⟨-, h⟩ | ⟨y, hy, h⟩ := hx
    · omega
    · rw [mem_rangeFrom] at hy
      split at h
      · cases h
      · cases h; omega

/-- A fill with the default keeps the canonical form. -/
theorem cellsWf_mclear (d : Byte) (m : List Host.Cell) (a n : Nat) (hw : cellsWf d m = true) : cellsWf d (mclear m a n) = true :=
  cellsWf_filter d _ m hw

/-- Bytes outside the range stored to read as before. -/
theorem mget_msets_out (d : Byte) (bs : List Byte) (m : List Host.Cell) (a b : Nat) (h : b < a ∨ a + bs.length ≤ b) :
    mget d (msets d m a bs) b = mget d m b := by
  induction bs generalizing m a with
  | nil => rfl
  | cons v r ih =>
    simp at h
    simp only [msets]
    rw [ih _ (a + 1) (by omega), mget_mset_ne _ _ _ _ _ (by omega)]

/-- Bytes stored read back. -/
theorem mgets_msets (d : Byte) (bs : List Byte) (m : List Host.Cell) (a : Nat) (hw : cellsWf d m = true) :
    mgets d (msets d m a bs) a bs.length = bs := by
  induction bs generalizing m a with
  | nil => rfl
  | cons v r ih =>
    simp only [msets, List.length_cons, mgets]
    rw [ih _ _ (cellsWf_mset d m a v hw), mget_msets_out _ _ _ _ _ (by omega), mget_mset_same _ _ _ _ hw]

end Sys2Proof.Laws
end

