-- ==== Sys2Proof/Laws/State.lean ====
section
/-!
SUPPORT. Laws/State.lean: what each named update of the state leaves alone, field by field, and what reading gives after it.
-/
namespace Sys2Proof.Laws
open Sys2Proof Sys2Proof.Machine

variable (s : State)

/-! ## advance -/

@[simp] theorem advance_pending (t : Time) : (advance s t).pending = s.pending := rfl
@[simp] theorem advance_regs (t : Time) : (advance s t).regs = s.regs := rfl
@[simp] theorem advance_pend (t : Time) : (advance s t).pend = s.pend := rfl
@[simp] theorem advance_mem (t : Time) : (advance s t).mem = s.mem := rfl
@[simp] theorem advance_tc (t : Time) : (advance s t).tc = s.tc := rfl
@[simp] theorem advance_phys (t : Time) : (advance s t).phys = s.phys := rfl
@[simp] theorem advance_cl (t : Time) : (advance s t).cl = s.cl := rfl
@[simp] theorem advance_ctxs (t : Time) : (advance s t).ctxs = s.ctxs := rfl
@[simp] theorem advance_sch (t : Time) : (advance s t).sch = s.sch := rfl
@[simp] theorem advance_shc (t : Time) : (advance s t).shc = s.shc := rfl
@[simp] theorem advance_inval (t : Time) : (advance s t).inval = s.inval := rfl
@[simp] theorem advance_invalQ (t : Time) : (advance s t).invalQ = s.invalQ := rfl
@[simp] theorem advance_wctr (t : Time) : (advance s t).wctr = s.wctr := rfl
@[simp] theorem advance_dma (t : Time) : (advance s t).dma = s.dma := rfl
@[simp] theorem advance_kv (t : Time) : (advance s t).kv = s.kv := rfl
@[simp] theorem advance_ing (t : Time) : (advance s t).ing = s.ing := rfl
@[simp] theorem advance_dpo (t : Time) : (advance s t).dpo = s.dpo := rfl
@[simp] theorem advance_mot (t : Time) : (advance s t).mot = s.mot := rfl
@[simp] theorem advance_sio (t : Time) : (advance s t).sio = s.sio := rfl
@[simp] theorem advance_hut (t : Time) : (advance s t).hut = s.hut := rfl
@[simp] theorem advance_bur (t : Time) : (advance s t).bur = s.bur := rfl
@[simp] theorem advance_boot (t : Time) : (advance s t).boot = s.boot := rfl
@[simp] theorem advance_hif (t : Time) : (advance s t).hif = s.hif := rfl
@[simp] theorem advance_svc (t : Time) : (advance s t).svc = s.svc := rfl
@[simp] theorem advance_gang (t : Time) : (advance s t).gang = s.gang := rfl
@[simp] theorem advance_free (t : Time) : (advance s t).free = s.free := rfl

/-! ## draw -/

@[simp] theorem draw_pending : ((draw s).2).pending = s.pending := rfl
@[simp] theorem draw_clk : ((draw s).2).clk = s.clk := rfl
@[simp] theorem draw_regs : ((draw s).2).regs = s.regs := rfl
@[simp] theorem draw_pend : ((draw s).2).pend = s.pend := rfl
@[simp] theorem draw_mem : ((draw s).2).mem = s.mem := rfl
@[simp] theorem draw_tc : ((draw s).2).tc = s.tc := rfl
@[simp] theorem draw_phys : ((draw s).2).phys = s.phys := rfl
@[simp] theorem draw_cl : ((draw s).2).cl = s.cl := rfl
@[simp] theorem draw_ctxs : ((draw s).2).ctxs = s.ctxs := rfl
@[simp] theorem draw_sch : ((draw s).2).sch = s.sch := rfl
@[simp] theorem draw_shc : ((draw s).2).shc = s.shc := rfl
@[simp] theorem draw_inval : ((draw s).2).inval = s.inval := rfl
@[simp] theorem draw_invalQ : ((draw s).2).invalQ = s.invalQ := rfl
@[simp] theorem draw_wctr : ((draw s).2).wctr = s.wctr := rfl
@[simp] theorem draw_dma : ((draw s).2).dma = s.dma := rfl
@[simp] theorem draw_kv : ((draw s).2).kv = s.kv := rfl
@[simp] theorem draw_ing : ((draw s).2).ing = s.ing := rfl
@[simp] theorem draw_dpo : ((draw s).2).dpo = s.dpo := rfl
@[simp] theorem draw_mot : ((draw s).2).mot = s.mot := rfl
@[simp] theorem draw_sio : ((draw s).2).sio = s.sio := rfl
@[simp] theorem draw_hut : ((draw s).2).hut = s.hut := rfl
@[simp] theorem draw_bur : ((draw s).2).bur = s.bur := rfl
@[simp] theorem draw_boot : ((draw s).2).boot = s.boot := rfl
@[simp] theorem draw_hif : ((draw s).2).hif = s.hif := rfl
@[simp] theorem draw_svc : ((draw s).2).svc = s.svc := rfl
@[simp] theorem draw_gang : ((draw s).2).gang = s.gang := rfl

/-! ## wrReg -/

@[simp] theorem wrReg_pending (o : Nat) (v : Word) : (wrReg s o v).pending = s.pending := rfl
@[simp] theorem wrReg_clk (o : Nat) (v : Word) : (wrReg s o v).clk = s.clk := rfl
@[simp] theorem wrReg_pend (o : Nat) (v : Word) : (wrReg s o v).pend = s.pend := rfl
@[simp] theorem wrReg_mem (o : Nat) (v : Word) : (wrReg s o v).mem = s.mem := rfl
@[simp] theorem wrReg_tc (o : Nat) (v : Word) : (wrReg s o v).tc = s.tc := rfl
@[simp] theorem wrReg_phys (o : Nat) (v : Word) : (wrReg s o v).phys = s.phys := rfl
@[simp] theorem wrReg_cl (o : Nat) (v : Word) : (wrReg s o v).cl = s.cl := rfl
@[simp] theorem wrReg_ctxs (o : Nat) (v : Word) : (wrReg s o v).ctxs = s.ctxs := rfl
@[simp] theorem wrReg_sch (o : Nat) (v : Word) : (wrReg s o v).sch = s.sch := rfl
@[simp] theorem wrReg_shc (o : Nat) (v : Word) : (wrReg s o v).shc = s.shc := rfl
@[simp] theorem wrReg_inval (o : Nat) (v : Word) : (wrReg s o v).inval = s.inval := rfl
@[simp] theorem wrReg_invalQ (o : Nat) (v : Word) : (wrReg s o v).invalQ = s.invalQ := rfl
@[simp] theorem wrReg_wctr (o : Nat) (v : Word) : (wrReg s o v).wctr = s.wctr := rfl
@[simp] theorem wrReg_dma (o : Nat) (v : Word) : (wrReg s o v).dma = s.dma := rfl
@[simp] theorem wrReg_kv (o : Nat) (v : Word) : (wrReg s o v).kv = s.kv := rfl
@[simp] theorem wrReg_ing (o : Nat) (v : Word) : (wrReg s o v).ing = s.ing := rfl
@[simp] theorem wrReg_dpo (o : Nat) (v : Word) : (wrReg s o v).dpo = s.dpo := rfl
@[simp] theorem wrReg_mot (o : Nat) (v : Word) : (wrReg s o v).mot = s.mot := rfl
@[simp] theorem wrReg_sio (o : Nat) (v : Word) : (wrReg s o v).sio = s.sio := rfl
@[simp] theorem wrReg_hut (o : Nat) (v : Word) : (wrReg s o v).hut = s.hut := rfl
@[simp] theorem wrReg_bur (o : Nat) (v : Word) : (wrReg s o v).bur = s.bur := rfl
@[simp] theorem wrReg_boot (o : Nat) (v : Word) : (wrReg s o v).boot = s.boot := rfl
@[simp] theorem wrReg_hif (o : Nat) (v : Word) : (wrReg s o v).hif = s.hif := rfl
@[simp] theorem wrReg_svc (o : Nat) (v : Word) : (wrReg s o v).svc = s.svc := rfl
@[simp] theorem wrReg_gang (o : Nat) (v : Word) : (wrReg s o v).gang = s.gang := rfl
@[simp] theorem wrReg_free (o : Nat) (v : Word) : (wrReg s o v).free = s.free := rfl

/-! ## setFld -/

@[simp] theorem setFld_pending (o lo w v : Nat) : (setFld s o lo w v).pending = s.pending := rfl
@[simp] theorem setFld_clk (o lo w v : Nat) : (setFld s o lo w v).clk = s.clk := rfl
@[simp] theorem setFld_pend (o lo w v : Nat) : (setFld s o lo w v).pend = s.pend := rfl
@[simp] theorem setFld_mem (o lo w v : Nat) : (setFld s o lo w v).mem = s.mem := rfl
@[simp] theorem setFld_tc (o lo w v : Nat) : (setFld s o lo w v).tc = s.tc := rfl
@[simp] theorem setFld_phys (o lo w v : Nat) : (setFld s o lo w v).phys = s.phys := rfl
@[simp] theorem setFld_cl (o lo w v : Nat) : (setFld s o lo w v).cl = s.cl := rfl
@[simp] theorem setFld_ctxs (o lo w v : Nat) : (setFld s o lo w v).ctxs = s.ctxs := rfl
@[simp] theorem setFld_sch (o lo w v : Nat) : (setFld s o lo w v).sch = s.sch := rfl
@[simp] theorem setFld_shc (o lo w v : Nat) : (setFld s o lo w v).shc = s.shc := rfl
@[simp] theorem setFld_inval (o lo w v : Nat) : (setFld s o lo w v).inval = s.inval := rfl
@[simp] theorem setFld_invalQ (o lo w v : Nat) : (setFld s o lo w v).invalQ = s.invalQ := rfl
@[simp] theorem setFld_wctr (o lo w v : Nat) : (setFld s o lo w v).wctr = s.wctr := rfl
@[simp] theorem setFld_dma (o lo w v : Nat) : (setFld s o lo w v).dma = s.dma := rfl
@[simp] theorem setFld_kv (o lo w v : Nat) : (setFld s o lo w v).kv = s.kv := rfl
@[simp] theorem setFld_ing (o lo w v : Nat) : (setFld s o lo w v).ing = s.ing := rfl
@[simp] theorem setFld_dpo (o lo w v : Nat) : (setFld s o lo w v).dpo = s.dpo := rfl
@[simp] theorem setFld_mot (o lo w v : Nat) : (setFld s o lo w v).mot = s.mot := rfl
@[simp] theorem setFld_sio (o lo w v : Nat) : (setFld s o lo w v).sio = s.sio := rfl
@[simp] theorem setFld_hut (o lo w v : Nat) : (setFld s o lo w v).hut = s.hut := rfl
@[simp] theorem setFld_bur (o lo w v : Nat) : (setFld s o lo w v).bur = s.bur := rfl
@[simp] theorem setFld_boot (o lo w v : Nat) : (setFld s o lo w v).boot = s.boot := rfl
@[simp] theorem setFld_hif (o lo w v : Nat) : (setFld s o lo w v).hif = s.hif := rfl
@[simp] theorem setFld_svc (o lo w v : Nat) : (setFld s o lo w v).svc = s.svc := rfl
@[simp] theorem setFld_gang (o lo w v : Nat) : (setFld s o lo w v).gang = s.gang := rfl
@[simp] theorem setFld_free (o lo w v : Nat) : (setFld s o lo w v).free = s.free := rfl

/-! ## setFlag -/

@[simp] theorem setFlag_pending (o b : Nat) (v : Bool) : (setFlag s o b v).pending = s.pending := rfl
@[simp] theorem setFlag_clk (o b : Nat) (v : Bool) : (setFlag s o b v).clk = s.clk := rfl
@[simp] theorem setFlag_pend (o b : Nat) (v : Bool) : (setFlag s o b v).pend = s.pend := rfl
@[simp] theorem setFlag_mem (o b : Nat) (v : Bool) : (setFlag s o b v).mem = s.mem := rfl
@[simp] theorem setFlag_tc (o b : Nat) (v : Bool) : (setFlag s o b v).tc = s.tc := rfl
@[simp] theorem setFlag_phys (o b : Nat) (v : Bool) : (setFlag s o b v).phys = s.phys := rfl
@[simp] theorem setFlag_cl (o b : Nat) (v : Bool) : (setFlag s o b v).cl = s.cl := rfl
@[simp] theorem setFlag_ctxs (o b : Nat) (v : Bool) : (setFlag s o b v).ctxs = s.ctxs := rfl
@[simp] theorem setFlag_sch (o b : Nat) (v : Bool) : (setFlag s o b v).sch = s.sch := rfl
@[simp] theorem setFlag_shc (o b : Nat) (v : Bool) : (setFlag s o b v).shc = s.shc := rfl
@[simp] theorem setFlag_inval (o b : Nat) (v : Bool) : (setFlag s o b v).inval = s.inval := rfl
@[simp] theorem setFlag_invalQ (o b : Nat) (v : Bool) : (setFlag s o b v).invalQ = s.invalQ := rfl
@[simp] theorem setFlag_wctr (o b : Nat) (v : Bool) : (setFlag s o b v).wctr = s.wctr := rfl
@[simp] theorem setFlag_dma (o b : Nat) (v : Bool) : (setFlag s o b v).dma = s.dma := rfl
@[simp] theorem setFlag_kv (o b : Nat) (v : Bool) : (setFlag s o b v).kv = s.kv := rfl
@[simp] theorem setFlag_ing (o b : Nat) (v : Bool) : (setFlag s o b v).ing = s.ing := rfl
@[simp] theorem setFlag_dpo (o b : Nat) (v : Bool) : (setFlag s o b v).dpo = s.dpo := rfl
@[simp] theorem setFlag_mot (o b : Nat) (v : Bool) : (setFlag s o b v).mot = s.mot := rfl
@[simp] theorem setFlag_sio (o b : Nat) (v : Bool) : (setFlag s o b v).sio = s.sio := rfl
@[simp] theorem setFlag_hut (o b : Nat) (v : Bool) : (setFlag s o b v).hut = s.hut := rfl
@[simp] theorem setFlag_bur (o b : Nat) (v : Bool) : (setFlag s o b v).bur = s.bur := rfl
@[simp] theorem setFlag_boot (o b : Nat) (v : Bool) : (setFlag s o b v).boot = s.boot := rfl
@[simp] theorem setFlag_hif (o b : Nat) (v : Bool) : (setFlag s o b v).hif = s.hif := rfl
@[simp] theorem setFlag_svc (o b : Nat) (v : Bool) : (setFlag s o b v).svc = s.svc := rfl
@[simp] theorem setFlag_gang (o b : Nat) (v : Bool) : (setFlag s o b v).gang = s.gang := rfl
@[simp] theorem setFlag_free (o b : Nat) (v : Bool) : (setFlag s o b v).free = s.free := rfl

/-! ## bumpBy -/

@[simp] theorem bumpBy_pending (o n : Nat) : (bumpBy s o n).pending = s.pending := rfl
@[simp] theorem bumpBy_clk (o n : Nat) : (bumpBy s o n).clk = s.clk := rfl
@[simp] theorem bumpBy_pend (o n : Nat) : (bumpBy s o n).pend = s.pend := rfl
@[simp] theorem bumpBy_mem (o n : Nat) : (bumpBy s o n).mem = s.mem := rfl
@[simp] theorem bumpBy_tc (o n : Nat) : (bumpBy s o n).tc = s.tc := rfl
@[simp] theorem bumpBy_phys (o n : Nat) : (bumpBy s o n).phys = s.phys := rfl
@[simp] theorem bumpBy_cl (o n : Nat) : (bumpBy s o n).cl = s.cl := rfl
@[simp] theorem bumpBy_ctxs (o n : Nat) : (bumpBy s o n).ctxs = s.ctxs := rfl
@[simp] theorem bumpBy_sch (o n : Nat) : (bumpBy s o n).sch = s.sch := rfl
@[simp] theorem bumpBy_shc (o n : Nat) : (bumpBy s o n).shc = s.shc := rfl
@[simp] theorem bumpBy_inval (o n : Nat) : (bumpBy s o n).inval = s.inval := rfl
@[simp] theorem bumpBy_invalQ (o n : Nat) : (bumpBy s o n).invalQ = s.invalQ := rfl
@[simp] theorem bumpBy_wctr (o n : Nat) : (bumpBy s o n).wctr = s.wctr := rfl
@[simp] theorem bumpBy_dma (o n : Nat) : (bumpBy s o n).dma = s.dma := rfl
@[simp] theorem bumpBy_kv (o n : Nat) : (bumpBy s o n).kv = s.kv := rfl
@[simp] theorem bumpBy_ing (o n : Nat) : (bumpBy s o n).ing = s.ing := rfl
@[simp] theorem bumpBy_dpo (o n : Nat) : (bumpBy s o n).dpo = s.dpo := rfl
@[simp] theorem bumpBy_mot (o n : Nat) : (bumpBy s o n).mot = s.mot := rfl
@[simp] theorem bumpBy_sio (o n : Nat) : (bumpBy s o n).sio = s.sio := rfl
@[simp] theorem bumpBy_hut (o n : Nat) : (bumpBy s o n).hut = s.hut := rfl
@[simp] theorem bumpBy_bur (o n : Nat) : (bumpBy s o n).bur = s.bur := rfl
@[simp] theorem bumpBy_boot (o n : Nat) : (bumpBy s o n).boot = s.boot := rfl
@[simp] theorem bumpBy_hif (o n : Nat) : (bumpBy s o n).hif = s.hif := rfl
@[simp] theorem bumpBy_svc (o n : Nat) : (bumpBy s o n).svc = s.svc := rfl
@[simp] theorem bumpBy_gang (o n : Nat) : (bumpBy s o n).gang = s.gang := rfl
@[simp] theorem bumpBy_free (o n : Nat) : (bumpBy s o n).free = s.free := rfl

/-! ## bump -/

@[simp] theorem bump_pending (o : Nat) : (bump s o).pending = s.pending := rfl
@[simp] theorem bump_clk (o : Nat) : (bump s o).clk = s.clk := rfl
@[simp] theorem bump_pend (o : Nat) : (bump s o).pend = s.pend := rfl
@[simp] theorem bump_mem (o : Nat) : (bump s o).mem = s.mem := rfl
@[simp] theorem bump_tc (o : Nat) : (bump s o).tc = s.tc := rfl
@[simp] theorem bump_phys (o : Nat) : (bump s o).phys = s.phys := rfl
@[simp] theorem bump_cl (o : Nat) : (bump s o).cl = s.cl := rfl
@[simp] theorem bump_ctxs (o : Nat) : (bump s o).ctxs = s.ctxs := rfl
@[simp] theorem bump_sch (o : Nat) : (bump s o).sch = s.sch := rfl
@[simp] theorem bump_shc (o : Nat) : (bump s o).shc = s.shc := rfl
@[simp] theorem bump_inval (o : Nat) : (bump s o).inval = s.inval := rfl
@[simp] theorem bump_invalQ (o : Nat) : (bump s o).invalQ = s.invalQ := rfl
@[simp] theorem bump_wctr (o : Nat) : (bump s o).wctr = s.wctr := rfl
@[simp] theorem bump_dma (o : Nat) : (bump s o).dma = s.dma := rfl
@[simp] theorem bump_kv (o : Nat) : (bump s o).kv = s.kv := rfl
@[simp] theorem bump_ing (o : Nat) : (bump s o).ing = s.ing := rfl
@[simp] theorem bump_dpo (o : Nat) : (bump s o).dpo = s.dpo := rfl
@[simp] theorem bump_mot (o : Nat) : (bump s o).mot = s.mot := rfl
@[simp] theorem bump_sio (o : Nat) : (bump s o).sio = s.sio := rfl
@[simp] theorem bump_hut (o : Nat) : (bump s o).hut = s.hut := rfl
@[simp] theorem bump_bur (o : Nat) : (bump s o).bur = s.bur := rfl
@[simp] theorem bump_boot (o : Nat) : (bump s o).boot = s.boot := rfl
@[simp] theorem bump_hif (o : Nat) : (bump s o).hif = s.hif := rfl
@[simp] theorem bump_svc (o : Nat) : (bump s o).svc = s.svc := rfl
@[simp] theorem bump_gang (o : Nat) : (bump s o).gang = s.gang := rfl
@[simp] theorem bump_free (o : Nat) : (bump s o).free = s.free := rfl

/-! ## wr64 -/

@[simp] theorem wr64_pending (lo hi v : Nat) : (wr64 s lo hi v).pending = s.pending := rfl
@[simp] theorem wr64_clk (lo hi v : Nat) : (wr64 s lo hi v).clk = s.clk := rfl
@[simp] theorem wr64_pend (lo hi v : Nat) : (wr64 s lo hi v).pend = s.pend := rfl
@[simp] theorem wr64_mem (lo hi v : Nat) : (wr64 s lo hi v).mem = s.mem := rfl
@[simp] theorem wr64_tc (lo hi v : Nat) : (wr64 s lo hi v).tc = s.tc := rfl
@[simp] theorem wr64_phys (lo hi v : Nat) : (wr64 s lo hi v).phys = s.phys := rfl
@[simp] theorem wr64_cl (lo hi v : Nat) : (wr64 s lo hi v).cl = s.cl := rfl
@[simp] theorem wr64_ctxs (lo hi v : Nat) : (wr64 s lo hi v).ctxs = s.ctxs := rfl
@[simp] theorem wr64_sch (lo hi v : Nat) : (wr64 s lo hi v).sch = s.sch := rfl
@[simp] theorem wr64_shc (lo hi v : Nat) : (wr64 s lo hi v).shc = s.shc := rfl
@[simp] theorem wr64_inval (lo hi v : Nat) : (wr64 s lo hi v).inval = s.inval := rfl
@[simp] theorem wr64_invalQ (lo hi v : Nat) : (wr64 s lo hi v).invalQ = s.invalQ := rfl
@[simp] theorem wr64_wctr (lo hi v : Nat) : (wr64 s lo hi v).wctr = s.wctr := rfl
@[simp] theorem wr64_dma (lo hi v : Nat) : (wr64 s lo hi v).dma = s.dma := rfl
@[simp] theorem wr64_kv (lo hi v : Nat) : (wr64 s lo hi v).kv = s.kv := rfl
@[simp] theorem wr64_ing (lo hi v : Nat) : (wr64 s lo hi v).ing = s.ing := rfl
@[simp] theorem wr64_dpo (lo hi v : Nat) : (wr64 s lo hi v).dpo = s.dpo := rfl
@[simp] theorem wr64_mot (lo hi v : Nat) : (wr64 s lo hi v).mot = s.mot := rfl
@[simp] theorem wr64_sio (lo hi v : Nat) : (wr64 s lo hi v).sio = s.sio := rfl
@[simp] theorem wr64_hut (lo hi v : Nat) : (wr64 s lo hi v).hut = s.hut := rfl
@[simp] theorem wr64_bur (lo hi v : Nat) : (wr64 s lo hi v).bur = s.bur := rfl
@[simp] theorem wr64_boot (lo hi v : Nat) : (wr64 s lo hi v).boot = s.boot := rfl
@[simp] theorem wr64_hif (lo hi v : Nat) : (wr64 s lo hi v).hif = s.hif := rfl
@[simp] theorem wr64_svc (lo hi v : Nat) : (wr64 s lo hi v).svc = s.svc := rfl
@[simp] theorem wr64_gang (lo hi v : Nat) : (wr64 s lo hi v).gang = s.gang := rfl
@[simp] theorem wr64_free (lo hi v : Nat) : (wr64 s lo hi v).free = s.free := rfl

/-! ## signal -/

@[simp] theorem signal_pending (k n : Nat) (v : Word) : (signal s k n v).pending = s.pending := rfl
@[simp] theorem signal_clk (k n : Nat) (v : Word) : (signal s k n v).clk = s.clk := rfl
@[simp] theorem signal_pend (k n : Nat) (v : Word) : (signal s k n v).pend = s.pend := rfl
@[simp] theorem signal_mem (k n : Nat) (v : Word) : (signal s k n v).mem = s.mem := rfl
@[simp] theorem signal_tc (k n : Nat) (v : Word) : (signal s k n v).tc = s.tc := rfl
@[simp] theorem signal_phys (k n : Nat) (v : Word) : (signal s k n v).phys = s.phys := rfl
@[simp] theorem signal_cl (k n : Nat) (v : Word) : (signal s k n v).cl = s.cl := rfl
@[simp] theorem signal_ctxs (k n : Nat) (v : Word) : (signal s k n v).ctxs = s.ctxs := rfl
@[simp] theorem signal_sch (k n : Nat) (v : Word) : (signal s k n v).sch = s.sch := rfl
@[simp] theorem signal_shc (k n : Nat) (v : Word) : (signal s k n v).shc = s.shc := rfl
@[simp] theorem signal_inval (k n : Nat) (v : Word) : (signal s k n v).inval = s.inval := rfl
@[simp] theorem signal_invalQ (k n : Nat) (v : Word) : (signal s k n v).invalQ = s.invalQ := rfl
@[simp] theorem signal_wctr (k n : Nat) (v : Word) : (signal s k n v).wctr = s.wctr := rfl
@[simp] theorem signal_dma (k n : Nat) (v : Word) : (signal s k n v).dma = s.dma := rfl
@[simp] theorem signal_dpo (k n : Nat) (v : Word) : (signal s k n v).dpo = s.dpo := rfl
@[simp] theorem signal_mot (k n : Nat) (v : Word) : (signal s k n v).mot = s.mot := rfl
@[simp] theorem signal_sio (k n : Nat) (v : Word) : (signal s k n v).sio = s.sio := rfl
@[simp] theorem signal_hut (k n : Nat) (v : Word) : (signal s k n v).hut = s.hut := rfl
@[simp] theorem signal_bur (k n : Nat) (v : Word) : (signal s k n v).bur = s.bur := rfl
@[simp] theorem signal_boot (k n : Nat) (v : Word) : (signal s k n v).boot = s.boot := rfl
@[simp] theorem signal_hif (k n : Nat) (v : Word) : (signal s k n v).hif = s.hif := rfl
@[simp] theorem signal_svc (k n : Nat) (v : Word) : (signal s k n v).svc = s.svc := rfl
@[simp] theorem signal_gang (k n : Nat) (v : Word) : (signal s k n v).gang = s.gang := rfl
@[simp] theorem signal_free (k n : Nat) (v : Word) : (signal s k n v).free = s.free := rfl

/-! ## stage -/

@[simp] theorem stage_pending (o : Nat) (v : Word) : (stage s o v).pending = s.pending := rfl
@[simp] theorem stage_clk (o : Nat) (v : Word) : (stage s o v).clk = s.clk := rfl
@[simp] theorem stage_regs (o : Nat) (v : Word) : (stage s o v).regs = s.regs := rfl
@[simp] theorem stage_mem (o : Nat) (v : Word) : (stage s o v).mem = s.mem := rfl
@[simp] theorem stage_tc (o : Nat) (v : Word) : (stage s o v).tc = s.tc := rfl
@[simp] theorem stage_phys (o : Nat) (v : Word) : (stage s o v).phys = s.phys := rfl
@[simp] theorem stage_cl (o : Nat) (v : Word) : (stage s o v).cl = s.cl := rfl
@[simp] theorem stage_ctxs (o : Nat) (v : Word) : (stage s o v).ctxs = s.ctxs := rfl
@[simp] theorem stage_sch (o : Nat) (v : Word) : (stage s o v).sch = s.sch := rfl
@[simp] theorem stage_shc (o : Nat) (v : Word) : (stage s o v).shc = s.shc := rfl
@[simp] theorem stage_inval (o : Nat) (v : Word) : (stage s o v).inval = s.inval := rfl
@[simp] theorem stage_invalQ (o : Nat) (v : Word) : (stage s o v).invalQ = s.invalQ := rfl
@[simp] theorem stage_wctr (o : Nat) (v : Word) : (stage s o v).wctr = s.wctr := rfl
@[simp] theorem stage_dma (o : Nat) (v : Word) : (stage s o v).dma = s.dma := rfl
@[simp] theorem stage_kv (o : Nat) (v : Word) : (stage s o v).kv = s.kv := rfl
@[simp] theorem stage_ing (o : Nat) (v : Word) : (stage s o v).ing = s.ing := rfl
@[simp] theorem stage_dpo (o : Nat) (v : Word) : (stage s o v).dpo = s.dpo := rfl
@[simp] theorem stage_mot (o : Nat) (v : Word) : (stage s o v).mot = s.mot := rfl
@[simp] theorem stage_sio (o : Nat) (v : Word) : (stage s o v).sio = s.sio := rfl
@[simp] theorem stage_hut (o : Nat) (v : Word) : (stage s o v).hut = s.hut := rfl
@[simp] theorem stage_bur (o : Nat) (v : Word) : (stage s o v).bur = s.bur := rfl
@[simp] theorem stage_boot (o : Nat) (v : Word) : (stage s o v).boot = s.boot := rfl
@[simp] theorem stage_hif (o : Nat) (v : Word) : (stage s o v).hif = s.hif := rfl
@[simp] theorem stage_svc (o : Nat) (v : Word) : (stage s o v).svc = s.svc := rfl
@[simp] theorem stage_gang (o : Nat) (v : Word) : (stage s o v).gang = s.gang := rfl
@[simp] theorem stage_free (o : Nat) (v : Word) : (stage s o v).free = s.free := rfl

/-! ## wrMem -/

@[simp] theorem wrMem_pending (a : Nat) (bs : List Byte) : (wrMem s a bs).pending = s.pending := rfl
@[simp] theorem wrMem_clk (a : Nat) (bs : List Byte) : (wrMem s a bs).clk = s.clk := rfl
@[simp] theorem wrMem_regs (a : Nat) (bs : List Byte) : (wrMem s a bs).regs = s.regs := rfl
@[simp] theorem wrMem_pend (a : Nat) (bs : List Byte) : (wrMem s a bs).pend = s.pend := rfl
@[simp] theorem wrMem_tc (a : Nat) (bs : List Byte) : (wrMem s a bs).tc = s.tc := rfl
@[simp] theorem wrMem_phys (a : Nat) (bs : List Byte) : (wrMem s a bs).phys = s.phys := rfl
@[simp] theorem wrMem_cl (a : Nat) (bs : List Byte) : (wrMem s a bs).cl = s.cl := rfl
@[simp] theorem wrMem_ctxs (a : Nat) (bs : List Byte) : (wrMem s a bs).ctxs = s.ctxs := rfl
@[simp] theorem wrMem_sch (a : Nat) (bs : List Byte) : (wrMem s a bs).sch = s.sch := rfl
@[simp] theorem wrMem_shc (a : Nat) (bs : List Byte) : (wrMem s a bs).shc = s.shc := rfl
@[simp] theorem wrMem_inval (a : Nat) (bs : List Byte) : (wrMem s a bs).inval = s.inval := rfl
@[simp] theorem wrMem_invalQ (a : Nat) (bs : List Byte) : (wrMem s a bs).invalQ = s.invalQ := rfl
@[simp] theorem wrMem_wctr (a : Nat) (bs : List Byte) : (wrMem s a bs).wctr = s.wctr := rfl
@[simp] theorem wrMem_dma (a : Nat) (bs : List Byte) : (wrMem s a bs).dma = s.dma := rfl
@[simp] theorem wrMem_kv (a : Nat) (bs : List Byte) : (wrMem s a bs).kv = s.kv := rfl
@[simp] theorem wrMem_ing (a : Nat) (bs : List Byte) : (wrMem s a bs).ing = s.ing := rfl
@[simp] theorem wrMem_dpo (a : Nat) (bs : List Byte) : (wrMem s a bs).dpo = s.dpo := rfl
@[simp] theorem wrMem_mot (a : Nat) (bs : List Byte) : (wrMem s a bs).mot = s.mot := rfl
@[simp] theorem wrMem_sio (a : Nat) (bs : List Byte) : (wrMem s a bs).sio = s.sio := rfl
@[simp] theorem wrMem_hut (a : Nat) (bs : List Byte) : (wrMem s a bs).hut = s.hut := rfl
@[simp] theorem wrMem_bur (a : Nat) (bs : List Byte) : (wrMem s a bs).bur = s.bur := rfl
@[simp] theorem wrMem_boot (a : Nat) (bs : List Byte) : (wrMem s a bs).boot = s.boot := rfl
@[simp] theorem wrMem_hif (a : Nat) (bs : List Byte) : (wrMem s a bs).hif = s.hif := rfl
@[simp] theorem wrMem_svc (a : Nat) (bs : List Byte) : (wrMem s a bs).svc = s.svc := rfl
@[simp] theorem wrMem_gang (a : Nat) (bs : List Byte) : (wrMem s a bs).gang = s.gang := rfl
@[simp] theorem wrMem_free (a : Nat) (bs : List Byte) : (wrMem s a bs).free = s.free := rfl

/-! ## wrLE -/

@[simp] theorem wrLE_pending (a n v : Nat) : (wrLE s a n v).pending = s.pending := rfl
@[simp] theorem wrLE_clk (a n v : Nat) : (wrLE s a n v).clk = s.clk := rfl
@[simp] theorem wrLE_regs (a n v : Nat) : (wrLE s a n v).regs = s.regs := rfl
@[simp] theorem wrLE_pend (a n v : Nat) : (wrLE s a n v).pend = s.pend := rfl
@[simp] theorem wrLE_tc (a n v : Nat) : (wrLE s a n v).tc = s.tc := rfl
@[simp] theorem wrLE_phys (a n v : Nat) : (wrLE s a n v).phys = s.phys := rfl
@[simp] theorem wrLE_cl (a n v : Nat) : (wrLE s a n v).cl = s.cl := rfl
@[simp] theorem wrLE_ctxs (a n v : Nat) : (wrLE s a n v).ctxs = s.ctxs := rfl
@[simp] theorem wrLE_sch (a n v : Nat) : (wrLE s a n v).sch = s.sch := rfl
@[simp] theorem wrLE_shc (a n v : Nat) : (wrLE s a n v).shc = s.shc := rfl
@[simp] theorem wrLE_inval (a n v : Nat) : (wrLE s a n v).inval = s.inval := rfl
@[simp] theorem wrLE_invalQ (a n v : Nat) : (wrLE s a n v).invalQ = s.invalQ := rfl
@[simp] theorem wrLE_wctr (a n v : Nat) : (wrLE s a n v).wctr = s.wctr := rfl
@[simp] theorem wrLE_dma (a n v : Nat) : (wrLE s a n v).dma = s.dma := rfl
@[simp] theorem wrLE_kv (a n v : Nat) : (wrLE s a n v).kv = s.kv := rfl
@[simp] theorem wrLE_ing (a n v : Nat) : (wrLE s a n v).ing = s.ing := rfl
@[simp] theorem wrLE_dpo (a n v : Nat) : (wrLE s a n v).dpo = s.dpo := rfl
@[simp] theorem wrLE_mot (a n v : Nat) : (wrLE s a n v).mot = s.mot := rfl
@[simp] theorem wrLE_sio (a n v : Nat) : (wrLE s a n v).sio = s.sio := rfl
@[simp] theorem wrLE_hut (a n v : Nat) : (wrLE s a n v).hut = s.hut := rfl
@[simp] theorem wrLE_bur (a n v : Nat) : (wrLE s a n v).bur = s.bur := rfl
@[simp] theorem wrLE_boot (a n v : Nat) : (wrLE s a n v).boot = s.boot := rfl
@[simp] theorem wrLE_hif (a n v : Nat) : (wrLE s a n v).hif = s.hif := rfl
@[simp] theorem wrLE_svc (a n v : Nat) : (wrLE s a n v).svc = s.svc := rfl
@[simp] theorem wrLE_gang (a n v : Nat) : (wrLE s a n v).gang = s.gang := rfl
@[simp] theorem wrLE_free (a n v : Nat) : (wrLE s a n v).free = s.free := rfl

/-! ## zeroMem -/

@[simp] theorem zeroMem_pending (a n : Nat) : (zeroMem s a n).pending = s.pending := rfl
@[simp] theorem zeroMem_clk (a n : Nat) : (zeroMem s a n).clk = s.clk := rfl
@[simp] theorem zeroMem_regs (a n : Nat) : (zeroMem s a n).regs = s.regs := rfl
@[simp] theorem zeroMem_pend (a n : Nat) : (zeroMem s a n).pend = s.pend := rfl
@[simp] theorem zeroMem_tc (a n : Nat) : (zeroMem s a n).tc = s.tc := rfl
@[simp] theorem zeroMem_phys (a n : Nat) : (zeroMem s a n).phys = s.phys := rfl
@[simp] theorem zeroMem_cl (a n : Nat) : (zeroMem s a n).cl = s.cl := rfl
@[simp] theorem zeroMem_ctxs (a n : Nat) : (zeroMem s a n).ctxs = s.ctxs := rfl
@[simp] theorem zeroMem_sch (a n : Nat) : (zeroMem s a n).sch = s.sch := rfl
@[simp] theorem zeroMem_shc (a n : Nat) : (zeroMem s a n).shc = s.shc := rfl
@[simp] theorem zeroMem_inval (a n : Nat) : (zeroMem s a n).inval = s.inval := rfl
@[simp] theorem zeroMem_invalQ (a n : Nat) : (zeroMem s a n).invalQ = s.invalQ := rfl
@[simp] theorem zeroMem_wctr (a n : Nat) : (zeroMem s a n).wctr = s.wctr := rfl
@[simp] theorem zeroMem_dma (a n : Nat) : (zeroMem s a n).dma = s.dma := rfl
@[simp] theorem zeroMem_kv (a n : Nat) : (zeroMem s a n).kv = s.kv := rfl
@[simp] theorem zeroMem_ing (a n : Nat) : (zeroMem s a n).ing = s.ing := rfl
@[simp] theorem zeroMem_dpo (a n : Nat) : (zeroMem s a n).dpo = s.dpo := rfl
@[simp] theorem zeroMem_mot (a n : Nat) : (zeroMem s a n).mot = s.mot := rfl
@[simp] theorem zeroMem_sio (a n : Nat) : (zeroMem s a n).sio = s.sio := rfl
@[simp] theorem zeroMem_hut (a n : Nat) : (zeroMem s a n).hut = s.hut := rfl
@[simp] theorem zeroMem_bur (a n : Nat) : (zeroMem s a n).bur = s.bur := rfl
@[simp] theorem zeroMem_boot (a n : Nat) : (zeroMem s a n).boot = s.boot := rfl
@[simp] theorem zeroMem_hif (a n : Nat) : (zeroMem s a n).hif = s.hif := rfl
@[simp] theorem zeroMem_svc (a n : Nat) : (zeroMem s a n).svc = s.svc := rfl
@[simp] theorem zeroMem_gang (a n : Nat) : (zeroMem s a n).gang = s.gang := rfl
@[simp] theorem zeroMem_free (a n : Nat) : (zeroMem s a n).free = s.free := rfl

/-! ## setCtx -/

@[simp] theorem setCtx_pending (p n : Nat) (v : Ctx) : (setCtx s p n v).pending = s.pending := rfl
@[simp] theorem setCtx_clk (p n : Nat) (v : Ctx) : (setCtx s p n v).clk = s.clk := rfl
@[simp] theorem setCtx_regs (p n : Nat) (v : Ctx) : (setCtx s p n v).regs = s.regs := rfl
@[simp] theorem setCtx_pend (p n : Nat) (v : Ctx) : (setCtx s p n v).pend = s.pend := rfl
@[simp] theorem setCtx_mem (p n : Nat) (v : Ctx) : (setCtx s p n v).mem = s.mem := rfl
@[simp] theorem setCtx_tc (p n : Nat) (v : Ctx) : (setCtx s p n v).tc = s.tc := rfl
@[simp] theorem setCtx_phys (p n : Nat) (v : Ctx) : (setCtx s p n v).phys = s.phys := rfl
@[simp] theorem setCtx_cl (p n : Nat) (v : Ctx) : (setCtx s p n v).cl = s.cl := rfl
@[simp] theorem setCtx_sch (p n : Nat) (v : Ctx) : (setCtx s p n v).sch = s.sch := rfl
@[simp] theorem setCtx_shc (p n : Nat) (v : Ctx) : (setCtx s p n v).shc = s.shc := rfl
@[simp] theorem setCtx_inval (p n : Nat) (v : Ctx) : (setCtx s p n v).inval = s.inval := rfl
@[simp] theorem setCtx_invalQ (p n : Nat) (v : Ctx) : (setCtx s p n v).invalQ = s.invalQ := rfl
@[simp] theorem setCtx_wctr (p n : Nat) (v : Ctx) : (setCtx s p n v).wctr = s.wctr := rfl
@[simp] theorem setCtx_dma (p n : Nat) (v : Ctx) : (setCtx s p n v).dma = s.dma := rfl
@[simp] theorem setCtx_kv (p n : Nat) (v : Ctx) : (setCtx s p n v).kv = s.kv := rfl
@[simp] theorem setCtx_ing (p n : Nat) (v : Ctx) : (setCtx s p n v).ing = s.ing := rfl
@[simp] theorem setCtx_dpo (p n : Nat) (v : Ctx) : (setCtx s p n v).dpo = s.dpo := rfl
@[simp] theorem setCtx_mot (p n : Nat) (v : Ctx) : (setCtx s p n v).mot = s.mot := rfl
@[simp] theorem setCtx_sio (p n : Nat) (v : Ctx) : (setCtx s p n v).sio = s.sio := rfl
@[simp] theorem setCtx_hut (p n : Nat) (v : Ctx) : (setCtx s p n v).hut = s.hut := rfl
@[simp] theorem setCtx_bur (p n : Nat) (v : Ctx) : (setCtx s p n v).bur = s.bur := rfl
@[simp] theorem setCtx_boot (p n : Nat) (v : Ctx) : (setCtx s p n v).boot = s.boot := rfl
@[simp] theorem setCtx_hif (p n : Nat) (v : Ctx) : (setCtx s p n v).hif = s.hif := rfl
@[simp] theorem setCtx_svc (p n : Nat) (v : Ctx) : (setCtx s p n v).svc = s.svc := rfl
@[simp] theorem setCtx_gang (p n : Nat) (v : Ctx) : (setCtx s p n v).gang = s.gang := rfl
@[simp] theorem setCtx_free (p n : Nat) (v : Ctx) : (setCtx s p n v).free = s.free := rfl

/-! ## setCore -/

@[simp] theorem setCore_pending (l : Nat) (v : LCore) : (setCore s l v).pending = s.pending := rfl
@[simp] theorem setCore_clk (l : Nat) (v : LCore) : (setCore s l v).clk = s.clk := rfl
@[simp] theorem setCore_regs (l : Nat) (v : LCore) : (setCore s l v).regs = s.regs := rfl
@[simp] theorem setCore_pend (l : Nat) (v : LCore) : (setCore s l v).pend = s.pend := rfl
@[simp] theorem setCore_mem (l : Nat) (v : LCore) : (setCore s l v).mem = s.mem := rfl
@[simp] theorem setCore_phys (l : Nat) (v : LCore) : (setCore s l v).phys = s.phys := rfl
@[simp] theorem setCore_cl (l : Nat) (v : LCore) : (setCore s l v).cl = s.cl := rfl
@[simp] theorem setCore_ctxs (l : Nat) (v : LCore) : (setCore s l v).ctxs = s.ctxs := rfl
@[simp] theorem setCore_sch (l : Nat) (v : LCore) : (setCore s l v).sch = s.sch := rfl
@[simp] theorem setCore_shc (l : Nat) (v : LCore) : (setCore s l v).shc = s.shc := rfl
@[simp] theorem setCore_inval (l : Nat) (v : LCore) : (setCore s l v).inval = s.inval := rfl
@[simp] theorem setCore_invalQ (l : Nat) (v : LCore) : (setCore s l v).invalQ = s.invalQ := rfl
@[simp] theorem setCore_wctr (l : Nat) (v : LCore) : (setCore s l v).wctr = s.wctr := rfl
@[simp] theorem setCore_dma (l : Nat) (v : LCore) : (setCore s l v).dma = s.dma := rfl
@[simp] theorem setCore_kv (l : Nat) (v : LCore) : (setCore s l v).kv = s.kv := rfl
@[simp] theorem setCore_ing (l : Nat) (v : LCore) : (setCore s l v).ing = s.ing := rfl
@[simp] theorem setCore_dpo (l : Nat) (v : LCore) : (setCore s l v).dpo = s.dpo := rfl
@[simp] theorem setCore_mot (l : Nat) (v : LCore) : (setCore s l v).mot = s.mot := rfl
@[simp] theorem setCore_sio (l : Nat) (v : LCore) : (setCore s l v).sio = s.sio := rfl
@[simp] theorem setCore_hut (l : Nat) (v : LCore) : (setCore s l v).hut = s.hut := rfl
@[simp] theorem setCore_bur (l : Nat) (v : LCore) : (setCore s l v).bur = s.bur := rfl
@[simp] theorem setCore_boot (l : Nat) (v : LCore) : (setCore s l v).boot = s.boot := rfl
@[simp] theorem setCore_hif (l : Nat) (v : LCore) : (setCore s l v).hif = s.hif := rfl
@[simp] theorem setCore_svc (l : Nat) (v : LCore) : (setCore s l v).svc = s.svc := rfl
@[simp] theorem setCore_gang (l : Nat) (v : LCore) : (setCore s l v).gang = s.gang := rfl
@[simp] theorem setCore_free (l : Nat) (v : LCore) : (setCore s l v).free = s.free := rfl

/-! ## setCl -/

@[simp] theorem setCl_pending (c : Nat) (v : Cluster) : (setCl s c v).pending = s.pending := rfl
@[simp] theorem setCl_clk (c : Nat) (v : Cluster) : (setCl s c v).clk = s.clk := rfl
@[simp] theorem setCl_regs (c : Nat) (v : Cluster) : (setCl s c v).regs = s.regs := rfl
@[simp] theorem setCl_pend (c : Nat) (v : Cluster) : (setCl s c v).pend = s.pend := rfl
@[simp] theorem setCl_mem (c : Nat) (v : Cluster) : (setCl s c v).mem = s.mem := rfl
@[simp] theorem setCl_tc (c : Nat) (v : Cluster) : (setCl s c v).tc = s.tc := rfl
@[simp] theorem setCl_phys (c : Nat) (v : Cluster) : (setCl s c v).phys = s.phys := rfl
@[simp] theorem setCl_ctxs (c : Nat) (v : Cluster) : (setCl s c v).ctxs = s.ctxs := rfl
@[simp] theorem setCl_sch (c : Nat) (v : Cluster) : (setCl s c v).sch = s.sch := rfl
@[simp] theorem setCl_shc (c : Nat) (v : Cluster) : (setCl s c v).shc = s.shc := rfl
@[simp] theorem setCl_inval (c : Nat) (v : Cluster) : (setCl s c v).inval = s.inval := rfl
@[simp] theorem setCl_invalQ (c : Nat) (v : Cluster) : (setCl s c v).invalQ = s.invalQ := rfl
@[simp] theorem setCl_wctr (c : Nat) (v : Cluster) : (setCl s c v).wctr = s.wctr := rfl
@[simp] theorem setCl_dma (c : Nat) (v : Cluster) : (setCl s c v).dma = s.dma := rfl
@[simp] theorem setCl_kv (c : Nat) (v : Cluster) : (setCl s c v).kv = s.kv := rfl
@[simp] theorem setCl_ing (c : Nat) (v : Cluster) : (setCl s c v).ing = s.ing := rfl
@[simp] theorem setCl_dpo (c : Nat) (v : Cluster) : (setCl s c v).dpo = s.dpo := rfl
@[simp] theorem setCl_mot (c : Nat) (v : Cluster) : (setCl s c v).mot = s.mot := rfl
@[simp] theorem setCl_sio (c : Nat) (v : Cluster) : (setCl s c v).sio = s.sio := rfl
@[simp] theorem setCl_hut (c : Nat) (v : Cluster) : (setCl s c v).hut = s.hut := rfl
@[simp] theorem setCl_bur (c : Nat) (v : Cluster) : (setCl s c v).bur = s.bur := rfl
@[simp] theorem setCl_boot (c : Nat) (v : Cluster) : (setCl s c v).boot = s.boot := rfl
@[simp] theorem setCl_hif (c : Nat) (v : Cluster) : (setCl s c v).hif = s.hif := rfl
@[simp] theorem setCl_svc (c : Nat) (v : Cluster) : (setCl s c v).svc = s.svc := rfl
@[simp] theorem setCl_gang (c : Nat) (v : Cluster) : (setCl s c v).gang = s.gang := rfl
@[simp] theorem setCl_free (c : Nat) (v : Cluster) : (setCl s c v).free = s.free := rfl

/-! ## setPhys -/

@[simp] theorem setPhys_pending (p : Nat) (v : Phys) : (setPhys s p v).pending = s.pending := rfl
@[simp] theorem setPhys_clk (p : Nat) (v : Phys) : (setPhys s p v).clk = s.clk := rfl
@[simp] theorem setPhys_regs (p : Nat) (v : Phys) : (setPhys s p v).regs = s.regs := rfl
@[simp] theorem setPhys_pend (p : Nat) (v : Phys) : (setPhys s p v).pend = s.pend := rfl
@[simp] theorem setPhys_mem (p : Nat) (v : Phys) : (setPhys s p v).mem = s.mem := rfl
@[simp] theorem setPhys_tc (p : Nat) (v : Phys) : (setPhys s p v).tc = s.tc := rfl
@[simp] theorem setPhys_cl (p : Nat) (v : Phys) : (setPhys s p v).cl = s.cl := rfl
@[simp] theorem setPhys_ctxs (p : Nat) (v : Phys) : (setPhys s p v).ctxs = s.ctxs := rfl
@[simp] theorem setPhys_sch (p : Nat) (v : Phys) : (setPhys s p v).sch = s.sch := rfl
@[simp] theorem setPhys_shc (p : Nat) (v : Phys) : (setPhys s p v).shc = s.shc := rfl
@[simp] theorem setPhys_inval (p : Nat) (v : Phys) : (setPhys s p v).inval = s.inval := rfl
@[simp] theorem setPhys_invalQ (p : Nat) (v : Phys) : (setPhys s p v).invalQ = s.invalQ := rfl
@[simp] theorem setPhys_wctr (p : Nat) (v : Phys) : (setPhys s p v).wctr = s.wctr := rfl
@[simp] theorem setPhys_dma (p : Nat) (v : Phys) : (setPhys s p v).dma = s.dma := rfl
@[simp] theorem setPhys_kv (p : Nat) (v : Phys) : (setPhys s p v).kv = s.kv := rfl
@[simp] theorem setPhys_ing (p : Nat) (v : Phys) : (setPhys s p v).ing = s.ing := rfl
@[simp] theorem setPhys_dpo (p : Nat) (v : Phys) : (setPhys s p v).dpo = s.dpo := rfl
@[simp] theorem setPhys_mot (p : Nat) (v : Phys) : (setPhys s p v).mot = s.mot := rfl
@[simp] theorem setPhys_sio (p : Nat) (v : Phys) : (setPhys s p v).sio = s.sio := rfl
@[simp] theorem setPhys_hut (p : Nat) (v : Phys) : (setPhys s p v).hut = s.hut := rfl
@[simp] theorem setPhys_bur (p : Nat) (v : Phys) : (setPhys s p v).bur = s.bur := rfl
@[simp] theorem setPhys_boot (p : Nat) (v : Phys) : (setPhys s p v).boot = s.boot := rfl
@[simp] theorem setPhys_hif (p : Nat) (v : Phys) : (setPhys s p v).hif = s.hif := rfl
@[simp] theorem setPhys_svc (p : Nat) (v : Phys) : (setPhys s p v).svc = s.svc := rfl
@[simp] theorem setPhys_gang (p : Nat) (v : Phys) : (setPhys s p v).gang = s.gang := rfl
@[simp] theorem setPhys_free (p : Nat) (v : Phys) : (setPhys s p v).free = s.free := rfl

/-! ## setSlot -/

@[simp] theorem setSlot_pending (l k : Nat) (v : SlotCtx) : (setSlot s l k v).pending = s.pending := rfl
@[simp] theorem setSlot_clk (l k : Nat) (v : SlotCtx) : (setSlot s l k v).clk = s.clk := rfl
@[simp] theorem setSlot_regs (l k : Nat) (v : SlotCtx) : (setSlot s l k v).regs = s.regs := rfl
@[simp] theorem setSlot_pend (l k : Nat) (v : SlotCtx) : (setSlot s l k v).pend = s.pend := rfl
@[simp] theorem setSlot_mem (l k : Nat) (v : SlotCtx) : (setSlot s l k v).mem = s.mem := rfl
@[simp] theorem setSlot_phys (l k : Nat) (v : SlotCtx) : (setSlot s l k v).phys = s.phys := rfl
@[simp] theorem setSlot_cl (l k : Nat) (v : SlotCtx) : (setSlot s l k v).cl = s.cl := rfl
@[simp] theorem setSlot_ctxs (l k : Nat) (v : SlotCtx) : (setSlot s l k v).ctxs = s.ctxs := rfl
@[simp] theorem setSlot_sch (l k : Nat) (v : SlotCtx) : (setSlot s l k v).sch = s.sch := rfl
@[simp] theorem setSlot_shc (l k : Nat) (v : SlotCtx) : (setSlot s l k v).shc = s.shc := rfl
@[simp] theorem setSlot_inval (l k : Nat) (v : SlotCtx) : (setSlot s l k v).inval = s.inval := rfl
@[simp] theorem setSlot_invalQ (l k : Nat) (v : SlotCtx) : (setSlot s l k v).invalQ = s.invalQ := rfl
@[simp] theorem setSlot_wctr (l k : Nat) (v : SlotCtx) : (setSlot s l k v).wctr = s.wctr := rfl
@[simp] theorem setSlot_dma (l k : Nat) (v : SlotCtx) : (setSlot s l k v).dma = s.dma := rfl
@[simp] theorem setSlot_kv (l k : Nat) (v : SlotCtx) : (setSlot s l k v).kv = s.kv := rfl
@[simp] theorem setSlot_ing (l k : Nat) (v : SlotCtx) : (setSlot s l k v).ing = s.ing := rfl
@[simp] theorem setSlot_dpo (l k : Nat) (v : SlotCtx) : (setSlot s l k v).dpo = s.dpo := rfl
@[simp] theorem setSlot_mot (l k : Nat) (v : SlotCtx) : (setSlot s l k v).mot = s.mot := rfl
@[simp] theorem setSlot_sio (l k : Nat) (v : SlotCtx) : (setSlot s l k v).sio = s.sio := rfl
@[simp] theorem setSlot_hut (l k : Nat) (v : SlotCtx) : (setSlot s l k v).hut = s.hut := rfl
@[simp] theorem setSlot_bur (l k : Nat) (v : SlotCtx) : (setSlot s l k v).bur = s.bur := rfl
@[simp] theorem setSlot_boot (l k : Nat) (v : SlotCtx) : (setSlot s l k v).boot = s.boot := rfl
@[simp] theorem setSlot_hif (l k : Nat) (v : SlotCtx) : (setSlot s l k v).hif = s.hif := rfl
@[simp] theorem setSlot_svc (l k : Nat) (v : SlotCtx) : (setSlot s l k v).svc = s.svc := rfl
@[simp] theorem setSlot_gang (l k : Nat) (v : SlotCtx) : (setSlot s l k v).gang = s.gang := rfl
@[simp] theorem setSlot_free (l k : Nat) (v : SlotCtx) : (setSlot s l k v).free = s.free := rfl

/-! ## setWctr -/

@[simp] theorem setWctr_pending (k : Nat) (v : Wctr) : (setWctr s k v).pending = s.pending := rfl
@[simp] theorem setWctr_clk (k : Nat) (v : Wctr) : (setWctr s k v).clk = s.clk := rfl
@[simp] theorem setWctr_regs (k : Nat) (v : Wctr) : (setWctr s k v).regs = s.regs := rfl
@[simp] theorem setWctr_pend (k : Nat) (v : Wctr) : (setWctr s k v).pend = s.pend := rfl
@[simp] theorem setWctr_mem (k : Nat) (v : Wctr) : (setWctr s k v).mem = s.mem := rfl
@[simp] theorem setWctr_tc (k : Nat) (v : Wctr) : (setWctr s k v).tc = s.tc := rfl
@[simp] theorem setWctr_phys (k : Nat) (v : Wctr) : (setWctr s k v).phys = s.phys := rfl
@[simp] theorem setWctr_cl (k : Nat) (v : Wctr) : (setWctr s k v).cl = s.cl := rfl
@[simp] theorem setWctr_ctxs (k : Nat) (v : Wctr) : (setWctr s k v).ctxs = s.ctxs := rfl
@[simp] theorem setWctr_sch (k : Nat) (v : Wctr) : (setWctr s k v).sch = s.sch := rfl
@[simp] theorem setWctr_shc (k : Nat) (v : Wctr) : (setWctr s k v).shc = s.shc := rfl
@[simp] theorem setWctr_inval (k : Nat) (v : Wctr) : (setWctr s k v).inval = s.inval := rfl
@[simp] theorem setWctr_invalQ (k : Nat) (v : Wctr) : (setWctr s k v).invalQ = s.invalQ := rfl
@[simp] theorem setWctr_dma (k : Nat) (v : Wctr) : (setWctr s k v).dma = s.dma := rfl
@[simp] theorem setWctr_kv (k : Nat) (v : Wctr) : (setWctr s k v).kv = s.kv := rfl
@[simp] theorem setWctr_ing (k : Nat) (v : Wctr) : (setWctr s k v).ing = s.ing := rfl
@[simp] theorem setWctr_dpo (k : Nat) (v : Wctr) : (setWctr s k v).dpo = s.dpo := rfl
@[simp] theorem setWctr_mot (k : Nat) (v : Wctr) : (setWctr s k v).mot = s.mot := rfl
@[simp] theorem setWctr_sio (k : Nat) (v : Wctr) : (setWctr s k v).sio = s.sio := rfl
@[simp] theorem setWctr_hut (k : Nat) (v : Wctr) : (setWctr s k v).hut = s.hut := rfl
@[simp] theorem setWctr_bur (k : Nat) (v : Wctr) : (setWctr s k v).bur = s.bur := rfl
@[simp] theorem setWctr_boot (k : Nat) (v : Wctr) : (setWctr s k v).boot = s.boot := rfl
@[simp] theorem setWctr_hif (k : Nat) (v : Wctr) : (setWctr s k v).hif = s.hif := rfl
@[simp] theorem setWctr_svc (k : Nat) (v : Wctr) : (setWctr s k v).svc = s.svc := rfl
@[simp] theorem setWctr_gang (k : Nat) (v : Wctr) : (setWctr s k v).gang = s.gang := rfl
@[simp] theorem setWctr_free (k : Nat) (v : Wctr) : (setWctr s k v).free = s.free := rfl

/-! ## setSlice -/

@[simp] theorem setSlice_pending (c : Nat) (v : Slice) : (setSlice s c v).pending = s.pending := rfl
@[simp] theorem setSlice_clk (c : Nat) (v : Slice) : (setSlice s c v).clk = s.clk := rfl
@[simp] theorem setSlice_regs (c : Nat) (v : Slice) : (setSlice s c v).regs = s.regs := rfl
@[simp] theorem setSlice_pend (c : Nat) (v : Slice) : (setSlice s c v).pend = s.pend := rfl
@[simp] theorem setSlice_mem (c : Nat) (v : Slice) : (setSlice s c v).mem = s.mem := rfl
@[simp] theorem setSlice_tc (c : Nat) (v : Slice) : (setSlice s c v).tc = s.tc := rfl
@[simp] theorem setSlice_phys (c : Nat) (v : Slice) : (setSlice s c v).phys = s.phys := rfl
@[simp] theorem setSlice_cl (c : Nat) (v : Slice) : (setSlice s c v).cl = s.cl := rfl
@[simp] theorem setSlice_ctxs (c : Nat) (v : Slice) : (setSlice s c v).ctxs = s.ctxs := rfl
@[simp] theorem setSlice_sch (c : Nat) (v : Slice) : (setSlice s c v).sch = s.sch := rfl
@[simp] theorem setSlice_inval (c : Nat) (v : Slice) : (setSlice s c v).inval = s.inval := rfl
@[simp] theorem setSlice_invalQ (c : Nat) (v : Slice) : (setSlice s c v).invalQ = s.invalQ := rfl
@[simp] theorem setSlice_wctr (c : Nat) (v : Slice) : (setSlice s c v).wctr = s.wctr := rfl
@[simp] theorem setSlice_dma (c : Nat) (v : Slice) : (setSlice s c v).dma = s.dma := rfl
@[simp] theorem setSlice_kv (c : Nat) (v : Slice) : (setSlice s c v).kv = s.kv := rfl
@[simp] theorem setSlice_ing (c : Nat) (v : Slice) : (setSlice s c v).ing = s.ing := rfl
@[simp] theorem setSlice_dpo (c : Nat) (v : Slice) : (setSlice s c v).dpo = s.dpo := rfl
@[simp] theorem setSlice_mot (c : Nat) (v : Slice) : (setSlice s c v).mot = s.mot := rfl
@[simp] theorem setSlice_sio (c : Nat) (v : Slice) : (setSlice s c v).sio = s.sio := rfl
@[simp] theorem setSlice_hut (c : Nat) (v : Slice) : (setSlice s c v).hut = s.hut := rfl
@[simp] theorem setSlice_bur (c : Nat) (v : Slice) : (setSlice s c v).bur = s.bur := rfl
@[simp] theorem setSlice_boot (c : Nat) (v : Slice) : (setSlice s c v).boot = s.boot := rfl
@[simp] theorem setSlice_hif (c : Nat) (v : Slice) : (setSlice s c v).hif = s.hif := rfl
@[simp] theorem setSlice_svc (c : Nat) (v : Slice) : (setSlice s c v).svc = s.svc := rfl
@[simp] theorem setSlice_gang (c : Nat) (v : Slice) : (setSlice s c v).gang = s.gang := rfl
@[simp] theorem setSlice_free (c : Nat) (v : Slice) : (setSlice s c v).free = s.free := rfl

/-! ## setQueue -/

@[simp] theorem setQueue_pending (e vc : Nat) (v : List Chain) : (setQueue s e vc v).pending = s.pending := rfl
@[simp] theorem setQueue_clk (e vc : Nat) (v : List Chain) : (setQueue s e vc v).clk = s.clk := rfl
@[simp] theorem setQueue_regs (e vc : Nat) (v : List Chain) : (setQueue s e vc v).regs = s.regs := rfl
@[simp] theorem setQueue_pend (e vc : Nat) (v : List Chain) : (setQueue s e vc v).pend = s.pend := rfl
@[simp] theorem setQueue_mem (e vc : Nat) (v : List Chain) : (setQueue s e vc v).mem = s.mem := rfl
@[simp] theorem setQueue_tc (e vc : Nat) (v : List Chain) : (setQueue s e vc v).tc = s.tc := rfl
@[simp] theorem setQueue_phys (e vc : Nat) (v : List Chain) : (setQueue s e vc v).phys = s.phys := rfl
@[simp] theorem setQueue_cl (e vc : Nat) (v : List Chain) : (setQueue s e vc v).cl = s.cl := rfl
@[simp] theorem setQueue_ctxs (e vc : Nat) (v : List Chain) : (setQueue s e vc v).ctxs = s.ctxs := rfl
@[simp] theorem setQueue_sch (e vc : Nat) (v : List Chain) : (setQueue s e vc v).sch = s.sch := rfl
@[simp] theorem setQueue_shc (e vc : Nat) (v : List Chain) : (setQueue s e vc v).shc = s.shc := rfl
@[simp] theorem setQueue_inval (e vc : Nat) (v : List Chain) : (setQueue s e vc v).inval = s.inval := rfl
@[simp] theorem setQueue_invalQ (e vc : Nat) (v : List Chain) : (setQueue s e vc v).invalQ = s.invalQ := rfl
@[simp] theorem setQueue_wctr (e vc : Nat) (v : List Chain) : (setQueue s e vc v).wctr = s.wctr := rfl
@[simp] theorem setQueue_kv (e vc : Nat) (v : List Chain) : (setQueue s e vc v).kv = s.kv := rfl
@[simp] theorem setQueue_ing (e vc : Nat) (v : List Chain) : (setQueue s e vc v).ing = s.ing := rfl
@[simp] theorem setQueue_dpo (e vc : Nat) (v : List Chain) : (setQueue s e vc v).dpo = s.dpo := rfl
@[simp] theorem setQueue_mot (e vc : Nat) (v : List Chain) : (setQueue s e vc v).mot = s.mot := rfl
@[simp] theorem setQueue_sio (e vc : Nat) (v : List Chain) : (setQueue s e vc v).sio = s.sio := rfl
@[simp] theorem setQueue_hut (e vc : Nat) (v : List Chain) : (setQueue s e vc v).hut = s.hut := rfl
@[simp] theorem setQueue_bur (e vc : Nat) (v : List Chain) : (setQueue s e vc v).bur = s.bur := rfl
@[simp] theorem setQueue_boot (e vc : Nat) (v : List Chain) : (setQueue s e vc v).boot = s.boot := rfl
@[simp] theorem setQueue_hif (e vc : Nat) (v : List Chain) : (setQueue s e vc v).hif = s.hif := rfl
@[simp] theorem setQueue_svc (e vc : Nat) (v : List Chain) : (setQueue s e vc v).svc = s.svc := rfl
@[simp] theorem setQueue_gang (e vc : Nat) (v : List Chain) : (setQueue s e vc v).gang = s.gang := rfl
@[simp] theorem setQueue_free (e vc : Nat) (v : List Chain) : (setQueue s e vc v).free = s.free := rfl

/-! ## setSeq -/

@[simp] theorem setSeq_pending (q : Nat) (v : Seq) : (setSeq s q v).pending = s.pending := rfl
@[simp] theorem setSeq_clk (q : Nat) (v : Seq) : (setSeq s q v).clk = s.clk := rfl
@[simp] theorem setSeq_regs (q : Nat) (v : Seq) : (setSeq s q v).regs = s.regs := rfl
@[simp] theorem setSeq_pend (q : Nat) (v : Seq) : (setSeq s q v).pend = s.pend := rfl
@[simp] theorem setSeq_mem (q : Nat) (v : Seq) : (setSeq s q v).mem = s.mem := rfl
@[simp] theorem setSeq_tc (q : Nat) (v : Seq) : (setSeq s q v).tc = s.tc := rfl
@[simp] theorem setSeq_phys (q : Nat) (v : Seq) : (setSeq s q v).phys = s.phys := rfl
@[simp] theorem setSeq_cl (q : Nat) (v : Seq) : (setSeq s q v).cl = s.cl := rfl
@[simp] theorem setSeq_ctxs (q : Nat) (v : Seq) : (setSeq s q v).ctxs = s.ctxs := rfl
@[simp] theorem setSeq_sch (q : Nat) (v : Seq) : (setSeq s q v).sch = s.sch := rfl
@[simp] theorem setSeq_shc (q : Nat) (v : Seq) : (setSeq s q v).shc = s.shc := rfl
@[simp] theorem setSeq_inval (q : Nat) (v : Seq) : (setSeq s q v).inval = s.inval := rfl
@[simp] theorem setSeq_invalQ (q : Nat) (v : Seq) : (setSeq s q v).invalQ = s.invalQ := rfl
@[simp] theorem setSeq_wctr (q : Nat) (v : Seq) : (setSeq s q v).wctr = s.wctr := rfl
@[simp] theorem setSeq_dma (q : Nat) (v : Seq) : (setSeq s q v).dma = s.dma := rfl
@[simp] theorem setSeq_ing (q : Nat) (v : Seq) : (setSeq s q v).ing = s.ing := rfl
@[simp] theorem setSeq_dpo (q : Nat) (v : Seq) : (setSeq s q v).dpo = s.dpo := rfl
@[simp] theorem setSeq_mot (q : Nat) (v : Seq) : (setSeq s q v).mot = s.mot := rfl
@[simp] theorem setSeq_sio (q : Nat) (v : Seq) : (setSeq s q v).sio = s.sio := rfl
@[simp] theorem setSeq_hut (q : Nat) (v : Seq) : (setSeq s q v).hut = s.hut := rfl
@[simp] theorem setSeq_bur (q : Nat) (v : Seq) : (setSeq s q v).bur = s.bur := rfl
@[simp] theorem setSeq_boot (q : Nat) (v : Seq) : (setSeq s q v).boot = s.boot := rfl
@[simp] theorem setSeq_hif (q : Nat) (v : Seq) : (setSeq s q v).hif = s.hif := rfl
@[simp] theorem setSeq_svc (q : Nat) (v : Seq) : (setSeq s q v).svc = s.svc := rfl
@[simp] theorem setSeq_gang (q : Nat) (v : Seq) : (setSeq s q v).gang = s.gang := rfl
@[simp] theorem setSeq_free (q : Nat) (v : Seq) : (setSeq s q v).free = s.free := rfl

/-! ## setStrm -/

@[simp] theorem setStrm_pending (n : Nat) (v : Strm) : (setStrm s n v).pending = s.pending := rfl
@[simp] theorem setStrm_clk (n : Nat) (v : Strm) : (setStrm s n v).clk = s.clk := rfl
@[simp] theorem setStrm_regs (n : Nat) (v : Strm) : (setStrm s n v).regs = s.regs := rfl
@[simp] theorem setStrm_pend (n : Nat) (v : Strm) : (setStrm s n v).pend = s.pend := rfl
@[simp] theorem setStrm_mem (n : Nat) (v : Strm) : (setStrm s n v).mem = s.mem := rfl
@[simp] theorem setStrm_tc (n : Nat) (v : Strm) : (setStrm s n v).tc = s.tc := rfl
@[simp] theorem setStrm_phys (n : Nat) (v : Strm) : (setStrm s n v).phys = s.phys := rfl
@[simp] theorem setStrm_cl (n : Nat) (v : Strm) : (setStrm s n v).cl = s.cl := rfl
@[simp] theorem setStrm_ctxs (n : Nat) (v : Strm) : (setStrm s n v).ctxs = s.ctxs := rfl
@[simp] theorem setStrm_sch (n : Nat) (v : Strm) : (setStrm s n v).sch = s.sch := rfl
@[simp] theorem setStrm_shc (n : Nat) (v : Strm) : (setStrm s n v).shc = s.shc := rfl
@[simp] theorem setStrm_inval (n : Nat) (v : Strm) : (setStrm s n v).inval = s.inval := rfl
@[simp] theorem setStrm_invalQ (n : Nat) (v : Strm) : (setStrm s n v).invalQ = s.invalQ := rfl
@[simp] theorem setStrm_wctr (n : Nat) (v : Strm) : (setStrm s n v).wctr = s.wctr := rfl
@[simp] theorem setStrm_dma (n : Nat) (v : Strm) : (setStrm s n v).dma = s.dma := rfl
@[simp] theorem setStrm_kv (n : Nat) (v : Strm) : (setStrm s n v).kv = s.kv := rfl
@[simp] theorem setStrm_dpo (n : Nat) (v : Strm) : (setStrm s n v).dpo = s.dpo := rfl
@[simp] theorem setStrm_mot (n : Nat) (v : Strm) : (setStrm s n v).mot = s.mot := rfl
@[simp] theorem setStrm_sio (n : Nat) (v : Strm) : (setStrm s n v).sio = s.sio := rfl
@[simp] theorem setStrm_hut (n : Nat) (v : Strm) : (setStrm s n v).hut = s.hut := rfl
@[simp] theorem setStrm_bur (n : Nat) (v : Strm) : (setStrm s n v).bur = s.bur := rfl
@[simp] theorem setStrm_boot (n : Nat) (v : Strm) : (setStrm s n v).boot = s.boot := rfl
@[simp] theorem setStrm_hif (n : Nat) (v : Strm) : (setStrm s n v).hif = s.hif := rfl
@[simp] theorem setStrm_svc (n : Nat) (v : Strm) : (setStrm s n v).svc = s.svc := rfl
@[simp] theorem setStrm_gang (n : Nat) (v : Strm) : (setStrm s n v).gang = s.gang := rfl
@[simp] theorem setStrm_free (n : Nat) (v : Strm) : (setStrm s n v).free = s.free := rfl

/-! ## setNring -/

@[simp] theorem setNring_pending (k : Nat) (v : Ring) : (setNring s k v).pending = s.pending := rfl
@[simp] theorem setNring_clk (k : Nat) (v : Ring) : (setNring s k v).clk = s.clk := rfl
@[simp] theorem setNring_regs (k : Nat) (v : Ring) : (setNring s k v).regs = s.regs := rfl
@[simp] theorem setNring_pend (k : Nat) (v : Ring) : (setNring s k v).pend = s.pend := rfl
@[simp] theorem setNring_mem (k : Nat) (v : Ring) : (setNring s k v).mem = s.mem := rfl
@[simp] theorem setNring_tc (k : Nat) (v : Ring) : (setNring s k v).tc = s.tc := rfl
@[simp] theorem setNring_phys (k : Nat) (v : Ring) : (setNring s k v).phys = s.phys := rfl
@[simp] theorem setNring_cl (k : Nat) (v : Ring) : (setNring s k v).cl = s.cl := rfl
@[simp] theorem setNring_ctxs (k : Nat) (v : Ring) : (setNring s k v).ctxs = s.ctxs := rfl
@[simp] theorem setNring_sch (k : Nat) (v : Ring) : (setNring s k v).sch = s.sch := rfl
@[simp] theorem setNring_shc (k : Nat) (v : Ring) : (setNring s k v).shc = s.shc := rfl
@[simp] theorem setNring_inval (k : Nat) (v : Ring) : (setNring s k v).inval = s.inval := rfl
@[simp] theorem setNring_invalQ (k : Nat) (v : Ring) : (setNring s k v).invalQ = s.invalQ := rfl
@[simp] theorem setNring_wctr (k : Nat) (v : Ring) : (setNring s k v).wctr = s.wctr := rfl
@[simp] theorem setNring_dma (k : Nat) (v : Ring) : (setNring s k v).dma = s.dma := rfl
@[simp] theorem setNring_kv (k : Nat) (v : Ring) : (setNring s k v).kv = s.kv := rfl
@[simp] theorem setNring_dpo (k : Nat) (v : Ring) : (setNring s k v).dpo = s.dpo := rfl
@[simp] theorem setNring_mot (k : Nat) (v : Ring) : (setNring s k v).mot = s.mot := rfl
@[simp] theorem setNring_sio (k : Nat) (v : Ring) : (setNring s k v).sio = s.sio := rfl
@[simp] theorem setNring_hut (k : Nat) (v : Ring) : (setNring s k v).hut = s.hut := rfl
@[simp] theorem setNring_bur (k : Nat) (v : Ring) : (setNring s k v).bur = s.bur := rfl
@[simp] theorem setNring_boot (k : Nat) (v : Ring) : (setNring s k v).boot = s.boot := rfl
@[simp] theorem setNring_hif (k : Nat) (v : Ring) : (setNring s k v).hif = s.hif := rfl
@[simp] theorem setNring_svc (k : Nat) (v : Ring) : (setNring s k v).svc = s.svc := rfl
@[simp] theorem setNring_gang (k : Nat) (v : Ring) : (setNring s k v).gang = s.gang := rfl
@[simp] theorem setNring_free (k : Nat) (v : Ring) : (setNring s k v).free = s.free := rfl

/-! ## setDpo -/

@[simp] theorem setDpo_pending (d : Nat) (v : Dpo) : (setDpo s d v).pending = s.pending := rfl
@[simp] theorem setDpo_clk (d : Nat) (v : Dpo) : (setDpo s d v).clk = s.clk := rfl
@[simp] theorem setDpo_regs (d : Nat) (v : Dpo) : (setDpo s d v).regs = s.regs := rfl
@[simp] theorem setDpo_pend (d : Nat) (v : Dpo) : (setDpo s d v).pend = s.pend := rfl
@[simp] theorem setDpo_mem (d : Nat) (v : Dpo) : (setDpo s d v).mem = s.mem := rfl
@[simp] theorem setDpo_tc (d : Nat) (v : Dpo) : (setDpo s d v).tc = s.tc := rfl
@[simp] theorem setDpo_phys (d : Nat) (v : Dpo) : (setDpo s d v).phys = s.phys := rfl
@[simp] theorem setDpo_cl (d : Nat) (v : Dpo) : (setDpo s d v).cl = s.cl := rfl
@[simp] theorem setDpo_ctxs (d : Nat) (v : Dpo) : (setDpo s d v).ctxs = s.ctxs := rfl
@[simp] theorem setDpo_sch (d : Nat) (v : Dpo) : (setDpo s d v).sch = s.sch := rfl
@[simp] theorem setDpo_shc (d : Nat) (v : Dpo) : (setDpo s d v).shc = s.shc := rfl
@[simp] theorem setDpo_inval (d : Nat) (v : Dpo) : (setDpo s d v).inval = s.inval := rfl
@[simp] theorem setDpo_invalQ (d : Nat) (v : Dpo) : (setDpo s d v).invalQ = s.invalQ := rfl
@[simp] theorem setDpo_wctr (d : Nat) (v : Dpo) : (setDpo s d v).wctr = s.wctr := rfl
@[simp] theorem setDpo_dma (d : Nat) (v : Dpo) : (setDpo s d v).dma = s.dma := rfl
@[simp] theorem setDpo_kv (d : Nat) (v : Dpo) : (setDpo s d v).kv = s.kv := rfl
@[simp] theorem setDpo_ing (d : Nat) (v : Dpo) : (setDpo s d v).ing = s.ing := rfl
@[simp] theorem setDpo_mot (d : Nat) (v : Dpo) : (setDpo s d v).mot = s.mot := rfl
@[simp] theorem setDpo_sio (d : Nat) (v : Dpo) : (setDpo s d v).sio = s.sio := rfl
@[simp] theorem setDpo_hut (d : Nat) (v : Dpo) : (setDpo s d v).hut = s.hut := rfl
@[simp] theorem setDpo_bur (d : Nat) (v : Dpo) : (setDpo s d v).bur = s.bur := rfl
@[simp] theorem setDpo_boot (d : Nat) (v : Dpo) : (setDpo s d v).boot = s.boot := rfl
@[simp] theorem setDpo_hif (d : Nat) (v : Dpo) : (setDpo s d v).hif = s.hif := rfl
@[simp] theorem setDpo_svc (d : Nat) (v : Dpo) : (setDpo s d v).svc = s.svc := rfl
@[simp] theorem setDpo_gang (d : Nat) (v : Dpo) : (setDpo s d v).gang = s.gang := rfl
@[simp] theorem setDpo_free (d : Nat) (v : Dpo) : (setDpo s d v).free = s.free := rfl

/-! ## setMport -/

@[simp] theorem setMport_pending (m : Nat) (v : MPort) : (setMport s m v).pending = s.pending := rfl
@[simp] theorem setMport_clk (m : Nat) (v : MPort) : (setMport s m v).clk = s.clk := rfl
@[simp] theorem setMport_regs (m : Nat) (v : MPort) : (setMport s m v).regs = s.regs := rfl
@[simp] theorem setMport_pend (m : Nat) (v : MPort) : (setMport s m v).pend = s.pend := rfl
@[simp] theorem setMport_mem (m : Nat) (v : MPort) : (setMport s m v).mem = s.mem := rfl
@[simp] theorem setMport_tc (m : Nat) (v : MPort) : (setMport s m v).tc = s.tc := rfl
@[simp] theorem setMport_phys (m : Nat) (v : MPort) : (setMport s m v).phys = s.phys := rfl
@[simp] theorem setMport_cl (m : Nat) (v : MPort) : (setMport s m v).cl = s.cl := rfl
@[simp] theorem setMport_ctxs (m : Nat) (v : MPort) : (setMport s m v).ctxs = s.ctxs := rfl
@[simp] theorem setMport_sch (m : Nat) (v : MPort) : (setMport s m v).sch = s.sch := rfl
@[simp] theorem setMport_shc (m : Nat) (v : MPort) : (setMport s m v).shc = s.shc := rfl
@[simp] theorem setMport_inval (m : Nat) (v : MPort) : (setMport s m v).inval = s.inval := rfl
@[simp] theorem setMport_invalQ (m : Nat) (v : MPort) : (setMport s m v).invalQ = s.invalQ := rfl
@[simp] theorem setMport_wctr (m : Nat) (v : MPort) : (setMport s m v).wctr = s.wctr := rfl
@[simp] theorem setMport_dma (m : Nat) (v : MPort) : (setMport s m v).dma = s.dma := rfl
@[simp] theorem setMport_kv (m : Nat) (v : MPort) : (setMport s m v).kv = s.kv := rfl
@[simp] theorem setMport_ing (m : Nat) (v : MPort) : (setMport s m v).ing = s.ing := rfl
@[simp] theorem setMport_dpo (m : Nat) (v : MPort) : (setMport s m v).dpo = s.dpo := rfl
@[simp] theorem setMport_sio (m : Nat) (v : MPort) : (setMport s m v).sio = s.sio := rfl
@[simp] theorem setMport_hut (m : Nat) (v : MPort) : (setMport s m v).hut = s.hut := rfl
@[simp] theorem setMport_bur (m : Nat) (v : MPort) : (setMport s m v).bur = s.bur := rfl
@[simp] theorem setMport_boot (m : Nat) (v : MPort) : (setMport s m v).boot = s.boot := rfl
@[simp] theorem setMport_hif (m : Nat) (v : MPort) : (setMport s m v).hif = s.hif := rfl
@[simp] theorem setMport_svc (m : Nat) (v : MPort) : (setMport s m v).svc = s.svc := rfl
@[simp] theorem setMport_gang (m : Nat) (v : MPort) : (setMport s m v).gang = s.gang := rfl
@[simp] theorem setMport_free (m : Nat) (v : MPort) : (setMport s m v).free = s.free := rfl

/-! ## setMaxis -/

@[simp] theorem setMaxis_pending (a : Nat) (v : MAxis) : (setMaxis s a v).pending = s.pending := rfl
@[simp] theorem setMaxis_clk (a : Nat) (v : MAxis) : (setMaxis s a v).clk = s.clk := rfl
@[simp] theorem setMaxis_regs (a : Nat) (v : MAxis) : (setMaxis s a v).regs = s.regs := rfl
@[simp] theorem setMaxis_pend (a : Nat) (v : MAxis) : (setMaxis s a v).pend = s.pend := rfl
@[simp] theorem setMaxis_mem (a : Nat) (v : MAxis) : (setMaxis s a v).mem = s.mem := rfl
@[simp] theorem setMaxis_tc (a : Nat) (v : MAxis) : (setMaxis s a v).tc = s.tc := rfl
@[simp] theorem setMaxis_phys (a : Nat) (v : MAxis) : (setMaxis s a v).phys = s.phys := rfl
@[simp] theorem setMaxis_cl (a : Nat) (v : MAxis) : (setMaxis s a v).cl = s.cl := rfl
@[simp] theorem setMaxis_ctxs (a : Nat) (v : MAxis) : (setMaxis s a v).ctxs = s.ctxs := rfl
@[simp] theorem setMaxis_sch (a : Nat) (v : MAxis) : (setMaxis s a v).sch = s.sch := rfl
@[simp] theorem setMaxis_shc (a : Nat) (v : MAxis) : (setMaxis s a v).shc = s.shc := rfl
@[simp] theorem setMaxis_inval (a : Nat) (v : MAxis) : (setMaxis s a v).inval = s.inval := rfl
@[simp] theorem setMaxis_invalQ (a : Nat) (v : MAxis) : (setMaxis s a v).invalQ = s.invalQ := rfl
@[simp] theorem setMaxis_wctr (a : Nat) (v : MAxis) : (setMaxis s a v).wctr = s.wctr := rfl
@[simp] theorem setMaxis_dma (a : Nat) (v : MAxis) : (setMaxis s a v).dma = s.dma := rfl
@[simp] theorem setMaxis_kv (a : Nat) (v : MAxis) : (setMaxis s a v).kv = s.kv := rfl
@[simp] theorem setMaxis_ing (a : Nat) (v : MAxis) : (setMaxis s a v).ing = s.ing := rfl
@[simp] theorem setMaxis_dpo (a : Nat) (v : MAxis) : (setMaxis s a v).dpo = s.dpo := rfl
@[simp] theorem setMaxis_sio (a : Nat) (v : MAxis) : (setMaxis s a v).sio = s.sio := rfl
@[simp] theorem setMaxis_hut (a : Nat) (v : MAxis) : (setMaxis s a v).hut = s.hut := rfl
@[simp] theorem setMaxis_bur (a : Nat) (v : MAxis) : (setMaxis s a v).bur = s.bur := rfl
@[simp] theorem setMaxis_boot (a : Nat) (v : MAxis) : (setMaxis s a v).boot = s.boot := rfl
@[simp] theorem setMaxis_hif (a : Nat) (v : MAxis) : (setMaxis s a v).hif = s.hif := rfl
@[simp] theorem setMaxis_svc (a : Nat) (v : MAxis) : (setMaxis s a v).svc = s.svc := rfl
@[simp] theorem setMaxis_gang (a : Nat) (v : MAxis) : (setMaxis s a v).gang = s.gang := rfl
@[simp] theorem setMaxis_free (a : Nat) (v : MAxis) : (setMaxis s a v).free = s.free := rfl

/-! ## setGrp -/

@[simp] theorem setGrp_pending (g : Nat) (v : Grp) : (setGrp s g v).pending = s.pending := rfl
@[simp] theorem setGrp_clk (g : Nat) (v : Grp) : (setGrp s g v).clk = s.clk := rfl
@[simp] theorem setGrp_regs (g : Nat) (v : Grp) : (setGrp s g v).regs = s.regs := rfl
@[simp] theorem setGrp_pend (g : Nat) (v : Grp) : (setGrp s g v).pend = s.pend := rfl
@[simp] theorem setGrp_mem (g : Nat) (v : Grp) : (setGrp s g v).mem = s.mem := rfl
@[simp] theorem setGrp_tc (g : Nat) (v : Grp) : (setGrp s g v).tc = s.tc := rfl
@[simp] theorem setGrp_phys (g : Nat) (v : Grp) : (setGrp s g v).phys = s.phys := rfl
@[simp] theorem setGrp_cl (g : Nat) (v : Grp) : (setGrp s g v).cl = s.cl := rfl
@[simp] theorem setGrp_ctxs (g : Nat) (v : Grp) : (setGrp s g v).ctxs = s.ctxs := rfl
@[simp] theorem setGrp_sch (g : Nat) (v : Grp) : (setGrp s g v).sch = s.sch := rfl
@[simp] theorem setGrp_shc (g : Nat) (v : Grp) : (setGrp s g v).shc = s.shc := rfl
@[simp] theorem setGrp_inval (g : Nat) (v : Grp) : (setGrp s g v).inval = s.inval := rfl
@[simp] theorem setGrp_invalQ (g : Nat) (v : Grp) : (setGrp s g v).invalQ = s.invalQ := rfl
@[simp] theorem setGrp_wctr (g : Nat) (v : Grp) : (setGrp s g v).wctr = s.wctr := rfl
@[simp] theorem setGrp_dma (g : Nat) (v : Grp) : (setGrp s g v).dma = s.dma := rfl
@[simp] theorem setGrp_kv (g : Nat) (v : Grp) : (setGrp s g v).kv = s.kv := rfl
@[simp] theorem setGrp_ing (g : Nat) (v : Grp) : (setGrp s g v).ing = s.ing := rfl
@[simp] theorem setGrp_dpo (g : Nat) (v : Grp) : (setGrp s g v).dpo = s.dpo := rfl
@[simp] theorem setGrp_mot (g : Nat) (v : Grp) : (setGrp s g v).mot = s.mot := rfl
@[simp] theorem setGrp_hut (g : Nat) (v : Grp) : (setGrp s g v).hut = s.hut := rfl
@[simp] theorem setGrp_bur (g : Nat) (v : Grp) : (setGrp s g v).bur = s.bur := rfl
@[simp] theorem setGrp_boot (g : Nat) (v : Grp) : (setGrp s g v).boot = s.boot := rfl
@[simp] theorem setGrp_hif (g : Nat) (v : Grp) : (setGrp s g v).hif = s.hif := rfl
@[simp] theorem setGrp_svc (g : Nat) (v : Grp) : (setGrp s g v).svc = s.svc := rfl
@[simp] theorem setGrp_gang (g : Nat) (v : Grp) : (setGrp s g v).gang = s.gang := rfl
@[simp] theorem setGrp_free (g : Nat) (v : Grp) : (setGrp s g v).free = s.free := rfl

/-! ## setSin -/

@[simp] theorem setSin_pending (i : Nat) (v : SIn) : (setSin s i v).pending = s.pending := rfl
@[simp] theorem setSin_clk (i : Nat) (v : SIn) : (setSin s i v).clk = s.clk := rfl
@[simp] theorem setSin_regs (i : Nat) (v : SIn) : (setSin s i v).regs = s.regs := rfl
@[simp] theorem setSin_pend (i : Nat) (v : SIn) : (setSin s i v).pend = s.pend := rfl
@[simp] theorem setSin_mem (i : Nat) (v : SIn) : (setSin s i v).mem = s.mem := rfl
@[simp] theorem setSin_tc (i : Nat) (v : SIn) : (setSin s i v).tc = s.tc := rfl
@[simp] theorem setSin_phys (i : Nat) (v : SIn) : (setSin s i v).phys = s.phys := rfl
@[simp] theorem setSin_cl (i : Nat) (v : SIn) : (setSin s i v).cl = s.cl := rfl
@[simp] theorem setSin_ctxs (i : Nat) (v : SIn) : (setSin s i v).ctxs = s.ctxs := rfl
@[simp] theorem setSin_sch (i : Nat) (v : SIn) : (setSin s i v).sch = s.sch := rfl
@[simp] theorem setSin_shc (i : Nat) (v : SIn) : (setSin s i v).shc = s.shc := rfl
@[simp] theorem setSin_inval (i : Nat) (v : SIn) : (setSin s i v).inval = s.inval := rfl
@[simp] theorem setSin_invalQ (i : Nat) (v : SIn) : (setSin s i v).invalQ = s.invalQ := rfl
@[simp] theorem setSin_wctr (i : Nat) (v : SIn) : (setSin s i v).wctr = s.wctr := rfl
@[simp] theorem setSin_dma (i : Nat) (v : SIn) : (setSin s i v).dma = s.dma := rfl
@[simp] theorem setSin_kv (i : Nat) (v : SIn) : (setSin s i v).kv = s.kv := rfl
@[simp] theorem setSin_ing (i : Nat) (v : SIn) : (setSin s i v).ing = s.ing := rfl
@[simp] theorem setSin_dpo (i : Nat) (v : SIn) : (setSin s i v).dpo = s.dpo := rfl
@[simp] theorem setSin_mot (i : Nat) (v : SIn) : (setSin s i v).mot = s.mot := rfl
@[simp] theorem setSin_hut (i : Nat) (v : SIn) : (setSin s i v).hut = s.hut := rfl
@[simp] theorem setSin_bur (i : Nat) (v : SIn) : (setSin s i v).bur = s.bur := rfl
@[simp] theorem setSin_boot (i : Nat) (v : SIn) : (setSin s i v).boot = s.boot := rfl
@[simp] theorem setSin_hif (i : Nat) (v : SIn) : (setSin s i v).hif = s.hif := rfl
@[simp] theorem setSin_svc (i : Nat) (v : SIn) : (setSin s i v).svc = s.svc := rfl
@[simp] theorem setSin_gang (i : Nat) (v : SIn) : (setSin s i v).gang = s.gang := rfl
@[simp] theorem setSin_free (i : Nat) (v : SIn) : (setSin s i v).free = s.free := rfl

/-! ## setSout -/

@[simp] theorem setSout_pending (i : Nat) (v : SOut) : (setSout s i v).pending = s.pending := rfl
@[simp] theorem setSout_clk (i : Nat) (v : SOut) : (setSout s i v).clk = s.clk := rfl
@[simp] theorem setSout_regs (i : Nat) (v : SOut) : (setSout s i v).regs = s.regs := rfl
@[simp] theorem setSout_pend (i : Nat) (v : SOut) : (setSout s i v).pend = s.pend := rfl
@[simp] theorem setSout_mem (i : Nat) (v : SOut) : (setSout s i v).mem = s.mem := rfl
@[simp] theorem setSout_tc (i : Nat) (v : SOut) : (setSout s i v).tc = s.tc := rfl
@[simp] theorem setSout_phys (i : Nat) (v : SOut) : (setSout s i v).phys = s.phys := rfl
@[simp] theorem setSout_cl (i : Nat) (v : SOut) : (setSout s i v).cl = s.cl := rfl
@[simp] theorem setSout_ctxs (i : Nat) (v : SOut) : (setSout s i v).ctxs = s.ctxs := rfl
@[simp] theorem setSout_sch (i : Nat) (v : SOut) : (setSout s i v).sch = s.sch := rfl
@[simp] theorem setSout_shc (i : Nat) (v : SOut) : (setSout s i v).shc = s.shc := rfl
@[simp] theorem setSout_inval (i : Nat) (v : SOut) : (setSout s i v).inval = s.inval := rfl
@[simp] theorem setSout_invalQ (i : Nat) (v : SOut) : (setSout s i v).invalQ = s.invalQ := rfl
@[simp] theorem setSout_wctr (i : Nat) (v : SOut) : (setSout s i v).wctr = s.wctr := rfl
@[simp] theorem setSout_dma (i : Nat) (v : SOut) : (setSout s i v).dma = s.dma := rfl
@[simp] theorem setSout_kv (i : Nat) (v : SOut) : (setSout s i v).kv = s.kv := rfl
@[simp] theorem setSout_ing (i : Nat) (v : SOut) : (setSout s i v).ing = s.ing := rfl
@[simp] theorem setSout_dpo (i : Nat) (v : SOut) : (setSout s i v).dpo = s.dpo := rfl
@[simp] theorem setSout_mot (i : Nat) (v : SOut) : (setSout s i v).mot = s.mot := rfl
@[simp] theorem setSout_hut (i : Nat) (v : SOut) : (setSout s i v).hut = s.hut := rfl
@[simp] theorem setSout_bur (i : Nat) (v : SOut) : (setSout s i v).bur = s.bur := rfl
@[simp] theorem setSout_boot (i : Nat) (v : SOut) : (setSout s i v).boot = s.boot := rfl
@[simp] theorem setSout_hif (i : Nat) (v : SOut) : (setSout s i v).hif = s.hif := rfl
@[simp] theorem setSout_svc (i : Nat) (v : SOut) : (setSout s i v).svc = s.svc := rfl
@[simp] theorem setSout_gang (i : Nat) (v : SOut) : (setSout s i v).gang = s.gang := rfl
@[simp] theorem setSout_free (i : Nat) (v : SOut) : (setSout s i v).free = s.free := rfl

/-! ## modHzone -/

@[simp] theorem modHzone_pending (z : Nat) (f : HZone → HZone) : (modHzone s z f).pending = s.pending := rfl
@[simp] theorem modHzone_clk (z : Nat) (f : HZone → HZone) : (modHzone s z f).clk = s.clk := rfl
@[simp] theorem modHzone_regs (z : Nat) (f : HZone → HZone) : (modHzone s z f).regs = s.regs := rfl
@[simp] theorem modHzone_pend (z : Nat) (f : HZone → HZone) : (modHzone s z f).pend = s.pend := rfl
@[simp] theorem modHzone_mem (z : Nat) (f : HZone → HZone) : (modHzone s z f).mem = s.mem := rfl
@[simp] theorem modHzone_tc (z : Nat) (f : HZone → HZone) : (modHzone s z f).tc = s.tc := rfl
@[simp] theorem modHzone_phys (z : Nat) (f : HZone → HZone) : (modHzone s z f).phys = s.phys := rfl
@[simp] theorem modHzone_cl (z : Nat) (f : HZone → HZone) : (modHzone s z f).cl = s.cl := rfl
@[simp] theorem modHzone_ctxs (z : Nat) (f : HZone → HZone) : (modHzone s z f).ctxs = s.ctxs := rfl
@[simp] theorem modHzone_sch (z : Nat) (f : HZone → HZone) : (modHzone s z f).sch = s.sch := rfl
@[simp] theorem modHzone_shc (z : Nat) (f : HZone → HZone) : (modHzone s z f).shc = s.shc := rfl
@[simp] theorem modHzone_inval (z : Nat) (f : HZone → HZone) : (modHzone s z f).inval = s.inval := rfl
@[simp] theorem modHzone_invalQ (z : Nat) (f : HZone → HZone) : (modHzone s z f).invalQ = s.invalQ := rfl
@[simp] theorem modHzone_wctr (z : Nat) (f : HZone → HZone) : (modHzone s z f).wctr = s.wctr := rfl
@[simp] theorem modHzone_dma (z : Nat) (f : HZone → HZone) : (modHzone s z f).dma = s.dma := rfl
@[simp] theorem modHzone_kv (z : Nat) (f : HZone → HZone) : (modHzone s z f).kv = s.kv := rfl
@[simp] theorem modHzone_ing (z : Nat) (f : HZone → HZone) : (modHzone s z f).ing = s.ing := rfl
@[simp] theorem modHzone_dpo (z : Nat) (f : HZone → HZone) : (modHzone s z f).dpo = s.dpo := rfl
@[simp] theorem modHzone_mot (z : Nat) (f : HZone → HZone) : (modHzone s z f).mot = s.mot := rfl
@[simp] theorem modHzone_sio (z : Nat) (f : HZone → HZone) : (modHzone s z f).sio = s.sio := rfl
@[simp] theorem modHzone_bur (z : Nat) (f : HZone → HZone) : (modHzone s z f).bur = s.bur := rfl
@[simp] theorem modHzone_boot (z : Nat) (f : HZone → HZone) : (modHzone s z f).boot = s.boot := rfl
@[simp] theorem modHzone_hif (z : Nat) (f : HZone → HZone) : (modHzone s z f).hif = s.hif := rfl
@[simp] theorem modHzone_svc (z : Nat) (f : HZone → HZone) : (modHzone s z f).svc = s.svc := rfl
@[simp] theorem modHzone_gang (z : Nat) (f : HZone → HZone) : (modHzone s z f).gang = s.gang := rfl
@[simp] theorem modHzone_free (z : Nat) (f : HZone → HZone) : (modHzone s z f).free = s.free := rfl

/-! ## clearDiffs -/

@[simp] theorem clearDiffs_pending : (clearDiffs s).pending = s.pending := rfl
@[simp] theorem clearDiffs_clk : (clearDiffs s).clk = s.clk := rfl
@[simp] theorem clearDiffs_regs : (clearDiffs s).regs = s.regs := rfl
@[simp] theorem clearDiffs_pend : (clearDiffs s).pend = s.pend := rfl
@[simp] theorem clearDiffs_mem : (clearDiffs s).mem = s.mem := rfl
@[simp] theorem clearDiffs_tc : (clearDiffs s).tc = s.tc := rfl
@[simp] theorem clearDiffs_phys : (clearDiffs s).phys = s.phys := rfl
@[simp] theorem clearDiffs_cl : (clearDiffs s).cl = s.cl := rfl
@[simp] theorem clearDiffs_ctxs : (clearDiffs s).ctxs = s.ctxs := rfl
@[simp] theorem clearDiffs_sch : (clearDiffs s).sch = s.sch := rfl
@[simp] theorem clearDiffs_shc : (clearDiffs s).shc = s.shc := rfl
@[simp] theorem clearDiffs_inval : (clearDiffs s).inval = s.inval := rfl
@[simp] theorem clearDiffs_invalQ : (clearDiffs s).invalQ = s.invalQ := rfl
@[simp] theorem clearDiffs_wctr : (clearDiffs s).wctr = s.wctr := rfl
@[simp] theorem clearDiffs_dma : (clearDiffs s).dma = s.dma := rfl
@[simp] theorem clearDiffs_kv : (clearDiffs s).kv = s.kv := rfl
@[simp] theorem clearDiffs_ing : (clearDiffs s).ing = s.ing := rfl
@[simp] theorem clearDiffs_dpo : (clearDiffs s).dpo = s.dpo := rfl
@[simp] theorem clearDiffs_mot : (clearDiffs s).mot = s.mot := rfl
@[simp] theorem clearDiffs_sio : (clearDiffs s).sio = s.sio := rfl
@[simp] theorem clearDiffs_bur : (clearDiffs s).bur = s.bur := rfl
@[simp] theorem clearDiffs_boot : (clearDiffs s).boot = s.boot := rfl
@[simp] theorem clearDiffs_hif : (clearDiffs s).hif = s.hif := rfl
@[simp] theorem clearDiffs_svc : (clearDiffs s).svc = s.svc := rfl
@[simp] theorem clearDiffs_gang : (clearDiffs s).gang = s.gang := rfl
@[simp] theorem clearDiffs_free : (clearDiffs s).free = s.free := rfl

/-! ## noteEvent -/

@[simp] theorem noteEvent_pending (src : EventSource) (code arg : Nat) : (noteEvent src code arg s).pending = s.pending := rfl
@[simp] theorem noteEvent_clk (src : EventSource) (code arg : Nat) : (noteEvent src code arg s).clk = s.clk := rfl
@[simp] theorem noteEvent_regs (src : EventSource) (code arg : Nat) : (noteEvent src code arg s).regs = s.regs := rfl
@[simp] theorem noteEvent_pend (src : EventSource) (code arg : Nat) : (noteEvent src code arg s).pend = s.pend := rfl
@[simp] theorem noteEvent_mem (src : EventSource) (code arg : Nat) : (noteEvent src code arg s).mem = s.mem := rfl
@[simp] theorem noteEvent_tc (src : EventSource) (code arg : Nat) : (noteEvent src code arg s).tc = s.tc := rfl
@[simp] theorem noteEvent_phys (src : EventSource) (code arg : Nat) : (noteEvent src code arg s).phys = s.phys := rfl
@[simp] theorem noteEvent_cl (src : EventSource) (code arg : Nat) : (noteEvent src code arg s).cl = s.cl := rfl
@[simp] theorem noteEvent_ctxs (src : EventSource) (code arg : Nat) : (noteEvent src code arg s).ctxs = s.ctxs := rfl
@[simp] theorem noteEvent_sch (src : EventSource) (code arg : Nat) : (noteEvent src code arg s).sch = s.sch := rfl
@[simp] theorem noteEvent_shc (src : EventSource) (code arg : Nat) : (noteEvent src code arg s).shc = s.shc := rfl
@[simp] theorem noteEvent_inval (src : EventSource) (code arg : Nat) : (noteEvent src code arg s).inval = s.inval := rfl
@[simp] theorem noteEvent_invalQ (src : EventSource) (code arg : Nat) : (noteEvent src code arg s).invalQ = s.invalQ := rfl
@[simp] theorem noteEvent_wctr (src : EventSource) (code arg : Nat) : (noteEvent src code arg s).wctr = s.wctr := rfl
@[simp] theorem noteEvent_dma (src : EventSource) (code arg : Nat) : (noteEvent src code arg s).dma = s.dma := rfl
@[simp] theorem noteEvent_kv (src : EventSource) (code arg : Nat) : (noteEvent src code arg s).kv = s.kv := rfl
@[simp] theorem noteEvent_ing (src : EventSource) (code arg : Nat) : (noteEvent src code arg s).ing = s.ing := rfl
@[simp] theorem noteEvent_dpo (src : EventSource) (code arg : Nat) : (noteEvent src code arg s).dpo = s.dpo := rfl
@[simp] theorem noteEvent_mot (src : EventSource) (code arg : Nat) : (noteEvent src code arg s).mot = s.mot := rfl
@[simp] theorem noteEvent_sio (src : EventSource) (code arg : Nat) : (noteEvent src code arg s).sio = s.sio := rfl
@[simp] theorem noteEvent_hut (src : EventSource) (code arg : Nat) : (noteEvent src code arg s).hut = s.hut := rfl
@[simp] theorem noteEvent_bur (src : EventSource) (code arg : Nat) : (noteEvent src code arg s).bur = s.bur := rfl
@[simp] theorem noteEvent_boot (src : EventSource) (code arg : Nat) : (noteEvent src code arg s).boot = s.boot := rfl
@[simp] theorem noteEvent_hif (src : EventSource) (code arg : Nat) : (noteEvent src code arg s).hif = s.hif := rfl
@[simp] theorem noteEvent_gang (src : EventSource) (code arg : Nat) : (noteEvent src code arg s).gang = s.gang := rfl
@[simp] theorem noteEvent_free (src : EventSource) (code arg : Nat) : (noteEvent src code arg s).free = s.free := rfl

/-! ## setGold -/

@[simp] theorem setGold_pending (e : Nat) (v : Gold) : (setGold s e v).pending = s.pending := rfl
@[simp] theorem setGold_clk (e : Nat) (v : Gold) : (setGold s e v).clk = s.clk := rfl
@[simp] theorem setGold_regs (e : Nat) (v : Gold) : (setGold s e v).regs = s.regs := rfl
@[simp] theorem setGold_pend (e : Nat) (v : Gold) : (setGold s e v).pend = s.pend := rfl
@[simp] theorem setGold_mem (e : Nat) (v : Gold) : (setGold s e v).mem = s.mem := rfl
@[simp] theorem setGold_tc (e : Nat) (v : Gold) : (setGold s e v).tc = s.tc := rfl
@[simp] theorem setGold_phys (e : Nat) (v : Gold) : (setGold s e v).phys = s.phys := rfl
@[simp] theorem setGold_cl (e : Nat) (v : Gold) : (setGold s e v).cl = s.cl := rfl
@[simp] theorem setGold_ctxs (e : Nat) (v : Gold) : (setGold s e v).ctxs = s.ctxs := rfl
@[simp] theorem setGold_sch (e : Nat) (v : Gold) : (setGold s e v).sch = s.sch := rfl
@[simp] theorem setGold_shc (e : Nat) (v : Gold) : (setGold s e v).shc = s.shc := rfl
@[simp] theorem setGold_inval (e : Nat) (v : Gold) : (setGold s e v).inval = s.inval := rfl
@[simp] theorem setGold_invalQ (e : Nat) (v : Gold) : (setGold s e v).invalQ = s.invalQ := rfl
@[simp] theorem setGold_wctr (e : Nat) (v : Gold) : (setGold s e v).wctr = s.wctr := rfl
@[simp] theorem setGold_dma (e : Nat) (v : Gold) : (setGold s e v).dma = s.dma := rfl
@[simp] theorem setGold_kv (e : Nat) (v : Gold) : (setGold s e v).kv = s.kv := rfl
@[simp] theorem setGold_ing (e : Nat) (v : Gold) : (setGold s e v).ing = s.ing := rfl
@[simp] theorem setGold_dpo (e : Nat) (v : Gold) : (setGold s e v).dpo = s.dpo := rfl
@[simp] theorem setGold_mot (e : Nat) (v : Gold) : (setGold s e v).mot = s.mot := rfl
@[simp] theorem setGold_sio (e : Nat) (v : Gold) : (setGold s e v).sio = s.sio := rfl
@[simp] theorem setGold_bur (e : Nat) (v : Gold) : (setGold s e v).bur = s.bur := rfl
@[simp] theorem setGold_boot (e : Nat) (v : Gold) : (setGold s e v).boot = s.boot := rfl
@[simp] theorem setGold_hif (e : Nat) (v : Gold) : (setGold s e v).hif = s.hif := rfl
@[simp] theorem setGold_svc (e : Nat) (v : Gold) : (setGold s e v).svc = s.svc := rfl
@[simp] theorem setGold_gang (e : Nat) (v : Gold) : (setGold s e v).gang = s.gang := rfl
@[simp] theorem setGold_free (e : Nat) (v : Gold) : (setGold s e v).free = s.free := rfl

/-! ## setTr -/

@[simp] theorem setTr_pending (r : Nat) (v : Nat × Nat) : (setTr s r v).pending = s.pending := rfl
@[simp] theorem setTr_clk (r : Nat) (v : Nat × Nat) : (setTr s r v).clk = s.clk := rfl
@[simp] theorem setTr_regs (r : Nat) (v : Nat × Nat) : (setTr s r v).regs = s.regs := rfl
@[simp] theorem setTr_pend (r : Nat) (v : Nat × Nat) : (setTr s r v).pend = s.pend := rfl
@[simp] theorem setTr_mem (r : Nat) (v : Nat × Nat) : (setTr s r v).mem = s.mem := rfl
@[simp] theorem setTr_tc (r : Nat) (v : Nat × Nat) : (setTr s r v).tc = s.tc := rfl
@[simp] theorem setTr_phys (r : Nat) (v : Nat × Nat) : (setTr s r v).phys = s.phys := rfl
@[simp] theorem setTr_cl (r : Nat) (v : Nat × Nat) : (setTr s r v).cl = s.cl := rfl
@[simp] theorem setTr_ctxs (r : Nat) (v : Nat × Nat) : (setTr s r v).ctxs = s.ctxs := rfl
@[simp] theorem setTr_sch (r : Nat) (v : Nat × Nat) : (setTr s r v).sch = s.sch := rfl
@[simp] theorem setTr_shc (r : Nat) (v : Nat × Nat) : (setTr s r v).shc = s.shc := rfl
@[simp] theorem setTr_inval (r : Nat) (v : Nat × Nat) : (setTr s r v).inval = s.inval := rfl
@[simp] theorem setTr_invalQ (r : Nat) (v : Nat × Nat) : (setTr s r v).invalQ = s.invalQ := rfl
@[simp] theorem setTr_wctr (r : Nat) (v : Nat × Nat) : (setTr s r v).wctr = s.wctr := rfl
@[simp] theorem setTr_dma (r : Nat) (v : Nat × Nat) : (setTr s r v).dma = s.dma := rfl
@[simp] theorem setTr_kv (r : Nat) (v : Nat × Nat) : (setTr s r v).kv = s.kv := rfl
@[simp] theorem setTr_ing (r : Nat) (v : Nat × Nat) : (setTr s r v).ing = s.ing := rfl
@[simp] theorem setTr_dpo (r : Nat) (v : Nat × Nat) : (setTr s r v).dpo = s.dpo := rfl
@[simp] theorem setTr_mot (r : Nat) (v : Nat × Nat) : (setTr s r v).mot = s.mot := rfl
@[simp] theorem setTr_sio (r : Nat) (v : Nat × Nat) : (setTr s r v).sio = s.sio := rfl
@[simp] theorem setTr_hut (r : Nat) (v : Nat × Nat) : (setTr s r v).hut = s.hut := rfl
@[simp] theorem setTr_bur (r : Nat) (v : Nat × Nat) : (setTr s r v).bur = s.bur := rfl
@[simp] theorem setTr_boot (r : Nat) (v : Nat × Nat) : (setTr s r v).boot = s.boot := rfl
@[simp] theorem setTr_svc (r : Nat) (v : Nat × Nat) : (setTr s r v).svc = s.svc := rfl
@[simp] theorem setTr_gang (r : Nat) (v : Nat × Nat) : (setTr s r v).gang = s.gang := rfl
@[simp] theorem setTr_free (r : Nat) (v : Nat × Nat) : (setTr s r v).free = s.free := rfl

/-! ## What reading gives after an update -/

@[simp] theorem advance_tb (t : Time) : (advance s t).clk.tb = max s.clk.tb t := rfl
@[simp] theorem rd_advance (t : Time) (o : Nat) : rd (advance s t) o = rd s o := rfl
@[simp] theorem fld_advance (t : Time) (o lo w : Nat) : fld (advance s t) o lo w = fld s o lo w := rfl
@[simp] theorem flag_advance (t : Time) (o b : Nat) : flag (advance s t) o b = flag s o b := rfl
@[simp] theorem rd_stage (o : Nat) (v : Word) (p : Nat) : rd (stage s o v) p = rd s p := rfl

/-- A register reads as it was written. -/
@[simp] theorem rd_wrReg_same (o : Nat) (v : Word) : rd (wrReg s o v) o = v := by simp [rd, wrReg]

/-- Writing a register leaves the others alone. -/
theorem rd_wrReg_ne (o p : Nat) (v : Word) (h : canonOff p ≠ canonOff o) : rd (wrReg s o v) p = rd s p := by
  simp [rd, wrReg, tget?_tset_ne _ _ _ _ h]

theorem rd_setFld_same (o lo w v : Nat) : rd (setFld s o lo w v) o = putField (rd s o) lo w v := by simp [setFld]

theorem rd_setFld_ne (o p lo w v : Nat) (h : canonOff p ≠ canonOff o) : rd (setFld s o lo w v) p = rd s p :=
  rd_wrReg_ne s o p _ h

/-- A field reads as it was put. -/
theorem fld_setFld_same (o lo w v : Nat) (h : lo + w ≤ 32) : fld (setFld s o lo w v) o lo w = v % 2 ^ w := by
  simp only [fld, rd_setFld_same]; exact fieldOf_putField_same _ _ _ _ h

/-- Putting a field leaves the other fields of the word alone. -/
theorem fld_setFld_ne (o lo w v lo' w' : Nat) (hd : lo' + w' ≤ lo ∨ lo + w ≤ lo') :
    fld (setFld s o lo w v) o lo' w' = fld s o lo' w' := by
  simp only [fld, rd_setFld_same]; exact fieldOf_putField_ne _ _ _ _ _ _ hd

/-- A counter reads one more, modulo 2³² (R501). -/
theorem rd_bump (o : Nat) : rd (bump s o) o = rd s o + 1 := by simp [bump, bumpBy]

/-- A signal adds to its token modulo 2³² (R158). -/
theorem token_signal (k n : Nat) (v : Word) : token (signal s k n v) k n = token s k n + v := by
  show rd (wrReg s (tokOff k n) _) (tokOff k n) = _
  rw [rd_wrReg_same]

/-- The last word staged is the one that a read returns (R12). -/
@[simp] theorem stagedNow_stage (o : Nat) (v : Word) : stagedNow (stage s o v) o = some v := by simp [stagedNow, stage, tmod]

/-! ## Memory -/

/-- Bytes stored read back (R10). -/
theorem rdMem_wrMem (a : Nat) (bs : List Byte) (h : cellsWf memDefault s.mem = true) : rdMem (wrMem s a bs) a bs.length = bs :=
  mgets_msets _ _ _ _ h

/-- A store leaves every byte outside it alone. -/
theorem mget_wrMem_out (a b : Nat) (bs : List Byte) (h : b < a ∨ a + bs.length ≤ b) :
    mget memDefault (wrMem s a bs).mem b = mget memDefault s.mem b := mget_msets_out _ _ _ _ _ h

/-- A store keeps the canonical form. -/
theorem wrMem_wf (a : Nat) (bs : List Byte) (h : cellsWf memDefault s.mem = true) : cellsWf memDefault (wrMem s a bs).mem = true :=
  cellsWf_msets _ _ _ _ h

theorem wrLE_wf (a n v : Nat) (h : cellsWf memDefault s.mem = true) : cellsWf memDefault (wrLE s a n v).mem = true :=
  cellsWf_msets _ _ _ _ h

theorem zeroMem_wf (a n : Nat) (h : cellsWf memDefault s.mem = true) : cellsWf memDefault (zeroMem s a n).mem = true :=
  cellsWf_mclear _ _ _ _ h

/-! ## Tables of units -/

@[simp] theorem ctxOf_setCtx (p n : Nat) (v : Ctx) : ctxOf (setCtx s p n v) p n = v := by simp [ctxOf, setCtx]
@[simp] theorem coreOf_setCore (l : Nat) (v : LCore) : coreOf (setCore s l v) l = v := by simp [coreOf, setCore]
theorem coreOf_setCore_ne (l m : Nat) (v : LCore) (h : m ≠ l) : coreOf (setCore s l v) m = coreOf s m := by
  simp [coreOf, setCore, tget_tset_ne _ _ _ _ _ h]
@[simp] theorem clOf_setCl (c : Nat) (v : Cluster) : clOf (setCl s c v) c = v := by simp [clOf, setCl]
@[simp] theorem physOf_setPhys (p : Nat) (v : Phys) : physOf (setPhys s p v) p = v := by simp [physOf, setPhys]
@[simp] theorem slotOf_setSlot (l k : Nat) (v : SlotCtx) : slotOf (setSlot s l k v) l k = some v := by simp [slotOf, setSlot]


end Sys2Proof.Laws
end

