-- ==== Sys2Proof/Laws/Ops.lean ====
section
/-!
SUPPORT. Laws/Ops.lean: for each shared operation, everything it can do: which fields of the state it may change, and with what outcome.
-/
namespace Sys2Proof.Laws
open Sys2Proof Sys2Proof.Machine

variable (s : State)

/-! ## Writes (R12, R13, R466, R487) -/

/-- A write either does not count, is counted as one that the host may not make, or has its effect. -/
theorem onWrite_cases (ag : Agent) (off : Nat) (f : State → State) :
    (onWrite s ag off f = f s ∧ ((ag = .control ∧ (phase s ≠ 2 ∨ lockTaken s = true)) ∨ (lockTaken s = true ∧ hostMay s off = true))) ∨
    (onWrite s ag off f = bump s 0x48000C ∧ ag = .host ∧ lockTaken s = true ∧ hostMay s off = false) ∨
    (onWrite s ag off f = s ∧ lockTaken s = false ∧ (ag = .host ∨ phase s = 2)) := by
  cases ag with
  | control =>
    by_cases h : phase s = 2 ∧ ¬ lockTaken s = true
    · exact .inr (.inr ⟨by simp [onWrite, h], by simpa using h.2, .inr h.1⟩)
    · refine .inl ⟨by simp only [onWrite, if_neg h], .inl ⟨rfl, ?_⟩⟩
      by_cases hp : phase s = 2
      · exact .inr (by simpa [hp] using h)
      · exact .inl hp
  | host =>
    cases hl : lockTaken s
    · exact .inr (.inr ⟨by simp [onWrite, hl], rfl, .inl rfl⟩)
    · cases hm : hostMay s off
      · exact .inr (.inl ⟨by simp [onWrite, hl, hm], rfl, rfl, rfl⟩)
      · exact .inl ⟨by simp [onWrite, hl, hm], .inr ⟨rfl, rfl⟩⟩

theorem onWrite_control (off : Nat) (f : State → State) (h : phase s ≠ 2 ∨ lockTaken s = true) : onWrite s .control off f = f s := by
  rcases h with h | h <;> simp [onWrite, h]

/-- The total of on-chip static RAM (R184). -/
theorem sram_total : (sramTable.map (fun e => e.1 * e.2)).sum = 342 * 2 ^ 20 := by decide

/-- A property that the counting of a refused write keeps, and that the effect keeps, holds after the write. -/
theorem onWrite_keeps (P : State → Prop) (ag : Agent) (off : Nat) (f : State → State) (hs : P s) (hb : P (bump s 0x48000C)) (hf : P (f s)) :
    P (onWrite s ag off f) := by
  obtain ⟨h, -⟩ | ⟨h, -⟩ | ⟨h, -⟩ := onWrite_cases s ag off f <;> rw [h] <;> assumption

/-- A plain write changes register words and staged values, nothing else. -/
theorem plainWrite_shape (off : Nat) (w : Word) : ∃ r p, plainWrite off w s = { s with regs := r, pend := p } := by
  unfold plainWrite
  simp only []
  split <;> split <;> split <;> exact ⟨_, _, rfl⟩

/-- A commit changes the register and its staged values, nothing else. -/
theorem commitReg_shape (b : Time) (off : Nat) : ∃ r p, commitReg b s off = { s with regs := r, pend := p } := by
  unfold commitReg clearStaged
  split
  · exact ⟨_, _, rfl⟩
  · split <;> exact ⟨_, _, rfl⟩

/-- The word after a commit is the staged one in its RWC bits (R13). -/
theorem rd_commitReg (b : Time) (off : Nat) : rd (commitReg b s off) off = committed s b off := by
  unfold commitReg
  split
  · rename_i h; simp [committed, h]
  · unfold clearStaged
    split <;> exact rd_wrReg_same s off _

/-- Without a word staged before the boundary a commit changes nothing. -/
theorem commitReg_none (b : Time) (off : Nat) (h : stagedAt s b off = none) : commitReg b s off = s := by simp [commitReg, h]

/-! ## Access checks and faults (R160, R255) -/

@[simp] theorem checkAcc_zero (k : Nat) (wr : Bool) (a : Nat) : checkAcc s k wr a 0 = .ok := rfl

/-- An access that passes its blocks has permission at the first byte of each. -/
theorem checkBlocks_ok (k : Nat) (wr : Bool) (a : Nat) : ∀ n b, checkBlocks s k wr a n b = .ok → ∀ i, i < n →
    mayAccess s k wr (max a ((b + i) * 0x10000)) = true
  | 0, _, _, _, hi => absurd hi (Nat.not_lt_zero _)
  | n + 1, b, h, i, hi => by
    have h1 : mayAccess s k wr (max a (b * 0x10000)) = true ∧ checkBlocks s k wr a n (b + 1) = .ok := by
      simp only [checkBlocks] at h
      split at h
      · split at h
        · cases h
        · exact ⟨‹_›, h⟩
      · cases h
    cases i with
    | zero => simpa using h1.1
    | succ j =>
      have h2 := checkBlocks_ok k wr a n (b + 1) h1.2 j (by omega)
      simpa [Nat.add_assoc, Nat.add_comm, Nat.add_left_comm] using h2

/-- The two states differ in register words, cores and contexts alone. -/
def CoreSide (s u : State) : Prop := ∃ r c x, u = { s with regs := r, tc := c, ctxs := x }

theorem coreSide_refl : CoreSide s s := ⟨_, _, _, rfl⟩
theorem coreSide_trans {s u v : State} (h : CoreSide s u) (h2 : CoreSide u v) : CoreSide s v := by
  obtain ⟨r, c, x, rfl⟩ := h; obtain ⟨r2, c2, x2, rfl⟩ := h2; exact ⟨r2, c2, x2, rfl⟩
theorem coreSide_foldl {α : Type} (f : State → α → State) (h : ∀ s a, CoreSide s (f s a)) (l : List α) : ∀ s, CoreSide s (l.foldl f s) := by
  induction l with
  | nil => exact coreSide_refl
  | cons a l ih => exact fun s => coreSide_trans (h s a) (ih _)
theorem coreSide_mem {s u : State} (h : CoreSide s u) : u.mem = s.mem := by obtain ⟨_, _, _, rfl⟩ := h; rfl
theorem coreSide_sch {s u : State} (h : CoreSide s u) : u.sch = s.sch := by obtain ⟨_, _, _, rfl⟩ := h; rfl
theorem coreSide_kv {s u : State} (h : CoreSide s u) : u.kv = s.kv := by obtain ⟨_, _, _, rfl⟩ := h; rfl
theorem coreSide_clk {s u : State} (h : CoreSide s u) : u.clk = s.clk := by obtain ⟨_, _, _, rfl⟩ := h; rfl

/-- A self-fetch moves a credit to its receiver and counts it (R193). -/
theorem selfFetch_side (l : Nat) (x : Credit) (mc : Bool) : CoreSide s (selfFetch s l x mc) := ⟨_, _, _, rfl⟩

/-- Cancelling promises changes cores and their counters (R193). -/
theorem cancelPromises_side (w p n : Nat) : CoreSide s (cancelPromises s w p n) :=
  coreSide_foldl _ (fun _ _ => coreSide_foldl _ (fun s _ => selfFetch_side s _ _ _) _ _) _ s

/-- Raising a fault changes TC_FAULT of the core, the context, and the credits under which the core has promised data. -/
theorem raise_side (p n l code : Nat) : CoreSide s (raise s p n l code) := by
  unfold raise
  simp only []
  split
  · exact coreSide_refl s
  · exact coreSide_refl s
  · refine coreSide_trans ?_ (cancelPromises_side _ l p n)
    unfold recordTcFault
    split <;> exact ⟨_, _, _, rfl⟩

/-- A context that is free or already faulted is left as it is. -/
theorem raise_idle (p n l code : Nat) (h : (ctxOf s p n).st = .free ∨ (ctxOf s p n).st = .faulted) : raise s p n l code = s := by
  obtain h | h := h <;> simp [raise, h]

/-- A fence fault is counted and its address recorded; only registers change. -/
theorem noteFence_shape (p a : Nat) : ∃ r, noteFence s p a = { s with regs := r } := ⟨_, rfl⟩

theorem noteFence_side (p a : Nat) : CoreSide s (noteFence s p a) := ⟨_, _, _, rfl⟩

theorem raiseAcc_side (p n l : Nat) (e : Acc) : CoreSide s (raiseAcc s p n l e) := by
  cases e with
  | ok => exact coreSide_refl s
  | fence a => exact coreSide_trans (noteFence_side s p a) (raise_side _ p n l fFence)
  | rngWrite a => exact raise_side s p n l fRngWrite

/-! ## Banks and credits (R188, R189, R212, R213) -/

/-- Setting a bank changes its core, nothing else. -/
theorem setBank_shape (l b : Nat) (v : BankSt) : ∃ c, setBank s l b v = { s with tc := c } := ⟨_, rfl⟩

/-- An access to a bank changes its state and its counter, nothing else. -/
theorem bankAbort_shape (l b : Nat) : ∃ r c, bankAbort s l b = { s with regs := r, tc := c } := by
  unfold bankAbort; split <;> exact ⟨_, _, rfl⟩
theorem bankWake_shape (l b : Nat) (wr : Bool) : ∃ r c, bankWake s l b wr = { s with regs := r, tc := c } := by
  unfold bankWake; split <;> exact ⟨_, _, rfl⟩

theorem bankAbort_side (l b : Nat) : CoreSide s (bankAbort s l b) := by
  obtain ⟨r, c, h⟩ := bankAbort_shape s l b; exact ⟨r, c, s.ctxs, by rw [h]⟩
theorem bankWake_side (l b : Nat) (wr : Bool) : CoreSide s (bankWake s l b wr) := by
  obtain ⟨r, c, h⟩ := bankWake_shape s l b wr; exact ⟨r, c, s.ctxs, by rw [h]⟩

/-- An access to a range of a scratchpad changes the state of its banks and their counters. -/
theorem touchCore_side (wr : Bool) (a len : Nat) : CoreSide s (touchCore s wr a len) := by
  unfold touchCore
  split
  · exact coreSide_refl s
  · simp only []
    split
    · exact coreSide_refl s
    · exact coreSide_foldl _ (fun s b => coreSide_trans (bankAbort_side s _ b) (bankWake_side _ _ b wr)) _ s

theorem touch_side (wr : Bool) (a len : Nat) : CoreSide s (touch s wr a len) :=
  coreSide_foldl (fun s (r : Nat × Nat) => touchCore s wr r.1 r.2) (fun s r => touchCore_side s wr r.1 r.2) _ s

/-- Waiting for an accumulator, a credit or a token changes the slot and the ring of its core. -/
theorem beginWait_side (l k : Nat) (w : Wait) : CoreSide s (beginWait s l k w) := by
  unfold beginWait dropRing
  split
  · exact coreSide_refl s
  · simp only []
    split <;> exact ⟨_, _, _, rfl⟩
theorem endWait_side (l k : Nat) : CoreSide s (endWait s l k) := by
  unfold endWait; split <;> exact ⟨_, _, _, rfl⟩

/-- A multicast writer that is refused releases its credits: cores alone change. -/
theorem releaseSend_side (q : CreditReq) : CoreSide s (releaseSend s q) := by
  unfold releaseSend; split
  · exact ⟨_, _, _, rfl⟩
  · split <;> exact ⟨_, _, _, rfl⟩

/-- A refusal faults the writer: registers, cores and contexts. -/
theorem refuse_side (l : Nat) (q : CreditReq) (code : Nat) : CoreSide s (refuse s l q code) := by
  unfold refuse
  simp only []
  split
  · exact coreSide_trans (releaseSend_side s q) (coreSide_trans (noteFence_side _ _ _) (raise_side _ _ _ _ _))
  · exact coreSide_trans (releaseSend_side s q) (raise_side _ _ _ _ _)

/-- A core is replaced. -/
theorem setCore_side (l : Nat) (c : LCore) : CoreSide s (setCore s l c) := ⟨_, _, _, rfl⟩

theorem doneCredit_side (q : CreditReq) : CoreSide s (doneCredit s q) := by
  unfold doneCredit
  split
  · exact coreSide_refl s
  · split
    · exact coreSide_refl s
    · split
      · exact endWait_side s _ _
      · exact coreSide_refl s

theorem waitCredit_side (q : CreditReq) : CoreSide s (waitCredit s q) := by
  unfold waitCredit
  split
  · exact coreSide_refl s
  · split
    · exact coreSide_refl s
    · split
      · exact coreSide_refl s
      · split
        · exact beginWait_side s _ _ _
        · exact coreSide_refl s

/-- A grant changes cores alone. -/
theorem grantCredit_side (l : Nat) (q : CreditReq) : CoreSide s (grantCredit s l q) :=
  coreSide_trans (setCore_side s l _) (doneCredit_side _ q)

/-- A credit request is refused, not made, granted or waits: only registers, cores and contexts change. -/
theorem creditRequest_side (l : Nat) (q : CreditReq) : CoreSide s (creditRequest s l q) := by
  unfold creditRequest
  simp only []
  split
  · exact refuse_side s l q _
  · split
    · exact refuse_side s l q _
    · split
      · exact coreSide_refl s
      · refine coreSide_trans (coreSide_trans (bankAbort_side s l (reqBank s l q)) (bankWake_side _ l (reqBank s l q) true)) ?_
        split
        · exact grantCredit_side _ l q
        · exact coreSide_trans (setCore_side _ l _) (waitCredit_side _ q)

/-- Granting a waiting request changes cores alone. -/
theorem creditGrant_side (l : Nat) : CoreSide s (creditGrant s l) := by
  unfold creditGrant
  simp only []
  split
  · exact coreSide_refl s
  · exact coreSide_trans (setCore_side s l _) (grantCredit_side _ l _)

/-- A landing drawer that has been read is free again: cores alone change. -/
theorem drawerRead_shape (l d : Nat) : ∃ c, drawerRead s l d = { s with tc := c } := by
  unfold drawerRead
  simp only []
  split
  · exact ⟨_, rfl⟩
  · split <;> exact ⟨_, rfl⟩

/-! ## Leaving a core (R186, R189, R270) -/

/-- A context that leaves a slot changes registers, cores, contexts and work counters. -/
theorem leaveSlot_shape (l k : Nat) : ∃ r c x w, leaveSlot s l k = { s with regs := r, tc := c, ctxs := x, wctr := w } := by
  unfold leaveSlot
  split
  · exact ⟨_, _, _, _, rfl⟩
  · rename_i sc _
    obtain ⟨r, c, x, h⟩ := cancelPromises_side s l sc.part sc.ctx
    simp only [h]
    exact ⟨_, _, _, _, rfl⟩

/-- Dropping the waiting requests of a context changes cores alone. -/
theorem dropRequests_shape (p n : Nat) : ∃ c, dropRequests s p n = { s with tc := c } := ⟨_, rfl⟩

/-! ## Stop groups (R388, R389) -/

/-- Dropping what is left of a group's axes changes the motion state alone. -/
theorem dropGroup_shape (g : Nat) : ∃ m, dropGroup s g = { s with mot := m } := ⟨_, rfl⟩

/-- A trip changes registers, the latches, what is left on its way to the axes, and the records and alerts that are due. -/
theorem tripOne_shape (a b : Bool) (code g : Nat) :
    ∃ r x m v, tripOne a b code s g = { s with regs := r, sio := x, mot := m, svc := v } := by
  have last (r : Tab Word) (v : Svc) (c : Bool) (n : Grp) : ∃ r2 x m v2,
      dropGroup (setGrp (if c then bumpFld { s with regs := r, svc := v } (grpReg g 8) 16 16 else { s with regs := r, svc := v }) g n) g =
        { s with regs := r2, sio := x, mot := m, svc := v2 } := by
    cases c <;> exact ⟨_, _, _, _, rfl⟩
  have count (r : Tab Word) (v : Svc) (w : Bool) : ∃ r2,
      (if w then { s with regs := r, svc := v } else bumpFld { s with regs := r, svc := v } (grpReg g 8) 0 16) =
        { s with regs := r2, svc := v } := by
    cases w <;> exact ⟨_, rfl⟩
  have cause (r : Tab Word) (f : Bool) : ∃ r2 v,
      (if f then causeNew (setFld { s with regs := r } (grpReg g 0) 0 16 code) g code else { s with regs := r }) =
        { s with regs := r2, svc := v } := by
    cases f <;> exact ⟨_, _, rfl⟩
  unfold tripOne
  simp only [wrReg]
  obtain ⟨r1, v1, h1⟩ := cause (tset s.regs (canonOff (grpReg g 4)) (rd s (grpReg g 4) ||| BitVec.ofNat 32 (2 ^ (code % 16))))
    (!((grpOf s g).latA.isSome || (grpOf s g).latB.isSome) || (decide ((grpOf s g).firstAt = some s.clk.tb) && decide (code < fld s (grpReg g 0) 0 16)))
  rw [h1]
  obtain ⟨r2, h2⟩ := count r1 v1 ((grpOf s g).latA.isSome || (grpOf s g).latB.isSome)
  rw [h2]
  exact last r2 v1 _ _

theorem tripGroups_shape (a b : Bool) (code : Nat) (gs : List Nat) : ∀ s : State,
    ∃ r x m v, tripGroups a b code gs s = { s with regs := r, sio := x, mot := m, svc := v } := by
  induction gs with
  | nil => exact fun s => ⟨_, _, _, _, rfl⟩
  | cons g gs ih =>
    intro s
    obtain ⟨r, x, m, v, h⟩ := tripOne_shape s a b code g
    obtain ⟨r2, x2, m2, v2, h2⟩ := ih (tripOne a b code s g)
    exact ⟨r2, x2, m2, v2, by simp only [tripGroups, List.foldl_cons] at *; rw [h2, h]⟩

/-- After a trip of both channels both latches of the group are set. -/
theorem tripOne_latched (code g : Nat) : (grpOf (tripOne true true code s g) g).latA.isSome = true ∧ (grpOf (tripOne true true code s g) g).latB.isSome = true := by
  have h (u : State) (v : Grp) : grpOf (dropGroup (setGrp u g v) g) g = v := by simp [grpOf, dropGroup, setGrp]
  simp only [tripOne, h]
  constructor <;> split <;> simp_all [Option.isSome_iff_ne_none]

/-! ## Reads (R46, R486) -/

/-- A read of the low half of a pair latches the high half for its agent; no register word changes. -/
theorem readEffect_shape (ag : Agent) (off : Nat) : ∃ r c v, readEffect ag off s = { s with regs := r, clk := { s.clk with latch := c }, svc := v } := by
  unfold readEffect
  split
  · exact ⟨_, _, _, rfl⟩
  · split
    · exact ⟨_, _, _, rfl⟩
    · split
      · exact ⟨_, _, _, rfl⟩
      · split <;> exact ⟨_, _, _, rfl⟩

/-! ## Device memory (R10) -/

/-- A zero-filled range reads zero. -/
theorem mget_mclear_in (m : List Host.Cell) (a n b : Nat) (h : a ≤ b) (h2 : b < a + n) : mget 0 (mclear m a n) b = 0 := by
  induction m with
  | nil => rfl
  | cons c m ih =>
    unfold mclear at ih ⊢
    simp only [List.filter_cons]
    split
    · rename_i hc
      have hne : c.1 ≠ b := by
        intro e; simp only [Bool.or_eq_true, decide_eq_true_eq] at hc; omega
      obtain ⟨x, v⟩ := c
      simp only [mget, if_neg hne, ih]
    · exact ih

/-- A zero fill leaves every byte outside it alone. -/
theorem mget_zeroMem_out (a n b : Nat) (h : b < a ∨ a + n ≤ b) : mget memDefault (zeroMem s a n).mem b = mget memDefault s.mem b := by
  show mget memDefault (mclear s.mem a n) b = _
  induction s.mem with
  | nil => rfl
  | cons c m ih =>
    obtain ⟨x, v⟩ := c
    unfold mclear at ih ⊢
    simp only [List.filter_cons]
    split
    · simp only [mget, ih]
    · rename_i hc
      have hne : x ≠ b := by
        intro e; simp only [Bool.or_eq_true, decide_eq_true_eq] at hc; omega
      simp only [mget, if_neg hne, ih]

theorem mget_zeroMem_in (a n b : Nat) (h : a ≤ b) (h2 : b < a + n) : mget memDefault (zeroMem s a n).mem b = 0 := mget_mclear_in s.mem a n b h h2

end Sys2Proof.Laws
end

