-- ==== Sys2Proof/WellFormed.lean ====
section
/-!
DEFINITION. WellFormed.lean: the commands that an agent can send: every operand within the width or the range that the spec gives it.
The effect of a command is defined for every term; well-formedness only says which terms stand for a command.
-/
namespace Sys2Proof

/-- A value of `w` bits. -/
def bitsOk (w v : Nat) : Bool := decide (v < 2 ^ w)

/-- A 48-bit device physical address (R10). -/
def addrOk (a : Nat) : Bool := bitsOk 48 a

/-- An instant of the 64-bit timebase (R45). -/
def timeOk (t : Time) : Bool := bitsOk 64 t

/-- An aligned word of the 8 MiB register space (R485, R497). -/
def wordOk (off : Nat) : Bool := bitsOk 23 off && decide (off % 4 = 0)

/-- A page of the pool, below 524 288 (R229). -/
def pageOk (pg : Nat) : Bool := decide (pg < 524288)

/-- An address of the generator range (R289). -/
def genOk (a : Nat) : Bool := decide (0x1800000000 ≤ a) && decide (a < 0x2000000000)

/-- A BAR2 access of at least one byte within 16 GiB (R483). -/
def bar2Ok (off len : Nat) : Bool := decide (0 < len) && decide (off + len ≤ 2 ^ 34)

/-- `n` values of `w` bits. -/
def listOk (n w : Nat) (l : List Nat) : Bool := decide (l.length = n) && l.all (bitsOk w)

/-- A parity error in a step: an accumulator slot and a word of it (R61, R63). -/
def parOk (p : Option (Nat × Nat × Bool)) : Bool := match p with
  | none => true
  | some x => decide (x.1 < 32) && decide (x.2.1 < 1024)

/-- A credit request (R187): a context of a partition, and a destination inside the 1 MiB scratchpad. -/
def creditOk (r : CreditArg) : Bool :=
  decide (r.part < 16) && decide (r.ctx < 64) && (match r.landing with | none => decide (r.off + r.len ≤ 0x100000) | some k => decide (k < 8))

/-- A reader: a context slot of a core, or a virtual channel of an engine. -/
def readerOk (r : Reader) : Bool := match r with
  | .slot l k => decide (l < 256) && decide (k < 8)
  | .dma e vc => decide (e < 22) && decide (vc < 4)
  | .other => true

/-- A peer frame's body (R275, R276). -/
def peerOk (b : PeerBody) : Bool := match b with
  | .write p a _ sig => decide (p < 16) && addrOk a && (match sig with | none => true | some k => decide (k < 64))
  | .refused e vc a => decide (e < 22) && decide (vc < 4) && addrOk a
  | .service m _ vers => decide (m < 8) && bitsOk 16 vers

/-- A received frame has at least an Ethernet header and a frame check sequence. -/
def frameOk (f : RxFrame) : Bool := decide (18 ≤ f.bytes.length)

/-- A PTP message: an 8-bit domain number and an 80-bit port identity. -/
def ptpMsgOk (m : PtpMsg) : Bool := bitsOk 8 m.domain && bitsOk 80 m.source

/-- An Announce message: widths of its fields. -/
def announceOk (a : Announce) : Bool :=
  bitsOk 8 a.prio1 && bitsOk 8 a.cls && bitsOk 8 a.accuracy && bitsOk 16 a.variance && bitsOk 8 a.prio2 && bitsOk 64 a.identity
    && bitsOk 16 a.steps && bitsOk 4 a.logInt

/-- The end of a decode: a picture's size in 16 bits each way. -/
def decOk (r : DecResult) : Bool := match r with
  | .picture p => bitsOk 16 p.w && bitsOk 16 p.h && decide (p.cropX + p.cropW ≤ p.w) && decide (p.cropY + p.cropH ≤ p.h)
  | _ => true

/-- A datagram: a command byte, a 32-bit address, at most 1 486 bytes (R371). -/
def dgramOk (d : Dgram) : Bool := bitsOk 8 d.cmd && bitsOk 32 d.addr && decide (d.data.length ≤ 1486)

/-- A frame that returned: a 16-bit working counter, an image of at most 1 200 bytes (R371). -/
def copyOk (x : FrameCopy) : Bool := bitsOk 16 x.wkc && decide (x.image.length ≤ 1200)

/-- An entry of a record: a register offset. -/
def entryOk (e : Nat × Word) : Bool := wordOk e.1

/-- What a POLICY record states (R461, R491, R492). -/
def policyOk (p : Policy) : Bool := p.entries.all entryOk && bitsOk 16 p.udp && decide (p.key.length = 32)

/-- An access of a policy module. -/
def accessOk (a : ModAccess) : Bool := match a with
  | .read off => wordOk off
  | .write off _ _ => wordOk off

/-- A command that an agent can send. -/
def Instr.wf (i : Instr) : Bool := match i with
  | .epochBoundary => true
  | .slotBoundary => true
  | .coreStep t _ par => timeOk t && parOk par
  | .drainComplete t _ _ => timeOk t
  | .issueMma t _ _ => timeOk t
  | .issueXpnd t _ _ => timeOk t
  | .issueAttn t _ _ => timeOk t
  | .issueEwise t _ _ => timeOk t
  | .issuePool t _ _ => timeOk t
  | .issueArgmaxc t _ _ => timeOk t
  | .issueStat t _ _ => timeOk t
  | .issueScaleEntries t _ _ => timeOk t
  | .issueScaleTable t _ _ => timeOk t
  | .issueFill t _ _ => timeOk t
  | .issueScopy t _ _ => timeOk t
  | .issueDma t _ _ => timeOk t
  | .issueKvapp t _ _ => timeOk t
  | .syncWait t _ _ => timeOk t
  | .syncSignal t _ _ => timeOk t
  | .syncBload t _ _ => timeOk t
  | .syncWaitRelease t _ _ => timeOk t
  | .accSlotGrant t _ _ => timeOk t
  | .instructionHoldRelease t _ _ => timeOk t
  | .instructionComplete t _ _ => timeOk t
  | .statsPartialArrive t _ _ _ => timeOk t
  | .jobEnd t _ _ => timeOk t
  | .footstoolChunkBoundary t _ => timeOk t
  | .footstoolRequestComplete t _ => timeOk t
  | .footstoolParityError t _ _ _ => timeOk t
  | .coreRetire t _ _ => timeOk t
  | .clRetireReq t _ _ _ => timeOk t
  | .coreReset t _ _ => timeOk t
  | .tcQuiesce t _ _ _ => timeOk t
  | .creditRequest t _ rq => timeOk t && creditOk rq
  | .creditGrant t _ => timeOk t
  | .writeAck t _ _ => timeOk t
  | .landingDrawerConsumed t _ _ => timeOk t
  | .multicastSend t _ _ src _ dests => timeOk t && addrOk src && decide (dests.length ≤ 16)
  | .haloRowSend t _ _ src _ => timeOk t && addrOk src
  | .promiseCancel t _ src _ => timeOk t && addrOk src
  | .shcRead t _ _ addr _ => timeOk t && addrOk addr
  | .shcInv t _ _ => timeOk t
  | .shcInvDone t => timeOk t
  | .wctrClaim t _ _ => timeOk t
  | .wctrCompletion t _ _ _ tag item sat nan => timeOk t && bitsOk 32 tag && bitsOk 32 item && bitsOk 32 sat && bitsOk 32 nan
  | .wctrClear t _ _ _ => timeOk t
  | .dmaChainAccept t _ _ _ base count => timeOk t && addrOk base && bitsOk 16 count
  | .dmaDescStart t _ _ ix => timeOk t && bitsOk 16 ix
  | .dmaDescComplete t _ _ ix => timeOk t && bitsOk 16 ix
  | .dmaDescFault t _ _ => timeOk t
  | .dramReadEcc t addr _ rd => timeOk t && addrOk addr && readerOk rd
  | .patrolScrub t _ single double => timeOk t && single.all addrOk && double.all addrOk
  | .spadParityError t _ off rd => timeOk t && bitsOk 20 off && readerOk rd
  | .bankClosingDone t _ _ => timeOk t
  | .bankGateAbort t _ _ => timeOk t
  | .bankWake t _ _ _ => timeOk t
  | .bankWakeDone t _ _ => timeOk t
  | .kvappComplete t _ _ => timeOk t
  | .kvCopyOnWrite t _ _ => timeOk t
  | .kvPinRelease t _ _ page => timeOk t && pageOk page
  | .kvBatchBoundary t _ => timeOk t
  | .kvTreeInsert t _ _ => timeOk t
  | .kvHotCopy t page _ => timeOk t && pageOk page
  | .partitionReset t _ => timeOk t
  | .contextTeardown t _ _ => timeOk t
  | .schTokSignal t _ _ => timeOk t
  | .genRead t _ _ addr => timeOk t && genOk addr
  | .genWrite t _ _ addr => timeOk t && genOk addr
  | .brkResume t _ _ => timeOk t
  | .peerFrame t _ _ _ _ body => timeOk t && peerOk body
  | .peerTimeExchange t _ _ origin => timeOk t && bitsOk 64 origin
  | .peerUnreachable t _ => timeOk t
  | .rxFrame t _ f => timeOk t && frameOk f
  | .ptpSync t m gm _ => timeOk t && ptpMsgOk m && bitsOk 64 gm
  | .ptpDelayResp t d => timeOk t && ptpMsgOk d.msg && timeOk d.sent && bitsOk 64 d.gm
  | .ptpAnnounce t an => timeOk t && ptpMsgOk an.msg && announceOk an.an
  | .ptpHoldover t => timeOk t
  | .gapTimeout t _ => timeOk t
  | .auIdleTimeout t _ => timeOk t
  | .auComplete t _ => timeOk t
  | .decodeStart t _ => timeOk t
  | .decodeComplete t _ ctr r => timeOk t && bitsOk 32 ctr && decOk r
  | .noticeRelease t _ => timeOk t
  | .ethLinkDown t _ => timeOk t
  | .dpoFrameBoundary t _ bad => timeOk t && bad.all (fun e => decide (e.1 < 8))
  | .lineFetch t _ _ _ => timeOk t
  | .pixelUnderrun t _ x => timeOk t && bitsOk 16 x
  | .coefLoadComplete t _ => timeOk t
  | .stripeRelease t _ _ _ => timeOk t
  | .stripeDeadline t _ _ => timeOk t
  | .dpoTrain t _ _ => timeOk t
  | .dpoTrainDone t _ _ => timeOk t
  | .hpdChange t _ _ => timeOk t
  | .irqHpd t _ _ => timeOk t
  | .auxGo t _ _ _ => timeOk t
  | .auxReply t _ _ => timeOk t
  | .usbTouchReport t _ _ => timeOk t
  | .usbOvercurrent t _ => timeOk t
  | .emissionPoint t => timeOk t
  | .frameSend t x => timeOk t && x.acyclic.all dgramOk
  | .frameReturn t _ _ x y => timeOk t && copyOk x && (match y with | none => true | some z => copyOk z)
  | .frameLossTimeout t _ => timeOk t
  | .commandSetSignal t _ => timeOk t
  | .latchSet t _ _ _ _ => timeOk t
  | .safeInputDemand t _ _ => timeOk t
  | .testPulse t _ _ _ => timeOk t
  | .testPulseFault t _ _ => timeOk t
  | .discrepancyTimeout t _ => timeOk t
  | .outputReadbackFault t _ _ => timeOk t
  | .outputFaultClear t _ => timeOk t
  | .brakeDelayExpire t _ => timeOk t
  | .resetButtonRelease t _ => timeOk t
  | .sioReset t _ _ => timeOk t
  | .groupResetGrant t _ _ => timeOk t
  | .heartbeat t b => timeOk t && bitsOk 16 b.zones && bitsOk 8 b.groups && bitsOk 32 b.seq
  | .heartbeatMiss t _ => timeOk t
  | .channelDecisionMismatch t => timeOk t
  | .channelRestartDone t _ _ => timeOk t
  | .supervisionStart t => timeOk t
  | .timebaseCrosscheck t _ _ => timeOk t
  | .hutchPictureRead t _ => timeOk t
  | .checkerResult t _ _ => timeOk t
  | .zoneReport t _ => timeOk t
  | .zoneCompare t _ ctr => timeOk t && bitsOk 32 ctr
  | .cmpBudgetExpire t _ ctr => timeOk t && bitsOk 32 ctr
  | .zoneAgeExpire t _ => timeOk t
  | .goldenRunStart t g => timeOk t && bitsOk 64 g.jb
  | .goldenRunAbandon t _ => timeOk t
  | .goldenRunComplete t _ _ => timeOk t
  | .goldenFrameEnd t _ => timeOk t
  | .checkerGoldenCrop t _ => timeOk t
  | .sContextLost t _ => timeOk t
  | .aRestart t _ => timeOk t
  | .rdyTokSignal t _ => timeOk t
  | .aLimitExpire t _ => timeOk t
  | .watchdogExpire t => timeOk t
  | .kick t _ => timeOk t
  | .stopGroups t _ => timeOk t
  | .invalidateZones t _ => timeOk t
  | .invalidateZonesExpire t => timeOk t
  | .readEvent t _ => timeOk t
  | .hutchMailboxReject t _ => timeOk t
  | .proofTest t _ => timeOk t
  | .powerOn t _ => timeOk t
  | .railSequenceStep t _ _ _ => timeOk t
  | .powerDown t _ => timeOk t
  | .vinRestore t => timeOk t
  | .sensorSample t vals rates => timeOk t && listOk 48 16 vals && listOk 16 16 rates
  | .ladderStep t => timeOk t
  | .capStep t avg => timeOk t && bitsOk 16 avg
  | .holdPeriod t _ => timeOk t
  | .corePowerUp t _ => timeOk t
  | .standbyRequest t _ _ => timeOk t
  | .wakeMagicPacket t p => timeOk t && bitsOk 48 p.mac
  | .wakeAlarm t => timeOk t
  | .bootRomPhase t _ => timeOk t
  | .imageCheck t r => timeOk t && r.hut.all entryOk && policyOk r.pol
  | .memoryTraining t _ => timeOk t
  | .bootLock t pol => timeOk t && policyOk pol
  | .modelLoad t _ _ => timeOk t
  | .bootService t ctxs => timeOk t && ctxs.all (fun e => decide (e.1 < 16) && decide (e.2 < 64))
  | .bootRecovGo t _ _ => timeOk t
  | .policyCallback t _ _ acc _ => timeOk t && acc.all accessOk
  | .resetNAssert t _ _ => timeOk t
  | .moduleReset t _ _ => timeOk t
  | .managementReset t _ _ => timeOk t
  | .commitDiscard t _ _ => timeOk t
  | .verHostWrite t _ _ => timeOk t
  | .glbTbAdjWrite t _ _ => timeOk t
  | .glbTbSet t _ _ => timeOk t
  | .latchingRead t _ r => timeOk t && wordOk r.off
  | .registerWrite t _ off _ _ => timeOk t && wordOk off
  | .pcieReset t => timeOk t
  | .pcieLinkDown t lost => timeOk t && decide (lost.length ≤ 4)
  | .hostDramRead t off len => timeOk t && bar2Ok off len
  | .hostDramWrite t off bytes => timeOk t && bar2Ok off bytes.length
  | .mailboxGo t _ _ _ => timeOk t
  | .mgmtVersion t _ => timeOk t
  | .mgmtReadReg t _ => timeOk t
  | .mgmtWriteReg t _ => timeOk t
  | .mgmtReadMem t _ => timeOk t
  | .mgmtWriteMem t _ => timeOk t
  | .mgmtImageWrite t _ _ => timeOk t
  | .mgmtReset t _ => timeOk t
  | .mgmtEcho t _ => timeOk t
  | .mgmtDatagram t _ udp _ _ _ => timeOk t && bitsOk 16 udp
  | .smbusTransaction t msg _ _ => timeOk t && decide (msg.length ≤ 255)
  | .telemetryEvent t _ _ => timeOk t
  | .trEnable t _ _ _ => timeOk t
  | .memrdStart t _ _ => timeOk t
  | .memrdDone t => timeOk t
  | .jtagBypass t => timeOk t
  | .jtagIdcode t => timeOk t
  | .jtagSamplePreload t _ _ => timeOk t
  | .jtagExtest t => timeOk t
  | .ethLinkUp t _ => timeOk t
  | .motLinkChange t _ _ => timeOk t
  | .pcieLinkUp t width speed => timeOk t && [1, 2, 4, 8].contains width && decide (1 ≤ speed) && decide (speed ≤ 5)
  | .pcieConfigRequest t _ off _ _ => timeOk t && decide (off < 4096) && decide (off % 4 = 0)
  | .usbConnectChange t _ _ map => timeOk t && decide (map.length ≤ 5)
  | .usbOvercurrentRetry t _ => timeOk t
  | .proofTestDone t _ => timeOk t
  | .safeInputDemandEnd t _ _ _ => timeOk t
  | .vstby3v3Loss t => timeOk t
  | .scanLineStart t _ => timeOk t

end Sys2Proof
end

