-- ==== Sys2Proof/Tests/Slice0.lean ====
section
/-!
SUPPORT. Tests/Slice0.lean: the smoke test of well-formedness, and for every statement with hypotheses a theorem that shows, clause by
clause, a concrete state and operands that meet them, and what one command does there.
-/
namespace Sys2Proof.Tests
open Sys2Proof Sys2Proof.Machine Sys2Proof.Safety

-- One theorem at a time: the kernel's evaluations side by side take too much memory.
set_option Elab.async false

/-! ## Helpers -/

/-- The outcome is a next state with a property. -/
def ran (o : Res) (p : State → Bool) : Bool := match o with
  | .next u => p u
  | _ => false

/-- The state after a command. -/
def after (o : Res) (s : State) : State := match o with
  | .next u => u
  | _ => s

/-- Registers set to the values listed. -/
def wr (l : List (Nat × Nat)) (s : State) : State := l.foldl (fun s e => wrReg s e.1 (BitVec.ofNat 32 e.2)) s

/-- The machine after power-on. -/
def fresh : State := State.reset

/-- Rails up, SERVICE, the lock taken, the PCIe link up, firmware running, a version agreed. -/
def up : State :=
  wr [(0x30000, 5 * 2 ^ 28 + 2 ^ 27), (0x480000, 1), (0x244, 1), (0x400004, 0x180000)]
    { fresh with bur := { Bur.reset with vin := true, seq := 8 }, boot := { Boot.reset with fw := true } }

/-- A command takes a state to a given one: the same but for time. -/
def onlyTime (c : Instr) (s : State) (t : Time) : Bool := ran (exec c s) (fun u => u = advance s t)

/-! ## Well-formedness -/

/-- A number as big-endian bytes. -/
def beBytes (n v : Nat) : List Byte := (leBytes n v).reverse

/-- An Ethernet frame to a MAC address: padded to 64 bytes, with its frame check sequence. -/
def ethFrame (mac type : Nat) (body : List Byte) : List Byte :=
  let b := beBytes 6 mac ++ beBytes 6 2 ++ beBytes 2 type ++ body
  let p := b ++ List.replicate (60 - b.length) 0
  p ++ leBytes 4 (crcBytes 0xEDB88320 0xFFFFFFFF p ^^^ 0xFFFFFFFF)

/-- A UDP datagram over IPv4 from 10.0.0.9, without a UDP checksum. -/
def udpFrame (dst port : Nat) (body : List Byte) : List Byte :=
  let u := beBytes 2 40000 ++ beBytes 2 port ++ beBytes 2 (8 + body.length) ++ [0, 0] ++ body
  let h1 := [0x45, 0] ++ beBytes 2 (20 + u.length) ++ [0, 0, 0x40, 0, 64, 17]
  let h2 := beBytes 4 0x0A000009 ++ beBytes 4 dst
  let n := sum16 h1 + sum16 h2
  ethFrame 1 0x0800 (h1 ++ beBytes 2 (65535 - (n % 65536 + n / 65536)) ++ h2 ++ u)

/-- A camera frame to 10.0.0.1 that carries an RTP packet of an IDR slice of H.264. -/
def rtpFrame (sq ts ssrc udp : Nat) : RxFrame :=
  ⟨udpFrame 0x0A000001 udp ([0x80, 96] ++ beBytes 2 sq ++ beBytes 4 ts ++ beBytes 4 ssrc ++ [0x65, 1, 2, 3]), 0, false⟩

/-- The check value of the frame check sequence's polynomial (IEEE 802.3: the nine digits give 0xCBF43926), and a frame that carries its own. -/
theorem test_frame_check :
    crcBytes 0xEDB88320 0xFFFFFFFF ((rangeFrom 0x31 9).map (BitVec.ofNat 8)) ^^^ 0xFFFFFFFF = 0xCBF43926 ∧ fcsOk (rtpFrame 1 2 3 4).bytes = true ∧
      fcsOk ((rtpFrame 1 2 3 4).bytes.set 20 1) = false := by
  decide +kernel

/-- A picture of `w` by `h` samples, all zero, of `n` bits, that needs `need` references. -/
def picOf (w h n need : Nat) : DecPic := ⟨w, h, 0, 0, w, h, n, false, List.replicate (w * h) 0, List.replicate (w * h / 4) 0, List.replicate (w * h / 4) 0, need, []⟩

/-- One ill-formed command for every check of the commands' numbers: instants, addresses, pages, tags, indices. -/
theorem test_wf_numbers :
    [Instr.heartbeat (2 ^ 64) ⟨.a, 0, 0, 0⟩, .heartbeat 0 ⟨.a, 65536, 0, 0⟩, .heartbeat 0 ⟨.a, 0, 256, 0⟩, .heartbeat 0 ⟨.a, 0, 0, 2 ^ 32⟩,
     .goldenRunStart 0 ⟨.core 0, 2 ^ 64⟩, .coreStep 0 0 (some (32, 0, false)), .coreStep 0 0 (some (0, 1024, false)),
     .creditRequest 0 0 ⟨16, 0, 0, some 0, 0, 0, none, false⟩, .creditRequest 0 0 ⟨0, 64, 0, some 0, 0, 0, none, false⟩,
     .creditRequest 0 0 ⟨0, 0, 0, some 8, 0, 0, none, false⟩, .creditRequest 0 0 ⟨0, 0, 0, none, 0xFFFF0, 0x11, none, false⟩,
     .multicastSend 0 0 0 (2 ^ 48) 0 [], .multicastSend 0 0 0 0 0 (List.replicate 17 0), .haloRowSend 0 0 0 (2 ^ 48) 0,
     .promiseCancel 0 0 (2 ^ 48) true, .wctrCompletion 0 0 ⟨0, false⟩ 0 (2 ^ 32) 0 0 0, .wctrCompletion 0 0 ⟨0, false⟩ 0 0 (2 ^ 32) 0 0,
     .wctrCompletion 0 0 ⟨0, false⟩ 0 0 0 (2 ^ 32) 0, .wctrCompletion 0 0 ⟨0, false⟩ 0 0 0 0 (2 ^ 32), .shcRead 0 0 0 (2 ^ 48) .none,
     .dmaChainAccept 0 0 0 0 (2 ^ 48) 1, .dmaChainAccept 0 0 0 0 0 65536, .dmaDescStart 0 0 0 65536, .dmaDescComplete 0 0 0 65536,
     .dramReadEcc 0 (2 ^ 48) .clean .other, .dramReadEcc 0 0 .clean (.slot 256 0), .dramReadEcc 0 0 .clean (.slot 0 8), .dramReadEcc 0 0 .clean (.dma 22 0),
     .dramReadEcc 0 0 .clean (.dma 0 4), .patrolScrub 0 0 [2 ^ 48] [], .patrolScrub 0 0 [] [2 ^ 48], .spadParityError 0 0 0x100000 .other,
     .kvPinRelease 0 0 0 524288, .kvHotCopy 0 524288 0, .genRead 0 0 0 0x17FFFFFFFF, .genRead 0 0 0 0x2000000000, .genWrite 0 0 0 0].all (fun i => !i.wf)
      = true := by
  decide +kernel

/-- The same for links, cameras, display, motion and the Hutch. -/
theorem test_wf_links :
    [Instr.peerFrame 0 0 0 0 true (.write 16 0 [] none), .peerFrame 0 0 0 0 true (.write 0 (2 ^ 48) [] none), .peerFrame 0 0 0 0 true (.write 0 0 [] (some 64)),
     .peerFrame 0 0 0 0 true (.refused 22 0 0), .peerFrame 0 0 0 0 true (.refused 0 4 0), .peerFrame 0 0 0 0 true (.refused 0 0 (2 ^ 48)),
     .peerFrame 0 0 0 0 true (.service 8 true 0), .peerFrame 0 0 0 0 true (.service 0 true 65536), .peerTimeExchange 0 0 0 (2 ^ 64),
     .rxFrame 0 0 ⟨List.replicate 17 0, 0, false⟩, .ptpSync 0 ⟨0, true, 256, 0⟩ 0 0, .ptpSync 0 ⟨0, true, 0, 2 ^ 80⟩ 0 0, .ptpSync 0 ⟨0, true, 0, 0⟩ (2 ^ 64) 0,
     .ptpDelayResp 0 ⟨⟨0, true, 256, 0⟩, 0, 0, 0⟩, .ptpDelayResp 0 ⟨⟨0, true, 0, 0⟩, 2 ^ 64, 0, 0⟩, .ptpDelayResp 0 ⟨⟨0, true, 0, 0⟩, 0, 2 ^ 64, 0⟩,
     .ptpAnnounce 0 ⟨⟨0, true, 256, 0⟩, ⟨0, 0, 0, 0, 0, 0, 0, 0⟩⟩, .ptpAnnounce 0 ⟨⟨0, true, 0, 2 ^ 80⟩, ⟨0, 0, 0, 0, 0, 0, 0, 0⟩⟩, .ptpAnnounce 0 ⟨⟨0, true, 0, 0⟩, ⟨256, 0, 0, 0, 0, 0, 0, 0⟩⟩,
     .ptpAnnounce 0 ⟨⟨0, true, 0, 0⟩, ⟨0, 256, 0, 0, 0, 0, 0, 0⟩⟩, .ptpAnnounce 0 ⟨⟨0, true, 0, 0⟩, ⟨0, 0, 256, 0, 0, 0, 0, 0⟩⟩, .ptpAnnounce 0 ⟨⟨0, true, 0, 0⟩, ⟨0, 0, 0, 65536, 0, 0, 0, 0⟩⟩,
     .ptpAnnounce 0 ⟨⟨0, true, 0, 0⟩, ⟨0, 0, 0, 0, 256, 0, 0, 0⟩⟩, .ptpAnnounce 0 ⟨⟨0, true, 0, 0⟩, ⟨0, 0, 0, 0, 0, 2 ^ 64, 0, 0⟩⟩, .ptpAnnounce 0 ⟨⟨0, true, 0, 0⟩, ⟨0, 0, 0, 0, 0, 0, 65536, 0⟩⟩,
     .ptpAnnounce 0 ⟨⟨0, true, 0, 0⟩, ⟨0, 0, 0, 0, 0, 0, 0, 16⟩⟩,
     .frameSend 0 ⟨0, [⟨256, 0, []⟩]⟩, .frameSend 0 ⟨0, [⟨5, 2 ^ 32, []⟩]⟩, .frameSend 0 ⟨0, [⟨5, 0, List.replicate 1487 0⟩]⟩,
     .decodeComplete 0 0 (2 ^ 32) .error,
     .decodeComplete 0 0 0 (.picture { picOf 1 1 8 0 with w := 65536 }), .decodeComplete 0 0 0 (.picture { picOf 1 1 8 0 with h := 65536 }),
     .decodeComplete 0 0 0 (.picture { picOf 1 1 8 0 with cropX := 1 }), .decodeComplete 0 0 0 (.picture { picOf 1 1 8 0 with cropH := 2 }),
     .dpoFrameBoundary 0 0 [(8, 0)], .pixelUnderrun 0 0 65536, .frameReturn 0 0 false ⟨false, 65536, []⟩ none,
     .frameReturn 0 0 false ⟨false, 0, []⟩ (some ⟨false, 65536, []⟩), .frameReturn 0 0 false ⟨false, 0, List.replicate 1201 0⟩ none,
     .wakeMagicPacket 0 ⟨0, 2 ^ 48⟩, .mgmtDatagram 0 0 65536 0 [] true,
     .zoneCompare 0 0 (2 ^ 32), .cmpBudgetExpire 0 0 (2 ^ 32), .usbConnectChange 0 0 0 (List.replicate 6 0)].all (fun i => !i.wf) = true := by
  decide +kernel

/-- The same for power, boot, the host link and the service ports; and that commands at the bounds of the checks are accepted. -/
theorem test_wf_service :
    [Instr.sensorSample 0 [0] (List.replicate 16 0), .sensorSample 0 (List.replicate 48 65536) (List.replicate 16 0), .sensorSample 0 (List.replicate 48 0) [0],
     .capStep 0 65536, .imageCheck 0 ⟨[(1, 0)], 0, 0, { Policy.none with key := List.replicate 32 0 }⟩, .imageCheck 0 ⟨[], 0, 0, Policy.none⟩, .bootLock 0 { Policy.none with entries := [(0x800000, 0)] }, .bootLock 0 { Policy.none with udp := 65536 },
     .bootLock 0 Policy.none, .bootService 0 [(16, 0)], .bootService 0 [(0, 64)], .policyCallback 0 0 .epoch [.read 2] 0, .policyCallback 0 0 .epoch [.write 0x800000 0 true] 0,
     .latchingRead 0 .host ⟨3, 15⟩, .latchingRead 0 .host ⟨0x800000, 15⟩, .registerWrite 0 .host 2 15 0, .pcieLinkDown 0 [0, 1, 2, 3, 4], .hostDramRead 0 0 0,
     .hostDramRead 0 (2 ^ 34) 1, .hostDramWrite 0 0 [], .smbusTransaction 0 (List.replicate 256 0) true true, .pcieLinkUp 0 3 1, .pcieLinkUp 0 4 0, .pcieLinkUp 0 4 6, .pcieConfigRequest 0 false 4096 15 0,
     .pcieConfigRequest 0 false 2 15 0].all (fun i => !i.wf) = true ∧
    [Instr.heartbeat (2 ^ 64 - 1) ⟨.a, 65535, 255, 2 ^ 32 - 1⟩, .coreStep 0 255 (some (31, 1023, true)), .creditRequest 0 0 ⟨15, 63, 0, some 7, 0, 0, none, false⟩,
     .spadParityError 0 0 0xFFFFF (.dma 21 3), .genWrite 0 0 0 0x1FFFFFFFFF, .rxFrame 0 0 (rtpFrame 65535 0 0 65535), .decodeComplete 0 0 0 (.picture (picOf 2 2 8 0)), .latchingRead 0 .host ⟨0x7FFFFC, 15⟩,
     .hostDramRead 0 (2 ^ 34 - 1) 1, .pcieLinkUp 0 8 5, .pcieConfigRequest 0 true 4092 15 0,
     .bootLock 0 { Policy.none with key := List.replicate 32 0 }].all Instr.wf = true := by
  decide +kernel

/-! ## Cores -/

/-- An instruction of 64 bytes that begins with the bytes given. -/
def ins (l : List Nat) : List Byte := (l ++ List.replicate (64 - l.length) 0).map (BitVec.ofNat 8)

/-- Partition 1, class D, owns cores 0 to 31 and the first 256 MiB. -/
def parted : State :=
  { wr [(0x41100, 2 ^ 31 + 2), (0x41140, 7 * 2 ^ 29), (0x41144, 0x1000)] up with
    sch := { up.sch with owner := (rangeFrom 0 32).map (fun l => (l, 2)) } }

/-- Context 0 of partition 1 resident on core 0, slot 0, with the program bytes given at 0x10000. -/
def withProg (bs : List Byte) : State :=
  let s := setCtx (wrMem parted 0x10000 bs) 1 0 { Ctx.reset with st := .resident, cores := [0], hdr := List.replicate 128 0 }
  setSlot (setCore s 0 { LCore.reset with on := true }) 0 0 (newRank s 1 0 0 0x10000)

/-- Slot 0 of core 0. -/
def slot0 (s : State) : SlotCtx := (slotOf s 0 0).getD (newRank s 1 0 0 0)

/-- The next instruction of slot 0, the slot with it in its buffer, and what it builds. -/
def instr0 (s : State) : List Byte := (nextBytes s (slot0 s)).getD []
def burst0 (s : State) : State := withBurst s 0 0 (slot0 s)
def built0 (s : State) : Built := buildOf (burst0 s) 0 (fetchInstr s (slot0 s)) (instr0 s)

/-- The hypotheses of `Decoded` and `IssueReady`, for slot 0 of core 0. -/
def ready (s : State) (want : List Byte → Bool) (held : Bool) (checks : Bool) : Bool :=
  slotOf s 0 0 = some (slot0 s) ∧ mayIssue s 0 (slot0 s) held = true ∧ nextBytes s (slot0 s) = some (instr0 s) ∧
    want (instr0 s) = true ∧ mustHold (burst0 s) (fetchInstr s (slot0 s)) (instr0 s) (built0 s) = false ∧
    ((built0 s).errs = [] ↔ checks = true) ∧ issueRoom (burst0 s) 0 0 (fetchInstr s (slot0 s)) (built0 s).fl = true

/-- SYNC SIGNAL of VALUE 3 to token 5, SYNC WAIT for token 5 at 0 and at 1, SYNC BLOAD of one word to BOUND(15), a reserved SYNC, a FILL. -/
def sigProg : State := withProg (ins [13, 1, 0, 0, 1, 5, 0, 0, 3])
def waitProg (v : Nat) : State := withProg (ins [13, 1, 0, 0, 0, 5, 0, 0, v])
def bloadProg : State := withProg (ins [13, 1, 0, 0, 2, 0, 15, 1, 0, 0, 0, 0, 4, 0, 1])

/-- ReadyInstructionIsIssued, SyncSignalAddsToItsToken, SyncWaitHoldsUntilItsToken, SyncBloadLoadsBounds: SYNC instructions that are ready. -/
theorem test_witness_sync :
    ([ready sigProg (isSync 1) false true ∧ ran (exec (.syncSignal 0 0 0) sigProg) (fun u => token u 1 5 = 3 ∧ (slot0 u).ip = 0x10040 ∧ (slot0 u).flight = []),
     ready (waitProg 0) (isSync 0) false true ∧ ran (exec (.syncWait 0 0 0) (waitProg 0)) (fun u => (slot0 u).wait = .none ∧ (slot0 u).flight = []),
     ready (waitProg 1) (isSync 0) false true ∧
       ran (exec (.syncWait 9 0 0) (waitProg 1)) (fun u => (slot0 u).wait = .token 5 1 ∧ (slot0 u).since = 9 ∧ (slot0 u).flight.length = 1),
     ready bloadProg (isSync 2) false true ∧
       ran (exec (.syncBload 0 0 0) bloadProg) (fun u => (slot0 u).bounds[15]? = some 0x010F0002 ∧ (slot0 u).bounds[14]? = some 0 ∧ u.regs = bloadProg.regs)] : List Bool).all id = true := by
  decide +kernel

/-- A FILL of VERSION 3 is decoded, and fails its checks. -/
def badProg : State := withProg (ins [9, 3])

/-- A SYNC that waits, in flight, held until the instruction before it completes. -/
def heldProg : State := setSlot sigProg 0 0 { slot0 sigProg with wait := .hold }

/-- FailedCheckFaultsBeforeAnyEffect, and the hold of WaitsOfAContextEnd. -/
theorem test_witness_failed_check :
    ([ready badProg (isOp 9) false false ∧ lowest (built0 badProg).errs = some (0x0102, 0) ∧
        ran (exec (.issueFill 0 0 0) badProg) (fun u => (ctxOf u 1 0).dying = some 0 ∧ (ctxOf u 1 0).halted = [0] ∧ (ctxOf u 1 0).cause = 0x0102 ∧ (ctxOf u 1 0).fault = 0),
      ready heldProg (fun _ => true) true true ∧ ran (exec (.instructionHoldRelease 0 0 0) heldProg) (fun u => token u 1 5 = 3)] : List Bool).all id = true := by
  decide +kernel

/-- A FILL in flight with two steps of work left. -/
def filling : InFlight := { bareFlight 0x10000 (ins [9, 1, 6, 7]) with units := [.fresh 2 (.fill 0 0)] }

/-- Slot 0 with instructions in flight; the waits that the clauses ask for. -/
def flying (fs : List InFlight) : State := setSlot sigProg 0 0 { slot0 sigProg with flight := fs }
def waiting : State := setSlot (waitProg 1) 0 0 { slot0 (waitProg 1) with wait := .token 5 0, flight := [bareFlight 0x10000 (ins [13, 1, 0, 0, 0, 5])] }
def asking : State :=
  let s := flying [bareFlight 0x10000 (ins [1, 1])]
  setCore s 0 { coreOf s 0 with grantQ := [(0, 32)] }
def draining : State :=
  let s := flying []
  setCore s 0 { coreOf s 0 with acc := [(31, { AccSlot.none with st := .draining, row := 32 })] }
def stuck : State := setSlot (waitProg 1) 0 0 { slot0 (waitProg 1) with wait := .token 5 1, flight := [bareFlight 0x10000 (ins [13, 1, 0, 0, 0, 5, 0, 0, 1])] }
def partialOn : State :=
  let s := setSlot (flying []) 0 0 { slot0 (flying []) with stageLen := 1 }
  setCtx s 1 0 { ctxOf s 1 0 with cores := rangeFrom 0 256, transit := [⟨255, 0, Stats.none⟩] }

/-- TurnOfTheRingCountsOneStep, DoneInstructionCompletes. -/
theorem test_witness_turn :
    ([(let s := flying [filling]
       coreRuns s 0 = true ∧ (slot0 (settleAll s 0)).det = false ∧ coreHeldB s 0 = false ∧ goldRuns s 0 = false ∧ ringOf (settleAll s 0) 0 = some 0 ∧
         canTurn (setCore (settleAll s 0) 0 { coreOf (settleAll s 0) 0 with ring := some 0 }) 0 0 = true ∧ brkHit s 0 0 1 = false ∧
         ran (exec (.coreStep 0 0 none) s) (fun u => (slot0 u).steps = 1 ∧ (slot0 u).flight = [{ filling with units := [⟨1, .fill 0 0, 2⟩] }])),
      (let s := stuck
       ringOf (settleAll s 0) 0 = none ∧ ran (exec (.coreStep 0 0 none) s) (fun u => (slot0 u).steps = 0 ∧ (coreOf u 0).ring = none)),
      (let f := { filling with units := [] }
       let s := flying [f]
       flightDone s 0 (slot0 s) f = true ∧ alive s 1 0 = true ∧ (slot0 s).released = false ∧ (slot0 s).hit = false ∧ opcodeOf f.bytes = 9 ∧ doneOf f.bytes = true ∧
         ran (exec (.instructionComplete 0 0 0) s) (fun u => (slot0 u).flight = [] ∧ (slot0 u).ended = true ∧ token u 1 7 = 1))] : List Bool).all id = true := by
  decide +kernel

/-- WaitsOfAContextEnd. -/
theorem test_witness_waits :
    ([(slot0 waiting).wait = .token 5 0 ∧ (token waiting 1 5 - 0).toNat < 2 ^ 31 ∧ (slot0 waiting).hit = false ∧
        ran (exec (.syncWaitRelease 0 0 0) waiting) (fun u => (slot0 u).wait = .none ∧ (slot0 u).flight = []),
      grantHead asking 0 = some (0, 32) ∧ 32 ≤ (freeAcc asking 0).length ∧
        ran (exec (.accSlotGrant 0 0 0) asking) (fun u => (coreOf u 0).grantQ = [] ∧ ((slot0 u).flight.map InFlight.granted) = [rangeFrom 0 32]),
      (accOf draining 0 31).st = .draining ∧ 32 ≤ (accOf draining 0 31).row ∧ ran (exec (.drainComplete 0 0 31) draining) (fun u => accOf u 0 31 = AccSlot.none),
      (ctxOf partialOn 1 0).transit.find? (fun y => decide (y.rank = 255)) = some ⟨255, 0, Stats.none⟩ ∧ slotFor partialOn 0 1 0 = some 0 ∧
        flitLands partialOn 0 0 1 0 255 = true ∧
        ran (exec (.statsPartialArrive 0 1 0 255) partialOn) (fun u => (ctxOf u 1 0).transit = [] ∧ (ctxOf u 1 0).recs.map (fun r => r.ranks) = [[255]])] : List Bool).all id = true := by
  decide +kernel

/-- A Footstool with one request of a living context, pending or running. -/
def fsReq : FsReq := ⟨0, 0, 1, 0, 2, { filling with units := [], ext := .footstool }, [], [], 0, 0, 1⟩
def fsPending (q : List FsReq) (cur : Option FsReq) (bad : List Nat) : State := setCl (flying [fsReq.fl]) 0 { Cluster.reset with queue := q, cur := cur, badRows := bad }

/-- RetirementStopsTheCore, CoreResetAndQuiesce, FootstoolRequestsAndErrors. -/
theorem test_witness_cores :
    ([(coreOf parted 255).stopped = false ∧ mapOf parted 255 < 17 ∧
        ran (exec (.coreRetire 0 255 .request) parted) (fun u => (coreOf u 255).stopped = true ∧ spareState u 15 = 1),
      (2 ^ 31 + 15 : Word).getLsbD 31 = true ∧ ran (exec (.clRetireReq 0 .control 240 (2 ^ 31 + 15)) parted) (fun u => (coreOf u 255).stopped = true),
      ran (exec (.coreReset 0 .control 0) (flying [filling])) (fun u => slotOf u 0 0 = none ∧ (coreOf u 0).acc = []),
      ran (exec (.tcQuiesce 0 .control 255 true) parted) (fun u => flag u (tcOff 255 + 0xC) 0 = true),
      (let s := fsPending [fsReq] none []
       fsGolden s 0 = false ∧ holdRuns s 0 = false ∧ fsNext ((clOf s 0).queue.filter (fsAlive s)) = some fsReq ∧
         ran (exec (.footstoolChunkBoundary 0 0) s) (fun u => (clOf u 0).cur = some fsReq ∧ (clOf u 0).queue = [])),
      (let s := fsPending [] (some fsReq) []
       fsAlive s fsReq = true ∧ fsChunked fsReq = false ∧ ran (exec (.footstoolRequestComplete 0 0) s) (fun u => (clOf u 0).cur = none)),
      (let s := fsPending [] none [7]
       (clOf s 0).unavail = false ∧ ran (exec (.footstoolParityError 0 0 7 false) s) (fun u => (clOf u 0).unavail = true) ∧
         ran (exec (.footstoolParityError 0 0 8 false) s) (fun u => (clOf u 0).unavail = false ∧ (clOf u 0).badRows = [8, 7] ∧ rd u (clReg 0 0x82C) = rd s (clReg 0 0x82C) + 1))] : List Bool).all id = true := by
  decide +kernel

/-! ## Credits, the shared cache, work counters, DMA and memory -/

/-- Core 0 with landing drawers, credits, waiting requests and banks as given; its slot 0 may stage eight drawers. -/
def landing (ds : Tab Drawer) (cr : List Credit) (q : List CreditReq) (bk : Tab BankSt) : State :=
  let s := setSlot sigProg 0 0 { slot0 sigProg with stageLen := 8 }
  setCore s 0 { coreOf s 0 with drawers := ds, credits := cr, waitQ := q, banks := bk }

/-- A landing request of writer 1 for source 0x20000, and a placed one of the last 4 096 bytes of the window. -/
def landReq : CreditReq := ⟨1, 0, 1, some 0, 0, 0x1000, some 0x20000, false⟩
def placeReq : CreditReq := ⟨1, 0, 1, none, 0xFF000, 0x1000, none, false⟩
def argOf (r : CreditReq) : CreditArg := ⟨r.part, r.ctx, r.writer, r.landing, r.off, r.len, r.src, r.prefetch⟩

/-- The checks on a request that CreditsAndLandingDrawers asks for. -/
def reqOk (s : State) (r : CreditReq) : Bool :=
  fetchAcc s 0 r = .ok ∧ detFetch s 0 r = true ∧ ownerOf s 0 = some r.part ∧ coreUnavail s 0 = false ∧
    wellAsked s 0 r = true ∧ bankOf s 0 (reqBank s 0 r) = .on

/-- A credit of core 0 itself in drawer 255, taken for its slot 0. -/
def landed : Credit := ⟨9, { landReq with writer := 0, len := 9, src := some 0x10000 }, 255, false⟩

/-- CreditsAndLandingDrawers. -/
theorem test_witness_credits :
    ([(let s := landing [] [] [] []
       let d := (freeDrawers s 0).headD 0
       reqOk s landReq ∧ grantable s 0 landReq = true ∧ (coreOf s 0).waitQ.any (sameKind landReq) = false ∧
         ran (exec (.creditRequest 0 0 (argOf landReq)) s) (fun u => (coreOf u 0).credits = [⟨0, landReq, d, false⟩] ∧
           tget? (coreOf u 0).drawers d = some ⟨.granted, 0, some (0x20000, 0x1000), none⟩)),
      (let s := landing [] [⟨0, placeReq, 255, false⟩] [] []
       reqOk s placeReq ∧ grantable s 0 placeReq = false ∧ ran (exec (.creditRequest 0 0 (argOf placeReq)) s) (fun u => (coreOf u 0).waitQ = [placeReq] ∧ (coreOf u 0).tag = 0)),
      (let s := landing [] [] [landReq] []
       grantable s 0 landReq = true ∧ ran (exec (.creditGrant 0 0) s) (fun u => (coreOf u 0).waitQ = [] ∧ (coreOf u 0).credits = [⟨0, landReq, (freeDrawers s 0).headD 0, false⟩])),
      (let s := landing [] [] [placeReq, { landReq with writer := 300, landing := some 7 }] []
       grantable s 0 placeReq = true ∧ grantable s 0 { landReq with writer := 300, landing := some 7 } = false ∧
         ran (exec (.creditGrant 0 0) s) (fun u => (coreOf u 0).credits = [⟨0, placeReq, 255, false⟩])),
      (let s := landing [(255, ⟨.granted, 0, none, none⟩)] [landed] [] []
       (coreOf s 0).credits.find? (fun y => decide (y.tag = 9)) = some landed ∧ isPromise 0 1 0 0 landed = false ∧
         tget? (coreOf s 0).drawers 255 = some ⟨.granted, 0, none, none⟩ ∧
         ran (exec (.writeAck 0 0 9) s) (fun u => tget? (coreOf u 0).drawers 255 = some ⟨.full, 0, none, none⟩ ∧ (coreOf u 0).credits = [] ∧
           rdMem u 0x8000000FF000 9 = [13, 1, 0, 0, 1, 5, 0, 0, 3])),
      (let s := landing [(255, ⟨.granted, noSlot, none, none⟩)] [⟨9, landReq, 255, true⟩] [] []
       isPromise 1 1 0 0 ⟨9, landReq, 255, true⟩ = false ∧ ran (exec (.writeAck 0 0 9) s) (fun u => tget? (coreOf u 0).drawers 255 = none ∧ u.mem = s.mem)),
      (let s := landing [] [⟨9, placeReq, 255, false⟩] [] []
       isPromise 1 1 0 0 ⟨9, placeReq, 255, false⟩ = false ∧ ran (exec (.writeAck 0 0 9) s) (fun u => (coreOf u 0).credits = [])),
      ran (exec (.landingDrawerConsumed 0 0 255) (landing [(255, ⟨.full, 0, none, none⟩)] [] [] [])) (fun u => (coreOf u 0).drawers = [])] : List Bool).all id = true := by
  decide +kernel

/-- An operand of 32 rows of 32 bytes, and an instruction that shares it with the next rank: XPND. -/
def opnd0 : Opnd := ⟨0x20000, .s8, 0, 32, 1024, 0, false, 32, 32, 1, 32, 32, 1, 0, none, 0, 0, false, 0, 0, false, true, true, true⟩
def sharing : InFlight := { bareFlight 0x10040 (ins [2, 1]) with opnds := [some { opnd0 with base := 0x10000 }] }

def oneReq : CreditReq := ⟨1, 0, 0, some 3, 0, 0x1000, some 0x10000, false⟩
def atOne : Credit := ⟨5, oneReq, 255, false⟩
/-- Context 0 of partition 1 on cores 0 and 1, and landing credits of core 0 at both. -/
def paired : State :=
  let s := setCtx (landing [(255, ⟨.granted, 0, none, none⟩)] [⟨0, ⟨1, 0, 0, some 0, 0, 0x1000, some 0x10000, false⟩, 255, false⟩] [] []) 1 0 { ctxOf sigProg 1 0 with cores := [0, 1] }
  let s1 := setSlot s 0 0 { slot0 s with flight := [sharing] }
  setSlot (setCore s1 1 { LCore.reset with on := true, credits := [atOne], drawers := [(255, ⟨.granted, 3, none, none⟩)], tag := 9 }) 1 3 { slot0 s with rank := 1 }
def ofTwo (s : State) : State := { s with sch := { s.sch with owner := [(0, 2), (1, 2)] } }
/-- The same with its sender stopped. -/
def leftAlone (s : State) : State := setCore s 0 { coreOf s 0 with stopped := true }

/-- MulticastHaloAndCancelledPromises. -/
theorem test_witness_halo :
    ([(slot0 paired).det = false ∧ alive paired 1 0 = true ∧ 5 ≤ ownCount paired 1 ∧ sharesSrc 0 0x10000 9 sharing = true ∧
        (castRanks sharing 0).filterMap (coreAt paired 1 0) = [0, 1] ∧ (creditFrom paired 0 0 0x10000).isSome = true ∧ creditFrom paired 1 0 0x10000 = some atOne ∧
        firstBad paired 1 false [(0x10000, 9)] = .ok ∧
        ran (exec (.multicastSend 0 0 0 0x10000 9 [0, 1]) paired) (fun u => rdMem u 0x8000001FF000 9 = [13, 1, 0, 0, 1, 5, 0, 0, 3] ∧
          rdMem u 0x8000000FF000 9 = [13, 1, 0, 0, 1, 5, 0, 0, 3] ∧ (coreOf u 1).credits = [{ atOne with sent := true }]),
      ownCount (ofTwo paired) 1 ≤ 4 ∧ coreAt paired 1 0 1 = some 1 ∧ creditFrom (ofTwo paired) 1 0 0x10000 = some atOne ∧ slotFor (ofTwo paired) 1 1 0 = some 3 ∧
        firstBad (ofTwo paired) 1 false [(0x10000, 9)] = .ok ∧ alive (ofTwo paired) 1 0 = true ∧
        ran (exec (.haloRowSend 0 0 0 0x10000 9) (ofTwo paired)) (fun u => tget 0 (coreOf u 1).halo 3 = 1 ∧ rdMem u 0x8000001FF000 9 = [13, 1, 0, 0, 1, 5, 0, 0, 3]),
      isPromise 0 1 0 1 atOne = true ∧ senderRuns (leftAlone paired) 0 1 0 = false ∧
        ran (exec (.promiseCancel 0 1 0x10000 true) (leftAlone paired)) (fun u => rd u (tcOff 1 + 0x64) = 1 ∧
          (coreOf u 1).credits = [⟨9, { oneReq with writer := 1 }, 255, false⟩] ∧ (coreOf u 1).drawers = [(255, ⟨.granted, 3, none, none⟩)]),
      senderRuns (leftAlone (ofTwo paired)) 0 1 0 = false ∧ ran (exec (.promiseCancel 0 1 0x10000 false) (leftAlone (ofTwo paired))) (fun u => rd u (tcOff 1 + 0x68) = 1)] : List Bool).all id = true := by
  decide +kernel

/-- A cached window, and one line of it in slice 0 or 1. -/
def cachedLine : Line := ⟨5, 0, 0x20000, 1, []⟩
def cached : State :=
  let s := wr [(0x41140, 15 * 2 ^ 28), (shcReg 0 0x40, 2 ^ 16), (shcReg 1 0x40, 2 ^ 16)] sigProg
  { s with shc := [((homeOf s 1 0x20000).getD 16, ⟨[cachedLine], [], []⟩)] }

/-- SharedCacheReadsAndInvalidation. -/
theorem test_witness_shc :
    ([(let h := (homeOf cached 1 0x20000).getD 16
       (slot0 cached).det = false ∧ cachedAt cached 1 0x2003F = true ∧ cached.inval = none ∧ homeOf cached 1 0x2003F = some h ∧ h < 16 ∧ flag cached (shcReg h 0) 7 = false ∧
         hitLine cached h 1 0x2003F = some cachedLine ∧
         ran (exec (.shcRead 0 0 0 0x2003F .none) cached) (fun u => (sliceOf u h).lines = [cachedLine] ∧ u.regs = cached.regs) ∧
         ran (exec (.shcRead 0 0 0 0x2003F .single) cached) (fun u => rd u (shcReg h 4) = 1) ∧
         ran (exec (.shcRead 0 0 0 0x2003F .double) cached) (fun u => rd u (shcReg h 8) = 1 ∧ (sliceOf u h).retired = [80])),
      (let h := (homeOf cached 1 0x2003F).getD 16
       let s := { cached with shc := [] }
       hitLine s h 1 0x2003F = none ∧ (waysOf s h 1).testBit 0 ∧ ran (exec (.shcRead 0 0 0 0x2003F .none) (wrMem s 0x20000 [9])) (fun u => (sliceOf u h).lines.map (fun x => (x.addr, x.part, x.data.head?)) = [(0x20000, 1, some 9)])),
      (let h := (homeOf cached 1 0x20000).getD 16
       let s := { cached with shc := [(h, ⟨[], [], rangeFrom (16 * fieldOf 0x20000 6 11) 16⟩)] }
       hitLine s h 1 0x20000 = none ∧ (rangeFrom 0 16).all (fun w => (sliceOf s h).retired.contains (16 * fieldOf 0x20000 6 11 + w)) ∧ onlyTime (.shcRead 0 0 0 0x20000 .none) s 0),
      ran (exec (.shcInv 0 .control 1) cached) (fun u => u.inval = some 1 ∧ u.shc.all (fun e => e.2.lines.isEmpty)),
      ran (exec (.shcInv 0 .control 15) { cached with inval := some 1 }) (fun u => u.inval = some 1 ∧ u.invalQ = [15] ∧ u.shc = cached.shc),
      ran (exec (.shcInvDone 0) { cached with inval := some 1, invalQ := [15] }) (fun u => u.inval = some 15 ∧ u.invalQ = [])] : List Bool).all id = true := by
  decide +kernel

/-- An MMA that claims its rows from counter 63 of slice 0 and may claim two. -/
def dynMma : Mma :=
  { mode := 0, a := opnd0, w := opnd0, o := opnd0, r := none, x := none, raw := true, act := 0, tab := 0, clip := 0, inScale := none, outMul := 0, passes := 1,
    passTok := none, rowMask := 0, colMask := 0, tiles := [], cols := [0], mtiles := 1, start := 0, ks := [], kActive := [], wide := [], aPass := 0, wPass := 0,
    spillBase := 0, dyn := some (0, 63, 2), items := [], opened := true, redo := [], pass := 0, pos := 0, cur := none, drainQ := [], spilled := [], spillUsed := [], drained := [], stamp := 0, rowCnt := [] }
def claiming : State := wr [(0x41130, 0x2000)] (flying [{ bareFlight 0x10040 (ins [1, 1]) with mma := some dynMma }])
def counted (w : Wctr) : State := { parted with wctr := [(1023, w)] }

/-- WorkCountersServeAndCount. -/
theorem test_witness_wctr :
    ([(dynFlight (slot0 claiming)).isSome = true ∧ alive claiming 1 0 = true ∧ ctrAllowed claiming 1 0 63 = true ∧ (wctrOf claiming 63).st = .idle ∧
        (wctrOf claiming 63).waiting = [] ∧ (wctrOf claiming 63).held = [] ∧ dynMma.items.length * dynMma.cols.length ≤ dynMma.drained.length ∧
        ran (exec (.wctrClaim 0 0 ⟨0, false⟩) claiming) (fun u => (wctrOf u 63).st = .active ∧ (wctrOf u 63).next = 1 ∧ (wctrOf u 63).limit = 2 ∧ (wctrOf u 63).tag = 2 ^ 28 + 1 ∧
          (slot0 u).flight.map (fun f => f.mma.map Mma.items) = [some [0]]) ∧
        ran (exec (.wctrClaim 0 0 ⟨0, true⟩) claiming) (fun u => (wctrOf u 63).st = .poisoned ∧ (ctxOf u 1 0).cause = 0x0207),
      (let s := counted { Wctr.reset with st := .active, tag := 5, limit := 3, parts := 99, bits := [1], done := 1, sent := [(0, 5, 2, 7, 8), (1, 5, 1, 7, 8)] }
       (wctrOf s (64 * 15 + 63)).st = .active ∧
         ran (exec (.wctrCompletion 0 15 ⟨63, false⟩ 0 5 2 7 8) s) (fun u => (wctrOf u 1023).done = 2 ∧ (wctrOf u 1023).bits = [2, 1] ∧ (wctrOf u 1023).sat = 7 ∧ (wctrOf u 1023).nan = 8) ∧
         ran (exec (.wctrCompletion 0 15 ⟨63, false⟩ 1 5 1 7 8) s) (fun u => (wctrOf u 1023).done = 1 ∧ (wctrOf u 1023).dup = 1 ∧ rd u (0x60010 + 0x800 * 15) = 1)),
      ran (exec (.wctrClear 0 .control 15 63) (counted { Wctr.reset with st := .poisoned })) (fun u => (wctrOf u 1023).st = .idle)] : List Bool).all id = true := by
  decide +kernel

/-- One linear descriptor at 0x30000: nine bytes from 0x10000 to 0x40000, and the chain of partition 1 that holds it. -/
def lineDesc : List Byte := (ins [0, 0, 1, 0, 0, 0, 0, 1, 0, 0, 4, 0, 0, 0, 1, 0, 9]).take 32
def chainOf (core : Option Nat) (count : Nat) (started : List Nat) : Chain := ⟨1, 0, core, 0, 0x10000, 0x30000, count, false, none, started, [], 16, (rangeFrom 0 16).map (fun i => (i, if i = 0 then lineDesc else [])), []⟩
def chained (bs : List Byte) (e : Nat) (q : List Chain) : State := { wrMem sigProg 0x30000 bs with dma := if q.isEmpty then [] else [(e, ⟨[(3, q)]⟩)] }
def dmaIns : InFlight := { bareFlight 0x10000 (ins [11, 1, 0, 0, 0, 0, 0, 0, 0, 0, 3, 0, 0, 0, 1]) with ext := .dma }
def dmaFlying : State := setSlot (chained lineDesc 0 []) 0 0 { slot0 sigProg with flight := [dmaIns] }

/-- DmaChainsRun. -/
theorem test_witness_dma :
    ([ran (exec (.dmaChainAccept 0 21 1 0 0x30000 65535) (chained lineDesc 21 [])) (fun u => (queueOf u 21 3).map (fun c => (c.count, c.fetched, tget? c.descs 0)) = [(65535, 16, some lineDesc)]),
      chainOwner dmaFlying 0 1 0 0x30000 1 = some (0, 0, 0) ∧ flightAt dmaFlying 0 0 0 = some dmaIns ∧
        ran (exec (.dmaChainAccept 0 0 1 0 0x30000 1) dmaFlying) (fun u => (queueOf u 0 3).map Chain.core = [some 0]),
      (let c := chainOf none 1 []
       let s := chained lineDesc 21 [c]
       tget? c.descs 0 ≠ none ∧ descErr (descOf c 0) = [] ∧ descReady c 0 = true ∧ ran (exec (.dmaDescStart 0 21 3 0) s) (fun u => (queueOf u 21 3).map Chain.started = [[0]])),
      (let c := chainOf none 1 [0]
       let s := chained lineDesc 21 [c]
       cellsWf memDefault s.mem = true ∧ cellsWf flashDefault s.boot.flash = true ∧ cellsWf 0 s.hif.mem = true ∧ 0 ∈ running c ∧ descAcc s 1 (descOf c 0) = [] ∧ descOpen s 21 c (descOf c 0) = true ∧ dKind (descOf c 0) = 0 ∧ dRows (descOf c 0) = 1 ∧
         ownAddr s (dSrc (descOf c 0) 0) = some 0x10000 ∧ ownAddr s (le (descOf c 0) 8 6) = some 0x40000 ∧
         ran (exec (.dmaDescComplete 0 21 3 0) s) (fun u => rdMem u 0x40000 10 = [13, 1, 0, 0, 1, 5, 0, 0, 3, 0] ∧ queueOf u 21 3 = [] ∧ rd u (dmaReg 21 4) = 1)),
      (let c := { chainOf (some 0) 1 [] with descs := [(0, (ins [0, 0, 0, 0, 0, 0, 0, 1]).take 32)] }
       let s := chained [] 0 [c]
       running c = [] ∧ lowest (descErr (descOf c 0)) = some (0x0204, 0) ∧
         ran (exec (.dmaDescFault 0 0 3) s) (fun u => queueOf u 0 3 = [] ∧ fld u (dmaReg 0 0x10) 0 16 = 0x0204 ∧ (ctxOf u 1 0).dying = some 0)),
      (let c := { chainOf none 1 [] with descs := [] }
       ran (exec (.dmaDescFault 0 21 3) (chained [] 21 [c])) (fun u => fld u (dmaReg 21 0x10) 0 16 = fFence))] : List Bool).all id = true := by
  decide +kernel

/-- A DMA engine writes nine bytes into the scratchpad of core 0 under a placed credit; the acknowledgement comes after the bytes. -/
theorem test_witness_dma_credit :
    ([(let c := { chainOf none 1 [0] with descs := [(0, (ins [0, 0, 1, 0, 0, 0, 0, 1, 0, 0xF0, 0x0F, 0, 0, 0x80, 1, 0, 9]).take 32)] }
       let x : Credit := ⟨9, { placeReq with writer := 256 + 21 }, 255, false⟩
       let s := { chained [] 21 [c] with tc := (landing [] [x] [] []).tc }
       256 ≤ x.req.writer ∧ x.req.writer < 278 ∧ isPromise 277 1 0 0 x = false ∧
         ran (exec (.writeAck 0 0 9) s) (fun u => rdMem u 0x8000000FF000 9 = [13, 1, 0, 0, 1, 5, 0, 0, 3] ∧ (coreOf u 0).credits = [] ∧
           (queueOf u 21 3).map Chain.landed = [[(0, 0x8000000FF000, 9)]]))] : List Bool).all id = true := by
  decide +kernel

/-- Core 0 with suspect rows and spares as given. -/
def suspects (rows : Tab (List Nat)) (left : Tab Nat) : State :=
  let s := wrMem sigProg 0x8000000FFFFF [7, 7]
  setPhys s 0 { physOf s 0 with suspects := rows, left := left }

/-- MemoryErrorsAreCounted: the readers that fault, a landing drawer fetched again, a spare row, retirement. -/
theorem test_witness_read_faults :
    ([(let s := wr [(0x400000, 1)] sigProg
       slotOf s 0 0 = some (slot0 s) ∧ (ctxOf s 1 0).st = .resident ∧ ran (exec (.dramReadEcc 0 0 .double (.slot 0 0)) s) (fun u =>
         (ctxOf u 1 0).dying = some 0 ∧ (ctxOf u 1 0).halted = [0] ∧ (ctxOf u 1 0).cause = fDram)),
      (let s := wr [(0x400000, 1)] (chained lineDesc 21 [chainOf (some 0) 1 [0]])
       flag s (dmaReg 21 0x10) 31 = false ∧ ran (exec (.dramReadEcc 0 0 .misdirected (.dma 21 3)) s) (fun u =>
         queueOf u 21 3 = [] ∧ fld u (dmaReg 21 0x10) 0 16 = fDram ∧ (ctxOf u 1 0).cause = fDram)),
      ran (exec (.spadParityError 0 0 0xFFFFF (.slot 0 0)) sigProg) (fun u => (ctxOf u 1 0).cause = fSpad ∧ tget [] (physOf u 0).suspects 15 = [1023]),
      (let s := landing [(255, ⟨.full, 0, some (0x10000, 9), none⟩)] [] [] []
       tget? (coreOf s 0).drawers 255 = some ⟨.full, 0, some (0x10000, 9), none⟩ ∧ ran (exec (.spadParityError 0 0 0xFFFFF .other) s) (fun u =>
         rd u (tcOff 0 + 0x4C) = 1 ∧ (coreOf u 0).credits.map (fun c => (c.tag, c.drawer, c.req.writer)) = [(0, 255, 0)] ∧ u.ctxs = s.ctxs)),
      (let s := suspects [(15, [1023])] [(15, 1)]
       tget 32 (physOf s (physKey s 0)).left 15 = 1 ∧ ran (exec (.spadParityError 0 0 0xFFFFF .other) s) (fun u =>
         (physOf u 0).spares = 1 ∧ tget 32 (physOf u 0).left 15 = 0 ∧ rdMem u 0x8000000FFFFF 2 = [0, 7])),
      (let s := suspects [(0, [0])] [(0, 0)]
       mapOf s 0 < 17 ∧ ran (exec (.spadParityError 0 0 0 .other) s) (fun u => (coreOf u 0).stopped = true))] : List Bool).all id = true := by
  decide +kernel

/-- MemoryErrorsAreCounted, BanksCloseAndWake. -/
theorem test_witness_memory_errors :
    ([(let s := wr [(0x400000, 1)] sigProg
       let top := memTop s - 1
       flag s 0x400000 0 = true ∧ top < memTop s ∧ ran (exec (.dramReadEcc 0 top .single .other) s) (fun u => rd u (mcReg (mcOf top) 4) = 1) ∧
         ran (exec (.dramReadEcc 0 top .double .other) s) (fun u => rd u (mcReg (mcOf top) 8) = 1 ∧ fld u (mcReg (mcOf top) 0x14) 0 16 = 0x17) ∧
         ran (exec (.dramReadEcc 0 0 .misdirected .other) s) (fun u => rd u (mcReg 0 8) = 1) ∧
         ran (exec (.patrolScrub 0 5 [0, 64] []) s) (fun u => rd u (mcReg 5 4) = 2 ∧ rd u (mcReg 5 0xC) = 1)),
      (coreOf sigProg 0).stopped = false ∧ tget [] (physOf sigProg (physKey sigProg 0)).suspects 15 = [] ∧ tget? (coreOf sigProg 0).drawers 255 = none ∧
        ran (exec (.spadParityError 0 0 0xFFFFF .other) sigProg) (fun u => rd u (tcOff 0 + 0x48) = 1 ∧ tget [] (physOf u 0).suspects 15 = [1023]),
      (let s := wrMem (landing [] [] [] [(15, .closing)]) 0x8000000FFFFF [7, 7]
       bankOf s 0 15 = .closing ∧ (coreOf s 0).credits.any (fun c => creditInBank c 15) = false ∧
         ran (exec (.bankClosingDone 0 0 15) s) (fun u => bankOf u 0 15 = .gated ∧ rdMem u 0x8000000FFFFF 2 = [0, 7])),
      ran (exec (.bankGateAbort 0 0 15) (landing [] [] [] [(15, .closing)])) (fun u => bankOf u 0 15 = .on ∧ rd u (tcOff 0 + 0x60) = 1),
      ran (exec (.bankWake 0 0 15 true) (landing [] [] [] [(15, .gated)])) (fun u => bankOf u 0 15 = .waking ∧ rd u (tcOff 0 + 0x58) = 1),
      ran (exec (.bankWake 0 0 15 false) (landing [] [] [] [(15, .gated)])) (fun u => rd u (tcOff 0 + 0x5C) = 1),
      ran (exec (.bankWakeDone 0 0 15) (landing [] [] [] [(15, .waking)])) (fun u => bankOf u 0 15 = .on)] : List Bool).all id = true := by
  decide +kernel

/-! ## Partitions, contexts, boundaries, the KV cache -/

/-- A word staged at a register: written at instant `at_`. -/
def stagedAtT (off : Nat) (at_ : Time) (v : Word) (s : State) : State := { s with clk := { s.clk with tb := at_ } } |> fun x => stage x off v

/-- CommitTakesTheLastWriteBeforeIt, BoundariesRunInOrder: two writes before the boundary and one at it. -/
theorem test_witness_commit :
    ([(let off := tcOff 0 + 0x44
       let s := stagedAtT off epochNs 9 (stagedAtT off 4 8 (stagedAtT off 3 7 fresh))
       stagedAt s epochNs off = some 8 ∧ rd (commitReg epochNs s off) off = (rd s off &&& ~~~(maskOf .rwc (canonOff off))) ||| (8 &&& maskOf .rwc (canonOff off)) ∧
         tget [] (commitReg epochNs s off).pend (canonOff off) = [(epochNs, 9)] ∧ stagedAt fresh epochNs off = none),
      (fresh.sch.lastSlot + 1) % 16 ≠ 0 ∧ ran (exec .slotBoundary fresh) (fun u => u.sch.lastSlot = 1 ∧ u.clk.tb = 312500),
      railsUp fresh = false ∧ ran (exec .epochBoundary fresh) (fun u => u.clk.tb = 5000000 ∧ u.sch.lastSlot = 16 ∧ u.clk.epochsDone = 1),
      railsUp (stagedAtT (tcOff 0 + 0x44) 4 8 up) = true] : List Bool).all id = true := by
  decide +kernel

/-- Context 0 of partition 1, resident on core 0 with its END completed there, with LOOP (2) and AFFINITY (4) as given, and a FILL in flight. -/
def endedJob (loopAff : Nat) : State :=
  setCtx (flying [filling]) 1 0 { ctxOf sigProg 1 0 with ended := [0], hdr := (List.replicate 7 0 ++ [BitVec.ofNat 8 loopAff] ++ List.replicate 120 0) }
def dyingCtx : State := setCtx sigProg 1 0 { ctxOf sigProg 1 0 with dying := some 0, cause := 0x0101 }

/-- JobsEndContextsFallPartitionsReset. -/
theorem test_witness_jobs :
    ([(ctxOf (endedJob 0) 1 0).st = .resident ∧ (ctxOf (endedJob 0) 1 0).cores = [0] ∧ hdrLoop (ctxOf (endedJob 0) 1 0).hdr = false ∧ (ranksOf (endedJob 0) 1 0).length = 1 ∧
        ran (exec (.jobEnd 0 1 0) (endedJob 0)) (fun u => (ctxOf u 1 0).st = .free ∧ (ctxOf u 1 0).cores = [] ∧ rd u (jobReg 1 0 0) = 1),
      hdrLoop (ctxOf (endedJob 2) 1 0).hdr = true ∧ hdrAffinity (ctxOf (endedJob 2) 1 0).hdr = false ∧ (ctxOf (endedJob 2) 1 0).stopPend = false ∧
        ran (exec (.jobEnd 0 1 0) (endedJob 2)) (fun u => (ctxOf u 1 0).st = .resident ∧ (ctxOf u 1 0).ended = [] ∧ (slot0 u).ip = 0 ∧ (slot0 u).flight = []),
      hdrAffinity (ctxOf (endedJob 6) 1 0).hdr = true ∧ (ctxOf (endedJob 6) 1 0).stopPend = false ∧
        ran (exec (.jobEnd 0 1 0) (endedJob 6)) (fun u => (ctxOf u 1 0).ended = [] ∧ (ctxOf u 1 0).issued = false),
      (ctxOf dyingCtx 1 0).dying = some 0 ∧ ran (exec (.contextTeardown 0 1 0) dyingCtx) (fun u => (ctxOf u 1 0).st = .faulted ∧ (ctxOf u 1 0).fault = 0x0101),
      ran (exec (.partitionReset 0 1) (wr [(partOff 1, 2 ^ 31 + 2 * 2 ^ 16 + 2), (tokOff 1 63, 9)] sigProg)) (fun u => (ctxOf u 1 0).st = .free ∧ token u 1 63 = 0),
      ran (exec (.partitionReset 0 1) (wr [(tokOff 1 63, 9)] sigProg)) (fun u => (ctxOf u 1 0).st = .free ∧ token u 1 63 = 0)] : List Bool).all id = true := by
  decide +kernel

/-- The generator range open to partition 1; the context in slot 7 of core 0 stopped by the step break. -/
def genOpen : State := wr [(0x41140, 7 * 2 ^ 29 + 0x180000), (0x41144, 1)] sigProg
def broken : State := setSlot (wr [(tcOff 0 + 0x88, 7 * 2 ^ 8)] sigProg) 0 7 { slot0 sigProg with hit := true }

/-- TokensGeneratorAndStepBreak: plain tokens, BTOK, RTOK; the last byte of a block of the range; RESUME. -/
theorem test_witness_tokens :
    ([ran (exec (.schTokSignal 0 .control 0xFFFFFFFF) parted) (fun u => token u 15 63 = 0x3FFFFF ∧ u.kv = parted.kv),
      (let s := wr [(0x50008, 1024), (kvPart 15 + 8, 2 ^ 23 + 63)] parted
       boundaryTok s 15 63 = true ∧ ran (exec (.schTokSignal 0 .control 0xFFFFFFFF) s) (fun u => u.kv.bounds = [⟨15, false, none⟩])),
      (let s := wr [(noticeReg 15 0x10, 2 ^ 31 + 63 * 2 ^ 8)] parted
       releaseTok s 15 63 = true ∧ ran (exec (.schTokSignal 0 .control 0xFFFFFFFF) s) (fun u => (tget Ring.reset u.ing.rings 15).due = 1)),
      inGen 0x180000FFFF = true ∧ anyWindow genOpen 1 false 0x180000FFFF = true ∧ anyWindow genOpen 1 true 0x180000FFFF = true ∧ (ctxOf genOpen 1 0).st = .resident ∧
        (ctxOf genOpen 1 0).dying = none ∧ (ctxOf genOpen 1 0).cause = 0 ∧
        ran (exec (.genRead 7 1 0 0x180000FFFF) genOpen) (fun u => (ctxOf u 1 0).genOut = some (genByte 0 1 0 0x180000FFFF) ∧ u.regs = genOpen.regs),
      ran (exec (.genWrite 0 1 0 0x180000FFFF) genOpen) (fun u => (ctxOf u 1 0).cause = 0x0208 ∧ u.mem = genOpen.mem),
      fld broken (tcOff 0 + 0x88) 8 3 = 7 ∧ (slotOf broken 0 7).map SlotCtx.hit = some true ∧
        ran (exec (.brkResume 0 .control 0) broken) (fun u => (slotOf u 0 7).map SlotCtx.hit = some false)] : List Bool).all id = true := by
  decide +kernel

/-- A KVAPP of one row of two bytes in flight on core 0, its append, and sequence 0 with one head group. -/
def kvRow : Opnd := { opnd0 with base := 0x10000, rows := 1, cols := 2 }
def kvIns : InFlight := { bareFlight 0x10000 (ins [12, 1]) with opnds := [some kvRow, some kvRow], ext := .kvapp, aux := 5 }
def kvSeq : Seq := ⟨1, List.replicate 9 0 ++ [1] ++ List.replicate 54 0, [(0, 5)], [(0, [7, 8])], [], 64, List.replicate 64 3, true, false⟩
def kvState (a : Append) : State :=
  let s := flying [kvIns]
  { wr [(0x50008, 1024), (0x5000C, 0x10000)] s with kv := { s.kv with appends := [a], seqs := [(0, kvSeq)] } }
def appPlain : Append := ⟨1, 0, 0x10000, 0, 0, none, none, [], []⟩
def appCopy : Append := ⟨1, 0, 0x10000, 0, 0, some (8, 9), none, [], []⟩
def attnIns : InFlight := { bareFlight 0x10000 (ins [3, 1, 2]) with pages := [524287, 7], ptab := [7], units := [.fresh 9 (.attnBlock 0 1)] }

/-- KvAppendsCopiesAndPins. -/
theorem test_witness_kv :
    ([(let s := kvState appPlain
       (slot0 s).rank = 0 ∧ alive s 1 0 = true ∧ firstFlight (slot0 s) (fun _ f => decide (f.ext = .kvapp) && f.units.isEmpty) = some 0 ∧
         appendOf s 1 0 0x10000 = some appPlain ∧ firstBad s 1 false (appReads 0 kvRow ++ appReads 0 { kvRow with cols := kvRow.cols }) = .ok ∧
         ran (exec (.kvappComplete 0 0 0) s) (fun u => (slot0 u).flight.all (fun f => f.ext = .none) ∧ u.kv.appends = [] ∧
           (tget? u.kv.seqs 0).map (fun x => tget 0 x.lens 0) = some 6)),
      (let s := kvState appCopy
       firstFlight (slot0 s) (fun _ f => decide (f.ext = .kvapp) && (match appendOf s 1 0 f.ip with | none => false | some a => a.copy.isSome)) = some 0 ∧
         appendOf s 1 0 0x10000 = some appCopy ∧ tget? s.kv.seqs 0 = some kvSeq),
      firstFlight (slot0 (flying [attnIns])) (fun _ f => decide (opcodeOf f.bytes = 3) && f.pages.contains 524287) = some 0 ∧ stillReads attnIns 524287 = false ∧
        stillReads attnIns 7 = true ∧
        ran (exec (.kvPinRelease 0 0 0 524287) (flying [attnIns])) (fun u => (flightAt u 0 0 0).map InFlight.pages = some [7])] : List Bool).all id = true := by
  decide +kernel

/-- Pages 7 and 8 SEALED, and one boundary of partition 1 that has not begun. -/
def sealedState : State :=
  let s := kvState appPlain
  let s1 := phSet 8 0 1 2 (phSet 7 0 1 2 s)
  { wr [(0x50014, 65536), (kvPart 1 + 8, 2 ^ 23 + 63 * 2 ^ 8), (kvPart 1 + 0x28, 240 + 4 * 2 ^ 8)] s1 with kv := { s1.kv with hotQ := [(7, 1)], bounds := [⟨1, false, none⟩] } }

/-- KvBoundariesTreeAndHotPages. -/
theorem test_witness_kv_tree :
    ([rq sealedState 1 (fld sealedState (kvPart 1 + 0x0C) 0 12) 0x3F 1 % 2 = 0 ∧
        ran (exec (.kvBatchBoundary 0 1) sealedState) (fun u => token u 1 63 = 1 ∧ u.kv = { sealedState.kv with bounds := [] }),
      blockPages kvSeq 0 = some [7] ∧ ph sealedState 7 0 1 % 4 = 2 ∧ sealedState.kv.nodes.length < fld sealedState 0x50014 0 17 ∧ 64 ≤ kvSeq.prefixLen ∧
        ran (exec (.kvTreeInsert 0 0 0) sealedState) (fun u => u.kv.nodes.map (fun n => (n.part, n.pages, n.tokens.length)) = [(1, [7], 64)]),
      (let s := phSet 7 0x10 1 1 sealedState
       ph s 7 0x10 1 % 16 = 1 ∧ s.kv.hotQ.find? (fun e => decide (e.2 = 1)) = some (7, 1) ∧ hotPlaces s 1 = [240] ∧
         (rangeFrom 16 16).find? (fun l => decide (ownerOf s l = some 1) && !coreUnavail s l) = some 16 ∧
         rangesOpen s kvWriter none [(spadOf 16 + 0x1000 * 240, 0x4000)] = true ∧ rangesOn s [(spadOf 16 + 0x1000 * 240, 0x4000)] = true ∧
         ran (exec (.kvHotCopy 0 7 1) s) (fun u => u.kv.hotDone = [(7, 1, 240)] ∧ u.kv.hotQ = []))] : List Bool).all id = true := by
  decide +kernel

/-! ## Camera ingest, PTP and the gang -/

/-- Port 0 camera at 10.0.0.1, port 7 peer, both up; stream 511 takes UDP port 65535 of port 0, any source, with gaps of 5 µs. -/
def cam (x : Strm) : State :=
  let s := wr [(portReg 0 0, 2 ^ 30), (portReg 0 0xC, 0x0A000001), (portReg 0 0x20, 1), (portReg 7 0, 2 ^ 31 + 2 ^ 28), (portReg 7 0x20, 1),
    (entReg 511 0, 0xFFFF + 2 * 2 ^ 16), (entReg 511 0x1C, 5 + 2 * 2 ^ 16), (entReg 511 0x20, 1), (entReg 511 0xC, 16 * 2 ^ 16 + 16)] up
  { s with ing := { s.ing with strms := [(511, x)] } }
def running511 : Strm := { Strm.reset with st := .run, synced := true, expected := some 65535, ssrc := some 3 }
def heldAt (sq : Nat) (a : Time) : HeldPkt := ⟨⟨sq, 0, 3, false, [0x65], true, true, false, true, false, none⟩, a⟩
def au0 : Au := ⟨7, 0, 0, 0, 100, true, false, true, false, false, false, false, false, none, some 3, 0⟩
def pic0 : PicBuf := ⟨3, 1, some 7, [], false, true, [], false⟩
/-- A PAUSE frame, and the packet that stream 511 expects. -/
def pauseFrame : RxFrame := ⟨ethFrame 1 0x8808 [0, 1, 0, 0], 0, false⟩
def goodFrame : RxFrame := rtpFrame 65535 0 3 65535

/-- The receive buffer of port 0 full: 256 packets of 1 KiB wait for their ring. -/
def fullRx : State :=
  let s := cam running511
  { s with ing := { s.ing with rx := [(0, List.replicate 256 ⟨511, 0, List.replicate 1024 0⟩)] } }

/-- LinksAndReceivedFrames: links with and without an option that is supported. -/
theorem test_witness_links :
    ([portOk (cam Strm.reset) 7 = true ∧ ran (exec (.ethLinkUp 0 7) (wr [(portReg 7 0x20, 0)] (cam Strm.reset))) (fun u => linkUp u 7 = true),
      portOk (cam Strm.reset) 6 = false ∧ onlyTime (.ethLinkUp 3 6) (cam Strm.reset) 3,
      linkUp (cam Strm.reset) 7 = true ∧ ran (exec (.ethLinkDown 0 7) (cam Strm.reset)) (fun u => linkUp u 7 = false ∧ rd u (portReg 7 0x24) = 1)] : List Bool).all id = true := by
  decide +kernel

/-- LinksAndReceivedFrames: a frame for every counter, the expected packet, and the farthest one that is still held. -/
theorem test_witness_frames :
    ([ran (exec (.rxFrame 0 0 { goodFrame with bytes := goodFrame.bytes.set 20 1 }) (cam running511)) (fun u => rd u (portReg 0 0x28) = 1 ∧ rd u (portReg 0 0x2C) = 1),
      fcsOk pauseFrame.bytes = true ∧ pauseFrame.bytes.length = 64 ∧ isPause (ethOf pauseFrame.bytes) = true ∧ carried (ethOf pauseFrame.bytes) ≠ .bad ∧
        ran (exec (.rxFrame 0 0 pauseFrame) (cam running511)) (fun u => rd u (portReg 0 0x40) = 1),
      (let s := wr [(portReg 0 0, 2 ^ 30 + 2 ^ 12 + 5)] (cam running511)
       (ethOf goodFrame.bytes).vlan = none ∧ flag s (portReg 0 0) 12 = true ∧ ran (exec (.rxFrame 0 0 goodFrame) s) (fun u => rd u (portReg 0 0x30) = 1)),
      ownIp (cam running511) 0 ⟨false, 0, 0x0A000001, 0, 65535, []⟩ = true ∧ matchEntry (cam running511) 0 65535 3 = some 511 ∧ seqDist running511 65535 = 0 ∧
        ptpOf false (ethOf goodFrame.bytes) = none ∧ portMode (cam running511) 0 = 1,
      ran (exec (.rxFrame 0 0 goodFrame) (cam { running511 with bufs := [{ pic0 with busy := false }] })) (fun u => (strmOf u 511).expected = some 0 ∧
        (rxOf u 0).map RxWait.bytes = [[0x65, 1, 2, 3]] ∧ (strmOf u 511).aus.map (fun a => (a.size, a.rap, a.buf)) = [(4, true, some 3)]),
      (let s := fullRx
       rxUsed s 0 = 0x40000 ∧ ran (exec (.rxFrame 0 0 goodFrame) s) (fun u => rd u (portReg 0 0x38) = 1)),
      seqDist running511 1022 = 1023 ∧ flag (cam running511) (entReg 511 0) 28 = false ∧ flag (cam running511) (portReg 0 0) 12 = false ∧
        ran (exec (.rxFrame 0 0 (rtpFrame 1022 0 3 65535)) (cam running511)) (fun u => (strmOf u 511).held.map (fun h => h.pkt.seq) = [1022])] : List Bool).all id = true := by
  decide +kernel

/-- A cyclic redundancy code of 32 bits keeps within 32 bits. -/
theorem crcByte_lt (c : Nat) (b : Byte) (h : c < 2 ^ 32) : crcByte 0xEDB88320 c b < 2 ^ 32 := by
  have bit : ∀ x, x < 2 ^ 32 → crcBit 0xEDB88320 x < 2 ^ 32 := by
    intro x hx
    unfold crcBit
    split
    · exact Nat.xor_lt_two_pow (by omega) (by omega)
    · omega
  have hb : c ^^^ b.toNat < 2 ^ 32 := Nat.xor_lt_two_pow h (by have := b.isLt; omega)
  exact bit _ (bit _ (bit _ (bit _ (bit _ (bit _ (bit _ (bit _ hb)))))))

theorem crcBytes_lt (l : List Byte) : ∀ c, c < 2 ^ 32 → crcBytes 0xEDB88320 c l < 2 ^ 32 := by
  induction l with
  | nil => intro c h; exact h
  | cons b r ih => intro c h; exact ih _ (crcByte_lt c b h)

/-- A frame whose last four bytes are the check sequence of those before them is good, and its header is read from those. -/
theorem fcsOk_append (p : List Byte) : fcsOk (p ++ leBytes 4 (crcBytes 0xEDB88320 0xFFFFFFFF p ^^^ 0xFFFFFFFF)) = true := by
  have h : crcBytes 0xEDB88320 0xFFFFFFFF p ^^^ 0xFFFFFFFF < 2 ^ 32 := Nat.xor_lt_two_pow (crcBytes_lt p _ (by omega)) (by omega)
  have hl : ∀ v : Nat, v < 2 ^ 32 → leVal (leBytes 4 v) = v := by intro v hv; simp [leBytes, leVal]; omega
  have e : (p ++ leBytes 4 (crcBytes 0xEDB88320 0xFFFFFFFF p ^^^ 0xFFFFFFFF)).length - 4 = p.length := by simp [leBytes]
  unfold fcsOk
  rw [e, List.drop_left, List.take_left, hl _ h]
  exact decide_eq_true rfl

/-- LinksAndReceivedFrames: a good frame of `n` bytes behind its header, and one of 9 217 bytes in all. -/
def longBody (n : Nat) : List Byte := 0 :: 0 :: 0 :: 0 :: 0 :: 1 :: 0 :: 0 :: 0 :: 0 :: 0 :: 2 :: 0x88 :: 0xB5 :: List.replicate n 0
def longFrame (n : Nat) : RxFrame := ⟨longBody n ++ leBytes 4 (crcBytes 0xEDB88320 0xFFFFFFFF (longBody n) ^^^ 0xFFFFFFFF), 0, false⟩
theorem longFrame_carried (n : Nat) : carried (ethOf (longFrame n).bytes) = .other := by
  have e : ∀ c : Nat, (longBody n ++ leBytes 4 c).length - 4 = (longBody n).length := by simp [leBytes]
  have h : be (longBody n) 12 2 = 0x88B5 := rfl
  unfold longFrame ethOf
  rw [e, List.take_left]
  simp [h, carried]
theorem longFrame_length (n : Nat) : (longFrame n).bytes.length = n + 18 := by
  simp [longFrame, longBody, leBytes]
theorem test_witness_oversize :
    ∃ f : RxFrame, portOk (cam running511) 0 = true ∧ fcsOk f.bytes = true ∧ carried (ethOf f.bytes) ≠ .bad ∧ f.bytes.length = 9217 := by
  refine ⟨longFrame 9199, by decide +kernel, fcsOk_append _, ?_, longFrame_length _⟩
  rw [longFrame_carried]
  exact Carried.noConfusion

/-- GapsIdleStreamsAndCompleteUnits: a gap at its time, before it, and a full window; an idle stream; a marker. -/
theorem test_witness_gaps :
    ([(let s := cam { running511 with held := [heldAt 1 0] }
       ran (exec (.gapTimeout 5000 511) s) (fun u => rd u (strReg 511 0x14) = 2) ∧ onlyTime (.gapTimeout 4999 511) s 4999),
      ran (exec (.gapTimeout 0 511) (cam { running511 with held := [heldAt 1 0, heldAt 3 0] })) (fun u => rd u (strReg 511 0x14) = 2),
      idleNs (cam running511) 511 = 1000000 ∧ ran (exec (.auIdleTimeout 1000000 511) (cam running511)) (fun u => (strmOf u 511).st = .resync ∧ (strmOf u 511).synced = false),
      ran (exec (.auComplete 0 511) (cam { running511 with aus := [au0] })) (fun u => (strmOf u 511).aus = [{ au0 with complete := true }])] : List Bool).all id = true := by
  decide +kernel

/-- A stream with an access unit in decode in its one buffer, and partition 1's notice ring with slot 3 taken and one entry signalled. -/
def decoding : State := cam { running511 with aus := [{ au0 with complete := true, started := true }], bufs := [pic0] }
def noticed : State :=
  let s := wrMem (wr [(noticeReg 1 0x10, 2 ^ 31), (noticeReg 1 8, 0x50000)] (cam Strm.reset)) 0x50000 [7, 0, 0, 0, 255, 1, 3, 0]
  { s with ing := { s.ing with rings := [(1, ⟨4, 0, 1, [(3, (511, 7))], []⟩)] } }

/-- DecodePublishAndRelease. -/
theorem test_witness_decode :
    ([(let s := cam { running511 with aus := [au0], bufs := [pic0] }
       inProgress s 0 < 4 ∧ nextStart s 0 = some (511, au0) ∧ ran (exec (.decodeStart 0 0) s) (fun u => (strmOf u 511).aus = [{ au0 with started := true }])),
      auOf (strmOf decoding 511) 7 = some { au0 with complete := true, started := true } ∧ outputOf (codecOf decoding 511) (picOf 2 2 8 1) = some true ∧
        2 ≤ declW decoding 511 ∧ 2 ≤ declH decoding 511 ∧ 1 ≤ nbufOf decoding 511 - 1 ∧
        ran (exec (.decodeComplete 0 511 7 (.picture (picOf 2 2 8 1))) decoding) (fun u => rd u (strReg 511 0xC) = 1 ∧ (strmOf u 511).aus = []),
      ran (exec (.decodeComplete 0 511 7 .error) decoding) (fun u => rd u (strReg 511 0x2C) = 1 ∧ rd u (strReg 511 0x24) = 1),
      ran (exec (.decodeComplete 0 511 7 .poison) decoding) (fun u => rd u (strReg 511 0x24) = 1),
      ran (exec (.decodeComplete 0 511 7 .unsupported) decoding) (fun u => rd u (strReg 511 0x24) = 1),
      (nringOf noticed 1).due = 1 ∧ ran (exec (.noticeRelease 0 1) noticed) (fun u => (nringOf u 1).slots = [] ∧ (nringOf u 1).rel = 1),
      ran (exec (.noticeRelease 0 1) (wrMem noticed 0x50000 [8])) (fun u => (nringOf u 1).slots = [(3, (511, 7))] ∧ rd u (noticeReg 1 0x18) = 1)] : List Bool).all id = true := by
  decide +kernel

/-- The servo on, with a gain of one (KP = 256), on port 0 over UDP in domain 127; a master of priority 5. -/
def servo0 : State := wr [(ptpReg 0, 2 ^ 31 + 127), (ptpReg 4, 256)] (cam Strm.reset)
def ptpMsg (source : Nat) : PtpMsg := ⟨0, false, 127, source⟩
def ann (p id : Nat) : Announce := ⟨p, 0, 0, 0, 0, id, 0, 8⟩
def mastered (l : List Foreign) : State := { servo0 with ing := { servo0.ing with masters := l } }
def servo : State := mastered [⟨3, ann 5 1, 0, true⟩]

/-- PtpDisciplinesTheTimebase: the first Sync, a grandmaster behind the counter, a late one that asks for more than 500 ppm, holdover. -/
theorem test_witness_ptp :
    ([ptpTaken servo (ptpMsg 3) 8 = true ∧ ofMaster servo (ptpMsg 3) = true ∧ ofMaster servo0 (ptpMsg 3) = false ∧ onlyTime (.ptpSync 10 (ptpMsg 3) 1000 8) servo0 10 ∧ originSet servo = false ∧
        ran (exec (.ptpSync 10 (ptpMsg 3) 1000 8) servo) (fun u => originSet u = true ∧ originOf u = 990 ∧ u.clk.tb = 10),
      ran (exec (.ptpSync 10 (ptpMsg 3) 4 8) servo) (fun u => originOf u = -6),
      (let s := after (exec (.ptpSync 10 (ptpMsg 3) 1000 7) servo) servo
       originSet s = true ∧ ran (exec (.ptpSync 20 (ptpMsg 3) 601010 7) s) (fun u => rd u (ptpReg 0x10) = 600000 ∧ rd u 0x110 = 500000 ∧ originOf u = 990)),
      ran (exec (.ptpHoldover 8000000000) (after (exec (.ptpSync 0 (ptpMsg 3) 1000 7) servo) servo)) (fun u => flag u (ptpReg 0xC) 2 = true)] : List Bool).all id = true := by
  decide +kernel

/-- PtpDisciplinesTheTimebase: delays and masters.  A Sync that left at 1000 and came at 1014, a request that left at 1020 and
came at 1026: 20 ns there and back, and with seven older ones of 28 together a mean of 48 / 16. -/
theorem test_witness_ptp_more :
    ([(let s := { servo with ing := { servo.ing with delays := [1, 2, 3, 4, 5, 6, 7, 8], lastSync := some (1014, 7, 1000) } }
       ptpTaken s (ptpMsg 3) 8 = true ∧ ofMaster s (ptpMsg 3) = true ∧ ran (exec (.ptpDelayResp 0 ⟨ptpMsg 3, 1020, 1026, 8⟩) s) (fun u => u.ing.delays = [20, 1, 2, 3, 4, 5, 6, 7] ∧ rd u (ptpReg 0x14) = 3)),
      ptpTaken servo (ptpMsg 9) 0 = true ∧ ran (exec (.ptpAnnounce 0 ⟨ptpMsg 9, ann 5 2⟩) servo) (fun u => u.ing.masters = [⟨3, ann 5 1, 0, true⟩, ⟨9, ann 5 2, 0, false⟩] ∧ bestMaster u = some 3),
      (let s := mastered [⟨3, ann 5 1, 0, true⟩, ⟨9, ann 4 2, 0, false⟩]
       let f := announced s (ptpMsg 9) (ann 4 2)
       f.qualified = true ∧ masterLive s f = true ∧ betterMaster f ⟨3, ann 5 1, 0, true⟩ = true ∧ betterMaster ⟨3, ann 5 1, 0, true⟩ f = false ∧
         ran (exec (.ptpAnnounce 0 ⟨ptpMsg 9, ann 4 2⟩) s) (fun u => bestMaster u = some 9)),
      masterLive (advance servo (2 ^ 40)) ⟨3, ann 5 1, 0, true⟩ = false ∧ bestMaster (advance servo (2 ^ 40)) = none] : List Bool).all id = true := by
  decide +kernel

/-- A gang of two, this module member 1, and a chain with a descriptor to member 0. -/
def ganged : State := wr [(0x40008, 2 * 2 ^ 8 + 1)] (cam Strm.reset)
def peerDesc : List Byte := (ins [0, 0, 1, 0, 0, 0, 0, 1, 0, 0, 0, 0, 0, 64, 1, 0, 9]).take 32
def peerChain : Chain := ⟨1, 0, none, 0, 0, 0x30000, 1, false, none, [], [], 16, [(0, peerDesc)], []⟩
def toPeer : State := { wrMem ganged 0x30000 peerDesc with dma := [(16, ⟨[(3, [peerChain])]⟩)] }

/-- GangFramesTimeAndLoss. -/
theorem test_witness_gang :
    ([(let s := wr [(0x41100, 2 ^ 31 + 2), (0x41140, 7 * 2 ^ 29), (0x41144, 0x1000)] ganged
       isPeer s 7 = true ∧ tget 0 s.gang.seqs 0 = 0 ∧ spadCore 0xFFFFFFF = none ∧ checkAcc s 1 true 0xFFFFFFF 1 = .ok ∧
         ran (exec (.peerFrame 0 7 0 0 true (.write 1 0xFFFFFFF [5] (some 63))) s) (fun u => rdMem u 0xFFFFFFF 1 = [5] ∧ token u 1 63 = 1 ∧ tget 0 u.gang.seqs 0 = 1)),
      gangMember ganged = 1 ∧ ran (exec (.peerFrame 0 7 0 0 true (.service 0 true 2)) ganged) (fun u => tget false u.gang.want 0 = true),
      ran (exec (.peerFrame 4 7 0 1 true (.write 1 0 [5] none)) ganged) (fun u => rd u (portReg 7 0x28) = 1 ∧ u.mem = ganged.mem),
      ran (exec (.peerFrame 4 7 0 0 false (.write 1 0 [5] none)) ganged) (fun u => rd u (portReg 7 0x28) = 1 ∧ u.mem = ganged.mem),
      isPeer ganged 0 = false ∧ onlyTime (.peerFrame 4 0 0 0 true (.write 1 0 [5] none)) ganged 4,
      isPeer ganged 7 = true ∧ linkUp ganged 7 = true ∧ gangMember ganged ≠ 0,
      (0 : Nat) ≠ gangMember toPeer ∧ 0 < gangSize toPeer ∧ chainTo toPeer 0 peerChain = true ∧
        ran (exec (.peerUnreachable 0 0) toPeer) (fun u => queueOf u 16 3 = [])] : List Bool).all id = true := by
  decide +kernel

/-! ## Display -/

/-- Output 3 runs a 4 × 4 raster of 7 × 7 at 1 MHz, layer 7 a 4 × 4 picture at 0x60000 with a pitch of 64; `x` is the output. -/
def out3 (x : Dpo) : State :=
  let s := wr [(dpoReg 3 0, 2 ^ 31), (dpoReg 3 4, 1 + 4), (dpoReg 3 0x10, 1000000), (dpoReg 3 0x14, 4 * 2 ^ 16 + 1), (dpoReg 3 0x18, 2 ^ 16 + 1), (dpoReg 3 0x1C, 4 * 2 ^ 16 + 1),
    (dpoReg 3 0x20, 2 ^ 16 + 1), (layReg 3 7 0, 2 ^ 31 + 3 * 2 ^ 20), (layReg 3 7 4, 0x60000), (layReg 3 7 0x10, 64), (layReg 3 7 0x18, 4 * 2 ^ 16 + 4),
    (layReg 3 7 0x20, 4 * 2 ^ 16 + 4), (layReg 3 7 0x24, 4)] (wrMem up 0x60040 [1, 2, 3, 4])
  { s with dpo := [(3, x)] }
def off3 (en : Bool) : State := wr [(dpoReg 3 4, 0), (dpoReg 3 0, if en then 2 ^ 31 else 0)] (out3 Dpo.reset)

/-- FramesLinesAndPixels. -/
theorem test_witness_frames_lines :
    ([(let s := out3 { Dpo.reset with line := 2 }
       flag s (dpoReg 3 4) 0 = true ∧ (dpoOf s 3).line + 1 < (vActive s 3 : Int) ∧ onlyTime (.dpoFrameBoundary 5 3 []) s 5),
      ran (exec (.dpoFrameBoundary 0 3 []) (out3 { Dpo.reset with line := 3 })) (fun u => rd u (dpoReg 3 0x30) = 1 ∧ (dpoOf u 3).line = -3),
      (let s := wr [(0x208, 2 ^ 11)] (out3 { Dpo.reset with line := 3 })
       (holdWord (advance s 1) 1).getLsbD 11 = true ∧ ran (exec (.dpoFrameBoundary 1 3 []) s) (fun u => rd u 0x214 = 1)),
      flag (off3 true) (dpoReg 3 4) 0 = false ∧ ran (exec (.dpoFrameBoundary 0 3 []) (off3 true)) (fun u => flag u (dpoReg 3 4) 0 = true ∧ rd u (dpoReg 3 0x30) = 1),
      ran (exec (.dpoFrameBoundary 0 3 []) (off3 false)) (fun u => flag u (dpoReg 3 4) 0 = false),
      ran (exec (.scanLineStart 0 3) (out3 { Dpo.reset with line := -2 })) (fun u => (dpoOf u 3).line = -1 ∧ (dpoOf u 3).pix = []),
      ran (exec (.scanLineStart 0 3) (out3 { Dpo.reset with line := -1, coefLoad := true, flipped := true })) (fun u =>
        (dpoOf u 3).line = 0 ∧ (dpoOf u 3).pix.length = 4 ∧ rd u (dpoReg 3 0x6C) = 1),
      (let s := out3 { Dpo.reset with line := 0 }
       layPic s 3 7 = some (0x60000, 0, 64) ∧ firstNeeded s 3 7 ≤ 1 ∧ neededBlocks s 3 7 1 = [0] ∧
         ran (exec (.lineFetch 0 3 (.source 7 1) [0, 9]) s) (fun u => findLine (dpoOf u 3).lines 7 1 = some ⟨7, 1, [1, 2, 3, 4] ++ List.replicate 12 0, [0]⟩)),
      ran (exec (.pixelUnderrun 0 3 3) (out3 { Dpo.reset with pix := [none, none, some (1, 2, 3), none] })) (fun u =>
        (dpoOf u 3).pix = [none, none, some (1, 2, 3), some (1, 2, 3)] ∧ rd u (dpoReg 3 0x50) = 1 ∧ rd u (dpoReg 3 0x4C) = 1),
      ran (exec (.pixelUnderrun 0 3 0) (out3 { Dpo.reset with pix := [none], lastPix := (7, 8, 9), under := true })) (fun u =>
        (dpoOf u 3).pix = [some (7, 8, 9)] ∧ rd u (dpoReg 3 0x4C) = 0)] : List Bool).all id = true := by
  decide +kernel

/-- COEF_LOAD_COMPLETE in blanking and in a line (FramesLinesAndPixels); DPO_TRAIN, hot plug, AUX and USB (LinkAuxAndTouch). -/
theorem test_witness_link :
    ([ran (exec (.coefLoadComplete 0 3) (out3 { Dpo.reset with line := -1, coefLoad := true })) (fun u => (dpoOf u 3).coef.length = 1792),
      ran (exec (.coefLoadComplete 0 3) (out3 { Dpo.reset with coefLoad := true })) (fun u => (dpoOf u 3).coef = [] ∧ (dpoOf u 3).coefNext.isSome = true),
      linkBad (out3 Dpo.reset) 3 = false ∧ ran (exec (.dpoTrain 0 .control 3) (out3 Dpo.reset)) (fun u => flag u (dpoReg 3 4) 4 = true),
      (let s := wr [(0x480004, 2 ^ 32 - 1), (dpoReg 3 0x10, 2 ^ 32 - 1)] (out3 Dpo.reset)
       lockTaken s = true ∧ hostMay s (dpoReg 3 0xC) = true ∧ linkBad s 3 = true ∧ ran (exec (.dpoTrain 0 .host 3) s) (fun u => fld u (dpoReg 3 4) 16 16 = 0x0801 ∧ u.svc.untold = [(.output 3, 0x0801, 0)])),
      ran (exec (.dpoTrainDone 0 3 false) (wr [(dpoReg 3 4, 1 + 16)] (out3 Dpo.reset))) (fun u => fld u (dpoReg 3 4) 16 16 = 0x0802 ∧ flag u (dpoReg 3 4) 4 = false),
      ran (exec (.hpdChange 0 3 false) (wr [(dpoReg 3 4, 1 + 4 + 8)] (out3 Dpo.reset))) (fun u => flag u (dpoReg 3 4) 2 = false ∧ flag u (dpoReg 3 4) 3 = false),
      ran (exec (.irqHpd 0 3 true) (out3 Dpo.reset)) (fun u => fld u (dpoReg 3 4) 16 16 = 0x0803),
      ran (exec (.auxGo 0 .control 3 0xFFFFFFFF) (out3 Dpo.reset)) (fun u => flag u (dpoReg 3 0xC4) 31 = true ∧ rd u (dpoReg 3 0xC0) = 0x0FFFFFFF),
      (let s := fun n => wr [(dpoReg 3 0xC4, 2 ^ 31)] (out3 { Dpo.reset with tries := n })
       ran (exec (.auxReply 0 3 .defer) (s 6)) (fun u => (dpoOf u 3).tries = 7 ∧ flag u (dpoReg 3 0xC4) 31 = true) ∧
         ran (exec (.auxReply 0 3 .defer) (s 7)) (fun u => fld u (dpoReg 3 0xC4) 2 2 = 2) ∧ ran (exec (.auxReply 0 3 .nack) (s 0)) (fun u => fld u (dpoReg 3 0xC4) 2 2 = 1) ∧
         ran (exec (.auxReply 0 3 .timeout) (s 0)) (fun u => fld u (dpoReg 3 0xC4) 2 2 = 3) ∧ ran (exec (.auxReply 0 3 (.ack [])) (s 0)) (fun u => flag u (dpoReg 3 0xC4) 31 = false)),
      ran (exec (.usbConnectChange 0 1 3 []) up) (fun u => fld u (usbReg 1 0) 29 2 = 3 ∧ flag u (usbReg 1 0) 28 = true),
      (let s := wr [(usbReg 1 0, 2 ^ 31 + 2 ^ 28), (usbReg 1 4, 5 * 2 ^ 24 + 2 * 2 ^ 20), (usbReg 1 0x18, 2 ^ 31)] (out3 Dpo.reset)
       ran (exec (.usbTouchReport 0 1 [5, 0]) s) (fun u => rd u (usbReg 1 0x24) = 2 ∧ rd u (usbReg 1 0x28) = 2) ∧ onlyTime (.usbTouchReport 6 1 [4]) s 6)] : List Bool).all id = true := by
  decide +kernel

/-- Layer 7 is the enhanced one; requests go to ring 0x70000 of partition 1 with token 63. -/
def neural (x : Dpo) : State :=
  wr [(layReg 3 7 0, 2 ^ 31 + 2 ^ 29 + 2 ^ 28 + 3 * 2 ^ 20), (dpoReg 3 0x88, 2 ^ 31 + 2 ^ 24 + 63 * 2 ^ 18), (dpoReg 3 0x8C, 0), (dpoReg 3 0x94, 0x70000)] (out3 x)
def stripe0 : NStripe := ⟨0, 0, 1, 0, 0, true, false, some 0, 7, 0, 0, none⟩
def selected : Sel := ⟨0, none, ⟨0, 0, 0, 0, 0⟩, ⟨0, 0, 0, 0, 0⟩, 0, false, false⟩

/-- StripesAreRequestedAndJudged. -/
theorem test_witness_stripes :
    ([(let s := neural Dpo.reset
       (releaseSnap s 3 0).isSome = true ∧ frameAtLine s 3 0 = some 0 ∧ (selFor (selectFrame s 3 0 []) 3 0).isSome = true ∧
         ran (exec (.stripeRelease 0 3 0 []) s) (fun u => rd u (dpoReg 3 0xA8) = 1 ∧ token u 1 63 = 1 ∧ rdMem u 0x70000 6 = [0, 0, 0, 0, 1, 3])),
      ran (exec (.stripeRelease 0 3 0 []) (neural { Dpo.reset with blocked := true })) (fun u => rd u (dpoReg 3 0x58) = 1 ∧ rd u (dpoReg 3 0xA8) = 0),
      (let s := neural { Dpo.reset with stripes := [stripe0], sel := some selected }
       (selFor s 3 0).isSome = true ∧ (snapOf s 3 selected).isSome = true ∧
         ran (exec (.stripeDeadline 0 3 0) s) (fun u => (dpoOf u 3).stripes = [{ stripe0 with neural := some true }] ∧ rd u (dpoReg 3 0x54) = 0)),
      ran (exec (.stripeDeadline 0 3 0) (neural { Dpo.reset with stripes := [{ stripe0 with seen := none }], sel := some selected })) (fun u =>
        (dpoOf u 3).stripes = [{ stripe0 with seen := none, neural := some false }] ∧ rd u (dpoReg 3 0x54) = 1)] : List Bool).all id = true := by
  decide +kernel

/-! ## Motion and safe inputs and outputs -/

/-- Line mode at 1 ms, running at cycle 5; port 0 with rings and, where asked, axis 63 of group 7; `x` is port 0. -/
def motion (x : MPort) : State :=
  let s := wr [(0x380000, 2 ^ 30 + 2 ^ 29 + 2 ^ 24 + 2 ^ 20), (0x380004, 1000000), (0x38000C, 64 * 2 ^ 16), (0x38001C, 1), (mpReg 0 0x10, 2 ^ 31 + 63), (mpReg 0 0x14, 3),
    (axReg 63 0, 2 ^ 31 + 7 * 2 ^ 20)] up
  { s with mot := { s.mot with next := 5, ports := [(0, x)] } }
/-- A frame of cycle 5, on its way since `st`. -/
def tx5 (st : Option Time) : Tx := ⟨5, st, [], List.replicate 64 0, 0, [], [], 0, 0, 0, [], []⟩
def flying5 (st : Option Time) : State := motion { MPort.reset with tx := some (tx5 st), loss := 0 }
/-- The frame that comes back with a working counter. -/
def back (w : Nat) : FrameCopy := ⟨false, w, [1, 2]⟩

/-- MotionCyclesAndFrames: each event at its instant and just before it. -/
theorem test_witness_cycles :
    ([motRunning (motion MPort.reset) = true ∧ emitAt (motion MPort.reset) 5 = 5000000 ∧ activePorts (motion MPort.reset) = [0] ∧
        ran (exec (.emissionPoint 5000000) (motion { MPort.reset with good := some (List.replicate 64 0) })) (fun u => u.mot.next = 6 ∧ rd u 0x380020 = 5 ∧ ((mportOf u 0).tx.map Tx.cycle) = some 5) ∧
        onlyTime (.emissionPoint 4999999) (motion MPort.reset) 4999999,
      ran (exec (.frameSend 5016000 ⟨0, [⟨5, 0x1000, [1]⟩]⟩) (flying5 none)) (fun u => ((mportOf u 0).tx.map Tx.start) = some (some 5016000) ∧
          ((mportOf u 0).tx.map Tx.sysTime) = some 5016640 ∧ ((mportOf u 0).tx.map Tx.acyclic) = some [⟨5, 0x1000, [1]⟩]) ∧
        onlyTime (.frameSend 5015999 ⟨0, []⟩) (flying5 none) 5015999,
      topo (flying5 none) ≠ 2 ∧ ran (exec (.frameReturn 6000000 0 false (back 3) none) (flying5 (some 5016000))) (fun u =>
        (mportOf u 0).tx = none ∧ ((mportOf u 0).inp.map InSet.valid) = some true ∧ (mportOf u 0).loss = 0),
      ran (exec (.frameReturn 6000000 0 false (back 4) none) (flying5 (some 5016000))) (fun u => ((mportOf u 0).inp.map InSet.valid) = some false ∧ rd u (mpReg 0 0x30) = 1 ∧
        (mportOf u 0).loss = 1),
      ran (exec (.frameLossTimeout 6000000 0) (flying5 (some 5016000))) (fun u => (mportOf u 0).tx = none ∧ rd u (mpReg 0 0x2C) = 1) ∧
        onlyTime (.frameLossTimeout 5999999 0) (flying5 (some 5016000)) 5999999,
      ringsOn (motion MPort.reset) 0 = true ∧ ran (exec (.commandSetSignal 0 0) (wr [(tokOff 0 63, 1)] (motion MPort.reset))) (fun u => (mportOf u 0).ptr = 1) ∧
        onlyTime (.commandSetSignal 3 0) (motion MPort.reset) 3 ∧ onlyTime (.commandSetSignal 3 1) (motion MPort.reset) 3,
      ran (exec (.motLinkChange 0 1 true) (wr [(0x380000, 2 ^ 31)] up)) (fun u => flag u (mpReg 1 0x18) 0 = true ∧ fld u 0x38001C 6 2 = 1)] : List Bool).all id = true := by
  decide +kernel

/-- Group 7 as given, START gone, port 0 with rings and the set of its cycle on time, cycles running: items 1 and 2 of R395 hold for a group whose causes are
recorded. -/
def grouped (g : Grp) (regs : List (Nat × Nat)) : State :=
  let s := wr ([(0x380000, 2 ^ 30 + 2 ^ 29), (0x38001C, 1), (0x20000, 7 * 2 ^ 29), (mpReg 0 0x10, 2 ^ 31), (grpReg 7 0xC, 1)] ++ regs) up
  { s with sio := { s.sio with grps := (rangeFrom 0 7).map (fun i => (i, ⟨none, none, false, false, none⟩)) ++ [(7, g)], start := false, hold := false },
           mot := { s.mot with ports := [(0, { MPort.reset with onTime := true })] } }
def clear7 : Grp := ⟨none, none, false, false, none⟩
def set7 : Grp := ⟨some 0, some 0, false, false, none⟩
/-- Input 7 and output 7 in use, both channels, naming group 7, with test pulses. -/
def inp7 (role : Nat) : List (Nat × Nat) := [(siReg 7 0, 2 ^ 30 + role * 2 ^ 28 + 2 ^ 23 + 1), (siReg 7 4, 2 ^ 31)]
def out7 (mode : Nat) : List (Nat × Nat) := [(soReg 7 0, mode * 2 ^ 30 + 2 ^ 23 + 2), (soReg 7 4, 2 ^ 31)]
def pressed (p r : Time) (s : State) : State := setSin s 7 { SIn.reset with press := some p, rel := some r }
def bothSet (u : State) : Bool := (grpOf u 7).latA.isSome && (grpOf u 7).latB.isSome

/-- SafeInputsOutputsAndResets: latches, inputs and their faults. -/
theorem test_witness_inputs :
    ([(let s := grouped clear7 []
       ran (exec (.latchSet 0 7 15 true false) s) (fun u => (grpOf u 7).latA.isSome = true ∧ flag u (grpReg 7 4) 15 = true ∧ fld u (grpReg 7 0) 0 16 = 0x90F) ∧
         ran (exec (.latchSet 0 7 1 false true) s) (fun u => (grpOf u 7).latB.isSome = true ∧ grpTripped u 7 = true)),
      (let s := grouped clear7 (inp7 0)
       sinOn s 7 = true ∧ sinRole s 7 = 0 ∧ demandDue (levelOn s 7 .b) 7 .b = true ∧ ran (exec (.safeInputDemand 0 7 .b) s) (fun u => (latOf u 7 .b).isSome = true ∧ sinDemand u 7 = true)),
      (let s := setSin (grouped clear7 ((siReg 7 0, 2 ^ 30 + 2 ^ 23 + 2 ^ 8 + 1) :: (inp7 0).tail)) 7 { SIn.reset with demB := false, sinceB := none }
       filterNs s 7 = 50000 ∧ demandDue (levelOn (advance s 9) 7 .b) 7 .b = false ∧ ran (exec (.safeInputDemand 9 7 .b) s) (fun u => (sinOf u 7).sinceB = some 9 ∧ (latOf u 7 .b).isNone) ∧
         ran (exec (.safeInputDemand 50009 7 .b) (levelOn (advance s 9) 7 .b)) (fun u => (latOf u 7 .b).isSome)),
      (let s := setSin (grouped clear7 (inp7 0 ++ [(siReg 7 8, 16)])) 7 { SIn.reset with demA := false, sinceA := none, passA := true, passB := true }
       sinOn s 7 = true ∧ sinFault s 7 = true ∧ pulsing s (siReg 7 4) ((sinOf s 7).pulse .b) = false ∧
         ran (exec (.safeInputDemandEnd 0 7 .b false) s) (fun u => (sinOf u 7).demB = false ∧ sinDemand u 7 = false ∧ pulsePassed u 7 .a ∧ pulsePassed u 7 .b ∧ sinFault u 7 = false)),
      (let s := setSin (grouped clear7 (inp7 0)) 7 SIn.reset
       (pulsing s (siReg 7 4) ((sinOf s 7).pulse .a) || pulsing s (siReg 7 4) ((sinOf s 7).pulse .b)) = false ∧
         ran (exec (.safeInputDemandEnd 0 7 .a true) s) (fun u => sinDemand u 7 = false ∧ (sinOf u 7).clear)),
      (let s := grouped clear7 (inp7 0)
       flag s (siReg 7 4) 31 = true ∧ sinType s 7 ≠ 2 ∧ ran (exec (.testPulse 4 false 7 .b) s) (fun u => (sinOf u 7).pulseB = some 4)),
      (let s := setSin (grouped clear7 (inp7 0)) 7 { SIn.reset with pulseA := some 0 }
       siPeriod s 7 = 10000000 ∧ periodOver (advance s 5000000) (siPeriod s 7) (some 0) = false ∧ periodOver (advance s 5000000) (siPeriod s 7 / 2) (some 0) = true ∧
         onlyTime (.testPulse 5000000 false 7 .a) s 5000000 ∧ ran (exec (.testPulse 5000000 false 7 .b) s) (fun u => (sinOf u 7).pulseB = some 5000000)),
      (let s := setSin (grouped clear7 (inp7 0)) 7 { SIn.reset with pulseA := some 0, discAt := some 0, demB := false }
       (sinOf s 7).demA ≠ (sinOf s 7).demB ∧ pulsing (advance s 50000) (siReg 7 4) (some 0) = true ∧ ran (exec (.testPulseFault 50000 7 .a) s) (fun u => sinFault u 7 = true ∧ bothSet u) ∧ onlyTime (.testPulseFault 49999 7 .a) s 49999 ∧
         ran (exec (.discrepancyTimeout 10000001 7) s) (fun u => sinFault u 7 = true ∧ bothSet u) ∧ onlyTime (.discrepancyTimeout 10000000 7) s 10000000)] : List Bool).all id = true := by
  decide +kernel

/-- SafeInputsOutputsAndResets: outputs, and the three steps of a reset. -/
theorem test_witness_outputs :
    ([(let s := grouped clear7 (out7 1)
       flag s (soReg 7 4) 31 = true ∧ pulsing s (soReg 7 4) (soutOf s 7).pulseA = false ∧ outOn s 7 .a = true ∧
         ran (exec (.testPulse 4 true 7 .b) s) (fun u => (soutOf u 7).pulseB = some 4) ∧
         readbackDue (readsBad s 7 .a) 7 .a = false ∧ ran (exec (.outputReadbackFault 0 7 .a) s) (fun u => flag u (soReg 7 8) 3 = false ∧ (soutOf u 7).diffA = some 0) ∧
         ran (exec (.outputReadbackFault 500001 7 .a) (readsBad s 7 .a)) (fun u => outOn u 7 .a = false ∧ flag u (soReg 7 8) 3 = true ∧ bothSet u)),
      (let s := setSout (grouped clear7 (out7 1)) 7 { SOut.reset with pulseB := some 0 }
       readbackDue (readsBad s 7 .b) 7 .b = true ∧ ran (exec (.outputReadbackFault 0 7 .b) s) (fun u => flag u (soReg 7 8) 3 = true ∧ bothSet u)),
      (let s := grouped clear7 (out7 1 ++ [(soReg 7 8, 8)])
       ran (exec (.outputFaultClear 1000000000 7) s) (fun u => flag u (soReg 7 8) 3 = false) ∧ onlyTime (.outputFaultClear 999999999 7) s 999999999),
      (let s := setSout (grouped set7 (out7 2)) 7 { SOut.reset with offA := false, offB := false }
       brakeDue (advance s 200000) 7 .a = true ∧ brakeDue (advance s 199999) 7 .a = false ∧ outOn s 7 .a = true ∧
         ran (exec (.brakeDelayExpire 200000 7) s) (fun u => outOn u 7 .a = false ∧ outOn u 7 .b = false) ∧ ran (exec (.brakeDelayExpire 199999 7) s) (fun u => outOn u 7 .a = true)),
      (let s := fun r => pressed 0 r (grouped set7 (inp7 1))
       sinOn (s 0) 7 = true ∧ sinRole (s 0) 7 = 1 ∧ resetItem1 (s 0) 7 = true ∧ resetItem2 (s 0) 7 = true ∧
         ran (exec (.resetButtonRelease 100000000 7) (s 100000000)) (fun u => (grpOf u 7).req = true) ∧
         ran (exec (.resetButtonRelease 5000000000 7) (s 5000000000)) (fun u => (grpOf u 7).req = true) ∧
         ran (exec (.resetButtonRelease 99999999 7) (s 99999999)) (fun u => (grpOf u 7).req = false)),
      (let s := grouped set7 []
       resetItem1 s 7 = true ∧ resetItem2 s 7 = true ∧ ran (exec (.sioReset 0 .control 128) s) (fun u => (grpOf u 7).req = true)),
      (let s := grouped { set7 with req := true } []
       ran (exec (.groupResetGrant 0 7 true) s) (fun u => (grpOf u 7).granted = true ∧ grpTripped u 7 = true) ∧
         ran (exec (.groupResetGrant 0 7 false) s) (fun u => (grpOf u 7).granted = false ∧ fld u (grpReg 7 8) 16 16 = 1))] : List Bool).all id = true := by
  decide +kernel

/-- FirstCycleOfAnAxis and LatchClearsOnlyThroughItsReset: an emission point clears the latch of a group whose reset stands granted. -/
theorem test_witness_first_cycle :
    ([(let s := grouped { set7 with granted := true } [(axReg 63 0, 2 ^ 31 + 7 * 2 ^ 20)]
       let s1 := setMaxis s 63 { MAxis.reset with fresh := false }
       resetItem1 s1 7 = true ∧ resetItem2 s1 7 = true ∧ (maxisOf (groupGrant s1 7) 63).fresh = true ∧ grpTripped (groupGrant s1 7) 7 = false),
      (let s := stagedAtT (axReg 63 0) 3 (2 ^ 31) (grouped clear7 [])
       let s1 := setMaxis s 63 { MAxis.reset with fresh := false }
       axisEn s1 63 = false ∧ axisEn (commitAxis epochNs s1 63) 63 = true ∧ (maxisOf (commitAxis epochNs s1 63) 63).fresh = true),
      (let s := setMport (grouped clear7 [(axReg 63 0, 2 ^ 31), (axReg 63 4, 0)]) 0 { MPort.reset with good := some [0, 0, 0, 0, 7, 0, 0, 0] }
       (maxisOf (setMaxis s 63 MAxis.reset) 63).fresh = true ∧ (mportOf s (axisPort s 63)).good = some [0, 0, 0, 0, 7, 0, 0, 0] ∧ (lastPos s 63).1 = 7),
      ran (exec (.frameReturn 6000000 0 false (back 3) none) (flying5 (some 5016000))) (fun u => (mportOf u 0).good = some [1, 2]) ∧
        ran (exec (.frameReturn 6000000 0 false (back 4) none) (flying5 (some 5016000))) (fun u => (mportOf u 0).good = none),
      (let s := { setMport (grouped { set7 with granted := true } [(0x380004, 1000000)]) 0 { MPort.reset with heads := [⟨0, 0, 0⟩] } with pending := [.emissionPoint 0] }
       (latOf s 7 .a).isSome = true ∧ ran (step s) (fun u => latOf u 7 .a = none ∧ u.pending = []))] : List Bool).all id = true := by
  decide +kernel

/-! ## The Hutch -/

/-- Supervision started, both channels run, PASSED; zone 15 shows stream 511 of partition 0, 100 ms old at most, 5 µs to compare. -/
def hutch : State :=
  let s := wr [(0x20000, 7 * 2 ^ 29), (hzReg 15 0, 2 ^ 31 + 511 * 2 ^ 16 + 50), (hzReg 15 0xC, 100 * 2 ^ 16 + 5), (0x20014, 0x70000)] up
  { s with hut := { s.hut with passed := true } }
def chan (a b : HChan) : State := { hutch with hut := { hutch.hut with chA := a, chB := b } }
/-- The same with channel B's copy of the configuration alike. -/
def copied : State := { hutch with hut := { hutch.hut with copyB := hutch.regs } }
def allSet (u : State) : Bool := (rangeFrom 0 8).all (fun g => (latOf u g .a).isSome && (latOf u g .b).isSome)
/-- No group is tripped. -/
def allClear (s : State) : State := { s with sio := { s.sio with grps := (rangeFrom 0 8).map (fun i => (i, clear7)) } }

/-- HutchChannelsAndSupervision, TimebaseCrosscheckTripsEverything. -/
theorem test_witness_channels :
    ([up.hut.passed = false ∧ phase up = 5 ∧ ran (exec (.supervisionStart 0) up) (fun u => u.hut.passed = true ∧ supervising u = true),
      (let s := wr [(0x30000, 15 * 2 ^ 28)] up
       onlyTime (.supervisionStart 3) s 3 ∧ onlyTime (.supervisionStart 3) fresh 3),
      hutch.hut.passed = true ∧ chanRuns (hchanOf hutch .b) = true ∧ chanRuns (hchanOf hutch .a) = true ∧ ran (exec (.heartbeat 9 ⟨.b, 0x7FFF, 0, 1⟩) hutch) (fun u =>
        u.hut.chB.beat = 9 ∧ u.hut.chA.got = some ⟨.b, 0x7FFF, 0, 1⟩ ∧ tget? u.hut.chA.diff 15 = some 9 ∧ tget? u.hut.chA.diff 0 = none),
      copyDiffers hutch = true ∧ copyDiffers copied = false ∧ ran (exec (.heartbeat 9 ⟨.a, 0xFFFF, 0, 1⟩) copied) (fun u => u.hut.chB.got.isSome ∧ u.hut.chB.diff = []) ∧
        ran (exec (.heartbeat 9 ⟨.a, 0xFFFF, 0, 1⟩) hutch) (fun u => u.hut.chB.diff = [(16, 9)]) ∧
        ran (exec (.heartbeat 9 ⟨.a, 0xFFFF, 0, 1⟩) (chan HChan.reset { HChan.reset with restarting := true })) (fun u => u.hut.chA.beat = 9 ∧ u.hut.chB.got = none),
      (hchanOf hutch .b).beat + 30000 ≤ max hutch.clk.tb 30000 ∧ onlyTime (.heartbeatMiss 29999 .b) hutch 29999 ∧ ran (exec (.heartbeatMiss 30000 .b) hutch) (fun u => u.hut.chB.restarting = true ∧ supervising u = false ∧ rd u (hctReg 8) = 1 ∧ fld u 0x20000 0 16 = 0x060B),
      (hchanOf hutch .b).day < proofDay (advance hutch 10801000000000) .b ∧ proofDay (advance hutch 10800999999999) .b = 0 ∧ ran (exec (.proofTest 10801000000000 .b) hutch) (fun u => u.hut.chB.testing = true ∧ flag u 0x20000 27 = true),
      (let s := allClear (chan { HChan.reset with diff := [(15, 0)] } HChan.reset)
       (overDiff 1000001 s.hut.chA).or (overDiff 1000001 s.hut.chB) = some 15 ∧ onlyTime (.channelDecisionMismatch 1000000) s 1000000 ∧
         ran (exec (.channelDecisionMismatch 1000001) s) (fun u => allSet u ∧ fld u 0x20000 0 16 = 0x060A ∧ u.hut.log.head? = some (1000001, 0x060A, 15))),
      (let s := allClear (chan HChan.reset { HChan.reset with diff := [(16, 0)] })
       ran (exec (.channelDecisionMismatch 1000001) s) (fun u => allSet u ∧ u.hut.log.head? = some (1000001, 0x060A, 16))),
      ran (exec (.channelRestartDone 4 .a true) (chan { HChan.reset with restarting := true, fails := 1 } HChan.reset)) (fun u =>
        u.hut.chA.restarting = false ∧ u.hut.chA.beat = 4 ∧ u.hut.chA.fails = 0 ∧ supervising u = true),
      ran (exec (.channelRestartDone 0 .a false) (chan { HChan.reset with restarting := true } HChan.reset)) (fun u => u.hut.chA.fails = 1 ∧ u.hut.chA.restarting = true),
      ran (exec (.channelRestartDone 0 .a false) (allClear (chan { HChan.reset with restarting := true, fails := 1 } HChan.reset))) (fun u =>
        u.hut.chA.failed = true ∧ supervising u = false ∧ allSet u),
      ran (exec (.proofTestDone 0 .a) (chan { HChan.reset with testing := true } HChan.reset)) (fun u => u.hut.chA.testing = false ∧ rd u (hctReg 9) = 1),
      ran (exec (.timebaseCrosscheck 0 .a 1001) (allClear hutch)) (fun u => allSet u ∧ fld u 0x20000 0 16 = 0x060C ∧ hutInvalid u 15 = true) ∧
        onlyTime (.timebaseCrosscheck 2 .a 1000) (allClear hutch) 2] : List Bool).all id = true := by
  decide +kernel

/-- A record of stream 511, frame 9, captured at 0 and published at 0, of an empty picture; the Hutch's notice ring holds it. -/
def rec9 (poison : Bool) : List Byte :=
  (List.replicate 0x18 0 ++ [9, 0, 0, 0, 255, 1, 0, if poison then 32 else 0] ++ List.replicate 32 0).map (BitVec.ofNat 8)
def pictured (poison : Bool) : State := { hutch with ing := { hutch.ing with rings := [(16, ⟨1, 0, 0, [(0, (511, 9))], [(0, rec9 poison)]⟩)] } }
/-- A report of zone 15 for frame 9: present. -/
def report9 (sum : Nat) : List Byte :=
  let h := [9, 0, 0, 0, 255, 1, 1, 15, 1] ++ List.replicate 19 0
  let b := h.map (BitVec.ofNat 8)
  b ++ leBytes 4 (crc32c b + sum)
def cmp9 (chk rep : Option Bool) : Cmp := ⟨15, 9, 0, 0, chk, rep, none, false⟩
def zoned (c : Cmp) (z : HZone) : State :=
  let x := { HChan.reset with zones := [(15, z)] }
  { hutch with hut := { hutch.hut with cmps := [c], chA := x, chB := x, rings := [(0, (0, 0))] } }
def reported (sum : Nat) : State := wrMem (wr [(tokOff 0 0, 1)] (zoned (cmp9 none none) HZone.reset)) 0x70000 (report9 sum)

/-- Its crops for the checker. -/
def crop9 : Crops := ⟨511, 9, 0, 0, [(15, [])]⟩

/-- PicturesReportsAndComparison. -/
theorem test_witness_zones :
    ([ran (exec (.hutchPictureRead 0 true) (pictured true)) (fun u => (nringOf u 16).rel = 1 ∧ tget? (nringOf u 16).slots 0 = none ∧ u.hut = hutch.hut),
      (cmpsOf hutch (rec9 false)).map Cmp.zone = [15] ∧ ran (exec (.hutchPictureRead 0 true) (pictured false)) (fun u =>
        rd u (hctReg 2) = 1 ∧ u.hut.crops = [] ∧ fld u 0x20000 0 16 = 0x0603 ∧ (hzoneOf u 15).bar = some 9),
      zoneAge hutch 15 = 100000000 ∧ ran (exec (.hutchPictureRead 100000000 false) (pictured false)) (fun u => u.hut.crops = [crop9] ∧ u.hut.lastCtr = [(511, 9)] ∧ (cmpOf u 15 9).isSome ∧ u.hut.chA = hutch.hut.chA),
      (let s := wr [(hzReg 15 0, 511 * 2 ^ 16)] (pictured false)
       cmpsOf s (rec9 false) = [] ∧ ran (exec (.hutchPictureRead 0 false) s) (fun u => u.hut.crops = [] ∧ u.hut.lastCtr = [(511, 9)])),
      ran (exec (.checkerResult 0 15 true) { hutch with hut := { hutch.hut with crops := [crop9] } }) (fun u =>
        (hzoneIn u .a 15).chk = some (9, true, 0) ∧ (hzoneIn u .b 15).chk = some (9, true, 0) ∧ u.hut.crops = []),
      (let s := zoned (cmp9 none none) HZone.reset
       let s1 := { s with hut := { s.hut with crops := [crop9] } }
       cmpOpen (advance s1 4999) (cmp9 none none) = true ∧ ran (exec (.checkerResult 4999 15 false) s1) (fun u => (cmpOf u 15 9).map Cmp.chk = some (some false)) ∧
         cmpOpen (advance s1 5000) (cmp9 none none) = false ∧ ran (exec (.checkerResult 5000 15 false) s1) (fun u => (cmpOf u 15 9).map Cmp.chk = some none)),
      (let s := { hutch with hut := { hutch.hut with crops := [⟨511, 9, 0, 0, [(0, []), (15, [])]⟩] } }
       ran (exec (.checkerResult 0 0 true) s) (fun u => u.hut.crops = [crop9])),
      zringTok (reported 0) 0 = (0, 0) ∧ (token (reported 0) 0 0 - 0 - BitVec.ofNat 32 0 - 1).toNat < 2 ^ 31 ∧ reportOk (reported 0) 0 (report9 0) = true ∧
        ran (exec (.zoneReport 0 0) (reported 0)) (fun u => (cmpOf u 15 9).map Cmp.rep = some (some true)),
      reportOk (reported 1) 0 (report9 1) = false ∧ ran (exec (.zoneReport 0 0) (reported 1)) (fun u => fld u 0x20000 0 16 = 0x060E ∧ tget? u.hut.rings 0 = some (0, 1)),
      ran (exec (.zoneCompare 0 15 9) (zoned (cmp9 (some true) (some true)) HZone.reset)) (fun u => (hzoneOf u 15).valid = true ∧ (hzoneOf u 15).capAt = some 0 ∧ rd u (hzReg 15 0x14) = 9 ∧ (cmpOf u 15 9).map Cmp.closed = some true),
      ran (exec (.zoneCompare 0 15 9) (zoned (cmp9 (some true) (some false)) { HZone.reset with dis := [8] })) (fun u =>
        rd u (hctReg 0) = 1 ∧ fld u 0x20000 0 16 = 0x0601 ∧ (hzoneOf u 15).valid = false),
      (disWindow 9 [8, 4294967206]).length = 2 ∧ (disWindow 9 [8, 4294967205]).length = 1 ∧
        ran (exec (.zoneCompare 0 15 9) (zoned (cmp9 (some true) (some false)) { HZone.reset with dis := [8, 4294967206] })) (fun u => fld u 0x20000 0 16 = 0x0607),
      ran (exec (.zoneCompare 0 15 9) (zoned (cmp9 (some true) (some true)) { HZone.reset with bar := some 10 })) (fun u => (hzoneOf u 15).valid = false ∧ (hzoneOf u 15).capAt = some 0),
      (let s := wrReg (zoned (cmp9 (some true) (some true)) { HZone.reset with valid := false, capAt := some 3 }) (hzReg 15 0x14) 12
       cmpFresh s 15 9 = false ∧ ran (exec (.zoneCompare 0 15 9) s) (fun u => (hzoneOf u 15).valid = false ∧ (hzoneOf u 15).capAt = some 3 ∧ rd u (hzReg 15 0x14) = 12)),
      cmpFresh (zoned (cmp9 none none) HZone.reset) 15 9 = true ∧ zoneBudget hutch 15 = 5000 ∧ ran (exec (.cmpBudgetExpire 5000 15 9) (zoned (cmp9 none (some true)) HZone.reset)) (fun u => rd u (hctReg 1) = 1 ∧ fld u 0x20000 0 16 = 0x0602),
      (0 + zoneAge hutch 15 < 100000001) ∧ ran (exec (.zoneAgeExpire 100000001 15) (zoned (cmp9 none none) { HZone.reset with valid := true, capAt := some 0 })) (fun u => (hzoneOf u 15).valid = false) ∧
        ran (exec (.zoneAgeExpire 100000000 15) (zoned (cmp9 none none) { HZone.reset with valid := true, capAt := some 0 })) (fun u => (hzoneOf u 15).valid = true)] : List Bool).all id = true := by
  decide +kernel

/-- Core 0 powered, with its golden state. -/
def golden (g : Gold) : State :=
  let s := { hutch with sch := { hutch.sch with owner := [(0, 2)] } }
  let s1 := setCore (wr [(0x41100, 2 ^ 31 + 2)] s) 0 { LCore.reset with on := true }
  setGold (setGold (setGold s1 0 g) 271 g) 288 g

/-- The same with partition 1 in class S, reporting zone 15, whose stream has published at `pub`; its next picture comes 30 ms later at the earliest. -/
def published (pub : Nat) (g : Gold) : State :=
  let s := wr [(0x41100, 2 ^ 31), (mpReg 0 0x10, 1 * 2 ^ 16), (0x380004, 1000000), (0x20020, 30000), (0x10204, 1000 * 2 ^ 16)] (golden g)
  setStrm s 511 { strmOf s 511 with pubAt := some pub }

/-- GoldenDeferrals, GoldenRunsAndMismatches. -/
theorem test_witness_golden :
    ([ran (exec (.goldenFrameEnd 0 (.core 0)) (golden { Gold.reset with owed := true, defer := 2 })) (fun u =>
        (goldOf u 0).unv = true ∧ (goldOf u 0).defer = 3 ∧ rd u (hctReg 3) = 1 ∧ fld u 0x20000 0 16 = 0x0606 ∧ (viewWord u 0x20400).getLsbD 0 = true),
      ran (exec (.goldenFrameEnd 0 (.core 0)) (golden { Gold.reset with owed := true, defer := 1 })) (fun u => (goldOf u 0).unv = false ∧ (goldOf u 0).owed = false),
      ran (exec (.goldenRunComplete 0 (.core 0) 0) (golden { Gold.reset with run := some 0, unv := true, defer := 3 })) (fun u => goldOf u 0 = { goldOf u 0 with run := none, unv := false, defer := 0, sig := 0 }),
      ran (exec (.goldenRunComplete 0 (.foot 15) 0) (golden { Gold.reset with run := some 0, unv := true, defer := 3 })) (fun u =>
        (goldOf u 271).unv = false ∧ (goldOf u 271).run = none ∧ (viewWord u 0x20420).getLsbD 15 = false),
      goldPart (golden { Gold.reset with began := true }) (.core 0) = some 1 ∧ goldPlace (golden { Gold.reset with began := true }) (.core 0) 7 = true ∧
        ran (exec (.goldenRunStart 8 ⟨.core 0, 7⟩) (golden { Gold.reset with began := true })) (fun u =>
        (goldOf u 0).run = some 8 ∧ (coreOf u 0).acc.length = 4),
      (let s := setCore (golden { Gold.reset with began := true }) 0 { LCore.reset with on := true, acc := (rangeFrom 0 29).map (fun a => (a, { AccSlot.none with st := .live })) }
       (freeAcc s 0).length = 3 ∧ onlyTime (.goldenRunStart 8 ⟨.core 0, 7⟩) s 8),
      (let s := published 0 { Gold.reset with began := true }
       partClass s 1 = 0 ∧ goldPlace (advance s 12000000) (.core 0) 0 = true ∧ goldPlace (advance s 0) (.core 0) 1 = false ∧
         ran (exec (.goldenRunStart 12000000 ⟨.core 0, 0⟩) s) (fun u => (goldOf u 0).run = some 12000000)),
      (let s := published 7 { Gold.reset with run := some 0 }
       windowOpened s (.core 0) 0 = true ∧ windowOpened s (.core 0) 8 = false ∧ ran (exec (.goldenRunAbandon 0 (.core 0)) s) (fun u => (goldOf u 0).run = none)),
      ran (exec (.goldenRunComplete 0 (.core 0) 1) (golden { Gold.reset with run := some 0 })) (fun u =>
        (goldOf u 0).unv = true ∧ (goldOf u 0).mis = true ∧ rd u (hctReg 4) = 1 ∧ fld u 0x20000 0 16 = 0x0604),
      ran (exec (.goldenRunComplete 0 (.core 0) 1) (golden { Gold.reset with run := some 0, mis := true })) (fun u => fld u 0x20000 0 16 = 0x0605),
      ran (exec (.checkerGoldenCrop 0 false) (golden Gold.reset)) (fun u => fld u 0x20000 0 16 = 0x0604 ∧ hutInvalid u 15 = true) ∧
        ran (exec (.checkerGoldenCrop 0 true) (golden { Gold.reset with unv := true })) (fun u => (goldOf u 288).unv = false)] : List Bool).all id = true := by
  decide +kernel

/-- A message in the safety mailbox. -/
def mailed (cmd arg1 arg2 : Nat) (s : State) : State := wr [(0x20800, 2 ^ 8 + cmd), (0x20804, arg1), (0x20808, arg2)] s
def lossy (cls : Nat) : State := setCtx (wr [(0x41F00, 2 ^ 31 + cls), (mpReg 0 0x10, 15 * 2 ^ 16), (0x380000, 2 ^ 30), (axReg 0 0, 2 ^ 31)] (allClear hutch)) 15 63 { Ctx.reset with st := .faulted }

/-- LossRestartAndMailbox. -/
theorem test_witness_mailbox :
    ([partClass (lossy 0) 15 = 0 ∧ anyFaulted (lossy 0) 15 = true ∧ partGroups (lossy 0) 15 = [0] ∧
        ran (exec (.sContextLost 0 15) (lossy 0)) (fun u => fld u 0x20000 0 16 = 0x060F ∧ (latOf u 0 .b).isSome = true),
      partClass (lossy 1) 15 = 1 ∧ partEn (lossy 1) 15 = true ∧ ran (exec (.aRestart 0 15) (lossy 1)) (fun u =>
        flag u 0x20000 28 = true ∧ fld u 0x20000 0 16 = 0x0608 ∧ (tget? u.hut.apend 15).isSome = true),
      (let s := wr [(tokOff 15 63, 1), (0x20008, 63 * 2 ^ 8), (0x20000, 15 * 2 ^ 28)] { hutch with hut := { hutch.hut with apend := [(15, 7)] } }
       token s 15 63 ≠ 0 ∧ ran (exec (.rdyTokSignal 0 15) s) (fun u => flag u 0x20000 28 = false ∧ u.hut.apend = []) ∧
         ran (exec (.aLimitExpire 7 15) s) (fun u => fld u 0x20000 0 16 = 0x0609 ∧ flag u 0x20000 28 = true)),
      mbKind (mailed 1 0 0 hutch) = 1 ∧ ran (exec (.kick 5000000 .control) (mailed 1 0 0 hutch)) (fun u => u.hut.kickEpoch = some 1),
      (let s := mailed 2 128 0 (allClear hutch)
       hostMay s 0x20810 = true ∧ lockTaken s = true ∧ mbKind s = 2 ∧ ran (exec (.stopGroups 0 .host) s) (fun u => bothSet u ∧ (latOf u 6 .a).isNone = true)),
      ran (exec (.invalidateZones 0 .control) (mailed 3 0x8000 65535 hutch)) (fun u => hutInvalid u 15 = true ∧ (hzoneOf u 15).until_ = 65535 ∧ fld u 0x20810 16 8 = 0),
      ran (exec (.invalidateZones 0 .control) (mailed 3 0x8000 65536 hutch)) (fun u => fld u 0x20810 16 8 = 1) ∧
        ran (exec (.invalidateZones 0 .control) (mailed 3 0x8000 0 hutch)) (fun u => fld u 0x20810 16 8 = 1),
      ran (exec (.readEvent 0 .control) (mailed 4 0 0 hutch)) (fun u => fld u 0x20810 16 8 = 1),
      (let s := { hutch with hut := { hutch.hut with log := [(2 ^ 32 + 3, 0x601, 65535)] } }
       ran (exec (.readEvent 0 .control) (mailed 4 0 0 s)) (fun u => fld u 0x20810 16 8 = 0 ∧ rd u 0x20800 = 3 ∧ rd u 0x20804 = 1 ∧ rd u 0x20808 = 0xFFFF0601)),
      mbKind (mailed 5 0 0 hutch) = 0 ∧ ran (exec (.hutchMailboxReject 0 .control) (mailed 5 0 0 hutch)) (fun u => fld u 0x20810 16 8 = 2 ∧ rd u (hctReg 10) = 1),
      ran (exec (.invalidateZonesExpire 10000000) (zoned (cmp9 none none) { HZone.reset with until_ := 2 })) (fun u => (hzoneOf u 15).until_ = 0) ∧
        ran (exec (.invalidateZonesExpire 9999999) (zoned (cmp9 none none) { HZone.reset with until_ := 2 })) (fun u => (hzoneOf u 15).until_ = 2)] : List Bool).all id = true := by
  decide +kernel

/-! ## Power, boot and resets -/

/-- Rails down after `n` steps of the sequence. -/
def seqAt (n : Nat) (latched : Bool) : State := { fresh with bur := { Bur.reset with vin := true, seq := n, latched := latched } }
/-- STANDBY with wake on port 7, whose address was 5, and by the alarm at 2³². -/
def asleep : State := { wr [(0x10010, 3 * 2 ^ 30 + 7), (0x10018, 1)] fresh with bur := { Bur.reset with vin := true, standby := true, wake := some ⟨5, 4, 1⟩ } }

/-- SuppliesComeAndGo. -/
theorem test_witness_supplies :
    ([ran (exec (.powerOn 9 true) (wrMem up 5 [1])) (fun u => u.bur.vin = true ∧ u.mem = [] ∧ u.clk.tb = 0 ∧ phase u = 0 ∧ u.bur.seq = 0 ∧ allSet u),
      ran (exec (.vstby3v3Loss 0) up) (fun u => u.bur.vaon = false ∧ phase u = 0 ∧ lockTaken u = false ∧ allSet u),
      ran (exec (.railSequenceStep 0 true 0 0) (seqAt 7 false)) (fun u => u.bur.seq = 8),
      (stepRails 4).contains 3 = true ∧ ran (exec (.railSequenceStep 0 false 3 0xABCDE) (seqAt 3 false)) (fun u =>
        u.bur.seq = 0 ∧ u.bur.latched = true ∧ rd u 0x10034 = 0xBCDE0003 ∧ flag u 0x10000 6 = true),
      onlyTime (.railSequenceStep 5 true 0 0) (seqAt 0 true) 5,
      up.bur.vaon = true ∧ up.bur.vin = true ∧ ran (exec (.powerDown 0 .vin) (wrMem up 5 [1])) (fun u => u.bur.seq = 0 ∧ u.mem = [] ∧ u.bur.vin = false ∧ u.clk.tb = 0 ∧ u.bur.wake = wakePort up ∧ allSet u),
      up.svc.img = none ∧ 
      ran (exec (.powerDown 0 (.rail 11 7)) (seqAt 0 false)) (fun u => u.bur.latched = true ∧ flag u 0x10000 6 = true ∧ rd u 0x10034 = 0x7000B ∧ allSet u),
      onlyTime (.railSequenceStep 5 false 3 1) (seqAt 0 true) 5,
      ran (exec (.vinRestore 0) fresh) (fun u => u.bur.vin = true ∧ u.regs = []),
      ran (exec (.standbyRequest 3 .control (2 ^ 31)) up) (fun u => stagedNow u 0x10004 = some (2 ^ 31) ∧ u.bur.request = some 3) ∧
        ran (exec (.standbyRequest 3 .control 1) up) (fun u => u.bur.request = none),
      ran (exec (.wakeMagicPacket 0 ⟨7, 5⟩) asleep) (fun u => u.bur.standby = false ∧ fld u 0x10000 30 2 = 0 ∧ flag u 0x204 5 = true) ∧ onlyTime (.wakeMagicPacket 1 ⟨6, 5⟩) asleep 1 ∧
        onlyTime (.wakeMagicPacket 1 ⟨7, 4⟩) asleep 1,
      val64 asleep 0x10014 0x10018 = 2 ^ 32 ∧ ran (exec (.wakeAlarm (2 ^ 32)) asleep) (fun u => u.bur.standby = false) ∧
        onlyTime (.wakeAlarm (2 ^ 32 - 1)) asleep (2 ^ 32 - 1)] : List Bool).all id = true := by
  decide +kernel

/-- Class-B partition 1 on cluster 15, every cluster at 100 °C less 2, and the rails at 600 to 800 mV. -/
def hot : State :=
  { wr ([(0x41100, 2 ^ 31 + 3)] ++ (rangeFrom 0 4).map (fun r => (railReg r 0, 600 * 2 ^ 16 + 800)) ++ (rangeFrom 0 16).map (fun c => (0x10400 + 4 * c, 824))) up with
    sch := { up.sch with owner := [(255, 2)] }, bur := { up.bur with ladHold := [(15, 12)] } }

/-- ThermalPowerAndHolds. -/
theorem test_witness_thermal :
    ([ran (exec (.sensorSample 0 (List.replicate 24 879 ++ List.replicate 24 65535) (List.replicate 16 0)) up) (fun u =>
        u.bur.seq = 8 ∧ fld u 0x10400 0 16 = 879 ∧ fld u (0x10400 + 4 * 47) 0 16 = 65535),
      ran (exec (.sensorSample 0 (List.replicate 23 0 ++ [880] ++ List.replicate 24 0) (List.replicate 16 0)) up) (fun u => u.bur.seq = 0 ∧ flag u 0x10000 7 = true ∧ allSet u),
      ran (exec (.sensorSample 0 ([880] ++ List.replicate 47 0) (List.replicate 16 0)) (seqAt 0 false)) (fun u => u.bur.latched = true ∧ flag u 0x10000 7 = true ∧ allSet u),
      headroom hot 3 ≤ 8 * (throttleMargin hot : Int) ∧ vmin hot 3 < setPoint hot 3 ∧ ran (exec (.ladderStep 1000000) hot) (fun u =>
        u.bur.ladMs = 1 ∧ rd u (railReg 3 8) = 1 ∧ fld u (railReg 3 4) 0 16 = setPoint u 3 ∧ setPoint u 3 < setPoint hot 3),
      onlyTime (.ladderStep 1000001) hot 1000001 ∧ onlyTime (.ladderStep 0) hot 0,
      ran (exec (.capStep 1000000 65535) (wr [(0x10008, 65534)] hot)) (fun u => fld u 0x1000C 0 16 = 65535 ∧ fld u 0x1000C 16 16 = 65535 ∧ u.bur.capAt = 1000000 ∧ rd u (railReg 0 8) = 1),
      hasClassB hot 15 = true ∧ holdOf hot 15 = 12 ∧ ran (exec (.holdPeriod 100 15) hot) (fun u =>
        rd u (bclReg 15 0xC) = 75000 ∧ tget? u.bur.holds 15 = some (100, 75100)),
      (coreOf up 255).on = false ∧ flag up 0x10004 0 = false ∧ ran (exec (.corePowerUp 0 255) (wrMem up (spadOf 255 + 0xFFFFF) [7, 7])) (fun u =>
        (coreOf u 255).on = true ∧ rdMem u (spadOf 255 + 0xFFFFF) 2 = [0, 7])] : List Bool).all id = true := by
  decide +kernel

/-- The machine in a boot phase, with the rails up. -/
def booting (ph : Nat) (b : Boot) : State := { wr [(0x30000, ph * 2 ^ 28)] up with boot := b }
/-- A model of three bytes of the eMMC, with the digest of "abc" or another, into DRAM at 0x50000 for partition 1. -/
def model0 (digest : Nat) : List Byte :=
  [1, 1, 0, 0, 0, 0, 0, 0, 0, 0, 0, 0, 0, 0, 0, 0] ++ leBytes 8 3 ++ leBytes 8 0x50000 ++ beBytes 48 digest
def modelled (len digest : Nat) : State :=
  let b : Boot := { Boot.reset with models := [model0 digest], emmc := [⟨0, 97⟩, ⟨1, 98⟩, ⟨2, 99⟩] }
  wr [(0x41140, 7 * 2 ^ 29), (0x41144, len)] { wr [(0x30000, 3 * 2 ^ 28)] parted with boot := b }
def abcDigest : Nat := 0xcb00753f45a35e8bb5a03d699ac65007272c32ab0eded1631a8b605a43ff5bed8086072ba1e7cc2358baeca134c825a7
/-- A policy module with one WR window over a register of the BUR group. -/
def module0 : PolMod := ⟨0, [(0x10004, 4, true)], 10, 1, 2, 0, false⟩

/-- Nothing in the records of an unstated layout. -/
def recs : ImageRecs := ⟨[], 0, 0, Policy.none⟩
/-- Partition 15 is in service as class A, as POLICY has it with its image context 63. -/
def served : State :=
  let s := wr [(0x30000, 4 * 2 ^ 28 + 2 ^ 27), (partOff 15, 2 ^ 31 + 1)] (setCtx (grouped clear7 []) 15 63 { Ctx.reset with st := .resident })
  { s with boot := { s.boot with pol := { Policy.none with entries := [(partOff 15, 0x80000001), (ctxReg 15 63 8, 1)] } } }

/-- BootFromRomToService.  No test shows a copy accepted: that rests on the fused key digests and the ROM key, which are opaque. -/
theorem test_witness_boot :
    ([ran (exec (.bootRomPhase 0 true) (booting 0 Boot.reset)) (fun u => phase u = 1) ∧
        ran (exec (.bootRomPhase 0 false) (booting 0 Boot.reset)) (fun u => phase u = 0 ∧ fld u 0x30000 0 16 = 0x0A06),
      imgCheck (booting 1 Boot.reset) (copyRead (booting 1 Boot.reset) false) 0x1000000 = 0x0A01 ∧ ran (exec (.imageCheck 0 recs) (booting 1 Boot.reset)) (fun u =>
        phase u = 1 ∧ flag u 0x30000 25 = true ∧ fld u 0x30000 0 16 = 0x0A01),
      ran (exec (.imageCheck 0 recs) (wr [(0x30000, 2 ^ 28 + 2 ^ 25)] (booting 1 Boot.reset))) (fun u => phase u = 15 ∧ flag u 0x30000 24 = true ∧ lockTaken u = true),
      ran (exec (.memoryTraining 0 true) (wrMem (booting 2 Boot.reset) 7 [7])) (fun u => u.boot.trained = true ∧ flag u 0x50018 0 = true ∧ u.mem = []) ∧
        ran (exec (.memoryTraining 0 false) (booting 2 Boot.reset)) (fun u => fld u 0x30000 0 16 = 0x0A07 ∧ u.boot.trained = false),
      (let s := wr [(0x50008, 2)] (wrMem (booting 2 Boot.reset) 7 [7])
       kvPages s = 2 ∧ ran (exec (.memoryTraining 0 true) s) (fun u => fld u kvFreePages 0 20 = 2 ∧ rdMem u (kvHdr s 0 + 32) 32 = (rangeFrom 32 32).map freeHeader)),
      ran (exec (.bootLock 0 Policy.none) (booting 2 { Boot.reset with trained := true })) (fun u => lockTaken u = true ∧ phase u = 3),
      nextModel (modelled 0x1000 0) = some 0 ∧ inWindow (modelled 0x1000 0) 1 0x50000 3 = true ∧ ran (exec (.modelLoad 0 0 false) (modelled 0x1000 abcDigest)) (fun u =>
        fld u (modelReg 0) 30 2 = 1 ∧ rdMem u 0x50000 4 = [97, 98, 99, 0] ∧ phase u = 4),
      ran (exec (.modelLoad 0 0 false) (modelled 0x1000 (abcDigest + 1))) (fun u => fld u (modelReg 0) 0 16 = 0x0A09 ∧ modelBad u 0 = true ∧ rdMem u 0x50000 4 = [97, 98, 99, 0]),
      (let s := { modelled 0x1000 abcDigest with boot := { (modelled 0x1000 abcDigest).boot with models := [(model0 abcDigest).set 1 2] } }
       ran (exec (.modelLoad 0 0 false) s) (fun u => fld u (modelReg 0) 0 16 = 0x0A05 ∧ modelBad u 0 = true ∧ u.mem = s.mem)),
      (let s := wr [(partOff 1, 2 ^ 31)] (modelled 0x1000 (abcDigest + 1))
       partEn s 1 = true ∧ ran (exec (.modelLoad 0 0 false) s) (fun u => modelBad u 0 = true ∧ partEn u 1 = false ∧ partEn (commitCfg u (wr [(partOff 1, 2 ^ 31)] u) 1) 1 = false)),
      ran (exec (.modelLoad 0 0 true) (modelled 0x1000 0)) (fun u => fld u (modelReg 0) 0 16 = 0x0A08) ∧
        ran (exec (.modelLoad 0 0 false) (modelled 1 0)) (fun u => fld u (modelReg 0) 0 16 = 0x0A0A ∧ u.mem = []),
      (let s := served
       imageParts s = [15] ∧ imageCtxs s 15 = [(15, 63)] ∧ imageReady s [(15, 63)] = true ∧ imageReady s [(15, 62)] = false ∧
         onlyTime (.bootService 3 []) (setCtx s 15 63 Ctx.reset) 3 ∧ onlyTime (.bootService 3 []) (wr [(partOff 15, 1)] s) 3 ∧ supervising s = true ∧ startGone s = true ∧ modelsStop s = false ∧ ran (exec (.bootService 7000000 [(15, 63)]) s) (fun u => phase u = 5 ∧ rd u 0x30010 = 7)),
      onlyTime (.bootRecovGo 3 .control (2 ^ 31)) up 3 ∧ hostMay (booting 15 Boot.reset) 0x30020 = true ∧
        ran (exec (.bootRecovGo 0 .control (2 ^ 31 + 2 ^ 25 - 1)) (booting 15 Boot.reset)) (fun u => phase u = 15 ∧ fld u 0x30000 0 16 = 0x0A01),
      (let s := wr [(0x208, 2)] { up with boot := { up.boot with mods := [module0] } }
       mayCall s module0 .epoch = true ∧ modGroups module0 = 2 ∧
         ran (exec (.policyCallback 0 0 .epoch [] 11) s) (fun u => rd u 0x208 = 0 ∧ u.boot.mods.map PolMod.aborts = [3] ∧ rd u 0x30018 = 1) ∧
         ran (exec (.policyCallback 0 0 .epoch [] 10) s) (fun u => u.boot.mods.map PolMod.aborts = [2]) ∧
         ran (exec (.policyCallback 0 0 .epoch [.write 0x10008 0 true] 1) s) (fun u => u.boot.mods.map PolMod.aborts = [3] ∧ u.pend = s.pend) ∧
         mayCall s { module0 with calls := 2 } (.event .hot) = false ∧ mayCall (wr [(0x10000, 2)] s) { module0 with calls := 2 } (.event .hot) = true ∧
         mayCall s { module0 with calls := 4 } .service = true ∧ mayCall s { module0 with last := 1 } .epoch = false)] : List Bool).all id = true := by
  decide +kernel

/-- The watchdog armed at epoch 3, for two epochs. -/
def kicked : State := wr [(0x20004, 2 * 2 ^ 24)] { up with hut := { up.hut with kickEpoch := some 3 } }

/-- ResetsDiscardsAndVersions. -/
theorem test_witness_resets :
    ([onlyTime (.moduleReset 3 .control 0xA4000004) up 3 ∧ onlyTime (.managementReset 3 .control 0x04000002) up 3,
      ran (exec (.moduleReset 3 .control 0xA5000006) (wrMem up 0 [1])) (fun u => phase u = 0 ∧ lockTaken u = false ∧ allSet u ∧ u.clk.tb = 3 ∧ flag u 0x204 2 = true),
      ran (exec (.managementReset 3 .control 0xA5000002) (stage (wrMem up 0 [1]) 0x10004 1)) (fun u =>
        u.boot.fw = false ∧ u.pend = [] ∧ rd u 0x208 = 0 ∧ u.mem = [⟨0, 1⟩] ∧ flag u 0x204 3 = true ∧ rd u 0x21C = 1),
      ran (exec (.resetNAssert 0 1000 true) up) (fun u => phase u = 0 ∧ u.boot.resetN = true ∧ flag u 0x204 1 = true ∧ allSet u) ∧ onlyTime (.resetNAssert 2 99 true) up 2 ∧ up.bur.vaon = true ∧ up.boot.resetN = false,
      ran (exec (.watchdogExpire 30000000) kicked) (fun u => u.boot.fw = false ∧ u.boot.mods = [] ∧ u.boot.mgmt = [false, true] ∧ flag u 0x204 4 = true ∧ rd u 0x220 = 1 ∧ fld u 0x20000 0 16 = 0x060D) ∧
        onlyTime (.watchdogExpire 29999999) kicked 29999999,
      ran (exec (.watchdogExpire 10000000000) up) (fun u => u.boot.fw = false ∧ flag u 0x204 4 = true) ∧ onlyTime (.watchdogExpire 9999999999) up 9999999999,
      (let s := stage (stage up 0x10004 1) 0x380000 1
       groupHas 1 0x10004 = true ∧ groupHas 1 0x380000 = false ∧ ran (exec (.commitDiscard 0 .control 2) s) (fun u => stagedNow u 0x10004 = none ∧ stagedNow u 0x380000 = some 1)),
      (let s := wr [(0x238, 3 * 2 ^ 16)] up
       ran (exec (.verHostWrite 0 .host 0x8003) s) (fun u => rd u 0x240 = 0x8003 ∧ fld u 0x244 0 4 = 1) ∧
         ran (exec (.verHostWrite 0 .host 0x8000) s) (fun u => fld u 0x244 0 4 = 0 ∧ fld u 0x30000 0 16 = 0x0A0D))] : List Bool).all id = true := by
  decide +kernel

/-! ## Registers, the host link and management -/

/-- LowHalfLatchesUpperHalf: the counter read in two halves across a carry, by either agent. -/
theorem test_witness_latch :
    ([(let s := { up with clk := { up.clk with tb := 2 ^ 32 - 1 } }
       latchLow 0x100 = true ∧ pcieUp s = true ∧ lockTaken s = true ∧ ran (exec (.latchingRead 0 .host ⟨0x100, 15⟩) s) (fun u =>
         u.hif.answer = .data [255, 255, 255, 255] ∧ ran (exec (.latchingRead (2 ^ 32) .host ⟨0x104, 15⟩) u) (fun v => v.hif.answer = .data [0, 0, 0, 0] ∧ v.clk.tb = 2 ^ 32)) ∧
         ran (exec (.latchingRead 0 .control ⟨0x100, 15⟩) s) (fun u => u.svc.word = 0xFFFFFFFF ∧ readReg u .host 0x104 = readReg s .host 0x104) ∧
         ran (exec (.latchingRead 0 .host ⟨0x100, 6⟩) s) (fun u => u.hif.answer = .data [255, 255] ∧
           ran (exec (.latchingRead (2 ^ 32) .host ⟨0x104, 1⟩) u) (fun v => v.hif.answer = .data [0])) ∧
         ran (exec (.latchingRead 0 .control ⟨0x100, 1⟩) s) (fun u => u.svc.word = 0xFF)),
      (let s := flying []
       slotOf s 0 0 = some (slot0 s) ∧ latchLow 0x100104 = true ∧ latchLow 0x10010C = true)] : List Bool).all id = true := by
  decide +kernel

/-- RegisterWritesByAccessCode: an RW word before and after the lock, byte enables, an unassigned offset, a host write without permission. -/
theorem test_witness_writes :
    ([(let off := 0x10200
       let s := wr [(0x30000, 0)] up
       (blockOf off).isSome = true ∧ lockTaken s = false ∧ writeWord .control off 0xFFFFFFFF s = plainWrite off 0xFFFFFFFF s ∧ maskOf .rwl off ≠ 0 ∧
         ran (exec (.registerWrite 0 .control off 15 0xFFFFFFFF) s) (fun u => rd u off &&& maskOf .rwl off = maskOf .rwl off) ∧
         ran (exec (.registerWrite 0 .control off 15 0xFFFFFFFF) up) (fun u => rd u off = rd up off ∧ rd u 0x218 = 1) ∧
         isBurReg off = true ∧ ran (exec (.registerWrite 0 .control off 15 0xFFFFFFFF) { s with boot := { s.boot with held := true } }) (fun u => rd u off = rd s off ∧ rd u 0x218 = 1) ∧
         blockOf 0x20004 = some 2 ∧ onlyTime (.registerWrite 4 .control 0x20004 15 0xFFFFFFFF) s 4 ∧
         writeWord .control 0x20004 0xFFFFFFFF up = plainWrite 0x20004 0xFFFFFFFF up ∧ isHutReg 0x20004 = true ∧
         ran (exec (.registerWrite 0 .control 0x20004 15 0xFFFFFFFF) up) (fun u => rd u 0x20004 = rd up 0x20004 ∧ rd u 0x218 = 1)),
      (let off := axReg 63 8
       maskOf .rwc off ≠ 0 ∧ writeWord .control off 5 up = plainWrite off 5 up ∧ ran (exec (.registerWrite 0 .control off 15 5) up) (fun u => rd u off = rd up off ∧ plainRead u off = 5)),
      ran (exec (.registerWrite 0 .host 0x20004 14 0) up) (fun u => rd u 0x480014 = 1 ∧ u.pend = []) ∧
        (blockOf 0x7FFFFC = none ∧ ran (exec (.registerWrite 0 .host 0x7FFFFC 15 0) up) (fun u => rd u 0x480010 = 1)),
      hostMay up 0x10008 = false ∧ ran (exec (.registerWrite 0 .host 0x10008 15 0) up) (fun u => rd u 0x48000C = 1) ∧
        onlyTime (.registerWrite 4 .host 0x10008 15 0) (wr [(0x30000, 0)] up) 4] : List Bool).all id = true := by
  decide +kernel

/-- Aperture 3 onto DRAM at 4 GiB, readable; aperture 0 writable too. -/
def opened : State := wr [(apReg 3, 2 ^ 31 + 2 ^ 30 + 1), (apReg 0, 7 * 2 ^ 29)] (wrMem up (2 ^ 32) [5, 6, 7, 8])

/-- TimebaseLinkAndHostMemory. -/
theorem test_witness_bus :
    ([ran (exec (.glbTbAdjWrite 0 .control 500001) up) (fun u => rd u 0x110 = 500000 ∧ flag u 0x11C 0 = true ∧ flag u 0x11C 1 = true) ∧
        ran (exec (.glbTbAdjWrite 0 .control 0x80000000) up) (fun u => rd u 0x110 = BitVec.ofInt 32 (-500000)),
      flag up 0x11C 2 = false ∧ ran (exec (.glbTbSet 5 .control 1) (wr [(0x114, 7)] up)) (fun u => u.clk.tb = 2 ^ 32 + 7) ∧
        ran (exec (.glbTbSet 5 .control 0) up) (fun u => u.clk.tb = 5) ∧ ran (exec (.glbTbSet 5 .control 1) (wr [(0x11C, 4)] up)) (fun u => u.clk.tb = 5 ∧ rd u 0x218 = 1),
      ran (exec (.pcieLinkUp 0 8 5) (wr [(0x480000, 0)] up)) (fun u => pcieUp u = true ∧ fld u 0x480000 4 4 = 8 ∧ fld u 0x480000 1 3 = 5),
      ran (exec (.pcieLinkDown 0 [0, 0, 0, 9]) (wr [(trReg 3 8, 2 ^ 31)] up)) (fun u => pcieUp u = false ∧ trOn u 3 = false ∧ rd u (trReg 3 0x18) = 9),
      ran (exec (.pcieReset 0) (wr [(mboxReg 7 0x40, 2 ^ 30)] opened)) (fun u => pcieUp u = false ∧ flag u (apReg 3) 31 = false ∧ mboxOwned u 7 = false ∧ u.mem = opened.mem),
      ran (exec (.pcieConfigRequest 0 false 0 15 0) (wr [(0x30000, 2 * 2 ^ 28)] up)) (fun u => u.hif.answer = .retry) ∧
        ran (exec (.pcieConfigRequest 0 false 0 15 0) (wr [(0x480008, 0x1234)] up)) (fun u => u.hif.answer = .data [0x34, 0x12, 0x20, 0x51]) ∧
        ran (exec (.pcieConfigRequest 0 true 0x10 15 0xFFFFFFFF) up) (fun u => ran (exec (.pcieConfigRequest 0 false 0x10 15 0) u) (fun v => v.hif.answer = .data [4, 0, 0x80, 0xFF])),
      apAddr opened false (3 * 2 ^ 32 + 3) 1 = some (2 ^ 32 + 3) ∧ ran (exec (.hostDramRead 0 (3 * 2 ^ 32 + 3) 1) opened) (fun u => u.hif.answer = .data [8]),
      apAddr opened false (2 ^ 32) 1 = none ∧ ran (exec (.hostDramRead 0 (2 ^ 32) 1) opened) (fun u => u.hif.answer = .unsupported ∧ rd u 0x480018 = 1),
      apAddr opened true 9 1 = some 9 ∧ ran (exec (.hostDramWrite 0 9 [3]) opened) (fun u => rdMem u 9 1 = [3]),
      apAddr opened true (3 * 2 ^ 32) 1 = none ∧ ran (exec (.hostDramWrite 0 (3 * 2 ^ 32) [3]) opened) (fun u => u.mem = opened.mem ∧ rd u 0x480018 = 1),
      (let s := wr [(0x480004, 2 ^ 15)] up
       lockTaken s = true ∧ hostMay s (mboxReg 7 0x40) = true ∧ mboxOwned s 7 = false ∧
         ran (exec (.mailboxGo 0 .host 7 (2 ^ 31)) s) (fun u => mboxOwned u 7 = true ∧ u.svc.queue = [(7, List.replicate 64 0, false)] ∧
           onlyTime (.mailboxGo 4 .host 7 (2 ^ 31)) u 4))] : List Bool).all id = true := by
  decide +kernel

/-- One telemetry ring, the last, of 64 records with `used` waiting, `drops` owed, for class 6, THRESH 64. -/
def telemetry (used drops : Nat) : State :=
  let s := wr [(trReg 3 8, 2 ^ 31 + 6 * 2 ^ 24 + 2 ^ 6), (trReg 3 0xC, used), (trReg 3 0x14, 64 * 2 ^ 16), (0x20000, 0x0601)] up
  let s1 := { s with svc := { s.svc with untold := [(.hutch, 0x0601, 15), (.boot, 0x0A01, 0), (.hutch, 0x0607, 0)] } }
  if drops = 0 then s1 else setTr s1 3 (0, drops)

/-- MemrdReadsDeviceMemory, TelemetryDropsAndInterrupts. -/
theorem test_witness_telemetry :
    ([(let s := wrMem up (2 ^ 32) [5, 6, 7, 8]
       ran (exec (.registerWrite 0 .control 0x480020 15 3) s) (fun u => ran (exec (.memrdStart 0 .control 1) u) (fun v => v.hif.memrd = some (2 ^ 32) ∧ flag v 0x480024 0 = false ∧
         ran (exec (.memrdDone 0) v) (fun w => rd w 0x48002C = 0x08070605 ∧ flag w 0x480024 0 = true ∧ w.hif.memrd = none)))),
      (let s := { up with hif := { up.hif with memrd := some (memTop up - 3) } }
       memTop s < memTop up - 3 + 4 ∧ ran (exec (.memrdDone 0) s) (fun u => flag u 0x480024 1 = true ∧ rd u 0x480018 = 1)),
      (let s := telemetry 64 0
       trUsed s 3 = trLen s 3 ∧ (dueEvent s .hutch).2.2.1 = 0x0601 ∧ trOn s 3 = true ∧ (rd s (trReg 3 8)).getLsbD 6 = true ∧ ran (exec (.telemetryEvent 0 .hutch 0) s) (fun u =>
         rd u (trReg 3 0x18) = 1 ∧ (trState u 3).2 = 1 ∧ u.hif.mem = [])),
      (let s := wr [(trReg 3 0x14, 1 * 2 ^ 16)] (telemetry 0 0)
       msixMasked s 11 = true ∧ ran (exec (.telemetryEvent 0 .hutch 0) s) (fun u => rd u (trReg 3 0xC) = 1 ∧ u.hif.pba.testBit 11 = true ∧ (mgets 0 u.hif.mem 8 8) = [1, 1, 1, 6, 15, 0, 0, 2] ∧
         u.svc.untold.map (fun e => e.2.1) = [0x0A01, 0x0607] ∧ (dueEvent u .hutch).2.2.1 = 0x0607)),
      inOrderSrc (.tc 0) = false ∧ up.svc.untold = [] ∧ (dueEvent up (.tc 0)).2.2.1 = (eventOf up (.tc 0)).2.2.1,
      ran (exec (.telemetryEvent 0 .hutch 0) (telemetry 0 7)) (fun u => rd u (trReg 3 0xC) = 2 ∧ (trState u 3).2 = 0),
      trUsed (telemetry 63 7) 3 + 1 = trLen (telemetry 63 7) 3 ∧ ran (exec (.telemetryEvent 0 .hutch 0) (telemetry 63 7)) (fun u => rd u (trReg 3 0xC) = 64 ∧ (trState u 3).2 = 1),
      ran (exec (.trEnable 0 .control 3 (2 ^ 31)) (setTr (wr [(trReg 3 0xC, 9)] up) 3 (5, 7))) (fun u => rd u (trReg 3 0xC) = 0 ∧ trState u 3 = (0, 7) ∧ trOn u 3 = true)] : List Bool).all id = true := by
  decide +kernel

/-- A message of mailbox 7 at the head of the queue, and a policy that permits BUR_CAP, a DRAM page and every reset or none. -/
def message (cmd : Nat) (body : List Nat) : List Byte :=
  ([cmd, 1, 0, 0, body.length, 0, 0, 0] ++ body ++ List.replicate (56 - body.length) 0).map (BitVec.ofNat 8)
def serving (cmd : Nat) (body : List Nat) (may : Bool) : State :=
  let pol : Policy := { Policy.none with wr := [(0x10008, 4), (0x204, 4)], mem := [(0x50000, 0x100)], mayMgmt := may, mayModule := may }
  let s := wr [(mboxReg 7 0x40, 2 ^ 30)] (wrMem up 0x50000 [9, 8, 7, 6])
  { s with boot := { s.boot with pol := pol }, svc := { s.svc with queue := [(7, message cmd body, false)] } }
/-- The queue is served: the mailbox is the host's again, with a RESULT. -/
def answered (r : Nat) (u : State) : Bool := mboxOwned u 7 = false ∧ fld u (mboxReg 7 0x40) 16 8 = r ∧ u.svc.queue = []
/-- The hypotheses of `Serving`. -/
def servable (s : State) (cmd : Nat) : Bool := match s.svc.queue with
  | [(7, msg, false)] => fwRuns s = true ∧ fld s 0x244 0 4 ≠ 0 ∧ msg.length = 64 ∧ msgKnown msg = true ∧ msgCmd msg = cmd ∧ le msg 4 1 ≤ 56
  | _ => false

/-- ManagementCommandsAnswer. -/
theorem test_witness_management :
    ([servable (serving 1 [] true) 1 ∧ ran (exec (.mgmtVersion 0 7) (serving 1 [] true)) (fun u => answered 0 u ∧ rd u (mboxReg 7 8) = readReg up .control 0x230),
      ran (exec (.mgmtReadReg 0 7) (serving 2 [8, 0, 1, 0, 12] true)) (fun u => answered 0 u ∧ rd u (mboxReg 7 8) = rd up 0x10008) ∧
        ran (exec (.mgmtReadReg 0 7) (serving 2 [8, 0, 1, 0, 13] true)) (answered 1) ∧ ran (exec (.mgmtReadReg 0 7) (serving 2 [9, 0, 1, 0, 1] true)) (answered 1),
      ran (exec (.mgmtWriteReg 0 7) (serving 3 [8, 0, 1, 0, 5, 0, 0, 0, 255, 255, 255, 255] true)) (fun u => answered 0 u ∧ stagedNow u 0x10008 = some 5) ∧
        ran (exec (.mgmtWriteReg 0 7) (serving 3 [12, 0, 1, 0, 5, 0, 0, 0, 255, 255, 255, 255] true)) (fun u => answered 3 u ∧ u.pend = []) ∧
        ran (exec (.mgmtWriteReg 0 7) (wr [(0x204, 6)] (serving 3 [4, 2, 0, 0, 255, 0, 0, 0, 4, 0, 0, 0] true))) (fun u => answered 0 u ∧ flag u 0x204 1 = true ∧ flag u 0x204 2 = false),
      ran (exec (.mgmtReadMem 0 7) (serving 4 [0, 0, 5, 0, 0, 0, 4] true)) (fun u => answered 0 u ∧ rd u (mboxReg 7 8) = 0x06070809) ∧
        ran (exec (.mgmtReadMem 0 7) (serving 4 [0xFF, 0, 5, 0, 0, 0, 2] true)) (answered 3) ∧ ran (exec (.mgmtReadMem 0 7) (serving 4 [0, 0, 5, 0, 0, 0, 49] true)) (answered 1),
      ran (exec (.mgmtWriteMem 0 7) (serving 5 [0xFF, 0, 5, 0, 0, 0, 1, 77] true)) (fun u => answered 0 u ∧ rdMem u 0x500FF 1 = [77]) ∧
        ran (exec (.mgmtWriteMem 0 7) (serving 5 [0xFF, 0, 5, 0, 0, 0, 2, 77, 78] true)) (answered 3),
      (let body := [1, 0, 0, 5, 0, 0, 0, 4, 0, 0, 0]
       let s := serving 6 body true
       let msg := message 6 body
       servable s 6 = true ∧ imageBad (msgBody msg) s = 0 ∧ ran (exec (.mgmtImageWrite 0 7 .start) s) (fun u => u.svc.img = some (7, msg, false) ∧ u.svc.queue = [] ∧ mboxOwned u 7 = true ∧
         ran (exec (.mgmtImageWrite 0 7 (.finish true)) u) (fun v => answered 0 v ∧ v.svc.img = none ∧ mgets flashDefault v.boot.flash 0x1000000 5 = [9, 8, 7, 6, 255]))),
      (let s := serving 6 [1, 0, 1, 5, 0, 0, 0, 1, 0, 0, 0] true
       ran (exec (.mgmtImageWrite 0 7 .start) s) (fun u => answered 3 u ∧ u.svc.img = none) ∧
         ran (exec (.mgmtImageWrite 0 7 .start) { serving 6 [1, 0, 0, 5, 0, 0, 0, 0, 0, 0, 0] true with svc := { s.svc with queue := [(7, message 6 [1, 0, 0, 5, 0, 0, 0, 0, 0, 0, 0], false)], img := some (0, message 6 [], false) } }) (answered 4) ∧
         ran (exec (.mgmtImageWrite 0 7 (.finish false)) { s with svc := { s.svc with queue := [], img := some (7, message 6 [1, 0, 0, 5, 0, 0, 0, 0, 0, 0, 0], false) } }) (answered 6)),
      ran (exec (.mgmtReset 0 7) (serving 7 [1] true)) (fun u => u.boot.fw = false ∧ flag u 0x204 3 = true) ∧
        ran (exec (.mgmtReset 0 7) (serving 7 [2] true)) (fun u => phase u = 0 ∧ allSet u ∧ flag u 0x204 2 = true) ∧
        ran (exec (.mgmtReset 0 7) (serving 7 [1] false)) (answered 3) ∧ ran (exec (.mgmtReset 0 7) (serving 7 [2] false)) (answered 3),
      ran (exec (.mgmtEcho 0 7) (serving 8 [1, 2, 3, 4] true)) (fun u => answered 0 u ∧ rd u (mboxReg 7 8) = 0x04030201)] : List Bool).all id = true := by
  decide +kernel

/-- A datagram ECHO with counter 1, tagged under a key of zeros. -/
def dgram : List Byte := let b := message 8 [] ++ leBytes 8 1; b ++ hmac384 (List.replicate 32 0) b
/-- Frames with it, and one to another port, wait in the management queue; port 7 is a camera port at 10.0.0.1. -/
def mgmtFrame (udp : Nat) : Nat × List Byte := (7, udpFrame 0x0A000001 udp dgram)
def networked : State :=
  let s := wr [(portReg 7 0, 2 ^ 30), (portReg 7 0xC, 0x0A000001)] up
  let i := s.ing
  let b := s.boot
  { s with boot := { b with pol := { Policy.none with udp := 65535, key := List.replicate 32 0 } }, ing := { i with mgmt := [mgmtFrame 9, mgmtFrame 65535, mgmtFrame 65535] } }

/-- DatagramsSmbusUsbAndJtag. -/
theorem test_witness_service :
    ([fwRuns networked = true ∧ dgram.length = 120 ∧ mgmtUdp networked 7 (mgmtFrame 65535).2 = some (0x0A000009, dgram) ∧ mgmtUdp networked 7 (mgmtFrame 9).2 = none ∧
        onlyTime (.mgmtDatagram 3 7 9 0x0A000009 dgram true) networked 3 ∧ onlyTime (.mgmtDatagram 3 6 65535 0x0A000009 dgram true) networked 3 ∧
        ran (exec (.mgmtDatagram 0 7 65535 0x0A000009 dgram true) networked) (fun u => tget 0 u.svc.ctrs 0x0A000009 = 1 ∧ u.svc.sent.length = 120 ∧ rd u 0x48001C = 0 ∧
          u.ing.mgmt = [mgmtFrame 65535] ∧ ran (exec (.mgmtDatagram 0 7 65535 0x0A000009 dgram true) u) (fun v => rd v 0x48001C = 1 ∧ v.ing.mgmt = [])),
      ran (exec (.smbusTransaction 0 (message 8 [5]) true true) up) (fun u => (u.svc.smb.drop 8).take 1 = [5]) ∧ onlyTime (.smbusTransaction 3 (message 8 [5]) false true) up 3,
      ran (exec (.usbOvercurrent 7 1) up) (fun u => vbusEn u 1 = false ∧ ran (exec (.usbOvercurrentRetry 1000000007 1) u) (fun v => vbusEn v 1 = true) ∧
        onlyTime (.usbOvercurrentRetry 1000000006 1) u 1000000006),
      ran (exec (.jtagBypass 0) up) (fun u => u.svc.ir = .bypass ∧ u.svc.dr = [false]) ∧ ran (exec (.jtagIdcode 0) up) (fun u => u.svc.ir = .idcode ∧ u.svc.dr.length = 32),
      ran (exec (.jtagSamplePreload 0 [true] [false, true]) { up with boot := { up.boot with resetN := true } }) (fun u => u.svc.dr = [true] ∧ u.svc.cells = [false, true] ∧
        ran (exec (.jtagExtest 0) u) (fun v => v.svc.ir = .extest ∧ v.svc.cells = [false, true] ∧ v.svc.dr.length = 2 ∧
          ran (exec (.resetNAssert 0 0 false) v) (fun w => w.svc.ir = .bypass))) ∧ ran (exec (.jtagExtest 0) up) (fun u => u.svc.ir = .bypass ∧ u.svc.dr = [false])] : List Bool).all id = true := by
  decide +kernel

/-! ## Steps and frames -/

/-- StepRunsTheCommandAtTheFront, ExecLeavesQueueAndMemory, OtherCommandsLeaveSafeIoAlone, TimebaseNeverDecreases, StepKeepsMemoryCanonical: a queue of two,
an empty queue with the supply and without it, a command that neither stores nor touches safe I/O, memory with an entry. -/
theorem test_witness_steps :
    ([(let s := { up with pending := [.ethLinkDown 5 0, .heartbeat 6 ⟨.a, 0, 0, 0⟩] }
       ran (step s) (fun u => u.pending = [.heartbeat 6 ⟨.a, 0, 0, 0⟩] ∧ u.clk.tb = 5)),
      up.pending = [] ∧ up.bur.vaon = true ∧ ran (step up) (fun u => u.clk.tb = 1 ∧ u.clk.frac = 0),
      (let s := { up with bur := { up.bur with vaon := false } }
       ran (step s) (fun u => u = s)),
      storingCommand (.ethLinkDown 0 0) = false ∧ safetyCommand (.ethLinkDown 0 0) = false ∧ ran (exec (.ethLinkDown 9 0) (wrMem up 1 [1])) (fun u => u.mem = [⟨1, 1⟩] ∧ u.sio = up.sio),
      standbyCommand (.vstby3v3Loss 0) = true ∧ standbyCommand (.glbTbSet 0 .control 0) = false,
      (let s := wrMem up 1 [1]
       cellsWf memDefault s.mem = true ∧ cellsWf flashDefault s.boot.flash = true ∧ cellsWf 0 s.hif.mem = true ∧ ran (step s) (fun u => cellsWf memDefault u.mem = true))]
      : List Bool).all id = true := by
  decide +kernel

end Sys2Proof.Tests
end

section
/-! # The family of scope: steps, commits and register writes -/
namespace Sys2Proof.Proofs
open Sys2Proof Sys2Proof.Machine Sys2Proof.Safety Sys2Proof.Laws

/-! ## The queue and the tick -/

theorem step_cons {s : State} {c : Instr} {r : List Instr} (h : s.pending = c :: r) : step s = exec c { s with pending := r } := by
  rw [step, h]

theorem step_nil {s : State} (h : s.pending = []) : step s = .next (idle s) := by
  rw [step, h]

theorem idle_without_supply {s : State} (h : s.bur.vaon = false) : idle s = s := by
  simp [idle, h]

/-- The tick with the standby supply there, for the counter and its fraction as one number. -/
theorem idle_with_supply {s : State} (h : s.bur.vaon = true) :
    (idle s).clk.tb * 2 ^ 32 + (idle s).clk.frac = s.clk.tb * 2 ^ 32 + s.clk.frac + tickInc s ∧ (idle s).clk.frac < 2 ^ 32 := by
  have hx (x : Nat) : x / 2 ^ 32 * 2 ^ 32 + x % 2 ^ 32 = x := Nat.div_add_mod' x _
  rw [idle, if_neg (not_not.mpr h)]
  exact ⟨hx _, Nat.mod_lt _ (by norm_num)⟩

/-- A tick changes the timebase alone. -/
theorem idle_shape (s : State) : idle s = { s with clk := { s.clk with tb := (idle s).clk.tb, frac := (idle s).clk.frac } } := by
  unfold idle
  split <;> rfl

/-- Settles O2: the queue of a step is its first command and the rest, and a tick is a division with remainder by 2³². -/
theorem stepRunsTheCommandAtTheFront : Obligations.StepRunsTheCommandAtTheFront :=
  ⟨fun _ _ _ h => step_cons h, fun s h => ⟨idle s, step_nil h, idle_shape s, idle_with_supply, idle_without_supply⟩⟩

/-- Settles O7: at reset all three memories are empty. -/
theorem resetMemoryCanonical : Obligations.ResetMemoryCanonical := ⟨rfl, rfl, rfl⟩

/-! ## Commits (R12, R13, R19) -/

theorem tget_clearStaged (s : State) (b : Time) (off : Nat) :
    tget [] (clearStaged s b off).pend (canonOff off) = (tget [] s.pend (canonOff off)).filter (fun e => decide (b ≤ e.1)) := by
  unfold clearStaged
  split
  · next h => rw [h]; simp [tget]
  · simp

theorem rd_clearStaged (s : State) (b : Time) (off o : Nat) : rd (clearStaged s b off) o = rd s o := by
  unfold clearStaged
  split <;> rfl

/-- What is still staged was written at the boundary or later. -/
theorem stagedAt_clearStaged (s : State) (b : Time) (off : Nat) : stagedAt (clearStaged s b off) b off = none := by
  rw [stagedAt, tget_clearStaged, Option.map_eq_none_iff, List.find?_eq_none]
  intro e he
  simpa using (List.mem_filter.mp he).2

theorem commitReg_some {s : State} {b : Time} {off : Nat} {v : Word} (h : stagedAt s b off = some v) :
    commitReg b s off = clearStaged (wrReg s off (committed s b off)) b off := by
  simp [commitReg, h]

theorem rd_commitReg_ne (s : State) (b : Time) {off o : Nat} (h : canonOff o ≠ canonOff off) : rd (commitReg b s off) o = rd s o := by
  cases hv : stagedAt s b off with
  | none => rw [commitReg_none s b off hv]
  | some v => rw [commitReg_some hv, rd_clearStaged, rd_wrReg_ne s _ _ _ h]

/-- Settles O26: the committed word is the merge of `committed`, and `clearStaged` keeps the words written at the boundary or later. -/
theorem commitTakesTheLastWriteBeforeIt : Obligations.CommitTakesTheLastWriteBeforeIt := by
  intro s b off
  refine ⟨fun v hv => ⟨fun i _ => ?_, ?_, ?_⟩, commitReg_none s b off, fun o => rd_commitReg_ne s b⟩
  · rw [rd_commitReg, committed, hv, getLsbD_mergeWord]
  · rw [commitReg_some hv, stagedAt_clearStaged]
  · rw [commitReg_some hv, tget_clearStaged]; rfl

/-! ## Access codes (R12)

A word is read and written field by field, so the masks of two access codes share no bit of a register. -/

/-- The access codes. -/
def accessCodes : List Access := [.rw, .ro, .w1c, .wo, .rwc, .rwl]

/-- The bits of the fields with one access code, as `maskOf` finds them at an offset. -/
def fieldsMask (l : List FieldDef) (a : Access) : Word :=
  BitVec.ofNat 32 ((l.filter (fun f => decide (f.acc = a))).foldl (fun v f => v + fieldMask f.lo f.w) 0)

/-- No bit belongs to fields of two access codes. -/
def codesExclusive (l : List FieldDef) : Bool :=
  accessCodes.all (fun a => accessCodes.all (fun b => decide (a = b) || decide (fieldsMask l a &&& fieldsMask l b = 0)))

theorem mem_accessCodes (a : Access) : a ∈ accessCodes := by
  cases a <;> decide

theorem registers_codesExclusive : (List.range 17).all (fun b => (regsOfBlock b).all (fun d => codesExclusive d.fields)) = true := by
  decide +kernel

theorem regsOfBlock_codesExclusive {b : Nat} {d : RegDef} (h : d ∈ regsOfBlock b) : codesExclusive d.fields = true := by
  by_cases hb : b < 17
  · exact List.all_eq_true.mp (List.all_eq_true.mp registers_codesExclusive b (List.mem_range.mpr hb)) d h
  · obtain ⟨n, rfl⟩ := Nat.exists_eq_add_of_le (Nat.le_of_not_lt hb)
    simp [regsOfBlock, Nat.add_comm 17 n] at h

theorem fieldsAt_codesExclusive (off : Nat) : codesExclusive (fieldsAt off) = true := by
  unfold fieldsAt
  split
  · rfl
  · split
    · rfl
    · next d h => exact regsOfBlock_codesExclusive (List.mem_of_find?_eq_some h)

/-- A bit of one access code is none of another. -/
theorem maskOf_exclusive {a b : Access} {off i : Nat} (hi : (maskOf a off).getLsbD i = true) (hab : b ≠ a) :
    (maskOf b off).getLsbD i = false := by
  have h := List.all_eq_true.mp (List.all_eq_true.mp (fieldsAt_codesExclusive off) a (mem_accessCodes a)) b (mem_accessCodes b)
  simp only [hab.symm, decide_false, Bool.false_or, decide_eq_true_eq] at h
  have hbit : ((maskOf a off) &&& (maskOf b off)).getLsbD i = false := by
    rw [show maskOf a off &&& maskOf b off = 0#32 from h, BitVec.getLsbD_zero]
  simpa [hi] using hbit

theorem and_eq_and_of_bits {x y m : Word} (h : ∀ i, m.getLsbD i = true → x.getLsbD i = y.getLsbD i) : x &&& m = y &&& m := by
  apply BitVec.eq_of_getLsbD_eq
  intro i _
  rw [BitVec.getLsbD_and, BitVec.getLsbD_and]
  cases hm : m.getLsbD i with
  | false => simp
  | true => simp [h i hm]

theorem canonOff_canonOff (off : Nat) : canonOff (canonOff off) = canonOff off := by
  by_cases h : 0x100000 ≤ off ∧ off < 0x200000 ∧ 0x800 ≤ off % 0x1000 ∧ off % 0x1000 < 0x900
  · rw [canonOff, canonOff, if_pos h]
    split <;> omega
  · rw [canonOff, canonOff, if_neg h, if_neg h]

/-! ## A plain write (R12, R13, R466) -/

/-- The word that a plain write of `w` leaves in a register. -/
def writtenWord (s : State) (c : Nat) (w : Word) : Word :=
  mergeWord (maskOf .rw c ||| (maskOf .rwl c &&& ~~~(lockedMask s c))) (rd s c) w &&& ~~~(w &&& maskOf .w1c c)

/-- The count of a write that a locked field ignores. -/
def countLocked (s : State) (c : Nat) : State := if lockedMask s c = 0 then s else bump s 0x218

theorem lockedMask_eq_zero {s : State} {c : Nat} (hl : lockTaken s = false)
    (hk : s.boot.held = false ∨ isBurReg c = false ∧ isHutReg c = false) :
    lockedMask s c = 0 := by
  obtain h | ⟨h, h'⟩ := hk <;> simp [lockedMask, *]

theorem lockedMask_eq_mask {s : State} {c : Nat} (h : lockTaken s = true ∨ s.boot.held = true ∧ (isBurReg c = true ∨ isHutReg c = true)) :
    lockedMask s c = maskOf .rwl c := by
  obtain h | ⟨h, h' | h'⟩ := h <;> simp [lockedMask, *]

/-- The counter of ignored writes has no lockable field itself. -/
theorem lockedMask_counter (s : State) : lockedMask s 0x218 = 0 := by
  have h : maskOf .rwl 0x218 = 0 := by decide +kernel
  simp [lockedMask, h]

theorem rd_countLocked_ne (s : State) (c : Nat) {x : Nat} (h : canonOff x ≠ 0x218) : rd (countLocked s c) x = rd s x := by
  unfold countLocked
  split
  · rfl
  · exact rd_wrReg_ne s _ _ _ h

theorem rd_countLocked_same (s : State) (off : Nat) : rd (countLocked s (canonOff off)) (canonOff off) = rd s off := by
  have hc : rd s (canonOff off) = rd s off := by simp [rd, canonOff_canonOff]
  by_cases h : canonOff off = 0x218
  · rw [countLocked, h, if_pos (lockedMask_counter s), ← h, hc]
  · rw [rd_countLocked_ne s _ (by rwa [canonOff_canonOff]), hc]

theorem rd_countLocked_counter {s : State} {c : Nat} (h : lockedMask s c ≠ 0) : rd (countLocked s c) 0x218 = rd s 0x218 + 1 := by
  rw [countLocked, if_neg h, rd_bump]

/-- The write of the word itself; it is left out where no field would take it. -/
def putWritten (s : State) (c : Nat) (w : Word) : State :=
  if maskOf .rw c ||| (maskOf .rwl c &&& ~~~(lockedMask s c)) ||| maskOf .w1c c = 0 then countLocked s c
  else wrReg (countLocked s c) c (writtenWord s c w)

theorem plainWrite_eq (off : Nat) (w : Word) (s : State) :
    plainWrite off w s =
      if maskOf .rwc (canonOff off) = 0 then putWritten s (canonOff off) w else stage (putWritten s (canonOff off) w) (canonOff off) w := by
  have hc : rd s (canonOff off) = rd s off := by simp [rd, canonOff_canonOff]
  have hr : rd (if lockedMask s (canonOff off) = 0 then s else bump s 0x218) (canonOff off) = rd s (canonOff off) :=
    (rd_countLocked_same s off).trans hc.symm
  simp only [plainWrite, putWritten, writtenWord, hr, countLocked]

theorem writtenWord_of_no_codes {s : State} {c : Nat} (w : Word)
    (h : maskOf .rw c ||| (maskOf .rwl c &&& ~~~(lockedMask s c)) ||| maskOf .w1c c = 0) : writtenWord s c w = rd s c := by
  obtain ⟨hm, hw⟩ := BitVec.or_eq_zero_iff.mp h
  have hkeep : mergeWord 0#32 (rd s c) w = rd s c := mergeWord_zero _ _
  rw [writtenWord, hm, hw, hkeep, BitVec.and_zero, BitVec.not_zero, BitVec.and_allOnes]

theorem rd_plainWrite (off : Nat) (w : Word) (s : State) : rd (plainWrite off w s) off = writtenWord s (canonOff off) w := by
  have hput : rd (putWritten s (canonOff off) w) off = writtenWord s (canonOff off) w := by
    have hc (u : State) : rd u off = rd u (canonOff off) := by simp [rd, canonOff_canonOff]
    rw [hc, putWritten]
    split
    · next h => rw [writtenWord_of_no_codes w h, rd_countLocked_same, hc]
    · rw [rd_wrReg_same]
  rw [plainWrite_eq]
  split
  · exact hput
  · exact hput

theorem rd_plainWrite_ne (off : Nat) (w : Word) (s : State) {x : Nat} (h : canonOff x ≠ canonOff off) :
    rd (plainWrite off w s) x = rd (countLocked s (canonOff off)) x := by
  have hput : rd (putWritten s (canonOff off) w) x = rd (countLocked s (canonOff off)) x := by
    unfold putWritten
    split
    · rfl
    · exact rd_wrReg_ne _ _ _ _ (by rwa [canonOff_canonOff])
  rw [plainWrite_eq]
  split
  · exact hput
  · exact hput

theorem stagedNow_plainWrite (off : Nat) (w : Word) (s : State) (h : maskOf .rwc (canonOff off) ≠ 0) :
    stagedNow (plainWrite off w s) off = some w := by
  rw [plainWrite_eq, if_neg h]
  simp [stagedNow, stage, tmod, canonOff_canonOff]

theorem getLsbD_writtenWord (s : State) (c : Nat) (w : Word) {i : Nat} (h32 : i < 32) :
    (writtenWord s c w).getLsbD i =
      ((if (maskOf .rw c).getLsbD i || ((maskOf .rwl c).getLsbD i && !(lockedMask s c).getLsbD i) then w.getLsbD i else (rd s c).getLsbD i)
        && !(w.getLsbD i && (maskOf .w1c c).getLsbD i)) := by
  simp only [writtenWord, BitVec.getLsbD_and, BitVec.getLsbD_not, BitVec.getLsbD_or, getLsbD_mergeWord, h32, decide_true, Bool.true_and]

/-! Field by field: what the written word holds where the mask of one access code is set. -/

theorem writtenWord_rw (s : State) (c : Nat) (w : Word) : writtenWord s c w &&& maskOf .rw c = w &&& maskOf .rw c := by
  refine and_eq_and_of_bits fun i hi => ?_
  have h32 := BitVec.lt_of_getLsbD hi
  have hw : (maskOf .w1c c).getLsbD i = false := maskOf_exclusive hi (by decide)
  simp [getLsbD_writtenWord s c w h32, hi, hw, -BitVec.getLsbD_eq_getElem]

theorem writtenWord_w1c (s : State) (c : Nat) (w : Word) : writtenWord s c w &&& maskOf .w1c c = rd s c &&& ~~~w &&& maskOf .w1c c := by
  refine and_eq_and_of_bits fun i hi => ?_
  have h32 := BitVec.lt_of_getLsbD hi
  have hrw : (maskOf .rw c).getLsbD i = false := maskOf_exclusive hi (by decide)
  have hrwl : (maskOf .rwl c).getLsbD i = false := maskOf_exclusive hi (by decide)
  simp [getLsbD_writtenWord s c w h32, hi, hrw, hrwl, h32, -BitVec.getLsbD_eq_getElem]

theorem writtenWord_unlocked {s : State} {c : Nat} (w : Word) (h : lockedMask s c = 0) :
    writtenWord s c w &&& maskOf .rwl c = w &&& maskOf .rwl c := by
  refine and_eq_and_of_bits fun i hi => ?_
  have h32 := BitVec.lt_of_getLsbD hi
  have hw : (maskOf .w1c c).getLsbD i = false := maskOf_exclusive hi (by decide)
  simp [getLsbD_writtenWord s c w h32, h, hi, hw, -BitVec.getLsbD_eq_getElem]

theorem writtenWord_locked {s : State} {c : Nat} (w : Word) (h : lockedMask s c = maskOf .rwl c) :
    writtenWord s c w &&& maskOf .rwl c = rd s c &&& maskOf .rwl c := by
  refine and_eq_and_of_bits fun i hi => ?_
  have h32 := BitVec.lt_of_getLsbD hi
  have hw : (maskOf .w1c c).getLsbD i = false := maskOf_exclusive hi (by decide)
  have hrw : (maskOf .rw c).getLsbD i = false := maskOf_exclusive hi (by decide)
  simp [getLsbD_writtenWord s c w h32, h, hi, hw, hrw, -BitVec.getLsbD_eq_getElem]

/-- The word itself is not written where the code is RO or RWC. -/
theorem writtenWord_other {a : Access} (s : State) (c : Nat) (w : Word) (h : a = .ro ∨ a = .rwc) :
    writtenWord s c w &&& maskOf a c = rd s c &&& maskOf a c := by
  refine and_eq_and_of_bits fun i hi => ?_
  have h32 := BitVec.lt_of_getLsbD hi
  have hw : (maskOf .w1c c).getLsbD i = false := maskOf_exclusive hi (by obtain rfl | rfl := h <;> decide)
  have hrw : (maskOf .rw c).getLsbD i = false := maskOf_exclusive hi (by obtain rfl | rfl := h <;> decide)
  have hrwl : (maskOf .rwl c).getLsbD i = false := maskOf_exclusive hi (by obtain rfl | rfl := h <;> decide)
  simp [getLsbD_writtenWord s c w h32, hw, hrw, hrwl, -BitVec.getLsbD_eq_getElem]

/-- A staged word reads back in the RWC bits. -/
theorem plainRead_staged {s : State} {off : Nat} {w : Word} (h : stagedNow s off = some w) :
    plainRead s off &&& maskOf .rwc (canonOff off) = w &&& maskOf .rwc (canonOff off) := by
  refine and_eq_and_of_bits fun i hi => ?_
  have h32 := BitVec.lt_of_getLsbD hi
  have hwo : (maskOf .wo (canonOff off)).getLsbD i = false := maskOf_exclusive hi (by decide)
  simp [plainRead, h, getLsbD_mergeWord, hi, hwo, h32, -BitVec.getLsbD_eq_getElem]

/-! ## REGISTER_WRITE (R485, R487) -/

section
variable {t : Time} {ag : Agent} {off : Nat} {be : Fin 16} {w : Word} {s : State}

theorem exec_registerWrite_aligned (h4 : off % 4 = 0) :
    exec (.registerWrite t ag off be w) s = .next (busWrite (advance s t) ag off be w) := by
  rw [exec_registerWrite, execRegisterWrite, Nat.div_mul_cancel (Nat.dvd_of_mod_eq_zero h4)]

theorem onWrite_of_writeTakes (f : State → State) (h : writeTakes s ag off) : onWrite (advance s t) ag off f = f (advance s t) := by
  obtain ⟨rfl, h⟩ | ⟨hl, hm⟩ := h
  · exact onWrite_control _ _ _ h
  · cases ag with
    | control => exact onWrite_control _ _ _ (.inr hl)
    | host =>
      have hl' : lockTaken (advance s t) = true := hl
      have hm' : hostMay (advance s t) off = true := hm
      rw [onWrite, if_neg (not_not.mpr hl'), if_pos hm']

theorem busWrite_word (hb : (blockOf off).isSome = true) : busWrite s ag off (15 : Fin 16) w = onWrite s ag off (writeWord ag off w) := by
  simp [busWrite, Option.isSome_iff_ne_none.mp hb]

theorem busWrite_partial (hbe : be ≠ 15) : busWrite s ag off be w = onWrite s ag 0x480000 (fun s => bump s 0x480014) := by
  have h : (be : Nat) % 16 ≠ 15 := by
    rw [Nat.mod_eq_of_lt be.isLt]; exact fun e => hbe (Fin.ext e)
  rw [busWrite, if_pos h]

theorem busWrite_unassigned (hb : blockOf off = none) :
    busWrite s ag off (15 : Fin 16) w = onWrite s ag off (fun s => bump s 0x480010) := by
  simp [busWrite, hb]

theorem writeWord_hut_before_lock (hb : blockOf off = some 2) (ho : off < 0x20800) (hl : lockTaken s = false) :
    writeWord ag off w s = s := by
  simp [writeWord, hb, writeHut, hl, show off ≠ 0x20810 by omega, show ¬ 0x20800 ≤ off by omega]

/-- What a plain write leaves, by access code. -/
theorem plainWrite_by_access_code (s : State) (off : Nat) (w : Word) :
    let c := canonOff off
    let u := plainWrite off w s
    rd u off &&& maskOf .rw c = w &&& maskOf .rw c ∧
    rd u off &&& maskOf .ro c = rd s off &&& maskOf .ro c ∧
    rd u off &&& maskOf .w1c c = rd s off &&& ~~~w &&& maskOf .w1c c ∧
    (lockTaken s = false → (s.boot.held = false ∨ (isBurReg c = false ∧ isHutReg c = false)) →
      rd u off &&& maskOf .rwl c = w &&& maskOf .rwl c) ∧
    ((lockTaken s = true ∨ s.boot.held = true ∧ (isBurReg c = true ∨ isHutReg c = true)) →
      rd u off &&& maskOf .rwl c = rd s off &&& maskOf .rwl c ∧ (maskOf .rwl c ≠ 0 → rd u 0x218 = rd s 0x218 + 1)) ∧
    rd u off &&& maskOf .rwc c = rd s off &&& maskOf .rwc c ∧
    (maskOf .rwc c ≠ 0 → plainRead u off &&& maskOf .rwc c = w &&& maskOf .rwc c) ∧
    ∀ x, canonOff x ≠ c → canonOff x ≠ 0x218 → rd u x = rd s x := by
  intro c u
  have hu : rd u off = writtenWord s c w := rd_plainWrite off w s
  have hs : rd s off = rd s c := by simp [c, rd, canonOff_canonOff]
  rw [hu, hs]
  refine ⟨writtenWord_rw s c w, writtenWord_other s c w (.inl rfl), writtenWord_w1c s c w,
    fun hl hk => writtenWord_unlocked w (lockedMask_eq_zero hl hk), fun hl => ⟨writtenWord_locked w (lockedMask_eq_mask hl), fun hne => ?_⟩,
    writtenWord_other s c w (.inr rfl), fun hne => plainRead_staged (stagedNow_plainWrite off w s hne), fun x hx h218 => ?_⟩
  · have hlock : lockedMask s c ≠ 0 := by rwa [lockedMask_eq_mask hl]
    have hc : canonOff 0x218 ≠ canonOff off := fun e => hlock (by rw [show c = 0x218 from e.symm]; exact lockedMask_counter s)
    rw [rd_plainWrite_ne off w s hc, rd_countLocked_counter hlock]
  · rw [rd_plainWrite_ne off w s hx, rd_countLocked_ne s _ h218]

end

/-- Settles O55: the written word by access code, and each way in which a write does not act. -/
theorem registerWritesByAccessCode : Obligations.RegisterWritesByAccessCode := by
  refine ⟨fun t ag off w s h4 hb ht hp => ?_, fun t ag off be w s h4 => ⟨fun ht hbe => ?_, ?_⟩,
    fun t off w s h4 hb => ⟨fun hl hm => ?_, fun hl => ?_, ?_⟩⟩
  · refine ⟨plainWrite off w (advance s t), ?_, ?_, plainWrite_by_access_code (advance s t) off w⟩
    · rw [exec_registerWrite_aligned h4, busWrite_word hb, onWrite_of_writeTakes _ ht, hp]
    · obtain ⟨r, p, h⟩ := plainWrite_shape (advance s t) off w
      rw [h]
  · rw [exec_registerWrite_aligned h4, busWrite_partial hbe, onWrite_of_writeTakes _ ht]
  · rintro ht rfl hb
    rw [exec_registerWrite_aligned h4, busWrite_unassigned hb, onWrite_of_writeTakes _ ht]
  · rw [exec_registerWrite_aligned h4, busWrite_word hb]
    simp [onWrite, show lockTaken (advance s t) = true from hl, show hostMay (advance s t) off = false from hm]
  · rw [exec_registerWrite_aligned h4, busWrite_word hb]
    simp [onWrite, show lockTaken (advance s t) = false from hl]
  · intro h2 ho hl
    have hl' : lockTaken (advance s t) = false := hl
    rw [exec_registerWrite_aligned h4, busWrite_word hb, onWrite, writeWord_hut_before_lock h2 ho hl', ite_self]

end Sys2Proof.Proofs
end

section
/-! # What a command may change, said once for every operation of the model

`Follows A s u` is what every command keeps between the state before it and the state after it, by what the command may do (`Allowed`):
the queue stays, the timebase does not go back, device memory and safe I/O stay where the command may not touch them, and the byte
memories stay in canonical form.  Each operation of the model carries `Follows A s` from its argument to its result, so the proof for an
operation has the shape of its definition; `exec_follows` draws them together for all commands.

Where an operation goes through intermediate states, `extract_lets` names them and each is shown to follow in turn.  Once that is known its
value no longer matters, and `clear_value` forgets it, so that `Follows.alike` compares the fields of a variable and evaluates nothing. -/
namespace Sys2Proof.Proofs
open Sys2Proof Sys2Proof.Machine Sys2Proof.Safety Sys2Proof.Laws

/-- What a command may do: store to device memory, change safe I/O, let the standby supply, and the timebase with it, come or go. -/
structure Allowed where
  stores : Bool
  safety : Bool
  supply : Bool

/-- What holds between the state before and the state after what is allowed. -/
structure Follows (A : Allowed) (s u : State) : Prop where
  pending : u.pending = s.pending
  time : A.supply = false → s.clk.tb ≤ u.clk.tb
  mem : A.stores = false → u.mem = s.mem
  sio : A.safety = false → u.sio = s.sio
  canonical : MemoryCanonical s → MemoryCanonical u

/-- The parts of the state of which `Follows` speaks.  An abbreviation, for the parts are to be compared one by one and never the states. -/
abbrev tracked (s : State) : List Instr × Time × List Host.Cell × Sio × List Host.Cell × List Host.Cell :=
  (s.pending, s.clk.tb, s.mem, s.sio, s.boot.flash, s.hif.mem)

/-- Whatever a command ends in follows. -/
def Ends (A : Allowed) (s : State) (r : Res) : Prop := ∀ u, r = .next u → Follows A s u

/-- Where there is a next state, it follows. -/
def Yields (A : Allowed) (s : State) (o : Option State) : Prop := ∀ u, o = some u → Follows A s u

variable {A : Allowed} {σ s u x y : State}

/-! ## The shapes of a definition -/

theorem Follows.refl (A : Allowed) (s : State) : Follows A s s := ⟨rfl, fun _ => le_rfl, fun _ => rfl, fun _ => rfl, id⟩

theorem Follows.trans (h : Follows A σ s) (k : Follows A s u) : Follows A σ u where
  pending := k.pending.trans h.pending
  time e := (h.time e).trans (k.time e)
  mem e := (k.mem e).trans (h.mem e)
  sio e := (k.sio e).trans (h.sio e)
  canonical c := k.canonical (h.canonical c)

/-- An update of anything else. -/
theorem Follows.alike (h : Follows A σ s) (e : tracked u = tracked s) : Follows A σ u := by
  simp only [tracked, Prod.mk.injEq] at e
  obtain ⟨hp, ht, hm, hs, hf, hh⟩ := e
  refine h.trans ⟨hp, fun _ => ht.ge, fun _ => hm, fun _ => hs, fun c => ?_⟩
  simpa only [MemoryCanonical, hm, hf, hh] using c

/-- An update that keeps the queue and, where it may not change them, the timebase, device memory and safe I/O, and keeps the canonical form. -/
theorem Follows.step (h : Follows A σ s) (hp : u.pending = s.pending) (ht : A.supply = false → s.clk.tb ≤ u.clk.tb)
    (hm : A.stores = false → u.mem = s.mem) (hs : A.safety = false → u.sio = s.sio) (hc : MemoryCanonical s → MemoryCanonical u) :
    Follows A σ u := h.trans ⟨hp, ht, hm, hs, hc⟩

/-! The four parts that some updates may change: device memory, safe I/O, the xSPI device and host memory. -/

theorem Follows.withMem {m : List Host.Cell} (h : Follows A σ s) (hm : A.stores = true)
    (hc : cellsWf memDefault s.mem = true → cellsWf memDefault m = true) : Follows A σ { s with mem := m } :=
  h.step rfl (fun _ => le_rfl) (fun e => by simp [hm] at e) (fun _ => rfl) fun ⟨c, d⟩ => ⟨hc c, d⟩

theorem Follows.withSio {i : Sio} (h : Follows A σ s) (hs : A.safety = true) : Follows A σ { s with sio := i } :=
  h.step rfl (fun _ => le_rfl) (fun _ => rfl) (fun e => by simp [hs] at e) id

theorem Follows.withFlash {m : List Host.Cell} (h : Follows A σ s)
    (hc : cellsWf flashDefault s.boot.flash = true → cellsWf flashDefault m = true) :
    Follows A σ { s with boot := { s.boot with flash := m } } :=
  h.step rfl (fun _ => le_rfl) (fun _ => rfl) (fun _ => rfl) fun ⟨c, d, e⟩ => ⟨c, hc d, e⟩

theorem Follows.withHostMem {m : List Host.Cell} (h : Follows A σ s) (hc : cellsWf 0 s.hif.mem = true → cellsWf 0 m = true) :
    Follows A σ { s with hif := { s.hif with mem := m } } :=
  h.step rfl (fun _ => le_rfl) (fun _ => rfl) (fun _ => rfl) fun ⟨c, d, e⟩ => ⟨c, d, hc e⟩

/-- A state that is used more than once. -/
theorem Follows.andThen {p : Prop} (h : Follows A σ s) (k : Follows A σ s → p) : p := k h

theorem Follows.fst {β : Type} {b : β} (h : Follows A σ s) : Follows A σ (s, b).1 := h

theorem Follows.ite {c : Prop} [Decidable c] (hx : Follows A σ x) (hy : Follows A σ y) : Follows A σ (if c then x else y) := by
  split <;> assumption

theorem Follows.foldl {α : Type} {f : State → α → State} {l : List α} (h : Follows A σ s)
    (hf : ∀ v i, Follows A σ v → Follows A σ (f v i)) :
    Follows A σ (l.foldl f s) := List.foldlRecOn l f h fun v hv i _ => hf v i hv

theorem Follows.foldlFst {α β : Type} {f : State × β → α → State × β} {l : List α} {z : State × β} (h : Follows A σ z.1)
    (hf : ∀ v i, Follows A σ v.1 → Follows A σ (f v i).1) : Follows A σ (l.foldl f z).1 :=
  List.foldlRecOn (motive := fun v => Follows A σ v.1) l f h fun v hv i _ => hf v i hv

theorem Follows.foldlSnd {α β : Type} {f : β × State → α → β × State} {l : List α} {z : β × State} (h : Follows A σ z.2)
    (hf : ∀ v i, Follows A σ v.2 → Follows A σ (f v i).2) : Follows A σ (l.foldl f z).2 :=
  List.foldlRecOn (motive := fun v => Follows A σ v.2) l f h fun v hv i _ => hf v i hv

theorem Ends.next (h : Follows A σ s) : Ends A σ (.next s) := by
  rintro u ⟨⟩; exact h

theorem Ends.ite {c : Prop} [Decidable c] {r q : Res} (hr : Ends A σ r) (hq : Ends A σ q) : Ends A σ (if c then r else q) := by
  split <;> assumption

theorem Yields.none : Yields A σ none := by
  rintro u ⟨⟩

theorem Yields.some (h : Follows A σ s) : Yields A σ (some s) := by
  rintro u ⟨⟩; exact h

theorem Yields.ite {c : Prop} [Decidable c] {o q : Option State} (ho : Yields A σ o) (hq : Yields A σ q) :
    Yields A σ (if c then o else q) := by
  split <;> assumption

theorem Yields.getD {o : Option State} (ho : Yields A σ o) (h : Follows A σ s) : Follows A σ (o.getD s) := by
  cases o with
  | none => exact h
  | some v => exact ho v rfl

theorem Yields.orElse' {o q : Option State} (ho : Yields A σ o) (hq : Yields A σ q) : Yields A σ (orElse' o q) := by
  cases o with
  | none => exact hq
  | some v => exact ho


/-! ## Machine/Ops.lean -/

theorem Follows.advance {t : Time} (h : Follows A σ s) : Follows A σ (advance s t) :=
  h.step rfl (fun _ => Nat.le_max_left _ _) (fun _ => rfl) (fun _ => rfl) id

theorem Follows.draw (h : Follows A σ s) : Follows A σ (draw s).2 := h.alike (by rfl)

theorem Follows.wrReg {off : Nat} {v : Word} (h : Follows A σ s) : Follows A σ (wrReg s off v) := h.alike (by rfl)

theorem Follows.setFld {off lo w v : Nat} (h : Follows A σ s) : Follows A σ (setFld s off lo w v) := h.wrReg

theorem Follows.setFlag {off i : Nat} {b : Bool} (h : Follows A σ s) : Follows A σ (setFlag s off i b) := h.setFld

theorem Follows.bumpBy {off n : Nat} (h : Follows A σ s) : Follows A σ (bumpBy s off n) := h.wrReg

theorem Follows.bump {off : Nat} (h : Follows A σ s) : Follows A σ (bump s off) := h.bumpBy

theorem Follows.wr64 {lo hi v : Nat} (h : Follows A σ s) : Follows A σ (wr64 s lo hi v) := h.wrReg.wrReg

theorem Follows.stage {off : Nat} {v : Word} (h : Follows A σ s) : Follows A σ (stage s off v) := h.alike (by rfl)

theorem Follows.clearStaged {b : Time} {off : Nat} (h : Follows A σ s) : Follows A σ (clearStaged s b off) := by
  unfold Machine.clearStaged
  split
  · exact h.alike (by rfl)
  · exact h.alike (by rfl)

theorem Follows.commitReg {b : Time} {off : Nat} (h : Follows A σ s) : Follows A σ (commitReg b s off) := by
  unfold Machine.commitReg
  split
  · exact h
  · exact h.wrReg.clearStaged

theorem Follows.onWrite {ag : Agent} {off : Nat} {f : State → State} (h : Follows A σ s) (hf : ∀ v, Follows A σ v → Follows A σ (f v)) :
    Follows A σ (onWrite s ag off f) := by
  unfold Machine.onWrite
  split
  · exact .ite h (hf _ h)
  · exact .ite h (.ite (hf _ h) h.bump)

theorem Follows.signal {k n : Nat} {v : Word} (h : Follows A σ s) : Follows A σ (signal s k n v) := h.alike (by rfl)

theorem Follows.noteEvent {src : EventSource} {code arg : Nat} (h : Follows A σ s) : Follows A σ (noteEvent src code arg s) :=
  h.alike (by rfl)

theorem Follows.bootErr {code : Nat} (h : Follows A σ s) : Follows A σ (bootErr code s) := h.setFld.noteEvent

theorem Follows.wrMem {a : Nat} {bs : List Byte} (h : Follows A σ s) (hm : A.stores = true) : Follows A σ (wrMem s a bs) :=
  h.withMem hm (wrMem_wf s a bs)

theorem Follows.wrLE {a n v : Nat} (h : Follows A σ s) (hm : A.stores = true) : Follows A σ (wrLE s a n v) := h.wrMem hm

theorem Follows.zeroMem {a n : Nat} (h : Follows A σ s) (hm : A.stores = true) : Follows A σ (zeroMem s a n) :=
  h.withMem hm (zeroMem_wf s a n)

theorem Follows.setCtx {p n : Nat} {c : Ctx} (h : Follows A σ s) : Follows A σ (setCtx s p n c) := h.alike (by rfl)

theorem Follows.setCore {l : Nat} {c : LCore} (h : Follows A σ s) : Follows A σ (setCore s l c) := h.alike (by rfl)

theorem Follows.setCl {c : Nat} {v : Cluster} (h : Follows A σ s) : Follows A σ (setCl s c v) := h.alike (by rfl)

theorem Follows.setPhys {p : Nat} {v : Phys} (h : Follows A σ s) : Follows A σ (setPhys s p v) := h.alike (by rfl)

theorem Follows.setSlot {l k : Nat} {v : SlotCtx} (h : Follows A σ s) : Follows A σ (setSlot s l k v) := h.setCore

theorem Follows.setBank {l b : Nat} {v : BankSt} (h : Follows A σ s) : Follows A σ (setBank s l b v) := h.setCore

theorem Follows.bankAbort {l b : Nat} (h : Follows A σ s) : Follows A σ (bankAbort s l b) := .ite h.setBank.bump h

theorem Follows.bankWake {l b : Nat} {wr : Bool} (h : Follows A σ s) : Follows A σ (bankWake s l b wr) := .ite h.setBank.bump h

theorem Follows.touchCore {wr : Bool} {a len : Nat} (h : Follows A σ s) : Follows A σ (touchCore s wr a len) := by
  unfold Machine.touchCore
  dsimp only
  split
  · exact h
  · exact .ite h (.foldl h fun _ _ h => h.bankAbort.bankWake)

theorem Follows.touch {wr : Bool} {a len : Nat} (h : Follows A σ s) : Follows A σ (touch s wr a len) := .foldl h fun _ _ h => h.touchCore

theorem Follows.selfFetch {l : Nat} {x : Credit} {mc : Bool} (h : Follows A σ s) : Follows A σ (selfFetch s l x mc) := h.setCore.bump

theorem Follows.cancelPromises {w p n : Nat} (h : Follows A σ s) :
    Follows A σ (cancelPromises s w p n) := .foldl h fun _ _ h => .foldl h fun _ _ h => h.selfFetch

theorem Follows.recordTcFault {l k n code : Nat} (h : Follows A σ s) : Follows A σ (recordTcFault s l k n code) := .ite h h.wrReg

theorem Follows.raise {p n l code : Nat} (h : Follows A σ s) : Follows A σ (raise s p n l code) := by
  unfold Machine.raise
  dsimp only
  split
  · exact h
  · exact h
  · exact h.recordTcFault.setCtx.cancelPromises

theorem Follows.noteFence {p a : Nat} (h : Follows A σ s) : Follows A σ (noteFence s p a) := h.bump.wrReg.setFld

theorem Follows.raiseAcc {p n l : Nat} {x : Acc} (h : Follows A σ s) : Follows A σ (raiseAcc s p n l x) := by
  unfold Machine.raiseAcc
  split
  · exact h
  · exact h.noteFence.raise
  · exact h.raise

theorem Follows.nondet {p : Nat} (h : Follows A σ s) : Follows A σ (nondet s p) := h.bump

/-! ## Machine/Operands.lean -/

theorem Follows.raiseErrs {p n l : Nat} {es : Errs} (h : Follows A σ s) : Follows A σ (raiseErrs s p n l es) := by
  unfold Machine.raiseErrs
  split
  · exact h
  · exact .ite h.noteFence.raise h.raise

/-! ## Machine/Flags.lean -/

theorem Follows.writeChan {a n c : Nat} {t : Tab Word} (h : Follows A σ s) (hm : A.stores = true) : Follows A σ (writeChan a t n c s) := by
  induction n generalizing c s with
  | zero => exact h
  | succ n ih => exact ih (h.wrLE hm)

theorem Follows.writeRecord {o : OutRec} {st0 : Stats} (h : Follows A σ s) (hm : A.stores = true) : Follows A σ (writeRecord s o st0) := by
  unfold Machine.writeRecord
  split
  · exact h
  · extract_lets a st fl s1 s2 s3 s4 s5 s6
    have h5 : Follows A σ s5 := (((((((h.wrLE hm).wrLE hm).wrLE hm).wrLE hm).wrLE hm).wrLE hm).wrLE hm).wrLE hm
    have h6 : Follows A σ s6 := .ite (h5.writeChan hm) h5
    split
    · extract_lets r fl4 s7
      have h7 : Follows A σ s7 := h6.wrLE hm
      split
      · exact h7.wrLE hm
      · exact ((h7.wrLE hm).wrLE hm).wrLE hm
    · exact h6

/-! ## Machine/Dresser.lean -/

theorem Follows.setMap {l v : Nat} (h : Follows A σ s) : Follows A σ (setMap s l v) := h.setFld

theorem Follows.endWait {l k : Nat} (h : Follows A σ s) : Follows A σ (endWait s l k) := by
  unfold Machine.endWait
  dsimp only
  split
  · exact h
  · exact h.setSlot

theorem Follows.dropRing {l k : Nat} (h : Follows A σ s) : Follows A σ (dropRing s l k) := .ite h.setCore h

theorem Follows.beginWait {l k : Nat} {w : Wait} (h : Follows A σ s) : Follows A σ (beginWait s l k w) := by
  unfold Machine.beginWait
  dsimp only
  split
  · exact h
  · exact h.setSlot.dropRing

theorem Follows.waitCredit {r : CreditReq} (h : Follows A σ s) : Follows A σ (waitCredit s r) := by
  unfold Machine.waitCredit
  split
  · exact h
  · split
    · exact h
    · split
      · exact h
      · exact .ite h.beginWait h

theorem Follows.doneCredit {r : CreditReq} (h : Follows A σ s) : Follows A σ (doneCredit s r) := by
  unfold Machine.doneCredit
  split
  · exact h
  · split
    · exact h
    · exact .ite h.endWait h

theorem Follows.grantCredit {l : Nat} {r : CreditReq} (h : Follows A σ s) : Follows A σ (grantCredit s l r) := h.setCore.doneCredit

theorem Follows.releaseSend {r : CreditReq} (h : Follows A σ s) : Follows A σ (releaseSend s r) :=
  .ite (h.alike (by rfl)) (.ite h (h.alike (by rfl)))

theorem Follows.refuse {l : Nat} {r : CreditReq} {code : Nat} (h : Follows A σ s) :
    Follows A σ (refuse s l r code) := .ite h.releaseSend.noteFence.raise h.releaseSend.raise

theorem Follows.creditRequest {l : Nat} {r : CreditReq} (h : Follows A σ s) :
    Follows A σ (creditRequest s l r) :=
  .ite h.refuse (.ite h.refuse (.ite h (h.bankAbort.bankWake.andThen fun h1 => .ite h1.grantCredit h1.setCore.waitCredit)))

theorem Follows.creditGrant {l : Nat} (h : Follows A σ s) : Follows A σ (creditGrant s l) := by
  unfold Machine.creditGrant
  dsimp only
  split
  · exact h
  · exact h.setCore.grantCredit

theorem Follows.touchRanges {wr : Bool} {rs : List (Nat × Nat)} (h : Follows A σ s) :
    Follows A σ (touchRanges s wr rs) := .foldl h fun _ _ h => h.touch

theorem Follows.landData {p n src len l : Nat} {c : Credit} (h : Follows A σ s) (hm : A.stores = true) :
    Follows A σ (landData s p n src len l c) := h.wrMem hm

theorem Follows.landBytes {a n : Nat} {bs : List Byte} (h : Follows A σ s) (hm : A.stores = true) : Follows A σ (landBytes a n bs s) := by
  induction n generalizing bs s with
  | zero => exact h
  | succ n ih =>
    cases bs with
    | nil => exact h
    | cons b bs => exact ih (h.wrMem hm)

theorem Follows.landReads {l p n : Nat} {rs : List (Nat × Nat)} (h : Follows A σ s) (hm : A.stores = true) :
    Follows A σ (landReads s l p n rs) := by
  unfold Machine.landReads
  dsimp only
  split
  · exact h
  · split
    · exact h
    · split
      · exact h
      · exact h.touch.landBytes hm

theorem Follows.takePrefetch {l k ip : Nat} {reads : List (Nat × Nat)} {faulted : Bool} (h : Follows A σ s) :
    Follows A σ (takePrefetch s l k ip reads faulted) := h.setCore

/-! ## Machine/Array.lean -/

theorem Follows.afterReads {p n l : Nat} {rs : List (Nat × Nat)} {f : State → State} (h : Follows A σ s)
    (hf : ∀ v, Follows A σ v → Follows A σ (f v)) :
    Follows A σ (afterReads s p n l rs f) := by
  unfold Machine.afterReads
  split
  · exact hf _ h.touchRanges
  · exact h.raiseAcc

theorem Follows.afterFetch {p n l : Nat} {rs : List (Nat × Nat)} {f : State → State} (h : Follows A σ s)
    (hf : ∀ v, Follows A σ v → Follows A σ (f v)) (hm : A.stores = true) :
    Follows A σ (afterFetch s p n l rs f) := .afterReads h (fun _ h => hf _ (h.landReads hm))

theorem Follows.wrElems {p n l : Nat} {es : List (Nat × List Byte)} (h : Follows A σ s) (hm : A.stores = true) :
    Follows A σ (wrElems p n l es s) := by
  induction es generalizing s with
  | nil => exact h
  | cons e r ih =>
    unfold Machine.wrElems
    split
    · exact .ite h.raise (ih (h.touch.wrMem hm))
    · exact h.raiseAcc

theorem Follows.stageFill {l k p n ip : Nat} {m : Mma} {ti q kb x : Nat} (h : Follows A σ s) :
    Follows A σ (stageFill s l k p n ip m ti q kb x) := h.setCore

theorem Follows.setAcc {l a : Nat} {v : AccSlot} (h : Follows A σ s) : Follows A σ (setAcc s l a v) := h.setCore

theorem Follows.rawSave {addr : Nat} {w : Tab Word} (h : Follows A σ s) (hm : A.stores = true) :
    Follows A σ (rawSave s addr w) := (h.alike (by rfl)).touch.wrMem hm

/-! ## Machine/Vector.lean -/

theorem Follows.eachRow {p n l : Nat} {f : Nat → SSt → SSt} {rows : List Nat} {x : SSt} (h : Follows A σ x.1)
    (hf : ∀ i v, Follows A σ v.1 → Follows A σ (f i v).1) : Follows A σ (eachRow p n l f rows x).1 := by
  unfold Machine.eachRow
  refine h.foldlFst fun _ _ h => ?_
  split
  · exact hf _ _ h
  · exact h

theorem Follows.rowWith {fetch : State → State} {p n l : Nat} {reads : List (Nat × Nat)} {x : SSt} {f : State → List
    (Nat × List Byte) × Stats}
    (h : Follows A σ x.1) (hfetch : ∀ v, Follows A σ v → Follows A σ (fetch v)) (hm : A.stores = true) :
    Follows A σ (rowWith fetch p n l reads x f).1 := by
  unfold Machine.rowWith
  split
  · exact (hfetch _ h.touchRanges).wrElems hm
  · exact h.raiseAcc

theorem Follows.rowDo {p n l : Nat} {reads : List (Nat × Nat)} {x : SSt} {f : State → List (Nat × List Byte) × Stats} (h : Follows A σ x.1)
    (hm : A.stores = true) :
    Follows A σ (rowDo p n l reads x f).1 := .rowWith h (fun _ h => h.landReads hm) hm

theorem Follows.effEwise {l : Nat} {sc : SlotCtx} {fl : InFlight} {t : Nat} {x : SSt} (h : Follows A σ x.1) (hm : A.stores = true) :
    Follows A σ (effEwise l sc fl t x).1 := by
  unfold Machine.effEwise
  dsimp only
  split
  · exact .eachRow h (fun _ _ h => h.rowDo hm)
  · exact h

theorem Follows.effStat {l : Nat} {sc : SlotCtx} {fl : InFlight} {t : Nat} {x : SSt} (h : Follows A σ x.1) (hm : A.stores = true) :
    Follows A σ (effStat l sc fl t x).1 := by
  unfold Machine.effStat
  dsimp only
  split
  · exact .eachRow h (fun _ _ h => h.rowDo hm)
  · exact h

theorem Follows.effPool {l : Nat} {sc : SlotCtx} {fl : InFlight} {t : Nat} {x : SSt} (h : Follows A σ x.1) (hm : A.stores = true) :
    Follows A σ (effPool l sc fl t x).1 := by
  unfold Machine.effPool
  dsimp only
  split
  · exact .eachRow h (fun _ _ h => h.rowDo hm)
  · exact h

theorem Follows.effArgmax {l : Nat} {sc : SlotCtx} {fl : InFlight} {t : Nat} {x : SSt} (h : Follows A σ x.1) (hm : A.stores = true) :
    Follows A σ (effArgmax l sc fl t x).1 := by
  unfold Machine.effArgmax
  dsimp only
  split
  · exact .eachRow h (fun _ _ h => h.rowDo hm)
  · exact h

theorem Follows.effXpnd {l : Nat} {sc : SlotCtx} {fl : InFlight} {t kb : Nat} {x : SSt} (h : Follows A σ x.1) (hm : A.stores = true) :
    Follows A σ (effXpnd l sc fl t kb x).1 := by
  unfold Machine.effXpnd
  dsimp only
  split
  · exact .eachRow h (fun _ _ h => h.rowDo hm)
  · exact h

theorem Follows.wrW {a : Nat} {w : Word} (h : Follows A σ s) (hm : A.stores = true) : Follows A σ (wrW s a w) := h.wrLE hm

theorem Follows.effAttnInit {l : Nat} {fl : InFlight} {rows d : Nat} (h : Follows A σ s) (hm : A.stores = true) :
    Follows A σ (effAttnInit l fl rows d s) := .foldl h fun _ _ h => .foldl ((h.wrW hm).wrW hm) fun _ _ h => h.wrW hm

theorem Follows.attnRow {l : Nat} {sc : SlotCtx} {fl : InFlight} {q k v : Opnd} {t kb i : Nat} (h : Follows A σ s) (hm : A.stores = true) :
    Follows A σ (attnRow l sc fl q k v t kb i s) :=
  .foldl (((((h.wrMem hm).wrW hm).wrW hm).wrW hm).wrW hm) fun _ _ h => h.wrW hm

theorem Follows.touchWork {l : Nat} {fl : InFlight} (h : Follows A σ s) : Follows A σ (touchWork l fl s) := h.touchRanges

theorem Follows.countEmpty {p : Nat} (h : Follows A σ s) : Follows A σ (countEmpty s p) := h.setFlag.bump

theorem Follows.attnEndRow {l : Nat} {sc : SlotCtx} {fl : InFlight} {o : Opnd} {D t i : Nat} {x : SSt} (h : Follows A σ x.1)
    (hm : A.stores = true) :
    Follows A σ (attnEndRow l sc fl o D t i x).1 := .rowDo (.ite h.countEmpty h) hm

theorem Follows.effAttn {l : Nat} {sc : SlotCtx} {fl : InFlight} {e : Eff} {x : SSt} (h : Follows A σ x.1) (hm : A.stores = true) :
    Follows A σ (effAttn l sc fl e x).1 := by
  unfold Machine.effAttn
  split
  · split
    · exact h.touchWork.effAttnInit hm
    · extract_lets k v
      refine .eachRow h (fun _ _ h => .fst ?_)
      exact .afterReads h (fun _ h => (h.touchWork.landReads hm).attnRow hm)
    · exact .eachRow h (fun _ _ h => h.attnEndRow hm)
    · exact h
  · exact h

theorem Follows.effScaleEntries {l : Nat} {sc : SlotCtx} {fl : InFlight} {first count : Nat} (h : Follows A σ s) :
    Follows A σ (effScaleEntries l sc fl first count s) := .foldl h.touch fun _ _ h => h.setCore

theorem Follows.effScaleTable {l : Nat} {fl : InFlight} (h : Follows A σ s) : Follows A σ (effScaleTable l fl s) := h.touch.setCore

theorem Follows.wrRow {p n l a : Nat} {bs : List Byte} (h : Follows A σ s) (hm : A.stores = true) :
    Follows A σ (wrRow p n l a bs s) := h.wrElems hm

theorem Follows.effFill {l : Nat} {sc : SlotCtx} {fl : InFlight} {first count : Nat} {x : SSt} (h : Follows A σ x.1)
    (hm : A.stores = true) :
    Follows A σ (effFill l sc fl first count x).1 := by
  unfold Machine.effFill
  dsimp only
  split
  · exact .eachRow h (fun _ _ h => h.wrRow hm)
  · exact h

theorem Follows.effScopy {l : Nat} {sc : SlotCtx} {fl : InFlight} {first count : Nat} {x : SSt} (h : Follows A σ x.1)
    (hm : A.stores = true) :
    Follows A σ (effScopy l sc fl first count x).1 := by
  unfold Machine.effScopy
  dsimp only
  split
  · exact .eachRow h (fun _ _ h => .afterReads h (fun _ h => h.wrRow hm))
  · exact h

theorem Follows.unitEff {l : Nat} {sc : SlotCtx} {fl : InFlight} {e : Eff} {x : SSt} (h : Follows A σ x.1) (hm : A.stores = true) :
    Follows A σ (unitEff l sc fl e x).1 := by
  unfold Machine.unitEff
  split
  · exact h.effXpnd hm
  · exact h.effAttn hm
  · exact h.effAttn hm
  · exact h.effAttn hm
  · exact h.effEwise hm
  · exact h.effPool hm
  · exact h.effArgmax hm
  · exact h.effStat hm
  · exact h.effScaleEntries
  · exact h.effScaleTable
  · exact h.effFill hm
  · exact h.effScopy hm
  · exact h

/-! ## Machine/Turn.lean -/

theorem Follows.modRank {l p n : Nat} {f : SlotCtx → SlotCtx} (h : Follows A σ s) : Follows A σ (modRank s l p n f) := by
  unfold Machine.modRank
  dsimp only
  split
  · split
    · exact h
    · exact h.setSlot
  · exact h.setCtx

theorem Follows.extDone {l p n ip : Nat} {ext : Ext} {f : InFlight → InFlight} (h : Follows A σ s) :
    Follows A σ (extDone s l p n ip ext f) := h.modRank

theorem Follows.setFlight {l k i : Nat} {f : InFlight} (h : Follows A σ s) : Follows A σ (setFlight s l k i f) := by
  unfold Machine.setFlight
  split
  · exact h
  · exact h.setSlot

theorem Follows.putMma {l k i : Nat} {m : Mma} (h : Follows A σ s) : Follows A σ (putMma s l k i m) := by
  unfold Machine.putMma
  split
  · exact h
  · exact h.setFlight

theorem Follows.settleDrain {l k i : Nat} {m : Mma} (h : Follows A σ s) : Yields A σ (settleDrain s l k i m) := by
  unfold Machine.settleDrain
  dsimp only
  split
  · exact .none
  · split
    · exact .some (h.setAcc.putMma)
    · exact .none

theorem Follows.settleFinish {l k i : Nat} {m : Mma} (h : Follows A σ s) : Yields A σ (settleFinish s l k i m) := by
  unfold Machine.settleFinish
  dsimp only
  split
  · exact .none
  · exact .ite .none (.some (h.setAcc.putMma))

theorem Follows.settleRedo {sc : SlotCtx} {l k i : Nat} {m : Mma} (h : Follows A σ s) : Yields A σ (settleRedo s sc l k i m) := by
  unfold Machine.settleRedo
  dsimp only
  split
  · exact .some (h.setAcc.putMma)
  · exact .none

theorem Follows.settleBegin {sc : SlotCtx} {l k i : Nat} {f : InFlight} {m : Mma} (h : Follows A σ s) :
    Yields A σ (settleBegin s sc l k i f m) := by
  unfold Machine.settleBegin
  dsimp only
  split
  · exact .none
  · split
    · exact .none
    · split
      · exact .none
      · split
        · exact .none
        · split
          · exact .none
          · split
            · exact .ite (.some (h.raiseErrs)) (.some (.putMma (.ite h (.ite h.setAcc h.setAcc))))
            · exact .some (h.raiseAcc)

theorem Follows.settlePass {sc : SlotCtx} {l k i : Nat} {m : Mma} (h : Follows A σ s) : Yields A σ (settlePass s sc l k i m) := by
  unfold Machine.settlePass
  dsimp only
  split
  · exact .none
  · split
    · exact .none
    · refine .some ?_
      refine .putMma ?_
      split
      · exact h
      · exact h.signal

theorem Follows.attnMark {l k : Nat} {f : InFlight} (h : Follows A σ s) : Follows A σ (attnMark s l k f) := .foldl h fun _ _ h => h.setAcc

theorem Follows.attnFree {l : Nat} {f : InFlight} (h : Follows A σ s) : Follows A σ (attnFree s l f) := by
  unfold Machine.attnFree
  split
  · exact .foldl h fun _ _ h => h.setAcc
  · exact h

theorem Follows.unitApply {sc : SlotCtx} {l k i : Nat} {f : InFlight} {u : WorkUnit} (h : Follows A σ s) (hm : A.stores = true) :
    Follows A σ (unitApply s sc l k i f u) := by
  unfold Machine.unitApply
  dsimp only
  split
  · exact h.attnFree.unitEff hm
  · exact (h.attnFree.unitEff hm).setFlight

theorem Follows.settleUnit {sc : SlotCtx} {l k i : Nat} {f : InFlight} (h : Follows A σ s) (hm : A.stores = true) :
    Yields A σ (settleUnit s sc l k i f) := by
  unfold Machine.settleUnit
  split
  · exact .none
  · exact .ite (.some (h.unitApply hm)) .none

theorem Follows.settle1 {l k i : Nat} (h : Follows A σ s) (hm : A.stores = true) : Yields A σ (settle1 s l k i) := by
  unfold Machine.settle1
  split
  · split
    · exact .none
    · split
      · exact h.settleUnit hm
      · exact .orElse' h.settleDrain (.orElse' h.settleFinish (.orElse' h.settleRedo (.orElse' h.settleBegin h.settlePass)))
  · exact .none

theorem Follows.settleN {n l k i : Nat} (h : Follows A σ s) (hm : A.stores = true) : Follows A σ (settleN n s l k i) := by
  induction n generalizing s with
  | zero => exact h
  | succ n ih =>
    unfold Machine.settleN
    split
    · exact h
    · next v e => exact ih (h.settle1 hm v e)

theorem Follows.drainOp {l _k _i : Nat} {sc : SlotCtx} {f : InFlight} (h : Follows A σ s) (hm : A.stores = true) :
    Follows A σ (drainOp s l _k _i sc f) := by
  unfold Machine.drainOp
  dsimp only
  split
  · exact h
  · split
    · exact h
    · split
      · exact h
      · exact .afterFetch h (fun _ h => .ite ((h.wrElems hm).setAcc) (h.wrElems hm)) hm

theorem Follows.stageAhead {l k p n ip : Nat} {m : Mma} {ti x : Nat} {nb : Option (Nat × Nat)} (h : Follows A σ s) (hm : A.stores = true) :
    Follows A σ (stageAhead s l k p n ip m ti x nb) := by
  unfold Machine.stageAhead
  split
  · exact h
  · split
    · exact h
    · split
      · exact (h.landReads hm).stageFill
      · exact h

theorem Follows.macOp {l k i : Nat} {sc : SlotCtx} {f : InFlight} {m : Mma} {c : Cur} {q x : Nat} {r : List (Nat × Nat)} (h : Follows A σ s)
    (hm : A.stores = true) :
    Follows A σ (macOp s l k i sc f m c q x r) := by
  unfold Machine.macOp
  dsimp only
  split
  · exact (h.stageAhead hm).setAcc.putMma
  · exact .afterFetch h (fun _ h => (h.stageFill.stageAhead hm).setAcc.putMma) hm

theorem Follows.arrayOp {l k i : Nat} {sc : SlotCtx} {f : InFlight} (h : Follows A σ s) (hm : A.stores = true) :
    Follows A σ (arrayOp s l k i sc f) := by
  unfold Machine.arrayOp
  dsimp only
  split
  · exact h
  · split
    · exact h
    · split
      · split
        · split
          · exact (h.rawSave hm).setAcc.putMma
          · exact h.raiseAcc
        · exact h.putMma
      · split
        · exact .ite (.afterReads h (fun _ h => h.setAcc.putMma)) h.putMma
        · split
          · exact h.macOp hm
          · split
            · exact .afterFetch h (fun _ h => h.setAcc.putMma) hm
            · exact h

theorem Follows.unitOp {l k i : Nat} {sc : SlotCtx} {f : InFlight} (h : Follows A σ s) (hm : A.stores = true) :
    Follows A σ (unitOp s l k i sc f) := by
  unfold Machine.unitOp
  dsimp only
  split
  · exact h
  · exact .ite (h.attnMark.unitApply hm) h.attnMark.setFlight

theorem Follows.engine {l k : Nat} {q : State → SlotCtx → Nat → InFlight → Bool} {op : State → Nat → Nat → Nat → SlotCtx → InFlight → State}
    (h : Follows A σ s) (hop : ∀ v l k i c f, Follows A σ v → Follows A σ (op v l k i c f)) : Follows A σ (engine s l k q op) := by
  unfold Machine.engine
  split
  · exact h
  · split
    · exact h
    · split
      · exact h
      · split
        · exact h
        · exact hop _ _ _ _ _ _ h

theorem Follows.turnOps {l k : Nat} (h : Follows A σ s) (hm : A.stores = true) : Follows A σ (turnOps s l k) := by
  unfold Machine.turnOps
  extract_lets s1 s2
  have h1 : Follows A σ s1 := .engine h fun _ _ _ _ _ _ h => h.drainOp hm
  have h2 : Follows A σ s2 := .engine h1 fun _ _ _ _ _ _ h => h.arrayOp hm
  exact .engine h2 fun _ _ _ _ _ _ h => h.unitOp hm

theorem Follows.noteWait {l k : Nat} (h : Follows A σ s) : Follows A σ (noteWait s l k) := by
  unfold Machine.noteWait
  dsimp only
  split
  · exact h
  · split
    · exact .ite h h.beginWait.touchRanges.touchRanges
    · exact .ite h.endWait h
    · exact h

theorem Follows.settle {l k : Nat} (h : Follows A σ s) (hm : A.stores = true) :
    Follows A σ (settle s l k) := (((h.settleN hm).settleN hm).settleN hm).noteWait

theorem Follows.setWctr {key : Nat} {w : Wctr} (h : Follows A σ s) : Follows A σ (setWctr s key w) := h.alike (by rfl)

theorem Follows.sendRow {l : Nat} {sc : SlotCtx} {ip : Nat} {m : Mma} {j : Nat} (h : Follows A σ s) :
    Follows A σ (sendRow s l sc ip m j) := by
  unfold Machine.sendRow
  dsimp only
  split
  · exact h
  · exact .ite h h.setWctr

theorem Follows.drainAck {l a : Nat} (h : Follows A σ s) : Follows A σ (drainAck s l a) := by
  unfold Machine.drainAck
  dsimp only
  split
  · exact h
  · split
    · exact h.setAcc
    · split
      · exact h.setAcc
      · split
        · exact h
        · split
          · exact h
          · exact .ite h h.setAcc.setFlight.sendRow

theorem Follows.saveSlots {l k : Nat} (h : Follows A σ s) (hm : A.stores = true) : Follows A σ (saveSlots s l k) := by
  unfold Machine.saveSlots
  dsimp only
  split
  · exact h
  · split
    · exact h.raise
    · split
      · exact .foldl (.foldl h fun _ _ h => h.rawSave hm) fun _ _ h => h.setAcc
      · exact .setSlot (.foldl (.foldl h fun _ _ h => h.rawSave hm) fun _ _ h => h.setAcc)

theorem Follows.refillSlots {l k : Nat} (h : Follows A σ s) : Yields A σ (refillSlots s l k) := by
  unfold Machine.refillSlots
  dsimp only
  split
  · exact .none
  · exact .ite .none (.some (.setSlot (.foldl h.touchRanges fun _ _ h => h.setAcc)))

theorem Follows.resumeSlots {l k : Nat} (h : Follows A σ s) : Follows A σ (resumeSlots s l k) := by
  have hr : Yields A σ (if (Machine.grantHead s l).isNone then Machine.refillSlots s l k else none) := .ite h.refillSlots .none
  unfold Machine.resumeSlots
  split
  · exact h
  · refine .ite h ?_
    split
    · next v e => exact hr v e
    · exact .ite h.setCore.touchRanges.beginWait h.setCore.touchRanges

theorem Follows.dropResume {l k : Nat} (h : Follows A σ s) : Follows A σ (dropResume s l k) := by
  unfold Machine.dropResume
  dsimp only
  split
  · exact h
  · exact (Follows.ite h.setCore h).andThen fun h1 => .ite h1.endWait h1

/-! ## Machine/Kv.lean -/

theorem Follows.phSet {pg o n v : Nat} (h : Follows A σ s) (hm : A.stores = true) : Follows A σ (phSet pg o n v s) := h.wrLE hm

theorem Follows.pageFree {pg : Nat} (h : Follows A σ s) (hm : A.stores = true) :
    Follows A σ (pageFree s pg) := (((h.phSet hm).phSet hm).alike (by rfl)).setFld.setFld

theorem Follows.kvInit (h : Follows A σ s) (hm : A.stores = true) : Follows A σ (kvInit s) :=
  ((h.withMem hm (cellsWf_mput _ _ _ _ _)).alike (by rfl)).setFld.setFlag

theorem Follows.pageTake {p : Nat} {r : Nat × State} (h : Follows A σ s) (hm : A.stores = true) (e : pageTake s p = some r) :
    Follows A σ r.2 := by
  unfold Machine.pageTake at e
  extract_lets go at e
  have hgo {pg : Nat} {v : State} (h : Follows A σ v) : Follows A σ (go pg v).2 := (h.phSet hm).setFld.setFld
  split at e
  · cases e; exact hgo (h.alike (by rfl))
  · split at e
    · cases e; exact hgo (h.alike (by rfl))
    · cases e

theorem Follows.pageTakeN {p n : Nat} (h : Follows A σ s) (hm : A.stores = true) : Follows A σ (pageTakeN p n s).2 := by
  induction n generalizing s with
  | zero => exact h
  | succ n ih =>
    unfold Machine.pageTakeN
    split
    · exact h
    · next e => exact ih (h.pageTake hm e)

theorem Follows.dropRef {pg : Nat} (h : Follows A σ s) (hm : A.stores = true) :
    Follows A σ (dropRef s pg) := .ite (h.phSet hm) (.ite ((h.phSet hm).pageFree hm) (((h.phSet hm).phSet hm).setFld))

theorem Follows.addRef {pg : Nat} (h : Follows A σ s) (hm : A.stores = true) : Follows A σ (addRef s pg) := h.phSet hm

theorem Follows.pin {pg : Nat} (h : Follows A σ s) (hm : A.stores = true) : Follows A σ (pin s pg) := h.phSet hm

theorem Follows.unpin {pg : Nat} (h : Follows A σ s) (hm : A.stores = true) :
    Follows A σ (unpin s pg) := .ite (((h.phSet hm).pageFree hm).setFld) (h.phSet hm)

theorem Follows.pageOpen {pg seq hg fmt fill : Nat} (h : Follows A σ s) (hm : A.stores = true) :
    Follows A σ (pageOpen s pg seq hg fmt fill) :=
  (((((((h.phSet hm).phSet hm).phSet hm).phSet hm).phSet hm).phSet hm).phSet hm).phSet hm

theorem Follows.setSeq {q : Nat} {x : Seq} (h : Follows A σ s) : Follows A σ (setSeq s q x) := h.alike (by rfl)

theorem Follows.seqFree {q : Nat} (h : Follows A σ s) (hm : A.stores = true) : Follows A σ (seqFree s q) := by
  unfold Machine.seqFree
  dsimp only
  split
  · exact h
  · exact ((Follows.foldl (.foldl h fun _ _ h => h.dropRef hm) fun _ _ h => h.pageFree hm).alike (by rfl)).setFld

theorem Follows.pageHot {p pg : Nat} (h : Follows A σ s) (hm : A.stores = true) : Follows A σ (pageHot p s pg) :=
  .ite h ((h.phSet hm).alike (by rfl))

theorem Follows.nodeHot {x : Node} (h : Follows A σ s) (hm : A.stores = true) :
    Follows A σ (nodeHot s x) := .foldl (h.alike (by rfl)) fun _ _ h => h.pageHot hm

theorem Follows.coolPage {pg : Nat} (h : Follows A σ s) (hm : A.stores = true) :
    Follows A σ (coolPage s pg) := .ite h ((Follows.ite (h.phSet hm) h).alike (by rfl))

theorem Follows.nodeDrop {x : Node} (h : Follows A σ s) (hm : A.stores = true) :
    Follows A σ (nodeDrop s x) :=
  .foldl (.foldl (h.alike (by rfl)) fun _ _ h => h.coolPage hm) fun _ _ h => h.dropRef hm

theorem Follows.evict {p key : Nat} (h : Follows A σ s) (hm : A.stores = true) :
    Follows A σ (evict s p key) := .foldl h fun _ _ h => h.nodeDrop hm

theorem Follows.treeInsert {q blk : Nat} (h : Follows A σ s) (hm : A.stores = true) : Follows A σ (treeInsert s q blk) := by
  unfold Machine.treeInsert
  dsimp only
  split
  · exact h
  · split
    · exact h
    · split
      · exact h
      · exact .ite h (.ite h
          (.ite h.bump ((Follows.foldl (h.alike (by rfl)) fun _ _ h => h.addRef hm).andThen fun h1 => .ite (h1.nodeHot hm) h1)))

theorem Follows.kvNote {p : Nat} {wr : Bool} {a n : Nat} (h : Follows A σ s) : Follows A σ (kvNote s p wr a n) := by
  unfold Machine.kvNote
  split
  · exact h.noteFence
  · exact h

theorem Follows.kvWrite {p a n v : Nat} (h : Follows A σ s) (hm : A.stores = true) : Follows A σ (kvWrite p a n v s) := by
  unfold Machine.kvWrite
  split
  · exact h.wrLE hm
  · exact h.noteFence
  · exact h

theorem Follows.setStatus {p i v : Nat} (h : Follows A σ s) (hm : A.stores = true) : Follows A σ (setStatus p i v s) := h.kvWrite hm

theorem Follows.admitSeq {p i : Nat} {model : List Byte} {res : List Nat} (h : Follows A σ s) (hm : A.stores = true) :
    Follows A σ (admitSeq s p i model res) := by
  unfold Machine.admitSeq
  dsimp only
  split
  · exact (Follows.foldl h.kvNote fun _ _ h => h.addRef hm).andThen fun h1 =>
      (Follows.kvWrite (.bumpBy (.ite h1.setSeq.bump h1.setSeq)) hm).andThen fun h2 =>
        .setFld (.ite (.foldl h2 fun _ _ h => h.nodeHot hm) h2)
  · split
    · exact h
    · exact .setFld (.setSeq (.foldl h fun _ _ h => h.addRef hm))
  · exact h.setSeq.setFld

theorem Follows.grant {p i : Nat} (h : Follows A σ s) (hm : A.stores = true) : Follows A σ (grant s p i) := by
  unfold Machine.grant
  dsimp only
  split
  · split
    · exact h
    · exact ((h.pageTakeN hm).admitSeq hm).setStatus hm
  · split
    · exact h
    · exact (h.pageTakeN hm).setSeq.setStatus hm

theorem Follows.grantAll {p : Nat} {is : List Nat} {stop : Bool} (h : Follows A σ s) (hm : A.stores = true) :
    Follows A σ (grantAll p is stop s) := by
  induction is generalizing stop s with
  | nil => exact h
  | cons i r ih =>
    unfold Machine.grantAll
    split
    · exact .ite (ih (h.setStatus hm).bump) (ih (h.setStatus hm))
    · exact .ite (ih (h.setStatus hm).bump) (ih (h.grant hm))

theorem Follows.advanceHead {p n : Nat} (h : Follows A σ s) (hm : A.stores = true) : Follows A σ (advanceHead p n s) := by
  induction n generalizing s with
  | zero => exact h
  | succ n ih => exact .ite (ih (h.kvWrite hm).setFld) h

theorem Follows.freeAll {p : Nat} {is : List Nat} (h : Follows A σ s) (hm : A.stores = true) : Follows A σ (freeAll p is s).2 := by
  induction is generalizing s with
  | nil => exact h
  | cons i r ih =>
    unfold Machine.freeAll
    split
    · exact ih (h.setStatus hm)
    · split
      · split
        · exact h
        · exact ih ((h.seqFree hm).setStatus hm)
      · exact ih ((h.evict hm).setStatus hm)

theorem Follows.ringNotes {p : Nat} (h : Follows A σ s) :
    Follows A σ (ringNotes s p) := (Follows.foldl h fun _ _ h => .ite h.kvNote h).andThen fun h1 => .ite h1 h1.kvNote

theorem Follows.applyBoundary {b : Boundary} (h : Follows A σ s) (hm : A.stores = true) : Follows A σ (applyBoundary s b).2 := by
  unfold Machine.applyBoundary
  dsimp only
  split
  · exact .freeAll (.ite h h.ringNotes) hm
  · exact .signal (.advanceHead (.grantAll (.freeAll (.ite h h.ringNotes) hm) hm) hm)

theorem Follows.runBounds {bs left : List Boundary} (h : Follows A σ s) (hm : A.stores = true) : Follows A σ (runBounds bs left s) := by
  induction bs generalizing left s with
  | nil => exact h.alike (by rfl)
  | cons b r ih =>
    have hb : Follows A σ (Machine.applyBoundary s b).2 := h.applyBoundary hm
    unfold Machine.runBounds
    refine .ite (ih h) ?_
    split <;> (next e => rw [e] at hb; exact ih hb)

theorem Follows.runBoundaries (h : Follows A σ s) (hm : A.stores = true) : Follows A σ (runBoundaries s) := (h.alike (by rfl)).runBounds hm

theorem Follows.kvBoundary {p : Nat} (h : Follows A σ s) (hm : A.stores = true) : Follows A σ (kvBoundary s p) :=
  (h.alike (by rfl)).runBoundaries hm

theorem Follows.appendTok {p n l q hg len0 T : Nat} {takes : List Nat} {k v : Opnd} {r : Nat} (h : Follows A σ s) (hm : A.stores = true) :
    Follows A σ (appendTok p n l q hg len0 T takes k v s r) := by
  unfold Machine.appendTok
  extract_lets pos opening rows fill
  split
  · exact h
  · extract_lets qf pg sK sV s0 s1 kb vb s2 s3 s4 s5 s6
    have h0 : Follows A σ s0 := h.pageOpen hm
    have h1 : Follows A σ s1 := .ite ((h0.phSet hm).phSet hm).setSeq h
    have h2 : Follows A σ s2 := (h1.wrMem hm).wrMem hm
    have h3 : Follows A σ s3 := (h2.phSet hm).phSet hm
    have h4 : Follows A σ s4 := h3.phSet hm
    have h5 : Follows A σ s5 := .ite (h4.phSet hm) h4
    have h6 : Follows A σ s6 := h5.bumpBy
    split
    · exact h6
    · exact h6.setSeq

theorem Follows.modAppend {p n ip : Nat} {f : Append → Append} (h : Follows A σ s) : Follows A σ (modAppend s p n ip f) := h.alike (by rfl)

theorem Follows.startAppend {sc : SlotCtx} {fl : InFlight} (h : Follows A σ s) (hm : A.stores = true) :
    Follows A σ (startAppend s sc fl) := by
  unfold Machine.startAppend
  extract_lets q hg T copy opens base s1
  have h1 : Follows A σ s1 := .foldl h fun _ _ h => h.pin hm
  clear_value s1
  split
  · extract_lets src s2 s3 s4 s5
    have h2 : Follows A σ s2 := h1.pin hm
    have h3 : Follows A σ s3 := h2.pageOpen hm
    clear_value s3
    have h4 : Follows A σ s4 := (h3.phSet hm).phSet hm
    have h5 : Follows A σ s5 := h4.setSeq
    clear_value s5
    exact h5.alike (by rfl)
  · exact h1.alike (by rfl)

theorem Follows.copyDone {p n ip : Nat} (h : Follows A σ s) (hm : A.stores = true) : Follows A σ (copyDone s p n ip) := by
  unfold Machine.copyDone
  dsimp only
  split
  · exact h
  · split
    · exact (((h.wrMem hm).setSeq.bump.dropRef hm).unpin hm).modAppend
    · exact (h.unpin hm).modAppend
    · exact h

theorem Follows.putLen {l k ip len : Nat} (h : Follows A σ s) : Follows A σ (putLen s l k ip len) := by
  unfold Machine.putLen
  dsimp only
  split
  · exact h
  · split
    · exact h
    · exact .ite h.setSlot h

theorem Follows.tellRank {l k i : Nat} (h : Follows A σ s) : Follows A σ (tellRank s l k i) := by
  unfold Machine.tellRank
  split
  · split
    · exact h
    · split
      · exact h
      · extract_lets s1 s2 s3
        have h1 : Follows A σ s1 := h.putLen.setFlight
        have h2 : Follows A σ s2 := by
          unfold s2
          split
          · exact h1
          · exact h1.setFlight
        have h3 : Follows A σ s3 := h2.modAppend
        clear_value s3
        split
        · exact h3
        · exact .ite (h3.alike (by rfl)) h3
  · exact h

theorem Follows.tellAll {p n ip : Nat} (h : Follows A σ s) : Follows A σ (tellAll s p n ip) := by
  unfold Machine.tellAll
  refine .foldl h fun _ _ h => ?_
  split
  · exact h
  · split
    · exact h
    · exact h.tellRank

theorem Follows.appendDone {l k : Nat} (h : Follows A σ s) (hm : A.stores = true) : Follows A σ (appendDone s l k) := by
  unfold Machine.appendDone
  dsimp only
  split
  · exact h
  · split
    · exact h
    · split
      · exact h
      · split
        · exact h
        · split
          · split
            · exact h
            · refine .afterReads h (fun _ h => ?_)
              refine .runBoundaries ?_ hm
              refine .tellAll ?_
              refine .modAppend ?_
              split
              · exact .foldl (.foldl h fun _ _ h => h.appendTok hm) fun _ _ h => h.unpin hm
              · exact .setFlight (.foldl (.foldl h fun _ _ h => h.appendTok hm) fun _ _ h => h.unpin hm)
          · exact h

theorem Follows.withHotDone {e : Nat × Nat × Nat} (h : Follows A σ s) :
    Follows A σ { s with kv := { s.kv with hotDone := s.kv.hotDone ++ [e] } } := h.alike (by rfl)

theorem Follows.hotCopy {pg c : Nat} (h : Follows A σ s) (hm : A.stores = true) : Follows A σ (hotCopy s pg c) := by
  unfold Machine.hotCopy
  split
  · exact h
  · refine .ite h ?_
    extract_lets p k s1 used
    have h1 : Follows A σ s1 := h.alike (by rfl)
    split
    · exact .ite h.touchRanges (h1.touchRanges.wrMem hm).withHotDone
    · exact h1.bump

theorem Follows.execKvappComplete {t : Time} {l : Fin 256} {k : Fin 8} (h : Follows A σ s) (hm : A.stores = true) :
    Ends A σ (execKvappComplete t l k s) := .next (h.advance.appendDone hm)

theorem Follows.execKvCopyOnWrite {t : Time} {l : Fin 256} {k : Fin 8} (h : Follows A σ s) (hm : A.stores = true) :
    Ends A σ (execKvCopyOnWrite t l k s) := by
  unfold Machine.execKvCopyOnWrite
  dsimp only
  refine .next ?_
  split
  · exact h.advance
  · split
    · exact h.advance
    · split
      · exact h.advance
      · exact (h.advance.copyDone hm).settle hm

theorem Follows.execKvPinRelease {t : Time} {l : Fin 256} {k : Fin 8} {page : Nat} (h : Follows A σ s) (hm : A.stores = true) :
    Ends A σ (execKvPinRelease t l k page s) := by
  unfold Machine.execKvPinRelease
  dsimp only
  refine .next ?_
  split
  · exact h.advance
  · split
    · exact h.advance
    · split
      · exact h.advance
      · exact .ite h.advance (h.advance.setFlight.unpin hm)

theorem Follows.execKvBatchBoundary {t : Time} {p : Fin 16} (h : Follows A σ s) (hm : A.stores = true) :
    Ends A σ (execKvBatchBoundary t p s) := .next (h.advance.kvBoundary hm)

theorem Follows.execKvTreeInsert {t : Time} {q : Fin 2048} {blk : Nat} (h : Follows A σ s) (hm : A.stores = true) :
    Ends A σ (execKvTreeInsert t q blk s) := .next (h.advance.treeInsert hm)

theorem Follows.execKvHotCopy {t : Time} {page : Nat} {c : Fin 16} (h : Follows A σ s) (hm : A.stores = true) :
    Ends A σ (execKvHotCopy t page c s) := .next (h.advance.hotCopy hm)

/-! ## Machine/Cores.lean -/

theorem Follows.giveItem {l k item : Nat} (h : Follows A σ s) (hm : A.stores = true) : Follows A σ (giveItem s l k item) := by
  unfold Machine.giveItem
  dsimp only
  split
  · exact h
  · split
    · exact h
    · refine .settle ?_ hm
      split
      · exact h.nondet.putMma
      · exact .ite h.nondet.putMma.sendRow h.nondet.putMma

theorem Follows.giveNone {l k : Nat} (h : Follows A σ s) (hm : A.stores = true) : Follows A σ (giveNone s l k) := by
  unfold Machine.giveNone
  split
  · exact h
  · split
    · exact h
    · exact h.nondet.putMma.settle hm

theorem Follows.wctrIdle {key : Nat} (h : Follows A σ s) : Follows A σ (wctrIdle s key) := by
  unfold Machine.wctrIdle
  dsimp only
  split
  · exact h.setWctr
  · exact h.setWctr.setCtx

theorem Follows.wctrLeave {key : Nat} (h : Follows A σ s) : Follows A σ (wctrLeave s key) := .ite h.setWctr.wctrIdle h.setWctr

theorem Follows.wctrServe {key : Nat} {cl : Nat × Nat × Nat × Nat × Nat} (h : Follows A σ s) (hm : A.stores = true) :
    Yields A σ (wctrServe s key cl) := by
  unfold Machine.wctrServe
  extract_lets w0 w
  split
  · split
    · exact .some h
    · exact .some h.raise
  · exact .none
  · refine .ite .none ?_
    split
    · exact .some (h.setWctr.giveItem hm)
    · exact .ite (.some (h.setWctr.giveItem hm)) (.ite (.some (h.setWctr.wctrLeave.giveNone hm)) .none)

theorem Follows.wctrRun {n key : Nat} (h : Follows A σ s) (hm : A.stores = true) : Follows A σ (wctrRun n s key) := by
  induction n generalizing s with
  | zero => exact h
  | succ n ih =>
    unfold Machine.wctrRun
    extract_lets w
    split
    · exact h
    · split
      · exact h
      · next v e => exact ih (h.setWctr.wctrServe hm v e)

theorem Follows.wctrServeAll {key : Nat} (h : Follows A σ s) (hm : A.stores = true) : Follows A σ (wctrServeAll s key) := h.wctrRun hm

theorem Follows.wctrPoison {key : Nat} (h : Follows A σ s) (hm : A.stores = true) : Follows A σ (wctrPoison s key) :=
  h.setWctr.wctrServeAll hm

theorem Follows.wctrClaim {l k : Nat} (h : Follows A σ s) (hm : A.stores = true) : Follows A σ (wctrClaim s l k) := by
  unfold Machine.wctrClaim
  dsimp only
  split
  · exact h
  · split
    · exact h
    · split
      · exact h
      · split
        · exact h
        · exact .ite h (.ite h.raiseErrs (h.setWctr.wctrRun hm))

theorem Follows.wctrComplete {key l tag item sat nan : Nat} (h : Follows A σ s) (hm : A.stores = true) :
    Follows A σ (wctrComplete s key l tag item sat nan) := by
  unfold Machine.wctrComplete
  dsimp only
  split
  · exact h.raise
  · exact h
  · exact .ite h (.ite (h.setWctr.bump.wctrServeAll hm) (h.setWctr.wctrServeAll hm))

theorem Follows.wctrArrive {key l tag item sat nan : Nat} {err : Bool} (h : Follows A σ s) (hm : A.stores = true) :
    Follows A σ (wctrArrive s key l tag item sat nan err) :=
  .ite h (.wctrComplete (.setWctr (.ite (h.wctrPoison hm) h)) hm)

theorem Follows.wctrRetire {l key : Nat} (h : Follows A σ s) (hm : A.stores = true) :
    Follows A σ (wctrRetire l s key) := .ite h.setWctr (h.setWctr.wctrLeave.wctrServeAll hm)

theorem Follows.wctrDrop {p n key : Nat} (h : Follows A σ s) (hm : A.stores = true) :
    Follows A σ (wctrDrop p n s key) := .ite (h.setWctr.wctrServeAll hm) h.setWctr

theorem Follows.raiseAll {l code : Nat} (h : Follows A σ s) : Follows A σ (raiseAll s l code) := .foldl h fun _ _ h => h.raise

theorem Follows.coreRetire {l : Nat} (h : Follows A σ s) (hm : A.stores = true) :
    Follows A σ (coreRetire s l) :=
  .ite h ((Follows.setCore (.foldl h.raiseAll fun _ _ h => h.wctrRetire hm)).andThen fun h1 => .ite h1.setFld.setFld.setCl h1.setFld.setMap)

theorem Follows.spareFail {c : Nat} (h : Follows A σ s) : Follows A σ (spareFail s c) := by
  unfold Machine.spareFail
  dsimp only
  split
  · exact h
  · exact h.setFld.setFld.setFld.setMap.setCl

theorem Follows.spareStand {c : Nat} (h : Follows A σ s) (hm : A.stores = true) : Follows A σ (spareStand s c) := by
  unfold Machine.spareStand
  dsimp only
  split
  · exact h
  · exact .ite h ((h.setFld.setFld.setMap.zeroMem hm).setCore.setCl)

theorem Follows.execWctrClaim {t : Time} {l : Fin 256} {k : ClaimOp} (h : Follows A σ s) (hm : A.stores = true) :
    Ends A σ (execWctrClaim t l k s) := by
  unfold Machine.execWctrClaim
  dsimp only
  refine .next ?_
  refine .wctrClaim ?_ hm
  split
  · exact h.advance
  · exact h.advance.wctrPoison hm

theorem Follows.execWctrCompletion {t : Time} {c : Fin 16} {k : CtrOp} {l : Fin 256} {tag item sat nan : Nat} (h : Follows A σ s)
    (hm : A.stores = true) :
    Ends A σ (execWctrCompletion t c k l tag item sat nan s) := .next (h.advance.wctrArrive hm)

theorem Follows.wctrClear {key : Nat} (h : Follows A σ s) (hm : A.stores = true) :
    Follows A σ (wctrClear key s) := .ite (h.setWctr.wctrServeAll hm) h

theorem Follows.execWctrClear {t : Time} {ag : Agent} {c : Fin 16} {k : Fin 64} (h : Follows A σ s) (hm : A.stores = true) :
    Ends A σ (execWctrClear t ag c k s) := .next (.onWrite h.advance (fun _ h => h.wctrClear hm))

theorem Follows.execCoreRetire {t : Time} {l : Fin 256} {x : RetireCause} (h : Follows A σ s) (hm : A.stores = true) :
    Ends A σ (execCoreRetire t l x s) := .next (h.advance.coreRetire hm)

theorem Follows.retireReq {c : Nat} {w : Word} (h : Follows A σ s) (hm : A.stores = true) :
    Follows A σ (retireReq c w s) := .ite (h.coreRetire hm) h

theorem Follows.execClRetireReq {t : Time} {ag : Agent} {l : Fin 256} {w : Word} (h : Follows A σ s) (hm : A.stores = true) :
    Ends A σ (execClRetireReq t ag l w s) := .next (.onWrite h.advance (fun _ h => h.retireReq hm))

/-! ## Machine/Move.lean -/

theorem Follows.bankRequest {l b : Nat} (h : Follows A σ s) : Follows A σ (bankRequest s l b).2 := by
  unfold Machine.bankRequest
  split
  · exact h.setBank
  · exact h

theorem Follows.bankClosed {l b : Nat} (h : Follows A σ s) (hm : A.stores = true) :
    Follows A σ (bankClosed s l b) := .ite h ((h.setBank.zeroMem hm).setCore)

theorem Follows.zringBase {m : Nat} (h : Follows A σ s) : Follows A σ (zringBase s m) := h.alike (by rfl)

theorem Follows.resetDone {p : Nat} (h : Follows A σ s) :
    Follows A σ (resetDone s p) := .ite (.foldl h.setFld fun _ _ h => .ite h.zringBase h) h

theorem Follows.fetched {l : Nat} {x : Credit} (h : Follows A σ s) (hm : A.stores = true) : Follows A σ (fetched s l x) := by
  unfold Machine.fetched
  split
  · exact .ite (h.landData hm) h
  · exact h

theorem Follows.settleAck {l : Nat} {r : CreditReq} (h : Follows A σ s) (hm : A.stores = true) : Follows A σ (settleAck s l r) := by
  unfold Machine.settleAck
  dsimp only
  split
  · split
    · exact h
    · exact h.settle hm
  · refine .settle ?_ hm
    split
    · exact h
    · exact h.settle hm

theorem Follows.setQueue {e vc : Nat} {l : List Chain} (h : Follows A σ s) : Follows A σ (setQueue s e vc l) := h.alike (by rfl)

theorem Follows.dmaRead {p n a len : Nat} (h : Follows A σ s) : Follows A σ (dmaRead s p n a len).2 := by
  unfold Machine.dmaRead
  split
  · exact h.touch
  · exact h.alike (by rfl)

theorem Follows.dmaWrite {a : Nat} {bs : List Byte} (h : Follows A σ s) (hm : A.stores = true) : Follows A σ (dmaWrite s a bs) := by
  unfold Machine.dmaWrite
  split
  · exact h.touch.wrMem hm
  · exact h

theorem Follows.setHead {e vc : Nat} {c : Chain} (h : Follows A σ s) : Follows A σ (setHead s e vc c) := h.setQueue

theorem Follows.landDesc {e vc : Nat} {rg : Nat × Nat} {i : Nat} (h : Follows A σ s) (hm : A.stores = true) :
    Follows A σ (landDesc e vc rg s i) := by
  unfold Machine.landDesc
  dsimp only
  split
  · exact h
  · split
    · exact h
    · refine .foldl h fun _ _ h => ?_
      refine .foldl h fun _ _ h => ?_
      split
      · exact h
      · split
        · exact h
        · split
          · exact h.dmaRead.wrMem hm
          · exact (h.dmaRead.wrMem hm).setHead

theorem Follows.dmaLand {l : Nat} {x : Credit} (h : Follows A σ s) (hm : A.stores = true) : Follows A σ (dmaLand s l x) := by
  unfold Machine.dmaLand
  dsimp only
  split
  · exact h
  · refine .foldl h fun _ _ h => ?_
    split
    · exact h
    · exact .ite h (.foldl h fun _ _ h => h.landDesc hm)

theorem Follows.writeAck {l tag : Nat} (h : Follows A σ s) (hm : A.stores = true) : Follows A σ (writeAck s l tag) := by
  unfold Machine.writeAck
  dsimp only
  split
  · exact h
  · exact .ite h ((((h.fetched hm).dmaLand hm).setCore.settleAck hm).resetDone)

theorem Follows.drawerRead {l d : Nat} (h : Follows A σ s) : Follows A σ (drawerRead s l d) := by
  unfold Machine.drawerRead
  dsimp only
  split
  · exact h
  · exact .ite h.setCore h

theorem Follows.sendData {p n src len d : Nat} {cr : Credit} (h : Follows A σ s) (hm : A.stores = true) :
    Follows A σ (sendData s p n src len d cr) := (h.landData hm).setCore

theorem Follows.multicast {l k src len : Nat} {dests : List Nat} (h : Follows A σ s) (hm : A.stores = true) :
    Follows A σ (multicast s l k src len dests) := by
  unfold Machine.multicast
  dsimp only
  split
  · exact h
  · split
    · exact h
    · refine .afterReads h (fun _ h => ?_)
      refine .foldl h fun _ _ h => ?_
      split
      · exact h
      · exact h.sendData hm

theorem Follows.haloSend {l k src len : Nat} (h : Follows A σ s) (hm : A.stores = true) : Follows A σ (haloSend s l k src len) := by
  unfold Machine.haloSend
  dsimp only
  split
  · exact h
  · split
    · exact h
    · split
      · exact .ite h (.afterReads h (fun _ h => (h.sendData hm).setCore))
      · exact h

theorem Follows.promiseCancel {l src : Nat} {mc : Bool} (h : Follows A σ s) : Follows A σ (promiseCancel s l src mc) := by
  unfold Machine.promiseCancel
  split
  · exact h
  · exact .ite h h.selfFetch

theorem Follows.setSlice {c : Nat} {v : Slice} (h : Follows A σ s) : Follows A σ (setSlice s c v) := h.alike (by rfl)

theorem Follows.frameErr {c st way : Nat} {double : Bool} (h : Follows A σ s) :
    Follows A σ (frameErr s c st way double) := .ite (h.setSlice.setFld.andThen fun h1 => .ite h1.setFlag h1) h.setSlice

theorem Follows.fillLine {c p a : Nat} (h : Follows A σ s) : Follows A σ (fillLine s c p a) := by
  unfold Machine.fillLine
  dsimp only
  split
  · exact h.setSlice
  · split
    · exact h
    · exact h.setSlice

theorem Follows.shcRead {l k a : Nat} {err : ShcErr} (h : Follows A σ s) : Follows A σ (shcRead s l k a err) := by
  unfold Machine.shcRead
  dsimp only
  split
  · exact h
  · split
    · exact h
    · split
      · exact h
      · split
        · exact h
        · split
          · exact h.fillLine
          · split
            · exact h.setSlice
            · exact h.setSlice.bump.frameErr
            · exact h.setSlice.bump.frameErr.fillLine

theorem Follows.dropLines {p : Nat} (h : Follows A σ s) : Follows A σ (dropLines s p) := h.alike (by rfl)

theorem Follows.shcInv {p : Nat} (h : Follows A σ s) : Follows A σ (shcInv s p) := by
  unfold Machine.shcInv
  dsimp only
  split
  · exact h.alike (by rfl)
  · exact h.alike (by rfl)

theorem Follows.shcInvDone (h : Follows A σ s) : Follows A σ (shcInvDone s) := by
  unfold Machine.shcInvDone
  dsimp only
  split
  · exact h
  · split
    · exact h.alike (by rfl)
    · exact h.alike (by rfl)

theorem Follows.moveRows {p n i : Nat} {ls : List (Nat × Nat × Nat)} {d : List Byte} {rs : List Nat} (h : Follows A σ s)
    (hm : A.stores = true) :
    Follows A σ (moveRows p n i ls d rs s) := by
  induction rs generalizing s with
  | nil => exact h
  | cons r q ih => exact ih (h.dmaRead.foldl fun _ _ h => h.dmaWrite hm)

theorem Follows.freeBytes {a n : Nat} (h : Follows A σ s) (hm : A.stores = true) : Follows A σ (freeBytes s a n) :=
  (h.alike (by rfl)).wrMem hm

theorem Follows.cutBytes {e i : Nat} {ls : List (Nat × Nat × Nat)} {a : Nat} {new0 : List Byte} (h : Follows A σ s) (hm : A.stores = true) :
    Follows A σ (cutBytes e i ls s a new0) := (h.alike (by rfl)).wrMem hm

theorem Follows.cutDesc {e p n i : Nat} {ls : List (Nat × Nat × Nat)} {d : List Byte} (h : Follows A σ s) (hm : A.stores = true) :
    Follows A σ (cutDesc e p n i ls d s) := by
  unfold Machine.cutDesc
  dsimp only
  split
  · exact h
  · refine .foldl h fun _ _ h => ?_
    refine .foldl h.dmaRead fun _ _ h => ?_
    split
    · exact h
    · exact h.cutBytes hm

theorem Follows.stopChain {e : Nat} {c : Chain} (h : Follows A σ s) (hm : A.stores = true) :
    Follows A σ (stopChain e s c) := .foldl h fun _ _ h => h.cutDesc hm

theorem Follows.stopChains {p n : Nat} (h : Follows A σ s) (hm : A.stores = true) :
    Follows A σ (stopChains s p n) :=
  .foldl h fun _ _ h => .foldl h fun _ _ h => .setQueue (.foldl h fun _ _ h => h.stopChain hm)

theorem Follows.chainAccept {e p n base count : Nat} (h : Follows A σ s) (hm : A.stores = true) :
    Follows A σ (chainAccept s e p n base count) := by
  unfold Machine.chainAccept
  dsimp only
  split
  · exact h
  · split
    · exact h.setQueue.bump
    · split
      · exact h
      · split
        · exact h
        · exact h.setQueue.bump.andThen fun h1 => .ite (h1.setFlight.settle hm) h1

theorem Follows.descStart {e vc i : Nat} (h : Follows A σ s) : Follows A σ (descStart s e vc i) := by
  unfold Machine.descStart
  dsimp only
  split
  · exact h
  · exact .ite h (.ite h.setHead.bump h.setHead)

theorem Follows.chainEnd {c : Chain} (h : Follows A σ s) (hm : A.stores = true) : Follows A σ (chainEnd s c) := by
  unfold Machine.chainEnd
  dsimp only
  split
  · split
    · exact h
    · exact h.signal
  · split
    · split
      · exact h
      · exact h.signal
    · split
      · refine .extDone ?_
        split
        · exact h
        · exact h.signal
      · refine .settle ?_ hm
        refine .extDone ?_
        split
        · exact h
        · exact h.signal

theorem Follows.descComplete {e vc i : Nat} (h : Follows A σ s) (hm : A.stores = true) : Follows A σ (descComplete s e vc i) := by
  unfold Machine.descComplete
  dsimp only
  split
  · exact h
  · exact .ite h (.ite h.touchRanges
      ((h.moveRows hm).bump.wr64.andThen fun h1 => (Follows.ite h1.signal h1).andThen fun h2 => .ite (h2.setQueue.chainEnd hm) h2.setHead))

theorem Follows.chainFault {e vc code addr : Nat} {bad : Option Nat} (h : Follows A σ s) (hm : A.stores = true) :
    Follows A σ (chainFault s e vc code addr bad) := by
  unfold Machine.chainFault
  split
  · exact h
  · extract_lets s0 s1 s2 s3 s4
    have h0 : Follows A σ s0 := by
      unfold s0
      split
      · exact h
      · refine .foldl h fun _ _ h => .foldl h fun _ _ h => ?_
        split
        · exact h
        · exact .ite h (h.freeBytes hm)
    have h2 : Follows A σ s2 := (h0.stopChain hm).setQueue
    have h3 : Follows A σ s3 := .ite h2 h2.wrReg
    have h4 : Follows A σ s4 := .ite h3.noteFence h3
    split
    · exact h4
    · exact h4.raise

theorem Follows.descFault {e vc : Nat} (h : Follows A σ s) (hm : A.stores = true) : Follows A σ (descFault s e vc) := by
  unfold Machine.descFault
  dsimp only
  split
  · exact h
  · split
    · split
      · exact h
      · exact h.chainFault hm
    · split
      · exact h
      · split
        · exact h
        · exact h.chainFault hm

theorem Follows.readerFault {rd : Reader} {code : Nat} (h : Follows A σ s) (hm : A.stores = true) :
    Follows A σ (readerFault s rd code) := by
  unfold Machine.readerFault
  split
  · split
    · exact h
    · exact h.raise
  · exact h.chainFault hm
  · exact h

theorem Follows.noteUncorr {a : Nat} (h : Follows A σ s) : Follows A σ (noteUncorr s a) := h.bump.wrReg.setFld

theorem Follows.dramEcc {a : Nat} {kind : EccKind} {rd : Reader} (h : Follows A σ s) (hm : A.stores = true) :
    Follows A σ (dramEcc s a kind rd) := by
  unfold Machine.dramEcc
  split
  · exact h
  · split
    · exact h
    · exact h.bump
    · exact h.noteUncorr.readerFault hm
    · exact h.noteUncorr.readerFault hm

theorem Follows.patrol {m : Nat} {single double : List Nat} (h : Follows A σ s) :
    Follows A σ (patrol s m single double) := .ite h (.bump (.foldl h.bumpBy fun _ _ h => h.noteUncorr))

theorem Follows.rowError {l off : Nat} (h : Follows A σ s) (hm : A.stores = true) :
    Follows A σ (rowError s l off) := .ite h.setPhys (.ite (h.coreRetire hm) (h.setPhys.zeroMem hm))

theorem Follows.refetch {l d : Nat} {x : Drawer} {sc : SlotCtx} {a n : Nat} (h : Follows A σ s) (hm : A.stores = true) :
    Follows A σ (refetch s l d x sc a n) := by
  unfold Machine.refetch
  exact h.setCore.settle hm

theorem Follows.spadParity {l off : Nat} {rd : Reader} (h : Follows A σ s) (hm : A.stores = true) :
    Follows A σ (spadParity s l off rd) := by
  unfold Machine.spadParity
  dsimp only
  split
  · exact h
  · split
    · exact h.bump.rowError hm
    · split
      · split
        · split
          · exact (h.bump.rowError hm).bump
          · exact .ite ((h.bump.rowError hm).bump.refetch hm) ((h.bump.rowError hm).bump)
        · exact (h.bump.rowError hm).readerFault hm
      · exact (h.bump.rowError hm).readerFault hm

theorem Follows.askCredit {l : Nat} {r : CreditReq} (h : Follows A σ s) (hm : A.stores = true) : Follows A σ (askCredit s l r) := by
  unfold Machine.askCredit
  split
  · split
    · exact h
    · split
      · exact h.releaseSend.chainFault hm
      · exact h.creditRequest
  · exact .ite h h.raiseAcc

theorem Follows.execCreditRequest {t : Time} {l : Fin 256} {r : CreditArg} (h : Follows A σ s) (hm : A.stores = true) :
    Ends A σ (execCreditRequest t l r s) := .next (h.advance.askCredit hm)

theorem Follows.execCreditGrant {t : Time} {l : Fin 256} (h : Follows A σ s) : Ends A σ (execCreditGrant t l s) :=
  .next h.advance.creditGrant

theorem Follows.execLandingDrawerConsumed {t : Time} {l d : Fin 256} (h : Follows A σ s) :
    Ends A σ (execLandingDrawerConsumed t l d s) := .next h.advance.drawerRead

theorem Follows.execMulticastSend {t : Time} {l : Fin 256} {k : Fin 8} {src len : Nat} {dests : List Nat} (h : Follows A σ s)
    (hm : A.stores = true) :
    Ends A σ (execMulticastSend t l k src len dests s) := .next (h.advance.multicast hm)

theorem Follows.execHaloRowSend {t : Time} {l : Fin 256} {k : Fin 8} {src len : Nat} (h : Follows A σ s) (hm : A.stores = true) :
    Ends A σ (execHaloRowSend t l k src len s) := .next (h.advance.haloSend hm)

theorem Follows.execPromiseCancel {t : Time} {l : Fin 256} {src : Nat} {mc : Bool} (h : Follows A σ s) :
    Ends A σ (execPromiseCancel t l src mc s) := .next h.advance.promiseCancel

theorem Follows.execShcRead {t : Time} {l : Fin 256} {k : Fin 8} {a : Nat} {err : ShcErr} (h : Follows A σ s) :
    Ends A σ (execShcRead t l k a err s) := .next h.advance.shcRead

theorem Follows.execShcInv {t : Time} {ag : Agent} {p : Fin 16} (h : Follows A σ s) :
    Ends A σ (execShcInv t ag p s) := .next (.onWrite h.advance (fun _ h => h.shcInv))

theorem Follows.execShcInvDone {t : Time} (h : Follows A σ s) : Ends A σ (execShcInvDone t s) := .next h.advance.shcInvDone

theorem Follows.execDmaChainAccept {t : Time} {e : Fin 22} {p : Fin 16} {n : Fin 64} {base count : Nat} (h : Follows A σ s)
    (hm : A.stores = true) :
    Ends A σ (execDmaChainAccept t e p n base count s) := .next (h.advance.chainAccept hm)

theorem Follows.execDmaDescStart {t : Time} {e : Fin 22} {vc : Fin 4} {i : Nat} (h : Follows A σ s) :
    Ends A σ (execDmaDescStart t e vc i s) := .next h.advance.descStart

theorem Follows.execDmaDescComplete {t : Time} {e : Fin 22} {vc : Fin 4} {i : Nat} (h : Follows A σ s) (hm : A.stores = true) :
    Ends A σ (execDmaDescComplete t e vc i s) := .next (h.advance.descComplete hm)

theorem Follows.execDmaDescFault {t : Time} {e : Fin 22} {vc : Fin 4} (h : Follows A σ s) (hm : A.stores = true) :
    Ends A σ (execDmaDescFault t e vc s) := .next (h.advance.descFault hm)

theorem Follows.execDramReadEcc {t : Time} {a : Nat} {kind : EccKind} {rd : Reader} (h : Follows A σ s) (hm : A.stores = true) :
    Ends A σ (execDramReadEcc t a kind rd s) := .next (h.advance.dramEcc hm)

theorem Follows.execPatrolScrub {t : Time} {m : Fin 6} {single double : List Nat} (h : Follows A σ s) :
    Ends A σ (execPatrolScrub t m single double s) := .next h.advance.patrol

theorem Follows.execSpadParityError {t : Time} {l : Fin 256} {off : Nat} {rd : Reader} (h : Follows A σ s) (hm : A.stores = true) :
    Ends A σ (execSpadParityError t l off rd s) := .next (h.advance.spadParity hm)

theorem Follows.execBankClosingDone {t : Time} {l : Fin 256} {b : Fin 16} (h : Follows A σ s) (hm : A.stores = true) :
    Ends A σ (execBankClosingDone t l b s) := .next (h.advance.bankClosed hm)

theorem Follows.execBankGateAbort {t : Time} {l : Fin 256} {b : Fin 16} (h : Follows A σ s) :
    Ends A σ (execBankGateAbort t l b s) := .next h.advance.bankAbort

theorem Follows.execBankWake {t : Time} {l : Fin 256} {b : Fin 16} {wr : Bool} (h : Follows A σ s) :
    Ends A σ (execBankWake t l b wr s) := .next h.advance.bankWake

theorem Follows.execBankWakeDone {t : Time} {l : Fin 256} {b : Fin 16} (h : Follows A σ s) :
    Ends A σ (execBankWakeDone t l b s) := .next (.ite h.advance.setBank h.advance)

/-! ## Machine/Foot.lean -/

theorem Follows.fsFill {r : FsReq} {c : Nat} {rs : List (Nat × Nat)} (h : Follows A σ s) : Follows A σ (fsFill s r c rs) := h.setCl

theorem Follows.fsBlock {r : FsReq} {j : Nat × Nat × Nat} {x : SSt} (h : Follows A σ x.1) (hm : A.stores = true) :
    Follows A σ (fsBlock r j x).1 := by
  unfold Machine.fsBlock
  dsimp only
  split
  · refine .eachRow h (fun _ _ h => ?_)
    refine .rowWith ?_ (fun _ h => h) hm
    split
    · exact h.fsFill
    · exact h
  · exact h

theorem Follows.fsCount {c : Nat} {r : FsReq} (h : Follows A σ s) : Follows A σ (fsCount c r s) := h.setCl

theorem Follows.fsRun {c : Nat} {r : FsReq} {n : Nat} (h : Follows A σ s) (hm : A.stores = true) : Follows A σ (fsRun s c r n).1 := by
  unfold Machine.fsRun
  dsimp only
  refine .foldlFst h fun _ _ h => ?_
  split
  · exact (h.fsBlock hm).fsCount
  · exact h

theorem Follows.fsTouch {r : FsReq} (h : Follows A σ s) : Follows A σ (fsTouch s r) := h.touchRanges.touchRanges

theorem Follows.fsStart {c : Nat} (h : Follows A σ s) : Follows A σ (fsStart s c) := by
  unfold Machine.fsStart
  dsimp only
  split
  · exact h
  · split
    · exact h.setCl
    · exact h.setCl

theorem Follows.fsWithdraw {c : Nat} {r : FsReq} (h : Follows A σ s) :
    Follows A σ (fsWithdraw s c r) := .setCl (.foldl h fun _ _ h => h.fsCount)

theorem Follows.fsBoundary {c : Nat} (h : Follows A σ s) (hm : A.stores = true) : Follows A σ (fsBoundary s c) := by
  unfold Machine.fsBoundary
  dsimp only
  split
  · exact h.fsStart
  · exact .ite h.fsWithdraw.fsStart (.ite h.fsTouch (.ite h ((h.fsRun hm).setCl.bump.fsStart)))

theorem Follows.fsComplete {c : Nat} (h : Follows A σ s) (hm : A.stores = true) : Follows A σ (fsComplete s c) := by
  unfold Machine.fsComplete
  dsimp only
  split
  · exact h
  · split
    · exact h.fsWithdraw
    · split
      · exact h.fsTouch
      · split
        · exact h
        · split
          · exact (h.fsRun hm).setCl
          · split
            · exact (h.fsRun hm).setCl.extDone.modRank
            · exact (h.fsRun hm).setCl.extDone.modRank.settle hm

theorem Follows.fsEnd {c : Nat} (h : Follows A σ s) : Follows A σ (fsEnd s c) := .foldl h.setCl fun _ _ h => .ite h.raise h

theorem Follows.fsParity {c row : Nat} {held : Bool} (h : Follows A σ s) : Follows A σ (fsParity s c row held) := by
  unfold Machine.fsParity
  dsimp only
  split
  · exact h.bump
  · split
    · exact h.bump.fsEnd
    · split
      · exact h.bump.setCl
      · exact .ite h.bump.setCl h.bump.setCl.raise

theorem Follows.execFootstoolChunkBoundary {t : Time} {c : Fin 16} (h : Follows A σ s) (hm : A.stores = true) :
    Ends A σ (execFootstoolChunkBoundary t c s) := .next (h.advance.fsBoundary hm)

theorem Follows.execFootstoolRequestComplete {t : Time} {c : Fin 16} (h : Follows A σ s) (hm : A.stores = true) :
    Ends A σ (execFootstoolRequestComplete t c s) := .next (h.advance.fsComplete hm)

theorem Follows.execFootstoolParityError {t : Time} {c : Fin 16} {row : Nat} {held : Bool} (h : Follows A σ s) :
    Ends A σ (execFootstoolParityError t c row held s) := .next h.advance.fsParity

/-! ## Machine/Tensor.lean -/

theorem Follows.giveSlots {l k n : Nat} (h : Follows A σ s) : Follows A σ (giveSlots s l k n) := by
  unfold Machine.giveSlots
  split
  · exact h
  · exact h.setSlot

theorem Follows.askSlots {l k n : Nat} (h : Follows A σ s) : Follows A σ (askSlots s l k n) := by
  unfold Machine.askSlots
  dsimp only
  split
  · exact h
  · exact .ite h (.ite h.giveSlots h.setCore.beginWait)

theorem Follows.prefetchPiece {l k : Nat} {c : SlotCtx} {r : Nat × Nat} (h : Follows A σ s) :
    Follows A σ (prefetchPiece l k c s r) := .ite h.grantCredit h

theorem Follows.startPrefetch {l k : Nat} (h : Follows A σ s) : Follows A σ (startPrefetch s l k) := by
  unfold Machine.startPrefetch
  split
  · exact h
  · exact .foldl h fun _ _ h => h.prefetchPiece

theorem Follows.issueEffect {l k : Nat} {sc : SlotCtx} {f : InFlight} (h : Follows A σ s) (hm : A.stores = true) :
    Follows A σ (issueEffect s l k sc f) := by
  unfold Machine.issueEffect
  dsimp only
  split
  · exact .ite h.setCl.beginWait h
  · exact .foldl h.setCore.touchRanges fun _ _ h => h.pin hm
  · split
    · exact h.startAppend hm
    · split
      · exact h
      · split
        · exact h
        · exact .ite h.tellRank h
  · split
    · exact .ite h h.beginWait
    · exact h.signal
    · split
      · exact h
      · exact h.setSlot
  · exact h

theorem Follows.issueActs {l k : Nat} {sc : SlotCtx} {f : InFlight} (h : Follows A σ s) (hm : A.stores = true) :
    Follows A σ (issueActs s l k sc f) := (h.issueEffect hm).startPrefetch

theorem Follows.sendStats {sc : SlotCtx} {f : InFlight} (h : Follows A σ s) (hm : A.stores = true) : Follows A σ (sendStats s sc f) := by
  unfold Machine.sendStats
  dsimp only
  split
  · exact h
  · exact .ite h.setCtx ((h.writeRecord hm).setCtx)

theorem Follows.freeWork {l : Nat} {f : InFlight} (h : Follows A σ s) : Follows A σ (freeWork s l f) := h.setCore

theorem Follows.dropStages {l k ip : Nat} (h : Follows A σ s) : Follows A σ (dropStages s l k ip) := h.setCore

theorem Follows.complete {l k : Nat} (h : Follows A σ s) (hm : A.stores = true) : Follows A σ (complete s l k) := by
  unfold Machine.complete
  dsimp only
  split
  · exact h
  · split
    · exact h
    · exact .ite h ((Follows.setSlot
        (.dropStages (.sendStats (.foldl (.freeWork (.ite h.signal h)) fun _ _ h => h.unpin hm) hm))).andThen fun h1 =>
          .settle (.dropRing (.ite h1.setCtx h1)) hm)

theorem Follows.finishSync {l k : Nat} (h : Follows A σ s) (hm : A.stores = true) : Follows A σ (finishSync s l k) := .ite (h.complete hm) h

theorem Follows.clearHalo {l k : Nat} (h : Follows A σ s) : Follows A σ (clearHalo s l k) := h.setCore

theorem Follows.issueBuilt {l k : Nat} {sc : SlotCtx} {b : Built} (h : Follows A σ s) (hm : A.stores = true) :
    Follows A σ (issueBuilt s l k sc b) :=
  .ite h.takePrefetch.raiseErrs
    (.ite (.touchRanges (.ite h h.beginWait))
      (.settle (.finishSync (.askSlots (.issueActs (.setSlot (.takePrefetch (.clearHalo (.ite h h.setCtx)))) hm)) hm) hm))

theorem Follows.issue {l k : Nat} {want : List Byte → Bool} {held : Bool} (h : Follows A σ s) (hm : A.stores = true) :
    Follows A σ (issue s l k want held) := by
  unfold Machine.issue
  dsimp only
  split
  · exact h
  · split
    · exact h
    · split
      · exact .ite h.setSlot (.ite (.ite h.setSlot h.setSlot.beginWait) (h.setSlot.issueBuilt hm))
      · exact h.setSlot.raiseAcc

theorem Follows.execIssueMma {t : Time} {l : Fin 256} {k : Fin 8} (h : Follows A σ s) (hm : A.stores = true) :
    Ends A σ (execIssueMma t l k s) := .next (h.advance.issue hm)

theorem Follows.execIssueXpnd {t : Time} {l : Fin 256} {k : Fin 8} (h : Follows A σ s) (hm : A.stores = true) :
    Ends A σ (execIssueXpnd t l k s) := .next (h.advance.issue hm)

theorem Follows.execIssueAttn {t : Time} {l : Fin 256} {k : Fin 8} (h : Follows A σ s) (hm : A.stores = true) :
    Ends A σ (execIssueAttn t l k s) := .next (h.advance.issue hm)

theorem Follows.execIssueEwise {t : Time} {l : Fin 256} {k : Fin 8} (h : Follows A σ s) (hm : A.stores = true) :
    Ends A σ (execIssueEwise t l k s) := .next (h.advance.issue hm)

theorem Follows.execIssuePool {t : Time} {l : Fin 256} {k : Fin 8} (h : Follows A σ s) (hm : A.stores = true) :
    Ends A σ (execIssuePool t l k s) := .next (h.advance.issue hm)

theorem Follows.execIssueArgmaxc {t : Time} {l : Fin 256} {k : Fin 8} (h : Follows A σ s) (hm : A.stores = true) :
    Ends A σ (execIssueArgmaxc t l k s) := .next (h.advance.issue hm)

theorem Follows.execIssueStat {t : Time} {l : Fin 256} {k : Fin 8} (h : Follows A σ s) (hm : A.stores = true) :
    Ends A σ (execIssueStat t l k s) := .next (h.advance.issue hm)

theorem Follows.execIssueScaleEntries {t : Time} {l : Fin 256} {k : Fin 8} (h : Follows A σ s) (hm : A.stores = true) :
    Ends A σ (execIssueScaleEntries t l k s) := .next (h.advance.issue hm)

theorem Follows.execIssueScaleTable {t : Time} {l : Fin 256} {k : Fin 8} (h : Follows A σ s) (hm : A.stores = true) :
    Ends A σ (execIssueScaleTable t l k s) := .next (h.advance.issue hm)

theorem Follows.execIssueFill {t : Time} {l : Fin 256} {k : Fin 8} (h : Follows A σ s) (hm : A.stores = true) :
    Ends A σ (execIssueFill t l k s) := .next (h.advance.issue hm)

theorem Follows.execIssueScopy {t : Time} {l : Fin 256} {k : Fin 8} (h : Follows A σ s) (hm : A.stores = true) :
    Ends A σ (execIssueScopy t l k s) := .next (h.advance.issue hm)

theorem Follows.execIssueDma {t : Time} {l : Fin 256} {k : Fin 8} (h : Follows A σ s) (hm : A.stores = true) :
    Ends A σ (execIssueDma t l k s) := .next (h.advance.issue hm)

theorem Follows.execIssueKvapp {t : Time} {l : Fin 256} {k : Fin 8} (h : Follows A σ s) (hm : A.stores = true) :
    Ends A σ (execIssueKvapp t l k s) := .next (h.advance.issue hm)

theorem Follows.execSyncWait {t : Time} {l : Fin 256} {k : Fin 8} (h : Follows A σ s) (hm : A.stores = true) :
    Ends A σ (execSyncWait t l k s) := .next (h.advance.issue hm)

theorem Follows.execSyncSignal {t : Time} {l : Fin 256} {k : Fin 8} (h : Follows A σ s) (hm : A.stores = true) :
    Ends A σ (execSyncSignal t l k s) := .next (h.advance.issue hm)

theorem Follows.execSyncBload {t : Time} {l : Fin 256} {k : Fin 8} (h : Follows A σ s) (hm : A.stores = true) :
    Ends A σ (execSyncBload t l k s) := .next (h.advance.issue hm)

theorem Follows.syncRelease {l k : Nat} (h : Follows A σ s) (hm : A.stores = true) : Follows A σ (syncRelease s l k) := by
  unfold Machine.syncRelease
  split
  · exact h
  · split
    · exact .ite ((h.endWait.finishSync hm).settle hm) h
    · exact h

theorem Follows.execSyncWaitRelease {t : Time} {l : Fin 256} {k : Fin 8} (h : Follows A σ s) (hm : A.stores = true) :
    Ends A σ (execSyncWaitRelease t l k s) := .next (h.advance.syncRelease hm)

theorem Follows.slotGrant {l k : Nat} (h : Follows A σ s) (hm : A.stores = true) : Follows A σ (slotGrant s l k) := by
  unfold Machine.slotGrant
  split
  · extract_lets co s1
    have h1 : Follows A σ s1 := h.setCore
    refine .ite h (.ite ?_ (.ite h (h1.endWait.giveSlots.settle hm)))
    split
    · exact h
    · next v e =>
      have hv : Follows A σ v := h1.refillSlots v e
      exact .settle (.ite hv.endWait hv) hm
  · exact h

theorem Follows.execAccSlotGrant {t : Time} {l : Fin 256} {k : Fin 8} (h : Follows A σ s) (hm : A.stores = true) :
    Ends A σ (execAccSlotGrant t l k s) := .next (h.advance.slotGrant hm)

theorem Follows.execInstructionHoldRelease {t : Time} {l : Fin 256} {k : Fin 8} (h : Follows A σ s) (hm : A.stores = true) :
    Ends A σ (execInstructionHoldRelease t l k s) := .next (h.advance.issue hm)

theorem Follows.execInstructionComplete {t : Time} {l : Fin 256} {k : Fin 8} (h : Follows A σ s) (hm : A.stores = true) :
    Ends A σ (execInstructionComplete t l k s) := .next ((h.advance.complete hm).finishSync hm)

theorem Follows.execDrainComplete {t : Time} {l : Fin 256} {a : Fin 32} (h : Follows A σ s) (hm : A.stores = true) :
    Ends A σ (execDrainComplete t l a s) := .next (h.advance.drainAck.settle hm)

theorem Follows.joinPartial {p n : Nat} {x : Partial} (h : Follows A σ s) : Follows A σ (joinPartial p n s x) := h.setCtx

theorem Follows.partialArrive {p n rank : Nat} (h : Follows A σ s) (hm : A.stores = true) : Follows A σ (partialArrive s p n rank) := by
  unfold Machine.partialArrive
  dsimp only
  split
  · split
    · exact h
    · exact .ite (h.setCtx.joinPartial.settle hm) h
  · exact h

theorem Follows.execStatsPartialArrive {t : Time} {p : Fin 16} {n : Fin 64} {rank : Fin 256} (h : Follows A σ s) (hm : A.stores = true) :
    Ends A σ (execStatsPartialArrive t p n rank s) := .next (h.advance.partialArrive hm)

theorem Follows.redoTile {l k a : Nat} (h : Follows A σ s) : Follows A σ (redoTile s l k a) := by
  unfold Machine.redoTile
  dsimp only
  split
  · exact h
  · exact h.setAcc.bump.setSlot

theorem Follows.accParity {l a w : Nat} {held : Bool} (h : Follows A σ s) (hm : A.stores = true) :
    Follows A σ (accParity s l a w held) := by
  unfold Machine.accParity
  dsimp only
  split
  · exact h
  · split
    · exact h.bump.coreRetire hm
    · split
      · exact h.bump.setPhys
      · exact .ite h.bump.setPhys.raise (h.bump.setPhys.redoTile.settle hm)

theorem Follows.settleAll {l : Nat} (h : Follows A σ s) (hm : A.stores = true) :
    Follows A σ (settleAll s l) := .foldl h fun _ _ h => h.settle hm

theorem Follows.idleSince {l : Nat} (h : Follows A σ s) : Follows A σ (idleSince s l) := h.setCore

theorem Follows.chargeTokens {p n : Nat} (h : Follows A σ s) : Follows A σ (chargeTokens s p n) := h.alike (by rfl)

theorem Follows.stopHit {l k : Nat} {c : SlotCtx} (h : Follows A σ s) :
    Follows A σ (stopHit s l k c) := .dropRing (.setSlot (.ite h h.chargeTokens.setCtx))

theorem Follows.clearHit {l k : Nat} {c : SlotCtx} (h : Follows A σ s) :
    Follows A σ (clearHit s l k c) := h.chargeTokens.setSlot.andThen fun h1 => .ite h1 h1.setCtx

theorem Follows.countTurn {l k : Nat} (h : Follows A σ s) (hm : A.stores = true) : Follows A σ (countTurn s l k) := by
  unfold Machine.countTurn
  dsimp only
  split
  · exact h
  · split
    · exact h.setSlot.idleSince
    · split
      · exact h.setSlot.idleSince.saveSlots hm
      · split
        · exact h.setSlot.idleSince.saveSlots hm
        · exact (h.setSlot.idleSince.saveSlots hm).stopHit

theorem Follows.coreStep {l : Nat} {par : Option (Nat × Nat × Bool)} (h : Follows A σ s) (hm : A.stores = true) :
    Follows A σ (coreStep s l par) := by
  unfold Machine.coreStep
  extract_lets v c s1
  have hv : Follows A σ v := h.settleAll hm
  clear_value v
  have h1 : Follows A σ s1 := by
    unfold s1
    split
    · exact hv
    · exact hv.accParity hm
  clear_value s1
  refine .ite h ?_
  split
  · exact hv.setCore
  · exact .ite h1.setCore (((h1.setCore.turnOps hm).settle hm).countTurn hm)

theorem Follows.execCoreStep {t : Time} {l : Fin 256} {par : Option (Nat × Nat × Bool)} (h : Follows A σ s) (hm : A.stores = true) :
    Ends A σ (execCoreStep t l par s) := .next (h.advance.coreStep hm)

theorem Follows.execTcQuiesce {t : Time} {ag : Agent} {l : Fin 256} {q : Bool} (h : Follows A σ s) :
    Ends A σ (execTcQuiesce t ag l q s) := .next (.onWrite h.advance (fun _ h => h.setFlag))

/-! ## Machine/Sched.lean -/

theorem Follows.dropAsks {l p n : Nat} (h : Follows A σ s) : Follows A σ (dropAsks s l p n) := h.alike (by rfl)

theorem Follows.leaveSlot {l k : Nat} (h : Follows A σ s) : Follows A σ (leaveSlot s l k) := by
  unfold Machine.leaveSlot
  dsimp only
  split
  · exact h
  · exact h.cancelPromises.alike (by rfl)

theorem Follows.spillLost {keep : Nat → Bool} {p : Nat} {c : SlotCtx} (h : Follows A σ s) (hm : A.stores = true) :
    Follows A σ (spillLost keep p s c) := .foldl h fun _ _ h => .foldl h fun _ _ h => .ite (h.freeBytes hm) h

theorem Follows.dropSlotBut {keep : Nat → Bool} {l k : Nat} (h : Follows A σ s) (hm : A.stores = true) :
    Follows A σ (dropSlotBut keep s l k) := by
  unfold Machine.dropSlotBut
  split
  · exact h
  · exact .foldl ((h.spillLost hm).leaveSlot) fun _ _ h => h.unpin hm

theorem Follows.dropSlot {l k : Nat} (h : Follows A σ s) (hm : A.stores = true) : Follows A σ (dropSlot s l k) := h.dropSlotBut hm

theorem Follows.endAppend {p n : Nat} {a : Append} (h : Follows A σ s) (hm : A.stores = true) :
    Follows A σ (endAppend p n s a) := .ite h ((Follows.ite (h.copyDone hm) h).alike (by rfl))

theorem Follows.dropRequests {p n : Nat} (h : Follows A σ s) : Follows A σ (dropRequests s p n) := h.alike (by rfl)

theorem Follows.teardown {p n : Nat} (h : Follows A σ s) (hm : A.stores = true) : Follows A σ (teardown s p n) := by
  unfold Machine.teardown
  dsimp only
  refine .runBoundaries ?_ hm
  refine .foldl ?_ fun _ _ h => ?_
  · refine .dropRequests ?_
    refine .stopChains ?_ hm
    refine .foldl (.foldl (.foldl (.foldl h fun _ _ h => h.spillLost hm) fun _ _ h => h.endAppend hm) fun _ _ h => h.unpin hm) fun _ _ h =>
      ?_
    split
    · exact h
    · exact h.dropSlot hm
  · exact h.wctrDrop hm

theorem Follows.teardownTo {p n : Nat} {st : CtxSt} {code : Nat} (h : Follows A σ s) (hm : A.stores = true) :
    Follows A σ (teardownTo s p n st code) := (h.teardown hm).setCtx

theorem Follows.execContextTeardown {t : Time} {p : Fin 16} {n : Fin 64} (h : Follows A σ s) (hm : A.stores = true) :
    Ends A σ (execContextTeardown t p n s) := .next (.ite h.advance (h.advance.teardownTo hm))

theorem Follows.clearCoreCounters {l : Nat} (h : Follows A σ s) : Follows A σ (clearCoreCounters s l) := .foldl h fun _ _ h => h.wrReg

theorem Follows.coreReset {l : Nat} (h : Follows A σ s) (hm : A.stores = true) :
    Follows A σ (coreReset s l) := .clearCoreCounters (.setCore (.foldl h.raiseAll fun _ _ h => h.dropSlotBut hm))

theorem Follows.execCoreReset {t : Time} {ag : Agent} {l : Fin 256} (h : Follows A σ s) (hm : A.stores = true) :
    Ends A σ (execCoreReset t ag l s) := .next (.onWrite h.advance (fun _ h => h.coreReset hm))

theorem Follows.slowdown {c : SlotCtx} (h : Follows A σ s) : Follows A σ (slowdown s c).2 := by
  unfold Machine.slowdown
  dsimp only
  split
  · exact h.draw
  · exact h

theorem Follows.worstRank {rs : List SlotCtx} (h : Follows A σ s) : Follows A σ (worstRank rs s).2 := by
  induction rs generalizing s with
  | nil => exact h
  | cons c r ih =>
    have hr : Follows A σ (Machine.worstRank r (Machine.slowdown s c).2).2 := ih h.slowdown
    unfold Machine.worstRank
    extract_lets x
    split <;> (next e => rw [e] at hr; exact hr)

theorem Follows.jobFigures {p n : Nat} (h : Follows A σ s) : Follows A σ (jobFigures s p n) := by
  have hr : Follows A σ (Machine.worstRank (Machine.ranksOf s p n) s).2 := h.worstRank
  unfold Machine.jobFigures
  extract_lets c rs
  split
  · next e => rw [e] at hr; exact hr
  · next e => rw [e] at hr; exact hr.bump.wrReg.wrReg.wrReg.wrReg.wrReg.setFld.setFld

theorem Follows.clearPriv {p n : Nat} (h : Follows A σ s) : Follows A σ (clearPriv s p n) := .foldl h fun _ _ h => h.wrReg

theorem Follows.residAdd {l : Nat} {r : Resid} (h : Follows A σ s) : Follows A σ (residAdd s l r) := h.setCore

theorem Follows.recordBuf {p n : Nat} (h : Follows A σ s) : Follows A σ (recordBuf s p n) := .ite h (.foldl h fun _ _ h => h.residAdd)

theorem Follows.nextJob {p n : Nat} (h : Follows A σ s) : Follows A σ (nextJob s p n) :=
  .clearPriv (.setCtx (.foldl h fun _ _ h => h.modRank))

theorem Follows.leaveCores {p n : Nat} (h : Follows A σ s) (hm : A.stores = true) : Follows A σ (leaveCores s p n) := by
  unfold Machine.leaveCores
  refine .foldl h fun _ _ h => ?_
  split
  · exact h
  · exact h.dropSlot hm

theorem Follows.admitCtx {b : Time} {p n : Nat} (h : Follows A σ s) : Follows A σ (admitCtx b p n s) := by
  unfold Machine.admitCtx
  dsimp only
  split
  · exact h
  · split
    · exact .setCtx (.noteFence (.foldl h fun _ _ h => h.wrReg))
    · exact .ite (.setCtx (.foldl h fun _ _ h => h.wrReg)) (.setCtx (.foldl h fun _ _ h => h.wrReg))

theorem Follows.kill {p n : Nat} (h : Follows A σ s) (hm : A.stores = true) : Follows A σ (kill p n s) := .ite h (h.teardownTo hm)

theorem Follows.stop {p n : Nat} (h : Follows A σ s) : Follows A σ (stop p n s) := by
  unfold Machine.stop
  dsimp only
  split
  · exact h.setCtx
  · exact h.setCtx
  · exact h

theorem Follows.partCommands {b : Time} {p : Nat} (h : Follows A σ s) (hm : A.stores = true) :
    Follows A σ (partCommands b s p) :=
  .foldl (.foldl (.foldl (.foldl h fun _ _ h => h.clearStaged) fun _ _ h => h.kill hm) fun _ _ h => h.stop) fun _ _ h => h.admitCtx

theorem Follows.partResetCore {p : Nat} (h : Follows A σ s) (hm : A.stores = true) : Follows A σ (partResetCore s p) := by
  unfold Machine.partResetCore
  extract_lets v s1 s2 s3 s4 s5 s6 _ s7
  have h1 : Follows A σ s1 := .foldl h.setFld fun _ _ h => .ite h (h.teardownTo hm)
  have h2 : Follows A σ s2 := .foldl h1 fun _ _ h => h.seqFree hm
  have h3 : Follows A σ s3 := .foldl h2 fun _ _ h => .ite h.setWctr h
  have h5 : Follows A σ s5 := .foldl h3.dropLines fun _ _ h => h.wrReg
  clear_value s5
  have h6 : Follows A σ s6 := h5.alike (by rfl)
  clear_value s6
  have h7 : Follows A σ s7 := (h6.alike (by rfl)).runBoundaries hm
  exact .ite h7.resetDone h7.setFld

theorem Follows.schStatus {i : Nat} (h : Follows A σ s) : Follows A σ (schStatus s i) := h.setFlag

theorem Follows.commitCfg {s0 : State} {p : Nat} (h : Follows A σ s) :
    Follows A σ (commitCfg s0 s p) :=
  (Follows.ite h.setFlag.setFld.schStatus h).andThen fun h2 => (Follows.ite h2.setFlag h2).andThen fun h3 => .ite h3 h3.setFld

theorem Follows.maskClear {p l : Nat} (h : Follows A σ s) : Follows A σ (maskClear s p l) := h.setFlag

theorem Follows.giveCore {l d : Nat} (h : Follows A σ s) : Follows A σ (giveCore s l d) :=
  .ite (h.alike (by rfl)) (h.alike (by rfl)).setCore

theorem Follows.commitCore {l : Nat} (h : Follows A σ s) : Follows A σ (commitCore s l) := by
  unfold Machine.commitCore
  dsimp only
  split
  · exact .ite (.foldl h fun _ _ h => h.maskClear.schStatus) (.giveCore (.foldl h fun _ _ h => h.maskClear.schStatus))
  · exact .ite ((Follows.foldl h fun _ _ h => h.maskClear.schStatus).alike (by rfl))
      (.ite ((Follows.foldl h fun _ _ h => h.maskClear.schStatus).alike (by rfl)) (.giveCore (.foldl h fun _ _ h => h.maskClear.schStatus)))

theorem Follows.commitShares {s0 : State} (h : Follows A σ s) :
    Follows A σ (commitShares s0 s) := .ite h (.schStatus (.foldl h fun _ _ h => h.wrReg))

theorem Follows.commitWin {pw : Nat × Nat} (h : Follows A σ s) : Follows A σ (commitWin s pw) := .ite h.setFlag.schStatus h

theorem Follows.commitCtr {p : Nat} (h : Follows A σ s) : Follows A σ (commitCtr s p) := .ite h.setFld.schStatus h

theorem Follows.commitWays {c : Nat} (h : Follows A σ s) : Follows A σ (commitWays s c) := .foldlSnd h fun _ _ h => .ite h h.setFld.setFlag

theorem Follows.commitLimits {s0 : State} (h : Follows A σ s) : Follows A σ (commitLimits s0 s) := by
  unfold Machine.commitLimits
  extract_lets lim
  refine .ite h (.setFlag ?_)
  exact .foldl h fun _ _ h => h.setFld

theorem Follows.commitAll {b : Time} {p : Nat → Bool} (h : Follows A σ s) : Follows A σ (commitAll b p s) :=
  .foldl h fun _ _ h => h.commitReg

theorem Follows.schCommit {b : Time} (h : Follows A σ s) : Follows A σ (schCommit b s) := by
  unfold Machine.schCommit
  extract_lets s1 s2 s3 s4 s5 s6 s7 s8
  have h1 : Follows A σ s1 := h.commitAll
  have h2 : Follows A σ s2 := .foldl h1 fun _ _ h => h.commitCfg
  have h3 : Follows A σ s3 := .foldl h2 fun _ _ h => h.commitCore
  have h4 : Follows A σ s4 := h3.commitShares
  have h5 : Follows A σ s5 := .foldl h4 fun _ _ h => h.commitWin
  have h6 : Follows A σ s6 := .foldl h5 fun _ _ h => h.commitCtr
  have h7 : Follows A σ s7 := .foldl h6 fun _ _ h => h.setFlag
  have h8 : Follows A σ s8 := .foldl h7.commitAll fun _ _ h => h.commitWays
  exact h8.commitAll.commitLimits

theorem Follows.unbindRank {p n l : Nat} (h : Follows A σ s) (hm : A.stores = true) : Follows A σ (unbindRank p n s l) := by
  unfold Machine.unbindRank
  dsimp only
  split
  · exact h
  · split
    · exact h
    · split
      · exact ((h.wrMem hm).wrMem hm).leaveSlot.setCtx
      · exact h.raiseAcc
      · exact h.raiseAcc

theorem Follows.preemptRank {l k : Nat} (h : Follows A σ s) (hm : A.stores = true) : Follows A σ (preemptRank s l k).2 := by
  unfold Machine.preemptRank
  dsimp only
  split
  · exact h
  · split
    · exact h
    · split
      · exact h.dropResume
      · split
        · exact h
        · exact h.cancelPromises.saveSlots hm

theorem Follows.preemptOn {p n : Nat} {ls : List Nat} (h : Follows A σ s) (hm : A.stores = true) : Follows A σ (preemptOn p n ls s) := by
  unfold Machine.preemptOn
  dsimp only
  split
  · refine .bump ?_
    refine .foldlSnd h fun _ _ h => ?_
    split
    · exact h
    · exact h.preemptRank hm
  · refine .foldlSnd h fun _ _ h => ?_
    split
    · exact h
    · exact h.preemptRank hm

theorem Follows.displace {p n : Nat} (h : Follows A σ s) (hm : A.stores = true) :
    Follows A σ (displace s p n) :=
  (h.preemptOn hm).andThen fun h1 => .ite h1 ((Follows.foldl h1 fun _ _ h => h.unbindRank hm).andThen fun h2 => .ite h2.setCtx h2)

theorem Follows.restoreCore {l a : Nat} {c : SlotCtx} (h : Follows A σ s) : Follows A σ (restoreCore s l a c) := h.setCore

theorem Follows.unpark {l k : Nat} {f : InFlight} (h : Follows A σ s) (hm : A.stores = true) : Follows A σ (unpark s l k f).1 := by
  unfold Machine.unpark
  dsimp only
  split
  · exact h
  · exact .foldl h.setCore fun _ _ h => h.wrMem hm

theorem Follows.catchUp {l k : Nat} (h : Follows A σ s) : Follows A σ (catchUp s l k) := by
  unfold Machine.catchUp
  split
  · exact h
  · refine .foldl h fun _ _ h => ?_
    split
    · exact h
    · split
      · exact h
      · exact h.tellRank

theorem Follows.rejoin {l k : Nat} (h : Follows A σ s) (hm : A.stores = true) : Follows A σ (rejoin s l k) := by
  unfold Machine.rejoin
  split
  · exact h
  · extract_lets co s1
    have h1 : Follows A σ s1 := by
      unfold s1
      split
      · exact h.setCore
      · exact h
    exact .ite (h1.resumeSlots.settle hm) (h1.settle hm)

theorem Follows.bindRank {p n base : Nat} {gl : Nat × Nat} (h : Follows A σ s) (hm : A.stores = true) :
    Follows A σ (bindRank p n base s gl) := by
  unfold Machine.bindRank
  extract_lets g l c a co s0
  have h0 : Follows A σ s0 := h.setCore
  clear_value s0
  split
  · exact h
  · split
    · exact h0.setSlot
    · extract_lets r s1 z s2 _ s3
      have h1 : Follows A σ s1 := h0.restoreCore
      have hz : Follows A σ z.1 := .foldlFst h1 fun _ _ h => h.unpark hm
      have h2 : Follows A σ s2 := hz.setSlot
      clear_value s2
      have h3 : Follows A σ s3 := h2.alike (by rfl)
      exact h3.catchUp.rejoin hm

theorem Follows.bindAll {p n : Nat} {cores : List Nat} {alt : Bool} (h : Follows A σ s) (hm : A.stores = true) :
    Follows A σ (bindAll s p n cores alt) :=
  (Follows.foldl h.setCtx fun _ _ h => h.bindRank hm).andThen fun h1 => .ite h1 h1.clearPriv

theorem Follows.bindWait {p : Nat} (h : Follows A σ s) : Follows A σ (bindWait s p) := h.bump

theorem Follows.tryBind {p n own : Nat} {cores : List Nat} {alt aff : Bool} (h : Follows A σ s) (hm : A.stores = true) :
    Follows A σ (tryBind s p n own cores alt aff).2 := by
  unfold Machine.tryBind
  dsimp only
  split
  · exact h
  · split
    · exact .foldl h fun _ _ h => h.displace hm
    · split
      · exact (Follows.ite (.nondet (.foldl h fun _ _ h => h.displace hm)) (.foldl h fun _ _ h => h.displace hm)).andThen fun h1 =>
          .bindAll (.ite h1.bump h1) hm
      · exact .raiseErrs (.foldl h fun _ _ h => h.displace hm)

theorem Follows.placeBind {p n own : Nat} (h : Follows A σ s) (hm : A.stores = true) : Follows A σ (placeBind s p n own).2 := by
  unfold Machine.placeBind
  dsimp only
  split
  · exact h.tryBind hm
  · split
    · exact h
    · split
      · exact h
      · exact h.tryBind hm

theorem Follows.countWait {p : Nat} {r : Bool × State} (h : Follows A σ r.2) : Follows A σ (countWait p r) := .ite h.bindWait h

theorem Follows.bindOne {own p n : Nat} (h : Follows A σ s) (hm : A.stores = true) : Follows A σ (bindOne own p s n) := by
  unfold Machine.bindOne
  dsimp only
  split
  · exact h
  · split
    · exact (h.placeBind hm).countWait
    · split
      · exact h.bindWait
      · exact h.raiseErrs
      · exact (h.tryBind hm).countWait

theorem Follows.placeNext {p n : Nat} (h : Follows A σ s) (hm : A.stores = true) :
    Follows A σ (placeNext s p n) := (h.leaveCores hm).setCtx.placeBind hm

theorem Follows.jobEnd {p n : Nat} (h : Follows A σ s) (hm : A.stores = true) : Follows A σ (jobEnd s p n) := by
  unfold Machine.jobEnd
  extract_lets c v s1
  have hv : Follows A σ v := h.jobFigures.recordBuf
  exact .ite h (.ite (.ite (hv.placeNext hm) hv.nextJob) (hv.leaveCores hm).setCtx)

theorem Follows.execJobEnd {t : Time} {p : Fin 16} {n : Fin 64} (h : Follows A σ s) (hm : A.stores = true) :
    Ends A σ (execJobEnd t p n s) := .next (h.advance.jobEnd hm)

theorem Follows.bindPart {x p : Nat} (h : Follows A σ s) (hm : A.stores = true) :
    Follows A σ (bindPart x s p) := .foldl h fun _ _ h => h.bindOne hm

theorem Follows.chargeAll {x : Nat} (h : Follows A σ s) : Follows A σ (chargeAll x s) := h.alike (by rfl)

theorem Follows.refillCore {x l : Nat} (h : Follows A σ s) (hm : A.stores = true) : Follows A σ (refillCore x s l) := by
  unfold Machine.refillCore
  refine .foldl h fun _ _ h => ?_
  split
  · exact h
  · exact .ite h (h.resumeSlots.settle hm)

theorem Follows.launchAll {b : Time} (h : Follows A σ s) : Follows A σ (launchAll b s) := h.alike (by rfl)

theorem Follows.slotStart {b : Time} {x : Nat} (h : Follows A σ s) (hm : A.stores = true) :
    Follows A σ (slotStart b x s) :=
  .foldl (.launchAll (.foldl (.foldl h.chargeAll fun _ _ h => h.preemptOn hm) fun _ _ h => h.refillCore hm)) fun _ _ h => h.bindPart hm

theorem Follows.execSlotBoundary (h : Follows A σ s) (hm : A.stores = true) : Ends A σ (execSlotBoundary s) := by
  unfold Machine.execSlotBoundary
  extract_lets k s1
  have h1 : Follows A σ s1 := h.advance
  clear_value s1
  split
  · exact .next h
  · exact .next (.slotStart (h1.alike (by rfl)) hm)

theorem Follows.tokSignal {w : Word} (h : Follows A σ s) : Follows A σ (tokSignal w s) := h.signal

theorem Follows.execSchTokSignal {t : Time} {ag : Agent} {w : Word} (h : Follows A σ s) :
    Ends A σ (execSchTokSignal t ag w s) := .next (.onWrite h.advance (fun _ h => h.tokSignal))

theorem Follows.genRead {p n a : Nat} (h : Follows A σ s) : Follows A σ (genRead s p n a) := by
  unfold Machine.genRead
  dsimp only
  split
  · exact h.setCtx
  · exact h.raiseAcc

theorem Follows.execGenRead {t : Time} {p : Fin 16} {n : Fin 64} {a : Nat} (h : Follows A σ s) :
    Ends A σ (execGenRead t p n a s) := .next (.ite h.advance.genRead h.advance)

theorem Follows.execGenWrite {t : Time} {p : Fin 16} {n : Fin 64} {a : Nat} (h : Follows A σ s) :
    Ends A σ (execGenWrite t p n a s) := .next (.ite h.advance.raiseAcc h.advance)

theorem Follows.brkResume {l : Nat} (h : Follows A σ s) (hm : A.stores = true) : Follows A σ (brkResume l s) := by
  unfold Machine.brkResume
  dsimp only
  split
  · exact h
  · exact .ite h (.settle (.ite h.clearHit.resumeSlots h.clearHit) hm)

theorem Follows.execBrkResume {t : Time} {ag : Agent} {l : Fin 256} (h : Follows A σ s) (hm : A.stores = true) :
    Ends A σ (execBrkResume t ag l s) := .next (.onWrite h.advance (fun _ h => h.brkResume hm))

/-! ## Machine/Ing.lean -/

theorem Follows.setStrm {n : Nat} {v : Strm} (h : Follows A σ s) : Follows A σ (setStrm s n v) := h.alike (by rfl)

theorem Follows.setNring {k : Nat} {v : Ring} (h : Follows A σ s) : Follows A σ (setNring s k v) := h.alike (by rfl)

theorem Follows.strErr {n code : Nat} (h : Follows A σ s) : Follows A σ (strErr s n code) := h.setFld.noteEvent

theorem Follows.ringWrite {u o : Nat} {bs : List Byte} (h : Follows A σ s) (hm : A.stores = true) :
    Follows A σ (ringWrite s u o bs) := (h.wrMem hm).wrMem hm

theorem Follows.ringPut {x : RxWait} (h : Follows A σ s) (hm : A.stores = true) : Follows A σ (ringPut s x) := by
  unfold Machine.ringPut
  split
  · exact h
  · exact h.ringWrite hm

theorem Follows.setRx {p : Nat} {l : List RxWait} (h : Follows A σ s) : Follows A σ (setRx s p l) := h.alike (by rfl)

theorem Follows.rxMove {p k : Nat} (h : Follows A σ s) (hm : A.stores = true) :
    Follows A σ (rxMove s p k) := .setRx (.foldl h fun _ _ h => h.ringPut hm)

theorem Follows.rxFlush {n : Nat} (h : Follows A σ s) (hm : A.stores = true) :
    Follows A σ (rxFlush s n) := .setRx (.foldl h fun _ _ h => h.ringPut hm)

theorem Follows.dropHold {k i n : Nat} (h : Follows A σ s) : Follows A σ (dropHold s k i n) := h.setStrm

theorem Follows.freeNotice {k i : Nat} (h : Follows A σ s) : Follows A σ (freeNotice s k i) := by
  unfold Machine.freeNotice
  dsimp only
  split
  · exact h
  · exact h.setNring.dropHold

theorem Follows.notify {n ctr : Nat} {rec64 : List Byte} {bi : Option Nat} {k : Nat} (h : Follows A σ s) (hm : A.stores = true) :
    Follows A σ (notify n ctr rec64 bi s k) := by
  unfold Machine.notify
  dsimp only
  split
  · exact .ite h.bump h.bump.bump
  · split
    · split
      · exact h.setNring
      · exact h.setNring.setStrm
    · refine .signal ?_
      refine .wrMem ?_ hm
      split
      · exact h.setNring
      · exact h.setNring.setStrm

theorem Follows.notifyAll {n ctr : Nat} {rec64 : List Byte} {bi : Option Nat} (h : Follows A σ s) (hm : A.stores = true) :
    Follows A σ (notifyAll s n ctr rec64 bi) := .foldl h fun _ _ h => h.notify hm

theorem Follows.endStream {n : Nat} (h : Follows A σ s) (hm : A.stores = true) :
    Follows A σ (endStream s n) := ((h.draw.draw.draw.rxFlush hm).notifyAll hm).setStrm

theorem Follows.endCheck {n : Nat} (h : Follows A σ s) (hm : A.stores = true) : Follows A σ (endCheck s n) := .ite (h.endStream hm) h

theorem Follows.resync {n ctr : Nat} (h : Follows A σ s) : Follows A σ (resync s n ctr) := .ite h h.setStrm.bumpBy

theorem Follows.dropAu {n ctr code : Nat} {into : Bool} (h : Follows A σ s) (hm : A.stores = true) :
    Follows A σ (dropAu s n ctr code into) :=
  h.setStrm.bump.andThen fun h1 => (Follows.ite h1 h1.strErr).andThen fun h2 => .endCheck (.ite h2.resync h2) hm

theorem Follows.openAu {n : Nat} {p : RtpPkt} {arr : Time} (h : Follows A σ s) : Follows A σ (openAu s n p arr) := h.bump.setStrm

theorem Follows.takeBuf {n ctr : Nat} (h : Follows A σ s) (hm : A.stores = true) : Follows A σ (takeBuf s n ctr) := by
  unfold Machine.takeBuf
  dsimp only
  split
  · exact h
  · split
    · exact h
    · split
      · exact h.dropAu hm
      · exact h.setStrm

theorem Follows.judgeAu {n ctr : Nat} {point : Bool} (h : Follows A σ s) (hm : A.stores = true) : Follows A σ (judgeAu s n ctr point) := by
  unfold Machine.judgeAu
  dsimp only
  split
  · exact h
  · exact .ite (h.setStrm.bumpBy.takeBuf hm) (.takeBuf (.ite h.setStrm h) hm)

theorem Follows.rxPut {n : Nat} {bs : List Byte} (h : Follows A σ s) : Follows A σ (rxPut s n bs) := h.setStrm.setRx

theorem Follows.deliver {n : Nat} {pk : HeldPkt} (h : Follows A σ s) (hm : A.stores = true) : Follows A σ (deliver s n pk) := by
  unfold Machine.deliver
  dsimp only
  split
  · exact .setStrm (.ite h.setStrm h.setStrm.openAu)
  · exact (Follows.rxPut (.setStrm (.setStrm (.ite h.setStrm h.setStrm.openAu)))).andThen fun h1 =>
      .ite (h1.dropAu hm) (.ite (h1.dropAu hm) (.ite (h1.dropAu hm) (h1.judgeAu hm)))

theorem Follows.deliverHeld {n k : Nat} (h : Follows A σ s) (hm : A.stores = true) : Follows A σ (deliverHeld n k s) := by
  induction k generalizing s with
  | zero => exact h
  | succ k ih =>
    unfold Machine.deliverHeld
    extract_lets z
    split
    · exact h
    · exact .ite (ih (h.setStrm.deliver hm)) h

theorem Follows.deliverAll {n : Nat} (h : Follows A σ s) (hm : A.stores = true) : Follows A σ (deliverAll s n) := h.deliverHeld hm

theorem Follows.restart {n : Nat} {pk : HeldPkt} (h : Follows A σ s) (hm : A.stores = true) : Follows A σ (restart s n pk) := by
  unfold Machine.restart
  dsimp only
  refine .deliver ?_ hm
  refine .resync ?_
  refine .strErr ?_
  split
  · exact h.setStrm
  · exact .ite h.setStrm (h.setStrm.dropAu hm)

theorem Follows.rtpPacket {n : Nat} {p : RtpPkt} (h : Follows A σ s) (hm : A.stores = true) :
    Follows A σ (rtpPacket s n p) :=
  .ite ((h.setStrm.setStrm.deliver hm).deliverAll hm)
    (.ite (h.setStrm.restart hm)
      (.ite ((h.setStrm.setStrm.deliver hm).deliverAll hm)
        (.ite (.ite h.setStrm.setStrm.bump (h.setStrm.setStrm.andThen fun h1 => .ite h1.bump h1))
          (.ite (h.setStrm.restart hm) (.ite (h.setStrm.restart hm) h.setStrm.setStrm.bump)))))

theorem Follows.loseGap {n : Nat} {x : Strm} {pk : HeldPkt} (h : Follows A σ s) (hm : A.stores = true) :
    Follows A σ (loseGap s n x pk) := by
  unfold Machine.loseGap
  dsimp only
  refine .deliverAll ?_ hm
  split
  · exact h.setStrm.bumpBy
  · exact .ite h.setStrm.bumpBy (h.setStrm.bumpBy.dropAu hm)

theorem Follows.execGapTimeout {t : Time} {n : Fin 512} (h : Follows A σ s) (hm : A.stores = true) : Ends A σ (execGapTimeout t n s) := by
  unfold Machine.execGapTimeout
  dsimp only
  refine .next ?_
  split
  · exact h.advance
  · exact .ite (h.advance.loseGap hm) h.advance

theorem Follows.idleAu {n ctr : Nat} (h : Follows A σ s) (hm : A.stores = true) : Follows A σ (idleAu n s ctr) := by
  unfold Machine.idleAu
  split
  · exact h
  · exact .ite h (h.dropAu hm)

theorem Follows.execAuIdleTimeout {t : Time} {n : Fin 512} (h : Follows A σ s) (hm : A.stores = true) :
    Ends A σ (execAuIdleTimeout t n s) :=
  .next (.ite h.advance ((Follows.foldl h.advance fun _ _ h => h.idleAu hm).andThen fun h1 => .ite h1.resync h1))

theorem Follows.execAuComplete {t : Time} {n : Fin 512} (h : Follows A σ s) : Ends A σ (execAuComplete t n s) := by
  unfold Machine.execAuComplete
  dsimp only
  refine .next ?_
  split
  · exact h.advance
  · exact h.advance.setStrm

theorem Follows.rxCount {p o : Nat} (h : Follows A σ s) : Follows A σ (rxCount s p o) := h.bump

theorem Follows.mgmtPut {p : Nat} {f : RxFrame} (h : Follows A σ s) : Follows A σ (mgmtPut s p f) := .ite h.rxCount (h.alike (by rfl))

theorem Follows.rxUdp {p : Nat} {u : Udp} {f : RxFrame} (h : Follows A σ s) (hm : A.stores = true) : Yields A σ (rxUdp s p u f) := by
  unfold Machine.rxUdp
  dsimp only
  split
  · exact .some (h.rtpPacket hm)
  · split
    · exact .some (h.rxCount)
    · split
      · exact .none
      · split
        · exact .none
        · exact .some (h.setStrm.mgmtPut)

theorem Follows.rxCamera {p : Nat} {e : Eth} {f : RxFrame} (h : Follows A σ s) (hm : A.stores = true) : Follows A σ (rxCamera s p e f) := by
  unfold Machine.rxCamera
  dsimp only
  split
  · exact .ite h.mgmtPut h
  · split
    · exact (h.rxUdp hm).getD (.ite h.mgmtPut h.rxCount)
    · exact .ite h.mgmtPut h.rxCount

theorem Follows.rxFrame {p : Nat} {f : RxFrame} (h : Follows A σ s) (hm : A.stores = true) :
    Follows A σ (rxFrame s p f) :=
  .ite h ((h.rxMove hm).rxCount.andThen fun h1 =>
    .ite h1.rxCount (.ite h1
      (.ite h1.rxCount (.ite h1.rxCount (.ite h1.rxCount (.ite h1.rxCount (.ite (.ite h1 h1.rxCount) (h1.rxCamera hm))))))))

theorem Follows.execRxFrame {t : Time} {p : Fin 8} {f : RxFrame} (h : Follows A σ s) (hm : A.stores = true) :
    Ends A σ (execRxFrame t p f s) := .next (h.advance.rxFrame hm)

theorem Follows.execEthLinkDown {t : Time} {p : Fin 8} (h : Follows A σ s) :
    Ends A σ (execEthLinkDown t p s) := .next (.ite h.advance.setFlag.bump h.advance)

theorem Follows.execEthLinkUp {t : Time} {p : Fin 8} (h : Follows A σ s) :
    Ends A σ (execEthLinkUp t p s) := .next (.ite h.advance.setFlag h.advance)

theorem Follows.execDecodeStart {t : Time} {e : Fin 32} (h : Follows A σ s) (hm : A.stores = true) : Ends A σ (execDecodeStart t e s) := by
  unfold Machine.execDecodeStart
  dsimp only
  refine .next ?_
  split
  · exact h.advance
  · split
    · exact h.advance
    · exact ((h.advance.rxFlush hm).alike (by rfl)).setStrm

theorem Follows.keepSlack {n : Nat} {slack : Int} (h : Follows A σ s) : Follows A σ (keepSlack s n slack) := .ite h.wrReg h

theorem Follows.publish {n : Nat} {a : Au} {u : Nat} {nv12 : Bool} {d : DecPic} (h : Follows A σ s) (hm : A.stores = true) :
    Follows A σ (publish s n a u nv12 d) :=
  .endCheck (.notifyAll (.setStrm (.bump (.bump (.wrMem (.keepSlack (.ite (.bump (.ite h.bump h)) (.ite h.bump h))) hm)))) hm) hm

theorem Follows.decodeComplete {n ctr : Nat} {r : DecResult} (h : Follows A σ s) (hm : A.stores = true) :
    Follows A σ (decodeComplete s n ctr r) := by
  unfold Machine.decodeComplete
  dsimp only
  split
  · exact h
  · split
    · exact h
    · split
      · exact h.dropAu hm
      · exact h.bump.dropAu hm
      · exact h.bump.dropAu hm
      · split
        · exact h
        · split
          · exact h.dropAu hm
          · split
            · exact h.dropAu hm
            · split
              · exact h.dropAu hm
              · split
                · exact h
                · exact h.publish hm

theorem Follows.execDecodeComplete {t : Time} {n : Fin 512} {ctr : Nat} {r : DecResult} (h : Follows A σ s) (hm : A.stores = true) :
    Ends A σ (execDecodeComplete t n ctr r s) := .next (h.advance.decodeComplete hm)

theorem Follows.noticeRelease {p : Nat} (h : Follows A σ s) :
    Follows A σ (noticeRelease s p) := .ite h (.ite h.setNring.freeNotice h.setNring.bump)

theorem Follows.execNoticeRelease {t : Time} {p : Fin 16} (h : Follows A σ s) :
    Ends A σ (execNoticeRelease t p s) := .next h.advance.noticeRelease

theorem Follows.ingPartReset {p : Nat} (h : Follows A σ s) :
    Follows A σ (ingPartReset s p) := (Follows.foldl h fun _ _ h => h.freeNotice).andThen fun h1 => .ite h1 h1.setNring

theorem Follows.refuseEntry {n bit : Nat} (h : Follows A σ s) : Follows A σ (refuseEntry s n bit) := .ite h.setFlag.setFlag h.setFlag

theorem Follows.startStream {n : Nat} (h : Follows A σ s) : Follows A σ (startStream s n) := by
  unfold Machine.startStream
  dsimp only
  split
  · exact h.refuseEntry
  · split
    · exact h.setStrm
    · exact h.refuseEntry

theorem Follows.stopStream {n : Nat} (h : Follows A σ s) (hm : A.stores = true) :
    Follows A σ (stopStream s n) := .endCheck (.foldl h.setStrm fun _ _ h => h.setStrm.bump) hm

theorem Follows.reassign {n : Nat} (h : Follows A σ s) : Follows A σ (reassign s n) := by
  unfold Machine.reassign
  dsimp only
  split
  · exact h
  · exact .ite h h.setStrm

theorem Follows.commitEntry {st0 : State} {lower : List Nat} {n : Nat} (h : Follows A σ s) (hm : A.stores = true) :
    Follows A σ (commitEntry st0 lower s n) := by
  unfold Machine.commitEntry
  extract_lets v st s1
  have hv : Follows A σ v := .ite h (.ite h.refuseEntry (.ite h.refuseEntry (.ite h.refuseEntry h)))
  have h1 : Follows A σ s1 := by
    refine .ite ?_ ?_
    · clear_value st
      split
      · exact hv.startStream
      · exact hv
      · exact .ite hv.reassign hv
    · clear_value st
      split
      · exact hv.stopStream hm
      · exact hv.stopStream hm
      · exact hv
  exact .ite h1.setFlag h1

theorem Follows.ingCommit {b : Time} (h : Follows A σ s) (hm : A.stores = true) :
    Follows A σ (ingCommit b s) := .foldl h.commitAll fun _ _ h => h.commitEntry hm

theorem Follows.writeAdj {v : Int} (h : Follows A σ s) : Follows A σ (writeAdj s v) := h.wrReg.setFlag.andThen fun h1 => .ite h1 h1.setFlag

theorem Follows.servoLock {o : Int} (h : Follows A σ s) :
    Follows A σ (servoLock s o) :=
  (Follows.ite (h.alike (by rfl)).setFlag.setFlag (h.alike (by rfl))).andThen fun h1 => .ite h1.setFlag h1

theorem Follows.ptpSync {m : PtpMsg} {gm logInt : Nat} (h : Follows A σ s) :
    Follows A σ (ptpSync s m gm logInt) :=
  .ite h ((h.alike (by rfl)).bump.setFlag.andThen fun h1 => .ite h1.wr64.setFlag.wrReg (h1.alike (by rfl)).wrReg.writeAdj.servoLock)

theorem Follows.execPtpSync {t : Time} {m : PtpMsg} {gm logInt : Nat} (h : Follows A σ s) :
    Ends A σ (execPtpSync t m gm logInt s) := .next h.advance.ptpSync

theorem Follows.ptpDelay {d : PtpDelay} (h : Follows A σ s) : Follows A σ (ptpDelay s d) := by
  unfold Machine.ptpDelay
  dsimp only
  split
  · exact h
  · exact .ite h (h.alike (by rfl)).wrReg

theorem Follows.execPtpDelayResp {t : Time} {d : PtpDelay} (h : Follows A σ s) : Ends A σ (execPtpDelayResp t d s) :=
  .next h.advance.ptpDelay

theorem Follows.ptpAnnounce {m : PtpMsg} {a : Announce} (h : Follows A σ s) : Follows A σ (ptpAnnounce s m a) :=
  .ite h (.ite (h.alike (by rfl)) (h.alike (by rfl)))

theorem Follows.execPtpAnnounce {t : Time} {an : PtpAnnounce} (h : Follows A σ s) :
    Ends A σ (execPtpAnnounce t an s) := .next h.advance.ptpAnnounce

theorem Follows.execPtpHoldover {t : Time} (h : Follows A σ s) : Ends A σ (execPtpHoldover t s) := by
  unfold Machine.execPtpHoldover
  dsimp only
  refine .next ?_
  split
  · exact h.advance
  · exact .ite h.advance (h.advance.alike (by rfl)).setFlag.setFlag

theorem Follows.loseChains {m e vc k : Nat} (h : Follows A σ s) (hm : A.stores = true) : Follows A σ (loseChains m e vc k s) := by
  induction k generalizing s with
  | zero => exact h
  | succ k ih =>
    unfold Machine.loseChains
    split
    · exact h
    · exact ih (h.setQueue.chainFault hm)

theorem Follows.execPeerUnreachable {t : Time} {m : Fin 8} (h : Follows A σ s) (hm : A.stores = true) :
    Ends A σ (execPeerUnreachable t m s) := .next (.ite h.advance (.foldl h.advance fun _ _ h => h.loseChains hm))

theorem Follows.peerBody {b : PeerBody} (h : Follows A σ s) (hm : A.stores = true) : Follows A σ (peerBody s b) := by
  unfold Machine.peerBody
  dsimp only
  split
  · split
    · split
      · exact h.wrMem hm
      · exact (h.wrMem hm).signal
    · exact h
  · exact h.chainFault hm
  · exact .ite h (h.alike (by rfl))

theorem Follows.execPeerFrame {t : Time} {p src : Fin 8} {seq : Nat} {crcOk : Bool} {b : PeerBody} (h : Follows A σ s)
    (hm : A.stores = true) :
    Ends A σ (execPeerFrame t p src seq crcOk b s) :=
  .next (.ite h.advance (h.advance.rxCount.andThen fun h1 => .ite h1 ((h1.alike (by rfl)).peerBody hm)))

theorem Follows.execPeerTimeExchange {t : Time} {p : Fin 8} {off : Int} {origin : Nat} (h : Follows A σ s) :
    Ends A σ (execPeerTimeExchange t p off origin s) :=
  .next (.ite h.advance (h.advance.alike (by rfl)).wrReg.setFlag.draw.writeAdj)

theorem Follows.gangVersion {was : Nat} {l : List Nat} (h : Follows A σ s) :
    Follows A σ (gangVersion was l s) := .ite h.setFld (.ite h h.setFld)

theorem Follows.gangBoundary {b : Time} (h : Follows A σ s) : Follows A σ (gangBoundary b s) := by
  unfold Machine.gangBoundary
  extract_lets m was inNow fit wish ins up mask g s1 s2 s3
  have h2 : Follows A σ s2 := by
    refine .ite ?_ (h.alike (by rfl))
    split
    · exact h.alike (by rfl)
    · exact (h.alike (by rfl)).wr64.setFlag
  have h3 : Follows A σ s3 := (Follows.ite h2.bootErr h2).gangVersion
  exact .ite h (.ite h3 h3.setFld.setFlag)

/-! ## Machine/Display.lean -/

theorem Follows.commitGroup {b : Time} {i : Nat} {f : State → State} (h : Follows A σ s) (hf : ∀ v, Follows A σ v → Follows A σ (f v)) :
    Follows A σ (commitGroup b i f s) := .ite h.bump (hf _ h)

theorem Follows.setDpo {d : Nat} {v : Dpo} (h : Follows A σ s) : Follows A σ (setDpo s d v) := h.alike (by rfl)

theorem Follows.dpoErr {d code : Nat} (h : Follows A σ s) : Follows A σ (dpoErr s d code) := h.setFld.noteEvent

theorem Follows.setFlipRing {d i : Nat} {r : FlipRing} (h : Follows A σ s) : Follows A σ (setFlipRing s d i r) := h.setDpo

theorem Follows.discard {d i e code : Nat} (h : Follows A σ s) : Follows A σ (discard s d i e code) := .ite h h.setFlipRing.bump.dpoErr

theorem Follows.newest {d i : Nat} {bad : List Nat} {ok : Flip → Bool} {lo k hi : Nat} (h : Follows A σ s) :
    Follows A σ (newest d i bad ok lo k hi s).2 := by
  induction k generalizing hi s with
  | zero => exact h
  | succ k ih =>
    unfold Machine.newest
    extract_lets e
    split
    · exact h
    · split
      · exact ih h.discard
      · split
        · exact h
        · exact ih h

theorem Follows.retireOne {d i : Nat} (h : Follows A σ s) :
    Follows A σ (retireOne d i s) := h.setFlipRing.signal.bump.andThen fun h1 => .ite h1 h1.bump

theorem Follows.retireAll {d i k : Nat} (h : Follows A σ s) : Follows A σ (retireAll d i k s) := by
  induction k generalizing s with
  | zero => exact h
  | succ k ih => exact .ite (ih h.retireOne) h

theorem Follows.showFlip {d i : Nat} {f : Flip} (h : Follows A σ s) : Follows A σ (showFlip s d i f) := h.setFlipRing.wrReg.setDpo

theorem Follows.takeFlip {d : Nat} {bad : List (Nat × Nat)} {i : Nat} (h : Follows A σ s) : Follows A σ (takeFlip d bad s i) := by
  unfold Machine.takeFlip
  dsimp only
  split
  · exact h
  · refine .retireAll ?_
    split
    · exact h
    · split
      · exact h.newest
      · exact h.newest.showFlip

theorem Follows.rebase {d : Nat} (h : Follows A σ s) : Follows A σ (rebase s d) := h.setDpo

theorem Follows.startLayer {s0 : State} {d i : Nat} (h : Follows A σ s) :
    Follows A σ (startLayer s0 d s i) := .ite h.setFlipRing.setDpo.wrReg.wrReg h

theorem Follows.neuralFresh {s0 : State} {d : Nat} (h : Follows A σ s) : Follows A σ (neuralFresh s0 s d) := .ite h h.setDpo

theorem Follows.dpoCommit {b : Time} {d : Nat} (h : Follows A σ s) :
    Follows A σ (dpoCommit b d s) :=
  (Follows.foldl h fun _ _ h => h.commitReg).andThen fun h1 =>
    .ite (.setFlag (.dpoErr (.foldl h fun _ _ h => h.clearStaged)))
      (.setDpo (.neuralFresh (.foldl (.setFlag (.ite h1.rebase h1)) fun _ _ h => h.startLayer)))

theorem Follows.skipIssued {d : Nat} (h : Follows A σ s) : Follows A σ (skipIssued s d) := by
  unfold Machine.skipIssued
  dsimp only
  split
  · exact h
  · exact .ite h h.bumpBy

theorem Follows.seeDone {d : Nat} (h : Follows A σ s) : Follows A σ (seeDone s d) := h.setDpo

theorem Follows.stampFlip {d : Nat} {t : Time} (h : Follows A σ s) : Follows A σ (stampFlip s d t) := h.wr64.wrReg

theorem Follows.markFlip {d : Nat} (h : Follows A σ s) : Follows A σ (markFlip s d) := .ite h.stampFlip h.setDpo

theorem Follows.showSel {d : Nat} {prev : Option Sel} (h : Follows A σ s) : Follows A σ (showSel s d prev) := by
  unfold Machine.showSel
  dsimp only
  split
  · exact h
  · split
    · exact h
    · exact .ite (.ite h h.markFlip) (.ite h h.setFlipRing.wrReg.markFlip)

theorem Follows.newFrame {d : Nat} {bad : List (Nat × Nat)} (h : Follows A σ s) :
    Follows A σ (newFrame d bad s) :=
  (Follows.foldl h.setDpo.showSel fun _ _ h => h.takeFlip).andThen fun h1 => .seeDone (.ite h1.wrReg.wr64.signal h1.wrReg.wr64)

theorem Follows.frameBoundary {d : Nat} {bad : List (Nat × Nat)} (h : Follows A σ s) :
    Follows A σ (frameBoundary s d bad) :=
  .ite h ((Follows.commitGroup h (fun _ h => h.dpoCommit)).andThen fun h1 =>
    .ite h1.setFlag (.newFrame (.skipIssued (.ite h1 h1.setDpo.setFlag.wrReg))))

theorem Follows.execDpoFrameBoundary {t : Time} {d : Fin 4} {bad : List (Nat × Nat)} (h : Follows A σ s) :
    Ends A σ (execDpoFrameBoundary t d bad s) := .next h.advance.frameBoundary

theorem Follows.lineZero {d : Nat} (h : Follows A σ s) :
    Follows A σ (lineZero s d) := (Follows.setDpo (.ite h.bump.dpoErr h)).andThen fun h1 => .ite h1.stampFlip h1

theorem Follows.scanLine {d : Nat} (h : Follows A σ s) : Follows A σ (scanLine s d) := .setDpo (.ite h.bump h)

theorem Follows.execPixelUnderrun {t : Time} {d : Fin 4} {k : Nat} (h : Follows A σ s) : Ends A σ (execPixelUnderrun t d k s) := by
  unfold Machine.execPixelUnderrun
  dsimp only
  refine .next ?_
  split
  · exact h.advance.setDpo.bump.andThen fun h1 => .ite h1 h1.bump
  · exact h.advance

theorem Follows.scaleAhead {d i n : Nat} (h : Follows A σ s) : Follows A σ (scaleAhead d i n s) := by
  induction n generalizing s with
  | zero => exact h
  | succ n ih => exact .ite h (ih h.setDpo)

theorem Follows.scaleRings {d : Nat} (h : Follows A σ s) : Follows A σ (scaleRings s d) := .foldl h.setDpo fun _ _ h => .ite h.scaleAhead h

theorem Follows.scaleLines {d : Nat} (h : Follows A σ s) : Follows A σ (scaleLines s d) := .ite h h.scaleRings

theorem Follows.addCulled {d n : Nat} (h : Follows A σ s) : Follows A σ (addCulled s d n) := h.setDpo.bumpBy

theorem Follows.scanPoison {d : Nat} {bad : List Nat} (h : Follows A σ s) : Follows A σ (scanPoison s d bad) := .ite h h.bumpBy.dpoErr

theorem Follows.dropPassed {d : Nat} (h : Follows A σ s) : Follows A σ (dropPassed s d) := h.setDpo

theorem Follows.skipRow {d i : Nat} {chroma : Bool} {bytes row : Nat} (h : Follows A σ s) :
    Follows A σ (skipRow d i chroma bytes s row) := .ite h h.setDpo.addCulled

theorem Follows.fetchSource {d i row : Nat} {bad : List Nat} (h : Follows A σ s) : Follows A σ (fetchSource s d i row bad) := by
  unfold Machine.fetchSource
  dsimp only
  split
  · exact h.dropPassed
  · exact .ite h.dropPassed
      ((Follows.foldl h.dropPassed fun _ _ h => h.skipRow).andThen fun h1 => .ite h1.skipRow h1.setDpo.scanPoison.addCulled.scaleLines)

theorem Follows.fetchNeural {d row : Nat} {bad : List Nat} (h : Follows A σ s) : Follows A σ (fetchNeural s d row bad) := by
  unfold Machine.fetchNeural
  dsimp only
  split
  · exact h.dropPassed
  · split
    · exact h.dropPassed
    · split
      · exact h.dropPassed
      · exact .ite h.dropPassed (.ite h.dropPassed.skipRow h.dropPassed.addCulled.setDpo.scanPoison)

theorem Follows.execScanLineStart {t : Time} {d : Fin 4} (h : Follows A σ s) :
    Ends A σ (execScanLineStart t d s) :=
  .next (.ite h.advance
    ((Follows.seeDone (.setDpo (.ite h.advance.scaleRings h.advance))).andThen fun h1 =>
      .ite h1 (.scaleLines (.scanLine (.ite h1.lineZero h1)))))

theorem Follows.execLineFetch {t : Time} {d : Fin 4} {src : LineSrc} {bad : List Nat} (h : Follows A σ s) :
    Ends A σ (execLineFetch t d src bad s) := by
  unfold Machine.execLineFetch
  dsimp only
  refine .next ?_
  split
  · exact h.advance
  · split
    · exact .ite h.advance.fetchSource h.advance
    · exact h.advance.fetchNeural

theorem Follows.execCoefLoadComplete {t : Time} {d : Fin 4} (h : Follows A σ s) :
    Ends A σ (execCoefLoadComplete t d s) := .next (.ite h.advance (.ite h.advance.setDpo.scaleLines h.advance.setDpo))

theorem Follows.chooseSel {d : Nat} {n : Snap} {bad : List Nat} (h : Follows A σ s) : Follows A σ (chooseSel s d n bad).2 := by
  unfold Machine.chooseSel
  dsimp only
  split
  · exact h
  · split
    · exact h.newest
    · split
      · exact h.newest
      · split
        · exact h.newest
        · exact h.newest.bump

theorem Follows.selectFrame {d f : Nat} {bad : List Nat} (h : Follows A σ s) : Follows A σ (selectFrame s d f bad) := by
  unfold Machine.selectFrame
  dsimp only
  split
  · exact h
  · exact .ite h.chooseSel.setDpo.showSel h.chooseSel.setDpo

theorem Follows.issueStripe {d k f : Nat} {q : Sel} {n : Snap} (h : Follows A σ s) (hm : A.stores = true) :
    Follows A σ (issueStripe s d k f q n) :=
  (h.wrMem hm).signal.bump.andThen fun h1 => .ite h1.setDpo h1.setDpo.setFlipRing

theorem Follows.stripeRelease {d k : Nat} {bad : List Nat} (h : Follows A σ s) (hm : A.stores = true) :
    Follows A σ (stripeRelease s d k bad) := by
  unfold Machine.stripeRelease
  dsimp only
  split
  · exact h
  · split
    · exact h
    · split
      · exact .ite h.selectFrame h
      · split
        · exact .ite h.selectFrame h
        · exact .ite (.ite h.selectFrame h) (.ite (.issueStripe (.ite h.selectFrame h) hm) (.bump (.setDpo (.ite h.selectFrame h))))

theorem Follows.execStripeRelease {t : Time} {d : Fin 4} {k : Nat} {bad : List Nat} (h : Follows A σ s) (hm : A.stores = true) :
    Ends A σ (execStripeRelease t d k bad s) := .next (.ite (h.advance.stripeRelease hm) h.advance)

theorem Follows.stripeSlack {d : Nat} {v : Int} (h : Follows A σ s) : Follows A σ (stripeSlack s d v) := .ite h.wrReg h

theorem Follows.stripeDeadline {d k : Nat} (h : Follows A σ s) : Follows A σ (stripeDeadline s d k) := by
  unfold Machine.stripeDeadline
  dsimp only
  split
  · exact h
  · split
    · exact h
    · split
      · exact h
      · split
        · exact h
        · split
          · exact h.setDpo.stripeSlack
          · exact h.setDpo.bump

theorem Follows.execStripeDeadline {t : Time} {d : Fin 4} {k : Nat} (h : Follows A σ s) :
    Ends A σ (execStripeDeadline t d k s) := .next h.advance.stripeDeadline

theorem Follows.dpoPartReset {p : Nat} (h : Follows A σ s) : Follows A σ (dpoPartReset s p) := .foldl h fun _ _ h => .ite h h.setDpo

theorem Follows.dpoTrain {d : Nat} (h : Follows A σ s) : Follows A σ (dpoTrain d s) := .ite h (.ite h.dpoErr h.setDpo.setFlag.setFlag)

theorem Follows.execDpoTrain {t : Time} {ag : Agent} {d : Fin 4} (h : Follows A σ s) :
    Ends A σ (execDpoTrain t ag d s) := .next (.onWrite h.advance (fun _ h => h.dpoTrain))

theorem Follows.execDpoTrainDone {t : Time} {d : Fin 4} {ok : Bool} (h : Follows A σ s) :
    Ends A σ (execDpoTrainDone t d ok s) :=
  .next (.ite h.advance (h.advance.setFlag.setFlag.andThen fun h1 => .ite h1 h1.dpoErr))

theorem Follows.execHpdChange {t : Time} {d : Fin 4} {up : Bool} (h : Follows A σ s) :
    Ends A σ (execHpdChange t d up s) := h.advance.setFlag.andThen fun h1 => .next (.ite h1 h1.setFlag)

theorem Follows.execIrqHpd {t : Time} {d : Fin 4} {lost : Bool} (h : Follows A σ s) :
    Ends A σ (execIrqHpd t d lost s) := .next (.ite h.advance.setFlag.dpoErr h.advance)

theorem Follows.auxGo {d : Nat} {w : Word} (h : Follows A σ s) : Follows A σ (auxGo d w s) := .ite h h.setDpo.wrReg.setFlag

theorem Follows.execAuxGo {t : Time} {ag : Agent} {d : Fin 4} {w : Word} (h : Follows A σ s) :
    Ends A σ (execAuxGo t ag d w s) := .next (.onWrite h.advance (fun _ h => h.auxGo))

theorem Follows.auxEnd {d r : Nat} (h : Follows A σ s) : Follows A σ (auxEnd s d r) := h.setFlag.setFld

theorem Follows.auxData {d : Nat} {bs : List Byte} (h : Follows A σ s) : Follows A σ (auxData s d bs) := .foldl h fun _ _ h => h.setFld

theorem Follows.execAuxReply {t : Time} {d : Fin 4} {r : AuxReply} (h : Follows A σ s) : Ends A σ (execAuxReply t d r s) := by
  unfold Machine.execAuxReply
  dsimp only
  refine .next ?_
  split
  · exact h.advance
  · split
    · exact .auxEnd (.ite h.advance.auxData h.advance)
    · exact h.advance.auxEnd
    · exact .ite h.advance.setDpo h.advance.auxEnd
    · exact h.advance.auxEnd

theorem Follows.mapContact {p x y : Nat} (h : Follows A σ s) : Follows A σ (mapContact s p x y).2 := by
  unfold Machine.mapContact
  dsimp only
  split
  · exact h.draw
  · split
    · exact h
    · exact h

theorem Follows.touchEvent {p : Nat} {bs : List Byte} {c : Nat} (h : Follows A σ s) (hm : A.stores = true) :
    Follows A σ (touchEvent p bs s c) := (h.mapContact.wrMem hm).bump.bump

theorem Follows.execUsbTouchReport {t : Time} {p : Fin 2} {bs : List Byte} (h : Follows A σ s) (hm : A.stores = true) :
    Ends A σ (execUsbTouchReport t p bs s) := .next (.ite (.foldl h.advance fun _ _ h => h.touchEvent hm) h.advance)

theorem Follows.execUsbConnectChange {t : Time} {p : Fin 2} {speed : Fin 4} {map : List Word} (h : Follows A σ s) :
    Ends A σ (execUsbConnectChange t p speed map s) :=
  h.advance.setFld.setFlag.andThen fun h1 => .next (.ite h1 (.foldl h1 fun _ _ h => h.wrReg))

/-! ## Machine/Sio.lean -/

theorem Follows.setGrp {g : Nat} {v : Grp} (h : Follows A σ s) (hs : A.safety = true) : Follows A σ (setGrp s g v) := h.withSio hs

theorem Follows.setSin {i : Nat} {v : SIn} (h : Follows A σ s) (hs : A.safety = true) : Follows A σ (setSin s i v) := h.withSio hs

theorem Follows.setSout {o : Nat} {v : SOut} (h : Follows A σ s) (hs : A.safety = true) : Follows A σ (setSout s o v) := h.withSio hs

theorem Follows.setMport {m : Nat} {v : MPort} (h : Follows A σ s) : Follows A σ (setMport s m v) := h.alike (by rfl)

theorem Follows.setMaxis {a : Nat} {v : MAxis} (h : Follows A σ s) : Follows A σ (setMaxis s a v) := h.alike (by rfl)

theorem Follows.bumpFld {off lo w : Nat} (h : Follows A σ s) : Follows A σ (bumpFld s off lo w) := h.setFld

theorem Follows.dropGroup {g : Nat} (h : Follows A σ s) : Follows A σ (dropGroup s g) := h.alike (by rfl)

theorem Follows.causeNew {g code : Nat} (h : Follows A σ s) : Follows A σ (causeNew s g code) := h.alike (by rfl)

theorem Follows.tripOne {a b : Bool} {code g : Nat} (h : Follows A σ s) (hs : A.safety = true) :
    Follows A σ (tripOne a b code s g) :=
  (Follows.ite h.wrReg.setFld.causeNew h.wrReg).andThen fun h1 => (Follows.ite h1 h1.bumpFld).andThen fun h2 =>
    .dropGroup (.setGrp (.ite h2.bumpFld h2) hs)

theorem Follows.tripGroups {a b : Bool} {code : Nat} {gs : List Nat} (h : Follows A σ s) (hs : A.safety = true) :
    Follows A σ (tripGroups a b code gs s) := .foldl h fun _ _ h => h.tripOne hs

theorem Follows.hutchStop {gs : List Nat} (h : Follows A σ s) (hs : A.safety = true) : Follows A σ (hutchStop gs s) := h.tripGroups hs

theorem Follows.updateStart (h : Follows A σ s) (hs : A.safety = true) : Follows A σ (updateStart s) :=
  (Follows.ite (h.withSio hs) h).andThen fun h1 => .ite (.ite h1 ((h1.withSio hs).tripGroups hs)) (.ite (h1.withSio hs) h1)

theorem Follows.refuseReset {g : Nat} (h : Follows A σ s) (hs : A.safety = true) : Follows A σ (refuseReset s g) := (h.setGrp hs).bumpFld

theorem Follows.requestReset {g : Nat} (h : Follows A σ s) (hs : A.safety = true) :
    Follows A σ (requestReset s g) := .ite h (.ite (h.setGrp hs) (h.refuseReset hs))

theorem Follows.groupRun {g : Nat} (h : Follows A σ s) (hs : A.safety = true) : Follows A σ (groupRun s g) := (h.setGrp hs).wrReg

theorem Follows.brakesOn (h : Follows A σ s) (hs : A.safety = true) : Follows A σ (brakesOn s) :=
  .foldl h fun _ _ h => .ite (h.setSout hs) h

theorem Follows.execLatchSet {t : Time} {g : Fin 8} {code : Fin 16} {a b : Bool} (h : Follows A σ s) (hs : A.safety = true) :
    Ends A σ (execLatchSet t g code a b s) := .next (.ite (h.advance.tripOne hs) h.advance)

theorem Follows.setDemand {i : Nat} {c : Chan} {d : Bool} (h : Follows A σ s) (hs : A.safety = true) :
    Follows A σ (setDemand s i c d) := h.setSin hs

theorem Follows.levelOn {i : Nat} {c : Chan} (h : Follows A σ s) (hs : A.safety = true) : Follows A σ (levelOn s i c) := by
  unfold Machine.levelOn
  dsimp only
  split
  · exact h.setSin hs
  · exact h.setSin hs

theorem Follows.levelOff {i : Nat} {c : Chan} (h : Follows A σ s) (hs : A.safety = true) : Follows A σ (levelOff s i c) := h.setSin hs

theorem Follows.execSafeInputDemand {t : Time} {i : Fin 8} {c : Chan} (h : Follows A σ s) (hs : A.safety = true) :
    Ends A σ (execSafeInputDemand t i c s) :=
  (h.advance.levelOn hs).andThen fun h1 =>
    .next (.ite h1 ((h1.setDemand hs).andThen fun h2 => (Follows.ite h2 h2.bump).andThen fun h3 =>
      .ite (h3.tripGroups hs) (.ite (h3.setSin hs) h3)))

theorem Follows.leaveDemand {i : Nat} {c : Chan} (h : Follows A σ s) (hs : A.safety = true) :
    Follows A σ (leaveDemand s i c) :=
  .ite (h.levelOff hs) (((h.levelOff hs).setDemand hs).andThen fun h1 => .ite h1 (h1.setSin hs))

theorem Follows.execSafeInputDemandEnd {t : Time} {i : Fin 8} {c : Chan} {both : Bool} (h : Follows A σ s) (hs : A.safety = true) :
    Ends A σ (execSafeInputDemandEnd t i c both s) :=
  (h.advance.leaveDemand hs).andThen fun h1 => .next (.ite (h1.leaveDemand hs) h1)

theorem Follows.sinFails {i : Nat} (h : Follows A σ s) (hs : A.safety = true) :
    Follows A σ (sinFails s i) := (h.setSin hs).setFlag.tripGroups hs

theorem Follows.execTestPulse {t : Time} {out : Bool} {n : Fin 8} {c : Chan} (h : Follows A σ s) (hs : A.safety = true) :
    Ends A σ (execTestPulse t out n c s) :=
  .next (.ite (.ite h.advance (h.advance.setSout hs)) (.ite h.advance (h.advance.setSin hs)))

theorem Follows.execTestPulseFault {t : Time} {i : Fin 8} {c : Chan} (h : Follows A σ s) (hs : A.safety = true) :
    Ends A σ (execTestPulseFault t i c s) := by
  unfold Machine.execTestPulseFault
  dsimp only
  refine .next ?_
  split
  · exact h.advance
  · exact .ite ((h.advance.setSin hs).sinFails hs) h.advance

theorem Follows.execDiscrepancyTimeout {t : Time} {i : Fin 8} (h : Follows A σ s) (hs : A.safety = true) :
    Ends A σ (execDiscrepancyTimeout t i s) := by
  unfold Machine.execDiscrepancyTimeout
  dsimp only
  refine .next ?_
  split
  · exact h.advance
  · exact .ite (h.advance.sinFails hs) h.advance

theorem Follows.readsBad {o : Nat} {c : Chan} (h : Follows A σ s) (hs : A.safety = true) : Follows A σ (readsBad s o c) := by
  unfold Machine.readsBad
  dsimp only
  split
  · exact h.setSout hs
  · exact h.setSout hs

theorem Follows.execOutputReadbackFault {t : Time} {o : Fin 8} {c : Chan} (h : Follows A σ s) (hs : A.safety = true) :
    Ends A σ (execOutputReadbackFault t o c s) :=
  .next (.ite h.advance ((h.advance.readsBad hs).andThen fun h1 => .ite (h1.setFlag.tripGroups hs) h1))

theorem Follows.execOutputFaultClear {t : Time} {o : Fin 8} (h : Follows A σ s) (hs : A.safety = true) :
    Ends A σ (execOutputFaultClear t o s) := .next (.ite ((h.advance.setSout hs).setFlag) h.advance)

theorem Follows.execBrakeDelayExpire {t : Time} {o : Fin 8} (h : Follows A σ s) (hs : A.safety = true) :
    Ends A σ (execBrakeDelayExpire t o s) := .next (.ite (h.advance.setSout hs) h.advance)

theorem Follows.execResetButtonRelease {t : Time} {i : Fin 8} (h : Follows A σ s) (hs : A.safety = true) :
    Ends A σ (execResetButtonRelease t i s) := by
  unfold Machine.execResetButtonRelease
  dsimp only
  refine .next ?_
  split
  · exact h.advance
  · split
    · exact h.advance.setSin hs
    · exact .ite (.foldl (h.advance.setSin hs) fun _ _ h => h.requestReset hs) (h.advance.setSin hs)

theorem Follows.sioReset {w : Word} (h : Follows A σ s) (hs : A.safety = true) :
    Follows A σ (sioReset s w) := .foldl h fun _ _ h => h.requestReset hs

theorem Follows.execSioReset {t : Time} {ag : Agent} {w : Word} (h : Follows A σ s) (hs : A.safety = true) :
    Ends A σ (execSioReset t ag w s) := .next (.onWrite h.advance (fun _ h => h.sioReset hs))

theorem Follows.execGroupResetGrant {t : Time} {g : Fin 8} {ok : Bool} (h : Follows A σ s) (hs : A.safety = true) :
    Ends A σ (execGroupResetGrant t g ok s) :=
  .next (.ite h.advance (.ite (h.advance.setGrp hs) (h.advance.refuseReset hs)))

/-! ## Machine/Hutch.lean -/

theorem Follows.setHchan {c : Chan} {v : HChan} (h : Follows A σ s) : Follows A σ (setHchan s c v) := by
  unfold Machine.setHchan
  dsimp only
  split
  · exact h.alike (by rfl)
  · exact h.alike (by rfl)

theorem Follows.modHzone {z : Nat} {f : HZone → HZone} (h : Follows A σ s) : Follows A σ (modHzone s z f) := h.alike (by rfl)

theorem Follows.hutEvent {code arg : Nat} (h : Follows A σ s) : Follows A σ (hutEvent code arg s) := h.alike (by rfl)

theorem Follows.setGold {e : Nat} {v : Gold} (h : Follows A σ s) : Follows A σ (setGold s e v) := h.alike (by rfl)

theorem Follows.statusRecord (h : Follows A σ s) (hm : A.stores = true) : Follows A σ (statusRecord s) := (h.alike (by rfl)).wrMem hm

theorem Follows.signalFb (h : Follows A σ s) : Follows A σ (signalFb s) := .foldl h fun _ _ h => h.signal

theorem Follows.superviseNow (h : Follows A σ s) (hm : A.stores = true) : Follows A σ (superviseNow s) := by
  unfold Machine.superviseNow
  extract_lets a b was s1 out _ s2
  have h1 : Follows A σ s1 := h.setFlag.setFlag.setFlag.setFlag
  clear_value s1
  have h2 : Follows A σ s2 := by
    unfold s2
    split
    · exact h1.alike (by rfl)
    · exact h1.alike (by rfl)
    · exact h1
  exact .ite h (.ite h2 (h2.statusRecord hm))

theorem Follows.beatIn {b : HutBeat} (h : Follows A σ s) : Follows A σ (beatIn s b) := .ite h (.ite h.setHchan.setHchan h.setHchan)

theorem Follows.execHeartbeat {t : Time} {b : HutBeat} (h : Follows A σ s) : Ends A σ (execHeartbeat t b s) := .next h.advance.beatIn

theorem Follows.clearDiffs (h : Follows A σ s) : Follows A σ (clearDiffs s) := h.alike (by rfl)

theorem Follows.execHeartbeatMiss {t : Time} {c : Chan} (h : Follows A σ s) (hm : A.stores = true) :
    Ends A σ (execHeartbeatMiss t c s) :=
  .next (.ite (h.advance.setHchan.clearDiffs.bump.hutEvent.superviseNow hm) h.advance)

theorem Follows.execChannelDecisionMismatch {t : Time} (h : Follows A σ s) (hs : A.safety = true) :
    Ends A σ (execChannelDecisionMismatch t s) := by
  unfold Machine.execChannelDecisionMismatch
  dsimp only
  refine .next ?_
  split
  · split
    · exact h.advance
    · exact (h.advance.clearDiffs.hutchStop hs).hutEvent
  · exact h.advance

theorem Follows.execChannelRestartDone {t : Time} {c : Chan} {ok : Bool} (h : Follows A σ s) (hm : A.stores = true) (hs : A.safety = true) :
    Ends A σ (execChannelRestartDone t c ok s) :=
  .next (.ite h.advance
    (.ite (h.advance.setHchan.clearDiffs.superviseNow hm) (.ite h.advance.setHchan ((h.advance.setHchan.hutchStop hs).superviseNow hm))))

theorem Follows.beginSupervision (h : Follows A σ s) (hs : A.safety = true) (hm : A.stores = true) :
    Follows A σ (beginSupervision s) := .ite h (((h.alike (by rfl)).superviseNow hm).updateStart hs)

theorem Follows.execSupervisionStart {t : Time} (h : Follows A σ s) (hs : A.safety = true) (hm : A.stores = true) :
    Ends A σ (execSupervisionStart t s) := .next (.ite (h.advance.beginSupervision hs hm) h.advance)

theorem Follows.execTimebaseCrosscheck {t : Time} {c : Chan} {ppm : Nat} (h : Follows A σ s) (hs : A.safety = true) :
    Ends A σ (execTimebaseCrosscheck t c ppm s) := .next (.ite ((h.advance.setHchan.hutchStop hs).hutEvent) h.advance)

theorem Follows.execProofTest {t : Time} {c : Chan} (h : Follows A σ s) (hm : A.stores = true) :
    Ends A σ (execProofTest t c s) := .next (.ite (h.advance.setHchan.clearDiffs.superviseNow hm) h.advance)

theorem Follows.execProofTestDone {t : Time} {c : Chan} (h : Follows A σ s) (hm : A.stores = true) :
    Ends A σ (execProofTestDone t c s) := .next (.ite (h.advance.setHchan.clearDiffs.bump.superviseNow hm) h.advance)

theorem Follows.restartCheck (h : Follows A σ s) (hm : A.stores = true) : Follows A σ (restartCheck s) :=
  .ite h ((h.alike (by rfl)).statusRecord hm)

theorem Follows.partReset {p : Nat} (h : Follows A σ s) (hm : A.stores = true) :
    Follows A σ (partReset s p) :=
  (h.partResetCore hm).ingPartReset.dpoPartReset.andThen fun h1 => .restartCheck (.ite (h1.alike (by rfl)) h1) hm

theorem Follows.execPartitionReset {t : Time} {p : Fin 16} (h : Follows A σ s) (hm : A.stores = true) :
    Ends A σ (execPartitionReset t p s) := .next (h.advance.partReset hm)

theorem Follows.execWriteAck {t : Time} {l : Fin 256} {tag : Nat} (h : Follows A σ s) (hm : A.stores = true) :
    Ends A σ (execWriteAck t l tag s) := .next ((h.advance.writeAck hm).restartCheck hm)

theorem Follows.execSContextLost {t : Time} {p : Fin 16} (h : Follows A σ s) (hs : A.safety = true) :
    Ends A σ (execSContextLost t p s) := .next (.ite (((h.advance.alike (by rfl)).hutchStop hs).hutEvent) h.advance)

theorem Follows.sRestart {p : Nat} (h : Follows A σ s) (hm : A.stores = true) (hs : A.safety = true) :
    Follows A σ (sRestart s p) :=
  ((((Follows.foldl (h.hutchStop hs) fun _ _ h => h.modHzone.setFld).alike (by rfl)).statusRecord hm).bump.partReset hm).hutEvent

theorem Follows.execARestart {t : Time} {p : Fin 16} (h : Follows A σ s) (hm : A.stores = true) :
    Ends A σ (execARestart t p s) :=
  .next (.ite ((((h.advance.partReset hm).alike (by rfl)).bump.statusRecord hm).signalFb.hutEvent) h.advance)

theorem Follows.execRdyTokSignal {t : Time} {p : Fin 16} (h : Follows A σ s) (hm : A.stores = true) :
    Ends A σ (execRdyTokSignal t p s) :=
  .next (.ite h.advance ((h.advance.alike (by rfl)).andThen fun h1 => .ite ((h1.setFlag.statusRecord hm).signalFb) (h1.statusRecord hm)))

theorem Follows.execALimitExpire {t : Time} {p : Fin 16} (h : Follows A σ s) : Ends A σ (execALimitExpire t p s) := by
  unfold Machine.execALimitExpire
  dsimp only
  refine .next ?_
  split
  · exact h.advance
  · exact .ite h.advance (h.advance.alike (by rfl)).hutEvent

theorem Follows.openCmps {rec64 : List Byte} (h : Follows A σ s) : Follows A σ (openCmps s rec64) :=
  .foldl h fun _ _ h => .ite h (h.alike (by rfl))

theorem Follows.openWaiting (h : Follows A σ s) : Follows A σ (openWaiting s) := .foldl h fun _ _ h => .ite h h.openCmps

theorem Follows.modCmp {z ctr : Nat} {f : Cmp → Cmp} (h : Follows A σ s) : Follows A σ (modCmp s z ctr f) := h.alike (by rfl)

theorem Follows.closeCmp {z ctr : Nat} (h : Follows A σ s) : Follows A σ (closeCmp s z ctr) := (h.alike (by rfl)).modCmp

theorem Follows.zonesInvalid {ctr : Nat} {zs : List Nat} (h : Follows A σ s) :
    Follows A σ (zonesInvalid s ctr zs) := .foldl h fun _ _ h => h.modHzone

theorem Follows.pictureRead {bad : Bool} (h : Follows A σ s) : Follows A σ (pictureRead s bad) := by
  unfold Machine.pictureRead
  dsimp only
  split
  · exact h
  · exact .ite h.freeNotice.setNring
      ((Follows.ite h.openCmps h.openCmps.zonesInvalid.bump.hutEvent).andThen fun h1 =>
        (Follows.ite (h1.alike (by rfl)) h1).andThen fun h2 => .setNring (.freeNotice (.ite h2 (h2.alike (by rfl)))))

theorem Follows.execHutchPictureRead {t : Time} {bad : Bool} (h : Follows A σ s) :
    Ends A σ (execHutchPictureRead t bad s) := .next (.ite h.advance.pictureRead h.advance)

theorem Follows.execCheckerResult {t : Time} {z : Fin 16} {present : Bool} (h : Follows A σ s) :
    Ends A σ (execCheckerResult t z present s) := by
  unfold Machine.execCheckerResult
  dsimp only
  refine .next ?_
  split
  · exact h.advance
  · split
    · exact h.advance
    · exact .ite h.advance (h.advance.alike (by rfl)).modHzone.modCmp

theorem Follows.zoneReport {m : Nat} (h : Follows A σ s) : Follows A σ (zoneReport s m) := by
  unfold Machine.zoneReport
  dsimp only
  split
  · exact h
  · exact .ite h (.ite (h.alike (by rfl)).hutEvent (h.alike (by rfl)).openWaiting.modCmp)

theorem Follows.execZoneReport {t : Time} {m : Fin 2} (h : Follows A σ s) :
    Ends A σ (execZoneReport t m s) := .next (.ite h.advance.zoneReport h.advance)

theorem Follows.zoneOutcome {z ctr cap : Nat} {agree : Bool} (h : Follows A σ s) :
    Follows A σ (zoneOutcome s z ctr cap agree) := h.modHzone.setFld.andThen fun h1 => .ite h1.wrReg h1

theorem Follows.zoneCompare {z ctr : Nat} (h : Follows A σ s) (hm : A.stores = true) (hs : A.safety = true) :
    Follows A σ (zoneCompare s z ctr) := by
  unfold Machine.zoneCompare
  dsimp only
  split
  · exact h
  · split
    · exact h.closeCmp.zoneOutcome.andThen fun h1 => .ite h1 (h1.bump.bump.hutEvent.andThen fun h2 => .ite (h2.sRestart hm hs) h2)
    · exact h

theorem Follows.execZoneCompare {t : Time} {z : Fin 16} {ctr : Nat} (h : Follows A σ s) (hm : A.stores = true) (hs : A.safety = true) :
    Ends A σ (execZoneCompare t z ctr s) := .next (h.advance.zoneCompare hm hs)

theorem Follows.execCmpBudgetExpire {t : Time} {z : Fin 16} {ctr : Nat} (h : Follows A σ s) : Ends A σ (execCmpBudgetExpire t z ctr s) := by
  unfold Machine.execCmpBudgetExpire
  dsimp only
  refine .next ?_
  split
  · exact h.advance
  · exact .ite h.advance h.advance.openWaiting.closeCmp.zonesInvalid.bump.hutEvent

theorem Follows.execZoneAgeExpire {t : Time} {z : Fin 16} (h : Follows A σ s) :
    Ends A σ (execZoneAgeExpire t z s) := .next (.ite h.advance.modHzone h.advance)

theorem Follows.takeGold {l : Nat} (h : Follows A σ s) : Follows A σ (takeGold s l) := h.setCore

theorem Follows.dropGold {l : Nat} (h : Follows A σ s) : Follows A σ (dropGold s l) := h.setCore

theorem Follows.dropFoot {c : Nat} (h : Follows A σ s) : Follows A σ (dropFoot s c) := .ite h.setCl h

theorem Follows.stallReady {l : Nat} {from_ : Time} (h : Follows A σ s) : Follows A σ (stallReady s l from_) := by
  unfold Machine.stallReady
  dsimp only
  split
  · exact h
  · split
    · exact h
    · exact h.setSlot

theorem Follows.leaveGold {e : GoldEngine} (h : Follows A σ s) : Follows A σ (leaveGold s e) := by
  unfold Machine.leaveGold
  split
  · exact h.dropGold
  · exact .ite h.dropFoot.fsStart h
  · exact h

theorem Follows.goldFrame {key : Nat} (h : Follows A σ s) : Follows A σ (goldFrame s key) := h.setGold

theorem Follows.goldenFrames {k : Nat} (h : Follows A σ s) :
    Follows A σ (goldenFrames k s) := .foldl h fun _ _ h => .ite (.foldl h fun _ _ h => h.goldFrame) h

theorem Follows.execGoldenRunStart {t : Time} {x : GoldStart} (h : Follows A σ s) : Ends A σ (execGoldenRunStart t x s) := by
  unfold Machine.execGoldenRunStart
  extract_lets v e g due s1
  have hv : Follows A σ v := h.advance
  have h1 : Follows A σ s1 := hv.setGold
  refine .next (.ite hv ?_)
  clear_value e
  split
  · exact h1.takeGold
  · exact h1

theorem Follows.execGoldenRunAbandon {t : Time} {e : GoldEngine} (h : Follows A σ s) : Ends A σ (execGoldenRunAbandon t e s) := by
  unfold Machine.execGoldenRunAbandon
  dsimp only
  refine .next ?_
  split
  · exact h.advance
  · split
    · exact h.advance
    · refine .leaveGold ?_
      refine .setGold ?_
      split
      · exact h.advance.stallReady
      · exact h.advance

theorem Follows.unvRecord {old : State} {e : GoldEngine} (h : Follows A σ s) (hm : A.stores = true) : Follows A σ (unvRecord old s e) := by
  unfold Machine.unvRecord
  split
  · exact h
  · split
    · exact .ite (h.statusRecord hm) h
    · exact h

theorem Follows.goldConfirmed {e : GoldEngine} (h : Follows A σ s) (hm : A.stores = true) : Follows A σ (goldConfirmed s e) := by
  unfold Machine.goldConfirmed
  split
  · exact h.coreRetire hm
  · exact h.fsEnd
  · exact h.spareFail

theorem Follows.goldResult {key : Nat} {ok : Bool} {confirm : State → State} (h : Follows A σ s)
    (hconfirm : ∀ v, Follows A σ v → Follows A σ (confirm v)) :
    Follows A σ (goldResult s key ok confirm) :=
  .ite (.ite h.setGold.bump h.setGold) (.ite ((hconfirm _ h.setGold.bump).hutEvent) h.setGold.bump.hutEvent)

theorem Follows.execGoldenRunComplete {t : Time} {e : GoldEngine} {sig : Word} (h : Follows A σ s) (hm : A.stores = true) :
    Ends A σ (execGoldenRunComplete t e sig s) := by
  unfold Machine.execGoldenRunComplete
  dsimp only
  refine .next ?_
  split
  · exact .ite h.advance h.advance.setGold
  · split
    · exact .unvRecord (.goldResult (.dropGold (.stallReady (.ite h.advance h.advance.setGold))) (fun _ h => h.goldConfirmed hm)) hm
    · exact .ite (.ite h.advance h.advance.setGold)
        ((Follows.unvRecord (.goldResult (.dropFoot (.ite h.advance h.advance.setGold))
          (fun _ h => h.goldConfirmed hm)) hm).andThen fun h1 => .ite h1 h1.fsStart)
    · exact (Follows.goldResult (.ite h.advance h.advance.setGold) (fun _ h => h.goldConfirmed hm)).andThen fun h1 => .ite h1.setCl h1

theorem Follows.execGoldenFrameEnd {t : Time} {e : GoldEngine} (h : Follows A σ s) (hm : A.stores = true) :
    Ends A σ (execGoldenFrameEnd t e s) :=
  .next (.ite h.advance (h.advance.setGold.bump.andThen fun h1 => .unvRecord (.ite h1.hutEvent h1) hm))

theorem Follows.execCheckerGoldenCrop {t : Time} {ok : Bool} (h : Follows A σ s) :
    Ends A σ (execCheckerGoldenCrop t ok s) := .next (.ite (.goldResult h.advance (fun _ h => h)) h.advance)

theorem Follows.mbResult {r : Nat} (h : Follows A σ s) : Follows A σ (mbResult s r) := h.setFld

theorem Follows.mbKick (h : Follows A σ s) : Follows A σ (mbKick s) := (h.alike (by rfl)).mbResult

theorem Follows.mbStop (h : Follows A σ s) (hs : A.safety = true) : Follows A σ (mbStop s) := (h.hutchStop hs).mbResult

theorem Follows.mbInvalidate (h : Follows A σ s) :
    Follows A σ (mbInvalidate s) := .ite h.mbResult (.mbResult (.foldl h fun _ _ h => h.modHzone))

theorem Follows.mbRead (h : Follows A σ s) : Follows A σ (mbRead s) := by
  unfold Machine.mbRead
  dsimp only
  split
  · exact h.mbResult
  · exact .mbResult (.foldl h fun _ _ h => h.wrReg)

theorem Follows.mbReject (h : Follows A σ s) : Follows A σ (mbReject s) := h.mbResult.bump

theorem Follows.mbSend (h : Follows A σ s) (hs : A.safety = true) : Follows A σ (mbSend s) := by
  unfold Machine.mbSend
  split
  · exact h.mbKick
  · exact h.mbStop hs
  · exact h.mbInvalidate
  · exact h.mbRead
  · exact h.mbReject

theorem Follows.execKick {t : Time} {ag : Agent} (h : Follows A σ s) :
    Ends A σ (execKick t ag s) := .next (.onWrite h.advance (fun _ h => .ite h.mbKick h))

theorem Follows.execStopGroups {t : Time} {ag : Agent} (h : Follows A σ s) (hs : A.safety = true) :
    Ends A σ (execStopGroups t ag s) := .next (.onWrite h.advance (fun _ h => .ite (h.mbStop hs) h))

theorem Follows.execInvalidateZones {t : Time} {ag : Agent} (h : Follows A σ s) :
    Ends A σ (execInvalidateZones t ag s) := .next (.onWrite h.advance (fun _ h => .ite h.mbInvalidate h))

theorem Follows.execReadEvent {t : Time} {ag : Agent} (h : Follows A σ s) :
    Ends A σ (execReadEvent t ag s) := .next (.onWrite h.advance (fun _ h => .ite h.mbRead h))

theorem Follows.execHutchMailboxReject {t : Time} {ag : Agent} (h : Follows A σ s) :
    Ends A σ (execHutchMailboxReject t ag s) := .next (.onWrite h.advance (fun _ h => .ite h.mbReject h))

theorem Follows.execInvalidateZonesExpire {t : Time} (h : Follows A σ s) : Ends A σ (execInvalidateZonesExpire t s) :=
  .next (h.advance.alike (by rfl))

/-! ## Machine/Motion.lean -/

theorem Follows.motErr {code : Nat} (h : Follows A σ s) : Follows A σ (motErr s code) := h.setFld.noteEvent

theorem Follows.readHead {m e : Nat} (h : Follows A σ s) : Follows A σ (readHead m s e) :=
  .ite h.bump.motErr (.ite h.bump h.setMport.bumpBy)

theorem Follows.setSignal {m : Nat} (h : Follows A σ s) :
    Follows A σ (setSignal s m) := .ite h (.ite h (.setMport (.foldl h fun _ _ h => h.readHead)))

theorem Follows.execCommandSetSignal {t : Time} {m : Fin 2} (h : Follows A σ s) :
    Ends A σ (execCommandSetSignal t m s) := .next h.advance.setSignal

theorem Follows.takeSet {n m : Nat} (h : Follows A σ s) (hs : A.safety = true) : Follows A σ (takeSet n s m) := by
  unfold Machine.takeSet
  dsimp only
  split
  · exact .tripGroups (.setMport (.ite h.bumpBy.wrReg h.bumpBy)) hs
  · exact h.bumpBy.bump.bump.setMport.andThen fun h1 => .ite (h1.tripGroups hs) h1

theorem Follows.drawBytes {n : Nat} (h : Follows A σ s) : Follows A σ (drawBytes n s).2 := by
  induction n generalizing s with
  | zero => exact h
  | succ n ih => exact ih h.draw

theorem Follows.inputSet {m cycle : Nat} {valid : Bool} {im bitmap : List Byte} {recv : Nat} (h : Follows A σ s) (hm : A.stores = true) :
    Follows A σ (inputSet s m cycle valid im bitmap recv) := .ite h ((h.wrMem hm).signal)

theorem Follows.finishAxis {x : Tx} {e : Nat × Nat × Nat × Nat} (h : Follows A σ s) : Follows A σ (finishAxis x s e) := h.setMaxis

theorem Follows.finishTx {m : Nat} (h : Follows A σ s) : Follows A σ (finishTx s m) := by
  unfold Machine.finishTx
  dsimp only
  split
  · exact h
  · exact .ite h.setMport (.foldl h.setMport fun _ _ h => h.finishAxis)

theorem Follows.invalidInputs {m : Nat} (h : Follows A σ s) (hs : A.safety = true) :
    Follows A σ (invalidInputs s m) := .ite (h.setMport.tripGroups hs) h.setMport

theorem Follows.frameLost {m : Nat} (h : Follows A σ s) (hm : A.stores = true) (hs : A.safety = true) : Follows A σ (frameLost s m) := by
  unfold Machine.frameLost
  dsimp only
  split
  · exact h
  · exact (h.bump.finishTx.setMport.invalidInputs hs).drawBytes.draw.inputSet hm

theorem Follows.keepPos {i : InSet} {a : Nat} (h : Follows A σ s) : Follows A σ (keepPos i s a) := h.setMaxis

theorem Follows.frameReturn {m : Nat} {broken : Bool} {x : FrameCopy} {y : Option FrameCopy} (h : Follows A σ s) (hm : A.stores = true)
    (hs : A.safety = true) :
    Follows A σ (frameReturn s m broken x y) := by
  unfold Machine.frameReturn
  dsimp only
  split
  · exact h
  · split
    · exact h
    · exact .ite h ((Follows.ite h.setFld h).andThen fun h1 =>
        .ite (h1.frameLost hm hs)
          ((Follows.ite (.foldl h1.finishTx.setMport fun _ _ h => h.keepPos) (h1.finishTx.setMport.bump.invalidInputs hs)).andThen fun h2 =>
            .inputSet (.ite h2.bump h2) hm))

theorem Follows.execFrameReturn {t : Time} {m : Fin 2} {broken : Bool} {x : FrameCopy} {y : Option FrameCopy} (h : Follows A σ s)
    (hm : A.stores = true) (hs : A.safety = true) :
    Ends A σ (execFrameReturn t m broken x y s) := .next (h.advance.frameReturn hm hs)

theorem Follows.execFrameLossTimeout {t : Time} {m : Fin 2} (h : Follows A σ s) (hm : A.stores = true) (hs : A.safety = true) :
    Ends A σ (execFrameLossTimeout t m s) := by
  unfold Machine.execFrameLossTimeout
  dsimp only
  refine .next ?_
  split
  · exact h.advance
  · exact .ite (h.advance.frameLost hm hs) h.advance

theorem Follows.execMotLinkChange {t : Time} {m : Fin 2} {up : Bool} (h : Follows A σ s) :
    Ends A σ (execMotLinkChange t m up s) := h.advance.setFlag.andThen fun h1 => .next (.ite h1.setFld h1)

theorem Follows.showZone {sets : List (Nat × Option (List Byte))} {z : Nat} (h : Follows A σ s) : Follows A σ (showZone sets s z) := by
  unfold Machine.showZone
  dsimp only
  split
  · refine .bump ?_
    refine .setFlag ?_
    split
    · exact h.setFld
    · exact h.setFld.setFld
  · refine .setFlag ?_
    split
    · exact h.setFld
    · exact h.setFld.setFld

theorem Follows.lastPos {a : Nat} (h : Follows A σ s) : Follows A σ (lastPos s a).2 := by
  unfold Machine.lastPos
  dsimp only
  split
  · exact h
  · exact h.draw

theorem Follows.axisCycle {b : Option (List Byte)} {act : Option InSet} {a : Nat} (h : Follows A σ s) (hs : A.safety = true) :
    Follows A σ (axisCycle b act s a) := by
  unfold Machine.axisCycle
  dsimp only
  refine .foldl ?_ fun _ _ h => ?_
  · refine .setMaxis ?_
    refine .wrReg ?_
    split
    · exact h.lastPos
    · exact h
  · exact h.bump.setFld.tripOne hs

theorem Follows.groupGrant {g : Nat} (h : Follows A σ s) (hs : A.safety = true) :
    Follows A σ (groupGrant s g) :=
  .ite h (.ite (.foldl (h.groupRun hs) fun _ _ h => .ite h.setMaxis h) (h.refuseReset hs))

theorem Follows.emission (h : Follows A σ s) (hs : A.safety = true) (hm : A.stores = true) : Follows A σ (emission s) := by
  unfold Machine.emission
  extract_lets n ports s1 sets acts s2 s3 s4 s5 s6
  have h1 : Follows A σ s1 := .updateStart (.foldl h fun _ _ h => h.frameLost hm hs) hs
  have h2 : Follows A σ s2 := .foldl h1 fun _ _ h => h.takeSet hs
  have h3 : Follows A σ s3 := .brakesOn (.foldl h2 fun _ _ h => h.groupGrant hs) hs
  have h4 : Follows A σ s4 := .foldl h3 fun _ _ h => h.showZone
  have h5 : Follows A σ s5 := .foldl h4 fun _ _ h => .foldl h fun _ _ h => h.axisCycle hs
  have h6 : Follows A σ s6 := .foldl h5 fun _ _ h => h.setMport
  clear_value s6
  exact (h6.alike (by rfl)).wr64

theorem Follows.execEmissionPoint {t : Time} (h : Follows A σ s) (hs : A.safety = true) (hm : A.stores = true) :
    Ends A σ (execEmissionPoint t s) := .next (.ite (h.advance.emission hs hm) h.advance)

theorem Follows.chanBCheck {x : Tx} {inp : Option InSet} {e : Nat × Nat × Nat × Nat} (h : Follows A σ s) (hs : A.safety = true) :
    Follows A σ (chanBCheck x inp s e) := .ite (h.tripOne hs) h

theorem Follows.frameSend {m : Nat} {ac : List Dgram} (h : Follows A σ s) (hs : A.safety = true) : Follows A σ (frameSend s m ac) := by
  unfold Machine.frameSend
  dsimp only
  split
  · exact h
  · exact .ite h (.setMport (.foldl (.setMport (.drawBytes (.foldl h fun _ _ h => h.dropGroup))) fun _ _ h => h.chanBCheck hs))

theorem Follows.execFrameSend {t : Time} {x : FrameOut} (h : Follows A σ s) (hs : A.safety = true) :
    Ends A σ (execFrameSend t x s) := .next (h.advance.frameSend hs)

theorem Follows.commitRun {b : Time} (h : Follows A σ s) : Follows A σ (commitRun b s) := by
  unfold Machine.commitRun
  extract_lets was v m s1 n
  have hv : Follows A σ v := h.commitReg
  clear_value v
  have h1 : Follows A σ s1 := by
    unfold s1
    split
    · exact hv
    · exact (hv.alike (by rfl)).wr64
  clear_value s1
  exact .ite hv.setFlag (.ite hv.setFlag.motErr (h1.alike (by rfl)).setFlag)

theorem Follows.commitPort {b : Time} {m : Nat} (h : Follows A σ s) : Follows A σ (commitPort b s m) := by
  unfold Machine.commitPort
  extract_lets old v new same
  have hv : Follows A σ v := .foldl h fun _ _ h => h.commitReg
  clear_value v
  exact .ite hv (.ite hv.setMport.zringBase (hv.alike (by rfl)))

theorem Follows.clampAxis {a : Nat} (h : Follows A σ s) : Follows A σ (clampAxis s a).1 := .setFld (.foldl h fun _ _ h => h.wrReg)

theorem Follows.commitAxis {b : Time} {a : Nat} (h : Follows A σ s) :
    Follows A σ (commitAxis b s a) :=
  .ite h ((Follows.foldl h fun _ _ h => h.commitReg).andThen fun h1 =>
    .ite (.motErr (.foldl h1 fun _ _ h => h.wrReg)) ((Follows.ite h1.clampAxis.setFlag h1.clampAxis).andThen fun h2 => .ite h2.setMaxis h2))

theorem Follows.motCommit {b : Time} (h : Follows A σ s) :
    Follows A σ (motCommit b s) :=
  .foldl (.foldl h.commitReg.commitRun fun _ _ h => h.commitPort) fun _ _ h => h.commitAxis

/-! ## Machine/Bureau.lean -/

theorem Follows.burStatus {i : Nat} {b : Bool} (h : Follows A σ s) : Follows A σ (burStatus s i b) := h.setFlag

theorem Follows.burShow (h : Follows A σ s) :
    Follows A σ (burShow s) := .burStatus (.burStatus (.foldl (.foldl h fun _ _ h => h.setFld) fun _ _ h => h.setFld))

theorem Follows.setLadder {r v : Nat} (h : Follows A σ s) : Follows A σ (setLadder s r v) := h.alike (by rfl)

theorem Follows.setCap {r v : Nat} (h : Follows A σ s) : Follows A σ (setCap s r v) := h.alike (by rfl)

theorem Follows.floorOne {p : Nat} (h : Follows A σ s) : Follows A σ (floorOne s p) := by
  unfold Machine.floorOne
  dsimp only
  split
  · exact (h.alike (by rfl)).bump.burStatus
  · exact h
  · exact .ite (h.alike (by rfl)).bump.burStatus (h.alike (by rfl))
  · exact h
  · exact h.alike (by rfl)
  · exact .ite (h.alike (by rfl)) h

theorem Follows.floorCheck (h : Follows A σ s) : Follows A σ (floorCheck s) := .foldl h fun _ _ h => h.floorOne

theorem Follows.abortImage (h : Follows A σ s) : Follows A σ (abortImage s) := by
  unfold Machine.abortImage
  split
  · exact h
  · exact (h.withFlash (cellsWf_msets _ _ _ _)).alike (by rfl)

theorem Follows.clearMain {all on : Bool} (h : Follows A σ s) (hm : A.stores = true) : Follows A σ (clearMain all on s) :=
  (h.abortImage.withMem hm (cellsWf_filter _ _ _)).alike (by rfl)

theorem Follows.holdStart (h : Follows A σ s) (hs : A.safety = true) : Follows A σ (holdStart s) :=
  (Follows.ite h (h.tripGroups hs)).withSio hs

theorem Follows.powerDown (h : Follows A σ s) (hs : A.safety = true) (hm : A.stores = true) : Follows A σ (powerDown s) := by
  unfold Machine.powerDown
  extract_lets s1 s2 _ b _ _ s3
  have h1 : Follows A σ s1 := h.hutchStop hs
  clear_value s1
  have h2 : Follows A σ s2 := .holdStart (.clearMain (h1.withMem hm fun _ => rfl) hm) hs
  clear_value s2
  have h3 : Follows A σ s3 := .burShow (h2.alike (by rfl))
  exact h3.setFld

theorem Follows.execPowerDown {t : Time} {why : PowerLoss} (h : Follows A σ s) (hs : A.safety = true) (hm : A.stores = true) :
    Ends A σ (execPowerDown t why s) := by
  unfold Machine.execPowerDown
  extract_lets v b s1 b1 s2
  have hv : Follows A σ v := h.advance
  have h1 : Follows A σ s1 := hv.powerDown hs hm
  clear_value v s1
  have h2 : Follows A σ s2 := h1.alike (by rfl)
  refine .next (.ite hv ?_)
  split
  · exact .ite hv (.powerDown (hv.alike (by rfl)) hs hm)
  · exact h2.burStatus.wrReg

theorem Follows.execVinRestore {t : Time} (h : Follows A σ s) : Ends A σ (execVinRestore t s) :=
  .next (.ite (h.advance.alike (by rfl)) h.advance)

theorem Follows.powerOn {on vin : Bool} (h : Follows A σ s) (hm : A.stores = true) (hs : A.safety = true) (hv : A.supply = true) :
    Follows A σ (powerOn on vin s) := by
  unfold Machine.powerOn
  extract_lets s1
  have h1 : Follows A σ s1 := .clearMain (h.withMem hm fun _ => rfl) hm
  exact h1.step rfl (fun e => by simp [hv] at e) (fun _ => rfl) (fun e => by simp [hs] at e) id

theorem Follows.execPowerOn {t : Time} {vin : Bool} (h : Follows A σ s) (hm : A.stores = true) (hs : A.safety = true)
    (hv : A.supply = true) :
    Ends A σ (execPowerOn t vin s) := .next ((h.advance.powerOn hm hs hv).wrReg)

theorem Follows.execVstby3v3Loss {t : Time} (h : Follows A σ s) (hm : A.stores = true) (hs : A.safety = true) (hv : A.supply = true) :
    Ends A σ (execVstby3v3Loss t s) := .next ((h.advance.powerOn hm hs hv).wrReg)

theorem Follows.execRailSequenceStep {t : Time} {ok : Bool} {r : Fin 12} {status : Word} (h : Follows A σ s) (hs : A.safety = true)
    (hm : A.stores = true) : Ends A σ (execRailSequenceStep t ok r status s) := by
  unfold Machine.execRailSequenceStep
  extract_lets v n s1 b s2 b3 s3 s4
  have hv : Follows A σ v := h.advance
  have h1 : Follows A σ s1 := hv.powerDown hs hm
  clear_value v s1
  have h2 : Follows A σ s2 := h1.alike (by rfl)
  have h3 : Follows A σ s3 := hv.alike (by rfl)
  clear_value s2 s3
  have h4 : Follows A σ s4 := .ite (h3.alike (by rfl)) h3
  clear_value s4
  exact .next (.ite hv (.ite (.ite hv h2.burStatus.wrReg) (Follows.ite (h4.alike (by rfl)) h4).burShow))

theorem Follows.execSensorSample {t : Time} {vals rates : List Nat} (h : Follows A σ s) (hs : A.safety = true) (hm : A.stores = true) :
    Ends A σ (execSensorSample t vals rates s) := by
  unfold Machine.execSensorSample
  extract_lets v s1 s2 s3 s4 _ s5 s6
  have hv : Follows A σ v := h.advance
  have h1 : Follows A σ s1 := .foldl hv fun _ _ h => h.setFld
  have h2 : Follows A σ s2 := .foldl h1 fun _ _ h => h.setFld.setFld
  have h3 : Follows A σ s3 := .foldl h2 fun _ _ h => h.setFld
  have h4 : Follows A σ s4 := .foldl h3 fun _ _ h => h.setFld
  clear_value s4
  have h5 : Follows A σ s5 := h4.alike (by rfl)
  have h6 : Follows A σ s6 := h5.powerDown hs hm
  clear_value s6
  exact .next (.ite hv (.ite (h6.alike (by rfl)).burStatus h5.floorCheck))

theorem Follows.ladderRail {r : Nat} (h : Follows A σ s) : Follows A σ (ladderRail s r) := by
  unfold Machine.ladderRail
  dsimp only
  split
  · exact h.setLadder.bump.andThen fun h1 => .ite h1 h1.bump.burStatus
  · split
    · exact h.alike (by rfl)
    · split
      · exact h.setLadder.bump
      · split
        · split
          · exact .ite h.setLadder (.ite (h.alike (by rfl)) h.setLadder)
          · exact h.alike (by rfl)
        · exact h

theorem Follows.hotCheck (h : Follows A σ s) : Follows A σ (hotCheck s) := .ite h.burStatus h

theorem Follows.execLadderStep {t : Time} (h : Follows A σ s) :
    Ends A σ (execLadderStep t s) :=
  .next (.ite h.advance (.floorCheck (.burShow (.hotCheck (.foldl (h.advance.alike (by rfl)) fun _ _ h => h.ladderRail)))))

theorem Follows.capDown (h : Follows A σ s) : Follows A σ (capDown s) :=
  .ite (.foldl h fun _ _ h => h.setCap.bump) (.ite (h.alike (by rfl)) h.bump)

theorem Follows.capUp (h : Follows A σ s) : Follows A σ (capUp s) := .ite (h.alike (by rfl)) (.foldl h fun _ _ h => h.setCap)

theorem Follows.execCapStep {t : Time} {avg : Nat} (h : Follows A σ s) :
    Ends A σ (execCapStep t avg s) :=
  .next (.ite h.advance
    ((h.advance.alike (by rfl)).setFld.andThen fun h1 =>
      .ite h1.setFld (.floorCheck (.burShow (.ite h1.setFld.capDown (.ite h1.setFld.capUp h1.setFld))))))

theorem Follows.holdCore {d l : Nat} (h : Follows A σ s) : Follows A σ (holdCore d s l) := by
  unfold Machine.holdCore
  split
  · split
    · exact h
    · split
      · exact h
      · exact h.setSlot
  · exact h

theorem Follows.execHoldPeriod {t : Time} {c : Fin 16} (h : Follows A σ s) :
    Ends A σ (execHoldPeriod t c s) :=
  .next (.ite h.advance (.foldl (h.advance.alike (by rfl)).bumpBy fun _ _ h => h.holdCore))

theorem Follows.commitRail {s0 : State} {r : Nat} (h : Follows A σ s) :
    Follows A σ (commitRail s0 s r) := h.setFld.setFld.andThen fun h2 => .ite h2 (h2.alike (by rfl))

theorem Follows.burCommit {b : Time} (h : Follows A σ s) :
    Follows A σ (burCommit b s) :=
  (Follows.foldl (.foldl h.commitAll fun _ _ h => .ite h.commitRail h) fun _ _ h => .ite h.setFld h).andThen fun h1 =>
    .floorCheck (.burShow (.setFld (.foldl (.ite h1.setFld h1) fun _ _ h => h.setFld)))

theorem Follows.gateBank {l b : Nat} (h : Follows A σ s) : Follows A σ (gateBank l s b) := .ite h (.ite h.bankRequest h.bankRequest.bump)

theorem Follows.gateCore {l : Nat} (h : Follows A σ s) : Follows A σ (gateCore s l) := .ite h (.setCore (.foldl h fun _ _ h => h.gateBank))

theorem Follows.gateCluster {c : Nat} (h : Follows A σ s) : Follows A σ (gateCluster s c) := .ite h (h.alike (by rfl))

theorem Follows.quietGate (h : Follows A σ s) :
    Follows A σ (quietGate s) := .ite h (.foldl (.foldl h fun _ _ h => h.gateCore) fun _ _ h => h.gateCluster)

theorem Follows.gateBanks (h : Follows A σ s) :
    Follows A σ (gateBanks s) := .ite h (.foldl h fun _ _ h => .ite (.foldl h fun _ _ h => h.gateBank) h)

theorem Follows.execCorePowerUp {t : Time} {l : Fin 256} (h : Follows A σ s) (hm : A.stores = true) :
    Ends A σ (execCorePowerUp t l s) := .next (.ite h.advance ((h.advance.zeroMem hm).alike (by rfl)))

theorem Follows.standbyWrite {w : Word} (h : Follows A σ s) : Follows A σ (standbyWrite w s) := .ite (h.alike (by rfl)) h.stage

theorem Follows.execStandbyRequest {t : Time} {ag : Agent} {w : Word} (h : Follows A σ s) :
    Ends A σ (execStandbyRequest t ag w s) := .next (.onWrite h.advance (fun _ h => h.standbyWrite))

theorem Follows.standbyBoundary {b : Time} (h : Follows A σ s) (hs : A.safety = true) (hm : A.stores = true) :
    Follows A σ (standbyBoundary b s) := by
  unfold Machine.standbyBoundary
  split
  · exact h
  · extract_lets _ s1 s2 _
    have h1 : Follows A σ s1 := h.alike (by rfl)
    have h2 : Follows A σ s2 := h1.powerDown hs hm
    clear_value s2
    exact .ite h (.ite h1.bump.burStatus (h2.alike (by rfl)).setFld)

theorem Follows.standbyExit (h : Follows A σ s) : Follows A σ (standbyExit s) := (h.alike (by rfl)).setFld.setFlag

theorem Follows.execWakeMagicPacket {t : Time} {p : MagicPacket} (h : Follows A σ s) :
    Ends A σ (execWakeMagicPacket t p s) := .next (.ite h.advance.standbyExit h.advance)

theorem Follows.execWakeAlarm {t : Time} (h : Follows A σ s) : Ends A σ (execWakeAlarm t s) := .next (.ite h.advance.standbyExit h.advance)

/-! ## Machine/Link.lean -/

theorem Follows.msi {v : Nat} (h : Follows A σ s) : Follows A σ (msi v s) := .ite h (.ite (h.alike (by rfl)) (h.alike (by rfl)))

theorem Follows.msiRelease {v : Nat} (h : Follows A σ s) : Follows A σ (msiRelease s v) := .ite (h.alike (by rfl)).msi h

theorem Follows.msixWrite {i : Nat} {w : Word} (h : Follows A σ s) : Follows A σ (msixWrite i w s) := (h.alike (by rfl)).msiRelease

theorem Follows.setTr {r : Nat} {v : Nat × Nat} (h : Follows A σ s) : Follows A σ (setTr s r v) := h.alike (by rfl)

theorem Follows.putRecord {r type code source value : Nat} (h : Follows A σ s) : Follows A σ (putRecord r type code source value s) :=
  (h.withHostMem (cellsWf_msets _ _ _ _)).setTr.bump.andThen fun h2 => .ite h2.msi h2

theorem Follows.dropRecord {r : Nat} (h : Follows A σ s) : Follows A σ (dropRecord s r) := h.setTr.bump

theorem Follows.record {type code source value r : Nat} (h : Follows A σ s) :
    Follows A σ (record type code source value s r) :=
  .ite h (.ite h.dropRecord (.ite h.putRecord (h.draw.putRecord.andThen fun h1 => .ite h1.setTr.dropRecord h1.setTr.putRecord)))

theorem Follows.eventRecord {code source value : Nat} (h : Follows A σ s) :
    Follows A σ (eventRecord code source value s) := .foldl h fun _ _ h => .ite h.record h

theorem Follows.eventOf {x : EventSource} (h : Follows A σ s) : Follows A σ (eventOf s x).2.2.2 := by
  unfold Machine.eventOf
  dsimp only
  split
  · exact h
  · exact h
  · exact h
  · exact h
  · exact h
  · exact h
  · exact h
  · exact h
  · exact h.draw
  · exact h

theorem Follows.takeUntold {src : EventSource} (h : Follows A σ s) : Follows A σ (takeUntold s src).2.2 := by
  unfold Machine.takeUntold
  dsimp only
  split
  · exact h
  · exact h.alike (by rfl)

theorem Follows.dueEvent {src : EventSource} (h : Follows A σ s) : Follows A σ (dueEvent s src).2.2.2 := by
  unfold Machine.dueEvent
  dsimp only
  split
  · exact h.takeUntold.eventOf
  · exact h.takeUntold.eventOf

theorem Follows.execTelemetryEvent {t : Time} {src : EventSource} {m : Fin 6} (h : Follows A σ s) :
    Ends A σ (execTelemetryEvent t src m s) := h.advance.dueEvent.andThen fun h1 => .next (.ite h1 h1.eventRecord)

theorem Follows.trWrite {r : Nat} {w : Word} (h : Follows A σ s) : Follows A σ (trWrite r w s) := .ite h.wrReg.wrReg.setTr h.wrReg

theorem Follows.execTrEnable {t : Time} {ag : Agent} {r : Fin 4} {w : Word} (h : Follows A σ s) :
    Ends A σ (execTrEnable t ag r w s) := .next (.onWrite h.advance (fun _ h => h.trWrite))

theorem Follows.ringsOff (h : Follows A σ s) : Follows A σ (ringsOff s) := .foldl h fun _ _ h => h.setFlag

theorem Follows.ringsReset (h : Follows A σ s) : Follows A σ (ringsReset s) := h.alike (by rfl)

theorem Follows.hifReset (h : Follows A σ s) : Follows A σ (hifReset s) := by
  unfold Machine.hifReset
  extract_lets s1 s2
  have h1 : Follows A σ s1 := .foldl h.wrReg.ringsReset fun _ _ h => h.wrReg
  have h2 : Follows A σ s2 := .foldl h1 fun _ _ h => .foldl h fun _ _ h => h.wrReg
  clear_value s2
  exact h2.alike (by rfl)

theorem Follows.execPcieReset {t : Time} (h : Follows A σ s) : Ends A σ (execPcieReset t s) := .next h.advance.hifReset

theorem Follows.execPcieLinkDown {t : Time} {lost : List Nat} (h : Follows A σ s) :
    Ends A σ (execPcieLinkDown t lost s) :=
  .next (.ite h.advance (.foldl h.advance.wrReg.ringsOff fun _ _ h => h.bumpBy))

theorem Follows.execPcieLinkUp {t : Time} {width speed : Nat} (h : Follows A σ s) :
    Ends A σ (execPcieLinkUp t width speed s) := .next (.ite h.advance h.advance.wrReg)

theorem Follows.answer {r : BusReply} (h : Follows A σ s) : Follows A σ (answer r s) := h.alike (by rfl)

theorem Follows.cfgRead {off : Nat} (h : Follows A σ s) : Follows A σ (cfgRead s off).2 := by
  unfold Machine.cfgRead
  dsimp only
  split
  · exact h
  · split
    · exact h.draw
    · split
      · exact h
      · exact h.draw

theorem Follows.execPcieConfigRequest {t : Time} {wr : Bool} {off : Nat} {be : Fin 16} {w : Word} (h : Follows A σ s) :
    Ends A σ (execPcieConfigRequest t wr off be w s) :=
  .next (.ite h.advance (.ite h.advance.answer (.ite (.answer (.ite h.advance (h.advance.alike (by rfl)))) h.advance.cfgRead.answer)))

theorem Follows.execHostDramRead {t : Time} {off len : Nat} (h : Follows A σ s) : Ends A σ (execHostDramRead t off len s) := by
  unfold Machine.execHostDramRead
  dsimp only
  refine .next ?_
  split
  · exact h.advance
  · split
    · exact h.advance.answer
    · exact h.advance.bump.answer

theorem Follows.execHostDramWrite {t : Time} {off : Nat} {bytes : List Byte} (h : Follows A σ s) (hm : A.stores = true) :
    Ends A σ (execHostDramWrite t off bytes s) := by
  unfold Machine.execHostDramWrite
  dsimp only
  refine .next ?_
  split
  · exact h.advance
  · split
    · exact (h.advance.wrMem hm).answer
    · exact h.advance.bump.answer

theorem Follows.memrdStart {w : Word} (h : Follows A σ s) : Follows A σ (memrdStart w s) := h.alike (by rfl)

theorem Follows.execMemrdStart {t : Time} {ag : Agent} {w : Word} (h : Follows A σ s) :
    Ends A σ (execMemrdStart t ag w s) := .next (.onWrite h.advance (fun _ h => h.memrdStart))

theorem Follows.execMemrdDone {t : Time} (h : Follows A σ s) : Ends A σ (execMemrdDone t s) := by
  unfold Machine.execMemrdDone
  dsimp only
  refine .next ?_
  split
  · exact h.advance
  · exact (h.advance.alike (by rfl)).andThen fun h1 => .ite h1.wrReg.wrReg h1.wrReg.bump

/-! ## Machine/Boot.lean -/

theorem Follows.setPhase {n : Nat} (h : Follows A σ s) : Follows A σ (setPhase n s) := .ite h h.setFld.msi

theorem Follows.execGlbTbAdjWrite {t : Time} {ag : Agent} {w : Word} (h : Follows A σ s) :
    Ends A σ (execGlbTbAdjWrite t ag w s) := .next (.onWrite h.advance (fun _ h => h.writeAdj))

theorem Follows.tbSet {w : Word} (h : Follows A σ s) : Follows A σ (tbSet w s) := by
  unfold Machine.tbSet
  split
  · exact h.bump
  · extract_lets s1 v s2
    have h1 : Follows A σ s1 := h.wrReg
    have h2 : Follows A σ s2 := .ite h1 h1.setFlag
    split
    · exact h1
    · next hv =>
      have e : s2.clk.tb = s1.clk.tb := by
        simp only [s2]; split <;> rfl
      exact h2.step rfl (fun _ => e ▸ Nat.le_of_not_lt hv) (fun _ => rfl) (fun _ => rfl) id

theorem Follows.execGlbTbSet {t : Time} {ag : Agent} {w : Word} (h : Follows A σ s) :
    Ends A σ (execGlbTbSet t ag w s) := .next (.onWrite h.advance (fun _ h => h.tbSet))

theorem Follows.copyHard {e : Nat × Word} (h : Follows A σ s) : Follows A σ (copyHard s e) := .ite (h.alike (by rfl)) h

theorem Follows.lockEntry {e : Nat × Word} (h : Follows A σ s) :
    Follows A σ (lockEntry s e) := .ite h.copyHard (.ite h.copyHard (.ite h.copyHard.tbSet h.copyHard.wrReg))

theorem Follows.hutEntry {e : Nat × Word} (h : Follows A σ s) : Follows A σ (hutEntry s e) := .ite h (h.alike (by rfl)).wrReg

theorem Follows.hutLoad {r : ImageRecs} {body : List Byte} (h : Follows A σ s) :
    Follows A σ (hutLoad r body s) := .ite h ((Follows.foldl h fun _ _ h => h.hutEntry).alike (by rfl))

theorem Follows.acceptCopy {b : Bool} {x : ImageRecs} (h : Follows A σ s) : Follows A σ (acceptCopy b x s) := by
  unfold Machine.acceptCopy
  dsimp only
  split
  · exact h
  · exact ((Follows.hutLoad (.foldl h.setFlag.setFld.wrReg.wrReg.bumpBy fun _ _ h => h.lockEntry)).alike (by rfl)).setPhase

theorem Follows.zeroDram (h : Follows A σ s) (hm : A.stores = true) : Follows A σ (zeroDram s) :=
  .ite ((h.withMem hm (cellsWf_filter _ _ _)).alike (by rfl)) h

theorem Follows.failBoot (h : Follows A σ s) (hm : A.stores = true) : Follows A σ (failBoot s) :=
  ((h.alike (by rfl)).zeroDram hm).bootErr.setFlag.setPhase

theorem Follows.polFault (h : Follows A σ s) : Follows A σ (polFault s) := h.bump.bootErr

theorem Follows.loadModule {e : Nat × List Byte} (h : Follows A σ s) : Follows A σ (loadModule s e) := .ite (h.alike (by rfl)) h.polFault

theorem Follows.restartCopy {b : Bool} {x : ImageRecs} (h : Follows A σ s) : Follows A σ (restartCopy b x s) := by
  unfold Machine.restartCopy
  dsimp only
  split
  · exact h
  · exact .foldl (h.alike (by rfl)).setFlag fun _ _ h => h.loadModule

theorem Follows.execImageCheck {t : Time} {x : ImageRecs} (h : Follows A σ s) (hm : A.stores = true) : Ends A σ (execImageCheck t x s) := by
  unfold Machine.execImageCheck
  dsimp only
  refine .next ?_
  split
  · exact h.advance
  · split
    · exact .ite h.advance.restartCopy ((h.advance.alike (by rfl)).andThen fun h1 => .ite h1.bootErr.setPhase h1)
    · exact .ite h.advance.acceptCopy (.ite (h.advance.setFlag.bootErr.failBoot hm) h.advance.setFlag.bootErr)

theorem Follows.execBootRomPhase {t : Time} {ok : Bool} (h : Follows A σ s) :
    Ends A σ (execBootRomPhase t ok s) := .next (.ite h.advance (.ite h.advance.setPhase h.advance.bootErr))

theorem Follows.execMemoryTraining {t : Time} {ok : Bool} (h : Follows A σ s) (hm : A.stores = true) :
    Ends A σ (execMemoryTraining t ok s) :=
  .next (.ite h.advance (.ite h.advance.bootErr (((h.advance.alike (by rfl)).zeroDram hm).kvInit hm)))

theorem Follows.modelEnd {i p code : Nat} (h : Follows A σ s) (hm : A.stores = true) :
    Follows A σ (modelEnd i p code s) :=
  .ite h.wrReg (h.wrReg.noteEvent.andThen fun h1 => .ite (h1.setFlag.partReset hm) h1)

theorem Follows.execModelLoad {t : Time} {i : Fin 32} {err : Bool} (h : Follows A σ s) (hm : A.stores = true) :
    Ends A σ (execModelLoad t i err s) :=
  .next (.ite h.advance
    (h.advance.setPhase.andThen fun h1 =>
      .ite (h1.modelEnd hm) (.ite (h1.modelEnd hm) (.ite ((h1.freeBytes hm).modelEnd hm) ((h1.wrMem hm).modelEnd hm)))))

theorem Follows.execBootService {t : Time} {ctxs : List (Nat × Nat)} (h : Follows A σ s) :
    Ends A σ (execBootService t ctxs s) :=
  .next (.ite h.advance (h.advance.setPhase.wrReg.setPhase.andThen fun h1 => .ite h1.setFld h1))

theorem Follows.moduleReset {cause : Nat} (h : Follows A σ s) (hm : A.stores = true) (hs : A.safety = true) :
    Follows A σ (moduleReset cause s) := by
  unfold Machine.moduleReset
  extract_lets up s1 _ _ s2 s3 s4
  have h1 : Follows A σ s1 := h.clearMain hm
  clear_value s1
  have h2 : Follows A σ s2 := (h1.withSio hs).alike (by rfl)
  have h4 : Follows A σ s4 := .ite h2.setFlag.setFlag h2.setFlag
  exact h4.setFld.burShow

theorem Follows.mgmtReset {cause ctr : Nat} (h : Follows A σ s) : Follows A σ (mgmtReset cause ctr s) := by
  unfold Machine.mgmtReset
  extract_lets s1 b _ _ _ _ s2
  have h1 : Follows A σ s1 := .foldl h.abortImage fun _ _ h => h.setFlag.setFld
  clear_value s1
  have h2 : Follows A σ s2 := h1.alike (by rfl)
  exact h2.wrReg.setFlag.bump

theorem Follows.resetWrite {w : Word} (h : Follows A σ s) (hm : A.stores = true) (hs : A.safety = true) :
    Follows A σ (resetWrite w s) := .ite h (.ite (h.moduleReset hm hs) (.ite h.mgmtReset h))

theorem Follows.execModuleReset {t : Time} {ag : Agent} {w : Word} (h : Follows A σ s) (hm : A.stores = true) (hs : A.safety = true) :
    Ends A σ (execModuleReset t ag w s) := .next (.onWrite h.advance (fun _ h => h.resetWrite hm hs))

theorem Follows.execManagementReset {t : Time} {ag : Agent} {w : Word} (h : Follows A σ s) (hm : A.stores = true) (hs : A.safety = true) :
    Ends A σ (execManagementReset t ag w s) := .next (.onWrite h.advance (fun _ h => h.resetWrite hm hs))

theorem Follows.leaveExtest (h : Follows A σ s) : Follows A σ (leaveExtest s) := .ite (h.alike (by rfl)) h

theorem Follows.execResetNAssert {t : Time} {ns : Nat} {held : Bool} (h : Follows A σ s) (hm : A.stores = true) (hs : A.safety = true) :
    Ends A σ (execResetNAssert t ns held s) := by
  unfold Machine.execResetNAssert
  extract_lets v d go _ _ s1 s2
  have hv : Follows A σ v := h.advance
  have hd : Follows A σ d.2 := hv.draw
  clear_value d v
  have h1 : Follows A σ s1 := hv.alike (by rfl)
  have h2 : Follows A σ s2 := hd.moduleReset hm hs
  clear_value s1 s2
  exact .next (.ite hv (.ite (.ite h1 h1.leaveExtest) (.ite (.ite hv hd) (h2.alike (by rfl)))))

theorem Follows.execWatchdogExpire {t : Time} (h : Follows A σ s) :
    Ends A σ (execWatchdogExpire t s) := .next (.ite h.advance.hutEvent.mgmtReset h.advance)

theorem Follows.recovWrite {w : Word} (h : Follows A σ s) (hm : A.stores = true) (hs : A.safety = true) : Follows A σ (recovWrite w s) :=
  h.wrReg.andThen fun h1 => .ite h (.ite h1 (.ite h1.bootErr
    ((h1.withFlash fun d => cellsWf_msets _ _ _ _ (cellsWf_msets _ _ _ _ d)).moduleReset hm hs)))

theorem Follows.execBootRecovGo {t : Time} {ag : Agent} {w : Word} (h : Follows A σ s) (hm : A.stores = true) (hs : A.safety = true) :
    Ends A σ (execBootRecovGo t ag w s) := .next (.onWrite h.advance (fun _ h => h.recovWrite hm hs))

theorem Follows.discardGroups {mask : Nat} (h : Follows A σ s) : Follows A σ (discardGroups mask s) := h.alike (by rfl)

theorem Follows.execCommitDiscard {t : Time} {ag : Agent} {w : Word} (h : Follows A σ s) :
    Ends A σ (execCommitDiscard t ag w s) := .next (.onWrite h.advance (fun _ h => h.discardGroups))

theorem Follows.holdWrite {w : Word} (h : Follows A σ s) : Follows A σ (holdWrite w s) := .wrReg (.ite h (h.alike (by rfl)))

theorem Follows.verWrite {w : Word} (h : Follows A σ s) : Follows A σ (verWrite w s) := h.wrReg.setFld.andThen fun h1 => .ite h1.bootErr h1

theorem Follows.execVerHostWrite {t : Time} {ag : Agent} {w : Word} (h : Follows A σ s) :
    Ends A σ (execVerHostWrite t ag w s) := .next (.onWrite h.advance (fun _ h => h.verWrite))

/-! ## Machine/View.lean -/

theorem Follows.readEffect {ag : Agent} {off : Nat} (h : Follows A σ s) :
    Follows A σ (readEffect ag off s) :=
  .ite h.bump (.ite (h.alike (by rfl)) (.ite (h.alike (by rfl)) (.ite (h.alike (by rfl)) h)))

theorem Follows.execLatchingRead {t : Time} {ag : Agent} {r : BusRead} (h : Follows A σ s) : Ends A σ (execLatchingRead t ag r s) := by
  unfold Machine.execLatchingRead
  dsimp only
  split
  · exact .next (.ite h.advance h.advance.readEffect.answer)
  · exact .next (h.advance.readEffect.alike (by rfl))

/-! ## Machine/Bus.lean -/

theorem Follows.mailboxGo {m : Nat} {w : Word} (h : Follows A σ s) : Follows A σ (mailboxGo m w s) := .ite h (h.alike (by rfl))

theorem Follows.execMailboxGo {t : Time} {ag : Agent} {m : Fin 8} {w : Word} (h : Follows A σ s) :
    Ends A σ (execMailboxGo t ag m w s) := .next (.onWrite h.advance (fun _ h => h.mailboxGo))

theorem Follows.mboxWrite {ag : Agent} {off : Nat} {w : Word} (h : Follows A σ s) : Follows A σ (mboxWrite ag off w s) :=
  .ite h.bump h.wrReg

theorem Follows.plainWrite {off : Nat} {w : Word} (h : Follows A σ s) :
    Follows A σ (plainWrite off w s) :=
  (Follows.ite (.ite h h.bump) (.wrReg (.ite h h.bump))).andThen fun h1 => .ite h1 h1.stage

theorem Follows.writeGlb {off : Nat} {w : Word} (h : Follows A σ s) (hm : A.stores = true) (hs : A.safety = true) :
    Follows A σ (writeGlb off w s) := by
  unfold Machine.writeGlb
  split
  · exact h.writeAdj
  · exact .ite h.bump h.wrReg
  · exact h.tbSet
  · exact h.resetWrite hm hs
  · exact h.holdWrite
  · exact h.discardGroups
  · exact h.verWrite
  · exact h.plainWrite

theorem Follows.writeBur {off : Nat} {w : Word} (h : Follows A σ s) : Follows A σ (writeBur off w s) := by
  unfold Machine.writeBur
  split
  · exact h.standbyWrite
  · exact h.setFld
  · exact h.plainWrite

theorem Follows.writeTc {off : Nat} {w : Word} (h : Follows A σ s) (hm : A.stores = true) : Follows A σ (writeTc off w s) := by
  unfold Machine.writeTc
  dsimp only
  split
  · exact .ite (h.plainWrite.coreReset hm) h.plainWrite
  · exact .ite (h.plainWrite.brkResume hm) h.plainWrite
  · exact h.retireReq hm
  · exact h.plainWrite

theorem Follows.writeShc {off : Nat} {w : Word} (h : Follows A σ s) (hm : A.stores = true) :
    Follows A σ (writeShc off w s) := .ite h.shcInv (.ite (h.wctrClear hm) h.plainWrite)

theorem Follows.writeVdc {off : Nat} {w : Word} (h : Follows A σ s) :
    Follows A σ (writeVdc off w s) := .ite (.ite h.plainWrite h) (.ite h.wrReg h.plainWrite)

theorem Follows.writeDpo {off : Nat} {w : Word} (h : Follows A σ s) : Follows A σ (writeDpo off w s) := by
  unfold Machine.writeDpo
  dsimp only
  split
  · exact .ite h.dpoTrain h
  · exact h.wrReg
  · exact .ite h.auxGo (.ite h h.plainWrite)
  · exact h.plainWrite

theorem Follows.writeHif {ag : Agent} {off : Nat} {w : Word} (h : Follows A σ s) :
    Follows A σ (writeHif ag off w s) :=
  .ite h.memrdStart (.ite (.ite h.mboxWrite (.ite h.mailboxGo h)) (.ite h.trWrite (.ite h.msixWrite h.plainWrite)))

theorem Follows.writeHut {off : Nat} {w : Word} (h : Follows A σ s) (hs : A.safety = true) :
    Follows A σ (writeHut off w s) := .ite (.ite (h.mbSend hs) h) (.ite h.plainWrite h)

theorem Follows.writeWord {ag : Agent} {off : Nat} {w : Word} (h : Follows A σ s) (hm : A.stores = true) (hs : A.safety = true) :
    Follows A σ (writeWord ag off w s) := by
  unfold Machine.writeWord
  split
  · exact h.bump
  · split
    · exact h.writeGlb hm hs
    · exact h.writeBur
    · exact h.writeHut hs
    · exact .ite (h.recovWrite hm hs) h.plainWrite
    · exact .ite h.tokSignal h.plainWrite
    · exact h.writeShc hm
    · exact h.writeTc hm
    · exact h.writeVdc
    · exact h.writeDpo
    · exact .ite h.wrReg h.plainWrite
    · exact .ite (h.sioReset hs) h.plainWrite
    · exact h.writeHif
    · exact h.plainWrite

theorem Follows.busWrite {ag : Agent} {off be : Nat} {w : Word} (h : Follows A σ s) (hm : A.stores = true) (hs : A.safety = true) :
    Follows A σ (busWrite s ag off be w) :=
  .ite (.onWrite h (fun _ h => h.bump)) (.ite (.onWrite h (fun _ h => h.bump)) (.onWrite h (fun _ h => h.writeWord hm hs)))

theorem Follows.execRegisterWrite {t : Time} {ag : Agent} {off : Nat} {be : Fin 16} {w : Word} (h : Follows A σ s) (hm : A.stores = true)
    (hs : A.safety = true) :
    Ends A σ (execRegisterWrite t ag off be w s) := .next (h.advance.busWrite hm hs)

theorem Follows.stageEntry {e : Nat × Word} (h : Follows A σ s) : Follows A σ (stageEntry s e) := .ite h h.stage

theorem Follows.execBootLock {t : Time} {pol : Policy} (h : Follows A σ s) :
    Ends A σ (execBootLock t pol s) :=
  .next (.ite h.advance (.foldl (.foldl (h.advance.setFlag.setPhase.alike (by rfl)) fun _ _ h => h.stageEntry) fun _ _ h => h.loadModule))

theorem Follows.modWrite {off : Nat} {w : Word} {fits : Bool} (h : Follows A σ s) (hm : A.stores = true) (hs : A.safety = true) :
    Follows A σ (modWrite off w fits s) := .ite h (h.busWrite hm hs)

theorem Follows.modRun {m : PolMod} {as : List ModAccess} (h : Follows A σ s) (hm : A.stores = true) (hs : A.safety = true) :
    Follows A σ (modRun m as s).2 := by
  induction as generalizing s with
  | nil => exact h
  | cons a r ih =>
    cases a with
    | read off =>
      unfold Machine.modRun
      split
      · exact ih h.readEffect
      · exact h
    | write off w fits =>
      unfold Machine.modRun
      split
      · exact ih (h.modWrite hm hs)
      · exact h

theorem Follows.execPolicyCallback {t : Time} {j : Nat} {kind : CallKind} {acc : List ModAccess} {us : Nat} (h : Follows A σ s)
    (hm : A.stores = true) (hs : A.safety = true) :
    Ends A σ (execPolicyCallback t j kind acc us s) := by
  unfold Machine.execPolicyCallback
  dsimp only
  refine .next ?_
  split
  · exact h.advance
  · exact .ite h.advance
      ((h.advance.holdWrite.modRun hm hs).andThen fun h1 => ((Follows.ite h1.polFault.discardGroups h1).alike (by rfl)).holdWrite)

/-! ## Machine/Manage.lean -/

theorem Follows.plainReply {r : Nat} (h : Follows A σ s) : Follows A σ (plainReply r s).st := h

theorem Follows.cmdVersion (h : Follows A σ s) : Follows A σ (cmdVersion s).st := h

theorem Follows.cmdReadReg {b : List Byte} (h : Follows A σ s) : Follows A σ (cmdReadReg b s).st := by
  unfold Machine.cmdReadReg
  extract_lets off n z
  have hz : Follows A σ z.2 := .foldlSnd h fun _ _ h => h.readEffect
  split
  · exact h
  · exact hz

theorem Follows.cmdWriteReg {b : List Byte} (h : Follows A σ s) (hm : A.stores = true) (hs : A.safety = true) :
    Follows A σ (cmdWriteReg b s).st := by
  unfold Machine.cmdWriteReg
  extract_lets off
  split
  · exact h
  · split
    · exact h
    · exact Follows.plainReply (h.busWrite hm hs)

theorem Follows.cmdReadMem {b : List Byte} (h : Follows A σ s) : Follows A σ (cmdReadMem b s).st := by
  unfold Machine.cmdReadMem
  extract_lets a n
  split
  · exact h
  · split <;> exact h

theorem Follows.cmdWriteMem {b : List Byte} (h : Follows A σ s) (hm : A.stores = true) : Follows A σ (cmdWriteMem b s).st := by
  unfold Machine.cmdWriteMem
  extract_lets a n
  split
  · exact h
  · split
    · exact h
    · exact h.wrMem hm

theorem Follows.cmdImageWrite {ok : Bool} {b : List Byte} (h : Follows A σ s) : Follows A σ (cmdImageWrite ok b s).st := by
  unfold Machine.cmdImageWrite
  split
  · exact h
  · split
    · exact h.withFlash (cellsWf_msets _ _ _ _)
    · exact h.drawBytes.withFlash (cellsWf_msets _ _ _ _)

theorem Follows.cmdReset {b : List Byte} (h : Follows A σ s) : Follows A σ (cmdReset b s).st := by
  unfold Machine.cmdReset
  split
  · exact h
  · split <;> exact h
  · exact h

theorem Follows.carryOut {m : List Byte} {ok : Bool} (h : Follows A σ s) (hm : A.stores = true) (hs : A.safety = true) :
    Follows A σ (carryOut m ok s).st := by
  unfold Machine.carryOut
  dsimp only
  split
  · exact h.plainReply
  · split
    · exact h.plainReply
    · split
      · exact h.cmdVersion
      · exact h.cmdReadReg
      · exact h.cmdWriteReg hm hs
      · exact h.cmdReadMem
      · exact h.cmdWriteMem hm
      · exact h.cmdImageWrite
      · exact h.cmdReset
      · exact h

theorem Follows.afterReply {m : List Byte} {r : Reply} (h : Follows A σ s) (hm : A.stores = true) (hs : A.safety = true) :
    Follows A σ (afterReply m r s) := .ite h (.ite h.mgmtReset (h.moduleReset hm hs))

theorem Follows.mboxReply {m : Nat} {bytes : List Byte} {r : Nat} (h : Follows A σ s) :
    Follows A σ (mboxReply m bytes r s) := .msi (.setFld (.setFlag (.foldl h fun _ _ h => h.wrReg)))

theorem Follows.mboxServe {cmd m : Nat} {ok : Bool} (h : Follows A σ s) (hm : A.stores = true) (hs : A.safety = true) :
    Follows A σ (mboxServe cmd m ok s) := by
  unfold Machine.mboxServe
  split
  · exact h
  · refine .ite h ?_
    extract_lets _ s1 r s2
    have h1 : Follows A σ s1 := h.alike (by rfl)
    clear_value s1
    have hr : Follows A σ r.st := by
      unfold r
      split
      · exact h1.plainReply
      · exact h1.carryOut hm hs
    clear_value r
    have h2 : Follows A σ s2 := .ite hr.mboxReply hr
    exact .ite h2 (h2.afterReply hm hs)

theorem Follows.execMgmtVersion {t : Time} {m : Fin 8} (h : Follows A σ s) (hm : A.stores = true) (hs : A.safety = true) :
    Ends A σ (execMgmtVersion t m s) := .next (h.advance.mboxServe hm hs)

theorem Follows.execMgmtReadReg {t : Time} {m : Fin 8} (h : Follows A σ s) (hm : A.stores = true) (hs : A.safety = true) :
    Ends A σ (execMgmtReadReg t m s) := .next (h.advance.mboxServe hm hs)

theorem Follows.execMgmtWriteReg {t : Time} {m : Fin 8} (h : Follows A σ s) (hm : A.stores = true) (hs : A.safety = true) :
    Ends A σ (execMgmtWriteReg t m s) := .next (h.advance.mboxServe hm hs)

theorem Follows.execMgmtReadMem {t : Time} {m : Fin 8} (h : Follows A σ s) (hm : A.stores = true) (hs : A.safety = true) :
    Ends A σ (execMgmtReadMem t m s) := .next (h.advance.mboxServe hm hs)

theorem Follows.execMgmtWriteMem {t : Time} {m : Fin 8} (h : Follows A σ s) (hm : A.stores = true) (hs : A.safety = true) :
    Ends A σ (execMgmtWriteMem t m s) := .next (h.advance.mboxServe hm hs)

theorem Follows.imageStart {m : Nat} (h : Follows A σ s) : Yields A σ (imageStart m s) := by
  unfold Machine.imageStart
  dsimp only
  split
  · exact .none
  · exact .ite (.some (h.alike (by rfl))) .none

theorem Follows.imageFinish {m : Nat} {same : Bool} (h : Follows A σ s) : Follows A σ (imageFinish m same s) := by
  unfold Machine.imageFinish
  dsimp only
  split
  · exact h
  · exact .ite h (.ite (h.alike (by rfl)).cmdImageWrite (h.alike (by rfl)).cmdImageWrite.mboxReply)

theorem Follows.execMgmtImageWrite {t : Time} {m : Fin 8} {w : ImageStep} (h : Follows A σ s) (hm : A.stores = true)
    (hs : A.safety = true) :
    Ends A σ (execMgmtImageWrite t m w s) := by
  unfold Machine.execMgmtImageWrite
  dsimp only
  refine .next ?_
  split
  · exact (h.advance.imageStart).getD (h.advance.mboxServe hm hs)
  · exact h.advance.imageFinish

theorem Follows.execMgmtReset {t : Time} {m : Fin 8} (h : Follows A σ s) (hm : A.stores = true) (hs : A.safety = true) :
    Ends A σ (execMgmtReset t m s) := .next (h.advance.mboxServe hm hs)

theorem Follows.execMgmtEcho {t : Time} {m : Fin 8} (h : Follows A σ s) (hm : A.stores = true) (hs : A.safety = true) :
    Ends A σ (execMgmtEcho t m s) := .next (h.advance.mboxServe hm hs)

theorem Follows.serveDatagram {src : Nat} {bytes : List Byte} {ok : Bool} (h : Follows A σ s) (hm : A.stores = true)
    (hs : A.safety = true) :
    Follows A σ (serveDatagram src bytes ok s) := by
  unfold Machine.serveDatagram
  extract_lets c _ s1 msg r b s2 v s3
  have h1 : Follows A σ s1 := h.alike (by rfl)
  have hr : Follows A σ r.st := h1.carryOut hm hs
  clear_value r
  have h3 : Follows A σ s3 := .ite (hr.alike (by rfl)) hr
  exact .ite h (.ite h.bump (h3.afterReply hm hs))

theorem Follows.execMgmtDatagram {t : Time} {p : Fin 8} {udp src : Nat} {bytes : List Byte} {ok : Bool} (h : Follows A σ s)
    (hm : A.stores = true) (hs : A.safety = true) :
    Ends A σ (execMgmtDatagram t p udp src bytes ok s) := by
  unfold Machine.execMgmtDatagram
  dsimp only
  refine .next ?_
  split
  · exact h.advance
  · split
    · exact h.advance
    · exact (h.advance.alike (by rfl)).serveDatagram hm hs

theorem Follows.execSmbusTransaction {t : Time} {msg : List Byte} {pec ok : Bool} (h : Follows A σ s) (hm : A.stores = true)
    (hs : A.safety = true) :
    Ends A σ (execSmbusTransaction t msg pec ok s) :=
  .next (.ite h.advance (.afterReply (.ite ((h.advance.carryOut hm hs).alike (by rfl)) (h.advance.carryOut hm hs)) hm hs))

theorem Follows.execUsbOvercurrent {t : Time} {p : Fin 2} (h : Follows A σ s) : Ends A σ (execUsbOvercurrent t p s) :=
  .next (h.advance.alike (by rfl))

theorem Follows.execUsbOvercurrentRetry {t : Time} {p : Fin 2} (h : Follows A σ s) : Ends A σ (execUsbOvercurrentRetry t p s) := by
  unfold Machine.execUsbOvercurrentRetry
  dsimp only
  refine .next ?_
  split
  · exact h.advance
  · exact .ite (h.advance.alike (by rfl)) h.advance

theorem Follows.execJtagBypass {t : Time} (h : Follows A σ s) : Ends A σ (execJtagBypass t s) := .next (h.advance.alike (by rfl))

theorem Follows.execJtagIdcode {t : Time} (h : Follows A σ s) : Ends A σ (execJtagIdcode t s) := .next (h.advance.alike (by rfl))

theorem Follows.execJtagSamplePreload {t : Time} {pins pre : List Bool} (h : Follows A σ s) :
    Ends A σ (execJtagSamplePreload t pins pre s) := .next (h.advance.alike (by rfl))

theorem Follows.execJtagExtest {t : Time} (h : Follows A σ s) : Ends A σ (execJtagExtest t s) :=
  .next (.ite (h.advance.alike (by rfl)) (h.advance.alike (by rfl)))

/-! ## Machine/Epoch.lean -/

theorem Follows.commitCl {b : Time} {off : Nat} (h : Follows A σ s) : Follows A σ (commitCl b s off) := .ite h h.commitReg

theorem Follows.clCommit {b : Time} (h : Follows A σ s) : Follows A σ (clCommit b s) := .foldl h fun _ _ h => h.commitCl

theorem Follows.schSteps {b : Time} (h : Follows A σ s) (hm : A.stores = true) :
    Follows A σ (schSteps b s) := .foldl h.schCommit fun _ _ h => h.partReset hm

theorem Follows.handovers (h : Follows A σ s) : Follows A σ (handovers s) := .foldl h fun _ _ h => h.commitCore

theorem Follows.ctxSteps {e : Nat} (h : Follows A σ s) (hm : A.stores = true) :
    Follows A σ (ctxSteps e s) := .ite h (.wrReg (.foldl h fun _ _ h => h.partCommands hm))

theorem Follows.snapOne {r i : Nat} (h : Follows A σ s) : Follows A σ (snapOne r s i) := .ite h h.draw.record

theorem Follows.snapRing {e r : Nat} (h : Follows A σ s) : Follows A σ (snapRing e s r) := .ite h (.foldl h fun _ _ h => h.snapOne)

theorem Follows.standIn {c : Nat} (h : Follows A σ s) (hm : A.stores = true) : Follows A σ (standIn s c) := by
  unfold Machine.standIn
  dsimp only
  split
  · exact h
  · exact .ite ((h.setGold.spareStand hm).unvRecord hm) h

theorem Follows.commitEpoch {e : Nat} (h : Follows A σ s) (hm : A.stores = true) : Follows A σ (commitEpoch e s) := by
  unfold Machine.commitEpoch
  extract_lets b s1 s2 s3 s4 s5 s6
  have h1 : Follows A σ s1 := .foldl h.chargeAll fun _ _ h => h.standIn hm
  have h2 : Follows A σ s2 := .handovers (.commitGroup h1 fun _ h => h.schSteps hm)
  have h3 : Follows A σ s3 := .commitGroup h2 fun _ h => h.burCommit
  have h4 : Follows A σ s4 := .commitGroup h3 fun _ h => h.ingCommit hm
  have h5 : Follows A σ s5 := .commitGroup h4 fun _ h => h.motCommit
  have h6 : Follows A σ s6 := .commitGroup h5 fun _ h => h.clCommit
  exact (h6.ctxSteps hm).slotStart hm

theorem Follows.afterCommits {e : Nat} (h : Follows A σ s) (hs : A.safety = true) (hm : A.stores = true) :
    Follows A σ (afterCommits e s) :=
  (h.standbyBoundary hs hm).quietGate.gateBanks.andThen fun h1 =>
    .ite h1 (.gangBoundary (.goldenFrames (.foldl h1 fun _ _ h => h.snapRing)))

theorem Follows.epochAt {e : Nat} (h : Follows A σ s) (hs : A.safety = true) (hm : A.stores = true) : Follows A σ (epochAt e s) := by
  unfold Machine.epochAt
  extract_lets s1 _ _ s2 s3
  have h1 : Follows A σ s1 := h.advance
  clear_value s1
  have h2 : Follows A σ s2 := h1.alike (by rfl)
  clear_value s2
  have h3 : Follows A σ s3 := .ite ((h2.commitEpoch hm).afterCommits hs hm) h2
  exact h3.setFlag.updateStart hs

theorem Follows.execEpochBoundary (h : Follows A σ s) (hs : A.safety = true) (hm : A.stores = true) :
    Ends A σ (execEpochBoundary s) := .next (h.epochAt hs hm)

/-! ## Machine/Tick.lean -/

theorem Follows.withTime {t f : Nat} (h : Follows A σ s) (ht : s.clk.tb ≤ t) : Follows A σ { s with clk := { s.clk with tb := t, frac :=
  f } } :=
  h.step rfl (fun _ => ht) (fun _ => rfl) (fun _ => rfl) id

theorem le_carried (a b c n : Nat) (hn : 0 < n) : a ≤ (a * n + b + c) / n := by
  rw [Nat.le_div_iff_mul_le hn, Nat.add_assoc]
  exact Nat.le_add_right _ _

theorem Follows.idle (h : Follows A σ s) : Follows A σ (idle s) := by
  unfold Machine.idle
  split
  · exact h
  · exact h.withTime (le_carried _ _ _ _ (by norm_num))

end Sys2Proof.Proofs
end

section
namespace Sys2Proof.Proofs
open Sys2Proof Sys2Proof.Machine Sys2Proof.Safety Sys2Proof.Laws

/-! ## All commands -/

/-- What the command may do. -/
def allowedTo (c : Instr) : Allowed := ⟨storingCommand c, safetyCommand c, standbyCommand c⟩

/-- Every command keeps to what it may do. -/
theorem exec_follows (c : Instr) (s : State) : Ends (allowedTo c) s (exec c s) := by
  have h : Follows (allowedTo c) s s := .refl _ s
  cases c with
  | epochBoundary => exact h.execEpochBoundary rfl rfl
  | slotBoundary => exact h.execSlotBoundary rfl
  | coreStep => exact h.execCoreStep rfl
  | drainComplete => exact h.execDrainComplete rfl
  | issueMma => exact h.execIssueMma rfl
  | issueXpnd => exact h.execIssueXpnd rfl
  | issueAttn => exact h.execIssueAttn rfl
  | issueEwise => exact h.execIssueEwise rfl
  | issuePool => exact h.execIssuePool rfl
  | issueArgmaxc => exact h.execIssueArgmaxc rfl
  | issueStat => exact h.execIssueStat rfl
  | issueScaleEntries => exact h.execIssueScaleEntries rfl
  | issueScaleTable => exact h.execIssueScaleTable rfl
  | issueFill => exact h.execIssueFill rfl
  | issueScopy => exact h.execIssueScopy rfl
  | issueDma => exact h.execIssueDma rfl
  | issueKvapp => exact h.execIssueKvapp rfl
  | syncWait => exact h.execSyncWait rfl
  | syncSignal => exact h.execSyncSignal rfl
  | syncBload => exact h.execSyncBload rfl
  | syncWaitRelease => exact h.execSyncWaitRelease rfl
  | accSlotGrant => exact h.execAccSlotGrant rfl
  | instructionHoldRelease => exact h.execInstructionHoldRelease rfl
  | instructionComplete => exact h.execInstructionComplete rfl
  | statsPartialArrive => exact h.execStatsPartialArrive rfl
  | jobEnd => exact h.execJobEnd rfl
  | footstoolChunkBoundary => exact h.execFootstoolChunkBoundary rfl
  | footstoolRequestComplete => exact h.execFootstoolRequestComplete rfl
  | footstoolParityError => exact h.execFootstoolParityError
  | coreRetire t l x => exact h.execCoreRetire (x := x) rfl
  | clRetireReq => exact h.execClRetireReq rfl
  | coreReset => exact h.execCoreReset rfl
  | tcQuiesce => exact h.execTcQuiesce
  | creditRequest => exact h.execCreditRequest rfl
  | creditGrant => exact h.execCreditGrant
  | writeAck => exact h.execWriteAck rfl
  | landingDrawerConsumed => exact h.execLandingDrawerConsumed
  | multicastSend => exact h.execMulticastSend rfl
  | haloRowSend => exact h.execHaloRowSend rfl
  | promiseCancel => exact h.execPromiseCancel
  | shcRead => exact h.execShcRead
  | shcInv => exact h.execShcInv
  | shcInvDone => exact h.execShcInvDone
  | wctrClaim => exact h.execWctrClaim rfl
  | wctrCompletion => exact h.execWctrCompletion rfl
  | wctrClear => exact h.execWctrClear rfl
  | dmaChainAccept => exact h.execDmaChainAccept rfl
  | dmaDescStart => exact h.execDmaDescStart
  | dmaDescComplete => exact h.execDmaDescComplete rfl
  | dmaDescFault => exact h.execDmaDescFault rfl
  | dramReadEcc => exact h.execDramReadEcc rfl
  | patrolScrub => exact h.execPatrolScrub
  | spadParityError => exact h.execSpadParityError rfl
  | bankClosingDone => exact h.execBankClosingDone rfl
  | bankGateAbort => exact h.execBankGateAbort
  | bankWake => exact h.execBankWake
  | bankWakeDone => exact h.execBankWakeDone
  | kvappComplete => exact h.execKvappComplete rfl
  | kvCopyOnWrite => exact h.execKvCopyOnWrite rfl
  | kvPinRelease => exact h.execKvPinRelease rfl
  | kvBatchBoundary => exact h.execKvBatchBoundary rfl
  | kvTreeInsert => exact h.execKvTreeInsert rfl
  | kvHotCopy => exact h.execKvHotCopy rfl
  | partitionReset => exact h.execPartitionReset rfl
  | contextTeardown => exact h.execContextTeardown rfl
  | schTokSignal => exact h.execSchTokSignal
  | genRead => exact h.execGenRead
  | genWrite => exact h.execGenWrite
  | brkResume => exact h.execBrkResume rfl
  | peerFrame => exact h.execPeerFrame rfl
  | peerTimeExchange => exact h.execPeerTimeExchange
  | peerUnreachable => exact h.execPeerUnreachable rfl
  | rxFrame => exact h.execRxFrame rfl
  | ptpSync => exact h.execPtpSync
  | ptpDelayResp => exact h.execPtpDelayResp
  | ptpAnnounce => exact h.execPtpAnnounce
  | ptpHoldover => exact h.execPtpHoldover
  | gapTimeout => exact h.execGapTimeout rfl
  | auIdleTimeout => exact h.execAuIdleTimeout rfl
  | auComplete => exact h.execAuComplete
  | decodeStart => exact h.execDecodeStart rfl
  | decodeComplete => exact h.execDecodeComplete rfl
  | noticeRelease => exact h.execNoticeRelease
  | ethLinkDown => exact h.execEthLinkDown
  | dpoFrameBoundary => exact h.execDpoFrameBoundary
  | lineFetch => exact h.execLineFetch
  | pixelUnderrun => exact h.execPixelUnderrun
  | coefLoadComplete => exact h.execCoefLoadComplete
  | stripeRelease => exact h.execStripeRelease rfl
  | stripeDeadline => exact h.execStripeDeadline
  | dpoTrain => exact h.execDpoTrain
  | dpoTrainDone => exact h.execDpoTrainDone
  | hpdChange => exact h.execHpdChange
  | irqHpd => exact h.execIrqHpd
  | auxGo => exact h.execAuxGo
  | auxReply => exact h.execAuxReply
  | usbTouchReport => exact h.execUsbTouchReport rfl
  | usbOvercurrent => exact h.execUsbOvercurrent
  | emissionPoint => exact h.execEmissionPoint rfl rfl
  | frameSend => exact h.execFrameSend rfl
  | frameReturn => exact h.execFrameReturn rfl rfl
  | frameLossTimeout => exact h.execFrameLossTimeout rfl rfl
  | commandSetSignal => exact h.execCommandSetSignal
  | latchSet => exact h.execLatchSet rfl
  | safeInputDemand => exact h.execSafeInputDemand rfl
  | testPulse => exact h.execTestPulse rfl
  | testPulseFault => exact h.execTestPulseFault rfl
  | discrepancyTimeout => exact h.execDiscrepancyTimeout rfl
  | outputReadbackFault => exact h.execOutputReadbackFault rfl
  | outputFaultClear => exact h.execOutputFaultClear rfl
  | brakeDelayExpire => exact h.execBrakeDelayExpire rfl
  | resetButtonRelease => exact h.execResetButtonRelease rfl
  | sioReset => exact h.execSioReset rfl
  | groupResetGrant => exact h.execGroupResetGrant rfl
  | heartbeat => exact h.execHeartbeat
  | heartbeatMiss => exact h.execHeartbeatMiss rfl
  | channelDecisionMismatch => exact h.execChannelDecisionMismatch rfl
  | channelRestartDone => exact h.execChannelRestartDone rfl rfl
  | supervisionStart => exact h.execSupervisionStart rfl rfl
  | timebaseCrosscheck => exact h.execTimebaseCrosscheck rfl
  | hutchPictureRead => exact h.execHutchPictureRead
  | checkerResult => exact h.execCheckerResult
  | zoneReport => exact h.execZoneReport
  | zoneCompare => exact h.execZoneCompare rfl rfl
  | cmpBudgetExpire => exact h.execCmpBudgetExpire
  | zoneAgeExpire => exact h.execZoneAgeExpire
  | goldenRunStart => exact h.execGoldenRunStart
  | goldenRunAbandon => exact h.execGoldenRunAbandon
  | goldenRunComplete => exact h.execGoldenRunComplete rfl
  | goldenFrameEnd => exact h.execGoldenFrameEnd rfl
  | checkerGoldenCrop => exact h.execCheckerGoldenCrop
  | sContextLost => exact h.execSContextLost rfl
  | aRestart => exact h.execARestart rfl
  | rdyTokSignal => exact h.execRdyTokSignal rfl
  | aLimitExpire => exact h.execALimitExpire
  | watchdogExpire => exact h.execWatchdogExpire
  | kick => exact h.execKick
  | stopGroups => exact h.execStopGroups rfl
  | invalidateZones => exact h.execInvalidateZones
  | invalidateZonesExpire => exact h.execInvalidateZonesExpire
  | readEvent => exact h.execReadEvent
  | hutchMailboxReject => exact h.execHutchMailboxReject
  | proofTest => exact h.execProofTest rfl
  | powerOn => exact h.execPowerOn rfl rfl rfl
  | railSequenceStep => exact h.execRailSequenceStep rfl rfl
  | powerDown => exact h.execPowerDown rfl rfl
  | vinRestore => exact h.execVinRestore
  | sensorSample => exact h.execSensorSample rfl rfl
  | ladderStep => exact h.execLadderStep
  | capStep => exact h.execCapStep
  | holdPeriod => exact h.execHoldPeriod
  | corePowerUp => exact h.execCorePowerUp rfl
  | standbyRequest => exact h.execStandbyRequest
  | wakeMagicPacket => exact h.execWakeMagicPacket
  | wakeAlarm => exact h.execWakeAlarm
  | bootRomPhase => exact h.execBootRomPhase
  | imageCheck => exact h.execImageCheck rfl
  | memoryTraining => exact h.execMemoryTraining rfl
  | bootLock => exact h.execBootLock
  | modelLoad => exact h.execModelLoad rfl
  | bootService => exact h.execBootService
  | bootRecovGo => exact h.execBootRecovGo rfl rfl
  | policyCallback => exact h.execPolicyCallback rfl rfl
  | resetNAssert => exact h.execResetNAssert rfl rfl
  | moduleReset => exact h.execModuleReset rfl rfl
  | managementReset => exact h.execManagementReset rfl rfl
  | commitDiscard => exact h.execCommitDiscard
  | verHostWrite => exact h.execVerHostWrite
  | glbTbAdjWrite => exact h.execGlbTbAdjWrite
  | glbTbSet => exact h.execGlbTbSet
  | latchingRead => exact h.execLatchingRead
  | registerWrite => exact h.execRegisterWrite rfl rfl
  | pcieReset => exact h.execPcieReset
  | pcieLinkDown => exact h.execPcieLinkDown
  | hostDramRead => exact h.execHostDramRead
  | hostDramWrite => exact h.execHostDramWrite rfl
  | mailboxGo => exact h.execMailboxGo
  | mgmtVersion => exact h.execMgmtVersion rfl rfl
  | mgmtReadReg => exact h.execMgmtReadReg rfl rfl
  | mgmtWriteReg => exact h.execMgmtWriteReg rfl rfl
  | mgmtReadMem => exact h.execMgmtReadMem rfl rfl
  | mgmtWriteMem => exact h.execMgmtWriteMem rfl rfl
  | mgmtImageWrite => exact h.execMgmtImageWrite rfl rfl
  | mgmtReset => exact h.execMgmtReset rfl rfl
  | mgmtEcho => exact h.execMgmtEcho rfl rfl
  | mgmtDatagram => exact h.execMgmtDatagram rfl rfl
  | smbusTransaction => exact h.execSmbusTransaction rfl rfl
  | telemetryEvent => exact h.execTelemetryEvent
  | trEnable => exact h.execTrEnable
  | memrdStart => exact h.execMemrdStart
  | memrdDone => exact h.execMemrdDone
  | jtagBypass => exact h.execJtagBypass
  | jtagIdcode => exact h.execJtagIdcode
  | jtagSamplePreload => exact h.execJtagSamplePreload
  | jtagExtest => exact h.execJtagExtest
  | ethLinkUp => exact h.execEthLinkUp
  | motLinkChange => exact h.execMotLinkChange
  | pcieLinkUp => exact h.execPcieLinkUp
  | pcieConfigRequest => exact h.execPcieConfigRequest
  | usbConnectChange => exact h.execUsbConnectChange
  | usbOvercurrentRetry => exact h.execUsbOvercurrentRetry
  | proofTestDone => exact h.execProofTestDone rfl
  | safeInputDemandEnd => exact h.execSafeInputDemandEnd rfl
  | vstby3v3Loss => exact h.execVstby3v3Loss rfl rfl rfl
  | scanLineStart => exact h.execScanLineStart

/-- What a step may do: what the command at the front of the queue may do, and nothing on an empty queue. -/
def stepAllowed (s : State) : Allowed := match s.pending with
  | [] => ⟨false, false, false⟩
  | c :: _ => allowedTo c

/-- Every step keeps to what it may do; it takes one command off the queue. -/
theorem step_follows (s : State) : Ends (stepAllowed s) { s with pending := s.pending.tail } (step s) := by
  cases hp : s.pending with
  | nil =>
    have hs : { s with pending := s.pending.tail } = s := by rw [hp, List.tail_nil, ← hp]
    rw [step_nil hp, ← hp, hs]
    exact .next (Follows.idle (.refl _ s))
  | cons c r =>
    rw [step_cons hp, stepAllowed, hp]
    exact exec_follows c { s with pending := r }

/-- Settles O6: the canonical form is one of the things that every step keeps, whatever its command may store. -/
theorem stepKeepsMemoryCanonical : Obligations.StepKeepsMemoryCanonical :=
  fun s _ hs hu => (step_follows s _ hu).canonical hs

end Sys2Proof.Proofs
end

section
/-! # The module at work: the machine right after reset -/
namespace Sys2Proof.Proofs
open Sys2Proof Sys2Proof.Machine Sys2Proof.Safety Sys2Proof.Laws

/-! ## Registers at reset (R11) -/

@[simp] theorem rd_reset (off : Nat) : rd State.reset off = regReset (canonOff off) := rfl

/-- Outside the windows of the logical cores an offset stands for itself (R94). -/
theorem canonOff_of_lt {off : Nat} (h : off < 0x100000) : canonOff off = off :=
  if_neg fun hw => absurd hw.1 (Nat.not_le.mpr h)

/-- The array of a register definition ends at or before the offset `lo`, by its outermost dimension. -/
def endsBy (d : RegDef) (lo : Nat) : Bool := match d.dims with
  | [] => decide (d.base < lo)
  | (n, st) :: _ => decide (0 < st) && decide (d.base + n * st ≤ lo)

theorem base_le_of_defHit {d : RegDef} {off : Nat} (h : defHit d off = true) : d.base ≤ off :=
  of_decide_eq_true (Bool.and_eq_true_iff.mp h).1

theorem lt_of_defHit_of_endsBy {d : RegDef} {off lo : Nat} (h : defHit d off = true) (he : endsBy d lo = true) : off < lo := by
  obtain ⟨base, dims, fields⟩ := d
  cases dims with
  | nil =>
    simp only [defHit, dimsHit, endsBy, Bool.and_eq_true, decide_eq_true_eq] at h he
    omega
  | cons e ds =>
    obtain ⟨n, st⟩ := e
    simp only [defHit, dimsHit, endsBy, Bool.and_eq_true, decide_eq_true_eq] at h he
    have hr : off - base < n * st := (Nat.div_lt_iff_lt_mul he.1).mp h.2.1
    omega

/-- Every field of the register is 0 at reset. -/
def zeroAtReset (d : RegDef) : Bool := d.fields.all fun f => decide (f.rst = 0)

theorem foldl_rst_eq_zero {l : List FieldDef} (h : ∀ f ∈ l, f.rst = 0) : l.foldl (fun a f => a + f.rst * 2 ^ f.lo) 0 = 0 := by
  induction l with
  | nil => rfl
  | cons f l ih =>
    rw [List.foldl_cons, h f List.mem_cons_self, Nat.zero_mul]
    exact ih fun g hg => h g (List.mem_cons_of_mem f hg)

/-- A register whose fields all are 0 at reset, or that has none, reads 0. -/
theorem regReset_eq_zero {off b : Nat} (hb : blockOf off = some b)
    (h : ∀ d ∈ regsOfBlock b, defHit d off = true → zeroAtReset d = true) : regReset off = 0 := by
  have hf : ∀ f ∈ fieldsAt off, f.rst = 0 := by
    simp only [fieldsAt, hb]
    split
    · simp
    · next d hd =>
      exact fun f hf => of_decide_eq_true
        (List.all_eq_true.mp (h d (List.mem_of_find?_eq_some hd) (by simpa using List.find?_some hd)) f hf)
  rw [regReset, foldl_rst_eq_zero hf]
  rfl

/-! ## Tokens and partitions (R280) -/

/-- In the scheduler's block every register with a field other than 0 at reset lies outside the tokens. -/
theorem regsSch_zero_or_outside_tokens :
    ∀ d ∈ regsSch, zeroAtReset d = true ∨ endsBy d 0x42000 = true ∨ 0x43000 ≤ d.base := by
  decide

theorem tokOff_bounds (k n : Nat) : 0x42000 ≤ tokOff k n ∧ tokOff k n < 0x43000 := by
  unfold tokOff
  omega

theorem blockOf_tokOff (k n : Nat) : blockOf (tokOff k n) = some 4 := by
  obtain ⟨hlo, hhi⟩ := tokOff_bounds k n
  unfold blockOf
  repeat rw [if_neg (by omega)]
  rw [if_pos (by omega)]

theorem token_reset (k n : Nat) : token State.reset k n = 0 := by
  obtain ⟨hlo, hhi⟩ := tokOff_bounds k n
  rw [token, rd_reset, canonOff_of_lt (by omega)]
  refine regReset_eq_zero (blockOf_tokOff k n) fun d hd hit => ?_
  rcases regsSch_zero_or_outside_tokens d hd with hz | he | hb
  · exact hz
  · exact absurd (lt_of_defHit_of_endsBy hit he) (by omega)
  · exact absurd (base_le_of_defHit hit) (by omega)

/-- No partition has EN at reset: the offset takes 16 values. -/
theorem partEn_reset {k : Nat} (hk : k < 16) : partEn State.reset k = false := by
  have h : ∀ k < 16, (regReset (canonOff (partOff k))).getLsbD 31 = false := by decide
  exact h k hk

/-! ## Boot (R456, R466) -/

theorem phase_reset : phase State.reset = 0 := by
  rw [phase, fld, rd_reset]
  decide

theorem lockTaken_reset : lockTaken State.reset = false := by
  rw [lockTaken, flag, rd_reset]
  decide

/-! ## Safe I/O (R29, R390, R399, R403) -/

theorem grpOf_reset (g : Nat) : grpOf State.reset g = Grp.reset := rfl

theorem sinOf_reset (i : Nat) : sinOf State.reset i = SIn.reset := rfl

/-- Since power-on every output requests the safe state (R29), whatever its role is. -/
theorem outOn_of_hold {s : State} (h : s.sio.hold = true) (o : Nat) (c : Chan) : outOn s o c = false := by
  simp [outOn, h]

theorem allSafe_reset : AllSafe State.reset :=
  ⟨fun g _ => by simp [grpOf_reset, Grp.reset], fun o _ => ⟨outOn_of_hold rfl o .a, outOn_of_hold rfl o .b⟩⟩

/-- The stop groups' registers at reset hold START: 0x090B as FIRST_CAUSE and its bit among the causes. -/
theorem grpRegs_reset {g : Nat} (hg : g < 8) : fld State.reset (grpReg g 0) 0 16 = 0x090B ∧ rd State.reset (grpReg g 4) = 0x0800 := by
  have h : ∀ g < 8, fieldOf (regReset (canonOff (grpReg g 0))).toNat 0 16 = 0x090B ∧ regReset (canonOff (grpReg g 4)) = 0x0800 := by
    decide
  exact h g hg

theorem sinDemand_reset (i : Nat) : sinDemand State.reset i = true := by
  rw [sinDemand, sinOf_reset]
  rfl

/-! ## Cores -/

theorem coreOf_reset (l : Nat) : coreOf State.reset l = LCore.reset := rfl

/-- Settles O1: State.reset has no table entries, so every register reads its reset word and every unit its own reset value. -/
theorem stateAfterReset : Obligations.StateAfterReset := by
  refine ⟨rfl, rfl, rfl, phase_reset, lockTaken_reset, allSafe_reset, rfl, fun g hg => grpRegs_reset hg,
    fun i _ => sinDemand_reset i, fun k n _ _ => token_reset k n, fun k hk => partEn_reset hk, fun l => ?_⟩
  rw [coreOf_reset]
  rfl

end Sys2Proof.Proofs
end

section
/-! # The self-timed fabric: the timebase -/
namespace Sys2Proof.Proofs
open Sys2Proof Sys2Proof.Machine Sys2Proof.Safety Sys2Proof.Laws

/-- A step may let the standby supply come or go where the command at the front of the queue may; a tick may not. -/
theorem stepAllowed_supply {s : State} (h : ∀ c r, s.pending = c :: r → standbyCommand c = false) : (stepAllowed s).supply = false := by
  cases hp : s.pending with
  | nil => simp [stepAllowed, hp]
  | cons c r => simp [stepAllowed, hp, allowedTo, h c r hp]

/-- Settles O5: that the timebase does not go back is one of the things that every step keeps while the standby supply stays. -/
theorem timebaseNeverDecreases : Obligations.TimebaseNeverDecreases :=
  fun s u hc hu => (step_follows s u hu).time (stepAllowed_supply hc)

end Sys2Proof.Proofs
end

section
/-! # The self-timed fabric: registers

What a register reads after the writes of the model, and writes repeated over a list. -/
namespace Sys2Proof.Proofs
open Sys2Proof Sys2Proof.Machine Sys2Proof.Safety Sys2Proof.Laws

/-! ## Offsets and tables -/

/-- Above the windows of the logical cores an offset stands for itself (R94). -/
theorem canonOff_of_ge {off : Nat} (h : 0x200000 ≤ off) : canonOff off = off :=
  if_neg fun ⟨_, hw, _⟩ => absurd hw (Nat.not_lt.mpr h)

theorem canonOff_ne {o p : Nat} (ho : 0x200000 ≤ o) (hp : 0x200000 ≤ p) (h : o ≠ p) : canonOff o ≠ canonOff p := by
  rwa [canonOff_of_ge ho, canonOff_of_ge hp]

theorem tget?_filter_key {α : Type} (p : Nat → Bool) (t : Tab α) (k : Nat) :
    tget? (t.filter (fun e => p e.1)) k = if p k = true then tget? t k else none := by
  induction t with
  | nil => simp
  | cons e r ih =>
    obtain ⟨a, w⟩ := e
    by_cases ha : a = k
    · subst ha
      by_cases hp : p a = true
      · simp [hp, tget?]
      · simp [hp, ih]
    · by_cases hp : p a = true
      · simp [hp, tget?, ha, ih]
      · simp [hp, tget?, ha, ih]

/-! ## Register words of two states -/

theorem rd_of_regs {s u : State} (h : u.regs = s.regs) (off : Nat) : rd u off = rd s off := by
  rw [rd, rd, h]

theorem flag_of_rd {s u : State} {off : Nat} (h : rd u off = rd s off) (i : Nat) : flag u off i = flag s off i := by
  rw [flag, flag, h]

theorem fld_of_rd {s u : State} {off : Nat} (h : rd u off = rd s off) (lo w : Nat) : fld u off lo w = fld s off lo w := by
  rw [fld, fld, h]

/-! ## Flags and counters -/

theorem rd_setFlag_ne (s : State) {o p : Nat} (i : Nat) (b : Bool) (h : canonOff p ≠ canonOff o) : rd (setFlag s o i b) p = rd s p :=
  rd_setFld_ne s _ _ _ _ _ h

theorem flag_setFlag_same (s : State) (o : Nat) {i : Nat} (hi : i < 32) (b : Bool) : flag (setFlag s o i b) o i = b := by
  rw [flag, setFlag, rd_setFld_same, getLsbD_putField]
  cases b <;> simp [hi]

/-- Setting a flag leaves the other bits of the word alone. -/
theorem flag_setFlag_ne (s : State) (o : Nat) {i j : Nat} (hj : j < 32) (h : j ≠ i) (b : Bool) : flag (setFlag s o i b) o j = flag s o j := by
  rw [flag, setFlag, rd_setFld_same, getLsbD_putField, if_neg (by omega)]
  simp [flag, hj]

theorem rd_bumpBy (s : State) (o n : Nat) : rd (bumpBy s o n) o = rd s o + BitVec.ofNat 32 n := rd_wrReg_same s o _

theorem rd_bumpBy_ne (s : State) {o p : Nat} (n : Nat) (h : canonOff p ≠ canonOff o) : rd (bumpBy s o n) p = rd s p := rd_wrReg_ne s _ _ _ h

theorem rd_bump_ne (s : State) {o p : Nat} (h : canonOff p ≠ canonOff o) : rd (bump s o) p = rd s p := rd_wrReg_ne s _ _ _ h

/-! ## The same write for each of a list -/

/-- The two states differ in register words alone. -/
def RegSide (s u : State) : Prop := ∃ r, u = { s with regs := r }

theorem RegSide.refl (s : State) : RegSide s s := ⟨_, rfl⟩

theorem RegSide.wrReg {s u : State} (h : RegSide s u) (o : Nat) (v : Word) : RegSide s (wrReg u o v) := by
  obtain ⟨r, rfl⟩ := h
  exact ⟨_, rfl⟩

theorem RegSide.foldl {s u : State} {α : Type} {f : State → α → State} {l : List α} (h : RegSide s u)
    (hf : ∀ v i, RegSide s v → RegSide s (f v i)) : RegSide s (l.foldl f u) := List.foldlRecOn l f h fun v hv i _ => hf v i hv

theorem RegSide.eq {s u : State} (h : RegSide s u) : u = { s with regs := u.regs } := by
  obtain ⟨r, rfl⟩ := h
  rfl

/-- A register that no element's write touches. -/
theorem rd_foldl_of_untouched {α : Type} {f : State → α → State} {l : List α} {o : Nat} (s : State)
    (h : ∀ s, ∀ i ∈ l, rd (f s i) o = rd s o) : rd (l.foldl f s) o = rd s o :=
  List.foldlRecOn (motive := fun u => rd u o = rd s o) l f rfl fun u hu i hi => (h u i hi).trans hu

/-- A register that one element's write touches, where each element comes once. -/
theorem rd_foldl_of_once {α : Type} {f : State → α → State} {l : List α} {o : Nat} {k : α} {g : Word → Word} (s : State) (hl : l.Nodup)
    (hk : k ∈ l) (hne : ∀ s i, i ≠ k → rd (f s i) o = rd s o) (hg : ∀ s, rd (f s k) o = g (rd s o)) : rd (l.foldl f s) o = g (rd s o) := by
  induction l generalizing s with
  | nil => cases hk
  | cons i l ih =>
    obtain ⟨hi, hl⟩ := List.nodup_cons.mp hl
    by_cases h : i = k
    · subst h
      rw [List.foldl_cons, rd_foldl_of_untouched _ fun v j hj => hne v j fun e => hi (e ▸ hj), hg]
    · rw [List.foldl_cons, ih _ hl ((List.mem_cons.mp hk).resolve_left (Ne.symm h)), hne s i h]

theorem nodup_rangeFrom (a n : Nat) : (rangeFrom a n).Nodup := by
  induction n generalizing a with
  | zero => exact List.nodup_nil
  | succ n ih => exact List.nodup_cons.mpr ⟨by rw [mem_rangeFrom]; omega, ih (a + 1)⟩

end Sys2Proof.Proofs
end

section
/-! # The self-timed fabric: reads of register pairs -/
namespace Sys2Proof.Proofs
open Sys2Proof Sys2Proof.Machine Sys2Proof.Safety Sys2Proof.Laws

theorem mayRead_of_regs {s u : State} {ag : Agent} (hr : u.regs = s.regs) (h : mayRead s ag) : mayRead u ag := by
  simpa only [mayRead, pcieUp, lockTaken, flag_of_rd (rd_of_regs hr _)] using h

/-! ## The pairs (R46, R95) -/

/-- No register is the upper half of one pair and the lower half of another. -/
theorem latchLow_upper {off : Nat} (h : latchLow off = true) : latchLow (off + 4) = false := by
  rw [← Bool.not_eq_true]
  intro h'
  simp only [latchLow, Bool.or_eq_true, Bool.and_eq_true, beq_iff_eq, decide_eq_true_eq] at h h'
  omega

theorem isSome_ite_some {α : Type} {c : Prop} [Decidable c] {a : α} {o : Option α} (h : ¬c → o.isSome = true) :
    (if c then some a else o).isSome = true := by
  split
  · rfl
  · exact h ‹_›

theorem blockOf_isSome_of_latchLow {off : Nat} (h : latchLow off = true) : (blockOf off).isSome = true := by
  simp only [latchLow, Bool.or_eq_true, Bool.and_eq_true, beq_iff_eq, decide_eq_true_eq] at h
  unfold blockOf
  iterate 17 refine isSome_ite_some fun _ => ?_
  exfalso
  omega

theorem readReg_lower {off : Nat} (s : State) (ag : Agent) (h : latchLow off = true) : readReg s ag off = plainRead s off := by
  refine if_neg fun ⟨h4, hl⟩ => ?_
  have hu := latchLow_upper hl
  rw [Nat.sub_add_cancel h4, h] at hu
  cases hu

theorem readReg_upper {off : Nat} (s : State) (ag : Agent) (h : latchLow off = true) :
    readReg s ag (off + 4) = tget 0 s.clk.latch (latchKey ag off) := if_pos ⟨Nat.le_add_left 4 off, h⟩

theorem latchKey_ne {ag other : Agent} (h : other ≠ ag) (x y : Nat) : latchKey other x ≠ latchKey ag y := by
  cases ag with
  | host =>
    cases other with
    | host => exact absurd rfl h
    | control => simp only [latchKey]; omega
  | control =>
    cases other with
    | host => simp only [latchKey]; omega
    | control => exact absurd rfl h

theorem readEffect_latchLow {off : Nat} (ag : Agent) (s : State) (h : latchLow off = true) :
    readEffect ag off s = { s with clk := { s.clk with latch := tset s.clk.latch (latchKey ag off) (plainRead s (off + 4)) } } := by
  rw [readEffect, if_neg (by simp [Option.isSome_iff_ne_none.mp (blockOf_isSome_of_latchLow h)]), if_pos h]

/-! ## LATCHING_READ (R485, R486) -/

/-- What a read of an aligned word that the agent may make leaves. -/
def afterRead (ag : Agent) (off be : Nat) (s : State) : State := match ag with
  | .host => answer (.data (askedBytes be (readReg s .host off))) (readEffect .host off s)
  | .control =>
    let s1 := readEffect .control off s
    { s1 with svc := { s1.svc with word := readReg s .control off &&& laneMask be } }

section
variable {t : Time} {ag : Agent} {off : Nat} {be : Fin 16} {s : State}

theorem exec_latchingRead_aligned (h4 : off % 4 = 0) (hm : mayRead s ag) :
    exec (.latchingRead t ag ⟨off, be⟩) s = .next (afterRead ag off be (advance s t)) := by
  have ho : off / 4 * 4 = off := Nat.div_mul_cancel (Nat.dvd_of_mod_eq_zero h4)
  cases ag with
  | control => simp only [exec_latchingRead, execLatchingRead, ho, afterRead]
  | host =>
    simp only [exec_latchingRead, execLatchingRead, ho]
    obtain hc | ⟨hp, hl⟩ := hm
    · cases hc
    · exact congrArg _ (if_neg (not_not.mpr (Bool.and_eq_true_iff.mpr ⟨hp, hl⟩)))

theorem wordRead_afterRead : wordRead ag (afterRead ag off be s) be (readReg s ag off) := by
  cases ag <;> rfl

theorem afterRead_latchLow (h : latchLow off = true) :
    (afterRead ag off be s).regs = s.regs ∧ (afterRead ag off be s).mem = s.mem ∧
      (afterRead ag off be s).clk.latch = tset s.clk.latch (latchKey ag off) (plainRead s (off + 4)) := by
  cases ag <;> simp [afterRead, answer, readEffect_latchLow _ s h]

/-- What the other agent reads from an upper register stays. -/
theorem readReg_afterRead_other {other : Agent} {x : Nat} (h : latchLow off = true) (ho : other ≠ ag) (hx : latchLow x = true) :
    readReg (afterRead ag off be s) other (x + 4) = readReg s other (x + 4) := by
  obtain ⟨-, -, hl⟩ := afterRead_latchLow (ag := ag) (be := be) (s := s) h
  rw [readReg_upper _ _ hx, readReg_upper _ _ hx, hl, tget_tset_ne _ _ _ _ _ (latchKey_ne ho x off)]

end

/-- A read of a low half and a later one of the upper half by the same agent return the two halves at the instant of the first. -/
theorem pairRead_returns_both_halves (t t2 : Time) (ag : Agent) (off : Nat) (be be2 : Fin 16) (s : State) (h4 : off % 4 = 0)
    (h : latchLow off = true) (hm : mayRead s ag) :
    ∃ u v, exec (.latchingRead t ag ⟨off, be⟩) s = .next u ∧ exec (.latchingRead t2 ag ⟨off + 4, be2⟩) u = .next v ∧
      wordRead ag u be (plainRead (advance s t) off) ∧ wordRead ag v be2 (plainRead (advance s t) (off + 4)) ∧
      u.regs = s.regs ∧ u.mem = s.mem ∧
      ∀ other x, other ≠ ag → latchLow x = true → readReg u other (x + 4) = readReg s other (x + 4) := by
  obtain ⟨u, hu⟩ : ∃ u, u = afterRead ag off be (advance s t) := ⟨_, rfl⟩
  obtain ⟨hr, hme, hl⟩ := afterRead_latchLow (ag := ag) (be := be) (s := advance s t) h
  have hlow : wordRead ag u be (readReg (advance s t) ag off) := hu ▸ wordRead_afterRead
  have hupper : readReg (advance u t2) ag (off + 4) = plainRead (advance s t) (off + 4) := by
    rw [readReg_upper _ ag h, show (advance u t2).clk.latch = u.clk.latch from rfl, hu, hl, tget_tset_same]
  have hother (other : Agent) (x : Nat) (ho : other ≠ ag) (hx : latchLow x = true) :
      readReg u other (x + 4) = readReg s other (x + 4) := by
    rw [hu, readReg_afterRead_other h ho hx, readReg_upper _ _ hx, readReg_upper _ _ hx]
    rfl
  rw [← hu] at hr hme
  refine ⟨u, afterRead ag (off + 4) be2 (advance u t2), ?_, ?_, readReg_lower _ ag h ▸ hlow, hupper ▸ wordRead_afterRead, hr, hme, hother⟩
  · rw [exec_latchingRead_aligned h4 hm, hu]
  · exact exec_latchingRead_aligned (by omega) (mayRead_of_regs hr hm)

/-! ## Words that state other than the register holds (R46, R95) -/

/-- A register none of whose fields has the access code has no bit of it. -/
theorem maskOf_eq_zero {a : Access} {off b : Nat} (hb : blockOf off = some b)
    (h : ∀ d ∈ regsOfBlock b, defHit d off = true → ∀ f ∈ d.fields, f.acc ≠ a) : maskOf a off = 0 := by
  have hf : ∀ f ∈ fieldsAt off, f.acc ≠ a := by
    simp only [fieldsAt, hb]
    split
    · simp
    · next d hd => exact h d (List.mem_of_find?_eq_some hd) (by simpa using List.find?_some hd)
  rw [maskOf, maskWhere, List.filter_eq_nil_iff.mpr fun f hm => by simpa using hf f hm]
  rfl

/-- A register with neither RWC nor write-only fields reads as its status stands. -/
theorem plainRead_eq_viewWord {off : Nat} (s : State) (hc : maskOf .rwc (canonOff off) = 0) (hw : maskOf .wo (canonOff off) = 0) :
    plainRead s off = viewWord s off := by
  have hn (w : Word) : w &&& ~~~(0 : Word) = w := BitVec.and_allOnes
  rw [plainRead, hw, hn, hc]
  cases stagedNow s off with
  | none => rfl
  | some x => exact mergeWord_zero _ x

theorem plainRead_timebase (s : State) :
    plainRead s 0x100 = BitVec.ofNat 32 s.clk.tb ∧ plainRead s 0x104 = BitVec.ofNat 32 (s.clk.tb / 2 ^ 32) ∧
      plainRead s 0x108 = BitVec.ofNat 32 (s.clk.tb / 5000000) ∧ plainRead s 0x10C = BitVec.ofNat 32 (s.clk.tb / 5000000 / 2 ^ 32) := by
  have hm : ∀ off ∈ [0x100, 0x104, 0x108, 0x10C], maskOf .rwc (canonOff off) = 0 ∧ maskOf .wo (canonOff off) = 0 := by
    decide +kernel
  have hp {off : Nat} (h : off ∈ [0x100, 0x104, 0x108, 0x10C]) : plainRead s off = viewWord s off :=
    plainRead_eq_viewWord s (hm off h).1 (hm off h).2
  exact ⟨hp (by simp), hp (by simp), hp (by simp), hp (by simp)⟩

/-! The registers of a context slot: from 0x100 in the window of its logical core, 0x40 apart. -/

/-- The register definitions of the cores' windows that have RWC or write-only fields lie outside the slots' part of the window. -/
theorem regsTc_status_or_outside_slots :
    ∀ d ∈ regsTc, (∀ f ∈ d.fields, f.acc ≠ .rwc ∧ f.acc ≠ .wo) ∨
      d.dims = [(256, 0x1000)] ∧ 0x100000 ≤ d.base ∧ (d.base % 0x1000 < 0x100 ∨ 0x300 ≤ d.base % 0x1000) := by
  decide +kernel

section
variable {off : Nat} (hs : 0x100 ≤ off % 0x1000 ∧ off % 0x1000 < 0x300)
include hs

theorem canonOff_slot : canonOff off = off := if_neg (by omega)

variable (hlo : 0x100000 ≤ off) (hhi : off < 0x200000)
include hlo hhi

omit hs in
theorem blockOf_window : blockOf off = some 8 := by
  unfold blockOf
  repeat rw [if_neg (by omega)]
  rw [if_pos (by omega)]

theorem maskOf_slot {a : Access} (ha : a = .rwc ∨ a = .wo) : maskOf a off = 0 := by
  refine maskOf_eq_zero (blockOf_window hlo hhi) fun d hd hit f hf => ?_
  rcases regsTc_status_or_outside_slots d hd with h | ⟨hdims, hbase, hout⟩
  · obtain rfl | rfl := ha
    · exact (h f hf).1
    · exact (h f hf).2
  · simp only [defHit, hdims, dimsHit, Bool.and_eq_true, decide_eq_true_eq] at hit
    omega

theorem plainRead_slot (s : State) :
    plainRead s off = slotWord s ((off - 0x100000) / 0x1000) ((off % 0x1000 - 0x100) / 0x40) (off % 0x1000 % 0x40) := by
  have hc := canonOff_slot hs
  rw [plainRead_eq_viewWord s (by rw [hc]; exact maskOf_slot hs hlo hhi (.inl rfl)) (by rw [hc]; exact maskOf_slot hs hlo hhi (.inr rfl)),
    viewWord, blockOf_window hlo hhi]
  exact if_pos hs

end

/-- Where the register of slot `k` at `0x100 + 0x40 * k + o` in the window of core `l` lies. -/
theorem plainRead_slotReg (s : State) {l k o : Nat} (hl : l < 256) (hk : k < 8) (ho : o < 0x40) :
    plainRead s (0x100100 + 0x1000 * l + 0x40 * k + o) = slotWord s l k o := by
  rw [plainRead_slot (by omega) (by omega) (by omega) s]
  congr 1 <;> omega

theorem latchLow_slotReg {l k o : Nat} (hl : l < 256) (hk : k < 8) (ho : o = 4 ∨ o = 0xC) :
    latchLow (0x100100 + 0x1000 * l + 0x40 * k + o) = true := by
  simp only [latchLow, Bool.or_eq_true, Bool.and_eq_true, beq_iff_eq, decide_eq_true_eq]
  exact .inl (.inl (.inr ⟨⟨by omega, by omega⟩, .inr ⟨⟨by omega, by omega⟩, by omega⟩⟩))

theorem slotWord_some {s : State} {l k : Nat} {c : SlotCtx} (hc : slotOf s l k = some c) :
    slotWord s l k 4 = BitVec.ofNat 32 c.steps ∧ slotWord s l k 8 = BitVec.ofNat 32 (c.steps / 2 ^ 32) ∧
      slotWord s l k 0xC = BitVec.ofNat 32 (stallNow s l c) ∧ slotWord s l k 0x10 = BitVec.ofNat 32 (stallNow s l c / 2 ^ 32) := by
  simp [slotWord, hc, half, asWord]

/-- Settles O54: a pair is read low half first, the latch keeps the upper half for its agent, and the words of the pairs named are the halves
of what the state holds. -/
theorem lowHalfLatchesUpperHalf : Obligations.LowHalfLatchesUpperHalf := by
  refine ⟨pairRead_returns_both_halves, fun s => ⟨rfl, rfl, plainRead_timebase s⟩, fun s l k c hl hk hc => ?_⟩
  obtain ⟨h4, h8, hC, h10⟩ := slotWord_some hc
  have hr (o : Nat) (ho : o < 0x40) := plainRead_slotReg s hl hk ho
  exact ⟨latchLow_slotReg hl hk (.inl rfl), latchLow_slotReg hl hk (.inr rfl), (hr 4 (by norm_num)).trans h4, (hr 8 (by norm_num)).trans h8,
    (hr 0xC (by norm_num)).trans hC, (hr 0x10 (by norm_num)).trans h10⟩

end Sys2Proof.Proofs
end

section
/-! # The self-timed fabric: the timebase registers, the link and the host's memory -/
namespace Sys2Proof.Proofs
open Sys2Proof Sys2Proof.Machine Sys2Proof.Safety Sys2Proof.Laws

/-! ## The timebase (R45, R47) -/

theorem regSide_writeAdj (s : State) (v : Int) : RegSide s (writeAdj s v) := by
  unfold writeAdj
  dsimp only
  split
  · exact ((RegSide.refl s).wrReg _ _).wrReg _ _
  · exact (((RegSide.refl s).wrReg _ _).wrReg _ _).wrReg _ _

theorem rd_writeAdj (s : State) (v : Int) : rd (writeAdj s v) 0x110 = BitVec.ofInt 32 (clampInt (-500000) 500000 v) := by
  have h1 : rd (setFlag (wrReg s 0x110 (BitVec.ofInt 32 (clampInt (-500000) 500000 v))) 0x11C 0 true) 0x110 =
      BitVec.ofInt 32 (clampInt (-500000) 500000 v) := (rd_setFlag_ne _ 0 true (by decide)).trans (rd_wrReg_same _ _ _)
  unfold writeAdj
  dsimp only
  split
  · exact h1
  · exact (rd_setFlag_ne _ 1 true (by decide)).trans h1

theorem flag_writeAdj_seen (s : State) (v : Int) : flag (writeAdj s v) 0x11C 0 = true := by
  have h1 : flag (setFlag (wrReg s 0x110 (BitVec.ofInt 32 (clampInt (-500000) 500000 v))) 0x11C 0 true) 0x11C 0 = true :=
    flag_setFlag_same _ _ (by norm_num) true
  unfold writeAdj
  dsimp only
  split
  · exact h1
  · exact (flag_setFlag_ne _ _ (by norm_num) (by norm_num) true).trans h1

theorem clampInt_ne {v : Int} (h : 500000 < v.natAbs) : clampInt (-500000) 500000 v ≠ v := by
  have := clampInt_within (-500000) 500000 v (by norm_num)
  omega

theorem flag_writeAdj_limit (s : State) {v : Int} (h : 500000 < v.natAbs) : flag (writeAdj s v) 0x11C 1 = true := by
  rw [writeAdj, if_neg (clampInt_ne h)]
  exact flag_setFlag_same _ _ (by norm_num) true

theorem tbSet_locked {s : State} (w : Word) (h : flag s 0x11C 2 = true) : tbSet w s = bump s 0x218 := if_pos h

theorem val64_set (s : State) (w : Word) : val64 (wrReg s 0x118 w) 0x114 0x118 = (rd s 0x114).toNat + 2 ^ 32 * w.toNat := by
  rw [val64, rd_wrReg_same, rd_wrReg_ne s _ _ _ (by decide)]

/-- Before the lock a write of GLB_TB_SET_HI loads the counter with the value that the two registers then hold, unless it is lower. -/
theorem tbSet_loads {s : State} (w : Word) (h : flag s 0x11C 2 = false) :
    (tbSet w s).clk.tb = max ((rd s 0x114).toNat + 2 ^ 32 * w.toNat) s.clk.tb ∧ rd (tbSet w s) 0x118 = w ∧ (tbSet w s).mem = s.mem := by
  have hr (v : State) : rd (setFlag v 0x11C 0 false) 0x118 = rd v 0x118 := rd_setFlag_ne v 0 false (by decide)
  simp only [tbSet, h, Bool.false_eq_true, if_false, val64_set, wrReg_clk]
  split
  · next hlt => exact ⟨(Nat.max_eq_right hlt.le).symm, rd_wrReg_same _ _ _, rfl⟩
  · next hge =>
    refine ⟨(Nat.max_eq_left (not_lt.mp hge)).symm, ?_, ?_⟩
    · split
      · exact rd_wrReg_same _ _ _
      · exact (hr _).trans (rd_wrReg_same _ _ _)
    · split <;> rfl

/-! ## The link (R456, R482, R484) -/

/-- The word that LINK is set with holds width and speed beside it. -/
theorem linkWord_fields : ∀ width ∈ [1, 2, 4, 8], ∀ speed ∈ [1, 2, 3, 4, 5],
    (BitVec.ofNat 32 (16 * width + 2 * speed + 1)).getLsbD 0 = true ∧
      fieldOf (BitVec.ofNat 32 (16 * width + 2 * speed + 1)).toNat 4 4 = width ∧
      fieldOf (BitVec.ofNat 32 (16 * width + 2 * speed + 1)).toNat 1 3 = speed := by
  decide

theorem exec_pcieLinkUp_down {t : Time} {width speed : Nat} {s : State} (hr : railsUp s = true) (hp : pcieUp s = false)
    (hw : width ∈ [1, 2, 4, 8]) (h1 : 1 ≤ speed) (h5 : speed ≤ 5) :
    exec (.pcieLinkUp t width speed) s = .next (wrReg (advance s t) 0x480000 (BitVec.ofNat 32 (16 * width + 2 * speed + 1))) := by
  have hr' : railsUp (advance s t) = true := hr
  have hp' : pcieUp (advance s t) = false := hp
  rw [exec_pcieLinkUp, execPcieLinkUp]
  exact congrArg _ (if_neg (by simp [hr', hp', hw]; omega))

/-- The registers of two telemetry rings, or two of one ring, lie apart. -/
theorem trReg_ne {r q o p : Nat} (h : r ≠ q ∨ o ≠ p) (ho : o < 0x40) (hp : p < 0x40) : canonOff (trReg r o) ≠ canonOff (trReg q p) :=
  canonOff_ne (by unfold trReg; omega) (by unfold trReg; omega) (by unfold trReg; omega)

theorem rd_ringsOff_ne (s : State) {o : Nat} (h : ∀ r, canonOff o ≠ canonOff (trReg r 8)) : rd (ringsOff s) o = rd s o :=
  rd_foldl_of_untouched s fun v r _ => rd_setFlag_ne v 31 false (h r)

theorem trOn_ringsOff (s : State) {r : Nat} (h : r < 4) : trOn (ringsOff s) r = false := by
  have hg : rd (ringsOff s) (trReg r 8) = putField (rd s (trReg r 8)) 31 1 0 :=
    rd_foldl_of_once s (g := fun w => putField w 31 1 0) (nodup_rangeFrom 0 4) ((mem_rangeFrom _ _ _).mpr (by omega))
      (fun v i hi => rd_setFlag_ne v 31 false (trReg_ne (.inl hi.symm) (by norm_num) (by norm_num)))
      (fun v => rd_setFld_same v _ _ _ _)
  rw [trOn, flag, hg, getLsbD_putField]
  rfl

/-- The link is lost: what PCIE_LINK_DOWN leaves where it was up. -/
def linkLost (lost : List Nat) (s : State) : State :=
  (rangeFrom 0 4).foldl (fun s r => bumpBy s (trReg r 0x18) (nth 0 lost r)) (ringsOff (wrReg s 0x480000 0))

theorem rd_linkLost_ne (lost : List Nat) (s : State) {o : Nat} (h : ∀ r, canonOff o ≠ canonOff (trReg r 0x18)) :
    rd (linkLost lost s) o = rd (ringsOff (wrReg s 0x480000 0)) o :=
  rd_foldl_of_untouched _ fun v r _ => rd_bumpBy_ne v _ (h r)

theorem linkLost_drops (lost : List Nat) (s : State) {r : Nat} (h : r < 4) :
    rd (linkLost lost s) (trReg r 0x18) = rd s (trReg r 0x18) + BitVec.ofNat 32 (nth 0 lost r) := by
  have hw : canonOff (trReg r 0x18) ≠ canonOff 0x480000 := canonOff_ne (by unfold trReg; omega) (by norm_num) (by unfold trReg; omega)
  have hg : rd (linkLost lost s) (trReg r 0x18) = rd (ringsOff (wrReg s 0x480000 0)) (trReg r 0x18) + BitVec.ofNat 32 (nth 0 lost r) :=
    rd_foldl_of_once _ (g := fun w => w + BitVec.ofNat 32 (nth 0 lost r)) (nodup_rangeFrom 0 4) ((mem_rangeFrom _ _ _).mpr (by omega))
      (fun v i hi => rd_bumpBy_ne v _ (trReg_ne (.inl hi.symm) (by norm_num) (by norm_num))) (fun v => rd_bumpBy v _ _)
  rw [hg, rd_ringsOff_ne _ fun q => trReg_ne (.inr (by norm_num)) (by norm_num) (by norm_num), rd_wrReg_ne s _ _ _ hw]

theorem regSide_linkLost (lost : List Nat) (s : State) : RegSide s (linkLost lost s) :=
  .foldl (.foldl ((RegSide.refl s).wrReg _ _) fun _ _ h => h.wrReg _ _) fun _ _ h => h.wrReg _ _

theorem pcieUp_linkLost (lost : List Nat) (s : State) : pcieUp (linkLost lost s) = false := by
  have h0 (r o : Nat) : canonOff 0x480000 ≠ canonOff (trReg r o) :=
    canonOff_ne (by norm_num) (by unfold trReg; omega) (by unfold trReg; omega)
  rw [pcieUp, flag, rd_linkLost_ne _ _ fun r => h0 r 0x18, rd_ringsOff_ne _ fun r => h0 r 8, rd_wrReg_same]
  rfl

theorem trOn_linkLost (lost : List Nat) (s : State) {r : Nat} (h : r < 4) : trOn (linkLost lost s) r = false := by
  have hn (q : Nat) : canonOff (trReg r 8) ≠ canonOff (trReg q 0x18) := trReg_ne (.inr (by norm_num)) (by norm_num) (by norm_num)
  rw [trOn, flag_of_rd (rd_linkLost_ne lost s hn)]
  exact trOn_ringsOff _ h

theorem exec_pcieLinkDown_up {t : Time} {lost : List Nat} {s : State} (h : pcieUp s = true) :
    exec (.pcieLinkDown t lost) s = .next (linkLost lost (advance s t)) := congrArg _ (if_neg (not_not.mpr h))

/-! ## The reset of the host interface (R484) -/

/-- The aperture registers are at their reset values. -/
def aperturesReset (s : State) : State := (rangeFrom 0 4).foldl (fun s w => wrReg s (apReg w) 0) s

/-- The mailboxes, on the host's side, are at their reset values. -/
def mailboxesReset (s : State) : State :=
  (rangeFrom 0 8).foldl (fun s m => (rangeFrom 0 17).foldl (fun s k => wrReg s (mboxReg m (4 * k)) 0) s) s

/-- The register words after a reset of the host interface. -/
def hifRegsReset (s : State) : State := mailboxesReset (aperturesReset (ringsReset (wrReg s 0x480000 0)))

theorem regs_hifReset (s : State) : (hifReset s).regs = (hifRegsReset s).regs := by
  simp only [hifReset, hifRegsReset, mailboxesReset, aperturesReset, apReg, mboxReg, Nat.add_assoc]

theorem regSide_aperturesReset {s u : State} (h : RegSide s u) : RegSide s (aperturesReset u) :=
  RegSide.foldl h fun _ _ h => h.wrReg _ _

theorem regSide_mailboxesReset {s u : State} (h : RegSide s u) : RegSide s (mailboxesReset u) :=
  RegSide.foldl h fun _ _ h => RegSide.foldl h fun _ _ h => h.wrReg _ _

theorem regSide_hifRegsReset (s : State) : RegSide s (hifRegsReset s) :=
  regSide_mailboxesReset (regSide_aperturesReset ⟨_, rfl⟩)

/-- A reset of the host interface leaves device memory, safe I/O, the cores and the host's memory alone. -/
theorem hifReset_frame (s : State) :
    (hifReset s).mem = s.mem ∧ (hifReset s).sio = s.sio ∧ (hifReset s).tc = s.tc ∧ (hifReset s).hif.mem = s.hif.mem := by
  obtain ⟨r, hr⟩ := regSide_hifRegsReset s
  have hs : hifReset s = { hifRegsReset s with hif := { Hif.reset with mem := (hifRegsReset s).hif.mem, memrd := (hifRegsReset s).hif.memrd }, svc := (hifReset s).svc } := by
    simp only [hifReset, hifRegsReset, mailboxesReset, aperturesReset, apReg, mboxReg, Nat.add_assoc]
  rw [hs, hr]
  exact ⟨rfl, rfl, rfl, rfl⟩

/-- Writing the same word to a list of registers leaves it in each of them. -/
theorem rd_foldl_wrReg {α : Type} {o : α → Nat} {v : Word} {l : List α} {k : α} (s : State) (hk : k ∈ l) :
    rd (l.foldl (fun s i => wrReg s (o i) v) s) (o k) = v := by
  induction l generalizing s with
  | nil => cases hk
  | cons i l ih =>
    by_cases h : k ∈ l
    · exact ih _ h
    · obtain rfl := (List.mem_cons.mp hk).resolve_right h
      refine List.foldlRecOn (motive := fun u => rd u (o k) = v) l _ (rd_wrReg_same s _ v) fun u hu j _ => ?_
      by_cases hj : canonOff (o k) = canonOff (o j)
      · rw [rd, hj]; exact rd_wrReg_same u (o j) v
      · exact (rd_wrReg_ne u _ _ v hj).trans hu

theorem rd_ringsReset_other (s : State) {o : Nat} (ho : 0x200000 ≤ o) (h : o < 0x480500 ∨ 0x480600 ≤ o) : rd (ringsReset s) o = rd s o := by
  rw [rd, ringsReset, tget?_filter_key (fun k => !(decide (0x480500 ≤ k) && decide (k < 0x480600) && decide (k % 0x40 ≠ 0x18))),
    canonOff_of_ge ho, if_pos (by simp; omega), rd, canonOff_of_ge ho]

theorem rd_ringsReset_control (s : State) {r : Nat} (h : r < 4) : rd (ringsReset s) (trReg r 8) = regReset (trReg r 8) := by
  have hr : 0x480500 ≤ trReg r 8 ∧ trReg r 8 < 0x480600 ∧ trReg r 8 % 0x40 = 8 := by
    unfold trReg
    omega
  have ho : canonOff (trReg r 8) = trReg r 8 := canonOff_of_ge (by omega)
  rw [rd, ringsReset, tget?_filter_key (fun k => !(decide (0x480500 ≤ k) && decide (k < 0x480600) && decide (k % 0x40 ≠ 0x18))),
    ho, if_neg (by simp [hr])]
  rfl

theorem rd_aperturesReset_other (s : State) {o : Nat} (ho : 0x200000 ≤ o) (h : o < 0x480040 ∨ 0x480080 ≤ o) :
    rd (aperturesReset s) o = rd s o :=
  rd_foldl_of_untouched s fun v w hw => rd_wrReg_ne v _ _ _ (by
    rw [mem_rangeFrom] at hw
    exact canonOff_ne ho (by unfold apReg; omega) (by unfold apReg; omega))

theorem rd_mailboxReset_other (s : State) (m : Nat) {o : Nat} (ho : 0x200000 ≤ o) (h : o < mboxReg m 0 ∨ mboxReg m 0x44 ≤ o) :
    rd ((rangeFrom 0 17).foldl (fun s k => wrReg s (mboxReg m (4 * k)) 0) s) o = rd s o :=
  rd_foldl_of_untouched s fun v k hk => rd_wrReg_ne v _ _ _ (by
    rw [mem_rangeFrom] at hk
    exact canonOff_ne ho (by unfold mboxReg; omega) (by unfold mboxReg at *; omega))

theorem rd_mailboxesReset_other (s : State) {o : Nat} (ho : 0x200000 ≤ o) (h : o < 0x480100 ∨ 0x480500 ≤ o) :
    rd (mailboxesReset s) o = rd s o :=
  rd_foldl_of_untouched s fun v m hm => rd_mailboxReset_other v m ho (by
    rw [mem_rangeFrom] at hm
    unfold mboxReg
    omega)

theorem rd_mailboxesReset_control (s : State) {m : Nat} (h : m < 8) : rd (mailboxesReset s) (mboxReg m 0x40) = 0 :=
  rd_foldl_of_once s (g := fun _ => 0) (nodup_rangeFrom 0 8) ((mem_rangeFrom _ _ _).mpr (by omega))
    (fun v i hi => rd_mailboxReset_other v i (by unfold mboxReg; omega) (by unfold mboxReg; omega))
    (fun v => rd_foldl_wrReg (o := fun k => mboxReg m (4 * k)) (k := 16) v ((mem_rangeFrom _ _ _).mpr (by omega)))

theorem pcieUp_hifReset (s : State) : pcieUp (hifReset s) = false := by
  rw [pcieUp, flag, rd_of_regs (regs_hifReset s), hifRegsReset, rd_mailboxesReset_other _ (by norm_num) (.inl (by norm_num)),
    rd_aperturesReset_other _ (by norm_num) (.inl (by norm_num)), rd_ringsReset_other _ (by norm_num) (.inl (by norm_num)), rd_wrReg_same]
  rfl

theorem trOn_hifReset (s : State) {r : Nat} (h : r < 4) : trOn (hifReset s) r = false := by
  have hlo : 0x480500 ≤ trReg r 8 := by unfold trReg; omega
  have hoff : ∀ r < 4, (regReset (trReg r 8)).getLsbD 31 = false := by decide
  rw [trOn, flag, rd_of_regs (regs_hifReset s), hifRegsReset, rd_mailboxesReset_other _ (by omega) (.inr hlo),
    rd_aperturesReset_other _ (by omega) (.inr (by omega)), rd_ringsReset_control _ h, hoff r h]

theorem aperture_hifReset (s : State) {r : Nat} (h : r < 4) (i : Nat) : flag (hifReset s) (apReg r) i = false := by
  have hz (v : State) : rd (aperturesReset v) (apReg r) = 0 := rd_foldl_wrReg v ((mem_rangeFrom _ _ _).mpr (by omega))
  rw [flag, rd_of_regs (regs_hifReset s), hifRegsReset, rd_mailboxesReset_other _ (by unfold apReg; omega) (.inl (by unfold apReg; omega)), hz]
  exact BitVec.getLsbD_zero

theorem mboxOwned_hifReset (s : State) {m : Nat} (h : m < 8) : mboxOwned (hifReset s) m = false := by
  rw [mboxOwned, flag, rd_of_regs (regs_hifReset s), hifRegsReset, rd_mailboxesReset_control _ h]
  rfl

/-! ## Configuration requests (R483) -/

theorem mergeWord_and_mask (m a b : Word) : mergeWord m a b &&& m = b &&& m :=
  and_eq_and_of_bits fun i hi => by rw [getLsbD_mergeWord, if_pos hi]

theorem exec_pcieConfigRequest_early {t : Time} {wr : Bool} {off : Nat} {be : Fin 16} {w : Word} {s : State} (hp : pcieUp s = true)
    (h : phase s < 3) : exec (.pcieConfigRequest t wr off be w) s = .next (answer .retry (advance s t)) := by
  have hp' : pcieUp (advance s t) = true := hp
  have h' : phase (advance s t) < 3 := h
  rw [exec_pcieConfigRequest, execPcieConfigRequest]
  simp [hp', h']

theorem exec_pcieConfigRequest_read {t : Time} {off : Nat} {be : Fin 16} {w v : Word} {s : State} (hp : pcieUp s = true)
    (h : 3 ≤ phase s) (ho : off / 4 * 4 % 4096 = off) (hv : cfgFixed (advance s t) off = some v) :
    exec (.pcieConfigRequest t false off be w) s =
      .next (answer (.data (leBytes 4 (v ||| (tget 0 s.hif.cfg off &&& cfgMask off)).toNat)) (advance s t)) := by
  have hp' : pcieUp (advance s t) = true := hp
  have h' : ¬phase (advance s t) < 3 := Nat.not_lt.mpr h
  rw [exec_pcieConfigRequest, execPcieConfigRequest]
  simp [hp', h', ho, cfgRead, hv]

theorem exec_pcieConfigRequest_write {t : Time} {off : Nat} {be : Fin 16} {w : Word} {s : State} (hp : pcieUp s = true)
    (h : 3 ≤ phase s) (ho : off / 4 * 4 % 4096 = off) (hm : cfgMask off ≠ 0) :
    exec (.pcieConfigRequest t true off be w) s = .next (answer .none { advance s t with
      hif := { s.hif with cfg := tset s.hif.cfg off (mergeWord (laneMask be &&& cfgMask off) (tget 0 s.hif.cfg off) w) } }) := by
  have hp' : pcieUp (advance s t) = true := hp
  have h' : ¬phase (advance s t) < 3 := Nat.not_lt.mpr h
  rw [exec_pcieConfigRequest, execPcieConfigRequest]
  simp only [hp', h', ho, hm, not_true, if_false, if_true]
  rfl

/-- The identity word: 0x5120 and the vendor. -/
theorem identityWord (s : State) :
    (BitVec.ofNat 32 (0x5120 * 2 ^ 16 + fld s 0x480008 0 16)).toNat = 0x51200000 + fld s 0x480008 0 16 := by
  have h : fld s 0x480008 0 16 < 2 ^ 16 := Nat.mod_lt _ (by norm_num)
  rw [BitVec.toNat_ofNat]
  omega

theorem exec_pcieConfigRequest_identity (t : Time) (be : Fin 16) (w : Word) {s : State} (hp : pcieUp s = true) (h : 3 ≤ phase s) :
    exec (.pcieConfigRequest t false 0 be w) s =
      .next (answer (.data (leBytes 4 (0x51200000 + fld s 0x480008 0 16))) (advance s t)) := by
  have hm : cfgMask 0 = 0 := by decide
  have hz (v x : Word) : v ||| (x &&& 0) = v := by simp
  rw [exec_pcieConfigRequest_read hp h (by norm_num) (v := BitVec.ofNat 32 (0x5120 * 2 ^ 16 + fld s 0x480008 0 16)) rfl, hm,
    hz, identityWord]

/-- All ones written to BAR0 and read back: its size and type. -/
theorem exec_pcieConfigRequest_size (t t2 : Time) (be : Fin 16) (w : Word) {s : State} (hp : pcieUp s = true) (h : 3 ≤ phase s) :
    ∃ u v, exec (.pcieConfigRequest t true 0x10 15 0xFFFFFFFF) s = .next u ∧ exec (.pcieConfigRequest t2 false 0x10 be w) u = .next v ∧
      v.regs = s.regs ∧ v.hif.answer = .data (leBytes 4 0xFF800004) := by
  have hl : laneMask (15 : Fin 16) &&& cfgMask 0x10 = cfgMask 0x10 := by decide
  refine ⟨_, _, exec_pcieConfigRequest_write hp h (by norm_num) (by decide),
    exec_pcieConfigRequest_read (v := 4) ?_ ?_ (by norm_num) rfl, rfl, ?_⟩
  · exact hp
  · exact h
  · simp only [answer, tget_tset_same, hl, mergeWord_and_mask]
    decide

/-! ## The DRAM window (R483, R488, R489) -/

section
variable {off len a : Nat} {bs : List Byte} {s : State}

theorem exec_hostDramRead_at (t : Time) (hp : pcieUp s = true) (h : 3 ≤ phase s) (hl : len ≠ 0) (ha : apAddr s false off len = some a) :
    exec (.hostDramRead t off len) s = .next (answer (.data (rdMem s a len)) (advance s t)) := by
  have hp' : pcieUp (advance s t) = true := hp
  have h' : ¬phase (advance s t) < 3 := Nat.not_lt.mpr h
  have ha' : apAddr (advance s t) false off len = some a := ha
  rw [exec_hostDramRead, execHostDramRead]
  simp only [hp', h', hl, not_true, or_self, if_false, ha']
  rfl

theorem exec_hostDramRead_refused (t : Time) (hp : pcieUp s = true) (h : 3 ≤ phase s) (hl : len ≠ 0) (ha : apAddr s false off len = none) :
    exec (.hostDramRead t off len) s = .next (answer .unsupported (bump (advance s t) 0x480018)) := by
  have hp' : pcieUp (advance s t) = true := hp
  have h' : ¬phase (advance s t) < 3 := Nat.not_lt.mpr h
  have ha' : apAddr (advance s t) false off len = none := ha
  rw [exec_hostDramRead, execHostDramRead]
  simp only [hp', h', hl, not_true, or_self, if_false, ha']

theorem exec_hostDramWrite_at (t : Time) (hp : pcieUp s = true) (h : 3 ≤ phase s) (hb : bs ≠ []) (ha : apAddr s true off bs.length = some a) :
    exec (.hostDramWrite t off bs) s = .next (answer .none (wrMem (advance s t) a bs)) := by
  have hp' : pcieUp (advance s t) = true := hp
  have h' : ¬phase (advance s t) < 3 := Nat.not_lt.mpr h
  have ha' : apAddr (advance s t) true off bs.length = some a := ha
  rw [exec_hostDramWrite, execHostDramWrite]
  simp only [hp', h', hb, not_true, or_self, if_false, ha']

theorem exec_hostDramWrite_refused (t : Time) (hp : pcieUp s = true) (h : 3 ≤ phase s) (hb : bs ≠ []) (ha : apAddr s true off bs.length = none) :
    exec (.hostDramWrite t off bs) s = .next (answer .none (bump (advance s t) 0x480018)) := by
  have hp' : pcieUp (advance s t) = true := hp
  have h' : ¬phase (advance s t) < 3 := Nat.not_lt.mpr h
  have ha' : apAddr (advance s t) true off bs.length = none := ha
  rw [exec_hostDramWrite, execHostDramWrite]
  simp only [hp', h', hb, not_true, or_self, if_false, ha']

end

/-- The accesses that the window lets through before a failure: inside an enabled aperture with the permission, below the top of usable
DRAM, and no write of the Wardrobe's memory. -/
theorem apAddr_permits {s : State} {wr : Bool} {off n a : Nat} (hp : phase s ≠ 15) (h : apAddr s wr off n = some a) :
    flag s (apReg (off / 2 ^ 32)) 31 = true ∧ flag s (apReg (off / 2 ^ 32)) (if wr then 29 else 30) = true ∧ a + n ≤ memTop s ∧
      (wr = true → inKv s a n = false) := by
  rw [apAddr, if_neg hp] at h
  dsimp only at h
  obtain ⟨⟨-, -, hon, hperm, htop, hkv⟩, ha⟩ := Option.ite_none_right_eq_some.mp h
  obtain rfl := Option.some.inj ha
  exact ⟨hon, hperm, htop, fun hw => by simpa [hw] using hkv⟩

/-! ## Mailboxes (R490) -/

theorem mailboxGo_free {m : Nat} {w : Word} {s : State} (hg : w.getLsbD 31 = true) (h : mboxOwned s m = false) :
    mboxOwned (mailboxGo m w s) m = true ∧ (mailboxGo m w s).mem = s.mem ∧
      (mailboxGo m w s).svc.queue = s.svc.queue ++ [(m, mboxData s m, false)] := by
  rw [mailboxGo, if_neg (by simp [hg, h])]
  exact ⟨flag_setFlag_same s _ (by norm_num) true, rfl, rfl⟩

theorem mailboxGo_owned {m : Nat} {w : Word} {s : State} (h : mboxOwned s m = true) : mailboxGo m w s = s := if_pos (.inr h)

/-- Settles O56: each command is its operation on the advanced state, and the sections above say what that leaves. -/
theorem timebaseLinkAndHostMemory : Obligations.TimebaseLinkAndHostMemory := by
  refine ⟨fun t ag w s hw => ?_, fun t ag w s hw => ⟨fun hl => ?_, fun hl => ?_⟩, fun t width speed s hr hp hw h1 h5 => ?_,
    fun t lost s hp => ?_, fun t s => ?_, fun t wr off be w s hp => ⟨fun h => ?_, fun h => ?_, fun h t2 => exec_pcieConfigRequest_size t t2 be w hp h⟩,
    fun t off len s hp h hl => ⟨fun a ha => ?_, fun ha => ?_⟩, fun t off bs s hp h hb => ⟨fun a ha => ?_, fun ha => ?_⟩,
    fun s wr off n a => apAddr_permits, fun t ag m w s hw hg => ⟨fun ho => ?_, fun ho => ?_⟩⟩
  · refine ⟨writeAdj (advance s t) (sx 32 w.toNat), ?_, ?_, rd_writeAdj _ _, flag_writeAdj_seen _ _, flag_writeAdj_limit _⟩
    · rw [exec_glbTbAdjWrite, execGlbTbAdjWrite, onWrite_of_writeTakes _ hw]
    · rw [(regSide_writeAdj _ _).eq]
  · obtain ⟨htb, hset, hm⟩ := tbSet_loads (s := advance s t) w hl
    refine ⟨_, ?_, htb, hset, hm⟩
    rw [exec_glbTbSet, execGlbTbSet, onWrite_of_writeTakes _ hw]
  · rw [exec_glbTbSet, execGlbTbSet, onWrite_of_writeTakes _ hw, tbSet_locked (s := advance s t) w hl]
  · obtain ⟨hup, hwidth, hspeed⟩ := linkWord_fields width hw speed (by simp; omega)
    refine ⟨_, exec_pcieLinkUp_down hr hp hw h1 h5, ?_, ?_, ?_, rfl⟩
    · rw [pcieUp, flag, rd_wrReg_same, hup]
    · rw [fld, rd_wrReg_same, hwidth]
    · rw [fld, rd_wrReg_same, hspeed]
  · exact ⟨_, exec_pcieLinkDown_up hp, pcieUp_linkLost _ _, fun r hr => ⟨trOn_linkLost _ _ hr, linkLost_drops lost _ hr⟩,
      (regSide_linkLost lost _).eq⟩
  · exact ⟨_, rfl, pcieUp_hifReset _, fun r hr => ⟨trOn_hifReset _ hr, aperture_hifReset _ hr 31⟩, fun m hm => mboxOwned_hifReset _ hm,
      hifReset_frame _⟩
  · exact ⟨_, exec_pcieConfigRequest_early hp h, rfl⟩
  · exact ⟨_, exec_pcieConfigRequest_identity t be w hp h, rfl, rfl⟩
  · exact ⟨_, exec_hostDramRead_at t hp h hl ha, rfl, rfl, rfl⟩
  · exact ⟨_, exec_hostDramRead_refused t hp h hl ha, rfl, rd_bump (advance s t) _, rfl⟩
  · exact ⟨_, exec_hostDramWrite_at t hp h hb ha, rfl, rfl⟩
  · exact ⟨_, exec_hostDramWrite_refused t hp h hb ha, rfl, rd_bump (advance s t) _⟩
  · obtain ⟨howned, hmem, hq⟩ := mailboxGo_free (s := advance s t) (m := m) hg ho
    refine ⟨_, ?_, howned, hmem, hq⟩
    rw [exec_mailboxGo, execMailboxGo, onWrite_of_writeTakes _ hw]
  · rw [exec_mailboxGo, execMailboxGo, onWrite_of_writeTakes _ hw, mailboxGo_owned (s := advance s t) ho]

end Sys2Proof.Proofs
end

section
/-! # The self-timed fabric: a Sync of a master that has lapsed -/
namespace Sys2Proof.Proofs
open Sys2Proof Sys2Proof.Machine Sys2Proof.Safety Sys2Proof.Laws

/-- The servo is on, on port 0 in camera mode, over UDP in domain 127; the only master announced itself at instant 0, every 2 s. -/
def servoWithMaster : State :=
  { State.reset with
    regs := [(0x200000, 0x40000000), (0x200800, 0x8000007F)]
    ing := { Ing.reset with masters := [⟨3, ⟨128, 6, 33, 0, 128, 1, 0, 8⟩, 0, true⟩] } }

/-- A message of that master. -/
def masterMessage : PtpMsg := ⟨0, false, 127, 3⟩

/-- A Sync that is not of the best master at the instant it comes is ignored (R304). -/
theorem ptpSync_of_other {s : State} {m : PtpMsg} (gm iv : Nat) (h : ofMaster s m = false) : ptpSync s m gm iv = s :=
  if_pos (by simp [h])

/-- The master counts before the command. -/
theorem servoWithMaster_takes : ptpTaken servoWithMaster masterMessage 8 = true ∧ ofMaster servoWithMaster masterMessage = true := by
  decide +kernel

/-- Three of its intervals later its last Announce is too old, and there is no master (R304; log entry 88). -/
theorem servoWithMaster_lapses : ofMaster (advance servoWithMaster (3 * intervalNs 8)) masterMessage = false := by
  decide +kernel

/-- Refutes O35: its hypotheses name the best master of the state before the command, and the command first advances the time to its own instant.
A Sync three intervals after the last Announce of the only master comes when that master no longer counts, so it is not used, and SYNC_COUNT,
which the statement has one more than before, stays. -/
theorem not_ptpDisciplinesTheTimebase : ¬ Obligations.PtpDisciplinesTheTimebase := by
  rintro ⟨hsync, -⟩
  obtain ⟨htaken, hmaster⟩ := servoWithMaster_takes
  obtain ⟨u, hu, -, hcount, -⟩ := hsync (3 * intervalNs 8) masterMessage 1000 8 servoWithMaster htaken hmaster
  rw [exec_ptpSync, execPtpSync, ptpSync_of_other _ _ servoWithMaster_lapses] at hu
  cases hu
  have hne (w : Word) : w ≠ w + 1 := by bv_omega
  exact hne _ hcount

end Sys2Proof.Proofs
end

section
/-! # The self-timed fabric: chains of DMA descriptors -/
namespace Sys2Proof.Proofs
open Sys2Proof Sys2Proof.Machine Sys2Proof.Safety Sys2Proof.Laws

/-! ## Queues -/

theorem queueOf_of_dma {s u : State} (h : u.dma = s.dma) (e vc : Nat) : queueOf u e vc = queueOf s e vc := by
  rw [queueOf, queueOf, engineOf, engineOf, h]

theorem queueOf_setQueue (s : State) (e vc : Nat) (l : List Chain) : queueOf (setQueue s e vc l) e vc = l := by
  cases l with
  | nil => simp [queueOf, engineOf, setQueue, tget]
  | cons c l => simp [queueOf, engineOf, setQueue]

theorem queueOf_setHead {s : State} {e vc : Nat} {c c1 : Chain} {r : List Chain} (h : queueOf s e vc = c :: r) :
    queueOf (setHead s e vc c1) e vc = c1 :: r := by
  rw [setHead, queueOf_setQueue, h, List.drop_one, List.tail_cons]

theorem coreSide_dma {s u : State} (h : CoreSide s u) : u.dma = s.dma := by
  obtain ⟨_, _, _, rfl⟩ := h; rfl

/-! ## Offsets of the engines' registers -/

/-- Below the windows of the logical cores and within them offsets lie apart. -/
theorem canonOff_ne_window {o p : Nat} (ho : o < 0x100000) (hp : 0x100000 ≤ p) : canonOff o ≠ canonOff p := by
  rw [canonOff_of_lt ho]
  unfold canonOff
  split <;> omega

theorem canonOff_ne_low {o p : Nat} (ho : o < 0x100000) (hp : p < 0x100000) (h : o ≠ p) : canonOff o ≠ canonOff p := by
  rwa [canonOff_of_lt ho, canonOff_of_lt hp]

theorem dmaReg_bounds (e : Fin 22) {o : Nat} (ho : o < 0x100) : 0x80000 ≤ dmaReg e o ∧ dmaReg e o < 0x81600 := by
  have := e.isLt
  unfold dmaReg
  omega

theorem dmaReg_ne (e : Fin 22) {o p : Nat} (ho : o < 0x100) (hp : p < 0x100) (h : o ≠ p) : canonOff (dmaReg e o) ≠ canonOff (dmaReg e p) := by
  have h1 := dmaReg_bounds e ho
  have h2 := dmaReg_bounds e hp
  exact canonOff_ne_low (by omega) (by omega) (by unfold dmaReg; omega)

/-- The registers of the engines lie apart from those below them. -/
theorem dmaReg_ne_low (e : Fin 22) {o p : Nat} (ho : o < 0x100) (hp : p < 0x80000) : canonOff (dmaReg e o) ≠ canonOff p := by
  have h1 := dmaReg_bounds e ho
  exact canonOff_ne_low (by omega) (by omega) (by omega)

/-! ## What the instant of a command does not change -/

theorem checkBlocks_advance (s : State) (t : Time) (k : Nat) (wr : Bool) (a n b : Nat) :
    checkBlocks (advance s t) k wr a n b = checkBlocks s k wr a n b := by
  induction n generalizing b with
  | zero => rfl
  | succ n ih => simp only [checkBlocks, ih]; rfl

theorem checkAcc_advance (s : State) (t : Time) (k : Nat) (wr : Bool) (a n : Nat) : checkAcc (advance s t) k wr a n = checkAcc s k wr a n := by
  simp only [checkAcc, checkBlocks_advance]

theorem pastRead_advance (s : State) (t : Time) (p n a len : Nat) : pastRead (advance s t) p n a len = pastRead s p n a len := rfl

theorem fetchBurst_advance (s : State) (t : Time) (c : Chain) (i : Nat) : fetchBurst (advance s t) c i = fetchBurst s c i := by
  simp only [fetchBurst, checkAcc_advance, pastRead_advance]

theorem dmaAcc_advance (s : State) (t : Time) (p : Nat) (wr : Bool) (a n : Nat) : dmaAcc (advance s t) p wr a n = dmaAcc s p wr a n := by
  simp only [dmaAcc, checkAcc_advance]
  rfl

theorem descAcc_advance (s : State) (t : Time) (p : Nat) (d : List Byte) : descAcc (advance s t) p d = descAcc s p d := by
  simp only [descAcc, dmaAcc_advance]

/-! ## Acceptance (R203) -/

/-- A chain behind those that wait, with its first burst fetched and counted. -/
def chainPut (s : State) (e vc : Nat) (c : Chain) : State :=
  bump (setQueue s e vc (queueOf s e vc ++ [fetchBurst s c 0])) (dmaReg e 0x14)

theorem chainPut_keeps (s : State) (e vc : Nat) (c : Chain) :
    queueOf (chainPut s e vc c) e vc = queueOf s e vc ++ [fetchBurst s c 0] ∧ (chainPut s e vc c).mem = s.mem ∧ (chainPut s e vc c).tc = s.tc ∧
      rd (chainPut s e vc c) (dmaReg e 0x14) = rd s (dmaReg e 0x14) + 1 :=
  ⟨queueOf_setQueue s e vc _, rfl, rfl, rd_bump _ _⟩

/-- The chain of a block behind an I/O router. -/
def routerChain (p n base count : Nat) : Chain := ⟨p, n, none, 0, 0, base, count, false, none, [], [], 0, [], []⟩

/-- The chain of a DMA instruction in flight. -/
def ownedChain (p n l k base count : Nat) (f : InFlight) : Chain :=
  ⟨p, n, some l, k, f.ip, base, count, bit f.bytes 0x04 0, if bit f.bytes 0x04 0 && doneOf f.bytes then some (doneTokOf f.bytes) else none,
    [], [], 0, [], []⟩

section
variable {s : State} {e p n base count l k i : Nat} {f : InFlight}

theorem chainAccept_router (h0 : 0 < count) (h1 : count ≤ 65535) (he : 16 ≤ e) :
    chainAccept s e p n base count = chainPut s e (chainVc s e p) (routerChain p n base count) := by
  rw [chainAccept, if_neg (by omega), if_pos he]
  rfl

theorem chainAccept_owned (h0 : 0 < count) (h1 : count ≤ 65535) (he : e < 16) (ho : chainOwner s e p n base count = some (l, k, i))
    (hf : flightAt s l k i = some f) :
    let u := chainPut s e (chainVc s e p) (ownedChain p n l k base count f)
    chainAccept s e p n base count = if bit f.bytes 0x04 0 then settle (setFlight u l k i { f with ext := .none }) l k else u := by
  rw [chainAccept, if_neg (by omega)]
  simp only [ho, hf, if_neg (Nat.not_le.mpr he)]
  rfl

end

/-! ## Start (R203, R205) -/

theorem descStart_ready {s : State} {e vc : Nat} {c : Chain} {r : List Chain} (hq : queueOf s e vc = c :: r) (hlt : c.started.length < c.count)
    (hf : tget? c.descs c.started.length ≠ none) (he : descErr (descOf c c.started.length) = []) (hr : descReady c c.started.length = true) :
    let c1 := { c with started := c.started ++ [c.started.length] }
    let u := descStart s e vc c.started.length
    u.mem = s.mem ∧ u.tc = s.tc ∧
      queueOf u e vc = (if c.started.length % 16 = 0 ∧ c.fetched < c.count then fetchBurst s c1 c.fetched else c1) :: r := by
  have hgo : ¬(c.started.length ≠ c.started.length ∨ c.count ≤ c.started.length ∨ (tget? c.descs c.started.length).isNone = true ∨
      ¬(descErr (descOf c c.started.length)).isEmpty = true ∨ ¬descReady c c.started.length = true) := by
    simp [he, hr, hlt, hf]
  simp only [descStart, hq, if_neg hgo, Bool.and_eq_true, decide_eq_true_eq]
  split
  · exact ⟨rfl, rfl, queueOf_setHead hq⟩
  · exact ⟨rfl, rfl, queueOf_setHead hq⟩

/-! ## Completion (R204, R205) -/

theorem rd_bankAbort_low (s : State) (l b : Nat) {o : Nat} (h : o < 0x100000) : rd (bankAbort s l b) o = rd s o := by
  unfold bankAbort
  split
  · exact rd_bump_ne _ (canonOff_ne_window h (by unfold tcOff; omega))
  · rfl

theorem rd_bankWake_low (s : State) (l b : Nat) (wr : Bool) {o : Nat} (h : o < 0x100000) : rd (bankWake s l b wr) o = rd s o := by
  unfold bankWake
  split
  · exact rd_bump_ne _ (canonOff_ne_window h (by unfold tcOff; omega))
  · rfl

theorem rd_touchCore_low (s : State) (wr : Bool) (a len : Nat) {o : Nat} (h : o < 0x100000) : rd (touchCore s wr a len) o = rd s o := by
  unfold touchCore
  split
  · rfl
  · dsimp only
    split
    · rfl
    · exact rd_foldl_of_untouched s fun v b _ => (rd_bankWake_low _ _ _ _ h).trans (rd_bankAbort_low _ _ _ h)

/-- An access wakes banks, which registers of the cores count; those below the cores' windows stay. -/
theorem rd_touch_low (s : State) (wr : Bool) (a len : Nat) {o : Nat} (h : o < 0x100000) : rd (touch s wr a len) o = rd s o :=
  rd_foldl_of_untouched s fun v r _ => rd_touchCore_low v wr r.1 r.2 h

theorem ownAddr_of_rd {s u : State} (h : rd u 0x40008 = rd s 0x40008) (a : Nat) : ownAddr u a = ownAddr s a := by
  have hm : gangMember u = gangMember s := fld_of_rd h 0 3
  have hp : peerOf u a = peerOf s a := by rw [peerOf, peerOf, gangSize, gangSize, fld_of_rd h]
  rw [ownAddr, ownAddr, hp, hm]

theorem length_rangeFrom (a n : Nat) : (rangeFrom a n).length = n := by
  induction n generalizing a with
  | zero => rfl
  | succ n ih => rw [rangeFrom, List.length_cons, ih]

theorem length_mgets (d : Byte) (m : List Host.Cell) (a n : Nat) : (mgets d m a n).length = n := by
  induction n generalizing a with
  | zero => rfl
  | succ n ih => rw [mgets, List.length_cons, ih]

theorem length_pastRead (s : State) (p n a len : Nat) : (pastRead s p n a len).length = len := by
  unfold pastRead seedRead
  split
  · exact length_mgets _ _ _ _
  · rw [List.length_map, length_rangeFrom]

theorem length_keepLanded (s : State) (i : Nat) (ls : List (Nat × Nat × Nat)) (a : Nat) (bs : List Byte) :
    (keepLanded s i ls a bs).length = bs.length := by
  unfold keepLanded
  split
  · rfl
  · rw [List.length_map, length_rangeFrom]

theorem keepLanded_of_mem {s u : State} (h : u.mem = s.mem) (i : Nat) (ls : List (Nat × Nat × Nat)) (a : Nat) (bs : List Byte) :
    keepLanded u i ls a bs = keepLanded s i ls a bs := by
  rw [keepLanded, keepLanded, h]

/-- The bytes that a linear descriptor stores: those of its source, but those that it has written already stay. -/
def descData (s : State) (c : Chain) (ix a b : Nat) : List Byte :=
  keepLanded s ix c.landed b (pastRead s c.part c.ctx a (dLen (descOf c ix)))

/-- The state whose banks the descriptor's read and its write have reached. -/
def descTouched (s : State) (c : Chain) (ix a b : Nat) : State :=
  touch (touch s false a (dLen (descOf c ix))) true b (dLen (descOf c ix))

theorem coreSide_descTouched (s : State) (c : Chain) (ix a b : Nat) : CoreSide s (descTouched s c ix a b) :=
  coreSide_trans (touch_side s _ _ _) (touch_side _ _ _ _)

theorem rd_descTouched_low (s : State) (c : Chain) (ix a b : Nat) {o : Nat} (h : o < 0x100000) : rd (descTouched s c ix a b) o = rd s o :=
  (rd_touch_low _ _ _ _ h).trans (rd_touch_low _ _ _ _ h)

/-- The row of a linear descriptor between addresses of this module is read and stored. -/
theorem moveRows_linear {s : State} {c : Chain} {ix a b : Nat} (hk : dKind (descOf c ix) = 0) (hr : dRows (descOf c ix) = 1)
    (ha : ownAddr s (dSrc (descOf c ix) 0) = some a) (hb : ownAddr s (le (descOf c ix) 8 6) = some b) :
    moveRows c.part c.ctx ix c.landed (descOf c ix) (rangeFrom 0 (dRows (descOf c ix))) s =
      wrMem (descTouched s c ix a b) b (descData s c ix a b) := by
  have hd : dDests (descOf c ix) 0 = [le (descOf c ix) 8 6] := by simp [dDests, hk]
  have hb' : ownAddr (touch s false a (dLen (descOf c ix))) (le (descOf c ix) 8 6) = some b :=
    (ownAddr_of_rd (rd_touch_low s false a _ (by norm_num)) _).trans hb
  have hkeep : keepLanded (touch s false a (dLen (descOf c ix))) ix c.landed b (pastRead s c.part c.ctx a (dLen (descOf c ix))) =
      descData s c ix a b := keepLanded_of_mem (coreSide_mem (touch_side s false a _)) _ _ _ _
  have hlen : (descData s c ix a b).length = dLen (descOf c ix) := (length_keepLanded _ _ _ _ _).trans (length_pastRead _ _ _ _ _)
  simp only [hr, rangeFrom, moveRows, dmaRead, ha, hd, List.foldl_cons, List.foldl_nil, dmaWrite, hb', Option.getD_some, hkeep, hlen, descTouched]

/-- The counters of an engine after a descriptor, and the token that it signals. -/
def descCounted (s : State) (e : Nat) (c : Chain) (d : List Byte) : State :=
  let s2 := wr64 (bump s (dmaReg e 4)) (dmaReg e 8) (dmaReg e 0xC) ((val64 s (dmaReg e 8) (dmaReg e 0xC) + descBytes d) % 2 ^ 64)
  if dSig d then signal s2 c.part (le d 0x1C 1 % 64) 1 else s2

theorem descCounted_shape (s : State) (e : Nat) (c : Chain) (d : List Byte) :
    (descCounted s e c d).mem = s.mem ∧ (descCounted s e c d).dma = s.dma := by
  unfold descCounted
  dsimp only
  split <;> exact ⟨rfl, rfl⟩

theorem descComplete_open {s : State} {e vc ix : Nat} {c : Chain} {r : List Chain} (hq : queueOf s e vc = c :: r) (hi : ix ∈ running c)
    (hacc : descAcc s c.part (descOf c ix) = []) (hopen : descOpen s e c (descOf c ix) = true) :
    let s1 := moveRows c.part c.ctx ix c.landed (descOf c ix) (rangeFrom 0 (dRows (descOf c ix))) s
    let u := descCounted s1 e c (descOf c ix)
    let c1 := { c with done := c.done ++ [ix] }
    descComplete s e vc ix = if c1.done.length = c.count then chainEnd (setQueue u e vc r) c1 else setHead u e vc c1 := by
  have hgo : ¬(¬(running c).contains ix = true ∨ ¬(descAcc s c.part (descOf c ix)).isEmpty = true) := by
    simp [hi, hacc]
  simp only [descComplete, hq, if_neg hgo, hopen, not_true, if_false, descCounted]

theorem tokOff_lt (k n : Nat) : tokOff k n < 0x80000 := by
  have := (tokOff_bounds k n).2
  omega

theorem rd_descCounted_count (s : State) (e : Fin 22) (c : Chain) (d : List Byte) :
    rd (descCounted s e c d) (dmaReg e 4) = rd s (dmaReg e 4) + 1 := by
  have h2 (v : Nat) : rd (wr64 (bump s (dmaReg e 4)) (dmaReg e 8) (dmaReg e 0xC) v) (dmaReg e 4) = rd s (dmaReg e 4) + 1 := by
    rw [wr64, rd_wrReg_ne _ _ _ _ (dmaReg_ne e (by norm_num) (by norm_num) (by norm_num)),
      rd_wrReg_ne _ _ _ _ (dmaReg_ne e (by norm_num) (by norm_num) (by norm_num)), rd_bump]
  unfold descCounted
  dsimp only
  split
  · exact (rd_wrReg_ne _ _ _ _ (dmaReg_ne_low e (by norm_num) (tokOff_lt _ _))).trans (h2 _)
  · exact h2 _

theorem token_descCounted (s : State) (e : Fin 22) (c : Chain) {d : List Byte} (hs : dSig d = true) :
    token (descCounted s e c d) c.part (le d 0x1C 1 % 64) = token s c.part (le d 0x1C 1 % 64) + 1 := by
  have h2 (v : Nat) : token (wr64 (bump s (dmaReg e 4)) (dmaReg e 8) (dmaReg e 0xC) v) c.part (le d 0x1C 1 % 64) =
      token s c.part (le d 0x1C 1 % 64) := by
    have hne {o : Nat} (ho : o < 0x100) := (dmaReg_ne_low e ho (tokOff_lt c.part (le d 0x1C 1 % 64))).symm
    rw [token, wr64, rd_wrReg_ne _ _ _ _ (hne (by norm_num)), rd_wrReg_ne _ _ _ _ (hne (by norm_num)), rd_bump_ne _ (hne (by norm_num))]
    rfl
  simp only [descCounted, hs, if_true]
  rw [token_signal, h2]

/-! ## Faults (R206) -/

/-- The chain leaves its queue, and the engine records the first fault. -/
def chainFaulted (s : State) (e vc code : Nat) (c : Chain) (r : List Chain) : State :=
  if flag (setQueue s e vc r) (dmaReg e 0x10) 31 then setQueue s e vc r
  else wrReg (setQueue s e vc r) (dmaReg e 0x10) (BitVec.ofNat 32 (2 ^ 31 + c.part % 16 * 2 ^ 16 + code % 2 ^ 16))

/-- A fence fault is noted, and the context of a core's chain faults. -/
def contextFaulted (s : State) (c : Chain) (code addr : Nat) : State :=
  let s1 := if code = fFence then noteFence s c.part addr else s
  match c.core with
  | none => s1
  | some l => raise s1 c.part c.ctx l code

/-- A chain without a descriptor in progress ends in a fault: nothing is cut. -/
theorem chainFault_idle {s : State} {e vc : Nat} {c : Chain} {r : List Chain} (code addr : Nat) (hq : queueOf s e vc = c :: r)
    (hi : running c = []) : chainFault s e vc code addr none = contextFaulted (chainFaulted s e vc code c r) c code addr := by
  have hstop : stopChain e s { c with started := c.started.filter (fun j => decide ((none : Option Nat) ≠ some j)) } = s := by
    have hrun : running { c with started := c.started.filter (fun j => decide ((none : Option Nat) ≠ some j)) } = [] := by
      simpa [running] using hi
    rw [stopChain, hrun, List.foldl_nil]
  simp only [chainFault, hq, hstop]
  cases hc : c.core with
  | none => simp only [chainFaulted, contextFaulted, hc]
  | some l => simp only [chainFaulted, contextFaulted, hc]

theorem descFault_invalid {s : State} {e vc : Nat} {c : Chain} {r : List Chain} {x : Nat × Nat} (hq : queueOf s e vc = c :: r)
    (hi : running c = []) (hc : c.started.length < c.count) (hf : c.started.length < c.fetched)
    (hx : lowest (if tget? c.descs c.started.length = none then [(fFence, c.base + 32 * c.started.length)]
      else descErr (descOf c c.started.length)) = some x) :
    descFault s e vc = chainFault s e vc x.1 x.2 none := by
  have hgo : ¬(c.count ≤ c.started.length ∨ c.fetched ≤ c.started.length) := by omega
  simp only [descFault, hq, hi, List.find?_nil, if_neg hgo, Option.isNone_iff_eq_none, hx]

theorem chainFaulted_keeps (s : State) (e vc code : Nat) (c : Chain) (r : List Chain) :
    queueOf (chainFaulted s e vc code c r) e vc = r ∧ (chainFaulted s e vc code c r).mem = s.mem ∧
      (chainFaulted s e vc code c r).ctxs = s.ctxs := by
  unfold chainFaulted
  split <;> exact ⟨queueOf_setQueue s e vc r, rfl, rfl⟩

/-- What DMA_FAULT reads where it held no fault. -/
theorem rd_chainFaulted {s : State} {e vc code : Nat} {c : Chain} {r : List Chain} (h : flag s (dmaReg e 0x10) 31 = false) :
    rd (chainFaulted s e vc code c r) (dmaReg e 0x10) = BitVec.ofNat 32 (2 ^ 31 + c.part % 16 * 2 ^ 16 + code % 2 ^ 16) := by
  have h' : flag (setQueue s e vc r) (dmaReg e 0x10) 31 = false := h
  rw [chainFaulted, h']
  exact rd_wrReg_same _ _ _

theorem faultWord_fields {p code : Nat} (hp : p < 16) (hc : code < 2 ^ 16) :
    (BitVec.ofNat 32 (2 ^ 31 + p * 2 ^ 16 + code)).getLsbD 31 = true ∧
      fieldOf (BitVec.ofNat 32 (2 ^ 31 + p * 2 ^ 16 + code)).toNat 0 16 = code := by
  have hv : (2 ^ 31 + p * 2 ^ 16 + code) % 2 ^ 32 = 2 ^ 31 + p * 2 ^ 16 + code := Nat.mod_eq_of_lt (by omega)
  refine ⟨?_, ?_⟩
  · rw [BitVec.getLsbD_ofNat, Nat.testBit_eq_decide_div_mod_eq]
    simp
    omega
  · rw [BitVec.toNat_ofNat, hv, fieldOf]
    omega

theorem rd_cancelPromises_low (s : State) (w p n : Nat) {o : Nat} (h : o < 0x100000) : rd (cancelPromises s w p n) o = rd s o :=
  rd_foldl_of_untouched s fun v l _ => rd_foldl_of_untouched v fun v x _ => rd_bump_ne _ (canonOff_ne_window h (by unfold tcOff; omega))

theorem cancelPromises_ctxs (s : State) (w p n : Nat) : (cancelPromises s w p n).ctxs = s.ctxs :=
  List.foldlRecOn (motive := fun u : State => u.ctxs = s.ctxs) _ _ rfl fun _ hu _ _ =>
    List.foldlRecOn (motive := fun u : State => u.ctxs = s.ctxs) _ _ hu fun _ hv _ _ => hv

theorem rd_recordTcFault_low (s : State) (l k n code : Nat) {o : Nat} (h : o < 0x100000) : rd (recordTcFault s l k n code) o = rd s o := by
  unfold recordTcFault
  split
  · rfl
  · exact rd_wrReg_ne s _ _ _ (canonOff_ne_window h (by unfold tcOff; omega))

theorem rd_raise_low (s : State) (p n l code : Nat) {o : Nat} (h : o < 0x100000) : rd (raise s p n l code) o = rd s o := by
  unfold raise
  dsimp only
  split
  · rfl
  · rfl
  · exact (rd_cancelPromises_low _ _ _ _ h).trans (rd_recordTcFault_low s _ _ _ _ h)

/-- A fault in a resident context leaves it to be torn down. -/
theorem dying_raise {s : State} {p n : Nat} (l code : Nat) (h : (ctxOf s p n).st = .resident) :
    (ctxOf (raise s p n l code) p n).dying ≠ none := by
  simp only [raise, h]
  rw [ctxOf, cancelPromises_ctxs]
  rw [show tget Ctx.reset (setCtx _ p n _).ctxs (ctxKey p n) = ctxOf (setCtx _ p n _) p n from rfl, ctxOf_setCtx]
  cases hd : (ctxOf s p n).dying <;> simp

theorem rd_noteFence_ne (s : State) (p a : Nat) {o : Nat} (h : 0x80000 ≤ o ∧ o < 0x100000) : rd (noteFence s p a) o = rd s o := by
  have hne (x : Nat) (hx : x < 0x100) : canonOff o ≠ canonOff (partOff p + x) :=
    canonOff_ne_low h.2 (by unfold partOff; omega) (by unfold partOff; omega)
  rw [noteFence, rd_setFld_ne _ _ _ _ _ _ (hne _ (by norm_num)), rd_wrReg_ne _ _ _ _ (hne _ (by norm_num)), rd_bump_ne _ (hne _ (by norm_num))]

theorem contextFaulted_side (s : State) (c : Chain) (code addr : Nat) : CoreSide s (contextFaulted s c code addr) := by
  have h1 : CoreSide s (if code = fFence then noteFence s c.part addr else s) := by
    split
    · exact noteFence_side s _ _
    · exact coreSide_refl s
  unfold contextFaulted
  dsimp only
  split
  · exact h1
  · exact coreSide_trans h1 (raise_side _ _ _ _ _)

theorem rd_contextFaulted (s : State) (c : Chain) (code addr : Nat) {o : Nat} (h : 0x80000 ≤ o ∧ o < 0x100000) :
    rd (contextFaulted s c code addr) o = rd s o := by
  have h1 : rd (if code = fFence then noteFence s c.part addr else s) o = rd s o := by
    split
    · exact rd_noteFence_ne s _ _ h
    · rfl
  unfold contextFaulted
  dsimp only
  split
  · exact h1
  · exact (rd_raise_low _ _ _ _ _ h.2).trans h1

theorem dying_contextFaulted {s : State} {c : Chain} (code addr : Nat) {l : Nat} (hc : c.core = some l)
    (h : (ctxOf s c.part c.ctx).st = .resident) : (ctxOf (contextFaulted s c code addr) c.part c.ctx).dying ≠ none := by
  simp only [contextFaulted, hc]
  refine dying_raise l code ?_
  split
  · exact h
  · exact h

/-- The codes of an invalid descriptor fit the field that records them. -/
theorem descErr_code {d : List Byte} {y : Nat × Nat} (h : y ∈ descErr d) : y.1 < 2 ^ 16 := by
  have hif (b : Bool) (code : Nat) (hc : code < 2 ^ 16) (hy : y ∈ errIf b code) : y.1 < 2 ^ 16 := by
    unfold errIf at hy
    split at hy
    · rw [List.mem_singleton.mp hy]; exact hc
    · cases hy
  rw [descErr, List.mem_append] at h
  exact h.elim (hif _ _ (by norm_num)) (hif _ _ (by norm_num))

theorem lowest_mem {l : Errs} {x : Nat × Nat} (h : lowest l = some x) : x ∈ l := by
  induction l generalizing x with
  | nil => cases h
  | cons e l ih =>
    rw [lowest] at h
    split at h
    · obtain rfl := Option.some.inj h
      exact List.mem_cons_self
    · next m hm =>
      split at h
      · obtain rfl := Option.some.inj h
        exact List.mem_cons_self
      · obtain rfl := Option.some.inj h
        exact List.mem_cons_of_mem e (ih hm)

theorem chainEndCode_lt {c : Chain} {x : Nat × Nat} (hx : lowest (if tget? c.descs c.started.length = none
      then [(fFence, c.base + 32 * c.started.length)] else descErr (descOf c c.started.length)) = some x) : x.1 < 2 ^ 16 := by
  have hm := lowest_mem hx
  split at hm
  · rw [List.mem_singleton.mp hm, fFence]
    norm_num
  · exact descErr_code hm

/-- A linear descriptor between addresses of this module whose writes are open: what it stores, counts and signals. -/
theorem descComplete_linear {s : State} (e : Fin 22) {vc ix a b : Nat} {c : Chain} {r : List Chain} (hcan : MemoryCanonical s)
    (hq : queueOf s e vc = c :: r) (hi : ix ∈ running c) (hacc : descAcc s c.part (descOf c ix) = [])
    (hopen : descOpen s e c (descOf c ix) = true) (hk : dKind (descOf c ix) = 0) (hr : dRows (descOf c ix) = 1)
    (ha : ownAddr s (dSrc (descOf c ix) 0) = some a) (hb : ownAddr s (le (descOf c ix) 8 6) = some b) :
    let d := descOf c ix
    let c1 := { c with done := c.done ++ [ix] }
    ∃ u, descComplete s e vc ix = (if c1.done.length = c.count then chainEnd (setQueue u e vc r) c1 else setHead u e vc c1) ∧
      rdMem u b (dLen d) = keepLanded s ix c.landed b (pastRead s c.part c.ctx a (dLen d)) ∧
      (∀ x, x < b ∨ b + dLen d ≤ x → mget memDefault u.mem x = mget memDefault s.mem x) ∧
      rd u (dmaReg e 4) = rd s (dmaReg e 4) + 1 ∧ queueOf u e vc = c :: r ∧
      (dSig d = true → token u c.part (le d 0x1C 1 % 64) = token s c.part (le d 0x1C 1 % 64) + 1) := by
  have hside := coreSide_descTouched s c ix a b
  have hlen : (descData s c ix a b).length = dLen (descOf c ix) := (length_keepLanded _ _ _ _ _).trans (length_pastRead _ _ _ _ _)
  have hcan' : cellsWf memDefault (descTouched s c ix a b).mem = true := by rw [coreSide_mem hside]; exact hcan.1
  obtain ⟨hmem, hdma⟩ := descCounted_shape (wrMem (descTouched s c ix a b) b (descData s c ix a b)) e c (descOf c ix)
  have hlow {o : Nat} (ho : o < 0x100000) : rd (wrMem (descTouched s c ix a b) b (descData s c ix a b)) o = rd s o :=
    rd_descTouched_low s c ix a b ho
  refine ⟨descCounted (wrMem (descTouched s c ix a b) b (descData s c ix a b)) e c (descOf c ix), ?_, ?_, fun x hx => ?_, ?_, ?_, fun hs => ?_⟩
  · rw [descComplete_open hq hi hacc hopen, moveRows_linear hk hr ha hb]
  · have hread := rdMem_wrMem (descTouched s c ix a b) b (descData s c ix a b) hcan'
    rw [hlen] at hread
    rw [rdMem, hmem]
    exact hread
  · rw [hmem, mget_wrMem_out _ _ _ _ (by rwa [hlen]), coreSide_mem hside]
  · rw [rd_descCounted_count, hlow]
    exact (dmaReg_bounds e (by norm_num)).2.trans (by norm_num)
  · have hd : (descTouched s c ix a b).dma = s.dma := coreSide_dma hside
    exact (queueOf_of_dma (hdma.trans hd) _ _).trans hq
  · rw [token_descCounted _ e c hs, token, hlow, token]
    exact (tokOff_lt _ _).trans (by norm_num)

/-- Settles O23: each command is its operation on the advanced state, and the sections above say what that leaves. -/
theorem dmaChainsRun : Obligations.DmaChainsRun := by
  refine ⟨fun t e p n base count s h0 h1 => ⟨fun he => ?_, fun l k i f he ho hf => ?_⟩, fun t e vc s c r hq hlt hf herr hr => ?_,
    fun t e vc ix s c r a b => ?_, fun t e vc s c r x hq hi hc hf hx => ?_⟩
  · obtain ⟨hqueue, hkeeps⟩ := chainPut_keeps (advance s t) e (chainVc s e p) (routerChain p n base count)
    rw [fetchBurst_advance] at hqueue
    refine ⟨_, ?_, hqueue, hkeeps⟩
    rw [exec_dmaChainAccept, execDmaChainAccept, chainAccept_router h0 h1 he]
    rfl
  · obtain ⟨hqueue, hmem, htc, hcount⟩ := chainPut_keeps (advance s t) e (chainVc s e p) (ownedChain p n l k base count f)
    rw [fetchBurst_advance] at hqueue
    refine ⟨_, ownedChain p n l k base count f, ?_, hqueue, rfl, rfl, rfl, rfl, rfl, rfl, rfl, rfl, rfl, rfl, hmem, htc, hcount⟩
    rw [exec_dmaChainAccept, execDmaChainAccept, chainAccept_owned (s := advance s t) h0 h1 he ho hf]
    rfl
  · have h := descStart_ready (s := advance s t) hq hlt hf herr hr
    simp only [fetchBurst_advance] at h
    exact ⟨_, rfl, h⟩
  · intro d hcan hq hi hacc hopen hk hr ha hb
    obtain ⟨u, hu, hkeeps⟩ := descComplete_linear (s := advance s t) e hcan hq hi ((descAcc_advance s t _ _).trans hacc) hopen hk hr ha hb
    exact ⟨u, by rw [exec_dmaDescComplete, execDmaDescComplete, hu], hkeeps⟩
  · obtain ⟨hqueue, hmem, hctxs⟩ := chainFaulted_keeps (advance s t) e vc x.1 c r
    have hside := contextFaulted_side (chainFaulted (advance s t) e vc x.1 c r) c x.1 x.2
    have hreg := dmaReg_bounds e (o := 0x10) (by norm_num)
    refine ⟨_, ?_, (queueOf_of_dma (coreSide_dma hside) _ _).trans hqueue, (coreSide_mem hside).trans hmem, fun h0 => ?_, fun l hl hst => ?_⟩
    · rw [exec_dmaDescFault, execDmaDescFault, descFault_invalid (s := advance s t) hq hi hc hf hx, chainFault_idle (s := advance s t) _ _ hq hi]
    · rw [flag, fld, rd_contextFaulted _ _ _ _ (by omega), rd_chainFaulted (s := advance s t) h0, Nat.mod_eq_of_lt (chainEndCode_lt hx)]
      exact faultWord_fields (Nat.mod_lt _ (by norm_num)) (chainEndCode_lt hx)
    · refine dying_contextFaulted _ _ hl ?_
      rw [ctxOf, hctxs]
      exact hst

end Sys2Proof.Proofs
end

section
/-! # The self-timed fabric: what a turn of the ring leaves alone

`Steady s u`: between `s` and `u` no context has been counted a step, no core has been started or stopped, and the registers of the step break
stay.  Every operation that makes up a turn, and every transition that takes no step, is steady; only `countTurn` counts. As for `Follows`, each
operation carries `Steady σ` from its argument to its result, and the proof for it has the shape of its definition. -/
namespace Sys2Proof.Proofs
open Sys2Proof Sys2Proof.Machine Sys2Proof.Safety Sys2Proof.Laws

/-- STEP_COUNT of a slot. -/
def stepsOf (s : State) (l k : Nat) : Option Nat := (slotOf s l k).map SlotCtx.steps

/-- A register of the step break of some core: BRK_LO, BRK_HI and its control (R293). -/
def breakReg (l x : Nat) : Nat := tcOff l + x

/-- The offsets of those registers in a core's window. -/
def breakOffs : List Nat := [0x80, 0x84, 0x88]

/-- What a turn leaves alone. -/
structure Steady (s u : State) : Prop where
  steps : ∀ l k, stepsOf u l k = stepsOf s l k
  on : ∀ l, (coreOf u l).on = (coreOf s l).on
  stopped : ∀ l, (coreOf u l).stopped = (coreOf s l).stopped
  brk : ∀ l, ∀ x ∈ breakOffs, rd u (breakReg l x) = rd s (breakReg l x)

/-- Where there is a next state, it is steady. -/
def Steadies (s : State) (o : Option State) : Prop := ∀ u, o = some u → Steady s u

variable {σ s u : State}

/-! ## The shapes of a definition -/

theorem Steady.refl (s : State) : Steady s s := ⟨fun _ _ => rfl, fun _ => rfl, fun _ => rfl, fun _ _ _ => rfl⟩

theorem Steady.trans (h : Steady σ s) (k : Steady s u) : Steady σ u where
  steps l j := (k.steps l j).trans (h.steps l j)
  on l := (k.on l).trans (h.on l)
  stopped l := (k.stopped l).trans (h.stopped l)
  brk l x hx := (k.brk l x hx).trans (h.brk l x hx)

/-- An update of neither a core nor a register. -/
theorem Steady.alike (h : Steady σ s) (ht : u.tc = s.tc) (hr : u.regs = s.regs) : Steady σ u := by
  have hc (l : Nat) : coreOf u l = coreOf s l := by rw [coreOf, coreOf, ht]
  refine h.trans ⟨fun l k => ?_, fun l => ?_, fun l => ?_, fun l x _ => rd_of_regs hr _⟩
  · rw [stepsOf, stepsOf, slotOf, slotOf, hc]
  · rw [hc]
  · rw [hc]

theorem Steady.fst {β : Type} {b : β} (h : Steady σ s) : Steady σ (s, b).1 := h

theorem Steady.ite {c : Prop} [Decidable c] {x y : State} (hx : Steady σ x) (hy : Steady σ y) : Steady σ (if c then x else y) := by
  split <;> assumption

theorem Steady.foldl {α : Type} {f : State → α → State} {l : List α} (h : Steady σ s) (hf : ∀ v i, Steady σ v → Steady σ (f v i)) :
    Steady σ (l.foldl f s) := List.foldlRecOn l f h fun v hv i _ => hf v i hv

theorem Steady.foldlFst {α β : Type} {f : State × β → α → State × β} {l : List α} {z : State × β} (h : Steady σ z.1)
    (hf : ∀ v i, Steady σ v.1 → Steady σ (f v i).1) : Steady σ (l.foldl f z).1 :=
  List.foldlRecOn (motive := fun v => Steady σ v.1) l f h fun v hv i _ => hf v i hv

theorem Steadies.none : Steadies σ none := by
  rintro u ⟨⟩

theorem Steadies.some (h : Steady σ s) : Steadies σ (some s) := by
  rintro u ⟨⟩; exact h

theorem Steadies.ite {c : Prop} [Decidable c] {o q : Option State} (ho : Steadies σ o) (hq : Steadies σ q) :
    Steadies σ (if c then o else q) := by
  split <;> assumption

theorem Steadies.orElse' {o q : Option State} (ho : Steadies σ o) (hq : Steadies σ q) : Steadies σ (orElse' o q) := by
  cases o with
  | none => exact hq
  | some v => exact ho

/-! ## Cores and registers -/

theorem coreOf_setCore_cases (s : State) (l m : Nat) (v : LCore) : coreOf (setCore s l v) m = if m = l then v else coreOf s m := by
  split
  · next h => rw [h, coreOf_setCore]
  · next h => exact coreOf_setCore_ne s l m v h

/-- An update of a core that keeps the step counts of its slots. -/
theorem Steady.setCoreSlots {l : Nat} {v : LCore} (h : Steady σ s) (hs : ∀ k, (tget? v.slots k).map SlotCtx.steps = stepsOf s l k)
    (ho : v.on = (coreOf s l).on) (hp : v.stopped = (coreOf s l).stopped) : Steady σ (setCore s l v) := by
  refine h.trans ⟨fun m k => ?_, fun m => ?_, fun m => ?_, fun _ _ _ => rfl⟩
  · rw [stepsOf, slotOf, coreOf_setCore_cases]
    split
    · next e => rw [e, hs]
    · rfl
  · rw [coreOf_setCore_cases]
    split
    · next e => rw [e, ho]
    · rfl
  · rw [coreOf_setCore_cases]
    split
    · next e => rw [e, hp]
    · rfl

/-- An update of anything else of a core. -/
theorem Steady.setCore {l : Nat} {v : LCore} (h : Steady σ s) (hs : v.slots = (coreOf s l).slots := by rfl)
    (ho : v.on = (coreOf s l).on := by rfl) (hp : v.stopped = (coreOf s l).stopped := by rfl) : Steady σ (setCore s l v) :=
  h.setCoreSlots (fun k => by rw [hs]; rfl) ho hp

/-- An update of a context that keeps its step count. -/
theorem Steady.setSlot {l k : Nat} {c v : SlotCtx} (h : Steady σ s) (hc : slotOf s l k = some c) (hv : v.steps = c.steps := by rfl) :
    Steady σ (setSlot s l k v) := by
  refine h.setCoreSlots (fun j => ?_) rfl rfl
  rw [tget?_tset, stepsOf]
  split
  · next e => rw [e, hc, Option.map_some, Option.map_some, hv]
  · rfl

theorem canonOff_mod (off : Nat) : canonOff off % 0x1000 = off % 0x1000 := by
  unfold canonOff
  split
  · omega
  · rfl

theorem canonOff_breakReg_ne {l x off : Nat} (hx : x ∈ breakOffs) (h : off < 0x100000 ∨ off % 0x1000 ∉ breakOffs) :
    canonOff (breakReg l x) ≠ canonOff off := by
  have hm : breakReg l x % 0x1000 = x := by
    simp only [breakOffs, List.mem_cons, List.not_mem_nil, or_false] at hx
    unfold breakReg tcOff
    omega
  rcases h with h | h
  · exact (canonOff_ne_window h (by unfold breakReg tcOff; omega)).symm
  · intro e
    have := congrArg (· % 0x1000) e
    simp only [canonOff_mod, hm] at this
    exact h (this ▸ hx)

/-- A write of a register that is none of the step break. -/
theorem Steady.wrReg {off : Nat} {v : Word} (h : Steady σ s) (ho : off < 0x100000 ∨ off % 0x1000 ∉ breakOffs) : Steady σ (wrReg s off v) :=
  h.trans ⟨fun _ _ => rfl, fun _ => rfl, fun _ => rfl, fun _ _ hx => rd_wrReg_ne s _ _ v (canonOff_breakReg_ne hx ho)⟩

/-- A register of a core's window that is none of the step break. -/
theorem tcOff_beside {l x : Nat} (hx : x < 0x1000 ∧ x ∉ breakOffs) : tcOff l + x < 0x100000 ∨ (tcOff l + x) % 0x1000 ∉ breakOffs := by
  have hm : (tcOff l + x) % 0x1000 = x := by
    obtain ⟨hx, -⟩ := hx
    unfold tcOff
    omega
  exact .inr (hm.symm ▸ hx.2)

theorem Steady.signal {k n : Nat} {v : Word} (h : Steady σ s) : Steady σ (signal s k n v) := by
  have hb := (tokOff_bounds k n).2
  have h1 : Steady σ (Machine.wrReg s (tokOff k n) (token s k n + v)) := h.wrReg (.inl (by omega))
  exact h1.alike rfl rfl

/-! ## Machine/Ops.lean -/

theorem Steady.wrMem {a : Nat} {bs : List Byte} (h : Steady σ s) : Steady σ (wrMem s a bs) := h.alike rfl rfl

theorem Steady.setCtx {p n : Nat} {c : Ctx} (h : Steady σ s) : Steady σ (setCtx s p n c) := h.alike rfl rfl

theorem Steady.bankAbort {l b : Nat} (h : Steady σ s) : Steady σ (bankAbort s l b) :=
  .ite (h.setCore.wrReg (tcOff_beside (by decide))) h

theorem Steady.bankWake {l b : Nat} {wr : Bool} (h : Steady σ s) : Steady σ (bankWake s l b wr) := by
  have hb : (if wr then 0x58 else 0x5C) < 0x1000 ∧ (if wr then 0x58 else 0x5C) ∉ breakOffs := by
    cases wr <;> decide
  exact .ite (h.setCore.wrReg (tcOff_beside hb)) h

theorem Steady.touchCore {wr : Bool} {a len : Nat} (h : Steady σ s) : Steady σ (touchCore s wr a len) := by
  unfold Machine.touchCore
  dsimp only
  split
  · exact h
  · exact .ite h (.foldl h fun _ _ h => h.bankAbort.bankWake)

theorem Steady.touch {wr : Bool} {a len : Nat} (h : Steady σ s) : Steady σ (touch s wr a len) := .foldl h fun _ _ h => h.touchCore

theorem Steady.touchRanges {wr : Bool} {rs : List (Nat × Nat)} (h : Steady σ s) : Steady σ (touchRanges s wr rs) :=
  .foldl h fun _ _ h => h.touch

theorem Steady.selfFetch {l : Nat} {x : Credit} {mc : Bool} (h : Steady σ s) : Steady σ (selfFetch s l x mc) := by
  have hb : (if mc then 0x64 else 0x68) < 0x1000 ∧ (if mc then 0x64 else 0x68) ∉ breakOffs := by
    cases mc <;> decide
  exact h.setCore.wrReg (tcOff_beside hb)

theorem Steady.cancelPromises {w p n : Nat} (h : Steady σ s) : Steady σ (cancelPromises s w p n) :=
  .foldl h fun _ _ h => .foldl h fun _ _ h => h.selfFetch

theorem Steady.recordTcFault {l k n code : Nat} (h : Steady σ s) : Steady σ (recordTcFault s l k n code) :=
  .ite h (h.wrReg (tcOff_beside (by decide)))

theorem Steady.raise {p n l code : Nat} (h : Steady σ s) : Steady σ (raise s p n l code) := by
  unfold Machine.raise
  dsimp only
  split
  · exact h
  · exact h
  · exact h.recordTcFault.setCtx.cancelPromises

theorem Steady.noteFence {p a : Nat} (h : Steady σ s) : Steady σ (noteFence s p a) := by
  have hp (x : Nat) (hx : x < 0x100) : partOff p + x < 0x100000 := by
    unfold partOff
    omega
  exact ((h.wrReg (.inl (hp _ (by norm_num)))).wrReg (.inl (hp _ (by norm_num)))).wrReg (.inl (hp _ (by norm_num)))

theorem Steady.raiseAcc {p n l : Nat} {x : Acc} (h : Steady σ s) : Steady σ (raiseAcc s p n l x) := by
  unfold Machine.raiseAcc
  split
  · exact h
  · exact h.noteFence.raise
  · exact h.raise

theorem Steady.raiseErrs {p n l : Nat} {es : Errs} (h : Steady σ s) : Steady σ (raiseErrs s p n l es) := by
  unfold Machine.raiseErrs
  split
  · exact h
  · exact .ite h.noteFence.raise h.raise

/-! ## Machine/Dresser.lean -/

theorem steps_chargeWait (s : State) (x : Nat) (c : SlotCtx) : (chargeWait s x c).steps = c.steps := by
  unfold chargeWait
  dsimp only
  split <;> rfl

theorem Steady.endWait {l k : Nat} (h : Steady σ s) : Steady σ (endWait s l k) := by
  unfold Machine.endWait
  split
  · exact h
  · next hc => exact h.setSlot hc (steps_chargeWait _ _ _)

theorem Steady.dropRing {l k : Nat} (h : Steady σ s) : Steady σ (dropRing s l k) := .ite h.setCore h

theorem Steady.beginWait {l k : Nat} {w : Wait} (h : Steady σ s) : Steady σ (beginWait s l k w) := by
  unfold Machine.beginWait
  split
  · exact h
  · next hc => exact .dropRing (.setSlot h hc (steps_chargeWait _ _ _))

theorem Steady.landBytes {a n : Nat} {bs : List Byte} (h : Steady σ s) : Steady σ (landBytes a n bs s) := by
  induction n generalizing bs s with
  | zero => exact h
  | succ n ih =>
    cases bs with
    | nil => exact h
    | cons b bs => exact ih h.wrMem

theorem Steady.landReads {l p n : Nat} {rs : List (Nat × Nat)} (h : Steady σ s) : Steady σ (landReads s l p n rs) := by
  unfold Machine.landReads
  dsimp only
  split
  · exact h
  · split
    · exact h
    · split
      · exact h
      · exact h.touch.landBytes

/-! ## Machine/Array.lean -/

theorem Steady.afterReads {p n l : Nat} {rs : List (Nat × Nat)} {f : State → State} (h : Steady σ s)
    (hf : ∀ v, Steady σ v → Steady σ (f v)) : Steady σ (afterReads s p n l rs f) := by
  unfold Machine.afterReads
  split
  · exact hf _ h.touchRanges
  · exact h.raiseAcc

theorem Steady.afterFetch {p n l : Nat} {rs : List (Nat × Nat)} {f : State → State} (h : Steady σ s)
    (hf : ∀ v, Steady σ v → Steady σ (f v)) : Steady σ (afterFetch s p n l rs f) := .afterReads h fun _ h => hf _ h.landReads

theorem Steady.wrElems {p n l : Nat} {es : List (Nat × List Byte)} (h : Steady σ s) : Steady σ (wrElems p n l es s) := by
  induction es generalizing s with
  | nil => exact h
  | cons e r ih =>
    unfold Machine.wrElems
    split
    · exact .ite h.raise (ih h.touch.wrMem)
    · exact h.raiseAcc

theorem Steady.stageFill {l k p n ip : Nat} {m : Mma} {ti q kb x : Nat} (h : Steady σ s) :
    Steady σ (stageFill s l k p n ip m ti q kb x) := h.setCore

theorem Steady.setAcc {l a : Nat} {v : AccSlot} (h : Steady σ s) : Steady σ (setAcc s l a v) := h.setCore

theorem Steady.rawSave {addr : Nat} {w : Tab Word} (h : Steady σ s) : Steady σ (rawSave s addr w) :=
  .wrMem (.touch (.alike h rfl rfl))

/-! ## Machine/Vector.lean -/

theorem Steady.eachRow {p n l : Nat} {f : Nat → SSt → SSt} {rows : List Nat} {x : SSt} (h : Steady σ x.1)
    (hf : ∀ i v, Steady σ v.1 → Steady σ (f i v).1) : Steady σ (eachRow p n l f rows x).1 := by
  unfold Machine.eachRow
  refine h.foldlFst fun _ _ h => ?_
  split
  · exact hf _ _ h
  · exact h

theorem Steady.rowDo {p n l : Nat} {reads : List (Nat × Nat)} {x : SSt} {f : State → List (Nat × List Byte) × Stats} (h : Steady σ x.1) :
    Steady σ (rowDo p n l reads x f).1 := by
  unfold Machine.rowDo Machine.rowWith
  split
  · exact h.touchRanges.landReads.wrElems
  · exact h.raiseAcc

theorem Steady.effEwise {l : Nat} {sc : SlotCtx} {fl : InFlight} {t : Nat} {x : SSt} (h : Steady σ x.1) : Steady σ (effEwise l sc fl t x).1 := by
  unfold Machine.effEwise
  dsimp only
  split
  · exact .eachRow h fun _ _ h => h.rowDo
  · exact h

theorem Steady.effStat {l : Nat} {sc : SlotCtx} {fl : InFlight} {t : Nat} {x : SSt} (h : Steady σ x.1) : Steady σ (effStat l sc fl t x).1 := by
  unfold Machine.effStat
  dsimp only
  split
  · exact .eachRow h fun _ _ h => h.rowDo
  · exact h

theorem Steady.effPool {l : Nat} {sc : SlotCtx} {fl : InFlight} {t : Nat} {x : SSt} (h : Steady σ x.1) : Steady σ (effPool l sc fl t x).1 := by
  unfold Machine.effPool
  dsimp only
  split
  · exact .eachRow h fun _ _ h => h.rowDo
  · exact h

theorem Steady.effArgmax {l : Nat} {sc : SlotCtx} {fl : InFlight} {t : Nat} {x : SSt} (h : Steady σ x.1) :
    Steady σ (effArgmax l sc fl t x).1 := by
  unfold Machine.effArgmax
  dsimp only
  split
  · exact .eachRow h fun _ _ h => h.rowDo
  · exact h

theorem Steady.effXpnd {l : Nat} {sc : SlotCtx} {fl : InFlight} {t kb : Nat} {x : SSt} (h : Steady σ x.1) :
    Steady σ (effXpnd l sc fl t kb x).1 := by
  unfold Machine.effXpnd
  dsimp only
  split
  · exact .eachRow h fun _ _ h => h.rowDo
  · exact h

theorem Steady.wrW {a : Nat} {w : Word} (h : Steady σ s) : Steady σ (wrW s a w) := h.wrMem

theorem Steady.effAttnInit {l : Nat} {fl : InFlight} {rows d : Nat} (h : Steady σ s) : Steady σ (effAttnInit l fl rows d s) :=
  .foldl h fun _ _ h => .foldl h.wrW.wrW fun _ _ h => h.wrW

theorem Steady.attnRow {l : Nat} {sc : SlotCtx} {fl : InFlight} {q k v : Opnd} {t kb i : Nat} (h : Steady σ s) :
    Steady σ (attnRow l sc fl q k v t kb i s) :=
  .foldl h.wrMem.wrW.wrW.wrW.wrW fun _ _ h => h.wrW

theorem Steady.touchWork {l : Nat} {fl : InFlight} (h : Steady σ s) : Steady σ (touchWork l fl s) := h.touchRanges

theorem Steady.countEmpty {p : Nat} (h : Steady σ s) : Steady σ (countEmpty s p) := by
  have ho (x : Nat) (hx : x = 0x1C ∨ x = 0x20) : (0x50100 + 0x40 * p + x) % 0x1000 ∉ breakOffs := by
    simp only [breakOffs, List.mem_cons, List.not_mem_nil, or_false]
    omega
  exact (h.wrReg (.inr (ho _ (.inl rfl)))).wrReg (.inr (ho _ (.inr rfl)))

theorem Steady.attnEndRow {l : Nat} {sc : SlotCtx} {fl : InFlight} {o : Opnd} {D t i : Nat} {x : SSt} (h : Steady σ x.1) :
    Steady σ (attnEndRow l sc fl o D t i x).1 := .rowDo (.ite h.countEmpty h)

theorem Steady.effAttn {l : Nat} {sc : SlotCtx} {fl : InFlight} {e : Eff} {x : SSt} (h : Steady σ x.1) : Steady σ (effAttn l sc fl e x).1 := by
  unfold Machine.effAttn
  split
  · split
    · exact h.touchWork.effAttnInit
    · extract_lets k v
      exact .eachRow h fun _ _ h => .fst (.afterReads h fun _ h => h.touchWork.landReads.attnRow)
    · exact .eachRow h fun _ _ h => h.attnEndRow
    · exact h
  · exact h

theorem Steady.effScaleEntries {l : Nat} {sc : SlotCtx} {fl : InFlight} {first count : Nat} (h : Steady σ s) :
    Steady σ (effScaleEntries l sc fl first count s) := .foldl h.touch fun _ _ h => h.setCore

/-- The scale table an instruction loads into a core, for every length of it. -/
theorem Steady.loadTab {l a n i : Nat} {x y : State} (h : Steady σ x) :
    Steady σ (Machine.setCore x l { coreOf x l with tabs := tset (coreOf x l).tabs i (rdMem y a n) }) := h.setCore

theorem Steady.effScaleTable {l : Nat} {fl : InFlight} (h : Steady σ s) : Steady σ (effScaleTable l fl s) :=
  .loadTab (x := Machine.touch s false _ _) h.touch

theorem Steady.effFill {l : Nat} {sc : SlotCtx} {fl : InFlight} {first count : Nat} {x : SSt} (h : Steady σ x.1) :
    Steady σ (effFill l sc fl first count x).1 := by
  unfold Machine.effFill
  dsimp only
  split
  · exact .eachRow h fun _ _ h => h.wrElems
  · exact h

theorem Steady.effScopy {l : Nat} {sc : SlotCtx} {fl : InFlight} {first count : Nat} {x : SSt} (h : Steady σ x.1) :
    Steady σ (effScopy l sc fl first count x).1 := by
  unfold Machine.effScopy
  dsimp only
  split
  · exact .eachRow h fun _ _ h => .afterReads h fun _ h => h.wrElems
  · exact h

theorem Steady.unitEff {l : Nat} {sc : SlotCtx} {fl : InFlight} {e : Eff} {x : SSt} (h : Steady σ x.1) : Steady σ (unitEff l sc fl e x).1 := by
  unfold Machine.unitEff
  split
  · exact h.effXpnd
  · exact h.effAttn
  · exact h.effAttn
  · exact h.effAttn
  · exact h.effEwise
  · exact h.effPool
  · exact h.effArgmax
  · exact h.effStat
  · exact h.effScaleEntries
  · exact h.effScaleTable
  · exact h.effFill
  · exact h.effScopy
  · exact h

/-! ## Machine/Turn.lean -/

theorem Steady.setFlight {l k i : Nat} {f : InFlight} (h : Steady σ s) : Steady σ (setFlight s l k i f) := by
  unfold Machine.setFlight
  split
  · exact h
  · next hc => exact h.setSlot hc

theorem Steady.putMma {l k i : Nat} {m : Mma} (h : Steady σ s) : Steady σ (putMma s l k i m) := by
  unfold Machine.putMma
  split
  · exact h
  · exact h.setFlight

theorem Steady.settleDrain {l k i : Nat} {m : Mma} (h : Steady σ s) : Steadies σ (settleDrain s l k i m) := by
  unfold Machine.settleDrain
  dsimp only
  split
  · exact .none
  · split
    · exact .some h.setAcc.putMma
    · exact .none

theorem Steady.settleFinish {l k i : Nat} {m : Mma} (h : Steady σ s) : Steadies σ (settleFinish s l k i m) := by
  unfold Machine.settleFinish
  dsimp only
  split
  · exact .none
  · exact .ite .none (.some h.setAcc.putMma)

theorem Steady.settleRedo {sc : SlotCtx} {l k i : Nat} {m : Mma} (h : Steady σ s) : Steadies σ (settleRedo s sc l k i m) := by
  unfold Machine.settleRedo
  dsimp only
  split
  · exact .some h.setAcc.putMma
  · exact .none

theorem Steady.settleBegin {sc : SlotCtx} {l k i : Nat} {f : InFlight} {m : Mma} (h : Steady σ s) :
    Steadies σ (settleBegin s sc l k i f m) := by
  unfold Machine.settleBegin
  dsimp only
  refine .ite .none (.ite .none (.ite .none ?_))
  split
  · exact .none
  · refine .ite .none ?_
    split
    · exact .ite (.some h.raiseErrs) (.some (.putMma (.ite h (.ite h.setAcc h.setAcc))))
    · exact .some h.raiseAcc

theorem Steady.settlePass {sc : SlotCtx} {l k i : Nat} {m : Mma} (h : Steady σ s) : Steadies σ (settlePass s sc l k i m) := by
  unfold Machine.settlePass
  dsimp only
  refine .ite .none (.ite .none (.some (.putMma ?_)))
  split
  · exact h
  · exact h.signal

theorem Steady.attnMark {l k : Nat} {f : InFlight} (h : Steady σ s) : Steady σ (attnMark s l k f) := .foldl h fun _ _ h => h.setAcc

theorem Steady.attnFree {l : Nat} {f : InFlight} (h : Steady σ s) : Steady σ (attnFree s l f) := by
  unfold Machine.attnFree
  split
  · exact .foldl h fun _ _ h => h.setAcc
  · exact h

theorem Steady.unitApply {sc : SlotCtx} {l k i : Nat} {f : InFlight} {u : WorkUnit} (h : Steady σ s) :
    Steady σ (unitApply s sc l k i f u) := by
  unfold Machine.unitApply
  dsimp only
  split
  · exact h.attnFree.unitEff
  · exact h.attnFree.unitEff.setFlight

theorem Steady.settleUnit {sc : SlotCtx} {l k i : Nat} {f : InFlight} (h : Steady σ s) : Steadies σ (settleUnit s sc l k i f) := by
  unfold Machine.settleUnit
  split
  · exact .none
  · exact .ite (.some h.unitApply) .none

theorem Steady.settle1 {l k i : Nat} (h : Steady σ s) : Steadies σ (settle1 s l k i) := by
  unfold Machine.settle1
  split
  · refine .ite .none ?_
    split
    · exact h.settleUnit
    · exact .orElse' h.settleDrain (.orElse' h.settleFinish (.orElse' h.settleRedo (.orElse' h.settleBegin h.settlePass)))
  · exact .none

theorem Steady.settleN {n l k i : Nat} (h : Steady σ s) : Steady σ (settleN n s l k i) := by
  induction n generalizing s with
  | zero => exact h
  | succ n ih =>
    unfold Machine.settleN
    split
    · exact h
    · next v e => exact ih (h.settle1 v e)

theorem Steady.noteWait {l k : Nat} (h : Steady σ s) : Steady σ (noteWait s l k) := by
  unfold Machine.noteWait
  dsimp only
  split
  · exact h
  · split
    · exact .ite h h.beginWait.touchRanges.touchRanges
    · exact .ite h.endWait h
    · exact h

theorem Steady.settle {l k : Nat} (h : Steady σ s) : Steady σ (settle s l k) := h.settleN.settleN.settleN.noteWait

theorem Steady.settleAll {l : Nat} (h : Steady σ s) : Steady σ (settleAll s l) := .foldl h fun _ _ h => h.settle

theorem Steady.drainOp {l k i : Nat} {sc : SlotCtx} {f : InFlight} (h : Steady σ s) : Steady σ (drainOp s l k i sc f) := by
  unfold Machine.drainOp
  dsimp only
  split
  · exact h
  · split
    · exact h
    · split
      · exact h
      · exact .afterFetch h fun _ h => .ite h.wrElems.setAcc h.wrElems

theorem Steady.stageAhead {l k p n ip : Nat} {m : Mma} {ti x : Nat} {nb : Option (Nat × Nat)} (h : Steady σ s) :
    Steady σ (stageAhead s l k p n ip m ti x nb) := by
  unfold Machine.stageAhead
  split
  · exact h
  · refine .ite h ?_
    split
    · exact h.landReads.stageFill
    · exact h

theorem Steady.macOp {l k i : Nat} {sc : SlotCtx} {f : InFlight} {m : Mma} {c : Cur} {q x : Nat} {r : List (Nat × Nat)} (h : Steady σ s) :
    Steady σ (macOp s l k i sc f m c q x r) := by
  unfold Machine.macOp
  dsimp only
  split
  · exact h.stageAhead.setAcc.putMma
  · exact .afterFetch h fun _ h => h.stageFill.stageAhead.setAcc.putMma

theorem Steady.arrayOp {l k i : Nat} {sc : SlotCtx} {f : InFlight} (h : Steady σ s) : Steady σ (arrayOp s l k i sc f) := by
  unfold Machine.arrayOp
  dsimp only
  split
  · exact h
  · split
    · exact h
    · split
      · refine .ite ?_ h.putMma
        split
        · exact h.rawSave.setAcc.putMma
        · exact h.raiseAcc
      · split
        · exact .ite (.afterReads h fun _ h => h.setAcc.putMma) h.putMma
        · split
          · exact h.macOp
          · split
            · exact .afterFetch h fun _ h => h.setAcc.putMma
            · exact h

theorem Steady.unitOp {l k i : Nat} {sc : SlotCtx} {f : InFlight} (h : Steady σ s) : Steady σ (unitOp s l k i sc f) := by
  unfold Machine.unitOp
  dsimp only
  split
  · exact h
  · exact .ite h.attnMark.unitApply h.attnMark.setFlight

theorem Steady.engine {l k : Nat} {q : State → SlotCtx → Nat → InFlight → Bool} {op : State → Nat → Nat → Nat → SlotCtx → InFlight → State}
    (h : Steady σ s) (hop : ∀ v l k i c f, Steady σ v → Steady σ (op v l k i c f)) : Steady σ (engine s l k q op) := by
  unfold Machine.engine
  split
  · exact h
  · refine .ite h ?_
    split
    · exact h
    · split
      · exact h
      · exact hop _ _ _ _ _ _ h

theorem Steady.turnOps {l k : Nat} (h : Steady σ s) : Steady σ (turnOps s l k) := by
  unfold Machine.turnOps
  extract_lets s1 s2
  have h1 : Steady σ s1 := .engine h fun _ _ _ _ _ _ h => h.drainOp
  have h2 : Steady σ s2 := .engine h1 fun _ _ _ _ _ _ h => h.arrayOp
  exact .engine h2 fun _ _ _ _ _ _ h => h.unitOp

end Sys2Proof.Proofs
end

section
/-! # O13: a turn of the ring counts one step -/
namespace Sys2Proof.Proofs
open Sys2Proof Sys2Proof.Machine Sys2Proof.Safety Sys2Proof.Laws

variable {σ s u : State} {l k : Nat}

/-! ## The count -/

theorem stepsOf_eq {c : SlotCtx} (h : slotOf s l k = some c) : stepsOf s l k = some c.steps := by rw [stepsOf, h]; rfl

theorem slotOf_of_stepsOf {n : Nat} (h : stepsOf s l k = some n) : ∃ c, slotOf s l k = some c ∧ c.steps = n := Option.map_eq_some_iff.mp h

theorem tget?_mapValues {α : Type} (f : α → α) (t : Tab α) (k : Nat) : tget? (t.map fun e => (e.1, f e.2)) k = (tget? t k).map f := by
  induction t with
  | nil => rfl
  | cons e t ih =>
    simp only [List.map_cons, tget?]
    split
    · rfl
    · exact ih

/-- Noting from when a context counts is no step of it. -/
theorem Steady.idleSince (h : Steady σ s) : Steady σ (idleSince s l) := by
  refine h.setCoreSlots (fun k => ?_) rfl rfl
  rw [tget?_mapValues fun v : SlotCtx => if v.wait = .none then { v with since := s.clk.tb } else v, Option.map_map, stepsOf]
  refine congrArg (Option.map · _) (funext fun v => ?_)
  rw [Function.comp_apply]
  split <;> rfl

theorem Steady.coreRuns_eq (h : Steady s u) : coreRuns u l = coreRuns s l := by rw [coreRuns, coreRuns, h.on, h.stopped]

/-- The step break looks at its registers alone. -/
theorem brkHit_of_rd (h : ∀ x ∈ breakOffs, rd u (breakReg l x) = rd s (breakReg l x)) (n : Nat) : brkHit u l k n = brkHit s l k n := by
  have hlo : rd u (tcOff l + 0x80) = rd s (tcOff l + 0x80) := h 0x80 (by decide)
  have hhi : rd u (tcOff l + 0x84) = rd s (tcOff l + 0x84) := h 0x84 (by decide)
  have hctl : rd u (tcOff l + 0x88) = rd s (tcOff l + 0x88) := h 0x88 (by decide)
  unfold brkHit flag fld val64
  rw [hlo, hhi, hctl]

/-- A turn that the step break lets go on counts in the slot that turns, and in no other (R32, R269). -/
theorem stepsOf_countTurn {c : SlotCtx} (hc : slotOf s l k = some c) (hb : brkHit s l k ((c.steps + 1) % 2 ^ 64) = false) (j : Nat) :
    stepsOf (countTurn s l k) l j = if j = k then some ((c.steps + 1) % 2 ^ 64) else stepsOf s l j := by
  unfold countTurn
  simp only [hc]
  generalize hv : ({ c with steps := _, runNs := _, stall := _, stallC := _, since := _ } : SlotCtx) = v
  have hi : Steady (setSlot s l k v) (Machine.idleSince (setSlot s l k v) l) := (Steady.refl _).idleSince
  have hn : brkHit (Machine.idleSince (setSlot s l k v) l) l k ((c.steps + 1) % 2 ^ 64) = false :=
    (brkHit_of_rd (s := s) (fun x hx => hi.brk l x hx) _).trans hb
  rw [if_pos (.inl (by rw [hn]; decide)), hi.steps, stepsOf, stepsOf, setSlot, slotOf, coreOf_setCore, tget?_tset]
  split
  · rw [← hv]; rfl
  · rfl

/-! ## The turn -/

/-- Nothing keeps core `l` from a turn. -/
structure Turns (s : State) (l : Nat) : Prop where
  runs : coreRuns s l = true
  free : coreHeldB s l = false
  golden : goldRuns s l = false

/-- The ring of the core is given to `r`. -/
def giveRing (s : State) (l : Nat) (r : Option Nat) : State := setCore s l { coreOf s l with ring := r }

theorem Steady.giveRing {r : Option Nat} (h : Steady σ s) : Steady σ (giveRing s l r) := h.setCore

theorem Turns.passes (h : Turns s l) : ¬ (¬ coreRuns s l ∨ coreHeldB s l ∨ goldRuns s l) := by simp [h.runs, h.free, h.golden]

/-- No context can turn the ring. -/
theorem Turns.coreStep_of_no_ring (h : Turns s l) (hn : ringOf (settleAll s l) l = none) :
    coreStep s l none = giveRing (settleAll s l) l none := by
  unfold coreStep
  rw [if_neg h.passes]
  simp only [hn, giveRing]

/-- The ring goes to a context that can turn it. -/
theorem Turns.coreStep_of_ring (h : Turns s l) (hn : ringOf (settleAll s l) l = some k)
    (ht : canTurn (giveRing (settleAll s l) l (some k)) l k = true) :
    coreStep s l none = countTurn (settle (turnOps (giveRing (settleAll s l) l (some k)) l k) l k) l k := by
  have hst : Steady s (giveRing (settleAll s l) l (some k)) := (Steady.refl s).settleAll.giveRing
  have hr := hst.coreRuns_eq.trans h.runs
  unfold coreStep
  rw [if_neg h.passes]
  simp only [hn]
  exact if_neg (by change ¬ (¬ coreRuns (giveRing _ _ _) l ∨ ¬ canTurn (giveRing _ _ _) l k); rw [hr, ht]; decide)

theorem steady_advance (s : State) (t : Time) : Steady s (advance s t) := (Steady.refl s).alike rfl rfl

/-- Settles O13: besides `countTurn`, which adds 1 to the slot that turns, all a turn does is steady. -/
theorem turnOfTheRingCountsOneStep : Obligations.TurnOfTheRingCountsOneStep := by
  unfold Obligations.TurnOfTheRingCountsOneStep
  intro t l s s1 hr hh hg
  have ha : Steady s s1 := (steady_advance s t).settleAll
  have hturns : Turns (advance s t) l := ⟨hr, hh, hg⟩
  constructor
  · intro k c hring s2 hturn hc hb
    have hv : Steady s (settle (turnOps s2 l k) l k) := ha.giveRing.turnOps.settle
    obtain ⟨d, hd, hdc⟩ := slotOf_of_stepsOf ((hv.steps l k).trans (stepsOf_eq hc))
    have hbv : brkHit (settle (turnOps s2 l k) l k) l k ((d.steps + 1) % 2 ^ 64) = false := by
      rw [hdc, brkHit_of_rd (hv.brk l)]
      exact hb
    have hcount (j : Nat) : stepsOf (coreStep (advance s t) l none) l j = if j = k then some ((c.steps + 1) % 2 ^ 64) else stepsOf s l j := by
      rw [hturns.coreStep_of_ring hring hturn, ← hv.steps, ← hdc]
      exact stepsOf_countTurn hd hbv j
    exact ⟨_, rfl, (hcount k).trans (if_pos rfl), fun j hj => (hcount j).trans (if_neg hj)⟩
  · intro hring
    have hu : Steady s (coreStep (advance s t) l none) := (hturns.coreStep_of_no_ring hring).symm ▸ ha.giveRing
    refine ⟨_, rfl, ?_, hu.steps l⟩
    rw [hturns.coreStep_of_no_ring hring, giveRing, coreOf_setCore]

end Sys2Proof.Proofs
end

section
/-! # The tensor core: what the work of the cores leaves alone

`CoreWork s u`: between `s` and `u` the cores may have worked: registers of cores, partitions, tokens and the Wardrobe, device memory, the cores and
their contexts, work counters and free values may have changed; the registers that hold the map, the spare and the retired cores of a cluster and the
errors of its Footstool, and all other parts of the state, the Footstools among them, have not.  Every transition that takes no step is such work,
every fault, and every service of a work counter.  As for `Follows`, each operation carries `CoreWork σ` from its argument to its result, and the
proof for it has the shape of its definition. -/
namespace Sys2Proof.Proofs
open Sys2Proof Sys2Proof.Machine Sys2Proof.Safety Sys2Proof.Laws

/-- The state without the parts that the work of the cores may change. -/
def besidesWork (s : State) : State :=
  { s with regs := [], mem := [], tc := [], ctxs := [], wctr := [], kv := Kv.reset, ing := Ing.reset, free := 0 }

/-- The offsets of the registers of a cluster that its cores' work leaves alone: CL_MAP, CL_SPARE, CL_RETIRED and the Footstool's errors (R87, R91). -/
def clusterOffs : List Nat := [0x800, 0x804, 0x808, 0x80C, 0x810, 0x814, 0x82C]

/-- What the work of the cores leaves alone. -/
structure CoreWork (s u : State) : Prop where
  besides : besidesWork u = besidesWork s
  cluster : ∀ c, ∀ x ∈ clusterOffs, rd u (clReg c x) = rd s (clReg c x)

/-- Where there is a next state, it is work of the cores. -/
def CoreWorks (s : State) (o : Option State) : Prop := ∀ u, o = some u → CoreWork s u

variable {σ s u : State}

theorem CoreWork.cl (h : CoreWork s u) : u.cl = s.cl := by
  simpa only [besidesWork] using congrArg State.cl h.besides

theorem CoreWork.clOf_eq (h : CoreWork s u) (c : Nat) : clOf u c = clOf s c := by rw [clOf, clOf, h.cl]

/-! ## The shapes of a definition -/

theorem CoreWork.refl (s : State) : CoreWork s s := ⟨rfl, fun _ _ _ => rfl⟩

theorem CoreWork.trans (h : CoreWork σ s) (k : CoreWork s u) : CoreWork σ u where
  besides := k.besides.trans h.besides
  cluster c x hx := (k.cluster c x hx).trans (h.cluster c x hx)

/-- An update of no register and of nothing beside the work of the cores. -/
theorem CoreWork.alike (h : CoreWork σ s) (hb : besidesWork u = besidesWork s) (hr : u.regs = s.regs) : CoreWork σ u :=
  h.trans ⟨hb, fun _ _ _ => rd_of_regs hr _⟩

theorem CoreWork.fst {β : Type} {b : β} (h : CoreWork σ s) : CoreWork σ (s, b).1 := h

theorem CoreWork.ite {c : Prop} [Decidable c] {x y : State} (hx : CoreWork σ x) (hy : CoreWork σ y) : CoreWork σ (if c then x else y) := by
  split <;> assumption

theorem CoreWork.foldl {α : Type} {f : State → α → State} {l : List α} (h : CoreWork σ s) (hf : ∀ v i, CoreWork σ v → CoreWork σ (f v i)) :
    CoreWork σ (l.foldl f s) := List.foldlRecOn l f h fun v hv i _ => hf v i hv

theorem CoreWorks.none : CoreWorks σ none := by
  rintro u ⟨⟩

theorem CoreWorks.some (h : CoreWork σ s) : CoreWorks σ (some s) := by
  rintro u ⟨⟩; exact h

theorem CoreWorks.ite {c : Prop} [Decidable c] {o q : Option State} (ho : CoreWorks σ o) (hq : CoreWorks σ q) :
    CoreWorks σ (if c then o else q) := by
  split <;> assumption

theorem CoreWorks.orElse' {o q : Option State} (ho : CoreWorks σ o) (hq : CoreWorks σ q) : CoreWorks σ (orElse' o q) := by
  cases o with
  | none => exact hq
  | some v => exact ho

/-! ## Cores, contexts and registers -/

theorem CoreWork.setCore {l : Nat} {v : LCore} (h : CoreWork σ s) : CoreWork σ (setCore s l v) := h.alike rfl rfl

theorem CoreWork.setSlot {l k : Nat} {v : SlotCtx} (h : CoreWork σ s) : CoreWork σ (setSlot s l k v) := h.setCore

theorem CoreWork.setCtx {p n : Nat} {c : Ctx} (h : CoreWork σ s) : CoreWork σ (setCtx s p n c) := h.alike rfl rfl

theorem CoreWork.setWctr {key : Nat} {w : Wctr} (h : CoreWork σ s) : CoreWork σ (setWctr s key w) := h.alike rfl rfl

theorem CoreWork.wrMem {a : Nat} {bs : List Byte} (h : CoreWork σ s) : CoreWork σ (wrMem s a bs) := h.alike rfl rfl

/-- The offset of a cluster register stands for itself (R94). -/
theorem canonOff_clReg (c : Nat) {x : Nat} (hx : x < 0x1000) : canonOff (clReg c x) = clReg c x := by
  unfold canonOff clReg tcOff
  split
  · omega
  · rfl

/-- A register that is none of those. -/
def besideCluster (off : Nat) : Prop := off < 0x100000 ∨ off % 0x1000 ∉ clusterOffs

theorem lt_of_mem_clusterOffs {x : Nat} (hx : x ∈ clusterOffs) : 0x800 ≤ x ∧ x < 0x1000 := by
  revert x
  decide

theorem clReg_ne_of_besideCluster {off c x : Nat} (h : besideCluster off) (hx : x ∈ clusterOffs) : canonOff (clReg c x) ≠ canonOff off := by
  have hb := lt_of_mem_clusterOffs hx
  have hm : clReg c x % 0x1000 = x := by
    unfold clReg tcOff
    omega
  rcases h with h | h
  · exact (canonOff_ne_window h (by unfold clReg tcOff; omega)).symm
  · intro e
    have := congrArg (· % 0x1000) e
    simp only [canonOff_mod, hm] at this
    exact h (this ▸ hx)

theorem CoreWork.wrReg {off : Nat} {v : Word} (h : CoreWork σ s) (ho : besideCluster off) : CoreWork σ (wrReg s off v) :=
  h.trans ⟨rfl, fun _ _ hx => rd_wrReg_ne s _ _ v (clReg_ne_of_besideCluster ho hx)⟩

theorem besideCluster_tcOff {l x : Nat} (hx : x < 0x800) : besideCluster (tcOff l + x) := by
  have hm : (tcOff l + x) % 0x1000 = x := by
    unfold tcOff
    omega
  refine .inr fun h => ?_
  rw [hm] at h
  exact absurd (lt_of_mem_clusterOffs h).1 (Nat.not_le.mpr hx)

theorem besideCluster_partOff {p x : Nat} (hx : x < 0x100) : besideCluster (partOff p + x) := by
  refine .inl ?_
  unfold partOff
  omega

theorem CoreWork.signal {k n : Nat} {v : Word} (h : CoreWork σ s) : CoreWork σ (signal s k n v) := by
  have hb := (tokOff_bounds k n).2
  have h1 : CoreWork σ (Machine.wrReg s (tokOff k n) (token s k n + v)) := h.wrReg (.inl (by omega))
  exact h1.alike rfl rfl

/-! ## Machine/Ops.lean -/

theorem CoreWork.bankAbort {l b : Nat} (h : CoreWork σ s) : CoreWork σ (bankAbort s l b) :=
  .ite (h.setCore.wrReg (besideCluster_tcOff (by decide))) h

theorem CoreWork.bankWake {l b : Nat} {wr : Bool} (h : CoreWork σ s) : CoreWork σ (bankWake s l b wr) := by
  have hb : (if wr then 0x58 else 0x5C) < 0x800 := by
    cases wr <;> decide
  exact .ite (h.setCore.wrReg (besideCluster_tcOff hb)) h

theorem CoreWork.touchCore {wr : Bool} {a len : Nat} (h : CoreWork σ s) : CoreWork σ (touchCore s wr a len) := by
  unfold Machine.touchCore
  dsimp only
  split
  · exact h
  · exact .ite h (.foldl h fun _ _ h => h.bankAbort.bankWake)

theorem CoreWork.touch {wr : Bool} {a len : Nat} (h : CoreWork σ s) : CoreWork σ (touch s wr a len) := .foldl h fun _ _ h => h.touchCore

theorem CoreWork.touchRanges {wr : Bool} {rs : List (Nat × Nat)} (h : CoreWork σ s) : CoreWork σ (touchRanges s wr rs) :=
  .foldl h fun _ _ h => h.touch

theorem CoreWork.selfFetch {l : Nat} {x : Credit} {mc : Bool} (h : CoreWork σ s) : CoreWork σ (selfFetch s l x mc) := by
  have hb : (if mc then 0x64 else 0x68) < 0x800 := by
    cases mc <;> decide
  exact h.setCore.wrReg (besideCluster_tcOff hb)

theorem CoreWork.cancelPromises {w p n : Nat} (h : CoreWork σ s) : CoreWork σ (cancelPromises s w p n) :=
  .foldl h fun _ _ h => .foldl h fun _ _ h => h.selfFetch

theorem CoreWork.recordTcFault {l k n code : Nat} (h : CoreWork σ s) : CoreWork σ (recordTcFault s l k n code) :=
  .ite h (h.wrReg (besideCluster_tcOff (by decide)))

theorem CoreWork.raise {p n l code : Nat} (h : CoreWork σ s) : CoreWork σ (raise s p n l code) := by
  unfold Machine.raise
  dsimp only
  split
  · exact h
  · exact h
  · exact h.recordTcFault.setCtx.cancelPromises

theorem CoreWork.noteFence {p a : Nat} (h : CoreWork σ s) : CoreWork σ (noteFence s p a) :=
  ((h.wrReg (besideCluster_partOff (by decide))).wrReg (besideCluster_partOff (by decide))).wrReg (besideCluster_partOff (by decide))

theorem CoreWork.raiseAcc {p n l : Nat} {x : Acc} (h : CoreWork σ s) : CoreWork σ (raiseAcc s p n l x) := by
  unfold Machine.raiseAcc
  split
  · exact h
  · exact h.noteFence.raise
  · exact h.raise

theorem CoreWork.raiseErrs {p n l : Nat} {es : Errs} (h : CoreWork σ s) : CoreWork σ (raiseErrs s p n l es) := by
  unfold Machine.raiseErrs
  split
  · exact h
  · exact .ite h.noteFence.raise h.raise

theorem CoreWork.nondet {p : Nat} (h : CoreWork σ s) : CoreWork σ (nondet s p) := h.wrReg (besideCluster_partOff (by decide))

/-! ## Machine/Dresser.lean -/

theorem CoreWork.endWait {l k : Nat} (h : CoreWork σ s) : CoreWork σ (endWait s l k) := by
  unfold Machine.endWait
  split
  · exact h
  · exact h.setSlot

theorem CoreWork.beginWait {l k : Nat} {w : Wait} (h : CoreWork σ s) : CoreWork σ (beginWait s l k w) := by
  unfold Machine.beginWait
  split
  · exact h
  · exact .ite h.setSlot.setCore h.setSlot

theorem CoreWork.landBytes {a n : Nat} {bs : List Byte} (h : CoreWork σ s) : CoreWork σ (landBytes a n bs s) := by
  induction n generalizing bs s with
  | zero => exact h
  | succ n ih =>
    cases bs with
    | nil => exact h
    | cons b bs => exact ih h.wrMem

theorem CoreWork.landReads {l p n : Nat} {rs : List (Nat × Nat)} (h : CoreWork σ s) : CoreWork σ (landReads s l p n rs) := by
  unfold Machine.landReads
  dsimp only
  split
  · exact h
  · split
    · exact h
    · split
      · exact h
      · exact h.touch.landBytes

/-! ## Machine/Array.lean -/

theorem CoreWork.afterReads {p n l : Nat} {rs : List (Nat × Nat)} {f : State → State} (h : CoreWork σ s)
    (hf : ∀ v, CoreWork σ v → CoreWork σ (f v)) : CoreWork σ (afterReads s p n l rs f) := by
  unfold Machine.afterReads
  split
  · exact hf _ h.touchRanges
  · exact h.raiseAcc

theorem CoreWork.wrElems {p n l : Nat} {es : List (Nat × List Byte)} (h : CoreWork σ s) : CoreWork σ (wrElems p n l es s) := by
  induction es generalizing s with
  | nil => exact h
  | cons e r ih =>
    unfold Machine.wrElems
    split
    · exact .ite h.raise (ih h.touch.wrMem)
    · exact h.raiseAcc

theorem CoreWork.setAcc {l a : Nat} {v : AccSlot} (h : CoreWork σ s) : CoreWork σ (setAcc s l a v) := h.setCore

/-! ## Machine/Vector.lean -/

theorem CoreWork.eachRow {p n l : Nat} {f : Nat → SSt → SSt} {rows : List Nat} {x : SSt} (h : CoreWork σ x.1)
    (hf : ∀ i v, CoreWork σ v.1 → CoreWork σ (f i v).1) : CoreWork σ (eachRow p n l f rows x).1 := by
  unfold Machine.eachRow
  refine List.foldlRecOn (motive := fun v : SSt => CoreWork σ v.1) _ _ h fun v hv i _ => ?_
  split
  · exact hf _ _ hv
  · exact hv

theorem CoreWork.rowDo {p n l : Nat} {reads : List (Nat × Nat)} {x : SSt} {f : State → List (Nat × List Byte) × Stats} (h : CoreWork σ x.1) :
    CoreWork σ (rowDo p n l reads x f).1 := by
  unfold Machine.rowDo Machine.rowWith
  split
  · exact h.touchRanges.landReads.wrElems
  · exact h.raiseAcc

section
variable {l : Nat} {sc : SlotCtx} {fl : InFlight} {x : SSt}

theorem CoreWork.effEwise {t : Nat} (h : CoreWork σ x.1) : CoreWork σ (effEwise l sc fl t x).1 := by
  unfold Machine.effEwise
  dsimp only
  split
  · exact .eachRow h fun _ _ h => h.rowDo
  · exact h

theorem CoreWork.effStat {t : Nat} (h : CoreWork σ x.1) : CoreWork σ (effStat l sc fl t x).1 := by
  unfold Machine.effStat
  dsimp only
  split
  · exact .eachRow h fun _ _ h => h.rowDo
  · exact h

theorem CoreWork.effPool {t : Nat} (h : CoreWork σ x.1) : CoreWork σ (effPool l sc fl t x).1 := by
  unfold Machine.effPool
  dsimp only
  split
  · exact .eachRow h fun _ _ h => h.rowDo
  · exact h

theorem CoreWork.effArgmax {t : Nat} (h : CoreWork σ x.1) : CoreWork σ (effArgmax l sc fl t x).1 := by
  unfold Machine.effArgmax
  dsimp only
  split
  · exact .eachRow h fun _ _ h => h.rowDo
  · exact h

theorem CoreWork.effXpnd {t kb : Nat} (h : CoreWork σ x.1) : CoreWork σ (effXpnd l sc fl t kb x).1 := by
  unfold Machine.effXpnd
  dsimp only
  split
  · exact .eachRow h fun _ _ h => h.rowDo
  · exact h

theorem CoreWork.wrW {a : Nat} {w : Word} (h : CoreWork σ s) : CoreWork σ (wrW s a w) := h.wrMem

theorem CoreWork.effAttnInit {rows d : Nat} (h : CoreWork σ s) : CoreWork σ (effAttnInit l fl rows d s) :=
  .foldl h fun _ _ h => .foldl h.wrW.wrW fun _ _ h => h.wrW

theorem CoreWork.attnRow {q k v : Opnd} {t kb i : Nat} (h : CoreWork σ s) : CoreWork σ (attnRow l sc fl q k v t kb i s) :=
  .foldl h.wrMem.wrW.wrW.wrW.wrW fun _ _ h => h.wrW

theorem CoreWork.countEmpty {p : Nat} (h : CoreWork σ s) : CoreWork σ (countEmpty s p) := by
  have ho (x : Nat) (hx : x = 0x1C ∨ x = 0x20) : besideCluster (0x50100 + 0x40 * p + x) := by
    refine .inr ?_
    simp only [clusterOffs, List.mem_cons, List.not_mem_nil, or_false]
    omega
  exact (h.wrReg (ho _ (.inl rfl))).wrReg (ho _ (.inr rfl))

theorem CoreWork.attnEndRow {o : Opnd} {D t i : Nat} (h : CoreWork σ x.1) :
    CoreWork σ (attnEndRow l sc fl o D t i x).1 := .rowDo (.ite h.countEmpty h)

theorem CoreWork.effAttn {e : Eff} (h : CoreWork σ x.1) : CoreWork σ (effAttn l sc fl e x).1 := by
  unfold Machine.effAttn
  split
  · split
    · exact h.touchRanges.effAttnInit
    · extract_lets k v
      exact .eachRow h fun _ _ h => .fst (.afterReads h fun _ h => h.touchRanges.landReads.attnRow)
    · exact .eachRow h fun _ _ h => h.attnEndRow
    · exact h
  · exact h

theorem CoreWork.effScaleEntries {first count : Nat} (h : CoreWork σ s) : CoreWork σ (effScaleEntries l sc fl first count s) :=
  .foldl h.touch fun _ _ h => h.setCore

/-- The scale table an instruction loads into a core, for every length of it. -/
theorem CoreWork.loadTab {a n i : Nat} {v w : State} (h : CoreWork σ v) :
    CoreWork σ (Machine.setCore v l { coreOf v l with tabs := tset (coreOf v l).tabs i (rdMem w a n) }) := h.setCore

theorem CoreWork.effScaleTable (h : CoreWork σ s) : CoreWork σ (effScaleTable l fl s) := .loadTab (v := Machine.touch s false _ _) h.touch

theorem CoreWork.effFill {first count : Nat} (h : CoreWork σ x.1) : CoreWork σ (effFill l sc fl first count x).1 := by
  unfold Machine.effFill
  dsimp only
  split
  · exact .eachRow h fun _ _ h => h.wrElems
  · exact h

theorem CoreWork.effScopy {first count : Nat} (h : CoreWork σ x.1) : CoreWork σ (effScopy l sc fl first count x).1 := by
  unfold Machine.effScopy
  dsimp only
  split
  · exact .eachRow h fun _ _ h => .afterReads h fun _ h => h.wrElems
  · exact h

theorem CoreWork.unitEff {e : Eff} (h : CoreWork σ x.1) : CoreWork σ (unitEff l sc fl e x).1 := by
  unfold Machine.unitEff
  split
  · exact h.effXpnd
  · exact h.effAttn
  · exact h.effAttn
  · exact h.effAttn
  · exact h.effEwise
  · exact h.effPool
  · exact h.effArgmax
  · exact h.effStat
  · exact h.effScaleEntries
  · exact h.effScaleTable
  · exact h.effFill
  · exact h.effScopy
  · exact h

end

/-! ## Machine/Turn.lean: the transitions that take no step -/

section
variable {l k i : Nat} {sc : SlotCtx} {f : InFlight} {m : Mma}

theorem CoreWork.setFlight (h : CoreWork σ s) : CoreWork σ (setFlight s l k i f) := by
  unfold Machine.setFlight
  split
  · exact h
  · exact h.setSlot

theorem CoreWork.putMma (h : CoreWork σ s) : CoreWork σ (putMma s l k i m) := by
  unfold Machine.putMma
  split
  · exact h
  · exact h.setFlight

theorem CoreWork.settleDrain (h : CoreWork σ s) : CoreWorks σ (settleDrain s l k i m) := by
  unfold Machine.settleDrain
  dsimp only
  split
  · exact .none
  · split
    · exact .some h.setAcc.putMma
    · exact .none

theorem CoreWork.settleFinish (h : CoreWork σ s) : CoreWorks σ (settleFinish s l k i m) := by
  unfold Machine.settleFinish
  dsimp only
  split
  · exact .none
  · exact .ite .none (.some h.setAcc.putMma)

theorem CoreWork.settleRedo (h : CoreWork σ s) : CoreWorks σ (settleRedo s sc l k i m) := by
  unfold Machine.settleRedo
  dsimp only
  split
  · exact .some h.setAcc.putMma
  · exact .none

theorem CoreWork.settleBegin (h : CoreWork σ s) : CoreWorks σ (settleBegin s sc l k i f m) := by
  unfold Machine.settleBegin
  dsimp only
  refine .ite .none (.ite .none (.ite .none ?_))
  split
  · exact .none
  · refine .ite .none ?_
    split
    · exact .ite (.some h.raiseErrs) (.some (.putMma (.ite h (.ite h.setAcc h.setAcc))))
    · exact .some h.raiseAcc

theorem CoreWork.settlePass (h : CoreWork σ s) : CoreWorks σ (settlePass s sc l k i m) := by
  unfold Machine.settlePass
  dsimp only
  refine .ite .none (.ite .none (.some (.putMma ?_)))
  split
  · exact h
  · exact h.signal

theorem CoreWork.attnFree (h : CoreWork σ s) : CoreWork σ (attnFree s l f) := by
  unfold Machine.attnFree
  split
  · exact .foldl h fun _ _ h => h.setAcc
  · exact h

theorem CoreWork.unitApply {u : WorkUnit} (h : CoreWork σ s) : CoreWork σ (unitApply s sc l k i f u) := by
  unfold Machine.unitApply
  dsimp only
  split
  · exact h.attnFree.unitEff
  · exact h.attnFree.unitEff.setFlight

theorem CoreWork.settleUnit (h : CoreWork σ s) : CoreWorks σ (settleUnit s sc l k i f) := by
  unfold Machine.settleUnit
  split
  · exact .none
  · exact .ite (.some h.unitApply) .none

theorem CoreWork.settle1 (h : CoreWork σ s) : CoreWorks σ (settle1 s l k i) := by
  unfold Machine.settle1
  split
  · refine .ite .none ?_
    split
    · exact h.settleUnit
    · exact .orElse' h.settleDrain (.orElse' h.settleFinish (.orElse' h.settleRedo (.orElse' h.settleBegin h.settlePass)))
  · exact .none

theorem CoreWork.settleN {n : Nat} (h : CoreWork σ s) : CoreWork σ (settleN n s l k i) := by
  induction n generalizing s with
  | zero => exact h
  | succ n ih =>
    unfold Machine.settleN
    split
    · exact h
    · next v e => exact ih (h.settle1 v e)

theorem CoreWork.noteWait (h : CoreWork σ s) : CoreWork σ (noteWait s l k) := by
  unfold Machine.noteWait
  dsimp only
  split
  · exact h
  · split
    · exact .ite h h.beginWait.touchRanges.touchRanges
    · exact .ite h.endWait h
    · exact h

theorem CoreWork.settle (h : CoreWork σ s) : CoreWork σ (settle s l k) := h.settleN.settleN.settleN.noteWait

/-! ## Ranks, and the instructions that wait outside the ring -/

theorem CoreWork.modRank {p n : Nat} {g : SlotCtx → SlotCtx} (h : CoreWork σ s) : CoreWork σ (modRank s l p n g) := by
  unfold Machine.modRank
  split
  · split
    · exact h
    · exact h.setSlot
  · exact h.setCtx

theorem CoreWork.extDone {p n ip : Nat} {x : Ext} {g : InFlight → InFlight} (h : CoreWork σ s) : CoreWork σ (extDone s l p n ip x g) := h.modRank

/-! ## Machine/Cores.lean: work counters (R200 to R202) -/

theorem CoreWork.sendRow {ip j : Nat} (h : CoreWork σ s) : CoreWork σ (sendRow s l sc ip m j) := by
  unfold Machine.sendRow
  split
  · exact h
  · exact .ite h h.setWctr

theorem CoreWork.giveItem {item : Nat} (h : CoreWork σ s) : CoreWork σ (giveItem s l k item) := by
  unfold Machine.giveItem
  split
  · exact h
  · split
    · exact h
    · extract_lets m1 s1 s2
      have h1 : CoreWork σ s1 := h.nondet.putMma
      have h2 : CoreWork σ s2 := by
        unfold s2
        split
        · exact h1
        · exact .ite h1.sendRow h1
      exact h2.settle

theorem CoreWork.giveNone (h : CoreWork σ s) : CoreWork σ (giveNone s l k) := by
  unfold Machine.giveNone
  split
  · exact h
  · split
    · exact h
    · exact h.nondet.putMma.settle

end

section
variable {key : Nat}

theorem CoreWork.wctrIdle (h : CoreWork σ s) : CoreWork σ (wctrIdle s key) := by
  unfold Machine.wctrIdle
  dsimp only
  split
  · exact h.setWctr
  · exact h.setWctr.setCtx

theorem CoreWork.wctrLeave (h : CoreWork σ s) : CoreWork σ (wctrLeave s key) := .ite h.setWctr.wctrIdle h.setWctr

theorem CoreWork.wctrServe {q : Nat × Nat × Nat × Nat × Nat} (h : CoreWork σ s) : CoreWorks σ (wctrServe s key q) := by
  unfold Machine.wctrServe
  extract_lets w0 w
  split
  · split
    · exact .some h
    · exact .some h.raise
  · exact .none
  · refine .ite .none ?_
    split
    · exact .some h.setWctr.giveItem
    · exact .ite (.some h.setWctr.giveItem) (.ite (.some h.setWctr.wctrLeave.giveNone) .none)

theorem CoreWork.wctrRun {n : Nat} (h : CoreWork σ s) : CoreWork σ (wctrRun n s key) := by
  induction n generalizing s with
  | zero => exact h
  | succ n ih =>
    unfold Machine.wctrRun
    dsimp only
    split
    · exact h
    · split
      · exact h
      · next v e => exact ih (h.setWctr.wctrServe v e)

theorem CoreWork.wctrRetire {l : Nat} (h : CoreWork σ s) : CoreWork σ (wctrRetire l s key) :=
  .ite h.setWctr h.setWctr.wctrLeave.wctrRun

end

theorem CoreWork.raiseAll {l code : Nat} (h : CoreWork σ s) : CoreWork σ (raiseAll s l code) := .foldl h fun _ _ h => h.raise

end Sys2Proof.Proofs
end

section
/-! # O16: a retirement (R90, R91) -/
namespace Sys2Proof.Proofs
open Sys2Proof Sys2Proof.Machine Sys2Proof.Safety Sys2Proof.Laws

/-! ## The registers of a cluster -/

theorem clReg_ne (c : Nat) {x y : Nat} (hx : x < 0x1000) (hy : y < 0x1000) (h : x ≠ y) : canonOff (clReg c x) ≠ canonOff (clReg c y) := by
  rw [canonOff_clReg c hx, canonOff_clReg c hy]
  unfold clReg
  omega

/-- The register that holds a core's map entry. -/
def mapOff (l : Nat) : Nat := 0x800 + 4 * (l % 16 / 4)

theorem mapOff_lt (l : Nat) : mapOff l < 0x810 := by
  unfold mapOff
  omega

theorem mapOf_setMap (s : State) (l : Nat) {v : Nat} (hv : v < 32) : mapOf (setMap s l v) l = v :=
  (fld_setFld_same s _ _ _ _ (by omega)).trans (Nat.mod_eq_of_lt hv)

theorem rd_setMap_ne (s : State) (l v : Nat) {x : Nat} (h1 : 0x810 ≤ x) (h2 : x < 0x1000) :
    rd (setMap s l v) (clReg (l / 16) x) = rd s (clReg (l / 16) x) := by
  have hm : mapOff l < 0x810 := mapOff_lt l
  exact rd_setFld_ne s (clReg (l / 16) (mapOff l)) _ _ _ _ (clReg_ne _ h2 (by omega) (by omega))

theorem spareState_of_rd {s u : State} {c : Nat} (h : rd u (clReg c 0x810) = rd s (clReg c 0x810)) : spareState u c = spareState s c :=
  fld_of_rd h 8 2

/-! ## The steps of R91 -/

/-- The core has stopped: its contexts have faulted and its claims are to be replayed. -/
def coreStopped (s : State) (l : Nat) : State :=
  let v := ((raiseAll s l fRetired).wctr.map Prod.fst).foldl (wctrRetire l) (raiseAll s l fRetired)
  setCore v l { coreOf v l with stopped := true, ring := none, resid := [] }

/-- Its physical index stands in CL_RETIRED. -/
def markRetired (s : State) (c i : Nat) : State := setFld s (clReg c 0x814) 0 17 (fld s (clReg c 0x814) 0 17 ||| 2 ^ i)

/-- The READY spare of a cluster is PREPARING for index `j`. -/
def prepareSpare (s : State) (c j : Nat) : State :=
  setCl (setFld s (clReg c 0x810) 8 2 1) c { clOf s c with prep := some j, prepOk := false }

theorem coreWork_coreStopped (s : State) (l : Nat) : CoreWork s (coreStopped s l) :=
  .setCore (.foldl (CoreWork.refl s).raiseAll fun _ _ h => h.wctrRetire)

theorem coreOf_coreStopped (s : State) (l : Nat) :
    (coreOf (coreStopped s l) l).stopped = true ∧ (coreOf (coreStopped s l) l).ring = none ∧ (coreOf (coreStopped s l) l).resid = [] := by
  rw [coreStopped, coreOf_setCore]
  exact ⟨rfl, rfl, rfl⟩

theorem testBit_markRetired (s : State) (c : Nat) {i : Nat} (hi : i < 17) : (fld (markRetired s c i) (clReg c 0x814) 0 17).testBit i = true := by
  rw [markRetired, fld_setFld_same _ _ _ _ _ (by norm_num), Nat.testBit_mod_two_pow, Nat.testBit_or, Nat.testBit_two_pow_self]
  simp [hi]

theorem spareState_markRetired (s : State) (c i : Nat) : spareState (markRetired s c i) c = spareState s c :=
  spareState_of_rd (rd_setFld_ne s _ _ _ _ _ (clReg_ne c (by norm_num) (by norm_num) (by norm_num)))

theorem spareState_coreStopped (s : State) (l c : Nat) : spareState (coreStopped s l) c = spareState s c :=
  spareState_of_rd ((coreWork_coreStopped s l).cluster c 0x810 (by decide))

theorem rd_prepareSpare_retired (s : State) (c j : Nat) : rd (prepareSpare s c j) (clReg c 0x814) = rd s (clReg c 0x814) :=
  rd_setFld_ne s _ _ _ _ _ (clReg_ne c (by norm_num) (by norm_num) (by norm_num))

theorem spareState_prepareSpare (s : State) (c j : Nat) : spareState (prepareSpare s c j) c = 1 :=
  fld_setFld_same s _ _ _ _ (by norm_num)

@[simp] theorem coreOf_markRetired (s : State) (c i l : Nat) : coreOf (markRetired s c i) l = coreOf s l := rfl
@[simp] theorem coreOf_prepareSpare (s : State) (c j l : Nat) : coreOf (prepareSpare s c j) l = coreOf s l := rfl
@[simp] theorem coreOf_setMap (s : State) (m v l : Nat) : coreOf (setMap s m v) l = coreOf s l := rfl

/-- A retirement of a core in service. -/
theorem coreRetire_eq {s : State} {l : Nat} (hs : (coreOf s l).stopped = false) (hm : mapOf s l < 17) :
    coreRetire s l =
      if spareState s (l / 16) = 0 then prepareSpare (markRetired (coreStopped s l) (l / 16) (mapOf s l)) (l / 16) (l % 16)
      else setMap (markRetired (coreStopped s l) (l / 16) (mapOf s l)) l 0x1F := by
  have hgo : ¬ ((coreOf s l).stopped = true ∨ mapOf s l = 0x1F) := by
    rw [hs]
    simp only [Bool.false_eq_true, false_or]
    omega
  rw [coreRetire, if_neg hgo, ← spareState_coreStopped s l, ← spareState_markRetired _ _ (mapOf s l)]
  rfl

/-- What a retirement leaves of core `l`, at physical index `i`, and its cluster (R91): with a READY spare, or with none. -/
structure Retired (s u : State) (l i : Nat) : Prop where
  stopped : (coreOf u l).stopped = true
  ring : (coreOf u l).ring = none
  resid : (coreOf u l).resid = []
  marked : (fld u (clReg (l / 16) 0x814) 0 17).testBit i = true
  spare : spareState s (l / 16) = 0 → spareState u (l / 16) = 1 ∧ (clOf u (l / 16)).prep = some (l % 16)
  unavailable : spareState s (l / 16) ≠ 0 → mapOf u l = 0x1F

theorem coreRetire_retired {s : State} {l : Nat} (hs : (coreOf s l).stopped = false) (hm : mapOf s l < 17) :
    Retired s (coreRetire s l) l (mapOf s l) := by
  obtain ⟨hstop, hring, hresid⟩ := coreOf_coreStopped s l
  have hmark := testBit_markRetired (coreStopped s l) (l / 16) hm
  rw [coreRetire_eq hs hm]
  generalize coreStopped s l = v at hstop hring hresid hmark
  split
  · next h =>
    refine ⟨by simpa, by simpa, by simpa, ?_, fun _ => ⟨spareState_prepareSpare _ _ _, ?_⟩, fun hn => absurd h hn⟩
    · rwa [fld_of_rd (rd_prepareSpare_retired _ _ _) 0 17]
    · rw [prepareSpare, clOf_setCl]
  · next h =>
    refine ⟨by simpa, by simpa, by simpa, ?_, fun hn => absurd hn h, fun _ => mapOf_setMap _ _ (by norm_num)⟩
    rwa [fld_of_rd (rd_setMap_ne _ l _ (by norm_num) (by norm_num)) 0 17]

/-- Settles O16: both commands are the retirement of R91 on the advanced state, and its last steps set what the statement names. -/
theorem retirementStopsTheCore : Obligations.RetirementStopsTheCore := by
  refine ⟨fun t l cause s hs hm => ?_, fun t ag l0 l w s hw hc hl hs hm => ?_⟩
  · obtain ⟨h1, h2, h3, h4, h5, h6⟩ := coreRetire_retired (s := advance s t) hs hm
    exact ⟨_, rfl, h1, h2, h3, h4, h5, h6⟩
  · obtain ⟨h1, h2, h3, h4, h5, h6⟩ := coreRetire_retired (s := advance s t) hs hm
    refine ⟨coreRetire (advance s t) l, ?_, h1, h2, h3, h4, h5, h6⟩
    rw [exec_clRetireReq, execClRetireReq, onWrite_of_writeTakes _ hw, retireReq, if_pos hc, hl]

end Sys2Proof.Proofs
end

section
/-! # O17: a core reset and QUIESCE (R94, R96) -/
namespace Sys2Proof.Proofs
open Sys2Proof Sys2Proof.Machine Sys2Proof.Safety Sys2Proof.Laws

variable {s u : State} {l k : Nat}

/-! ## Slots that are empty -/

theorem tget?_eq_none_of_not_mem {α : Type} {t : Tab α} (h : k ∉ t.map Prod.fst) : tget? t k = none := by
  induction t with
  | nil => rfl
  | cons e r ih =>
    obtain ⟨hk, hr⟩ := not_or.mp (mt List.mem_cons.mpr h)
    rw [tget?, if_neg (Ne.symm hk), ih hr]

/-- Steady work fills no slot. -/
theorem Steady.slotOf_eq_none (h : Steady s u) (hn : slotOf s l k = none) : slotOf u l k = none := by
  have hs : stepsOf u l k = none := by rw [h.steps, stepsOf, hn]; rfl
  exact Option.map_eq_none_iff.mp hs

theorem slotOf_of_tc (h : u.tc = s.tc) : slotOf u l k = slotOf s l k := by rw [slotOf, slotOf, coreOf, coreOf, h]

theorem slotOf_dropAsks (s : State) (w p n : Nat) : slotOf (dropAsks s w p n) l k = slotOf s l k := by
  rw [slotOf, slotOf, coreOf, coreOf, dropAsks, tget, tget,
    tget?_mapValues fun v : LCore => { v with waitQ := v.waitQ.filter fun r => !(decide (r.writer = w) && decide (r.part = p) && decide (r.ctx = n)) }]
  cases tget? s.tc l <;> rfl

/-! ## A context leaves its slot -/

/-- A context that leaves its slot leaves it empty, and fills no other. -/
theorem slotOf_leaveSlot {j : Nat} (h : k = j ∨ slotOf s l k = none) : slotOf (leaveSlot s l j) l k = none := by
  unfold leaveSlot
  split
  · next hj => exact h.elim (fun e => e ▸ hj) id
  · next sc hj =>
    change slotOf (setCore _ l _) l k = none
    rw [slotOf, coreOf_setCore]
    by_cases hk : k = j
    · rw [hk, tget?_tdel_same]
    · rw [tget?_tdel_ne _ _ _ hk]
      exact (slotOf_dropAsks _ _ _ _).trans ((Steady.refl s).cancelPromises.slotOf_eq_none (h.resolve_left hk))

theorem phSet_tc (pg o n v : Nat) (s : State) : (phSet pg o n v s).tc = s.tc := rfl

theorem pageFree_tc (s : State) (pg : Nat) : (pageFree s pg).tc = s.tc := by
  simp only [pageFree, phSet_tc, setFld_tc]

theorem unpin_tc (s : State) (pg : Nat) : (unpin s pg).tc = s.tc := by
  unfold unpin
  dsimp only
  split
  · rw [setFld_tc, pageFree_tc, phSet_tc]
  · rw [phSet_tc]

theorem freeBytes_tc (s : State) (a n : Nat) : (freeBytes s a n).tc = s.tc := rfl

theorem spillLost_tc (keep : Nat → Bool) (p : Nat) (s : State) (c : SlotCtx) : (spillLost keep p s c).tc = s.tc := by
  refine List.foldlRecOn (motive := fun v : State => v.tc = s.tc) _ _ rfl fun v hv m _ =>
    List.foldlRecOn (motive := fun v : State => v.tc = s.tc) _ _ hv fun v hv i _ => ?_
  dsimp only
  split
  · rwa [freeBytes_tc]
  · exact hv

theorem slotOf_dropSlotBut {keep : Nat → Bool} {j : Nat} (h : k = j ∨ slotOf s l k = none) : slotOf (dropSlotBut keep s l j) l k = none := by
  unfold dropSlotBut
  split
  · next hj => exact h.elim (fun e => e ▸ hj) id
  · next sc hj =>
    refine List.foldlRecOn (motive := fun v => slotOf v l k = none) _ _ (slotOf_leaveSlot ?_) fun v hv pg _ => (slotOf_of_tc (unpin_tc v pg)).trans hv
    exact h.imp_right fun hn => (slotOf_of_tc (spillLost_tc keep sc.part s sc)).trans hn

/-- Once every context listed has left, the slots are empty that were empty or are listed. -/
theorem slotOf_foldl_dropSlotBut {keep : Nat → Bool} (ks : List Nat) (h : k ∈ ks ∨ slotOf s l k = none) :
    slotOf (ks.foldl (fun s k => dropSlotBut keep s l k) s) l k = none := by
  induction ks generalizing s with
  | nil => exact h.resolve_left List.not_mem_nil
  | cons j ks ih =>
    refine ih ?_
    rcases h with h | h
    · exact (List.mem_cons.mp h).symm.imp_right fun e => slotOf_dropSlotBut (.inl e)
    · exact .inr (slotOf_dropSlotBut (.inr h))

/-! ## A core reset (R96) -/

/-- The counters that a core reset clears. -/
def resetCounters : List Nat := [0x10, 0x14, 0x18, 0x48, 0x4C, 0x58, 0x5C, 0x60, 0x64, 0x68]

theorem rd_clearCoreCounters (s : State) (l : Nat) {o : Nat} (ho : o ∈ resetCounters) : rd (clearCoreCounters s l) (tcOff l + o) = 0 :=
  rd_foldl_wrReg (o := fun o => tcOff l + o) s ho

theorem clearCoreCounters_tc (s : State) (l : Nat) : (clearCoreCounters s l).tc = s.tc :=
  List.foldlRecOn (motive := fun v : State => v.tc = s.tc) _ _ rfl fun _ hv _ _ => hv

theorem coreOf_clearCoreCounters (s : State) (l m : Nat) : coreOf (clearCoreCounters s l) m = coreOf s m := by
  rw [coreOf, coreOf, clearCoreCounters_tc]

/-- The core once every context on it has faulted and left. -/
def coreEmptied (s : State) (l : Nat) : State :=
  let v := raiseAll s l fCoreReset
  ((coreOf v l).slots.map Prod.fst).foldl (fun s k => dropSlotBut (fun a => (spadCore a).isSome) s l k) v

theorem slotOf_coreEmptied (s : State) (l k : Nat) : slotOf (coreEmptied s l) l k = none :=
  slotOf_foldl_dropSlotBut _ ((Classical.em _).imp_right tget?_eq_none_of_not_mem)

/-- What is cleared of a core that has been emptied. -/
def clearedCore (c : LCore) : LCore := { c with acc := [], grantQ := [], stages := [], scale := [], tabs := [], resid := [], ring := none }

theorem coreReset_eq (s : State) (l : Nat) :
    coreReset s l = clearCoreCounters (setCore (coreEmptied s l) l (clearedCore (coreOf (coreEmptied s l) l))) l := rfl

theorem coreOf_coreReset (s : State) (l : Nat) : coreOf (coreReset s l) l = clearedCore (coreOf (coreEmptied s l) l) := by
  rw [coreReset_eq, coreOf_clearCoreCounters, coreOf_setCore]

theorem slotOf_coreReset (s : State) (l k : Nat) : slotOf (coreReset s l) l k = none := by
  rw [slotOf, coreOf_coreReset]
  exact slotOf_coreEmptied s l k

/-- Settles O17: a core reset empties every slot and clears the core and its counters; QUIESCE is one flag. -/
theorem coreResetAndQuiesce : Obligations.CoreResetAndQuiesce := by
  refine ⟨fun t ag l s hw => ⟨coreReset (advance s t) l, ?_, ?_⟩, fun t ag l q s hw => ⟨setFlag (advance s t) (tcOff l + 0xC) 0 q, ?_, ?_⟩⟩
  · rw [exec_coreReset, execCoreReset, onWrite_of_writeTakes _ hw]
  · rw [coreOf_coreReset]
    exact ⟨rfl, rfl, rfl, rfl, rfl, slotOf_coreReset _ l, fun o ho => rd_clearCoreCounters _ l ho⟩
  · rw [exec_tcQuiesce, execTcQuiesce, onWrite_of_writeTakes _ hw]
  · exact ⟨flag_setFlag_same _ _ (by norm_num) q, rfl, fun o ho => rd_setFlag_ne _ 0 q ho⟩

end Sys2Proof.Proofs
end

section
/-! # O18: the Footstool of a cluster (R84, R85, R87) -/
namespace Sys2Proof.Proofs
open Sys2Proof Sys2Proof.Machine Sys2Proof.Safety Sys2Proof.Laws

variable {s : State} {c : Nat} {r : FsReq}

/-! ## A request begins (R85) -/

/-- The Footstool runs the pending request `r`, taken off those whose contexts are alive. -/
def fsRunning (s : State) (c : Nat) (r : FsReq) : State :=
  setCl s c { clOf s c with queue := ((clOf s c).queue.filter (fsAlive s)).erase r, cur := some r }

/-- With no request running and nothing that goes before it, the first by class begins. -/
theorem fsBoundary_starts (hcur : (clOf s c).cur = none) (hg : fsGolden s c = false) (hh : holdRuns s c = false)
    (hr : fsNext ((clOf s c).queue.filter (fsAlive s)) = some r) : fsBoundary s c = fsRunning s c r := by
  have hall : ((clOf s c).queue.filter (fsAlive s)).filter (fun q => decide (q.cls ≠ 3) || !holdRuns s c) = (clOf s c).queue.filter (fsAlive s) := by
    simp [hh]
  simp only [fsBoundary, hcur, fsStart, hg, Bool.false_eq_true, if_false, hall, hr, fsRunning]

/-! ## A request ends (R84) -/

/-- The running request may end: its context is alive, its last blocks remain, and its output can be written. -/
structure FsEnds (s : State) (c : Nat) (r : FsReq) : Prop where
  cur : (clOf s c).cur = some r
  live : fsAlive s r = true
  room : fsOpen s c r = true
  last : fsChunked r = false ∨ r.total - r.done ≤ fsChunk s c r

/-- The state in which the last blocks of a request have run and no request is at the Footstool. -/
def fsRanOut (s : State) (c : Nat) (r : FsReq) : State :=
  let v := (fsRun s c r (r.total - r.done)).1
  setCl v c { clOf v c with cur := none }

/-- What ends a request after its last blocks is work of its core. -/
theorem FsEnds.coreWork_fsComplete (h : FsEnds s c r) : CoreWork (fsRanOut s c r) (fsComplete s c) := by
  have hlast : ¬ (fsChunked r = true ∧ fsChunk s c r < r.total - r.done) := by
    rcases h.last with hl | hl
    · simp [hl]
    · exact fun hn => absurd hn.2 (Nat.not_lt.mpr hl)
  unfold fsComplete
  simp only [h.cur, h.live, h.room, not_true, if_false, if_neg hlast]
  change CoreWork (fsRanOut s c r) (if ¬ aliveOn (fsRanOut s c r) r.part r.ctx r.core = true then fsRanOut s c r else _)
  refine .ite (.refl _) ?_
  split
  · exact (CoreWork.refl _).extDone.modRank
  · exact (CoreWork.refl _).extDone.modRank.settle

theorem FsEnds.cur_fsComplete (h : FsEnds s c r) : (clOf (fsComplete s c) c).cur = none := by
  rw [h.coreWork_fsComplete.clOf_eq, fsRanOut, clOf_setCl]

/-! ## A parity error of the buffer (R87) -/

/-- The error counted: FS_PARITY_ERR (R87). -/
def fsCounted (s : State) (c : Nat) : State := bump s (clReg c 0x82C)

/-- Faults in contexts leave device memory, the Footstools and their errors counted alone. -/
structure FaultsAlone (s u : State) : Prop where
  work : CoreWork s u
  mem : u.mem = s.mem

theorem faultsAlone_fsEnd (s : State) (c : Nat) : FaultsAlone (setCl s c { clOf s c with unavail := true, queue := [], cur := none }) (fsEnd s c) := by
  refine List.foldlRecOn (motive := FaultsAlone _) _ _ ⟨.refl _, rfl⟩ fun v hv q _ => ?_
  dsimp only
  split
  · exact ⟨hv.work.raise, (coreSide_mem (raise_side _ _ _ _ _)).trans hv.mem⟩
  · exact hv

/-- At a row that has had an error before, the Footstool leaves service. -/
theorem fsParity_again {row : Nat} (held : Bool) (hu : (clOf s c).unavail = false) (hr : row ∈ (clOf s c).badRows) :
    fsParity s c row held = fsEnd (fsCounted s c) c := by
  have hcl : clOf (bump s (clReg c 0x82C)) c = clOf s c := rfl
  simp [fsParity, fsCounted, hcl, hu, hr]

/-- At a new row, the row is noted; the running request faults where its data is lost. -/
theorem faultsAlone_fsParity_new {row : Nat} (held : Bool) (hu : (clOf s c).unavail = false) (hr : row ∉ (clOf s c).badRows) :
    FaultsAlone (setCl (fsCounted s c) c { clOf s c with badRows := row :: (clOf s c).badRows }) (fsParity s c row held) := by
  have hcl : clOf (bump s (clReg c 0x82C)) c = clOf s c := rfl
  simp only [fsParity, fsCounted, hcl, hu, Bool.false_eq_true, if_false, List.contains_iff_mem, hr]
  split
  · exact ⟨.refl _, rfl⟩
  · split
    · exact ⟨.refl _, rfl⟩
    · exact ⟨(CoreWork.refl _).raise, coreSide_mem (raise_side _ _ _ _ _)⟩

theorem FaultsAlone.counted {u v : State} (h : FaultsAlone v u) (hr : v.regs = (fsCounted s c).regs) :
    rd u (clReg c 0x82C) = rd s (clReg c 0x82C) + 1 := by
  rw [h.work.cluster c 0x82C (by decide), rd_of_regs hr, fsCounted, rd_bump]

theorem clOf_fsEnd (s : State) (c : Nat) :
    (clOf (fsEnd s c) c).unavail = true ∧ (clOf (fsEnd s c) c).queue = [] ∧ (clOf (fsEnd s c) c).cur = none := by
  rw [(faultsAlone_fsEnd s c).work.clOf_eq, clOf_setCl]
  exact ⟨rfl, rfl, rfl⟩

/-- Settles O18: a boundary sets the Footstool alone; after a request's last blocks, and with an error, the cores alone go on. -/
theorem footstoolRequestsAndErrors : Obligations.FootstoolRequestsAndErrors := by
  refine ⟨fun t c s r hcur hg hh hr => ?_, fun t c s r hcur hl ho hlast => ?_, fun t c row held s hu => ?_⟩
  · refine ⟨fsRunning (advance s t) c r, ?_, ?_, ?_, rfl, rfl, rfl⟩
    · rw [exec_footstoolChunkBoundary, execFootstoolChunkBoundary, fsBoundary_starts (s := advance s t) hcur hg hh hr]
    · rw [fsRunning, clOf_setCl]
    · rw [fsRunning, clOf_setCl]
      rfl
  · exact ⟨_, rfl, FsEnds.cur_fsComplete (s := advance s t) ⟨hcur, hl, ho, hlast⟩⟩
  · refine ⟨fsParity (advance s t) c row held, rfl, ?_⟩
    by_cases hrow : row ∈ (clOf s c).badRows
    · rw [fsParity_again (s := advance s t) held hu hrow]
      have h := faultsAlone_fsEnd (fsCounted (advance s t) c) c
      exact ⟨h.counted rfl, h.mem, fun _ => clOf_fsEnd _ c, fun hn => absurd hrow hn⟩
    · have h := faultsAlone_fsParity_new (s := advance s t) held hu hrow
      refine ⟨h.counted rfl, h.mem, fun hn => absurd hn hrow, fun _ => ?_⟩
      rw [h.work.clOf_eq, clOf_setCl]
      exact ⟨hu, rfl⟩

end Sys2Proof.Proofs
end

section
/-! # O15: the waits of a context end (R62, R117, R130, R148, R158) -/
namespace Sys2Proof.Proofs
open Sys2Proof Sys2Proof.Machine Sys2Proof.Safety Sys2Proof.Laws

variable {s : State} {l k : Nat}

/-! ## Slots -/

theorem slotOf_endWait {c : SlotCtx} (hc : slotOf s l k = some c) :
    slotOf (endWait s l k) l k = some { chargeWait s (slotNow s) c with wait := .none } := by
  rw [endWait, hc]
  exact slotOf_setSlot _ _ _ _

theorem chargeWait_flight (s : State) (x : Nat) (c : SlotCtx) : (chargeWait s x c).flight = c.flight := by
  unfold chargeWait
  dsimp only
  split <;> rfl

theorem grantQ_setSlot (s : State) (l k : Nat) (v : SlotCtx) : (coreOf (setSlot s l k v) l).grantQ = (coreOf s l).grantQ := by
  rw [setSlot, coreOf_setCore]

theorem grantQ_endWait (s : State) (l k : Nat) : (coreOf (endWait s l k) l).grantQ = (coreOf s l).grantQ := by
  unfold endWait
  split
  · rfl
  · exact grantQ_setSlot _ _ _ _

/-! ## A token (R158) -/

theorem syncRelease_of_reached {c : SlotCtx} {tok : Nat} {v : Word} (hc : slotOf s l k = some c) (hw : c.wait = .token tok v)
    (ht : (token s c.part tok - v).toNat < 2 ^ 31) (ha : alive s c.part c.ctx = true) (hh : c.hit = false)
    (hd : c.det = false ∨ c.flight.dropLast.all spent = true) :
    syncRelease s l k = settle (finishSync (endWait s l k) l k) l k := by
  have hopen : tokOpen s c c.flight.dropLast tok v = true := by
    rw [tokOpen, tokReached, decide_eq_true ht, Bool.true_and]
    rcases hd with hd | hd <;> simp only [hd, Bool.not_false, Bool.true_or, Bool.or_true]
  simp only [syncRelease, hc, hw, hopen, aliveOn, ha, hh, Bool.true_or, Bool.not_false, Bool.and_true, if_true]

/-! ## An accumulator grant (R148) -/

/-- The core with the request of slot `k` for `n` slots off its queue. -/
def takeGrant (s : State) (l k n : Nat) : State := setCore s l { coreOf s l with grantQ := (coreOf s l).grantQ.erase (k, n) }

theorem slotOf_takeGrant (s : State) (l k n j : Nat) : slotOf (takeGrant s l k n) l j = slotOf s l j := by
  rw [slotOf, takeGrant, coreOf_setCore, slotOf]

theorem grantQ_takeGrant (s : State) (l k n : Nat) : (coreOf (takeGrant s l k n) l).grantQ = (coreOf s l).grantQ.erase (k, n) := by
  rw [takeGrant, coreOf_setCore]

theorem slotGrant_of_free {c : SlotCtx} {n : Nat} (hc : slotOf s l k = some c) (hq : grantHead s l = some (k, n)) (hn : n ≠ 0)
    (hf : n ≤ (freeAcc s l).length) : slotGrant s l k = settle (giveSlots (endWait (takeGrant s l k n) l k) l k n) l k := by
  simp only [slotGrant, hq, hc, takeGrant, ne_eq, not_true, if_false, if_neg hn, if_neg (Nat.not_lt.mpr hf)]

/-- Where every number of a range has a value, the values stand in its order. -/
theorem getElem?_filterMap_rangeFrom {α : Type} {f : Nat → Option α} {a n i : Nat} (h : ∀ j, a ≤ j → j < a + n → (f j).isSome = true)
    (hi : i < n) : ((rangeFrom a n).filterMap f)[i]? = f (a + i) := by
  induction n generalizing a i with
  | zero => omega
  | succ n ih =>
    obtain ⟨x, hx⟩ := Option.isSome_iff_exists.mp (h a (by omega) (by omega))
    rw [rangeFrom, List.filterMap_cons_some hx]
    cases i with
    | zero => simp [hx]
    | succ i =>
      rw [List.getElem?_cons_succ, ih (fun j h1 h2 => h j (by omega) (by omega)) (by omega)]
      congr 1
      omega

/-- The newest instruction gets the lowest FREE slots; the wait of its slot is as before. -/
theorem slotOf_giveSlots {c : SlotCtx} {n i : Nat} {f : InFlight} (hc : slotOf s l k = some c) (hf : c.flight[i]? = some f)
    (hi : i + 1 = c.flight.length) : ∃ c', slotOf (giveSlots s l k n) l k = some c' ∧ c'.wait = c.wait ∧
      c'.flight[i]? = some { f with granted := (freeAcc s l).take n } := by
  rw [giveSlots, hc]
  refine ⟨_, slotOf_setSlot _ _ _ _, rfl, ?_⟩
  rw [getElem?_filterMap_rangeFrom (fun j _ hj => ?_) (by omega), Nat.zero_add, hf, Option.map_some, if_pos hi]
  rw [List.getElem?_eq_getElem (by omega), Option.map_some, Option.isSome_some]

/-! ## An instruction that is issued (R128, R130) -/

section
variable {want : List Byte → Bool} {held : Bool} {sc : SlotCtx} {bs : List Byte} {b : Built}

/-- Filling the buffer of a slot changes nothing else of it (R129). -/
theorem fetchInstr_eq (s : State) (sc : SlotCtx) : fetchInstr s sc = { sc with ibuf := (fetchInstr s sc).ibuf } := by
  unfold fetchInstr
  split <;> rfl

/-- What a wait adds, where no token is waited for, does not depend on the cores. -/
theorem chargeWait_setSlot {c : SlotCtx} (x : Nat) (v : SlotCtx) (hw : ∀ tok w, c.wait ≠ .token tok w) :
    chargeWait (setSlot s l k v) x c = chargeWait s x c := by
  have hb : breakHolds (setSlot s l k v) c = breakHolds s c := by
    unfold breakHolds
    split
    · next tok w h => exact absurd h (hw tok w)
    · rfl
  have hd : waited (setSlot s l k v) x c = waited s x c := by
    unfold waited
    rw [hb]
    rfl
  unfold chargeWait
  rw [hd]
  rfl

/-- A context that may issue waits for no token. -/
theorem wait_ne_token_of_mayIssue (h : mayIssue s l sc held = true) (tok : Nat) (v : Word) : sc.wait ≠ .token tok v := by
  intro hw
  have hi : issueWait held sc.wait = true := by
    simp only [mayIssue, Bool.and_eq_true] at h
    tauto
  cases held <;> simp [issueWait, hw] at hi

/-- An instruction that is ready is issued. -/
theorem issueBuilt_of_ready (h : IssueReady s l k want held sc bs b) :
    issueBuilt (withBurst s l k sc) l k (fetchInstr s sc) b =
      settle (finishSync (askSlots (issueActs (placed s l k sc b) l k (fetchInstr s sc) b.fl) l k b.slots) l k) l k := by
  have hcharge : chargeWait (withBurst s l k sc) (slotNow (withBurst s l k sc)) (fetchInstr s sc) = chargeWait s (slotNow s) (fetchInstr s sc) := by
    refine chargeWait_setSlot _ _ ?_
    rw [fetchInstr_eq]
    exact wait_ne_token_of_mayIssue h.may
  simp only [issueBuilt, h.checks, List.isEmpty_nil, not_true, if_false, h.room, hcharge, placed, issued]
  rw [fetchInstr_eq s sc]
  rfl

theorem issue_of_ready (h : IssueReady s l k want held sc bs b) :
    issue s l k want held =
      settle (finishSync (askSlots (issueActs (placed s l k sc b) l k (fetchInstr s sc) b.fl) l k b.slots) l k) l k := by
  have hip : (fetchInstr s sc).ip = sc.ip := by rw [fetchInstr_eq]
  have hbytes : tget? (fetchInstr s sc).ibuf (fetchInstr s sc).ip = some bs := hip.symm ▸ h.bytes
  have hclear : mustHold (setSlot s l k (fetchInstr s sc)) (fetchInstr s sc) bs b = false := h.clear
  have hbuilt : buildOf (setSlot s l k (fetchInstr s sc)) l (fetchInstr s sc) bs = b := h.built.symm
  rw [← issueBuilt_of_ready h]
  simp only [issue, h.slot, h.may, hbytes, h.kind, hbuilt, hclear, not_true, false_and, Bool.false_eq_true, if_false, withBurst]

theorem slotOf_placed (s : State) (l k : Nat) (sc : SlotCtx) (b : Built) : slotOf (placed s l k sc b) l k = some (issued s sc b) :=
  slotOf_setSlot _ _ _ _

end

/-! ## The last acknowledgement of a drain (R62) -/

theorem firstFlight_some {c : SlotCtx} {q : Nat → InFlight → Bool} {i : Nat} (h : firstFlight c q = some i) :
    ∃ f, c.flight[i]? = some f ∧ q i f = true := by
  have hq := List.find?_some h
  split at hq
  · cases hq
  · next f hf => exact ⟨f, hf, hq⟩

theorem accOf_setAcc_none (s : State) (l a : Nat) : accOf (setAcc s l a AccSlot.none) l a = AccSlot.none := by
  have hfree : AccSlot.none.st = .free := rfl
  rw [accOf, setAcc, coreOf_setCore]
  simp only [hfree, if_true]
  rw [tget, tget?_tdel_same, Option.getD_none]

theorem accOf_setFlight (s : State) (l k i a : Nat) (f : InFlight) : accOf (setFlight s l k i f) l a = accOf s l a := by
  unfold setFlight
  split
  · rfl
  · rw [accOf, setSlot, coreOf_setCore, accOf]

theorem sendRow_tc (s : State) (l : Nat) (c : SlotCtx) (ip : Nat) (m : Mma) (j : Nat) : (sendRow s l c ip m j).tc = s.tc := by
  unfold sendRow
  split
  · rfl
  · split
    · rfl
    · rfl

theorem accOf_of_tc {u : State} (h : u.tc = s.tc) (l a : Nat) : accOf u l a = accOf s l a := by rw [accOf, accOf, coreOf, coreOf, h]

/-- A slot whose last row has been drained returns to FREE, unless a write of the tile that its MMA drains there is not acknowledged. -/
theorem accOf_drainAck {a : Nat} (hst : (accOf s l a).st = .draining) (hrow : 32 ≤ (accOf s l a).row)
    (hack : ∀ c i f m, slotOf s l (accOf s l a).cs = some c →
      firstFlight c (fun _ f => decide (f.ip = (accOf s l a).ip) && f.mma.isSome) = some i → c.flight[i]? = some f → f.mma = some m →
      unacked s l c.part c.ctx ((tileRows m (tileOf m (accOf s l a).tile)).map (drainWrites l m (tileOf m (accOf s l a).tile))).flatten = false) :
    accOf (drainAck s l a) l a = AccSlot.none := by
  have hgo : ¬ ((accOf s l a).st ≠ .draining ∨ (accOf s l a).row < 32) := by
    simp only [hst, ne_eq, not_true, false_or]
    omega
  unfold drainAck
  rw [if_neg hgo]
  split
  · exact accOf_setAcc_none s l a
  · next c hc =>
    split
    · exact accOf_setAcc_none s l a
    · next i hi =>
      obtain ⟨f, hf, hq⟩ := firstFlight_some hi
      obtain ⟨m, hm⟩ := Option.isSome_iff_exists.mp (Bool.and_eq_true_iff.mp hq).2
      simp only [hf, hm, hack c i f m hc hi hf hm, Bool.false_eq_true, if_false]
      rw [accOf_of_tc (sendRow_tc _ _ _ _ _ _), accOf_setFlight, accOf_setAcc_none]

/-! ## A partial that reaches rank 0 (R117) -/

/-- The first partial under way joins the record of its instruction. -/
def takePartial (s : State) (p n : Nat) (x : Partial) : State :=
  joinPartial p n (setCtx s p n { ctxOf s p n with transit := (ctxOf s p n).transit.erase x }) x

theorem partialArrive_of_lands {p n rank l0 k0 : Nat} {x : Partial}
    (hx : (ctxOf s p n).transit.find? (fun y => decide (y.rank = rank)) = some x) (hl : (ctxOf s p n).cores.head? = some l0)
    (hk : slotFor s l0 p n = some k0) (hf : flitLands s l0 k0 p n (nth l0 (ctxOf s p n).cores rank) = true) :
    partialArrive s p n rank = settle (takePartial s p n x) l0 k0 := by
  simp only [partialArrive, hx, hl, hk, hf, if_true, takePartial]

theorem transit_modRec (c : Ctx) (ip : Nat) (g : RecPend → RecPend) : (modRec c ip g).transit = c.transit := by
  unfold modRec
  split <;> rfl

/-- The record of an instruction is there once it has been changed, by a change that keeps its instruction. -/
theorem find?_modRec (c : Ctx) {ip : Nat} {g : RecPend → RecPend} (hg : ∀ r, (g r).ip = r.ip) :
    ∃ r, (modRec c ip g).recs.find? (fun y => decide (y.ip = ip)) = some (g r) := by
  unfold modRec
  split
  · next h =>
    have hsome : (c.recs.find? (fun y => decide (y.ip = ip))).isSome = true := by rwa [List.isSome_find?]
    obtain ⟨r, hr⟩ := Option.isSome_iff_exists.mp hsome
    refine ⟨r, ?_⟩
    have hcomp : (fun y : RecPend => decide (y.ip = ip)) ∘ (fun r => if r.ip = ip then g r else r) = fun y => decide (y.ip = ip) := by
      funext y
      simp only [Function.comp_apply]
      split
      · rw [hg]
      · rfl
    have hip : r.ip = ip := by simpa using List.find?_some hr
    simp only [List.find?_map, hcomp, hr, Option.map_some, if_pos hip]
  · next h =>
    refine ⟨⟨ip, none, Stats.none, [], 0, 0⟩, ?_⟩
    have hnone : c.recs.find? (fun y => decide (y.ip = ip)) = none := by
      simpa [List.find?_eq_none] using h
    simp only [List.find?_append, hnone, Option.none_or, List.find?_cons, hg, decide_true]

theorem ctxOf_takePartial (s : State) (p n : Nat) (x : Partial) :
    ctxOf (takePartial s p n x) p n = modRec { ctxOf s p n with transit := (ctxOf s p n).transit.erase x } x.ip
      (fun r => { r with stats := statsJoin r.stats x.stats, ranks := r.ranks ++ [x.rank] }) := by
  rw [takePartial, joinPartial, ctxOf_setCtx, ctxOf_setCtx]

theorem transit_takePartial (s : State) (p n : Nat) (x : Partial) :
    (ctxOf (takePartial s p n x) p n).transit = (ctxOf s p n).transit.erase x := by
  rw [ctxOf_takePartial, transit_modRec]

theorem find?_takePartial (s : State) (p n : Nat) (x : Partial) :
    ∃ r, (ctxOf (takePartial s p n x) p n).recs.find? (fun y => decide (y.ip = x.ip)) = some r ∧ x.rank ∈ r.ranks := by
  rw [ctxOf_takePartial]
  generalize ({ ctxOf s p n with transit := _ } : Ctx) = c
  obtain ⟨r, hr⟩ := find?_modRec c (ip := x.ip) (g := fun r => { r with stats := statsJoin r.stats x.stats, ranks := r.ranks ++ [x.rank] }) fun _ => rfl
  exact ⟨_, hr, by simp⟩

/-- Settles O15: each command finds its wait at an end and is that end, then the transitions that take no step. -/
theorem waitsOfAContextEnd : Obligations.WaitsOfAContextEnd := by
  refine ⟨?_, ?_, ?_, ?_, ?_⟩
  · intro t l k s c tok v hc hw ht ha hh hd
    rw [exec_syncWaitRelease, execSyncWaitRelease, syncRelease_of_reached (s := advance s t) hc hw ht ha hh hd]
    refine ⟨rfl, ?_⟩
    rw [slotOf_endWait (s := advance s t) hc, Option.map_some]
  · intro t l k s c n hc hq hn hf s1
    have hs1 : s1 = endWait (takeGrant (advance s t) l k n) l k := rfl
    have hslot : slotOf s1 l k = _ := slotOf_endWait ((slotOf_takeGrant _ _ _ _ _).trans hc)
    refine ⟨?_, ?_, fun i f hi hlast => ?_⟩
    · rw [exec_accSlotGrant, execAccSlotGrant, slotGrant_of_free (s := advance s t) hc hq hn hf, hs1]
    · rw [hs1, grantQ_endWait, grantQ_takeGrant]
      rfl
    · exact slotOf_giveSlots hslot ((chargeWait_flight _ _ c).symm ▸ hi) ((chargeWait_flight _ _ c).symm ▸ hlast)
  · intro t l k s sc bs b h
    rw [exec_instructionHoldRelease, execInstructionHoldRelease, issue_of_ready h, slotOf_placed]
    exact ⟨rfl, rfl⟩
  · intro t l a s hst hrow hack
    exact ⟨rfl, accOf_drainAck (s := advance s t) hst hrow hack⟩
  · intro t p n rank s x l0 k0 hx hl hk hf s1
    have hs1 : s1 = takePartial (advance s t) p n x := rfl
    have hrank : x.rank = rank.val := by simpa using List.find?_some hx
    rw [hs1]
    refine ⟨?_, transit_takePartial _ _ _ x, hrank ▸ find?_takePartial _ _ _ x⟩
    rw [exec_statsPartialArrive, execStatsPartialArrive, partialArrive_of_lands (s := advance s t) hx hl hk hf]

end Sys2Proof.Proofs
end

section
/-! # O22: work counters (R117, R200, R201, R216, R255) -/
namespace Sys2Proof.Proofs
open Sys2Proof Sys2Proof.Machine Sys2Proof.Safety Sys2Proof.Laws

variable {s : State} {key : Nat}

/-! ## The table of counters -/

@[simp] theorem wctrOf_setWctr (s : State) (key : Nat) (w : Wctr) : wctrOf (setWctr s key w) key = w := tget_tset_same _ _ _ _

theorem wctrOf_setWctr_ne (s : State) {key x : Nat} (w : Wctr) (h : x ≠ key) : wctrOf (setWctr s key w) x = wctrOf s x :=
  tget_tset_ne _ _ _ _ _ h

/-- The second state differs from the first in its work counters alone, and there at most in the counter `key`. -/
structure OnlyCounter (key : Nat) (s u : State) : Prop where
  rest : u = { s with wctr := u.wctr }
  others : ∀ x, x ≠ key → wctrOf u x = wctrOf s x

theorem OnlyCounter.refl (s : State) : OnlyCounter key s s := ⟨rfl, fun _ _ => rfl⟩

theorem OnlyCounter.setWctr {u : State} (h : OnlyCounter key s u) (w : Wctr) : OnlyCounter key s (setWctr u key w) where
  rest := congrArg (fun v => Machine.setWctr v key w) h.rest
  others x hx := (wctrOf_setWctr_ne u w hx).trans (h.others x hx)

theorem OnlyCounter.trans {u v : State} (h : OnlyCounter key s u) (h' : OnlyCounter key u v) : OnlyCounter key s v where
  rest := h'.rest.trans (congrArg (fun x : State => { x with wctr := v.wctr }) h.rest)
  others x hx := (h'.others x hx).trans (h.others x hx)

theorem OnlyCounter.mem {u : State} (h : OnlyCounter key s u) : u.mem = s.mem := by rw [h.rest]

theorem OnlyCounter.tc {u : State} (h : OnlyCounter key s u) : u.tc = s.tc := by rw [h.rest]

theorem OnlyCounter.regs {u : State} (h : OnlyCounter key s u) : u.regs = s.regs := by rw [h.rest]

/-! ## Claims that wait are served (R201) -/

theorem wctrServeAll_of_no_claims (h : (wctrOf s key).waiting = []) : wctrServeAll s key = s := by
  rw [wctrServeAll, h]
  rfl

/-- A claim as the list `waiting` of a counter holds it: core, slot, tag, LIMIT, participants. -/
abbrev Claim := Nat × Nat × Nat × Nat × Nat

/-- An IDLE counter that a claim arms (R201, step 1). -/
def armed (w : Wctr) (cl : Claim) : Wctr :=
  { w with
    st := .active, tag := cl.2.2.1, limit := cl.2.2.2.1, next := 0, done := 0, parts := cl.2.2.2.2, replay := [], bits := [], held := [], sat := 0, nan := 0 }

/-- It has handed out item 0 to the claim that arms it (R201, step 2). -/
def armedServed (w : Wctr) (cl : Claim) : Wctr := { armed w cl with next := 1, held := [(cl.1, cl.2.1, 0)] }

theorem wctrServe_of_idle {cl : Claim} (h : (wctrOf s key).st = .idle) (hl : 0 < cl.2.2.2.1) :
    wctrServe s key cl = some (giveItem (setWctr s key (armedServed (wctrOf s key) cl)) cl.1 cl.2.1 0) := by
  simp only [wctrServe, h, if_true, ne_eq, not_true, if_false, hl, armedServed, armed, List.nil_append, Nat.zero_add]

theorem wctrServe_of_poisoned {cl : Claim} {c : SlotCtx} (h : (wctrOf s key).st = .poisoned) (hc : slotOf s cl.1 cl.2.1 = some c) :
    wctrServe s key cl = some (raise s c.part c.ctx cl.1 fPoison) := by
  have hst : WctrSt.poisoned ≠ .idle := by decide
  simp only [wctrServe, h, if_neg hst, hc]

/-- The claims that wait at a counter are replaced. -/
def setWaiting (s : State) (key : Nat) (cls : List (Claim)) : State := setWctr s key { wctrOf s key with waiting := cls }

@[simp] theorem wctrOf_setWaiting (s : State) (key : Nat) (cls : List (Claim)) :
    wctrOf (setWaiting s key cls) key = { wctrOf s key with waiting := cls } := wctrOf_setWctr _ _ _

theorem OnlyCounter.setWaiting {u : State} (h : OnlyCounter key s u) (cls : List (Claim)) :
    OnlyCounter key s (setWaiting u key cls) := h.setWctr _

/-- The only claim that waits is served, if the counter serves it: it has then left the list of those that wait. -/
theorem wctrRun_one {cl : Claim} {u : State} (hw : (wctrOf s key).waiting = [cl]) (hs : (wctrServe s key cl).isSome = true)
    (hu : wctrServe (setWaiting s key []) key cl = some u) : wctrRun 1 s key = u := by
  have hleft : [cl].filter (fun x => decide (x ≠ cl)) = [] := by simp
  rw [setWaiting] at hu
  simp only [wctrRun, hw, List.find?_cons, hs, hleft, hu]

theorem wctrRun_one_of_idle {cl : Claim} (hw : (wctrOf s key).waiting = [cl]) (h : (wctrOf s key).st = .idle) (hl : 0 < cl.2.2.2.1) :
    wctrRun 1 s key = giveItem (setWctr (setWaiting s key []) key (armedServed (wctrOf (setWaiting s key []) key) cl)) cl.1 cl.2.1 0 := by
  have hleft : (wctrOf (setWaiting s key []) key).st = .idle := by rwa [wctrOf_setWaiting]
  exact wctrRun_one hw (by rw [wctrServe_of_idle h hl]; rfl) (wctrServe_of_idle hleft hl)

theorem wctrRun_one_of_poisoned {cl : Claim} {c : SlotCtx} (hw : (wctrOf s key).waiting = [cl]) (h : (wctrOf s key).st = .poisoned)
    (hc : slotOf s cl.1 cl.2.1 = some c) : wctrRun 1 s key = raise (setWaiting s key []) c.part c.ctx cl.1 fPoison := by
  have hleft : (wctrOf (setWaiting s key []) key).st = .poisoned := by rwa [wctrOf_setWaiting]
  exact wctrRun_one hw (by rw [wctrServe_of_poisoned h hc]; rfl) (wctrServe_of_poisoned hleft hc)

/-! ## An uncorrectable error (R200) -/

theorem wctrPoison_of_no_claims (h : (wctrOf s key).waiting = []) : wctrPoison s key = setWctr s key { wctrOf s key with st := .poisoned } :=
  wctrServeAll_of_no_claims (by rwa [wctrOf_setWctr])

/-! ## A claim (R146, R200, R201, R255) -/

/-- The DYN instruction of slot `k` of core `l`, number `i` in flight, may claim from counter `ct` of slice `sl`: its context goes on, the fences let its
partition use the counter, and the rows it has claimed are drained. -/
structure MayClaim (s : State) (l k : Nat) (c : SlotCtx) (f : InFlight) (i : Nat) (m : Mma) (sl ct rt : Nat) : Prop where
  slot : slotOf s l k = some c
  dyn : dynFlight c = some (i, m, sl, ct, rt)
  flight : c.flight[i]? = some f
  alive : alive s c.part c.ctx = true
  allowed : ctrAllowed s c.part sl ct = true
  drained : m.items.length * m.cols.length ≤ m.drained.length

/-- What it claims with: its core and slot, its tag, LIMIT and participants (R201, step 1). -/
def claimOf (l k : Nat) (c : SlotCtx) (f : InFlight) (rt : Nat) : Claim := (l, k, claimTag c f.ip, rt, le f.bytes 0x1A 1)

section
variable {l k : Nat} {c : SlotCtx} {f : InFlight} {i : Nat} {m : Mma} {sl ct rt : Nat}

theorem MayClaim.setWctr (h : MayClaim s l k c f i m sl ct rt) (w : Wctr) : MayClaim (setWctr s key w) l k c f i m sl ct rt :=
  ⟨h.slot, h.dyn, h.flight, h.alive, h.allowed, h.drained⟩

theorem claimKey_of_mayClaim (h : MayClaim s l k c f i m sl ct rt) : claimKey s l k = some (64 * sl + ct) := by
  rw [claimKey, h.slot, Option.bind_some, h.dyn]
  rfl

/-- No claim waits at a counter, and slot `k` of core `l` holds none there (R201). -/
structure Unclaimed (w : Wctr) (l k : Nat) : Prop where
  waiting : w.waiting = []
  held : w.held.any (fun h => decide (h.1 = l ∧ h.2.1 = k)) = false

/-- A claim joins the counter's claims, and the counter serves. -/
theorem wctrClaim_of_mayClaim (h : MayClaim s l k c f i m sl ct rt) (hu : Unclaimed (wctrOf s (64 * sl + ct)) l k) :
    wctrClaim s l k = wctrRun 1 (setWaiting s (64 * sl + ct) [claimOf l k c f rt]) (64 * sl + ct) := by
  have hon : aliveOn s c.part c.ctx l = true := by rw [aliveOn, h.alive, Bool.true_or]
  have hdrained : ¬ m.items.length * m.cols.length > m.drained.length := Nat.not_lt.mpr h.drained
  simp only [wctrClaim, h.slot, h.dyn, hon, hu.held, hu.waiting, List.any_nil, h.flight, if_neg hdrained, h.allowed, not_true, Bool.false_eq_true,
    Bool.true_eq_false, or_false, if_false, List.nil_append, List.length_singleton, setWaiting, claimOf]

/-- The first claim on an IDLE counter arms it and receives item 0. -/
theorem wctrClaim_of_idle (h : MayClaim s l k c f i m sl ct rt) (hu : Unclaimed (wctrOf s (64 * sl + ct)) l k)
    (hi : (wctrOf s (64 * sl + ct)).st = .idle) (hrt : 0 < rt) :
    ∃ u, wctrClaim s l k = giveItem u l k 0 ∧ OnlyCounter (64 * sl + ct) s u ∧
      wctrOf u (64 * sl + ct) = armedServed { wctrOf s (64 * sl + ct) with waiting := [] } (claimOf l k c f rt) := by
  have hwait := wctrOf_setWaiting s (64 * sl + ct) [claimOf l k c f rt]
  refine ⟨_, (wctrClaim_of_mayClaim h hu).trans (wctrRun_one_of_idle (by rw [hwait]) (by rwa [hwait]) hrt),
    (((OnlyCounter.refl s).setWaiting _).setWaiting _).setWctr _, ?_⟩
  rw [wctrOf_setWctr, wctrOf_setWaiting, hwait]

/-- A claim on a POISONED counter faults its context. -/
theorem wctrClaim_of_poisoned (h : MayClaim s l k c f i m sl ct rt) (hu : Unclaimed (wctrOf s (64 * sl + ct)) l k)
    (hp : (wctrOf s (64 * sl + ct)).st = .poisoned) :
    ∃ u, wctrClaim s l k = raise u c.part c.ctx l fPoison ∧ OnlyCounter (64 * sl + ct) s u ∧ (wctrOf u (64 * sl + ct)).st = .poisoned := by
  have hwait := wctrOf_setWaiting s (64 * sl + ct) [claimOf l k c f rt]
  refine ⟨_, (wctrClaim_of_mayClaim h hu).trans (wctrRun_one_of_poisoned (cl := claimOf l k c f rt) (by rw [hwait]) (by rwa [hwait]) h.slot),
    ((OnlyCounter.refl s).setWaiting _).setWaiting _, ?_⟩
  rw [wctrOf_setWaiting, hwait]
  exact hp

/-- A claim that meets an uncorrectable error poisons its counter, then faults there. -/
theorem wctrClaim_wctrPoison (h : MayClaim s l k c f i m sl ct rt) (hu : Unclaimed (wctrOf s (64 * sl + ct)) l k) :
    ∃ u, wctrClaim (wctrPoison s (64 * sl + ct)) l k = raise u c.part c.ctx l fPoison ∧ OnlyCounter (64 * sl + ct) s u ∧
      (wctrOf u (64 * sl + ct)).st = .poisoned := by
  rw [wctrPoison_of_no_claims hu.waiting]
  have hnone : Unclaimed (wctrOf (setWctr s (64 * sl + ct) { wctrOf s (64 * sl + ct) with st := .poisoned }) (64 * sl + ct)) l k := by
    rw [wctrOf_setWctr]
    exact ⟨hu.waiting, hu.held⟩
  obtain ⟨u, hclaim, honly, hst⟩ := wctrClaim_of_poisoned (h.setWctr _) hnone (by rw [wctrOf_setWctr])
  exact ⟨u, hclaim, ((OnlyCounter.refl s).setWctr _).trans honly, hst⟩

end

/-! ## A completion (R117, R201) -/

/-- The claims that a counter holds served once core `l` has completed `item`. -/
def heldAfter (w : Wctr) (l item : Nat) : List (Nat × Nat × Nat) := w.held.filter (fun h => !(decide (h.1 = l) && decide (h.2.2 = item)))

/-- A completion of an item is kept: its bit is set, and it counts with its saturations and NaNs (R117; R201, step 4). -/
def kept (w : Wctr) (l item sat nan : Nat) : Wctr :=
  { w with held := heldAfter w l item, bits := item :: w.bits, done := w.done + 1, sat := w.sat + sat, nan := w.nan + nan }

/-- A completion of an item whose bit is set is discarded as a duplicate (R201, step 4). -/
def duplicate (w : Wctr) (l item : Nat) : Wctr := { w with held := heldAfter w l item, dup := min 0xFFFF (w.dup + 1) }

/-- A counter that a completion under way has reached. -/
def received (w : Wctr) (x : Nat × Nat × Nat × Nat × Nat) : Wctr := { w with sent := w.sent.erase x }

/-- An ACTIVE counter takes a completion with its own tag and an item that it hands out. -/
structure Takes (w : Wctr) (tag item : Nat) : Prop where
  active : w.st = .active
  tag : w.tag = tag
  item : item < w.limit

section
variable {l tag item sat nan : Nat}

theorem wctrComplete_of_takes (h : Takes (wctrOf s key) tag item) :
    wctrComplete s key l tag item sat nan =
      if item ∈ (wctrOf s key).bits then
        wctrServeAll (bump (setWctr s key (duplicate (wctrOf s key) l item)) (0x60010 + 0x800 * (key / 64))) key
      else wctrServeAll (setWctr s key (kept (wctrOf s key) l item sat nan)) key := by
  have hgo : ¬ ((wctrOf s key).tag ≠ tag ∨ (wctrOf s key).limit ≤ item) := not_or.mpr ⟨not_not.mpr h.tag, Nat.not_le.mpr h.item⟩
  simp only [wctrComplete, h.active, if_neg hgo, List.contains_iff_mem, duplicate, kept, heldAfter]

theorem wctrArrive_of_mem_sent (hs : (l, tag, item, sat, nan) ∈ (wctrOf s key).sent) :
    wctrArrive s key l tag item sat nan false =
      wctrComplete (setWctr s key (received (wctrOf s key) (l, tag, item, sat, nan))) key l tag item sat nan :=
  if_neg (not_not.mpr (List.contains_iff_mem.mpr hs))

theorem takes_received (h : Takes (wctrOf s key) tag item) (x : Nat × Nat × Nat × Nat × Nat) :
    Takes (wctrOf (setWctr s key (received (wctrOf s key) x)) key) tag item := by
  rw [wctrOf_setWctr]
  exact ⟨h.active, h.tag, h.item⟩

/-- The first completion of an item is kept. -/
theorem wctrArrive_of_not_mem_bits (hs : (l, tag, item, sat, nan) ∈ (wctrOf s key).sent) (h : Takes (wctrOf s key) tag item)
    (hb : item ∉ (wctrOf s key).bits) :
    ∃ u, wctrArrive s key l tag item sat nan false = wctrServeAll u key ∧ OnlyCounter key s u ∧
      wctrOf u key = kept (received (wctrOf s key) (l, tag, item, sat, nan)) l item sat nan := by
  have hbit : item ∉ (received (wctrOf s key) (l, tag, item, sat, nan)).bits := hb
  rw [wctrArrive_of_mem_sent hs, wctrComplete_of_takes (takes_received h _), wctrOf_setWctr, if_neg hbit]
  exact ⟨_, rfl, ((OnlyCounter.refl s).setWctr _).setWctr _, wctrOf_setWctr _ _ _⟩

/-- A second completion of an item is counted as a duplicate, by the counter and by its slice. -/
theorem wctrArrive_of_mem_bits (hs : (l, tag, item, sat, nan) ∈ (wctrOf s key).sent) (h : Takes (wctrOf s key) tag item)
    (hb : item ∈ (wctrOf s key).bits) :
    ∃ u, wctrArrive s key l tag item sat nan false = wctrServeAll u key ∧ OnlyCounter key (bump s (0x60010 + 0x800 * (key / 64))) u ∧
      wctrOf u key = duplicate (received (wctrOf s key) (l, tag, item, sat, nan)) l item := by
  have hbit : item ∈ (received (wctrOf s key) (l, tag, item, sat, nan)).bits := hb
  rw [wctrArrive_of_mem_sent hs, wctrComplete_of_takes (takes_received h _), wctrOf_setWctr, if_pos hbit]
  exact ⟨_, rfl, ((OnlyCounter.refl (bump s _)).setWctr _).setWctr _, wctrOf_setWctr _ _ _⟩

end

/-! ## CLEAR (R200, R216) -/

theorem wctrClear_of_poisoned (h : (wctrOf s key).st = .poisoned) :
    wctrClear key s = wctrServeAll (setWctr s key { wctrOf s key with st := .idle, replay := [], held := [] }) key := if_pos h

/-- Settles O22: a claim at a counter where none waits is served at once, a completion is kept or a duplicate by its item's bit, and CLEAR acts on a
POISONED counter. -/
theorem workCountersServeAndCount : Obligations.WorkCountersServeAndCount := by
  refine ⟨?_, ?_, ?_⟩
  · intro t l k s c f i sl ct rt m hc hd hf ha hallowed hdr hw hh
    have hmay : MayClaim (advance s t) l k c f i m sl ct rt := ⟨hc, hd, hf, ha, hallowed, hdr⟩
    have hnone : Unclaimed (wctrOf (advance s t) (64 * sl + ct)) l k := ⟨hw, hh⟩
    refine ⟨fun hi hrt => ?_, ?_⟩
    · obtain ⟨u, hclaim, honly, hctr⟩ := wctrClaim_of_idle hmay hnone hi hrt
      refine ⟨u, by rw [exec_wctrClaim, ← hclaim]; rfl, honly.rest, ?_⟩
      rw [hctr]
      exact ⟨rfl, rfl, rfl, rfl, rfl, rfl, rfl, honly.others⟩
    · obtain ⟨u, hclaim, honly, hst⟩ := wctrClaim_wctrPoison hmay hnone
      refine ⟨u, ?_, honly.rest, hst, honly.others⟩
      rw [exec_wctrClaim, execWctrClaim, ← hclaim]
      simp only [if_true, claimKey_of_mayClaim hmay]
  · intro t c k l tag item sat nan s hs ha ht hi
    have htakes : Takes (wctrOf (advance s t) (64 * c + k)) tag item := ⟨ha, ht, hi⟩
    have hslice : (64 * c.val + k.val) / 64 = c.val := by omega
    by_cases hb : item ∈ (wctrOf s (64 * c + k)).bits
    · obtain ⟨u, harrive, honly, hctr⟩ := wctrArrive_of_mem_bits (s := advance s t) hs htakes hb
      rw [hslice] at honly
      refine ⟨u, by rw [exec_wctrCompletion, execWctrCompletion, harrive], honly.mem, honly.tc, ?_⟩
      rw [hctr, rd_of_regs honly.regs, rd_bump]
      exact ⟨rfl, absurd hb, fun _ => ⟨rfl, rfl, rfl, rfl⟩⟩
    · obtain ⟨u, harrive, honly, hctr⟩ := wctrArrive_of_not_mem_bits (s := advance s t) hs htakes hb
      refine ⟨u, by rw [exec_wctrCompletion, execWctrCompletion, harrive], honly.mem, honly.tc, ?_⟩
      rw [hctr]
      exact ⟨rfl, fun _ => ⟨rfl, rfl, rfl, rfl⟩, fun h => absurd h hb⟩
  · intro t ag c k s hwt hp
    refine ⟨_, by rw [exec_wctrClear, execWctrClear, onWrite_of_writeTakes _ hwt, wctrClear_of_poisoned (s := advance s t) hp], ?_⟩
    rw [wctrOf_setWctr]
    exact ⟨rfl, rfl, rfl, rfl⟩

end Sys2Proof.Proofs
end

section
/-! # The issue of instructions (R128 to R131, R148, R153, R160, R192) -/
namespace Sys2Proof.Proofs
open Sys2Proof Sys2Proof.Machine Sys2Proof.Safety Sys2Proof.Laws

variable {σ s u : State} {l k : Nat} {sc : SlotCtx} {b : Built}

/-- Each of the sixteen commands is the issue of the instructions it asks for. -/
theorem exec_of_mem_issueCommands {t : Time} {l : Fin 256} {k : Fin 8} {c : Instr} {want : List Byte → Bool} (s : State)
    (h : (c, want) ∈ issueCommands t l k) : exec c s = .next (issue (advance s t) l k want false) := by
  have hall : ∀ e ∈ issueCommands t l k, exec e.1 s = .next (issue (advance s t) l k e.2 false) := by
    simp only [issueCommands, List.forall_mem_cons]
    exact ⟨exec_issueMma s t l k, exec_issueXpnd s t l k, exec_issueAttn s t l k, exec_issueEwise s t l k, exec_issuePool s t l k,
      exec_issueArgmaxc s t l k, exec_issueStat s t l k, exec_issueScaleEntries s t l k, exec_issueScaleTable s t l k, exec_issueFill s t l k,
      exec_issueScopy s t l k, exec_issueDma s t l k, exec_issueKvapp s t l k, exec_syncWait s t l k, exec_syncSignal s t l k,
      exec_syncBload s t l k, fun _ he => absurd he List.not_mem_nil⟩
  exact hall _ h

/-! ## What an issue leaves alone -/

/-- What a context keeps while its instructions issue: the core that is to tear it down, the cores on which it has faulted, its seed. -/
def lifeOf (c : Ctx) : Option Nat × List Nat × DWord := (c.dying, c.halted, c.seed)

/-- Between `s` and `u` cores and contexts alone have changed, and contexts have kept what `lifeOf` names. -/
structure Issues (s u : State) : Prop where
  shape : ∃ c x, u = { s with tc := c, ctxs := x }
  life : ∀ p n, lifeOf (ctxOf u p n) = lifeOf (ctxOf s p n)

theorem Issues.refl (s : State) : Issues s s := ⟨⟨_, _, rfl⟩, fun _ _ => rfl⟩

theorem Issues.setCore {v : LCore} (h : Issues σ s) : Issues σ (setCore s l v) := by
  obtain ⟨_, _, rfl⟩ := h.shape
  exact ⟨⟨_, _, rfl⟩, h.life⟩

theorem Issues.setSlot {v : SlotCtx} (h : Issues σ s) : Issues σ (setSlot s l k v) := h.setCore

theorem ctxOf_setCtx_cases (s : State) (p n q m : Nat) (v : Ctx) :
    ctxOf (setCtx s p n v) q m = if ctxKey q m = ctxKey p n then v else ctxOf s q m := by
  rw [ctxOf, setCtx, tget, tget?_tset]
  split <;> rfl

theorem Issues.setCtx {p n : Nat} {v : Ctx} (h : Issues σ s) (hv : lifeOf v = lifeOf (ctxOf s p n)) : Issues σ (setCtx s p n v) := by
  refine ⟨?_, fun q m => Eq.trans ?_ (h.life q m)⟩
  · obtain ⟨_, _, rfl⟩ := h.shape
    exact ⟨_, _, rfl⟩
  · rw [ctxOf_setCtx_cases]
    split
    · next e => rw [hv, ctxOf, ctxOf, e]
    · rfl

theorem Issues.ite {c : Prop} [Decidable c] {x y : State} (hx : Issues σ x) (hy : Issues σ y) : Issues σ (if c then x else y) := by
  split <;> assumption

theorem Issues.regs (h : Issues s u) : u.regs = s.regs := by obtain ⟨_, _, rfl⟩ := h.shape; rfl
theorem Issues.mem (h : Issues s u) : u.mem = s.mem := by obtain ⟨_, _, rfl⟩ := h.shape; rfl
theorem Issues.clk (h : Issues s u) : u.clk = s.clk := by obtain ⟨_, _, rfl⟩ := h.shape; rfl

theorem Issues.aliveOn_eq (h : Issues s u) (p n : Nat) : aliveOn u p n l = aliveOn s p n l := by
  have hd : (ctxOf u p n).dying = (ctxOf s p n).dying := congrArg Prod.fst (h.life p n)
  have hh : (ctxOf u p n).halted = (ctxOf s p n).halted := congrArg (fun x => x.2.1) (h.life p n)
  rw [aliveOn, aliveOn, alive, alive, hd, hh]

/-- What a context reads does not depend on the cores (R195, R289). -/
theorem Issues.ctxRead_eq (h : Issues s u) (p n a len : Nat) : ctxRead u p n a len = ctxRead s p n a len := by
  have hseed : (ctxOf u p n).seed = (ctxOf s p n).seed := congrArg (fun x => x.2.2) (h.life p n)
  have hbyte : ctxByte u p n = ctxByte s p n := by
    funext x
    rw [ctxByte, ctxByte, hseed]
    obtain ⟨_, _, rfl⟩ := h.shape
    rfl
  rw [ctxRead, ctxRead, hbyte]
  obtain ⟨_, _, rfl⟩ := h.shape
  rfl

theorem placed_issues (s : State) (l k : Nat) (sc : SlotCtx) (b : Built) : Issues s (placed s l k sc b) := by
  have hf : Issues s (withBurst s l k sc) := (Issues.refl s).setSlot
  unfold placed
  exact .setSlot (.setCore (.setCore (.ite hf (hf.setCtx rfl))))

theorem halo_placed (s : State) (l k : Nat) (sc : SlotCtx) (b : Built) : tget? (coreOf (placed s l k sc b) l).halo k = none := by
  simp only [placed, setSlot, takePrefetch, clearHalo, coreOf_setCore, tget?_tdel_same]

/-- Settles O8: each command is `issue`, and an instruction that is ready is issued. -/
theorem readyInstructionIsIssued : Obligations.ReadyInstructionIsIssued := by
  intro t l k s c want sc bs b hc h
  refine ⟨⟨slotOf_placed _ _ _ _ _, rfl, rfl⟩, (placed_issues _ _ _ _ _).mem, halo_placed _ _ _ _ _, ?_⟩
  rw [exec_of_mem_issueCommands s hc, issue_of_ready h]

/-! ## Prefetches (R153, R194) -/

theorem slotOf_setSlot_ne {m j : Nat} {v : SlotCtx} (h : ¬ (l = m ∧ k = j)) : slotOf (setSlot s m j v) l k = slotOf s l k := by
  rw [slotOf, setSlot, coreOf_setCore_cases]
  split
  · next e => rw [tget?_tset_ne _ _ _ _ fun ek => h ⟨e, ek⟩, ← e, slotOf]
  · rfl

theorem slotOf_setCore {m : Nat} {v : LCore} (h : v.slots = (coreOf s m).slots := by rfl) : slotOf (setCore s m v) l k = slotOf s l k := by
  rw [slotOf, coreOf_setCore_cases]
  split
  · next e => rw [h, ← e, slotOf]
  · rfl

/-- A grant ends no wait but one for an operand. -/
theorem slotOf_doneCredit {c : SlotCtx} {q : CreditReq} (hc : slotOf s l k = some c) (hw : c.wait ≠ .operand) :
    slotOf (doneCredit s q) l k = some c := by
  unfold doneCredit
  split
  · exact hc
  · split
    · exact hc
    · next c' hc' =>
      split
      · next hwait =>
        rw [endWait, hc']
        refine (slotOf_setSlot_ne ?_).trans hc
        rintro ⟨rfl, rfl⟩
        exact hw (Option.some.inj (hc.symm.trans hc') ▸ hwait.1)
      · exact hc

theorem slotOf_grantCredit {c : SlotCtx} {m : Nat} {q : CreditReq} (hc : slotOf s l k = some c) (hw : c.wait ≠ .operand) :
    slotOf (grantCredit s m q) l k = some c := slotOf_doneCredit (Eq.trans slotOf_setCore hc) hw

theorem Issues.endWait (h : Issues σ s) : Issues σ (endWait s l k) := by
  unfold Machine.endWait
  split
  · exact h
  · exact h.setSlot

theorem Issues.doneCredit {q : CreditReq} (h : Issues σ s) : Issues σ (doneCredit s q) := by
  unfold Machine.doneCredit
  split
  · exact h
  · split
    · exact h
    · exact .ite h.endWait h

theorem Issues.grantCredit {q : CreditReq} (h : Issues σ s) : Issues σ (grantCredit s l q) := h.setCore.doneCredit

theorem Issues.dropRing (h : Issues σ s) : Issues σ (dropRing s l k) := .ite h.setCore h

theorem Issues.beginWait {w : Wait} (h : Issues σ s) : Issues σ (beginWait s l k w) := by
  unfold Machine.beginWait
  split
  · exact h
  · exact h.setSlot.dropRing

theorem Issues.startPrefetch (h : Issues σ s) : Issues σ (startPrefetch s l k) := by
  unfold Machine.startPrefetch
  split
  · exact h
  · exact List.foldlRecOn (motive := Issues σ) _ _ h fun _ hv _ _ => .ite hv.grantCredit hv

/-- The prefetches that begin as an instruction issues leave its slot as it is. -/
theorem slotOf_startPrefetch {c : SlotCtx} (hc : slotOf s l k = some c) (hw : c.wait ≠ .operand) :
    slotOf (startPrefetch s l k) l k = some c := by
  rw [startPrefetch, hc]
  refine List.foldlRecOn (motive := fun v => slotOf v l k = some c) _ _ hc fun v hv r _ => ?_
  unfold prefetchPiece
  dsimp only
  split
  · exact slotOf_grantCredit hv hw
  · exact hv

end Sys2Proof.Proofs
end

section
/-! # O9: an instruction that fails a check (R160, R270) -/
namespace Sys2Proof.Proofs
open Sys2Proof Sys2Proof.Machine Sys2Proof.Safety Sys2Proof.Laws

variable {σ s u : State} {l k : Nat}

/-! ## What a fault leaves alone -/

/-- Between `s` and `u` the slots and the accumulators of the cores have stayed. -/
structure SameWork (s u : State) : Prop where
  slots : ∀ l, (coreOf u l).slots = (coreOf s l).slots
  acc : ∀ l, (coreOf u l).acc = (coreOf s l).acc

theorem SameWork.refl (s : State) : SameWork s s := ⟨fun _ => rfl, fun _ => rfl⟩

theorem SameWork.slotOf_eq (h : SameWork s u) : slotOf u l k = slotOf s l k := by rw [slotOf, slotOf, h.slots]

theorem SameWork.alike (h : SameWork σ s) (ht : u.tc = s.tc) : SameWork σ u := by
  have hc (l : Nat) : coreOf u l = coreOf s l := by rw [coreOf, coreOf, ht]
  exact ⟨fun l => by rw [hc, h.slots], fun l => by rw [hc, h.acc]⟩

theorem SameWork.setCore {v : LCore} (h : SameWork σ s) (hs : v.slots = (coreOf s l).slots := by rfl)
    (ha : v.acc = (coreOf s l).acc := by rfl) : SameWork σ (setCore s l v) := by
  refine ⟨fun m => ?_, fun m => ?_⟩ <;> rw [coreOf_setCore_cases]
  · split
    · next e => rw [e, hs, h.slots]
    · exact h.slots m
  · split
    · next e => rw [e, ha, h.acc]
    · exact h.acc m

theorem SameWork.setCtx {p n : Nat} {c : Ctx} (h : SameWork σ s) : SameWork σ (setCtx s p n c) := h.alike rfl

theorem SameWork.selfFetch {x : Credit} {mc : Bool} (h : SameWork σ s) : SameWork σ (selfFetch s l x mc) := h.setCore.alike rfl

theorem SameWork.cancelPromises {w p n : Nat} (h : SameWork σ s) : SameWork σ (cancelPromises s w p n) :=
  List.foldlRecOn (motive := SameWork σ) _ _ h fun _ hv _ _ =>
    List.foldlRecOn (motive := SameWork σ) _ _ hv fun _ hv _ _ => hv.selfFetch

theorem SameWork.recordTcFault {n code : Nat} (h : SameWork σ s) : SameWork σ (recordTcFault s l k n code) := by
  unfold Machine.recordTcFault
  split
  · exact h
  · exact h.alike rfl

theorem SameWork.noteFence {p a : Nat} (h : SameWork σ s) : SameWork σ (noteFence s p a) := h.alike rfl

theorem SameWork.raise {p n code : Nat} (h : SameWork σ s) : SameWork σ (raise s p n l code) := by
  unfold Machine.raise
  dsimp only
  split
  · exact h
  · exact h
  · exact h.recordTcFault.setCtx.cancelPromises

theorem SameWork.raiseErrs {p n : Nat} {es : Errs} (h : SameWork σ s) : SameWork σ (raiseErrs s p n l es) := by
  unfold Machine.raiseErrs
  split
  · exact h
  · split
    · exact h.noteFence.raise
    · exact h.raise

/-! ## What a fault does (R160, R270) -/

/-- A context in which a fault with code `code` has been raised on core `l`. -/
def struck (c : Ctx) (l code : Nat) : Ctx :=
  { c with cause := if c.cause = 0 then code else c.cause, dying := if c.dying.isSome then c.dying else some l, halted := l :: c.halted }

theorem ctxOf_raise {p n : Nat} (h : (ctxOf s p n).st = .resident) (l code : Nat) :
    ctxOf (raise s p n l code) p n = struck (ctxOf s p n) l code := by
  unfold raise
  dsimp only
  split
  · next e => rw [h] at e; cases e
  · next e => rw [h] at e; cases e
  · rw [ctxOf, cancelPromises_ctxs]
    exact ctxOf_setCtx _ p n _

/-- Of several failed checks the one with the lowest code is raised; a fence fault is noted first (R160, R255). -/
theorem raiseErrs_of_lowest {es : Errs} {e : Nat × Nat} (h : lowest es = some e) (s : State) (p n l : Nat) :
    raiseErrs s p n l es = raise (if e.1 = fFence then noteFence s p e.2 else s) p n l e.1 := by
  rw [raiseErrs, h]
  dsimp only
  split <;> rfl

theorem ctxOf_raiseErrs {p n : Nat} {es : Errs} {e : Nat × Nat} (h : lowest es = some e) (hr : (ctxOf s p n).st = .resident) (l : Nat) :
    ctxOf (raiseErrs s p n l es) p n = struck (ctxOf s p n) l e.1 := by
  rw [raiseErrs_of_lowest h]
  split
  · exact ctxOf_raise (s := noteFence s p e.2) hr l e.1
  · exact ctxOf_raise hr l e.1

theorem faultedOn_of_struck {p n code : Nat} (h : ctxOf u p n = struck (ctxOf s p n) l code) : FaultedOn s u p n l code := by
  rw [FaultedOn, h]
  refine ⟨?_, List.contains_iff_mem.mpr List.mem_cons_self, rfl⟩
  rw [struck]
  cases (ctxOf s p n).dying <;> rfl

theorem raiseErrs_side (s : State) (p n l : Nat) (es : Errs) : CoreSide s (raiseErrs s p n l es) := by
  unfold raiseErrs
  split
  · exact coreSide_refl s
  · split
    · exact coreSide_trans (noteFence_side s p _) (raise_side _ p n l _)
    · exact raise_side s p n l _

theorem token_noteFence (s : State) (p a q n : Nat) : token (noteFence s p a) q n = token s q n := by
  have hne (x : Nat) (hx : x < 0x100) : canonOff (tokOff q n) ≠ canonOff (partOff p + x) := by
    have ht := tokOff_bounds q n
    exact canonOff_ne_low (by omega) (by unfold partOff; omega) (by unfold partOff; omega)
  rw [token, noteFence, rd_setFld_ne _ _ _ _ _ _ (hne _ (by norm_num)), rd_wrReg_ne _ _ _ _ (hne _ (by norm_num)),
    rd_bump_ne _ (hne _ (by norm_num)), token]

theorem token_raise (s : State) (p n l code q m : Nat) : token (raise s p n l code) q m = token s q m :=
  rd_raise_low s p n l code (by have := (tokOff_bounds q m).2; omega)

theorem token_raiseErrs (s : State) (p n l : Nat) (es : Errs) (q m : Nat) : token (raiseErrs s p n l es) q m = token s q m := by
  unfold raiseErrs
  split
  · rfl
  · split
    · rw [token_raise, token_noteFence]
    · rw [token_raise]

/-! ## An instruction whose checks fail -/

section
variable {want : List Byte → Bool} {held : Bool} {sc : SlotCtx} {bs : List Byte} {b : Built}

/-- An instruction that has been decoded and that nothing holds goes on to its checks. -/
theorem issue_of_decoded (h : Decoded s l k want held sc bs b) :
    issue s l k want held = issueBuilt (withBurst s l k sc) l k (fetchInstr s sc) b := by
  have hip : (fetchInstr s sc).ip = sc.ip := by rw [fetchInstr_eq]
  have hbytes : tget? (fetchInstr s sc).ibuf (fetchInstr s sc).ip = some bs := hip.symm ▸ h.bytes
  have hclear : mustHold (setSlot s l k (fetchInstr s sc)) (fetchInstr s sc) bs b = false := h.clear
  have hbuilt : buildOf (setSlot s l k (fetchInstr s sc)) l (fetchInstr s sc) bs = b := h.built.symm
  simp only [issue, h.slot, h.may, hbytes, h.kind, hbuilt, hclear, not_true, false_and, Bool.false_eq_true, if_false, withBurst]

/-- The state in which the fault of an instruction is raised: what had been fetched ahead for it has been discarded (R153). -/
def discarded (s : State) (l k : Nat) (sc : SlotCtx) : State :=
  takePrefetch (withBurst s l k sc) l k sc.ip [] true

/-- A failed check is raised, and nothing else is done (R160). -/
theorem issue_of_failed (h : Decoded s l k want held sc bs b) (he : b.errs ≠ []) :
    issue s l k want held = raiseErrs (discarded s l k sc) sc.part sc.ctx l b.errs := by
  rw [issue_of_decoded h, issueBuilt, if_pos (by simpa using he), discarded, fetchInstr_eq]

theorem slotOf_discarded (s : State) (l k : Nat) (sc : SlotCtx) : slotOf (discarded s l k sc) l k = some (fetchInstr s sc) :=
  (slotOf_setCore (s := withBurst s l k sc)).trans (slotOf_setSlot _ _ _ _)

theorem acc_discarded (s : State) (l k : Nat) (sc : SlotCtx) : (coreOf (discarded s l k sc) l).acc = (coreOf s l).acc := by
  rw [discarded, takePrefetch, coreOf_setCore, withBurst, setSlot, coreOf_setCore]

theorem resident_of_mayIssue (h : mayIssue s l sc held = true) : (ctxOf s sc.part sc.ctx).st = .resident := by
  simp only [mayIssue, Bool.and_eq_true, decide_eq_true_eq] at h
  tauto

end

/-- Settles O9: `issue` raises the lowest of the failed checks before it reaches anything that the instruction does. -/
theorem failedCheckFaultsBeforeAnyEffect : Obligations.FailedCheckFaultsBeforeAnyEffect := by
  intro t l k s c want sc bs b e hc h he
  have hne : b.errs ≠ [] := by
    intro e0
    rw [e0] at he
    cases he
  have hres : (ctxOf (advance s t) sc.part sc.ctx).st = .resident := resident_of_mayIssue h.may
  refine ⟨raiseErrs (discarded (advance s t) l k sc) sc.part sc.ctx l b.errs, ?_, ?_⟩
  · rw [exec_of_mem_issueCommands s hc, issue_of_failed h hne]
  have hctx := ctxOf_raiseErrs (s := discarded (advance s t) l k sc) he hres l
  have hsame : SameWork (discarded (advance s t) l k sc) (raiseErrs (discarded (advance s t) l k sc) sc.part sc.ctx l b.errs) :=
    (SameWork.refl _).raiseErrs
  have hslot := hsame.slotOf_eq.trans (slotOf_discarded (advance s t) l k sc)
  obtain ⟨_, _, _, hside⟩ := raiseErrs_side (discarded (advance s t) l k sc) sc.part sc.ctx l b.errs
  refine ⟨faultedOn_of_struck hctx, by rw [hctx]; rfl, ⟨_, hslot, ?_⟩, (hsame.acc l).trans (acc_discarded _ _ _ _), ?_, ?_, ?_, ?_,
    fun q _ n _ => token_raiseErrs _ _ _ _ _ _ _⟩
  · rw [fetchInstr_eq]
    exact ⟨rfl, rfl, rfl, rfl⟩
  all_goals rw [hside]; rfl

end Sys2Proof.Proofs
end

section
/-! # O14: an instruction completes (R77, R128, R131) -/
namespace Sys2Proof.Proofs
open Sys2Proof Sys2Proof.Machine Sys2Proof.Safety Sys2Proof.Laws

variable {s u : State} {l k : Nat} {c : SlotCtx} {f : InFlight}

/-! ## A slot with nothing in flight settles -/

/-- A slot that is charged has been counted up to now; besides its figures nothing of it changes (R32, R269). -/
theorem chargeWait_eq (s : State) (x : Nat) (c : SlotCtx) :
    ∃ a b d, chargeWait s x c = { c with since := s.clk.tb, stall := a, stallC := b, tokenNs := d } := by
  unfold chargeWait
  dsimp only
  split <;> exact ⟨_, _, _, rfl⟩

theorem settleN_of_settle1_none {n i : Nat} (h : settle1 s l k i = none) : settleN n s l k i = s := by
  cases n with
  | zero => rfl
  | succ n => rw [settleN, h]

/-- Where no instruction has a transition left that takes no step, all that settling notes is the wait. -/
theorem settle_of_settle1_none (h : ∀ i, settle1 s l k i = none) : settle s l k = noteWait s l k := by
  simp only [settle, settleN_of_settle1_none (h _)]

theorem settle1_of_no_flight (hc : slotOf s l k = some c) (hf : c.flight = []) (i : Nat) : settle1 s l k i = none := by
  have hi : flightAt s l k i = none := by rw [flightAt, hc, Option.bind_some, hf, List.getElem?_nil]
  rw [settle1, hc, hi]

theorem noteWait_of_no_flight (hc : slotOf s l k = some c) (hf : c.flight = []) :
    noteWait s l k = if c.wait = .work then endWait s l k else s := by
  simp only [noteWait, hc, hf, List.isEmpty_nil, true_or, or_true, if_true]
  cases c.wait <;> rfl

/-- A slot with nothing in flight keeps its registers and its ring, and at most ends a wait for work. -/
theorem settle_of_no_flight (hc : slotOf s l k = some c) (hf : c.flight = []) :
    settle s l k = if c.wait = .work then endWait s l k else s :=
  (settle_of_settle1_none (settle1_of_no_flight hc hf)).trans (noteWait_of_no_flight hc hf)

/-! ## What a completion does -/

/-- The core answers for the instruction's DONE: not for a DMA with ASYNC, whose chain does (R131, R157). -/
def doneHere (c : SlotCtx) (f : InFlight) : Bool :=
  doneOf f.bytes
    && !(decide (opcodeOf f.bytes = 11) && bit f.bytes 4 0 && !(bit f.bytes 4 1 && decide (verOf f.bytes = 2) && decide (c.rank ≠ 0)))

/-- The token that DONE_TOK names has been signalled, if the core answers for it (R131). -/
def doneSignalled (s : State) (c : SlotCtx) (f : InFlight) : State :=
  if doneHere c f then signal s c.part (doneTokOf f.bytes) 1 else s

/-- What the instruction held has been given back, and its statistics are on their way (R117, R221, R239). -/
def givenBack (s : State) (l k : Nat) (c : SlotCtx) (f : InFlight) : State :=
  dropStages (sendStats (f.pages.foldl unpin (freeWork (doneSignalled s c f) l f)) c f) l k f.ip

/-- Instruction `i` of a slot has left it. -/
def departed (s : State) (l k : Nat) (c : SlotCtx) (i : Nat) (f : InFlight) : State :=
  setSlot (givenBack s l k c f) l k { c with flight := c.flight.eraseIdx i, ended := c.ended || endOf f.bytes }

/-- END on this rank has been noted in the context (R128). -/
def endNoted (s : State) (p n rank : Nat) (t : Time) : State :=
  setCtx s p n { ctxOf s p n with ended := (ctxOf s p n).ended ++ [rank], endAt := t }

theorem complete_of_nextDone {i : Nat} (hc : slotOf s l k = some c) (hi : nextDone s l c = some i) (hf : c.flight[i]? = some f)
    (ha : aliveOn s c.part c.ctx l = true) (hr : c.released = false) (hh : c.hit = false) :
    complete s l k = settle (dropRing
      (if endOf f.bytes then endNoted (departed s l k c i f) c.part c.ctx c.rank s.clk.tb else departed s l k c i f) l k) l k := by
  have hgo : ¬ (¬ aliveOn s c.part c.ctx l ∨ c.released ∨ c.hit) := by simp [ha, hr, hh]
  simp only [complete, hc, hi, hf, Option.bind_some, Option.map_some, if_neg hgo]
  rfl

/-- An instruction alone in its slot that is done is the next to complete. -/
theorem nextDone_of_only (hf : c.flight = [f]) (hd : flightDone s l c f = true) : nextDone s l c = some 0 := by
  simp [nextDone, firstFlight, hf, rangeFrom, hd]


/-! ## Tokens: besides DONE a completion signals none -/

theorem token_of_regs (h : u.regs = s.regs) (q n : Nat) : token u q n = token s q n := rd_of_regs h _

theorem token_setFld {o : Nat} (lo w v q n : Nat) (h : 0x43000 ≤ o ∧ o < 0x100000) : token (setFld s o lo w v) q n = token s q n := by
  have ht := tokOff_bounds q n
  exact rd_setFld_ne s _ _ _ _ _ (canonOff_ne_low (by omega) h.2 (by omega))

theorem token_pageFree (s : State) (pg q n : Nat) : token (pageFree s pg) q n = token s q n := by
  have hpart : 0x43000 ≤ kvPart (ph s pg 0x10 1 % 16) + 0x14 ∧ kvPart (ph s pg 0x10 1 % 16) + 0x14 < 0x100000 := by
    unfold kvPart
    omega
  simp only [pageFree]
  rw [token_setFld _ _ _ _ _ (by decide), token_setFld _ _ _ _ _ hpart]
  exact token_of_regs rfl q n

theorem token_unpin (s : State) (pg q n : Nat) : token (unpin s pg) q n = token s q n := by
  unfold unpin
  dsimp only
  split
  · rw [token_setFld _ _ _ _ _ (by decide), token_pageFree]
    exact token_of_regs rfl q n
  · exact token_of_regs rfl q n

theorem writeChan_regs (a : Nat) (t : Tab Word) (n c : Nat) (s : State) : (writeChan a t n c s).regs = s.regs := by
  induction n generalizing c s with
  | zero => rfl
  | succ n ih => exact ih _ _

/-- A record is written in memory (R118). -/
theorem writeRecord_regs (s : State) (o : OutRec) (st0 : Stats) : (writeRecord s o st0).regs = s.regs := by
  unfold writeRecord
  split
  · rfl
  · extract_lets a st fl s1 s2 s3 s4 s5 s6
    have h5 : s5.regs = s.regs := by simp only [s5, s4, s3, s2, s1, wrLE_regs]
    clear_value s5
    have h6 : s6.regs = s.regs := by
      unfold s6
      split
      · rw [writeChan_regs, h5]
      · exact h5
    clear_value s6
    split
    · extract_lets r fl4 s7
      split <;> simp only [s7, wrLE_regs, h6]
    · exact h6

theorem sendStats_regs (s : State) (c : SlotCtx) (f : InFlight) : (sendStats s c f).regs = s.regs := by
  unfold sendStats
  dsimp only
  split
  · rfl
  · split
    · rfl
    · exact writeRecord_regs _ _ _

theorem token_departed (s : State) (l k : Nat) (c : SlotCtx) (i : Nat) (f : InFlight) (q n : Nat) :
    token (departed s l k c i f) q n = token (doneSignalled s c f) q n := by
  have hpages : token (f.pages.foldl unpin (freeWork (doneSignalled s c f) l f)) q n = token (doneSignalled s c f) q n :=
    List.foldlRecOn (motive := fun v : State => token v q n = token (doneSignalled s c f) q n) _ _ rfl
      fun v hv pg _ => (token_unpin v pg q n).trans hv
  exact (token_of_regs (sendStats_regs _ c f) q n).trans hpages

theorem slotOf_dropRing {j m q : Nat} : slotOf (dropRing s m q) l j = slotOf s l j := by
  unfold dropRing
  dsimp only
  split
  · exact slotOf_setCore
  · rfl

theorem ring_dropRing (s : State) (l k : Nat) : (coreOf (dropRing s l k) l).ring ≠ some k := by
  unfold dropRing
  dsimp only
  split
  · rw [coreOf_setCore]
    exact Option.some_ne_none k |>.symm
  · assumption

theorem ring_endWait (s : State) (l k : Nat) : (coreOf (endWait s l k) l).ring = (coreOf s l).ring := by
  unfold endWait
  split
  · rfl
  · rw [setSlot, coreOf_setCore]

/-- A slot with nothing in flight settles: at most its wait for work ends. -/
theorem settle_keeps_of_no_flight (hc : slotOf s l k = some c) (hf : c.flight = []) :
    (∃ c', slotOf (settle s l k) l k = some c' ∧ c'.flight = [] ∧ c'.ip = c.ip ∧ c'.ended = c.ended) ∧
      (settle s l k).regs = s.regs ∧ (coreOf (settle s l k) l).ring = (coreOf s l).ring := by
  rw [settle_of_no_flight hc hf]
  split
  · obtain ⟨a, b, d, he⟩ := chargeWait_eq s (slotNow s) c
    exact ⟨⟨_, slotOf_endWait hc, by rw [he]; exact hf, by rw [he], by rw [he]⟩, (Issues.refl s).endWait.regs, ring_endWait s l k⟩
  · exact ⟨⟨c, hc, hf, rfl, rfl⟩, rfl, rfl⟩

/-- An instruction alone in its slot completes: the slot has nothing in flight, END is noted, the ring is given again (R77, R128, R131). -/
theorem complete_of_only (hc : slotOf s l k = some c) (hf : c.flight = [f]) (hd : flightDone s l c f = true)
    (ha : aliveOn s c.part c.ctx l = true) (hr : c.released = false) (hh : c.hit = false) :
    (∃ c', slotOf (complete s l k) l k = some c' ∧ c'.flight = [] ∧ c'.ip = c.ip ∧ c'.ended = (c.ended || endOf f.bytes)) ∧
      (coreOf (complete s l k) l).ring ≠ some k ∧ ∀ q n, token (complete s l k) q n = token (doneSignalled s c f) q n := by
  have hi : c.flight[0]? = some f := by rw [hf]; rfl
  rw [complete_of_nextDone hc (nextDone_of_only hf hd) hi ha hr hh]
  generalize hv : (if endOf f.bytes then endNoted (departed s l k c 0 f) c.part c.ctx c.rank s.clk.tb else departed s l k c 0 f) = v
  have hvr : v.regs = (departed s l k c 0 f).regs := by
    rw [← hv]
    split <;> rfl
  have hvc : slotOf v l k = some { c with flight := c.flight.eraseIdx 0, ended := c.ended || endOf f.bytes } := by
    rw [← hv]
    split <;> exact slotOf_setSlot _ _ _ _
  obtain ⟨hslot, hregs, hring⟩ := settle_keeps_of_no_flight (slotOf_dropRing.trans hvc) (by rw [hf]; rfl)
  refine ⟨hslot, by rw [hring]; exact ring_dropRing v l k, fun q n => ?_⟩
  rw [token_of_regs hregs, token_of_regs (Issues.refl v).dropRing.regs, token_of_regs hvr, token_departed]

/-- With nothing in flight there is no SYNC to complete. -/
theorem finishSync_of_no_flight (hc : slotOf s l k = some c) (hf : c.flight = []) : finishSync s l k = s := by
  have hn : nextDone s l c = none := by simp [nextDone, firstFlight, hf, rangeFrom]
  simp only [finishSync, syncNext, hc, hn, Option.bind_none, Bool.false_eq_true, if_false]

theorem token_doneSignalled (hn : doneHere c f = true) :
    token (doneSignalled s c f) c.part (doneTokOf f.bytes) = token s c.part (doneTokOf f.bytes) + 1 := by
  rw [doneSignalled, if_pos hn, token_signal]

/-- Settles O14: the instruction leaves its slot, which has nothing in flight and so nothing to settle. -/
theorem doneInstructionCompletes : Obligations.DoneInstructionCompletes := by
  intro t l k s c f hc hf hd ha hr hh hdma _
  have halive : aliveOn (advance s t) c.part c.ctx l = true := by
    change alive (advance s t) c.part c.ctx = true at ha
    rw [aliveOn, ha, Bool.true_or]
  obtain ⟨⟨c', hc', hflight, hip, hended⟩, hring, htok⟩ := complete_of_only (s := advance s t) hc hf hd halive hr hh
  refine ⟨complete (advance s t) l k, c', ?_, hc', hflight, hip, hended, hring, fun hdone => ?_, fun hdone q _ n _ => ?_⟩
  · rw [exec_instructionComplete, execInstructionComplete, finishSync_of_no_flight hc' hflight]
  · rw [htok]
    exact token_doneSignalled (by simp [doneHere, hdone, hdma])
  · rw [htok, doneSignalled, if_neg (by simp [doneHere, hdone])]
    rfl

end Sys2Proof.Proofs
end

section
/-! # SYNC (R131, R158, R159) -/
namespace Sys2Proof.Proofs
open Sys2Proof Sys2Proof.Machine Sys2Proof.Safety Sys2Proof.Laws

variable {s : State} {l k : Nat} {c : SlotCtx} {f : InFlight}

/-! ## An instruction that leaves no work -/

/-- A SYNC in flight: no engine has a step for it, and it holds nothing and writes nothing. -/
structure SyncFlight (f : InFlight) : Prop where
  sync : opcodeOf f.bytes = 13
  units : f.units = []
  ext : f.ext = .none
  mma : f.mma = none
  writes : f.writes = []
  out : f.out = none
  pages : f.pages = []

theorem SyncFlight.flightDone_eq (h : SyncFlight f) (s : State) (l : Nat) (c : SlotCtx) : flightDone s l c f = !syncWaits c f := by
  have hacked : unacked s l c.part c.ctx f.writes = false := by simp [unacked, h.writes]
  have hasked : unasked s l c.part c.ctx f.writes = false := by simp [unasked, h.writes]
  have hpart : partialsIn s c f = true := by simp [partialsIn, h.out]
  simp [flightDone, h.units, h.ext, h.mma, hacked, hasked, hpart]

theorem settle1_of_sync (h : SyncFlight f) (hc : slotOf s l k = some c) (hf : c.flight = [f]) (i : Nat) : settle1 s l k i = none := by
  cases i with
  | zero =>
    have hi : flightAt s l k 0 = some f := by rw [flightAt, hc, Option.bind_some, hf]; rfl
    simp only [settle1, hc, hi, h.mma, settleUnit, h.units, ite_self]
  | succ i =>
    have hi : flightAt s l k (i + 1) = none := by rw [flightAt, hc, Option.bind_some, hf]; rfl
    simp only [settle1, hc, hi]

/-! ## A SYNC that passes -/

/-- A SYNC without DONE has just issued, alone in a slot that waits for nothing and goes on. -/
structure Passing (s : State) (l k : Nat) (c : SlotCtx) (f : InFlight) : Prop where
  slot : slotOf s l k = some c
  only : c.flight = [f]
  flight : SyncFlight f
  quiet : doneOf f.bytes = false
  free : c.wait = .none
  goes : aliveOn s c.part c.ctx l = true
  held : c.released = false
  runs : c.hit = false

/-- The slot once the SYNC has left it. -/
def passed (c : SlotCtx) (f : InFlight) : SlotCtx := { c with flight := [], ended := c.ended || endOf f.bytes }

theorem Passing.done (h : Passing s l k c f) : flightDone s l c f = true := by
  rw [h.flight.flightDone_eq, syncWaits, h.free, Bool.and_false, Bool.not_false]

theorem departed_of_sync (h : SyncFlight f) (hd : doneOf f.bytes = false) (s : State) (l k : Nat) (c : SlotCtx) (i : Nat) :
    (departed s l k c i f).regs = s.regs ∧ (departed s l k c i f).mem = s.mem := by
  have hsig : doneSignalled s c f = s := by simp [doneSignalled, doneHere, hd]
  simp only [departed, givenBack, hsig, h.pages, List.foldl_nil, sendStats, h.out]
  exact ⟨rfl, rfl⟩

theorem Passing.complete (h : Passing s l k c f) :
    slotOf (complete s l k) l k = some (passed c f) ∧ (complete s l k).regs = s.regs ∧ (complete s l k).mem = s.mem := by
  have hi : c.flight[0]? = some f := by rw [h.only]; rfl
  rw [complete_of_nextDone h.slot (nextDone_of_only h.only h.done) hi h.goes h.held h.runs]
  obtain ⟨hregs, hmem⟩ := departed_of_sync h.flight h.quiet s l k c 0
  generalize hv : (if endOf f.bytes then endNoted (departed s l k c 0 f) c.part c.ctx c.rank s.clk.tb else departed s l k c 0 f) = v
  have hvr : v.regs = s.regs := by
    rw [← hv]
    split <;> exact hregs
  have hvm : v.mem = s.mem := by
    rw [← hv]
    split <;> exact hmem
  have hvc : slotOf v l k = some (passed c f) := by
    rw [passed, ← hv]
    split <;> exact (slotOf_setSlot _ _ _ _).trans (by rw [h.only]; rfl)
  have hslot : slotOf (dropRing v l k) l k = some (passed c f) := slotOf_dropRing.trans hvc
  rw [settle_of_no_flight hslot rfl, if_neg (by rw [passed, h.free]; decide)]
  exact ⟨hslot, (Issues.refl v).dropRing.regs.trans hvr, (Issues.refl v).dropRing.mem.trans hvm⟩

/-- The SYNC completes as it issues (R131). -/
theorem Passing.finishSync (h : Passing s l k c f) : settle (finishSync s l k) l k = Machine.complete s l k := by
  have hnext : syncNext s l k = true := by
    simp [syncNext, h.slot, nextDone_of_only h.only h.done, h.only, h.flight.sync]
  rw [Machine.finishSync, if_pos hnext, settle_of_no_flight h.complete.1 rfl, if_neg (by rw [passed, h.free]; decide)]

theorem Passing.startPrefetch (h : Passing s l k c f) : Passing (startPrefetch s l k) l k c f :=
  { h with
    slot := slotOf_startPrefetch h.slot (by rw [h.free]; decide)
    goes := ((Issues.refl s).startPrefetch.aliveOn_eq _ _).trans h.goes }

/-- What a SYNC that passes leaves of the state in which it has done what it does. -/
theorem Passing.outcome (h : Passing s l k c f) : ∃ u, settle (Machine.finishSync (Machine.startPrefetch s l k) l k) l k = u ∧
    slotOf u l k = some (passed c f) ∧ u.regs = s.regs ∧ u.mem = s.mem := by
  obtain ⟨hslot, hregs, hmem⟩ := h.startPrefetch.complete
  have hi : Issues s (Machine.startPrefetch s l k) := (Issues.refl s).startPrefetch
  exact ⟨_, h.startPrefetch.finishSync, hslot, hregs.trans hi.regs, hmem.trans hi.mem⟩

/-! ## A SYNC that is ready -/

section
variable {op : Nat} {sc : SlotCtx} {bs : List Byte} {b : Built} {held : Bool}

/-- A SYNC that is ready is of the operation asked for, for the reserved one fails its check (R158). -/
theorem sync_of_ready (h : IssueReady s l k (isSync op) held sc bs b) : opcodeOf bs = 13 ∧ le bs 4 1 % 4 = op := by
  have hkind := h.kind
  simp only [isSync, Bool.and_eq_true, Bool.or_eq_true, decide_eq_true_eq] at hkind
  obtain ⟨h13, hop⟩ := hkind
  refine ⟨h13, hop.resolve_right fun h3 => ?_⟩
  have hchecks := h.checks
  rw [h.built] at hchecks
  simp [buildOf, h13, buildSync, h3, errIf] at hchecks

theorem built_of_sync (h : IssueReady s l k (isSync op) held sc bs b) : b.fl.bytes = bs ∧ SyncFlight b.fl ∧ b.slots = 0 := by
  obtain ⟨h13, -⟩ := sync_of_ready h
  have hb : b = buildSync (withBurst s l k sc) (fetchInstr s sc) bs := by simp only [h.built, buildOf, h13]
  rw [hb]
  exact ⟨rfl, ⟨h13, rfl, rfl, rfl, rfl, rfl, rfl⟩, rfl⟩

theorem askSlots_zero (s : State) (l k : Nat) : askSlots s l k 0 = s := by
  unfold askSlots
  split <;> rfl

theorem issue_of_sync (h : IssueReady s l k (isSync op) held sc bs b) : issue s l k (isSync op) held =
    settle (finishSync (startPrefetch (issueEffect (placed s l k sc b) l k (fetchInstr s sc) b.fl) l k) l k) l k := by
  obtain ⟨-, -, hslots⟩ := built_of_sync h
  rw [issue_of_ready h, hslots, askSlots_zero, issueActs]

/-- What an issue leaves of a slot, besides the pointer, the buffer, the instructions in flight and the figures of its waits. -/
theorem issued_keeps (s : State) (sc : SlotCtx) (b : Built) :
    (issued s sc b).part = sc.part ∧ (issued s sc b).ctx = sc.ctx ∧ (issued s sc b).released = sc.released ∧ (issued s sc b).hit = sc.hit ∧
      (issued s sc b).bounds = sc.bounds := by
  obtain ⟨x, y, z, hq⟩ := chargeWait_eq s (slotNow s) (fetchInstr s sc)
  rw [issued, hq, fetchInstr_eq]
  exact ⟨rfl, rfl, rfl, rfl, rfl⟩

theorem goes_of_mayIssue (h : mayIssue s l sc held = true) : aliveOn s sc.part sc.ctx l = true ∧ sc.released = false ∧ sc.hit = false := by
  simp only [mayIssue, Bool.and_eq_true, Bool.not_eq_true'] at h
  tauto

/-- A SYNC without DONE that issues alone in its slot passes, unless it comes to wait. -/
theorem passing_of_ready (h : IssueReady s l k (isSync op) held sc bs b) (hf : sc.flight = []) (hd : doneOf bs = false) :
    Passing (placed s l k sc b) l k (issued s sc b) b.fl := by
  obtain ⟨hbytes, hsync, -⟩ := built_of_sync h
  obtain ⟨hpart, hctx, hrel, hhit, -⟩ := issued_keeps s sc b
  obtain ⟨ha, hr, hh⟩ := goes_of_mayIssue h.may
  refine ⟨slotOf_placed _ _ _ _ _, by rw [issued, hf]; rfl, hsync, hbytes ▸ hd, rfl, ?_, hrel.trans hr, hhit.trans hh⟩
  rw [hpart, hctx, (placed_issues s l k sc b).aliveOn_eq, ha]

end

/-! ## SIGNAL (R158) -/

theorem Passing.signal {p n : Nat} {v : Word} (h : Passing s l k c f) : Passing (signal s p n v) l k c f := { h with }

theorem rd_signal_ne (s : State) (p n : Nat) (v : Word) {o : Nat} (h : canonOff o ≠ canonOff (tokOff p n)) : rd (signal s p n v) o = rd s o :=
  rd_wrReg_ne s _ _ _ h

/-- Settles O10: once the token has been signalled nothing is left of the SYNC, so it completes. -/
theorem syncSignalAddsToItsToken : Obligations.SyncSignalAddsToItsToken := by
  intro t l k s sc bs b h hf hd tok
  obtain ⟨h13, hop⟩ := sync_of_ready h
  obtain ⟨hbytes, -, -⟩ := built_of_sync h
  have hp := placed_issues (advance s t) l k sc b
  have heff : issueEffect (placed (advance s t) l k sc b) l k (fetchInstr (advance s t) sc) b.fl =
      Machine.signal (placed (advance s t) l k sc b) sc.part tok (BitVec.ofNat 32 (le bs 8 4)) := by
    rw [fetchInstr_eq]
    simp only [issueEffect, hbytes, h13, hop]
    rfl
  have hpass : Passing (Machine.signal (placed (advance s t) l k sc b) sc.part tok (BitVec.ofNat 32 (le bs 8 4))) l k _ b.fl :=
    (passing_of_ready h hf hd).signal
  obtain ⟨u, hu, hslot, hregs, hmem⟩ := hpass.outcome
  refine ⟨u, _, ?_, hslot, rfl, rfl, rfl, ?_, hmem.trans hp.mem, fun o ho => ?_⟩
  · rw [exec_syncSignal, execSyncSignal, issue_of_sync h, heff, hu]
  · rw [token_of_regs hregs, token_signal, token_of_regs hp.regs]
    rfl
  · rw [rd_of_regs hregs, rd_signal_ne _ _ _ _ ho, rd_of_regs hp.regs]
    rfl

/-! ## WAIT (R32, R158) -/

theorem slotOf_beginWait {w : Wait} (hc : slotOf s l k = some c) :
    slotOf (beginWait s l k w) l k = some { chargeWait s (slotNow s) c with wait := w } := by
  rw [beginWait, hc]
  exact slotOf_dropRing.trans (slotOf_setSlot _ _ _ _)

/-- A SYNC WAIT whose token is still to come stays in its slot, which waits for it. -/
theorem settle_finishSync_of_waits {tok : Nat} {v : Word} (hc : slotOf s l k = some c) (hf : c.flight = [f]) (h : SyncFlight f)
    (hop : le f.bytes 4 1 % 4 = 0) (hw : c.wait = .token tok v) : settle (finishSync s l k) l k = s := by
  have hdone : flightDone s l c f = false := by
    simp [h.flightDone_eq, syncWaits, h.sync, hop, hw]
  have hnone : nextDone s l c = none := by
    simp [nextDone, firstFlight, hf, rangeFrom, hdone]
  have hsync : finishSync s l k = s := by
    simp only [finishSync, syncNext, hc, hnone, Option.bind_none, Bool.false_eq_true, if_false]
  rw [hsync, settle_of_settle1_none (settle1_of_sync h hc hf)]
  simp only [noteWait, hc, hw]

/-- Settles O11: a token that has been reached leaves the SYNC nothing to wait for; one that has not makes its slot wait. -/
theorem syncWaitHoldsUntilItsToken : Obligations.SyncWaitHoldsUntilItsToken := by
  intro t l k s sc bs b h hf hd tok v
  obtain ⟨h13, hop⟩ := sync_of_ready h
  obtain ⟨hbytes, hsync, -⟩ := built_of_sync h
  have hp := placed_issues (advance s t) l k sc b
  have hpass := passing_of_ready h hf hd
  have hopen : tokOpen (placed (advance s t) l k sc b) (fetchInstr (advance s t) sc) (fetchInstr (advance s t) sc).flight
      (le bs 5 1 % 64) (BitVec.ofNat 32 (le bs 8 4)) = decide ((token s sc.part tok - v).toNat < 2 ^ 31) := by
    rw [fetchInstr_eq, tokOpen, hf, List.all_nil, Bool.or_true, Bool.and_true, tokReached, token_of_regs hp.regs]
    rfl
  have heff : issueEffect (placed (advance s t) l k sc b) l k (fetchInstr (advance s t) sc) b.fl =
      if (token s sc.part tok - v).toNat < 2 ^ 31 then placed (advance s t) l k sc b
      else beginWait (placed (advance s t) l k sc b) l k (.token tok v) := by
    simp only [issueEffect, hbytes, h13, hop, hopen, decide_eq_true_eq]
    rfl
  by_cases hr : (token s sc.part tok - v).toNat < 2 ^ 31
  · obtain ⟨u, hu, hslot, hregs, hmem⟩ := hpass.outcome
    refine ⟨u, _, ?_, hslot, rfl, hregs.trans hp.regs, hmem.trans hp.mem, fun _ => ⟨rfl, rfl⟩, fun hn => absurd hr (Nat.not_lt.mpr hn)⟩
    rw [exec_syncWait, execSyncWait, issue_of_sync h, heff, if_pos hr, hu]
  · have hslot := slotOf_beginWait (w := .token tok v) hpass.slot
    have hc := slotOf_startPrefetch hslot (by simp)
    have hu : Issues (advance s t) (startPrefetch (beginWait (placed (advance s t) l k sc b) l k (.token tok v)) l k) :=
      hp.beginWait.startPrefetch
    obtain ⟨x, y, z, hq⟩ := chargeWait_eq (placed (advance s t) l k sc b) (slotNow (placed (advance s t) l k sc b)) (issued (advance s t) sc b)
    rw [hq] at hc
    refine ⟨_, _, ?_, hc, rfl, hu.regs, hu.mem, fun hn => absurd hn hr, fun _ => ⟨hpass.only, rfl, ?_⟩⟩
    · rw [exec_syncWait, execSyncWait, issue_of_sync h, heff, if_neg hr,
        settle_finishSync_of_waits hc hpass.only hsync (by rw [hbytes, hop]) rfl]
    · rw [hu.clk, hp.clk]

/-! ## BLOAD (R158, R159) -/

theorem getElem?_setNth {α : Type} (xs : List α) (j i : Nat) (v : α) :
    (setNth xs j v)[i]? = if i = j then xs[i]?.map (fun _ => v) else xs[i]? := by
  induction xs generalizing i j with
  | nil => simp [setNth]
  | cons x xs ih =>
    cases j with
    | zero => cases i <;> simp [setNth]
    | succ j =>
      cases i with
      | zero => simp [setNth]
      | succ i => simp only [setNth, List.getElem?_cons_succ, ih, Nat.add_right_cancel_iff]

/-- Words stored one after the other from place `r + a` on are read at their places, and the others stay. -/
theorem getElem?_foldl_setNth {α : Type} (g : Nat → α) (r a n i : Nat) (xs : List α) :
    ((rangeFrom a n).foldl (fun b j => setNth b (r + j) (g j)) xs)[i]? =
      xs[i]?.map (fun old => if r + a ≤ i ∧ i < r + a + n then g (i - r) else old) := by
  induction n generalizing a xs with
  | zero =>
    have hno : ¬ (r + a ≤ i ∧ i < r + a + 0) := by omega
    simp only [rangeFrom, List.foldl_nil, hno, if_false, Option.map_id']
  | succ n ih =>
    rw [rangeFrom, List.foldl_cons, ih, getElem?_setNth]
    by_cases hi : i = r + a
    · have h1 : ¬ (r + (a + 1) ≤ i ∧ i < r + (a + 1) + n) := by omega
      have h2 : r + a ≤ i ∧ i < r + a + (n + 1) := by omega
      simp only [if_pos hi, h1, h2, if_false, and_self, if_true, Option.map_map, Function.comp_def]
      rw [show i - r = a by omega]
    · have h1 : (r + (a + 1) ≤ i ∧ i < r + (a + 1) + n) = (r + a ≤ i ∧ i < r + a + (n + 1)) := propext (by omega)
      simp only [if_neg hi, h1]

theorem getElem?_loadBounds (s : State) (p n : Nat) (bs : List Byte) (xs : List Word) (i : Nat) :
    (loadBounds s p n bs xs)[i]? = xs[i]?.map (fun old =>
      if le bs 6 1 % 16 ≤ i ∧ i < le bs 6 1 % 16 + le bs 7 1 then
        BitVec.ofNat 32 (leVal (ctxRead s p n (le bs 0x0C 6 + 4 * (i - le bs 6 1 % 16)) 4))
      else old) :=
  getElem?_foldl_setNth (fun j => BitVec.ofNat 32 (leVal (ctxRead s p n (le bs 0x0C 6 + 4 * j) 4))) (le bs 6 1 % 16) 0 (le bs 7 1) i xs

theorem Passing.setBounds {xs : List Word} (h : Passing s l k c f) :
    Passing (setSlot s l k { c with bounds := xs }) l k { c with bounds := xs } f :=
  { h with slot := slotOf_setSlot _ _ _ _ }

/-- Settles O12: the bound registers are loaded as the SYNC issues, which leaves nothing of it. -/
theorem syncBloadLoadsBounds : Obligations.SyncBloadLoadsBounds := by
  intro t l k s sc bs b h hf hd
  obtain ⟨h13, hop⟩ := sync_of_ready h
  obtain ⟨hbytes, -, -⟩ := built_of_sync h
  obtain ⟨-, -, -, -, hbounds⟩ := issued_keeps (advance s t) sc b
  have hp := placed_issues (advance s t) l k sc b
  have heff : issueEffect (placed (advance s t) l k sc b) l k (fetchInstr (advance s t) sc) b.fl =
      setSlot (placed (advance s t) l k sc b) l k { issued (advance s t) sc b with
        bounds := loadBounds (placed (advance s t) l k sc b) sc.part sc.ctx bs sc.bounds } := by
    rw [fetchInstr_eq]
    simp only [issueEffect, hbytes, h13, hop, slotOf_placed, hbounds]
  obtain ⟨u, hu, hslot, hregs, hmem⟩ := (passing_of_ready h hf hd).setBounds.outcome
  refine ⟨u, _, ?_, hslot, rfl, rfl, hregs.trans hp.regs, hmem.trans hp.mem, fun i _ => ?_⟩
  · rw [exec_syncBload, execSyncBload, issue_of_sync h, heff, hu]
  · rw [passed, getElem?_loadBounds]
    simp only [hp.ctxRead_eq]

end Sys2Proof.Proofs
end

section
/-! # O29: token writes, the generator range, the step break (R158, R247, R279, R289, R290, R293, R327) -/
namespace Sys2Proof.Proofs
open Sys2Proof Sys2Proof.Machine Sys2Proof.Safety Sys2Proof.Laws

variable {s : State} {l k : Nat}

/-! ## SCH_TOK_SIGNAL (R158, R247, R279, R327) -/

/-- A signal on RTOK leaves one more release entry to read (R327). -/
theorem due_signal {p n : Nat} (v : Word) (hp : p < 16) (h : releaseTok s p n = true) :
    (tget Ring.reset (signal s p n v).ing.rings p).due = (tget Ring.reset s.ing.rings p).due + 1 := by
  simp only [signal, h, if_true, Nat.mod_eq_of_lt hp, addDue, tmod, tget, tget?_tset_same, Option.getD_some]

theorem bounds_signal {p n : Nat} (v : Word) (hp : p < 16) :
    (signal s p n v).kv.bounds = if boundaryTok s p n then s.kv.bounds ++ [⟨p, false, none⟩] else s.kv.bounds := by
  simp only [signal, Nat.mod_eq_of_lt hp]

/-! ## The generator range (R289, R290) -/

theorem inGen_iff (a : Nat) : inGen a = true ↔ genLo ≤ a ∧ a < genHi := by
  rw [inGen, Bool.and_eq_true, decide_eq_true_iff, decide_eq_true_iff]

/-- The generator range lies below the scratchpads (R92, R289). -/
theorem spadCore_of_inGen {a : Nat} (h : inGen a = true) : spadCore a = none := by
  obtain ⟨-, hhi⟩ := (inGen_iff a).mp h
  rw [spadCore, if_neg]
  unfold genHi at hhi
  unfold spadBase
  omega

/-- An access to one byte is checked in its own block. -/
theorem checkAcc_byte (s : State) (p : Nat) (wr : Bool) (a : Nat) :
    checkAcc s p wr a 1 = if mayAccess s p wr a then (if wr && inGen a then .rngWrite a else .ok) else .fence a := by
  have hblocks : (a + 1 - 1) / 0x10000 + 1 - a / 0x10000 = 1 := by omega
  have hfirst : max a (a / 0x10000 * 0x10000) = a := by omega
  simp only [checkAcc, one_ne_zero, if_false, hblocks, checkBlocks, hfirst]

/-- A window gives a partition access to the generator range (R255, R289). -/
theorem checkAcc_gen {p a : Nat} {wr : Bool} (hg : inGen a = true) (hw : anyWindow s p wr a = true) :
    checkAcc s p wr a 1 = if wr then .rngWrite a else .ok := by
  have hmay : mayAccess s p wr a = true := by
    rw [mayAccess, spadCore_of_inGen hg, hw, hg, Bool.or_true, Bool.and_true]
  rw [checkAcc_byte, if_pos hmay, hg, Bool.and_true]

theorem ctxRead_gen {a : Nat} (hg : inGen a = true) (s : State) (p n : Nat) : ctxRead s p n a 1 = [genByte (ctxOf s p n).seed p n a] := by
  obtain ⟨hlo, hhi⟩ := (inGen_iff a).mp hg
  have hout : ¬ (s.shc.isEmpty ∧ (a + 1 ≤ genLo ∨ genHi ≤ a)) := by
    rintro ⟨-, h | h⟩ <;> omega
  rw [ctxRead, if_neg hout, rangeFrom, rangeFrom, List.map_singleton, ctxByte, if_pos hg]

/-! ## The step break (R293, R299) -/

theorem clearHit_keeps (s : State) (l k : Nat) (c : SlotCtx) :
    slotOf (clearHit s l k c) l k = some { c with hit := false, since := s.clk.tb } ∧ (clearHit s l k c).clk = s.clk ∧
      (clearHit s l k c).mem = s.mem ∧ (clearHit s l k c).regs = s.regs := by
  unfold clearHit
  dsimp only
  split
  · exact ⟨slotOf_setSlot _ _ _ _, rfl, rfl, rfl⟩
  · exact ⟨slotOf_setSlot _ _ _ _, rfl, rfl, rfl⟩

/-- Settles O29: the signal adds to its token, the generator range answers with its byte and refuses a write, and a resumed slot has its stop
cleared before it settles. -/
theorem tokensGeneratorAndStepBreak : Obligations.TokensGeneratorAndStepBreak := by
  refine ⟨?_, ?_, ?_, ?_⟩
  · intro t ag w s hw p n
    have hp : p < 16 := Nat.div_lt_of_lt_mul w.isLt
    refine ⟨signal (advance s t) p n (BitVec.ofNat 32 (w.toNat % 2 ^ 22)), ?_, rfl, token_signal _ _ _ _, bounds_signal _ hp,
      due_signal (BitVec.ofNat 32 (w.toNat % 2 ^ 22)) hp, fun o ho => rd_signal_ne _ _ _ _ ho⟩
    rw [exec_schTokSignal, execSchTokSignal, onWrite_of_writeTakes _ hw]
    rfl
  · intro t p n a s hg hw
    refine ⟨setCtx (advance s t) p n { ctxOf s p n with genOut := some (genByte (ctxOf s p n).seed p n a) }, ?_, ?_, rfl, ctxRead_gen hg s p n⟩
    · have hok : checkAcc (advance s t) p false a 1 = .ok := checkAcc_gen (s := advance s t) hg hw
      simp only [exec_genRead, execGenRead, hg, if_true, genRead, hok]
      rfl
    · rw [ctxOf_setCtx]
  · intro t p n a s hg hw hres hdying hcause
    have hrng : checkAcc (advance s t) p true a 1 = .rngWrite a := checkAcc_gen (s := advance s t) hg hw
    have hctx := ctxOf_raise (s := advance s t) hres (ctxCore (advance s t) p n) fRngWrite
    have hmem := coreSide_mem (raise_side (advance s t) p n (ctxCore (advance s t) p n) fRngWrite)
    refine ⟨raise (advance s t) p n (ctxCore (advance s t) p n) fRngWrite, ?_, hmem, ?_, dying_raise (s := advance s t) _ _ hres⟩
    · simp only [exec_genWrite, execGenWrite, hg, if_true, hrng, raiseAcc]
    · rw [hctx, struck]
      exact if_pos hcause
  · intro t ag l s c hw k hc hhit
    obtain ⟨hslot, hclk, hmem, hregs⟩ := clearHit_keeps (advance s t) l k c
    refine ⟨clearHit (advance s t) l k c, by rw [hslot, hclk], hmem, hregs, ?_⟩
    have hk : slotOf (advance s t) l (fld (advance s t) (tcOff l + 0x88) 8 3) = some c := hc
    rw [exec_brkResume, execBrkResume, onWrite_of_writeTakes _ hw]
    simp only [brkResume, hk, hhit, not_true, if_false]
    rfl

end Sys2Proof.Proofs
end

section
/-! # O25: a bank closes, loses its contents, and wakes (R212, R213) -/
namespace Sys2Proof.Proofs
open Sys2Proof Sys2Proof.Machine Sys2Proof.Safety Sys2Proof.Laws

variable {s : State} {l b : Nat}

theorem bankOf_setBank (s : State) (l b : Nat) (v : BankSt) : bankOf (setBank s l b v) l b = v := by
  rw [bankOf, setBank, coreOf_setCore]
  dsimp only
  split
  · next h => rw [h, tget, tget?_tdel_same, Option.getD_none]
  · exact tget_tset_same _ _ _ _

theorem bankAbort_of_closing (h : bankOf s l b = .closing) : bankAbort s l b = bump (setBank s l b .on) (tcOff l + 0x60) := if_pos h

theorem bankWake_of_gated (wr : Bool) (h : bankOf s l b = .gated) :
    bankWake s l b wr = bump (setBank s l b .waking) (tcOff l + (if wr then 0x58 else 0x5C)) := if_pos h

/-- The bank gated, with its bytes zero. -/
def bankLost (s : State) (l b : Nat) : State := zeroMem (setBank s l b .gated) (spadOf l + 0x10000 * b) 0x10000

/-- With no credit left in it a CLOSING bank is gated and its contents are lost (R212); the records of runs in it go as well (R267). -/
theorem bankClosed_of_closing (h : bankOf s l b = .closing) (hc : (coreOf s l).credits.any (fun c => creditInBank c b) = false) :
    bankClosed s l b = setCore (bankLost s l b) l { coreOf (bankLost s l b) l with
      resid := (coreOf (bankLost s l b) l).resid.filter (fun r => !runInBank r.base r.len b) } :=
  if_neg (by simp [h, hc])

theorem bankOf_bankClosed (h : bankOf s l b = .closing) (hc : (coreOf s l).credits.any (fun c => creditInBank c b) = false) :
    bankOf (bankClosed s l b) l b = .gated := by
  rw [bankClosed_of_closing h hc, bankOf, coreOf_setCore]
  exact bankOf_setBank s l b .gated

/-- Settles O25: each transition sets its bank; only the one to GATED touches memory, and it zeroes the bank's bytes. -/
theorem banksCloseAndWake : Obligations.BanksCloseAndWake := by
  refine ⟨fun t l b s h hc => ?_, fun t l b s h => ?_, fun t l b wr s h => ?_, fun t l b s h => ?_⟩
  · have heq := bankClosed_of_closing (s := advance s t) h hc
    refine ⟨_, rfl, bankOf_bankClosed (s := advance s t) h hc, ?_, fun x hlo hhi => ?_, fun x hx => ?_⟩ <;> rw [heq]
    · rfl
    · exact mget_zeroMem_in _ _ _ _ hlo hhi
    · exact mget_zeroMem_out _ _ _ _ hx
  · refine ⟨bump (setBank (advance s t) l b .on) (tcOff l + 0x60), ?_, bankOf_setBank (advance s t) l b .on, rfl,
      rd_bump (setBank (advance s t) l b .on) _⟩
    rw [exec_bankGateAbort, execBankGateAbort, bankAbort_of_closing (s := advance s t) h]
  · refine ⟨bump (setBank (advance s t) l b .waking) (tcOff l + (if wr then 0x58 else 0x5C)), ?_, bankOf_setBank (advance s t) l b .waking, rfl,
      rd_bump (setBank (advance s t) l b .waking) _⟩
    rw [exec_bankWake, execBankWake, bankWake_of_gated (s := advance s t) wr h]
  · refine ⟨setBank (advance s t) l b .on, ?_, bankOf_setBank (advance s t) l b .on, rfl, rfl⟩
    rw [exec_bankWakeDone, execBankWakeDone]
    exact congrArg Host.Outcome.next (if_pos h)

end Sys2Proof.Proofs
end

section
/-! # O21: cached reads, their errors, and invalidation (R195, R196, R198, R199, R216) -/
namespace Sys2Proof.Proofs
open Sys2Proof Sys2Proof.Machine Sys2Proof.Safety Sys2Proof.Laws

variable {s : State} {l k a h p w : Nat} {c : SlotCtx} {x : Line} {err : ShcErr}

/-! ## Slices and their registers -/

@[simp] theorem sliceOf_setSlice (s : State) (h : Nat) (v : Slice) : sliceOf (setSlice s h v) h = v := tget_tset_same _ _ _ _

theorem shcReg_ne (hh : h < 16) {o q : Nat} (ho : o < 0x800) (hq : q < 0x800) (hne : o ≠ q) : canonOff (shcReg h o) ≠ canonOff (shcReg h q) :=
  canonOff_ne_low (by unfold shcReg; omega) (by unfold shcReg; omega) (by unfold shcReg; omega)

/-! ## A line frame with an error (R199) -/

/-- The slice with the correction of a frame counted; a double-bit error is none. -/
def frameCounted (s : State) (h f : Nat) (double : Bool) : Slice :=
  if double then sliceOf s h else { sliceOf s h with corr := tset (sliceOf s h).corr f (tget 0 (sliceOf s h).corr f + 1) }

/-- A frame is retired from a slice `v` that keeps it: its line is dropped, and at 64 of them the slice stops serving. -/
def frameRetired (s : State) (h st way : Nat) (v : Slice) : State :=
  let u := setFld (setSlice s h { v with
      retired := (16 * st + way) :: v.retired, lines := v.lines.filter (fun x => !(decide (x.set = st) && decide (x.way = way))) })
    (shcReg h 0x0C) 0 7 (min 64 (v.retired.length + 1))
  if 64 ≤ v.retired.length + 1 then setFlag u (shcReg h 0) 7 true else u

theorem frameErr_eq (s : State) (h st way : Nat) (double : Bool) : frameErr s h st way double =
    if (double || decide (3 ≤ tget 0 (sliceOf s h).corr (16 * st + way) + 1)) && !(sliceOf s h).retired.contains (16 * st + way)
    then frameRetired s h st way (frameCounted s h (16 * st + way) double)
    else setSlice s h (frameCounted s h (16 * st + way) double) := rfl

theorem frameRetired_keeps (s : State) (h st way : Nat) (v : Slice) :
    (frameRetired s h st way v).mem = s.mem ∧ (frameRetired s h st way v).tc = s.tc := by
  unfold frameRetired
  dsimp only
  split <;> exact ⟨rfl, rfl⟩

theorem retired_frameRetired (s : State) (h st way : Nat) (v : Slice) :
    (sliceOf (frameRetired s h st way v) h).retired = (16 * st + way) :: v.retired := by
  unfold frameRetired
  dsimp only
  split <;> exact congrArg Slice.retired (sliceOf_setSlice s h _)

/-- A frame error changes the slice and its status registers alone. -/
theorem frameErr_keeps (s : State) (h st way : Nat) (double : Bool) :
    (frameErr s h st way double).mem = s.mem ∧ (frameErr s h st way double).tc = s.tc := by
  rw [frameErr_eq]
  split
  · exact frameRetired_keeps _ _ _ _ _
  · exact ⟨rfl, rfl⟩

theorem rd_frameRetired (s : State) (st way : Nat) (v : Slice) {o : Nat} (h0 : canonOff o ≠ canonOff (shcReg h 0))
    (hC : canonOff o ≠ canonOff (shcReg h 0x0C)) : rd (frameRetired s h st way v) o = rd s o := by
  unfold frameRetired
  dsimp only
  split
  · exact (rd_setFlag_ne _ _ _ h0).trans (rd_setFld_ne _ _ _ _ _ _ hC)
  · exact rd_setFld_ne _ _ _ _ _ _ hC

theorem rd_frameErr (s : State) (st way : Nat) (double : Bool) {o : Nat} (h0 : canonOff o ≠ canonOff (shcReg h 0))
    (hC : canonOff o ≠ canonOff (shcReg h 0x0C)) : rd (frameErr s h st way double) o = rd s o := by
  rw [frameErr_eq]
  split
  · exact rd_frameRetired _ _ _ _ h0 hC
  · rfl

/-- After a double-bit error the frame is a retired one. -/
theorem retired_frameErr_double (s : State) (h st way : Nat) : 16 * st + way ∈ (sliceOf (frameErr s h st way true) h).retired := by
  rw [frameErr_eq, Bool.true_or, Bool.true_and]
  split
  · rw [retired_frameRetired]
    exact List.mem_cons_self
  · next hin =>
    rw [sliceOf_setSlice]
    simpa [frameCounted] using hin

/-! ## A fill (R196) -/

/-- A way of the set of `a` that the partition may fill: enabled for it, and its frame not retired. -/
def usableWay (s : State) (h p a w : Nat) : Bool := (waysOf s h p).testBit w && !(sliceOf s h).retired.contains (16 * fieldOf a 6 11 + w)

/-- The ways that a fill chooses from. -/
def fillWays (s : State) (h p a : Nat) : List Nat :=
  (bitsSet (waysOf s h p) 16).filter (fun w => !(sliceOf s h).retired.contains (16 * fieldOf a 6 11 + w))

/-- The line of `a` as memory holds it, in way `w`. -/
def filledLine (s : State) (p a w : Nat) : Line := ⟨fieldOf a 6 11, w, a / 64 * 64, p, rdMem s (a / 64 * 64) 64⟩

/-- The lines of the set of `a` that lie in ways that a fill chooses from. -/
def fillRivals (s : State) (h p a : Nat) : List Line :=
  (sliceOf s h).lines.filter (fun x => decide (x.set = fieldOf a 6 11) && (fillWays s h p a).contains x.way)

theorem mem_fillWays : w ∈ fillWays s h p a ↔ usableWay s h p a w = true := by
  have hlt : (waysOf s h p).testBit w = true → w < 16 := fun hb => by
    simp only [waysOf, fld, testBit_fieldOf, Bool.and_eq_true, decide_eq_true_eq] at hb
    exact hb.1
  simp only [fillWays, bitsSet, usableWay, List.mem_filter, mem_rangeFrom, Bool.and_eq_true]
  constructor
  · rintro ⟨⟨-, hb⟩, hr⟩
    exact ⟨hb, hr⟩
  · rintro ⟨hb, hr⟩
    exact ⟨⟨⟨Nat.zero_le _, by have := hlt hb; omega⟩, hb⟩, hr⟩

/-- A fill takes a way with no line of the set, else that of the line used least recently. -/
theorem fillLine_eq (s : State) (h p a : Nat) : fillLine s h p a =
    match (fillWays s h p a).find? (fun w => !(fillRivals s h p a).any (fun x => decide (x.way = w))) with
    | some w => setSlice s h { sliceOf s h with lines := filledLine s p a w :: (sliceOf s h).lines }
    | none => match (fillRivals s h p a).getLast? with
      | none => s
      | some v => setSlice s h { sliceOf s h with lines := filledLine s p a v.way :: (sliceOf s h).lines.erase v } := rfl

/-- With a way that the partition may fill, the line of `a` stands first in such a way, and every other line was there before. -/
theorem fillLine_of_usable (hw : usableWay s h p a w = true) :
    ∃ v ls, usableWay s h p a v = true ∧ (∀ y ∈ ls, y ∈ (sliceOf s h).lines) ∧
      fillLine s h p a = setSlice s h { sliceOf s h with lines := filledLine s p a v :: ls } := by
  rw [fillLine_eq]
  split
  · next v hv => exact ⟨v, _, mem_fillWays.mp (List.mem_of_find?_eq_some hv), fun _ hy => hy, rfl⟩
  · next hnone =>
    split
    · next hlast =>
      have hall := List.find?_eq_none.mp hnone w (mem_fillWays.mpr hw)
      rw [List.getLast?_eq_none_iff.mp hlast] at hall
      exact absurd rfl hall
    · next v hlast =>
      have hv := (List.mem_filter.mp (List.mem_of_getLast? hlast)).2
      simp only [Bool.and_eq_true, List.contains_iff_mem] at hv
      exact ⟨v.way, _, mem_fillWays.mp hv.2, fun _ hy => List.mem_of_mem_erase hy, rfl⟩

theorem fillLine_of_none_usable (hn : ∀ w, usableWay s h p a w = false) : fillLine s h p a = s := by
  have hw : fillWays s h p a = [] := List.eq_nil_iff_forall_not_mem.mpr fun w hm => by simp [mem_fillWays, hn] at hm
  rw [fillLine_eq, fillRivals, hw]
  simp

/-- A fill changes the lines of its slice alone. -/
theorem fillLine_keeps (s : State) (h p a : Nat) :
    (fillLine s h p a).mem = s.mem ∧ (fillLine s h p a).tc = s.tc ∧ (fillLine s h p a).regs = s.regs ∧
      (sliceOf (fillLine s h p a) h).retired = (sliceOf s h).retired := by
  by_cases hu : ∃ w, usableWay s h p a w = true
  · obtain ⟨w, hw⟩ := hu
    obtain ⟨v, ls, -, -, he⟩ := fillLine_of_usable hw
    rw [he]
    exact ⟨rfl, rfl, rfl, by rw [sliceOf_setSlice]⟩
  · rw [fillLine_of_none_usable (by simpa using hu)]
    exact ⟨rfl, rfl, rfl, rfl⟩

/-! ## A cached read (R195, R196, R199) -/

/-- Slot `k` of core `l` reads a cached address in throughput mode, and its home slice is in service. -/
structure ReadsCache (s : State) (l k a h : Nat) (c : SlotCtx) : Prop where
  slot : slotOf s l k = some c
  mode : c.det = false
  cached : cachedAt s c.part a = true
  quiet : s.inval = none
  home : homeOf s c.part a = some h
  serves : flag s (shcReg h 0) 7 = false

/-- A line found is the most recently used of its slice. -/
def lineUsed (s : State) (h : Nat) (x : Line) : State := setSlice s h { sliceOf s h with lines := x :: (sliceOf s h).lines.erase x }

/-- The bytes of a line with a double-bit error are not used: it leaves its slice. -/
def lineLost (s : State) (h : Nat) (x : Line) : State := setSlice s h { sliceOf s h with lines := (sliceOf s h).lines.erase x }

/-- What a read that finds line `x` leaves, by the error that it meets. -/
def hitRead (s : State) (h p a : Nat) (x : Line) : ShcErr → State
  | .none => lineUsed s h x
  | .single => frameErr (bump (lineUsed s h x) (shcReg h 4)) h x.set x.way false
  | .double => fillLine (frameErr (bump (lineLost s h x) (shcReg h 8)) h x.set x.way true) h p a

theorem ReadsCache.may (hr : ReadsCache s l k a h c) : ¬ (c.det = true ∨ ¬ cachedAt s c.part a = true ∨ s.inval.isSome = true) := by
  simp [hr.mode, hr.cached, hr.quiet]

theorem shcRead_of_hit (hr : ReadsCache s l k a h c) (hx : hitLine s h c.part a = some x) :
    shcRead s l k a err = hitRead s h c.part a x err := by
  rw [hitLine] at hx
  simp only [shcRead, hr.slot, if_neg hr.may, hr.home, hr.serves, Bool.false_eq_true, if_false, hx]
  cases err <;> rfl

theorem shcRead_of_miss (hr : ReadsCache s l k a h c) (hx : hitLine s h c.part a = none) :
    shcRead s l k a err = fillLine s h c.part a := by
  rw [hitLine] at hx
  simp only [shcRead, hr.slot, if_neg hr.may, hr.home, hr.serves, Bool.false_eq_true, if_false, hx]

theorem hitRead_keeps (s : State) (h p a : Nat) (x : Line) (err : ShcErr) :
    (hitRead s h p a x err).mem = s.mem ∧ (hitRead s h p a x err).tc = s.tc := by
  cases err with
  | none => exact ⟨rfl, rfl⟩
  | single => exact frameErr_keeps _ _ _ _ _
  | double =>
    obtain ⟨hm, ht, -, -⟩ := fillLine_keeps (frameErr (bump (lineLost s h x) (shcReg h 8)) h x.set x.way true) h p a
    obtain ⟨hm', ht'⟩ := frameErr_keeps (bump (lineLost s h x) (shcReg h 8)) h x.set x.way true
    exact ⟨hm.trans hm', ht.trans ht'⟩

theorem rd_hitRead_single (hh : h < 16) : rd (hitRead s h p a x .single) (shcReg h 4) = rd s (shcReg h 4) + 1 :=
  (rd_frameErr _ _ _ _ (shcReg_ne hh (by norm_num) (by norm_num) (by norm_num))
    (shcReg_ne hh (by norm_num) (by norm_num) (by norm_num))).trans (rd_bump (lineUsed s h x) _)

theorem hitRead_double (hh : h < 16) :
    rd (hitRead s h p a x .double) (shcReg h 8) = rd s (shcReg h 8) + 1 ∧ 16 * x.set + x.way ∈ (sliceOf (hitRead s h p a x .double) h).retired := by
  obtain ⟨-, -, hregs, hret⟩ := fillLine_keeps (frameErr (bump (lineLost s h x) (shcReg h 8)) h x.set x.way true) h p a
  constructor
  · refine (rd_of_regs hregs _).trans ((rd_frameErr _ _ _ _ ?_ ?_).trans (rd_bump (lineLost s h x) _))
    · exact shcReg_ne hh (by norm_num) (by norm_num) (by norm_num)
    · exact shcReg_ne hh (by norm_num) (by norm_num) (by norm_num)
  · rw [hitRead, hret]
    exact retired_frameErr_double _ _ _ _

/-- After a miss that fills way `w`, the line filled is the one found. -/
theorem hitLine_setSlice_filled {ls : List Line} (hw : usableWay s h p a w = true) :
    hitLine (setSlice s h { sliceOf s h with lines := filledLine s p a w :: ls }) h p a = some (filledLine s p a w) := by
  obtain ⟨hbit, -⟩ := Bool.and_eq_true_iff.mp hw
  have hbit' : (waysOf (setSlice s h { sliceOf s h with lines := filledLine s p a w :: ls }) h p).testBit (filledLine s p a w).way = true := hbit
  rw [hitLine, sliceOf_setSlice, List.find?_cons_of_pos]
  rw [hbit']
  simp [filledLine]

/-! ## Invalidation (R198, R216) -/

/-- A slice without the lines of a partition. -/
def withoutPart (p : Nat) (v : Slice) : Slice := { v with lines := v.lines.filter (fun x => decide (x.part ≠ p)) }

theorem part_ne_of_mem_dropLines (hx : x ∈ (sliceOf (dropLines s p) h).lines) : x.part ≠ p := by
  have hs : sliceOf (dropLines s p) h = ((tget? s.shc h).map (withoutPart p)).getD Slice.reset :=
    congrArg (fun o => o.getD Slice.reset) (tget?_mapValues (withoutPart p) s.shc h)
  rw [hs] at hx
  cases ht : tget? s.shc h with
  | none => rw [ht] at hx; exact absurd hx List.not_mem_nil
  | some v =>
    rw [ht] at hx
    exact of_decide_eq_true (List.mem_filter.mp hx).2

theorem shcInv_of_quiet (hn : s.inval = none) : shcInv s p = { dropLines s p with inval := some p } := by rw [shcInv, hn]

theorem shcInv_of_busy {q : Nat} (hb : s.inval = some q) : shcInv s p = { s with invalQ := s.invalQ ++ [p] } := by rw [shcInv, hb]

theorem shcInv_keeps (s : State) (p : Nat) : (shcInv s p).mem = s.mem ∧ (shcInv s p).regs = s.regs := by
  unfold shcInv
  split <;> exact ⟨rfl, rfl⟩

/-- The next invalidation held begins. -/
theorem shcInvDone_keeps (hb : s.inval ≠ none) :
    (shcInvDone s).mem = s.mem ∧ (shcInvDone s).regs = s.regs ∧ (shcInvDone s).inval = s.invalQ.head? ∧ (shcInvDone s).invalQ = s.invalQ.tail := by
  unfold shcInvDone
  split
  · next hn => exact absurd hn hb
  · split
    · next hq => exact ⟨rfl, rfl, by rw [hq]; rfl, by rw [hq]; rfl⟩
    · next hq => exact ⟨rfl, rfl, by rw [hq]; rfl, by rw [hq]; rfl⟩

/-- Settles O21: a read that finds its line, a read that does not, and the two ends of an invalidation, each by its own lemma above. -/
theorem sharedCacheReadsAndInvalidation : Obligations.SharedCacheReadsAndInvalidation := by
  refine ⟨?_, ?_, fun t ag p s hw => ?_, fun t s hb => ?_⟩
  · intro t l k a h err s c x hslot hdet hcached hquiet hhome hserves hx
    have hr : ReadsCache (advance s t) l k a h c := ⟨hslot, hdet, hcached, hquiet, hhome, hserves⟩
    obtain ⟨hmem, htc⟩ := hitRead_keeps (advance s t) h c.part a x err
    refine ⟨hitRead (advance s t) h c.part a x err, ?_, hmem, htc, ?_, ?_, ?_⟩
    · rw [exec_shcRead, execShcRead, shcRead_of_hit hr hx]
    · rintro rfl
      exact ⟨by rw [hitRead, lineUsed, sliceOf_setSlice]; rfl, rfl⟩
    · rintro rfl hh
      exact rd_hitRead_single hh
    · rintro rfl hh
      exact hitRead_double hh
  · intro t l k a h err s c hslot hdet hcached hquiet hhome hserves hx usable
    have hr : ReadsCache (advance s t) l k a h c := ⟨hslot, hdet, hcached, hquiet, hhome, hserves⟩
    have hexec : exec (.shcRead t l k a err) s = .next (fillLine (advance s t) h c.part a) := by
      rw [exec_shcRead, execShcRead, shcRead_of_miss hr hx]
    rw [hexec]
    constructor
    · rintro ⟨w, hw⟩
      obtain ⟨v, ls, hv, hls, hfill⟩ := fillLine_of_usable (s := advance s t) hw
      rw [hfill]
      refine ⟨_, filledLine (advance s t) c.part a v, rfl, rfl, rfl, rfl, hitLine_setSlice_filled hv, ?_, rfl, rfl, rfl, rfl, hv, ?_, ?_⟩ <;>
        rw [sliceOf_setSlice]
      · exact List.mem_cons_self
      · rfl
      · exact fun y hy => (List.mem_cons.mp hy).imp_right (hls y)
    · exact fun hn => congrArg Host.Outcome.next (fillLine_of_none_usable (s := advance s t) hn)
  · obtain ⟨hmem, hregs⟩ := shcInv_keeps (advance s t) p
    refine ⟨shcInv (advance s t) p, ?_, hmem, hregs, fun hn => ?_, fun q hb => ?_⟩
    · rw [exec_shcInv, execShcInv, onWrite_of_writeTakes _ hw]
    · rw [shcInv_of_quiet (s := advance s t) hn]
      exact ⟨rfl, fun c x hx => part_ne_of_mem_dropLines (s := advance s t) (h := c) hx⟩
    · rw [shcInv_of_busy (s := advance s t) hb]
      exact ⟨hb, rfl, rfl⟩
  · exact ⟨_, rfl, shcInvDone_keeps (s := advance s t) hb⟩

end Sys2Proof.Proofs
end

section
/-! # O24: memory errors (R206, R208): a reader that names an engine the module does not have -/
namespace Sys2Proof.Proofs
open Sys2Proof Sys2Proof.Machine Sys2Proof.Safety Sys2Proof.Laws

/-- The number of an engine, beyond the 22 of the module, whose DMA_FAULT would stand where LAST_UNCORR of controller 0 stands. -/
def strayEngine : Nat := 0x3810

theorem lastUncorr_eq_dmaReg : mcReg (mcOf 0) 0x10 = dmaReg strayEngine 0x10 := rfl

/-- ECC is on, and a chain of partition 0 heads a queue of that engine. -/
def strayChain : State :=
  { State.reset with
    regs := [(0x400000, 1)]
    dma := [(strayEngine, ⟨[(0, [routerChain 0 0 0 1])]⟩)] }

/-- ECC is on and address 0 is usable DRAM, as the statement asks. -/
theorem strayChain_checked : flag strayChain 0x400000 0 = true ∧ 0 < memTop strayChain := by
  decide

/-- The fault of the chain (R206) overwrites the address of the block (R208). -/
theorem rd_dramEcc_strayChain : rd (dramEcc (advance strayChain 0) 0 .double (.dma strayEngine 0)) (dmaReg strayEngine 0x10) = 0x80000404 := by
  decide +kernel

/-- Refutes O24: its clause on a double-bit error lets the reader be an engine of any number, and bounds the number only where it speaks of that
engine's queue. For the number `strayEngine` the record of the chain's fault takes the place of LAST_UNCORR, which no longer holds address 0. -/
theorem not_memoryErrorsAreCounted : ¬ Obligations.MemoryErrorsAreCounted := by
  rintro ⟨hdram, -⟩
  obtain ⟨hon, htop⟩ := strayChain_checked
  obtain ⟨-, herr⟩ := hdram 0 0 (.dma strayEngine 0) strayChain hon htop
  obtain ⟨u, hu, -, hlast, -⟩ := herr .double (.inl rfl)
  rw [exec_dramReadEcc, execDramReadEcc] at hu
  cases hu
  rw [lastUncorr_eq_dmaReg, rd_dramEcc_strayChain] at hlast
  exact absurd hlast (by decide)

end Sys2Proof.Proofs
end

section
/-! # The Dressers: what leaves the drawers, credits and requests of every core alone -/
namespace Sys2Proof.Proofs
open Sys2Proof Sys2Proof.Machine Sys2Proof.Safety Sys2Proof.Laws

/-- What the Dresser of a core keeps beside its banks: landing drawers, credits, waiting requests, exchange counters, the next tag. -/
def dresserOf (c : LCore) : Tab Drawer × List Credit × List CreditReq × Tab Nat × Nat := (c.drawers, c.credits, c.waitQ, c.halo, c.tag)

/-- Between `s` and `u` no core's Dresser has changed but for the states of its banks. -/
def SameDressers (s u : State) : Prop := ∀ l, dresserOf (coreOf u l) = dresserOf (coreOf s l)

variable {σ s u : State} {l k : Nat}

theorem SameDressers.drawers (h : SameDressers s u) (l : Nat) : (coreOf u l).drawers = (coreOf s l).drawers := (congrArg (fun x => x.1) (h l) :)

theorem SameDressers.credits (h : SameDressers s u) (l : Nat) : (coreOf u l).credits = (coreOf s l).credits :=
  (congrArg (fun x => x.2.1) (h l) :)

theorem SameDressers.waitQ (h : SameDressers s u) (l : Nat) : (coreOf u l).waitQ = (coreOf s l).waitQ := (congrArg (fun x => x.2.2.1) (h l) :)

theorem SameDressers.halo (h : SameDressers s u) (l : Nat) : (coreOf u l).halo = (coreOf s l).halo := (congrArg (fun x => x.2.2.2.1) (h l) :)

theorem SameDressers.tag (h : SameDressers s u) (l : Nat) : (coreOf u l).tag = (coreOf s l).tag := (congrArg (fun x => x.2.2.2.2) (h l) :)

/-! ## The shapes of a definition -/

theorem SameDressers.refl (s : State) : SameDressers s s := fun _ => rfl

theorem SameDressers.alike (h : SameDressers σ s) (ht : u.tc = s.tc) : SameDressers σ u := fun l => by
  rw [coreOf, ht]
  exact h l

theorem SameDressers.setCore {v : LCore} (h : SameDressers σ s) (hv : dresserOf v = dresserOf (coreOf s l) := by rfl) :
    SameDressers σ (setCore s l v) := fun m => by
  rw [coreOf_setCore_cases]
  split
  · next hm => rw [hm, hv, h l]
  · exact h m

theorem SameDressers.foldl {α : Type} {f : State → α → State} {xs : List α} (h : SameDressers σ s)
    (hf : ∀ v x, SameDressers σ v → SameDressers σ (f v x)) : SameDressers σ (xs.foldl f s) :=
  List.foldlRecOn xs f h fun v hv x _ => hf v x hv

theorem SameDressers.ite {p : Prop} [Decidable p] {x y : State} (hx : SameDressers σ x) (hy : SameDressers σ y) :
    SameDressers σ (if p then x else y) := by
  split <;> assumption

/-! ## An access of a bank (R212, R213) -/

theorem SameDressers.bankAbort {b : Nat} (h : SameDressers σ s) : SameDressers σ (bankAbort s l b) := .ite (h.setCore.alike rfl) h

theorem SameDressers.bankWake {b : Nat} {wr : Bool} (h : SameDressers σ s) : SameDressers σ (bankWake s l b wr) := .ite (h.setCore.alike rfl) h

theorem SameDressers.touchCore {wr : Bool} {a len : Nat} (h : SameDressers σ s) : SameDressers σ (touchCore s wr a len) := by
  unfold Machine.touchCore
  split
  · exact h
  · exact .ite h (.foldl h fun _ _ h => h.bankAbort.bankWake)

theorem SameDressers.touch {wr : Bool} {a len : Nat} (h : SameDressers σ s) : SameDressers σ (touch s wr a len) :=
  .foldl h fun _ _ h => h.touchCore

theorem SameDressers.touchRanges {wr : Bool} {rs : List (Nat × Nat)} (h : SameDressers σ s) : SameDressers σ (touchRanges s wr rs) :=
  .foldl h fun _ _ h => h.touch

/-! ## The waits of contexts (R32, R77) -/

theorem SameDressers.setSlot {c : SlotCtx} (h : SameDressers σ s) : SameDressers σ (setSlot s l k c) := h.setCore

theorem SameDressers.endWait (h : SameDressers σ s) : SameDressers σ (endWait s l k) := by
  unfold Machine.endWait
  split
  · exact h
  · exact h.setSlot

theorem SameDressers.dropRing (h : SameDressers σ s) : SameDressers σ (dropRing s l k) := .ite h.setCore h

theorem SameDressers.beginWait {w : Wait} (h : SameDressers σ s) : SameDressers σ (beginWait s l k w) := by
  unfold Machine.beginWait
  split
  · exact h
  · exact h.setSlot.dropRing

theorem SameDressers.waitCredit {r : CreditReq} (h : SameDressers σ s) : SameDressers σ (waitCredit s r) := by
  unfold Machine.waitCredit
  split
  · exact h
  · split
    · exact h
    · split
      · exact h
      · exact .ite h.beginWait h

theorem SameDressers.doneCredit {r : CreditReq} (h : SameDressers σ s) : SameDressers σ (doneCredit s r) := by
  unfold Machine.doneCredit
  split
  · exact h
  · split
    · exact h
    · exact .ite h.endWait h

/-! ## What a DMA engine writes under a credit (R188, R205) -/

theorem SameDressers.dmaRead {p n a len : Nat} (h : SameDressers σ s) : SameDressers σ (dmaRead s p n a len).2 := by
  unfold Machine.dmaRead
  split
  · exact h.touch
  · exact h.alike rfl

theorem SameDressers.wrMem {a : Nat} {bs : List Byte} (h : SameDressers σ s) : SameDressers σ (wrMem s a bs) := h.alike rfl

theorem SameDressers.setHead {e vc : Nat} {c : Chain} (h : SameDressers σ s) : SameDressers σ (setHead s e vc c) := h.alike rfl

theorem SameDressers.landDesc {e vc : Nat} {rg : Nat × Nat} {i : Nat} (h : SameDressers σ s) : SameDressers σ (landDesc e vc rg s i) := by
  unfold Machine.landDesc
  split
  · exact h
  · refine .ite h (.foldl h fun _ _ h => .foldl h fun _ _ h => ?_)
    split
    · exact h
    · refine .ite h ?_
      dsimp only
      split
      · exact h.dmaRead.wrMem
      · exact h.dmaRead.wrMem.setHead

theorem SameDressers.dmaLand {x : Credit} (h : SameDressers σ s) : SameDressers σ (dmaLand s l x) := by
  unfold Machine.dmaLand
  refine .ite h (.foldl h fun _ _ h => ?_)
  split
  · exact h
  · exact .ite h (.foldl h fun _ _ h => h.landDesc)

end Sys2Proof.Proofs
end

section
/-! # O20: a multicast, a halo row and a cancelled promise (R190, R192, R193) -/
namespace Sys2Proof.Proofs
open Sys2Proof Sys2Proof.Machine Sys2Proof.Safety Sys2Proof.Laws

variable {s : State} {l k src len d : Nat} {c : SlotCtx} {f : InFlight} {cr x : Credit}

/-! ## Data that a core sends -/

theorem firstBad_advance (s : State) (t : Time) (p : Nat) (wr : Bool) (rs : List (Nat × Nat)) :
    firstBad (advance s t) p wr rs = firstBad s p wr rs := by
  induction rs with
  | nil => rfl
  | cons r rs ih => simp only [firstBad, checkAcc_advance, ih]

/-- The bytes land in the credit's drawer, and the credit counts as sent. -/
theorem sendData_keeps (s : State) (p n src len d : Nat) (cr : Credit) :
    (sendData s p n src len d cr).mem = (wrMem s (spadOf d + 0x1000 * cr.drawer) (ctxRead s p n src (min len 0x1000))).mem ∧
      (sendData s p n src len d cr).regs = s.regs ∧ (coreOf (sendData s p n src len d cr) d).halo = (coreOf s d).halo :=
  ⟨rfl, rfl, (congrArg LCore.halo (coreOf_setCore _ _ _) :)⟩

theorem sent_mem_credits_sendData (p n : Nat) {y : Credit} (hy : y ∈ (coreOf s d).credits) (ht : y.tag = cr.tag) :
    { y with sent := true } ∈ (coreOf (sendData s p n src len d cr) d).credits := by
  rw [sendData, coreOf_setCore]
  exact List.mem_map.mpr ⟨y, hy, if_pos ht⟩

/-- Slot `k` of core `l`, in throughput mode, reads `len` bytes at `src` for an instruction in flight that shares them, and may read them. -/
structure Sends (s : State) (l k src len : Nat) (c : SlotCtx) (f : InFlight) : Prop where
  slot : slotOf s l k = some c
  mode : c.det = false
  goes : alive s c.part c.ctx = true
  flight : f ∈ c.flight
  shares : sharesSrc l src len f = true
  permitted : firstBad s c.part false [(src, len)] = .ok

theorem Sends.advance (h : Sends s l k src len c f) (t : Time) : Sends (advance s t) l k src len c f :=
  { h with permitted := (firstBad_advance s t _ _ _).trans h.permitted }

theorem Sends.aliveOn (h : Sends s l k src len c f) : aliveOn s c.part c.ctx l = true := by
  rw [Machine.aliveOn, h.goes, Bool.true_or]

theorem Sends.afterReads (h : Sends s l k src len c f) (g : State → State) :
    afterReads s c.part c.ctx l [(src, len)] g = g (touchRanges s false [(src, len)]) := by
  rw [Machine.afterReads, h.permitted]

/-! ## A multicast (R190, R192) -/

/-- The block lands at one destination, under the credit that the sender holds there. -/
def castTo (l src len : Nat) (c : SlotCtx) (s : State) (d : Nat) : State := match creditFrom s d l src with
  | none => s
  | some cr => sendData s c.part c.ctx src len d cr

theorem multicast_of_sends {dests : List Nat} (h : Sends s l k src len c f) (hown : 5 ≤ ownCount s c.part) (hne : dests ≠ [])
    (hd : dests = (castRanks f c.rank).filterMap (coreAt s c.part c.ctx)) (hcr : ∀ d ∈ dests, creditFrom s d l src ≠ none) :
    multicast s l k src len dests = dests.foldl (castTo l src len c) (touchRanges s false [(src, len)]) := by
  have hnone : ¬ dests.any (fun d => (creditFrom s d l src).isNone) = true := by
    simpa [Option.isSome_iff_ne_none] using hcr
  have hok : c.flight.any (fun f => sharesSrc l src len f && decide (dests ≠ [])
      && decide (dests = (castRanks f c.rank).filterMap (coreAt s c.part c.ctx))) = true :=
    List.any_eq_true.mpr ⟨f, h.flight, by rw [h.shares, decide_eq_true hne, decide_eq_true hd]; rfl⟩
  simp only [multicast, h.slot]
  rw [if_neg, h.afterReads]
  · rfl
  · rintro (hm | hm | hm | hm | hm)
    · rw [h.mode] at hm
      cases hm
    · omega
    · exact hm h.aliveOn
    · exact hm hok
    · exact hnone hm

/-! ## A halo row (R192) -/

/-- One more row of the exchange with slot `dk` of core `d`. -/
def haloCounted (s : State) (d dk : Nat) : State := setCore s d { coreOf s d with halo := tmod 0 (coreOf s d).halo dk (· + 1) }

theorem haloSend_of_sends {dk : Nat} (h : Sends s l k src len c f) (hown : ownCount s c.part ≤ 4)
    (hd : coreAt s c.part c.ctx (c.rank + 1) = some d) (hcr : creditFrom s d l src = some cr) (hdk : slotFor s d c.part c.ctx = some dk) :
    haloSend s l k src len = haloCounted (sendData (touchRanges s false [(src, len)]) c.part c.ctx src len d cr) d dk := by
  have hok : c.flight.any (sharesSrc l src len) = true := List.any_eq_true.mpr ⟨f, h.flight, h.shares⟩
  simp only [haloSend, h.slot, hd, hcr, hdk]
  rw [if_neg, h.afterReads]
  · rfl
  · rintro (hm | hm | hm | hm)
    · rw [h.mode] at hm
      cases hm
    · omega
    · exact hm h.aliveOn
    · exact hm hok

theorem haloCounted_keeps (s : State) (d dk : Nat) :
    (haloCounted s d dk).mem = s.mem ∧ (haloCounted s d dk).regs = s.regs ∧ (coreOf (haloCounted s d dk) d).credits = (coreOf s d).credits ∧
      tget 0 (coreOf (haloCounted s d dk) d).halo dk = tget 0 (coreOf s d).halo dk + 1 := by
  rw [haloCounted, coreOf_setCore]
  exact ⟨rfl, rfl, rfl, tget_tset_same _ _ _ _⟩

/-! ## A promise that is cancelled (R193) -/

theorem promiseCancel_of_left
    (hx : (coreOf s l).credits.find? (fun y => decide (y.req.src = some src) && isPromise y.req.writer y.req.part y.req.ctx l y) = some x)
    (hr : senderRuns s x.req.writer x.req.part x.req.ctx = false) :
    promiseCancel s l src (decide (5 ≤ ownCount s x.req.part)) = selfFetch s l x (decide (5 ≤ ownCount s x.req.part)) := by
  simp only [promiseCancel, hx]
  exact if_neg (by simp [hr])

/-- The credit is given back, and one of the receiver's own for the same source takes its place. -/
theorem coreOf_selfFetch (s : State) (l : Nat) (x : Credit) (mc : Bool) :
    (coreOf (selfFetch s l x mc) l).drawers = (coreOf s l).drawers ∧
      (coreOf (selfFetch s l x mc) l).credits = (coreOf s l).credits.filter (fun y => decide (y.tag ≠ x.tag))
        ++ [{ x with tag := (coreOf s l).tag, req := { x.req with writer := l } }] :=
  ⟨(congrArg LCore.drawers (coreOf_setCore _ _ _) :), (congrArg LCore.credits (coreOf_setCore _ _ _) :)⟩

theorem rd_selfFetch (s : State) (l : Nat) (x : Credit) (mc : Bool) :
    rd (selfFetch s l x mc) (tcOff l + (if mc then 0x64 else 0x68)) = rd s (tcOff l + (if mc then 0x64 else 0x68)) + 1 ∧
      ∀ q, canonOff q ≠ canonOff (tcOff l + (if mc then 0x64 else 0x68)) → rd (selfFetch s l x mc) q = rd s q :=
  ⟨rd_bump _ _, fun _ hq => rd_bump_ne _ hq⟩

/-- Settles O20: the block and the row land under the credits of their receivers once the read has passed its check, and a receiver whose sender has
left fetches for itself. -/
theorem multicastHaloAndCancelledPromises : Obligations.MulticastHaloAndCancelledPromises := by
  refine ⟨?_, fun s p n src len d cr => ?_, ?_, fun t l src s x hx hr => ?_⟩
  · intro t l k src len dests s c f hslot hdet halive hown hf hshare hne hd hcr hacc
    have h : Sends (advance s t) l k src len c f := (Sends.mk hslot hdet halive hf hshare hacc).advance t
    rw [exec_multicastSend, execMulticastSend, multicast_of_sends h hown hne hd hcr]
    rfl
  · obtain ⟨hmem, hregs, -⟩ := sendData_keeps s p n src len d cr
    exact ⟨hmem, hregs, fun y hy ht => sent_mem_credits_sendData p n hy ht⟩
  · intro t l k src len d dk s c cr f hslot hdet halive hown hf hshare hd hcr hdk hacc s1
    have h : Sends (advance s t) l k src len c f := (Sends.mk hslot hdet halive hf hshare hacc).advance t
    obtain ⟨-, hregs, hhalo⟩ := sendData_keeps s1 c.part c.ctx src len d cr
    obtain ⟨hmem', hregs', hcredits, hcount⟩ := haloCounted_keeps (sendData s1 c.part c.ctx src len d cr) d dk
    have hsame : SameDressers (advance s t) s1 := (SameDressers.refl _).touchRanges
    refine ⟨_, ?_, hregs'.trans hregs, hcount.trans ?_, hmem', hcredits⟩
    · rw [exec_haloRowSend, execHaloRowSend, haloSend_of_sends h hown hd hcr hdk]
    · rw [hhalo, hsame.halo]
      rfl
  · obtain ⟨hdrawers, hcredits⟩ := coreOf_selfFetch (advance s t) l x (decide (5 ≤ ownCount s x.req.part))
    have hrd := rd_selfFetch (advance s t) l x (decide (5 ≤ ownCount s x.req.part))
    simp only [decide_eq_true_iff] at hrd
    refine ⟨selfFetch (advance s t) l x (decide (5 ≤ ownCount s x.req.part)), ?_, rfl, hdrawers, hcredits, hrd⟩
    rw [exec_promiseCancel, execPromiseCancel]
    exact congrArg Host.Outcome.next (promiseCancel_of_left (s := advance s t) hx hr)

end Sys2Proof.Proofs
end

section
/-! # What the instant of a command does not change: operands read ahead and the order of requests (R134, R138, R153, R190) -/
namespace Sys2Proof.Proofs
open Sys2Proof Sys2Proof.Machine Sys2Proof.Safety Sys2Proof.Laws

theorem descAt_advance (s : State) (t : Time) (p n i : Nat) : descAt (advance s t) p n i = descAt s p n i := by
  simp only [descAt, checkAcc_advance]
  rfl

theorem boundOf_advance (s : State) (t : Time) (p n : Nat) (bounds : List Word) (ver baddr sel mx : Nat) :
    boundOf (advance s t) p n bounds ver baddr sel mx = boundOf s p n bounds ver baddr sel mx := by
  simp only [boundOf, checkAcc_advance]
  rfl

theorem recErrs_advance (s : State) (t : Time) (p n a : Nat) (wr : Bool) : recErrs (advance s t) p n a wr = recErrs s p n a wr := by
  simp only [recErrs, checkAcc_advance]
  rfl

theorem operandOf_advance (s : State) (t : Time) (p : Nat) (sc : SlotCtx) (u : Use) (d : List Byte) :
    operandOf (advance s t) p sc u d = operandOf s p sc u d := by
  simp only [operandOf, boundOf_advance, recErrs_advance]
  rfl

theorem aheadKey_advance (s : State) (t : Time) (l : Nat) (c : SlotCtx) (src len : Nat) :
    aheadKey (advance s t) l c src len = aheadKey s l c src len := by
  simp only [aheadKey, constAhead, descAt_advance, operandOf_advance]

theorem prefetchIp_advance (s : State) (t : Time) (l : Nat) (r : CreditReq) : prefetchIp (advance s t) l r = prefetchIp s l r := by
  simp only [prefetchIp, prefetchOrder, aheadKey_advance]
  rfl

theorem wellAsked_advance (s : State) (t : Time) (l : Nat) (r : CreditReq) : wellAsked (advance s t) l r = wellAsked s l r := by
  rw [wellAsked, prefetchIp_advance]
  rfl

end Sys2Proof.Proofs
end

section
/-! # O19: the life of a credit (R187 to R190, R194) -/
namespace Sys2Proof.Proofs
open Sys2Proof Sys2Proof.Machine Sys2Proof.Safety Sys2Proof.Laws

variable {σ s : State} {l tag : Nat} {r : CreditReq} {x : Credit}

/-! ## A grant (R188, R189) -/

/-- The credit that a request becomes: the next tag, and for a landing credit the first FREE drawer. -/
def creditFor (s : State) (l : Nat) (r : CreditReq) : Credit :=
  ⟨(coreOf s l).tag, r, if r.landing = none then r.off / 0x1000 else (freeDrawers s l).headD 0, false⟩

/-- The drawers once a request has been granted. -/
def drawersFor (s : State) (l : Nat) (r : CreditReq) : Tab Drawer := match r.landing with
  | none => (coreOf s l).drawers
  | some k => tset (coreOf s l).drawers ((freeDrawers s l).headD 0)
      ⟨.granted, k, r.src.map (fun a => (a, r.len)), if r.prefetch then prefetchIp s l r else none⟩

/-- The core with a request granted, before a writer that waited for it goes on. -/
def creditPut (s : State) (l : Nat) (r : CreditReq) : State :=
  setCore s l { coreOf s l with
    credits := (coreOf s l).credits ++ [creditFor s l r], drawers := drawersFor s l r, tag := (coreOf s l).tag + 1 }

theorem grantCredit_eq (s : State) (l : Nat) (r : CreditReq) : grantCredit s l r = doneCredit (creditPut s l r) r := by
  cases hl : r.landing <;> simp only [grantCredit, creditPut, creditFor, drawersFor, hl, if_true, reduceCtorEq, if_false]

theorem sameDressers_grantCredit (s : State) (l : Nat) (r : CreditReq) : SameDressers (creditPut s l r) (grantCredit s l r) := by
  rw [grantCredit_eq]
  exact (SameDressers.refl _).doneCredit

theorem credits_grantCredit (s : State) (l : Nat) (r : CreditReq) :
    (coreOf (grantCredit s l r) l).credits = (coreOf s l).credits ++ [creditFor s l r] := by
  rw [(sameDressers_grantCredit s l r).credits, creditPut, coreOf_setCore]

theorem tag_grantCredit (s : State) (l : Nat) (r : CreditReq) : (coreOf (grantCredit s l r) l).tag = (coreOf s l).tag + 1 := by
  rw [(sameDressers_grantCredit s l r).tag, creditPut, coreOf_setCore]

theorem waitQ_grantCredit (s : State) (l : Nat) (r : CreditReq) : (coreOf (grantCredit s l r) l).waitQ = (coreOf s l).waitQ := by
  rw [(sameDressers_grantCredit s l r).waitQ, creditPut, coreOf_setCore]

theorem drawer_grantCredit (s : State) {k : Nat} (hk : r.landing = some k) :
    tget? (coreOf (grantCredit s l r) l).drawers ((freeDrawers s l).headD 0) =
      some ⟨.granted, k, r.src.map (fun a => (a, r.len)), if r.prefetch then prefetchIp s l r else none⟩ := by
  rw [(sameDressers_grantCredit s l r).drawers, creditPut, coreOf_setCore]
  simp only [drawersFor, hk, tget?_tset_same]

/-! ## A request that waits (R188) -/

/-- The request waits behind those that wait already. -/
def requestPut (s : State) (l : Nat) (r : CreditReq) : State := setCore s l { coreOf s l with waitQ := (coreOf s l).waitQ ++ [r] }

theorem Issues.waitCredit (h : Issues σ s) : Issues σ (waitCredit s r) := by
  unfold Machine.waitCredit
  split
  · exact h
  · split
    · exact h
    · split
      · exact h
      · exact .ite h.beginWait h

theorem sameDressers_waitCredit (s : State) (l : Nat) (r : CreditReq) : SameDressers (requestPut s l r) (waitCredit (requestPut s l r) r) :=
  (SameDressers.refl _).waitCredit

theorem waitQ_waitCredit (s : State) (l : Nat) (r : CreditReq) :
    (coreOf (waitCredit (requestPut s l r) r) l).waitQ = (coreOf s l).waitQ ++ [r] := by
  rw [(sameDressers_waitCredit s l r).waitQ, requestPut, coreOf_setCore]

theorem credits_waitCredit (s : State) (l : Nat) (r : CreditReq) :
    (coreOf (waitCredit (requestPut s l r) r) l).credits = (coreOf s l).credits := by
  rw [(sameDressers_waitCredit s l r).credits, requestPut, coreOf_setCore]

/-! ## A request (R188, R190, R194) -/

/-- The Dresser of core `l` takes the request: the core is its partition's and in service, it is in order, and its bank is ON. -/
structure TakesRequest (s : State) (l : Nat) (r : CreditReq) : Prop where
  owner : ownerOf s l = some r.part
  serves : coreUnavail s l = false
  ordered : wellAsked s l r = true
  bank : bankOf s l (reqBank s l r) = .on

/-- The Dresser can grant the request, and none of its kind waits. -/
def grantsAtOnce (s : State) (l : Nat) (r : CreditReq) : Bool := grantable s l r && !(coreOf s l).waitQ.any (sameKind r)

theorem bank_on_unchanged {b : Nat} (h : bankOf s l b = .on) : bankWake (bankAbort s l b) l b true = s := by
  have ha : bankAbort s l b = s := if_neg (by rw [h]; decide)
  rw [ha]
  exact if_neg (by rw [h]; decide)

theorem creditRequest_of_takes (h : TakesRequest s l r) :
    creditRequest s l r = if grantsAtOnce s l r then grantCredit s l r else waitCredit (requestPut s l r) r := by
  rw [creditRequest, if_neg (not_not.mpr h.owner), if_neg (by simp [h.serves]), if_neg (by simp [h.ordered])]
  dsimp only
  rw [bank_on_unchanged h.bank]
  rfl

theorem askCredit_of_takes (h : TakesRequest s l r) (hacc : fetchAcc s l r = .ok) (hdet : detFetch s l r = true) :
    askCredit s l r = creditRequest s l r := by
  have hnone : refusal s l r = none := by
    rw [refusal, if_neg (not_not.mpr h.owner), if_neg (by simp [h.serves])]
  simp only [askCredit, hacc, hdet, hnone, Bool.true_eq_false, if_false]

/-! ## CREDIT_GRANT (R188) -/

/-- The first landing request and the first placed one that wait. -/
def firstRequests (s : State) (l : Nat) : List CreditReq :=
  [(coreOf s l).waitQ.find? (fun r => r.landing.isSome), (coreOf s l).waitQ.find? (fun r => r.landing.isNone)].filterMap id

/-- The core without a request that waited. -/
def requestTaken (s : State) (l : Nat) (r : CreditReq) : State := setCore s l { coreOf s l with waitQ := (coreOf s l).waitQ.erase r }

theorem creditGrant_of_first (h : (firstRequests s l).find? (grantable s l) = some r) :
    creditGrant s l = grantCredit (requestTaken s l r) l r := by
  rw [firstRequests] at h
  simp only [creditGrant, h]
  rfl

/-- The landing request that waits first comes before the placed one. -/
theorem find?_firstRequests (hg : grantable s l r = true)
    (hr : (coreOf s l).waitQ.find? (fun x => x.landing.isSome) = some r ∨
      ((coreOf s l).waitQ.find? (fun x => x.landing.isNone) = some r ∧
        ∀ q, (coreOf s l).waitQ.find? (fun x => x.landing.isSome) = some q → grantable s l q = false)) :
    (firstRequests s l).find? (grantable s l) = some r := by
  rcases hr with hr | ⟨hr, hother⟩
  · simp [firstRequests, hr, hg]
  · cases hq : (coreOf s l).waitQ.find? (fun x => x.landing.isSome) with
    | none => simp [firstRequests, hr, hq, hg]
    | some q => simp [firstRequests, hr, hq, hg, hother q hq]

theorem creditFor_requestTaken (s : State) (l : Nat) (r : CreditReq) : creditFor (requestTaken s l r) l r = creditFor s l r := by
  have hfree : freeDrawers (requestTaken s l r) l = freeDrawers s l := by
    rw [freeDrawers, freeDrawers, requestTaken, coreOf_setCore]
    rfl
  rw [creditFor, creditFor, hfree, requestTaken, coreOf_setCore]

/-! ## WRITE_ACK (R188, R189) -/

/-- The core without the credit, and with its drawer FULL. -/
def creditEnded (s : State) (l tag : Nat) (x : Credit) : State :=
  setCore s l { coreOf s l with credits := (coreOf s l).credits.filter (fun y => decide (y.tag ≠ tag)), drawers := drawerFull (coreOf s l) x }

/-- The data of the credit has landed: an own fetch, and what a DMA engine writes. -/
def creditLanded (s : State) (l : Nat) (x : Credit) : State := dmaLand (fetched s l x) l x

theorem writeAck_of_credit (hx : (coreOf s l).credits.find? (fun y => decide (y.tag = tag)) = some x)
    (hp : isPromise x.req.writer x.req.part x.req.ctx l x = false) :
    writeAck s l tag = resetDone (settleAck (creditEnded (creditLanded s l x) l tag x) l x.req) x.req.part := by
  simp only [writeAck, hx, hp, Bool.false_eq_true, if_false]
  rfl

theorem fetched_of_other (h : x.req.landing = none ∨ x.req.src = none ∨ x.req.writer ≠ l) : fetched s l x = s := by
  unfold fetched
  split
  · next hk ha => exact if_neg (by simpa [hk, ha] using h)
  · rfl

theorem fetched_of_own {k a : Nat} (hk : x.req.landing = some k) (ha : x.req.src = some a) (hw : x.req.writer = l) :
    fetched s l x = landData s x.req.part x.req.ctx a x.req.len l x := by
  simp only [fetched, hk, ha]
  exact if_pos hw

/-- An own fetch stores bytes and changes nothing else. -/
theorem fetched_keeps (s : State) (l : Nat) (x : Credit) : (fetched s l x).regs = s.regs ∧ (fetched s l x).tc = s.tc := by
  by_cases h : x.req.landing = none ∨ x.req.src = none ∨ x.req.writer ≠ l
  · rw [fetched_of_other h]
    exact ⟨rfl, rfl⟩
  · push Not at h
    obtain ⟨hk, ha, hw⟩ := h
    obtain ⟨k, hk⟩ := Option.ne_none_iff_exists'.mp hk
    obtain ⟨a, ha⟩ := Option.ne_none_iff_exists'.mp ha
    rw [fetched_of_own hk ha hw]
    exact ⟨rfl, rfl⟩

theorem dmaLand_of_other (h : x.req.writer < 256 ∨ 278 ≤ x.req.writer ∨ x.req.landing ≠ none) : dmaLand s l x = s :=
  if_pos (by rw [Option.isSome_iff_ne_none]; tauto)

theorem creditLanded_of_placed (h : x.req.landing = none) : creditLanded s l x = dmaLand s l x := by
  rw [creditLanded, fetched_of_other (.inl h)]

theorem creditLanded_of_other (h : x.req.writer < 256 ∨ 278 ≤ x.req.writer ∨ x.req.landing ≠ none) : creditLanded s l x = fetched s l x :=
  dmaLand_of_other h

theorem sameDressers_creditLanded (s : State) (l : Nat) (x : Credit) : SameDressers s (creditLanded s l x) := by
  obtain ⟨-, htc⟩ := fetched_keeps s l x
  exact ((SameDressers.refl s).alike htc).dmaLand

theorem coreOf_creditEnded (s : State) (l tag : Nat) (x : Credit) :
    (coreOf (creditEnded s l tag x) l).credits = (coreOf s l).credits.filter (fun y => decide (y.tag ≠ tag)) ∧
      (coreOf (creditEnded s l tag x) l).drawers = drawerFull (coreOf s l) x := by
  rw [creditEnded, coreOf_setCore]
  exact ⟨rfl, rfl⟩

section
variable {c : LCore} {k : Nat} {d : Drawer} (hk : x.req.landing = some k) (hd : tget? c.drawers x.drawer = some d)
include hk hd

theorem drawerFull_of_used (hu : d.cs ≠ noSlot) : tget? (drawerFull c x) x.drawer = some { d with st := .full } := by
  simp only [drawerFull, hk, hd, if_neg hu, tget?_tset_same]

theorem drawerFull_of_left (hu : d.cs = noSlot) : tget? (drawerFull c x) x.drawer = none := by
  simp only [drawerFull, hk, hd, if_pos hu, tget?_tdel_same]

end

/-! ## LANDING_DRAWER_CONSUMED (R189) -/

/-- The core with a drawer back in the pool. -/
def drawerFreed (s : State) (l d : Nat) : State := setCore s l { coreOf s l with drawers := tdel (coreOf s l).drawers d }

theorem drawerRead_of_full {d : Nat} {y : Drawer} (hy : tget? (coreOf s l).drawers d = some y) (hf : y.st = .full) (hp : y.pre = none) :
    drawerRead s l d = drawerFreed s l d := by
  simp only [drawerRead, hy]
  exact if_pos ⟨hf, hp⟩

theorem drawers_drawerFreed (s : State) (l d : Nat) : (coreOf (drawerFreed s l d) l).drawers = tdel (coreOf s l).drawers d := by
  rw [drawerFreed, coreOf_setCore]

/-- Settles O19: a request that the Dresser takes is granted or waits, the first that can be granted is, an acknowledgement ends its credit once its
data has landed, and a read drawer goes back to the pool. -/
theorem creditsAndLandingDrawers : Obligations.CreditsAndLandingDrawers := by
  refine ⟨?_, fun t l s r hg hr => ?_, fun t l tag s x hx hp => ?_, fun t l d s y hy hf hp => ?_⟩
  · intro t l a s r hacc hdet hown hserves hwell hbank
    have h : TakesRequest (advance s t) l r := ⟨hown, hserves, (wellAsked_advance s t l r).trans hwell, hbank⟩
    have hexec : exec (.creditRequest t l a) s = .next (if grantsAtOnce s l r then grantCredit (advance s t) l r
        else waitCredit (requestPut (advance s t) l r) r) := by
      rw [exec_creditRequest, execCreditRequest, askCredit_of_takes h hacc hdet, creditRequest_of_takes h]
      rfl
    rw [hexec]
    by_cases hat : grantsAtOnce s l r = true
    · have hi : Issues (advance s t) (grantCredit (advance s t) l r) := (Issues.refl _).grantCredit
      rw [if_pos hat]
      refine ⟨_, rfl, hi.mem, hi.regs, fun _ _ => ⟨credits_grantCredit _ _ _, tag_grantCredit _ _ _, waitQ_grantCredit _ _ _, fun k hk => ?_⟩,
        fun hno => ?_⟩
      · have hdrawer := drawer_grantCredit (l := l) (advance s t) hk
        rwa [prefetchIp_advance] at hdrawer
      · rcases hno with hno | hno <;> simp [grantsAtOnce, hno] at hat
    · have hi : Issues (advance s t) (waitCredit (requestPut (advance s t) l r) r) := (Issues.refl _).setCore.waitCredit
      rw [if_neg hat]
      exact ⟨_, rfl, hi.mem, hi.regs, fun hg hw => absurd (by simp [grantsAtOnce, hg, hw]) hat,
        fun _ => ⟨waitQ_waitCredit _ _ _, credits_waitCredit _ _ _⟩⟩
  · have hi : Issues (advance s t) (grantCredit (requestTaken (advance s t) l r) l r) := (Issues.refl _).setCore.grantCredit
    refine ⟨grantCredit (requestTaken (advance s t) l r) l r, ?_, hi.mem, hi.regs, ?_, ?_⟩
    · rw [exec_creditGrant, execCreditGrant, creditGrant_of_first (find?_firstRequests (s := advance s t) hg hr)]
    · rw [waitQ_grantCredit, requestTaken, coreOf_setCore]
      rfl
    · rw [credits_grantCredit, creditFor_requestTaken, requestTaken, coreOf_setCore]
      rfl
  · have hsame := sameDressers_creditLanded (advance s t) l x
    obtain ⟨hcredits, hdrawers⟩ := coreOf_creditEnded (creditLanded (advance s t) l x) l tag x
    obtain ⟨hregs, -⟩ := fetched_keeps (advance s t) l x
    have hmem : (creditEnded (creditLanded (advance s t) l x) l tag x).mem = (creditLanded (advance s t) l x).mem := rfl
    have hdrawer (d : Nat) : tget? (coreOf (creditLanded (advance s t) l x) l).drawers d = tget? (coreOf s l).drawers d := by
      rw [hsame.drawers]
      rfl
    refine ⟨creditEnded (creditLanded (advance s t) l x) l tag x, ?_, ?_, fun k d hk hd hu => ?_, fun k d hk hd hu => ?_, fun hk _ _ => ?_,
      fun ho => ⟨?_, fun hno => ?_⟩, fun k a hk ha hw => ?_⟩
    · rw [exec_writeAck, execWriteAck, writeAck_of_credit (s := advance s t) hx hp]
    · rw [hcredits, hsame.credits]
      rfl
    · rw [hdrawers]
      exact drawerFull_of_used hk ((hdrawer _).trans hd) hu
    · rw [hdrawers]
      exact drawerFull_of_left hk ((hdrawer _).trans hd) hu
    · rw [hmem, creditLanded_of_placed hk]
    · exact (congrArg State.regs (creditLanded_of_other ho)).trans hregs
    · rw [hmem, creditLanded_of_other ho, fetched_of_other hno]
      rfl
    · have hl : x.req.landing ≠ none := by simp [hk]
      rw [hmem, creditLanded_of_other (.inr (.inr hl)), fetched_of_own hk ha hw]
      rfl
  · refine ⟨drawerFreed (advance s t) l d, ?_, rfl, rfl, ?_, fun e he => ?_⟩
    · rw [exec_landingDrawerConsumed, execLandingDrawerConsumed, drawerRead_of_full (s := advance s t) hy hf hp]
    · rw [drawers_drawerFreed, tget?_tdel_same]
    · rw [drawers_drawerFreed, tget?_tdel_ne _ _ _ he]
      rfl

end Sys2Proof.Proofs
end

section
/-! # O30: appends, copies on write and pins of the KV cache (R236, R239, R240, R241, R247) -/
namespace Sys2Proof.Proofs
open Sys2Proof Sys2Proof.Machine Sys2Proof.Safety Sys2Proof.Laws

variable {σ s u : State} {l k i : Nat} {c : SlotCtx} {f : InFlight} {a : Append}

/-! ## What the operations on pages leave alone (R233, R234) -/

/-- The two states differ in memory, register words and the free list alone. -/
def PageSide (s u : State) : Prop := ∃ m r fr, u = { s with mem := m, regs := r, kv := { s.kv with freed := fr } }

theorem PageSide.refl (s : State) : PageSide s s := ⟨_, _, _, rfl⟩

theorem PageSide.appends (h : PageSide s u) : u.kv.appends = s.kv.appends := by obtain ⟨_, _, _, rfl⟩ := h; rfl

theorem PageSide.seqs (h : PageSide s u) : u.kv.seqs = s.kv.seqs := by obtain ⟨_, _, _, rfl⟩ := h; rfl

theorem PageSide.nodes (h : PageSide s u) : u.kv.nodes = s.kv.nodes := by obtain ⟨_, _, _, rfl⟩ := h; rfl

theorem PageSide.ite {p : Prop} [Decidable p] {x y : State} (hx : PageSide σ x) (hy : PageSide σ y) : PageSide σ (if p then x else y) := by
  split <;> assumption

theorem PageSide.foldl {α : Type} {g : State → α → State} {xs : List α} (h : PageSide σ s)
    (hg : ∀ z x, PageSide σ z → PageSide σ (g z x)) : PageSide σ (xs.foldl g s) :=
  List.foldlRecOn xs g h fun z hz x _ => hg z x hz

theorem PageSide.setFld {o lo w v : Nat} (h : PageSide σ s) : PageSide σ (setFld s o lo w v) := by
  obtain ⟨_, _, _, rfl⟩ := h
  exact ⟨_, _, _, rfl⟩

theorem PageSide.phSet {pg o n v : Nat} (h : PageSide σ s) : PageSide σ (phSet pg o n v s) := by
  obtain ⟨_, _, _, rfl⟩ := h
  exact ⟨_, _, _, rfl⟩

theorem PageSide.withFreed {fr : List Nat} (h : PageSide σ s) : PageSide σ { s with kv := { s.kv with freed := fr } } := by
  obtain ⟨_, _, _, rfl⟩ := h
  exact ⟨_, _, _, rfl⟩

theorem PageSide.pageFree {pg : Nat} (h : PageSide σ s) : PageSide σ (pageFree s pg) := h.phSet.phSet.withFreed.setFld.setFld

theorem PageSide.unpin {pg : Nat} (h : PageSide σ s) : PageSide σ (unpin s pg) := .ite h.phSet.pageFree.setFld h.phSet

theorem PageSide.dropRef {pg : Nat} (h : PageSide σ s) : PageSide σ (dropRef s pg) :=
  .ite h.phSet (.ite h.phSet.pageFree h.phSet.phSet.setFld)

theorem PageSide.addRef {pg : Nat} (h : PageSide σ s) : PageSide σ (addRef s pg) := h.phSet

/-! ## Registers that a page's way back to the free list does not touch -/

/-- A page that becomes FREE is counted in FREE_PAGES and in its partition's PART_HELD; the registers between them stay. -/
theorem rd_pageFree_ne (s : State) (pg : Nat) {o : Nat} (hlo : 0x50020 ≤ o) (hhi : o < 0x50100) : rd (pageFree s pg) o = rd s o := by
  have hpart : 0x50100 ≤ kvPart (ph s pg 0x10 1 % 16) + 0x14 ∧ kvPart (ph s pg 0x10 1 % 16) + 0x14 < 0x100000 := by
    unfold kvPart
    omega
  simp only [pageFree]
  rw [rd_setFld_ne _ _ _ _ _ _ (canonOff_ne_low (by omega) (by decide) (by unfold kvFreePages; omega)),
    rd_setFld_ne _ _ _ _ _ _ (canonOff_ne_low (by omega) hpart.2 (by omega))]
  exact rd_of_regs rfl o

theorem rd_setDraining_ne (s : State) (v : Nat) {o : Nat} (hlo : 0x50020 < o) (hhi : o < 0x50100) :
    rd (setFld s kvDraining 0 20 v) o = rd s o :=
  rd_setFld_ne _ _ _ _ _ _ (canonOff_ne_low (by omega) (by decide) (by unfold kvDraining; omega))

theorem rd_unpin_ne (s : State) (pg : Nat) {o : Nat} (hlo : 0x50020 < o) (hhi : o < 0x50100) : rd (unpin s pg) o = rd s o := by
  unfold unpin
  dsimp only
  split
  · rw [rd_setDraining_ne _ _ hlo hhi, rd_pageFree_ne _ _ hlo.le hhi]
    exact rd_of_regs rfl o
  · exact rd_of_regs rfl o

theorem rd_dropRef_ne (s : State) (pg : Nat) {o : Nat} (hlo : 0x50020 < o) (hhi : o < 0x50100) : rd (dropRef s pg) o = rd s o := by
  unfold dropRef
  dsimp only
  split
  · exact rd_of_regs rfl o
  · split
    · rw [rd_pageFree_ne _ _ hlo.le hhi]
      exact rd_of_regs rfl o
    · rw [rd_setDraining_ne _ _ hlo hhi]
      exact rd_of_regs rfl o

/-! ## The append of an instruction (R236) -/

theorem appendOf_of_appends (h : u.kv.appends = s.kv.appends) (p n ip : Nat) : appendOf u p n ip = appendOf s p n ip := by
  rw [appendOf, appendOf, h]

/-- A change that keeps the instruction of an append changes the append that the instruction finds. -/
theorem appendOf_modAppend (s : State) (p n ip : Nat) {g : Append → Append}
    (hg : ∀ x, (g x).part = x.part ∧ (g x).ctx = x.ctx ∧ (g x).ip = x.ip) :
    appendOf (modAppend s p n ip g) p n ip = (appendOf s p n ip).map g := by
  have hof (x : Append) : (decide ((if x.part = p ∧ x.ctx = n ∧ x.ip = ip then g x else x).part = p) &&
      decide ((if x.part = p ∧ x.ctx = n ∧ x.ip = ip then g x else x).ctx = n) &&
      decide ((if x.part = p ∧ x.ctx = n ∧ x.ip = ip then g x else x).ip = ip)) =
      (decide (x.part = p) && decide (x.ctx = n) && decide (x.ip = ip)) := by
    obtain ⟨hp, hn, hip⟩ := hg x
    split
    · rw [hp, hn, hip]
    · rfl
  simp only [appendOf, modAppend, List.find?_map, Function.comp_def, hof]
  cases hx : s.kv.appends.find? (fun x => decide (x.part = p) && decide (x.ctx = n) && decide (x.ip = ip)) with
  | none => rfl
  | some x =>
    have hthis := List.find?_some hx
    simp only [Bool.and_eq_true, decide_eq_true_eq, and_assoc] at hthis
    simp only [Option.map_some, if_pos hthis]

theorem setSeq_appends (s : State) (q : Nat) (x : Seq) : (setSeq s q x).kv.appends = s.kv.appends := rfl

theorem rd_modAppend (s : State) (p n ip : Nat) (g : Append → Append) (o : Nat) : rd (modAppend s p n ip g) o = rd s o := rfl

theorem modAppend_seqs (s : State) (p n ip : Nat) (g : Append → Append) : (modAppend s p n ip g).kv.seqs = s.kv.seqs := rfl

/-- The new length of an append noted. -/
def lengthNoted (len : Nat) (x : Append) : Append := { x with newLen := some len }

/-- The copy of an append over. -/
def copyOver (x : Append) : Append := { x with copy := none }

theorem appendOf_lengthNoted (s : State) (p n ip len : Nat) :
    appendOf (modAppend s p n ip (lengthNoted len)) p n ip = (appendOf s p n ip).map (lengthNoted len) :=
  appendOf_modAppend s p n ip fun _ => ⟨rfl, rfl, rfl⟩

theorem appendOf_copyOver (s : State) (p n ip : Nat) : appendOf (modAppend s p n ip copyOver) p n ip = (appendOf s p n ip).map copyOver :=
  appendOf_modAppend s p n ip fun _ => ⟨rfl, rfl, rfl⟩

/-! ## Instructions in flight -/

theorem setFlight_keeps (s : State) (l k i : Nat) (f : InFlight) :
    (setFlight s l k i f).kv = s.kv ∧ (setFlight s l k i f).mem = s.mem ∧ (setFlight s l k i f).regs = s.regs := by
  unfold setFlight
  split <;> exact ⟨rfl, rfl, rfl⟩

theorem flightAt_setFlight (hc : slotOf s l k = some c) (hf : c.flight[i]? = some f) (g : InFlight) :
    flightAt (setFlight s l k i g) l k i = some g := by
  simp only [flightAt, setFlight, hc, slotOf_setSlot, Option.bind_some, getElem?_setNth, hf, if_true, Option.map_some]

/-! ## An append completes (R235, R236) -/

theorem appendTok_appends (p n l q hg len0 T : Nat) (takes : List Nat) (ko vo : Opnd) (s : State) (r : Nat) :
    (appendTok p n l q hg len0 T takes ko vo s r).kv.appends = s.kv.appends := by
  unfold appendTok
  split
  · rfl
  · dsimp only
    split <;> split <;> split <;> rfl

/-- The tokens of an append written, and its pins released. -/
def tokensWritten (s : State) (l : Nat) (c : SlotCtx) (f : InFlight) (a : Append) (ko vo : Opnd) : State :=
  f.pages.foldl unpin ((rangeFrom 0 ko.rows).foldl (appendTok c.part c.ctx l a.seq a.hgrp f.aux ko.rows a.takes ko vo) s)

/-- The instruction of an append holds no page any more. -/
def pagesLeft (s : State) (l k i : Nat) : State := match flightAt s l k i with
  | none => s
  | some f => setFlight s l k i { f with pages := [] }

theorem tokensWritten_appends (s : State) (l : Nat) (c : SlotCtx) (f : InFlight) (a : Append) (ko vo : Opnd) :
    (tokensWritten s l c f a ko vo).kv.appends = s.kv.appends := by
  have hrows : ((rangeFrom 0 ko.rows).foldl (appendTok c.part c.ctx l a.seq a.hgrp f.aux ko.rows a.takes ko vo) s).kv.appends =
      s.kv.appends :=
    List.foldlRecOn (motive := fun z : State => z.kv.appends = s.kv.appends) _ _ rfl
      fun z hz r _ => (appendTok_appends _ _ _ _ _ _ _ _ _ _ z r).trans hz
  exact ((PageSide.refl _).foldl fun _ _ h => h.unpin).appends.trans hrows

theorem pagesLeft_kv (s : State) (l k i : Nat) : (pagesLeft s l k i).kv = s.kv := by
  unfold pagesLeft
  split
  · rfl
  · exact (setFlight_keeps _ _ _ _ _).1

/-- An append that is the first whose instruction has its tokens at hand, whose copy is done, and whose operands may be read. -/
structure AppendReady (s : State) (l k i : Nat) (c : SlotCtx) (f : InFlight) (a : Append) (ko vo : Opnd) : Prop where
  slot : slotOf s l k = some c
  rank : c.rank = 0
  goes : alive s c.part c.ctx = true
  first : firstFlight c (fun _ f => decide (f.ext = .kvapp) && f.units.isEmpty) = some i
  flight : c.flight[i]? = some f
  append : appendOf s c.part c.ctx f.ip = some a
  key : opnd f 0 = some ko
  value : opnd f 1 = some vo
  copied : a.copy = none
  left : a.newLen = none
  permitted : firstBad s c.part false (appReads l ko ++ appReads l { vo with cols := ko.cols }) = .ok

theorem AppendReady.advance {ko vo : Opnd} (h : AppendReady s l k i c f a ko vo) (t : Time) : AppendReady (advance s t) l k i c f a ko vo :=
  { h with permitted := (firstBad_advance s t _ _ _).trans h.permitted }

/-- The state in which an append is complete, before its ranks are told. -/
def appendEnded (s : State) (l k i : Nat) (c : SlotCtx) (f : InFlight) (a : Append) (ko vo : Opnd) : State :=
  modAppend (pagesLeft (tokensWritten (touchRanges s false (appReads l ko ++ appReads l vo)) l c f a ko vo) l k i) c.part c.ctx f.ip
    (lengthNoted (f.aux + ko.rows))

theorem appendDone_of_ready {ko vo : Opnd} (h : AppendReady s l k i c f a ko vo) :
    appendDone s l k = runBoundaries (tellAll (appendEnded s l k i c f a ko { vo with cols := ko.cols }) c.part c.ctx f.ip) := by
  have hgoes : aliveOn s c.part c.ctx l = true := by rw [aliveOn, h.goes, Bool.true_or]
  simp only [appendDone, h.slot, h.rank, hgoes, h.first, h.flight, h.append, h.key, h.value, h.copied, h.left, afterReads, h.permitted,
    ne_eq, not_true_eq_false, or_self, if_false, Option.isSome_none, Bool.false_eq_true]
  rfl

theorem touchRanges_side (s : State) (wr : Bool) (rs : List (Nat × Nat)) : CoreSide s (touchRanges s wr rs) :=
  coreSide_foldl (fun s (r : Nat × Nat) => touch s wr r.1 r.2) (fun s r => touch_side s wr r.1 r.2) rs s

theorem appendOf_appendEnded (s : State) (l k i : Nat) (c : SlotCtx) (f : InFlight) (a : Append) (ko vo : Opnd) :
    appendOf (appendEnded s l k i c f a ko vo) c.part c.ctx f.ip =
      (appendOf s c.part c.ctx f.ip).map (lengthNoted (f.aux + ko.rows)) := by
  rw [appendEnded, appendOf_lengthNoted, appendOf_of_appends (s := s)]
  rw [pagesLeft_kv, tokensWritten_appends, coreSide_kv (touchRanges_side _ _ _)]

/-! ## A copy on write (R240) -/

/-- The shared page copied into the new one, which takes its place in the head group's page list. -/
def copyPut (s : State) (a : Append) (x : Seq) (src dst : Nat) : State :=
  setSeq (wrMem s (kvPage s dst) (rdMem s (kvPage s src) 0x4000)) a.seq
    { x with pages := tset x.pages a.hgrp ((tget [] x.pages a.hgrp).map (fun g => if g = src then dst else g)) }

/-- The shared page left: the copy counted, its reference and its pin given back. -/
def sourceLeft (s : State) (src : Nat) : State := unpin (dropRef (bump s 0x50024) src) src

theorem copyDone_of_copy {p n ip src dst : Nat} {x : Seq} (ha : appendOf s p n ip = some a) (hcopy : a.copy = some (src, dst))
    (hx : tget? s.kv.seqs a.seq = some x) :
    copyDone s p n ip = modAppend (sourceLeft (copyPut s a x src dst) src) p n ip copyOver := by
  simp only [copyDone, ha, hcopy, hx]
  rfl

theorem rd_copyPut (s : State) (a : Append) (x : Seq) (src dst o : Nat) : rd (copyPut s a x src dst) o = rd s o := by
  rw [copyPut]
  exact rd_of_regs ((setSeq_regs _ _ _).trans (wrMem_regs _ _ _)) o

theorem copyPut_appends (s : State) (a : Append) (x : Seq) (src dst : Nat) : (copyPut s a x src dst).kv.appends = s.kv.appends := by
  rw [copyPut, setSeq_appends, wrMem_kv]

theorem pages_copyPut (s : State) (a : Append) (x : Seq) (src dst : Nat) :
    (tget? (copyPut s a x src dst).kv.seqs a.seq).map (fun y => tget [] y.pages a.hgrp) =
      some ((tget [] x.pages a.hgrp).map (fun g => if g = src then dst else g)) := by
  simp only [copyPut, setSeq, tget?_tset_same, Option.map_some, tget_tset_same]

theorem sourceLeft_kv (s : State) (src : Nat) :
    (sourceLeft s src).kv.appends = s.kv.appends ∧ (sourceLeft s src).kv.seqs = s.kv.seqs :=
  have h : PageSide (bump s 0x50024) (sourceLeft s src) := (PageSide.refl _).dropRef.unpin
  ⟨h.appends, h.seqs⟩

theorem rd_sourceLeft (s : State) (src : Nat) : rd (sourceLeft s src) 0x50024 = rd s 0x50024 + 1 := by
  rw [sourceLeft, rd_unpin_ne _ _ (by decide) (by decide), rd_dropRef_ne _ _ (by decide) (by decide), rd_bump]

/-- The command ends the copy of the first instruction in flight that has one. -/
theorem exec_kvCopyOnWrite_of_first {t : Time} {l : Fin 256} {k : Fin 8} (hc : slotOf s l k = some c)
    (hi : firstFlight c (fun _ f => decide (f.ext = .kvapp) &&
      (match appendOf s c.part c.ctx f.ip with | none => false | some a => a.copy.isSome)) = some i) (hf : c.flight[i]? = some f) :
    exec (.kvCopyOnWrite t l k) s = .next (settle (copyDone (advance s t) c.part c.ctx f.ip) l k) := by
  have hc' : slotOf (advance s t) l k = some c := hc
  rw [exec_kvCopyOnWrite, execKvCopyOnWrite]
  simp only [hc']
  split
  · next hnone => cases hnone.symm.trans hi
  · next j hj =>
    cases hj.symm.trans hi
    rw [hf]

/-- Settles O30: an append and a copy each end in a change of the Wardrobe's record of the append, which page operations leave alone; a release
takes the page off the instruction's list before it unpins it. -/
theorem kvAppendsCopiesAndPins : Obligations.KvAppendsCopiesAndPins := by
  refine ⟨fun t l k s c i f a ko vo hc hrank hgoes hi hf ha hko hvo hcopy hleft hok => ?_,
    fun t l k s c i src dst f a x hc hi hf ha hcopy hx => ?_, fun t l k page i s c f hc hi hf hstill => ?_⟩
  · have hready : AppendReady s l k i c f a ko vo := ⟨hc, hrank, hgoes, hi, hf, ha, hko, hvo, hcopy, hleft, hok⟩
    refine ⟨appendEnded (advance s t) l k i c f a ko { vo with cols := ko.cols }, ?_, ?_⟩
    · rw [exec_kvappComplete, execKvappComplete, appendDone_of_ready (hready.advance t)]
    · rw [appendOf_appendEnded, (hready.advance t).append, Option.map_some, lengthNoted]
  · have ha' : appendOf (advance s t) c.part c.ctx f.ip = some a := ha
    obtain ⟨happ, hseqs⟩ := sourceLeft_kv (copyPut (advance s t) a x src dst) src
    refine ⟨_, exec_kvCopyOnWrite_of_first hc hi hf, ?_⟩
    rw [copyDone_of_copy (s := advance s t) ha' hcopy hx]
    refine ⟨?_, ?_, ?_⟩
    · rw [rd_modAppend, rd_sourceLeft, rd_copyPut, rd_advance]
    · rw [appendOf_copyOver, appendOf_of_appends (happ.trans (copyPut_appends _ _ _ _ _)), ha', Option.map_some, copyOver]
    · rw [modAppend_seqs, hseqs]
      exact pages_copyPut _ _ _ _ _
  · obtain ⟨-, hmem, hregs⟩ := setFlight_keeps (advance s t) l k i { f with pages := f.pages.filter (fun x => decide (x ≠ page)) }
    refine ⟨_, ?_, hmem, hregs, flightAt_setFlight (s := advance s t) hc hf _⟩
    rw [exec_kvPinRelease, execKvPinRelease]
    simp only [show slotOf (advance s t) l k = some c from hc, hi, hf, hstill, Bool.false_eq_true, if_false]

end Sys2Proof.Proofs
end

section
/-! # O31: batch boundaries, new nodes of the tree and hot copies of the KV cache (R242 to R245, R247) -/
namespace Sys2Proof.Proofs
open Sys2Proof Sys2Proof.Machine Sys2Proof.Safety Sys2Proof.Laws

variable {s u : State} {p : Nat}

/-! ## What the reading of a request ring depends on (R247, R254) -/

/-- ECC_EN, the Wardrobe's registers, and the windows of the partitions. -/
def ringOff (o : Nat) : Prop :=
  o = 0x400000 ∨ (0x50000 ≤ o ∧ o < 0x50500) ∨ (0x41000 ≤ o ∧ o < 0x42000 ∧ 0x40 ≤ o % 0x100 ∧ o % 0x100 < 0x80)

/-- The request rings and the fences before them are the same in two states. -/
structure SameRings (s u : State) : Prop where
  mem : u.mem = s.mem
  sch : u.sch = s.sch
  rd : ∀ o, ringOff o → rd u o = rd s o

theorem SameRings.trans {v : State} (h : SameRings s u) (h2 : SameRings u v) : SameRings s v :=
  ⟨h2.mem.trans h.mem, h2.sch.trans h.sch, fun o ho => (h2.rd o ho).trans (h.rd o ho)⟩

theorem ringOff_window (k : Nat) {w x : Nat} (hw : w < 8) (hx : x ≤ 4) : ringOff (partOff k + 0x40 + 8 * w + x) :=
  .inr (.inr (by unfold partOff; omega))

theorem ringOff_kvPart (hp : p < 16) {x : Nat} (hx : x < 0x40) : ringOff (kvPart p + x) :=
  .inr (.inl (by unfold kvPart; omega))

theorem SameRings.windowHas (h : SameRings s u) (k : Nat) (wr : Bool) (a : Nat) {w : Nat} (hw : w < 8) :
    windowHas u k wr a w = windowHas s k wr a w := by
  have hlo : Machine.rd u (partOff k + 0x40 + 8 * w) = Machine.rd s (partOff k + 0x40 + 8 * w) := h.rd _ (ringOff_window k hw (x := 0) (by omega))
  have hhi := h.rd _ (ringOff_window k hw (x := 4) le_rfl)
  simp only [Machine.windowHas, flag_of_rd hlo, fld_of_rd hlo, fld_of_rd hhi]

theorem SameRings.mayAccess (h : SameRings s u) (k : Nat) (wr : Bool) (a : Nat) : mayAccess u k wr a = mayAccess s k wr a := by
  have hwin : anyWindow u k wr a = anyWindow s k wr a := by
    rw [anyWindow, anyWindow, Bool.eq_iff_iff, List.any_eq_true, List.any_eq_true]
    refine exists_congr fun w => and_congr_right fun hw => ?_
    rw [h.windowHas k wr a ((mem_rangeFrom _ _ _).mp hw).2]
  have htop : memTop u = memTop s := by simp only [memTop, memTop64, flag_of_rd (h.rd 0x400000 (.inl rfl))]
  have hown (l : Nat) : ownerOf u l = ownerOf s l := by rw [ownerOf, ownerOf, h.sch]
  simp only [Machine.mayAccess, hwin, htop, hown]

theorem SameRings.checkAcc (h : SameRings s u) (k : Nat) (wr : Bool) (a n : Nat) : checkAcc u k wr a n = checkAcc s k wr a n := by
  have hblocks (m b : Nat) : checkBlocks u k wr a m b = checkBlocks s k wr a m b := by
    induction m generalizing b with
    | zero => rfl
    | succ m ih => simp only [checkBlocks, h.mayAccess, ih]
  simp only [Machine.checkAcc, hblocks]

theorem SameRings.kvRead (h : SameRings s u) (p a n : Nat) : kvRead u p a n = kvRead s p a n := by
  simp only [Machine.kvRead, h.checkAcc, rdMem, h.mem]

theorem SameRings.fld (h : SameRings s u) (hp : p < 16) {x : Nat} (hx : x < 0x40) (lo w : Nat) :
    fld u (kvPart p + x) lo w = fld s (kvPart p + x) lo w := fld_of_rd (h.rd _ (ringOff_kvPart hp hx)) lo w

theorem SameRings.rq (h : SameRings s u) (hp : p < 16) (i o n : Nat) : rq u p i o n = rq s p i o n := by
  have hbase (lo w : Nat) : Machine.fld u (kvPart p) lo w = Machine.fld s (kvPart p) lo w := h.fld hp (x := 0) (by decide) lo w
  have haddr : ringAddr u p i = ringAddr s p i := by
    simp only [ringAddr, ringLen, hbase, h.fld hp (x := 4) (by decide), h.fld hp (x := 8) (by decide)]
  rw [Machine.rq, Machine.rq, haddr, h.kvRead]

theorem SameRings.boundaryTok (h : SameRings s u) (hp : p < 16) (n : Nat) : boundaryTok u p n = boundaryTok s p n := by
  have hctl := h.rd _ (ringOff_kvPart hp (x := 8) (by decide))
  have hpages : kvPages u = kvPages s := by simp only [kvPages, fld_of_rd (h.rd 0x50008 (.inr (.inl (by decide))))]
  simp only [Machine.boundaryTok, Nat.mod_eq_of_lt hp, flag_of_rd hctl, fld_of_rd hctl, hpages]

/-! ## A read that the fences refuse is recorded (R255) -/

theorem rd_noteFence_apart (s : State) (p a : Nat) {o : Nat} (h : ∀ x ∈ [0x3C, 0x8C, 0x90], canonOff o ≠ canonOff (partOff p + x)) :
    rd (noteFence s p a) o = rd s o := by
  rw [noteFence, rd_setFld_ne _ _ _ _ _ _ (h _ (by decide)), rd_wrReg_ne _ _ _ _ (h _ (by decide)), rd_bump_ne _ (h _ (by decide))]

theorem canonOff_ne_partOff (p : Nat) {o x : Nat} (hx : x < 0x100) (hne : o ≠ partOff p + x) (ho : o < 0x100000 ∨ 0x200000 ≤ o) :
    canonOff o ≠ canonOff (partOff p + x) := by
  have hlt : partOff p + x < 0x100000 := by unfold partOff; omega
  rw [canonOff_of_lt hlt]
  rcases ho with ho | ho
  · rwa [canonOff_of_lt ho]
  · rwa [canonOff_of_ge ho]

theorem kvNote_cases (s : State) (p : Nat) (wr : Bool) (a n : Nat) :
    kvNote s p wr a n = s ∨ ∃ x, kvNote s p wr a n = noteFence s p x := by
  unfold kvNote
  split
  · exact .inr ⟨_, rfl⟩
  · exact .inl rfl

theorem rd_kvNote_apart (s : State) (p : Nat) (wr : Bool) (a n : Nat) {o : Nat} (ho : o < 0x100000 ∨ 0x200000 ≤ o)
    (h : ∀ x ∈ [0x3C, 0x8C, 0x90], o ≠ partOff p + x) : rd (kvNote s p wr a n) o = rd s o := by
  have hlt : ∀ x ∈ [0x3C, 0x8C, 0x90], x < 0x100 := by decide
  obtain he | ⟨y, he⟩ := kvNote_cases s p wr a n <;> rw [he]
  exact rd_noteFence_apart s p y fun x hx => canonOff_ne_partOff p (hlt x hx) (h x hx) ho

theorem kvNote_keeps (s : State) (p : Nat) (wr : Bool) (a n : Nat) :
    (kvNote s p wr a n).mem = s.mem ∧ (kvNote s p wr a n).sch = s.sch ∧ (kvNote s p wr a n).tc = s.tc ∧ (kvNote s p wr a n).kv = s.kv := by
  obtain he | ⟨y, he⟩ := kvNote_cases s p wr a n <;> rw [he] <;> exact ⟨rfl, rfl, rfl, rfl⟩

theorem sameRings_kvNote (s : State) (p : Nat) (wr : Bool) (a n : Nat) : SameRings s (kvNote s p wr a n) := by
  obtain ⟨hmem, hsch, -, -⟩ := kvNote_keeps s p wr a n
  refine ⟨hmem, hsch, fun o ho => rd_kvNote_apart s p wr a n ?_ fun x hx => ?_⟩
  · unfold ringOff at ho
    omega
  · have hval : x = 0x3C ∨ x = 0x8C ∨ x = 0x90 := by simpa using hx
    unfold ringOff at ho
    unfold partOff
    omega

theorem token_kvNote (s : State) (p : Nat) (wr : Bool) (a n k i : Nat) : token (kvNote s p wr a n) k i = token s k i := by
  have htok := tokOff_bounds k i
  refine rd_kvNote_apart s p wr a n (.inl (by omega)) fun x hx => ?_
  have hval : x = 0x3C ∨ x = 0x8C ∨ x = 0x90 := by simpa using hx
  unfold partOff
  omega

/-! ## A boundary with an empty ring (R247) -/

/-- No valid entry stands at the head of the partition's request ring. -/
def RingEmpty (s : State) (p : Nat) : Prop := rq s p (fld s (kvPart p + 0x0C) 0 12) 0x3F 1 % 2 = 0

theorem RingEmpty.same (h : RingEmpty s p) (hr : SameRings s u) (hp : p < 16) : RingEmpty u p := by
  rw [RingEmpty, hr.fld hp (by decide), hr.rq hp]
  exact h

theorem RingEmpty.not_valid (h : RingEmpty s p) : ¬ rq s p (fld s (kvPart p + 0x0C) 0 12) 0x3F 1 % 2 = 1 := by
  rw [RingEmpty] at h
  omega

theorem RingEmpty.ringEntries (h : RingEmpty s p) (n : Nat) : ringEntries s p n (fld s (kvPart p + 0x0C) 0 12) = [] := by
  cases n with
  | zero => rfl
  | succ n => exact if_neg h.not_valid

theorem RingEmpty.advanceHead (h : RingEmpty s p) (n : Nat) : advanceHead p n s = s := by
  cases n with
  | zero => rfl
  | succ n => exact if_neg fun hv => h.not_valid hv.1

theorem ringLen_pos (s : State) (p : Nat) : 0 < ringLen s p := Nat.two_pow_pos _

/-- The read of an empty ring ends at its first entry: the state once its outcome under the fences has been recorded. -/
def headNoted (s : State) (p : Nat) : State := kvNote s p false (ringAddr s p (fld s (kvPart p + 0x0C) 0 12)) 64

theorem RingEmpty.ringNotes (h : RingEmpty s p) : ringNotes s p = headNoted s p := by
  simp only [Machine.ringNotes, h.ringEntries, List.foldl_nil, List.length_nil, if_neg (ringLen_pos s p).ne, Nat.add_zero]
  rfl

/-- A boundary that has begun and finds no request signals the partition's done token, and is over. -/
theorem RingEmpty.applyBoundary (h : RingEmpty s p) (hp : p < 16) :
    applyBoundary s ⟨p, true, none⟩ = (none, signal (headNoted s p) p (fld s (kvPart p + 8) 8 6) 1) := by
  have hsame : SameRings s (headNoted s p) := sameRings_kvNote _ _ _ _ _
  have hempty := h.same hsame hp
  simp only [Machine.applyBoundary, h.ringNotes, Option.isSome_none, Bool.false_eq_true, if_false, hempty.ringEntries, List.filter_nil, freeAll,
    List.foldl_nil, grantAll, hempty.advanceHead, hsame.fld hp (x := 8) (by decide)]

theorem runBoundaries_single (hb : s.kv.bounds = [⟨p, true, none⟩]) {v : State}
    (ha : applyBoundary { s with kv := { s.kv with bounds := [] } } ⟨p, true, none⟩ = (none, v)) :
    runBoundaries s = v := by
  simp only [runBoundaries, hb, runBounds, ha, Bool.not_true, List.any_nil, Bool.or_self, Bool.false_eq_true, if_false, List.nil_append]

/-- The state before the Wardrobe applies a partition's only boundary. -/
def boundaryTaken (s : State) (t : Time) : State := { advance s t with kv := { s.kv with bounds := [] } }

theorem sameRings_boundaryTaken (s : State) (t : Time) : SameRings s (boundaryTaken s t) := ⟨rfl, rfl, fun _ _ => rfl⟩

theorem exec_kvBatchBoundary_of_empty (t : Time) (p : Fin 16) (hb : s.kv.bounds = [⟨p, false, none⟩]) (h : RingEmpty s p) :
    exec (.kvBatchBoundary t p) s = .next (signal (headNoted (boundaryTaken s t) p) p (fld s (kvPart p + 8) 8 6) 1) := by
  have hsame := sameRings_boundaryTaken s t
  have happly := (h.same hsame p.isLt).applyBoundary p.isLt
  rw [hsame.fld p.isLt (by decide)] at happly
  rw [exec_kvBatchBoundary, execKvBatchBoundary, kvBoundary]
  exact congrArg _ (runBoundaries_single (by simp [hb, markDue]) happly)

theorem signal_headNoted (t : Time) (p : Fin 16) (n : Nat) :
    let u := signal (headNoted (boundaryTaken s t) p) p n 1
    u.mem = s.mem ∧ u.tc = s.tc ∧ u.kv = { s.kv with bounds := if boundaryTok s p n then [⟨p, false, none⟩] else [] } ∧
      token u p n = token s p n + 1 := by
  obtain ⟨hmem, -, htc, hkv⟩ : _ ∧ _ ∧ _ ∧ (headNoted (boundaryTaken s t) p).kv = { s.kv with bounds := [] } :=
    kvNote_keeps (boundaryTaken s t) _ _ _ _
  have hsame : SameRings s (headNoted (boundaryTaken s t) p) := (sameRings_boundaryTaken s t).trans (sameRings_kvNote _ _ _ _ _)
  refine ⟨hmem, htc, ?_, ?_⟩
  · simp only [signal, hsame.boundaryTok p.isLt, hkv, Nat.mod_eq_of_lt p.isLt, List.nil_append]
  · rw [token_signal, headNoted, token_kvNote]
    rfl

/-! ## A new node of the tree (R242 to R244) -/

/-- The node of block `blk` of a sequence, whose pages are `pgs`. -/
def blockNode (x : Seq) (blk : Nat) (pgs : List Nat) : Node :=
  let ks := blockKeys (modelKey x.model) x.tokens (blk + 1)
  ⟨nth 0 ks blk, ks.take blk, x.part, (x.tokens.drop (64 * blk)).take 64, pgs, false⟩

/-- The tree with a node more, whose pages have a reference each more. -/
def nodePut (s : State) (nd : Node) : State := nd.pages.foldl addRef { s with kv := { s.kv with nodes := s.kv.nodes ++ [nd] } }

theorem nodePut_nodes (s : State) (nd : Node) : (nodePut s nd).kv.nodes = s.kv.nodes ++ [nd] :=
  ((PageSide.refl _).foldl fun _ _ h => h.addRef).nodes

theorem treeInsert_of_new {q blk : Nat} {x : Seq} {pgs : List Nat} (hx : tget? s.kv.seqs q = some x) (hins : x.insert = true) (hhot : x.hot = false)
    (hlen : 64 * blk + 64 ≤ x.prefixLen) (hpgs : blockPages x blk = some pgs) (hsealed : ∀ pg ∈ pgs, ph s pg 0 1 % 4 = 2)
    (hroom : s.kv.nodes.length < fld s 0x50014 0 17)
    (hnew : s.kv.nodes.any (fun y => decide (y.part = x.part) && decide (y.key = (blockNode x blk pgs).key)) = false) :
    treeInsert s q blk = nodePut s (blockNode x blk pgs) := by
  have hall : pgs.any (fun pg => decide (ph s pg 0 1 % 4 ≠ 2)) = false := by
    simpa only [List.any_eq_false, decide_eq_true_eq, not_not] using hsealed
  have hwhole : ¬ (¬ x.insert = true ∨ x.prefixLen < 64 * blk + 64) := by simp [hins, hlen]
  rw [treeInsert, hx]
  dsimp only
  rw [if_neg hwhole, hpgs]
  dsimp only
  rw [hall, if_neg Bool.false_ne_true]
  exact (if_neg (Bool.eq_false_iff.mp hnew)).trans ((if_neg (Nat.not_le.mpr hroom)).trans (if_neg (Bool.eq_false_iff.mp hhot)))

/-! ## Hot copies (R245) -/

/-- The hot area's places of partition `p` that a cluster has in use. -/
def placesUsed (s : State) (p c : Nat) : List Nat :=
  (s.kv.hotDone.filter (fun x => decide (x.2.1 = c) && decide (ph s x.1 0x10 1 % 16 = p))).map (fun x => x.2.2)

/-- A page no longer queued for a cluster. -/
def unqueued (s : State) (pg c : Nat) : State := { s with kv := { s.kv with hotQ := s.kv.hotQ.filter (fun x => decide (x ≠ (pg, c))) } }

/-- A page copied to a place of a core's scratchpad, whose banks the copy reaches. -/
def pageCopied (s : State) (pg l d : Nat) : State :=
  wrMem (touchRanges s true [(spadOf l + 0x1000 * d, 0x4000)]) (spadOf l + 0x1000 * d) (rdMem s (kvPage s pg) 0x4000)

/-- A hot copy recorded. -/
def copyNoted (s : State) (pg c d : Nat) : State := { s with kv := { s.kv with hotDone := s.kv.hotDone ++ [(pg, c, d)] } }

theorem copyNoted_mem (s : State) (pg c d : Nat) : (copyNoted s pg c d).mem = s.mem := rfl

theorem pageCopied_keeps (s : State) (pg l d : Nat) :
    (pageCopied s pg l d).kv = s.kv ∧ (pageCopied s pg l d).mem = (wrMem s (spadOf l + 0x1000 * d) (rdMem s (kvPage s pg) 0x4000)).mem := by
  have hside := touchRanges_side s true [(spadOf l + 0x1000 * d, 0x4000)]
  constructor
  · rw [pageCopied, wrMem_kv, coreSide_kv hside]
  · simp only [pageCopied, wrMem, coreSide_mem hside]

/-- What a copy of a page leaves in memory depends on memory and on the registers that place the page. -/
theorem mem_pageWrite (hmem : u.mem = s.mem) (hregs : u.regs = s.regs) (pg a n : Nat) :
    (wrMem u a (rdMem u (kvPage u pg) n)).mem = (wrMem s a (rdMem s (kvPage s pg) n)).mem := by
  have hpage : kvPage u pg = kvPage s pg := by simp only [kvPage, fld_of_rd (rd_of_regs hregs _)]
  simp only [wrMem, rdMem, hmem, hpage]

theorem hotCopy_of_place {pg c d l : Nat} (hq : s.kv.hotQ.find? (fun e => decide (e.2 = c)) = some (pg, c))
    (hd : (hotPlaces s (ph s pg 0x10 1 % 16)).find? (fun d => !(placesUsed s (ph s pg 0x10 1 % 16) c).contains d) = some d)
    (hl : (rangeFrom (16 * c) 16).find? (fun l => decide (ownerOf s l = some (ph s pg 0x10 1 % 16)) && !coreUnavail s l) = some l)
    (hopen : rangesOpen s kvWriter none [(spadOf l + 0x1000 * d, 0x4000)] = true) (hon : rangesOn s [(spadOf l + 0x1000 * d, 0x4000)] = true) :
    hotCopy s pg c = copyNoted (pageCopied (unqueued s pg c) pg l d) pg c d := by
  rw [hotCopy, hq]
  dsimp only
  rw [placesUsed] at hd
  rw [if_neg (not_not_intro rfl), hd, hl]
  exact if_neg (not_or_intro (not_not_intro hopen) (not_not_intro hon))

/-- Settles O31: a boundary that finds its ring empty is one signal; a node not in the tree is added with its references; a copy that finds a place
is written there and recorded. -/
theorem kvBoundariesTreeAndHotPages : Obligations.KvBoundariesTreeAndHotPages := by
  refine ⟨fun t p s => ⟨rfl, fun hb hempty => ?_⟩, ?_, ?_⟩
  · exact ⟨_, exec_kvBatchBoundary_of_empty t p hb hempty, signal_headNoted t p _⟩
  · intro t q blk s x pgs hx hins hhot hlen hpgs hsealed hroom k hnew
    refine ⟨nodePut (advance s t) (blockNode x blk pgs), blockNode x blk pgs, ?_, nodePut_nodes _ _, rfl, rfl, rfl, rfl, rfl⟩
    rw [exec_kvTreeInsert, execKvTreeInsert, treeInsert_of_new (s := advance s t) hx hins hhot hlen hpgs hsealed hroom hnew]
  · intro t page d l c s p hq hd hl hopen hon
    obtain ⟨hkv, hmem⟩ := pageCopied_keeps (unqueued (advance s t) page c) page l d
    refine ⟨copyNoted (pageCopied (unqueued (advance s t) page c) page l d) page c d, ?_, ?_, ?_⟩
    · rw [exec_kvHotCopy, execKvHotCopy, hotCopy_of_place (s := advance s t) hq hd hl hopen hon]
    · rw [copyNoted, hkv]
      rfl
    · rw [copyNoted_mem, hmem]
      exact mem_pageWrite rfl rfl _ _ _

end Sys2Proof.Proofs
end

section
/-! # O27: the boundaries of slots and epochs (R253, R259, R260, R472) -/
namespace Sys2Proof.Proofs
open Sys2Proof Sys2Proof.Machine Sys2Proof.Safety Sys2Proof.Laws

/-- Time has come to the boundary of slot `k`, which is numbered. -/
def atSlot (k : Nat) (s : State) : State := { advance s (k * slotNs) with sch := { s.sch with lastSlot := k } }

/-- Time has come to the boundary of epoch `e`, which is numbered together with its first slot. -/
def atEpoch (e : Nat) (s : State) : State :=
  { advance s (e * epochNs) with
    clk := { (advance s (e * epochNs)).clk with epochsDone := e }, sch := { s.sch with lastSlot := 16 * e, lastEpoch := e } }

theorem execSlotBoundary_within {s : State} (h : (s.sch.lastSlot + 1) % 16 ≠ 0) :
    execSlotBoundary s =
      .next (slotStart ((s.sch.lastSlot + 1) * slotNs) ((s.sch.lastSlot + 1) % 16) (atSlot (s.sch.lastSlot + 1) s)) :=
  if_neg h

/-- The main rails do not depend on the time. -/
theorem railsUp_atEpoch (e : Nat) (s : State) : railsUp (atEpoch e s) = railsUp s := rfl

/-- With the rails up the commits are made and followed; without them the epoch is counted alone. -/
theorem epochAt_eq (e : Nat) (s : State) :
    epochAt e s =
      updateStart (setFlag (if railsUp s then afterCommits e (commitEpoch e (atEpoch e s)) else atEpoch e s) 0x11C 0 false) := by
  rw [← railsUp_atEpoch e s]
  rfl

/-- Settles O27: the boundary is reached and numbered (`atSlot`, `atEpoch`), and `commitEpoch` makes the commits in the order of R472. -/
theorem boundariesRunInOrder : Obligations.BoundariesRunInOrder := by
  refine ⟨fun s h => ⟨atSlot (s.sch.lastSlot + 1) s, ?_, rfl, rfl, rfl, rfl, rfl, rfl⟩, fun s => ?_⟩
  · rw [exec_slotBoundary, execSlotBoundary_within h]
  · refine ⟨atEpoch (s.sch.lastSlot / 16 + 1) s, rfl, rfl, rfl, rfl, rfl, rfl, fun h => ?_, fun h => ?_⟩
    · rw [exec_epochBoundary, execEpochBoundary, epochAt_eq, h, if_neg Bool.false_ne_true]
    · rw [exec_epochBoundary, execEpochBoundary, epochAt_eq, h, if_pos rfl]
      rfl

end Sys2Proof.Proofs
end

section
/-! # O36: the gang: frames in order, the time exchange, a member that is lost (R273 to R276, R300, R303) -/
namespace Sys2Proof.Proofs
open Sys2Proof Sys2Proof.Machine Sys2Proof.Safety Sys2Proof.Laws

variable {σ s u : State}

/-! ## Frames (R275, R303) -/

/-- A frame that a port counted was the next in order: the number of its sender advances. -/
def inOrder (s : State) (p src seq : Nat) : State :=
  { rxCount s p 0x28 with gang := { s.gang with seqs := tset s.gang.seqs src (seq + 1) } }

theorem rd_inOrder (s : State) (p src seq : Nat) : rd (inOrder s p src seq) (portReg p 0x28) = rd s (portReg p 0x28) + 1 := rd_bump s _

theorem rd_inOrder_ne (s : State) (p src seq : Nat) {o : Nat} (h : o ≠ portReg p 0x28) (ho : o < 0x100000 ∨ 0x200000 ≤ o) :
    rd (inOrder s p src seq) o = rd s o := by
  have hp : canonOff (portReg p 0x28) = portReg p 0x28 := canonOff_of_ge (by unfold portReg; omega)
  have hc : canonOff o = o := ho.elim canonOff_of_lt canonOff_of_ge
  exact rd_bump_ne s (by rwa [hp, hc])

theorem seqs_inOrder (s : State) (p src seq : Nat) : tget 0 (inOrder s p src seq).gang.seqs src = seq + 1 := tget_tset_same _ _ _ _

/-- The registers of a port lie apart from those that the fences read. -/
theorem sameRings_inOrder (s : State) (p : Fin 8) (src seq : Nat) : SameRings s (inOrder s p src seq) := by
  refine ⟨rfl, rfl, fun o ho => rd_inOrder_ne s p src seq ?_ ?_⟩ <;> unfold ringOff at ho <;> have := p.isLt
  · unfold portReg
    omega
  · omega

theorem token_inOrder (s : State) (p src seq q k : Nat) : token (inOrder s p src seq) q k = token s q k := by
  have := tokOff_bounds q k
  exact rd_inOrder_ne s p src seq (by unfold portReg; omega) (.inl (by omega))

theorem gangMember_inOrder (s : State) (p src seq : Nat) : gangMember (inOrder s p src seq) = gangMember s :=
  fld_of_rd (rd_inOrder_ne s p src seq (by unfold portReg; omega) (.inl (by omega))) 0 3

/-- A permitted write to DRAM stores its bytes and signals the token that it names (R275). -/
theorem peerBody_write {q a : Nat} {bs : List Byte} (sig : Option Nat) (hq : q < 16) (ha : spadCore a = none)
    (hc : checkAcc s q true a bs.length = .ok) :
    (peerBody s (.write q a bs sig)).mem = (wrMem s a bs).mem ∧
      ∀ k, sig = some k → token (peerBody s (.write q a bs sig)) q k = token s q k + 1 := by
  have htaken : peerBody s (.write q a bs sig) = match sig with | none => wrMem s a bs | some k => signal (wrMem s a bs) q k 1 :=
    if_pos ⟨hq, ha, hc⟩
  rw [htaken]
  cases sig with
  | none => exact ⟨rfl, fun k h => nomatch h⟩
  | some k =>
    refine ⟨rfl, fun j hj => ?_⟩
    obtain rfl := Option.some.inj hj
    exact token_signal (wrMem s a bs) q k 1

/-- What another member says of its service is noted (R276). -/
theorem peerBody_service {m vers : Nat} {up : Bool} (h : m ≠ gangMember s) :
    tget false (peerBody s (.service m up vers)).gang.want m = up ∧ tget 0 (peerBody s (.service m up vers)).gang.vers m = vers := by
  simp only [peerBody, if_neg h, tget_tset_same, and_self]

theorem execPeerFrame_inOrder {t : Time} {p src : Fin 8} {seq : Nat} {b : PeerBody} (hp : isPeer s p = true)
    (hseq : seq = tget 0 s.gang.seqs src) :
    execPeerFrame t p src seq true b s = .next (peerBody (inOrder (advance s t) p src seq) b) := by
  have hp' : ¬¬ isPeer (advance s t) p = true := not_not.mpr hp
  have hgo : ¬(¬ true = true ∨ seq ≠ tget 0 (rxCount (advance s t) p 0x28).gang.seqs src) := by
    rintro (h | h)
    · exact h rfl
    · exact h hseq
  exact congrArg Host.Outcome.next ((if_neg hp').trans (if_neg hgo))

/-- A bad frame, or one that is not the next, is counted and not taken. -/
theorem execPeerFrame_dropped {t : Time} {p src : Fin 8} {seq : Nat} {ok : Bool} {b : PeerBody} (hp : isPeer s p = true)
    (h : ok = false ∨ seq ≠ tget 0 s.gang.seqs src) :
    execPeerFrame t p src seq ok b s = .next (rxCount (advance s t) p 0x28) := by
  have hp' : ¬¬ isPeer (advance s t) p = true := not_not.mpr hp
  have hstop : ¬ ok = true ∨ seq ≠ tget 0 (rxCount (advance s t) p 0x28).gang.seqs src := h.imp_left fun e => by simp [e]
  exact congrArg Host.Outcome.next ((if_neg hp').trans (if_pos hstop))

theorem execPeerFrame_noPeer {t : Time} {p src : Fin 8} {seq : Nat} {ok : Bool} {b : PeerBody} (hp : isPeer s p = false) :
    execPeerFrame t p src seq ok b s = .next (advance s t) := by
  have hp' : ¬ isPeer (advance s t) p = true := by
    rw [show isPeer (advance s t) p = isPeer s p from rfl, hp]
    exact Bool.false_ne_true
  exact congrArg Host.Outcome.next (if_pos hp')

/-! ## The time exchange (R274) -/

theorem sx_ofInt {i : Int} (h : i.natAbs ≤ 500000) : sx 32 (BitVec.ofInt 32 i).toNat = i := by
  rw [sx, BitVec.toNat_ofInt]
  omega

/-- A rate adjustment stays within its limits (R45). -/
theorem sx_writeAdj (s : State) (v : Int) : (sx 32 (rd (writeAdj s v) 0x110).toNat).natAbs ≤ 500000 := by
  have hv := clampInt_within (-500000) 500000 v (by norm_num)
  have habs : (clampInt (-500000) 500000 v).natAbs ≤ 500000 := by omega
  rwa [rd_writeAdj, sx_ofInt habs]

/-- A rate adjustment writes GLB_TB_ADJ and GLB_TB_STAT alone (R47). -/
theorem rd_writeAdj_ne (s : State) (v : Int) {o : Nat} (h : canonOff o ≠ canonOff 0x110) (h' : canonOff o ≠ canonOff 0x11C) :
    rd (writeAdj s v) o = rd s o := by
  unfold writeAdj
  dsimp only
  split
  · rw [rd_setFlag_ne _ _ _ h', rd_wrReg_ne _ _ _ _ h]
  · rw [rd_setFlag_ne _ _ _ h', rd_setFlag_ne _ _ _ h', rd_wrReg_ne _ _ _ _ h]

/-- The offset from member 0 has been measured: it is shown, with the flag of one above 50 ns. -/
def offsetMeasured (s : State) (off : Int) (origin : Nat) : State :=
  let high := decide (50 < off.natAbs)
  setFlag (wrReg { s with
    gang := { s.gang with
      origin := some origin
      slipped := s.gang.slipped || high
      okSince := if high then none else some (s.gang.okSince.getD s.clk.tb) } } 0x4000C (BitVec.ofInt 32 off)) 0x40000 9 high

theorem execPeerTimeExchange_member {t : Time} {p : Fin 8} (off : Int) (origin : Nat) (hp : isPeer s p = true) (hl : linkUp s p = true)
    (hm : gangMember s ≠ 0) :
    ∃ v, execPeerTimeExchange t p off origin s = .next (writeAdj (draw (offsetMeasured (advance s t) off origin)).2 v) := by
  have hgo : ¬(¬ isPeer (advance s t) p = true ∨ ¬ linkUp (advance s t) p = true ∨ gangMember (advance s t) = 0) := by
    rintro (h | h | h)
    · exact h hp
    · exact h hl
    · exact hm h
  exact ⟨_, congrArg Host.Outcome.next (if_neg hgo)⟩

/-! ## A chain that is stopped leaves queues and contexts alone (R205) -/

/-- Between `s` and `u` device memory, banks and free values may have changed: no queue of an engine, no context, and no register below the windows
of the cores. -/
structure Cuts (s u : State) : Prop where
  dma : u.dma = s.dma
  ctxs : u.ctxs = s.ctxs
  rd : ∀ o < 0x100000, rd u o = rd s o

theorem Cuts.refl (s : State) : Cuts s s := ⟨rfl, rfl, fun _ _ => rfl⟩

theorem Cuts.trans (h : Cuts σ s) (k : Cuts s u) : Cuts σ u :=
  ⟨k.dma.trans h.dma, k.ctxs.trans h.ctxs, fun o ho => (k.rd o ho).trans (h.rd o ho)⟩

theorem Cuts.foldl {α : Type} {f : State → α → State} {l : List α} (h : Cuts σ s) (hf : ∀ v i, Cuts σ v → Cuts σ (f v i)) :
    Cuts σ (l.foldl f s) := List.foldlRecOn l f h fun v hv i _ => hf v i hv

theorem touchCore_ctxs (s : State) (wr : Bool) (a len : Nat) : (touchCore s wr a len).ctxs = s.ctxs := by
  have hbank (v : State) (l b : Nat) : (bankWake (bankAbort v l b) l b wr).ctxs = v.ctxs := by
    obtain ⟨_, _, ha⟩ := bankAbort_shape v l b
    obtain ⟨_, _, hw⟩ := bankWake_shape (bankAbort v l b) l b wr
    rw [hw, ha]
  unfold touchCore
  split
  · rfl
  · dsimp only
    split
    · rfl
    · exact List.foldlRecOn (motive := fun v : State => v.ctxs = s.ctxs) _ _ rfl fun v hv b _ => (hbank v _ b).trans hv

theorem Cuts.touch {wr : Bool} {a len : Nat} (h : Cuts σ s) : Cuts σ (touch s wr a len) := by
  refine h.trans ⟨coreSide_dma (touch_side s wr a len), ?_, fun _ ho => rd_touch_low s wr a len ho⟩
  exact List.foldlRecOn (motive := fun v : State => v.ctxs = s.ctxs) _ _ rfl fun v hv r _ => (touchCore_ctxs v wr r.1 r.2).trans hv

theorem Cuts.dmaRead {p n a len : Nat} (h : Cuts σ s) : Cuts σ (dmaRead s p n a len).2 := by
  unfold Machine.dmaRead
  split
  · exact h.touch
  · exact h.trans ⟨rfl, rfl, fun _ _ => rfl⟩

theorem Cuts.cutBytes {e i a : Nat} {ls : List (Nat × Nat × Nat)} {bs : List Byte} (h : Cuts σ s) : Cuts σ (cutBytes e i ls s a bs) :=
  h.trans ⟨rfl, rfl, fun _ _ => rfl⟩

theorem Cuts.cutDesc {e p n i : Nat} {ls : List (Nat × Nat × Nat)} {d : List Byte} (h : Cuts σ s) : Cuts σ (cutDesc e p n i ls d s) := by
  unfold Machine.cutDesc
  split
  · exact h
  · refine .foldl h fun v r hv => .foldl hv.dmaRead fun w a hw => ?_
    split
    · exact hw
    · exact hw.cutBytes

theorem stopChain_cuts (s : State) (e : Nat) (c : Chain) : Cuts s (stopChain e s c) := .foldl (.refl s) fun _ _ h => h.cutDesc

/-! ## A chain that faults (R206, R270) -/

theorem queueOf_setQueue_ne (s : State) {e vc e' vc' : Nat} (q : List Chain) (h : e' = e → vc' ≠ vc) :
    queueOf (setQueue s e vc q) e' vc' = queueOf s e' vc' := by
  rw [queueOf, engineOf, setQueue, tget, tget, tget?_tset]
  split
  · next he =>
    subst he
    have hvc := h rfl
    dsimp only [Option.getD_some]
    split
    · rw [tget?_tdel_ne _ _ _ hvc]
      rfl
    · rw [tget?_tset_ne _ _ _ _ hvc]
      rfl
  · rfl

theorem chainFaulted_dma (s : State) (e vc code : Nat) (c : Chain) (r : List Chain) :
    (chainFaulted s e vc code c r).dma = (setQueue s e vc r).dma := by
  unfold chainFaulted
  split <;> rfl

/-- A chain that faults without a faulting descriptor is stopped, leaves its queue, and faults its context. -/
theorem chainFault_eq {e vc : Nat} {c : Chain} {r : List Chain} (code addr : Nat) (hq : queueOf s e vc = c :: r) :
    chainFault s e vc code addr none = contextFaulted (chainFaulted (stopChain e s c) e vc code c r) c code addr := by
  have hall : { c with started := c.started.filter (fun j => decide ((none : Option Nat) ≠ some j)) } = c := by
    simp
  simp only [chainFault, hq, hall]
  cases hc : c.core with
  | none => simp only [chainFaulted, contextFaulted, hc]
  | some l => simp only [chainFaulted, contextFaulted, hc]

/-- Between `s` and `u` contexts may have faulted: none has entered or left its state, and one that was to be torn down still is. -/
structure Falls (s u : State) : Prop where
  st : ∀ p n, (ctxOf u p n).st = (ctxOf s p n).st
  dying : ∀ p n, (ctxOf s p n).dying ≠ none → (ctxOf u p n).dying ≠ none

theorem Falls.of_ctxs (h : u.ctxs = s.ctxs) : Falls s u := by
  have hc (p n : Nat) : ctxOf u p n = ctxOf s p n := by rw [ctxOf, ctxOf, h]
  exact ⟨fun p n => by rw [hc], fun p n hd => by rwa [hc]⟩

theorem Falls.trans (h : Falls σ s) (k : Falls s u) : Falls σ u :=
  ⟨fun p n => (k.st p n).trans (h.st p n), fun p n hd => k.dying p n (h.dying p n hd)⟩

theorem raise_falls (s : State) (p n l code : Nat) : Falls s (raise s p n l code) := by
  unfold raise
  extract_lets c s1 c1
  have hset : Falls s (cancelPromises (setCtx s1 p n c1) l p n) := by
    have hctxs : s1.ctxs = s.ctxs := by
      unfold s1 recordTcFault
      split <;> rfl
    refine .trans ?_ (.of_ctxs (cancelPromises_ctxs _ l p n))
    have hin (q k : Nat) : ctxOf (setCtx s1 p n c1) q k = if ctxKey q k = ctxKey p n then c1 else ctxOf s q k := by
      rw [ctxOf_setCtx_cases, ctxOf, ctxOf, hctxs]
    have hkey {q k : Nat} (e : ctxKey q k = ctxKey p n) : ctxOf s q k = c := by rw [ctxOf, e]; rfl
    refine ⟨fun q k => ?_, fun q k hd => ?_⟩ <;> rw [hin] <;> split
    · next e => rw [hkey e]
    · rfl
    · next e =>
      rw [hkey e] at hd
      simpa [c1, Option.isSome_iff_ne_none.mpr hd] using hd
    · exact hd
  split
  · exact .of_ctxs rfl
  · exact .of_ctxs rfl
  · exact hset

theorem contextFaulted_falls (s : State) (c : Chain) (code addr : Nat) : Falls s (contextFaulted s c code addr) := by
  have hnote : Falls s (if code = fFence then noteFence s c.part addr else s) := .of_ctxs (by split <;> rfl)
  unfold contextFaulted
  dsimp only
  split
  · exact hnote
  · exact hnote.trans (raise_falls _ _ _ _ _)

theorem rd_chainFaulted_gang (s : State) (e vc code : Nat) (c : Chain) (r : List Chain) :
    rd (chainFaulted s e vc code c r) 0x40008 = rd s 0x40008 := by
  have hne : canonOff 0x40008 ≠ canonOff (dmaReg e 0x10) := by
    have hge : 0x80000 ≤ dmaReg e 0x10 := by unfold dmaReg; omega
    by_cases h : dmaReg e 0x10 < 0x100000
    · exact canonOff_ne_low (by norm_num) h (by omega)
    · exact canonOff_ne_window (by norm_num) (by omega)
  unfold chainFaulted
  split
  · rfl
  · exact rd_wrReg_ne (setQueue s e vc r) _ _ _ hne

theorem rd_noteFence_gang (s : State) (p a : Nat) : rd (noteFence s p a) 0x40008 = rd s 0x40008 := by
  have hlt : ∀ x ∈ [0x3C, 0x8C, 0x90], x < 0x100 := by decide
  exact rd_noteFence_apart s p a fun x hx => canonOff_ne_partOff p (hlt x hx) (by unfold partOff; omega) (.inl (by norm_num))

theorem rd_contextFaulted_gang (s : State) (c : Chain) (code addr : Nat) : rd (contextFaulted s c code addr) 0x40008 = rd s 0x40008 := by
  have hnote : rd (if code = fFence then noteFence s c.part addr else s) 0x40008 = rd s 0x40008 := by
    split
    · exact rd_noteFence_gang s _ _
    · rfl
  unfold contextFaulted
  dsimp only
  split
  · exact hnote
  · exact (rd_raise_low _ _ _ _ _ (by norm_num)).trans hnote

/-! ## A member that cannot be reached (R275) -/

/-- Whether a chain names a member depends on the state through the gang's configuration alone. -/
theorem chainTo_of_rd (h : rd u 0x40008 = rd s 0x40008) (m : Nat) (c : Chain) : chainTo u m c = chainTo s m c := by
  have hp (a : Nat) : peerOf u a = peerOf s a := by rw [peerOf, peerOf, gangSize, gangSize, fld_of_rd h]
  simp only [chainTo, hp]

/-- Between `s` and `u` chains that name member `m` have faulted, no others. -/
structure Loses (m : Nat) (s u : State) : Prop where
  gang : rd u 0x40008 = rd s 0x40008
  kept : ∀ e vc, ∀ c ∈ queueOf s e vc, chainTo s m c = false → c ∈ queueOf u e vc
  old : ∀ e vc, ∀ c ∈ queueOf u e vc, c ∈ queueOf s e vc
  falls : Falls s u
  gone : ∀ e vc, ∀ c ∈ queueOf s e vc, c ∉ queueOf u e vc → ∀ l, c.core = some l → (ctxOf s c.part c.ctx).st = .resident →
    (ctxOf u c.part c.ctx).dying ≠ none

/-- An update of no register, no queue and no context. -/
theorem Loses.alike {m : Nat} (hr : u.regs = s.regs) (hd : u.dma = s.dma) (hc : u.ctxs = s.ctxs) : Loses m s u := by
  have hq := queueOf_of_dma hd
  refine ⟨rd_of_regs hr _, fun e vc c h _ => ?_, fun e vc c h => ?_, .of_ctxs hc, fun e vc c h hn => absurd ?_ hn⟩
  · rwa [hq]
  · rwa [← hq]
  · rwa [hq]

theorem Loses.trans {m : Nat} (h : Loses m σ s) (k : Loses m s u) : Loses m σ u where
  gang := k.gang.trans h.gang
  kept e vc c hc hm := k.kept e vc c (h.kept e vc c hc hm) ((chainTo_of_rd h.gang m c).trans hm)
  old e vc c hc := h.old e vc c (k.old e vc c hc)
  falls := h.falls.trans k.falls
  gone e vc c hc hn l hl hr := by
    by_cases hs : c ∈ queueOf s e vc
    · exact k.gone e vc c hs hn l hl ((h.falls.st _ _).trans hr)
    · exact k.falls.dying _ _ (h.gone e vc c hc hs l hl hr)

/-- The chains of a queue that are not `c`. -/
def othersThan (s : State) (e vc : Nat) (c : Chain) : List Chain := (queueOf s e vc).filter (fun x => decide (x ≠ c))

theorem mem_othersThan {e vc : Nat} {c x : Chain} : x ∈ othersThan s e vc c ↔ x ∈ queueOf s e vc ∧ x ≠ c := by
  rw [othersThan, List.mem_filter, decide_eq_true_iff]

/-- A chain of a queue faults; its equals leave the queue with it. -/
def loseChain (s : State) (e vc : Nat) (c : Chain) : State :=
  chainFault (setQueue s e vc (c :: othersThan s e vc c)) e vc fPeerLost 0 none

/-- The chain is stopped and has left its queue. -/
def chainLost (s : State) (e vc : Nat) (c : Chain) : State :=
  chainFaulted (stopChain e (setQueue s e vc (c :: othersThan s e vc c)) c) e vc fPeerLost c (othersThan s e vc c)

theorem loseChain_eq (s : State) (e vc : Nat) (c : Chain) :
    loseChain s e vc c = contextFaulted (chainLost s e vc c) c fPeerLost 0 := chainFault_eq _ _ (queueOf_setQueue s e vc _)

theorem chainLost_ctxs (s : State) (e vc : Nat) (c : Chain) : (chainLost s e vc c).ctxs = s.ctxs :=
  (chainFaulted_keeps _ _ _ _ _ _).2.2.trans (stopChain_cuts (setQueue s e vc _) e c).ctxs

theorem rd_loseChain_gang (s : State) (e vc : Nat) (c : Chain) : rd (loseChain s e vc c) 0x40008 = rd s 0x40008 := by
  rw [loseChain_eq, rd_contextFaulted_gang, chainLost, rd_chainFaulted_gang, (stopChain_cuts _ e c).rd _ (by norm_num)]
  rfl

theorem queueOf_loseChain_same (s : State) (e vc : Nat) (c : Chain) : queueOf (loseChain s e vc c) e vc = othersThan s e vc c := by
  rw [loseChain_eq, queueOf_of_dma (coreSide_dma (contextFaulted_side _ _ _ _))]
  exact (chainFaulted_keeps _ _ _ _ _ _).1

theorem queueOf_loseChain_ne (s : State) {e vc e' vc' : Nat} (c : Chain) (h : e' = e → vc' ≠ vc) :
    queueOf (loseChain s e vc c) e' vc' = queueOf s e' vc' := by
  rw [loseChain_eq, queueOf_of_dma (coreSide_dma (contextFaulted_side _ _ _ _)), chainLost, queueOf_of_dma (chainFaulted_dma _ _ _ _ _ _),
    queueOf_setQueue_ne _ _ h, queueOf_of_dma (stopChain_cuts _ _ _).dma, queueOf_setQueue_ne _ _ h]

/-- Of every queue the chains other than the lost one stay, and no chain is new. -/
theorem mem_queueOf_loseChain {e vc e' vc' : Nat} {c x : Chain} :
    (x ∈ queueOf s e' vc' → x ≠ c → x ∈ queueOf (loseChain s e vc c) e' vc') ∧
      (x ∈ queueOf (loseChain s e vc c) e' vc' → x ∈ queueOf s e' vc') := by
  by_cases h : e' = e ∧ vc' = vc
  · obtain ⟨rfl, rfl⟩ := h
    rw [queueOf_loseChain_same, mem_othersThan]
    exact ⟨fun hx hne => ⟨hx, hne⟩, And.left⟩
  · rw [queueOf_loseChain_ne s c fun he hv => h ⟨he, hv⟩]
    exact ⟨fun hx _ => hx, id⟩

theorem loseChain_loses {m e vc : Nat} {c : Chain} (hc : chainTo s m c = true) : Loses m s (loseChain s e vc c) := by
  refine ⟨rd_loseChain_gang s e vc c, fun e' vc' x hx hm => ?_, fun e' vc' x => mem_queueOf_loseChain.2, ?_, fun e' vc' x hx hn l hl hr => ?_⟩
  · refine mem_queueOf_loseChain.1 hx ?_
    rintro rfl
    rw [hc] at hm
    cases hm
  · rw [loseChain_eq]
    exact (Falls.of_ctxs (chainLost_ctxs s e vc c)).trans (contextFaulted_falls _ _ _ _)
  · obtain rfl : x = c := by_contra fun hne => hn (mem_queueOf_loseChain.1 hx hne)
    rw [loseChain_eq]
    refine dying_contextFaulted _ _ hl ?_
    rwa [ctxOf, chainLost_ctxs]

theorem loseChains_zero (m e vc : Nat) (s : State) : loseChains m e vc 0 s = s := rfl

theorem loseChains_none {m e vc : Nat} (k : Nat) (h : (queueOf s e vc).find? (chainTo s m) = none) : loseChains m e vc k s = s := by
  cases k with
  | zero => rfl
  | succ k => simp only [loseChains, h]

theorem loseChains_some {m e vc k : Nat} {c : Chain} (h : (queueOf s e vc).find? (chainTo s m) = some c) :
    loseChains m e vc (k + 1) s = loseChains m e vc k (loseChain s e vc c) := by
  simp only [loseChains, h]
  rfl

theorem loseChains_loses (m e vc k : Nat) (s : State) : Loses m s (loseChains m e vc k s) := by
  induction k generalizing s with
  | zero => exact .alike rfl rfl rfl
  | succ k ih =>
    cases h : (queueOf s e vc).find? (chainTo s m) with
    | none => rw [loseChains_none _ h]; exact .alike rfl rfl rfl
    | some c =>
      rw [loseChains_some h]
      exact (loseChain_loses (List.find?_some h)).trans (ih _)

/-- No chain of the queue names the member. -/
def QueueClear (m : Nat) (s : State) (e vc : Nat) : Prop := ∀ c ∈ queueOf s e vc, chainTo s m c = false

theorem Loses.queueClear {m e vc : Nat} (h : Loses m s u) (hs : QueueClear m s e vc) : QueueClear m u e vc :=
  fun c hc => (chainTo_of_rd h.gang m c).trans (hs c (h.old e vc c hc))

/-- Each fault shortens the queue, so as many as it is long clear it. -/
theorem loseChains_queueClear {m e vc k : Nat} (hk : (queueOf s e vc).length ≤ k) : QueueClear m (loseChains m e vc k s) e vc := by
  induction k generalizing s with
  | zero =>
    intro c hc
    rw [loseChains_zero, List.length_eq_zero_iff.mp (Nat.le_zero.mp hk)] at hc
    cases hc
  | succ k ih =>
    cases h : (queueOf s e vc).find? (chainTo s m) with
    | none =>
      rw [loseChains_none _ h]
      exact fun c hc => by simpa using List.find?_eq_none.mp h c hc
    | some c =>
      have hshort : (othersThan s e vc c).length < (queueOf s e vc).length :=
        List.length_filter_lt_length_iff_exists.mpr ⟨c, List.mem_of_find?_eq_some h, by simp⟩
      rw [loseChains_some h]
      refine ih ?_
      rw [queueOf_loseChain_same]
      omega

/-- Every chain of one queue that names the member faults. -/
def clearQueue (m : Nat) (s : State) (x : Nat × Nat) : State := loseChains m x.1 x.2 (queueOf s x.1 x.2).length s

theorem clearQueues_loses (m : Nat) (l : List (Nat × Nat)) (s : State) : Loses m s (l.foldl (clearQueue m) s) :=
  List.foldlRecOn (motive := Loses m s) l _ (.alike rfl rfl rfl) fun _ h x _ => h.trans (loseChains_loses m x.1 x.2 _ _)

theorem clearQueues_queueClear {m : Nat} {l : List (Nat × Nat)} {x : Nat × Nat} (hx : x ∈ l) (s : State) :
    QueueClear m (l.foldl (clearQueue m) s) x.1 x.2 := by
  induction l generalizing s with
  | nil => cases hx
  | cons y l ih =>
    obtain rfl | hx := List.mem_cons.mp hx
    · exact (clearQueues_loses m l _).queueClear (loseChains_queueClear le_rfl)
    · exact ih hx _

theorem mem_of_tget? {α : Type} {t : Tab α} {k : Nat} {v : α} (h : tget? t k = some v) : (k, v) ∈ t := by
  induction t with
  | nil => cases h
  | cons e t ih =>
    obtain ⟨a, w⟩ := e
    rw [tget?] at h
    split at h
    · next ha =>
      obtain rfl := Option.some.inj h
      exact ha ▸ List.mem_cons_self
    · exact List.mem_cons_of_mem _ (ih h)

/-- The queues of the engines. -/
def queuesOf (s : State) : List (Nat × Nat) := (s.dma.map (fun e => e.2.q.map (fun v => (e.1, v.1)))).flatten

/-- A chain waits in one of the queues that its engine holds. -/
theorem mem_queuesOf {e vc : Nat} {c : Chain} (h : c ∈ queueOf s e vc) : (e, vc) ∈ queuesOf s := by
  rw [queueOf, engineOf, tget, tget] at h
  cases he : tget? s.dma e with
  | none => rw [he] at h; cases h
  | some g =>
    rw [he, Option.getD_some] at h
    cases hv : tget? g.q vc with
    | none => rw [hv] at h; cases h
    | some q => exact List.mem_flatten_of_mem (List.mem_map_of_mem (mem_of_tget? he)) (List.mem_map_of_mem (mem_of_tget? hv))

theorem execPeerUnreachable_other {t : Time} {m : Fin 8} (h : m.val ≠ gangMember s) (h' : m.val < gangSize s) :
    execPeerUnreachable t m s = .next ((queuesOf s).foldl (clearQueue m) (advance s t)) := by
  have hgo : ¬(m.val = gangMember (advance s t) ∨ gangSize (advance s t) ≤ m.val) := by
    rintro (he | he)
    · exact h he
    · exact Nat.not_le.mpr h' he
  exact congrArg Host.Outcome.next (if_neg hgo)

/-- Settles O36: a frame in order is counted and taken, another is counted or not even that; the exchange shows the offset and limits the rate; and a
lost member faults its chains queue by queue (`Loses`), each queue as often as it is long. -/
theorem gangFramesTimeAndLoss : Obligations.GangFramesTimeAndLoss := by
  refine ⟨fun t p src seq b s hp hseq => ?_, fun t p src seq ok b s hp h => ?_, fun t p src seq ok b s hp => ?_,
    fun t p off origin s hp hl hm => ?_, fun t m s hm hs => ?_⟩
  · have hmember : gangMember (inOrder (advance s t) p src seq) = gangMember s := gangMember_inOrder _ _ _ _
    refine ⟨inOrder (advance s t) p src seq, ?_, seqs_inOrder _ _ _ _, rd_inOrder _ _ _ _, rfl, ?_, ?_, ?_⟩
    · rw [exec_peerFrame, execPeerFrame_inOrder hp hseq]
    · rintro q a bs sig rfl hq ha hc
      have hc' : checkAcc (inOrder (advance s t) p src seq) q true a bs.length = .ok := by
        rw [(sameRings_inOrder _ _ _ _).checkAcc, checkAcc_advance, hc]
      obtain ⟨hmem, htok⟩ := peerBody_write sig hq ha hc'
      exact ⟨hmem, fun k hk => (htok k hk).trans (by rw [token_inOrder]; rfl)⟩
    · rintro e vc a rfl
      rfl
    · rintro m up vers rfl hne
      exact peerBody_service (hmember ▸ hne)
  · exact ⟨rxCount (advance s t) p 0x28, by rw [exec_peerFrame, execPeerFrame_dropped hp h], rd_bump _ _, rfl⟩
  · rw [exec_peerFrame, execPeerFrame_noPeer hp]
  · obtain ⟨v, hv⟩ := execPeerTimeExchange_member (t := t) off origin hp hl hm
    have hshape := (regSide_writeAdj (draw (offsetMeasured (advance s t) off origin)).2 v).eq
    refine ⟨_, (exec_peerTimeExchange _ _ _ _ _).trans hv, ?_, ?_, sx_writeAdj _ _, ?_, ?_⟩
    · rw [rd_writeAdj_ne _ _ (by decide) (by decide)]
      exact (rd_setFlag_ne _ _ _ (by decide)).trans (rd_wrReg_same _ _ _)
    · rw [flag_of_rd (rd_writeAdj_ne _ _ (by decide) (by decide))]
      exact flag_setFlag_same _ _ (by norm_num) _
    · rw [hshape]
      rfl
    · rw [hshape]
      rfl
  · have hl : Loses m s ((queuesOf s).foldl (clearQueue m) (advance s t)) :=
      (Loses.alike (s := s) (u := advance s t) rfl rfl rfl).trans (clearQueues_loses m (queuesOf s) (advance s t))
    have hclear (e vc : Nat) : QueueClear m ((queuesOf s).foldl (clearQueue m) (advance s t)) e vc :=
      fun c hc => clearQueues_queueClear (mem_queuesOf (hl.old e vc c hc)) _ c hc
    refine ⟨_, (exec_peerUnreachable _ _ _).trans (execPeerUnreachable_other hm hs), fun e vc =>
      ⟨fun c hc => (chainTo_of_rd hl.gang m c).symm.trans (hclear e vc c hc), fun c hc => ⟨hl.kept e vc c hc, fun hto l hcore hr => ?_⟩⟩⟩
    refine hl.gone e vc c hc (fun hin => ?_) l hcore hr
    have hno : chainTo s m c = false := (chainTo_of_rd hl.gang m c).symm.trans (hclear e vc c hin)
    rw [hto] at hno
    cases hno

end Sys2Proof.Proofs
end

section
/-! # O28: a partition reset and a batch boundary of a partition that the module does not have (R247, R271) -/
namespace Sys2Proof.Proofs
open Sys2Proof Sys2Proof.Machine Sys2Proof.Safety Sys2Proof.Laws

/-- The number of a partition, beyond the 16 of the module, whose tokens would stand where those of partition 1 stand. -/
def strayPart : Nat := 17

theorem tokOff_strayPart (n : Nat) : tokOff strayPart n = tokOff 1 n := rfl

/-- A batch boundary of that partition that the Wardrobe has begun and not yet applied. -/
def strayBoundary : State := { State.reset with kv := { Kv.reset with bounds := [⟨strayPart, true, none⟩] } }

/-- The reset of partition 1 drops the boundaries of that partition, sets its tokens to 0, and then applies the boundaries that are left (R271): the
signal that ends the stray one (R247) reaches token 0 of partition 1. -/
theorem token_partReset_strayBoundary : token (partReset (advance strayBoundary 0) 1) 1 0 = 1 := by
  decide +kernel

/-- Refutes O28: its clause on a partition reset takes a state with boundaries of any partition number, and the reset ends with a token of the
partition at 1 where a boundary left over is one of `strayPart`. -/
theorem not_jobsEndContextsFallPartitionsReset : ¬ Obligations.JobsEndContextsFallPartitionsReset := by
  rintro ⟨-, -, hreset⟩
  obtain ⟨u, hu, -, htokens, -⟩ := hreset 0 1 strayBoundary
  rw [exec_partitionReset] at hu
  have hu' : partReset (advance strayBoundary 0) 1 = u := Host.Outcome.next.inj hu
  have hone : token u 1 0 = 1 := hu' ▸ token_partReset_strayBoundary
  exact absurd (hone.symm.trans (htokens 0 (by norm_num))) (by decide)

end Sys2Proof.Proofs
end

section
/-! # Camera ingest: streams, notice rings and receive buffers (R302, R326, R327) -/
namespace Sys2Proof.Proofs
open Sys2Proof Sys2Proof.Machine Sys2Proof.Safety Sys2Proof.Laws

/-! ## Reading what was put -/

@[simp] theorem strmOf_setStrm (s : State) (n : Nat) (v : Strm) : strmOf (setStrm s n v) n = v := tget_tset_same _ _ _ _

@[simp] theorem nringOf_setNring (s : State) (k : Nat) (v : Ring) : nringOf (setNring s k v) k = v := tget_tset_same _ _ _ _

/-! ## The packets that leave a receive buffer (R302) -/

/-- A packet that is written to its ring changes device memory alone. -/
theorem ringPut_shape (s : State) (x : RxWait) : ∃ m, ringPut s x = { s with mem := m } := by
  unfold ringPut
  split
  · exact ⟨_, rfl⟩
  · exact ⟨_, rfl⟩

theorem foldl_ringPut_shape (l : List RxWait) (s : State) : ∃ m, l.foldl ringPut s = { s with mem := m } :=
  List.foldlRecOn (motive := fun u => ∃ m, u = { s with mem := m }) l ringPut ⟨s.mem, rfl⟩ fun u hu x _ => by
    obtain ⟨m, rfl⟩ := hu
    obtain ⟨m', h⟩ := ringPut_shape { s with mem := m } x
    exact ⟨m', h⟩

theorem ringPut_advance (s : State) (t : Time) (x : RxWait) : ringPut (advance s t) x = advance (ringPut s x) t := by
  have hs : strmOf (advance s t) x.stream = strmOf s x.stream := rfl
  unfold ringPut
  rw [hs]
  split
  · rfl
  · rfl

theorem foldl_ringPut_advance (t : Time) (l : List RxWait) : ∀ s : State, l.foldl ringPut (advance s t) = advance (l.foldl ringPut s) t := by
  induction l with
  | nil => exact fun _ => rfl
  | cons x l ih => exact fun s => by rw [List.foldl_cons, ringPut_advance, ih]; rfl

/-- What a flush leaves: device memory, and the packets of the port that wait for other streams. -/
theorem rxFlush_shape (s : State) (n : Nat) : ∃ m rx, rxFlush s n = { s with mem := m, ing := { s.ing with rx := rx } } := by
  unfold rxFlush
  dsimp only
  obtain ⟨m, h⟩ := foldl_ringPut_shape ((rxOf s (fld s (entReg n 0) 24 3)).filter (fun x => decide (x.stream = n))) s
  rw [h]
  exact ⟨_, _, rfl⟩

theorem rxFlush_mem_advance (s : State) (t : Time) (n : Nat) : (rxFlush (advance s t) n).mem = (rxFlush s n).mem := by
  unfold rxFlush
  dsimp only
  rw [foldl_ringPut_advance]
  rfl

theorem rxFlush_regs (s : State) (n : Nat) : (rxFlush s n).regs = s.regs := by
  obtain ⟨_, _, h⟩ := rxFlush_shape s n
  rw [h]

theorem strmOf_rxFlush (s : State) (n k : Nat) : strmOf (rxFlush s n) k = strmOf s k := by
  obtain ⟨_, _, h⟩ := rxFlush_shape s n
  rw [h]
  rfl

theorem rxMove_regs (s : State) (p k : Nat) : (rxMove s p k).regs = s.regs := by
  unfold rxMove
  obtain ⟨m, h⟩ := foldl_ringPut_shape ((rxOf s p).take k) s
  rw [h]
  rfl

end Sys2Proof.Proofs
end

section
/-! # Camera ingest: the status words that the work on a stream leaves alone (R315, R317 to R320, R326, R329, R331) -/
namespace Sys2Proof.Proofs
open Sys2Proof Sys2Proof.Machine Sys2Proof.Safety Sys2Proof.Laws

variable {s : State} {n o : Nat}

/-- A word of the status registers of ingest or above, other than the words `xs` of stream `n`. -/
def Apart (n : Nat) (xs : List Nat) (o : Nat) : Prop := 0x280000 ≤ o ∧ ∀ x ∈ xs, o ≠ strReg n x

/-- LAST_ERR, the access units passed over, and the notices missed: what the end of an access unit, and RESYNC, may write. -/
def endWords : List Nat := [0, 0x28, 0x34]

/-- The words that the delivery of a packet may write: those, the frame counter and the access units dropped. -/
def deliveryWords : List Nat := endWords ++ [4, 0x24]

theorem Apart.ending (h : Apart n deliveryWords o) : Apart n endWords o := ⟨h.1, fun x hx => h.2 x (List.mem_append_left _ hx)⟩

/-- Another word of the same stream is apart from them. -/
theorem apart_strReg (n : Nat) {x : Nat} {xs : List Nat} (h : x ∉ xs) : Apart n xs (strReg n x) :=
  ⟨by unfold strReg; omega, fun y hy e => h (by rwa [show x = y by unfold strReg at e; omega])⟩

theorem Apart.ne_word {xs : List Nat} {x : Nat} (h : Apart n xs o) (hx : x ∈ xs) : canonOff o ≠ canonOff (strReg n x) := by
  have ho := h.1
  exact canonOff_ne (by omega) (by unfold strReg; omega) (h.2 x hx)

theorem Apart.ne_token {xs : List Nat} (h : Apart n xs o) (k i : Nat) : canonOff o ≠ canonOff (tokOff k i) := by
  have ho := h.1
  have := tokOff_bounds k i
  exact (canonOff_ne_window (by omega) (by omega)).symm

theorem Apart.ne_noticeReg {xs : List Nat} {k : Nat} (h : Apart n xs o) (hk : k ≤ 16) : canonOff o ≠ canonOff (noticeReg k 0x1C) := by
  have ho := h.1
  exact canonOff_ne (by omega) (by unfold noticeReg; omega) (by unfold noticeReg; omega)

@[simp] theorem rd_setStrm (s : State) (n : Nat) (v : Strm) (o : Nat) : rd (setStrm s n v) o = rd s o := rfl

@[simp] theorem rd_rxPut (s : State) (n : Nat) (bs : List Byte) (o : Nat) : rd (rxPut s n bs) o = rd s o := rfl

/-- A word that both branches leave alike. -/
theorem rd_ite {c : Prop} [Decidable c] {x y : State} {w : Word} (hx : rd x o = w) (hy : rd y o = w) : rd (if c then x else y) o = w := by
  split
  · exact hx
  · exact hy

/-! ## Errors, notices and the end of a stream -/

theorem rd_strErr (h : Apart n endWords o) (s : State) (code : Nat) : rd (strErr s n code) o = rd s o :=
  rd_setFld_ne s _ _ _ _ _ (h.ne_word (x := 0) (by decide))

theorem rd_notify (h : Apart n endWords o) {k : Nat} (hk : k ≤ 16) (ctr : Nat) (rec64 : List Byte) (bi : Option Nat) (s : State) :
    rd (notify n ctr rec64 bi s k) o = rd s o := by
  have hmissed : rd (bump s (strReg n 0x34)) o = rd s o := rd_bump_ne s (h.ne_word (by decide))
  unfold notify
  dsimp only
  refine rd_ite (rd_ite hmissed ((rd_bump_ne _ (h.ne_noticeReg hk)).trans hmissed))
    (rd_ite ?_ ((rd_signal_ne _ _ _ _ (h.ne_token _ _)).trans ?_))
  · cases bi <;> rfl
  · cases bi <;> rfl

theorem le_of_mem_targetsOf {k : Nat} (h : k ∈ targetsOf s n) : k ≤ 16 := by
  obtain ⟨c, hc, rfl⟩ := List.mem_map.mp h
  exact of_decide_eq_true (Bool.and_eq_true_iff.mp (List.mem_filter.mp hc).2).2

theorem rd_notifyAll (h : Apart n endWords o) (s : State) (ctr : Nat) (rec64 : List Byte) (bi : Option Nat) :
    rd (notifyAll s n ctr rec64 bi) o = rd s o :=
  rd_foldl_of_untouched s fun v _ hk => rd_notify h (le_of_mem_targetsOf hk) ctr rec64 bi v

theorem rd_endStream (h : Apart n endWords o) (s : State) : rd (endStream s n) o = rd s o :=
  (rd_notifyAll h _ _ _ _).trans (rd_of_regs (rxFlush_regs _ n) o)

theorem rd_endCheck (h : Apart n endWords o) (s : State) : rd (endCheck s n) o = rd s o := rd_ite (rd_endStream h s) rfl

theorem rd_resync (h : Apart n endWords o) (s : State) (ctr : Nat) : rd (resync s n ctr) o = rd s o :=
  rd_ite rfl (rd_bumpBy_ne _ _ (h.ne_word (x := 0x28) (by decide)))

/-! ## An access unit is dropped -/

/-- Once the drop is counted, only the words of an end are written. -/
theorem rd_dropAu_counted (h : Apart n endWords o) (s : State) (ctr code : Nat) (into : Bool) :
    rd (dropAu s n ctr code into) o = rd (bump s (strReg n 0x24)) o := by
  unfold dropAu
  dsimp only
  refine (rd_endCheck h _).trans ?_
  have herr (v : State) : rd (if code = 0 then v else strErr v n code) o = rd v o := rd_ite rfl (rd_strErr h v code)
  exact rd_ite ((rd_resync h _ ctr).trans (herr _)) (herr _)

theorem rd_dropAu (h : Apart n deliveryWords o) (s : State) (ctr code : Nat) (into : Bool) : rd (dropAu s n ctr code into) o = rd s o :=
  (rd_dropAu_counted h.ending s ctr code into).trans (rd_bump_ne s (h.ne_word (by decide)))

/-- Every drop counts (R331). -/
theorem rd_dropAu_drops (s : State) (n ctr code : Nat) (into : Bool) :
    rd (dropAu s n ctr code into) (strReg n 0x24) = rd s (strReg n 0x24) + 1 :=
  (rd_dropAu_counted (apart_strReg n (by decide)) s ctr code into).trans (rd_bump s _)

/-! ## A packet is delivered -/

theorem rd_takeBuf (h : Apart n deliveryWords o) (s : State) (ctr : Nat) : rd (takeBuf s n ctr) o = rd s o := by
  unfold takeBuf
  dsimp only
  split
  · rfl
  · split
    · rfl
    · split
      · exact rd_dropAu h s ctr _ _
      · rfl

theorem rd_judgeAu (h : Apart n deliveryWords o) (s : State) (ctr : Nat) (point : Bool) : rd (judgeAu s n ctr point) o = rd s o := by
  unfold judgeAu
  dsimp only
  split
  · rfl
  · exact rd_ite ((rd_takeBuf h _ ctr).trans (rd_bumpBy_ne _ _ (h.ne_word (by decide)))) ((rd_takeBuf h _ ctr).trans (rd_ite rfl rfl))

theorem rd_openAu (h : Apart n deliveryWords o) (s : State) (p : RtpPkt) (arr : Time) : rd (openAu s n p arr) o = rd s o :=
  rd_bump_ne s (h.ne_word (x := 4) (by decide))

theorem rd_deliver (h : Apart n deliveryWords o) (s : State) (pk : HeldPkt) : rd (deliver s n pk) o = rd s o := by
  have hopen (x : Strm) : rd (if (strmOf s n).curTs = some pk.pkt.ts then setStrm s n x else openAu (setStrm s n x) n pk.pkt pk.arr) o
      = rd s o := rd_ite (rd_setStrm s n x o) (rd_openAu h (setStrm s n x) pk.pkt pk.arr)
  have hdrop (v : State) (ctr code : Nat) (into : Bool) (hv : rd v o = rd s o) : rd (dropAu v n ctr code into) o = rd s o :=
    (rd_dropAu h v ctr code into).trans hv
  unfold deliver
  dsimp only
  split
  · rw [rd_setStrm]
    exact hopen _
  · refine rd_ite (hdrop _ _ _ _ ?_) (rd_ite (hdrop _ _ _ _ ?_) (rd_ite (hdrop _ _ _ _ ?_) ((rd_judgeAu h _ _ _).trans ?_)))
    all_goals
      rw [rd_rxPut, rd_setStrm, rd_setStrm]
      exact hopen _

theorem rd_deliverHeld (h : Apart n deliveryWords o) (k : Nat) : ∀ s, rd (deliverHeld n k s) o = rd s o := by
  induction k with
  | zero => exact fun _ => rfl
  | succ k ih =>
    intro s
    unfold deliverHeld
    dsimp only
    split
    · rfl
    · exact rd_ite ((ih _).trans (rd_deliver h _ _)) rfl

theorem rd_deliverAll (h : Apart n deliveryWords o) (s : State) : rd (deliverAll s n) o = rd s o := rd_deliverHeld h _ s

end Sys2Proof.Proofs
end

section
/-! # O32: links, received frames and RTP packets (R300 to R303, R312, R317, R330, R332) -/
namespace Sys2Proof.Proofs
open Sys2Proof Sys2Proof.Machine Sys2Proof.Safety Sys2Proof.Laws

variable {s : State} {p n : Nat} {f : RxFrame} {pkt : RtpPkt} {u : Udp}

/-! ## Links (R300, R330, R332) -/

theorem linkUp_setFlag (s : State) (p : Nat) (b : Bool) : linkUp (setFlag s (portReg p 0x20) 0 b) p = b :=
  flag_setFlag_same s _ (by decide) b

/-- The registers of one port lie apart. -/
theorem portReg_ne (p : Nat) {x y : Nat} (h : x ≠ y) : canonOff (portReg p x) ≠ canonOff (portReg p y) :=
  canonOff_ne (by unfold portReg; omega) (by unfold portReg; omega) (by unfold portReg; omega)

/-! ## Frames: each check in its turn (R300 to R302) -/

/-- A port that is in service has received a frame: its buffer has moved on, and the frame is counted. -/
def frameSeen (s : State) (p : Nat) (f : RxFrame) : State := rxCount (rxMove s p f.moved) p 0x28

theorem rd_frameSeen (s : State) (p : Nat) (f : RxFrame) : rd (frameSeen s p f) (portReg p 0x28) = rd s (portReg p 0x28) + 1 :=
  (rd_bump _ _).trans (by rw [rd_of_regs (rxMove_regs s p f.moved)])

/-- The frame and what it carries are whole, and it is as long as a frame must be. -/
structure GoodFrame (f : RxFrame) : Prop where
  fcs : fcsOk f.bytes = true
  whole : carried (ethOf f.bytes) ≠ .bad
  long : 64 ≤ f.bytes.length

theorem GoodFrame.not_bad (h : GoodFrame f) : ¬ (fcsOk f.bytes = false ∨ carried (ethOf f.bytes) = .bad) :=
  not_or.mpr ⟨by simp [h.fcs], h.whole⟩

theorem GoodFrame.not_runt (h : GoodFrame f) : ¬ f.bytes.length < 64 := Nat.not_lt.mpr h.long

/-- The VLAN check passes: the port does not filter, or the frame carries its VLAN. -/
def VlanOk (s : State) (p : Nat) (f : RxFrame) : Prop :=
  flag s (portReg p 0) 12 = false ∨ (ethOf f.bytes).vlan = some (fld s (portReg p 0) 0 12)

theorem not_vlanOk_iff (s : State) (p : Nat) (f : RxFrame) : ¬ VlanOk s p f ↔
    flag s (portReg p 0) 12 = true ∧ (ethOf f.bytes).vlan ≠ some (fld s (portReg p 0) 0 12) := by
  rw [VlanOk, not_or, Bool.not_eq_false]

theorem VlanOk.passes (h : VlanOk s p f) : ¬ (flag s (portReg p 0) 12 = true ∧ (ethOf f.bytes).vlan ≠ some (fld s (portReg p 0) 0 12)) :=
  mt (not_vlanOk_iff s p f).mpr (not_not_intro h)

theorem rxFrame_bad (hp : portOk s p = true) (h : fcsOk f.bytes = false ∨ carried (ethOf f.bytes) = .bad) :
    rxFrame s p f = rxCount (frameSeen s p f) p 0x2C :=
  (if_neg (not_not_intro hp)).trans (if_pos h)

theorem rxFrame_oversize (hp : portOk s p = true) (h : GoodFrame f) (hl : 9216 < f.bytes.length) :
    rxFrame s p f = rxCount (frameSeen s p f) p 0x34 :=
  (if_neg (not_not_intro hp)).trans ((if_neg h.not_bad).trans ((if_neg h.not_runt).trans (if_pos hl)))

theorem rxFrame_pause (hp : portOk s p = true) (h : GoodFrame f) (hl : f.bytes.length ≤ 9216) (hpause : isPause (ethOf f.bytes) = true) :
    rxFrame s p f = rxCount (frameSeen s p f) p 0x40 :=
  (if_neg (not_not_intro hp)).trans ((if_neg h.not_bad).trans ((if_neg h.not_runt).trans
    ((if_neg (Nat.not_lt.mpr hl)).trans (if_pos hpause))))

/-- The checks of the VLAN, of the room in the receive buffer and of the mode, for a frame that has passed those before them. -/
theorem rxFrame_data (hp : portOk s p = true) (h : GoodFrame f) (hl : f.bytes.length ≤ 9216) (hdata : isPause (ethOf f.bytes) = false) :
    (¬ VlanOk (frameSeen s p f) p f → rxFrame s p f = rxCount (frameSeen s p f) p 0x30) ∧
    (VlanOk (frameSeen s p f) p f → 0x40000 < rxUsed (frameSeen s p f) p + f.bytes.length → rxFrame s p f = rxCount (frameSeen s p f) p 0x38) ∧
    (VlanOk (frameSeen s p f) p f → rxUsed (frameSeen s p f) p + f.bytes.length ≤ 0x40000 → portMode (frameSeen s p f) p = 1 →
      rxFrame s p f = rxCamera (frameSeen s p f) p (ethOf f.bytes) f) := by
  unfold rxFrame
  dsimp only
  rw [if_neg (not_not_intro hp), if_neg h.not_bad, if_neg h.not_runt, if_neg (Nat.not_lt.mpr hl), if_neg (by simp [hdata])]
  refine ⟨fun hv => if_pos ((not_vlanOk_iff _ _ _).mp hv), fun hv hfull => ?_, fun hv hroom hmode => ?_⟩
  · exact (if_neg hv.passes).trans (if_pos hfull)
  · exact (if_neg hv.passes).trans ((if_neg (Nat.not_lt.mpr hroom)).trans (if_neg (ne_of_eq_of_ne hmode (by decide))))

/-! ## Datagrams to their streams (R301, R312) -/

theorem rxCamera_udp {e : Eth} (hptp : (if ptpPort s p then ptpOf (flag s (ptpReg 0) 30) e else none) = none) (hu : carried e = .udp u) :
    rxCamera s p e f = (rxUdp s p u f).getD (if ownMac s p e then mgmtPut s p f else rxCount s p 0x30) := by
  unfold rxCamera
  dsimp only
  rw [hptp, hu]

theorem rxUdp_match (hown : ownIp s p u = true) (hlen : 12 ≤ u.body.length) (hm : matchEntry s p u.dport (be u.body 8 4) = some n) :
    rxUdp s p u f = some (rtpPacket s n (rtpOf (codecOf s n) (fld s (entReg n 0x14) 24 8) u.body)) := by
  unfold rxUdp
  dsimp only
  rw [if_pos ⟨hown, hlen⟩, hm]

/-! ## RTP packets in and out of order (R317) -/

/-- The stream as its next packet finds it. -/
def packetAt (s : State) (n : Nat) : Strm := { strmOf s n with lastPkt := s.clk.tb }

/-- The stream expects a number, and the packet comes from the source that it follows. -/
structure InStream (s : State) (n : Nat) (pkt : RtpPkt) : Prop where
  expected : (packetAt s n).expected.isSome = true
  source : flag s (entReg n 0) 28 = true ∨ (packetAt s n).ssrc = some pkt.ssrc

theorem InStream.not_first (h : InStream s n pkt) : ¬ (packetAt s n).expected.isNone = true := by
  rw [Option.isNone_iff_eq_none]
  exact Option.isSome_iff_ne_none.mp h.expected

theorem InStream.not_other (h : InStream s n pkt) :
    ¬ (¬ flag (setStrm s n (packetAt s n)) (entReg n 0) 28 = true ∧ (packetAt s n).ssrc ≠ some pkt.ssrc) :=
  fun ⟨hflag, hne⟩ => h.source.elim hflag hne

theorem rtpPacket_next (h : InStream s n pkt) (hd : seqDist (packetAt s n) pkt.seq = 0) : rtpPacket s n pkt =
    deliverAll (deliver (setStrm (setStrm s n (packetAt s n)) n { packetAt s n with behind := 0 }) n ⟨pkt, s.clk.tb⟩) n :=
  (if_neg h.not_first).trans ((if_neg h.not_other).trans (if_pos hd))

/-- The packet is held in its place, until those before it have come or are lost. -/
def heldAhead (s : State) (n : Nat) (pkt : RtpPkt) : State :=
  setStrm (setStrm s n (packetAt s n)) n { packetAt s n with
    behind := 0, held := holdPkt (seqDist (packetAt s n)) ⟨pkt, s.clk.tb⟩ (packetAt s n).held }

theorem rtpPacket_ahead (h : InStream s n pkt) (hlo : 1 ≤ seqDist (packetAt s n) pkt.seq) (hhi : seqDist (packetAt s n) pkt.seq ≤ 1023)
    (hnew : (packetAt s n).held.any (fun g => decide (g.pkt.seq % 65536 = pkt.seq % 65536)) = false) : rtpPacket s n pkt =
    if (packetAt s n).held.any (fun g => decide (seqDist (packetAt s n) pkt.seq < seqDist (packetAt s n) g.pkt.seq)) then
      bump (heldAhead s n pkt) (strReg n 0x20)
    else heldAhead s n pkt :=
  (if_neg h.not_first).trans ((if_neg h.not_other).trans ((if_neg (Nat.ne_of_gt hlo)).trans
    ((if_pos hhi).trans (if_neg (ne_of_eq_of_ne hnew Bool.false_ne_true)))))

theorem held_rtpPacket_ahead (h : InStream s n pkt) (hlo : 1 ≤ seqDist (packetAt s n) pkt.seq) (hhi : seqDist (packetAt s n) pkt.seq ≤ 1023)
    (hnew : (packetAt s n).held.any (fun g => decide (g.pkt.seq % 65536 = pkt.seq % 65536)) = false) :
    (strmOf (rtpPacket s n pkt) n).held = holdPkt (seqDist (packetAt s n)) ⟨pkt, s.clk.tb⟩ (packetAt s n).held := by
  have hheld : (strmOf (heldAhead s n pkt) n).held = _ := congrArg Strm.held (strmOf_setStrm _ n _)
  rw [rtpPacket_ahead h hlo hhi hnew]
  split
  · exact hheld
  · exact hheld

/-- Settles O32: the checks of a frame in the order of the model, each by its own lemma, and the window of an RTP packet by its distance. -/
theorem linksAndReceivedFrames : Obligations.LinksAndReceivedFrames := by
  refine ⟨fun t p s => ⟨fun hok => ?_, fun hoff => ?_⟩, fun t p s hup => ?_, fun t p f s hok => ?_, fun s n pkt => ?_⟩
  · have hup : execEthLinkUp t p s = .next (setFlag (advance s t) (portReg p 0x20) 0 true) := congrArg _ (if_pos hok)
    exact ⟨_, (exec_ethLinkUp s t p).trans hup, linkUp_setFlag _ p true, rfl⟩
  · have hsame : execEthLinkUp t p s = .next (advance s t) := congrArg _ (if_neg (ne_of_eq_of_ne hoff Bool.false_ne_true))
    exact (exec_ethLinkUp s t p).trans hsame
  · have hdown : execEthLinkDown t p s = .next (bump (setFlag (advance s t) (portReg p 0x20) 0 false) (portReg p 0x24)) :=
      congrArg _ (if_pos hup)
    refine ⟨_, (exec_ethLinkDown s t p).trans hdown, ?_, ?_, rfl⟩
    · exact (flag_of_rd (rd_bump_ne _ (portReg_ne p (by decide))) 0).trans (linkUp_setFlag _ p false)
    · exact (rd_bump _ _).trans (congrArg (· + 1) (rd_setFlag_ne _ 0 false (portReg_ne p (by decide))))
  · have hp : portOk (advance s t) p = true := hok
    have hrun {v : State} (h : rxFrame (advance s t) p f = v) : exec (.rxFrame t p f) s = .next v :=
      (exec_rxFrame s t p f).trans (congrArg _ h)
    intro s1 e good vlanOk
    have hgood : good → GoodFrame f := fun ⟨hfcs, hwhole, hlong⟩ => ⟨hfcs, hwhole, hlong⟩
    refine ⟨rd_frameSeen (advance s t) p f, fun hbad => hrun (rxFrame_bad hp hbad), fun hg hl => hrun (rxFrame_oversize hp (hgood hg) hl),
      fun hg hl hpause => hrun (rxFrame_pause hp (hgood hg) hl hpause), fun hg hl hdata hv => hrun ((rxFrame_data hp (hgood hg) hl hdata).1 hv),
      fun hg hl hdata hv => ?_⟩
    obtain ⟨-, hoverflow, hclassified⟩ := rxFrame_data hp (hgood hg) hl hdata
    refine ⟨fun hfull => hrun (hoverflow hv hfull), fun hroom hmode hptp u n hu hown hlen hm => hrun ?_⟩
    calc rxFrame (advance s t) p f = rxCamera s1 p e f := hclassified hv hroom hmode
      _ = (rxUdp s1 p u f).getD (if ownMac s1 p e then mgmtPut s1 p f else rxCount s1 p 0x30) := rxCamera_udp hptp hu
      _ = rtpPacket s1 n (rtpOf (codecOf s1 n) (fld s1 (entReg n 0x14) 24 8) u.body) := by rw [rxUdp_match hown hlen hm, Option.getD_some]
  · intro x hexp hsrc
    exact ⟨held_rtpPacket_ahead ⟨hexp, hsrc⟩, rtpPacket_next ⟨hexp, hsrc⟩⟩

end Sys2Proof.Proofs
end

section
/-! # O33: gaps, silent streams and complete access units (R309, R317, R318, R330) -/
namespace Sys2Proof.Proofs
open Sys2Proof Sys2Proof.Machine Sys2Proof.Safety Sys2Proof.Laws

variable {s : State} {n : Nat}

/-! ## Gaps (R317, R318) -/

/-- A gap declared lost counts each number that is missing, and no other part of the delivery writes PKT_LOST. -/
theorem rd_loseGap (s : State) (n : Nat) (x : Strm) (h : HeldPkt) :
    rd (loseGap s n x h) (strReg n 0x14) = rd s (strReg n 0x14) + BitVec.ofNat 32 (seqDist x h.pkt.seq) := by
  have hapart : Apart n deliveryWords (strReg n 0x14) := apart_strReg n (by decide)
  have hcount (v : Strm) : rd (bumpBy (setStrm s n v) (strReg n 0x14) (seqDist x h.pkt.seq)) (strReg n 0x14)
      = rd s (strReg n 0x14) + BitVec.ofNat 32 (seqDist x h.pkt.seq) := rd_bumpBy _ _ _
  unfold loseGap
  dsimp only
  refine (rd_deliverAll hapart _).trans ?_
  split
  · exact hcount _
  · exact rd_ite (hcount _) ((rd_dropAu hapart _ _ _ _).trans (hcount _))

/-- The first packet beyond the gap has waited REORDER_US, or REORDER_PKTS packets lie beyond it. -/
def GapDue (s : State) (n : Nat) (h : HeldPkt) (r : List HeldPkt) : Prop :=
  r.foldl (fun m g => min m g.arr) h.arr + 1000 * fld s (entReg n 0x1C) 0 16 ≤ s.clk.tb ∨
    clampNat 1 64 (fld s (entReg n 0x1C) 16 7) ≤ (strmOf s n).held.length

/-- The outcome of GAP_TIMEOUT for a stream with packets beyond a gap. -/
theorem execGapTimeout_held {t : Time} {n : Fin 512} {h : HeldPkt} {r : List HeldPkt} (hheld : (strmOf s n).held = h :: r) :
    (GapDue (advance s t) n h r → execGapTimeout t n s = .next (loseGap (advance s t) n (strmOf s n) h)) ∧
      (¬ GapDue (advance s t) n h r → execGapTimeout t n s = .next (advance s t)) := by
  have hheld' : (strmOf (advance s t) n).held = h :: r := hheld
  have hfirst : (h :: r).foldl (fun m g => min m g.arr) h.arr = r.foldl (fun m g => min m g.arr) h.arr := by
    rw [List.foldl_cons, Nat.min_self]
  unfold execGapTimeout GapDue
  dsimp only
  rw [hheld']
  dsimp only
  rw [hfirst]
  exact ⟨fun hd => by rw [if_pos hd]; rfl, fun hd => by rw [if_neg hd]⟩

/-! ## Silent streams (R318, R330) -/

/-- A running stream without access units that is asked to resynchronise does so; no access unit is passed over. -/
theorem strmOf_resync_of_no_aus (hrun : (strmOf s n).st = .run) (haus : (strmOf s n).aus = []) (ctr : Nat) :
    (strmOf (resync s n ctr) n).st = .resync ∧ (strmOf (resync s n ctr) n).synced = false := by
  have hlater : ausAfter (strmOf s n) ctr = [] := by rw [ausAfter, haus]; rfl
  have hput (v : State) (z : Strm) (k : Nat) : strmOf (bumpBy (setStrm v n z) (strReg n 0x28) k) n = z := strmOf_setStrm v n z
  unfold resync
  dsimp only
  rw [if_neg (by simp [hrun]), hlater, hput, apply_ite Strm.st, apply_ite Strm.synced]
  simp [judgeAll, hrun]

theorem resync_mem (s : State) (n ctr : Nat) : (resync s n ctr).mem = s.mem := by
  unfold resync
  dsimp only
  split
  · rfl
  · rfl

theorem execAuIdleTimeout_silent {t : Time} {n : Fin 512} (hrun : (strmOf s n).st = .run) (haus : (strmOf s n).aus = [])
    (hidle : (strmOf s n).lastPkt + idleNs s n ≤ max s.clk.tb t) :
    execAuIdleTimeout t n s = .next (resync (advance s t) n (lastCtr (advance s t) n)) := by
  have hrun' : (strmOf (advance s t) n).st = .run := hrun
  have haus' : (strmOf (advance s t) n).aus = [] := haus
  unfold execAuIdleTimeout
  dsimp only
  rw [if_neg (by simp [hrun']), haus', List.map_nil, List.foldl_nil, if_pos ⟨hidle, hrun'⟩]

/-! ## Complete access units (R309) -/

theorem execAuComplete_marked {t : Time} {n : Fin 512} {a : Au} (h : (strmOf s n).aus.find? (fun a => a.marker && !a.complete) = some a) :
    execAuComplete t n s = .next (setStrm (advance s t) n (setAu (strmOf s n) { a with complete := true })) := by
  have h' : (strmOf (advance s t) n).aus.find? (fun a => a.marker && !a.complete) = some a := h
  unfold execAuComplete
  dsimp only
  rw [h']
  rfl

/-- Settles O33: a gap counts its missing numbers before anything behind it is delivered, and a silent stream has no access unit to judge. -/
theorem gapsIdleStreamsAndCompleteUnits : Obligations.GapsIdleStreamsAndCompleteUnits := by
  refine ⟨fun t n s h r hheld => ?_, fun t n s hrun haus hidle => ?_, fun t n s a ha => ?_⟩
  · obtain ⟨hlost, hkept⟩ := execGapTimeout_held (t := t) hheld
    intro due
    by_cases hd : due
    · exact ⟨_, (exec_gapTimeout s t n).trans (hlost hd), fun _ => rd_loseGap (advance s t) n (strmOf s n) h, fun hnot => absurd hd hnot⟩
    · exact ⟨_, (exec_gapTimeout s t n).trans (hkept hd), fun hdue => absurd hdue hd, fun _ => rfl⟩
  · obtain ⟨hst, hsync⟩ := strmOf_resync_of_no_aus (s := advance s t) hrun haus (lastCtr (advance s t) n)
    exact ⟨_, (exec_auIdleTimeout s t n).trans (execAuIdleTimeout_silent hrun haus hidle), hst, hsync, resync_mem _ _ _⟩
  · exact ⟨_, (exec_auComplete s t n).trans (execAuComplete_marked ha), rfl, rfl, congrArg Strm.aus (strmOf_setStrm _ _ _)⟩

end Sys2Proof.Proofs
end

section
/-! # O34: decode, publication and release of notices (R310, R311, R315, R316, R320, R325, R327, R331) -/
namespace Sys2Proof.Proofs
open Sys2Proof Sys2Proof.Machine Sys2Proof.Safety Sys2Proof.Laws

variable {s : State} {n : Nat} {a : Au}

/-! ## The start of a decode (R302, R316) -/

/-- The state in which engine `e` has started access unit `a` of stream `n`. -/
def decodeStarted (s : State) (e n : Nat) (a : Au) : State :=
  setStrm { rxFlush s n with ing := { (rxFlush s n).ing with work := tset (rxFlush s n).ing.work e (n, a.ctr) } } n
    (setAu (strmOf (rxFlush s n) n) { a with started := true })

theorem execDecodeStart_next {t : Time} {e : Fin 32} (hroom : inProgress s e < 4) (hnext : nextStart s e = some (n, a)) :
    execDecodeStart t e s = .next (decodeStarted (advance s t) e n a) := by
  have hroom' : ¬ 4 ≤ inProgress (advance s t) e := Nat.not_le.mpr hroom
  have hnext' : nextStart (advance s t) e = some (n, a) := hnext
  unfold execDecodeStart
  dsimp only
  rw [if_neg hroom', hnext']
  rfl

theorem strmOf_decodeStarted (s : State) (e n : Nat) (a : Au) :
    strmOf (decodeStarted s e n a) n = setAu (strmOf s n) { a with started := true } := by
  rw [decodeStarted, strmOf_setStrm, strmOf_rxFlush]

/-! ## The end of a decode (R310, R311, R320, R325, R331) -/

section
variable {ctr : Nat} (ha : auOf (strmOf s n) ctr = some a) (hstarted : a.started = true)
include ha hstarted

/-- A decode that gives no picture drops its access unit, and counts an error or a poisoned read beside. -/
theorem decodeComplete_failed :
    decodeComplete s n ctr .error = dropAu (bump s (strReg n 0x2C)) n ctr eDecode true ∧
    decodeComplete s n ctr .poison = dropAu (bump s (engReg a.eng 8)) n ctr ePoison true ∧
    decodeComplete s n ctr .unsupported = dropAu s n ctr eUnsupported true := by
  have hgo : ¬ ¬ a.started = true := not_not_intro hstarted
  unfold decodeComplete
  dsimp only
  rw [ha]
  exact ⟨if_neg hgo, if_neg hgo, if_neg hgo⟩

/-- A picture of a format that is supported, within the sizes declared, is published from the buffer of its access unit. -/
theorem decodeComplete_picture {d : DecPic} {nv12 : Bool} {b : Nat} (hc : a.complete = true) (hout : outputOf (codecOf s n) d = some nv12)
    (hw : d.cropW ≤ declW s n) (hh : d.cropH ≤ declH s n) (hw' : d.cropW ≤ 4096) (hh' : d.cropH ≤ 4096) (hneed : d.need ≤ nbufOf s n - 1)
    (hbuf : a.buf = some b) : decodeComplete s n ctr (.picture d) = publish s n a b nv12 d := by
  have hfits : ¬ (declW s n < d.cropW ∨ declH s n < d.cropH ∨ 4096 < d.cropW ∨ 4096 < d.cropH) := by omega
  unfold decodeComplete
  dsimp only
  rw [ha]
  dsimp only
  rw [if_neg (not_not_intro hstarted), if_neg (not_not_intro hc), hout]
  dsimp only
  rw [if_neg hfits, if_neg (Nat.not_lt.mpr hneed), hbuf]

end

/-- The registers of the engines lie apart from those of the streams, however an engine is numbered: no offset of the one is one of the other
modulo 16. -/
theorem strReg_ne_engReg (n e : Nat) {x y : Nat} (h : x % 16 ≠ y % 16) : canonOff (strReg n x) ≠ canonOff (engReg e y) :=
  canonOff_ne (by unfold strReg; omega) (by unfold engReg; omega) (by unfold strReg engReg; omega)

theorem strReg_ne (n : Nat) {x y : Nat} (h : x ≠ y) : canonOff (strReg n x) ≠ canonOff (strReg n y) :=
  canonOff_ne (by unfold strReg; omega) (by unfold strReg; omega) (by unfold strReg; omega)

theorem rd_keepSlack_pubCount (s : State) (n : Nat) (slack : Int) : rd (keepSlack s n slack) (strReg n 0xC) = rd s (strReg n 0xC) :=
  rd_ite (rd_wrReg_ne s _ _ _ (strReg_ne n (by decide))) rfl

/-- A publication counts once in PUB_COUNT (R325). -/
theorem rd_publish_pubCount (s : State) (n : Nat) (a : Au) (u : Nat) (nv12 : Bool) (d : DecPic) :
    rd (publish s n a u nv12 d) (strReg n 0xC) = rd s (strReg n 0xC) + 1 := by
  have hapart : Apart n endWords (strReg n 0xC) := apart_strReg n (by decide)
  unfold publish
  dsimp only
  rw [rd_endCheck hapart, rd_notifyAll hapart]
  refine (rd_bump_ne _ (strReg_ne_engReg n a.eng (by decide))).trans ((rd_bump _ _).trans (congrArg (· + 1) ?_))
  exact (rd_keepSlack_pubCount _ n _).trans
    ((rd_ite (rd_bump_ne _ (strReg_ne n (by decide))) rfl).trans (rd_ite (rd_bump_ne _ (strReg_ne n (by decide))) rfl))

/-! ## The release of a notice (R327) -/

/-- The release entry that partition `p` reads next. -/
def releaseEntry (s : State) (p : Nat) : Nat :=
  rdLE s (fld s (noticeReg p 8) 3 29 * 8 + 2 ^ 32 * fld s (noticeReg p 0xC) 0 16 + 8 * ((nringOf s p).rel % ringSize s p)) 8

/-- The entry names the notice that its slot holds, by stream and frame counter. -/
def NamesNotice (s : State) (p : Nat) : Prop :=
  tget? (nringOf s p).slots (fieldOf (releaseEntry s p) 48 12) = some (fieldOf (releaseEntry s p) 32 9, fieldOf (releaseEntry s p) 0 32)

/-- The state in which the entry has been read. -/
def entryRead (s : State) (p : Nat) : State :=
  setNring s p { nringOf s p with rel := (nringOf s p).rel + 1, due := (nringOf s p).due - 1 }

theorem noticeRelease_named {p : Nat} (hdue : 0 < (nringOf s p).due) (h : NamesNotice s p) :
    noticeRelease s p = freeNotice (entryRead s p) p (fieldOf (releaseEntry s p) 48 12) :=
  (if_neg (Nat.ne_of_gt hdue)).trans (if_pos h)

theorem noticeRelease_other {p : Nat} (hdue : 0 < (nringOf s p).due) (h : ¬ NamesNotice s p) :
    noticeRelease s p = bump (entryRead s p) (noticeReg p 0x18) :=
  (if_neg (Nat.ne_of_gt hdue)).trans (if_neg h)

/-- A slot that is freed: the ring forgets it, and the hold on the picture goes with it. -/
theorem freeNotice_taken {k i m c : Nat} (h : tget? (nringOf s k).slots i = some (m, c)) : freeNotice s k i =
    dropHold (setNring s k { nringOf s k with slots := tdel (nringOf s k).slots i, recs := tdel (nringOf s k).recs i }) k i m := by
  unfold freeNotice
  rw [h]

theorem nringOf_dropHold (s : State) (k i m j : Nat) : nringOf (dropHold s k i m) j = nringOf s j := rfl

theorem noticeRelease_frees {p : Nat} (hdue : 0 < (nringOf s p).due) (h : NamesNotice s p) :
    (noticeRelease s p).regs = s.regs ∧ (noticeRelease s p).mem = s.mem ∧ nringOf (noticeRelease s p) p = { nringOf s p with
      rel := (nringOf s p).rel + 1, due := (nringOf s p).due - 1,
      slots := tdel (nringOf s p).slots (fieldOf (releaseEntry s p) 48 12),
      recs := tdel (nringOf s p).recs (fieldOf (releaseEntry s p) 48 12) } := by
  have hread : nringOf (entryRead s p) p = { nringOf s p with rel := (nringOf s p).rel + 1, due := (nringOf s p).due - 1 } :=
    nringOf_setNring _ _ _
  have htaken : tget? (nringOf (entryRead s p) p).slots (fieldOf (releaseEntry s p) 48 12)
      = some (fieldOf (releaseEntry s p) 32 9, fieldOf (releaseEntry s p) 0 32) := by
    rw [hread]
    exact h
  rw [noticeRelease_named hdue h, freeNotice_taken htaken]
  refine ⟨rfl, rfl, ?_⟩
  rw [nringOf_dropHold, nringOf_setNring, hread]

theorem noticeRelease_counts {p : Nat} (hdue : 0 < (nringOf s p).due) (h : ¬ NamesNotice s p) :
    (noticeRelease s p).mem = s.mem ∧ rd (noticeRelease s p) (noticeReg p 0x18) = rd s (noticeReg p 0x18) + 1 ∧
      nringOf (noticeRelease s p) p = { nringOf s p with rel := (nringOf s p).rel + 1, due := (nringOf s p).due - 1 } := by
  rw [noticeRelease_other hdue h]
  exact ⟨rfl, rd_bump _ _, nringOf_setNring _ _ _⟩

/-- Settles O34: the outcome of a decode by its result, each of which counts where no later part of the drop or publication writes, and a release
entry by whether it names the notice of its slot. -/
theorem decodePublishAndRelease : Obligations.DecodePublishAndRelease := by
  refine ⟨fun t e s n a hroom hnext => ?_, fun t n ctr s a ha hstarted => ?_, fun t p s hdue => ?_⟩
  · have hstrm := strmOf_decodeStarted (advance s t) e n a
    refine ⟨_, (exec_decodeStart s t e).trans (execDecodeStart_next hroom hnext), rxFlush_regs (advance s t) n, rxFlush_mem_advance s t n, ?_, ?_⟩
    · rw [hstrm]
      rfl
    · rw [hstrm]
      rfl
  · have ha' : auOf (strmOf (advance s t) n) ctr = some a := ha
    have hrun {r : DecResult} {v : State} (h : decodeComplete (advance s t) n ctr r = v) : exec (.decodeComplete t n ctr r) s = .next v :=
      (exec_decodeComplete s t n ctr r).trans (congrArg _ h)
    obtain ⟨herror, hpoison, hunsupported⟩ := decodeComplete_failed ha' hstarted
    refine ⟨fun d nv12 b hc hout hw hh hw' hh' hneed hbuf => ⟨hrun ?_, rd_publish_pubCount (advance s t) n a b nv12 d⟩,
      ⟨_, hrun herror, ?_, ?_⟩, ⟨_, hrun hpoison, ?_⟩, ⟨_, hrun hunsupported, rd_dropAu_drops _ _ _ _ _⟩⟩
    · exact decodeComplete_picture ha' hstarted hc hout hw hh hw' hh' hneed hbuf
    · exact (rd_dropAu (apart_strReg n (by decide)) _ _ _ _).trans (rd_bump _ _)
    · exact (rd_dropAu_drops _ _ _ _ _).trans (congrArg (· + 1) (rd_bump_ne _ (strReg_ne n (by decide))))
    · exact (rd_dropAu_drops _ _ _ _ _).trans (congrArg (· + 1) (rd_bump_ne _ (strReg_ne_engReg n a.eng (by decide))))
  · intro r e
    have hrun : exec (.noticeRelease t p) s = .next (noticeRelease (advance s t) p) := exec_noticeRelease s t p
    by_cases h : NamesNotice (advance s t) p
    · obtain ⟨hregs, hmem, hring⟩ := noticeRelease_frees (s := advance s t) hdue h
      refine ⟨_, hrun, congrArg Ring.rel hring, congrArg Ring.due hring, hmem, fun _ => ⟨?_, hregs⟩, fun hnot => absurd h hnot⟩
      rw [hring]
      exact tget?_tdel_same _ _
    · obtain ⟨hmem, hcount, hring⟩ := noticeRelease_counts (s := advance s t) hdue h
      exact ⟨_, hrun, congrArg Ring.rel hring, congrArg Ring.due hring, hmem, fun hnamed => absurd hnamed h,
        fun _ => ⟨by rw [hring]; rfl, hcount⟩⟩

end Sys2Proof.Proofs
end

section
/-! # Display: the registers of an output and the shared operations (R361, R367, R368) -/
namespace Sys2Proof.Proofs
open Sys2Proof Sys2Proof.Machine Sys2Proof.Safety Sys2Proof.Laws

/-! ## Registers -/

/-- The registers of one output lie apart, those of its layers among them. -/
theorem dpoReg_ne (d : Nat) {x y : Nat} (h : x ≠ y) : canonOff (dpoReg d x) ≠ canonOff (dpoReg d y) :=
  canonOff_ne (by unfold dpoReg; omega) (by unfold dpoReg; omega) (by unfold dpoReg; omega)

theorem dpoReg_ne_token (d x k n : Nat) : canonOff (dpoReg d x) ≠ canonOff (tokOff k n) :=
  (canonOff_ne_window ((tokOff_lt k n).trans (by decide)) (by unfold dpoReg; omega)).symm

/-- Putting a field leaves the bits outside it alone. -/
theorem flag_setFld_ne (s : State) (o : Nat) {lo w v i : Nat} (hi : i < 32) (h : i < lo ∨ lo + w ≤ i) : flag (setFld s o lo w v) o i = flag s o i := by
  rw [flag, rd_setFld_same, getLsbD_putField, if_neg (by omega)]
  simp [flag, hi]

/-- Setting a flag leaves the fields beside it alone. -/
theorem fld_setFlag_ne (s : State) (o : Nat) {i lo w : Nat} (b : Bool) (h : lo + w ≤ i ∨ i + 1 ≤ lo) : fld (setFlag s o i b) o lo w = fld s o lo w :=
  fld_setFld_ne s o i 1 _ lo w h

/-! ## The output and its error record -/

@[simp] theorem dpoOf_setDpo (s : State) (d : Nat) (v : Dpo) : dpoOf (setDpo s d v) d = v := tget_tset_same _ _ _ _

@[simp] theorem rd_setDpo (s : State) (d : Nat) (v : Dpo) (o : Nat) : rd (setDpo s d v) o = rd s o := rfl

theorem dpoOf_of_dpo {s u : State} (h : u.dpo = s.dpo) (d : Nat) : dpoOf u d = dpoOf s d := by rw [dpoOf, dpoOf, h]

theorem rd_dpoErr_ne (s : State) (d code : Nat) {x : Nat} (h : x ≠ 4) : rd (dpoErr s d code) (dpoReg d x) = rd s (dpoReg d x) :=
  rd_setFld_ne s _ _ _ _ _ (dpoReg_ne d h)

theorem flag_dpoErr (s : State) (d code : Nat) {i : Nat} (h : i < 16) : flag (dpoErr s d code) (dpoReg d 4) i = flag s (dpoReg d 4) i :=
  flag_setFld_ne s _ (by omega) (.inl h)

theorem fld_dpoErr (s : State) (d code : Nat) (h : code < 2 ^ 16) : fld (dpoErr s d code) (dpoReg d 4) 16 16 = code :=
  (fld_setFld_same s _ _ _ _ (by decide)).trans (Nat.mod_eq_of_lt h)

/-- The code is noted for the output that records it (R494). -/
theorem noted_dpoErr (s : State) (d : Fin 4) (code : Nat) : Noted s (dpoErr s d code) (.output d) code 0 := by
  rw [dpoErr, Fin.ofNat_val_eq_self]
  rfl

end Sys2Proof.Proofs
end

section
/-! # O37: frame boundaries (R351, R352, R359, R360, R472) -/
namespace Sys2Proof.Proofs
open Sys2Proof Sys2Proof.Machine Sys2Proof.Safety Sys2Proof.Laws

variable {b : Bool} {s u : State} {d : Nat} {bad : List (Nat × Nat)}

/-! ## A new frame leaves RUN alone -/

/-- RUN of output `d` reads `b`. -/
def Runs (d : Nat) (b : Bool) (s : State) : Prop := flag s (dpoReg d 4) 0 = b

theorem Runs.of_rd (h : Runs d b s) (hr : rd u (dpoReg d 4) = rd s (dpoReg d 4)) : Runs d b u := (flag_of_rd hr 0).trans h

theorem Runs.ite {c : Prop} [Decidable c] {x y : State} (hx : Runs d b x) (hy : Runs d b y) : Runs d b (if c then x else y) := by
  split <;> assumption

theorem Runs.setDpo {v : Dpo} (h : Runs d b s) : Runs d b (setDpo s d v) := h

theorem Runs.wrReg {x : Nat} {v : Word} (h : Runs d b s) (hx : x ≠ 4) : Runs d b (wrReg s (dpoReg d x) v) :=
  h.of_rd (rd_wrReg_ne s _ _ _ (dpoReg_ne d hx.symm))

theorem Runs.bump {x : Nat} (h : Runs d b s) (hx : x ≠ 4) : Runs d b (bump s (dpoReg d x)) := h.wrReg hx

theorem Runs.wrLayReg {i x : Nat} {v : Word} (h : Runs d b s) : Runs d b (Machine.wrReg s (Machine.layReg d i x) v) := h.wrReg (by omega)

theorem Runs.signal {k n : Nat} {v : Word} (h : Runs d b s) : Runs d b (signal s k n v) := h.of_rd (rd_signal_ne s _ _ _ (dpoReg_ne_token d 4 k n))

theorem Runs.dpoErr {code : Nat} (h : Runs d b s) : Runs d b (dpoErr s d code) := (flag_dpoErr s d code (by decide)).trans h

theorem Runs.discard {i e code : Nat} (h : Runs d b s) : Runs d b (discard s d i e code) := .ite h (h.setDpo.bump (by decide)).dpoErr

theorem Runs.newest {i : Nat} {bad : List Nat} {ok : Flip → Bool} {lo k hi : Nat} (h : Runs d b s) : Runs d b (newest d i bad ok lo k hi s).2 := by
  induction k generalizing hi s with
  | zero => exact h
  | succ k ih =>
    unfold Machine.newest
    extract_lets e
    split
    · exact h
    · split
      · exact ih h.discard
      · split
        · exact h
        · exact ih h

theorem Runs.retireOne {i : Nat} (h : Runs d b s) : Runs d b (retireOne d i s) := by
  unfold Machine.retireOne
  extract_lets r e s1 s2
  have h2 : Runs d b s2 := Runs.wrLayReg (Runs.signal (s := s1) h.setDpo)
  exact .ite h2 (h2.bump (by decide))

theorem Runs.retireAll {i k : Nat} (h : Runs d b s) : Runs d b (retireAll d i k s) := by
  induction k generalizing s with
  | zero => exact h
  | succ k ih => exact .ite (ih h.retireOne) h

theorem Runs.showFlip {i : Nat} {f : Flip} (h : Runs d b s) : Runs d b (showFlip s d i f) := (h.setDpo.wrLayReg (i := i)).setDpo

theorem Runs.takeFlip {i : Nat} (h : Runs d b s) : Runs d b (takeFlip d bad s i) := by
  unfold Machine.takeFlip
  dsimp only
  split
  · exact h
  · refine .retireAll (.ite h ?_)
    split
    · exact h.newest
    · exact h.newest.showFlip

theorem Runs.stampFlip {t : Time} (h : Runs d b s) : Runs d b (stampFlip s d t) :=
  ((h.wrReg (by decide)).wrReg (by decide)).wrReg (by decide)

theorem Runs.markFlip (h : Runs d b s) : Runs d b (markFlip s d) := .ite h.stampFlip h.setDpo

theorem Runs.showSel {prev : Option Sel} (h : Runs d b s) : Runs d b (showSel s d prev) := by
  unfold Machine.showSel
  dsimp only
  split
  · exact h
  · split
    · exact h
    · exact .ite (.ite h h.markFlip) (.ite h h.setDpo.wrLayReg.markFlip)

/-! ## A new frame counts once (R360) -/

theorem ofNat_succ_toNat (x : Word) : BitVec.ofNat 32 ((x.toNat + 1) % 2 ^ 32) = x + 1 := by bv_omega

theorem newFrame_reads (h : Runs d b s) :
    Runs d b (newFrame d bad s) ∧ rd (newFrame d bad s) (dpoReg d 0x30) = rd s (dpoReg d 0x30) + 1 := by
  unfold newFrame
  extract_lets f x0 swap prev s1 s2 s3 s4
  have h2 : Runs d b s2 := List.foldlRecOn _ _ (Runs.showSel (s := s1) h) fun _ h _ _ => h.takeFlip
  have hf : BitVec.ofNat 32 f = rd s (dpoReg d 0x30) + 1 := ofNat_succ_toNat _
  clear_value s2 f
  have h3 : Runs d b s3 := ((h2.wrReg (by decide)).wrReg (by decide)).wrReg (by decide)
  have hcount : rd s3 (dpoReg d 0x30) = rd s (dpoReg d 0x30) + 1 :=
    (rd_wrReg_ne _ _ _ _ (dpoReg_ne d (by decide))).trans ((rd_wrReg_ne _ _ _ _ (dpoReg_ne d (by decide))).trans ((rd_wrReg_same _ _ _).trans hf))
  clear_value s3
  exact ⟨Runs.setDpo (s := s4) (.ite h3.signal h3), rd_ite ((rd_signal_ne _ _ _ _ (dpoReg_ne_token d _ _ _)).trans hcount) hcount⟩

theorem rd_skipIssued_ne (s : State) (d : Nat) {x : Nat} (h : x ≠ 0x58) : rd (skipIssued s d) (dpoReg d x) = rd s (dpoReg d x) := by
  unfold skipIssued
  dsimp only
  split
  · rfl
  · exact rd_ite rfl (rd_bumpBy_ne s _ (dpoReg_ne d h))

/-! ## The boundary, by whether the output runs and is enabled -/

/-- The commit group of output `d` at its boundary (R472). -/
def groupBoundary (s : State) (d : Nat) : State := commitGroup s.clk.tb (8 + d) (dpoCommit s.clk.tb d) s

theorem groupBoundary_held (h : (holdWord s s.clk.tb).getLsbD (8 + d) = true) : groupBoundary s d = bump s 0x214 := if_pos h

/-- The state in which an output that did not run begins to. -/
def outputStarted (s : State) (d : Nat) : State :=
  wrReg (setFlag (setDpo s d { dpoOf s d with quiet := (dpoOf s d).quiet.map (fun _ => 1) }) (dpoReg d 4) 0 true) (dpoReg d 0x30) 0

theorem outputStarted_reads (s : State) (d : Nat) : Runs d true (outputStarted s d) ∧ rd (outputStarted s d) (dpoReg d 0x30) = 0 :=
  ⟨Runs.wrReg (flag_setFlag_same _ _ (by decide) _) (by decide), rd_wrReg_same _ _ _⟩

theorem frameBoundary_within (hrun : flag s (dpoReg d 4) 0 = true) (hline : (dpoOf s d).line + 1 < (vActive s d : Int)) :
    frameBoundary s d bad = s := if_pos ⟨hrun, hline⟩

theorem frameBoundary_running (hrun : flag s (dpoReg d 4) 0 = true) (hline : (vActive s d : Int) ≤ (dpoOf s d).line + 1)
    (hen : flag (groupBoundary s d) (dpoReg d 0) 31 = true) : frameBoundary s d bad = newFrame d bad (skipIssued (groupBoundary s d) d) := by
  rw [groupBoundary] at hen ⊢
  unfold frameBoundary
  dsimp only
  rw [if_neg fun h => absurd hline (not_le.mpr h.2), if_neg (not_not_intro hen), if_pos hrun]

theorem frameBoundary_starting (hrun : flag s (dpoReg d 4) 0 = false) (hen : flag (groupBoundary s d) (dpoReg d 0) 31 = true) :
    frameBoundary s d bad = newFrame d bad (skipIssued (outputStarted (groupBoundary s d) d) d) := by
  rw [groupBoundary] at hen ⊢
  unfold frameBoundary
  dsimp only
  rw [if_neg fun h => absurd h.1 (Bool.eq_false_iff.mp hrun), if_neg (not_not_intro hen), if_neg (Bool.eq_false_iff.mp hrun)]
  rfl

theorem frameBoundary_disabled (hrun : flag s (dpoReg d 4) 0 = false) (hen : flag (groupBoundary s d) (dpoReg d 0) 31 = false) :
    frameBoundary s d bad = setFlag (groupBoundary s d) (dpoReg d 4) 0 false := by
  rw [groupBoundary] at hen ⊢
  unfold frameBoundary
  dsimp only
  rw [if_neg fun h => absurd h.1 (Bool.eq_false_iff.mp hrun), if_pos (Bool.eq_false_iff.mp hen)]

end Sys2Proof.Proofs
end

section
/-! # O37: lines, fetches, underruns and coefficient loads (R340, R343 to R347, R350, R360) -/
namespace Sys2Proof.Proofs
open Sys2Proof Sys2Proof.Machine Sys2Proof.Safety Sys2Proof.Laws

variable {σ s u : State} {d i row : Nat}

/-! ## Scaling ahead changes the scaled lines alone (R345) -/

/-- Output `d` may hold other scaled lines; its other parts, and the registers, are the same. -/
structure Scales (d : Nat) (s u : State) : Prop where
  regs : u.regs = s.regs
  out : dpoOf u d = { dpoOf s d with scaled := (dpoOf u d).scaled }

theorem Scales.refl (s : State) : Scales d s s := ⟨rfl, rfl⟩

theorem Scales.put (h : Scales d σ s) (l : List ScLine) : Scales d σ (setDpo s d { dpoOf s d with scaled := l }) :=
  ⟨h.regs, by rw [dpoOf_setDpo, h.out]⟩

theorem Scales.ite {c : Prop} [Decidable c] {x y : State} (hx : Scales d σ x) (hy : Scales d σ y) : Scales d σ (if c then x else y) := by
  split <;> assumption

theorem Scales.scaleAhead {n : Nat} (h : Scales d σ s) : Scales d σ (scaleAhead d i n s) := by
  induction n generalizing s with
  | zero => exact h
  | succ n ih => exact .ite h (ih (h.put _))

theorem Scales.scaleRings (h : Scales d σ s) : Scales d σ (scaleRings s d) :=
  List.foldlRecOn _ _ (h.put _) fun _ h _ _ => .ite h.scaleAhead h

theorem Scales.scaleLines (h : Scales d σ s) : Scales d σ (scaleLines s d) := .ite h h.scaleRings

/-! ## A line begins (R340, R360) -/

/-- The next line of the output has begun, and stripes that were done are seen so. -/
def lineBegun (s : State) (d : Nat) : State := seeDone (setDpo s d { dpoOf s d with line := (dpoOf s d).line + 1 }) d

theorem dpoOf_lineBegun (s : State) (d : Nat) :
    dpoOf (lineBegun s d) d = { dpoOf s d with line := (dpoOf s d).line + 1, stripes := (dpoOf (lineBegun s d) d).stripes } := by
  rw [lineBegun, seeDone, dpoOf_setDpo, dpoOf_setDpo]

theorem lineBegun_regs (s : State) (d : Nat) : (lineBegun s d).regs = s.regs := rfl

/-- At line 0 a coefficient load that has not completed is late. -/
def lateCounted (s : State) (d : Nat) : State := if (dpoOf s d).coefLoad then dpoErr (bump s (dpoReg d 0x6C)) d 0x0808 else s

theorem rd_lateCounted_ne (s : State) (d : Nat) {x : Nat} (h : x ≠ 0x6C ∧ x ≠ 4) : rd (lateCounted s d) (dpoReg d x) = rd s (dpoReg d x) :=
  rd_ite ((rd_dpoErr_ne _ d _ h.2).trans (rd_bump_ne s (dpoReg_ne d h.1))) rfl

theorem rd_lateCounted (h : (dpoOf s d).coefLoad = true) : rd (lateCounted s d) (dpoReg d 0x6C) = rd s (dpoReg d 0x6C) + 1 := by
  rw [lateCounted, if_pos h, rd_dpoErr_ne _ d _ (by decide), rd_bump]

theorem rd_stampFlip_ne (s : State) (d : Nat) (t : Time) {x : Nat} (h : x ≠ 0x3C ∧ x ≠ 0x40 ∧ x ≠ 0x44) :
    rd (stampFlip s d t) (dpoReg d x) = rd s (dpoReg d x) :=
  (rd_wrReg_ne _ _ _ _ (dpoReg_ne d h.2.2)).trans ((rd_wrReg_ne _ _ _ _ (dpoReg_ne d h.2.1)).trans (rd_wrReg_ne _ _ _ _ (dpoReg_ne d h.1)))

theorem rd_stampFlip (s : State) (d : Nat) (t : Time) : rd (stampFlip s d t) (dpoReg d 0x44) = rd s (dpoReg d 0x30) := rd_wrReg_same _ _ _

/-- Line 0 has begun; a flip is not stamped yet. -/
def lineZeroBegun (s : State) (d : Nat) : State := setDpo (lateCounted s d) d { dpoOf s d with flipped := false, zeroAt := s.clk.tb }

theorem lineZero_eq (s : State) (d : Nat) :
    lineZero s d = if (dpoOf s d).flipped then stampFlip (lineZeroBegun s d) d s.clk.tb else lineZeroBegun s d := rfl

theorem dpoOf_lineZero (s : State) (d : Nat) : dpoOf (lineZero s d) d = { dpoOf s d with flipped := false, zeroAt := s.clk.tb } := by
  rw [lineZero_eq]
  split <;> exact dpoOf_setDpo _ _ _

theorem rd_lineZero_ne (s : State) (d : Nat) {x : Nat} (h : x ≠ 0x6C ∧ x ≠ 4) (h' : x ≠ 0x3C ∧ x ≠ 0x40 ∧ x ≠ 0x44) :
    rd (lineZero s d) (dpoReg d x) = rd s (dpoReg d x) := by
  rw [lineZero_eq]
  exact rd_ite ((rd_stampFlip_ne _ d _ h').trans (rd_lateCounted_ne s d h)) (rd_lateCounted_ne s d h)

theorem rd_lineZero_late (h : (dpoOf s d).coefLoad = true) : rd (lineZero s d) (dpoReg d 0x6C) = rd s (dpoReg d 0x6C) + 1 := by
  rw [lineZero_eq]
  exact rd_ite ((rd_stampFlip_ne _ d _ (by decide)).trans (rd_lateCounted h)) (rd_lateCounted h)

theorem rd_lineZero_flip (h : (dpoOf s d).flipped = true) : rd (lineZero s d) (dpoReg d 0x44) = rd s (dpoReg d 0x30) := by
  rw [lineZero_eq, if_pos h, rd_stampFlip]
  exact rd_lateCounted_ne s d (by decide)

/-! ## A line is composed (R343, R347) -/

theorem length_composeLine (s : State) (d y : Nat) : (composeLine s d y).length = hActive s d := by
  rw [composeLine, List.length_map, length_rangeFrom]

theorem hActive_of_rd (h : rd u (dpoReg d 0x14) = rd s (dpoReg d 0x14)) : hActive u d = hActive s d := fld_of_rd h 16 16

theorem rd_scanLine_ne (s : State) (d : Nat) {x : Nat} (h : x ≠ 0x5C) : rd (scanLine s d) (dpoReg d x) = rd s (dpoReg d x) :=
  rd_ite (rd_bump_ne s (dpoReg_ne d h)) rfl

theorem scanLine_out (s : State) (d : Nat) :
    (dpoOf (scanLine s d) d).line = (dpoOf s d).line ∧ (dpoOf (scanLine s d) d).pix.length = hActive s d := by
  rw [scanLine, dpoOf_setDpo]
  exact ⟨rfl, length_composeLine s d _⟩

/-- The line that has begun is an active one: at line 0 the frame's load and flip are judged, and the line is composed. -/
def lineSent (s : State) (d : Nat) : State := scanLine (if (dpoOf s d).line = 0 then lineZero s d else s) d

theorem rd_lineSent_ne (s : State) (d : Nat) {x : Nat} (h : x ∉ [0x5C, 0x6C, 4, 0x3C, 0x40, 0x44]) :
    rd (lineSent s d) (dpoReg d x) = rd s (dpoReg d x) := by
  simp only [List.mem_cons, List.not_mem_nil, or_false, not_or] at h
  obtain ⟨h5C, h6C, h4, hstamp⟩ := h
  exact (rd_scanLine_ne _ d h5C).trans (rd_ite (rd_lineZero_ne s d ⟨h6C, h4⟩ hstamp) rfl)

theorem lineSent_out (s : State) (d : Nat) :
    (dpoOf (lineSent s d) d).line = (dpoOf s d).line ∧ (dpoOf (lineSent s d) d).pix.length = hActive s d := by
  obtain ⟨hline, hpix⟩ := scanLine_out (if (dpoOf s d).line = 0 then lineZero s d else s) d
  refine ⟨hline.trans ?_, hpix.trans (hActive_of_rd (rd_ite (rd_lineZero_ne s d (by decide) (by decide)) rfl))⟩
  split
  · exact (congrArg Dpo.line (dpoOf_lineZero s d) :)
  · rfl

theorem rd_lineSent_late (h0 : (dpoOf s d).line = 0) (h : (dpoOf s d).coefLoad = true) :
    rd (lineSent s d) (dpoReg d 0x6C) = rd s (dpoReg d 0x6C) + 1 := by
  rw [lineSent, if_pos h0, rd_scanLine_ne _ d (by decide), rd_lineZero_late h]

theorem rd_lineSent_flip (h0 : (dpoOf s d).line = 0) (h : (dpoOf s d).flipped = true) :
    rd (lineSent s d) (dpoReg d 0x44) = rd s (dpoReg d 0x30) := by
  rw [lineSent, if_pos h0, rd_scanLine_ne _ d (by decide), rd_lineZero_flip h]

/-- Before line 0, where a coefficient load is still open, the scaled lines are made with the image in force (R350). -/
def scaledBefore (s : State) (d : Nat) : State := if (dpoOf s d).line + 1 = 0 ∧ (dpoOf s d).coefLoad then scaleRings s d else s

theorem scales_scaledBefore (s : State) (d : Nat) : Scales d s (scaledBefore s d) := .ite (Scales.refl s).scaleRings (.refl s)

/-- What SCAN_LINE_START makes of an output with a line still to come. -/
def nextLine (s : State) (d : Nat) : State :=
  if (dpoOf s d).line + 1 < 0 then lineBegun s d else scaleLines (lineSent (lineBegun s d) d) d

theorem execScanLineStart_next {t : Time} {d : Fin 4} (hrun : flag s (dpoReg d 4) 0 = true) (hline : (dpoOf s d).line + 1 < (vActive s d : Int)) :
    execScanLineStart t d s = .next (nextLine (scaledBefore (advance s t) d) d) := by
  refine congrArg _ ((if_neg (not_or.mpr ⟨not_not_intro hrun, not_le.mpr hline⟩)).trans ?_)
  have hbegun : (dpoOf (lineBegun (scaledBefore (advance s t) d) d) d).line = (dpoOf (scaledBefore (advance s t) d) d).line + 1 :=
    congrArg Dpo.line (dpoOf_lineBegun _ _)
  rw [nextLine, lineSent, hbegun]
  rfl

theorem nextLine_blank (h : (dpoOf s d).line + 1 < 0) : nextLine s d = lineBegun s d := if_pos h

theorem scales_nextLine (h : 0 ≤ (dpoOf s d).line + 1) : Scales d (lineSent (lineBegun s d) d) (nextLine s d) := by
  rw [nextLine, if_neg (not_lt.mpr h)]
  exact (Scales.refl _).scaleLines

theorem line_lineBegun (s : State) (d : Nat) : (dpoOf (lineBegun s d) d).line = (dpoOf s d).line + 1 :=
  (congrArg Dpo.line (dpoOf_lineBegun s d) :)

theorem line_nextLine (s : State) (d : Nat) : (dpoOf (nextLine s d) d).line = (dpoOf s d).line + 1 := by
  by_cases h : (dpoOf s d).line + 1 < 0
  · rw [nextLine_blank h, line_lineBegun]
  · rw [(scales_nextLine (not_lt.mp h)).out]
    exact (lineSent_out _ d).1.trans (line_lineBegun s d)

theorem length_pix_nextLine (h : 0 ≤ (dpoOf s d).line + 1) : (dpoOf (nextLine s d) d).pix.length = hActive s d := by
  rw [(scales_nextLine h).out]
  exact (lineSent_out _ d).2

theorem rd_nextLine_late (h0 : (dpoOf s d).line + 1 = 0) (h : (dpoOf s d).coefLoad = true) :
    rd (nextLine s d) (dpoReg d 0x6C) = rd s (dpoReg d 0x6C) + 1 := by
  have hload : (dpoOf (lineBegun s d) d).coefLoad = (dpoOf s d).coefLoad := (congrArg Dpo.coefLoad (dpoOf_lineBegun s d) :)
  rw [rd_of_regs (scales_nextLine h0.ge).regs, rd_lineSent_late ((line_lineBegun s d).trans h0) (hload.trans h)]
  rfl

theorem rd_nextLine_flip (h0 : (dpoOf s d).line + 1 = 0) (h : (dpoOf s d).flipped = true) :
    rd (nextLine s d) (dpoReg d 0x44) = rd s (dpoReg d 0x30) := by
  have hflip : (dpoOf (lineBegun s d) d).flipped = (dpoOf s d).flipped := (congrArg Dpo.flipped (dpoOf_lineBegun s d) :)
  rw [rd_of_regs (scales_nextLine h0.ge).regs, rd_lineSent_flip ((line_lineBegun s d).trans h0) (hflip.trans h)]
  rfl

/-! ## A source row is fetched (R344 to R346) -/

theorem findLine_cons (l : List BufLine) (i row : Nat) (bs : List Byte) (bad : List Nat) :
    findLine (⟨i, row, bs, bad⟩ :: l) i row = some ⟨i, row, bs, bad⟩ :=
  List.find?_cons_of_pos (by simp)

theorem lines_addCulled (s : State) (d n : Nat) : (dpoOf (addCulled s d n) d).lines = (dpoOf s d).lines :=
  (congrArg Dpo.lines (dpoOf_setDpo s d { dpoOf s d with culled := ((dpoOf s d).culled + n) % 1024 }) :)

theorem lines_scanPoison (s : State) (d : Nat) (bad : List Nat) : (dpoOf (scanPoison s d bad) d).lines = (dpoOf s d).lines := by
  unfold scanPoison
  split <;> rfl

/-- The layer's ring has room for a row that the layer still needs and does not hold. -/
structure RowFits (s : State) (d i row : Nat) : Prop where
  within : row < lf s d i 0x18 16 16
  needed : firstNeeded s d i ≤ row
  absent : findLine (dpoOf s d).lines i row = none
  room : ((dpoOf s d).lines.filter (fun l => decide (l.layer = i))).length < lf s d i 0x24 0 8

/-- The bytes of a row of the picture that layer `i` shows. -/
def rowBytes (s : State) (d i row buf pitch : Nat) : List Byte :=
  rdMem s (buf + (lf s d i 0x14 16 16 + row) * pitch + lf s d i 0x14 0 16 * pixBytes (lf s d i 0 20 3)) (lf s d i 0x18 0 16 * pixBytes (lf s d i 0 20 3))

theorem findLine_fetchSource {bad : List Nat} {buf co pitch : Nat} (hpic : layPic (dropPassed s d) d i = some (buf, co, pitch))
    (hfits : RowFits (dropPassed s d) d i row) (hneed : neededBlocks (dropPassed s d) d i row ≠ []) :
    findLine (dpoOf (fetchSource s d i row bad) d).lines i row =
      some ⟨i, row, rowBytes (dropPassed s d) d i row buf pitch, bad.filter (neededBlocks (dropPassed s d) d i row).contains⟩ := by
  obtain ⟨hwithin, hneeded, habsent, hroom⟩ := hfits
  unfold fetchSource
  dsimp only
  rw [hpic]
  dsimp only
  rw [if_neg (by simp only [not_or, Nat.not_le, Nat.not_lt, habsent]; exact ⟨hwithin, hneeded, by decide, hroom⟩),
    if_neg (mt List.isEmpty_iff.mp hneed), (Scales.refl _).scaleLines.out]
  dsimp only
  rw [lines_addCulled, lines_scanPoison, dpoOf_setDpo]
  exact findLine_cons _ _ _ _ _

theorem execLineFetch_source {t : Time} {d : Fin 4} (hrun : flag s (dpoReg d 4) 0 = true) (hi : i < 8) (bad : List Nat) :
    execLineFetch t d (.source i row) bad s = .next (fetchSource (advance s t) d i row bad) :=
  congrArg _ ((if_neg (not_not_intro hrun)).trans (if_pos hi))

/-! ## An absent pixel (R347) -/

/-- Pixel `k` of the line being sent repeats the pixel before it, and counts. -/
def pixelRepeated (s : State) (d k : Nat) (p : Pix) : State :=
  bump (setDpo s d { dpoOf s d with pix := setNth (dpoOf s d).pix k (some p), under := true }) (dpoReg d 0x50)

theorem execPixelUnderrun_absent {t : Time} {d : Fin 4} {k : Nat} {p : Pix} (hk : (dpoOf s d).pix[k]? = some none)
    (hp : (if k = 0 then some (dpoOf s d).lastPix else nth none (dpoOf s d).pix (k - 1)) = some p) : execPixelUnderrun t d k s =
      .next (if (dpoOf s d).under then pixelRepeated (advance s t) d k p else bump (pixelRepeated (advance s t) d k p) (dpoReg d 0x4C)) := by
  have hk' : (dpoOf (advance s t) d).pix[k]? = some none := hk
  have hp' : (if k = 0 then some (dpoOf (advance s t) d).lastPix else nth none (dpoOf (advance s t) d).pix (k - 1)) = some p := hp
  unfold execPixelUnderrun
  dsimp only
  rw [hk', hp']
  rfl

/-! ## Coefficients (R350) -/

/-- The coefficient image that the address registers of output `d` name. -/
def coefImage (s : State) (d : Nat) : List Byte := rdMem s (fld s (dpoReg d 0x80) 6 26 * 64 + 2 ^ 32 * fld s (dpoReg d 0x84) 0 16) 1792

/-- What the completion of a load in progress makes of the output: the image is in force at once in blanking, else from the next frame on. -/
def coefTaken (s : State) (d : Nat) : State :=
  if (dpoOf s d).line < 0 then scaleLines (setDpo s d { dpoOf s d with coefLoad := false, coef := coefImage s d }) d
  else setDpo s d { dpoOf s d with coefLoad := false, coefNext := some (coefImage s d) }

theorem execCoefLoadComplete_loading {t : Time} {d : Fin 4} (h : (dpoOf s d).coefLoad = true) :
    execCoefLoadComplete t d s = .next (coefTaken (advance s t) d) := congrArg _ (if_neg (not_not_intro h))

theorem coefTaken_blanking (h : (dpoOf s d).line < 0) :
    (coefTaken s d).regs = s.regs ∧ (dpoOf (coefTaken s d) d).coefLoad = false ∧ (dpoOf (coefTaken s d) d).coef = coefImage s d := by
  rw [coefTaken, if_pos h]
  have hs := (Scales.refl (d := d) (setDpo s d { dpoOf s d with coefLoad := false, coef := coefImage s d })).scaleLines
  have hout := hs.out.trans (by rw [dpoOf_setDpo])
  exact ⟨hs.regs, congrArg Dpo.coefLoad hout, congrArg Dpo.coef hout⟩

theorem coefTaken_active (h : 0 ≤ (dpoOf s d).line) :
    (coefTaken s d).regs = s.regs ∧
      dpoOf (coefTaken s d) d = { dpoOf s d with coefLoad := false, coefNext := some (coefImage s d) } := by
  rw [coefTaken, if_neg (not_lt.mpr h)]
  exact ⟨rfl, dpoOf_setDpo _ _ _⟩

/-- Settles O37: a boundary by whether the output runs and is enabled, a line by whether it is an active one, and each of the other three by the
one state it leads to; that memory stays is what each command's allowance says. -/
theorem framesLinesAndPixels : Obligations.FramesLinesAndPixels := by
  refine ⟨fun t d bad s => ?_, fun t d s hrun hline => ?_, fun t d i row bad s buf co pitch hrun hi => ?_, fun t d k s p hk hp => ?_,
    fun t d s hload => ?_⟩
  · have hexec : exec (.dpoFrameBoundary t d bad) s = .next (frameBoundary (advance s t) d bad) := exec_dpoFrameBoundary s t d bad
    refine ⟨fun hrun hline => ?_, groupBoundary_held (s := advance s t) (d := d), fun hrun hline hen => ?_, fun hrun hen => ?_, fun hrun hen => ?_⟩
    · rwa [frameBoundary_within (s := advance s t) hrun hline] at hexec
    · rw [frameBoundary_running (s := advance s t) hrun hline hen] at hexec
      exact ⟨_, hexec, rfl, (newFrame_reads rfl).2.trans (congrArg (· + 1) (rd_skipIssued_ne _ d (by decide)))⟩
    · rw [frameBoundary_starting (s := advance s t) hrun hen] at hexec
      obtain ⟨hon, hzero⟩ := outputStarted_reads (groupBoundary (advance s t) d) d
      obtain ⟨hruns, hcount⟩ := newFrame_reads (bad := bad) (hon.of_rd (rd_skipIssued_ne _ d (by decide)))
      exact ⟨_, hexec, hruns, by rw [hcount, rd_skipIssued_ne _ d (by decide), hzero]; rfl⟩
    · rw [frameBoundary_disabled (s := advance s t) hrun hen] at hexec
      exact ⟨_, hexec, flag_setFlag_same _ _ (by decide) _, rfl⟩
  · have hexec := (exec_scanLineStart s t d).trans (execScanLineStart_next (t := t) hrun hline)
    have hmem := (exec_follows _ s _ hexec).mem rfl
    obtain ⟨hregs, hout⟩ := scales_scaledBefore (advance s t) d
    have hrd (o : Nat) : rd (scaledBefore (advance s t) d) o = rd s o := rd_of_regs hregs o
    have hl : (dpoOf (scaledBefore (advance s t) d) d).line = (dpoOf s d).line := (congrArg Dpo.line hout :)
    refine ⟨_, hexec, by rw [line_nextLine, hl], hmem, fun h => ?_, fun h => ?_, fun h0 h => ?_, fun h0 h => ?_⟩
    · rw [nextLine_blank (by rwa [hl])]
      exact ⟨(congrArg Dpo.pix ((dpoOf_lineBegun _ _).trans (by rw [hout])) :), hregs⟩
    · rw [length_pix_nextLine (by rwa [hl])]
      exact hActive_of_rd (hrd _)
    · rw [rd_nextLine_late (by rwa [hl]) ((congrArg Dpo.coefLoad hout :).trans h), hrd]
    · rw [rd_nextLine_flip (by rwa [hl]) ((congrArg Dpo.flipped hout :).trans h), hrd]
  · intro v hpic hwithin hneeded habsent hroom hneed
    have hexec := (exec_lineFetch s t d (.source i row) bad).trans (execLineFetch_source hrun hi bad)
    exact ⟨_, hexec, (exec_follows _ s _ hexec).mem rfl, findLine_fetchSource hpic ⟨hwithin, hneeded, habsent, hroom⟩ hneed⟩
  · have hexec := (exec_pixelUnderrun s t d k).trans (execPixelUnderrun_absent (t := t) hk hp)
    have hcount : rd (pixelRepeated (advance s t) d k p) (dpoReg d 0x50) = rd s (dpoReg d 0x50) + 1 := rd_bump _ _
    have hline : rd (pixelRepeated (advance s t) d k p) (dpoReg d 0x4C) = rd s (dpoReg d 0x4C) := rd_bump_ne _ (dpoReg_ne d (by decide))
    have hpix : (dpoOf (pixelRepeated (advance s t) d k p) d).pix = setNth (dpoOf s d).pix k (some p) :=
      congrArg Dpo.pix (dpoOf_setDpo (advance s t) d { dpoOf s d with pix := setNth (dpoOf s d).pix k (some p), under := true })
    have hmem := (exec_follows _ s _ hexec).mem rfl
    refine ⟨_, hexec, hmem, ?_, ?_, ?_⟩ <;> split
    · exact hpix
    · exact hpix
    · exact hcount
    · exact (rd_bump_ne _ (dpoReg_ne d (by decide))).trans hcount
    · exact hline
    · exact (rd_bump _ _).trans (congrArg (· + 1) hline)
  · have hexec := (exec_coefLoadComplete s t d).trans (execCoefLoadComplete_loading (t := t) hload)
    have hmem := (exec_follows _ s _ hexec).mem rfl
    by_cases hblank : (dpoOf s d).line < 0
    · obtain ⟨hregs, hdone, hcoef⟩ := coefTaken_blanking (s := advance s t) hblank
      exact ⟨_, hexec, hregs, hmem, hdone, fun _ => hcoef, fun h => absurd hblank (not_lt.mpr h)⟩
    · obtain ⟨hregs, hout⟩ := coefTaken_active (s := advance s t) (not_lt.mp hblank)
      exact ⟨_, hexec, hregs, hmem, congrArg Dpo.coefLoad hout, fun h => absurd h hblank,
        fun _ => ⟨congrArg Dpo.coefNext hout, (congrArg Dpo.coef hout :)⟩⟩

end Sys2Proof.Proofs
end

section
/-! # O38: neural stripes (R353 to R356, R358, R359) -/
namespace Sys2Proof.Proofs
open Sys2Proof Sys2Proof.Machine Sys2Proof.Safety Sys2Proof.Laws

variable {s : State} {d k f : Nat} {bad : List Nat} {n0 n : Snap} {q : Sel} {p : NStripe}

/-! ## The release of a stripe -/

/-- At the release point of a frame that has no selection yet, the selection is made (R359). -/
def selectionMade (s : State) (d k f : Nat) (bad : List Nat) : State :=
  if k = 0 ∧ (selFor s d f).isNone then selectFrame s d f bad else s

/-- The line of output `d` is the release line of stripe `k` of frame `f`, which has a selection, is enabled, lies in the layer and was not
released before. -/
structure AtRelease (s : State) (d k f : Nat) (bad : List Nat) (n0 n : Snap) (q : Sel) : Prop where
  released : releaseSnap s d k = some n0
  line : frameAtLine s d ((slf n0 0x1C 16 16 : Int) + 64 * k - (nf n0 0x8C 16 16 : Nat)) = some f
  selected : selFor (selectionMade s d k f bad) d f = some q
  fields : snapOf (selectionMade s d k f bad) d q = some n
  enabled : nf n 0x88 31 1 = 1
  within : 64 * k < slf n 0x20 16 16
  fresh : (dpoOf (selectionMade s d k f bad) d).stripes.any (fun p => decide (p.frame = f) && decide (p.idx = k)) = false

/-- The stripe is skipped, and counts (R355). -/
def stripeSkipped (s : State) (d k f : Nat) (q : Sel) (n : Snap) : State :=
  bump (setDpo s d { dpoOf s d with stripes := (dpoOf s d).stripes ++ [⟨f, k, nf n 0x88 24 4, nf n 0x88 12 6 + k % (nf n 0x88 8 2 + 1), 0, false,
    false, none, n.layer, q.a.entry, q.b.entry, none⟩] }) (dpoReg d 0x58)

/-- Whether stripe `k` may be requested: its slot is free, the slots are not blocked (R358), and the frame is not one without requests (R361). -/
def mayRequest (s : State) (d k f : Nat) (n : Snap) : Bool := slotFree s d k n && !(dpoOf s d).blocked && decide ((dpoOf s d).quiet ≠ some f)

theorem mayRequest_false (h : slotFree s d k n = false ∨ (dpoOf s d).blocked = true ∨ (dpoOf s d).quiet = some f) : mayRequest s d k f n = false := by
  obtain h | h | h := h <;> simp [mayRequest, h]

theorem stripeRelease_atRelease (h : AtRelease s d k f bad n0 n q) : stripeRelease s d k bad =
    if mayRequest (selectionMade s d k f bad) d k f n then issueStripe (selectionMade s d k f bad) d k f q n
    else stripeSkipped (selectionMade s d k f bad) d k f q n := by
  obtain ⟨hreleased, hline, hsel, hsnap, hen, hwithin, hfresh⟩ := h
  unfold stripeRelease
  extract_lets snap0
  have h0 : snap0 = some n0 := by
    rw [← hreleased, releaseSnap]
    refine if_congr Iff.rfl rfl ?_
    cases (dpoOf s d).selNext <;> cases (dpoOf s d).sel <;> rfl
  rw [h0]
  dsimp only
  rw [hline]
  dsimp only
  rw [selectionMade] at hsel hsnap hfresh ⊢
  rw [hsel]
  dsimp only
  rw [hsnap]
  dsimp only
  rw [if_neg (by simp only [hen, hfresh, not_or]; exact ⟨by decide, Nat.not_le.mpr hwithin, by decide⟩)]
  rfl

theorem execStripeRelease_running {t : Time} {d : Fin 4} (h : flag s (dpoReg d 4) 0 = true) :
    execStripeRelease t d k bad s = .next (stripeRelease (advance s t) d k bad) := congrArg _ (if_pos h)

theorem stripeSkipped_counts (s : State) (d k f : Nat) (q : Sel) (n : Snap) :
    (stripeSkipped s d k f q n).mem = s.mem ∧ rd (stripeSkipped s d k f q n) (dpoReg d 0x58) = rd s (dpoReg d 0x58) + 1 :=
  ⟨rfl, rd_bump _ _⟩

/-- A request has been written and its token signalled; the number of the next one has gone up (R354). -/
def requestSent (s : State) (d : Nat) (n : Snap) (a : Nat) (bs : List Byte) : State :=
  bump (signal (wrMem s a bs) (nf n 0x88 24 4) (nf n 0x88 18 6) 1) (dpoReg d 0xA8)

theorem requestSent_reads (s : State) (d : Nat) (n : Snap) (a : Nat) (bs : List Byte) :
    rd (requestSent s d n a bs) (dpoReg d 0xA8) = rd s (dpoReg d 0xA8) + 1 ∧
    token (requestSent s d n a bs) (nf n 0x88 24 4) (nf n 0x88 18 6) = token s (nf n 0x88 24 4) (nf n 0x88 18 6) + 1 :=
  ⟨(rd_bump _ _).trans (congrArg (· + 1) (rd_signal_ne _ _ _ _ (dpoReg_ne_token d _ _ _))),
    (rd_bump_ne _ (dpoReg_ne_token d _ _ _).symm).trans (token_signal _ _ _ _)⟩

theorem requestSent_mem (s : State) (d : Nat) (n : Snap) (a : Nat) (bs : List Byte) : (requestSent s d n a bs).mem = (wrMem s a bs).mem := rfl

/-- The ring entry of the next request (R354). -/
def requestAddr (s : State) (d : Nat) (n : Snap) : Nat :=
  nf n 0x94 6 26 * 64 + 2 ^ 32 * nf n 0x98 0 16 + 64 * ((rd s (dpoReg d 0xA8)).toNat % 16)

/-- The request of stripe `k` of frame `f`, due at `due` (R354). -/
def requestOf (s : State) (d k f : Nat) (q : Sel) (n : Snap) (due : Nat) : List Byte :=
  requestBytes d (rd s (dpoReg d 0xA8)).toNat k f (min 64 (slf n 0x20 16 16 - 64 * k)) q.phase (k % (nf n 0x88 8 2 + 1)) q.a q.b
    (nf n 0x9C 16 16 * 0x10000 + 2 ^ 32 * nf n 0xA0 0 16 + k % (nf n 0x88 8 2 + 1) * nf n 0xA0 16 8 * 0x10000) due

/-- Besides the request, issuing a stripe changes the output alone. -/
theorem issueStripe_sends (s : State) (d k f : Nat) (q : Sel) (n : Snap) : ∃ due,
    (issueStripe s d k f q n).regs = (requestSent s d n (requestAddr s d n) (requestOf s d k f q n due)).regs ∧
    (issueStripe s d k f q n).mem = (wrMem s (requestAddr s d n) (requestOf s d k f q n due)).mem := by
  unfold issueStripe
  extract_lets x slots j c u goal p due seq dst bs s1 s2 s3 r
  have h2 : s2 = requestSent s d n (requestAddr s d n) (requestOf s d k f q n due) := rfl
  refine ⟨due, ?_⟩
  rw [← requestSent_mem, ← h2]
  clear_value s2
  split <;> exact ⟨rfl, rfl⟩

/-! ## The deadline of a stripe (R356) -/

/-- The line of output `d` is the deadline line of the stripe `p` of index `k`, the first that is still to be judged. -/
structure AtDeadline (s : State) (d k : Nat) (p : NStripe) (q : Sel) (n : Snap) : Prop where
  waits : (dpoOf s d).stripes.find? (fun p => decide (p.idx = k) && p.neural.isNone) = some p
  selected : selFor s d p.frame = some q
  fields : snapOf s d q = some n
  line : frameAtLine s d ((slf n 0x1C 16 16 : Int) + 64 * k - (nf n 0x8C 0 16 : Nat)) = some p.frame

/-- The stripe is judged: shown from its neural lines, or from the scaler. -/
def stripeJudged (s : State) (d k : Nat) (p : NStripe) (v : Bool) : State :=
  setDpo s d { dpoOf s d with
    stripes := (dpoOf s d).stripes.map (fun r => if r.frame = p.frame ∧ r.idx = k then { r with neural := some v } else r) }

theorem stripes_stripeJudged (s : State) (d k : Nat) (p : NStripe) (v : Bool) : (dpoOf (stripeJudged s d k p v) d).stripes =
    (dpoOf s d).stripes.map (fun r => if r.frame = p.frame ∧ r.idx = k then { r with neural := some v } else r) := by
  rw [stripeJudged, dpoOf_setDpo]

/-- When the stripe was seen done, if it was issued and no reset has blocked its slot since (R358). -/
def seenDone (s : State) (d : Nat) (p : NStripe) : Option Time := if p.dead || (dpoOf s d).blocked || !p.issued then none else p.seen

theorem seenDone_none (h : p.issued = false ∨ p.dead = true ∨ (dpoOf s d).blocked = true ∨ p.seen = none) : seenDone s d p = none := by
  obtain h | h | h | h := h <;> simp [seenDone, h]

theorem stripeDeadline_atDeadline (h : AtDeadline s d k p q n) : stripeDeadline s d k = match seenDone s d p with
    | some a => stripeSlack (stripeJudged s d k p true) d ((s.clk.tb : Int) - a)
    | none => bump (stripeJudged s d k p false) (dpoReg d 0x54) := by
  obtain ⟨hp, hq, hn, hline⟩ := h
  unfold stripeDeadline
  dsimp only
  rw [hp]
  dsimp only
  rw [hq]
  dsimp only
  rw [hn]
  dsimp only
  rw [if_neg (not_not_intro hline)]
  rfl

theorem stripeDeadline_done {a : Time} (h : AtDeadline s d k p q n) (ha : seenDone s d p = some a) :
    stripeDeadline s d k = stripeSlack (stripeJudged s d k p true) d ((s.clk.tb : Int) - a) := by
  rw [stripeDeadline_atDeadline h, ha]

theorem stripeDeadline_late (h : AtDeadline s d k p q n) (ha : seenDone s d p = none) :
    stripeDeadline s d k = bump (stripeJudged s d k p false) (dpoReg d 0x54) := by
  rw [stripeDeadline_atDeadline h, ha]

theorem rd_stripeSlack_late (s : State) (d : Nat) (v : Int) : rd (stripeSlack s d v) (dpoReg d 0x54) = rd s (dpoReg d 0x54) :=
  rd_ite (rd_wrReg_ne _ _ _ _ (dpoReg_ne d (by decide))) rfl

theorem stripeSlack_dpo (s : State) (d : Nat) (v : Int) : (stripeSlack s d v).dpo = s.dpo := by
  unfold stripeSlack
  dsimp only
  split <;> rfl

/-- Settles O38: a release by whether the stripe may be requested, a deadline by whether it was seen done. -/
theorem stripesAreRequestedAndJudged : Obligations.StripesAreRequestedAndJudged := by
  refine ⟨fun t d k f bad s n0 n q hrun => ?_, fun t d k s p q n hp hq hn hline => ?_⟩
  · intro s' hreleased hline r hsel hsnap hen hwithin hfresh
    have hexec := (exec_stripeRelease s t d k bad).trans (execStripeRelease_running (t := t) hrun)
    rw [stripeRelease_atRelease ⟨hreleased, hline, hsel, hsnap, hen, hwithin, hfresh⟩, show selectionMade s' d k f bad = r from rfl] at hexec
    clear_value r
    refine ⟨fun hfree hopen hquiet => ?_, fun hno => ?_⟩
    · have hmay : mayRequest r d k f n = true := by simp [mayRequest, hfree, hopen, hquiet]
      obtain ⟨due, hregs, hmem⟩ := issueStripe_sends r d k f q n
      obtain ⟨hseq, htok⟩ := requestSent_reads r d n (requestAddr r d n) (requestOf r d k f q n due)
      rw [if_pos hmay] at hexec
      exact ⟨_, due, hexec, (rd_of_regs hregs _).trans hseq, (token_of_regs hregs _ _).trans htok, hmem⟩
    · rw [if_neg (Bool.eq_false_iff.mp (mayRequest_false hno))] at hexec
      exact ⟨_, hexec, stripeSkipped_counts r d k f q n⟩
  · have hexec : exec (.stripeDeadline t d k) s = .next (stripeDeadline (advance s t) d k) := exec_stripeDeadline s t d k
    have hmem := (exec_follows _ s _ hexec).mem rfl
    have hat : AtDeadline (advance s t) d k p q n := ⟨hp, hq, hn, hline⟩
    refine ⟨fun hissued hdead hopen hseen => ?_, fun hlate => ?_⟩
    · obtain ⟨a, ha⟩ := Option.isSome_iff_exists.mp hseen
      have hdone : seenDone (advance s t) d p = some a :=
        (if_neg (by rw [hissued, hdead, show (dpoOf (advance s t) d).blocked = false from hopen]; decide)).trans ha
      rw [stripeDeadline_done hat hdone] at hexec hmem
      exact ⟨_, hexec, hmem, rd_stripeSlack_late _ d _,
        (congrArg Dpo.stripes (dpoOf_of_dpo (stripeSlack_dpo _ _ _) d)).trans (stripes_stripeJudged _ d k p true)⟩
    · rw [stripeDeadline_late hat (seenDone_none hlate)] at hexec hmem
      exact ⟨_, hexec, hmem, rd_bump _ _, stripes_stripeJudged _ d k p false⟩

end Sys2Proof.Proofs
end

section
/-! # O39: link training, hot plug, AUX and touch (R339, R362 to R366) -/
namespace Sys2Proof.Proofs
open Sys2Proof Sys2Proof.Machine Sys2Proof.Safety Sys2Proof.Laws

variable {σ s : State} {d p : Nat}

/-! ## Link training and hot plug (R339, R362) -/

/-- The state in which training has begun: the output keeps what the encoding and the depth of DPO_LINK act as. -/
def trainingBegun (s : State) (d : Nat) : State :=
  setFlag (setFlag (setDpo s d { dpoOf s d with ycc := decide (listed 6 2 (fld s (dpoReg d 8) 10 2) = 1), deep := flag s (dpoReg d 8) 9 })
    (dpoReg d 4) 4 true) (dpoReg d 4) 3 false

theorem dpoTrain_begins (hidle : flag s (dpoReg d 4) 4 = false) (h : linkBad s d = false) : dpoTrain d s = trainingBegun s d := by
  simp only [dpoTrain, hidle, h]
  rfl

theorem dpoTrain_refused (hidle : flag s (dpoReg d 4) 4 = false) (h : linkBad s d = true) : dpoTrain d s = dpoErr s d 0x0801 := by
  simp only [dpoTrain, hidle, h]
  rfl

theorem trainingBegun_flags (s : State) (d : Nat) :
    flag (trainingBegun s d) (dpoReg d 4) 4 = true ∧ flag (trainingBegun s d) (dpoReg d 4) 3 = false :=
  ⟨(flag_setFlag_ne _ _ (by decide) (by decide) _).trans (flag_setFlag_same _ _ (by decide) _), flag_setFlag_same _ _ (by decide) _⟩

theorem dpoOf_trainingBegun (s : State) (d : Nat) : dpoOf (trainingBegun s d) d =
    { dpoOf s d with ycc := decide (listed 6 2 (fld s (dpoReg d 8) 10 2) = 1), deep := flag s (dpoReg d 8) 9 } := dpoOf_setDpo s d _

/-- The state in which training has ended. -/
def trainingEnded (s : State) (d : Nat) (ok : Bool) : State := setFlag (setFlag s (dpoReg d 4) 4 false) (dpoReg d 4) 3 ok

theorem trainingEnded_flags (s : State) (d : Nat) (ok : Bool) :
    flag (trainingEnded s d ok) (dpoReg d 4) 4 = false ∧ flag (trainingEnded s d ok) (dpoReg d 4) 3 = ok :=
  ⟨(flag_setFlag_ne _ _ (by decide) (by decide) _).trans (flag_setFlag_same _ _ (by decide) _), flag_setFlag_same _ _ (by decide) _⟩

theorem execDpoTrainDone_trains {t : Time} {d : Fin 4} {ok : Bool} (h : flag s (dpoReg d 4) 4 = true) : execDpoTrainDone t d ok s =
    .next (if ok then trainingEnded (advance s t) d ok else dpoErr (trainingEnded (advance s t) d ok) d 0x0802) :=
  congrArg _ (if_neg (not_not_intro h))

theorem execIrqHpd_lost {t : Time} {d : Fin 4} (h : flag s (dpoReg d 4) 2 = true) :
    execIrqHpd t d true s = .next (dpoErr (setFlag (advance s t) (dpoReg d 4) 3 false) d 0x0803) :=
  congrArg _ (if_pos (by rw [Bool.and_true]; exact h))

/-! ## The AUX channel (R363) -/

theorem auxGo_idle (w : Word) (h : flag s (dpoReg d 0xC4) 31 = false) : auxGo d w s =
    setFlag (wrReg (setDpo s d { dpoOf s d with tries := 0 }) (dpoReg d 0xC0) (w &&& 0x0FFFFFFF)) (dpoReg d 0xC4) 31 true :=
  if_neg (Bool.eq_false_iff.mp h)

/-- A request that has ended leaves the channel idle, with the code of its reply. -/
theorem auxEnd_reads (s : State) (d : Nat) {r : Nat} (h : r < 4) :
    flag (auxEnd s d r) (dpoReg d 0xC4) 31 = false ∧ fld (auxEnd s d r) (dpoReg d 0xC4) 2 2 = r :=
  ⟨(flag_setFld_ne _ _ (by decide) (.inr (by decide))).trans (flag_setFlag_same _ _ (by decide) _),
    (fld_setFld_same _ _ _ _ _ (by decide)).trans (Nat.mod_eq_of_lt h)⟩

/-- What a reply makes of the request in progress. -/
def auxReplied (s : State) (d : Nat) : AuxReply → State
  | .ack bs => auxEnd (if fld s (dpoReg d 0xC0) 24 4 % 2 = 1 then auxData s d (bs.take (fld s (dpoReg d 0xC0) 20 4 + 1)) else s) d 0
  | .nack => auxEnd s d 1
  | .defer => if (dpoOf s d).tries < 7 then setDpo s d { dpoOf s d with tries := (dpoOf s d).tries + 1 } else auxEnd s d 2
  | .timeout => auxEnd s d 3

theorem execAuxReply_asked {t : Time} {d : Fin 4} (r : AuxReply) (h : flag s (dpoReg d 0xC4) 31 = true) :
    execAuxReply t d r s = .next (auxReplied (advance s t) d r) := by
  refine congrArg _ ((if_neg (not_not_intro h)).trans ?_)
  cases r <;> rfl

/-! ## USB and touch (R364 to R366) -/

/-- The registers of one port lie apart. -/
theorem usbReg_ne (p : Nat) {x y : Nat} (h : x ≠ y) : canonOff (usbReg p x) ≠ canonOff (usbReg p y) :=
  canonOff_ne (by unfold usbReg; omega) (by unfold usbReg; omega) (by unfold usbReg; omega)

/-- The state in which the port shows what is attached. -/
def portShown (s : State) (p : Nat) (speed : Fin 4) : State :=
  setFlag (setFld s (usbReg p 0) 29 2 speed) (usbReg p 0) 28 (decide (speed.val ≠ 0))

theorem portShown_reads (s : State) (p : Nat) (speed : Fin 4) :
    fld (portShown s p speed) (usbReg p 0) 29 2 = speed ∧ flag (portShown s p speed) (usbReg p 0) 28 = decide (speed.val ≠ 0) :=
  ⟨(fld_setFlag_ne _ _ _ (.inr (by decide))).trans ((fld_setFld_same _ _ _ _ _ (by decide)).trans (Nat.mod_eq_of_lt speed.isLt)),
    flag_setFlag_same _ _ (by decide) _⟩

/-- The firmware writes a word of the report map. -/
def mapWord (p : Nat) (map : List Word) (s : State) (k : Nat) : State :=
  wrReg s (usbReg p (4 + 4 * k)) (mergeWord (maskOf .rw (usbReg p (4 + 4 * k))) (rd s (usbReg p (4 + 4 * k))) (nth 0 map k))

/-- The state in which the firmware has written the report map of what is attached. -/
def mapWritten (s : State) (p : Nat) (map : List Word) : State := (rangeFrom 0 (min 5 map.length)).foldl (mapWord p map) s

theorem rd_mapWritten (s : State) (p : Nat) (map : List Word) : rd (mapWritten s p map) (usbReg p 0) = rd s (usbReg p 0) :=
  rd_foldl_of_untouched s fun v k _ => rd_wrReg_ne v _ _ _ (usbReg_ne p (by omega))

theorem regSide_mapWritten (h : RegSide σ s) (map : List Word) : RegSide σ (mapWritten s p map) := h.foldl fun _ _ h => h.wrReg _ _

theorem rd_mapContact (s : State) (p x y o : Nat) : rd (mapContact s p x y).2 o = rd s o := by
  unfold mapContact
  dsimp only
  split
  · rfl
  · split <;> rfl

/-- An event of a contact counts once in the number of the next event and once in the number of those written. -/
theorem rd_touchEvent (p : Nat) (bs : List Byte) (s : State) (c : Nat) {o : Nat} (h : o = 0x24 ∨ o = 0x28) :
    rd (touchEvent p bs s c) (usbReg p o) = rd s (usbReg p o) + 1 := by
  unfold touchEvent
  extract_lets st x y tip id m s1 head flags a
  have hmap : rd s1 (usbReg p o) = rd s (usbReg p o) := rd_mapContact s p x y _
  clear_value s1 flags a
  obtain rfl | rfl := h
  · exact (rd_bump_ne _ (usbReg_ne p (by decide))).trans ((rd_bump _ _).trans (congrArg (· + 1) hmap))
  · exact (rd_bump _ _).trans (congrArg (· + 1) ((rd_bump_ne _ (usbReg_ne p (by decide))).trans hmap))

theorem rd_touchEvents (p : Nat) (bs : List Byte) {x : Nat} (h : x = 0x24 ∨ x = 0x28) (n a : Nat) (s : State) :
    rd ((rangeFrom a n).foldl (touchEvent p bs) s) (usbReg p x) = rd s (usbReg p x) + BitVec.ofNat 32 n := by
  induction n generalizing a s with
  | zero => exact (BitVec.add_zero _).symm
  | succ n ih =>
    rw [rangeFrom, List.foldl_cons, ih, rd_touchEvent p bs s a h, BitVec.add_assoc, Nat.add_comm n 1, BitVec.ofNat_add]
    rfl

/-- The port takes reports, and something is attached. -/
def TakesReports (s : State) (p : Nat) : Prop := flag s (usbReg p 0) 31 = true ∧ flag s (usbReg p 0) 28 = true

/-- The identifier of the report that the map describes. -/
def touchId (s : State) (p : Nat) : Byte := BitVec.ofNat 8 (fld s (usbReg p 4) 24 8)

theorem execUsbTouchReport_expected {t : Time} {p : Fin 2} {bs : List Byte} (h : TakesReports s p) (hid : bs.head? = some (touchId s p)) :
    execUsbTouchReport t p bs s = .next ((rangeFrom 0 (fld s (usbReg p 4) 20 4)).foldl (touchEvent p bs) (advance s t)) :=
  congrArg _ (if_pos ⟨h.1, h.2, hid⟩)

theorem execUsbTouchReport_other {t : Time} {p : Fin 2} {bs : List Byte} (hid : bs.head? ≠ some (touchId s p)) :
    execUsbTouchReport t p bs s = .next (advance s t) :=
  congrArg _ (if_neg fun h => hid h.2.2)

/-- Settles O39: each command by the one state it leads to, whose registers are then read back. -/
theorem linkAuxAndTouch : Obligations.LinkAuxAndTouch := by
  refine ⟨fun t ag d s hw hidle => ?_, fun t d ok s htrain => ?_, fun t d up s => ?_, fun t d s hpd => ?_, fun t ag d w s hw hidle => ?_,
    fun t d r s hasked => ?_, fun t p sp m s => ?_, fun t p bs s hen hconn => ⟨fun hid => ?_, fun hid => ?_⟩⟩
  · have hrun : exec (.dpoTrain t ag d) s = .next (dpoTrain d (advance s t)) :=
      (exec_dpoTrain s t ag d).trans (congrArg _ (onWrite_of_writeTakes _ hw))
    cases hbad : linkBad s d with
    | false =>
      rw [dpoTrain_begins (s := advance s t) hidle hbad] at hrun
      obtain ⟨hon, hlink⟩ := trainingBegun_flags (advance s t) d
      have hdpo := dpoOf_trainingBegun (advance s t) d
      exact ⟨_, hrun, rfl, fun _ => ⟨rfl, hon, hlink, congrArg Dpo.deep hdpo, congrArg Dpo.ycc hdpo⟩, fun h => absurd h (by decide)⟩
    | true =>
      rw [dpoTrain_refused (s := advance s t) hidle hbad] at hrun
      exact ⟨_, hrun, rfl, fun h => absurd h (by decide), fun _ => ⟨fld_dpoErr _ _ _ (by decide), (flag_dpoErr _ _ _ (by decide)).trans hidle, rfl,
        noted_dpoErr (advance s t) d _⟩⟩
  · have hrun := (exec_dpoTrainDone s t d ok).trans (execDpoTrainDone_trains htrain)
    obtain ⟨hoff, hlink⟩ := trainingEnded_flags (advance s t) d ok
    cases ok with
    | true => exact ⟨_, hrun, rfl, hoff, hlink, fun _ => rfl, fun h => absurd h (by decide)⟩
    | false =>
      exact ⟨_, hrun, rfl, (flag_dpoErr _ _ _ (by decide)).trans hoff, (flag_dpoErr _ _ _ (by decide)).trans hlink, fun h => absurd h (by decide),
        fun _ => ⟨fld_dpoErr _ _ _ (by decide), noted_dpoErr (trainingEnded (advance s t) d false) d _⟩⟩
  · cases up with
    | true => exact ⟨_, exec_hpdChange s t d true, rfl, flag_setFlag_same _ _ (by decide) _, fun h => absurd h (by decide)⟩
    | false =>
      exact ⟨_, exec_hpdChange s t d false, rfl, (flag_setFlag_ne _ _ (by decide) (by decide) _).trans (flag_setFlag_same _ _ (by decide) _),
        fun _ => flag_setFlag_same _ _ (by decide) _⟩
  · exact ⟨_, (exec_irqHpd s t d true).trans (execIrqHpd_lost hpd), rfl, (flag_dpoErr _ _ _ (by decide)).trans (flag_setFlag_same _ _ (by decide) _),
      fld_dpoErr _ _ _ (by decide), noted_dpoErr (setFlag (advance s t) (dpoReg d 4) 3 false) d _⟩
  · have hrun : exec (.auxGo t ag d w) s = .next (auxGo d w (advance s t)) := (exec_auxGo s t ag d w).trans (congrArg _ (onWrite_of_writeTakes _ hw))
    rw [auxGo_idle (s := advance s t) w hidle] at hrun
    exact ⟨_, hrun, rfl, flag_setFlag_same _ _ (by decide) _, (rd_setFlag_ne _ _ _ (dpoReg_ne d (by decide))).trans (rd_wrReg_same _ _ _)⟩
  · have hrun := (exec_auxReply s t d r).trans (execAuxReply_asked (t := t) r hasked)
    refine ⟨_, hrun, (exec_follows _ s _ hrun).mem rfl, ?_, ?_, ?_, ?_, ?_⟩
    · rintro rfl hleft
      rw [auxReplied, if_pos (show (dpoOf (advance s t) d).tries < 7 from hleft)]
      exact ⟨hasked, congrArg Dpo.tries (dpoOf_setDpo _ _ _), rfl⟩
    · rintro rfl hnone
      rw [auxReplied, if_neg (show ¬ (dpoOf (advance s t) d).tries < 7 from Nat.not_lt.mpr hnone)]
      exact auxEnd_reads _ _ (by decide)
    · rintro rfl
      exact auxEnd_reads _ _ (by decide)
    · rintro rfl
      exact auxEnd_reads _ _ (by decide)
    · rintro bs rfl
      exact auxEnd_reads _ _ (by decide)
  · have hshown := portShown_reads (advance s t) p sp
    have hrun : exec (.usbConnectChange t p sp m) s =
        .next (if sp.val = 0 then portShown (advance s t) p sp else mapWritten (portShown (advance s t) p sp) p m) := exec_usbConnectChange s t p sp m
    by_cases h0 : sp.val = 0
    · rw [if_pos h0] at hrun
      exact ⟨_, hrun, rfl, hshown⟩
    · rw [if_neg h0] at hrun
      have hrd := rd_mapWritten (portShown (advance s t) p sp) p m
      exact ⟨_, hrun, (regSide_mapWritten ⟨_, rfl⟩ m).eq, (fld_of_rd hrd 29 2).trans hshown.1, (flag_of_rd hrd 28).trans hshown.2⟩
  · exact ⟨_, (exec_usbTouchReport s t p bs).trans (execUsbTouchReport_expected ⟨hen, hconn⟩ hid), rd_touchEvents p bs (.inl rfl) _ _ _,
      rd_touchEvents p bs (.inr rfl) _ _ _⟩
  · exact (exec_usbTouchReport s t p bs).trans (execUsbTouchReport_other hid)

end Sys2Proof.Proofs
end

section
/-! # What commands leave alone: the queue, device memory, safe I/O -/
namespace Sys2Proof.Proofs
open Sys2Proof Sys2Proof.Machine Sys2Proof.Safety Sys2Proof.Laws

/-- Settles O3: the queue and device memory are two of the things that every command keeps to. -/
theorem execLeavesQueueAndMemory : Obligations.ExecLeavesQueueAndMemory :=
  fun c s u hu => ⟨(exec_follows c s u hu).pending, (exec_follows c s u hu).mem⟩

/-- Settles O4: safe I/O is one of the things that every command keeps to. -/
theorem otherCommandsLeaveSafeIoAlone : Obligations.OtherCommandsLeaveSafeIoAlone :=
  fun c s u hc hu => (exec_follows c s u hu).sio hc

end Sys2Proof.Proofs
end

section
/-! # O42: how a latch clears (R388, R390, R395)

`Latched r σ u` is what every command keeps of the stop groups: no reset is granted anew, and a latch that is set stays set, unless resets take
effect (`r`) and that of its group stood granted.  An operation that leaves safe I/O alone keeps it by its `Follows` lemma; the others, which
are those that trip, reset or return groups, have a lemma each. -/
namespace Sys2Proof.Proofs
open Sys2Proof Sys2Proof.Machine Sys2Proof.Safety Sys2Proof.Laws

structure Latched (r : Bool) (σ u : State) : Prop where
  granted : ∀ g, (grpOf u g).granted = true → (grpOf σ g).granted = true
  latch : ∀ g c, (latOf σ g c).isSome = true → (latOf u g c).isSome = true ∨ r = true ∧ (grpOf σ g).granted = true

/-- Whatever a command ends in keeps it. -/
def EndsLatched (r : Bool) (σ : State) (x : Res) : Prop := ∀ u, x = .next u → Latched r σ u

/-- May do anything but change safe I/O. -/
def besidesSafety : Allowed := ⟨true, false, true⟩

variable {r : Bool} {σ s u x y : State}

/-! ## The shapes of a definition -/

theorem Latched.refl (r : Bool) (s : State) : Latched r s s := ⟨fun _ => id, fun _ _ => .inl⟩

theorem Latched.trans (h : Latched r σ s) (k : Latched r s u) : Latched r σ u where
  granted g e := h.granted g (k.granted g e)
  latch g c e := (h.latch g c e).elim
    (fun l => (k.latch g c l).imp_right fun ⟨hr, e⟩ => ⟨hr, h.granted g e⟩) .inr

theorem latOf_of_grps (e : u.sio.grps = s.sio.grps) (g : Nat) (c : Chan) : latOf u g c = latOf s g c := by
  cases c <;> simp [latOf, grpOf, e]

theorem Latched.alike (h : Latched r σ s) (e : u.sio.grps = s.sio.grps) : Latched r σ u :=
  h.trans ⟨fun g => by simp [grpOf, e], fun g c l => .inl (by rwa [latOf_of_grps e])⟩

/-- An operation that leaves safe I/O alone. -/
theorem Latched.beside (h : Latched r σ s) (f : Follows besidesSafety s s → Follows besidesSafety s u) : Latched r σ u :=
  h.alike (congrArg Sio.grps ((f (.refl _ s)).sio rfl))

theorem Latched.ite {c : Prop} [Decidable c] (hx : Latched r σ x) (hy : Latched r σ y) : Latched r σ (if c then x else y) := by
  split <;> assumption

theorem Latched.foldl {α : Type} {f : State → α → State} {l : List α} (h : Latched r σ s) (hf : ∀ v i, Latched r σ v → Latched r σ (f v i)) :
    Latched r σ (l.foldl f s) := List.foldlRecOn l f h fun v hv i _ => hf v i hv

/-- A state that is used more than once. -/
theorem Latched.andThen {p : Prop} (h : Latched r σ s) (k : Latched r σ s → p) : p := k h

theorem Latched.next (h : Latched r σ s) : EndsLatched r σ (.next s) := by
  rintro u ⟨⟩; exact h

theorem Latched.onWrite {ag : Agent} {off : Nat} {f : State → State} (h : Latched r σ s) (hf : ∀ v, Latched r σ v → Latched r σ (f v)) :
    Latched r σ (onWrite s ag off f) :=
  onWrite_keeps s (Latched r σ) ag off f h (h.alike (by rfl)) (hf s h)

/-! ## Groups -/

theorem grpOf_setGrp_same (s : State) (g : Nat) (v : Grp) : grpOf (setGrp s g v) g = v := by simp [grpOf, setGrp]

theorem grpOf_setGrp_ne (s : State) {g k : Nat} (v : Grp) (h : k ≠ g) : grpOf (setGrp s g v) k = grpOf s k := by
  simp [grpOf, setGrp, tget_tset_ne _ _ _ _ _ h]

/-- A group is replaced by one that keeps its latches and is granted no reset anew. -/
theorem Latched.setGrp {g : Nat} {v : Grp} (h : Latched r σ s) (hg : v.granted = true → (grpOf s g).granted = true)
    (ha : (grpOf s g).latA.isSome = true → v.latA.isSome = true) (hb : (grpOf s g).latB.isSome = true → v.latB.isSome = true) :
    Latched r σ (setGrp s g v) := by
  refine h.trans ⟨fun k e => ?_, fun k c e => .inl ?_⟩
  · by_cases hk : k = g
    · subst hk; rw [grpOf_setGrp_same] at e; exact hg e
    · rwa [grpOf_setGrp_ne s v hk] at e
  · by_cases hk : k = g
    · subst hk
      cases c with
      | a => rw [latOf, grpOf_setGrp_same]; exact ha e
      | b => rw [latOf, grpOf_setGrp_same]; exact hb e
    · rwa [latOf.eq_def, grpOf_setGrp_ne s v hk, ← latOf.eq_def]

theorem Latched.wrReg {off : Nat} {w : Word} (h : Latched r σ s) : Latched r σ (wrReg s off w) := h.alike (by rfl)

theorem Latched.setFld {off lo w n : Nat} (h : Latched r σ s) : Latched r σ (setFld s off lo w n) := h.wrReg

theorem Latched.bump {off : Nat} (h : Latched r σ s) : Latched r σ (bump s off) := h.wrReg

theorem Latched.burStatus {i : Nat} {b : Bool} (h : Latched r σ s) : Latched r σ (burStatus s i b) := h.wrReg

theorem Latched.bumpFld {off lo w : Nat} (h : Latched r σ s) : Latched r σ (bumpFld s off lo w) := h.alike (by rfl)

theorem Latched.setFlag {off i : Nat} {b : Bool} (h : Latched r σ s) : Latched r σ (setFlag s off i b) := h.alike (by rfl)

theorem Latched.advance {t : Time} (h : Latched r σ s) : Latched r σ (advance s t) := h.alike (by rfl)

theorem isSome_ite_of_isSome {α : Type} {o : Option α} {t : α} {p : Bool} (h : o.isSome = true) :
    (if p && o.isNone then some t else o).isSome = true := by
  split
  · rfl
  · exact h

theorem Latched.tripOne {a b : Bool} {code g : Nat} (h : Latched r σ s) : Latched r σ (tripOne a b code s g) := by
  unfold Machine.tripOne
  extract_lets x t was first s1 s2 s3 s4
  have h2 : s2.sio = s.sio := by unfold s2; split <;> rfl
  have h3 : s3.sio = s.sio := by unfold s3; split <;> exact h2
  have h4 : s4.sio = s.sio := by unfold s4; split <;> exact h3
  clear_value s4
  have hx : grpOf s4 g = x := by simp only [grpOf, h4, x]
  have h' : Latched r σ s4 := h.alike (congrArg Sio.grps h4)
  have h5 := h'.setGrp (g := g)
    (v := { x with latA := if a && x.latA.isNone then some t else x.latA, latB := if b && x.latB.isNone then some t else x.latB,
                   req := false, granted := false, firstAt := if was then x.firstAt else some t })
    (by simp) (by rw [hx]; exact isSome_ite_of_isSome) (by rw [hx]; exact isSome_ite_of_isSome)
  exact h5.alike (by rfl)

theorem Latched.tripGroups {a b : Bool} {code : Nat} {gs : List Nat} (h : Latched r σ s) : Latched r σ (tripGroups a b code gs s) :=
  .foldl h fun _ _ h => h.tripOne

theorem Latched.hutchStop {gs : List Nat} (h : Latched r σ s) : Latched r σ (hutchStop gs s) := h.tripGroups

theorem Latched.updateStart (h : Latched r σ s) : Latched r σ (updateStart s) :=
  (Latched.ite (h.alike (by rfl)) h).andThen fun h1 => .ite (.ite h1 (Latched.alike h1 (by rfl)).tripGroups) (.ite (h1.alike (by rfl)) h1)

theorem Latched.refuseReset {g : Nat} (h : Latched r σ s) : Latched r σ (refuseReset s g) :=
  Latched.bumpFld (h.setGrp (v := { grpOf s g with req := false, granted := false }) (by simp) id id)

theorem Latched.requestReset {g : Nat} (h : Latched r σ s) : Latched r σ (requestReset s g) :=
  .ite h (.ite (h.setGrp (v := { grpOf s g with req := true }) id id id) h.refuseReset)

/-! ## Safe inputs and outputs -/

theorem Latched.levelOn {i : Nat} {c : Chan} (h : Latched r σ s) : Latched r σ (levelOn s i c) := by
  cases c <;> exact h.alike (by rfl)

theorem Latched.setDemand {i : Nat} {c : Chan} {d : Bool} (h : Latched r σ s) : Latched r σ (setDemand s i c d) := h.alike (by rfl)

theorem Latched.leaveDemand {i : Nat} {c : Chan} (h : Latched r σ s) : Latched r σ (leaveDemand s i c) :=
  (Latched.alike (u := levelOff s i c) h (by rfl)).andThen fun h1 => .ite h1 (h1.setDemand.andThen fun h2 => .ite h2 (h2.alike (by rfl)))

theorem Latched.sinFails {i : Nat} (h : Latched r σ s) : Latched r σ (sinFails s i) :=
  (Latched.alike (s := s) h (by rfl)).tripGroups

theorem Latched.sioReset {w : Word} (h : Latched r σ s) : Latched r σ (sioReset s w) := .foldl h fun _ _ h => h.requestReset

theorem Latched.execLatchSet {t : Time} {g : Fin 8} {code : Fin 16} {a b : Bool} (h : Latched r σ s) :
    EndsLatched r σ (execLatchSet t g code a b s) := .next (.ite h.advance.tripOne h.advance)

theorem Latched.execSafeInputDemand {t : Time} {i : Fin 8} {c : Chan} (h : Latched r σ s) : EndsLatched r σ (execSafeInputDemand t i c s) :=
  h.advance.levelOn.andThen fun h1 => .next (.ite h1 (h1.setDemand.andThen fun h2 => (Latched.ite h2 (h2.alike (by rfl))).andThen fun h3 =>
    .ite h3.tripGroups (.ite (h3.alike (by rfl)) h3)))

theorem Latched.execSafeInputDemandEnd {t : Time} {i : Fin 8} {c : Chan} {both : Bool} (h : Latched r σ s) :
    EndsLatched r σ (execSafeInputDemandEnd t i c both s) :=
  h.advance.leaveDemand.andThen fun h1 => .next (.ite h1.leaveDemand h1)

theorem Latched.execTestPulse {t : Time} {out : Bool} {n : Fin 8} {c : Chan} (h : Latched r σ s) : EndsLatched r σ (execTestPulse t out n c s) :=
  h.advance.andThen fun h1 => .next (.ite (.ite h1 (h1.alike (by rfl))) (.ite h1 (h1.alike (by rfl))))

theorem Latched.execTestPulseFault {t : Time} {i : Fin 8} {c : Chan} (h : Latched r σ s) : EndsLatched r σ (execTestPulseFault t i c s) := by
  unfold Machine.execTestPulseFault
  dsimp only
  refine .next ?_
  split
  · exact h.advance
  · exact .ite (h.advance.alike (u := Machine.setSin _ _ _) (by rfl)).sinFails h.advance

theorem Latched.execDiscrepancyTimeout {t : Time} {i : Fin 8} (h : Latched r σ s) : EndsLatched r σ (execDiscrepancyTimeout t i s) := by
  unfold Machine.execDiscrepancyTimeout
  dsimp only
  refine .next ?_
  split
  · exact h.advance
  · exact .ite h.advance.sinFails h.advance

theorem Latched.readsBad {o : Nat} {c : Chan} (h : Latched r σ s) : Latched r σ (readsBad s o c) := by
  cases c <;> exact h.alike (by rfl)

theorem Latched.execOutputReadbackFault {t : Time} {o : Fin 8} {c : Chan} (h : Latched r σ s) :
    EndsLatched r σ (execOutputReadbackFault t o c s) :=
  .next (.ite h.advance (h.advance.readsBad.andThen fun h1 => .ite h1.setFlag.tripGroups h1))

theorem Latched.execOutputFaultClear {t : Time} {o : Fin 8} (h : Latched r σ s) : EndsLatched r σ (execOutputFaultClear t o s) :=
  .next (.ite (h.advance.alike (by rfl)) h.advance)

theorem Latched.execBrakeDelayExpire {t : Time} {o : Fin 8} (h : Latched r σ s) : EndsLatched r σ (execBrakeDelayExpire t o s) :=
  .next (.ite (h.advance.alike (by rfl)) h.advance)

theorem Latched.execResetButtonRelease {t : Time} {i : Fin 8} (h : Latched r σ s) : EndsLatched r σ (execResetButtonRelease t i s) := by
  unfold Machine.execResetButtonRelease
  extract_lets v x s1
  have hv : Latched r σ v := h.advance
  have h1 : Latched r σ s1 := hv.alike (by rfl)
  clear_value s1
  refine .next (.ite hv ?_)
  split
  · exact h1
  · exact .ite (.foldl h1 fun _ _ h => h.requestReset) h1

theorem Latched.execSioReset {t : Time} {ag : Agent} {w : Word} (h : Latched r σ s) : EndsLatched r σ (execSioReset t ag w s) :=
  .next (.onWrite h.advance fun _ h => h.sioReset)

/-! ## The Hutch -/

theorem Latched.execChannelDecisionMismatch {t : Time} (h : Latched r σ s) : EndsLatched r σ (execChannelDecisionMismatch t s) := by
  unfold Machine.execChannelDecisionMismatch
  dsimp only
  refine .next ?_
  split
  · split
    · exact h.advance
    · exact ((h.advance.beside Follows.clearDiffs).hutchStop).beside Follows.hutEvent
  · exact h.advance

theorem Latched.execChannelRestartDone {t : Time} {c : Chan} {ok : Bool} (h : Latched r σ s) :
    EndsLatched r σ (execChannelRestartDone t c ok s) :=
  h.advance.andThen fun h1 => .next (.ite h1
    (.ite (h1.beside fun f => f.setHchan.clearDiffs.superviseNow rfl)
      (.ite (h1.beside Follows.setHchan) ((h1.beside Follows.setHchan).hutchStop.beside fun f => f.superviseNow rfl))))

theorem Latched.beginSupervision (h : Latched r σ s) : Latched r σ (beginSupervision s) :=
  .ite h (Latched.updateStart (h.beside fun f => (f.alike (by rfl)).superviseNow rfl))

theorem Latched.execSupervisionStart {t : Time} (h : Latched r σ s) : EndsLatched r σ (execSupervisionStart t s) :=
  .next (.ite h.advance.beginSupervision h.advance)

theorem Latched.execTimebaseCrosscheck {t : Time} {c : Chan} {ppm : Nat} (h : Latched r σ s) :
    EndsLatched r σ (execTimebaseCrosscheck t c ppm s) :=
  .next (.ite ((h.advance.beside Follows.setHchan).hutchStop.beside Follows.hutEvent) h.advance)

theorem Latched.execSContextLost {t : Time} {p : Fin 16} (h : Latched r σ s) : EndsLatched r σ (execSContextLost t p s) :=
  .next (.ite ((h.advance.beside fun f => f.alike (by rfl)).hutchStop.beside Follows.hutEvent) h.advance)

theorem Latched.sRestart {p : Nat} (h : Latched r σ s) : Latched r σ (sRestart s p) :=
  h.hutchStop.beside fun f =>
    ((((Follows.foldl f fun _ _ h => h.modHzone.setFld).alike (by rfl)).statusRecord rfl).bump.partReset rfl).hutEvent

theorem Latched.zoneCompare {z ctr : Nat} (h : Latched r σ s) : Latched r σ (zoneCompare s z ctr) := by
  unfold Machine.zoneCompare
  dsimp only
  split
  · exact h
  · split
    · exact (h.beside fun f => f.closeCmp.zoneOutcome).andThen fun h1 => .ite h1
        ((h1.beside fun f => f.bump.bump.hutEvent).andThen fun h2 => .ite h2.sRestart h2)
    · exact h

theorem Latched.execZoneCompare {t : Time} {z : Fin 16} {ctr : Nat} (h : Latched r σ s) : EndsLatched r σ (execZoneCompare t z ctr s) :=
  .next h.advance.zoneCompare

theorem Latched.mbSend (h : Latched r σ s) : Latched r σ (mbSend s) := by
  unfold Machine.mbSend
  split
  · exact h.beside Follows.mbKick
  · exact h.hutchStop.alike (by rfl)
  · exact h.beside Follows.mbInvalidate
  · exact h.beside Follows.mbRead
  · exact h.beside Follows.mbReject

theorem Latched.execStopGroups {t : Time} {ag : Agent} (h : Latched r σ s) : EndsLatched r σ (execStopGroups t ag s) :=
  .next (.onWrite h.advance fun _ h => .ite (h.hutchStop.alike (by rfl)) h)

/-! ## Motion -/

theorem Latched.takeSet {n m : Nat} (h : Latched r σ s) : Latched r σ (takeSet n s m) := by
  unfold Machine.takeSet
  dsimp only
  split
  · exact (h.beside fun f => (Follows.ite f.bumpBy.wrReg f.bumpBy).setMport).tripGroups
  · exact (h.beside fun f => f.bumpBy.bump.bump.setMport).andThen fun h1 => .ite h1.tripGroups h1

theorem Latched.invalidInputs {m : Nat} (h : Latched r σ s) : Latched r σ (invalidInputs s m) :=
  (h.beside Follows.setMport).andThen fun h1 => .ite h1.tripGroups h1

theorem Latched.frameLost {m : Nat} (h : Latched r σ s) : Latched r σ (frameLost s m) := by
  unfold Machine.frameLost
  dsimp only
  split
  · exact h
  · exact (h.beside fun f => f.bump.finishTx.setMport).invalidInputs.beside fun f => f.drawBytes.draw.inputSet rfl

theorem Latched.frameReturn {m : Nat} {broken : Bool} {x : FrameCopy} {y : Option FrameCopy} (h : Latched r σ s) :
    Latched r σ (frameReturn s m broken x y) := by
  unfold Machine.frameReturn
  dsimp only
  split
  · exact h
  · split
    · exact h
    · exact .ite h ((Latched.ite (h.beside Follows.setFld) h).andThen fun h1 => .ite h1.frameLost
        ((Latched.ite (h1.beside fun f => .foldl f.finishTx.setMport fun _ _ h => h.keepPos)
          (h1.beside fun f => f.finishTx.setMport.bump).invalidInputs).beside fun f => .inputSet (.ite f.bump f) rfl))

theorem Latched.execFrameReturn {t : Time} {m : Fin 2} {broken : Bool} {x : FrameCopy} {y : Option FrameCopy} (h : Latched r σ s) :
    EndsLatched r σ (execFrameReturn t m broken x y s) := .next h.advance.frameReturn

theorem Latched.execFrameLossTimeout {t : Time} {m : Fin 2} (h : Latched r σ s) : EndsLatched r σ (execFrameLossTimeout t m s) := by
  unfold Machine.execFrameLossTimeout
  dsimp only
  refine .next ?_
  split
  · exact h.advance
  · exact .ite h.advance.frameLost h.advance

theorem Latched.chanBCheck {x : Tx} {inp : Option InSet} {e : Nat × Nat × Nat × Nat} (h : Latched r σ s) :
    Latched r σ (chanBCheck x inp s e) := .ite h.tripOne h

theorem Latched.frameSend {m : Nat} {ac : List Dgram} (h : Latched r σ s) : Latched r σ (frameSend s m ac) := by
  unfold Machine.frameSend
  dsimp only
  split
  · exact h
  · exact .ite h (.beside (.foldl (h.beside fun f => .setMport (.drawBytes (.foldl f fun _ _ h => h.dropGroup))) fun _ _ h => h.chanBCheck)
      Follows.setMport)

theorem Latched.execFrameSend {t : Time} {x : FrameOut} (h : Latched r σ s) : EndsLatched r σ (execFrameSend t x s) := .next h.advance.frameSend

theorem Latched.axisCycle {b : Option (List Byte)} {act : Option InSet} {a : Nat} (h : Latched r σ s) : Latched r σ (axisCycle b act s a) := by
  unfold Machine.axisCycle
  dsimp only
  refine .foldl (h.beside fun f => .setMaxis (.wrReg ?_)) fun _ _ h => (h.beside fun f => f.bump.setFld).tripOne
  split
  · exact f.lastPos
  · exact f

/-! ## An emission point: the one place where a reset takes effect (R395) -/

/-- A group whose reset stands granted returns to RUN. -/
theorem Latched.groupRun {g : Nat} (h : Latched true σ s) (hg : (grpOf s g).granted = true) : Latched true σ (groupRun s g) := by
  refine Latched.wrReg (h.trans ⟨fun k e => ?_, fun k c e => ?_⟩)
  · by_cases hk : k = g
    · rw [hk]; exact hg
    · rwa [grpOf_setGrp_ne s _ hk] at e
  · by_cases hk : k = g
    · rw [hk]; exact .inr ⟨rfl, hg⟩
    · left; rwa [latOf.eq_def, grpOf_setGrp_ne s _ hk, ← latOf.eq_def]

theorem Latched.groupGrant {g : Nat} (h : Latched true σ s) : Latched true σ (groupGrant s g) := by
  unfold Machine.groupGrant
  split
  · exact h
  · next hg => exact .ite ((h.groupRun (not_not.mp hg)).beside fun f => .foldl f fun _ _ h => .ite h.setMaxis h) h.refuseReset

/-- A BRAKE output turns on without a change of any group. -/
theorem grps_brakesOn (s : State) : (brakesOn s).sio.grps = s.sio.grps :=
  List.foldlRecOn (motive := fun (v : State) => v.sio.grps = s.sio.grps) _ _ rfl fun v hv o _ => by
    dsimp only
    split
    · exact hv
    · exact hv

theorem Latched.brakesOn (h : Latched r σ s) : Latched r σ (brakesOn s) := h.alike (grps_brakesOn s)

theorem Latched.emission (h : Latched true σ s) : Latched true σ (emission s) := by
  unfold Machine.emission
  extract_lets n ports s1 sets acts s2 s3 s4 s5 s6
  have h1 : Latched true σ s1 := .updateStart (.foldl h fun _ _ h => h.frameLost)
  have h2 : Latched true σ s2 := .foldl h1 fun _ _ h => h.takeSet
  have h3 : Latched true σ s3 := (Latched.foldl h2 fun _ _ h => h.groupGrant).brakesOn
  have h4 : Latched true σ s4 := h3.beside fun f => .foldl f fun _ _ h => h.showZone
  have h5 : Latched true σ s5 := .foldl h4 fun _ _ h => .foldl h fun _ _ h => h.axisCycle
  have h6 : Latched true σ s6 := h5.beside fun f => .foldl f fun _ _ h => h.setMport
  clear_value s6
  exact h6.alike (by rfl)

theorem Latched.execEmissionPoint {t : Time} (h : Latched true σ s) : EndsLatched true σ (execEmissionPoint t s) :=
  .next (.ite h.advance.emission h.advance)

/-! ## Supplies, boundaries and resets -/

/-- The groups of a state in which START holds anew: latches as they were, no reset asked for or granted. -/
def resetsDropped (t : Tab Grp) : Tab Grp := t.map fun e => (e.1, { e.2 with req := false, granted := false })

theorem tget_resetsDropped (t : Tab Grp) (g : Nat) :
    tget Grp.reset (resetsDropped t) g = { tget Grp.reset t g with req := false, granted := false } := by
  rw [tget, resetsDropped, tget?_mapValues (fun v : Grp => { v with req := false, granted := false }), tget]
  cases tget? t g <;> rfl

theorem Latched.withResetsDropped (h : Latched r σ s) (e : u.sio.grps = resetsDropped s.sio.grps) : Latched r σ u := by
  have hg (g : Nat) : grpOf u g = { grpOf s g with req := false, granted := false } := by rw [grpOf, e, tget_resetsDropped, grpOf]
  refine h.trans ⟨fun g k => ?_, fun g c k => .inl ?_⟩
  · rw [hg] at k; exact absurd k (by simp)
  · cases c with
    | a => rw [latOf, hg]; exact k
    | b => rw [latOf, hg]; exact k

/-- Safe I/O as at power-on: every latch is set (R390). -/
theorem latched_of_reset (h : u.sio.grps = []) : Latched r σ u := by
  have hg (g : Nat) : grpOf u g = Grp.reset := by rw [grpOf, h]; rfl
  refine ⟨fun g k => ?_, fun g c _ => .inl ?_⟩
  · rw [hg] at k; exact absurd k (by decide)
  · cases c with
    | a => rw [latOf, hg]; rfl
    | b => rw [latOf, hg]; rfl

theorem Latched.holdStart (h : Latched r σ s) : Latched r σ (holdStart s) :=
  (Latched.ite h h.tripGroups).withResetsDropped (by rfl)

theorem Latched.powerDown (h : Latched r σ s) : Latched r σ (powerDown s) := by
  unfold Machine.powerDown
  extract_lets s1 s2 _ b _ _ s3
  have h1 : Latched r σ s1 := h.hutchStop
  clear_value s1
  have h2 : Latched r σ s2 := .holdStart (h1.beside fun f => .clearMain (f.withMem rfl fun _ => rfl) rfl)
  clear_value s2
  have h3 : Latched r σ s3 := h2.beside fun f => .burShow (f.alike (by rfl))
  exact h3.setFld

theorem sio_moduleReset (s : State) (cause : Nat) : (moduleReset cause s).sio = Sio.reset := by
  unfold moduleReset
  extract_lets up s1 _ _ s2 s3 s4
  have h2 : s2.sio = Sio.reset := rfl
  clear_value s2
  have h4 : s4.sio = Sio.reset := by unfold s4; split <;> exact h2
  clear_value s4
  exact ((Follows.refl besidesSafety s4).setFld.burShow.sio rfl).trans h4

theorem Latched.moduleReset {cause : Nat} : Latched r σ (moduleReset cause s) :=
  latched_of_reset (congrArg Sio.grps (sio_moduleReset s cause))

theorem Latched.resetWrite {w : Word} (h : Latched r σ s) : Latched r σ (resetWrite w s) :=
  .ite h (.ite .moduleReset (.ite (h.beside Follows.mgmtReset) h))

theorem Latched.recovWrite {w : Word} (h : Latched r σ s) : Latched r σ (recovWrite w s) :=
  .ite h (.ite (h.alike (by rfl)) (.ite (h.alike (by rfl)) .moduleReset))

theorem Latched.execPowerDown {t : Time} {why : PowerLoss} (h : Latched r σ s) : EndsLatched r σ (execPowerDown t why s) := by
  unfold Machine.execPowerDown
  extract_lets v b s1 b1 s2
  have hv : Latched r σ v := h.advance
  have h1 : Latched r σ s1 := hv.powerDown
  clear_value v s1
  refine .next (.ite hv ?_)
  split
  · exact .ite hv (Latched.powerDown (hv.alike (by rfl)))
  · exact (Latched.alike h1 (by rfl)).burStatus.wrReg

theorem Latched.execRailSequenceStep {t : Time} {ok : Bool} {n : Fin 12} {status : Word} (h : Latched r σ s) :
    EndsLatched r σ (execRailSequenceStep t ok n status s) := by
  unfold Machine.execRailSequenceStep
  extract_lets v n s1 b s2 b3 s3 s4
  have hv : Latched r σ v := h.advance
  have h1 : Latched r σ s1 := hv.powerDown
  clear_value v s1
  have h3 : Latched r σ s3 := hv.alike (by rfl)
  clear_value s3
  have h4 : Latched r σ s4 := .ite (h3.alike (by rfl)) h3
  clear_value s4
  exact .next (.ite hv (.ite (.ite hv (Latched.alike h1 (by rfl)).burStatus.wrReg) (h4.beside fun f => (Follows.ite (f.alike (by rfl)) f).burShow)))

theorem Latched.execSensorSample {t : Time} {vals rates : List Nat} (h : Latched r σ s) : EndsLatched r σ (execSensorSample t vals rates s) := by
  unfold Machine.execSensorSample
  extract_lets v s1 s2 s3 s4 _ s5 s6
  have hv : Latched r σ v := h.advance
  have h4 : Latched r σ s4 := hv.beside fun f => .foldl (.foldl (.foldl (.foldl f fun _ _ h => h.setFld) fun _ _ h => h.setFld.setFld)
    fun _ _ h => h.setFld) fun _ _ h => h.setFld
  clear_value s4
  have h5 : Latched r σ s5 := h4.alike (by rfl)
  have h6 : Latched r σ s6 := h5.powerDown
  clear_value s6
  exact .next (.ite hv (.ite (Latched.alike h6 (by rfl)).burStatus (h5.beside Follows.floorCheck)))

theorem Latched.execPowerOn {t : Time} {vin : Bool} : EndsLatched r σ (execPowerOn t vin s) := .next (latched_of_reset (by rfl))

theorem Latched.execVstby3v3Loss {t : Time} : EndsLatched r σ (execVstby3v3Loss t s) := .next (latched_of_reset (by rfl))

theorem Latched.standbyBoundary {b : Time} (h : Latched r σ s) : Latched r σ (standbyBoundary b s) := by
  unfold Machine.standbyBoundary
  split
  · exact h
  · extract_lets _ s1 s2 _
    have h1 : Latched r σ s1 := h.alike (by rfl)
    have h2 : Latched r σ s2 := h1.powerDown
    clear_value s2
    exact .ite h (.ite h1.bump.burStatus (Latched.alike h2 (by rfl)).setFld)

theorem Latched.afterCommits {e : Nat} (h : Latched r σ s) : Latched r σ (afterCommits e s) :=
  (h.standbyBoundary.beside fun f => f.quietGate.gateBanks).andThen fun h1 =>
    .ite h1 (h1.beside fun f => .gangBoundary (.goldenFrames (.foldl f fun _ _ h => h.snapRing)))

theorem Latched.execEpochBoundary (h : Latched r σ s) : EndsLatched r σ (execEpochBoundary s) := by
  refine .next ?_
  unfold Machine.epochAt
  extract_lets s1 _ _ s2 s3
  have h2 : Latched r σ s2 := h.alike (by rfl)
  clear_value s1 s2
  have h3 : Latched r σ s3 := .ite (h2.beside fun f => f.commitEpoch rfl).afterCommits h2
  exact h3.setFlag.updateStart

theorem Latched.execModuleReset {t : Time} {ag : Agent} {w : Word} (h : Latched r σ s) : EndsLatched r σ (execModuleReset t ag w s) :=
  .next (.onWrite h.advance fun _ h => h.resetWrite)

theorem Latched.execManagementReset {t : Time} {ag : Agent} {w : Word} (h : Latched r σ s) : EndsLatched r σ (execManagementReset t ag w s) :=
  .next (.onWrite h.advance fun _ h => h.resetWrite)

theorem Latched.execResetNAssert {t : Time} {ns : Nat} {held : Bool} (h : Latched r σ s) : EndsLatched r σ (execResetNAssert t ns held s) := by
  unfold Machine.execResetNAssert
  extract_lets v d go _ _ s1 s2
  have hv : Latched r σ v := h.advance
  have hd : Latched r σ d.2 := hv.alike (by rfl)
  have h1 : Latched r σ s1 := hv.alike (by rfl)
  have h2 : Latched r σ s2 := .moduleReset
  clear_value d v s1 s2
  exact .next (.ite hv (.ite (.ite h1 (h1.beside Follows.leaveExtest)) (.ite (.ite hv hd) (h2.alike (by rfl)))))

theorem Latched.execBootRecovGo {t : Time} {ag : Agent} {w : Word} (h : Latched r σ s) : EndsLatched r σ (execBootRecovGo t ag w s) :=
  .next (.onWrite h.advance fun _ h => h.recovWrite)

/-! ## Writes of any register -/

theorem Latched.writeGlb {off : Nat} {w : Word} (h : Latched r σ s) : Latched r σ (writeGlb off w s) := by
  unfold Machine.writeGlb
  split
  · exact h.beside Follows.writeAdj
  · exact h.beside fun f => .ite f.bump f.wrReg
  · exact h.beside Follows.tbSet
  · exact h.resetWrite
  · exact h.beside Follows.holdWrite
  · exact h.beside Follows.discardGroups
  · exact h.beside Follows.verWrite
  · exact h.beside Follows.plainWrite

theorem Latched.writeHut {off : Nat} {w : Word} (h : Latched r σ s) : Latched r σ (writeHut off w s) :=
  .ite (.ite h.mbSend h) (.ite (h.beside Follows.plainWrite) h)

theorem Latched.writeWord {ag : Agent} {off : Nat} {w : Word} (h : Latched r σ s) : Latched r σ (writeWord ag off w s) := by
  unfold Machine.writeWord
  split
  · exact h.beside Follows.bump
  · split
    · exact h.writeGlb
    · exact h.beside Follows.writeBur
    · exact h.writeHut
    · exact .ite h.recovWrite (h.beside Follows.plainWrite)
    · exact h.beside fun f => .ite f.tokSignal f.plainWrite
    · exact h.beside fun f => f.writeShc rfl
    · exact h.beside fun f => f.writeTc rfl
    · exact h.beside Follows.writeVdc
    · exact h.beside Follows.writeDpo
    · exact h.beside fun f => .ite f.wrReg f.plainWrite
    · exact .ite h.sioReset (h.beside Follows.plainWrite)
    · exact h.beside Follows.writeHif
    · exact h.beside Follows.plainWrite

theorem Latched.busWrite {ag : Agent} {off be : Nat} {w : Word} (h : Latched r σ s) : Latched r σ (busWrite s ag off be w) :=
  .ite (.onWrite h fun _ h => h.alike (by rfl)) (.ite (.onWrite h fun _ h => h.alike (by rfl)) (.onWrite h fun _ h => h.writeWord))

theorem Latched.execRegisterWrite {t : Time} {ag : Agent} {off : Nat} {be : Fin 16} {w : Word} (h : Latched r σ s) :
    EndsLatched r σ (execRegisterWrite t ag off be w s) := .next h.advance.busWrite

theorem Latched.modRun {m : PolMod} {as : List ModAccess} (h : Latched r σ s) : Latched r σ (modRun m as s).2 := by
  induction as generalizing s with
  | nil => exact h
  | cons a as ih =>
    cases a with
    | read off =>
      unfold Machine.modRun
      split
      · exact ih (h.beside Follows.readEffect)
      · exact h
    | write off w fits =>
      unfold Machine.modRun
      split
      · exact ih (.ite h h.busWrite)
      · exact h

theorem Latched.execPolicyCallback {t : Time} {j : Nat} {kind : CallKind} {acc : List ModAccess} {us : Nat} (h : Latched r σ s) :
    EndsLatched r σ (execPolicyCallback t j kind acc us s) := by
  unfold Machine.execPolicyCallback
  dsimp only
  refine .next ?_
  split
  · exact h.advance
  · exact .ite h.advance ((h.advance.beside Follows.holdWrite).modRun.beside fun f =>
      ((Follows.ite f.polFault.discardGroups f).alike (by rfl)).holdWrite)

/-! ## Management commands -/

theorem Latched.plainReply {n : Nat} (h : Latched r σ s) : Latched r σ (plainReply n s).st := h

theorem Latched.cmdWriteReg {b : List Byte} (h : Latched r σ s) : Latched r σ (cmdWriteReg b s).st := by
  unfold Machine.cmdWriteReg
  extract_lets off
  split
  · exact h
  · split
    · exact h
    · exact Latched.plainReply h.busWrite

theorem Latched.carryOut {m : List Byte} {ok : Bool} (h : Latched r σ s) : Latched r σ (carryOut m ok s).st := by
  unfold Machine.carryOut
  dsimp only
  split
  · exact h
  · split
    · exact h
    · split
      · exact h
      · exact h.beside Follows.cmdReadReg
      · exact h.cmdWriteReg
      · exact h.beside Follows.cmdReadMem
      · exact h.beside fun f => f.cmdWriteMem rfl
      · exact h.beside Follows.cmdImageWrite
      · exact h.beside Follows.cmdReset
      · exact h

theorem Latched.afterReply {m : List Byte} {q : Reply} (h : Latched r σ s) : Latched r σ (afterReply m q s) :=
  .ite h (.ite (h.beside Follows.mgmtReset) .moduleReset)

theorem Latched.mboxServe {cmd m : Nat} {ok : Bool} (h : Latched r σ s) : Latched r σ (mboxServe cmd m ok s) := by
  unfold Machine.mboxServe
  split
  · exact h
  · refine .ite h ?_
    extract_lets _ s1 q s2
    have h1 : Latched r σ s1 := h.alike (by rfl)
    clear_value s1
    have hq : Latched r σ q.st := by
      unfold q
      split
      · exact h1
      · exact h1.carryOut
    clear_value q
    have h2 : Latched r σ s2 := .ite (hq.beside Follows.mboxReply) hq
    exact .ite h2 h2.afterReply

theorem Latched.serveNext {cmd m : Nat} {t : Time} (h : Latched r σ s) : EndsLatched r σ (.next (Machine.mboxServe cmd m true (Machine.advance s t))) :=
  .next h.advance.mboxServe

theorem Latched.imageStart {m : Nat} {v : State} (h : Latched r σ s) (hv : imageStart m s = some v) : Latched r σ v :=
  h.beside fun f => f.imageStart v hv

theorem Latched.execMgmtImageWrite {t : Time} {m : Fin 8} {w : ImageStep} (h : Latched r σ s) : EndsLatched r σ (execMgmtImageWrite t m w s) := by
  unfold Machine.execMgmtImageWrite
  dsimp only
  refine .next ?_
  split
  · cases hv : Machine.imageStart m (Machine.advance s t) with
    | none => exact h.advance.mboxServe
    | some v => exact h.advance.imageStart hv
  · exact h.advance.beside Follows.imageFinish

theorem Latched.serveDatagram {src : Nat} {bytes : List Byte} {ok : Bool} (h : Latched r σ s) : Latched r σ (serveDatagram src bytes ok s) := by
  unfold Machine.serveDatagram
  extract_lets c _ s1 msg q b s2 v s3
  have hq : Latched r σ q.st := Latched.carryOut (h.alike (by rfl))
  clear_value q
  have h3 : Latched r σ s3 := .ite (hq.alike (by rfl)) hq
  exact .ite h (.ite (h.alike (by rfl)) h3.afterReply)

theorem Latched.execMgmtDatagram {t : Time} {p : Fin 8} {udp src : Nat} {bytes : List Byte} {ok : Bool} (h : Latched r σ s) :
    EndsLatched r σ (execMgmtDatagram t p udp src bytes ok s) := by
  unfold Machine.execMgmtDatagram
  dsimp only
  refine .next (.ite h.advance ?_)
  split
  · exact h.advance
  · exact Latched.serveDatagram (h.alike (by rfl))

theorem Latched.execSmbusTransaction {t : Time} {msg : List Byte} {pec ok : Bool} (h : Latched r σ s) :
    EndsLatched r σ (execSmbusTransaction t msg pec ok s) :=
  h.advance.carryOut.andThen fun h1 => .next (.ite h.advance (Latched.afterReply (.ite (h1.alike (by rfl)) h1)))

end Sys2Proof.Proofs
end

section
/-! # O42: the theorem -/
namespace Sys2Proof.Proofs
open Sys2Proof Sys2Proof.Machine Sys2Proof.Safety Sys2Proof.Laws

/-- The commands that neither grant a reset nor let one take effect. -/
def keepsGrants (c : Instr) : Bool := match c with
  | .groupResetGrant .. | .emissionPoint .. => false
  | _ => true

/-- Each safety command by its lemma; the others leave safe I/O alone. -/
theorem exec_latched (c : Instr) (s : State) (hc : keepsGrants c = true) : EndsLatched false s (exec c s) := by
  have h : Latched false s s := .refl _ s
  by_cases hsafe : safetyCommand c = false
  · exact fun u hu => h.alike (congrArg Sio.grps (otherCommandsLeaveSafeIoAlone c s u hsafe hu))
  · cases c with
    | groupResetGrant => exact absurd hc Bool.false_ne_true
    | emissionPoint => exact absurd hc Bool.false_ne_true
    | epochBoundary => exact h.execEpochBoundary
    | frameSend => exact h.execFrameSend
    | frameReturn => exact h.execFrameReturn
    | frameLossTimeout => exact h.execFrameLossTimeout
    | latchSet => exact h.execLatchSet
    | safeInputDemand => exact h.execSafeInputDemand
    | safeInputDemandEnd => exact h.execSafeInputDemandEnd
    | testPulse => exact h.execTestPulse
    | testPulseFault => exact h.execTestPulseFault
    | discrepancyTimeout => exact h.execDiscrepancyTimeout
    | outputReadbackFault => exact h.execOutputReadbackFault
    | outputFaultClear => exact h.execOutputFaultClear
    | brakeDelayExpire => exact h.execBrakeDelayExpire
    | resetButtonRelease => exact h.execResetButtonRelease
    | sioReset => exact h.execSioReset
    | channelDecisionMismatch => exact h.execChannelDecisionMismatch
    | channelRestartDone => exact h.execChannelRestartDone
    | supervisionStart => exact h.execSupervisionStart
    | timebaseCrosscheck => exact h.execTimebaseCrosscheck
    | zoneCompare => exact h.execZoneCompare
    | sContextLost => exact h.execSContextLost
    | stopGroups => exact h.execStopGroups
    | powerOn => exact Latched.execPowerOn
    | vstby3v3Loss => exact Latched.execVstby3v3Loss
    | railSequenceStep => exact h.execRailSequenceStep
    | powerDown => exact h.execPowerDown
    | sensorSample => exact h.execSensorSample
    | bootRecovGo => exact h.execBootRecovGo
    | policyCallback => exact h.execPolicyCallback
    | resetNAssert => exact h.execResetNAssert
    | moduleReset => exact h.execModuleReset
    | managementReset => exact h.execManagementReset
    | registerWrite => exact h.execRegisterWrite
    | mgmtVersion => exact h.serveNext
    | mgmtReadReg => exact h.serveNext
    | mgmtWriteReg => exact h.serveNext
    | mgmtReadMem => exact h.serveNext
    | mgmtWriteMem => exact h.serveNext
    | mgmtReset => exact h.serveNext
    | mgmtEcho => exact h.serveNext
    | mgmtImageWrite => exact h.execMgmtImageWrite
    | mgmtDatagram => exact h.execMgmtDatagram
    | smbusTransaction => exact h.execSmbusTransaction
    | _ => exact absurd rfl hsafe

theorem latOf_setGrp {s : State} {g : Nat} {v : Grp} (ha : v.latA = (grpOf s g).latA) (hb : v.latB = (grpOf s g).latB) (k : Nat) (c : Chan) :
    latOf (setGrp s g v) k c = latOf s k c := by
  by_cases hk : k = g
  · subst hk; cases c <;> simp [latOf, grpOf_setGrp_same, ha, hb]
  · simp [latOf, grpOf_setGrp_ne s v hk]

/-- A reset that is granted waits for the emission point: the latches stay. -/
theorem latOf_execGroupResetGrant {t : Time} {g : Fin 8} {ok : Bool} {s u : State} (hu : execGroupResetGrant t g ok s = .next u) (k : Nat)
    (c : Chan) (l : (latOf s k c).isSome = true) : (latOf u k c).isSome = true := by
  have hs : ∀ v : State, Latched false s v → (latOf v k c).isSome = true := fun v h => (h.latch k c l).resolve_right (by simp)
  have hv : Latched false s (advance s t) := (Latched.refl false s).advance
  unfold execGroupResetGrant at hu
  dsimp only at hu
  injection hu with hu
  subst hu
  split
  · exact hs _ hv
  · split
    · exact (congrArg Option.isSome (latOf_setGrp (by rfl) (by rfl) k c)).trans (hs _ hv)
    · exact hs _ hv.refuseReset

theorem exec_latch {c : Instr} {s u : State} (hu : exec c s = .next u) {g : Nat} {ch : Chan} (l : (latOf s g ch).isSome = true) :
    (latOf u g ch).isSome = true ∨ (grpOf s g).granted = true ∧ ∃ t, c = .emissionPoint t := by
  by_cases hc : keepsGrants c = true
  · exact .inl (((exec_latched c s hc u hu).latch g ch l).resolve_right (by simp))
  · cases c with
    | groupResetGrant => exact .inl (latOf_execGroupResetGrant hu g ch l)
    | emissionPoint t =>
      exact ((Latched.execEmissionPoint (.refl true s) u hu).latch g ch l).imp_right fun ⟨_, hg⟩ => ⟨hg, t, rfl⟩
    | _ => exact absurd rfl hc

/-- Settles O42: every command keeps the latches (`exec_latched`), a grant only waits (R395), and an emission point clears only what was
granted; the tick has no command and keeps them as well. -/
theorem latchClearsOnlyThroughItsReset : Obligations.LatchClearsOnlyThroughItsReset := by
  intro s u g c hu l hclear
  cases hp : s.pending with
  | nil =>
    rw [step_nil hp] at hu
    injection hu with hu
    have keeps : Latched false s u := hu ▸ (Latched.refl false s).beside Follows.idle
    have stays := (keeps.latch g c l).resolve_right (by simp)
    rw [hclear] at stays
    exact absurd stays (by decide)
  | cons c' r =>
    rw [step_cons hp] at hu
    obtain stays | ⟨hg, t, rfl⟩ := exec_latch hu (s := { s with pending := r }) (g := g) (ch := c) l
    · rw [hclear] at stays
      exact absurd stays (by decide)
    · exact ⟨hg, t, r, rfl⟩

end Sys2Proof.Proofs
end

section
/-! # Stop groups: what a trip sets, and what it leaves alone (R388, R389) -/
namespace Sys2Proof.Proofs
open Sys2Proof Sys2Proof.Machine Sys2Proof.Safety Sys2Proof.Laws

/-! ## Registers outside the cores' windows -/

/-- An offset at which a register has one name only (R487). -/
def soleName (off : Nat) : Prop := off < 0x100000 ∨ 0x200000 ≤ off

theorem canonOff_of_soleName {off : Nat} (h : soleName off) : canonOff off = off := by
  rcases h with h | h
  · exact canonOff_of_lt h
  · exact canonOff_of_ge h

theorem canonOff_ne_of_soleName {o p : Nat} (ho : soleName o) (hp : soleName p) (h : o ≠ p) : canonOff o ≠ canonOff p := by
  rwa [canonOff_of_soleName ho, canonOff_of_soleName hp]

theorem soleName_grpReg (g o : Nat) : soleName (grpReg g o) := .inr (by unfold grpReg; omega)

/-! ## One group -/

section
variable (a b : Bool) (code : Nat) (s : State) (g : Nat)

@[simp] theorem grpOf_dropGroup (k : Nat) : grpOf (dropGroup s g) k = grpOf s k := rfl

/-- What a trip makes of its group. -/
theorem grpOf_tripOne_same : grpOf (tripOne a b code s g) g =
    { latA := if a && (grpOf s g).latA.isNone then some s.clk.tb else (grpOf s g).latA,
      latB := if b && (grpOf s g).latB.isNone then some s.clk.tb else (grpOf s g).latB,
      req := false, granted := false,
      firstAt := if (grpOf s g).latA.isSome || (grpOf s g).latB.isSome then (grpOf s g).firstAt else some s.clk.tb } := by
  unfold tripOne
  dsimp only
  rw [grpOf_dropGroup, grpOf_setGrp_same]

/-- The cause that a trip records is the only change to the causes of its group. -/
theorem rd_tripOne_causes : rd (tripOne a b code s g) (grpReg g 4) = rd s (grpReg g 4) ||| BitVec.ofNat 32 (2 ^ (code % 16)) := by
  have h0 : canonOff (grpReg g 4) ≠ canonOff (grpReg g 0) :=
    canonOff_ne_of_soleName (soleName_grpReg _ _) (soleName_grpReg _ _) (by unfold grpReg; omega)
  have h8 : canonOff (grpReg g 4) ≠ canonOff (grpReg g 8) :=
    canonOff_ne_of_soleName (soleName_grpReg _ _) (soleName_grpReg _ _) (by unfold grpReg; omega)
  unfold tripOne
  extract_lets x t was first s1 s2 s3 s4
  have h1 : rd s1 (grpReg g 4) = rd s (grpReg g 4) ||| BitVec.ofNat 32 (2 ^ (code % 16)) := rd_wrReg_same _ _ _
  have h2 : rd s2 (grpReg g 4) = _ := rd_ite ((rd_setFld_ne s1 _ _ _ _ _ h0).trans h1) h1
  have h3 : rd s3 (grpReg g 4) = _ := rd_ite h2 ((rd_setFld_ne s2 _ _ _ _ _ h8).trans h2)
  exact rd_ite (x := bumpFld s3 (grpReg g 8) 16 16) ((rd_setFld_ne s3 _ _ _ _ _ h8).trans h3) h3

/-- A trip writes the three registers of its group that record it. -/
theorem rd_tripOne_ne {off : Nat} (hs : soleName off) (h : off ≠ grpReg g 0 ∧ off ≠ grpReg g 4 ∧ off ≠ grpReg g 8) :
    rd (tripOne a b code s g) off = rd s off := by
  obtain ⟨h0, h4, h8⟩ := h
  replace h0 := canonOff_ne_of_soleName hs (soleName_grpReg g 0) h0
  replace h4 := canonOff_ne_of_soleName hs (soleName_grpReg g 4) h4
  replace h8 := canonOff_ne_of_soleName hs (soleName_grpReg g 8) h8
  unfold tripOne
  extract_lets x t was first s1 s2 s3 s4
  have h1 : rd s1 off = rd s off := rd_wrReg_ne _ _ _ _ h4
  have h2 : rd s2 off = rd s off := rd_ite ((rd_setFld_ne s1 _ _ _ _ _ h0).trans h1) h1
  have h3 : rd s3 off = rd s off := rd_ite h2 ((rd_setFld_ne s2 _ _ _ _ _ h8).trans h2)
  exact rd_ite (x := bumpFld s3 (grpReg g 8) 16 16) ((rd_setFld_ne s3 _ _ _ _ _ h8).trans h3) h3

theorem sio_replaceGroup {s u : State} (h : u.sio = s.sio) (g : Nat) (v : Grp) :
    (dropGroup (setGrp u g v) g).sio = { s.sio with grps := tset s.sio.grps g v } := by
  rw [← h]; rfl

theorem sio_tripOne : ∃ t, (tripOne a b code s g).sio = { s.sio with grps := t } := by
  unfold tripOne
  extract_lets x t was first s1 s2 s3 s4
  have h2 : s2.sio = s.sio := by unfold s2; split <;> rfl
  have h3 : s3.sio = s.sio := by unfold s3; split <;> exact h2
  have h4 : s4.sio = s.sio := by unfold s4; split <;> exact h3
  exact ⟨_, sio_replaceGroup h4 _ _⟩

theorem grpOf_tripOne_ne {k : Nat} (h : k ≠ g) : grpOf (tripOne a b code s g) k = grpOf s k := by
  unfold tripOne
  extract_lets x t was first s1 s2 s3 s4
  have h2 : s2.sio = s.sio := by unfold s2; split <;> rfl
  have h3 : s3.sio = s.sio := by unfold s3; split <;> exact h2
  have h4 : s4.sio = s.sio := by unfold s4; split <;> exact h3
  rw [grpOf_dropGroup, grpOf_setGrp_ne _ _ h, grpOf, h4, grpOf]

theorem isSome_latA_tripOne : (grpOf (tripOne a b code s g) g).latA.isSome = (a || (grpOf s g).latA.isSome) := by
  rw [grpOf_tripOne_same]
  cases a <;> cases h : (grpOf s g).latA <;> simp

theorem isSome_latB_tripOne : (grpOf (tripOne a b code s g) g).latB.isSome = (b || (grpOf s g).latB.isSome) := by
  rw [grpOf_tripOne_same]
  cases b <;> cases h : (grpOf s g).latB <;> simp

theorem getLsbD_or_twoPow (w : Word) (i : Nat) {j : Nat} (hj : j < 32) :
    (w ||| BitVec.ofNat 32 (2 ^ i)).getLsbD j = (w.getLsbD j || decide (i = j)) := by
  rw [BitVec.getLsbD_or, BitVec.getLsbD_ofNat, Nat.testBit_two_pow, decide_eq_true hj, Bool.true_and]

theorem flag_tripOne {i : Nat} (hi : i < 32) :
    flag (tripOne a b code s g) (grpReg g 4) i = (flag s (grpReg g 4) i || decide (code % 16 = i)) := by
  rw [flag, rd_tripOne_causes, getLsbD_or_twoPow _ _ hi, flag]

end

/-! ## Several groups -/

section
variable (a b : Bool) (code : Nat) (gs : List Nat) (s : State)

/-- A trip keeps all but registers, the groups, what is on its way to the axes, and the records and alerts that are due. -/
theorem tripGroups_sides : ∃ r t m v, tripGroups a b code gs s = { s with regs := r, sio := { s.sio with grps := t }, mot := m, svc := v } := by
  refine List.foldlRecOn (motive := fun (u : State) => ∃ r t m v, u = { s with regs := r, sio := { s.sio with grps := t }, mot := m, svc := v })
    gs _ ⟨s.regs, s.sio.grps, s.mot, s.svc, rfl⟩ ?_
  rintro _ ⟨r, t, m, v, rfl⟩ g _
  obtain ⟨r', x, m', v', h⟩ := tripOne_shape { s with regs := r, sio := { s.sio with grps := t }, mot := m, svc := v } a b code g
  obtain ⟨t', ht⟩ := sio_tripOne a b code { s with regs := r, sio := { s.sio with grps := t }, mot := m, svc := v } g
  rw [h] at ht
  exact ⟨r', t', m', v', by rw [h]; dsimp only at ht; rw [ht]⟩

@[simp] theorem tripGroups_clk : (tripGroups a b code gs s).clk = s.clk := by obtain ⟨_, _, _, _, h⟩ := tripGroups_sides a b code gs s; rw [h]
@[simp] theorem tripGroups_mem : (tripGroups a b code gs s).mem = s.mem := by obtain ⟨_, _, _, _, h⟩ := tripGroups_sides a b code gs s; rw [h]
@[simp] theorem tripGroups_hut : (tripGroups a b code gs s).hut = s.hut := by obtain ⟨_, _, _, _, h⟩ := tripGroups_sides a b code gs s; rw [h]
@[simp] theorem tripGroups_sch : (tripGroups a b code gs s).sch = s.sch := by obtain ⟨_, _, _, _, h⟩ := tripGroups_sides a b code gs s; rw [h]
@[simp] theorem tripGroups_bur : (tripGroups a b code gs s).bur = s.bur := by obtain ⟨_, _, _, _, h⟩ := tripGroups_sides a b code gs s; rw [h]
@[simp] theorem tripGroups_boot : (tripGroups a b code gs s).boot = s.boot := by obtain ⟨_, _, _, _, h⟩ := tripGroups_sides a b code gs s; rw [h]
@[simp] theorem tripGroups_ins : (tripGroups a b code gs s).sio.ins = s.sio.ins := by obtain ⟨_, _, _, _, h⟩ := tripGroups_sides a b code gs s; rw [h]
@[simp] theorem tripGroups_outs : (tripGroups a b code gs s).sio.outs = s.sio.outs := by obtain ⟨_, _, _, _, h⟩ := tripGroups_sides a b code gs s; rw [h]
@[simp] theorem tripGroups_hold : (tripGroups a b code gs s).sio.hold = s.sio.hold := by obtain ⟨_, _, _, _, h⟩ := tripGroups_sides a b code gs s; rw [h]

/-- Registers below those of the groups. -/
theorem rd_tripGroups_low {off : Nat} (hs : soleName off) (h : off < 0x390200) : rd (tripGroups a b code gs s) off = rd s off :=
  rd_foldl_of_untouched s fun _ _ _ => rd_tripOne_ne _ _ _ _ _ hs ⟨by unfold grpReg; omega, by unfold grpReg; omega, by unfold grpReg; omega⟩

/-- What holds of a group when it has tripped, and stays with every further trip, holds of each group after the trips. -/
theorem tripGroups_induct {P : State → Prop} {g : Nat} (hg : g ∈ gs) (here : ∀ u, P (tripOne a b code u g))
    (stays : ∀ u k, P u → P (tripOne a b code u k)) : P (tripGroups a b code gs s) := by
  induction gs generalizing s with
  | nil => cases hg
  | cons k gs ih =>
    obtain rfl | hg := List.mem_cons.mp hg
    · exact List.foldlRecOn (motive := P) gs _ (here s) fun u hu k _ => stays u k hu
    · exact ih _ hg

theorem isSome_latA_tripGroups {g : Nat} (hg : g ∈ gs) (ha : a = true) : (grpOf (tripGroups a b code gs s) g).latA.isSome = true := by
  refine tripGroups_induct a b code gs s (P := fun u => (grpOf u g).latA.isSome = true) hg (fun u => ?_) fun u k hu => ?_
  · rw [isSome_latA_tripOne, ha, Bool.true_or]
  · by_cases hk : g = k
    · rw [← hk, isSome_latA_tripOne, hu, Bool.or_true]
    · rwa [grpOf_tripOne_ne _ _ _ _ _ hk]

theorem isSome_latB_tripGroups {g : Nat} (hg : g ∈ gs) (hb : b = true) : (grpOf (tripGroups a b code gs s) g).latB.isSome = true := by
  refine tripGroups_induct a b code gs s (P := fun u => (grpOf u g).latB.isSome = true) hg (fun u => ?_) fun u k hu => ?_
  · rw [isSome_latB_tripOne, hb, Bool.true_or]
  · by_cases hk : g = k
    · rw [← hk, isSome_latB_tripOne, hu, Bool.or_true]
    · rwa [grpOf_tripOne_ne _ _ _ _ _ hk]

/-- The causes of another group. -/
theorem rd_causes_tripOne_ne {g k : Nat} (h : g ≠ k) : rd (tripOne a b code s k) (grpReg g 4) = rd s (grpReg g 4) :=
  rd_tripOne_ne a b code s k (soleName_grpReg g 4) ⟨by unfold grpReg; omega, by unfold grpReg; omega, by unfold grpReg; omega⟩

theorem flag_tripGroups {g : Nat} (hg : g ∈ gs) : flag (tripGroups a b code gs s) (grpReg g 4) (code % 16) = true := by
  have hc : code % 16 < 32 := (Nat.mod_lt _ (by decide)).trans (by decide)
  refine tripGroups_induct a b code gs s (P := fun u => flag u (grpReg g 4) (code % 16) = true) hg (fun u => ?_) fun u k hu => ?_
  · rw [flag_tripOne _ _ _ _ _ hc, decide_eq_true rfl, Bool.or_true]
  · by_cases hk : g = k
    · rw [← hk, flag_tripOne _ _ _ _ _ hc, hu, Bool.true_or]
    · rwa [flag_of_rd (rd_causes_tripOne_ne a b code u hk)]

end

/-- The groups that there are. -/
theorem mem_allGroups {g : Nat} (h : g < 8) : g ∈ rangeFrom 0 8 := (mem_rangeFrom 8 0 g).mpr ⟨Nat.zero_le g, h⟩

/-- A stop request of the Hutch sets both latches, with the cause HUTCH_STOP (R402). -/
theorem latched_hutchStop {gs : List Nat} {g : Nat} (hg : g ∈ gs) (s : State) (c : Chan) : (latOf (hutchStop gs s) g c).isSome = true := by
  cases c with
  | a => exact isSome_latA_tripGroups true true 0x090A gs s hg rfl
  | b => exact isSome_latB_tripGroups true true 0x090A gs s hg rfl

end Sys2Proof.Proofs
end

section
/-! # The channels of the Hutch (R402 to R405) -/
namespace Sys2Proof.Proofs
open Sys2Proof Sys2Proof.Machine Sys2Proof.Safety Sys2Proof.Laws

section
variable (s : State) (c : Chan) (x : HChan)

@[simp] theorem hchanOf_setHchan : hchanOf (setHchan s c x) c = x := by cases c <;> rfl
@[simp] theorem hchanOf_setHchan_other : hchanOf (setHchan s c x) (otherChan c) = hchanOf s (otherChan c) := by cases c <;> rfl
@[simp] theorem setHchan_mem : (setHchan s c x).mem = s.mem := by cases c <;> rfl
@[simp] theorem setHchan_clk : (setHchan s c x).clk = s.clk := by cases c <;> rfl
@[simp] theorem setHchan_regs : (setHchan s c x).regs = s.regs := by cases c <;> rfl
@[simp] theorem setHchan_sio : (setHchan s c x).sio = s.sio := by cases c <;> rfl
@[simp] theorem hutEvent_mem (code arg : Nat) : (hutEvent code arg s).mem = s.mem := rfl
@[simp] theorem hutEvent_clk (code arg : Nat) : (hutEvent code arg s).clk = s.clk := rfl
@[simp] theorem hutEvent_sio (code arg : Nat) : (hutEvent code arg s).sio = s.sio := rfl
@[simp] theorem hutchStop_hut (gs : List Nat) : (hutchStop gs s).hut = s.hut := tripGroups_hut ..
@[simp] theorem hutchStop_mem (gs : List Nat) : (hutchStop gs s).mem = s.mem := tripGroups_mem ..
@[simp] theorem hutchStop_clk (gs : List Nat) : (hutchStop gs s).clk = s.clk := tripGroups_clk ..

end

theorem hchanOf_of_hut {s u : State} (hA : u.hut.chA = s.hut.chA) (hB : u.hut.chB = s.hut.chB) (c : Chan) : hchanOf u c = hchanOf s c := by
  cases c
  · exact hA
  · exact hB

@[simp] theorem hchanOf_hutEvent (s : State) (code arg : Nat) (c : Chan) : hchanOf (hutEvent code arg s) c = hchanOf s c :=
  hchanOf_of_hut rfl rfl c

@[simp] theorem hchanOf_hutchStop (s : State) (gs : List Nat) (c : Chan) : hchanOf (hutchStop gs s) c = hchanOf s c :=
  hchanOf_of_hut (by rw [hutchStop_hut]) (by rw [hutchStop_hut]) c

/-- LAST_EVT has the code that was recorded. -/
theorem fld_hutEvent (s : State) {code : Nat} (arg : Nat) (h : code < 2 ^ 16) : fld (hutEvent code arg s) 0x20000 0 16 = code :=
  (fld_setFld_same s 0x20000 0 16 code (by decide)).trans (Nat.mod_eq_of_lt h)

theorem rd_hutEvent_ne (s : State) {code arg off : Nat} (hs : soleName off) (h : off ≠ 0x20000) : rd (hutEvent code arg s) off = rd s off :=
  rd_setFld_ne s _ _ _ _ _ (canonOff_ne_of_soleName hs (.inl (by decide)) h)

theorem flag_hutEvent (s : State) {code arg i : Nat} (hlo : 16 ≤ i) (hi : i < 32) : flag (hutEvent code arg s) 0x20000 i = flag s 0x20000 i :=
  flag_setFld_ne s 0x20000 hi (.inr hlo)

theorem latOf_hutEvent (s : State) (code arg g : Nat) (c : Chan) : latOf (hutEvent code arg s) g c = latOf s g c := latOf_of_grps rfl g c

theorem latched_hutEvent {s : State} {code arg g : Nat} {c : Chan} (h : (latOf s g c).isSome = true) :
    (latOf (hutEvent code arg s) g c).isSome = true := by rwa [latOf_hutEvent]

@[simp] theorem hchanOf_advance (s : State) (t : Time) (c : Chan) : hchanOf (advance s t) c = hchanOf s c := hchanOf_of_hut rfl rfl c

/-- A channel none of whose zones is valid makes every zone invalid for itself, and so for the Hutch (R405, R411, R412). -/
theorem hutInvalid_of_invalidated {u : State} {c : Chan} {t : Tab HZone}
    (h : (hchanOf u c).zones = t.map (fun e => (e.1, { e.2 with valid := false }))) (z : Nat) : hutInvalid u z = true := by
  have hv : (hzoneIn u c z).valid = false := by
    rw [hzoneIn, h, tget, tget?_mapValues (fun x : HZone => { x with valid := false })]
    cases tget? t z <;> rfl
  have hc : chanInvalid u c z = true := by simp [chanInvalid, hv]
  cases c <;> simp [hutInvalid, hc]

/-- What the cross-check does beyond the limit: everything stops, and the channel holds no zone valid. -/
theorem execTimebaseCrosscheck_beyond {t : Time} {c : Chan} {ppm : Nat} {s : State} (hp : s.hut.passed = true)
    (hr : chanRuns (hchanOf s c) = true) (h : 1000 < ppm) :
    execTimebaseCrosscheck t c ppm s = .next (hutEvent 0x060C (chanArg c) (hutchStop (rangeFrom 0 8) (setHchan (advance s t) c
      { hchanOf s c with zones := (hchanOf s c).zones.map (fun e => (e.1, { e.2 with valid := false })) }))) := by
  simp [execTimebaseCrosscheck, hp, hr, h]

/-- Settles O45: with the channel's condition the cross-check trips every group (`latched_hutchStop`) and leaves the channel no valid zone; below
the limit it only advances the time. -/
theorem timebaseCrosscheckTripsEverything : Obligations.TimebaseCrosscheckTripsEverything := by
  intro t c ppm s hp hr
  refine ⟨fun h => ?_, fun h => ?_⟩
  · refine ⟨_, (exec_timebaseCrosscheck s t c ppm).trans (execTimebaseCrosscheck_beyond hp hr h), fld_hutEvent _ _ (by decide), by simp,
      fun g hg => ⟨?_, ?_, ?_⟩, fun z => ?_⟩
    · exact latched_hutEvent (c := .a) (latched_hutchStop (mem_allGroups hg) _ .a)
    · exact latched_hutEvent (c := .b) (latched_hutchStop (mem_allGroups hg) _ .b)
    · rw [flag_of_rd (rd_hutEvent_ne _ (soleName_grpReg g 4) (by unfold grpReg; omega))]
      exact flag_tripGroups true true 0x090A _ _ (mem_allGroups hg)
    · exact hutInvalid_of_invalidated (by rw [hchanOf_hutEvent, hchanOf_hutchStop, hchanOf_setHchan]) z
  · rw [exec_timebaseCrosscheck, execTimebaseCrosscheck]
    simp [Nat.not_lt.mpr h]

end Sys2Proof.Proofs
end

section
/-! # Ports and axes of the motion port: what each operation makes of them (R376, R382, R387, R389) -/
namespace Sys2Proof.Proofs
open Sys2Proof Sys2Proof.Machine Sys2Proof.Safety Sys2Proof.Laws

theorem tset_tset {α : Type} (t : Tab α) (k : Nat) (v w : α) : tset (tset t k v) k w = tset t k w := by
  induction t with
  | nil => simp [tset]
  | cons e t ih =>
    obtain ⟨a, x⟩ := e
    rcases lt_trichotomy k a with h | rfl | h
    · simp [tset, h]
    · simp [tset]
    · simp [tset, Nat.lt_asymm h, (Nat.ne_of_lt h).symm, ih]

theorem soleName_mpReg (m o : Nat) : soleName (mpReg m o) := .inr (by unfold mpReg; omega)

theorem soleName_axReg (a o : Nat) : soleName (axReg a o) := .inr (by unfold axReg; omega)

section
variable (s : State) (m : Nat) (x : MPort) (a : Nat) (y : MAxis)

@[simp] theorem mportOf_setMport : mportOf (setMport s m x) m = x := by simp [mportOf, setMport]
@[simp] theorem maxisOf_setMaxis : maxisOf (setMaxis s a y) a = y := by simp [maxisOf, setMaxis]
@[simp] theorem mportOf_setMaxis : mportOf (setMaxis s a y) m = mportOf s m := rfl
@[simp] theorem maxisOf_setMport : maxisOf (setMport s m x) a = maxisOf s a := rfl
theorem setMaxis_setMaxis (z : MAxis) : setMaxis (setMaxis s a y) a z = setMaxis s a z := by simp [setMaxis, tset_tset]

theorem mportOf_setMport_ne {k : Nat} (h : k ≠ m) : mportOf (setMport s m x) k = mportOf s k := by
  simp [mportOf, setMport, tget_tset_ne _ _ _ _ _ h]

theorem maxisOf_setMaxis_ne {k : Nat} (h : k ≠ a) : maxisOf (setMaxis s a y) k = maxisOf s k := by
  simp [maxisOf, setMaxis, tget_tset_ne _ _ _ _ _ h]

end

theorem mportOf_of_mot {s u : State} (h : u.mot = s.mot) (m : Nat) : mportOf u m = mportOf s m := by rw [mportOf, h, mportOf]

/-! ## A trip drops what is left of the axes of its group -/

/-- What a trip of group `g` leaves of a frame. -/
def dropFrame (now : Time) (g : Nat) (x : Tx) : Tx := (x.axes.filter (fun a => decide (a.2.1 = g))).foldl (dropAxis now) x

theorem mportOf_dropGroup (s : State) (g m : Nat) :
    mportOf (dropGroup s g) m = { mportOf s m with tx := (mportOf s m).tx.map (dropFrame s.clk.tb g) } := by
  rw [mportOf, dropGroup, tget,
    tget?_mapValues (fun e : MPort => { e with tx := e.tx.map fun x => (x.axes.filter (fun a => decide (a.2.1 = g))).foldl (dropAxis s.clk.tb) x }),
    mportOf, tget]
  cases tget? s.mot.ports m <;> rfl

/-- Dropping bytes of a frame leaves its cycle and its axes. -/
theorem dropFrame_keeps (now : Time) (g : Nat) (x : Tx) : (dropFrame now g x).cycle = x.cycle ∧ (dropFrame now g x).axes = x.axes :=
  List.foldlRecOn (motive := fun y : Tx => y.cycle = x.cycle ∧ y.axes = x.axes) _ _ ⟨rfl, rfl⟩ fun _ h _ _ => h

theorem mot_tripOne (a b : Bool) (code : Nat) (s : State) (g : Nat) : (tripOne a b code s g).mot = (dropGroup s g).mot := by
  unfold tripOne
  extract_lets x t was first s1 s2 s3 s4
  have h2 : s2.mot = s.mot ∧ s2.clk = s.clk := by unfold s2; split <;> exact ⟨rfl, rfl⟩
  have h3 : s3.mot = s.mot ∧ s3.clk = s.clk := by unfold s3; split <;> exact h2
  have h4 : s4.mot = s.mot ∧ s4.clk = s.clk := by unfold s4; split <;> exact h3
  clear_value s4
  obtain ⟨hm, hc⟩ := h4
  show (dropGroup s4 g).mot = _
  rw [dropGroup, dropGroup, hm, hc]

/-- A port without a frame is as it was. -/
theorem mportOf_tripOne_idle {a b : Bool} {code : Nat} {s : State} {g m : Nat} (h : (mportOf s m).tx = none) :
    mportOf (tripOne a b code s g) m = mportOf s m := by
  rw [mportOf_of_mot (mot_tripOne a b code s g), mportOf_dropGroup]
  generalize mportOf s m = x at h ⊢
  cases x
  simp_all

theorem mportOf_tripGroups_idle {a b : Bool} {code : Nat} {gs : List Nat} {s : State} {m : Nat} (h : (mportOf s m).tx = none) :
    mportOf (tripGroups a b code gs s) m = mportOf s m :=
  List.foldlRecOn (motive := fun (u : State) => mportOf u m = mportOf s m) gs _ rfl fun _ hu _ _ => (mportOf_tripOne_idle (hu ▸ h)).trans hu

@[simp] theorem next_dropGroup (s : State) (g : Nat) : (dropGroup s g).mot.next = s.mot.next := rfl

/-! ## The end of a frame -/

theorem mportOf_foldl_setMaxis {α : Type} {f : State → α → State} {l : List α} (s : State) (m : Nat) (h : ∀ v i, (f v i).mot.ports = v.mot.ports) :
    mportOf (l.foldl f s) m = mportOf s m :=
  List.foldlRecOn (motive := fun (u : State) => mportOf u m = mportOf s m) l f rfl fun u hu i _ => by rw [mportOf, h, ← mportOf, hu]

/-- A frame that is over leaves its port without one; the bitmap that it had is kept. -/
theorem mportOf_finishTx {s : State} {m : Nat} {x : Tx} (h : (mportOf s m).tx = some x) :
    mportOf (finishTx s m) m = { mportOf s m with tx := none, sent := x.bitmap } := by
  rw [finishTx, h]
  dsimp only
  split
  · exact mportOf_setMport _ _ _
  · exact (mportOf_foldl_setMaxis (f := finishAxis x) _ m fun _ _ => rfl).trans (mportOf_setMport _ _ _)

/-- The end of a frame changes the motion state alone. -/
theorem finishTx_shape (s : State) (m : Nat) : ∃ x, finishTx s m = { s with mot := x } := by
  unfold finishTx
  split
  · exact ⟨_, rfl⟩
  · dsimp only
    split
    · exact ⟨_, rfl⟩
    · refine List.foldlRecOn (motive := fun (u : State) => ∃ x, u = { s with mot := x }) _ _ ⟨_, rfl⟩ ?_
      rintro _ ⟨_, rfl⟩ e _
      exact ⟨_, rfl⟩

@[simp] theorem finishTx_regs (s : State) (m : Nat) : (finishTx s m).regs = s.regs := by obtain ⟨_, h⟩ := finishTx_shape s m; rw [h]
@[simp] theorem finishTx_mem (s : State) (m : Nat) : (finishTx s m).mem = s.mem := by obtain ⟨_, h⟩ := finishTx_shape s m; rw [h]
@[simp] theorem finishTx_clk (s : State) (m : Nat) : (finishTx s m).clk = s.clk := by obtain ⟨_, h⟩ := finishTx_shape s m; rw [h]

/-! ## Invalid inputs (R376) -/

theorem mportOf_invalidInputs {s : State} {m : Nat} (h : (mportOf s m).tx = none) :
    mportOf (invalidInputs s m) m = { mportOf s m with loss := (mportOf s m).loss + 1 } := by
  unfold invalidInputs
  dsimp only
  split
  · rw [mportOf_tripGroups_idle (by simpa using h), mportOf_setMport]
  · exact mportOf_setMport _ _ _

/-- A cycle with invalid inputs writes no register but those of the groups. -/
theorem rd_invalidInputs (s : State) (m : Nat) {off : Nat} (hs : soleName off) (h : off < 0x390200) : rd (invalidInputs s m) off = rd s off :=
  rd_ite (rd_tripGroups_low _ _ _ _ _ hs h) rfl

/-! ## Input sets (R382) -/

section
variable (s : State) (m cycle : Nat) (valid : Bool) (im bitmap : List Byte) (recv : Nat)

theorem inputSet_shape : inputSet s m cycle valid im bitmap recv = s ∨
    ∃ a bs p n, inputSet s m cycle valid im bitmap recv = signal (wrMem s a bs) p n 1 := by
  unfold inputSet
  split
  · exact .inl rfl
  · extract_lets
    exact .inr ⟨_, _, _, _, rfl⟩

theorem inputSet_mot : (inputSet s m cycle valid im bitmap recv).mot = s.mot := by
  obtain h | ⟨_, _, _, _, h⟩ := inputSet_shape s m cycle valid im bitmap recv
  · rw [h]
  · rw [h, signal_mot, wrMem_mot]

theorem inputSet_off (h : ringsOn s m = false) : inputSet s m cycle valid im bitmap recv = s := by simp [inputSet, h]

/-- An input set is written to memory and signalled: of the registers a token alone changes. -/
theorem rd_inputSet {off : Nat} (h : 0x200000 ≤ off) : rd (inputSet s m cycle valid im bitmap recv) off = rd s off := by
  obtain e | ⟨_, _, p, n, e⟩ := inputSet_shape s m cycle valid im bitmap recv
  · rw [e]
  · rw [e, rd_signal_ne _ _ _ _ (canonOff_ne_window ((tokOff_lt p n).trans (by decide)) (by omega)).symm]
    exact rd_of_regs (wrMem_regs ..) off

end

end Sys2Proof.Proofs
end

section
/-! # O43: the first cycle of an axis (R387) -/
namespace Sys2Proof.Proofs
open Sys2Proof Sys2Proof.Machine Sys2Proof.Safety Sys2Proof.Laws

/-! ## A frame that returns in time, in line mode -/

section
variable {m : Nat} {broken : Bool} {c : FrameCopy} {y : Option FrameCopy} {s : State} {x : Tx} {st : Time}

/-- What FRAME_RETURN does with a good frame in time, in line mode: one copy counts, its own (R376). -/
theorem frameReturn_line (hring : topo s ≠ 2) (hx : (mportOf s m).tx = some x) (hst : x.start = some st) (hlo : st ≤ s.clk.tb)
    (hhi : s.clk.tb ≤ emitAt s (x.cycle + 1)) (hc : c.bad = false) :
    frameReturn s m broken c y =
      (let s1 := finishTx s m
       let ok := decide (c.wkc = fld s (mpReg m 0x14) 0 16)
       let i : InSet := ⟨x.cycle, ok, orBytes [] c.image⟩
       inputSet (if ok then (portAxes s m).foldl (keepPos i) (setMport s1 m { mportOf s1 m with inp := some i, loss := 0, good := some (orBytes [] c.image) })
         else invalidInputs (bump (setMport s1 m { mportOf s1 m with inp := some i }) (mpReg m 0x30)) m)
         m x.cycle ok (orBytes [] c.image) x.bitmap s.clk.tb) := by
  simp [frameReturn, hx, hst, hring, hc, Nat.not_lt.mpr hlo, Nat.not_lt.mpr hhi]

/-- A step for each axis that touches axes alone. -/
theorem foldl_keepPos_shape (i : InSet) (l : List Nat) (s : State) : ∃ a, l.foldl (keepPos i) s = { s with mot := { s.mot with axes := a } } := by
  refine List.foldlRecOn (motive := fun (u : State) => ∃ a, u = { s with mot := { s.mot with axes := a } }) _ _ ⟨_, rfl⟩ ?_
  rintro _ ⟨_, rfl⟩ e _
  exact ⟨_, rfl⟩

/-- The port after a good frame in time with the expected working counter. -/
theorem mportOf_frameReturn_ok (hring : topo s ≠ 2) (hx : (mportOf s m).tx = some x) (hst : x.start = some st) (hlo : st ≤ s.clk.tb)
    (hhi : s.clk.tb ≤ emitAt s (x.cycle + 1)) (hc : c.bad = false) (hw : c.wkc = fld s (mpReg m 0x14) 0 16) :
    mportOf (frameReturn s m broken c y) m =
      { mportOf s m with tx := none, sent := x.bitmap, inp := some ⟨x.cycle, true, orBytes [] c.image⟩, loss := 0, good := some (orBytes [] c.image) } := by
  rw [frameReturn_line hring hx hst hlo hhi hc, decide_eq_true hw]
  dsimp only
  rw [mportOf_of_mot (inputSet_mot ..), if_pos rfl, mportOf_foldl_setMaxis (f := keepPos _) _ _ fun _ _ => rfl, mportOf_setMport, mportOf_finishTx hx]

/-- With the rings off such a frame changes the motion state alone. -/
theorem frameReturn_ok_quiet (hring : topo s ≠ 2) (hx : (mportOf s m).tx = some x) (hst : x.start = some st) (hlo : st ≤ s.clk.tb)
    (hhi : s.clk.tb ≤ emitAt s (x.cycle + 1)) (hc : c.bad = false) (hw : c.wkc = fld s (mpReg m 0x14) 0 16) (hr : ringsOn s m = false) :
    (frameReturn s m broken c y).regs = s.regs ∧ (frameReturn s m broken c y).mem = s.mem := by
  rw [frameReturn_line hring hx hst hlo hhi hc, decide_eq_true hw]
  dsimp only
  rw [if_pos rfl]
  obtain ⟨a, ha⟩ := foldl_keepPos_shape ⟨x.cycle, true, orBytes [] c.image⟩ (portAxes s m) (setMport (finishTx s m) m
    { mportOf (finishTx s m) m with inp := some ⟨x.cycle, true, orBytes [] c.image⟩, loss := 0, good := some (orBytes [] c.image) })
  obtain ⟨z, hz⟩ := finishTx_shape s m
  rw [ha, hz, inputSet_off _ _ _ _ _ _ _ (by exact hr)]
  exact ⟨rfl, rfl⟩

/-- The port after a good frame in time with another working counter. -/
theorem mportOf_frameReturn_wkc (hring : topo s ≠ 2) (hx : (mportOf s m).tx = some x) (hst : x.start = some st) (hlo : st ≤ s.clk.tb)
    (hhi : s.clk.tb ≤ emitAt s (x.cycle + 1)) (hc : c.bad = false) (hw : c.wkc ≠ fld s (mpReg m 0x14) 0 16) :
    mportOf (frameReturn s m broken c y) m =
      { mportOf s m with tx := none, sent := x.bitmap, inp := some ⟨x.cycle, false, orBytes [] c.image⟩, loss := (mportOf s m).loss + 1 } := by
  rw [frameReturn_line hring hx hst hlo hhi hc, decide_eq_false hw]
  dsimp only
  have hp : mportOf (bump (setMport (finishTx s m) m { mportOf (finishTx s m) m with inp := some ⟨x.cycle, false, orBytes [] c.image⟩ }) (mpReg m 0x30)) m =
      { mportOf s m with tx := none, sent := x.bitmap, inp := some ⟨x.cycle, false, orBytes [] c.image⟩ } := by
    rw [mportOf_of_mot (bump_mot ..), mportOf_setMport, mportOf_finishTx hx]
  rw [mportOf_of_mot (inputSet_mot ..), if_neg (by decide), mportOf_invalidInputs (by rw [hp]), hp]

/-- It is counted in the port's register of such frames. -/
theorem rd_frameReturn_wkc (hring : topo s ≠ 2) (hx : (mportOf s m).tx = some x) (hst : x.start = some st) (hlo : st ≤ s.clk.tb)
    (hhi : s.clk.tb ≤ emitAt s (x.cycle + 1)) (hc : c.bad = false) (hw : c.wkc ≠ fld s (mpReg m 0x14) 0 16) (hm : m < 2) :
    rd (frameReturn s m broken c y) (mpReg m 0x30) = rd s (mpReg m 0x30) + 1 := by
  rw [frameReturn_line hring hx hst hlo hhi hc, decide_eq_false hw]
  dsimp only
  rw [rd_inputSet _ _ _ _ _ _ _ (by unfold mpReg; omega), if_neg (by decide), rd_invalidInputs _ _ (soleName_mpReg _ _) (by unfold mpReg; omega), rd_bump,
    rd_of_regs (s := s) (by rw [setMport]; exact finishTx_regs s m)]

end

/-! ## The commit that enables an axis (R386) -/

/-- Writing registers other than one leaves it alone. -/
theorem rd_foldl_axis_ne {l : List (Nat × Nat)} (a : Nat) {o : Nat} (s : State) (h : ∀ e ∈ l, e.1 ≠ o) :
    rd (l.foldl (fun s e => wrReg s (axReg a e.1) (BitVec.ofNat 32 e.2)) s) (axReg a o) = rd s (axReg a o) :=
  rd_foldl_of_untouched s fun s e he => rd_wrReg_ne _ _ _ _
    (canonOff_ne_of_soleName (soleName_axReg _ _) (soleName_axReg _ _) (by have := h e he; unfold axReg; omega))

theorem axisEn_of_rd {s u : State} {a : Nat} (h : rd u (axReg a 0) = rd s (axReg a 0)) : axisEn u a = axisEn s a := flag_of_rd h 31

/-- The clamp writes none of the bits that enable an axis. -/
theorem rd_clampAxis (s : State) (a : Nat) : rd (clampAxis s a).1 (axReg a 0) = rd s (axReg a 0) := by
  unfold clampAxis
  dsimp only
  rw [rd_setFld_ne _ _ _ _ _ _ (canonOff_ne_of_soleName (soleName_axReg _ _) (soleName_axReg _ _) (by unfold axReg; omega))]
  exact rd_foldl_axis_ne a s (by simp)

theorem rd_motErr {s : State} {code off : Nat} (hs : soleName off) (h : off ≠ 0x38001C) : rd (motErr s code) off = rd s off :=
  rd_setFld_ne s _ _ _ _ _ (canonOff_ne_of_soleName hs (.inr (by decide)) h)

/-- Registers put back as they were. -/
theorem rd_restored (v s : State) (a : Nat) : rd (axisRegs.foldl (fun s o => wrReg s (axReg a o) (rd v (axReg a o))) s) (axReg a 0) = rd v (axReg a 0) := by
  have hne (s : State) (o : Nat) (w : Word) (h : o ≠ 0) : rd (wrReg s (axReg a o) w) (axReg a 0) = rd s (axReg a 0) :=
    rd_wrReg_ne _ _ _ _ (canonOff_ne_of_soleName (soleName_axReg _ _) (soleName_axReg _ _) (by unfold axReg; omega))
  rw [axisRegs, List.foldl_cons, rd_foldl_of_untouched _ fun s o ho => hne s o _ (by rintro rfl; simp at ho)]
  exact rd_wrReg_same _ _ _

/-- An axis that a commit enables is in its first cycle; a commit that is refused, or stages nothing, enables none. -/
theorem fresh_commitAxis {b : Time} {s : State} {a : Nat} (ha : a < 64) (h0 : axisEn s a = false) (h1 : axisEn (commitAxis b s a) a = true) :
    (maxisOf (commitAxis b s a) a).fresh = true := by
  unfold commitAxis at h1 ⊢
  dsimp only at h1 ⊢
  split at h1
  · rw [h0] at h1; cases h1
  · next hst =>
    rw [if_neg hst]
    split at h1
    · rw [axisEn_of_rd ((rd_motErr (soleName_axReg a 0) (by unfold axReg; omega)).trans (rd_restored s _ a)), h0] at h1
      cases h1
    · next hok =>
      rw [if_neg hok]
      split at h1
      · next hen => rw [if_pos hen, maxisOf_setMaxis]
      · next hen =>
        refine absurd ?_ hen
        have hkeep (v : State) (c : Prop) [Decidable c] :
            axisEn (if c then setFlag (clampAxis v a).1 (axReg a 0x34) 1 true else (clampAxis v a).1) a = axisEn v a :=
          axisEn_of_rd (rd_ite ((rd_setFlag_ne _ _ _ (canonOff_ne_of_soleName (soleName_axReg _ _) (soleName_axReg _ _)
            (by unfold axReg; omega))).trans (rd_clampAxis v a)) (rd_clampAxis v a))
        rw [hkeep] at h1
        rw [h1, h0]
        rfl

/-! ## The return of a group to RUN (R395) -/

/-- One of the axes of a group that returns to RUN. -/
def markAxis (g : Nat) (s : State) (a : Nat) : State :=
  if axisEn s a && decide (axisGroup s a = g) then setMaxis s a { maxisOf s a with fresh := true } else s

theorem groupGrant_run {s : State} {g : Nat} (hg : (grpOf s g).granted = true) (h1 : resetItem1 s g = true) (h2 : resetItem2 s g = true) :
    groupGrant s g = (rangeFrom 0 64).foldl (markAxis g) (groupRun s g) := by
  rw [groupGrant, if_neg (not_not.mpr hg), if_pos (by rw [h1, h2]; rfl)]
  rfl

theorem markAxis_shape (g : Nat) (s : State) (a : Nat) : ∃ t, markAxis g s a = { s with mot := { s.mot with axes := t } } := by
  unfold markAxis
  split <;> exact ⟨_, rfl⟩

/-- Marking reads registers only, and writes none. -/
theorem foldl_markAxis_shape (g : Nat) (l : List Nat) (s : State) : ∃ t, l.foldl (markAxis g) s = { s with mot := { s.mot with axes := t } } := by
  refine List.foldlRecOn (motive := fun (u : State) => ∃ t, u = { s with mot := { s.mot with axes := t } }) _ _ ⟨_, rfl⟩ ?_
  rintro _ ⟨_, rfl⟩ a _
  obtain ⟨t, h⟩ := markAxis_shape g { s with mot := { s.mot with axes := _ } } a
  exact ⟨t, h⟩

theorem fresh_markAxis {g a : Nat} (s : State) (b : Nat) (h : (maxisOf s a).fresh = true) : (maxisOf (markAxis g s b) a).fresh = true := by
  unfold markAxis
  split
  · by_cases hb : a = b
    · rw [← hb, maxisOf_setMaxis]
    · rwa [maxisOf_setMaxis_ne _ _ _ hb]
  · exact h

theorem fresh_foldl_markAxis {g a : Nat} {l : List Nat} (ha : a ∈ l) (s : State) (hen : axisEn s a = true) (hg : axisGroup s a = g) :
    (maxisOf (l.foldl (markAxis g) s) a).fresh = true := by
  induction l generalizing s with
  | nil => cases ha
  | cons b l ih =>
    rw [List.foldl_cons]
    obtain rfl | ha := List.mem_cons.mp ha
    · refine List.foldlRecOn (motive := fun u => (maxisOf u a).fresh = true) l _ ?_ fun u hu b _ => fresh_markAxis u b hu
      rw [markAxis, hen, hg, decide_eq_true rfl]
      exact congrArg MAxis.fresh (maxisOf_setMaxis _ _ _)
    · obtain ⟨t, h⟩ := markAxis_shape g s b
      exact ih ha _ (by rw [h]; exact hen) (by rw [h]; exact hg)

theorem axReg_ne_grpReg {a o g x : Nat} (ha : a < 64) (ho : o < 0x40) : canonOff (axReg a o) ≠ canonOff (grpReg g x) :=
  canonOff_ne_of_soleName (soleName_axReg _ _) (soleName_grpReg _ _) (by unfold axReg grpReg; omega)

theorem rd_groupRun {s : State} {a g : Nat} (ha : a < 64) : rd (groupRun s g) (axReg a 0) = rd s (axReg a 0) :=
  rd_wrReg_ne _ _ _ _ (axReg_ne_grpReg ha (by decide))

/-- A group that returns to RUN has no latch set. -/
theorem grpTripped_groupRun (s : State) (g : Nat) : grpTripped (groupRun s g) g = false := by
  have h : grpOf (groupRun s g) g = { latA := none, latB := none, req := false, granted := false, firstAt := none } := grpOf_setGrp_same s g _
  rw [grpTripped, h]
  rfl

/-! ## The values of a first cycle -/

/-- The cycle of an axis from the values `x`, once these are chosen (R383, R384, R387). -/
def axisCycleFrom (b : Option (List Byte)) (act : Option InSet) (s : State) (a : Nat) (x : MAxis) : State :=
  let vl := vlimOf s b a x.vlim
  let c := match b with | some bs => setCmd bs a | none => staleCmd s x vl
  let q := act.map (fun i => actOf s i a)
  let s1 := wrReg s (axReg a 0x38) (BitVec.ofNat 32 vl)
  let y := { x with vlim := vl, ctrl := c.ctrl, torque := tc 16 c.torque, fresh := false }
  let z := if axMode s a ≤ 1 then y else { y with v := match q with | none => 0 | some w => w.2 * (cycleNs s : Int) }
  (envErrs s a x vl q c).foldl (fun s code =>
    tripOne true true code (setFld (bump s (axReg a 0x3C)) (axReg a 0x34) 16 16 code) (axisGroup s a)) (setMaxis s1 a z)

/-- What an axis keeps, with the values of R387 in place. -/
def firstCycleAxis (s : State) (a : Nat) (im : List Byte) : MAxis :=
  { maxisOf s a with p := sx 32 (imgLe im (inOff s a + 4) 4), v := 0, vlim := (rd s (axReg a 0x10)).toNat, fresh := false }

section
variable (b : Option (List Byte)) (act : Option InSet) {s : State} {a : Nat}

theorem axisCycle_fresh {im : List Byte} (hf : (maxisOf s a).fresh = true) (hgood : (mportOf s (axisPort s a)).good = some im) :
    axisCycle b act s a = axisCycleFrom b act s a { firstCycleAxis s a im with fresh := (maxisOf s a).fresh } := by
  have hpos : lastPos s a = (sx 32 (imgLe im (inOff s a + 4) 4), s) := by rw [lastPos, hgood]
  unfold axisCycle
  simp only [hf, hpos, if_true]
  rfl

theorem axisCycle_later (hf : (maxisOf s a).fresh = false) : axisCycle b act s a = axisCycleFrom b act s a (maxisOf s a) := by
  unfold axisCycle
  simp only [hf, Bool.false_eq_true, if_false]
  rfl

/-- The cycle depends on what its axis keeps only through the values that it is given. -/
theorem axisCycleFrom_setMaxis (x w : MAxis) (f : Bool) :
    axisCycleFrom b act (setMaxis s a w) a x = axisCycleFrom b act s a { x with fresh := f } := by
  have hs (o : Nat) (v : Word) (z : MAxis) : setMaxis (wrReg (setMaxis s a w) o v) a z = setMaxis (wrReg s o v) a z :=
    setMaxis_setMaxis (wrReg s o v) a w z
  unfold axisCycleFrom
  dsimp only
  rw [hs]
  rfl

/-- A first cycle is a later one that starts from the values of R387. -/
theorem axisCycle_first {im : List Byte} (hf : (maxisOf s a).fresh = true) (hgood : (mportOf s (axisPort s a)).good = some im) :
    axisCycle b act s a = axisCycle b act (setMaxis s a (firstCycleAxis s a im)) a := by
  rw [axisCycle_fresh b act hf hgood, axisCycle_later b act (by rw [maxisOf_setMaxis]; rfl), maxisOf_setMaxis,
    axisCycleFrom_setMaxis b act _ _ (maxisOf s a).fresh]

end

/-! ## The theorem -/

/-- Settles O43: the values by `axisCycle_first`; the image by what a frame leaves its port; the marks by `fresh_commitAxis` and
`fresh_foldl_markAxis`. -/
theorem firstCycleOfAnAxis : Obligations.FirstCycleOfAnAxis := by
  refine ⟨fun b act s a im hf hgood => axisCycle_first b act hf hgood, fun t m broken c y s x st hring hx hst hlo hhi hc => ?_,
    fun b s a ha h0 h1 => fresh_commitAxis ha h0 h1, fun s g hg h1 h2 hlt => ⟨?_, fun a ha hen hag => ?_⟩⟩
  · refine ⟨frameReturn (advance s t) m broken c y, exec_frameReturn s t m broken c y, ?_⟩
    by_cases hw : c.wkc = fld s (mpReg m 0x14) 0 16
    · rw [if_pos hw, mportOf_frameReturn_ok (s := advance s t) hring hx hst hlo hhi hc hw]
    · rw [if_neg hw, mportOf_frameReturn_wkc (s := advance s t) hring hx hst hlo hhi hc hw]
      rfl
  · rw [groupGrant_run hg h1 h2]
    obtain ⟨t, ht⟩ := foldl_markAxis_shape g (rangeFrom 0 64) (groupRun s g)
    rw [ht]
    exact grpTripped_groupRun s g
  · rw [groupGrant_run hg h1 h2]
    refine fresh_foldl_markAxis ((mem_rangeFrom 64 0 a).mpr ⟨Nat.zero_le a, ha⟩) _ ?_ ?_
    · exact (axisEn_of_rd (rd_groupRun ha)).trans hen
    · exact (fld_of_rd (rd_groupRun ha) 20 3).trans hag

end Sys2Proof.Proofs
end

section
/-! # O40: cycles, frames, command sets and links of the motion port -/
namespace Sys2Proof.Proofs
open Sys2Proof Sys2Proof.Machine Sys2Proof.Safety Sys2Proof.Laws

/-! ## Emission (R373, R374) -/

/-- A port prepares the frame of cycle `n` with its set. -/
def preparePort (n : Nat) (set : Nat → Option (List Byte)) (s : State) (m : Nat) : State :=
  setMport s m { mportOf s m with tx := some (prepareTx s m n (set m)) }

/-- A frame of cycle `n` is prepared and has not started. -/
def prepared (n : Nat) (m : Nat) (s : State) : Prop := ∃ x, (mportOf s m).tx = some x ∧ x.cycle = n ∧ x.start = none

theorem prepared_preparePort (n : Nat) (set : Nat → Option (List Byte)) (s : State) (m : Nat) : prepared n m (preparePort n set s m) :=
  ⟨_, congrArg MPort.tx (mportOf_setMport _ _ _), rfl, rfl⟩

theorem prepared_foldl {n m : Nat} {set : Nat → Option (List Byte)} {l : List Nat} (hm : m ∈ l) (s : State) :
    prepared n m (l.foldl (preparePort n set) s) := by
  induction l generalizing s with
  | nil => cases hm
  | cons k l ih =>
    obtain rfl | hm := List.mem_cons.mp hm
    · refine List.foldlRecOn (motive := prepared n m) l _ (prepared_preparePort n set s m) fun u hu k _ => ?_
      by_cases hk : m = k
      · rw [hk]; exact prepared_preparePort n set u k
      · rwa [prepared, preparePort, mportOf_setMport_ne _ _ _ hk]
    · exact ih hm _

theorem emission_cycle (s : State) : (emission s).mot.next = s.mot.next + 1 ∧ rd (emission s) 0x380020 = BitVec.ofNat 32 s.mot.next ∧
    ∀ m, m ∈ activePorts s → prepared s.mot.next m (emission s) := by
  unfold emission
  extract_lets n ports s1 sets acts s2 s3 s4 s5 s6
  refine ⟨rfl, ?_, fun m hm => ?_⟩
  · rw [wr64, rd_wrReg_ne _ _ _ _ (canonOff_ne_of_soleName (.inr (by decide)) (.inr (by decide)) (by decide)), rd_wrReg_same]
  · exact prepared_foldl (set := fun m => (tget? sets m).getD none) hm s5

/-! ## The start of a frame (R374, R375, R371) -/

/-- Drops leave a port's frame its cycle and its axes, and all else of the port. -/
theorem mportOf_foldl_dropGroup {s : State} {m : Nat} {x : Tx} (hx : (mportOf s m).tx = some x) (l : List Nat) :
    ∃ y : Tx, mportOf (l.foldl dropGroup s) m = { mportOf s m with tx := some y } ∧ y.cycle = x.cycle ∧ y.axes = x.axes := by
  refine List.foldlRecOn (motive := fun u => ∃ y : Tx, mportOf u m = { mportOf s m with tx := some y } ∧ y.cycle = x.cycle ∧ y.axes = x.axes)
    l _ ⟨x, by rw [← hx], rfl, rfl⟩ fun u hu g _ => ?_
  obtain ⟨y, hy, hc, ha⟩ := hu
  obtain ⟨kc, ka⟩ := dropFrame_keeps u.clk.tb g y
  exact ⟨dropFrame u.clk.tb g y, by rw [mportOf_dropGroup, hy]; rfl, kc.trans hc, ka.trans ha⟩

theorem foldl_dropGroup_shape (l : List Nat) (s : State) : ∃ x, l.foldl dropGroup s = { s with mot := x } := by
  refine List.foldlRecOn (motive := fun (u : State) => ∃ x, u = { s with mot := x }) l _ ⟨_, rfl⟩ ?_
  rintro _ ⟨_, rfl⟩ g _
  exact ⟨_, rfl⟩

theorem drawBytes_shape (n : Nat) (s : State) : ∃ f, (drawBytes n s).2 = { s with free := f } := by
  induction n generalizing s with
  | zero => exact ⟨_, rfl⟩
  | succ n ih =>
    obtain ⟨f, hf⟩ := ih (draw s).2
    exact ⟨f, by rw [drawBytes]; dsimp only; rw [hf]; rfl⟩

theorem chanBCheck_cases (z : Tx) (i : Option InSet) (s : State) (e : Nat × Nat × Nat × Nat) :
    chanBCheck z i s e = tripOne false true 0x0901 s e.2.1 ∨ chanBCheck z i s e = s := ite_eq_or_eq ..

theorem foldl_dropGroup_mem (l : List Nat) (s : State) : (l.foldl dropGroup s).mem = s.mem := by
  obtain ⟨_, h⟩ := foldl_dropGroup_shape l s
  rw [h]

theorem drawBytes_mem (n : Nat) (s : State) : (drawBytes n s).2.mem = s.mem := by
  obtain ⟨_, h⟩ := drawBytes_shape n s
  rw [h]

/-- The check of channel B may trip; a port without a frame is as it was, and memory too. -/
theorem mportOf_foldl_chanBCheck {z : Tx} {i : Option InSet} {l : List (Nat × Nat × Nat × Nat)} {s : State} {m : Nat} (h : (mportOf s m).tx = none) :
    mportOf (l.foldl (chanBCheck z i) s) m = mportOf s m ∧ (l.foldl (chanBCheck z i) s).mem = s.mem := by
  refine List.foldlRecOn (motive := fun u => mportOf u m = mportOf s m ∧ u.mem = s.mem) l _ ⟨rfl, rfl⟩ fun u ⟨hu, hmem⟩ e _ => ?_
  obtain hc | hc := chanBCheck_cases z i u e
  · obtain ⟨_, _, _, _, ht⟩ := tripOne_shape u false true 0x0901 e.2.1
    exact ⟨by rw [hc, mportOf_tripOne_idle (hu ▸ h), hu], by rw [hc, ht]; exact hmem⟩
  · exact ⟨by rw [hc, hu], by rw [hc, hmem]⟩

/-- After the start of frame `x` of a port: its instant, its cycle and axes, the system time, the datagrams. -/
def FrameStarted (s : State) (m : Nat) (ac : List Dgram) (x : Tx) (u : State) : Prop :=
  u.mem = s.mem ∧ ∃ z, (mportOf u m).tx = some z ∧ z.start = some s.clk.tb ∧ z.cycle = x.cycle ∧ z.axes = x.axes ∧
    z.sysTime = s.clk.tb + 640 - s.mot.dcBase.getD 0 + (rd s 0x380018).toNat ∧ (mportOf u m).sent = z.bitmap ∧
    z.acyclic = fitDgrams (frameLen (cyclicDgrams z)) ac

theorem frameSend_starts {s : State} {m : Nat} {ac : List Dgram} {x : Tx} (hx : (mportOf s m).tx = some x) (hst : x.start = none)
    (ht : emitAt s x.cycle + 16000 ≤ s.clk.tb) : FrameStarted s m ac x (frameSend s m ac) := by
  unfold frameSend
  split
  · next hn => rw [hx] at hn; cases hn
  · next x' hx' =>
    obtain rfl : x = x' := Option.some.inj (hx.symm.trans hx')
    rw [if_neg (by simp [hst, ht])]
    extract_lets s1 y sys f z0 z p s2 s3
    obtain ⟨y', hy, hc, ha⟩ := mportOf_foldl_dropGroup hx ((rangeFrom 0 8).filter (grpTripped s))
    have hyy : y = y' := by simp only [y, s1, hy, Option.getD_some]
    have hmem2 : s2.mem = s.mem := (drawBytes_mem 8 s1).trans (foldl_dropGroup_mem _ s)
    have hp2 : mportOf s2 m = { mportOf f.2 m with tx := none, sent := z.bitmap } := mportOf_setMport _ _ _
    obtain ⟨hp3, hmem3⟩ := mportOf_foldl_chanBCheck (z := z) (i := lastInputs s m x.cycle) (l := z.axes) (s := s2) (m := m) (by rw [hp2])
    refine ⟨hmem3.trans hmem2, z, by rw [mportOf_setMport], rfl, (congrArg Tx.cycle hyy).trans hc, (congrArg Tx.axes hyy).trans ha, rfl, ?_, rfl⟩
    rw [mportOf_setMport]
    exact congrArg MPort.sent (hp3.trans hp2)

theorem frameSend_early {s : State} {m : Nat} {ac : List Dgram} {x : Tx} (hx : (mportOf s m).tx = some x) (ht : s.clk.tb < emitAt s x.cycle + 16000) :
    frameSend s m ac = s := by
  simp [frameSend, hx, ht]

/-! ## The loss of a frame (R376) -/

/-- After the loss of frame `x` of a port: its input set is invalid, and the loss is counted. -/
def FrameWasLost (s : State) (m : Nat) (x : Tx) (u : State) : Prop :=
  mportOf u m = { mportOf s m with tx := none, sent := x.bitmap, inp := some ⟨x.cycle, false, []⟩, loss := (mportOf s m).loss + 1 } ∧
    rd u (mpReg m 0x2C) = rd s (mpReg m 0x2C) + 1

theorem frameLost_port {s : State} {m : Nat} {x : Tx} (hx : (mportOf s m).tx = some x) (hm : m < 2) : FrameWasLost s m x (frameLost s m) := by
  unfold frameLost
  split
  · next hn => rw [hx] at hn; cases hn
  · next x' hx' =>
    obtain rfl : x = x' := Option.some.inj (hx.symm.trans hx')
    extract_lets v p s1 s2 f w
    have hb : (mportOf (bump s (mpReg m 0x2C)) m).tx = some x := hx
    have h1 : mportOf s1 m = { mportOf s m with tx := none, sent := x.bitmap, inp := some ⟨x.cycle, false, []⟩ } := by
      have hp : p = { mportOf s m with tx := none, sent := x.bitmap } := mportOf_finishTx hb
      rw [mportOf_setMport, hp]
    have h2 : mportOf s2 m = { mportOf s m with tx := none, sent := x.bitmap, inp := some ⟨x.cycle, false, []⟩, loss := (mportOf s m).loss + 1 } := by
      rw [mportOf_invalidInputs (by rw [h1]), h1]
    obtain ⟨n, hf⟩ := drawBytes_shape (piLen s2) s2
    refine ⟨?_, ?_⟩
    · rw [mportOf_of_mot (inputSet_mot ..), mportOf_of_mot (draw_mot f.2), mportOf_of_mot (congrArg State.mot hf), ← h2]
      rfl
    · rw [rd_inputSet _ _ _ _ _ _ _ (by unfold mpReg; omega), rd_of_regs (draw_regs f.2), rd_of_regs (congrArg State.regs hf)]
      refine (rd_invalidInputs s1 m (soleName_mpReg _ _) (by unfold mpReg; omega)).trans ?_
      exact (rd_of_regs (s := bump s (mpReg m 0x2C)) (finishTx_regs _ m) _).trans (rd_bump s _)

/-! ## Command sets (R378, R379) -/

theorem readHead_mem (m : Nat) (s : State) (e : Nat) : (readHead m s e).mem = s.mem := by
  unfold readHead
  extract_lets b x cyc passed old
  split
  · rfl
  · split <;> rfl

theorem setSignal_reads {s : State} {m d : Nat}
    (hd : d = (token s (cpartOf s m) (fld s (mpReg m 0x10) 0 6) - (mportOf s m).base - BitVec.ofNat 32 (mportOf s m).ptr).toNat)
    (hr : ringsOn s m = true) (h1 : 1 ≤ d) (h2 : d ≤ 2 ^ 31) :
    (setSignal s m).mem = s.mem ∧ (mportOf (setSignal s m) m).ptr = (mportOf s m).ptr + d := by
  subst hd
  have hgo : ¬ ((token s (cpartOf s m) (fld s (mpReg m 0x10) 0 6) - (mportOf s m).base - BitVec.ofNat 32 (mportOf s m).ptr).toNat = 0 ∨
      2 ^ 31 < (token s (cpartOf s m) (fld s (mpReg m 0x10) 0 6) - (mportOf s m).base - BitVec.ofNat 32 (mportOf s m).ptr).toNat) := by omega
  unfold setSignal
  dsimp only
  rw [if_neg (not_not.mpr hr), if_neg hgo]
  refine ⟨?_, by rw [mportOf_setMport]⟩
  exact List.foldlRecOn (motive := fun (u : State) => u.mem = s.mem) _ (readHead m) rfl fun u hu e _ => (readHead_mem m u e).trans hu

theorem setSignal_none {s : State} {m : Nat} (h : ringsOn s m = false ∨
      (token s (cpartOf s m) (fld s (mpReg m 0x10) 0 6) - (mportOf s m).base - BitVec.ofNat 32 (mportOf s m).ptr).toNat = 0) :
    setSignal s m = s := by
  unfold setSignal
  dsimp only
  rcases h with h | h
  · rw [if_pos (by simp [h])]
  · by_cases hr : ringsOn s m = true
    · rw [if_neg (not_not.mpr hr), if_pos (.inl h)]
    · rw [if_pos hr]

/-! ## Links (R377) -/

/-- RING of the number of links up. -/
theorem ring_of_links (a b : Bool) : (if a && b then 0 else if a || b then 1 else 2) % 2 ^ 2 = 2 - (if a then 1 else 0) - (if b then 1 else 0) := by
  cases a <;> cases b <;> rfl

theorem execMotLinkChange_links (t : Time) (m : Fin 2) (up : Bool) (s : State) : ∃ u, execMotLinkChange t m up s = .next u ∧
    u = { advance s t with regs := u.regs } ∧ flag u (mpReg m 0x18) 0 = up ∧
    (topo s = 2 → fld u 0x38001C 6 2 = 2 - (if flag u (mpReg 0 0x18) 0 then 1 else 0) - (if flag u (mpReg 1 0x18) 0 then 1 else 0)) := by
  have hne (k : Nat) : canonOff (mpReg k 0x18) ≠ canonOff 0x38001C :=
    canonOff_ne_of_soleName (soleName_mpReg _ _) (.inr (by decide)) (by unfold mpReg; omega)
  have htopo : topo (setFlag (advance s t) (mpReg m 0x18) 0 up) = topo s := congrArg (listed 1 3) (fld_of_rd (rd_setFlag_ne _ _ _
    (canonOff_ne_of_soleName (.inr (by decide)) (soleName_mpReg _ _) (by unfold mpReg; omega))) 30 2)
  refine ⟨_, rfl, ?_⟩
  dsimp only
  rw [htopo]
  by_cases hring : topo s = 2
  · rw [if_pos hring]
    refine ⟨rfl, ?_, fun _ => ?_⟩
    · rw [flag_of_rd (rd_setFld_ne _ _ _ _ _ _ (hne m)), flag_setFlag_same _ _ (by decide)]
    · rw [fld_setFld_same _ _ _ _ _ (by decide), flag_of_rd (rd_setFld_ne _ _ _ _ _ _ (hne 0)), flag_of_rd (rd_setFld_ne _ _ _ _ _ _ (hne 1))]
      exact ring_of_links _ _
  · rw [if_neg hring]
    exact ⟨rfl, flag_setFlag_same _ _ (by decide) _, fun h => absurd h hring⟩

/-! ## The theorem -/

/-- Settles O40: `emission_cycle`, `frameSend_starts`, the port after a frame's return and its loss, `setSignal_reads` and
`execMotLinkChange_links`. -/
theorem motionCyclesAndFrames : Obligations.MotionCyclesAndFrames := by
  refine ⟨fun t s hrun => ⟨fun ht => ?_, fun ht => ?_⟩, fun t m ac s x hx hst => ⟨fun ht => ?_, fun ht => ?_⟩,
    fun t m broken c y s x a hring hx hst hlo hhi hc => ⟨fun hw => ?_, fun hw => ?_⟩, fun t m s x hx => ⟨fun ht => ?_, fun ht => ?_⟩,
    fun t m s => ⟨fun hr h1 h2 => ?_, fun h => ?_⟩, fun t m up s => ?_⟩
  · have hgo : (motRunning (advance s t) && decide (emitAt (advance s t) (advance s t).mot.next ≤ (advance s t).clk.tb)) = true := by
      rw [show motRunning (advance s t) = true from hrun, Bool.true_and]
      exact decide_eq_true ht
    refine ⟨emission (advance s t), by rw [exec_emissionPoint, execEmissionPoint]; simp only [hgo, if_true], emission_cycle (advance s t)⟩
  · have hno : ¬ (emitAt (advance s t) (advance s t).mot.next ≤ (advance s t).clk.tb) := Nat.not_le.mpr ht
    rw [exec_emissionPoint, execEmissionPoint]
    simp only [hno, decide_false, Bool.and_false, Bool.false_eq_true, if_false]
  · obtain ⟨hmem, z, hz⟩ := frameSend_starts (s := advance s t) (ac := ac) hx hst ht
    obtain ⟨htx, hrest⟩ := hz
    exact ⟨frameSend (advance s t) m ac, z, rfl, hmem, htx, hrest⟩
  · exact congrArg _ (frameSend_early (s := advance s t) hx ht)
  · have hp := mportOf_frameReturn_ok (s := advance s t) (broken := broken) (y := y) hring hx hst hlo hhi hc hw
    refine ⟨frameReturn (advance s t) m broken c y, rfl, by rw [hp], by rw [hp], by rw [hp], fun hr => ?_⟩
    exact frameReturn_ok_quiet (s := advance s t) hring hx hst hlo hhi hc hw hr
  · have hp := mportOf_frameReturn_wkc (s := advance s t) (broken := broken) (y := y) hring hx hst hlo hhi hc hw
    refine ⟨frameReturn (advance s t) m broken c y, rfl, by rw [hp], by rw [hp], by rw [hp]; rfl, ?_⟩
    exact rd_frameReturn_wkc (s := advance s t) hring hx hst hlo hhi hc hw m.isLt
  · obtain ⟨hp, hr⟩ := frameLost_port (s := advance s t) hx m.isLt
    refine ⟨frameLost (advance s t) m, ?_, by rw [hp], by rw [hp], by rw [hp]; rfl, hr⟩
    rw [exec_frameLossTimeout, execFrameLossTimeout]
    rw [show (mportOf (advance s t) m).tx = some x from hx]
    exact congrArg _ (if_pos ht)
  · rw [exec_frameLossTimeout, execFrameLossTimeout]
    rw [show (mportOf (advance s t) m).tx = some x from hx]
    exact congrArg _ (if_neg (Nat.not_le.mpr ht))
  · exact ⟨setSignal (advance s t) m, rfl, setSignal_reads (s := advance s t) rfl hr h1 h2⟩
  · exact congrArg _ (setSignal_none (s := advance s t) h)
  · exact execMotLinkChange_links t m up s

end Sys2Proof.Proofs
end

section
/-! # O41: a reset that is granted when its instant, and not the state before it, meets R395

In `recovering` the test pulse of input 0 that ends at 100 000 ns is the last that the fault of the input waits for (R392).  A grant at that
instant finds the fault over; the same check on the state before finds it active. -/
namespace Sys2Proof.Proofs
open Sys2Proof Sys2Proof.Machine Sys2Proof.Safety Sys2Proof.Laws

/-- Both channels of an input that were seen not in demand, B's test pulse passed, A's begun at 0. -/
def recoveringInput : SIn := { SIn.reset with
  demA := false, demB := false, sinceA := none, sinceB := none, pulseA := some 0, clear := true, passB := true }

/-- Input 0 is a STOP input of group 0 with FAULT set and TP_EN; the reset of group 0 is asked for, its set is on time, both channels run. -/
def recovering : State := { State.reset with
  regs := [(0x20000, 0x60000000), (0x380000, 0x40000000), (0x38001C, 1), (0x380110, 0x80000000), (0x390000, 0x40010000), (0x390004, 0x80000000), (0x390008, 0x10)],
  mot := { Mot.reset with ports := [(0, { MPort.reset with onTime := true })] },
  sio := { Sio.reset with grps := [(0, { Grp.reset with req := true })], ins := [(0, recoveringInput)], start := false } }

theorem recovering_faulted : resetItem1 recovering (0 : Fin 8) = false := by decide

theorem recovering_recovers :
    (flag (advance recovering 100000) 0x20000 30 && flag (advance recovering 100000) 0x20000 29 && resetItem1 (advance recovering 100000) (0 : Fin 8) &&
      resetItem2 (advance recovering 100000) (0 : Fin 8)) = true := by decide

/-- Refutes O41: the clause on GROUP_RESET_GRANT reads R395's items in the state before the command; in `recovering` they fail there and hold at
the command's instant, and the reset is granted. -/
theorem not_safeInputsOutputsAndResets : ¬ Obligations.SafeInputsOutputsAndResets := by
  rintro ⟨-, -, -, -, -, -, -, -, -, -, -, -, hgrant⟩
  obtain ⟨u, hu, -, -, -, hno⟩ := hgrant 100000 0 true recovering rfl
  obtain ⟨hdenied, -⟩ := hno (by rw [recovering_faulted, Bool.and_false, Bool.false_and])
  have hreq : ¬ ¬ (grpOf (advance recovering 100000) (0 : Fin 8)).req = true := by decide
  rw [exec_groupResetGrant, execGroupResetGrant, if_neg hreq, Bool.true_and, if_pos recovering_recovers] at hu
  injection hu with hu
  rw [← hu, grpOf_setGrp_same] at hdenied
  cases hdenied

end Sys2Proof.Proofs
end

section
/-! # Supervision and the heartbeats of the Hutch's channels (R402, R404, R427, R428) -/
namespace Sys2Proof.Proofs
open Sys2Proof Sys2Proof.Machine Sys2Proof.Safety Sys2Proof.Laws

/-! ## The status record (R427) -/

/-- The status record goes to memory; its number counts. -/
theorem statusRecord_shape (s : State) : ∃ m n, statusRecord s = { s with mem := m, hut := { s.hut with seq := n } } := by
  unfold statusRecord
  extract_lets
  exact ⟨_, _, rfl⟩

/-! ## HUT_STATUS after a change of a channel -/

/-- The bit of HUT_STATUS that shows whether a channel runs. -/
def runBit : Chan → Nat
  | .a => 30
  | .b => 29

/-- The bits of HUT_STATUS that show the channels: A, B, both, and a proof test. -/
def showChannels (s : State) : State :=
  setFlag (setFlag (setFlag (setFlag s 0x20000 30 (chanRuns s.hut.chA)) 0x20000 29 (chanRuns s.hut.chB)) 0x20000 31
    (chanRuns s.hut.chA && chanRuns s.hut.chB)) 0x20000 27 (s.hut.chA.testing || s.hut.chB.testing)

/-- Registers that a change of a channel leaves as `showChannels` has them: all but UNSUP_NS. -/
def besideUnsup (off : Nat) : Prop := soleName off ∧ off ≠ 0x2006C ∧ off ≠ 0x20070

theorem rd_wr64_ne (s : State) {lo hi v off : Nat} (hs : soleName off) (hslo : soleName lo) (hshi : soleName hi) (hlo : off ≠ lo) (hhi : off ≠ hi) :
    rd (wr64 s lo hi v) off = rd s off := by
  rw [wr64, rd_wrReg_ne _ _ _ _ (canonOff_ne_of_soleName hs hshi hhi), rd_wrReg_ne _ _ _ _ (canonOff_ne_of_soleName hs hslo hlo)]

/-- Supervision that has begun: HUT_STATUS shows the channels, whose state stays; UNSUP_NS, the record and its number may change too. -/
structure Shown (s u : State) : Prop where
  rd : ∀ off, besideUnsup off → rd u off = rd (showChannels s) off
  chA : u.hut.chA = s.hut.chA
  chB : u.hut.chB = s.hut.chB
  passed : u.hut.passed = s.hut.passed
  log : u.hut.log = s.hut.log
  sio : u.sio = s.sio
  clk : u.clk = s.clk

theorem Shown.record {s u : State} (h : Shown s u) : Shown s (statusRecord u) := by
  obtain ⟨m, n, e⟩ := statusRecord_shape u
  rw [e]
  exact ⟨h.rd, h.chA, h.chB, h.passed, h.log, h.sio, h.clk⟩

theorem Shown.unsup {s u : State} (h : Shown s u) (n : Nat) (x : Option Time) :
    Shown s { wr64 u 0x2006C 0x20070 n with hut := { u.hut with unsupFrom := x } } where
  rd off hoff := (rd_of_regs (s := wr64 u 0x2006C 0x20070 n) rfl off).trans
    ((rd_wr64_ne u hoff.1 (.inl (by decide)) (.inl (by decide)) hoff.2.1 hoff.2.2).trans (h.rd off hoff))
  chA := h.chA
  chB := h.chB
  passed := h.passed
  log := h.log
  sio := h.sio
  clk := h.clk

theorem Shown.unsupFrom {s u : State} (h : Shown s u) (x : Option Time) : Shown s { u with hut := { u.hut with unsupFrom := x } } :=
  ⟨h.rd, h.chA, h.chB, h.passed, h.log, h.sio, h.clk⟩

theorem shown_superviseNow {s : State} (hp : s.hut.passed = true) : Shown s (superviseNow s) := by
  unfold superviseNow
  rw [if_neg (not_not.mpr hp)]
  extract_lets a b was s1 out p s2
  have h1 : Shown s s1 := ⟨fun _ _ => rfl, rfl, rfl, rfl, rfl, rfl, rfl⟩
  clear_value s1
  have h2 : Shown s s2 := by
    unfold s2
    split
    · exact h1.unsupFrom _
    · exact h1.unsup _ _
    · exact h1
  split
  · exact h2
  · exact h2.record

section
variable {s u : State}

theorem Shown.status (h : Shown s u) : Machine.rd u 0x20000 = Machine.rd (showChannels s) 0x20000 :=
  h.rd _ ⟨.inl (by decide), by decide, by decide⟩

theorem Shown.supervising (h : Shown s u) : supervising u = (chanRuns s.hut.chA && chanRuns s.hut.chB) := by
  rw [Machine.supervising, flag_of_rd h.status, showChannels, flag_setFlag_ne _ _ (by decide) (by decide), flag_setFlag_same _ _ (by decide)]

theorem Shown.runs (h : Shown s u) (c : Chan) : flag u 0x20000 (runBit c) = chanRuns (hchanOf s c) := by
  rw [flag_of_rd h.status, showChannels]
  cases c with
  | a =>
    rw [runBit, flag_setFlag_ne _ _ (by decide) (by decide), flag_setFlag_ne _ _ (by decide) (by decide), flag_setFlag_ne _ _ (by decide) (by decide),
      flag_setFlag_same _ _ (by decide)]
    rfl
  | b =>
    rw [runBit, flag_setFlag_ne _ _ (by decide) (by decide), flag_setFlag_ne _ _ (by decide) (by decide), flag_setFlag_same _ _ (by decide)]
    rfl

theorem Shown.testing (h : Shown s u) : flag u 0x20000 27 = (s.hut.chA.testing || s.hut.chB.testing) := by
  rw [flag_of_rd h.status, showChannels, flag_setFlag_same _ _ (by decide)]

/-- LAST_EVT stays. -/
theorem Shown.lastEvt (h : Shown s u) : fld u 0x20000 0 16 = fld s 0x20000 0 16 := by
  have hne (v : State) (i : Nat) (b : Bool) (hi : 16 ≤ i) : fld (setFlag v 0x20000 i b) 0x20000 0 16 = fld v 0x20000 0 16 :=
    fld_setFlag_ne v 0x20000 b (.inl hi)
  rw [fld_of_rd h.status, showChannels, hne _ _ _ (by decide), hne _ _ _ (by decide), hne _ _ _ (by decide), hne _ _ _ (by decide)]

/-- Other registers stay. -/
theorem Shown.other (h : Shown s u) {off : Nat} (hoff : besideUnsup off) (h0 : off ≠ 0x20000) : Machine.rd u off = Machine.rd s off := by
  have hne (v : State) (i : Nat) (b : Bool) : Machine.rd (setFlag v 0x20000 i b) off = Machine.rd v off :=
    rd_setFlag_ne v i b (canonOff_ne_of_soleName hoff.1 (.inl (by decide)) h0)
  rw [h.rd off hoff, showChannels, hne, hne, hne, hne]

theorem Shown.chan (h : Shown s u) (c : Chan) : hchanOf u c = hchanOf s c := hchanOf_of_hut h.chA h.chB c

end

/-- Two channels run where the one and the other do. -/
theorem runs_both (s : State) (c : Chan) : (chanRuns s.hut.chA && chanRuns s.hut.chB) = (chanRuns (hchanOf s c) && chanRuns (hchanOf s (otherChan c))) := by
  cases c
  · rfl
  · exact Bool.and_comm _ _

/-! ## What a change of a channel does before it is shown -/

section
variable (s : State) (c : Chan) (x : HChan)

@[simp] theorem setHchan_passed : (setHchan s c x).hut.passed = s.hut.passed := by cases c <;> rfl
@[simp] theorem hutEvent_passed (code arg : Nat) : (hutEvent code arg s).hut.passed = s.hut.passed := rfl
@[simp] theorem clearDiffs_passed : (clearDiffs s).hut.passed = s.hut.passed := rfl
@[simp] theorem clearDiffs_regs : (clearDiffs s).regs = s.regs := rfl
@[simp] theorem clearDiffs_clk : (clearDiffs s).clk = s.clk := rfl

/-- Differences are measured anew; the rest of a channel stays. -/
theorem hchanOf_clearDiffs : hchanOf (clearDiffs s) c = { hchanOf s c with diff := [] } := by cases c <;> rfl

@[simp] theorem hchanOf_bump (off : Nat) : hchanOf (bump s off) c = hchanOf s c := hchanOf_of_hut rfl rfl c

end

theorem soleName_hctReg {i : Nat} (h : i < 16) : soleName (hctReg i) := .inl (by unfold hctReg; omega)

/-- The counters of R432 below UNSUP_NS. -/
theorem besideUnsup_hctReg {i : Nat} (h : i < 11) : besideUnsup (hctReg i) :=
  ⟨soleName_hctReg (by omega), by unfold hctReg; omega, by unfold hctReg; omega⟩

/-! ## Heartbeats: the decisions that differ (R402) -/

/-- A comparison notes a decision where it differs. -/
theorem isSome_noteDiff_same (now : Time) (d : Tab Time) (k : Nat) (b : Bool) : (tget? (noteDiff now d k b) k).isSome = b := by
  unfold noteDiff
  cases b with
  | false => simp
  | true =>
    simp only [not_true, if_false]
    split
    · assumption
    · simp

theorem tget?_noteDiff_ne (now : Time) (d : Tab Time) {k j : Nat} (h : j ≠ k) (b : Bool) : tget? (noteDiff now d k b) j = tget? d j := by
  unfold noteDiff
  split
  · exact tget?_tdel_ne _ _ _ h
  · split
    · rfl
    · exact tget?_tset_ne _ _ _ _ h

theorem isSome_foldl_noteDiff {now : Time} {f : Nat → Bool} {l : List Nat} {z : Nat} (hz : z ∈ l) (d : Tab Time) :
    (tget? (l.foldl (fun d z => noteDiff now d z (f z)) d) z).isSome = f z := by
  induction l generalizing d with
  | nil => cases hz
  | cons y l ih =>
    by_cases hy : z ∈ l
    · exact ih hy _
    · obtain rfl : z = y := (List.mem_cons.mp hz).resolve_right hy
      refine List.foldlRecOn (motive := fun d : Tab Time => (tget? d z).isSome = f z) l _ (isSome_noteDiff_same ..) fun d hd k hk => ?_
      rw [tget?_noteDiff_ne _ _ fun e => hy (by rwa [e])]
      exact hd

theorem isSome_diffNow (s : State) (b : HutBeat) {z : Nat} (hz : z < 16) :
    (tget? (diffNow s b) z).isSome = (b.zones.testBit z != chanInvalid s (otherChan b.ch) z) := by
  rw [diffNow, tget?_noteDiff_ne _ _ (Nat.ne_of_lt hz)]
  exact isSome_foldl_noteDiff (f := fun z => b.zones.testBit z != chanInvalid s (otherChan b.ch) z) ((mem_rangeFrom 16 0 z).mpr ⟨Nat.zero_le z, hz⟩) _

theorem isSome_diffNow_copies (s : State) (b : HutBeat) : (tget? (diffNow s b) 16).isSome = copyDiffers s := isSome_noteDiff_same ..

/-- The beat reaches a receiver that runs, and no other. -/
theorem beatIn_of_runs {s : State} {b : HutBeat} (hp : s.hut.passed = true) (hr : chanRuns (hchanOf s b.ch) = true) :
    beatIn s b = if chanRuns (hchanOf s (otherChan b.ch)) = true
      then setHchan (setHchan s b.ch { hchanOf s b.ch with beat := s.clk.tb }) (otherChan b.ch)
        { hchanOf s (otherChan b.ch) with got := some b, diff := diffNow s b }
      else setHchan s b.ch { hchanOf s b.ch with beat := s.clk.tb } := by
  unfold beatIn
  dsimp only
  rw [if_neg (by simp [hp, hr]), hchanOf_setHchan_other]

@[simp] theorem otherChan_otherChan (c : Chan) : otherChan (otherChan c) = c := by cases c <;> rfl

theorem hchanOf_setHchan_from_other (s : State) (c : Chan) (x : HChan) : hchanOf (setHchan s (otherChan c) x) c = hchanOf s c := by
  cases c <;> rfl

theorem beatIn_spec {s : State} {b : HutBeat} (hp : s.hut.passed = true) (hr : chanRuns (hchanOf s b.ch) = true) :
    (beatIn s b).regs = s.regs ∧ (beatIn s b).mem = s.mem ∧ hchanOf (beatIn s b) b.ch = { hchanOf s b.ch with beat := s.clk.tb } ∧
      (chanRuns (hchanOf s (otherChan b.ch)) = true →
        hchanOf (beatIn s b) (otherChan b.ch) = { hchanOf s (otherChan b.ch) with got := some b, diff := diffNow s b }) := by
  rw [beatIn_of_runs hp hr]
  by_cases ho : chanRuns (hchanOf s (otherChan b.ch)) = true
  · rw [if_pos ho]
    exact ⟨by simp, by simp, by rw [hchanOf_setHchan_from_other, hchanOf_setHchan], fun _ => hchanOf_setHchan _ _ _⟩
  · rw [if_neg ho]
    exact ⟨by simp, by simp, hchanOf_setHchan _ _ _, fun h => absurd h ho⟩

end Sys2Proof.Proofs
end

section
/-! # O44: channels and supervision -/
namespace Sys2Proof.Proofs
open Sys2Proof Sys2Proof.Machine Sys2Proof.Safety Sys2Proof.Laws

/-! ## Supervision starts (R404) -/

theorem updateStart_hut (s : State) : (updateStart s).hut = s.hut := by
  have h (c : Prop) [Decidable c] (x y : State) (hx : x.hut = s.hut) (hy : y.hut = s.hut) : (if c then x else y).hut = s.hut := by
    split <;> assumption
  unfold updateStart
  extract_lets p s1
  have h1 : s1.hut = s.hut := h _ _ _ rfl rfl
  clear_value s1
  exact h _ _ _ (h _ _ _ h1 ((tripGroups_hut ..).trans h1)) (h _ _ _ h1 h1)

/-- START is kept in safe I/O; its trips write the registers of the groups. -/
theorem rd_updateStart (s : State) {off : Nat} (hs : soleName off) (h : off < 0x390200) : rd (updateStart s) off = rd s off := by
  unfold updateStart
  extract_lets p s1
  have h1 : rd s1 off = rd s off := rd_ite rfl rfl
  clear_value s1
  exact rd_ite (rd_ite h1 ((rd_tripGroups_low _ _ _ _ _ hs h).trans h1)) (rd_ite h1 h1)

theorem beginSupervision_begins {s : State} (hp : s.hut.passed = false) : (beginSupervision s).hut.passed = true ∧
    supervising (beginSupervision s) = (chanRuns s.hut.chA && chanRuns s.hut.chB) := by
  unfold beginSupervision
  rw [if_neg (by simp [hp])]
  extract_lets p q r s1
  have h : Shown s1 (superviseNow s1) := shown_superviseNow rfl
  refine ⟨by rw [updateStart_hut, h.passed], ?_⟩
  rw [supervising, flag_of_rd (rd_updateStart _ (.inl (by decide)) (by decide)), ← supervising, h.supervising]
  rfl

/-! ## A channel restarts, is under test, or runs again (R402, R428) -/

section
variable {t : Time} {c : Chan} {s : State}

/-- The channel as the missing heartbeats leave it, and the record. -/
theorem execHeartbeatMiss_restarts (hp : s.hut.passed = true) (hc : chanRuns (hchanOf s c) = true) (ho : chanRuns (hchanOf s (otherChan c)) = true)
    (ht : (hchanOf s c).beat + 30000 ≤ max s.clk.tb t) :
    execHeartbeatMiss t c s = .next (superviseNow (hutEvent 0x060B (chanArg c)
      (bump (clearDiffs (setHchan (advance s t) c { hchanOf s c with restarting := true })) (hctReg 8)))) := by
  have ht' : decide ((hchanOf s c).beat + 30000 ≤ (advance s t).clk.tb) = true := decide_eq_true ht
  rw [execHeartbeatMiss, if_pos (by rw [hchanOf_advance, hchanOf_advance, ht', hc, ho]; exact congrArg (fun p => p && true && true && true) hp)]
  rfl

theorem execProofTest_begins (hp : s.hut.passed = true) (hc : chanRuns (hchanOf s c) = true) (ho : (hchanOf s (otherChan c)).testing = false)
    (hday : (hchanOf s c).day < proofDay (advance s t) c) :
    execProofTest t c s = .next (superviseNow (clearDiffs (setHchan (advance s t) c
      { hchanOf s c with testing := true, day := proofDay (advance s t) c }))) := by
  rw [execProofTest, if_pos (by rw [hchanOf_advance, hchanOf_advance, hc, ho, decide_eq_true hday]; exact congrArg (fun p => p && true && true && true) hp)]
  rfl

theorem execChannelRestartDone_runs (hr : (hchanOf s c).restarting = true) : execChannelRestartDone t c true s =
    .next (superviseNow (clearDiffs (setHchan (advance s t) c { hchanOf s c with restarting := false, fails := 0, beat := max s.clk.tb t }))) := by
  rw [execChannelRestartDone, if_neg (by rw [hchanOf_advance, hr]; simp), if_pos rfl]
  rfl

theorem execChannelRestartDone_again (hr : (hchanOf s c).restarting = true) (hf : (hchanOf s c).fails = 0) :
    execChannelRestartDone t c false s = .next (setHchan (advance s t) c { hchanOf s c with fails := 1 }) := by
  rw [execChannelRestartDone, if_neg (by rw [hchanOf_advance, hr]; simp), if_neg Bool.false_ne_true, if_pos (by rw [hchanOf_advance, hf])]
  rfl

theorem execChannelRestartDone_fails (hr : (hchanOf s c).restarting = true) (hf : (hchanOf s c).fails ≠ 0) :
    execChannelRestartDone t c false s = .next (superviseNow (hutchStop (rangeFrom 0 8)
      (setHchan (advance s t) c { hchanOf s c with restarting := false, fails := 2, failed := true }))) := by
  rw [execChannelRestartDone, if_neg (by rw [hchanOf_advance, hr]; simp), if_neg Bool.false_ne_true, if_neg (by rwa [hchanOf_advance])]
  rfl

theorem execChannelDecisionMismatch_stops {z : Nat} (hp : s.hut.passed = true) (hA : chanRuns s.hut.chA = true) (hB : chanRuns s.hut.chB = true)
    (hz : (overDiff (max s.clk.tb t) s.hut.chA).or (overDiff (max s.clk.tb t) s.hut.chB) = some z) :
    execChannelDecisionMismatch t s = .next (hutEvent 0x060A z (hutchStop (rangeFrom 0 8) (clearDiffs (advance s t)))) := by
  have hz' : (overDiff (advance s t).clk.tb (advance s t).hut.chA).or (overDiff (advance s t).clk.tb (advance s t).hut.chB) = some z := hz
  rw [execChannelDecisionMismatch, if_pos (by rw [advance_hut, hp, hA, hB]; rfl), hz']

end

/-- A channel that does not run leaves supervision. -/
theorem Shown.unsupervised {s u : State} (h : Shown s u) {c : Chan} (hc : chanRuns (hchanOf s c) = false) : Machine.supervising u = false := by
  rw [h.supervising, runs_both s c, hc, Bool.false_and]

/-- A channel as it is once its change is shown, and what HUT_STATUS says. -/
structure ChannelShown (s : State) (c : Chan) (x : HChan) (u : State) : Prop where
  chan : hchanOf u c = { x with diff := [] }
  supervising : supervising u = (chanRuns x && chanRuns (hchanOf s (otherChan c)))
  testing : x.testing = true → flag u 0x20000 27 = true

theorem channelShown {s : State} (t : Time) (c : Chan) (x : HChan) (hp : s.hut.passed = true) :
    ChannelShown s c x (superviseNow (clearDiffs (setHchan (advance s t) c x))) := by
  have h := shown_superviseNow (s := clearDiffs (setHchan (advance s t) c x)) (by simpa using hp)
  have hown : hchanOf (clearDiffs (setHchan (advance s t) c x)) c = { x with diff := [] } := by rw [hchanOf_clearDiffs, hchanOf_setHchan]
  refine ⟨(h.chan c).trans hown, ?_, fun ht => ?_⟩
  · rw [h.supervising, runs_both _ c, hown, hchanOf_clearDiffs, hchanOf_setHchan_other, hchanOf_advance]
    rfl
  · rw [h.testing]
    cases c <;> simp [setHchan, clearDiffs, ht]

/-- Three heartbeats are missing: the channel restarts, which is counted and recorded. -/
theorem heartbeatMiss_shown {s : State} (t : Time) (c : Chan) (x : HChan) (hp : s.hut.passed = true) (hx : x.restarting = true) {u : State}
    (hu : u = superviseNow (hutEvent 0x060B (chanArg c) (bump (clearDiffs (setHchan (advance s t) c x)) (hctReg 8)))) :
    (hchanOf u c).restarting = true ∧ supervising u = false ∧ flag u 0x20000 (runBit c) = false ∧
      rd u (hctReg 8) = rd s (hctReg 8) + 1 ∧ fld u 0x20000 0 16 = 0x060B := by
  have h := shown_superviseNow (s := hutEvent 0x060B (chanArg c) (bump (clearDiffs (setHchan (advance s t) c x)) (hctReg 8))) (by simpa using hp)
  rw [← hu] at h
  have hown : hchanOf (hutEvent 0x060B (chanArg c) (bump (clearDiffs (setHchan (advance s t) c x)) (hctReg 8))) c = { x with diff := [] } := by
    rw [hchanOf_hutEvent, hchanOf_bump, hchanOf_clearDiffs, hchanOf_setHchan]
  have hstop : chanRuns (hchanOf (hutEvent 0x060B (chanArg c) (bump (clearDiffs (setHchan (advance s t) c x)) (hctReg 8))) c) = false := by
    rw [hown]; simp [chanRuns, hx]
  refine ⟨by rw [h.chan, hown]; exact hx, h.unsupervised hstop, (h.runs c).trans hstop, ?_, by rw [h.lastEvt, fld_hutEvent _ _ (by decide)]⟩
  rw [h.other (besideUnsup_hctReg (by decide)) (by decide), rd_hutEvent_ne _ (soleName_hctReg (by decide)) (by decide), rd_bump,
    rd_of_regs (s := s) (by rw [clearDiffs_regs, setHchan_regs, advance_regs])]

/-- The second failure: every group trips. -/
theorem restartFailed_shown {s : State} (t : Time) (c : Chan) (x : HChan) (hp : s.hut.passed = true) (hx : x.failed = true) {u : State}
    (hu : u = superviseNow (hutchStop (rangeFrom 0 8) (setHchan (advance s t) c x))) :
    (hchanOf u c).failed = true ∧ supervising u = false ∧ ∀ g, g < 8 → ∀ k, (latOf u g k).isSome = true := by
  have h := shown_superviseNow (s := hutchStop (rangeFrom 0 8) (setHchan (advance s t) c x)) (by simpa using hp)
  rw [← hu] at h
  have hown : hchanOf (hutchStop (rangeFrom 0 8) (setHchan (advance s t) c x)) c = x := by rw [hchanOf_hutchStop, hchanOf_setHchan]
  refine ⟨by rw [h.chan, hown]; exact hx, h.unsupervised (c := c) (by rw [hown]; simp [chanRuns, hx]), fun g hg k => ?_⟩
  rw [latOf_of_grps (congrArg Sio.grps h.sio)]
  exact latched_hutchStop (mem_allGroups hg) _ k

/-- The end of a proof test is counted, and the channel is under test no more, whether supervision has begun or not. -/
theorem execProofTestDone_ends {t : Time} {c : Chan} {s : State} (ht : (hchanOf s c).testing = true) :
    ∃ u, execProofTestDone t c s = .next u ∧ (hchanOf u c).testing = false ∧ rd u (hctReg 9) = rd s (hctReg 9) + 1 := by
  have hrd (x : HChan) : rd (bump (clearDiffs (setHchan (advance s t) c x)) (hctReg 9)) (hctReg 9) = rd s (hctReg 9) + 1 := by
    rw [rd_bump, rd_of_regs (s := s) (by rw [clearDiffs_regs, setHchan_regs, advance_regs])]
  rw [execProofTestDone]
  refine ⟨_, congrArg Host.Outcome.next (if_pos (by rwa [hchanOf_advance])), ?_⟩
  generalize hx : ({ hchanOf (advance s t) c with testing := false, beat := (advance s t).clk.tb } : HChan) = x
  have hown : (hchanOf (bump (clearDiffs (setHchan (advance s t) c x)) (hctReg 9)) c).testing = false := by
    rw [hchanOf_bump, hchanOf_clearDiffs, hchanOf_setHchan, ← hx]
  by_cases hp : s.hut.passed = true
  · have h := shown_superviseNow (s := bump (clearDiffs (setHchan (advance s t) c x)) (hctReg 9)) (by simpa using hp)
    exact ⟨by rw [h.chan, hown], by rw [h.other (besideUnsup_hctReg (by decide)) (by decide), hrd]⟩
  · rw [superviseNow, if_pos (by simpa using hp)]
    exact ⟨hown, hrd x⟩

/-- Settles O44: each command by its equation, HUT_STATUS by `shown_superviseNow`, the heartbeat by `beatIn_spec` and `isSome_diffNow`. -/
theorem hutchChannelsAndSupervision : Obligations.HutchChannelsAndSupervision := by
  refine ⟨fun t s hp => ⟨fun h2 h15 => ?_, fun h => ?_⟩, fun t b s hp hr => ?_, fun t c s hp hc => ⟨fun ho ht => ?_, fun ho hday => ?_⟩,
    fun t z s hp hA hB hz => ?_, fun t c s hr hp => ⟨?_, fun hf => ?_, fun hf => ?_⟩, fun t c s ht => execProofTestDone_ends ht⟩
  · refine ⟨beginSupervision (advance s t), ?_, beginSupervision_begins (s := advance s t) hp⟩
    rw [exec_supervisionStart, execSupervisionStart, if_pos ⟨h2, h15⟩]
  · rw [exec_supervisionStart, execSupervisionStart, if_neg fun ⟨h2, h15⟩ => h.elim (Nat.not_lt.mpr h2) h15]
  · obtain ⟨hregs, hmem, hown, hother⟩ := beatIn_spec (s := advance s t) (b := b) hp (by rwa [hchanOf_advance])
    refine ⟨beatIn (advance s t) b, rfl, hregs, hmem, by rw [hown, hchanOf_advance]; rfl, fun ho => ?_⟩
    rw [hother (by rwa [hchanOf_advance])]
    exact ⟨rfl, fun z hz => isSome_diffNow _ b hz, isSome_diffNow_copies _ b⟩
  · exact ⟨_, execHeartbeatMiss_restarts hp hc ho ht, heartbeatMiss_shown t c _ hp rfl rfl⟩
  · have h := channelShown t c { hchanOf s c with testing := true, day := proofDay (advance s t) c } hp
    refine ⟨_, execProofTest_begins hp hc ho hday, by rw [h.chan], by rw [h.chan], ?_, h.testing rfl⟩
    rw [h.supervising]
    simp [chanRuns]
  · refine ⟨_, execChannelDecisionMismatch_stops hp hA hB hz, fld_hutEvent _ _ (by decide), ?_, fun g hg c => ?_⟩
    · simp [hutEvent]
    · exact latched_hutEvent (latched_hutchStop (mem_allGroups hg) _ c)
  · have h := channelShown t c { hchanOf s c with restarting := false, fails := 0, beat := max s.clk.tb t } hp
    refine ⟨_, execChannelRestartDone_runs hr, by rw [h.chan], by rw [h.chan], by rw [h.chan], fun hfailed htesting => ?_⟩
    rw [h.supervising]
    simp [chanRuns, hfailed, htesting]
  · exact ⟨_, execChannelRestartDone_again hr hf, by simp, hchanOf_setHchan _ _ _⟩
  · exact ⟨_, execChannelRestartDone_fails hr hf, restartFailed_shown t c _ hp rfl rfl⟩

end Sys2Proof.Proofs
end

section
/-! # Golden input: deferrals, runs and mismatches (R414 to R420) -/
namespace Sys2Proof.Proofs
open Sys2Proof Sys2Proof.Machine Sys2Proof.Safety Sys2Proof.Laws

/-! ## The golden state of an engine -/

@[simp] theorem goldOf_setGold (s : State) (e : Nat) (v : Gold) : goldOf (setGold s e v) e = v := by simp [goldOf, setGold]

@[simp] theorem goldOf_advance (s : State) (t : Time) (e : Nat) : goldOf (advance s t) e = goldOf s e := rfl
@[simp] theorem goldOf_hutEvent (s : State) (code arg e : Nat) : goldOf (hutEvent code arg s) e = goldOf s e := rfl
@[simp] theorem goldOf_bump (s : State) (off e : Nat) : goldOf (bump s off) e = goldOf s e := rfl

/-- Beside its own state a golden run touches its engine's core. -/
theorem stallReady_shape (s : State) (l : Nat) (a : Time) : ∃ c, stallReady s l a = { s with tc := c } := by
  unfold stallReady
  split
  · exact ⟨_, rfl⟩
  · split
    · exact ⟨_, rfl⟩
    · exact ⟨_, rfl⟩

theorem dropGold_shape (s : State) (l : Nat) : ∃ c, dropGold s l = { s with tc := c } := ⟨_, rfl⟩

/-- The core of a run that has ended is left with what is not the run's. -/
theorem leftCore_shape (s : State) (l : Nat) (a : Time) : ∃ c, dropGold (stallReady s l a) l = { s with tc := c } := by
  obtain ⟨c, h⟩ := stallReady_shape s l a
  rw [h]
  exact dropGold_shape _ l

/-- The record of an engine's change is the status record. -/
theorem unvRecord_shape (old s : State) (e : GoldEngine) : ∃ m n, unvRecord old s e = { s with mem := m, hut := { s.hut with seq := n } } := by
  unfold unvRecord
  split
  · exact ⟨_, _, rfl⟩
  · split
    · split
      · exact statusRecord_shape s
      · exact ⟨_, _, rfl⟩
    · exact ⟨_, _, rfl⟩

theorem goldOf_unvRecord (old s : State) (e : GoldEngine) (k : Nat) : goldOf (unvRecord old s e) k = goldOf s k := by
  obtain ⟨_, _, h⟩ := unvRecord_shape old s e
  rw [h]
  rfl

theorem rd_unvRecord (old s : State) (e : GoldEngine) (off : Nat) : rd (unvRecord old s e) off = rd s off := by
  obtain ⟨_, _, h⟩ := unvRecord_shape old s e
  rw [h]
  rfl

/-! ## The outcome of a run (R418, R419) -/

section
variable (s : State) (key : Nat) (f : State → State)

theorem goldOf_goldResult_match : goldOf (goldResult s key true f) key =
    { goldOf s key with run := none, done := true, defer := 0, mis := false, unv := false } := by
  unfold goldResult
  extract_lets g s1
  split
  · split
    · exact goldOf_setGold _ _ _
    · exact goldOf_setGold _ _ _
  · next h => exact absurd rfl h

theorem goldResult_mismatch (h : (goldOf s key).mis = false) : goldResult s key false f =
    hutEvent 0x0604 key (bump (setGold s key { goldOf s key with run := none, done := true, mis := true, unv := true }) (hctReg 4)) := by
  unfold goldResult
  extract_lets g
  rw [if_neg Bool.false_ne_true, if_neg (by simp [g, h])]

theorem goldResult_confirmed (h : (goldOf s key).mis = true) : goldResult s key false f =
    hutEvent 0x0605 key (f (bump (setGold s key { goldOf s key with run := none, done := true, mis := false }) (hctReg 4))) := by
  unfold goldResult
  extract_lets g
  rw [if_neg Bool.false_ne_true, if_pos (by simp [g, h])]

end

/-- A mismatch makes its engine unverified, and is counted and recorded. -/
theorem goldResult_mismatch_spec {s : State} {key : Nat} (f : State → State) (h : (goldOf s key).mis = false) :
    (goldOf (goldResult s key false f) key).unv = true ∧ (goldOf (goldResult s key false f) key).mis = true ∧
      rd (goldResult s key false f) (hctReg 4) = rd s (hctReg 4) + 1 ∧ fld (goldResult s key false f) 0x20000 0 16 = 0x0604 := by
  rw [goldResult_mismatch s key f h]
  refine ⟨by simp, by simp, ?_, fld_hutEvent _ _ (by decide)⟩
  rw [rd_hutEvent_ne _ (soleName_hctReg (by decide)) (by decide), rd_bump]
  rfl

/-! ## A golden frame that ends without a completed run (R418) -/

/-- A deferral of the engine with golden state `g`. -/
def deferred (g : Gold) : Gold := { g with owed := false, defer := g.defer + 1, unv := g.unv || decide (3 ≤ g.defer + 1) }

theorem execGoldenFrameEnd_defers {t : Time} {e : GoldEngine} {s : State} (h : (goldOf s (goldKey e)).owed = true) :
    ∃ u, execGoldenFrameEnd t e s = .next u ∧ goldOf u (goldKey e) = deferred (goldOf s (goldKey e)) ∧ rd u (hctReg 3) = rd s (hctReg 3) + 1 ∧
      ((deferred (goldOf s (goldKey e))).unv = true → (goldOf s (goldKey e)).unv = false → fld u 0x20000 0 16 = 0x0606) := by
  unfold execGoldenFrameEnd
  extract_lets v g unv s1
  have h1 : goldOf s1 (goldKey e) = deferred (goldOf s (goldKey e)) := goldOf_setGold _ _ _
  have hr : rd s1 (hctReg 3) = rd s (hctReg 3) + 1 := rd_bump (setGold v (goldKey e) _) _
  have hunv : unv = (deferred (goldOf s (goldKey e))).unv := rfl
  clear_value s1
  refine ⟨_, congrArg Host.Outcome.next (if_neg (not_not.mpr h)), ?_, ?_, fun hu hg => ?_⟩
  · rw [goldOf_unvRecord]
    split
    · rw [goldOf_hutEvent, h1]
    · exact h1
  · rw [rd_unvRecord]
    split
    · rw [rd_hutEvent_ne _ (soleName_hctReg (by decide)) (by decide), hr]
    · exact hr
  · have hg' : g.unv = false := hg
    rw [fld_of_rd (rd_unvRecord ..), if_pos (by rw [hunv, hu, hg']; rfl), fld_hutEvent _ _ (by decide)]

/-! ## A run completes (R415, R418, R419) -/

/-- The run of a core completes: its signature is compared, and the core left. -/
theorem execGoldenRunComplete_core {t : Time} {l : Fin 256} {sig : Word} {s : State} {a : Time} (h : (goldOf s l).run = some a) :
    ∃ v c, v = { setGold (advance s t) l { goldOf s l with sig := sig } with tc := c } ∧ execGoldenRunComplete t (.core l) sig s =
      .next (unvRecord (setGold (advance s t) l { goldOf s l with sig := sig })
        (goldResult v l (decide (sig = s.hut.sigsB.1)) (fun x => goldConfirmed x (.core l))) (.core l)) := by
  obtain ⟨c, hc⟩ := leftCore_shape (setGold (advance s t) l { goldOf s l with sig := sig }) l a
  refine ⟨_, c, rfl, ?_⟩
  have hrun : (goldOf (advance s t) (goldKey (.core l))).run.isNone = false := by
    rw [show (goldOf (advance s t) (goldKey (.core l))).run = some a from h]; rfl
  have hrun' : (goldOf (setGold (advance s t) (goldKey (.core l)) { goldOf (advance s t) (goldKey (.core l)) with sig := sig }) (goldKey (.core l))).run =
      some a := by rw [goldOf_setGold]; exact h
  unfold execGoldenRunComplete
  dsimp only
  rw [hrun, if_neg Bool.false_ne_true, hrun']
  exact congrArg (fun w => Host.Outcome.next (unvRecord _ (goldResult w l _ _) (.core l))) hc

theorem fsStart_shape (s : State) (c : Nat) : ∃ t, fsStart s c = { s with cl := t } := by
  unfold fsStart
  extract_lets cl q
  split
  · exact ⟨_, rfl⟩
  · split
    · exact ⟨_, rfl⟩
    · exact ⟨_, rfl⟩

theorem goldOf_fsStart (s : State) (c k : Nat) : goldOf (fsStart s c) k = goldOf s k := by
  obtain ⟨_, h⟩ := fsStart_shape s c
  rw [h]
  rfl

/-- What a matching run leaves of its engine's golden state (R418). -/
def Cleared (g : Gold) : Prop := g.defer = 0 ∧ g.unv = false ∧ g.run = none

theorem cleared_goldResult (s : State) (key : Nat) (f : State → State) : Cleared (goldOf (goldResult s key true f) key) := by
  rw [goldOf_goldResult_match]
  exact ⟨rfl, rfl, rfl⟩

/-- The same of a Footstool that serves no request. -/
theorem execGoldenRunComplete_foot {t : Time} {c : Fin 16} {s : State} {a : Time} (h : (goldOf s (256 + c)).run = some a)
    (hcur : (clOf s c).cur = none) :
    ∃ u, execGoldenRunComplete t (.foot c) s.hut.sigsB.2 s = .next u ∧ Cleared (goldOf u (256 + c)) := by
  have hrun : (goldOf (advance s t) (goldKey (.foot c))).run.isNone = false := by
    rw [show (goldOf (advance s t) (goldKey (.foot c))).run = some a from h]; rfl
  unfold execGoldenRunComplete
  dsimp only
  rw [hrun, if_neg Bool.false_ne_true]
  generalize hv : setGold (advance s t) (goldKey (.foot c)) { goldOf (advance s t) (goldKey (.foot c)) with sig := s.hut.sigsB.2 } = v
  have hrun' : (goldOf v (goldKey (.foot c))).run = some a := by rw [← hv, goldOf_setGold]; exact h
  have hidle : (clOf v c).cur.isSome = false := by rw [← hv]; exact congrArg Option.isSome hcur
  rw [hrun']
  dsimp only
  rw [hidle, if_neg Bool.false_ne_true, show goldExpect (advance s t) (.foot c) = s.hut.sigsB.2 from rfl, decide_eq_true rfl]
  generalize hw : unvRecord v (goldResult (dropFoot v c) (256 + c) true fun x => goldConfirmed x (.foot c)) (.foot c) = w
  have hcl : Cleared (goldOf w (256 + c)) := by
    rw [← hw, goldOf_unvRecord]
    exact cleared_goldResult _ _ _
  refine ⟨_, rfl, ?_⟩
  split
  · exact hcl
  · rwa [goldOf_fsStart]

/-! ## HUT_UNVERIFIED (R432) -/

/-- Adding one bit above a number. -/
theorem testBit_add_bit (b : Bool) {a acc j : Nat} (h : acc < 2 ^ a) :
    (acc + if b then 2 ^ a else 0).testBit j = if j = a then b else acc.testBit j := by
  cases b with
  | false =>
    rw [if_neg Bool.false_ne_true, Nat.add_zero]
    split
    · next e => rw [e]; exact Nat.testBit_lt_two_pow h
    · rfl
  | true =>
    rw [if_pos (rfl : true = true), Nat.add_comm]
    rcases lt_trichotomy j a with hj | rfl | hj
    · rw [if_neg (by omega), Nat.testBit_two_pow_add_gt hj]
    · rw [if_pos rfl, Nat.testBit_two_pow_add_eq, Nat.testBit_lt_two_pow h]
      rfl
    · have hlt : 2 ^ a + acc < 2 ^ j := by
        have : 2 ^ (a + 1) ≤ 2 ^ j := Nat.pow_le_pow_right (by decide) hj
        omega
      rw [if_neg (by omega), Nat.testBit_lt_two_pow hlt, Nat.testBit_lt_two_pow (by omega)]

theorem testBit_foldl_bits (p : Nat → Bool) {n a acc : Nat} (h : acc < 2 ^ a) (j : Nat) :
    (((rangeFrom a n).map (fun i => if p i then 2 ^ i else 0)).foldl (· + ·) acc).testBit j =
      if j < a then acc.testBit j else decide (j < a + n) && p j := by
  induction n generalizing a acc with
  | zero =>
    simp only [rangeFrom, List.map_nil, List.foldl_nil]
    split
    · rfl
    · next hj => rw [decide_eq_false (by omega), Bool.false_and]; exact Nat.testBit_lt_two_pow (h.trans_le (Nat.pow_le_pow_right (by decide) (by omega)))
  | succ n ih =>
    have hacc : acc + (if p a then 2 ^ a else 0) < 2 ^ (a + 1) := by
      split <;> omega
    rw [rangeFrom, List.map_cons, List.foldl_cons, ih hacc, testBit_add_bit _ h]
    rcases lt_trichotomy j a with hj | rfl | hj
    · rw [if_pos (by omega), if_neg (by omega), if_pos hj]
    · simp
    · rw [if_neg (by omega), if_neg (by omega)]
      congr 2
      simp only [eq_iff_iff]
      omega

/-- Gathered bits are the predicate's values. -/
theorem testBit_bitsOf (n : Nat) (p : Nat → Bool) (j : Nat) : (bitsOf n p).testBit j = (decide (j < n) && p j) := by
  rw [bitsOf, testBit_foldl_bits p (by decide), if_neg (Nat.not_lt_zero j), Nat.zero_add]

/-- What stands above a bit does not reach it. -/
theorem testBit_above (a b : Nat) {n j : Nat} (h : j < n) : (2 ^ n * a + b).testBit j = b.testBit j := by
  have hmod := congrArg (fun x => x.testBit j) (Nat.mul_add_mod (2 ^ n) a b)
  simpa only [Nat.testBit_mod_two_pow, decide_eq_true h, Bool.true_and] using hmod

theorem getLsbD_asWord (v : Nat) {j : Nat} (h : j < 32) : (asWord v).getLsbD j = v.testBit j := by
  rw [asWord, BitVec.getLsbD_ofNat, decide_eq_true h, Bool.true_and]

theorem blockOf_hut {off : Nat} (hlo : 0x20000 ≤ off) (hhi : off ≤ 0x20813) : blockOf off = some 2 := by
  unfold blockOf
  repeat rw [if_neg (by omega)]
  rw [if_pos (by omega)]

/-- HUT_UNVERIFIED of the cores. -/
theorem unverified_core (s : State) {l : Nat} (h : l < 256) : (viewWord s (0x20400 + l / 32 * 4)).getLsbD (l % 32) = (goldOf s l).unv := by
  have hview : viewWord s (0x20400 + l / 32 * 4) = asWord (bitsOf 32 (fun j => (goldOf s (8 * (0x20400 + l / 32 * 4 - 0x20400) + j)).unv)) := by
    rw [viewWord, blockOf_hut (by omega) (by omega)]
    show viewHut s _ = _
    unfold viewHut
    dsimp only
    rw [if_neg (by omega), if_neg (by omega), if_neg (by omega), if_pos (by omega)]
  rw [hview, getLsbD_asWord _ (Nat.mod_lt _ (by decide)), testBit_bitsOf, decide_eq_true (Nat.mod_lt _ (by decide)), Bool.true_and]
  congr 2
  omega

/-- HUT_UNVERIFIED of the Footstools, below the bit of the checker. -/
theorem unverified_foot (s : State) {c : Nat} (h : c < 16) : (viewWord s 0x20420).getLsbD c = (goldOf s (256 + c)).unv := by
  have hview : viewWord s 0x20420 = asWord (at' 16 (bit01 (goldOf s 288).unv) + bitsOf 16 (fun c => (goldOf s (256 + c)).unv)) := by
    rw [viewWord, blockOf_hut (by decide) (by decide)]
    show viewHut s _ = _
    unfold viewHut
    dsimp only
    rw [if_neg (by decide), if_neg (by decide), if_neg (by decide), if_neg (by decide), if_pos rfl]
  rw [hview, getLsbD_asWord _ (by omega), at', Nat.mul_comm, testBit_above _ _ h, testBit_bitsOf, decide_eq_true h, Bool.true_and]

/-! ## The theorem -/

/-- Settles O47: a frame's end by `execGoldenFrameEnd_defers`, a matching run by `cleared_goldResult`, the bits by what HUT_UNVERIFIED gathers. -/
theorem goldenDeferrals : Obligations.GoldenDeferrals := by
  refine ⟨fun t e s h => ?_, fun t l a s h => ?_, fun t c a s h hcur => execGoldenRunComplete_foot h hcur, fun s l h => unverified_core s h,
    fun s c h => unverified_foot s h⟩
  · obtain ⟨u, hu, hg, hr, hevt⟩ := execGoldenFrameEnd_defers (t := t) h
    refine ⟨u, hu, hr, by rw [hg]; rfl, by rw [hg]; rfl, fun h2 => ?_, fun h2 => ?_⟩
    · have hunv : (deferred (goldOf s (goldKey e))).unv = true := by
        rw [deferred, decide_eq_true (by omega), Bool.or_true]
      exact ⟨by rw [hg, hunv], hevt hunv⟩
    · rw [hg, deferred, decide_eq_false (by omega), Bool.or_false]
  · obtain ⟨v, c, -, hu⟩ := execGoldenRunComplete_core (t := t) (sig := s.hut.sigsB.1) h
    refine ⟨_, hu, ?_⟩
    rw [goldOf_unvRecord, decide_eq_true rfl]
    exact cleared_goldResult _ _ _

end Sys2Proof.Proofs
end

section
/-! # O48: golden runs start, are abandoned, and mismatch -/
namespace Sys2Proof.Proofs
open Sys2Proof Sys2Proof.Machine Sys2Proof.Safety Sys2Proof.Laws

/-! ## A run starts (R415, R416, R417) -/

theorem tget_foldl_tset {α : Type} (d v : α) {l : List Nat} {k : Nat} (hk : k ∈ l) (t : Tab α) : tget d (l.foldl (fun t a => tset t a v) t) k = v := by
  induction l generalizing t with
  | nil => cases hk
  | cons a l ih =>
    by_cases ha : k ∈ l
    · exact ih ha _
    · obtain rfl : k = a := (List.mem_cons.mp hk).resolve_right ha
      refine List.foldlRecOn (motive := fun t => tget d t k = v) l _ (tget_tset_same d t k v) fun t ht b hb => ?_
      rw [tget_tset_ne _ _ _ _ _ fun e => ha (by rwa [e])]
      exact ht

/-- The four slots that a golden run takes. -/
theorem acc_takeGold {s : State} {l a : Nat} (ha : a ∈ (freeAcc s l).take 4) :
    tget AccSlot.none (coreOf (takeGold s l) l).acc a = { AccSlot.none with st := .accumulating, cs := goldCs } := by
  have hcore : (coreOf (takeGold s l) l).acc =
      ((freeAcc s l).take 4).foldl (fun t a => tset t a { AccSlot.none with st := .accumulating, cs := goldCs }) (coreOf s l).acc := by
    rw [coreOf, takeGold, setCore, tget_tset_same]
  rw [hcore, tget_foldl_tset _ _ ha]

/-- What a core's golden run waits for, beside its slots: it is due, its place and its core are there. -/
structure CoreRunDue (t : Time) (l : Fin 256) (jb : Nat) (s : State) : Prop where
  passed : s.hut.passed = true
  run : (goldOf s l).run = none
  place : goldPlace (advance s t) (.core l) jb = true
  part : (goldPart s (.core l)).isSome = true
  began : (goldOf s l).began = true
  open_ : (goldOf s l).done = false ∨ (goldOf s l).mis = true
  there : coreUnavail s l = false
  on : (coreOf s l).on = true

section
variable {t : Time} {l : Fin 256} {jb : Nat} {s : State}

theorem CoreRunDue.start (h : CoreRunDue t l jb s) (hacc : 4 ≤ (freeAcc s l).length) : execGoldenRunStart t ⟨.core l, jb⟩ s =
    .next (takeGold (setGold (advance s t) l { goldOf s l with run := some (max s.clk.tb t) }) l) := by
  obtain ⟨hp, hrun, hplace, hpart, hbegan, hopen, hthere, hon⟩ := h
  have hopen' : (!(goldOf s l).done || (goldOf s l).mis) = true := by rcases hopen with h | h <;> simp [h]
  have hopen'' : (!(goldOf (advance s t) (goldKey (.core l))).done || (goldOf (advance s t) (goldKey (.core l))).mis) = true := hopen'
  unfold execGoldenRunStart
  dsimp only
  rw [if_neg]
  · rfl
  · rw [not_not, hplace, show (advance s t).hut.passed = true from hp, show (goldOf (advance s t) (goldKey (.core l))).run = none from hrun,
      show (goldPart (advance s t) (.core l)).isSome = true from hpart, show (goldOf (advance s t) (goldKey (.core l))).began = true from hbegan,
      show coreUnavail (advance s t) l = false from hthere, show (coreOf (advance s t) l).on = true from hon,
      show decide (4 ≤ (freeAcc (advance s t) l).length) = true from decide_eq_true hacc]
    rw [hopen'']
    rfl

theorem execGoldenRunStart_few (hacc : (freeAcc s l).length < 4) : execGoldenRunStart t ⟨.core l, jb⟩ s = .next (advance s t) := by
  unfold execGoldenRunStart
  dsimp only
  rw [if_pos]
  rw [show decide (4 ≤ (freeAcc (advance s t) l).length) = false from decide_eq_false (Nat.not_le.mpr hacc)]
  simp

/-! ## A run is abandoned (R417) -/

theorem acc_stallReady (s : State) (l : Nat) (a : Time) : (coreOf (stallReady s l a) l).acc = (coreOf s l).acc := by
  unfold stallReady
  split
  · rfl
  · split
    · rfl
    · dsimp only
      rw [setSlot, coreOf, setCore, tget_tset_same]

theorem execGoldenRunAbandon_core {a : Time} (hrun : (goldOf s l).run = some a) (hw : windowOpened s (.core l) a = true) :
    execGoldenRunAbandon t (.core l) s =
      .next (dropGold (setGold (stallReady (advance s t) l a) l { goldOf s l with run := none }) l) := by
  unfold execGoldenRunAbandon
  dsimp only
  rw [show (goldOf (advance s t) (goldKey (.core l))).run = some a from hrun]
  dsimp only
  rw [if_neg (by rw [show windowOpened (advance s t) (.core l) a = true from hw]; simp)]
  rfl

/-! ## The theorem -/

/-- The checker's golden crop: its engine is the one that no partition has. -/
theorem execCheckerGoldenCrop_compares {ok : Bool} (hp : s.hut.passed = true) (hA : chanRuns s.hut.chA = true) :
    execCheckerGoldenCrop t ok s = .next (goldResult (advance s t) 288 ok id) := by
  rw [execCheckerGoldenCrop, if_pos (by rw [advance_hut, hp, hA]; rfl)]

end

/-- With the checker unverified no zone is valid (R420). -/
theorem hutInvalid_of_checker {s : State} (h : (goldOf s 288).unv = true) (z : Nat) : hutInvalid s z = true := by
  have hc (c : Chan) : chanInvalid s c z = true := by simp [chanInvalid, h]
  rw [hutInvalid, hc, Bool.true_or]

theorem goldResult_match_mem (s : State) (key : Nat) (f : State → State) : (goldResult s key true f).mem = s.mem := by
  unfold goldResult
  extract_lets g s1
  split
  · split <;> rfl
  · next h => exact absurd rfl h

/-- Settles O48: a due run starts (`CoreRunDue.start`), a window ends it, and what a mismatch does is `goldResult_mismatch_spec`. -/
theorem goldenRunsAndMismatches : Obligations.GoldenRunsAndMismatches := by
  refine ⟨fun t l jb s hp hrun hplace hpart hbegan hopen hthere hon => ⟨fun hacc => ?_, fun hacc => execGoldenRunStart_few hacc⟩,
    fun t l a s hrun hw => ?_, fun t l a sig s hrun hsig => ⟨fun hmis => ?_, fun hmis => ?_⟩, fun t s hp hA => ⟨fun hmis => ?_, ?_⟩⟩
  · refine ⟨_, CoreRunDue.start ⟨hp, hrun, hplace, hpart, hbegan, hopen, hthere, hon⟩ hacc, rfl, rfl, ?_, fun a ha => ?_⟩
    · exact congrArg Gold.run (goldOf_setGold _ _ _)
    · rw [acc_takeGold (by exact ha)]
      exact ⟨rfl, rfl⟩
  · obtain ⟨c, hc⟩ := stallReady_shape (advance s t) l a
    have hacc := acc_stallReady (advance s t) l a
    refine ⟨_, execGoldenRunAbandon_core hrun hw, ?_, ?_, congrArg Gold.run (goldOf_setGold _ _ _), ?_⟩
    · rw [hc]; rfl
    · rw [hc]; rfl
    · rw [dropGold, coreOf, setCore, tget_tset_same]
      exact congrArg (List.filter _) hacc
  · obtain ⟨v, c, hv, hu⟩ := execGoldenRunComplete_core (t := t) (sig := sig) hrun
    rw [decide_eq_false hsig] at hu
    have hg : goldOf v l = { goldOf s l with sig := sig } := by rw [hv]; exact goldOf_setGold _ _ _
    obtain ⟨h1, h2, h3, h4⟩ := goldResult_mismatch_spec (s := v) (key := l) (fun x => goldConfirmed x (.core l)) (by rw [hg]; exact hmis)
    refine ⟨_, hu, by rw [goldOf_unvRecord, h1], by rw [goldOf_unvRecord, h2], ?_, by rw [fld_of_rd (rd_unvRecord ..), h4]⟩
    rw [rd_unvRecord, h3, rd_of_regs (s := s) (by rw [hv]; rfl)]
  · obtain ⟨v, c, hv, hu⟩ := execGoldenRunComplete_core (t := t) (sig := sig) hrun
    rw [decide_eq_false hsig] at hu
    have hg : goldOf v l = { goldOf s l with sig := sig } := by rw [hv]; exact goldOf_setGold _ _ _
    refine ⟨_, hu, ?_⟩
    rw [fld_of_rd (rd_unvRecord ..), goldResult_confirmed v l _ (by rw [hg]; exact hmis), fld_hutEvent _ _ (by decide)]
  · obtain ⟨hunv, -, -, hevt⟩ := goldResult_mismatch_spec (s := advance s t) (key := 288) id hmis
    exact ⟨_, execCheckerGoldenCrop_compares hp hA, hevt, hutInvalid_of_checker hunv⟩
  · refine ⟨_, execCheckerGoldenCrop_compares hp hA, ?_, goldResult_match_mem _ _ _⟩
    rw [goldOf_goldResult_match]

end Sys2Proof.Proofs
end

section
/-!
The read window HIF_MEMRD (R502): the address pair, the start and the end of a read.
-/
namespace Sys2Proof.Proofs
open Sys2Proof Sys2Proof.Machine Sys2Proof.Safety Sys2Proof.Laws
variable {s : State}

/-- A register that is one RW field takes the word written. -/
theorem writtenWord_of_rw {c : Nat} (w : Word) (h : maskOf .rw c = BitVec.allOnes 32) : writtenWord s c w = w := by
  have e := writtenWord_rw s c w
  rwa [h, BitVec.and_allOnes, BitVec.and_allOnes] at e

/-- MEMRD_LO is one RW field. -/
theorem memrdLo_masks : maskOf .rwl 0x480020 = 0 ∧ maskOf .w1c 0x480020 = 0 ∧ maskOf .rwc 0x480020 = 0 ∧ maskOf .rw 0x480020 = BitVec.allOnes 32 := by
  decide +kernel

theorem writeWord_memrdLo (ag : Agent) (w : Word) (s : State) : writeWord ag 0x480020 w s = plainWrite 0x480020 w s := rfl

theorem plainWrite_memrdLo (w : Word) (s : State) : plainWrite 0x480020 w s = wrReg s 0x480020 w := by
  obtain ⟨hl, hc, hs, hw⟩ := memrdLo_masks
  have h0 : canonOff 0x480020 = 0x480020 := rfl
  have hk : lockedMask s 0x480020 = 0 := by simp [lockedMask, hl]
  rw [plainWrite_eq, h0, if_pos hs, putWritten, writtenWord_of_rw w hw, countLocked, if_pos hk, if_neg]
  rw [hw, hc]; simp

theorem writeTakes_memrdHi {ag : Agent} (h : writeTakes s ag 0x480020) (w : Word) : writeTakes (wrReg s 0x480020 w) ag 0x480028 := by
  have e : rd (wrReg s 0x480020 w) 0x30000 = rd s 0x30000 := rd_wrReg_ne s _ _ _ (by decide)
  have hl : lockTaken (wrReg s 0x480020 w) = lockTaken s := flag_of_rd e 27
  have hp : phase (wrReg s 0x480020 w) = phase s := fld_of_rd e 28 4
  obtain ⟨ha, hc⟩ | ⟨hlock, -⟩ := h
  · exact .inl ⟨ha, by rwa [hp, hl]⟩
  · refine .inr ⟨by rwa [hl], ?_⟩
    have hb : blockOf 0x480028 = some 15 := by decide +kernel
    simp [hostMay, hb]

theorem memrdStart_window (hi : Word) (s : State) :
    flag (memrdStart hi s) 0x480024 0 = false ∧ (memrdStart hi s).mem = s.mem ∧
      (memrdStart hi s).hif.memrd = some ((rd s 0x480020).toNat / 4 * 4 + 2 ^ 32 * (hi.toNat % 2 ^ 16)) := by
  have hlo : rd (setFlag (wrReg s 0x480028 (hi &&& 0xFFFF)) 0x480024 0 false) 0x480020 = rd s 0x480020 := by
    rw [rd_setFlag_ne _ _ _ (by decide), rd_wrReg_ne _ _ _ _ (by decide)]
  have hhi : fld (setFlag (wrReg s 0x480028 (hi &&& 0xFFFF)) 0x480024 0 false) 0x480028 0 16 = hi.toNat % 2 ^ 16 := by
    rw [fld_of_rd (rd_setFlag_ne _ _ _ (by decide)), fld, rd_wrReg_same, fieldOf]
    have : (0xFFFF : Word).toNat = 2 ^ 16 - 1 := by decide
    rw [BitVec.toNat_and, this, Nat.and_two_pow_sub_one_eq_mod]
    simp
  refine ⟨flag_setFlag_same (i := 0) _ _ (by decide) _, rfl, ?_⟩
  rw [memrdStart]
  simp only [hlo, hhi]

theorem flag_wrReg_same (s : State) (off i : Nat) (v : Word) : flag (wrReg s off v) off i = v.getLsbD i := by
  rw [flag, rd_wrReg_same]

/-- Settles O57: MEMRD_LO keeps the low word, the write of MEMRD_HI joins both, and the end of the read answers or refuses. -/
theorem memrdReadsDeviceMemory : Obligations.MemrdReadsDeviceMemory := by
  refine ⟨fun t t2 ag lo hi s h => ?_, fun t a s ha => ⟨fun hin => ?_, fun hout => ?_⟩⟩
  · have hb : (blockOf 0x480020).isSome = true := by decide +kernel
    have hu : exec (.registerWrite t ag 0x480020 15 lo) s = .next (wrReg (advance s t) 0x480020 lo) := by
      rw [exec_registerWrite_aligned (by decide), busWrite_word hb, onWrite_of_writeTakes _ h, writeWord_memrdLo, plainWrite_memrdLo]
    have hv : exec (.memrdStart t2 ag hi) (wrReg (advance s t) 0x480020 lo)
        = .next (memrdStart hi (advance (wrReg (advance s t) 0x480020 lo) t2)) := by
      rw [exec_memrdStart, execMemrdStart, onWrite_of_writeTakes _ (writeTakes_memrdHi (show writeTakes (advance s t) ag 0x480020 from h) lo)]
    obtain ⟨hdone, hmem, hwin⟩ := memrdStart_window hi (advance (wrReg (advance s t) 0x480020 lo) t2)
    refine ⟨_, _, hu, hv, hdone, ?_, hmem⟩
    rw [hwin, show rd (advance (wrReg (advance s t) 0x480020 lo) t2) 0x480020 = lo from rd_wrReg_same _ _ _]
  · have e : exec (.memrdDone t) s = .next (wrReg (wrReg { advance s t with hif := { s.hif with memrd := none } } 0x48002C
        (BitVec.ofNat 32 (rdLE (advance s t) a 4))) 0x480024 1) := by
      rw [exec_memrdDone, execMemrdDone]
      simp only [show (advance s t).hif = s.hif from rfl, ha]
      exact congrArg Host.Outcome.next (if_pos hin)
    refine ⟨_, e, ?_, flag_wrReg_same _ _ _ _, flag_wrReg_same _ _ _ _, ?_, rfl, rfl⟩
    · rw [rd_wrReg_ne _ _ _ _ (by decide), rd_wrReg_same]; rfl
    · rw [rd_wrReg_ne _ _ _ _ (by decide), rd_wrReg_ne _ _ _ _ (by decide)]; rfl
  · have e : exec (.memrdDone t) s = .next (bump (wrReg { advance s t with hif := { s.hif with memrd := none } } 0x480024 2) 0x480018) := by
      rw [exec_memrdDone, execMemrdDone]
      simp only [show (advance s t).hif = s.hif from rfl, ha]
      exact congrArg Host.Outcome.next (if_neg (Nat.not_le.mpr hout))
    refine ⟨_, e, ?_, ?_, rfl, rfl⟩
    · rw [flag_of_rd (rd_bump_ne _ (by decide)), flag_wrReg_same]; rfl
    · rw [rd_bump, rd_wrReg_ne _ _ _ _ (by decide)]; rfl

end Sys2Proof.Proofs
end

section
/-!
What carrying out a message answers (R491): the size of the reply, its RESULT, and what the commands other than WRITE_REG and RESET leave unchanged.
-/
namespace Sys2Proof.Proofs
open Sys2Proof Sys2Proof.Machine Sys2Proof.Safety Sys2Proof.Laws
variable {s : State}

@[simp] theorem length_leBytes (n v : Nat) : (leBytes n v).length = n := by
  induction n generalizing v with
  | zero => rfl
  | succ n ih => simp [leBytes, ih]

@[simp] theorem length_rdMem (s : State) (a n : Nat) : (rdMem s a n).length = n :=
  length_mgets _ _ _ _

theorem length_flatten_leBytes (l : List Nat) (n : Nat) (f : Nat → Nat) : ((l.map fun k => leBytes n (f k)).flatten).length = n * l.length := by
  induction l with
  | nil => simp
  | cons k l ih => simp [ih, Nat.mul_succ, Nat.add_comm]

/-- A state that reads of registers have led to: the registers, the latches and the alerts answered apart, it is the state before. -/
def ReadFrom (σ s : State) : Prop :=
  ∃ r c e x, s = { σ with regs := r, clk := { σ.clk with latch := c }, svc := { σ.svc with seenEvt := e, seenTrip := x } }

theorem ReadFrom.refl (s : State) : ReadFrom s s := ⟨_, _, _, _, rfl⟩

theorem ReadFrom.trans {a b c : State} (h : ReadFrom a b) (h' : ReadFrom b c) : ReadFrom a c := by
  obtain ⟨r, l, e, x, rfl⟩ := h
  obtain ⟨r', l', e', x', rfl⟩ := h'
  exact ⟨r', l', e', x', rfl⟩

theorem readFrom_readEffect (ag : Agent) (off : Nat) (s : State) : ReadFrom s (readEffect ag off s) := by
  unfold readEffect
  split
  · exact ⟨_, _, _, _, rfl⟩
  split
  · exact ⟨_, _, _, _, rfl⟩
  split
  · exact ⟨_, _, _, _, rfl⟩
  split
  · exact ⟨_, _, _, _, rfl⟩
  · exact .refl s

/-- The state after the words `l` of a READ_REG have been read in turn. -/
def readWords (off : Nat) (l : List Nat) (s : State) : State := l.foldl (fun s k => readEffect .control (off + 4 * k) s) s

theorem readFrom_readWords (off : Nat) (l : List Nat) (s : State) : ReadFrom s (readWords off l s) := by
  induction l generalizing s with
  | nil => exact .refl s
  | cons k l ih => exact (readFrom_readEffect _ _ s).trans (ih _)

/-- One word of a READ_REG: its effect, then its bytes behind those read before. -/
def readWordStep (off : Nat) (x : List Byte × State) (k : Nat) : List Byte × State :=
  let s1 := readEffect .control (off + 4 * k) x.2
  (x.1 ++ leBytes 4 (readReg s1 .control (off + 4 * k)).toNat, s1)

theorem cmdReadReg_good {b : List Byte} (h : ¬ (b.length < 5 ∨ le b 0 4 % 4 ≠ 0 ∨ le b 4 1 = 0 ∨ 12 < le b 4 1)) (s : State) :
    cmdReadReg b s = ⟨0, ((rangeFrom 0 (le b 4 1)).foldl (readWordStep (le b 0 4)) ([], s)).1, true,
      ((rangeFrom 0 (le b 4 1)).foldl (readWordStep (le b 0 4)) ([], s)).2⟩ := by
  rw [cmdReadReg]
  exact if_neg h

theorem cmdReadReg_bad {b : List Byte} (h : b.length < 5 ∨ le b 0 4 % 4 ≠ 0 ∨ le b 4 1 = 0 ∨ 12 < le b 4 1) (s : State) :
    cmdReadReg b s = plainReply 1 s := by
  rw [cmdReadReg]
  exact if_pos h

theorem foldl_readWordStep_state (off : Nat) (l : List Nat) (x : List Byte × State) :
    (l.foldl (readWordStep off) x).2 = readWords off l x.2 := by
  induction l generalizing x with
  | nil => rfl
  | cons k l ih => rw [List.foldl_cons, ih]; rfl

theorem length_foldl_readWordStep (off : Nat) (l : List Nat) (x : List Byte × State) :
    (l.foldl (readWordStep off) x).1.length = x.1.length + 4 * l.length := by
  induction l generalizing x with
  | nil => rfl
  | cons k l ih => simp [ih, readWordStep]; omega

theorem imageBad_ne_two (b : List Byte) (s : State) : imageBad b s ≠ 2 := by
  unfold imageBad
  dsimp only
  split
  · decide
  split
  · decide
  split <;> decide

/-- A reply as every command gives it: at most 56 bytes, and another RESULT than that of a message that is not known. -/
def FitReply (r : Reply) : Prop := r.body.length ≤ 56 ∧ r.result ≠ 2

/-- The management queue and the counters of the datagrams' sources stay. -/
def KeepsSources (σ s : State) : Prop := s.ing = σ.ing ∧ s.svc.ctrs = σ.svc.ctrs

theorem ReadFrom.keepsSources {a b : State} (h : ReadFrom a b) : KeepsSources a b := by
  obtain ⟨_, _, _, _, rfl⟩ := h
  exact ⟨rfl, rfl⟩

theorem fitReply_plain {r : Nat} (h : r ≠ 2) (s : State) : FitReply (plainReply r s) := ⟨Nat.zero_le _, h⟩

theorem cmdVersion_fit (s : State) : FitReply (cmdVersion s) := by
  refine ⟨?_, by simp [cmdVersion]⟩
  rw [cmdVersion, length_flatten_leBytes, length_rangeFrom]
  decide

theorem cmdReadReg_fit (b : List Byte) (s : State) : FitReply (cmdReadReg b s) := by
  by_cases h : b.length < 5 ∨ le b 0 4 % 4 ≠ 0 ∨ le b 4 1 = 0 ∨ 12 < le b 4 1
  · rw [cmdReadReg_bad h]; exact fitReply_plain (by decide) s
  · rw [cmdReadReg_good h]
    refine ⟨?_, by simp⟩
    simp only [length_foldl_readWordStep, length_rangeFrom, List.length_nil]
    omega

theorem cmdWriteReg_fit (b : List Byte) (s : State) : FitReply (cmdWriteReg b s) := by
  unfold cmdWriteReg
  dsimp only
  split
  · exact fitReply_plain (by decide) s
  split
  · exact fitReply_plain (by decide) s
  · exact fitReply_plain (by decide) _

theorem cmdReadMem_fit (b : List Byte) (s : State) : FitReply (cmdReadMem b s) := by
  unfold cmdReadMem
  dsimp only
  split
  · exact fitReply_plain (by decide) s
  · next h =>
    split
    · exact fitReply_plain (by decide) s
    · exact ⟨by rw [length_rdMem]; omega, by simp⟩

theorem cmdWriteMem_fit (b : List Byte) (s : State) : FitReply (cmdWriteMem b s) := by
  unfold cmdWriteMem
  dsimp only
  split
  · exact fitReply_plain (by decide) s
  split
  · exact fitReply_plain (by decide) s
  · exact fitReply_plain (by decide) _

theorem cmdImageWrite_fit (ok : Bool) (b : List Byte) (s : State) : FitReply (cmdImageWrite ok b s) := by
  unfold cmdImageWrite
  dsimp only
  split
  · exact fitReply_plain (imageBad_ne_two b s) s
  split
  · exact fitReply_plain (by decide) _
  · exact fitReply_plain (by decide) _

theorem cmdReset_fit (b : List Byte) (s : State) : FitReply (cmdReset b s) := by
  unfold cmdReset
  split
  · exact fitReply_plain (by split <;> decide) s
  · split
    · exact ⟨Nat.zero_le _, by simp⟩
    · exact fitReply_plain (by decide) s
  · exact fitReply_plain (by decide) s

theorem length_msgBody_le (m : List Byte) : (msgBody m).length ≤ 56 := by
  rw [msgBody, List.length_take]
  omega

theorem carryOut_fit {m : List Byte} (hk : msgKnown m = true) (ok : Bool) (s : State) : FitReply (carryOut m ok s) := by
  unfold carryOut
  rw [if_neg (by simp [hk])]
  dsimp only
  split
  · exact fitReply_plain (by decide) s
  split
  · exact cmdVersion_fit s
  · exact cmdReadReg_fit _ s
  · exact cmdWriteReg_fit _ s
  · exact cmdReadMem_fit _ s
  · exact cmdWriteMem_fit _ s
  · exact cmdImageWrite_fit _ _ s
  · exact cmdReset_fit _ s
  · exact ⟨length_msgBody_le m, by simp⟩

theorem cmdReadReg_keepsSources (b : List Byte) (s : State) : (cmdReadReg b s).sent = true ∧ KeepsSources s (cmdReadReg b s).st := by
  by_cases h : b.length < 5 ∨ le b 0 4 % 4 ≠ 0 ∨ le b 4 1 = 0 ∨ 12 < le b 4 1
  · rw [cmdReadReg_bad h]; exact ⟨rfl, rfl, rfl⟩
  · rw [cmdReadReg_good h]
    refine ⟨rfl, ?_⟩
    rw [foldl_readWordStep_state]
    exact (readFrom_readWords _ _ s).keepsSources

theorem cmdReadMem_keepsSources (b : List Byte) (s : State) : (cmdReadMem b s).sent = true ∧ KeepsSources s (cmdReadMem b s).st := by
  unfold cmdReadMem
  dsimp only
  split
  · exact ⟨rfl, rfl, rfl⟩
  split <;> exact ⟨rfl, rfl, rfl⟩

theorem cmdWriteMem_keepsSources (b : List Byte) (s : State) : (cmdWriteMem b s).sent = true ∧ KeepsSources s (cmdWriteMem b s).st := by
  unfold cmdWriteMem
  dsimp only
  split
  · exact ⟨rfl, rfl, rfl⟩
  split <;> exact ⟨rfl, rfl, rfl⟩

theorem cmdImageWrite_keepsSources (ok : Bool) (b : List Byte) (s : State) :
    (cmdImageWrite ok b s).sent = true ∧ KeepsSources s (cmdImageWrite ok b s).st := by
  unfold cmdImageWrite
  dsimp only
  split
  · exact ⟨rfl, rfl, rfl⟩
  split
  · exact ⟨rfl, rfl, rfl⟩
  · obtain ⟨f, hf⟩ := drawBytes_shape (le b 7 4) s
    rw [hf]
    exact ⟨rfl, rfl, rfl⟩

theorem carryOut_keepsSources {m : List Byte} (hk : msgKnown m = true) (h3 : msgCmd m ≠ 3) (h7 : msgCmd m ≠ 7) (ok : Bool) (s : State) :
    (carryOut m ok s).sent = true ∧ KeepsSources s (carryOut m ok s).st := by
  unfold carryOut
  rw [if_neg (by simp [hk])]
  dsimp only
  split
  · exact ⟨rfl, rfl, rfl⟩
  split
  · exact ⟨rfl, rfl, rfl⟩
  · exact cmdReadReg_keepsSources _ s
  · next h => exact absurd h h3
  · exact cmdReadMem_keepsSources _ s
  · exact cmdWriteMem_keepsSources _ s
  · exact cmdImageWrite_keepsSources _ _ s
  · next h => exact absurd h h7
  · exact ⟨rfl, rfl, rfl⟩

theorem afterReply_of_ne_reset {m : List Byte} (h : msgCmd m ≠ 7) (r : Reply) (s : State) : afterReply m r s = s := by
  rw [afterReply, if_pos]
  rintro ⟨-, h', -⟩
  exact h h'

theorem length_replyBytes {m : List Byte} {r : Reply} (hm : m.length = 64) (hr : r.body.length ≤ 56) : (replyBytes m r).length = 64 := by
  simp only [replyBytes, List.length_append, List.length_take, List.length_drop, List.length_cons, List.length_nil, length_leBytes, hm]
  omega

end Sys2Proof.Proofs
end

section
/-!
The other ways to the management service, USB power and the JTAG port (R492, R505, R512, R513).
-/
namespace Sys2Proof.Proofs
open Sys2Proof Sys2Proof.Machine Sys2Proof.Safety Sys2Proof.Laws
variable {s : State}

/-! ## Datagrams (R492) -/

theorem afterDatagram_none {p src : Nat} {bs : List Byte} (h : ∀ e ∈ s.ing.mgmt, e.1 = p → mgmtUdp s p e.2 ≠ some (src, bs)) :
    afterDatagram s p src bs = none := by
  have hd : s.ing.mgmt.dropWhile (fun e => !(decide (e.1 = p) && decide (mgmtUdp s p e.2 = some (src, bs)))) = [] :=
    List.dropWhile_eq_nil_iff.mpr fun e he => by simpa [imp_iff_not_or] using h e he
  rw [afterDatagram, hd]

theorem afterDatagram_some {p src : Nat} {bs frame : List Byte} {before rest : List (Nat × List Byte)} (hq : s.ing.mgmt = before ++ (p, frame) :: rest)
    (hb : ∀ e ∈ before, e.1 = p → mgmtUdp s p e.2 ≠ some (src, bs)) (hf : mgmtUdp s p frame = some (src, bs)) :
    afterDatagram s p src bs = some rest := by
  have hd : s.ing.mgmt.dropWhile (fun e => !(decide (e.1 = p) && decide (mgmtUdp s p e.2 = some (src, bs)))) = (p, frame) :: rest := by
    rw [hq, List.dropWhile_append_of_pos fun e he => by simpa [imp_iff_not_or] using hb e he, List.dropWhile_cons_of_neg]
    simp [hf]
  rw [afterDatagram, hd]

/-- The state in which a datagram is served: the frames up to its own are gone from the queue. -/
def withMgmt (s : State) (rest : List (Nat × List Byte)) : State := { s with ing := { s.ing with mgmt := rest } }

theorem exec_mgmtDatagram_idle {t : Time} {p : Fin 8} {udp src : Nat} {bs : List Byte} (ok : Bool)
    (h : udp ≠ s.boot.pol.udp ∨ ∀ e ∈ s.ing.mgmt, e.1 = p.val → mgmtUdp s p e.2 ≠ some (src, bs)) :
    exec (.mgmtDatagram t p udp src bs ok) s = .next (advance s t) := by
  rw [exec_mgmtDatagram, execMgmtDatagram]
  refine congrArg Host.Outcome.next ?_
  by_cases hg : ¬ fwRuns (advance s t) = true ∨ udp ≠ (advance s t).boot.pol.udp
  · exact if_pos hg
  · have hn : afterDatagram (advance s t) p src bs = none :=
      afterDatagram_none (s := advance s t) (h.resolve_left fun hu => hg (.inr hu))
    rw [if_neg hg, hn]

theorem exec_mgmtDatagram_serves {t : Time} {p : Fin 8} {src : Nat} {frame bs : List Byte} {before rest : List (Nat × List Byte)} (ok : Bool)
    (hfw : fwRuns s = true) (hq : s.ing.mgmt = before ++ (p.val, frame) :: rest) (hb : ∀ e ∈ before, e.1 = p.val → mgmtUdp s p e.2 ≠ some (src, bs))
    (hf : mgmtUdp s p frame = some (src, bs)) :
    exec (.mgmtDatagram t p s.boot.pol.udp src bs ok) s = .next (serveDatagram src bs ok (withMgmt (advance s t) rest)) := by
  rw [exec_mgmtDatagram, execMgmtDatagram]
  refine congrArg Host.Outcome.next ?_
  have hs : afterDatagram (advance s t) p src bs = some rest := afterDatagram_some (s := advance s t) hq hb hf
  rw [if_neg (fun h => h.elim (fun h => h hfw) fun h => h rfl), hs]
  rfl

theorem serveDatagram_refuses {src : Nat} {bs : List Byte} (ok : Bool) (hl : bs.length = 120)
    (h : bs.drop 72 ≠ dgramTag s bs ∨ le bs 64 8 ≤ tget 0 s.svc.ctrs src) : serveDatagram src bs ok s = bump s 0x48001C := by
  rw [serveDatagram]
  dsimp only
  rw [if_neg (not_not.mpr hl), if_pos h]

/-- The state in which the message of a datagram is carried out: its counter is its source's last one. -/
def counted (s : State) (src c : Nat) : State := { s with svc := { s.svc with ctrs := tset s.svc.ctrs src c } }

theorem serveDatagram_answers {src : Nat} {bs : List Byte} (ok : Bool) (hl : bs.length = 120) (ht : bs.drop 72 = dgramTag s bs)
    (hc : tget 0 s.svc.ctrs src < le bs 64 8) (hk : msgKnown (bs.take 64) = true) (h3 : msgCmd (bs.take 64) ≠ 3) (h7 : msgCmd (bs.take 64) ≠ 7) :
    let r := carryOut (bs.take 64) ok (counted s src (le bs 64 8))
    let b := replyBytes (bs.take 64) r ++ leBytes 8 (le bs 64 8)
    serveDatagram src bs ok s = { r.st with svc := { r.st.svc with sent := b ++ dgramTag s b } } := by
  intro r b
  have h2 : r.result ≠ 2 := (carryOut_fit hk ok _).2
  have hsent : r.sent = true := (carryOut_keepsSources hk h3 h7 ok _).1
  have hgood : ¬ (bs.drop 72 ≠ dgramTag s bs ∨ le bs 64 8 ≤ tget 0 s.svc.ctrs src) := by
    rintro (h | h)
    · exact h ht
    · omega
  rw [serveDatagram]
  dsimp only
  rw [if_neg (not_not.mpr hl), if_neg hgood, afterReply_of_ne_reset h7]
  change (if r.sent = true then { r.st with svc := { r.st.svc with
    sent := ((if r.result = 2 then bs.take 64 else replyBytes (bs.take 64) r) ++ leBytes 8 (le bs 64 8)) ++
      dgramTag s ((if r.result = 2 then bs.take 64 else replyBytes (bs.take 64) r) ++ leBytes 8 (le bs 64 8)) } } else r.st) = _
  rw [if_pos hsent, if_neg h2]

theorem dgramTag_of_length {b : List Byte} (h : b.length = 72) (s : State) : dgramTag s b = hmac384 s.boot.pol.key b := by
  rw [dgramTag, List.take_of_length_le (by omega)]

/-! ## The SMBus (R513) -/

theorem exec_smbusTransaction_answers {t : Time} {msg : List Byte} (ok : Bool) (hfw : fwRuns s = true) (hl : msg.length = 64) (hk : msgKnown msg = true)
    (h3 : msgCmd msg ≠ 3) (h7 : msgCmd msg ≠ 7) :
    let r := carryOut msg ok (advance s t)
    exec (.smbusTransaction t msg true ok) s = .next { r.st with svc := { r.st.svc with smb := replyBytes msg r } } := by
  intro r
  have h2 : r.result ≠ 2 := (carryOut_fit hk ok _).2
  have hsent : r.sent = true := (carryOut_keepsSources hk h3 h7 ok _).1
  rw [exec_smbusTransaction, execSmbusTransaction]
  refine congrArg Host.Outcome.next ?_
  rw [if_neg (by rintro (h | h | h) <;> [exact h hfw; exact h rfl; exact h hl]), afterReply_of_ne_reset h7]
  change (if r.sent = true then { r.st with svc := { r.st.svc with smb := if r.result = 2 then msg else replyBytes msg r } } else r.st) = _
  rw [if_pos hsent, if_neg h2]

/-! ## USB power (R505) -/

theorem usbPower (t : Time) (p : Fin 2) (s : State) :
    (∃ u, exec (.usbOvercurrent t p) s = .next u ∧ u.regs = s.regs ∧ vbusEn u p = false) ∧
    (∀ x, tget? s.svc.vbusOff p = some x →
      (x + 1000000000 ≤ max s.clk.tb t → ∃ u, exec (.usbOvercurrentRetry t p) s = .next u ∧ u.regs = s.regs ∧ vbusEn u p = true) ∧
      (max s.clk.tb t < x + 1000000000 → exec (.usbOvercurrentRetry t p) s = .next (advance s t))) := by
  refine ⟨⟨_, rfl, rfl, ?_⟩, fun x hx => ?_⟩
  · simp [vbusEn]
  · have e : exec (.usbOvercurrentRetry t p) s = .next (if x + 1000000000 ≤ max s.clk.tb t
        then { advance s t with svc := { s.svc with vbusOff := tdel s.svc.vbusOff p } } else advance s t) := by
      rw [exec_usbOvercurrentRetry, execUsbOvercurrentRetry]
      simp only [show (advance s t).svc = s.svc from rfl, hx]
      rfl
    refine ⟨fun h => ?_, fun h => ?_⟩
    · rw [if_pos h] at e
      exact ⟨_, e, rfl, by simp [vbusEn]⟩
    · rw [e, if_neg (Nat.not_le.mpr h)]

/-! ## JTAG (R512) -/

@[simp] theorem getElem?_rangeFrom (a n i : Nat) : (rangeFrom a n)[i]? = if i < n then some (a + i) else none := by
  induction n generalizing a i with
  | zero => rfl
  | succ n ih =>
    cases i with
    | zero => simp [rangeFrom]
    | succ i =>
      simp only [rangeFrom, List.getElem?_cons_succ, ih, Nat.add_lt_add_iff_right]
      split
      · exact congrArg some (by omega)
      · rfl

theorem nth_map_rangeFrom {α : Type} (d : α) (f : Nat → α) {n i : Nat} (h : i < n) : nth d ((rangeFrom 0 n).map f) i = f i := by
  simp [nth, h]

/-- The fields of the IDCODE word. -/
theorem jtagId_fields : jtagId = 2 ^ 12 * (2 ^ 16 * 0xA + 0x5120) + (2 * Config.jtagMaker.toNat + 1) := by
  simp only [jtagId, at']
  omega

theorem testBit_jtagId_upper (i : Nat) : jtagId.testBit (12 + i) = (2 ^ 16 * 0xA + 0x5120).testBit i := by
  have h := Config.jtagMaker.isLt
  rw [jtagId_fields, Nat.testBit_two_pow_mul_add _ (by omega)]
  simp

theorem jtagIdcode_word (t : Time) (s : State) : ∃ u, exec (.jtagIdcode t) s = .next u ∧ u.svc.ir = .idcode ∧ u.svc.dr.length = 32 ∧ u.svc.dr.head? = some true ∧
    (∀ i, i < 16 → nth false u.svc.dr (12 + i) = Nat.testBit 0x5120 i) ∧ (∀ i, i < 4 → nth false u.svc.dr (28 + i) = Nat.testBit 0xA i) ∧ u.regs = s.regs := by
  refine ⟨_, rfl, rfl, by simp [length_rangeFrom], ?_, fun i hi => ?_, fun i hi => ?_, rfl⟩
  · change some (jtagId.testBit 0) = some true
    rw [jtagId_fields, Nat.testBit_zero]
    exact congrArg some (decide_eq_true (by omega))
  · rw [nth_map_rangeFrom _ _ (by omega), testBit_jtagId_upper, Nat.testBit_two_pow_mul_add _ (by decide), if_pos hi]
  · rw [nth_map_rangeFrom _ _ (by omega), show 28 + i = 12 + (16 + i) by omega, testBit_jtagId_upper, Nat.testBit_two_pow_mul_add _ (by decide), if_neg (by omega)]
    simp

theorem jtagExtest_drives (t : Time) (s : State) : ∃ u, exec (.jtagExtest t) s = .next u ∧ u.regs = s.regs ∧ u.mem = s.mem ∧
    (s.boot.resetN = true → u.svc.ir = .extest ∧ u.svc.cells = s.svc.cells ∧ u.svc.dr.length = s.svc.cells.length ∧
      ∀ i, i < s.svc.cells.length → Config.observeOnly i = false → jtagDrives u i = s.svc.cells[i]? ∧ nth false u.svc.dr i = nth false s.svc.cells i) ∧
    (s.boot.resetN = true → ∀ i, Config.observeOnly i = true → jtagDrives u i = none) ∧ (s.boot.resetN = false → u.svc.ir = .bypass ∧ u.svc.dr = [false]) := by
  rw [exec_jtagExtest, execJtagExtest]
  cases hr : s.boot.resetN with
  | false =>
    rw [if_neg (by rw [show (advance s t).boot = s.boot from rfl, hr]; decide)]
    exact ⟨_, rfl, rfl, rfl, by simp, by simp, fun _ => ⟨rfl, rfl⟩⟩
  | true =>
    rw [if_pos (by exact hr)]
    refine ⟨_, rfl, rfl, rfl, fun _ => ⟨rfl, rfl, by simp [length_rangeFrom], fun i hi ho => ⟨?_, ?_⟩⟩, fun _ i ho => ?_, by simp⟩
    · simp [jtagDrives, ho]
    · change nth false ((rangeFrom 0 s.svc.cells.length).map fun i =>
        if Config.observeOnly i then (Config.freeValue (s.free + i)).getLsbD 0 else nth false s.svc.cells i) i = _
      rw [nth_map_rangeFrom _ _ hi, if_neg (by simp [ho])]
    · simp [jtagDrives, ho]

/-- Settles O60: the datagram's frame is found by `afterDatagram`, and `carryOut` keeps what the reply rests on. -/
theorem datagramsSmbusUsbAndJtag : Obligations.DatagramsSmbusUsbAndJtag := by
  refine ⟨fun t p udp src bs ok s _ h => exec_mgmtDatagram_idle ok h, fun t p src frame bs before rest ok s hfw hq hb hf hl => ⟨fun hbad => ?_, fun ht hc hk h3 h7 => ?_⟩,
    fun t msg ok s hfw hl => ⟨fun hk h3 h7 => ⟨_, _, exec_smbusTransaction_answers ok hfw hl hk h3 h7, rfl, rfl⟩, ?_⟩,
    fun t p s => (usbPower t p s).1, fun t p x s hx => (usbPower t p s).2 x hx, fun t s => ⟨_, rfl, rfl, rfl⟩, jtagIdcode_word,
    fun t pins pre s => ⟨_, rfl, rfl, rfl⟩, jtagExtest_drives⟩
  · rw [exec_mgmtDatagram_serves ok hfw hq hb hf, serveDatagram_refuses (s := withMgmt (advance s t) rest) ok hl hbad]
    rfl
  · have e := serveDatagram_answers (s := withMgmt (advance s t) rest) (src := src) ok hl ht hc hk h3 h7
    obtain ⟨hing, hctrs⟩ := (carryOut_keepsSources hk h3 h7 ok (counted (withMgmt (advance s t) rest) src (le bs 64 8))).2
    have hx := length_replyBytes (m := bs.take 64) (by rw [List.length_take]; omega) (carryOut_fit hk ok (counted (withMgmt (advance s t) rest) src (le bs 64 8))).1
    refine ⟨_, _, (exec_mgmtDatagram_serves ok hfw hq hb hf).trans (congrArg Host.Outcome.next e), ?_, ?_, hx, ?_⟩
    · exact (congrArg Ing.mgmt hing).trans rfl
    · refine (congrArg (tget 0 · src) hctrs).trans ?_
      simp [counted, tget]
    · rw [dgramTag_of_length (by simp [hx])]
      rfl
  · rw [exec_smbusTransaction, execSmbusTransaction]
    exact congrArg Host.Outcome.next (if_pos (.inr (.inl (by decide))))

end Sys2Proof.Proofs
end

section
/-!
Telemetry rings: what one record does to its ring, and which record an event becomes (R493 to R495).
-/
namespace Sys2Proof.Proofs
open Sys2Proof Sys2Proof.Machine Sys2Proof.Safety Sys2Proof.Laws
variable {s : State} {r : Nat}

/-! ## The registers and the state of a ring -/

theorem canonOff_trReg (r o : Nat) : canonOff (trReg r o) = trReg r o := canonOff_of_ge (by unfold trReg; omega)

theorem trReg_apart (q r : Nat) {o p : Nat} (h : o % 0x40 ≠ p % 0x40) : trReg q o ≠ trReg r p := by
  unfold trReg
  omega

theorem rd_bump_trReg_apart (s : State) {x a : Nat} (h : canonOff x ≠ trReg r a) : rd (bump s (trReg r a)) x = rd s x :=
  rd_bump_ne s (by rwa [canonOff_trReg])

@[simp] theorem trState_setTr (s : State) (r : Nat) (v : Nat × Nat) : trState (setTr s r v) r = v := by simp [trState, setTr, tget]

/-- Host memory after a record has been written at index `head` of ring `r`, whose base and length stand in its registers. -/
def withRecord (s : State) (r : Nat) (head : Word) (b : List Byte) : List Host.Cell :=
  msets 0 s.hif.mem (fld s (trReg r 0) 5 27 * 32 + 2 ^ 32 * (rd s (trReg r 4)).toNat + 32 * (head.toNat % trLen s r)) b

theorem msi_of_down {v : Nat} (h : pcieUp s = false) : msi v s = s := by rw [msi, if_pos (by simp [h])]

theorem msi_of_masked {v : Nat} (h : pcieUp s = true) (hm : msixMasked s v = true) :
    msi v s = { s with hif := { s.hif with pba := s.hif.pba ||| 2 ^ v } } := by
  rw [msi, if_neg (by simp [h]), if_pos hm]

theorem msi_of_unmasked {v : Nat} (h : pcieUp s = true) (hm : msixMasked s v = false) :
    msi v s = { s with hif := { s.hif with sent := tset s.hif.sent v (tget 0 s.hif.sent v + 1) } } := by
  rw [msi, if_neg (by simp [h]), if_neg (by simp [hm])]

/-- A vector touches the pending bits and the vectors sent, nothing else. -/
theorem msi_shape (v : Nat) (s : State) : ∃ p x, msi v s = { s with hif := { s.hif with pba := p, sent := x } } := by
  cases h : pcieUp s with
  | false => exact ⟨_, _, msi_of_down h⟩
  | true =>
    cases hm : msixMasked s v with
    | true => exact ⟨_, _, msi_of_masked h hm⟩
    | false => exact ⟨_, _, msi_of_unmasked h hm⟩

@[simp] theorem msi_regs (v : Nat) (s : State) : (msi v s).regs = s.regs := by obtain ⟨p, x, h⟩ := msi_shape v s; rw [h]
@[simp] theorem msi_hifMem (v : Nat) (s : State) : (msi v s).hif.mem = s.hif.mem := by obtain ⟨p, x, h⟩ := msi_shape v s; rw [h]
@[simp] theorem msi_rings (v : Nat) (s : State) : (msi v s).hif.rings = s.hif.rings := by obtain ⟨p, x, h⟩ := msi_shape v s; rw [h]
@[simp] theorem msi_clk (v : Nat) (s : State) : (msi v s).clk = s.clk := by obtain ⟨p, x, h⟩ := msi_shape v s; rw [h]

theorem rd_msi (v : Nat) (s : State) (off : Nat) : rd (msi v s) off = rd s off := rd_of_regs (msi_regs v s) off

theorem msi_sends {v : Nat} (h : pcieUp s = true) :
    if msixMasked s v then (msi v s).hif.pba.testBit v = true else tget 0 (msi v s).hif.sent v = tget 0 s.hif.sent v + 1 := by
  split
  · next hm =>
    rw [msi_of_masked h hm]
    simp
  · next hm =>
    rw [msi_of_unmasked h (by simpa using hm)]
    simp [tget]

/-- The state with host memory `m` after a record of ring `r`, before HEAD advances. -/
def storedRecord (r : Nat) (m : List Host.Cell) (s : State) : State :=
  setTr { s with hif := { s.hif with mem := m } } r ((trState s r).1 + 1, (trState s r).2)

/-- The state after HEAD has advanced, before the interrupt. -/
def placedRecord (r : Nat) (m : List Host.Cell) (s : State) : State := bump (storedRecord r m s) (trReg r 0xC)

section
variable (r : Nat) (m : List Host.Cell) (s : State)

theorem rd_storedRecord (off : Nat) : rd (storedRecord r m s) off = rd s off := rd_of_regs rfl off

theorem placedRecord_mem : (placedRecord r m s).hif.mem = m := rfl

theorem placedRecord_clk : (placedRecord r m s).clk = s.clk := rfl

theorem rd_placedRecord_ne {x : Nat} (h : canonOff x ≠ trReg r 0xC) : rd (placedRecord r m s) x = rd s x := by
  rw [placedRecord, rd_bump_trReg_apart _ h, rd_storedRecord]

theorem rd_placedRecord_head : rd (placedRecord r m s) (trReg r 0xC) = rd s (trReg r 0xC) + 1 := by
  rw [placedRecord, rd_bump, rd_storedRecord]

theorem trState_placedRecord : trState (placedRecord r m s) r = ((trState s r).1 + 1, (trState s r).2) := trState_setTr _ r _

theorem pcieUp_placedRecord : pcieUp (placedRecord r m s) = pcieUp s := by
  refine flag_of_rd (rd_placedRecord_ne r m s ?_) 0
  rw [canonOff_of_ge (by decide)]
  unfold trReg
  omega

end

theorem putRecord_eq (r type code source value : Nat) (s : State) :
    let u := placedRecord r (withRecord s r (rd s (trReg r 0xC)) (telemetryBytes s.clk.tb type code source value (trState s r).1)) s
    putRecord r type code source value s = if trUsed u r = fld u (trReg r 0x14) 16 16 then msi (8 + r) u else u := rfl

/-- What a record that finds room leaves: its bytes at HEAD, HEAD one on, the other registers of the ring as they were. -/
structure RecordPut (r type code source value : Nat) (s u : State) : Prop where
  mem : u.hif.mem = withRecord s r (rd s (trReg r 0xC)) (telemetryBytes s.clk.tb type code source value (trState s r).1)
  head : rd u (trReg r 0xC) = rd s (trReg r 0xC) + 1
  others : ∀ x, canonOff x ≠ trReg r 0xC → rd u x = rd s x
  state : trState u r = ((trState s r).1 + 1, (trState s r).2)
  clk : u.clk = s.clk

theorem RecordPut.reg {r q o type code source value : Nat} {s u : State} (h : RecordPut r type code source value s u) (ho : o % 0x40 ≠ 0xC) :
    rd u (trReg q o) = rd s (trReg q o) := h.others _ (by rw [canonOff_trReg]; exact trReg_apart _ _ ho)

theorem recordPut_putRecord (r type code source value : Nat) (s : State) : RecordPut r type code source value s (putRecord r type code source value s) := by
  have h : RecordPut r type code source value s
      (placedRecord r (withRecord s r (rd s (trReg r 0xC)) (telemetryBytes s.clk.tb type code source value (trState s r).1)) s) :=
    ⟨placedRecord_mem r _ s, rd_placedRecord_head r _ s, fun x => rd_placedRecord_ne r _ s, trState_placedRecord r _ s, placedRecord_clk r _ s⟩
  rw [putRecord_eq]
  generalize placedRecord r _ s = u at h ⊢
  split
  · obtain ⟨hm, hh, ho, hs, hc⟩ := h
    refine ⟨by rw [msi_hifMem, hm], by rw [rd_msi, hh], fun o h => by rw [rd_msi, ho o h], ?_, by rw [msi_clk, hc]⟩
    rw [trState, msi_rings]
    exact hs
  · exact h

/-- The interrupt of a record that brings the ring to THRESH (R495). -/
theorem putRecord_interrupts {type code source value : Nat}
    (hu : trUsed (putRecord r type code source value s) r = fld s (trReg r 0x14) 16 16) (hp : pcieUp s = true) :
    if msixMasked s (8 + r) then (putRecord r type code source value s).hif.pba.testBit (8 + r) = true
    else tget 0 (putRecord r type code source value s).hif.sent (8 + r) = tget 0 s.hif.sent (8 + r) + 1 := by
  have e := putRecord_eq r type code source value s
  generalize withRecord s r (rd s (trReg r 0xC)) (telemetryBytes s.clk.tb type code source value (trState s r).1) = m at e
  have hused : trUsed (putRecord r type code source value s) r = trUsed (placedRecord r m s) r := by
    rw [e]
    split
    · rw [trUsed, rd_msi, rd_msi, trUsed]
    · rfl
  have hthr : fld (placedRecord r m s) (trReg r 0x14) 16 16 = fld s (trReg r 0x14) 16 16 := fld_of_rd (rd_placedRecord_ne r m s (by rw [canonOff_trReg]; exact trReg_apart _ _ (by decide))) 16 16
  have he := e.trans (if_pos (by rw [← hused, hu, hthr]))
  rw [he]
  exact msi_sends ((pcieUp_placedRecord r m s).trans hp)

/-! ## A record that finds its ring full -/

/-- What a dropped record leaves: a count more to tell, TELEM_DROP one up, the rest of the ring and host memory as they were. -/
structure RecordDropped (r : Nat) (s u : State) : Prop where
  mem : u.hif.mem = s.hif.mem
  count : rd u (trReg r 0x18) = rd s (trReg r 0x18) + 1
  others : ∀ x, canonOff x ≠ trReg r 0x18 → rd u x = rd s x
  state : trState u r = ((trState s r).1, (trState s r).2 + 1)

theorem rd_setTr (s : State) (r : Nat) (v : Nat × Nat) (off : Nat) : rd (setTr s r v) off = rd s off := rd_of_regs (setTr_regs s r v) off

theorem recordDropped_dropRecord (s : State) (r : Nat) : RecordDropped r s (dropRecord s r) :=
  ⟨rfl, by rw [dropRecord, rd_bump, rd_setTr], fun o h => by rw [dropRecord, rd_bump_trReg_apart _ h, rd_setTr], trState_setTr s r _⟩

theorem RecordDropped.reg {r q o : Nat} {s u : State} (h : RecordDropped r s u) (ho : o % 0x40 ≠ 0x18) : rd u (trReg q o) = rd s (trReg q o) :=
  h.others _ (by rw [canonOff_trReg]; exact trReg_apart _ _ ho)

/-! ## An event and its ring -/

/-- The state after the DROP record that goes before the next record; `x` is the source that it names. -/
def toldDropped (r x : Nat) (s : State) : State :=
  setTr (putRecord r 3 0 x (trState s r).2 s) r ((trState (putRecord r 3 0 x (trState s r).2 s) r).1, 0)

/-- What a DROP record leaves (R495): as any record, and nothing more is to be told. -/
structure DropTold (r x : Nat) (s u : State) : Prop where
  mem : u.hif.mem = withRecord s r (rd s (trReg r 0xC)) (telemetryBytes s.clk.tb 3 0 x (trState s r).2 (trState s r).1)
  head : rd u (trReg r 0xC) = rd s (trReg r 0xC) + 1
  others : ∀ x, canonOff x ≠ trReg r 0xC → rd u x = rd s x
  state : trState u r = ((trState s r).1 + 1, 0)
  clk : u.clk = s.clk

theorem DropTold.reg {r q o x : Nat} {s u : State} (h : DropTold r x s u) (ho : o % 0x40 ≠ 0xC) : rd u (trReg q o) = rd s (trReg q o) :=
  h.others _ (by rw [canonOff_trReg]; exact trReg_apart _ _ ho)

theorem dropTold_toldDropped (r x : Nat) (s : State) : DropTold r x s (toldDropped r x s) := by
  obtain ⟨hm, hh, ho, hs, hc⟩ := recordPut_putRecord r 3 0 x (trState s r).2 s
  refine ⟨hm, by rw [toldDropped, rd_setTr, hh], fun o h => by rw [toldDropped, rd_setTr, ho o h], ?_, hc⟩
  rw [toldDropped, trState_setTr, hs]

section
variable {type code source value : Nat}

theorem record_of_full (hon : trOn s r = true) (hu : trUsed s r = trLen s r) : record type code source value s r = dropRecord s r := by
  rw [record, if_neg (by simp [hon]), if_pos hu]

theorem record_of_room (hon : trOn s r = true) (hu : trUsed s r ≠ trLen s r) (hd : (trState s r).2 = 0) :
    record type code source value s r = putRecord r type code source value s := by
  rw [record, if_neg (by simp [hon]), if_neg hu, if_pos hd]

/-- The state after the DROP record of `s`, with the free value drawn that names its source. -/
def afterDrop (s : State) (r : Nat) : State := toldDropped r ((draw s).1.toNat % 2 ^ 32) (draw s).2

theorem record_of_drops (hon : trOn s r = true) (hu : trUsed s r ≠ trLen s r) (hd : (trState s r).2 ≠ 0) :
    record type code source value s r =
      if trUsed (afterDrop s r) r = trLen (afterDrop s r) r then dropRecord (afterDrop s r) r else putRecord r type code source value (afterDrop s r) := by
  rw [record, if_neg (by simp [hon]), if_neg hu, if_neg hd]
  rfl

/-- A record changes the control word of no ring. -/
theorem rd_record_control (q : Nat) : rd (record type code source value s r) (trReg q 8) = rd s (trReg q 8) := by
  by_cases hon : trOn s r = true
  · by_cases hu : trUsed s r = trLen s r
    · rw [record_of_full hon hu]
      exact (recordDropped_dropRecord s r).reg (by decide)
    · by_cases hd : (trState s r).2 = 0
      · rw [record_of_room hon hu hd]
        exact (recordPut_putRecord r type code source value s).reg (by decide)
      · have ha : rd (afterDrop s r) (trReg q 8) = rd s (trReg q 8) := ((dropTold_toldDropped r _ (draw s).2).reg (by decide)).trans (rd_of_regs rfl _)
        rw [record_of_drops hon hu hd, ← ha]
        split
        · exact (recordDropped_dropRecord _ r).reg (by decide)
        · exact (recordPut_putRecord r type code source value _).reg (by decide)
  · rw [record, if_pos hon]

end

/-- An event that is told in ring `r` alone: the other rings do not run. -/
theorem eventRecord_single {code source value : Nat} (hr : r < 4) (hlo : 1 ≤ code / 256) (hhi : code / 256 ≤ 10) (hb : (rd s (trReg r 8)).getLsbD (code / 256) = true)
    (hq : ∀ q, q < 4 → q ≠ r → trOn s q = false) :
    eventRecord code source value s = record 1 code source value s r := by
  have hq' : ∀ q, q < 4 → q ≠ r → trOn (record 1 code source value s r) q = false := fun q h4 hne =>
    (flag_of_rd (rd_record_control q) 31).trans (hq q h4 hne)
  have hskip : ∀ (u : State) q, trOn u q = false →
      (if (rd u (trReg q 8)).getLsbD (code / 256) && decide (1 ≤ code / 256 ∧ code / 256 ≤ 10) then record 1 code source value u q else u) = u := by
    intro u q hoff
    split
    · rw [record, if_pos (by simp [hoff])]
    · rfl
  have hgo : (if (rd s (trReg r 8)).getLsbD (code / 256) && decide (1 ≤ code / 256 ∧ code / 256 ≤ 10) then record 1 code source value s r else s)
      = record 1 code source value s r := if_pos (by simp only [hb, hlo, hhi, and_self, decide_true, Bool.and_self])
  rw [eventRecord]
  simp only [rangeFrom, List.foldl_cons, List.foldl_nil, Nat.reduceAdd]
  obtain rfl | rfl | rfl | rfl : r = 0 ∨ r = 1 ∨ r = 2 ∨ r = 3 := by omega
  · rw [hgo, hskip _ 1 (hq' 1 (by decide) (by decide)), hskip _ 2 (hq' 2 (by decide) (by decide)), hskip _ 3 (hq' 3 (by decide) (by decide))]
  · rw [hskip s 0 (hq 0 (by decide) (by decide)), hgo, hskip _ 2 (hq' 2 (by decide) (by decide)), hskip _ 3 (hq' 3 (by decide) (by decide))]
  · rw [hskip s 0 (hq 0 (by decide) (by decide)), hskip s 1 (hq 1 (by decide) (by decide)), hgo, hskip _ 3 (hq' 3 (by decide) (by decide))]
  · rw [hskip s 0 (hq 0 (by decide) (by decide)), hskip s 1 (hq 1 (by decide) (by decide)), hskip s 2 (hq 2 (by decide) (by decide)), hgo]

end Sys2Proof.Proofs
end

section
/-!
The telemetry statement (R494, R495): from the code that a field has to tell to the records in its ring.
-/
namespace Sys2Proof.Proofs
open Sys2Proof Sys2Proof.Machine Sys2Proof.Safety Sys2Proof.Laws
variable {s : State} {r : Nat}

/-! ## The code that is due -/

/-- What an event told leaves: the state, but for the codes still to be told and the free values drawn. -/
def ToldFrom (s u : State) : Prop := ∃ q f, u = { s with svc := { s.svc with untold := q }, free := f }

theorem toldFrom_takeUntold (s : State) (src : EventSource) : ToldFrom s (takeUntold s src).2.2 := by
  unfold takeUntold
  split <;> exact ⟨_, _, rfl⟩

theorem toldFrom_eventOf (s : State) (src : EventSource) : ToldFrom s (eventOf s src).2.2.2 := by
  cases src <;> exact ⟨_, _, rfl⟩

theorem toldFrom_dueEvent (s : State) (src : EventSource) : ToldFrom s (dueEvent s src).2.2.2 := by
  obtain ⟨q, f, h⟩ := toldFrom_takeUntold s src
  obtain ⟨q', f', h'⟩ := toldFrom_eventOf (takeUntold s src).2.2 src
  have e : (dueEvent s src).2.2.2 = (eventOf (takeUntold s src).2.2 src).2.2.2 := by
    rw [dueEvent]
    split <;> rfl
  rw [e, h', h]
  exact ⟨q', f', rfl⟩

theorem dueEvent_inOrder {src : EventSource} {code arg : Nat} {rest : List (EventSource × Nat × Nat)} (ho : inOrderSrc src = true)
    (h : s.svc.untold = (src, code, arg) :: rest) : (dueEvent s src).2.2.1 = code ∧ (dueEvent s src).2.2.2.svc.untold = rest := by
  have ht : takeUntold s src = (code, arg, { s with svc := { s.svc with untold := rest } }) := by
    unfold takeUntold
    rw [h, List.find?_cons_of_pos (by simp)]
    simp only [List.erase_cons_head]
  rw [dueEvent, ht]
  dsimp only
  rw [if_pos ho]
  refine ⟨rfl, ?_⟩
  cases src <;> rfl

theorem dueEvent_present {src : EventSource} (ho : inOrderSrc src = false) (h : s.svc.untold = []) : dueEvent s src = eventOf s src := by
  have ht : takeUntold s src = (0, 0, s) := by rw [takeUntold, h]; rfl
  rw [dueEvent, ht]
  dsimp only
  rw [if_neg (by simp [ho])]

/-! ## TELEMETRY_EVENT -/

/-- What the records of a ring depend on stays from `s` to `u`. -/
structure SameRing (r : Nat) (s u : State) : Prop where
  regs : ∀ o, rd u o = rd s o
  mem : u.hif.mem = s.hif.mem
  state : trState u r = trState s r

theorem withRecord_of_same {u : State} (h : SameRing r s u) (head : Word) (b : List Byte) : withRecord u r head b = withRecord s r head b := by
  simp only [withRecord, h.mem, fld, trLen, h.regs]

theorem ToldFrom.sameRing {u : State} (h : ToldFrom s u) (r : Nat) : SameRing r s u := by
  obtain ⟨q, f, rfl⟩ := h
  exact ⟨fun _ => rd_of_regs rfl _, rfl, rfl⟩

theorem ToldFrom.clk {u : State} (h : ToldFrom s u) : u.clk = s.clk := by
  obtain ⟨q, f, rfl⟩ := h
  rfl

theorem SameRing.used {u : State} (h : SameRing r s u) : trUsed u r = trUsed s r := by rw [trUsed, h.regs, h.regs, trUsed]
theorem SameRing.len {u : State} (h : SameRing r s u) : trLen u r = trLen s r := by rw [trLen, fld_of_rd (h.regs _), trLen]
theorem SameRing.on {u : State} (h : SameRing r s u) : trOn u r = trOn s r := flag_of_rd (h.regs _) 31

theorem exec_telemetryEvent_single {t : Time} {src : EventSource} {m : Fin 6} (hr : r < 4) :
    let e := dueEvent (advance s t) src
    let code := e.2.2.1
    1 ≤ code / 256 → code / 256 ≤ 10 → (rd s (trReg r 8)).getLsbD (code / 256) = true → (∀ q, q < 4 → q ≠ r → trOn s q = false) →
    ∃ v, exec (.telemetryEvent t src m) s = .next (record 1 code (2 ^ 24 * e.1 + e.2.1 % 2 ^ 24) v e.2.2.2 r) := by
  intro e code hlo hhi hb hq
  have hsame : ∀ o, rd e.2.2.2 o = rd s o := fun o => ((toldFrom_dueEvent (advance s t) src).sameRing r).regs o
  obtain ⟨v, hv⟩ : ∃ v, exec (.telemetryEvent t src m) s =
      .next (if code = 0 then e.2.2.2 else eventRecord code (2 ^ 24 * e.1 + e.2.1 % 2 ^ 24) v e.2.2.2) := ⟨_, rfl⟩
  refine ⟨v, hv.trans ?_⟩
  rw [if_neg (show code ≠ 0 by intro h; rw [h] at hlo; simp at hlo)]
  exact congrArg Host.Outcome.next (eventRecord_single hr hlo hhi (by rwa [hsame]) fun q h4 hne => (flag_of_rd (hsame _) 31).trans (hq q h4 hne))

/-- The length of a ring is at most 2¹⁵ records. -/
theorem trLen_le (s : State) (r : Nat) : trLen s r ≤ 2 ^ 15 := by
  unfold trLen
  exact Nat.pow_le_pow_right (by decide) (clampNat_within 6 15 _ (by decide)).2

/-- HEAD one on, one record more is used. -/
theorem used_succ {head tail : Word} (h : (head - tail).toNat < 2 ^ 32 - 1) : (head + 1 - tail).toNat = (head - tail).toNat + 1 := by
  bv_omega

theorem DropTold.used {x : Nat} {u : State} (h : DropTold r x s u) (hu : trUsed s r < 2 ^ 32 - 1) : trUsed u r = trUsed s r + 1 := by
  rw [trUsed, h.head, h.reg (by decide)]
  exact used_succ hu

theorem DropTold.len {x : Nat} {u : State} (h : DropTold r x s u) : trLen u r = trLen s r := by
  rw [trLen, fld_of_rd (h.reg (o := 8) (by decide)), trLen]

/-- What a record told in full leaves for the statement: the ring of the state before, by its parts. -/
theorem telemetry_full {S : State} {type code source v : Nat} (hsame : SameRing r s S) (hon : trOn s r = true) (hfull : trUsed s r = trLen s r) :
    (record type code source v S r).hif.mem = s.hif.mem ∧ rd (record type code source v S r) (trReg r 0x18) = rd s (trReg r 0x18) + 1 ∧
      (trState (record type code source v S r) r).2 = (trState s r).2 + 1 ∧ rd (record type code source v S r) (trReg r 0xC) = rd s (trReg r 0xC) := by
  have h := recordDropped_dropRecord S r
  rw [record_of_full (hsame.on.trans hon) (by rw [hsame.used, hsame.len, hfull]), h.mem, h.count, h.state, h.reg (by decide), hsame.mem, hsame.state, hsame.regs, hsame.regs]
  exact ⟨rfl, rfl, rfl, rfl⟩

theorem telemetry_room {S : State} {type code source v : Nat} (hsame : SameRing r s S) (hon : trOn s r = true) (hroom : trUsed s r ≠ trLen s r)
    (hnone : (trState s r).2 = 0) :
    record type code source v S r = putRecord r type code source v S ∧
    (record type code source v S r).hif.mem = withRecord s r (rd s (trReg r 0xC)) (telemetryBytes S.clk.tb type code source v (trState s r).1) ∧
      rd (record type code source v S r) (trReg r 0xC) = rd s (trReg r 0xC) + 1 ∧ rd (record type code source v S r) (trReg r 0x18) = rd s (trReg r 0x18) := by
  have h := recordPut_putRecord r type code source v S
  have e : record type code source v S r = putRecord r type code source v S :=
    record_of_room (hsame.on.trans hon) (by rwa [hsame.used, hsame.len]) (by rwa [hsame.state])
  refine ⟨e, ?_⟩
  rw [e, h.mem, h.head, h.reg (by decide), withRecord_of_same hsame, hsame.state, hsame.regs, hsame.regs]
  exact ⟨rfl, rfl, rfl⟩

theorem sameRing_draw {S : State} (hsame : SameRing r s S) : SameRing r s (draw S).2 := ⟨hsame.regs, hsame.mem, hsame.state⟩

theorem telemetry_afterDrop {S : State} (hsame : SameRing r s S) : ∃ x,
    (afterDrop S r).hif.mem = withRecord s r (rd s (trReg r 0xC)) (telemetryBytes S.clk.tb 3 0 x (trState s r).2 (trState s r).1) ∧
      rd (afterDrop S r) (trReg r 0xC) = rd s (trReg r 0xC) + 1 ∧ (∀ o, o % 0x40 ≠ 0xC → rd (afterDrop S r) (trReg r o) = rd s (trReg r o)) ∧
      trState (afterDrop S r) r = ((trState s r).1 + 1, 0) ∧ (afterDrop S r).clk = S.clk ∧ trLen (afterDrop S r) r = trLen s r ∧
      (trUsed s r < 2 ^ 32 - 1 → trUsed (afterDrop S r) r = trUsed s r + 1) := by
  have h := dropTold_toldDropped r ((draw S).1.toNat % 2 ^ 32) (draw S).2
  have hd := sameRing_draw hsame
  refine ⟨(draw S).1.toNat % 2 ^ 32, ?_, ?_, fun o ho => ?_, ?_, h.clk, h.len.trans hd.len, fun hu => ?_⟩
  · rw [afterDrop, h.mem, withRecord_of_same hd, hd.state, hd.regs]
    rfl
  · rw [afterDrop, h.head, hd.regs]
  · rw [afterDrop, h.reg ho, hd.regs]
  · rw [afterDrop, h.state, hd.state]
  · rw [afterDrop, h.used (by rwa [hd.used]), hd.used]

theorem telemetry_drops {S : State} {type code source v : Nat} (hsame : SameRing r s S) (hon : trOn s r = true) (hroom : trUsed s r ≠ trLen s r)
    (hsome : (trState s r).2 ≠ 0) : record type code source v S r =
      if trUsed (afterDrop S r) r = trLen (afterDrop S r) r then dropRecord (afterDrop S r) r else putRecord r type code source v (afterDrop S r) :=
  record_of_drops (hsame.on.trans hon) (by rwa [hsame.used, hsame.len]) (by rwa [hsame.state])

/-- A write of the control word that enables a ring starts it (R503). -/
theorem trWrite_starts {w : Word} (r : Fin 4) (hw : w.getLsbD 31 = true) (hoff : trOn s r = false) :
    rd (trWrite r w s) (trReg r 0xC) = 0 ∧ trState (trWrite r w s) r = (0, (trState s r).2) ∧ trOn (trWrite r w s) r = true ∧ (trWrite r w s).mem = s.mem := by
  have e : trWrite r w s = setTr (wrReg (wrReg s (trReg r 8) (mergeWord (maskOf .rw (trReg r 8)) (rd s (trReg r 8)) w)) (trReg r 0xC) 0) r
      (0, (trState s r).2) := by
    rw [trWrite]
    exact if_pos (by rw [hw, hoff]; rfl)
  have hmask : ∀ r : Fin 4, (maskOf .rw (trReg r 8)).getLsbD 31 = true := by decide +kernel
  rw [e]
  refine ⟨?_, trState_setTr _ _ _, ?_, rfl⟩
  · rw [rd_setTr, rd_wrReg_same]
  · rw [trOn, flag, rd_setTr, rd_wrReg_ne _ _ _ _ (by rw [canonOff_trReg, canonOff_trReg]; exact trReg_apart _ _ (by decide)), rd_wrReg_same, getLsbD_mergeWord,
      if_pos (hmask r), hw]

/-- Settles O58: `record` by the room and the drops of its ring. -/
theorem telemetryDropsAndInterrupts : Obligations.TelemetryDropsAndInterrupts := by
  refine ⟨fun t src m r s hr => ?_, fun t ag r w s h hw hoff => ?_, fun s src code arg rest => dueEvent_inOrder, fun s src => dueEvent_present⟩
  · intro s' e code base head source hlo hhi hon hb hq
    obtain ⟨v, hexec⟩ := exec_telemetryEvent_single (t := t) (src := src) (m := m) hr hlo hhi hb hq
    have htold : ToldFrom s' e.2.2.2 := toldFrom_dueEvent s' src
    have hsame : SameRing r s e.2.2.2 := by
      obtain ⟨h1, h2, h3⟩ := htold.sameRing r
      exact ⟨h1, h2, h3⟩
    have hclk : e.2.2.2.clk.tb = s'.clk.tb := congrArg Clk.tb htold.clk
    have hpcie : pcieUp e.2.2.2 = pcieUp s := flag_of_rd (hsame.regs _) 0
    have hhif : e.2.2.2.hif = s.hif := by
      obtain ⟨_, _, h⟩ := htold
      rw [h]
      rfl
    refine ⟨fun hfull => ⟨_, hexec, telemetry_full hsame hon hfull⟩, fun hroom hnone => ?_, fun hroom hsome hmore hlt => ?_, fun hlast hsome => ?_⟩
    · obtain ⟨he, hmem, hhead, hcount⟩ := telemetry_room (type := 1) (code := code) (source := source) (v := v) hsame hon hroom hnone
      refine ⟨_, v, hexec, by rw [hmem, hclk]; rfl, hhead, hcount, fun hthr hup => ?_⟩
      have hint := putRecord_interrupts (s := e.2.2.2) (r := r) (type := 1) (code := code) (source := source) (value := v)
        ((congrArg (trUsed · r) he).symm.trans (hthr.trans (fld_of_rd (hsame.regs _) 16 16).symm)) (by rw [hpcie, hup])
      have hmask : msixMasked e.2.2.2 (8 + r) = msixMasked s (8 + r) := by rw [msixMasked, msixWord, hhif, msixMasked, msixWord]
      rw [← he, hmask, hhif] at hint
      exact hint
    · obtain ⟨x, hmem, hhead, ho, hst, hc, hlen, hused⟩ := telemetry_afterDrop hsame
      have hmore' : ¬ trUsed (afterDrop e.2.2.2 r) r = trLen (afterDrop e.2.2.2 r) r := by rwa [hused hlt, hlen]
      rw [telemetry_drops hsame hon hroom hsome, if_neg hmore'] at hexec
      have hput := recordPut_putRecord r 1 code source v (afterDrop e.2.2.2 r)
      refine ⟨_, v, x, hexec, ?_, by rw [hput.state, hst], ?_⟩
      · rw [hput.head, hhead, BitVec.add_assoc]
        rfl
      · rw [hput.mem, hst, hc, hclk, withRecord, hmem, hhead, hclk, trLen, fld_of_rd (ho 8 (by decide)), fld_of_rd (ho 0 (by decide)), ho 4 (by decide)]
        rfl
    · obtain ⟨x, hmem, hhead, ho, hst, hc, hlen, hused⟩ := telemetry_afterDrop hsame
      have hle := trLen_le s r
      have hfull : trUsed (afterDrop e.2.2.2 r) r = trLen (afterDrop e.2.2.2 r) r := by rw [hused (by omega), hlen, hlast]
      rw [telemetry_drops hsame hon (by omega) hsome, if_pos hfull] at hexec
      have hdrop := recordDropped_dropRecord (afterDrop e.2.2.2 r) r
      refine ⟨_, x, hexec, by rw [hdrop.reg (by decide), hhead], by rw [hdrop.state, hst], by rw [hdrop.count, ho _ (by decide)], ?_⟩
      rw [hdrop.mem, hmem, hclk]
      rfl
  · rw [exec_trEnable, execTrEnable, onWrite_of_writeTakes _ h]
    exact ⟨_, rfl, trWrite_starts (s := advance s t) r hw hoff⟩

end Sys2Proof.Proofs
end

section
/-!
Resets and power-down: what they clear, what they keep, and the registers they show afterwards (R438, R475, R476, R478).
-/
namespace Sys2Proof.Proofs
open Sys2Proof Sys2Proof.Machine Sys2Proof.Safety Sys2Proof.Laws
variable {s : State}

/-! ## The registers that follow set points and holds (R435, R442) -/

theorem soleName_railReg {r : Nat} (hr : r < 4) {o : Nat} (ho : o < 0x10) : soleName (railReg r o) := .inl (by unfold railReg; omega)

theorem soleName_bclReg {c : Nat} (hc : c < 16) {o : Nat} (ho : o < 0x10) : soleName (bclReg c o) := .inl (by unfold bclReg; omega)

/-- The registers that `burShow` brings up to date: BUR_STATUS, VSET of the rails and HOLD of the clusters. -/
def burShown (off : Nat) : Prop :=
  off = 0x10000 ∨ (0x10100 ≤ off ∧ off < 0x10140 ∧ off % 0x10 = 4) ∨ (0x10200 ≤ off ∧ off < 0x10300 ∧ off % 0x10 = 8)

theorem rd_setFld_of_soleName (s : State) {o x : Nat} (lo w v : Nat) (hx : soleName x) (ho : soleName o) (h : x ≠ o) : rd (setFld s o lo w v) x = rd s x :=
  rd_setFld_ne s _ _ _ _ _ (canonOff_ne_of_soleName hx ho h)

/-- VSET of every rail. -/
def showRails (s : State) : State := (rangeFrom 0 4).foldl (fun s r => setFld s (railReg r 4) 0 16 (if coreOn s then setPoint s r else 0)) s

/-- HOLD of every cluster. -/
def showHolds (s : State) : State := (rangeFrom 0 16).foldl (fun s c => setFld s (bclReg c 8) 12 4 (holdOf s c)) s

/-- The two status bits that `burShow` sets, with a state that tells the holds and the caps. -/
theorem burShow_eq (s : State) : ∃ a b, burShow s = burStatus (burStatus (showHolds (showRails s)) 2 a) 3 b := ⟨_, _, rfl⟩

theorem rd_showRails {x : Nat} (hx : soleName x) (h : ¬ burShown x) (s : State) : rd (showRails s) x = rd s x := by
  refine rd_foldl_of_untouched s fun u r hr => ?_
  have h4 : r < 4 := ((mem_rangeFrom 4 0 r).mp hr).2
  refine rd_setFld_of_soleName u _ _ _ hx (soleName_railReg h4 (by decide)) fun e => h (.inr (.inl ?_))
  rw [e]
  unfold railReg
  omega

theorem rd_showHolds {x : Nat} (hx : soleName x) (h : ∀ c, c < 16 → x ≠ bclReg c 8) (s : State) : rd (showHolds s) x = rd s x := by
  refine rd_foldl_of_untouched s fun u c hc => ?_
  have h16 : c < 16 := ((mem_rangeFrom 16 0 c).mp hc).2
  exact rd_setFld_of_soleName u _ _ _ hx (soleName_bclReg h16 (by decide)) (h c h16)

theorem rd_burStatus {x : Nat} (hx : soleName x) (h : x ≠ 0x10000) (s : State) (i : Nat) (b : Bool) : rd (burStatus s i b) x = rd s x :=
  rd_setFlag_ne s i b (canonOff_ne_of_soleName hx (.inl (by decide)) h)

theorem rd_burShow {x : Nat} (hx : soleName x) (h : ¬ burShown x) (s : State) : rd (burShow s) x = rd s x := by
  have h0 : x ≠ 0x10000 := fun e => h (.inl e)
  have hc : ∀ c, c < 16 → x ≠ bclReg c 8 := fun c hc e => h (.inr (.inr (by rw [e]; unfold bclReg; omega)))
  obtain ⟨a, b, e⟩ := burShow_eq s
  rw [e, rd_burStatus hx h0, rd_burStatus hx h0, rd_showHolds hx hc, rd_showRails hx h]

theorem regSide_burShow (s : State) : RegSide s (burShow s) := by
  obtain ⟨a, b, e⟩ := burShow_eq s
  have hr : RegSide s (showRails s) := List.foldlRecOn (motive := fun (u : State) => RegSide s u) _ _ (.refl s) fun u hu i _ => hu.wrReg _ _
  have hh : RegSide s (showHolds (showRails s)) :=
    List.foldlRecOn (motive := fun (u : State) => RegSide s u) _ _ hr fun u hu i _ => hu.wrReg _ _
  rw [e]
  exact (hh.wrReg _ _).wrReg _ _

/-! ## LAST_ERR (R479) -/

@[simp] theorem bootErr_regs (code : Nat) (s : State) : (bootErr code s).regs = (setFld s 0x30000 0 16 code).regs := rfl

theorem fld_bootErr {code : Nat} (h : code < 2 ^ 16) (s : State) : fld (bootErr code s) 0x30000 0 16 = code := by
  rw [fld_of_rd (rd_of_regs (bootErr_regs code s) 0x30000), fld_setFld_same _ _ _ _ _ (by decide), Nat.mod_eq_of_lt h]

theorem rd_bootErr_ne {code x : Nat} (hx : soleName x) (h : x ≠ 0x30000) (s : State) : rd (bootErr code s) x = rd s x := by
  rw [rd_of_regs (bootErr_regs code s), rd_setFld_of_soleName s _ _ _ hx (.inl (by decide)) h]

theorem flag_bootErr {i : Nat} (hi : 16 ≤ i) (h : i < 32) (code : Nat) (s : State) : flag (bootErr code s) 0x30000 i = flag s 0x30000 i := by
  rw [flag_of_rd (rd_of_regs (bootErr_regs code s) 0x30000), flag_setFld_ne _ _ h (.inr hi)]

theorem phase_bootErr (code : Nat) (s : State) : phase (bootErr code s) = phase s := by
  rw [phase, fld_of_rd (rd_of_regs (bootErr_regs code s) 0x30000), fld_setFld_ne _ _ _ _ _ _ _ (.inr (by decide)), phase]

/-! ## What a reset of the main rails clears (R478) -/

theorem abortImage_none (h : s.svc.img = none) : abortImage s = s := by rw [abortImage, h]

/-- What an IMAGE_WRITE cut off leaves. -/
theorem abortImage_shape (s : State) :
    ∃ n v f, abortImage s = { s with free := n, svc := { s.svc with img := v }, boot := { s.boot with flash := f } } := by
  unfold abortImage
  split
  · exact ⟨_, _, _, rfl⟩
  · exact ⟨_, _, _, rfl⟩

@[simp] theorem abortImage_regs (s : State) : (abortImage s).regs = s.regs := by obtain ⟨n, v, f, e⟩ := abortImage_shape s; rw [e]
@[simp] theorem abortImage_mem (s : State) : (abortImage s).mem = s.mem := by obtain ⟨n, v, f, e⟩ := abortImage_shape s; rw [e]
@[simp] theorem abortImage_clk (s : State) : (abortImage s).clk = s.clk := by obtain ⟨n, v, f, e⟩ := abortImage_shape s; rw [e]
@[simp] theorem abortImage_bur (s : State) : (abortImage s).bur = s.bur := by obtain ⟨n, v, f, e⟩ := abortImage_shape s; rw [e]
@[simp] theorem abortImage_sio (s : State) : (abortImage s).sio = s.sio := by obtain ⟨n, v, f, e⟩ := abortImage_shape s; rw [e]
@[simp] theorem abortImage_hut (s : State) : (abortImage s).hut = s.hut := by obtain ⟨n, v, f, e⟩ := abortImage_shape s; rw [e]
@[simp] theorem abortImage_tc (s : State) : (abortImage s).tc = s.tc := by obtain ⟨n, v, f, e⟩ := abortImage_shape s; rw [e]
@[simp] theorem abortImage_ctxs (s : State) : (abortImage s).ctxs = s.ctxs := by obtain ⟨n, v, f, e⟩ := abortImage_shape s; rw [e]

/-- A register of which nothing is kept is at its reset value. -/
theorem tget?_keepRegs_none {all : Bool} {c : Nat} (h : keptMask all c = 0) (t : Tab Word) : tget? (keepRegs all t) c = none := by
  unfold keepRegs
  induction t with
  | nil => rfl
  | cons e t ih =>
    obtain ⟨a, w⟩ := e
    rw [List.map_cons]
    by_cases ha : a = c
    · subst ha
      rw [List.filter_cons_of_neg (by rw [h, mergeWord_zero]; simp)]
      exact ih
    · rw [List.filter_cons]
      split
      · rw [tget?, if_neg ha]
        exact ih
      · exact ih

theorem rd_clearMain_reset {all on : Bool} {off : Nat} (h : keptMask all (canonOff off) = 0) (s : State) :
    rd (clearMain all on s) off = regReset (canonOff off) := by
  rw [rd, show (clearMain all on s).regs = keepRegs all (abortImage s).regs from rfl, tget?_keepRegs_none h]
  rfl

/-- What `clearMain` does to the parts that its callers speak of. -/
structure MainCleared (s u : State) : Prop where
  tb : u.clk.tb = s.clk.tb
  pend : u.pend = []
  bur : u.bur = s.bur
  sio : u.sio = s.sio
  hut : u.hut = s.hut
  flash : s.svc.img = none → u.boot.flash = s.boot.flash
  mem : s.mem = [] → u.mem = []

theorem mainCleared (all on : Bool) (s : State) : MainCleared s (clearMain all on s) := by
  refine ⟨(show (clearMain all on s).clk.tb = (abortImage s).clk.tb from rfl).trans (by rw [abortImage_clk]), rfl, abortImage_bur s, abortImage_sio s, abortImage_hut s, fun h => ?_, fun h => ?_⟩
  · exact (show (clearMain all on s).boot.flash = (abortImage s).boot.flash from rfl).trans (by rw [abortImage_none h])
  · refine (show (clearMain all on s).mem = (abortImage s).mem.filter (fun c => decide (c.1 < spadBase)) from rfl).trans ?_
    simp [h]

/-! ## A module reset (R475) -/

theorem moduleReset_eq (cause : Nat) (s : State) : ∃ u v : State, moduleReset cause s = burShow (setFld v 0x10000 30 2 0) ∧
    u.regs = (clearMain false (railsUp s) s).regs ∧ (v = setFlag u 0x204 cause true ∨ v = setFlag (setFlag u 0x204 cause true) 0x204 5 true) ∧
    u.pend = [] ∧ u.sio = Sio.reset ∧ u.clk.tb = s.clk.tb ∧ u.bur.vaon = s.bur.vaon ∧ (s.svc.img = none → u.boot.flash = s.boot.flash) := by
  obtain ⟨htb, hpend, hbur, -, -, hflash, -⟩ := mainCleared false (railsUp s) s
  unfold moduleReset
  extract_lets up s1 _ _ s2 s3 s4
  refine ⟨s2, s4, rfl, rfl, ?_, hpend, rfl, htb, (congrArg Bur.vaon hbur : s1.bur.vaon = s.bur.vaon), hflash⟩
  unfold s4
  split
  · exact .inr rfl
  · exact .inl rfl

theorem allSafe_of_reset {u : State} (h : u.sio = Sio.reset) : AllSafe u := by
  have hg : ∀ g, grpOf u g = Grp.reset := fun g => by rw [grpOf, h]; rfl
  have hh : u.sio.hold = true := by rw [h]; rfl
  exact ⟨fun g _ => by rw [hg]; exact ⟨rfl, rfl⟩, fun o _ => ⟨outOn_of_hold hh o .a, outOn_of_hold hh o .b⟩⟩

theorem bootStatus_reset : fieldOf (regReset 0x30000).toNat 28 4 = 0 ∧ (regReset 0x30000).getLsbD 27 = false := by decide +kernel

theorem phase_of_bootStatus {u : State} (h : rd u 0x30000 = regReset 0x30000) : phase u = 0 ∧ lockTaken u = false := by
  rw [phase, fld, lockTaken, flag, h]
  exact bootStatus_reset

/-- Whatever resets the module leaves it reset, with its cause told. -/
theorem moduleWasReset (cause : Nat) (hc : cause < 32) (s : State) {t : Time} :
    ModuleWasReset s t (moduleReset cause (advance s t)) ∧ flag (moduleReset cause (advance s t)) 0x204 cause = true := by
  obtain ⟨u, v, e, hregs, hv, hpend, hsio, htb, hvaon, hflash⟩ := moduleReset_eq cause (advance s t)
  obtain ⟨q, hq⟩ := regSide_burShow (setFld v 0x10000 30 2 0)
  have hshow : ∀ x, soleName x → ¬ burShown x → rd (moduleReset cause (advance s t)) x = rd v x := fun x hx h => by
    rw [e, rd_burShow hx h, rd_setFld_of_soleName v _ _ _ hx (.inl (by decide)) fun e => h (.inl e)]
  have hv' : RegSide u v := by
    obtain rfl | rfl := hv
    · exact ⟨_, rfl⟩
    · exact ⟨_, rfl⟩
  have hu : RegSide u (moduleReset cause (advance s t)) := by
    obtain ⟨x, rfl⟩ := hv'
    rw [e, hq]
    exact ⟨_, rfl⟩
  have hboot : rd (moduleReset cause (advance s t)) 0x30000 = regReset 0x30000 := by
    have hk : keptMask false (canonOff 0x30000) = 0 := by decide +kernel
    have h0 : rd u 0x30000 = regReset 0x30000 := (rd_of_regs hregs _).trans (rd_clearMain_reset hk _)
    rw [hshow _ (.inl (by decide)) (by unfold burShown; omega), ← h0]
    obtain rfl | rfl := hv
    · exact rd_setFlag_ne _ _ _ (by decide)
    · rw [rd_setFlag_ne _ _ _ (by decide), rd_setFlag_ne _ _ _ (by decide)]
  have hcause : flag (moduleReset cause (advance s t)) 0x204 cause = true := by
    rw [flag_of_rd (hshow 0x204 (.inl (by decide)) (by unfold burShown; omega))]
    obtain rfl | rfl := hv
    · exact flag_setFlag_same _ _ hc _
    · by_cases h5 : cause = 5
      · rw [h5]; exact flag_setFlag_same _ _ (by decide) _
      · rw [flag_setFlag_ne _ _ hc h5]
        exact flag_setFlag_same _ _ hc _
  obtain ⟨hphase, hlock⟩ := phase_of_bootStatus hboot
  obtain ⟨x, hx⟩ := hu
  generalize moduleReset cause (advance s t) = w at *
  subst hx
  exact ⟨⟨hphase, hlock, hpend, allSafe_of_reset hsio, htb, hvaon, hflash⟩, hcause⟩

end Sys2Proof.Proofs
end

section
/-!
Resets, discarded commits and version negotiation (R425, R472, R474 to R477, R510).
-/
namespace Sys2Proof.Proofs
open Sys2Proof Sys2Proof.Machine Sys2Proof.Safety Sys2Proof.Laws
variable {s : State}

/-! ## A reset of the control complex (R476) -/

/-- The mailboxes that a reset of the control complex gives back (R476). -/
def releaseMailboxes (s : State) : State :=
  (rangeFrom 0 8).foldl (fun s m => setFld (setFlag s (0x480140 + 0x80 * m) 30 false) (0x480140 + 0x80 * m) 16 8 5) s

theorem rd_releaseMailboxes {x : Nat} (hx : soleName x) (h : x < 0x480000) (s : State) : rd (releaseMailboxes s) x = rd s x := by
  refine rd_foldl_of_untouched s fun u m _ => ?_
  have hm : canonOff x ≠ canonOff (0x480140 + 0x80 * m) := canonOff_ne_of_soleName hx (.inr (by omega)) (by omega)
  rw [rd_setFld_ne _ _ _ _ _ _ hm, rd_setFlag_ne _ _ _ hm]

theorem regSide_releaseMailboxes (s : State) : RegSide s (releaseMailboxes s) :=
  List.foldlRecOn (motive := fun (u : State) => RegSide s u) _ _ (.refl s) fun _ hu _ _ => (hu.wrReg _ _).wrReg _ _

/-- The state before the registers that tell of the reset are written. -/
structure ControlCleared (s v : State) : Prop where
  low : ∀ x, soleName x → x < 0x480000 → rd v x = rd s x
  pend : v.pend = []
  fw : v.boot.fw = false
  mods : v.boot.mods = []
  copies : v.boot.mgmt = [flag s 0x30000 26, !flag s 0x30000 26]
  mem : v.mem = s.mem
  sio : v.sio = s.sio
  tc : v.tc = s.tc
  ctxs : v.ctxs = s.ctxs
  chA : v.hut.chA = s.hut.chA
  chB : v.hut.chB = s.hut.chB

theorem mgmtReset_eq (cause ctr : Nat) (s : State) :
    ∃ v, mgmtReset cause ctr s = bump (setFlag (wrReg v 0x208 0) 0x204 cause true) ctr ∧ ControlCleared s v := by
  obtain ⟨g, hg⟩ := regSide_releaseMailboxes (abortImage s)
  have hlow : ∀ x, soleName x → x < 0x480000 → rd (releaseMailboxes (abortImage s)) x = rd s x := fun x hx h =>
    (rd_releaseMailboxes hx h _).trans (rd_of_regs (abortImage_regs s) x)
  unfold mgmtReset
  extract_lets s1 b _ _ _ _ s2
  have h1 : s1 = { abortImage s with regs := g } := hg
  have hl1 : ∀ x, soleName x → x < 0x480000 → rd s1 x = rd s x := hlow
  clear_value s1
  refine ⟨s2, rfl, fun x hx h => ?_, rfl, rfl, rfl, rfl, (congrArg State.mem h1).trans (abortImage_mem s),
    (congrArg State.sio h1).trans (abortImage_sio s), (congrArg State.tc h1).trans (abortImage_tc s),
    (congrArg State.ctxs h1).trans (abortImage_ctxs s), (congrArg (fun u : State => u.hut.chA) h1).trans (congrArg Hut.chA (abortImage_hut s)),
    (congrArg (fun u : State => u.hut.chB) h1).trans (congrArg Hut.chB (abortImage_hut s))⟩
  rw [← hl1 x hx h, rd, rd]
  have hf : tget? s2.regs (canonOff x) = if decide (canonOff x < 0x4C0000 ∨ 0x4C012B < canonOff x ∨ canonOff x % 0x100 = 0x28) = true
      then tget? s1.regs (canonOff x) else none :=
    tget?_filter_key (fun k => decide (k < 0x4C0000 ∨ 0x4C012B < k ∨ k % 0x100 = 0x28)) s1.regs (canonOff x)
  rw [hf, if_pos (by rw [canonOff_of_soleName hx]; exact decide_eq_true (.inl (by omega)))]

/-- Whatever resets the control complex leaves it reset, with its cause told and counted. -/
theorem managementWasReset {cause ctr : Nat} (hc : cause < 32) (h : soleName ctr) (hlow : ctr < 0x480000) (h208 : ctr ≠ 0x208) (h204 : ctr ≠ 0x204) (s : State) :
    ManagementWasReset s (mgmtReset cause ctr s) ∧ flag (mgmtReset cause ctr s) 0x204 cause = true ∧ rd (mgmtReset cause ctr s) ctr = rd s ctr + 1 ∧
      ∀ x, soleName x → x < 0x480000 → x ≠ 0x208 → x ≠ 0x204 → x ≠ ctr → rd (mgmtReset cause ctr s) x = rd s x := by
  obtain ⟨v, e, hl, hpend, hfw, hmods, hcopies, hmem, hsio, htc, hctxs, hA, hB⟩ := mgmtReset_eq cause ctr s
  have n208 : soleName 0x208 := .inl (by decide)
  have n204 : soleName 0x204 := .inl (by decide)
  rw [e]
  refine ⟨⟨hpend, hfw, hmods, hcopies, ?_, hmem, hsio, htc, hctxs, hA, hB⟩, ?_, ?_, fun x hx hxl h8 h4 hne => ?_⟩
  · rw [rd_bump_ne _ (canonOff_ne_of_soleName n208 h h208.symm), rd_setFlag_ne _ _ _ (by decide), rd_wrReg_same]
  · rw [flag_of_rd (rd_bump_ne _ (canonOff_ne_of_soleName n204 h h204.symm))]
    exact flag_setFlag_same _ _ hc _
  · rw [rd_bump, rd_setFlag_ne _ _ _ (canonOff_ne_of_soleName h n204 h204), rd_wrReg_ne _ _ _ _ (canonOff_ne_of_soleName h n208 h208), hl ctr h hlow]
  · rw [rd_bump_ne _ (canonOff_ne_of_soleName hx h hne), rd_setFlag_ne _ _ _ (canonOff_ne_of_soleName hx n204 h4),
      rd_wrReg_ne _ _ _ _ (canonOff_ne_of_soleName hx n208 h8), hl x hx hxl]

/-- The event that goes before a watchdog's reset changes nothing that the reset is told by. -/
theorem managementWasReset_of_hutEvent {code arg : Nat} {u : State} (h : ManagementWasReset (hutEvent code arg s) u) : ManagementWasReset s u := by
  obtain ⟨hpend, hfw, hmods, hcopies, h208, hmem, hsio, htc, hctxs, hA, hB⟩ := h
  rw [flag_of_rd (rd_hutEvent_ne s (.inl (by decide)) (by decide))] at hcopies
  exact ⟨hpend, hfw, hmods, hcopies, h208, hmem, hsio, htc, hctxs, hA, hB⟩

/-! ## Writes of GLB_RESET (R475, R480) -/

theorem resetWrite_nokey {w : Word} (h : w.toNat / 2 ^ 24 ≠ 0xA5) : resetWrite w s = s := if_pos h

theorem resetWrite_module {w : Word} (h : w.toNat / 2 ^ 24 = 0xA5) (h2 : w.getLsbD 2 = true) : resetWrite w s = moduleReset 2 s := by
  rw [resetWrite, if_neg (not_not.mpr h), if_pos h2]

theorem resetWrite_mgmt {w : Word} (h : w.toNat / 2 ^ 24 = 0xA5) (h2 : w.getLsbD 2 = false) (h1 : w.getLsbD 1 = true) : resetWrite w s = mgmtReset 3 0x21C s := by
  rw [resetWrite, if_neg (not_not.mpr h), if_neg (by rw [h2]; decide), if_pos h1]

/-! ## RESET_N (R475, R510) -/

theorem exec_resetNAssert_eq {t : Time} {ns : Nat} {held : Bool} (hv : s.bur.vaon = true) (hr : s.boot.resetN = false) :
    exec (.resetNAssert t ns held) s = .next
      (if ¬ (decide (1000 ≤ ns) || (decide (100 ≤ ns) && (draw (advance s t)).1.getLsbD 0)) = true
        then (if ns < 100 then advance s t else (draw (advance s t)).2)
        else { moduleReset 1 (advance { s with free := s.free + 1 } t) with
          boot := { (moduleReset 1 (advance { s with free := s.free + 1 } t)).boot with resetN := held } }) := by
  rw [exec_resetNAssert, execResetNAssert]
  refine congrArg Host.Outcome.next ?_
  rw [if_neg (by exact not_not.mpr hv), if_neg (by rw [show (advance s t).boot = s.boot from rfl, hr]; decide)]
  rfl

theorem moduleWasReset_withResetN {t : Time} {m : State} (h : ModuleWasReset s t m) (held : Bool) :
    ModuleWasReset s t { m with boot := { m.boot with resetN := held } } := h

theorem flag_withResetN (m : State) (held : Bool) (off i : Nat) : flag { m with boot := { m.boot with resetN := held } } off i = flag m off i := rfl

theorem moduleWasReset_of_free {t : Time} {m : State} {f : Nat} (h : ModuleWasReset { s with free := f } t m) : ModuleWasReset s t m := h

/-! ## The watchdog (R425, R477) -/

/-- The watchdog is due: since the last KICK, or since the reset where none has come. -/
def watchdogDue (s : State) : Bool := match s.hut.kickEpoch with
  | some k => decide (k + max 1 (fld s 0x20004 24 8) < epochOf s)
  | none => decide (s.svc.wdog + 2000 ≤ epochOf s)

theorem exec_watchdogExpire_eq (t : Time) (s : State) : exec (.watchdogExpire t) s =
    .next (if watchdogDue (advance s t) && railsUp s && !s.boot.resetN && decide (phase s ≠ 15) then mgmtReset 4 0x220 (hutEvent 0x060D 0 (advance s t)) else advance s t) := rfl

theorem watchdog_resets {t : Time} (hd : watchdogDue (advance s t) = true) (hup : railsUp s = true) (hr : s.boot.resetN = false) (hp : phase s ≠ 15) :
    ∃ u, exec (.watchdogExpire t) s = .next u ∧ ManagementWasReset s u ∧ flag u 0x204 4 = true ∧ rd u 0x220 = rd s 0x220 + 1 ∧ fld u 0x20000 0 16 = 0x060D := by
  obtain ⟨hm, hf, hn, hk⟩ := managementWasReset (cause := 4) (ctr := 0x220) (by decide) (.inl (by decide)) (by decide) (by decide) (by decide)
    (hutEvent 0x060D 0 (advance s t))
  refine ⟨_, (exec_watchdogExpire_eq t s).trans (congrArg Host.Outcome.next (if_pos (by simp [hd, hup, hr, hp]))), managementWasReset_of_hutEvent (arg := 0) hm, hf, ?_, ?_⟩
  · rw [hn, rd_hutEvent_ne _ (.inl (by decide)) (by decide)]
    rfl
  · rw [fld_of_rd (hk 0x20000 (.inl (by decide)) (by decide) (by decide) (by decide) (by decide)), fld_hutEvent _ _ (by decide)]

/-! ## Discarded commits (R472) -/

theorem stagedNow_discardGroups (s : State) (mask off : Nat) :
    stagedNow (discardGroups mask s) off = if (bitsSet mask 12).any (fun i => groupHas i (canonOff off)) then none else stagedNow s off := by
  have hf := tget?_filter_key (fun k => !(bitsSet mask 12).any (fun i => groupHas i k)) s.pend (canonOff off)
  have hp : tget [] (discardGroups mask s).pend (canonOff off) =
      if (bitsSet mask 12).any (fun i => groupHas i (canonOff off)) then [] else tget [] s.pend (canonOff off) := by
    rw [tget]
    refine (congrArg (Option.getD · []) hf).trans ?_
    cases (bitsSet mask 12).any (fun i => groupHas i (canonOff off)) <;> rfl
  rw [stagedNow, hp]
  split <;> rfl

theorem any_groups_iff (w : Word) (off : Nat) :
    (bitsSet w.toNat 12).any (fun i => groupHas i off) = true ↔ ∃ i, i < 12 ∧ w.getLsbD i = true ∧ groupHas i off = true := by
  simp [bitsSet, mem_rangeFrom, BitVec.testBit_toNat]

/-! ## Versions (R474) -/

theorem rangeFrom_add (a m n : Nat) : rangeFrom a (m + n) = rangeFrom a m ++ rangeFrom (a + m) n := by
  induction m generalizing a with
  | zero => simp [rangeFrom]
  | succ m ih =>
    rw [Nat.add_right_comm, rangeFrom, ih, rangeFrom, List.cons_append, Nat.add_right_comm a 1 m]
    rfl

/-- The last bit set is the highest one. -/
theorem getLast?_bitsSet {mask n v : Nat} (hv : v < n) (h : mask.testBit v = true) (hmax : ∀ k, v < k → k < n → mask.testBit k = false) :
    (bitsSet mask n).getLast? = some v := by
  obtain ⟨m, rfl⟩ := Nat.exists_eq_add_of_lt hv
  have hhi : (rangeFrom (v + 1) m).filter (fun i => mask.testBit i) = [] := by
    refine List.filter_eq_nil_iff.mpr fun k hk => ?_
    obtain ⟨h1, h2⟩ := (mem_rangeFrom _ _ _).mp hk
    rw [hmax k (by omega) (by omega)]
    decide
  rw [bitsSet, show v + m + 1 = v + (m + 1) by omega, rangeFrom_add, List.filter_append, Nat.zero_add, rangeFrom, List.filter_cons_of_pos (by exact h), hhi]
  simp

theorem commonVer_highest {a b v : Nat} (hv : v < 16) (ha : a.testBit v = true) (hb : b.testBit v = true)
    (hmax : ∀ k, v < k → k < 16 → a.testBit k = true → b.testBit k = false) : commonVer a b = v := by
  rw [commonVer, getLast?_bitsSet hv (by simp [ha, hb]) fun k h1 h2 => ?_, Option.getD_some]
  rw [Nat.testBit_and]
  cases hk : a.testBit k with
  | false => rfl
  | true => rw [hmax k h1 h2 hk]; rfl

theorem commonVer_none {a b : Nat} (h : ∀ k, k < 16 → a.testBit k = true → b.testBit k = false) : commonVer a b = 0 := by
  have hn : bitsSet (a &&& b) 16 = [] := by
    refine List.filter_eq_nil_iff.mpr fun k hk => ?_
    have h16 : k < 16 := ((mem_rangeFrom 16 0 k).mp hk).2
    rw [Nat.testBit_and]
    cases hak : a.testBit k with
    | false => simp
    | true => simp [h k h16 hak]
  rw [commonVer, hn]
  rfl

/-- Bit `k` of the versions that the host offers, and that the module supports. -/
theorem testBit_versions (w : Word) (s : State) {k : Nat} (hk : k < 16) :
    (w.toNat % 2 ^ 16).testBit k = w.getLsbD k ∧ (fld (wrReg s 0x240 (w &&& 0xFFFF)) 0x238 16 16).testBit k = flag s 0x238 (16 + k) := by
  refine ⟨by rw [Nat.testBit_mod_two_pow, decide_eq_true hk, Bool.true_and, BitVec.testBit_toNat], ?_⟩
  rw [fld_of_rd (rd_wrReg_ne s _ _ _ (by decide)), fld, fieldOf_toNat_testBit, flag]
  simp [hk]

/-- What a write of GLB_VER_HOST leaves, by the version agreed. -/
theorem verWrite_reads (w : Word) (s : State) :
    let v := commonVer (w.toNat % 2 ^ 16) (fld (wrReg s 0x240 (w &&& 0xFFFF)) 0x238 16 16)
    rd (verWrite w s) 0x240 = w &&& 0xFFFF ∧ fld (verWrite w s) 0x244 0 4 = v % 2 ^ 4 ∧ (v = 0 → fld (verWrite w s) 0x30000 0 16 = 0x0A0D) := by
  intro v
  have h240 : rd (setFld (wrReg s 0x240 (w &&& 0xFFFF)) 0x244 0 4 v) 0x240 = w &&& 0xFFFF := by
    rw [rd_setFld_ne _ _ _ _ _ _ (by decide), rd_wrReg_same]
  have h244 : fld (setFld (wrReg s 0x240 (w &&& 0xFFFF)) 0x244 0 4 v) 0x244 0 4 = v % 2 ^ 4 := fld_setFld_same _ _ _ _ _ (by decide)
  have e : verWrite w s = if v = 0 then bootErr 0x0A0D (setFld (wrReg s 0x240 (w &&& 0xFFFF)) 0x244 0 4 v) else setFld (wrReg s 0x240 (w &&& 0xFFFF)) 0x244 0 4 v := rfl
  rw [e]
  split
  · refine ⟨?_, ?_, fun _ => fld_bootErr (by decide) _⟩
    · rw [rd_bootErr_ne (.inl (by decide)) (by decide), h240]
    · rw [fld_of_rd (rd_bootErr_ne (.inl (by decide)) (by decide) _), h244]
  · next h => exact ⟨h240, h244, fun h0 => absurd h0 h⟩

/-- Settles O53: one lemma for each kind of reset, and the filters and bit sets of the rest. -/
theorem resetsDiscardsAndVersions : Obligations.ResetsDiscardsAndVersions := by
  refine ⟨fun t ag w s h => ⟨fun hk => ?_, fun hk h2 => ?_, fun hk h2 h1 => ?_⟩, fun t ns held s hv hr => ?_, fun t k s hkick => ⟨fun hlt hup hr hp => ?_, fun hle => ?_⟩,
    fun t s hkick hle hup hr hp => ?_, fun t ag w s h => ?_, fun t ag w s h => ?_⟩
  · rw [exec_moduleReset, execModuleReset, exec_managementReset, execManagementReset, onWrite_of_writeTakes _ h, resetWrite_nokey hk]
    exact ⟨rfl, rfl⟩
  · rw [exec_moduleReset, execModuleReset, onWrite_of_writeTakes _ h, resetWrite_module hk h2]
    exact ⟨_, rfl, moduleWasReset 2 (by decide) s⟩
  · rw [exec_managementReset, execManagementReset, onWrite_of_writeTakes _ h, resetWrite_mgmt hk h2 h1]
    obtain ⟨hm, hf, hn, -⟩ := managementWasReset (cause := 3) (ctr := 0x21C) (by decide) (.inl (by decide)) (by decide) (by decide) (by decide) (advance s t)
    exact ⟨_, rfl, hm, hf, hn⟩
  · rw [exec_resetNAssert_eq hv hr]
    obtain ⟨hm, hf⟩ := moduleWasReset 1 (by decide) { s with free := s.free + 1 } (t := t)
    replace hm := moduleWasReset_withResetN (moduleWasReset_of_free hm) held
    rw [← flag_withResetN _ held] at hf
    generalize moduleReset 1 (advance { s with free := s.free + 1 } t) = m at hm hf ⊢
    refine ⟨fun h => ?_, fun h => ?_, fun h1 h2 => ?_⟩
    · rw [if_neg (by simp [h])]
      exact ⟨_, rfl, hm, hf, rfl⟩
    · rw [if_pos (by simp; omega), if_pos h]
    · split
      · rw [if_neg (by omega)]
        exact ⟨_, rfl, .inr rfl⟩
      · exact ⟨_, rfl, .inl hm⟩
  · exact watchdog_resets (by simp only [watchdogDue, show (advance s t).hut = s.hut from rfl, hkick]; exact decide_eq_true hlt) hup hr hp
  · have hd : watchdogDue (advance s t) = false := by
      simp only [watchdogDue, show (advance s t).hut = s.hut from rfl, hkick]
      exact decide_eq_false (Nat.not_lt.mpr hle)
    rw [exec_watchdogExpire_eq, hd]
    rfl
  · obtain ⟨u, hu, hm, hf, -⟩ := watchdog_resets (s := s) (t := t)
      (by simp only [watchdogDue, show (advance s t).hut = s.hut from rfl, hkick]; exact decide_eq_true hle) hup hr hp
    exact ⟨u, hu, hm, hf⟩
  · rw [exec_commitDiscard, execCommitDiscard, onWrite_of_writeTakes _ h]
    refine ⟨_, rfl, rfl, rfl, fun off hoff => ⟨fun hin => ?_, fun hout => ?_⟩⟩
    · rw [stagedNow_discardGroups, hoff, if_pos ((any_groups_iff w off).mpr hin)]
    · rw [stagedNow_discardGroups, hoff, if_neg fun hany => ?_]
      · rfl
      · obtain ⟨i, hi, hw, hg⟩ := (any_groups_iff w off).mp hany
        rw [hout i hi hw] at hg
        cases hg
  · rw [exec_verHostWrite, execVerHostWrite, onWrite_of_writeTakes _ h]
    obtain ⟨h240, h244, herr⟩ := verWrite_reads w (advance s t)
    refine ⟨_, rfl, h240, fun v hv hw hs hmax => ?_, fun hnone => ?_⟩
    · rw [h244, commonVer_highest hv ((testBit_versions w (advance s t) hv).1.trans hw) ((testBit_versions w (advance s t) hv).2.trans hs) fun k h1 h2 hk => ?_]
      · exact Nat.mod_eq_of_lt hv
      rw [(testBit_versions w (advance s t) h2).1] at hk
      exact (testBit_versions w (advance s t) h2).2.trans (hmax k h1 h2 hk)
    · have h0 := commonVer_none fun k hk hw => (testBit_versions w (advance s t) hk).2.trans (hnone k hk ((testBit_versions w s hk).1.symm.trans hw))
      exact ⟨by rw [h244, h0]; rfl, herr h0⟩

end Sys2Proof.Proofs
end

section
/-!
Supplies: power-on, power-down, the rail sequence, STANDBY (R403, R437, R438, R444, R450, R451, R475, R511).
-/
namespace Sys2Proof.Proofs
open Sys2Proof Sys2Proof.Machine Sys2Proof.Safety Sys2Proof.Laws
variable {s : State}

/-! ## Power-down (R438) -/

theorem burShow_keeps (s : State) : (burShow s).bur = s.bur ∧ (burShow s).mem = s.mem ∧ (burShow s).sio = s.sio ∧ (burShow s).clk = s.clk := by
  obtain ⟨r, h⟩ := regSide_burShow s
  rw [h]
  exact ⟨rfl, rfl, rfl, rfl⟩

theorem latched_tripAll (s : State) {g : Nat} (hg : g < 8) (c : Chan) : (latOf (hutchStop (rangeFrom 0 8) s) g c).isSome = true :=
  latched_hutchStop (mem_allGroups hg) s c

/-- A power-down trips every group before it removes the rails, and nothing after clears a latch. -/
theorem latched_powerDown (s : State) {g : Nat} (hg : g < 8) (c : Chan) : (latOf (powerDown s) g c).isSome = true := by
  unfold powerDown
  extract_lets s1 s2 _ b _ _ s3
  have h1 : (latOf s1 g c).isSome = true := latched_tripAll s hg c
  clear_value s1
  have h2 : Latched false s1 s2 := .holdStart ((Latched.refl false s1).beside fun f => .clearMain (f.withMem rfl fun _ => rfl) rfl)
  clear_value s2
  have h3 : Latched false s1 s3 := h2.beside fun f => .burShow (f.alike (by rfl))
  exact ((h3.setFld).latch g c h1).resolve_right fun ⟨h, _⟩ => by cases h

/-- What `holdStart` leaves alone. -/
theorem holdStart_parts (s : State) : (holdStart s).bur = s.bur ∧ (holdStart s).mem = s.mem ∧ (holdStart s).clk = s.clk := by
  unfold holdStart
  extract_lets s1
  have h : s1.bur = s.bur ∧ s1.mem = s.mem ∧ s1.clk = s.clk := by
    unfold s1
    split
    · exact ⟨rfl, rfl, rfl⟩
    · exact ⟨tripGroups_bur .., tripGroups_mem .., tripGroups_clk ..⟩
  exact h

/-- What a power-down leaves of the supplies, of memory and of the counter. -/
structure PoweredDown (s u : State) : Prop where
  seq : u.bur.seq = 0
  vin : u.bur.vin = s.bur.vin
  wake : railsUp s = true → u.bur.wake = wakePort s
  mem : u.mem = []
  clk : u.clk.tb = s.clk.tb

@[simp] theorem hutchStop_bur (gs : List Nat) : (hutchStop gs s).bur = s.bur := tripGroups_bur ..

/-- The state `u`, in which every group has tripped, with the main rails removed. -/
def railsRemoved (u : State) : State := holdStart (clearMain true false { u with mem := [] })

theorem railsRemoved_keeps (u : State) : (railsRemoved u).bur = u.bur ∧ (railsRemoved u).mem = [] ∧ (railsRemoved u).clk.tb = u.clk.tb := by
  obtain ⟨htb, -, hbur, -, -, -, hmem⟩ := mainCleared true false { u with mem := [] }
  obtain ⟨hb, hm, hc⟩ := holdStart_parts (clearMain true false { u with mem := [] })
  exact ⟨hb.trans hbur, hm.trans (hmem rfl), (congrArg Clk.tb hc).trans htb⟩

/-- The supplies after a power-down of `s`, which left the other fields as `b` has them. -/
def downBur (s : State) (b : Bur) : Bur :=
  { b with seq := 0, gated := [], holds := [], request := none, wake := if railsUp s then wakePort s else b.wake, ladder := [], cap := [], ladHold := [], capHold := [] }

/-- A power-down of `s` from the state `v` in which the rails are removed. -/
def powerDownFrom (s v : State) : State :=
  setFld (burShow { v with bur := downBur s v.bur, hut := { v.hut with kickEpoch := none }, boot := { v.boot with zero := true } }) 0x10000 30 2
    (if s.bur.standby then 2 else 0)

theorem powerDown_eq (s : State) : powerDown s = powerDownFrom s (railsRemoved (hutchStop (rangeFrom 0 8) s)) := by
  unfold powerDown powerDownFrom railsRemoved downBur
  rfl

theorem powerDownFrom_keeps (s v : State) : (powerDownFrom s v).bur = downBur s v.bur ∧ (powerDownFrom s v).mem = v.mem ∧ (powerDownFrom s v).clk = v.clk := by
  obtain ⟨hb, hm, -, hc⟩ := burShow_keeps
    { v with bur := downBur s v.bur, hut := { v.hut with kickEpoch := none }, boot := { v.boot with zero := true } }
  rw [powerDownFrom, setFld_bur, setFld_mem, setFld_clk]
  exact ⟨hb, hm, hc⟩

/-- What WAKE_PORT keeps is in the registers alone. -/
theorem wakePort_of_regs {s u : State} (h : u.regs = s.regs) : wakePort u = wakePort s := by
  obtain ⟨⟩ := s
  obtain ⟨⟩ := u
  dsimp only at h
  subst h
  rfl

theorem poweredDown (s : State) : PoweredDown s (powerDown s) := by
  obtain ⟨hb, hm, hc⟩ := powerDownFrom_keeps s (railsRemoved (hutchStop (rangeFrom 0 8) s))
  obtain ⟨hbur, hmem, hclk⟩ := railsRemoved_keeps (hutchStop (rangeFrom 0 8) s)
  rw [hbur, hutchStop_bur] at hb
  rw [hmem] at hm
  rw [hutchStop_clk] at hclk
  rw [powerDown_eq]
  generalize railsRemoved _ = v at *
  refine ⟨?_, ?_, fun h => ?_, hm, (congrArg Clk.tb hc).trans hclk⟩
  · rw [hb]; rfl
  · rw [hb]; rfl
  · rw [hb]; exact if_pos h

/-- A rail fault of which `u` is the power-down: it latches and is recorded (R438). -/
def faultLatched (r : Nat) (st : Word) (u : State) : State :=
  wrReg (burStatus { u with bur := { u.bur with latched := true } } 6 true) 0x10034 (BitVec.ofNat 32 (st.toNat % 2 ^ 16 * 2 ^ 16 + r))

theorem faultLatched_grps (r : Nat) (st : Word) (u : State) : (faultLatched r st u).sio.grps = u.sio.grps := rfl

theorem faultLatched_records (r : Nat) (st : Word) (u : State) : (faultLatched r st u).bur.latched = true ∧ (faultLatched r st u).bur.seq = u.bur.seq ∧
    (faultLatched r st u).mem = u.mem ∧ flag (faultLatched r st u) 0x10000 6 = true ∧
    rd (faultLatched r st u) 0x10034 = BitVec.ofNat 32 (st.toNat % 2 ^ 16 * 2 ^ 16 + r) := by
  refine ⟨rfl, rfl, rfl, ?_, rd_wrReg_same _ _ _⟩
  rw [faultLatched, flag_of_rd (rd_wrReg_ne _ _ _ _ (by decide))]
  exact flag_setFlag_same _ _ (by decide) _

/-- What a rail fault leaves (R438). -/
theorem railFault_recorded (r : Nat) (st : Word) (s : State) : let u := faultLatched r st (powerDown s)
    u.bur.latched = true ∧ u.bur.seq = 0 ∧ u.mem = [] ∧ flag u 0x10000 6 = true ∧ rd u 0x10034 = BitVec.ofNat 32 (st.toNat % 2 ^ 16 * 2 ^ 16 + r) ∧
      ∀ g, g < 8 → ∀ c, (latOf u g c).isSome = true := by
  obtain ⟨hseq, -, -, hmem, -⟩ := poweredDown s
  obtain ⟨h1, h2, h3, h4, h5⟩ := faultLatched_records r st (powerDown s)
  refine ⟨h1, h2.trans hseq, h3.trans hmem, h4, h5, fun g hg c => ?_⟩
  rw [latOf_of_grps (faultLatched_grps r st (powerDown s))]
  exact latched_powerDown s hg c

/-- The state in which the 12 V input is noted as lost. -/
def vinLost (s : State) (t : Time) : State := { advance s t with bur := { s.bur with vin := false } }

theorem exec_powerDown_vin {t : Time} (hv : s.bur.vaon = true) (hi : s.bur.vin = true) :
    exec (.powerDown t .vin) s = .next (powerDown (vinLost s t)) := by
  rw [exec_powerDown, execPowerDown]
  refine congrArg Host.Outcome.next ?_
  rw [if_neg (by exact not_not.mpr hv)]
  exact if_neg (not_not.mpr hi)

theorem exec_powerDown_rail {t : Time} {r : Fin 12} {st : Word} (hv : s.bur.vaon = true) :
    exec (.powerDown t (.rail r st)) s = .next (faultLatched r st (powerDown (advance s t))) := by
  rw [exec_powerDown, execPowerDown]
  exact congrArg Host.Outcome.next (if_neg (not_not.mpr hv))

/-! ## Power-on (R437, R475) -/

theorem powerOn_regs (on vin : Bool) (s : State) {x : Nat} (h : x < 0x100000) : rd (powerOn on vin s) x = regReset x := by
  have hf := tget?_filter_key (fun k => decide (0x100000 ≤ k) && decide (k < 0x200000)) (clearMain false false { s with mem := [] }).regs x
  rw [if_neg (by simp; omega)] at hf
  rw [rd, canonOff_of_lt h]
  exact (congrArg (Option.getD · (regReset x)) hf).trans rfl

theorem freshlyPowered (on vin : Bool) (w : Word) (t : Time) (s : State) :
    FreshlyPowered s (wrReg (powerOn on vin (advance s t)) 0x30004 w) ∧ (wrReg (powerOn on vin (advance s t)) 0x30004 w).bur.vaon = on ∧
      (wrReg (powerOn on vin (advance s t)) 0x30004 w).bur.vin = vin := by
  obtain ⟨-, hpend, -, -, -, hflash, hmem⟩ := mainCleared false false { advance s t with mem := [] }
  have hboot : rd (wrReg (powerOn on vin (advance s t)) 0x30004 w) 0x30000 = regReset 0x30000 := by
    rw [rd_wrReg_ne _ _ _ _ (by decide), powerOn_regs _ _ _ (by decide)]
  obtain ⟨hphase, hlock⟩ := phase_of_bootStatus hboot
  exact ⟨⟨rfl, hmem rfl, hpend, hphase, hlock, rfl, allSafe_of_reset rfl, hflash⟩, rfl, rfl⟩

/-! ## The rail sequence (R437) -/

/-- The state in which the rails of the next step report power good, before the set points follow. -/
def steppedRails (s : State) : State :=
  let s1 : State := { s with bur := { s.bur with seq := s.bur.seq + 1 } }
  let s2 : State := if s.bur.seq + 1 = 4 then { s1 with tc := stoppedCores s1.cl true } else s1
  if s.bur.seq + 1 = 8 then { s2 with boot := { s2.boot with from_ := s.clk.tb }, svc := { s2.svc with wdog := epochOf s } } else s2

theorem steppedRails_keeps (s : State) : (steppedRails s).bur.seq = s.bur.seq + 1 ∧ (steppedRails s).mem = s.mem ∧ (steppedRails s).sio = s.sio := by
  unfold steppedRails
  extract_lets _ s1 s2
  have h2 : s2.bur.seq = s.bur.seq + 1 ∧ s2.mem = s.mem ∧ s2.sio = s.sio := by
    unfold s2
    split <;> exact ⟨rfl, rfl, rfl⟩
  clear_value s2
  split <;> exact h2

theorem railSequence (t : Time) (r : Fin 12) (w : Word) (hv : s.bur.vaon = true) (hi : s.bur.vin = true) (hs : s.bur.standby = false) (hn : s.bur.seq < 8)
    (hl : s.bur.latched = false) :
    (∃ u, exec (.railSequenceStep t true r w) s = .next u ∧ u.bur.seq = s.bur.seq + 1 ∧ u.mem = s.mem ∧ u.sio = s.sio) ∧
    ((stepRails (s.bur.seq + 1)).contains r.val = true → exec (.railSequenceStep t false r w) s = .next (faultLatched r w (powerDown (advance s t)))) := by
  have hgo : (s.bur.vaon && s.bur.vin && !s.bur.latched && !s.bur.standby && decide (s.bur.seq + 1 ≤ 8)) = true := by
    simp [hv, hi, hs, hl]; omega
  refine ⟨?_, fun hr => ?_⟩
  · have e : exec (.railSequenceStep t true r w) s = .next (burShow (steppedRails (advance s t))) := by
      rw [exec_railSequenceStep, execRailSequenceStep]
      refine congrArg Host.Outcome.next ?_
      exact (if_neg (not_not.mpr hgo)).trans (if_neg (by decide))
    obtain ⟨hseq, hmem, hsio⟩ := steppedRails_keeps (advance s t)
    obtain ⟨hb, hm, hi, -⟩ := burShow_keeps (steppedRails (advance s t))
    exact ⟨_, e, (congrArg Bur.seq hb).trans hseq, hm.trans hmem, hi.trans hsio⟩
  · rw [exec_railSequenceStep, execRailSequenceStep]
    refine congrArg Host.Outcome.next ?_
    exact (if_neg (not_not.mpr hgo)).trans ((if_pos (by decide)).trans (if_neg (not_not.mpr hr)))

theorem railSequence_latched (t : Time) (ok : Bool) (r : Fin 12) (w : Word) (hl : s.bur.latched = true) :
    exec (.railSequenceStep t ok r w) s = .next (advance s t) := by
  rw [exec_railSequenceStep, execRailSequenceStep]
  refine congrArg Host.Outcome.next (if_pos ?_)
  rw [show (advance s t).bur = s.bur from rfl, hl]
  simp

/-! ## STANDBY (R450, R451) -/

theorem standbyWrite_asks (w : Word) (s : State) : (standbyWrite w s).regs = s.regs ∧ (standbyWrite w s).mem = s.mem ∧ stagedNow (standbyWrite w s) 0x10004 = some w ∧
    (w.getLsbD 31 = true → (standbyWrite w s).bur.request = some s.clk.tb) ∧ (w.getLsbD 31 = false → (standbyWrite w s).bur = s.bur) := by
  have hst : stagedNow (stage s 0x10004 w) 0x10004 = some w := stagedNow_stage ..
  unfold standbyWrite
  cases hw : w.getLsbD 31 with
  | true => exact ⟨rfl, rfl, hst, fun _ => rfl, fun h => by cases h⟩
  | false => exact ⟨rfl, rfl, hst, fun h => by (cases h), fun _ => rfl⟩

theorem standbyExit_leaves (s : State) : (standbyExit s).bur.standby = false ∧ fld (standbyExit s) 0x10000 30 2 = 0 ∧ flag (standbyExit s) 0x204 5 = true := by
  refine ⟨rfl, ?_, flag_setFlag_same _ _ (by decide) _⟩
  rw [standbyExit, fld_of_rd (rd_setFlag_ne _ _ _ (by decide)), fld_setFld_same _ _ _ _ _ (by decide), Nat.zero_mod]

/-- Settles O50: a lemma for each supply event; what follows a power-down is `poweredDown` and `latched_powerDown`. -/
theorem suppliesComeAndGo : Obligations.SuppliesComeAndGo := by
  refine ⟨fun t vin s => ?_, fun t s => ?_, fun t r w s hv hi hs hn => ⟨fun hl => ?_, fun hl ok => railSequence_latched t ok r w hl⟩, fun t s hv hi => ?_,
    fun t r st s hv => ⟨_, exec_powerDown_rail hv, ?_⟩, fun t s hv => ⟨_, ?_, rfl⟩, fun t ag w s h => ?_, fun t p s hs hf => ?_, fun t s hs hf => ?_⟩
  · obtain ⟨h, hon, hvin⟩ := freshlyPowered true vin (rd s 0x30004 &&& BitVec.ofNat 32 (fieldMask 16 7)) t s
    exact ⟨_, rfl, hon, hvin, h⟩
  · obtain ⟨h, hon, -⟩ := freshlyPowered false false (rd s 0x30004 &&& BitVec.ofNat 32 (fieldMask 16 7)) t s
    exact ⟨_, rfl, hon, h⟩
  · obtain ⟨hok, hbad⟩ := railSequence t r w hv hi hs hn hl
    refine ⟨hok, fun hr => ⟨_, hbad hr, ?_⟩⟩
    obtain ⟨h1, h2, -, h3, h4, h5⟩ := railFault_recorded r w (advance s t)
    exact ⟨h2, h1, h3, h4, h5⟩
  · obtain ⟨hseq, hvin, hwake, hmem, htb⟩ := poweredDown (vinLost s t)
    exact ⟨_, exec_powerDown_vin hv hi, hvin.trans rfl, hseq, fun hup => (hwake hup).trans (wakePort_of_regs rfl), hmem, htb.trans rfl,
      fun g hg c => latched_powerDown (vinLost s t) hg c⟩
  · obtain ⟨h1, h2, h3, h4, h5, h6⟩ := railFault_recorded r st (advance s t)
    exact ⟨h1, h2, h3, h4, h5, h6⟩
  · rw [exec_vinRestore, execVinRestore]
    exact congrArg Host.Outcome.next (if_pos hv)
  · rw [exec_standbyRequest, execStandbyRequest, onWrite_of_writeTakes _ h]
    obtain ⟨h1, h2, h3, h4, h5⟩ := standbyWrite_asks w (advance s t)
    exact ⟨_, rfl, h1, h2, h3, h4, h5⟩
  · have e : exec (.wakeMagicPacket t p) s = .next (if s.bur.standby && flag s 0x10010 31 && decide (fld s 0x10010 0 3 = p.port.val) &&
        decide (s.bur.wake.map WakePort.mac = some p.mac) then standbyExit (advance s t) else advance s t) := rfl
    refine ⟨fun hp hm => ⟨_, ?_, standbyExit_leaves (advance s t)⟩, fun h => ?_⟩
    · rw [e, if_pos (by simp [hs, hf, hp, hm])]
    · rw [e, if_neg (by rcases h with h | h <;> simp [h])]
  · have e : exec (.wakeAlarm t) s = .next (if s.bur.standby && flag s 0x10010 30 && decide (val64 s 0x10014 0x10018 ≤ max s.clk.tb t) then
        standbyExit (advance s t) else advance s t) := rfl
    obtain ⟨h1, -, h3⟩ := standbyExit_leaves (advance s t)
    refine ⟨fun h => ⟨_, ?_, h1, h3⟩, fun h => ?_⟩
    · rw [e, if_pos (by rw [hs, hf, decide_eq_true h]; rfl)]
    · rw [e, if_neg (by rw [decide_eq_false (Nat.not_le.mpr h)]; simp)]

end Sys2Proof.Proofs
end

section
/-!
Sensors, the thermal ladder, the power cap, holds and core power-up (R439, R442 to R447, R455).
-/
namespace Sys2Proof.Proofs
open Sys2Proof Sys2Proof.Machine Sys2Proof.Safety Sys2Proof.Laws
variable {s : State}

/-! ## Repeated steps over a list in which one element comes once -/

/-- Before an element and after it a fold works on the others alone. -/
theorem foldl_around {f : State → Nat → State} {P Q : State → Prop} {l : List Nat} {k : Nat} (hk : k ∈ l) (hl : l.Nodup)
    (before : ∀ u i, i ∈ l → i ≠ k → P u → P (f u i)) (here : ∀ u, P u → Q (f u k)) (after : ∀ u i, i ∈ l → i ≠ k → Q u → Q (f u i)) (hs : P s) :
    Q (l.foldl f s) := by
  obtain ⟨a, b, rfl⟩ := List.append_of_mem hk
  have hka : k ∉ a := fun h => (List.nodup_append.mp hl).2.2 k h k (List.mem_cons_self ..) rfl
  have hkb : k ∉ b := (List.nodup_cons.mp (List.nodup_append.mp hl).2.1).1
  have hP : P (a.foldl f s) :=
    List.foldlRecOn (motive := P) a f hs fun u hu i hi => before u i (List.mem_append_left _ hi) (fun e => hka (e ▸ hi)) hu
  rw [List.foldl_append, List.foldl_cons]
  exact List.foldlRecOn (motive := Q) b f (here _ hP) fun u hu i hi =>
    after u i (List.mem_append_right _ (List.mem_cons_of_mem _ hi)) (fun e => hkb (e ▸ hi)) hu

/-! ## Floors (R443) -/

/-- What watching the floors leaves alone: all but the breaches under way, their count and their status bit. -/
structure Floored (s u : State) : Prop where
  shape : ∃ r x, u = { s with regs := r, bur := { s.bur with breach := x } }
  regs : ∀ x, soleName x → x ≠ 0x10000 → x ≠ 0x10020 → rd u x = rd s x

theorem Floored.refl (s : State) : Floored s s := ⟨⟨_, _, rfl⟩, fun _ _ _ _ => rfl⟩

theorem Floored.trans {a b c : State} (h : Floored a b) (k : Floored b c) : Floored a c := by
  obtain ⟨⟨r, x, hb⟩, h⟩ := h
  obtain ⟨⟨r', x', hc⟩, k⟩ := k
  refine ⟨⟨r', x', ?_⟩, fun o ho h0 h20 => (k o ho h0 h20).trans (h o ho h0 h20)⟩
  rw [hc, hb]

theorem floored_breach (s : State) (x : Tab (Option Time)) : Floored s { s with bur := { s.bur with breach := x } } :=
  ⟨⟨_, _, rfl⟩, fun _ _ _ _ => rfl⟩

theorem floored_start (s : State) : Floored s (burStatus (bump s 0x10020) 4 true) := by
  refine ⟨⟨_, _, rfl⟩, fun x hx h0 h20 => ?_⟩
  rw [rd_burStatus hx h0, rd_bump_ne _ (canonOff_ne_of_soleName hx (.inl (by decide)) h20)]

theorem floored_floorOne (s : State) (p : Nat) : Floored s (floorOne s p) := by
  unfold floorOne
  extract_lets _ put start
  have hput : ∀ v, Floored s (put v) := fun v => floored_breach s _
  have hstart : ∀ v, Floored s (start (put v)) := fun v => (hput v).trans (floored_start _)
  split
  · exact hstart none
  · exact .refl s
  · split
    · exact hstart none
    · exact hput none
  · exact .refl s
  · exact hput _
  · split
    · exact floored_breach s _
    · exact .refl s

theorem floored_floorCheck (s : State) : Floored s (floorCheck s) :=
  List.foldlRecOn (motive := fun (u : State) => Floored s u) _ _ (.refl s) fun u hu p _ => hu.trans (floored_floorOne u p)

theorem Floored.mem {u : State} (h : Floored s u) : u.mem = s.mem := by obtain ⟨⟨r, x, e⟩, -⟩ := h; rw [e]
theorem Floored.seq {u : State} (h : Floored s u) : u.bur.seq = s.bur.seq := by obtain ⟨⟨r, x, e⟩, -⟩ := h; rw [e]
theorem Floored.ladMs {u : State} (h : Floored s u) : u.bur.ladMs = s.bur.ladMs := by obtain ⟨⟨r, x, e⟩, -⟩ := h; rw [e]
theorem Floored.capAt {u : State} (h : Floored s u) : u.bur.capAt = s.bur.capAt := by obtain ⟨⟨r, x, e⟩, -⟩ := h; rw [e]
theorem Floored.ladder {u : State} (h : Floored s u) : u.bur.ladder = s.bur.ladder := by obtain ⟨⟨r, x, e⟩, -⟩ := h; rw [e]
theorem Floored.cap {u : State} (h : Floored s u) : u.bur.cap = s.bur.cap := by obtain ⟨⟨r, x, e⟩, -⟩ := h; rw [e]

/-! ## Set points (R435) -/

/-- What a set point depends on. -/
theorem setPoint_congr {u : State} {r : Nat} (h : rd u (railReg r 0) = rd s (railReg r 0)) (hl : tget? u.bur.ladder r = tget? s.bur.ladder r)
    (hc : tget? u.bur.cap r = tget? s.bur.cap r) : setPoint u r = setPoint s r := by
  simp only [setPoint, vtarget, fld_of_rd h, tget, hl, hc]

theorem setPoint_le (s : State) (r : Nat) : setPoint s r ≤ 850 := by
  have h := (clampNat_within 600 850 (min (vtarget s r) (min (tget 850 s.bur.ladder r) (tget 850 s.bur.cap r))) (by decide)).2
  unfold setPoint
  dsimp only
  omega

theorem railReg_ne {q r o p : Nat} (ho : o < 0x10) (hp : p < 0x10) (h : q ≠ r ∨ o ≠ p) : railReg q o ≠ railReg r p := by
  unfold railReg
  omega

/-- VSET of a rail once it is shown. -/
theorem fld_showRails {r : Nat} (hr : r < 4) (hs : coreOn s = true) : fld (showRails s) (railReg r 4) 0 16 = setPoint s r := by
  refine foldl_around (s := s) (P := fun u => u.bur = s.bur ∧ rd u (railReg r 0) = rd s (railReg r 0)) (Q := fun u => fld u (railReg r 4) 0 16 = setPoint s r)
    ((mem_rangeFrom 4 0 r).mpr ⟨Nat.zero_le r, hr⟩) (nodup_rangeFrom 0 4) (fun u i hi _ hu => ?_) (fun u hu => ?_) (fun u i hi hne hu => ?_) ⟨rfl, rfl⟩
  · have h4 : i < 4 := ((mem_rangeFrom 4 0 i).mp hi).2
    refine ⟨hu.1, ?_⟩
    rw [rd_setFld_of_soleName u _ _ _ (soleName_railReg hr (by decide)) (soleName_railReg h4 (by decide)) (railReg_ne (by decide) (by decide) (.inr (by decide)))]
    exact hu.2
  · obtain ⟨hb, hv⟩ := hu
    have hon : coreOn u = true := by rw [coreOn, hb]; exact hs
    have hsp : setPoint u r = setPoint s r := setPoint_congr hv (by rw [hb]) (by rw [hb])
    have hle := setPoint_le s r
    rw [fld_setFld_same _ _ _ _ _ (by decide), if_pos hon, hsp, Nat.mod_eq_of_lt (by omega)]
  · have h4 : i < 4 := ((mem_rangeFrom 4 0 i).mp hi).2
    rw [fld_of_rd (rd_setFld_of_soleName u _ _ _ (soleName_railReg hr (by decide)) (soleName_railReg h4 (by decide))
      (railReg_ne (by decide) (by decide) (.inl hne.symm)))]
    exact hu

/-- VSET shows the set points after `burShow`. -/
theorem fld_burShow {r : Nat} (hr : r < 4) (hs : coreOn s = true) : fld (burShow s) (railReg r 4) 0 16 = setPoint (burShow s) r := by
  have hx : soleName (railReg r 4) := soleName_railReg hr (by decide)
  have h0 : railReg r 4 ≠ 0x10000 := by unfold railReg; omega
  have hsp : setPoint (burShow s) r = setPoint s r := by
    refine setPoint_congr (rd_burShow (soleName_railReg hr (by decide)) (by unfold burShown railReg; omega) s) ?_ ?_ <;> rw [(burShow_keeps s).1]
  obtain ⟨a, b, e⟩ := burShow_eq s
  rw [hsp, e, fld_of_rd (rd_burStatus hx h0 _ _ _), fld_of_rd (rd_burStatus hx h0 _ _ _),
    fld_of_rd (rd_showHolds hx (fun c hc => by unfold railReg bclReg; omega) _), fld_showRails hr hs]

/-- VSET still shows the set points when the floors have been watched. -/
theorem fld_shown {r : Nat} (hr : r < 4) (hs : coreOn s = true) : fld (floorCheck (burShow s)) (railReg r 4) 0 16 = setPoint (floorCheck (burShow s)) r := by
  have h := floored_floorCheck (burShow s)
  have hreg : ∀ o, o < 0x10 → rd (floorCheck (burShow s)) (railReg r o) = rd (burShow s) (railReg r o) := fun o ho =>
    h.regs _ (soleName_railReg hr ho) (by unfold railReg; omega) (by unfold railReg; omega)
  rw [fld_of_rd (hreg 4 (by decide)), fld_burShow hr hs, setPoint_congr (hreg 0 (by decide)) (by rw [h.ladder]) (by rw [h.cap])]

/-- A register that neither the set points and holds shown nor the floors touch. -/
theorem rd_shown {x : Nat} (hx : soleName x) (h : ¬ burShown x) (h20 : x ≠ 0x10020) (s : State) : rd (floorCheck (burShow s)) x = rd s x :=
  ((floored_floorCheck (burShow s)).regs x hx (fun e => h (.inl e)) h20).trans (rd_burShow hx h s)

end Sys2Proof.Proofs
end

section
/-!
The thermal ladder and the power cap (R442, R446).
-/
namespace Sys2Proof.Proofs
open Sys2Proof Sys2Proof.Machine Sys2Proof.Safety Sys2Proof.Laws
variable {s : State}

/-! ## One rail of the ladder (R442) -/

/-- What a step of the ladder may change: registers, its set points and its holds. -/
def Laddered (s u : State) : Prop := ∃ r l h, u = { s with regs := r, bur := { s.bur with ladder := l, ladHold := h } }

theorem Laddered.trans {a b c : State} (h : Laddered a b) (k : Laddered b c) : Laddered a c := by
  obtain ⟨r, l, h, rfl⟩ := h
  obtain ⟨r', l', h', rfl⟩ := k
  exact ⟨r', l', h', rfl⟩

/-- The registers of the ladder apart from the step counts: HOT and the count of its beginnings. -/
def ladderReg (x : Nat) : Prop := x = 0x10000 ∨ x = 0x10028

/-- What a step of rail `q` leaves of every other rail. -/
structure OtherRail (q : Nat) (s u : State) : Prop where
  shape : Laddered s u
  regs : ∀ x, soleName x → ¬ ladderReg x → x ≠ railReg q 8 → rd u x = rd s x
  ladder : ∀ r, r ≠ q → tget? u.bur.ladder r = tget? s.bur.ladder r

theorem tget?_setLadder_ne (s : State) {r q : Nat} (v : Nat) (h : r ≠ q) : tget? (setLadder s q v).bur.ladder r = tget? s.bur.ladder r := by
  unfold setLadder
  dsimp only
  split
  · exact tget?_tdel_ne _ _ _ h
  · exact tget?_tset_ne _ _ _ _ h

theorem otherRail_refl (q : Nat) (s : State) : OtherRail q s s := ⟨⟨_, _, _, rfl⟩, fun _ _ _ _ => rfl, fun _ _ => rfl⟩

theorem otherRail_setLadder (s : State) (q v : Nat) : OtherRail q s (setLadder s q v) :=
  ⟨⟨_, _, _, rfl⟩, fun _ _ _ _ => rfl, fun _ h => tget?_setLadder_ne s v h⟩

theorem otherRail_holds (s : State) (q : Nat) (h : Tab Nat) : OtherRail q s { s with bur := { s.bur with ladHold := h } } :=
  ⟨⟨_, _, _, rfl⟩, fun _ _ _ _ => rfl, fun _ _ => rfl⟩

/-- A step counted. -/
theorem otherRail_count {q : Nat} (hq : q < 4) (s : State) (v : Nat) : OtherRail q s (bump (setLadder s q v) (railReg q 8)) := by
  refine ⟨⟨_, _, _, rfl⟩, fun x hx _ h => ?_, fun r h => tget?_setLadder_ne s v h⟩
  rw [rd_bump_ne _ (canonOff_ne_of_soleName hx (soleName_railReg hq (by decide)) h)]
  rfl

theorem rd_count {q : Nat} (s : State) (v : Nat) : rd (bump (setLadder s q v) (railReg q 8)) (railReg q 8) = rd s (railReg q 8) + 1 := by
  rw [rd_bump]
  rfl

/-- The ladder begins with a step of `v`: HOT is set and counted where it was clear. -/
def hotStart (v u : State) : State := if flag v 0x10000 1 then u else burStatus (bump u 0x10028) 1 true

theorem rd_hotStart {x : Nat} (hx : soleName x) (h : ¬ ladderReg x) (v u : State) : rd (hotStart v u) x = rd u x := by
  unfold hotStart
  split
  · rfl
  · rw [rd_burStatus hx (fun e => h (.inl e)), rd_bump_ne _ (canonOff_ne_of_soleName hx (.inl (by decide)) fun e => h (.inr e))]

theorem hotStart_shape (v u : State) : ∃ r, hotStart v u = { u with regs := r } := by
  unfold hotStart
  split <;> exact ⟨_, rfl⟩

theorem otherRail_throttle {q : Nat} (hq : q < 4) (s : State) (v : Nat) : OtherRail q s (hotStart s (bump (setLadder s q v) (railReg q 8))) := by
  obtain ⟨⟨r, l, h, e⟩, hregs, hlad⟩ := otherRail_count hq s v
  obtain ⟨r', e'⟩ := hotStart_shape s (bump (setLadder s q v) (railReg q 8))
  refine ⟨?_, fun x hx hn hne => (rd_hotStart hx hn s _).trans (hregs x hx hn hne), fun r hr => ?_⟩
  · rw [e', e]
    exact ⟨_, _, _, rfl⟩
  · rw [e']
    exact hlad r hr

/-- The rail is to be throttled (R442, first rule). -/
def throttles (s : State) (r : Nat) : Prop := headroom s r ≤ 8 * (throttleMargin s : Int) ∧ vmin s r < setPoint s r

theorem ladderRail_of_throttles {r : Nat} (h : throttles s r) : ladderRail s r = hotStart s (bump (setLadder s r (max (vmin s r) (setPoint s r - 10))) (railReg r 8)) := by
  unfold ladderRail
  exact if_pos h

theorem otherRail_ladderRail {q : Nat} (hq : q < 4) (s : State) : OtherRail q s (ladderRail s q) := by
  by_cases h : throttles s q
  · rw [ladderRail_of_throttles h]
    exact otherRail_throttle hq s _
  · unfold throttles at h
    unfold ladderRail
    dsimp only
    rw [if_neg h]
    split
    · exact otherRail_holds s q _
    split
    · exact otherRail_count hq s _
    split
    · split
      · split
        · exact otherRail_setLadder s q _
        split
        · exact otherRail_holds s q _
        · exact otherRail_setLadder s q _
      · exact otherRail_holds s q _
    · exact otherRail_refl q s

/-! ## All rails -/

theorem mem_railClusters {r c : Nat} (h : c ∈ railClusters r) : 4 * r ≤ c ∧ c < 4 * r + 4 := (mem_rangeFrom 4 (4 * r) c).mp h

/-- The headroom of a rail is in the registers of its clusters. -/
theorem headroom_congr {u : State} {r : Nat} (hr : r < 4) (h : ∀ c, c < 16 → rd u (bclReg c 0) = rd s (bclReg c 0) ∧ rd u (0x10400 + 4 * c) = rd s (0x10400 + 4 * c)) :
    headroom u r = headroom s r := by
  have hc : ∀ c ∈ railClusters r, tjLimit u c = tjLimit s c ∧ junction u c = junction s c := fun c hc => by
    obtain ⟨-, hlt⟩ := mem_railClusters hc
    obtain ⟨h1, h2⟩ := h c (by omega)
    exact ⟨by rw [tjLimit, fld_of_rd h1, tjLimit], by rw [junction, fld_of_rd h2, junction]⟩
  unfold headroom
  exact List.foldl_ext _ _ _ fun m c hm => by rw [(hc c hm).1, (hc c hm).2]

/-- What a rail's step depends on is as it was. -/
structure SameRail (r : Nat) (s u : State) : Prop where
  regs : ∀ x, soleName x → ¬ ladderReg x → (∀ q, q < 4 → q ≠ r → x ≠ railReg q 8) → rd u x = rd s x
  ladder : tget? u.bur.ladder r = tget? s.bur.ladder r
  cap : u.bur.cap = s.bur.cap

theorem SameRail.step {r q : Nat} {u : State} (h : SameRail r s u) (hq : q < 4) (hne : q ≠ r) : SameRail r s (ladderRail u q) := by
  obtain ⟨⟨g, l, k, e⟩, hregs, hlad⟩ := otherRail_ladderRail hq u
  refine ⟨fun x hx hn ho => (hregs x hx hn (ho q hq hne)).trans (h.regs x hx hn ho), (hlad r hne.symm).trans h.ladder, ?_⟩
  rw [e]
  exact h.cap

theorem SameRail.throttles {r : Nat} {u : State} (h : SameRail r s u) (hr : r < 4) (ht : throttles s r) : throttles u r := by
  have hreg : ∀ x, x < 0x10100 ∨ 0x10140 ≤ x → soleName x → ¬ ladderReg x → rd u x = rd s x := fun x hx hs hn =>
    h.regs x hs hn fun q hq _ => by unfold railReg; omega
  have h0 : rd u (railReg r 0) = rd s (railReg r 0) :=
    h.regs _ (soleName_railReg hr (by decide)) (by unfold ladderReg railReg; omega) fun q _ _ => railReg_ne (by decide) (by decide) (.inr (by decide))
  have hhead : headroom u r = headroom s r := headroom_congr hr fun c hc =>
    ⟨hreg _ (.inr (by unfold bclReg; omega)) (soleName_bclReg hc (by decide)) (by unfold ladderReg bclReg; omega),
      hreg _ (.inr (by omega)) (.inl (by omega)) (by unfold ladderReg; omega)⟩
  have hmargin : throttleMargin u = throttleMargin s := by
    simp only [throttleMargin, holdMargin, fld_of_rd (hreg 0x1001C (.inl (by decide)) (.inl (by decide)) (by unfold ladderReg; omega))]
  have hsp : setPoint u r = setPoint s r := setPoint_congr h0 h.ladder (by rw [h.cap])
  obtain ⟨h1, h2⟩ := ht
  exact ⟨by rw [hhead, hmargin]; exact h1, by rw [vmin, fld_of_rd h0, hsp]; exact h2⟩

theorem SameRail.count {r : Nat} {u : State} (h : SameRail r s u) (hr : r < 4) : rd u (railReg r 8) = rd s (railReg r 8) :=
  h.regs _ (soleName_railReg hr (by decide)) (by unfold ladderReg railReg; omega) fun q _ hne => railReg_ne (by decide) (by decide) (.inl hne.symm)

/-- A rail that is to be throttled is, once (R442). -/
theorem rd_ladder_throttled {r : Nat} (hr : r < 4) (ht : throttles s r) :
    rd ((rangeFrom 0 4).foldl ladderRail s) (railReg r 8) = rd s (railReg r 8) + 1 := by
  have hn : ¬ ladderReg (railReg r 8) := by unfold ladderReg railReg; omega
  refine foldl_around (P := SameRail r s) (Q := fun u => rd u (railReg r 8) = rd s (railReg r 8) + 1) ((mem_rangeFrom 4 0 r).mpr ⟨Nat.zero_le r, hr⟩) (nodup_rangeFrom 0 4)
    (fun u q hq hne hu => hu.step ((mem_rangeFrom 4 0 q).mp hq).2 hne) (fun u hu => ?_) (fun u q hq hne hu => ?_) ⟨fun _ _ _ _ => rfl, rfl, rfl⟩
  · rw [ladderRail_of_throttles (hu.throttles hr ht), rd_hotStart (soleName_railReg hr (by decide)) hn, rd_count, hu.count hr]
  · rw [(otherRail_ladderRail ((mem_rangeFrom 4 0 q).mp hq).2 u).regs _ (soleName_railReg hr (by decide)) hn (railReg_ne (by decide) (by decide) (.inl hne.symm))]
    exact hu

theorem laddered_rails (s : State) : Laddered s ((rangeFrom 0 4).foldl ladderRail s) :=
  List.foldlRecOn (motive := fun (u : State) => Laddered s u) _ _ ⟨_, _, _, rfl⟩ fun u hu q hq =>
    hu.trans (otherRail_ladderRail ((mem_rangeFrom 4 0 q).mp hq).2 u).shape

theorem regSide_hotCheck (s : State) : RegSide s (hotCheck s) := by
  unfold hotCheck
  split
  · exact ⟨_, rfl⟩
  · exact .refl s

theorem rd_hotCheck {x : Nat} (hx : soleName x) (h : x ≠ 0x10000) (s : State) : rd (hotCheck s) x = rd s x := by
  unfold hotCheck
  split
  · exact rd_burStatus hx h s _ _
  · rfl

/-- The state of LADDER_STEP before the set points are shown. -/
def ladderDone (s : State) (ms : Nat) : State := hotCheck ((rangeFrom 0 4).foldl ladderRail { s with bur := { s.bur with ladMs := ms } })

theorem ladderDone_keeps (s : State) (ms : Nat) : (ladderDone s ms).mem = s.mem ∧ (ladderDone s ms).bur.ladMs = ms ∧ (ladderDone s ms).bur.seq = s.bur.seq := by
  obtain ⟨r, l, h, e⟩ := laddered_rails { s with bur := { s.bur with ladMs := ms } }
  obtain ⟨q, e'⟩ := regSide_hotCheck ((rangeFrom 0 4).foldl ladderRail { s with bur := { s.bur with ladMs := ms } })
  rw [ladderDone, e', e]
  exact ⟨rfl, rfl, rfl⟩

theorem ladderStep_steps {t : Time} (hup : railsUp s = true) (hms : max s.clk.tb t % 1000000 = 0) (hlt : s.bur.ladMs < max s.clk.tb t / 1000000) :
    exec (.ladderStep t) s = .next (floorCheck (burShow (ladderDone (advance s t) (max s.clk.tb t / 1000000)))) := by
  rw [exec_ladderStep, execLadderStep]
  refine congrArg Host.Outcome.next (if_neg (not_not.mpr ?_))
  rw [show railsUp (advance s t) = true from hup, show (advance s t).clk.tb = max s.clk.tb t from rfl, show (advance s t).bur = s.bur from rfl,
    decide_eq_true hms, decide_eq_true hlt]
  rfl

theorem ladderStep_waits {t : Time} (h : max s.clk.tb t % 1000000 ≠ 0 ∨ max s.clk.tb t / 1000000 ≤ s.bur.ladMs) : exec (.ladderStep t) s = .next (advance s t) := by
  rw [exec_ladderStep, execLadderStep]
  refine congrArg Host.Outcome.next (if_pos ?_)
  rw [show (advance s t).clk.tb = max s.clk.tb t from rfl, show (advance s t).bur = s.bur from rfl]
  rcases h with h | h
  · simp [h]
  · simp [Nat.not_lt.mpr h]

theorem coreOn_of_seq {u : State} (h : u.bur.seq = 8) : coreOn u = true := by rw [coreOn, h]; rfl

theorem seq_of_railsUp (h : railsUp s = true) : s.bur.seq = 8 := of_decide_eq_true h

/-- LADDER_STEP (R442). -/
theorem ladder_statement (t : Time) (s : State) (hup : railsUp s = true) :
    (max s.clk.tb t % 1000000 = 0 → s.bur.ladMs < max s.clk.tb t / 1000000 → ∃ u, exec (.ladderStep t) s = .next u ∧ u.mem = s.mem ∧
      u.bur.ladMs = max s.clk.tb t / 1000000 ∧ (∀ r, r < 4 → fld u (railReg r 4) 0 16 = setPoint u r) ∧
      ∀ r, r < 4 → headroom s r ≤ 8 * (throttleMargin s : Int) → vmin s r < setPoint s r → rd u (railReg r 8) = rd s (railReg r 8) + 1) ∧
    ((max s.clk.tb t % 1000000 ≠ 0 ∨ max s.clk.tb t / 1000000 ≤ s.bur.ladMs) → exec (.ladderStep t) s = .next (advance s t)) := by
  refine ⟨fun hms hlt => ?_, ladderStep_waits⟩
  obtain ⟨hmem, hl, hseq⟩ := ladderDone_keeps (advance s t) (max s.clk.tb t / 1000000)
  have hf := floored_floorCheck (burShow (ladderDone (advance s t) (max s.clk.tb t / 1000000)))
  obtain ⟨hb, hm, -, -⟩ := burShow_keeps (ladderDone (advance s t) (max s.clk.tb t / 1000000))
  refine ⟨_, ladderStep_steps hup hms hlt, (hf.mem.trans hm).trans hmem, (hf.ladMs.trans (congrArg Bur.ladMs hb)).trans hl,
    fun r hr => fld_shown hr (coreOn_of_seq (hseq.trans (seq_of_railsUp hup))), fun r hr h1 h2 => ?_⟩
  have hx : soleName (railReg r 8) := soleName_railReg hr (by decide)
  rw [rd_shown hx (by unfold burShown railReg; omega) (by unfold railReg; omega), ladderDone, rd_hotCheck hx (by unfold railReg; omega)]
  exact rd_ladder_throttled (s := { advance s t with bur := { s.bur with ladMs := max s.clk.tb t / 1000000 } }) hr ⟨h1, h2⟩

/-! ## The cap (R446) -/

/-- What a step of the cap may change. -/
structure Capped (s u : State) : Prop where
  shape : ∃ r c h, u = { s with regs := r, bur := { s.bur with cap := c, capHold := h } }
  regs : ∀ x, soleName x → x ≠ 0x10024 → (∀ r, r < 4 → x ≠ railReg r 8) → rd u x = rd s x

theorem Capped.trans {a b c : State} (h : Capped a b) (k : Capped b c) : Capped a c := by
  obtain ⟨⟨r, l, x, rfl⟩, h⟩ := h
  obtain ⟨⟨r', l', x', rfl⟩, k⟩ := k
  exact ⟨⟨_, _, _, rfl⟩, fun o ho h4 hr => (k o ho h4 hr).trans (h o ho h4 hr)⟩

theorem capped_refl (s : State) : Capped s s := ⟨⟨_, _, _, rfl⟩, fun _ _ _ _ => rfl⟩
theorem capped_setCap (s : State) (r v : Nat) : Capped s (setCap s r v) := ⟨⟨_, _, _, rfl⟩, fun _ _ _ _ => rfl⟩
theorem capped_holds (s : State) (h : Tab Nat) : Capped s { s with bur := { s.bur with capHold := h } } := ⟨⟨_, _, _, rfl⟩, fun _ _ _ _ => rfl⟩

theorem capped_lower {r : Nat} (hr : r < 4) (s : State) (v : Nat) : Capped s (bump (setCap s r v) (railReg r 8)) :=
  ⟨⟨_, _, _, rfl⟩, fun x hx _ h => by
    rw [rd_bump_ne _ (canonOff_ne_of_soleName hx (soleName_railReg hr (by decide)) (h r hr))]
    rfl⟩

/-- The rails that the cap can still lower. -/
def railsAbove (s : State) : List Nat := (rangeFrom 0 4).filter (fun r => decide (vmin s r < setPoint s r))

theorem mem_railsAbove {r : Nat} : r ∈ railsAbove s ↔ r < 4 ∧ vmin s r < setPoint s r := by
  simp [railsAbove, mem_rangeFrom]

/-- One rail lowered by 10 mV and counted. -/
def lowerRail (s : State) (r : Nat) : State := bump (setCap s r (max (vmin s r) (tget (vtarget s r) s.bur.cap r - 10))) (railReg r 8)

theorem capDown_of_above (h : ¬ (railsAbove s).isEmpty = true) : capDown s = (railsAbove s).foldl lowerRail s := if_pos h

theorem capped_capDown (s : State) : Capped s (capDown s) := by
  by_cases h : (railsAbove s).isEmpty = true
  · have e : capDown s = _ := if_neg (not_not.mpr h)
    rw [e]
    split
    · exact capped_holds s _
    · exact ⟨⟨_, _, _, rfl⟩, fun x hx h4 _ => rd_bump_ne _ (canonOff_ne_of_soleName hx (.inl (by decide)) h4)⟩
  · rw [capDown_of_above h]
    exact List.foldlRecOn (motive := fun (u : State) => Capped s u) _ _ (capped_refl s) fun u hu r hr => hu.trans (capped_lower (mem_railsAbove.mp hr).1 u _)

theorem capped_capUp (s : State) : Capped s (capUp s) := by
  unfold capUp
  split
  · exact capped_holds s _
  · exact List.foldlRecOn (motive := fun (u : State) => Capped s u) _ _ (capped_refl s) fun u hu e _ => hu.trans (capped_setCap u _ _)

theorem rd_lowerRail_ne {r q : Nat} (hr : r < 4) (hq : q < 4) (h : r ≠ q) (u : State) : rd (lowerRail u q) (railReg r 8) = rd u (railReg r 8) := by
  rw [lowerRail, rd_bump_ne _ (canonOff_ne_of_soleName (soleName_railReg hr (by decide)) (soleName_railReg hq (by decide)) (railReg_ne (by decide) (by decide) (.inl h)))]
  rfl

/-- A rail above VMIN is lowered and counted, once. -/
theorem rd_capDown_lowered {r : Nat} (hr : r < 4) (h : vmin s r < setPoint s r) : rd (capDown s) (railReg r 8) = rd s (railReg r 8) + 1 := by
  have hm : r ∈ railsAbove s := mem_railsAbove.mpr ⟨hr, h⟩
  rw [capDown_of_above (by intro he; rw [List.isEmpty_iff.mp he] at hm; cases hm)]
  refine foldl_around (P := fun u => rd u (railReg r 8) = rd s (railReg r 8)) (Q := fun u => rd u (railReg r 8) = rd s (railReg r 8) + 1) hm
    ((nodup_rangeFrom 0 4).filter _) (fun u q hq hne hu => ?_) (fun u hu => ?_) (fun u q hq hne hu => ?_) rfl
  · exact (rd_lowerRail_ne hr (mem_railsAbove.mp hq).1 hne.symm u).trans hu
  · rw [lowerRail, rd_bump, ← hu]
    rfl
  · exact (rd_lowerRail_ne hr (mem_railsAbove.mp hq).1 hne.symm u).trans hu

end Sys2Proof.Proofs
end

section
/-!
CAP_STEP, the sensors, hold periods and core power-up (R439, R442, R444, R446, R447, R455).
-/
namespace Sys2Proof.Proofs
open Sys2Proof Sys2Proof.Machine Sys2Proof.Safety Sys2Proof.Laws
variable {s : State}

/-! ## CAP_STEP (R446) -/

/-- The average and the peak shown. -/
def capShown (s : State) (avg : Nat) : State :=
  setFld (setFld { s with bur := { s.bur with capAt := s.clk.tb } } 0x1000C 0 16 (min 65535 avg)) 0x1000C 16 16
    (max (fld (setFld { s with bur := { s.bur with capAt := s.clk.tb } } 0x1000C 0 16 (min 65535 avg)) 0x1000C 16 16) (min 65535 avg))

theorem fld_lt (s : State) (o lo w : Nat) : fld s o lo w < 2 ^ w := Nat.mod_lt _ (Nat.two_pow_pos w)

theorem capShown_reads (s : State) (avg : Nat) : fld (capShown s avg) 0x1000C 0 16 = min 65535 avg ∧
    fld (capShown s avg) 0x1000C 16 16 = max (fld s 0x1000C 16 16) (min 65535 avg) ∧ ∀ x, soleName x → x ≠ 0x1000C → rd (capShown s avg) x = rd s x := by
  have hpeak : fld (setFld { s with bur := { s.bur with capAt := s.clk.tb } } 0x1000C 0 16 (min 65535 avg)) 0x1000C 16 16 = fld s 0x1000C 16 16 :=
    fld_setFld_ne _ _ _ _ _ _ _ (.inr (by decide))
  have hlt := fld_lt s 0x1000C 16 16
  refine ⟨?_, ?_, fun x hx h => ?_⟩
  · rw [capShown, fld_setFld_ne _ _ _ _ _ _ _ (.inl (by decide)), fld_setFld_same _ _ _ _ _ (by decide)]
    exact Nat.mod_eq_of_lt (by omega)
  · rw [capShown, hpeak, fld_setFld_same _ _ _ _ _ (by decide)]
    exact Nat.mod_eq_of_lt (by omega)
  · rw [capShown, rd_setFld_of_soleName _ _ _ _ hx (.inl (by decide)) h, rd_setFld_of_soleName _ _ _ _ hx (.inl (by decide)) h]
    rfl

/-- The state after the cap's step, before the set points are shown. -/
def capStepped (s : State) (avg : Nat) : State :=
  if fld s 0x10008 0 16 < avg then capDown s else if avg + 50 < fld s 0x10008 0 16 then capUp s else s

theorem capped_capStepped (s : State) (avg : Nat) : Capped s (capStepped s avg) := by
  unfold capStepped
  split
  · exact capped_capDown s
  split
  · exact capped_capUp s
  · exact capped_refl s

theorem exec_capStep_eq {t : Time} {avg : Nat} (hv : s.bur.vaon = true) (hup : railsUp s = true) (ha : s.bur.capAt + 1000000 ≤ max s.clk.tb t) :
    exec (.capStep t avg) s = .next (floorCheck (burShow (capStepped (capShown (advance s t) avg) avg))) := by
  rw [exec_capStep, execCapStep]
  refine congrArg Host.Outcome.next ?_
  rw [if_neg (by rintro (h | h) <;> [exact h hv; exact absurd h (Nat.not_lt.mpr ha)])]
  exact if_neg (not_not.mpr hup)

theorem cap_statement (t : Time) (avg : Nat) (s : State) (hv : s.bur.vaon = true) (hup : railsUp s = true) (ha : s.bur.capAt + 1000000 ≤ max s.clk.tb t) :
    ∃ u, exec (.capStep t avg) s = .next u ∧ u.mem = s.mem ∧
    u.bur.capAt = max s.clk.tb t ∧ fld u 0x1000C 0 16 = min 65535 avg ∧ fld u 0x1000C 16 16 = max (fld s 0x1000C 16 16) (min 65535 avg) ∧
    (fld s 0x10008 0 16 < avg → ∀ r, r < 4 → vmin s r < setPoint s r → rd u (railReg r 8) = rd s (railReg r 8) + 1) := by
  obtain ⟨havg, hpeak, hregs⟩ := capShown_reads (advance s t) avg
  obtain ⟨⟨g, c, h, hshape⟩, hcap⟩ := capped_capStepped (capShown (advance s t) avg) avg
  have hf := floored_floorCheck (burShow (capStepped (capShown (advance s t) avg) avg))
  obtain ⟨hb, hm, -, -⟩ := burShow_keeps (capStepped (capShown (advance s t) avg) avg)
  have hpin : rd (floorCheck (burShow (capStepped (capShown (advance s t) avg) avg))) 0x1000C = rd (capShown (advance s t) avg) 0x1000C := by
    rw [rd_shown (.inl (by decide)) (by unfold burShown; omega) (by decide)]
    exact hcap _ (.inl (by decide)) (by decide) fun r hr => by unfold railReg; omega
  refine ⟨_, exec_capStep_eq hv hup ha, (hf.mem.trans hm).trans (by rw [hshape]; rfl), (hf.capAt.trans (congrArg Bur.capAt hb)).trans (by rw [hshape]; rfl),
    (fld_of_rd hpin 0 16).trans havg, (fld_of_rd hpin 16 16).trans hpeak, fun hover r hr hlow => ?_⟩
  have hreg : ∀ o, o < 0x10 → rd (capShown (advance s t) avg) (railReg r o) = rd s (railReg r o) := fun o ho =>
    hregs _ (soleName_railReg hr ho) (by unfold railReg; omega)
  have hvmin : vmin (capShown (advance s t) avg) r = vmin s r := fld_of_rd (hreg 0 (by decide)) 16 16
  have hset : setPoint (capShown (advance s t) avg) r = setPoint s r := setPoint_congr (hreg 0 (by decide)) rfl rfl
  have hdown : capStepped (capShown (advance s t) avg) avg = capDown (capShown (advance s t) avg) := by
    rw [capStepped, if_pos]
    rw [fld_of_rd (hregs 0x10008 (.inl (by decide)) (by decide))]
    exact hover
  rw [rd_shown (soleName_railReg hr (by decide)) (by unfold burShown railReg; omega) (by unfold railReg; omega), hdown,
    rd_capDown_lowered hr (by rwa [hvmin, hset]), hreg 8 (by decide)]

/-! ## Sensors (R439, R444, R455) -/

/-- The raw readings of the 48 sensors. -/
def readings (vals : List Nat) (s : State) : State := (rangeFrom 0 48).foldl (fun s i => setFld s (0x10400 + 4 * i) 0 16 (nth 0 vals i)) s

/-- The registers that follow the readings: junction temperatures and rates of the clusters, minima and temperatures of the rails. -/
def followed (vals rates : List Nat) (s : State) : State :=
  let s2 := (rangeFrom 0 16).foldl (fun s c => setFld (setFld s (bclReg c 8) 16 16 (tc 16 (junction s c))) (bclReg c 4) 0 16 (nth 0 rates c)) s
  let s3 := (rangeFrom 0 4).foldl (fun s r => setFld s (railReg r 4) 16 16 ((railClusters r).foldl (fun m c => min m (nth 0 vals (24 + c))) 65535)) s2
  (rangeFrom 0 8).foldl (fun s i => setFld s (0x10140 + 4 * i) 0 16 (nth 0 vals (40 + i))) s3

/-- The readings of the rails are there. -/
def railsAreRead (u : State) : State := { u with bur := { u.bur with railsRead := true } }

theorem railsAreRead_keeps (u : State) : (railsAreRead u).regs = u.regs ∧ (railsAreRead u).mem = u.mem ∧ (railsAreRead u).bur.seq = u.bur.seq := ⟨rfl, rfl, rfl⟩

/-- The state in which a sample stands in the registers. -/
def sampled (vals rates : List Nat) (s : State) : State := railsAreRead (followed vals rates (readings vals s))

theorem regSide_readings (vals : List Nat) (s : State) : RegSide s (readings vals s) :=
  List.foldlRecOn (motive := fun (u : State) => RegSide s u) _ _ (.refl s) fun _ hu _ _ => hu.wrReg _ _

theorem regSide_followed (vals rates : List Nat) (s : State) : RegSide s (followed vals rates s) := by
  unfold followed
  extract_lets s2 s3
  have h2 : RegSide s s2 := List.foldlRecOn (motive := fun (u : State) => RegSide s u) _ _ (.refl s) fun _ hu _ _ => (hu.wrReg _ _).wrReg _ _
  have h3 : RegSide s s3 := List.foldlRecOn (motive := fun (u : State) => RegSide s u) _ _ h2 fun _ hu _ _ => hu.wrReg _ _
  exact List.foldlRecOn (motive := fun (u : State) => RegSide s u) _ _ h3 fun _ hu _ _ => hu.wrReg _ _

theorem rd_followed {x : Nat} (h : 0x10400 ≤ x) (hx : soleName x) (vals rates : List Nat) (s : State) : rd (followed vals rates s) x = rd s x := by
  unfold followed
  extract_lets s2 s3
  have h2 : rd s2 x = rd s x := rd_foldl_of_untouched s fun u c hc => by
    have h16 : c < 16 := ((mem_rangeFrom 16 0 c).mp hc).2
    rw [rd_setFld_of_soleName _ _ _ _ hx (soleName_bclReg h16 (by decide)) (by unfold bclReg; omega),
      rd_setFld_of_soleName _ _ _ _ hx (soleName_bclReg h16 (by decide)) (by unfold bclReg; omega)]
  have h3 : rd s3 x = rd s2 x := rd_foldl_of_untouched s2 fun u r hr => by
    have h4 : r < 4 := ((mem_rangeFrom 4 0 r).mp hr).2
    rw [rd_setFld_of_soleName _ _ _ _ hx (soleName_railReg h4 (by decide)) (by unfold railReg; omega)]
  refine (rd_foldl_of_untouched s3 fun u i hi => ?_).trans (h3.trans h2)
  have h8 : i < 8 := ((mem_rangeFrom 8 0 i).mp hi).2
  rw [rd_setFld_of_soleName _ _ _ _ hx (.inl (by omega)) (by omega)]

theorem fld_readings (vals : List Nat) (s : State) {i : Nat} (hi : i < 48) : fld (readings vals s) (0x10400 + 4 * i) 0 16 = nth 0 vals i % 2 ^ 16 := by
  have h : rd (readings vals s) (0x10400 + 4 * i) = putField (rd s (0x10400 + 4 * i)) 0 16 (nth 0 vals i) := by
    refine rd_foldl_of_once (k := i) (g := fun w => putField w 0 16 (nth 0 vals i)) s (nodup_rangeFrom 0 48) ((mem_rangeFrom 48 0 i).mpr ⟨Nat.zero_le i, hi⟩)
      (fun u j hj => ?_) fun u => rd_setFld_same ..
    refine rd_setFld_ne _ _ _ _ _ _ ?_
    rw [canonOff_of_lt (by omega)]
    unfold canonOff
    split <;> omega
  rw [fld, h, fieldOf_putField_same _ _ _ _ (by decide)]

theorem sampled_keeps (vals rates : List Nat) (s : State) : (sampled vals rates s).mem = s.mem ∧ (sampled vals rates s).bur.seq = s.bur.seq := by
  obtain ⟨r, h⟩ := regSide_readings vals s
  obtain ⟨q, h'⟩ := regSide_followed vals rates (readings vals s)
  obtain ⟨-, hm, hs⟩ := railsAreRead_keeps (followed vals rates (readings vals s))
  rw [sampled, hm, hs, h', h]
  exact ⟨rfl, rfl⟩

theorem fld_sampled (vals rates : List Nat) (s : State) {i : Nat} (hi : i < 48) : fld (sampled vals rates s) (0x10400 + 4 * i) 0 16 = nth 0 vals i % 2 ^ 16 := by
  rw [sampled, fld_of_rd (rd_of_regs (railsAreRead_keeps _).1 _), fld_of_rd (rd_followed (by omega) (.inl (by omega)) vals rates _), fld_readings vals s hi]

/-- The thermal trip of a sample (R444): `u` is the power-down. -/
def tripLatched (u : State) : State := burStatus { u with bur := { u.bur with latched := true, tripPin := true } } 7 true

theorem tripLatched_grps (u : State) : (tripLatched u).sio.grps = u.sio.grps := rfl

theorem tripLatched_records (u : State) : (tripLatched u).bur.seq = u.bur.seq ∧ (tripLatched u).bur.latched = true ∧ flag (tripLatched u) 0x10000 7 = true ∧
    (tripLatched u).mem = u.mem := ⟨rfl, rfl, flag_setFlag_same _ _ (by decide) _, rfl⟩

theorem exec_sensorSample_eq (t : Time) (vals rates : List Nat) (hv : s.bur.vaon = true) : exec (.sensorSample t vals rates) s =
    .next (if (rangeFrom 0 24).any (fun i => decide ((880 : Int) ≤ sx 16 (nth 0 vals i))) then tripLatched (powerDown (sampled vals rates (advance s t)))
      else floorCheck (sampled vals rates (advance s t))) := by
  rw [exec_sensorSample, execSensorSample]
  have hv' : ¬ ¬ (advance s t).bur.vaon = true := not_not.mpr hv
  unfold sampled followed readings tripLatched railsAreRead
  generalize rangeFrom 0 48 = l48, rangeFrom 0 24 = l24, rangeFrom 0 16 = l16, rangeFrom 0 8 = l8, rangeFrom 0 4 = l4
  dsimp only
  rw [if_neg hv']

theorem sensor_statement (t : Time) (vals rates : List Nat) (s : State) (hv : s.bur.vaon = true) :
    ((∀ i, i < 24 → sx 16 (nth 0 vals i) < 880) → ∃ u, exec (.sensorSample t vals rates) s = .next u ∧ u.mem = s.mem ∧ u.bur.seq = s.bur.seq ∧
      ∀ i, i < 48 → fld u (0x10400 + 4 * i) 0 16 = nth 0 vals i % 2 ^ 16) ∧
    (∀ i, i < 24 → 880 ≤ sx 16 (nth 0 vals i) → ∃ u, exec (.sensorSample t vals rates) s = .next u ∧ u.bur.seq = 0 ∧ u.bur.latched = true ∧
      flag u 0x10000 7 = true ∧ u.mem = [] ∧ ∀ g, g < 8 → ∀ c, (latOf u g c).isSome = true) := by
  refine ⟨fun hcool => ?_, fun i hi hhot => ?_⟩
  · have hno : (rangeFrom 0 24).any (fun i => decide ((880 : Int) ≤ sx 16 (nth 0 vals i))) = false := by
      simp only [List.any_eq_false, mem_rangeFrom, decide_eq_true_eq, not_le]
      exact fun i hi => hcool i (by omega)
    obtain ⟨hm, hs⟩ := sampled_keeps vals rates (advance s t)
    have hf := floored_floorCheck (sampled vals rates (advance s t))
    refine ⟨_, (exec_sensorSample_eq t vals rates hv).trans (congrArg Host.Outcome.next (if_neg (by rw [hno]; decide))), hf.mem.trans hm, hf.seq.trans hs, fun i hi => ?_⟩
    rw [fld_of_rd (hf.regs _ (.inl (by omega)) (by omega) (by omega)), fld_sampled vals rates _ hi]
  · have hyes : (rangeFrom 0 24).any (fun i => decide ((880 : Int) ≤ sx 16 (nth 0 vals i))) = true :=
      List.any_eq_true.mpr ⟨i, (mem_rangeFrom 24 0 i).mpr ⟨Nat.zero_le i, hi⟩, decide_eq_true hhot⟩
    obtain ⟨hseq, -, -, hmem, -⟩ := poweredDown (sampled vals rates (advance s t))
    obtain ⟨h1, h2, h3, h4⟩ := tripLatched_records (powerDown (sampled vals rates (advance s t)))
    refine ⟨_, (exec_sensorSample_eq t vals rates hv).trans (congrArg Host.Outcome.next (if_pos hyes)), h1.trans hseq, h2, h3, h4.trans hmem, fun g hg c => ?_⟩
    exact (congrArg Option.isSome (latOf_of_grps (tripLatched_grps _) g c)).trans (latched_powerDown _ hg c)

/-! ## Hold periods (R442) -/

theorem holdCore_shape (d : Nat) (s : State) (l : Nat) : ∃ c, holdCore d s l = { s with tc := c } := by
  unfold holdCore
  split
  · split
    · exact ⟨_, rfl⟩
    · split <;> exact ⟨_, rfl⟩
  · exact ⟨_, rfl⟩

theorem holdCores_shape (d : Nat) (l : List Nat) (s : State) : ∃ c, l.foldl (holdCore d) s = { s with tc := c } :=
  List.foldlRecOn (motive := fun (u : State) => ∃ c, u = { s with tc := c }) _ _ ⟨_, rfl⟩ fun u hu i _ => by
    obtain ⟨c, rfl⟩ := hu
    obtain ⟨c', h⟩ := holdCore_shape d { s with tc := c } i
    exact ⟨c', h⟩

/-- The state in which a hold period of `d` ns has begun and is counted. -/
def holdBegun (s : State) (c d : Nat) : State :=
  bumpBy { s with bur := { s.bur with holds := tset s.bur.holds c (s.clk.tb, s.clk.tb + d) } } (bclReg c 0xC) d

theorem hold_statement (t : Time) (c : Fin 16) (s : State) (hup : railsUp s = true) (hb : hasClassB s c = true) (hh : holdOf s c ≠ 0)
    (hn : tget? s.bur.holds c = none) : ∃ u, exec (.holdPeriod t c) s = .next u ∧ u.mem = s.mem ∧
      rd u (bclReg c 0xC) = rd s (bclReg c 0xC) + BitVec.ofNat 32 (6250 * holdOf s c) ∧
      tget? u.bur.holds c = some (max s.clk.tb t, max s.clk.tb t + 6250 * holdOf s c) := by
  have e : exec (.holdPeriod t c) s = .next ((rangeFrom (16 * c) 16).foldl (holdCore (6250 * holdOf s c)) (holdBegun (advance s t) c (6250 * holdOf s c))) := by
    rw [exec_holdPeriod, execHoldPeriod]
    refine congrArg Host.Outcome.next (if_neg ?_)
    rw [show (advance s t).bur = s.bur from rfl, hn]
    rintro (h | h | h | h)
    · exact hh ((Nat.mul_eq_zero.mp h).resolve_left (by decide))
    · cases h
    · exact h hb
    · exact h hup
  obtain ⟨x, hx⟩ := holdCores_shape (6250 * holdOf s c) (rangeFrom (16 * c) 16) (holdBegun (advance s t) c (6250 * holdOf s c))
  rw [e, hx]
  refine ⟨_, rfl, rfl, ?_, tget?_tset_same _ _ _⟩
  exact (rd_of_regs (s := holdBegun (advance s t) c (6250 * holdOf s c)) rfl _).trans (rd_bumpBy _ _ _)

/-! ## Core power-up (R447) -/

theorem powerUp_statement (t : Time) (l : Fin 256) (s : State) (hoff : (coreOf s l).on = false) (hup : railsUp s = true)
    (ha : flag s 0x10004 0 = false ∨ (ownerOf s l).isSome = true) : ∃ u, exec (.corePowerUp t l) s = .next u ∧ u.regs = s.regs ∧ (coreOf u l).on = true ∧
      (coreOf u l).acc = [] ∧ ∀ o, o < 0x100000 → rdMem u (spadOf l + o) 1 = [0] := by
  have e : exec (.corePowerUp t l) s = .next
      { setCore (zeroMem (advance s t) (spadOf l) 0x100000) l { coreOf s l with on := true, banks := [], acc := [] } with
        bur := { s.bur with gated := s.bur.gated.filter (fun x => decide (x ≠ l.val / 16)) } } := by
    rw [exec_corePowerUp, execCorePowerUp]
    refine congrArg Host.Outcome.next (if_neg ?_)
    rintro (h | h | h)
    · exact absurd (hoff.symm.trans h) (by decide)
    · exact h hup
    · obtain ⟨h1, h2⟩ := Bool.and_eq_true_iff.mp h
      rcases ha with ha | ha
      · exact absurd (ha.symm.trans h1) (by decide)
      · exact absurd ha (by rw [← Option.not_isNone, show (ownerOf s l).isNone = true from h2]; decide)
  refine ⟨_, e, rfl, ?_, ?_, fun o ho => ?_⟩
  · exact congrArg LCore.on (coreOf_setCore ..)
  · exact congrArg LCore.acc (coreOf_setCore ..)
  · exact congrArg (fun b => [b]) (mget_zeroMem_in (s := advance s t) (spadOf l) 0x100000 (spadOf l + o) (by omega) (by omega))

/-- Settles O51: a lemma for each of its commands. -/
theorem thermalPowerAndHolds : Obligations.ThermalPowerAndHolds :=
  ⟨sensor_statement, ladder_statement, cap_statement, hold_statement, powerUp_statement⟩

end Sys2Proof.Proofs
end

section
/-!
A reply in its mailbox (R490): the bytes of a message and of a reply, the registers that a reply leaves, and what serving a message comes to.
-/
namespace Sys2Proof.Proofs
open Sys2Proof Sys2Proof.Machine Sys2Proof.Safety Sys2Proof.Laws

/-! ## Bytes -/

theorem leVal_leBytes (n v : Nat) : leVal (leBytes n v) = v % 256 ^ n := by
  induction n generalizing v with
  | zero => simp [leBytes, leVal, Nat.mod_one]
  | succ n ih =>
    rw [leBytes, leVal, ih, BitVec.toNat_ofNat, show 256 ^ (n + 1) = 256 * 256 ^ n from Nat.pow_succ', Nat.mod_mul (x := v)]

/-- A byte of a little-endian number. -/
theorem leVal_byte (bs : List Byte) (j : Nat) : leVal bs / 256 ^ j % 256 = (nth 0 bs j).toNat := by
  induction bs generalizing j with
  | nil => simp [leVal, nth]
  | cons b bs ih =>
    have hb : b.toNat < 256 := b.isLt
    cases j with
    | zero => simp only [leVal, nth, List.getElem?_cons_zero, Option.getD_some, Nat.pow_zero, Nat.div_one]; omega
    | succ j =>
      rw [show nth 0 (b :: bs) (j + 1) = nth 0 bs j from rfl, ← ih j, leVal, Nat.pow_succ', ← Nat.div_div_eq_div_mul]
      congr 2
      omega

theorem leVal_lt (bs : List Byte) : leVal bs < 256 ^ bs.length := by
  induction bs with
  | nil => simp [leVal]
  | cons b bs ih =>
    have hb : b.toNat < 256 := b.isLt
    rw [leVal, List.length_cons, Nat.pow_succ']
    omega

theorem le_append_left {a b : List Byte} {o n : Nat} (h : o + n ≤ a.length) : le (a ++ b) o n = le a o n := by
  rw [le, le, List.drop_append_of_le_length (by omega), List.take_append_of_le_length (by rw [List.length_drop]; omega)]

theorem le_of_drop {a b : List Byte} {d o n : Nat} (h : a.drop d = b) : le a (d + o) n = le b o n := by
  rw [le, ← List.drop_drop, h, le]

theorem nth_take {α : Type} (d : α) (l : List α) {n i : Nat} (h : i < n) : nth d (l.take n) i = nth d l i := by
  rw [nth, List.getElem?_take_of_lt h, nth]

theorem nth_drop {α : Type} (d : α) (l : List α) (n i : Nat) : nth d (l.drop n) i = nth d l (n + i) := by
  rw [nth, List.getElem?_drop, nth]

theorem nth_append_left {α : Type} (d : α) {l : List α} (r : List α) {i : Nat} (h : i < l.length) : nth d (l ++ r) i = nth d l i := by
  rw [nth, List.getElem?_append_left h, nth]

/-- A byte of a word taken from four bytes. -/
theorem fieldOf_asWord_le (bs : List Byte) (o : Nat) {j : Nat} (h : j < 4) :
    fieldOf (asWord (le bs o 4)).toNat (8 * j) 8 = (nth 0 bs (o + j)).toNat := by
  have hlt : le bs o 4 < 2 ^ 32 := lt_of_lt_of_le (leVal_lt _) ((Nat.pow_le_pow_right (by decide) (List.length_take_le _ _)).trans (by decide))
  rw [asWord, BitVec.toNat_ofNat, Nat.mod_eq_of_lt hlt, fieldOf, Nat.pow_mul]
  rw [show (2 : Nat) ^ 8 = 256 from rfl, le, leVal_byte, nth_take _ _ h, nth_drop]

/-- Word `k` of a list of words, as bytes. -/
theorem le_flatten_leBytes (f : Nat → Nat) (l : List Nat) {k : Nat} (h : k < l.length) :
    le ((l.map fun i => leBytes 4 (f i)).flatten) (4 * k) 4 = f l[k] % 2 ^ 32 := by
  induction l generalizing k with
  | nil => cases h
  | cons i l ih =>
    rw [List.map_cons, List.flatten_cons]
    cases k with
    | zero => rw [le_append_left (by simp), le, Nat.mul_zero, List.drop_zero, List.take_of_length_le (by simp), leVal_leBytes]; rfl
    | succ k =>
      rw [show 4 * (k + 1) = 4 + 4 * k by omega, le_of_drop (List.drop_left' (length_leBytes 4 _)), ih (by simpa using h)]
      rfl

/-! ## The bytes of a reply (R491) -/

section
variable {m : List Byte} {r : Reply}

theorem drop_replyBytes (hm : m.length = 64) : (replyBytes m r).drop 8 = r.body ++ m.drop (8 + r.body.length) := by
  rw [replyBytes, List.append_assoc _ r.body]
  rw [show m.take 64 = m from List.take_of_length_le hm.le]
  exact List.drop_left' (by simp [hm])

theorem le_replyBytes (hm : m.length = 64) {o n : Nat} (h : o + n ≤ r.body.length) : le (replyBytes m r) (8 + o) n = le r.body o n := by
  rw [le_of_drop (drop_replyBytes hm), le_append_left h]

theorem nth_replyBytes (hm : m.length = 64) {i : Nat} (h : i < r.body.length) : nth 0 (replyBytes m r) (8 + i) = nth 0 r.body i := by
  rw [← nth_drop, drop_replyBytes hm, nth_append_left _ _ h]

theorem length_msgBody {msg : List Byte} (hm : msg.length = 64) (h : le msg 4 1 ≤ 56) : (msgBody msg).length = le msg 4 1 := by
  rw [msgBody, List.length_take, List.length_drop, hm]
  omega

/-- A reply that returns the payload returns what lies behind it too. -/
theorem drop_replyBytes_echo (hm : m.length = 64) (h : le m 4 1 ≤ 56) (he : r.body = msgBody m) : (replyBytes m r).drop 8 = m.drop 8 := by
  rw [drop_replyBytes hm, he, length_msgBody hm h, ← List.drop_drop, msgBody, Nat.min_eq_right h, List.take_append_drop]

end

/-! ## The registers that a reply leaves -/

section
variable {s : State}

theorem canonOff_mboxReg (m o : Nat) : canonOff (mboxReg m o) = mboxReg m o := canonOff_of_ge (by unfold mboxReg; omega)

/-- The words of a reply in MB_DATA. -/
def mboxFilled (m : Nat) (bytes : List Byte) (s : State) : State :=
  (rangeFrom 0 16).foldl (fun s k => wrReg s (mboxReg m (4 * k)) (asWord (le bytes (4 * k) 4))) s

theorem rd_mboxFilled (m : Nat) (bytes : List Byte) {k : Nat} (h : k < 16) : rd (mboxFilled m bytes s) (mboxReg m (4 * k)) = asWord (le bytes (4 * k) 4) := by
  refine rd_foldl_of_once (g := fun _ => asWord (le bytes (4 * k) 4)) s (nodup_rangeFrom 0 16) ((mem_rangeFrom 16 0 k).mpr ⟨Nat.zero_le k, by omega⟩)
    (fun u i hi => rd_wrReg_ne _ _ _ _ ?_) (fun u => rd_wrReg_same _ _ _)
  rw [canonOff_mboxReg, canonOff_mboxReg]
  unfold mboxReg
  omega

theorem rd_mboxFilled_ne {m : Nat} {x : Nat} (h : ¬ (mboxReg m 0 ≤ canonOff x ∧ canonOff x ≤ mboxReg m 0x40)) (bytes : List Byte) :
    rd (mboxFilled m bytes s) x = rd s x := by
  refine rd_foldl_of_untouched s fun u i hi => rd_wrReg_ne _ _ _ _ ?_
  have := ((mem_rangeFrom 16 0 i).mp hi).2
  rw [canonOff_mboxReg]
  unfold mboxReg at h ⊢
  omega

/-- What a reply leaves: its bytes in MB_DATA, RESULT, and the mailbox the host's; nothing else but the vectors of the host link. -/
structure Replied (m : Nat) (bytes : List Byte) (r : Nat) (s u : State) : Prop where
  answered : r < 256 → Answered u m r
  word : ∀ k, k < 16 → rd u (mboxReg m (4 * k)) = asWord (le bytes (4 * k) 4)
  other : ∀ x, ¬ (mboxReg m 0 ≤ canonOff x ∧ canonOff x ≤ mboxReg m 0x40) → rd u x = rd s x
  rest : ∃ q h, u = { s with regs := q, hif := h }

theorem replied_mboxReply (m : Nat) (bytes : List Byte) (r : Nat) (s : State) : Replied m bytes r s (mboxReply m bytes r s) := by
  obtain ⟨v, hv⟩ : ∃ v, v = setFld (setFlag (mboxFilled m bytes s) (mboxReg m 0x40) 30 false) (mboxReg m 0x40) 16 8 r := ⟨_, rfl⟩
  have e : mboxReply m bytes r s = msi m v := by rw [hv]; rfl
  have hother : ∀ x, canonOff x ≠ mboxReg m 0x40 → rd v x = rd (mboxFilled m bytes s) x := fun x hx => by
    rw [← canonOff_mboxReg] at hx
    rw [hv, rd_setFld_ne _ _ _ _ _ _ hx, rd_setFlag_ne _ _ _ hx]
  refine ⟨fun hr => ⟨?_, ?_⟩, fun k hk => ?_, fun x hx => ?_, ?_⟩
  · rw [mboxOwned, e, flag_of_rd (rd_msi m v _), hv, flag_setFld_ne _ _ (by decide) (.inr (by decide)), flag_setFlag_same _ _ (by decide)]
  · rw [e, fld_of_rd (rd_msi m v _), hv, fld_setFld_same _ _ _ _ _ (by decide), Nat.mod_eq_of_lt (show r < 2 ^ 8 from hr)]
  · rw [e, rd_msi, hother _ (by rw [canonOff_mboxReg]; unfold mboxReg; omega), rd_mboxFilled m bytes hk]
  · rw [e, rd_msi, hother x fun h => hx (by rw [h]; unfold mboxReg; omega), rd_mboxFilled_ne hx]
  · obtain ⟨p, x, hm⟩ := msi_shape m v
    have hr : RegSide s v := hv ▸ ((RegSide.foldl (.refl s) fun u i hu => hu.wrReg _ _).wrReg _ _).wrReg _ _
    obtain ⟨q, rfl⟩ := hr
    rw [e, hm]
    exact ⟨_, _, rfl⟩

variable {m : Nat} {bytes : List Byte} {r : Nat} {u : State}

theorem Replied.mem (h : Replied m bytes r s u) : u.mem = s.mem := by obtain ⟨-, -, -, q, x, rfl⟩ := h; rfl
theorem Replied.pend (h : Replied m bytes r s u) : u.pend = s.pend := by obtain ⟨-, -, -, q, x, rfl⟩ := h; rfl
theorem Replied.svc (h : Replied m bytes r s u) : u.svc = s.svc := by obtain ⟨-, -, -, q, x, rfl⟩ := h; rfl
theorem Replied.boot (h : Replied m bytes r s u) : u.boot = s.boot := by obtain ⟨-, -, -, q, x, rfl⟩ := h; rfl
theorem Replied.sio (h : Replied m bytes r s u) : u.sio = s.sio := by obtain ⟨-, -, -, q, x, rfl⟩ := h; rfl

end

/-! ## Serving the message at the head of the queue -/

/-- The command of a message, by its number. -/
def runCmd (c : Nat) (b : List Byte) (ok : Bool) (s : State) : Reply := match c with
  | 1 => cmdVersion s
  | 2 => cmdReadReg b s
  | 3 => cmdWriteReg b s
  | 4 => cmdReadMem b s
  | 5 => cmdWriteMem b s
  | 6 => cmdImageWrite ok b s
  | 7 => cmdReset b s
  | _ => ⟨0, b, true, s⟩

theorem carryOut_eq {m : List Byte} (hk : msgKnown m = true) (hl : le m 4 1 ≤ 56) (ok : Bool) (s : State) :
    carryOut m ok s = runCmd (msgCmd m) (msgBody m) ok s := by
  rw [carryOut, if_neg (not_not.mpr hk), if_neg (Nat.not_lt.mpr hl)]
  rfl

/-- The state in which a message is carried out: at the instant given, with the messages behind it in the queue. -/
def served (s : State) (t : Time) (q : List MbMsg) : State := { advance s t with svc := { s.svc with queue := q } }

section
variable {s : State} {m cmd : Nat} {msg : List Byte} {q : List MbMsg}

theorem mboxServe_eq (h : Serving s m cmd msg q) (t : Time) (ok : Bool) {r : Reply} (hr : carryOut msg ok (served s t q) = r) :
    mboxServe cmd m ok (advance s t) =
      afterReply msg r (if r.sent then mboxReply m (if r.result = 2 then msg else replyBytes msg r) r.result r.st else r.st) := by
  subst hr
  obtain ⟨hq, hfw, hver, -, -, hcmd, -⟩ := h
  have hv : ¬ fld (advance s t) 0x244 0 4 = 0 := hver
  have hc : ¬ (m ≠ m ∨ ¬ fwRuns (advance s t) = true ∨ (msgKnown msg = true ∧ msgCmd msg ≠ cmd)) := by
    rintro (h | h | ⟨-, h⟩)
    · exact h rfl
    · exact h hfw
    · exact h hcmd
  rw [mboxServe, advance_svc, hq]
  dsimp only
  rw [if_neg hc, if_neg hv, if_neg hv, Bool.not_false, Bool.and_true]
  rfl

/-- A command that brings no reset ends with its reply in the mailbox. -/
theorem mboxServe_replied (h : Serving s m cmd msg q) (h7 : cmd ≠ 7) (t : Time) (ok : Bool) {r : Reply} (hr : runCmd cmd (msgBody msg) ok (served s t q) = r)
    (hs : r.sent = true) : Replied m (replyBytes msg r) r.result r.st (mboxServe cmd m ok (advance s t)) := by
  have hc : carryOut msg ok (served s t q) = r := by rw [carryOut_eq h.known h.len, h.cmd, hr]
  have h2 : r.result ≠ 2 := hc ▸ (carryOut_fit h.known ok (served s t q)).2
  rw [mboxServe_eq h t ok hc, afterReply_of_ne_reset (h.cmd ▸ h7), if_pos hs, if_neg h2]
  exact replied_mboxReply _ _ _ _

end

end Sys2Proof.Proofs
end

section
/-!
The management commands of R491 over a mailbox: what each answers, and what it leaves.
-/
namespace Sys2Proof.Proofs
open Sys2Proof Sys2Proof.Machine Sys2Proof.Safety Sys2Proof.Laws

/-! ## Reads do not ask the services -/

section
variable {s : State}

/-- A state with other services. -/
def withSvc (s : State) (x : Svc) : State := { s with svc := x }

theorem served_eq (s : State) (t : Time) (q : List MbMsg) : served s t q = withSvc (advance s t) { s.svc with queue := q } := rfl

theorem readReg_withSvc (s : State) (x : Svc) (ag : Agent) (off : Nat) : readReg (withSvc s x) ag off = readReg s ag off := rfl

theorem readEffect_withSvc (s : State) (x : Svc) (ag : Agent) (off : Nat) : ∃ y, readEffect ag off (withSvc s x) = withSvc (readEffect ag off s) y := by
  unfold readEffect
  split
  · exact ⟨x, rfl⟩
  split
  · exact ⟨x, rfl⟩
  split
  · exact ⟨_, rfl⟩
  split
  · exact ⟨_, rfl⟩
  · exact ⟨x, rfl⟩

theorem readWords_withSvc (off : Nat) (l : List Nat) (s : State) (x : Svc) : ∃ y, readWords off l (withSvc s x) = withSvc (readWords off l s) y := by
  induction l generalizing s x with
  | nil => exact ⟨x, rfl⟩
  | cons k l ih =>
    obtain ⟨y, hy⟩ := readEffect_withSvc s x .control (off + 4 * k)
    obtain ⟨z, hz⟩ := ih (readEffect .control (off + 4 * k) s) y
    exact ⟨z, (congrArg (readWords off l) hy).trans hz⟩

/-- The word that READ_REG returns as its `k`-th. -/
def wordAt (off : Nat) (s : State) (k : Nat) : Word := readReg (readWords off (rangeFrom 0 (k + 1)) s) .control (off + 4 * k)

theorem wordAt_withSvc (off : Nat) (s : State) (x : Svc) (k : Nat) : wordAt off (withSvc s x) k = wordAt off s k := by
  obtain ⟨y, hy⟩ := readWords_withSvc off (rangeFrom 0 (k + 1)) s x
  rw [wordAt, hy, readReg_withSvc, wordAt]

theorem rangeFrom_succ (n : Nat) : rangeFrom 0 (n + 1) = rangeFrom 0 n ++ [n] := by
  rw [rangeFrom_add, Nat.zero_add]
  rfl

theorem foldl_readWordStep_bytes (off n : Nat) (s : State) :
    ((rangeFrom 0 n).foldl (readWordStep off) ([], s)).1 = ((rangeFrom 0 n).map fun k => leBytes 4 (wordAt off s k).toNat).flatten := by
  induction n with
  | zero => rfl
  | succ n ih =>
    have he : readEffect .control (off + 4 * n) ((rangeFrom 0 n).foldl (readWordStep off) ([], s)).2 = readWords off (rangeFrom 0 (n + 1)) s := by
      rw [foldl_readWordStep_state, rangeFrom_succ, readWords, readWords, List.foldl_append]
      rfl
    rw [rangeFrom_succ, List.foldl_append, List.map_append, List.flatten_append, ← ih, List.foldl_cons, List.foldl_nil, readWordStep]
    dsimp only
    rw [he]
    simp [wordAt]

end

/-! ## The words of a reply -/

section
variable {s u : State} {m cmd : Nat} {msg : List Byte} {q : List MbMsg} {t : Time}

theorem asWord_toNat (w : Word) : asWord (w.toNat % 2 ^ 32) = w := by
  rw [Nat.mod_eq_of_lt w.isLt, asWord, BitVec.ofNat_toNat, BitVec.setWidth_eq]

/-- A reply of whole words reads as those words. -/
theorem Replied.words {r : Reply} {f : Nat → Word} {n : Nat} (h : Replied m (replyBytes msg r) r.result s u) (hm : msg.length = 64)
    (hb : r.body = ((rangeFrom 0 n).map fun k => leBytes 4 (f k).toNat).flatten) (hn : n ≤ 14) {k : Nat} (hk : k < n) :
    rd u (mboxReg m (8 + 4 * k)) = f k := by
  have hl : r.body.length = 4 * n := by rw [hb, length_flatten_leBytes, length_rangeFrom]
  have hg : (rangeFrom 0 n)[k]'(by rw [length_rangeFrom]; exact hk) = k := by
    have := getElem?_rangeFrom 0 n k
    rw [if_pos hk, Nat.zero_add] at this
    exact (List.getElem_eq_iff _).mpr this
  have hw := h.word (2 + k) (by omega)
  rw [show 4 * (2 + k) = 8 + 4 * k by omega] at hw
  rw [hw, le_replyBytes hm (by omega), hb, le_flatten_leBytes (fun i => (f i).toNat) _ (by rw [length_rangeFrom]; exact hk), hg, asWord_toNat]

/-- A byte of a reply reads as that byte. -/
theorem Replied.byte {r : Reply} (h : Replied m (replyBytes msg r) r.result s u) (hm : msg.length = 64) (hb : r.body.length ≤ 56) {i : Nat}
    (hi : i < r.body.length) : fld u (mboxReg m (8 + i / 4 * 4)) (8 * (i % 4)) 8 = (nth 0 r.body i).toNat := by
  have hw := h.word (2 + i / 4) (by omega)
  rw [show 4 * (2 + i / 4) = 8 + i / 4 * 4 by omega] at hw
  rw [fld, hw, fieldOf_asWord_le _ _ (Nat.mod_lt i (by decide)), show 8 + i / 4 * 4 + i % 4 = 8 + i by omega, nth_replyBytes hm hi]

/-! ## VERSION and READ_REG -/

theorem mgmtVersion_replies (h : Serving s m 1 msg q) : ∃ u, u = mboxServe 1 m true (advance s t) ∧ Answered u m 0 ∧ u.svc.queue = q ∧ u.mem = s.mem ∧
    ∀ k, k < 4 → rd u (mboxReg m (8 + 4 * k)) = readReg (advance s t) .control (0x230 + 4 * k) := by
  have hr := mboxServe_replied h (by decide) t true rfl rfl
  refine ⟨_, rfl, hr.answered (show 0 < 256 by decide), by rw [hr.svc]; rfl, by rw [hr.mem]; rfl, fun k hk => ?_⟩
  exact hr.words (f := fun k => readReg (served s t q) .control (0x230 + 4 * k)) h.size rfl (by decide) hk

theorem mgmtReadReg_replies (h : Serving s m 2 msg q) : ∃ u, u = mboxServe 2 m true (advance s t) ∧ u.mem = s.mem ∧ u.svc.queue = q ∧
    (((msgBody msg).length < 5 ∨ le (msgBody msg) 0 4 % 4 ≠ 0 ∨ le (msgBody msg) 4 1 = 0 ∨ 12 < le (msgBody msg) 4 1) → Answered u m 1) ∧
    (¬ ((msgBody msg).length < 5 ∨ le (msgBody msg) 0 4 % 4 ≠ 0 ∨ le (msgBody msg) 4 1 = 0 ∨ 12 < le (msgBody msg) 4 1) → Answered u m 0 ∧
      ∀ k, k < le (msgBody msg) 4 1 → rd u (mboxReg m (8 + 4 * k)) = wordAt (le (msgBody msg) 0 4) (advance s t) k) := by
  refine ⟨_, rfl, ?_⟩
  by_cases hb : (msgBody msg).length < 5 ∨ le (msgBody msg) 0 4 % 4 ≠ 0 ∨ le (msgBody msg) 4 1 = 0 ∨ 12 < le (msgBody msg) 4 1
  · have hr := mboxServe_replied h (by decide) t true (cmdReadReg_bad hb (served s t q)) rfl
    exact ⟨hr.mem, by rw [hr.svc]; rfl, fun _ => hr.answered (show 1 < 256 by decide), fun hn => absurd hb hn⟩
  · have hr := mboxServe_replied h (by decide) t true (cmdReadReg_good hb (served s t q)) rfl
    obtain ⟨r, l, e, x, hx⟩ := readFrom_readWords (le (msgBody msg) 0 4) (rangeFrom 0 (le (msgBody msg) 4 1)) (served s t q)
    have hst := foldl_readWordStep_state (le (msgBody msg) 0 4) (rangeFrom 0 (le (msgBody msg) 4 1)) ([], served s t q)
    have hrest := hst.trans hx
    refine ⟨?_, ?_, fun hn => absurd hn hb, fun _ => ⟨hr.answered (show 0 < 256 by decide), fun k hk => ?_⟩⟩
    · rw [hr.mem]
      dsimp only
      rw [hrest]
      rfl
    · rw [hr.svc]
      dsimp only
      rw [hrest]
      rfl
    · rw [hr.words h.size (foldl_readWordStep_bytes _ _ _) (by omega) hk, served_eq, wordAt_withSvc]

/-! ## WRITE_REG, READ_MEM, WRITE_MEM -/

/-- What an accepted WRITE_REG writes. -/
def wordOfWriteReg (b : List Byte) (s : State) : Word :=
  mergeWord (asWord (le b 8 4)) (readReg s .control (le b 0 4) &&& ~~~(maskOf .w1c (canonOff (le b 0 4)))) (asWord (le b 4 4))

theorem cmdWriteReg_outside {b : List Byte} (hl : 12 ≤ b.length) (h4 : le b 0 4 % 4 = 0) (h : inRanges s.boot.pol.wr (le b 0 4) 4 = false) :
    cmdWriteReg b s = plainReply 3 s := by
  rw [cmdWriteReg, if_neg (by omega), if_pos (by simp [h])]

theorem cmdWriteReg_inside {b : List Byte} (hl : 12 ≤ b.length) (h4 : le b 0 4 % 4 = 0) (h : inRanges s.boot.pol.wr (le b 0 4) 4 = true) :
    cmdWriteReg b s = plainReply 0 (busWrite s .control (le b 0 4) 15 (wordOfWriteReg b s)) := by
  rw [cmdWriteReg, if_neg (by omega), if_neg (not_not.mpr h)]
  rfl

theorem cmdReadMem_bad {b : List Byte} (h : le b 6 1 = 0 ∨ 48 < le b 6 1) : cmdReadMem b s = plainReply 1 s := if_pos (.inr h)

theorem cmdReadMem_outside {b : List Byte} (hl : 7 ≤ b.length) (h1 : 1 ≤ le b 6 1) (h48 : le b 6 1 ≤ 48) (h : inRanges s.boot.pol.mem (le b 0 6) (le b 6 1) = false) :
    cmdReadMem b s = plainReply 3 s := by
  rw [cmdReadMem, if_neg (by omega), if_pos (by simp [h])]

theorem cmdReadMem_inside {b : List Byte} (hl : 7 ≤ b.length) (h1 : 1 ≤ le b 6 1) (h48 : le b 6 1 ≤ 48) (h : inRanges s.boot.pol.mem (le b 0 6) (le b 6 1) = true) :
    cmdReadMem b s = ⟨0, rdMem s (le b 0 6) (le b 6 1), true, s⟩ := by
  rw [cmdReadMem, if_neg (by omega), if_neg (not_not.mpr h)]

theorem cmdWriteMem_outside {b : List Byte} (hl : 7 + le b 6 1 ≤ b.length) (h1 : 1 ≤ le b 6 1) (h40 : le b 6 1 ≤ 40)
    (h : inRanges s.boot.pol.mem (le b 0 6) (le b 6 1) = false) : cmdWriteMem b s = plainReply 3 s := by
  rw [cmdWriteMem, if_neg (by omega), if_pos (by simp [h])]

theorem cmdWriteMem_inside {b : List Byte} (hl : 7 + le b 6 1 ≤ b.length) (h1 : 1 ≤ le b 6 1) (h40 : le b 6 1 ≤ 40)
    (h : inRanges s.boot.pol.mem (le b 0 6) (le b 6 1) = true) :
    cmdWriteMem b s = plainReply 0 (wrMem s (le b 0 6) ((b.drop 7).take (le b 6 1))) := by
  rw [cmdWriteMem, if_neg (by omega), if_neg (not_not.mpr h)]

theorem mgmtReadMem_replies (h : Serving s m 4 msg q) (hl : 7 ≤ (msgBody msg).length) : ∃ u, u = mboxServe 4 m true (advance s t) ∧ u.mem = s.mem ∧
    u.svc.queue = q ∧ ((le (msgBody msg) 6 1 = 0 ∨ 48 < le (msgBody msg) 6 1) → Answered u m 1) ∧
    (1 ≤ le (msgBody msg) 6 1 → le (msgBody msg) 6 1 ≤ 48 → inRanges s.boot.pol.mem (le (msgBody msg) 0 6) (le (msgBody msg) 6 1) = false → Answered u m 3) ∧
    (1 ≤ le (msgBody msg) 6 1 → le (msgBody msg) 6 1 ≤ 48 → inRanges s.boot.pol.mem (le (msgBody msg) 0 6) (le (msgBody msg) 6 1) = true → Answered u m 0 ∧
      ∀ i, i < le (msgBody msg) 6 1 → fld u (mboxReg m (8 + i / 4 * 4)) (8 * (i % 4)) 8 =
        (nth 0 (rdMem s (le (msgBody msg) 0 6) (le (msgBody msg) 6 1)) i).toNat) := by
  have replied {r : Reply} (hr : cmdReadMem (msgBody msg) (served s t q) = r) := mboxServe_replied h (by decide) t true hr
  by_cases hb : le (msgBody msg) 6 1 = 0 ∨ 48 < le (msgBody msg) 6 1
  · have hr := replied (cmdReadMem_bad hb) rfl
    exact ⟨_, rfl, hr.mem, by rw [hr.svc]; rfl, fun _ => hr.answered (show 1 < 256 by decide), fun _ _ => (by omega), fun _ _ => (by omega)⟩
  · have h1 : 1 ≤ le (msgBody msg) 6 1 := by omega
    have h48 : le (msgBody msg) 6 1 ≤ 48 := by omega
    cases hi : inRanges s.boot.pol.mem (le (msgBody msg) 0 6) (le (msgBody msg) 6 1) with
    | false =>
      have hr := replied (cmdReadMem_outside hl h1 h48 hi) rfl
      exact ⟨_, rfl, hr.mem, by rw [hr.svc]; rfl, fun hn => absurd hn hb, fun _ _ _ => hr.answered (show 3 < 256 by decide), fun _ _ hn => (by cases hn)⟩
    | true =>
      have hr := replied (cmdReadMem_inside hl h1 h48 hi) rfl
      refine ⟨_, rfl, hr.mem, by rw [hr.svc]; rfl, fun hn => absurd hn hb, fun _ _ hn => (by cases hn), fun _ _ _ => ⟨hr.answered (show 0 < 256 by decide), fun i hlt => ?_⟩⟩
      exact hr.byte h.size (by rw [length_rdMem]; omega) (by rw [length_rdMem]; exact hlt)

theorem mgmtWriteReg_replies {m : Fin 8} (h : Serving s m 3 msg q) (hl : 12 ≤ (msgBody msg).length) (h4 : le (msgBody msg) 0 4 % 4 = 0) :
    (inRanges s.boot.pol.wr (le (msgBody msg) 0 4) 4 = false → ∃ u, exec (.mgmtWriteReg t m) s = .next u ∧ Answered u m 3 ∧ u.mem = s.mem ∧ u.pend = s.pend) ∧
    (inRanges s.boot.pol.wr (le (msgBody msg) 0 4) 4 = true → ∃ u v, exec (.mgmtWriteReg t m) s = .next u ∧ Answered u m 0 ∧
      v = busWrite (served s t q) .control (le (msgBody msg) 0 4) 15 (wordOfWriteReg (msgBody msg) (advance s t)) ∧
      u.mem = v.mem ∧ u.pend = v.pend ∧ ∀ x, ¬ (mboxReg m 0 ≤ canonOff x ∧ canonOff x ≤ mboxReg m 0x40) → rd u x = rd v x) := by
  have replied {r : Reply} (hr : cmdWriteReg (msgBody msg) (served s t q) = r) := mboxServe_replied h (by decide) t true hr
  refine ⟨fun hi => ?_, fun hi => ?_⟩
  · have hr := replied (cmdWriteReg_outside hl h4 hi) rfl
    exact ⟨_, rfl, hr.answered (show 3 < 256 by decide), hr.mem, hr.pend⟩
  · have hr := replied (cmdWriteReg_inside hl h4 hi) rfl
    exact ⟨_, _, rfl, hr.answered (show 0 < 256 by decide), rfl, hr.mem, hr.pend, hr.other⟩

theorem mgmtWriteMem_replies {m : Fin 8} (h : Serving s m 5 msg q) (hl : 7 + le (msgBody msg) 6 1 ≤ (msgBody msg).length) (h1 : 1 ≤ le (msgBody msg) 6 1)
    (h40 : le (msgBody msg) 6 1 ≤ 40) : ∃ u, exec (.mgmtWriteMem t m) s = .next u ∧ u.svc.queue = q ∧
      (inRanges s.boot.pol.mem (le (msgBody msg) 0 6) (le (msgBody msg) 6 1) = false → Answered u m 3 ∧ u.mem = s.mem) ∧
      (inRanges s.boot.pol.mem (le (msgBody msg) 0 6) (le (msgBody msg) 6 1) = true → Answered u m 0 ∧
        u.mem = (wrMem s (le (msgBody msg) 0 6) (((msgBody msg).drop 7).take (le (msgBody msg) 6 1))).mem) := by
  have replied {r : Reply} (hr : cmdWriteMem (msgBody msg) (served s t q) = r) := mboxServe_replied h (by decide) t true hr
  refine ⟨_, rfl, ?_⟩
  cases hi : inRanges s.boot.pol.mem (le (msgBody msg) 0 6) (le (msgBody msg) 6 1) with
  | false =>
    have hr := replied (cmdWriteMem_outside hl h1 h40 hi) rfl
    exact ⟨by rw [hr.svc]; rfl, fun _ => ⟨hr.answered (show 3 < 256 by decide), hr.mem⟩, fun hn => by cases hn⟩
  | true =>
    have hr := replied (cmdWriteMem_inside hl h1 h40 hi) rfl
    exact ⟨by rw [hr.svc]; rfl, fun hn => (by cases hn), fun _ => ⟨hr.answered (show 0 < 256 by decide), hr.mem⟩⟩

/-! ## IMAGE_WRITE -/

theorem imageStart_good (h : Serving s m 6 msg q) (hb : imageBad (msgBody msg) s = 0) (t : Time) :
    imageStart m (advance s t) = some { served s t q with svc := { s.svc with queue := q, img := some (m, msg, false) } } := by
  rw [imageStart, advance_svc, h.queue]
  exact if_pos ⟨rfl, h.fw, h.ver, h.known, h.cmd, h.len, hb⟩

theorem imageStart_bad (h : Serving s m 6 msg q) (hb : imageBad (msgBody msg) s ≠ 0) (t : Time) : imageStart m (advance s t) = none := by
  rw [imageStart, advance_svc, h.queue]
  exact if_neg fun ⟨_, _, _, _, _, _, h0⟩ => hb h0

theorem imageBad_lt (b : List Byte) (s : State) : imageBad b s < 256 := by
  unfold imageBad
  dsimp only
  split
  · decide
  split
  · decide
  split <;> decide

theorem cmdImageWrite_bad {b : List Byte} (h : imageBad b s ≠ 0) (ok : Bool) : cmdImageWrite ok b s = plainReply (imageBad b s) s := if_pos h

theorem cmdImageWrite_same {b : List Byte} (h : imageBad b s = 0) : cmdImageWrite true b s = plainReply 0 { s with boot := { s.boot with
    flash := msets flashDefault s.boot.flash (copyBase (decide (le b 0 1 = 1))) (rdMem s (le b 1 6) (le b 7 4)) } } := by
  rw [cmdImageWrite, if_neg (not_not.mpr h)]
  rfl

theorem cmdImageWrite_differs {b : List Byte} (h : imageBad b s = 0) :
    ∃ n f, cmdImageWrite false b s = plainReply 6 { s with free := n, boot := { s.boot with flash := f } } := by
  obtain ⟨n, hn⟩ := drawBytes_shape (le b 7 4) s
  rw [cmdImageWrite, if_neg (not_not.mpr h)]
  simp only [Bool.false_eq_true, if_false]
  rw [hn]
  exact ⟨_, _, rfl⟩

theorem imageWrite_starts (h : Serving s m 6 msg q) : ∃ u, u = (imageStart m (advance s t)).getD (mboxServe 6 m true (advance s t)) ∧ u.mem = s.mem ∧
    u.svc.queue = q ∧ u.boot = s.boot ∧ (imageBad (msgBody msg) s = 0 → u.svc.img = some (m, msg, false) ∧ u.regs = s.regs) ∧
    (imageBad (msgBody msg) s ≠ 0 → Answered u m (imageBad (msgBody msg) s) ∧ u.svc.img = s.svc.img) := by
  refine ⟨_, rfl, ?_⟩
  by_cases hb : imageBad (msgBody msg) s = 0
  · rw [imageStart_good h hb]
    exact ⟨rfl, rfl, rfl, fun _ => ⟨rfl, rfl⟩, fun hn => absurd hb hn⟩
  · have hr := mboxServe_replied h (by decide) t true (cmdImageWrite_bad (s := served s t q) hb true) rfl
    rw [imageStart_bad h hb]
    exact ⟨hr.mem, by rw [Option.getD_none, hr.svc]; rfl, hr.boot, fun hn => absurd hn hb,
      fun _ => ⟨hr.answered (imageBad_lt _ _), by rw [Option.getD_none, hr.svc]; rfl⟩⟩

/-- No IMAGE_WRITE in progress any more. -/
def imageEnded (s : State) : State := { s with svc := { s.svc with img := none } }

theorem imageFinish_eq (hi : s.svc.img = some (m, msg, false)) (hf : fwRuns s = true) (same : Bool) {r : Reply}
    (hr : cmdImageWrite same (msgBody msg) (imageEnded s) = r) : imageFinish m same s = mboxReply m (replyBytes msg r) r.result r.st := by
  subst hr
  rw [imageFinish, hi]
  exact if_neg (by simp [hf])

theorem imageWrite_ends (same : Bool) (hi : s.svc.img = some (m, msg, false)) (hf : fwRuns s = true) (hb : imageBad (msgBody msg) (imageEnded s) = 0) :
    ∃ u, u = imageFinish m same (advance s t) ∧ u.mem = s.mem ∧ u.svc.queue = s.svc.queue ∧ u.svc.img = none ∧ Answered u m (if same then 0 else 6) ∧
      (same = true → u.boot.flash = msets flashDefault s.boot.flash (copyBase (decide (le (msgBody msg) 0 1 = 1)))
        (rdMem s (le (msgBody msg) 1 6) (le (msgBody msg) 7 4))) := by
  have hb' : imageBad (msgBody msg) (imageEnded (advance s t)) = 0 := hb
  have finished {r : Reply} (hr : cmdImageWrite same (msgBody msg) (imageEnded (advance s t)) = r) :
      Replied m (replyBytes msg r) r.result r.st (imageFinish m same (advance s t)) := by
    rw [imageFinish_eq (s := advance s t) hi hf same hr]
    exact replied_mboxReply _ _ _ _
  refine ⟨_, rfl, ?_⟩
  cases same with
  | true =>
    have hr := finished (cmdImageWrite_same hb')
    exact ⟨hr.mem, by rw [hr.svc]; rfl, by rw [hr.svc]; rfl, hr.answered (show 0 < 256 by decide), fun _ => by rw [hr.boot]; rfl⟩
  | false =>
    obtain ⟨n, f, e⟩ := cmdImageWrite_differs hb'
    have hr := finished e
    exact ⟨hr.mem, by rw [hr.svc]; rfl, by rw [hr.svc]; rfl, hr.answered (show 6 < 256 by decide), fun hn => by cases hn⟩

/-! ## RESET -/

theorem cmdReset_management {b : List Byte} (h1 : le b 0 1 = 1) (may : Bool) (h : s.boot.pol.mayMgmt = may) :
    cmdReset b s = plainReply (if may then 0 else 3) s := by
  rw [cmdReset, h1, ← h]
  rfl

theorem cmdReset_module {b : List Byte} (h2 : le b 0 1 = 2) : cmdReset b s = if s.boot.pol.mayModule then ⟨0, [], false, s⟩ else plainReply 3 s := by
  rw [cmdReset, h2]
  rfl

theorem carryOut_reset (h : Serving s m 7 msg q) (s' : State) : carryOut msg true s' = cmdReset (msgBody msg) s' := by
  rw [carryOut_eq h.known h.len, h.cmd]
  rfl

theorem afterReply_reset (h : Serving s m 7 msg q) {r : Reply} (h0 : r.result = 0) (u : State) :
    afterReply msg r u = if r.sent then mgmtReset 3 0x21C u else moduleReset 2 u := if_neg (not_not.mpr ⟨h.known, h.cmd, h.len, h0⟩)

theorem afterReply_refused {r : Reply} (h : r.result ≠ 0) (u : State) : afterReply msg r u = u := if_pos fun ⟨_, _, _, h0⟩ => h h0

theorem mgmtReset_ofManagement (h : Serving s m 7 msg q) (h1 : le (msgBody msg) 0 1 = 1) (hm : s.boot.pol.mayMgmt = true) :
    ∃ u, u = mboxServe 7 m true (advance s t) ∧ u.pend = [] ∧ u.boot.fw = false ∧ flag u 0x204 3 = true ∧ u.mem = s.mem ∧ u.sio = s.sio := by
  have hc := (carryOut_reset h (served s t q)).trans (cmdReset_management h1 true hm)
  have e := mboxServe_eq h t true hc
  rw [afterReply_reset h rfl] at e
  have hr := replied_mboxReply m (replyBytes msg (plainReply 0 (served s t q))) 0 (served s t q)
  obtain ⟨⟨hpend, hfw, -, -, -, hmem, hsio, -⟩, hflag, -⟩ := managementWasReset (cause := 3) (ctr := 0x21C) (by decide) (.inl (by decide)) (by decide)
    (by decide) (by decide) (mboxReply m (replyBytes msg (plainReply 0 (served s t q))) 0 (served s t q))
  rw [hr.mem] at hmem
  rw [hr.sio] at hsio
  exact ⟨_, e.symm, hpend, hfw, hflag, hmem, hsio⟩

theorem mgmtReset_ofModule (h : Serving s m 7 msg q) (h2 : le (msgBody msg) 0 1 = 2) (hm : s.boot.pol.mayModule = true) :
    ∃ u, u = mboxServe 7 m true (advance s t) ∧ phase u = 0 ∧ AllSafe u ∧ flag u 0x204 2 = true := by
  have hc := (carryOut_reset h (served s t q)).trans ((cmdReset_module h2).trans (if_pos hm))
  have e := mboxServe_eq h t true hc
  rw [afterReply_reset h rfl] at e
  obtain ⟨⟨hphase, -, -, hsafe, -⟩, hflag⟩ := moduleWasReset 2 (by decide) { s with svc := { s.svc with queue := q } } (t := t)
  exact ⟨_, e.symm, hphase, hsafe, hflag⟩

theorem mgmtReset_refused (h : Serving s m 7 msg q)
    (hr : le (msgBody msg) 0 1 = 1 ∧ s.boot.pol.mayMgmt = false ∨ le (msgBody msg) 0 1 = 2 ∧ s.boot.pol.mayModule = false) :
    ∃ u, u = mboxServe 7 m true (advance s t) ∧ Answered u m 3 ∧ u.mem = s.mem ∧ u.boot = s.boot := by
  have hc : carryOut msg true (served s t q) = plainReply 3 (served s t q) := by
    rw [carryOut_reset h]
    obtain ⟨h1, hm⟩ | ⟨h2, hm⟩ := hr
    · exact cmdReset_management h1 false hm
    · exact (cmdReset_module h2).trans (if_neg (Bool.not_eq_true _ ▸ hm))
  have e := mboxServe_eq h t true hc
  rw [afterReply_refused (show 3 ≠ 0 by decide)] at e
  have hu := replied_mboxReply m (replyBytes msg (plainReply 3 (served s t q))) 3 (served s t q)
  exact ⟨_, e.symm, hu.answered (by decide), hu.mem, hu.boot⟩

end

/-! ## The statement -/

/-- Settles O59: serving the message at the head of the queue comes to the reply of its command in the mailbox, and, for a RESET that is permitted, to that
reset behind it. -/
theorem managementCommandsAnswer : Obligations.ManagementCommandsAnswer := by
  unfold Obligations.ManagementCommandsAnswer
  refine ⟨fun t m s msg q h => ?_, fun t m s msg q h => ?_, fun t m s msg q h hl h4 => ?_, fun t m s msg q h hl => ?_, fun t m s msg q h hl h1 h40 => ?_,
    fun t m s msg q h => ?_, fun t m same s msg hi hf hb => ?_, fun t m s msg q h => ?_, fun t m s msg q h => ?_⟩
  · obtain ⟨u, rfl, hu⟩ := mgmtVersion_replies (t := t) h
    exact ⟨_, rfl, hu⟩
  · obtain ⟨u, rfl, hu⟩ := mgmtReadReg_replies (t := t) h
    exact ⟨_, rfl, hu⟩
  · exact mgmtWriteReg_replies h hl h4
  · obtain ⟨u, rfl, hu⟩ := mgmtReadMem_replies (t := t) h hl
    exact ⟨_, rfl, hu⟩
  · exact mgmtWriteMem_replies h hl h1 h40
  · obtain ⟨u, rfl, hu⟩ := imageWrite_starts (t := t) h
    exact ⟨_, rfl, hu⟩
  · obtain ⟨u, rfl, hu⟩ := imageWrite_ends (t := t) same hi hf hb
    exact ⟨_, rfl, hu⟩
  · refine ⟨fun h1 hm => ?_, fun h2 hm => ?_, fun hr => ?_⟩
    · obtain ⟨u, rfl, hu⟩ := mgmtReset_ofManagement (t := t) h h1 hm
      exact ⟨_, rfl, hu⟩
    · obtain ⟨u, rfl, hu⟩ := mgmtReset_ofModule (t := t) h h2 hm
      exact ⟨_, rfl, hu⟩
    · obtain ⟨u, rfl, hu⟩ := mgmtReset_refused (t := t) h hr
      exact ⟨_, rfl, hu⟩
  · have hr := mboxServe_replied h (by decide) t true rfl rfl
    refine ⟨_, rfl, hr.answered (show 0 < 256 by decide), by rw [hr.svc]; rfl, hr.mem, fun k h2 hk => ?_⟩
    obtain ⟨j, rfl⟩ := Nat.exists_eq_add_of_le h2
    rw [hr.word _ hk, show 4 * (2 + j) = 8 + 4 * j by omega, le_of_drop (drop_replyBytes_echo h.size h.len rfl), le_of_drop rfl]

end Sys2Proof.Proofs
end

section
/-!
A partition reset and the registers (R262, R296): of those below the scheduler's block none changes, and no partition's EN.  Every register that tearing contexts
down, the Wardrobe's boundaries and the tensor cores' work write is the scheduler's, the Wardrobe's or a cluster's.
-/
namespace Sys2Proof.Proofs
open Sys2Proof Sys2Proof.Machine Sys2Proof.Safety Sys2Proof.Laws
variable {σ s u : State}

/-! ## Registers of the scheduler and above it -/

/-- A register of the scheduler's block or of one behind it, other than EN of a partition. -/
def Beyond (off : Nat) : Prop := 0x40000 ≤ canonOff off ∧ ∀ p, canonOff off ≠ partOff p

theorem canonOff_ge_of_ge {lo off : Nat} (hlo : lo ≤ 0x100000) (h : lo ≤ off) : lo ≤ canonOff off := by
  unfold canonOff
  split <;> omega

@[simp] theorem beyond_of_ge {off : Nat} (h : 0x50000 ≤ off) : Beyond off := by
  have hc := canonOff_ge_of_ge (by decide) h
  exact ⟨by omega, fun p => by unfold partOff; omega⟩

theorem beyond_of_sch {off : Nat} (h : 0x40000 ≤ off) (hlt : off < 0x100000) (hp : ∀ p, off ≠ partOff p) : Beyond off := by
  rw [Beyond, canonOff_of_lt hlt]
  exact ⟨h, hp⟩

@[simp] theorem beyond_kvFreePages : Beyond kvFreePages := beyond_of_ge (by decide)
@[simp] theorem beyond_kvDraining : Beyond kvDraining := beyond_of_ge (by decide)
@[simp] theorem beyond_kvPart (p o : Nat) : Beyond (kvPart p + o) := beyond_of_ge (by unfold kvPart; omega)
@[simp] theorem beyond_tcOff (l o : Nat) : Beyond (tcOff l + o) := beyond_of_ge (by unfold tcOff; omega)
@[simp] theorem beyond_tokOff (k n : Nat) : Beyond (tokOff k n) :=
  beyond_of_sch (by unfold tokOff; omega) (by unfold tokOff; omega) fun p => by unfold tokOff partOff; omega

theorem beyond_partOff (p : Nat) {o : Nat} (h0 : 0 < o) (ho : o < 0x100) : Beyond (partOff p + o) :=
  beyond_of_sch (by unfold partOff; omega) (by unfold partOff; omega) fun q => by unfold partOff; omega

/-! ## What keeps the other registers -/

/-- Every register below the scheduler's block, and EN of every partition, is as it was. -/
structure KeepsLow (σ u : State) : Prop where
  low : ∀ x, x < 0x40000 → rd u x = rd σ x
  en : ∀ p, flag u (partOff p) 31 = flag σ (partOff p) 31

/-- Where there is a next state, it keeps them. -/
def YieldsLow (s : State) (o : Option State) : Prop := ∀ u, o = some u → KeepsLow s u

theorem KeepsLow.refl (s : State) : KeepsLow s s := ⟨fun _ _ => rfl, fun _ => rfl⟩

theorem KeepsLow.trans (h : KeepsLow σ s) (k : KeepsLow s u) : KeepsLow σ u :=
  ⟨fun x hx => (k.low x hx).trans (h.low x hx), fun p => (k.en p).trans (h.en p)⟩

theorem KeepsLow.alike (h : KeepsLow σ s) (e : u.regs = s.regs) : KeepsLow σ u :=
  h.trans ⟨fun x _ => rd_of_regs e x, fun _ => flag_of_rd (rd_of_regs e _) 31⟩

theorem KeepsLow.andThen {p : Prop} (h : KeepsLow σ s) (k : KeepsLow σ s → p) : p := k h

theorem KeepsLow.fst {β : Type} {b : β} (h : KeepsLow σ s) : KeepsLow σ (s, b).1 := h

theorem KeepsLow.ite {c : Prop} [Decidable c] {x y : State} (hx : KeepsLow σ x) (hy : KeepsLow σ y) : KeepsLow σ (if c then x else y) := by
  split <;> assumption

theorem KeepsLow.foldl {α : Type} {f : State → α → State} {l : List α} (h : KeepsLow σ s) (hf : ∀ v i, KeepsLow σ v → KeepsLow σ (f v i)) :
    KeepsLow σ (l.foldl f s) := List.foldlRecOn l f h fun v hv i _ => hf v i hv

theorem KeepsLow.foldlFst {α β : Type} {f : State × β → α → State × β} {l : List α} {z : State × β} (h : KeepsLow σ z.1)
    (hf : ∀ v i, KeepsLow σ v.1 → KeepsLow σ (f v i).1) : KeepsLow σ (l.foldl f z).1 :=
  List.foldlRecOn (motive := fun v => KeepsLow σ v.1) l f h fun v hv i _ => hf v i hv

theorem YieldsLow.none : YieldsLow σ none := by
  rintro u ⟨⟩

theorem YieldsLow.some (h : KeepsLow σ s) : YieldsLow σ (some s) := by
  rintro u ⟨⟩; exact h

theorem YieldsLow.ite {c : Prop} [Decidable c] {o q : Option State} (ho : YieldsLow σ o) (hq : YieldsLow σ q) : YieldsLow σ (if c then o else q) := by
  split <;> assumption

theorem YieldsLow.orElse' {o q : Option State} (ho : YieldsLow σ o) (hq : YieldsLow σ q) : YieldsLow σ (orElse' o q) := by
  cases o with
  | none => exact hq
  | some v => exact ho

theorem KeepsLow.wrReg {off : Nat} {v : Word} (h : KeepsLow σ s) (ho : Beyond off := by simp) : KeepsLow σ (wrReg s off v) := by
  obtain ⟨hge, hen⟩ := ho
  refine h.trans ⟨fun x hx => rd_wrReg_ne _ _ _ _ ?_, fun p => flag_of_rd (rd_wrReg_ne _ _ _ _ ?_) 31⟩
  · rw [canonOff_of_lt (by omega : x < 0x100000)]
    omega
  · rw [canonOff_of_lt (by unfold partOff; omega : partOff p < 0x100000)]
    exact (hen p).symm

theorem KeepsLow.setFld {off lo w v : Nat} (h : KeepsLow σ s) (ho : Beyond off := by simp) : KeepsLow σ (setFld s off lo w v) := h.wrReg ho

theorem KeepsLow.setFlag {off i : Nat} {b : Bool} (h : KeepsLow σ s) (ho : Beyond off := by simp) : KeepsLow σ (setFlag s off i b) := h.setFld ho

theorem KeepsLow.bumpBy {off n : Nat} (h : KeepsLow σ s) (ho : Beyond off := by simp) : KeepsLow σ (bumpBy s off n) := h.wrReg ho

theorem KeepsLow.bump {off : Nat} (h : KeepsLow σ s) (ho : Beyond off := by simp) : KeepsLow σ (bump s off) := h.bumpBy ho

theorem KeepsLow.signal {k n : Nat} {v : Word} (h : KeepsLow σ s) : KeepsLow σ (signal s k n v) := (h.wrReg (beyond_tokOff k n)).alike (by rfl)

/-- STATE of a partition is not its EN. -/
theorem KeepsLow.setState {p v : Nat} (h : KeepsLow σ s) : KeepsLow σ (Machine.setFld s (partOff p) 16 2 v) := by
  have hlt : ∀ q, partOff q < 0x100000 := fun q => by unfold partOff; omega
  refine h.trans ⟨fun x hx => rd_setFld_ne _ _ _ _ _ _ (canonOff_ne_low (by omega) (hlt p) (by unfold partOff; omega)), fun q => ?_⟩
  by_cases hq : partOff q = partOff p
  · rw [hq]
    exact flag_setFld_ne _ _ (by decide) (.inr (by decide))
  · exact flag_of_rd (rd_setFld_ne _ _ _ _ _ _ (canonOff_ne_low (hlt q) (hlt p) hq)) 31

/-! ## The operations of a partition reset, in the order of the model -/

theorem KeepsLow.wrMem {a : Nat} {bs : List Byte} (h : KeepsLow σ s) : KeepsLow σ (wrMem s a bs) := h.alike (by rfl)

theorem KeepsLow.wrLE {a n v : Nat} (h : KeepsLow σ s) : KeepsLow σ (wrLE s a n v) := h.wrMem

theorem KeepsLow.setCtx {p n : Nat} {c : Ctx} (h : KeepsLow σ s) : KeepsLow σ (setCtx s p n c) := h.alike (by rfl)

theorem KeepsLow.setCore {l : Nat} {c : LCore} (h : KeepsLow σ s) : KeepsLow σ (setCore s l c) := h.alike (by rfl)

theorem KeepsLow.setSlot {l k : Nat} {v : SlotCtx} (h : KeepsLow σ s) : KeepsLow σ (setSlot s l k v) := h.setCore

theorem KeepsLow.setBank {l b : Nat} {v : BankSt} (h : KeepsLow σ s) : KeepsLow σ (setBank s l b v) := h.setCore

theorem KeepsLow.bankAbort {l b : Nat} (h : KeepsLow σ s) : KeepsLow σ (bankAbort s l b) := .ite h.setBank.bump h

theorem KeepsLow.bankWake {l b : Nat} {wr : Bool} (h : KeepsLow σ s) : KeepsLow σ (bankWake s l b wr) := .ite h.setBank.bump h

theorem KeepsLow.touchCore {wr : Bool} {a len : Nat} (h : KeepsLow σ s) : KeepsLow σ (touchCore s wr a len) := by
  unfold Machine.touchCore
  dsimp only
  split
  · exact h
  · exact .ite h (.foldl h fun _ _ h => h.bankAbort.bankWake)

theorem KeepsLow.touch {wr : Bool} {a len : Nat} (h : KeepsLow σ s) : KeepsLow σ (touch s wr a len) := .foldl h fun _ _ h => h.touchCore

theorem KeepsLow.selfFetch {l : Nat} {x : Credit} {mc : Bool} (h : KeepsLow σ s) : KeepsLow σ (selfFetch s l x mc) := h.setCore.bump

theorem KeepsLow.cancelPromises {w p n : Nat} (h : KeepsLow σ s) :
    KeepsLow σ (cancelPromises s w p n) := .foldl h fun _ _ h => .foldl h fun _ _ h => h.selfFetch

theorem KeepsLow.recordTcFault {l k n code : Nat} (h : KeepsLow σ s) : KeepsLow σ (recordTcFault s l k n code) := .ite h h.wrReg

theorem KeepsLow.raise {p n l code : Nat} (h : KeepsLow σ s) : KeepsLow σ (raise s p n l code) := by
  unfold Machine.raise
  dsimp only
  split
  · exact h
  · exact h
  · exact h.recordTcFault.setCtx.cancelPromises

theorem KeepsLow.noteFence {p a : Nat} (h : KeepsLow σ s) : KeepsLow σ (noteFence s p a) :=
  ((h.bump (beyond_partOff p (by decide) (by decide))).wrReg (beyond_partOff p (by decide) (by decide))).setFld (beyond_partOff p (by decide) (by decide))

theorem KeepsLow.raiseAcc {p n l : Nat} {x : Acc} (h : KeepsLow σ s) : KeepsLow σ (raiseAcc s p n l x) := by
  unfold Machine.raiseAcc
  split
  · exact h
  · exact h.noteFence.raise
  · exact h.raise

theorem KeepsLow.nondet {p : Nat} (h : KeepsLow σ s) : KeepsLow σ (nondet s p) := h.bump (beyond_partOff p (by decide) (by decide))

theorem KeepsLow.raiseErrs {p n l : Nat} {es : Errs} (h : KeepsLow σ s) : KeepsLow σ (raiseErrs s p n l es) := by
  unfold Machine.raiseErrs
  split
  · exact h
  · exact .ite h.noteFence.raise h.raise

theorem KeepsLow.endWait {l k : Nat} (h : KeepsLow σ s) : KeepsLow σ (endWait s l k) := by
  unfold Machine.endWait
  dsimp only
  split
  · exact h
  · exact h.setSlot

theorem KeepsLow.dropRing {l k : Nat} (h : KeepsLow σ s) : KeepsLow σ (dropRing s l k) := .ite h.setCore h

theorem KeepsLow.beginWait {l k : Nat} {w : Wait} (h : KeepsLow σ s) : KeepsLow σ (beginWait s l k w) := by
  unfold Machine.beginWait
  dsimp only
  split
  · exact h
  · exact h.setSlot.dropRing

theorem KeepsLow.touchRanges {wr : Bool} {rs : List (Nat × Nat)} (h : KeepsLow σ s) :
    KeepsLow σ (touchRanges s wr rs) := .foldl h fun _ _ h => h.touch

theorem KeepsLow.landBytes {a n : Nat} {bs : List Byte} (h : KeepsLow σ s) : KeepsLow σ (landBytes a n bs s) := by
  induction n generalizing bs s with
  | zero => exact h
  | succ n ih =>
    cases bs with
    | nil => exact h
    | cons b bs => exact ih h.wrMem

theorem KeepsLow.landReads {l p n : Nat} {rs : List (Nat × Nat)} (h : KeepsLow σ s) :
    KeepsLow σ (landReads s l p n rs) := by
  unfold Machine.landReads
  dsimp only
  split
  · exact h
  · split
    · exact h
    · split
      · exact h
      · exact h.touch.landBytes

theorem KeepsLow.afterReads {p n l : Nat} {rs : List (Nat × Nat)} {f : State → State} (h : KeepsLow σ s)
    (hf : ∀ v, KeepsLow σ v → KeepsLow σ (f v)) :
    KeepsLow σ (afterReads s p n l rs f) := by
  unfold Machine.afterReads
  split
  · exact hf _ h.touchRanges
  · exact h.raiseAcc

theorem KeepsLow.wrElems {p n l : Nat} {es : List (Nat × List Byte)} (h : KeepsLow σ s) :
    KeepsLow σ (wrElems p n l es s) := by
  induction es generalizing s with
  | nil => exact h
  | cons e r ih =>
    unfold Machine.wrElems
    split
    · exact .ite h.raise (ih h.touch.wrMem)
    · exact h.raiseAcc

theorem KeepsLow.setAcc {l a : Nat} {v : AccSlot} (h : KeepsLow σ s) : KeepsLow σ (setAcc s l a v) := h.setCore

theorem KeepsLow.eachRow {p n l : Nat} {f : Nat → SSt → SSt} {rows : List Nat} {x : SSt} (h : KeepsLow σ x.1)
    (hf : ∀ i v, KeepsLow σ v.1 → KeepsLow σ (f i v).1) : KeepsLow σ (eachRow p n l f rows x).1 := by
  unfold Machine.eachRow
  refine h.foldlFst fun _ _ h => ?_
  split
  · exact hf _ _ h
  · exact h

theorem KeepsLow.rowWith {fetch : State → State} {p n l : Nat} {reads : List (Nat × Nat)} {x : SSt} {f : State → List
    (Nat × List Byte) × Stats}
    (h : KeepsLow σ x.1) (hfetch : ∀ v, KeepsLow σ v → KeepsLow σ (fetch v)) :
    KeepsLow σ (rowWith fetch p n l reads x f).1 := by
  unfold Machine.rowWith
  split
  · exact (hfetch _ h.touchRanges).wrElems
  · exact h.raiseAcc

theorem KeepsLow.rowDo {p n l : Nat} {reads : List (Nat × Nat)} {x : SSt} {f : State → List (Nat × List Byte) × Stats} (h : KeepsLow σ x.1) :
    KeepsLow σ (rowDo p n l reads x f).1 := .rowWith h (fun _ h => h.landReads)

theorem KeepsLow.effEwise {l : Nat} {sc : SlotCtx} {fl : InFlight} {t : Nat} {x : SSt} (h : KeepsLow σ x.1) :
    KeepsLow σ (effEwise l sc fl t x).1 := by
  unfold Machine.effEwise
  dsimp only
  split
  · exact .eachRow h (fun _ _ h => h.rowDo)
  · exact h

theorem KeepsLow.effStat {l : Nat} {sc : SlotCtx} {fl : InFlight} {t : Nat} {x : SSt} (h : KeepsLow σ x.1) :
    KeepsLow σ (effStat l sc fl t x).1 := by
  unfold Machine.effStat
  dsimp only
  split
  · exact .eachRow h (fun _ _ h => h.rowDo)
  · exact h

theorem KeepsLow.effPool {l : Nat} {sc : SlotCtx} {fl : InFlight} {t : Nat} {x : SSt} (h : KeepsLow σ x.1) :
    KeepsLow σ (effPool l sc fl t x).1 := by
  unfold Machine.effPool
  dsimp only
  split
  · exact .eachRow h (fun _ _ h => h.rowDo)
  · exact h

theorem KeepsLow.effArgmax {l : Nat} {sc : SlotCtx} {fl : InFlight} {t : Nat} {x : SSt} (h : KeepsLow σ x.1) :
    KeepsLow σ (effArgmax l sc fl t x).1 := by
  unfold Machine.effArgmax
  dsimp only
  split
  · exact .eachRow h (fun _ _ h => h.rowDo)
  · exact h

theorem KeepsLow.effXpnd {l : Nat} {sc : SlotCtx} {fl : InFlight} {t kb : Nat} {x : SSt} (h : KeepsLow σ x.1) :
    KeepsLow σ (effXpnd l sc fl t kb x).1 := by
  unfold Machine.effXpnd
  dsimp only
  split
  · exact .eachRow h (fun _ _ h => h.rowDo)
  · exact h

theorem KeepsLow.wrW {a : Nat} {w : Word} (h : KeepsLow σ s) : KeepsLow σ (wrW s a w) := h.wrLE

theorem KeepsLow.effAttnInit {l : Nat} {fl : InFlight} {rows d : Nat} (h : KeepsLow σ s) :
    KeepsLow σ (effAttnInit l fl rows d s) := .foldl h fun _ _ h => .foldl h.wrW.wrW fun _ _ h => h.wrW

theorem KeepsLow.attnRow {l : Nat} {sc : SlotCtx} {fl : InFlight} {q k v : Opnd} {t kb i : Nat} (h : KeepsLow σ s) :
    KeepsLow σ (attnRow l sc fl q k v t kb i s) :=
  .foldl h.wrMem.wrW.wrW.wrW.wrW fun _ _ h => h.wrW

theorem KeepsLow.touchWork {l : Nat} {fl : InFlight} (h : KeepsLow σ s) : KeepsLow σ (touchWork l fl s) := h.touchRanges

theorem KeepsLow.countEmpty {p : Nat} (h : KeepsLow σ s) : KeepsLow σ (countEmpty s p) :=
  (h.setFlag (beyond_kvPart p 0x1C)).bump (beyond_kvPart p 0x20)

theorem KeepsLow.attnEndRow {l : Nat} {sc : SlotCtx} {fl : InFlight} {o : Opnd} {D t i : Nat} {x : SSt} (h : KeepsLow σ x.1) :
    KeepsLow σ (attnEndRow l sc fl o D t i x).1 := .rowDo (.ite h.countEmpty h)

theorem KeepsLow.effAttn {l : Nat} {sc : SlotCtx} {fl : InFlight} {e : Eff} {x : SSt} (h : KeepsLow σ x.1) :
    KeepsLow σ (effAttn l sc fl e x).1 := by
  unfold Machine.effAttn
  split
  · split
    · exact h.touchWork.effAttnInit
    · extract_lets k v
      refine .eachRow h (fun _ _ h => .fst ?_)
      exact .afterReads h (fun _ h => h.touchWork.landReads.attnRow)
    · exact .eachRow h (fun _ _ h => h.attnEndRow)
    · exact h
  · exact h

theorem KeepsLow.effScaleEntries {l : Nat} {sc : SlotCtx} {fl : InFlight} {first count : Nat} (h : KeepsLow σ s) :
    KeepsLow σ (effScaleEntries l sc fl first count s) := .foldl h.touch fun _ _ h => h.setCore

theorem KeepsLow.effScaleTable {l : Nat} {fl : InFlight} (h : KeepsLow σ s) : KeepsLow σ (effScaleTable l fl s) := h.touch.setCore

theorem KeepsLow.wrRow {p n l a : Nat} {bs : List Byte} (h : KeepsLow σ s) :
    KeepsLow σ (wrRow p n l a bs s) := h.wrElems

theorem KeepsLow.effFill {l : Nat} {sc : SlotCtx} {fl : InFlight} {first count : Nat} {x : SSt} (h : KeepsLow σ x.1) :
    KeepsLow σ (effFill l sc fl first count x).1 := by
  unfold Machine.effFill
  dsimp only
  split
  · exact .eachRow h (fun _ _ h => h.wrRow)
  · exact h

theorem KeepsLow.effScopy {l : Nat} {sc : SlotCtx} {fl : InFlight} {first count : Nat} {x : SSt} (h : KeepsLow σ x.1) :
    KeepsLow σ (effScopy l sc fl first count x).1 := by
  unfold Machine.effScopy
  dsimp only
  split
  · exact .eachRow h (fun _ _ h => .afterReads h (fun _ h => h.wrRow))
  · exact h

theorem KeepsLow.unitEff {l : Nat} {sc : SlotCtx} {fl : InFlight} {e : Eff} {x : SSt} (h : KeepsLow σ x.1) :
    KeepsLow σ (unitEff l sc fl e x).1 := by
  unfold Machine.unitEff
  split
  · exact h.effXpnd
  · exact h.effAttn
  · exact h.effAttn
  · exact h.effAttn
  · exact h.effEwise
  · exact h.effPool
  · exact h.effArgmax
  · exact h.effStat
  · exact h.effScaleEntries
  · exact h.effScaleTable
  · exact h.effFill
  · exact h.effScopy
  · exact h

theorem KeepsLow.setFlight {l k i : Nat} {f : InFlight} (h : KeepsLow σ s) : KeepsLow σ (setFlight s l k i f) := by
  unfold Machine.setFlight
  split
  · exact h
  · exact h.setSlot

theorem KeepsLow.putMma {l k i : Nat} {m : Mma} (h : KeepsLow σ s) : KeepsLow σ (putMma s l k i m) := by
  unfold Machine.putMma
  split
  · exact h
  · exact h.setFlight

theorem KeepsLow.settleDrain {l k i : Nat} {m : Mma} (h : KeepsLow σ s) : YieldsLow σ (settleDrain s l k i m) := by
  unfold Machine.settleDrain
  dsimp only
  split
  · exact .none
  · split
    · exact .some h.setAcc.putMma
    · exact .none

theorem KeepsLow.settleFinish {l k i : Nat} {m : Mma} (h : KeepsLow σ s) : YieldsLow σ (settleFinish s l k i m) := by
  unfold Machine.settleFinish
  dsimp only
  split
  · exact .none
  · exact .ite .none (.some h.setAcc.putMma)

theorem KeepsLow.settleRedo {sc : SlotCtx} {l k i : Nat} {m : Mma} (h : KeepsLow σ s) : YieldsLow σ (settleRedo s sc l k i m) := by
  unfold Machine.settleRedo
  dsimp only
  split
  · exact .some h.setAcc.putMma
  · exact .none

theorem KeepsLow.settleBegin {sc : SlotCtx} {l k i : Nat} {f : InFlight} {m : Mma} (h : KeepsLow σ s) :
    YieldsLow σ (settleBegin s sc l k i f m) := by
  unfold Machine.settleBegin
  dsimp only
  split
  · exact .none
  · split
    · exact .none
    · split
      · exact .none
      · split
        · exact .none
        · split
          · exact .none
          · split
            · exact .ite (.some h.raiseErrs) (.some (.putMma (.ite h (.ite h.setAcc h.setAcc))))
            · exact .some h.raiseAcc

theorem KeepsLow.settlePass {sc : SlotCtx} {l k i : Nat} {m : Mma} (h : KeepsLow σ s) : YieldsLow σ (settlePass s sc l k i m) := by
  unfold Machine.settlePass
  dsimp only
  split
  · exact .none
  · split
    · exact .none
    · refine .some ?_
      refine .putMma ?_
      split
      · exact h
      · exact h.signal

theorem KeepsLow.attnFree {l : Nat} {f : InFlight} (h : KeepsLow σ s) : KeepsLow σ (attnFree s l f) := by
  unfold Machine.attnFree
  split
  · exact .foldl h fun _ _ h => h.setAcc
  · exact h

theorem KeepsLow.unitApply {sc : SlotCtx} {l k i : Nat} {f : InFlight} {u : WorkUnit} (h : KeepsLow σ s) :
    KeepsLow σ (unitApply s sc l k i f u) := by
  unfold Machine.unitApply
  dsimp only
  split
  · exact h.attnFree.unitEff
  · exact h.attnFree.unitEff.setFlight

theorem KeepsLow.settleUnit {sc : SlotCtx} {l k i : Nat} {f : InFlight} (h : KeepsLow σ s) :
    YieldsLow σ (settleUnit s sc l k i f) := by
  unfold Machine.settleUnit
  split
  · exact .none
  · exact .ite (.some h.unitApply) .none

theorem KeepsLow.settle1 {l k i : Nat} (h : KeepsLow σ s) : YieldsLow σ (settle1 s l k i) := by
  unfold Machine.settle1
  split
  · split
    · exact .none
    · split
      · exact h.settleUnit
      · exact .orElse' h.settleDrain (.orElse' h.settleFinish (.orElse' h.settleRedo (.orElse' h.settleBegin h.settlePass)))
  · exact .none

theorem KeepsLow.settleN {n l k i : Nat} (h : KeepsLow σ s) : KeepsLow σ (settleN n s l k i) := by
  induction n generalizing s with
  | zero => exact h
  | succ n ih =>
    unfold Machine.settleN
    split
    · exact h
    · next v e => exact ih (h.settle1 v e)

theorem KeepsLow.noteWait {l k : Nat} (h : KeepsLow σ s) : KeepsLow σ (noteWait s l k) := by
  unfold Machine.noteWait
  dsimp only
  split
  · exact h
  · split
    · exact .ite h h.beginWait.touchRanges.touchRanges
    · exact .ite h.endWait h
    · exact h

theorem KeepsLow.settle {l k : Nat} (h : KeepsLow σ s) :
    KeepsLow σ (settle s l k) := h.settleN.settleN.settleN.noteWait

theorem KeepsLow.setWctr {key : Nat} {w : Wctr} (h : KeepsLow σ s) : KeepsLow σ (setWctr s key w) := h.alike (by rfl)

theorem KeepsLow.sendRow {l : Nat} {sc : SlotCtx} {ip : Nat} {m : Mma} {j : Nat} (h : KeepsLow σ s) :
    KeepsLow σ (sendRow s l sc ip m j) := by
  unfold Machine.sendRow
  dsimp only
  split
  · exact h
  · exact .ite h h.setWctr

theorem KeepsLow.phSet {pg o n v : Nat} (h : KeepsLow σ s) : KeepsLow σ (phSet pg o n v s) := h.wrLE

theorem KeepsLow.pageFree {pg : Nat} (h : KeepsLow σ s) :
    KeepsLow σ (pageFree s pg) := (h.alike (by rfl)).setFld.setFld

theorem KeepsLow.pageTake {p : Nat} {r : Nat × State} (h : KeepsLow σ s) (e : pageTake s p = some r) :
    KeepsLow σ r.2 := by
  unfold Machine.pageTake at e
  extract_lets go at e
  have hgo {pg : Nat} {v : State} (h : KeepsLow σ v) : KeepsLow σ (go pg v).2 := h.phSet.setFld.setFld
  split at e
  · cases e; exact hgo (h.alike (by rfl))
  · split at e
    · cases e; exact hgo (h.alike (by rfl))
    · cases e

theorem KeepsLow.pageTakeN {p n : Nat} (h : KeepsLow σ s) : KeepsLow σ (pageTakeN p n s).2 := by
  induction n generalizing s with
  | zero => exact h
  | succ n ih =>
    unfold Machine.pageTakeN
    split
    · exact h
    · next e => exact ih (h.pageTake e)

theorem KeepsLow.dropRef {pg : Nat} (h : KeepsLow σ s) :
    KeepsLow σ (dropRef s pg) := .ite h.phSet (.ite h.phSet.pageFree h.phSet.phSet.setFld)

theorem KeepsLow.addRef {pg : Nat} (h : KeepsLow σ s) : KeepsLow σ (addRef s pg) := h.phSet

theorem KeepsLow.unpin {pg : Nat} (h : KeepsLow σ s) :
    KeepsLow σ (unpin s pg) := .ite h.phSet.pageFree.setFld h.phSet

theorem KeepsLow.setSeq {q : Nat} {x : Seq} (h : KeepsLow σ s) : KeepsLow σ (setSeq s q x) := h.alike (by rfl)

theorem KeepsLow.seqFree {q : Nat} (h : KeepsLow σ s) : KeepsLow σ (seqFree s q) := by
  unfold Machine.seqFree
  dsimp only
  split
  · exact h
  · exact ((KeepsLow.foldl (.foldl h fun _ _ h => h.dropRef) fun _ _ h => h.pageFree).alike (by rfl)).setFld

theorem KeepsLow.pageHot {p pg : Nat} (h : KeepsLow σ s) : KeepsLow σ (pageHot p s pg) :=
  .ite h (h.alike (by rfl))

theorem KeepsLow.nodeHot {x : Node} (h : KeepsLow σ s) :
    KeepsLow σ (nodeHot s x) := .foldl (h.alike (by rfl)) fun _ _ h => h.pageHot

theorem KeepsLow.coolPage {pg : Nat} (h : KeepsLow σ s) :
    KeepsLow σ (coolPage s pg) := .ite h ((KeepsLow.ite h.phSet h).alike (by rfl))

theorem KeepsLow.nodeDrop {x : Node} (h : KeepsLow σ s) :
    KeepsLow σ (nodeDrop s x) :=
  .foldl (.foldl (h.alike (by rfl)) fun _ _ h => h.coolPage) fun _ _ h => h.dropRef

theorem KeepsLow.evict {p key : Nat} (h : KeepsLow σ s) :
    KeepsLow σ (evict s p key) := .foldl h fun _ _ h => h.nodeDrop

theorem KeepsLow.kvNote {p : Nat} {wr : Bool} {a n : Nat} (h : KeepsLow σ s) : KeepsLow σ (kvNote s p wr a n) := by
  unfold Machine.kvNote
  split
  · exact h.noteFence
  · exact h

theorem KeepsLow.kvWrite {p a n v : Nat} (h : KeepsLow σ s) : KeepsLow σ (kvWrite p a n v s) := by
  unfold Machine.kvWrite
  split
  · exact h.wrLE
  · exact h.noteFence
  · exact h

theorem KeepsLow.setStatus {p i v : Nat} (h : KeepsLow σ s) : KeepsLow σ (setStatus p i v s) := h.kvWrite

theorem KeepsLow.admitSeq {p i : Nat} {model : List Byte} {res : List Nat} (h : KeepsLow σ s) :
    KeepsLow σ (admitSeq s p i model res) := by
  unfold Machine.admitSeq
  dsimp only
  split
  · exact (KeepsLow.foldl h.kvNote fun _ _ h => h.addRef).andThen fun h1 =>
      (KeepsLow.kvWrite (.bumpBy (.ite h1.setSeq.bump h1.setSeq))).andThen fun h2 =>
        .setFld (.ite (.foldl h2 fun _ _ h => h.nodeHot) h2)
  · split
    · exact h
    · exact .setFld (.setSeq (.foldl h fun _ _ h => h.addRef))
  · exact h.setSeq.setFld

theorem KeepsLow.grant {p i : Nat} (h : KeepsLow σ s) : KeepsLow σ (grant s p i) := by
  unfold Machine.grant
  dsimp only
  split
  · split
    · exact h
    · exact h.pageTakeN.admitSeq.setStatus
  · split
    · exact h
    · exact h.pageTakeN.setSeq.setStatus

theorem KeepsLow.grantAll {p : Nat} {is : List Nat} {stop : Bool} (h : KeepsLow σ s) :
    KeepsLow σ (grantAll p is stop s) := by
  induction is generalizing stop s with
  | nil => exact h
  | cons i r ih =>
    unfold Machine.grantAll
    split
    · exact .ite (ih h.setStatus.bump) (ih h.setStatus)
    · exact .ite (ih h.setStatus.bump) (ih h.grant)

theorem KeepsLow.advanceHead {p n : Nat} (h : KeepsLow σ s) : KeepsLow σ (advanceHead p n s) := by
  induction n generalizing s with
  | zero => exact h
  | succ n ih => exact .ite (ih h.kvWrite.setFld) h

theorem KeepsLow.freeAll {p : Nat} {is : List Nat} (h : KeepsLow σ s) : KeepsLow σ (freeAll p is s).2 := by
  induction is generalizing s with
  | nil => exact h
  | cons i r ih =>
    unfold Machine.freeAll
    split
    · exact ih h.setStatus
    · split
      · split
        · exact h
        · exact ih h.seqFree.setStatus
      · exact ih h.evict.setStatus

theorem KeepsLow.ringNotes {p : Nat} (h : KeepsLow σ s) :
    KeepsLow σ (ringNotes s p) := (KeepsLow.foldl h fun _ _ h => .ite h.kvNote h).andThen fun h1 => .ite h1 h1.kvNote

theorem KeepsLow.applyBoundary {b : Boundary} (h : KeepsLow σ s) : KeepsLow σ (applyBoundary s b).2 := by
  unfold Machine.applyBoundary
  dsimp only
  split
  · exact .freeAll (.ite h h.ringNotes)
  · exact .signal (.advanceHead (.grantAll (.freeAll (.ite h h.ringNotes))))

theorem KeepsLow.runBounds {bs left : List Boundary} (h : KeepsLow σ s) : KeepsLow σ (runBounds bs left s) := by
  induction bs generalizing left s with
  | nil => exact h.alike (by rfl)
  | cons b r ih =>
    have hb : KeepsLow σ (Machine.applyBoundary s b).2 := h.applyBoundary
    unfold Machine.runBounds
    refine .ite (ih h) ?_
    split <;> (next e => rw [e] at hb; exact ih hb)

theorem KeepsLow.runBoundaries (h : KeepsLow σ s) : KeepsLow σ (runBoundaries s) := (h.alike (by rfl)).runBounds

theorem KeepsLow.modAppend {p n ip : Nat} {f : Append → Append} (h : KeepsLow σ s) : KeepsLow σ (modAppend s p n ip f) := h.alike (by rfl)

theorem KeepsLow.copyDone {p n ip : Nat} (h : KeepsLow σ s) : KeepsLow σ (copyDone s p n ip) := by
  unfold Machine.copyDone
  dsimp only
  split
  · exact h
  · split
    · exact h.wrMem.setSeq.bump.dropRef.unpin.modAppend
    · exact h.unpin.modAppend
    · exact h

theorem KeepsLow.giveItem {l k item : Nat} (h : KeepsLow σ s) : KeepsLow σ (giveItem s l k item) := by
  unfold Machine.giveItem
  dsimp only
  split
  · exact h
  · split
    · exact h
    · refine .settle ?_
      split
      · exact h.nondet.putMma
      · exact .ite h.nondet.putMma.sendRow h.nondet.putMma

theorem KeepsLow.giveNone {l k : Nat} (h : KeepsLow σ s) : KeepsLow σ (giveNone s l k) := by
  unfold Machine.giveNone
  split
  · exact h
  · split
    · exact h
    · exact h.nondet.putMma.settle

theorem KeepsLow.wctrIdle {key : Nat} (h : KeepsLow σ s) : KeepsLow σ (wctrIdle s key) := by
  unfold Machine.wctrIdle
  dsimp only
  split
  · exact h.setWctr
  · exact h.setWctr.setCtx

theorem KeepsLow.wctrLeave {key : Nat} (h : KeepsLow σ s) : KeepsLow σ (wctrLeave s key) := .ite h.setWctr.wctrIdle h.setWctr

theorem KeepsLow.wctrServe {key : Nat} {cl : Nat × Nat × Nat × Nat × Nat} (h : KeepsLow σ s) :
    YieldsLow σ (wctrServe s key cl) := by
  unfold Machine.wctrServe
  extract_lets w0 w
  split
  · split
    · exact .some h
    · exact .some h.raise
  · exact .none
  · refine .ite .none ?_
    split
    · exact .some h.setWctr.giveItem
    · exact .ite (.some h.setWctr.giveItem) (.ite (.some h.setWctr.wctrLeave.giveNone) .none)

theorem KeepsLow.wctrRun {n key : Nat} (h : KeepsLow σ s) : KeepsLow σ (wctrRun n s key) := by
  induction n generalizing s with
  | zero => exact h
  | succ n ih =>
    unfold Machine.wctrRun
    extract_lets w
    split
    · exact h
    · split
      · exact h
      · next v e => exact ih (h.setWctr.wctrServe v e)

theorem KeepsLow.wctrServeAll {key : Nat} (h : KeepsLow σ s) : KeepsLow σ (wctrServeAll s key) := h.wctrRun

theorem KeepsLow.wctrDrop {p n key : Nat} (h : KeepsLow σ s) :
    KeepsLow σ (wctrDrop p n s key) := .ite h.setWctr.wctrServeAll h.setWctr

theorem KeepsLow.zringBase {m : Nat} (h : KeepsLow σ s) : KeepsLow σ (zringBase s m) := h.alike (by rfl)

theorem KeepsLow.resetDone {p : Nat} (h : KeepsLow σ s) : KeepsLow σ (resetDone s p) := .ite (.foldl h.setState fun _ _ h => .ite h.zringBase h) h

theorem KeepsLow.setQueue {e vc : Nat} {l : List Chain} (h : KeepsLow σ s) : KeepsLow σ (setQueue s e vc l) := h.alike (by rfl)

theorem KeepsLow.dmaRead {p n a len : Nat} (h : KeepsLow σ s) : KeepsLow σ (dmaRead s p n a len).2 := by
  unfold Machine.dmaRead
  split
  · exact h.touch
  · exact h.alike (by rfl)

theorem KeepsLow.dropLines {p : Nat} (h : KeepsLow σ s) : KeepsLow σ (dropLines s p) := h.alike (by rfl)

theorem KeepsLow.freeBytes {a n : Nat} (h : KeepsLow σ s) : KeepsLow σ (freeBytes s a n) :=
  (h.alike (by rfl)).wrMem

theorem KeepsLow.cutBytes {e i : Nat} {ls : List (Nat × Nat × Nat)} {a : Nat} {new0 : List Byte} (h : KeepsLow σ s) :
    KeepsLow σ (cutBytes e i ls s a new0) := (h.alike (by rfl)).wrMem

theorem KeepsLow.cutDesc {e p n i : Nat} {ls : List (Nat × Nat × Nat)} {d : List Byte} (h : KeepsLow σ s) :
    KeepsLow σ (cutDesc e p n i ls d s) := by
  unfold Machine.cutDesc
  dsimp only
  split
  · exact h
  · refine .foldl h fun _ _ h => ?_
    refine .foldl h.dmaRead fun _ _ h => ?_
    split
    · exact h
    · exact h.cutBytes

theorem KeepsLow.stopChain {e : Nat} {c : Chain} (h : KeepsLow σ s) :
    KeepsLow σ (stopChain e s c) := .foldl h fun _ _ h => h.cutDesc

theorem KeepsLow.stopChains {p n : Nat} (h : KeepsLow σ s) :
    KeepsLow σ (stopChains s p n) :=
  .foldl h fun _ _ h => .foldl h fun _ _ h => .setQueue (.foldl h fun _ _ h => h.stopChain)

theorem KeepsLow.leaveSlot {l k : Nat} (h : KeepsLow σ s) : KeepsLow σ (leaveSlot s l k) := by
  unfold Machine.leaveSlot
  dsimp only
  split
  · exact h
  · exact h.cancelPromises.alike (by rfl)

theorem KeepsLow.spillLost {keep : Nat → Bool} {p : Nat} {c : SlotCtx} (h : KeepsLow σ s) :
    KeepsLow σ (spillLost keep p s c) := .foldl h fun _ _ h => .foldl h fun _ _ h => .ite h.freeBytes h

theorem KeepsLow.dropSlotBut {keep : Nat → Bool} {l k : Nat} (h : KeepsLow σ s) :
    KeepsLow σ (dropSlotBut keep s l k) := by
  unfold Machine.dropSlotBut
  split
  · exact h
  · exact .foldl h.spillLost.leaveSlot fun _ _ h => h.unpin

theorem KeepsLow.dropSlot {l k : Nat} (h : KeepsLow σ s) : KeepsLow σ (dropSlot s l k) := h.dropSlotBut

theorem KeepsLow.endAppend {p n : Nat} {a : Append} (h : KeepsLow σ s) :
    KeepsLow σ (endAppend p n s a) := .ite h ((KeepsLow.ite h.copyDone h).alike (by rfl))

theorem KeepsLow.dropRequests {p n : Nat} (h : KeepsLow σ s) : KeepsLow σ (dropRequests s p n) := h.alike (by rfl)

theorem KeepsLow.teardown {p n : Nat} (h : KeepsLow σ s) : KeepsLow σ (teardown s p n) := by
  unfold Machine.teardown
  dsimp only
  refine .runBoundaries ?_
  refine .foldl ?_ fun _ _ h => ?_
  · refine .dropRequests ?_
    refine .stopChains ?_
    refine .foldl (.foldl (.foldl (.foldl h fun _ _ h => h.spillLost) fun _ _ h => h.endAppend) fun _ _ h => h.unpin) fun _ _ h =>
      ?_
    split
    · exact h
    · exact h.dropSlot
  · exact h.wctrDrop

theorem KeepsLow.teardownTo {p n : Nat} {st : CtxSt} {code : Nat} (h : KeepsLow σ s) :
    KeepsLow σ (teardownTo s p n st code) := h.teardown.setCtx

theorem KeepsLow.partResetCore {p : Nat} (h : KeepsLow σ s) : KeepsLow σ (partResetCore s p) := by
  unfold Machine.partResetCore
  extract_lets v s1 s2 s3 s4 s5 s6 _ s7
  have h1 : KeepsLow σ s1 := .foldl h.setState fun _ _ h => .ite h h.teardownTo
  have h2 : KeepsLow σ s2 := .foldl h1 fun _ _ h => h.seqFree
  have h3 : KeepsLow σ s3 := .foldl h2 fun _ _ h => .ite h.setWctr h
  have h5 : KeepsLow σ s5 := .foldl h3.dropLines fun _ _ h => h.wrReg
  clear_value s5
  have h6 : KeepsLow σ s6 := h5.alike (by rfl)
  clear_value s6
  have h7 : KeepsLow σ s7 := (h6.alike (by rfl)).runBoundaries
  exact .ite h7.resetDone h7.setState

theorem KeepsLow.setStrm {n : Nat} {v : Strm} (h : KeepsLow σ s) : KeepsLow σ (setStrm s n v) := h.alike (by rfl)

theorem KeepsLow.setNring {k : Nat} {v : Ring} (h : KeepsLow σ s) : KeepsLow σ (setNring s k v) := h.alike (by rfl)

theorem KeepsLow.dropHold {k i n : Nat} (h : KeepsLow σ s) : KeepsLow σ (dropHold s k i n) := h.setStrm

theorem KeepsLow.freeNotice {k i : Nat} (h : KeepsLow σ s) : KeepsLow σ (freeNotice s k i) := by
  unfold Machine.freeNotice
  dsimp only
  split
  · exact h
  · exact h.setNring.dropHold

theorem KeepsLow.ingPartReset {p : Nat} (h : KeepsLow σ s) :
    KeepsLow σ (ingPartReset s p) := (KeepsLow.foldl h fun _ _ h => h.freeNotice).andThen fun h1 => .ite h1 h1.setNring

theorem KeepsLow.setDpo {d : Nat} {v : Dpo} (h : KeepsLow σ s) : KeepsLow σ (setDpo s d v) := h.alike (by rfl)

theorem KeepsLow.dpoPartReset {p : Nat} (h : KeepsLow σ s) : KeepsLow σ (dpoPartReset s p) := .foldl h fun _ _ h => .ite h h.setDpo

theorem KeepsLow.statusRecord (h : KeepsLow σ s) : KeepsLow σ (statusRecord s) := (h.alike (by rfl)).wrMem

theorem KeepsLow.restartCheck (h : KeepsLow σ s) : KeepsLow σ (restartCheck s) :=
  .ite h ((h.alike (by rfl)).statusRecord)

theorem KeepsLow.partReset {p : Nat} (h : KeepsLow σ s) :
    KeepsLow σ (partReset s p) :=
  h.partResetCore.ingPartReset.dpoPartReset.andThen fun h1 => .restartCheck (.ite (h1.alike (by rfl)) h1)

end Sys2Proof.Proofs
end

section
/-!
Loss and restart of partitions (R422 to R424) and the safety mailbox (R426).
-/
namespace Sys2Proof.Proofs
open Sys2Proof Sys2Proof.Machine Sys2Proof.Safety Sys2Proof.Laws
variable {s : State} {t : Time}

/-! ## Records and tokens write no register of the Hutch -/

theorem statusRecord_regs (s : State) : (statusRecord s).regs = s.regs := by obtain ⟨m, n, h⟩ := statusRecord_shape s; rw [h]
theorem statusRecord_apend (s : State) : (statusRecord s).hut.apend = s.hut.apend := by obtain ⟨m, n, h⟩ := statusRecord_shape s; rw [h]

theorem signalFb_hut (s : State) : (signalFb s).hut = s.hut :=
  List.foldlRecOn (motive := fun (u : State) => u.hut = s.hut) _ _ rfl fun _ h _ _ => h

theorem keepsLow_signalFb (s : State) : KeepsLow s (signalFb s) := .foldl (.refl s) fun _ _ h => h.signal

/-! ## Loss of class S, restart of class A -/

theorem exec_sContextLost_trips {p : Fin 16} (hc : partClass s p = 0) (hl : (anyFaulted s p || s.hut.lost.contains p.val) = true) :
    ∃ v, exec (.sContextLost t p) s = .next (hutEvent 0x060F p (hutchStop (partGroups s p) v)) ∧ v.mem = s.mem := by
  refine ⟨{ advance s t with hut := { s.hut with lost := s.hut.lost.filter (fun q => decide (q ≠ p.val)) } }, ?_, rfl⟩
  rw [exec_sContextLost, execSContextLost]
  exact congrArg Host.Outcome.next (if_pos ⟨hc, hl⟩)

theorem sContextLost_trips (p : Fin 16) (hc : partClass s p = 0) (hl : (anyFaulted s p || s.hut.lost.contains p.val) = true) :
    ∃ u, exec (.sContextLost t p) s = .next u ∧ u.mem = s.mem ∧ fld u 0x20000 0 16 = 0x060F ∧ ∀ g, g ∈ partGroups s p → ∀ c, (latOf u g c).isSome = true := by
  obtain ⟨v, e, hm⟩ := exec_sContextLost_trips (t := t) hc hl
  exact ⟨_, e, by rw [hutEvent_mem, hutchStop_mem, hm], fld_hutEvent _ _ (by decide), fun g hg c => latched_hutEvent (latched_hutchStop hg v c)⟩

/-- FALLBACK is set and the partition is awaited. -/
def fallenBack (p : Nat) (x : Time) (s : State) : State :=
  { setFlag s 0x20000 28 true with hut := { s.hut with apend := tset s.hut.apend p x } }

theorem exec_aRestart_restarts {p : Fin 16} (hc : partClass s p = 1) (hen : partEn s p = true) (hf : anyFaulted s p = true) :
    ∃ x, exec (.aRestart t p) s = .next (hutEvent 0x0608 p (signalFb (statusRecord (bump (fallenBack p x (partReset (advance s t) p)) (hctReg 7))))) := by
  refine ⟨(advance s t).clk.tb + fld (advance s t) 0x20004 0 16 * 1000000, ?_⟩
  rw [exec_aRestart, execARestart]
  exact congrArg Host.Outcome.next (if_pos ⟨hc, hen, hf⟩)

/-- What the steps of R423 behind the reset leave of the reset's state. -/
theorem fallenBack_steps (p : Nat) (x : Time) (v : State) :
    ∃ u, u = hutEvent 0x0608 p (signalFb (statusRecord (bump (fallenBack p x v) (hctReg 7)))) ∧ flag u 0x20000 28 = true ∧ fld u 0x20000 0 16 = 0x0608 ∧
      (tget? u.hut.apend p).isSome = true ∧ rd u (hctReg 7) = rd v (hctReg 7) + 1 := by
  obtain ⟨w, hw⟩ : ∃ w, w = bump (fallenBack p x v) (hctReg 7) := ⟨_, rfl⟩
  have hlow : ∀ off, off < 0x40000 → rd (signalFb (statusRecord w)) off = rd w off := fun off h => by
    rw [(keepsLow_signalFb (statusRecord w)).low off h, rd_of_regs (statusRecord_regs w)]
  have hset : flag w 0x20000 28 = true := by
    rw [hw, flag_of_rd (rd_bump_ne _ (canonOff_ne_low (by decide) (by decide) (by decide)))]
    exact flag_setFlag_same v 0x20000 (by decide) true
  have hcount : rd w (hctReg 7) = rd v (hctReg 7) + 1 := by
    rw [hw, rd_bump]
    exact congrArg (· + 1) (rd_setFlag_ne v 28 true (canonOff_ne_low (by decide) (by decide) (by decide)))
  rw [← hw]
  refine ⟨_, rfl, ?_, fld_hutEvent _ _ (by decide), ?_, ?_⟩
  · rw [flag_hutEvent _ (by decide) (by decide), flag_of_rd (hlow _ (by decide)), hset]
  · have h : (hutEvent 0x0608 p (signalFb (statusRecord w))).hut.apend = (signalFb (statusRecord w)).hut.apend := rfl
    rw [h, signalFb_hut, statusRecord_apend, hw, show (bump (fallenBack p x v) (hctReg 7)).hut.apend = tset v.hut.apend p x from rfl, tget?_tset_same]
    rfl
  · rw [rd_hutEvent_ne _ (.inl (by decide)) (by decide), hlow _ (by decide), hcount]

theorem aRestart_restarts (p : Fin 16) (hc : partClass s p = 1) (hen : partEn s p = true) (hf : anyFaulted s p = true) :
    ∃ u, exec (.aRestart t p) s = .next u ∧ flag u 0x20000 28 = true ∧ fld u 0x20000 0 16 = 0x0608 ∧ (tget? u.hut.apend p).isSome = true ∧
      rd u (hctReg 7) = rd s (hctReg 7) + 1 := by
  obtain ⟨x, e⟩ := exec_aRestart_restarts (t := t) hc hen hf
  obtain ⟨u, hu, hflag, hfld, hp, hn⟩ := fallenBack_steps p x (partReset (advance s t) p)
  refine ⟨u, hu ▸ e, hflag, hfld, hp, ?_⟩
  rw [hn, (KeepsLow.refl (advance s t)).partReset.low _ (by decide)]
  rfl

theorem rdyTokSignal_last (p : Fin 16) {x : Time} (ha : s.hut.apend = [(p.val, x)]) (ht : token s p (fld s 0x20008 8 6) ≠ 0) :
    ∃ u, exec (.rdyTokSignal t p) s = .next u ∧ flag u 0x20000 28 = false ∧ u.hut.apend = [] := by
  have hd : tdel s.hut.apend p.val = [] := by rw [ha]; simp [tdel]
  have hg : (tget? s.hut.apend p.val).isNone = false := by rw [ha]; simp [tget?]
  have e : exec (.rdyTokSignal t p) s = .next (signalFb (statusRecord (setFlag { advance s t with hut := { s.hut with apend := tdel s.hut.apend p.val } } 0x20000 28 false))) := by
    rw [exec_rdyTokSignal, execRdyTokSignal]
    refine congrArg Host.Outcome.next ((if_neg ?_).trans (if_pos ?_))
    · rintro (h | h)
      · rw [advance_hut, hg] at h
        cases h
      · exact ht h
    · exact congrArg List.isEmpty hd
  refine ⟨_, e, ?_, ?_⟩
  · rw [flag_of_rd ((keepsLow_signalFb _).low 0x20000 (by decide)), flag_of_rd (rd_of_regs (statusRecord_regs _) _), flag_setFlag_same _ _ (by decide)]
  · rw [signalFb_hut, statusRecord_apend]
    exact hd

theorem aLimitExpire_late (p : Fin 16) {x : Time} (ha : tget? s.hut.apend p = some x) (hx : x ≤ max s.clk.tb t) :
    ∃ u, exec (.aLimitExpire t p) s = .next u ∧ fld u 0x20000 0 16 = 0x0609 ∧ flag u 0x20000 28 = flag s 0x20000 28 := by
  have e : exec (.aLimitExpire t p) s = .next (hutEvent 0x0609 p { advance s t with hut := { s.hut with apend := tset s.hut.apend p (2 ^ 64) } }) := by
    rw [exec_aLimitExpire, execALimitExpire]
    dsimp only
    rw [advance_hut, ha]
    exact congrArg Host.Outcome.next (if_neg (Nat.not_lt.mpr hx))
  exact ⟨_, e, fld_hutEvent _ _ (by decide), flag_hutEvent _ (by decide) (by decide)⟩

/-! ## Zones made invalid for a time (R426) -/

theorem hzoneIn_modHzone_same (s : State) (z : Nat) (f : HZone → HZone) (c : Chan) : hzoneIn (modHzone s z f) c z = f (hzoneIn s c z) := by
  cases c <;> simp [hzoneIn, hchanOf, modHzone, HChan.modZone, tget]

theorem hzoneIn_modHzone_ne (s : State) {z y : Nat} (h : y ≠ z) (f : HZone → HZone) (c : Chan) : hzoneIn (modHzone s z f) c y = hzoneIn s c y := by
  cases c <;> simp [hzoneIn, hchanOf, modHzone, HChan.modZone, tget, tget?_tset_ne _ _ _ _ h]

/-- Zone `z` counts as invalid for `n` epochs more. -/
def barZone (n : Nat) (s : State) (z : Nat) : State := modHzone s z fun x => { x with until_ := max x.until_ (epochOf s + n) }

theorem barZone_until_le (n : Nat) (s : State) (y z : Nat) : (hzoneOf s z).until_ ≤ (hzoneOf (barZone n s y) z).until_ := by
  rw [hzoneOf, hzoneOf]
  by_cases h : z = y
  · rw [h, barZone, hzoneIn_modHzone_same]
    exact Nat.le_max_left _ _
  · rw [barZone, hzoneIn_modHzone_ne s h]

theorem barZones_clk (n : Nat) (l : List Nat) (s : State) : (l.foldl (barZone n) s).clk = s.clk :=
  List.foldlRecOn (motive := fun (u : State) => u.clk = s.clk) _ _ rfl fun _ h _ _ => h

theorem le_until_barZones {n z : Nat} {l : List Nat} (hz : z ∈ l) (s : State) : epochOf s + n ≤ (hzoneOf (l.foldl (barZone n) s) z).until_ := by
  have mono : ∀ (l : List Nat) (u : State), (hzoneOf u z).until_ ≤ (hzoneOf (l.foldl (barZone n) u) z).until_ := fun l => by
    induction l with
    | nil => exact fun u => le_rfl
    | cons y l ih => exact fun u => (barZone_until_le n u y z).trans (ih _)
  induction l generalizing s with
  | nil => cases hz
  | cons y l ih =>
    rcases List.mem_cons.mp hz with rfl | hz
    · refine le_trans ?_ (mono l (barZone n s z))
      rw [hzoneOf, barZone, hzoneIn_modHzone_same]
      exact Nat.le_max_right _ _
    · exact ih hz (barZone n s y)

theorem hutInvalid_of_until {u : State} {z : Nat} (h : epochOf u < (hzoneOf u z).until_) : hutInvalid u z = true := by
  have hc : chanInvalid u .a z = true := by
    rw [hzoneOf] at h
    simp [chanInvalid, h]
  simp [hutInvalid, hc]

/-! ## The messages -/

theorem fld_mbResult (s : State) {r : Nat} (h : r < 256) : fld (mbResult s r) 0x20810 16 8 = r :=
  (fld_setFld_same s 0x20810 16 8 r (by decide)).trans (Nat.mod_eq_of_lt h)

theorem rd_mbResult_ne (s : State) {r x : Nat} (hx : soleName x) (h : x ≠ 0x20810) : rd (mbResult s r) x = rd s x :=
  rd_setFld_of_soleName s _ _ _ hx (.inl (by decide)) h

theorem testBit_fld_low (s : State) (off : Nat) {i w : Nat} (h : i < w) : (fld s off 0 w).testBit i = flag s off i := by
  rw [fld, fieldOf, Nat.pow_zero, Nat.div_one, Nat.testBit_mod_two_pow]
  simp [h, flag, BitVec.getLsbD]

theorem mem_bitsSet {mask n i : Nat} : i ∈ bitsSet mask n ↔ i < n ∧ mask.testBit i = true := by
  simp [bitsSet, mem_rangeFrom]

theorem mbInvalidate_bars (h1 : 1 ≤ (rd s 0x20808).toNat) (hm : (rd s 0x20808).toNat ≤ 65535) :
    mbInvalidate s = mbResult ((bitsSet (fld s 0x20804 0 16) 16).foldl (barZone (rd s 0x20808).toNat) s) 0 := if_neg (by omega)

theorem epochOf_mbResult_barZones (n r : Nat) (l : List Nat) (s : State) : epochOf (mbResult (l.foldl (barZone n) s) r) = epochOf s := by
  rw [epochOf, show (mbResult (l.foldl (barZone n) s) r).clk = (l.foldl (barZone n) s).clk from rfl, barZones_clk, epochOf]

theorem mbInvalidate_refuses (h : (rd s 0x20808).toNat = 0 ∨ 65535 < (rd s 0x20808).toNat) : mbInvalidate s = mbResult s 1 := if_pos h

theorem mbRead_none (h : s.hut.log[(rd s 0x20804).toNat]? = none) : mbRead s = mbResult s 1 := by rw [mbRead, h]

/-- The event asked for, in the words of MB_DATA. -/
def eventPlaced (v : Nat) (s : State) : State := (rangeFrom 0 4).foldl (fun s w => wrReg s (0x20800 + 4 * w) (BitVec.ofNat 32 (v / 2 ^ (32 * w)))) s

theorem rd_eventPlaced (v : Nat) (s : State) {k : Nat} (h : k < 4) : rd (eventPlaced v s) (0x20800 + 4 * k) = BitVec.ofNat 32 (v / 2 ^ (32 * k)) := by
  refine rd_foldl_of_once (g := fun _ => BitVec.ofNat 32 (v / 2 ^ (32 * k))) s (nodup_rangeFrom 0 4) ((mem_rangeFrom 4 0 k).mpr ⟨Nat.zero_le k, by omega⟩)
    (fun u i hi => ?_) (fun u => rd_wrReg_same _ _ _)
  by_cases hb : i < 0x1000
  · exact rd_wrReg_ne _ _ _ _ (canonOff_ne_low (by omega) (by omega) (by omega))
  · have hc := canonOff_ge_of_ge (lo := 0x21000) (by decide) (by omega : 0x21000 ≤ 0x20800 + 4 * i)
    exact rd_wrReg_ne _ _ _ _ (by rw [canonOff_of_lt (by omega : 0x20800 + 4 * k < 0x100000)]; omega)

theorem mbRead_some {tb code arg : Nat} (h : s.hut.log[(rd s 0x20804).toNat]? = some (tb, code, arg)) :
    mbRead s = mbResult (eventPlaced (tb % 2 ^ 64 + code % 2 ^ 16 * 2 ^ 64 + arg % 2 ^ 32 * 2 ^ 80) s) 0 := by rw [mbRead, h]; rfl

theorem ofNat_congr {a b : Nat} (h : a % 2 ^ 32 = b % 2 ^ 32) : BitVec.ofNat 32 a = BitVec.ofNat 32 b := BitVec.eq_of_toNat_eq (by simpa using h)

theorem mbRead_words {tb code arg : Nat} (h : s.hut.log[(rd s 0x20804).toNat]? = some (tb, code, arg)) (ht : tb < 2 ^ 64) (hc : code < 2 ^ 16) :
    rd (mbRead s) 0x20800 = BitVec.ofNat 32 tb ∧ rd (mbRead s) 0x20804 = BitVec.ofNat 32 (tb / 2 ^ 32) ∧
      rd (mbRead s) 0x20808 = BitVec.ofNat 32 (code + 2 ^ 16 * arg) := by
  have word (k : Nat) (hk : k < 3) : rd (mbRead s) (0x20800 + 4 * k) = BitVec.ofNat 32 ((tb % 2 ^ 64 + code % 2 ^ 16 * 2 ^ 64 + arg % 2 ^ 32 * 2 ^ 80) / 2 ^ (32 * k)) := by
    rw [mbRead_some h, rd_mbResult_ne _ (.inl (by omega)) (by omega), rd_eventPlaced _ _ (by omega)]
  refine ⟨(word 0 (by decide)).trans (ofNat_congr ?_), (word 1 (by decide)).trans (ofNat_congr ?_), (word 2 (by decide)).trans (ofNat_congr ?_)⟩
  all_goals omega

theorem mailbox_answers (t : Time) (ag : Agent) (s : State) (h : writeTakes s ag 0x20810) :
    (mbKind s = 1 → ∃ u, exec (.kick t ag) s = .next u ∧ u.hut.kickEpoch = some (max s.clk.tb t / epochNs) ∧ fld u 0x20810 16 8 = 0) ∧
    (mbKind s = 2 → ∃ u, exec (.stopGroups t ag) s = .next u ∧ fld u 0x20810 16 8 = 0 ∧
      ∀ g, g < 8 → flag s 0x20804 g = true → ∀ c, (latOf u g c).isSome = true) ∧
    (mbKind s = 3 → 1 ≤ (rd s 0x20808).toNat → (rd s 0x20808).toNat ≤ 65535 → ∃ u, exec (.invalidateZones t ag) s = .next u ∧ fld u 0x20810 16 8 = 0 ∧
      ∀ z, z < 16 → flag s 0x20804 z = true → hutInvalid u z = true ∧ max s.clk.tb t / epochNs + (rd s 0x20808).toNat ≤ (hzoneOf u z).until_) ∧
    (mbKind s = 3 → ((rd s 0x20808).toNat = 0 ∨ 65535 < (rd s 0x20808).toNat) → ∃ u, exec (.invalidateZones t ag) s = .next u ∧ fld u 0x20810 16 8 = 1 ∧ u.hut = s.hut) ∧
    (mbKind s = 4 → s.hut.log[(rd s 0x20804).toNat]? = none → ∃ u, exec (.readEvent t ag) s = .next u ∧ fld u 0x20810 16 8 = 1) ∧
    (∀ tb code arg, mbKind s = 4 → s.hut.log[(rd s 0x20804).toNat]? = some (tb, code, arg) → tb < 2 ^ 64 → code < 2 ^ 16 → arg < 2 ^ 16 →
      ∃ u, exec (.readEvent t ag) s = .next u ∧ fld u 0x20810 16 8 = 0 ∧ rd u 0x20800 = BitVec.ofNat 32 tb ∧ rd u 0x20804 = BitVec.ofNat 32 (tb / 2 ^ 32) ∧
        rd u 0x20808 = BitVec.ofNat 32 (code + 2 ^ 16 * arg)) ∧
    (mbKind s = 0 → ∃ u, exec (.hutchMailboxReject t ag) s = .next u ∧ fld u 0x20810 16 8 = 2 ∧ rd u (hctReg 10) = rd s (hctReg 10) + 1 ∧ u.hut = s.hut) := by
  refine ⟨fun hk => ?_, fun hk => ?_, fun hk h1 hm => ?_, fun hk hb => ?_, fun hk hl => ?_, fun tb code arg hk hl ht hc _ => ?_, fun hk => ?_⟩
  · refine ⟨_, congrArg Host.Outcome.next ((onWrite_of_writeTakes _ h).trans (if_pos hk)), rfl, fld_mbResult _ (by decide)⟩
  · refine ⟨_, congrArg Host.Outcome.next ((onWrite_of_writeTakes _ h).trans (if_pos hk)), fld_mbResult _ (by decide), fun g hg hf c => ?_⟩
    exact latched_hutchStop (mem_bitsSet.mpr ⟨hg, (testBit_fld_low s 0x20804 hg).trans hf⟩) (advance s t) c
  · have e := (onWrite_of_writeTakes (t := t) (fun s => if mbKind s = 3 then mbInvalidate s else s) h).trans ((if_pos hk).trans (mbInvalidate_bars (s := advance s t) h1 hm))
    refine ⟨_, congrArg Host.Outcome.next e, fld_mbResult _ (by decide), fun z hz hf => ?_⟩
    have hle := le_until_barZones (n := (rd s 0x20808).toNat) (mem_bitsSet.mpr ⟨hz, (testBit_fld_low s 0x20804 hz).trans hf⟩) (advance s t)
    refine ⟨hutInvalid_of_until (lt_of_lt_of_le ?_ hle), hle⟩
    rw [epochOf_mbResult_barZones]
    omega
  · have e := (onWrite_of_writeTakes (t := t) (fun s => if mbKind s = 3 then mbInvalidate s else s) h).trans ((if_pos hk).trans (mbInvalidate_refuses (s := advance s t) hb))
    exact ⟨_, congrArg Host.Outcome.next e, fld_mbResult _ (by decide), rfl⟩
  · have e := (onWrite_of_writeTakes (t := t) (fun s => if mbKind s = 4 then mbRead s else s) h).trans ((if_pos hk).trans (mbRead_none (s := advance s t) hl))
    exact ⟨_, congrArg Host.Outcome.next e, fld_mbResult _ (by decide)⟩
  · have e := (onWrite_of_writeTakes (t := t) (fun s => if mbKind s = 4 then mbRead s else s) h).trans (if_pos hk)
    refine ⟨_, congrArg Host.Outcome.next e, ?_, mbRead_words (s := advance s t) hl ht hc⟩
    rw [mbRead_some (s := advance s t) hl]
    exact fld_mbResult _ (by decide)
  · refine ⟨_, congrArg Host.Outcome.next ((onWrite_of_writeTakes _ h).trans (if_pos hk)), ?_, ?_, rfl⟩
    · rw [mbReject, fld_of_rd (rd_bump_ne _ (canonOff_ne_low (by decide) (by decide) (by decide)))]
      exact fld_mbResult _ (by decide)
    · rw [mbReject, rd_bump, rd_mbResult_ne _ (.inl (by decide)) (by decide)]
      rfl

/-! ## The end of INVALIDATE_ZONES -/

/-- A zone as the epoch given finds it. -/
def unbarred (n : Nat) (x : HZone) : HZone := if x.until_ ≤ n then { x with until_ := 0 } else x

theorem invalidateZonesExpire_ends (t : Time) (s : State) : ∃ u, exec (.invalidateZonesExpire t) s = .next u ∧ u.regs = s.regs ∧ u.mem = s.mem ∧
    ∀ z, (hzoneOf u z).valid = (hzoneOf s z).valid ∧
      (hzoneOf u z).until_ = (if (hzoneOf s z).until_ ≤ max s.clk.tb t / epochNs then 0 else (hzoneOf s z).until_) := by
  refine ⟨_, rfl, rfl, rfl, fun z => ?_⟩
  have hz : ∀ c : Tab HZone, tget HZone.reset (c.map fun e => (e.1, unbarred (max s.clk.tb t / epochNs) e.2)) z =
      unbarred (max s.clk.tb t / epochNs) (tget HZone.reset c z) := fun c => by
    rw [tget, tget?_mapValues, tget]
    cases tget? c z with
    | some x => rfl
    | none => exact (if_pos (Nat.zero_le _)).symm
  have h := hz s.hut.chA.zones
  constructor
  · refine (congrArg HZone.valid h).trans ?_
    unfold unbarred
    split <;> rfl
  · refine (congrArg HZone.until_ h).trans ?_
    unfold unbarred
    split
    · next h => exact (if_pos h).symm
    · next h => exact (if_neg h).symm

/-- Settles O49: losses trip (`latched_hutchStop`), a restart's reset leaves the registers of the Hutch alone (`KeepsLow.partReset`), and each message of the
mailbox is answered. -/
theorem lossRestartAndMailbox : Obligations.LossRestartAndMailbox := by
  unfold Obligations.LossRestartAndMailbox
  exact ⟨fun t p s => sContextLost_trips p, fun t p s => aRestart_restarts p, fun t p x s => rdyTokSignal_last p, fun t p x s => aLimitExpire_late p,
    mailbox_answers, invalidateZonesExpire_ends⟩

end Sys2Proof.Proofs
end

section
/-!
Boot (R456): phases, the checks of an image (R462), training, and the lock (R466).
-/
namespace Sys2Proof.Proofs
open Sys2Proof Sys2Proof.Machine Sys2Proof.Safety Sys2Proof.Laws
variable {s : State} {t : Time}

/-! ## PHASE -/

theorem setPhase_shape (n : Nat) (s : State) : ∃ q h, setPhase n s = { s with regs := q, hif := h } := by
  unfold setPhase
  split
  · exact ⟨_, _, rfl⟩
  · obtain ⟨p, x, h⟩ := msi_shape 12 (setFld s 0x30000 28 4 n)
    exact ⟨_, _, h⟩

theorem setPhase_mem (n : Nat) (s : State) : (setPhase n s).mem = s.mem := by obtain ⟨q, h, e⟩ := setPhase_shape n s; rw [e]
theorem setPhase_boot (n : Nat) (s : State) : (setPhase n s).boot = s.boot := by obtain ⟨q, h, e⟩ := setPhase_shape n s; rw [e]
theorem phase_setPhase {n : Nat} (h : n < 16) (s : State) : phase (setPhase n s) = n := by
  unfold setPhase
  split
  · assumption
  · rw [phase, fld_of_rd (rd_msi 12 _ _), fld_setFld_same _ _ _ _ _ (by decide), Nat.mod_eq_of_lt (show n < 2 ^ 4 from h)]

theorem rd_setPhase_ne {x : Nat} (hx : soleName x) (h : x ≠ 0x30000) (n : Nat) (s : State) : rd (setPhase n s) x = rd s x := by
  unfold setPhase
  split
  · rfl
  · rw [rd_msi, rd_setFld_of_soleName s _ _ _ hx (.inl (by decide)) h]

theorem flag_setPhase {i : Nat} (hi : i < 28) (n : Nat) (s : State) : flag (setPhase n s) 0x30000 i = flag s 0x30000 i := by
  unfold setPhase
  split
  · rfl
  · rw [flag_of_rd (rd_msi 12 _ _), flag_setFld_ne _ _ (by omega) (.inl hi)]

theorem lastErr_setPhase (n : Nat) (s : State) : fld (setPhase n s) 0x30000 0 16 = fld s 0x30000 0 16 := by
  unfold setPhase
  split
  · rfl
  · rw [fld_of_rd (rd_msi 12 _ _), fld_setFld_ne _ _ _ _ _ _ _ (.inl (by decide))]

theorem phase_setFlag {i : Nat} (hi : i < 28) (b : Bool) (s : State) : phase (setFlag s 0x30000 i b) = phase s := by
  rw [phase, setFlag, fld_setFld_ne _ _ _ _ _ _ _ (.inr (by omega)), phase]

theorem lastErr_setFlag {i : Nat} (hi : 16 ≤ i) (b : Bool) (s : State) : fld (setFlag s 0x30000 i b) 0x30000 0 16 = fld s 0x30000 0 16 :=
  fld_setFld_ne _ _ _ _ _ _ _ (.inl hi)

/-! ## ROM -/

theorem bootRomPhase_ends (ok : Bool) (hr : railsUp s = true) (hn : s.boot.resetN = false) (hp : phase s = 0) :
    ∃ u, exec (.bootRomPhase t ok) s = .next u ∧ u.mem = s.mem ∧ (ok = true → phase u = 1) ∧ (ok = false → phase u = 0 ∧ fld u 0x30000 0 16 = 0x0A06) := by
  have hc : ¬ ¬ (railsUp (advance s t) && !(advance s t).boot.resetN && decide (phase (advance s t) = 0)) = true := by
    rw [not_not, show railsUp (advance s t) = true from hr, advance_boot, hn, show phase (advance s t) = 0 from hp]
    rfl
  have e : exec (.bootRomPhase t ok) s = .next (if ok then setPhase 1 (advance s t) else bootErr 0x0A06 (advance s t)) :=
    congrArg Host.Outcome.next (if_neg hc)
  cases ok with
  | true => exact ⟨_, e, setPhase_mem _ _, fun _ => phase_setPhase (by decide) _, fun h => by cases h⟩
  | false => exact ⟨_, e, rfl, fun h => (by cases h), fun _ => ⟨(phase_bootErr _ _).trans hp, fld_bootErr (by decide) _⟩⟩

/-! ## The checks of an image -/

theorem imgCheck_lt (s : State) (get : Nat → Nat → List Byte) (max : Nat) : imgCheck s get max < 2 ^ 16 := by
  unfold imgCheck
  dsimp only
  iterate 4
    split
    · decide
  split
  · decide
  · split
    · decide
    · split <;> decide

/-- An image that passes the checks has records that can be read. -/
theorem imgRecords_of_imgCheck {get : Nat → Nat → List Byte} {max : Nat} (h : imgCheck s get max = 0) :
    ∃ l, imgRecords get (le (get 0 64) 8 4) (le (get 0 64) 12 2) 64 = some l := by
  unfold imgCheck at h
  dsimp only at h
  iterate 4
    split at h
    · cases h
  split at h
  · cases h
  · next l hl => exact ⟨l, hl⟩

theorem imgCheck_of_parts {u : State} (hb : u.boot = s.boot) (hf : fld u 0x30004 16 7 = fld s 0x30004 16 7) (get : Nat → Nat → List Byte) (max : Nat) :
    imgCheck u get max = imgCheck s get max := by
  rw [imgCheck, hb, hf, imgCheck]

theorem acceptCopy_eq {b : Bool} (x : ImageRecs) {l : List ImgRec}
    (h : imgRecords (copyRead s b) (le (copyRead s b 0 64) 8 4) (le (copyRead s b 0 64) 12 2) 64 = some l) :
    ∃ v, acceptCopy b x s = setPhase 2 v ∧ v.boot.fw = true := by
  rw [acceptCopy]
  dsimp only
  rw [h]
  exact ⟨_, rfl, rfl⟩

theorem acceptCopy_mem (b : Bool) (x : ImageRecs) (s : State) : (acceptCopy b x s).mem = s.mem :=
  (Follows.refl ⟨false, true, true⟩ s).acceptCopy.mem rfl

theorem nextCopy_atBoot (hp : phase s = 1) (hm : s.boot.mgmt = []) : nextCopy (advance s t) = some (flag s 0x30000 25) := by
  rw [nextCopy, advance_boot, hm]
  exact if_pos hp

/-- The copy that is checked has been rejected, with its code. -/
def copyRejected (b : Bool) (code : Nat) (s : State) : State := bootErr code (setFlag s 0x30000 (if b then 24 else 25) true)

theorem exec_imageCheck_atBoot (x : ImageRecs) (hp : phase s = 1) (hm : s.boot.mgmt = []) {b : Bool} (hb : flag s 0x30000 25 = b) {code : Nat}
    (hc : imgCheck (advance s t) (copyRead s b) 0x1000000 = code) : exec (.imageCheck t x) s = .next (if code = 0 then acceptCopy b x (advance s t)
      else if b then failBoot (copyRejected b code (advance s t)) else copyRejected b code (advance s t)) := by
  subst hc
  rw [exec_imageCheck, execImageCheck]
  dsimp only
  rw [nextCopy_atBoot hp hm, hb, advance_boot, hm]
  rfl

theorem imageCheck_accepts (x : ImageRecs) (hp : phase s = 1) (hm : s.boot.mgmt = [])
    (hc : imgCheck (advance s t) (copyRead s (flag s 0x30000 25)) 0x1000000 = 0) :
    ∃ u, exec (.imageCheck t x) s = .next u ∧ phase u = 2 ∧ u.boot.fw = true ∧ u.mem = s.mem := by
  have e := exec_imageCheck_atBoot x hp hm rfl hc
  rw [if_pos rfl] at e
  obtain ⟨l, hl⟩ := imgRecords_of_imgCheck hc
  obtain ⟨v, hv, hfw⟩ := acceptCopy_eq (s := advance s t) x hl
  refine ⟨_, e, ?_, ?_, acceptCopy_mem _ _ _⟩
  · rw [hv, phase_setPhase (by decide)]
  · rw [hv, setPhase_boot, hfw]

theorem imageCheck_rejects (x : ImageRecs) (hp : phase s = 1) (hm : s.boot.mgmt = []) (hb : flag s 0x30000 25 = false) {code : Nat}
    (hc : imgCheck (advance s t) (copyRead s false) 0x1000000 = code) (h0 : code ≠ 0) :
    ∃ u, exec (.imageCheck t x) s = .next u ∧ phase u = 1 ∧ flag u 0x30000 25 = true ∧ fld u 0x30000 0 16 = code := by
  have e := exec_imageCheck_atBoot x hp hm hb hc
  rw [if_neg h0, if_neg (by decide)] at e
  refine ⟨_, e, ?_, ?_, fld_bootErr (hc ▸ imgCheck_lt _ _ _) _⟩
  · rw [copyRejected, phase_bootErr, phase_setFlag (by decide)]
    exact hp
  · rw [copyRejected, flag_bootErr (by decide) (by decide)]
    exact flag_setFlag_same _ _ (by decide) _

theorem failBoot_eq (s : State) : ∃ v, failBoot s = setPhase 15 (setFlag (bootErr 0x0A0B v) 0x30000 27 true) ∧ v.regs = s.regs := by
  refine ⟨_, rfl, ?_⟩
  unfold zeroDram
  split <;> rfl

theorem imageCheck_fails (x : ImageRecs) (hp : phase s = 1) (hm : s.boot.mgmt = []) (hb : flag s 0x30000 25 = true)
    (hc : imgCheck (advance s t) (copyRead s true) 0x1000000 ≠ 0) :
    ∃ u, exec (.imageCheck t x) s = .next u ∧ phase u = 15 ∧ flag u 0x30000 24 = true ∧ fld u 0x30000 0 16 = 0x0A0B ∧ lockTaken u = true := by
  have e := exec_imageCheck_atBoot (t := t) x hp hm hb rfl
  rw [if_neg hc, if_pos rfl] at e
  obtain ⟨v, hv, hr⟩ := failBoot_eq (copyRejected true (imgCheck (advance s t) (copyRead s true) 0x1000000) (advance s t))
  rw [hv] at e
  refine ⟨_, e, phase_setPhase (by decide) _, ?_, ?_, ?_⟩
  · rw [flag_setPhase (by decide), flag_setFlag_ne _ _ (by decide) (by decide), flag_bootErr (by decide) (by decide), flag_of_rd (rd_of_regs hr _),
      copyRejected, flag_bootErr (by decide) (by decide)]
    exact flag_setFlag_same _ _ (by decide) _
  · rw [lastErr_setPhase, lastErr_setFlag (by decide), fld_bootErr (by decide)]
  · rw [lockTaken, flag_setPhase (by decide), flag_setFlag_same _ _ (by decide)]

/-! ## Training -/

theorem mget_append (d : Byte) (l r : List Host.Cell) (a : Nat) : mget d (l ++ r) a = mget (mget d r a) l a := by
  induction l with
  | nil => rfl
  | cons c l ih =>
    obtain ⟨x, v⟩ := c
    rw [List.cons_append, mget, mget, ih]

theorem mget_filter {p : Nat → Bool} {a : Nat} (h : p a = true) (d : Byte) (m : List Host.Cell) : mget d (m.filter fun c => p c.1) a = mget d m a := by
  induction m with
  | nil => rfl
  | cons c m ih =>
    obtain ⟨x, v⟩ := c
    rw [List.filter_cons]
    split
    · rw [mget, mget, ih]
    · next hx => rw [mget, if_neg (fun e => hx (by rw [← h, ← e])), ih]

theorem mget_filter_out {p : Nat → Bool} {a : Nat} (h : p a = false) (d : Byte) (m : List Host.Cell) : mget d (m.filter fun c => p c.1) a = d := by
  induction m with
  | nil => rfl
  | cons c m ih =>
    obtain ⟨x, v⟩ := c
    rw [List.filter_cons]
    split
    · next hx =>
      have hxa : x ≠ a := fun e => by rw [e] at hx; rw [h] at hx; cases hx
      rw [mget, if_neg hxa, ih]
    · exact ih

theorem mget_filled (d : Byte) (f : Nat → Byte) (a n x : Nat) :
    mget d ((rangeFrom a n).filterMap fun y => if f y = d then none else some (y, f y)) x = if a ≤ x ∧ x < a + n then f x else d := by
  induction n generalizing a with
  | zero => rw [rangeFrom, List.filterMap_nil, mget, if_neg (by omega)]
  | succ n ih =>
    rw [rangeFrom, List.filterMap_cons]
    by_cases hf : f a = d
    · rw [if_pos hf]
      dsimp only
      rw [ih]
      by_cases hx : x = a
      · rw [hx, if_neg (by omega), if_pos (by omega), hf]
      · exact if_congr (by omega) rfl rfl
    · rw [if_neg hf]
      dsimp only
      rw [mget, ih]
      by_cases hx : a = x
      · rw [if_pos hx, if_pos (by omega), hx]
      · rw [if_neg hx]
        exact if_congr (by omega) rfl rfl

theorem mget_mput_in {a n x : Nat} (h : a ≤ x) (h2 : x < a + n) (d : Byte) (m : List Host.Cell) (f : Nat → Byte) : mget d (mput d m a n f) x = f x := by
  rw [mput, mget_append, mget_append, mget_filter_out (p := fun y => decide (a + n ≤ y)) (by simpa using h2),
    mget_filter_out (p := fun y => decide (y < a)) (by simpa using h), mget_filled, if_pos ⟨h, h2⟩]

theorem mget_mput_out {a n x : Nat} (h : x < a ∨ a + n ≤ x) (d : Byte) (m : List Host.Cell) (f : Nat → Byte) : mget d (mput d m a n f) x = mget d m x := by
  have hmid : ∀ d', d' = d → mget d' ((rangeFrom a n).filterMap fun y => if f y = d then none else some (y, f y)) x = d := fun d' e => by
    rw [e, mget_filled, if_neg (by omega)]
  rcases h with h | h
  · rw [mput, mget_append, mget_append, mget_filter_out (p := fun y => decide (a + n ≤ y)) (by simp; omega), hmid d rfl,
      mget_filter (p := fun y => decide (y < a)) (by simpa using h)]
  · have key : ∀ d', mget d' ((rangeFrom a n).filterMap fun y => if f y = d then none else some (y, f y)) x = d' := fun d' => by
      have hn : ∀ c ∈ (rangeFrom a n).filterMap fun y => if f y = d then none else some (y, f y), c.1 ≠ x := fun c hc => by
        obtain ⟨y, hy, hyc⟩ := List.mem_filterMap.mp hc
        have hlt := ((mem_rangeFrom n a y).mp hy).2
        split at hyc
        · cases hyc
        · cases hyc; dsimp only; omega
      generalize ((rangeFrom a n).filterMap fun y => if f y = d then none else some (y, f y)) = l at hn
      induction l with
      | nil => rfl
      | cons c l ih =>
        obtain ⟨y, v⟩ := c
        rw [mget, if_neg (hn (y, v) List.mem_cons_self), ih fun c hc => hn c (List.mem_cons_of_mem _ hc)]
    rw [mput, mget_append, mget_append, mget_filter (p := fun y => decide (a + n ≤ y)) (by simpa using h), key,
      mget_filter_out (p := fun y => decide (y < a)) (by simp; omega)]

theorem rdMem_one (s : State) (a : Nat) : rdMem s a 1 = [mget memDefault s.mem a] := rfl

/-- DRAM as training leaves it, before the Wardrobe's metadata. -/
def trained (s : State) : State := zeroDram { s with boot := { s.boot with trained := true } }

theorem trained_regs (s : State) : (trained s).regs = s.regs := by
  unfold trained zeroDram
  split <;> rfl

theorem trained_trained (s : State) : (trained s).boot.trained = true := by
  unfold trained zeroDram
  split <;> rfl

theorem mget_trained (hz : s.boot.zero = true) {a : Nat} (h : a < spadBase) : mget memDefault (trained s).mem a = 0 := by
  have e : (trained s).mem = s.mem.filter fun c => decide (spadBase ≤ c.1) := by
    rw [trained, zeroDram, if_pos hz]
  rw [e, mget_filter_out (p := fun y => decide (spadBase ≤ y)) (by simpa using h)]
  rfl

theorem kvInit_mem (s : State) : (kvInit s).mem = mput memDefault s.mem (kvHdr s 0) (32 * kvPages s) (fun x => freeHeader (x - kvHdr s 0)) := rfl

theorem kvPages_of_regs {u : State} (h : u.regs = s.regs) : kvPages u = kvPages s := by rw [kvPages, fld_of_rd (rd_of_regs h _), kvPages]

theorem kvHdr_of_regs {u : State} (h : u.regs = s.regs) (pg : Nat) : kvHdr u pg = kvHdr s pg := by
  rw [kvHdr, fld_of_rd (rd_of_regs h _), fld_of_rd (rd_of_regs h _), kvHdr]

theorem flag_kvInit_ready (s : State) : flag (kvInit s) 0x50018 0 = true := flag_setFlag_same _ _ (by decide) _

theorem freePages_kvInit (s : State) : fld (kvInit s) kvFreePages 0 20 = kvPages s % 2 ^ 20 := by
  rw [kvInit, fld_of_rd (rd_setFlag_ne _ _ _ (canonOff_ne_low (by decide) (by decide) (by decide)))]
  exact fld_setFld_same _ _ _ _ _ (by decide)

theorem memoryTraining_ends (ok : Bool) (hp : phase s = 2) (ht : s.boot.trained = false) : ∃ u, exec (.memoryTraining t ok) s = .next u ∧
    (ok = true → u.boot.trained = true ∧ flag u 0x50018 0 = true ∧ fld u kvFreePages 0 20 = kvPages s % 2 ^ 20 ∧
      (s.boot.zero = true → ∀ a, a < spadBase → (a < kvHdr s 0 ∨ kvHdr s 0 + 32 * kvPages s ≤ a) → rdMem u a 1 = [0]) ∧
      (∀ p i, p < kvPages s → i < 32 → rdMem u (kvHdr s 0 + 32 * p + i) 1 = [freeHeader (32 * p + i)])) ∧
    (ok = false → u.boot.trained = false ∧ fld u 0x30000 0 16 = 0x0A07 ∧ u.mem = s.mem) := by
  have e : exec (.memoryTraining t ok) s = .next (if ¬ ok = true then bootErr 0x0A07 (advance s t) else kvInit (trained (advance s t))) := by
    refine congrArg Host.Outcome.next (if_neg ?_)
    rintro (h | h)
    · exact h hp
    · rw [advance_boot, ht] at h; cases h
  cases ok with
  | false => exact ⟨_, e, fun h => (by cases h), fun _ => ⟨ht, fld_bootErr (by decide) _, rfl⟩⟩
  | true =>
    have hregs : (trained (advance s t)).regs = s.regs := trained_regs _
    have hmem : (kvInit (trained (advance s t))).mem = mput memDefault (trained (advance s t)).mem (kvHdr s 0) (32 * kvPages s) (fun x => freeHeader (x - kvHdr s 0)) := by
      rw [kvInit_mem, kvHdr_of_regs hregs, kvPages_of_regs hregs]
    refine ⟨_, e, fun _ => ⟨trained_trained (advance s t), flag_kvInit_ready _, ?_, fun hz a ha hout => ?_, fun p i hlt hi => ?_⟩, fun h => by cases h⟩
    · exact (freePages_kvInit _).trans (by rw [kvPages_of_regs hregs])
    · refine (rdMem_one _ a).trans (congrArg (fun x => [x]) ?_)
      rw [if_neg (not_not.mpr rfl), hmem, mget_mput_out hout, mget_trained (s := advance s t) hz ha]
    · refine (rdMem_one _ _).trans (congrArg (fun x => [x]) ?_)
      rw [if_neg (not_not.mpr rfl), hmem, mget_mput_in (by omega) (by omega)]
      congr 1
      omega

/-! ## The lock -/

/-- What loading modules and staging entries leaves as it is. -/
structure LockKept (s u : State) : Prop where
  lock : lockTaken u = lockTaken s
  phase : phase u = phase s
  mem : u.mem = s.mem
  pol : u.boot.pol = s.boot.pol

theorem LockKept.trans {s u v : State} (h : LockKept s u) (k : LockKept u v) : LockKept s v :=
  ⟨k.lock.trans h.lock, k.phase.trans h.phase, k.mem.trans h.mem, k.pol.trans h.pol⟩

theorem lockKept_stageEntry (s : State) (e : Nat × Word) : LockKept s (stageEntry s e) := by
  unfold stageEntry
  dsimp only
  split <;> exact ⟨rfl, rfl, rfl, rfl⟩

theorem lockKept_polFault (s : State) : LockKept s (polFault s) := by
  have hr : rd (bump s 0x30018) 0x30000 = rd s 0x30000 := rd_bump_ne _ (canonOff_ne_low (by decide) (by decide) (by decide))
  refine ⟨?_, ?_, rfl, rfl⟩
  · rw [lockTaken, polFault, flag_bootErr (by decide) (by decide), flag_of_rd hr, lockTaken]
  · rw [polFault, phase_bootErr, Machine.phase, fld_of_rd hr, Machine.phase]

theorem lockKept_loadModule (s : State) (e : Nat × List Byte) : LockKept s (loadModule s e) := by
  unfold loadModule
  dsimp only
  split
  · exact ⟨rfl, rfl, rfl, rfl⟩
  · exact lockKept_polFault s

theorem lockKept_foldl {α : Type} {f : State → α → State} (hf : ∀ s a, LockKept s (f s a)) (l : List α) (s : State) : LockKept s (l.foldl f s) :=
  List.foldlRecOn (motive := fun (u : State) => LockKept s u) _ _ ⟨rfl, rfl, rfl, rfl⟩ fun u h a _ => h.trans (hf u a)

/-- The lock taken in phase LOCKED, with what POLICY says. -/
def lockedWith (pol : Policy) (s : State) : State :=
  { setPhase 3 (setFlag s 0x30000 27 true) with boot := { (setPhase 3 (setFlag s 0x30000 27 true)).boot with pol := pol, mods := [] } }

theorem bootLock_locks (pol : Policy) (hp : phase s = 2) (ht : s.boot.trained = true) (hl : lockTaken s = false) :
    ∃ u, exec (.bootLock t pol) s = .next u ∧ lockTaken u = true ∧ phase u = 3 ∧ u.mem = s.mem ∧ u.boot.pol = pol := by
  obtain ⟨ms, e⟩ : ∃ ms : List (Nat × List Byte), exec (.bootLock t pol) s = .next (ms.foldl loadModule (pol.entries.foldl stageEntry (lockedWith pol (advance s t)))) :=
    ⟨_, congrArg Host.Outcome.next (if_neg (not_not.mpr ⟨hp, ht, hl⟩))⟩
  obtain ⟨hlock, hphase, hmem, hpol⟩ := (lockKept_foldl lockKept_stageEntry pol.entries (lockedWith pol (advance s t))).trans (lockKept_foldl lockKept_loadModule ms _)
  refine ⟨_, e, hlock.trans ?_, hphase.trans ?_, hmem.trans (setPhase_mem _ _), hpol⟩
  · exact (flag_setPhase (by decide) 3 _).trans (flag_setFlag_same _ _ (by decide) _)
  · exact phase_setPhase (by decide) _

end Sys2Proof.Proofs
end

section
/-!
Model images (R464, R465), the way into service (R456), recovery (R463) and the calls of policy modules (R469).
-/
namespace Sys2Proof.Proofs
open Sys2Proof Sys2Proof.Machine Sys2Proof.Safety Sys2Proof.Laws
variable {s : State} {t : Time}

/-! ## The end of a load -/

theorem soleName_modelReg {i : Nat} (h : i < 32) : soleName (modelReg i) := .inl (by unfold modelReg; omega)

/-- Word of MODEL_STATUS. -/
def modelWord (p code : Nat) : Word := BitVec.ofNat 32 ((if code = 0 then 1 else 2) * 2 ^ 30 + p * 2 ^ 16 + code)

theorem modelWord_fields {p code : Nat} (hp : p < 16) (hc : code < 2 ^ 16) :
    fieldOf (modelWord p code).toNat 0 16 = code ∧ fieldOf (modelWord p code).toNat 30 2 = if code = 0 then 1 else 2 := by
  have hlt : (if code = 0 then 1 else 2) * 2 ^ 30 + p * 2 ^ 16 + code < 2 ^ 32 := by split <;> omega
  rw [modelWord, BitVec.toNat_ofNat, Nat.mod_eq_of_lt hlt, fieldOf, fieldOf]
  constructor <;> split <;> omega

/-- What the end of a load leaves: the model's word, PHASE, a partition out of service where its model is in error, and device memory where no reset comes
about. -/
structure LoadEnded (i p code : Nat) (s u : State) : Prop where
  word : rd u (modelReg i) = modelWord p code
  phase : phase u = phase s
  off : code ≠ 0 → partEn u p = false
  mem : code = 0 ∨ partEn s p = false → u.mem = s.mem

theorem partEn_of_regs_ne {u : State} {x : Nat} (hx : x < 0x40000) (h : ∀ y, y ≠ x → soleName y → rd u y = rd s y) (p : Nat) : partEn u p = partEn s p :=
  flag_of_rd (h _ (by unfold partOff; omega) (.inl (by unfold partOff; omega))) 31

theorem rd_bootStatus_setEn (s : State) (p : Nat) (b : Bool) {x : Nat} (h : x < 0x40000) : rd (setFlag s (partOff p) 31 b) x = rd s x :=
  rd_setFlag_ne s _ _ (canonOff_ne_low (by omega) (by unfold partOff; omega) (by unfold partOff; omega))

theorem loadEnded_modelEnd {i : Nat} (hi : i < 32) (p code : Nat) (s : State) : LoadEnded i p code s (modelEnd i p code s) := by
  have hlow : modelReg i < 0x40000 := by unfold modelReg; omega
  obtain ⟨v, hv⟩ : ∃ v, v = wrReg s (modelReg i) (modelWord p code) := ⟨_, rfl⟩
  have hword : rd v (modelReg i) = modelWord p code := by rw [hv, rd_wrReg_same]
  have hphase : Machine.phase v = Machine.phase s := by
    rw [hv, Machine.phase, fld_of_rd (rd_wrReg_ne _ _ _ _ (canonOff_ne_of_soleName (.inl (by decide)) (soleName_modelReg hi) (by unfold modelReg; omega))), Machine.phase]
  have hen : partEn v p = partEn s p := by
    rw [hv]
    exact partEn_of_regs_ne hlow (fun y hy hs => rd_wrReg_ne _ _ _ _ (canonOff_ne_of_soleName hs (soleName_modelReg hi) hy)) p
  have hmem : v.mem = s.mem := by rw [hv]; rfl
  by_cases hc : code = 0
  · have e : modelEnd i p code s = v := by
      rw [hv, modelEnd]
      exact if_pos hc
    rw [e]
    exact ⟨hword, hphase, fun h => absurd hc h, fun _ => hmem⟩
  · obtain ⟨w, hw⟩ : ∃ w, w = noteEvent (.model (Fin.ofNat 32 i)) code 0 v := ⟨_, rfl⟩
    have hwr : w.regs = v.regs := by rw [hw]; rfl
    have hwm : w.mem = v.mem := by rw [hw]; rfl
    have hwen : partEn w p = partEn s p := (flag_of_rd (rd_of_regs hwr _) 31).trans hen
    have e : modelEnd i p code s = if partEn w p then partReset (setFlag w (partOff p) 31 false) p else w := by
      rw [hw, hv, modelEnd]
      exact if_neg hc
    by_cases hp : partEn w p = true
    · rw [if_pos hp] at e
      have hk : KeepsLow (setFlag w (partOff p) 31 false) (partReset (setFlag w (partOff p) 31 false) p) := (KeepsLow.refl _).partReset
      have hrd : ∀ x, x < 0x40000 → rd (modelEnd i p code s) x = rd v x := fun x hx => by
        rw [e, hk.low x hx, rd_bootStatus_setEn w p false hx, rd_of_regs hwr]
      refine ⟨(hrd _ hlow).trans hword, ?_, fun _ => ?_, ?_⟩
      · rw [Machine.phase, fld_of_rd (hrd _ (by decide)), ← hphase, Machine.phase]
      · rw [e, partEn, hk.en, flag_setFlag_same _ _ (by decide)]
      · rintro (h | h)
        · exact absurd h hc
        · rw [← hwen, hp] at h; cases h
    · rw [if_neg hp] at e
      rw [e]
      refine ⟨(rd_of_regs hwr _).trans hword, ?_, fun _ => Bool.eq_false_iff.mpr hp, fun _ => hwm.trans hmem⟩
      rw [Machine.phase, fld_of_rd (rd_of_regs hwr _), ← hphase, Machine.phase]

section
variable {i p c : Nat} {v u : State}

theorem LoadEnded.code (h : LoadEnded i p c v u) (hp : p < 16) (hc : c < 2 ^ 16) : fld u (modelReg i) 0 16 = c := by
  rw [fld, h.word]
  exact (modelWord_fields hp hc).1

theorem LoadEnded.state (h : LoadEnded i p c v u) (hp : p < 16) (hc : c < 2 ^ 16) : fld u (modelReg i) 30 2 = if c = 0 then 1 else 2 := by
  rw [fld, h.word]
  exact (modelWord_fields hp hc).2

theorem LoadEnded.bad (h : LoadEnded i p c v u) (hp : p < 16) (hc : c < 2 ^ 16) (h0 : c ≠ 0) : modelBad u i = true := by
  rw [modelBad, h.state hp hc, if_neg h0]
  rfl

theorem LoadEnded.out (h : LoadEnded i p c v u) (hp : p < 16) (hc : c < 2 ^ 16) (hb : modelBad u i = true) : partEn u p = false := by
  refine h.off fun h0 => ?_
  rw [modelBad, h.state hp hc, if_pos h0] at hb
  cases hb

end

/-! ## MODEL_LOAD -/

/-- How the load of an entry ends, by what it finds: the code of its status, and the memory it leaves before a reset. -/
def modelOutcome (m : List Byte) (err : Bool) (s : State) : Nat × State :=
  if le m 1 1 % 16 ≠ 1 then (0x0A05, s)
  else if ¬ inWindow s (modelPart m) (le m 0x18 6) (le m 0x10 8) then (0x0A0A, s)
  else if err then (0x0A08, freeBytes s (le m 0x18 6) (le m 0x10 8))
  else (if sha384 (mgets 0 s.boot.emmc (le m 8 8) (le m 0x10 8)) = (m.drop 0x20).take 48 then 0 else 0x0A09,
    wrMem s (le m 0x18 6) (mgets 0 s.boot.emmc (le m 8 8) (le m 0x10 8)))

theorem exec_modelLoad_ends (i : Fin 32) (err : Bool) (hp : phase s = 3 ∨ phase s = 4) (hn : nextModel s = some i.val) :
    exec (.modelLoad t i err) s = .next (modelEnd i (modelPart (nth [] s.boot.models i)) (modelOutcome (nth [] s.boot.models i) err (setPhase 4 (advance s t))).1
      (modelOutcome (nth [] s.boot.models i) err (setPhase 4 (advance s t))).2) := by
  rw [exec_modelLoad, execModelLoad]
  refine congrArg Host.Outcome.next ((if_neg (not_not.mpr ⟨hp, hn⟩)).trans ?_)
  unfold modelOutcome
  rw [show (advance s t).boot.models = s.boot.models from rfl]
  generalize setPhase 4 (advance s t) = v
  generalize nth [] s.boot.models i = m
  dsimp only
  split
  · rfl
  split
  · rfl
  split <;> rfl

theorem modelOutcome_regs (m : List Byte) (err : Bool) (s : State) : (modelOutcome m err s).2.regs = s.regs := by
  unfold modelOutcome
  split
  · rfl
  split
  · rfl
  split <;> rfl

theorem modelOutcome_code_lt (m : List Byte) (err : Bool) (s : State) : (modelOutcome m err s).1 < 2 ^ 16 := by
  unfold modelOutcome
  split
  · exact (by decide : 0x0A05 < 2 ^ 16)
  split
  · exact (by decide : 0x0A0A < 2 ^ 16)
  split
  · exact (by decide : 0x0A08 < 2 ^ 16)
  · dsimp only
    split <;> decide

theorem inWindow_of_sch {u : State} {p : Nat} (h : ∀ x, x ≠ 0x30000 → soleName x → rd u x = rd s x) (a n : Nat) : inWindow u p a n = inWindow s p a n := by
  have hw : ∀ w ∈ rangeFrom 0 8, winRange u p w = winRange s p w ∧ winWr u p w = winWr s p w := fun w hw => by
    have hlt : w < 8 := ((mem_rangeFrom 8 0 w).mp hw).2
    have h0 := h (partOff p + 0x40 + 8 * w) (by unfold partOff; omega) (.inl (by unfold partOff; omega))
    have h4 := h (partOff p + 0x40 + 8 * w + 4) (by unfold partOff; omega) (.inl (by unfold partOff; omega))
    rw [winRange, winRange, winWr, winWr, flag_of_rd h0, flag_of_rd h0, fld_of_rd h0, fld_of_rd h4]
    exact ⟨rfl, rfl⟩
  rw [inWindow, inWindow, Bool.eq_iff_iff, List.any_eq_true, List.any_eq_true]
  refine exists_congr fun w => and_congr_right fun hm => ?_
  obtain ⟨h1, h2⟩ := hw w hm
  dsimp only
  rw [h1, h2]

theorem modelPart_lt (m : List Byte) : modelPart m < 16 := Nat.mod_lt _ (by decide)

/-- Where the load of an entry ends. -/
theorem modelLoad_ended (i : Fin 32) (err : Bool) (hp : phase s = 3 ∨ phase s = 4) (hn : nextModel s = some i.val) {code : Nat} {v : State}
    (ho : modelOutcome (nth [] s.boot.models i) err (setPhase 4 (advance s t)) = (code, v)) :
    ∃ u, exec (.modelLoad t i err) s = .next u ∧ phase u = 4 ∧ LoadEnded i (modelPart (nth [] s.boot.models i)) code v u ∧
      (modelBad u i = true → partEn u (modelPart (nth [] s.boot.models i)) = false) ∧
      partEn v (modelPart (nth [] s.boot.models i)) = partEn s (modelPart (nth [] s.boot.models i)) ∧ code < 2 ^ 16 := by
  have e := exec_modelLoad_ends (t := t) i err hp hn
  have hr : v.regs = (setPhase 4 (advance s t)).regs := by
    have := modelOutcome_regs (nth [] s.boot.models i) err (setPhase 4 (advance s t))
    rwa [ho] at this
  have hc : code < 2 ^ 16 := by
    have := modelOutcome_code_lt (nth [] s.boot.models i) err (setPhase 4 (advance s t))
    rwa [ho] at this
  rw [ho] at e
  have h := loadEnded_modelEnd i.isLt (modelPart (nth [] s.boot.models i)) code v
  refine ⟨_, e, ?_, h, h.out (modelPart_lt _) hc, ?_, hc⟩
  · rw [h.phase, phase, fld_of_rd (rd_of_regs hr _)]
    exact phase_setPhase (by decide) _
  · exact (flag_of_rd (rd_of_regs hr _) 31).trans (partEn_of_regs_ne (by decide) (fun y hy hs => rd_setPhase_ne hs hy 4 (advance s t)) _)

/-- The statement's clause about a load, entry by entry. -/
structure LoadSays (m : List Byte) (err : Bool) (i : Nat) (s u : State) : Prop where
  phase : phase u = 4
  out : modelBad u i = true → partEn u (modelPart m) = false
  version : le m 1 1 % 16 ≠ 1 → fld u (modelReg i) 0 16 = 0x0A05 ∧ modelBad u i = true ∧ (partEn s (modelPart m) = false → u.mem = s.mem)
  unfit : le m 1 1 % 16 = 1 → inWindow s (modelPart m) (le m 0x18 6) (le m 0x10 8) = false →
    fld u (modelReg i) 0 16 = 0x0A0A ∧ modelBad u i = true ∧ (partEn s (modelPart m) = false → u.mem = s.mem)
  unread : le m 1 1 % 16 = 1 → inWindow s (modelPart m) (le m 0x18 6) (le m 0x10 8) = true → err = true →
    fld u (modelReg i) 0 16 = 0x0A08 ∧ modelBad u i = true
  loaded : le m 1 1 % 16 = 1 → inWindow s (modelPart m) (le m 0x18 6) (le m 0x10 8) = true → err = false →
    sha384 (mgets 0 s.boot.emmc (le m 8 8) (le m 0x10 8)) = (m.drop 0x20).take 48 →
    fld u (modelReg i) 30 2 = 1 ∧ fld u (modelReg i) 0 16 = 0 ∧ u.mem = (wrMem s (le m 0x18 6) (mgets 0 s.boot.emmc (le m 8 8) (le m 0x10 8))).mem
  spoilt : le m 1 1 % 16 = 1 → inWindow s (modelPart m) (le m 0x18 6) (le m 0x10 8) = true → err = false →
    sha384 (mgets 0 s.boot.emmc (le m 8 8) (le m 0x10 8)) ≠ (m.drop 0x20).take 48 →
    fld u (modelReg i) 0 16 = 0x0A09 ∧ modelBad u i = true ∧
      (partEn s (modelPart m) = false → u.mem = (wrMem s (le m 0x18 6) (mgets 0 s.boot.emmc (le m 8 8) (le m 0x10 8))).mem)

theorem modelLoad_says (t : Time) (i : Fin 32) (err : Bool) (s : State) (hp : phase s = 3 ∨ phase s = 4) (hn : nextModel s = some i.val) :
    ∃ u, exec (.modelLoad t i err) s = .next u ∧ LoadSays (nth [] s.boot.models i) err i s u := by
  have ended {code : Nat} {v : State} := modelLoad_ended (t := t) i err hp hn (code := code) (v := v)
  obtain ⟨m, hm⟩ : ∃ m, m = nth [] s.boot.models i := ⟨_, rfl⟩
  rw [← hm] at ended ⊢
  have hpart := modelPart_lt m
  have hin := inWindow_of_sch (s := s) (p := modelPart m) (fun y hy hs => rd_setPhase_ne hs hy 4 (advance s t)) (le m 0x18 6) (le m 0x10 8)
  have hmem : (setPhase 4 (advance s t)).mem = s.mem := setPhase_mem _ _
  have hemmc : (setPhase 4 (advance s t)).boot.emmc = s.boot.emmc := by rw [setPhase_boot]; rfl
  have hwr : ∀ a bs, (wrMem (setPhase 4 (advance s t)) a bs).mem = (wrMem s a bs).mem := fun a bs => by rw [wrMem, wrMem, hmem]
  by_cases hv : le m 1 1 % 16 = 1
  · cases hw : inWindow s (modelPart m) (le m 0x18 6) (le m 0x10 8) with
    | false =>
      obtain ⟨u, e, hph, h, ho, hen, hc⟩ := ended (by rw [modelOutcome, if_neg (not_not.mpr hv), if_pos (by rw [hin, hw]; decide)])
      exact ⟨u, e, hph, ho, fun hn => absurd hv hn, fun _ _ => ⟨h.code hpart hc, h.bad hpart hc (by decide), fun hoff => (h.mem (.inr (hen.trans hoff))).trans hmem⟩,
        fun _ hf => (by rw [hw] at hf; cases hf), fun _ hf => (by rw [hw] at hf; cases hf), fun _ hf => (by rw [hw] at hf; cases hf)⟩
    | true =>
      have hfit : ¬ ¬ inWindow (setPhase 4 (advance s t)) (modelPart m) (le m 0x18 6) (le m 0x10 8) = true := by rw [hin, hw]; decide
      cases err with
      | true =>
        obtain ⟨u, e, hph, h, ho, hen, hc⟩ := ended (by rw [modelOutcome, if_neg (not_not.mpr hv), if_neg hfit, if_pos rfl])
        exact ⟨u, e, hph, ho, fun hn => absurd hv hn, fun _ hf => (by rw [hw] at hf; cases hf), fun _ _ _ => ⟨h.code hpart hc, h.bad hpart hc (by decide)⟩,
          fun _ _ hf => (by cases hf), fun _ _ hf => (by cases hf)⟩
      | false =>
        obtain ⟨u, e, hph, h, ho, hen, hc⟩ := ended (by rw [modelOutcome, if_neg (not_not.mpr hv), if_neg hfit, if_neg (by decide), hemmc])
        by_cases hd : sha384 (mgets 0 s.boot.emmc (le m 8 8) (le m 0x10 8)) = (m.drop 0x20).take 48
        · rw [if_pos hd] at h hc
          exact ⟨u, e, hph, ho, fun hn => absurd hv hn, fun _ hf => (by rw [hw] at hf; cases hf), fun _ _ hf => (by cases hf),
            fun _ _ _ _ => ⟨h.state hpart hc, h.code hpart hc, (h.mem (.inl rfl)).trans (hwr _ _)⟩, fun _ _ _ hn => absurd hd hn⟩
        · rw [if_neg hd] at h hc
          exact ⟨u, e, hph, ho, fun hn => absurd hv hn, fun _ hf => (by rw [hw] at hf; cases hf), fun _ _ hf => (by cases hf), fun _ _ _ hy => absurd hy hd,
            fun _ _ _ _ => ⟨h.code hpart hc, h.bad hpart hc (by decide), fun hoff => (h.mem (.inr (hen.trans hoff))).trans (hwr _ _)⟩⟩
  · obtain ⟨u, e, hph, h, ho, hen, hc⟩ := ended (by rw [modelOutcome, if_pos hv])
    exact ⟨u, e, hph, ho, fun _ => ⟨h.code hpart hc, h.bad hpart hc (by decide), fun hoff => (h.mem (.inr (hen.trans hoff))).trans hmem⟩,
      fun hy => absurd hy hv, fun hy => absurd hy hv, fun hy => absurd hy hv, fun hy => absurd hy hv⟩

/-! ## BOOT_SERVICE -/

/-- SERVICE is reached, with the time that it took. -/
def inServiceFrom (s : State) : State := setPhase 5 (wrReg (setPhase 4 s) 0x30010 (BitVec.ofNat 32 ((s.clk.tb - s.boot.from_) / 1000000)))

theorem bootService_serves (ctxs : List (Nat × Nat)) (hp : phase s = 3 ∨ phase s = 4) (hs : supervising s = true) (hg : startGone s = true)
    (hm : modelsStop s = false) (hr : imageReady s ctxs = true) : ∃ u, exec (.bootService t ctxs) s = .next u ∧ phase u = 5 ∧ u.mem = s.mem ∧
      rd u 0x30010 = BitVec.ofNat 32 ((max s.clk.tb t - s.boot.from_) / 1000000) := by
  have hc : (phase (advance s t) = 3 ∨ phase (advance s t) = 4) ∧ supervising (advance s t) = true ∧ startGone (advance s t) = true ∧
      ¬ modelsStop (advance s t) = true ∧ imageReady (advance s t) ctxs = true := ⟨hp, hs, hg, by rw [show modelsStop (advance s t) = false from hm]; decide, hr⟩
  obtain ⟨v, hv⟩ : ∃ v, v = inServiceFrom (advance s t) := ⟨_, rfl⟩
  have e : exec (.bootService t ctxs) s = .next (if v.boot.advance && decide (fld v 0x30004 16 7 < fld v 0x30004 0 7) then
      setFld v 0x30004 16 7 (min 64 (fld v 0x30004 0 7)) else v) := by
    rw [hv]
    exact congrArg Host.Outcome.next (if_neg (not_not.mpr hc))
  have hphase : phase v = 5 := by rw [hv, inServiceFrom, phase_setPhase (by decide)]
  have hmem : v.mem = s.mem := by
    rw [hv, inServiceFrom, setPhase_mem]
    exact setPhase_mem 4 (advance s t)
  have htook : rd v 0x30010 = BitVec.ofNat 32 ((max s.clk.tb t - s.boot.from_) / 1000000) := by
    rw [hv, inServiceFrom, rd_setPhase_ne (.inl (by decide)) (by decide), rd_wrReg_same]
    rfl
  refine ⟨_, e, ?_⟩
  split
  · refine ⟨?_, hmem, ?_⟩
    · rw [phase, fld_of_rd (rd_setFld_of_soleName v _ _ _ (.inl (by decide)) (.inl (by decide)) (by decide)), ← hphase, phase]
    · rw [rd_setFld_of_soleName v _ _ _ (.inl (by decide)) (.inl (by decide)) (by decide), htook]
  · exact ⟨hphase, hmem, htook⟩

/-! ## BOOT_RECOV -/

theorem recovWrite_ignored (h : phase s ≠ 15) (w : Word) : recovWrite w s = s := if_pos h

theorem recovWrite_rejects {w : Word} (hp : phase s = 15) (hg : w.getLsbD 31 = true) {code : Nat}
    (hc : imgCheck s (fun o k => rdMem s o k) (min (w.toNat % 2 ^ 25) 0x1000000) = code) (h0 : code ≠ 0) :
    recovWrite w s = bootErr code (wrReg s 0x30020 (BitVec.ofNat 32 (w.toNat % 2 ^ 25))) := by
  have hsame : imgCheck (wrReg s 0x30020 (BitVec.ofNat 32 (w.toNat % 2 ^ 25))) (fun o k => rdMem s o k) (min (w.toNat % 2 ^ 25) 0x1000000) = code := by
    refine (imgCheck_of_parts (s := s) (u := wrReg s 0x30020 (BitVec.ofNat 32 (w.toNat % 2 ^ 25))) rfl ?_ _ _).trans hc
    exact fld_of_rd (rd_wrReg_ne _ _ _ _ (canonOff_ne_low (by decide) (by decide) (by decide))) 16 7
  rw [recovWrite, if_neg (not_not.mpr hp)]
  refine (if_neg (not_not.mpr hg)).trans ((if_pos ?_).trans ?_)
  · exact fun h => h0 (hsame.symm.trans h)
  · exact congrArg (fun c => bootErr c (wrReg s 0x30020 (BitVec.ofNat 32 (w.toNat % 2 ^ 25)))) hsame

theorem bootRecovGo_answers (t : Time) (ag : Agent) (w : Word) (s : State) (h : writeTakes s ag 0x30020) :
    (phase s ≠ 15 → exec (.bootRecovGo t ag w) s = .next (advance s t)) ∧
    (phase s = 15 → w.getLsbD 31 = true → imgCheck s (fun o k => rdMem s o k) (min (w.toNat % 2 ^ 25) 0x1000000) ≠ 0 →
      ∃ u, exec (.bootRecovGo t ag w) s = .next u ∧ phase u = 15 ∧ u.boot = s.boot ∧ u.mem = s.mem ∧
        fld u 0x30000 0 16 = imgCheck s (fun o k => rdMem s o k) (min (w.toNat % 2 ^ 25) 0x1000000)) := by
  have e : exec (.bootRecovGo t ag w) s = .next (recovWrite w (advance s t)) := congrArg Host.Outcome.next (onWrite_of_writeTakes _ h)
  refine ⟨fun hp => ?_, fun hp hg hc => ?_⟩
  · rw [e, recovWrite_ignored (s := advance s t) hp]
  · rw [e, recovWrite_rejects (s := advance s t) hp hg rfl hc]
    refine ⟨_, rfl, ?_, rfl, rfl, fld_bootErr (imgCheck_lt _ _ _) _⟩
    rw [phase_bootErr, phase, fld_of_rd (rd_wrReg_ne _ _ _ _ (canonOff_ne_low (by decide) (by decide) (by decide)))]
    exact hp

/-! ## POLICY_CALLBACK -/

theorem rd_holdWrite (w : Word) (s : State) : rd (holdWrite w s) 0x208 = w &&& 0xF1F := rd_wrReg_same _ _ _

theorem rd_holdWrite_ne {x : Nat} (hx : soleName x) (h : x ≠ 0x208) (w : Word) (s : State) : rd (holdWrite w s) x = rd s x := by
  rw [holdWrite]
  refine (rd_wrReg_ne _ _ _ _ (canonOff_ne_of_soleName hx (.inl (by decide)) h)).trans ?_
  split <;> rfl

theorem holdWrite_boot (w : Word) (s : State) : (holdWrite w s).boot = s.boot := by
  unfold holdWrite
  dsimp only
  split <;> rfl

/-- What ends a call: the pending values of a call that is aborted go, the fault is counted. -/
def callEnded (bad : Bool) (g : Nat) (s : State) : State := if bad then discardGroups g (polFault s) else s

theorem callEnded_boot (bad : Bool) (g : Nat) (s : State) : (callEnded bad g s).boot = s.boot := by cases bad <;> rfl

theorem rd_callEnded_faults (bad : Bool) (g : Nat) (s : State) : rd (callEnded bad g s) 0x30018 = rd s 0x30018 + if bad then 1 else 0 := by
  cases bad with
  | false => simp [callEnded]
  | true =>
    rw [show rd (callEnded true g s) 0x30018 = rd (polFault s) 0x30018 from rfl, polFault, rd_bootErr_ne (.inl (by decide)) (by decide), rd_bump]
    rfl

/-- The module as a call leaves it. -/
def calledModule (m : PolMod) (kind : CallKind) (bad : Bool) (s : State) : PolMod :=
  { m with last := if kind = .epoch then epochOf s + 1 else m.last, served := m.served || decide (kind = .service), aborts := m.aborts + bit01 bad }

/-- The holds of the module's groups clear, and the module is put back. -/
def callClosed (j g : Nat) (m1 : PolMod) (s : State) : State :=
  holdWrite (rd s 0x208 &&& ~~~(asWord g)) { s with boot := { s.boot with mods := setNth s.boot.mods j m1 } }

theorem exec_policyCallback_calls {j : Nat} {kind : CallKind} (acc : List ModAccess) (us : Nat) {m : PolMod} (hm : s.boot.mods[j]? = some m)
    (hc : mayCall (advance s t) m kind = true) {good : Bool} {v : State} (hrun : modRun m acc (holdWrite (rd s 0x208 ||| asWord (modGroups m)) (advance s t)) = (good, v)) :
    exec (.policyCallback t j kind acc us) s = .next (callClosed j (modGroups m) (calledModule m kind (!good || decide (m.budget < us)) (advance s t))
      (callEnded (!good || decide (m.budget < us)) (modGroups m) v)) := by
  rw [exec_policyCallback, execPolicyCallback]
  dsimp only
  rw [advance_boot, hm]
  refine congrArg Host.Outcome.next ((if_neg (not_not.mpr hc)).trans ?_)
  rw [rd_advance, hrun]
  rfl

theorem rd_callClosed_hold (j g : Nat) (m1 : PolMod) (s : State) : rd (callClosed j g m1 s) 0x208 &&& asWord g = 0 := by
  rw [callClosed, rd_holdWrite]
  ext i hi
  simp only [BitVec.getElem_and, BitVec.getElem_not]
  cases (asWord g)[i] <;> simp

theorem aborts_callClosed {j g : Nat} {m m1 : PolMod} {v : State} (h : v.boot.mods[j]? = some m) :
    ((callClosed j g m1 v).boot.mods[j]?).map PolMod.aborts = some m1.aborts := by
  rw [callClosed, holdWrite_boot]
  dsimp only
  rw [getElem?_setNth, if_pos rfl, h]
  rfl

theorem policyCallback_ends (t : Time) (j : Nat) (kind : CallKind) (acc : List ModAccess) (us : Nat) (s : State) (m : PolMod) (hm : s.boot.mods[j]? = some m)
    (hc : mayCall (advance s t) m kind = true) : ∃ u, exec (.policyCallback t j kind acc us) s = .next u ∧ rd u 0x208 &&& asWord (modGroups m) = 0 ∧
      (acc = [] → (u.boot.mods[j]?).map PolMod.aborts = some (m.aborts + if m.budget < us then 1 else 0) ∧
        rd u 0x30018 = rd s 0x30018 + (if m.budget < us then 1 else 0)) ∧
      (∀ off w fits r, acc = .write off w fits :: r → inWins m true off = false → (u.boot.mods[j]?).map PolMod.aborts = some (m.aborts + 1)) := by
  obtain ⟨h, hh⟩ : ∃ h, h = holdWrite (rd s 0x208 ||| asWord (modGroups m)) (advance s t) := ⟨_, rfl⟩
  have hmods : h.boot.mods[j]? = some m := by rw [hh, holdWrite_boot]; exact hm
  have hfaults : rd h 0x30018 = rd s 0x30018 := by rw [hh, rd_holdWrite_ne (.inl (by decide)) (by decide)]; rfl
  obtain ⟨good, v, hrun⟩ : ∃ good v, modRun m acc h = (good, v) := ⟨_, _, rfl⟩
  refine ⟨_, exec_policyCallback_calls acc us hm hc (hh ▸ hrun), rd_callClosed_hold _ _ _ _, fun ha => ?_, fun off w fits r ha hw => ?_⟩
  · rw [ha, modRun, Prod.mk.injEq] at hrun
    obtain ⟨rfl, rfl⟩ := hrun
    refine ⟨?_, ?_⟩
    · rw [aborts_callClosed (m := m) (by rw [callEnded_boot]; exact hmods), calledModule]
      simp only [Bool.not_true, Bool.false_or, bit01, decide_eq_true_eq]
    · rw [callClosed, rd_holdWrite_ne (.inl (by decide)) (by decide)]
      refine (rd_callEnded_faults _ _ _).trans ?_
      rw [hfaults]
      simp only [Bool.not_true, Bool.false_or, decide_eq_true_eq]
  · rw [ha, modRun, if_neg (by rw [hw]; decide), Prod.mk.injEq] at hrun
    obtain ⟨rfl, rfl⟩ := hrun
    rw [aborts_callClosed (m := m) (by rw [callEnded_boot]; exact hmods)]
    rfl

/-! ## The statement -/

/-- Settles O52: every phase ends as its command's cases say; a load's end and the reset of its partition leave PHASE and MODEL_STATUS alone
(`loadEnded_modelEnd`). -/
theorem bootFromRomToService : Obligations.BootFromRomToService := by
  unfold Obligations.BootFromRomToService
  refine ⟨fun t ok s => bootRomPhase_ends ok, fun t x s hp hm => ⟨imageCheck_accepts x hp hm, fun h0 hb => ?_, fun h0 hb => ?_⟩,
    fun t ok s => memoryTraining_ends ok, fun t pol s => bootLock_locks pol, fun t i err s hp hn => ?_, fun t ctxs s => bootService_serves ctxs,
    bootRecovGo_answers, policyCallback_ends⟩
  · rw [hb] at h0 ⊢
    exact imageCheck_rejects x hp hm hb rfl h0
  · rw [hb] at h0
    exact imageCheck_fails x hp hm hb h0
  · obtain ⟨u, e, hu⟩ := modelLoad_says t i err s hp hn
    exact ⟨u, e, hu.phase, hu.out, hu.version, hu.unfit, hu.unread, hu.loaded, hu.spoilt⟩

end Sys2Proof.Proofs
end

section
/-!
Comparisons (R407, R411): which of them are open, and what the operations on them and on the zones leave.
-/
namespace Sys2Proof.Proofs
open Sys2Proof Sys2Proof.Machine Sys2Proof.Safety Sys2Proof.Laws
variable {s u : State}

/-! ## The list of comparisons -/

/-- A state with other comparisons. -/
def withCmps (s : State) (l : List Cmp) : State := { s with hut := { s.hut with cmps := l } }

theorem hzoneIn_withCmps (s : State) (l : List Cmp) (k : Chan) (z : Nat) : hzoneIn (withCmps s l) k z = hzoneIn s k z := by cases k <;> rfl
/-- Two entries are of the same zone and frame. -/
def sameCmp (z ctr : Nat) (c : Cmp) : Bool := decide (c.zone = z) && decide (c.ctr = ctr)

/-- The comparison of a zone and a frame in a list. -/
def findCmp (l : List Cmp) (z ctr : Nat) : Option Cmp := l.find? (sameCmp z ctr)

theorem cmpOf_eq (s : State) (z ctr : Nat) : cmpOf s z ctr = findCmp s.hut.cmps z ctr := rfl

theorem cmpOf_of_hut (h : u.hut.cmps = s.hut.cmps) (z ctr : Nat) : cmpOf u z ctr = cmpOf s z ctr := by rw [cmpOf_eq, h, cmpOf_eq]

theorem findCmp_map {f : Cmp → Cmp} (hz : ∀ c, (f c).zone = c.zone) (hc : ∀ c, (f c).ctr = c.ctr) (l : List Cmp) (z ctr : Nat) :
    findCmp (l.map fun c => if sameCmp z ctr c then f c else c) z ctr = (findCmp l z ctr).map f := by
  induction l with
  | nil => rfl
  | cons c l ih =>
    rw [List.map_cons, findCmp, findCmp]
    by_cases h : sameCmp z ctr c = true
    · have hf : sameCmp z ctr (f c) = true := by rw [sameCmp, hz, hc]; exact h
      rw [if_pos h, List.find?_cons_of_pos hf, List.find?_cons_of_pos h]
      rfl
    · rw [if_neg h, List.find?_cons_of_neg h, List.find?_cons_of_neg h]
      exact ih

theorem cmpOf_modCmp {f : Cmp → Cmp} (hz : ∀ c, (f c).zone = c.zone) (hc : ∀ c, (f c).ctr = c.ctr) (s : State) (z ctr : Nat) :
    cmpOf (modCmp s z ctr f) z ctr = (cmpOf s z ctr).map f := findCmp_map hz hc s.hut.cmps z ctr

theorem findCmp_filter {p : Cmp → Bool} {l : List Cmp} {z ctr : Nat} {c : Cmp} (h : findCmp l z ctr = some c) (hp : p c = true) :
    findCmp (l.filter p) z ctr = some c := by
  induction l with
  | nil => cases h
  | cons d l ih =>
    rw [findCmp] at h
    by_cases hd : sameCmp z ctr d = true
    · rw [List.find?_cons_of_pos hd, Option.some.injEq] at h
      rw [h, List.filter_cons_of_pos hp, findCmp, List.find?_cons_of_pos (h ▸ hd)]
    · rw [List.find?_cons_of_neg hd] at h
      by_cases hq : p d = true
      · rw [List.filter_cons_of_pos hq, findCmp, List.find?_cons_of_neg hd]
        exact ih h
      · rw [List.filter_cons_of_neg hq]
        exact ih h

/-- The entries that stay as one of zone `z` closes. -/
def closedCmps (s : State) (z ctr : Nat) : List Cmp :=
  (s.hut.cmps.filter fun c => !(decide (c.zone = z) && c.closed && !noticeWaits s c)).map fun c => if sameCmp z ctr c then { c with closed := true } else c

/-- A comparison that was open is closed, and nothing else of it changes. -/
theorem cmpOf_closed {z ctr : Nat} {c : Cmp} (h : cmpOf s z ctr = some c) (hc : c.closed = false) :
    findCmp (closedCmps s z ctr) z ctr = some { c with closed := true } := by
  rw [closedCmps, findCmp_map (f := fun c => { c with closed := true }) (fun _ => rfl) (fun _ => rfl), findCmp_filter (cmpOf_eq s z ctr ▸ h) (by simp [hc])]
  rfl

/-! ## Opening -/

/-- An entry is added unless there is one of its zone and frame. -/
def addCmp (l : List Cmp) (c : Cmp) : List Cmp := if l.any (fun d => decide (d.zone = c.zone) && decide (d.ctr = c.ctr)) then l else l ++ [c]

/-- The entries of a frame are added. -/
def addCmps (l cs : List Cmp) : List Cmp := cs.foldl addCmp l

theorem openCmps_eq (s : State) (q : List Byte) : openCmps s q = withCmps s (addCmps s.hut.cmps (cmpsOf s q)) := by
  rw [openCmps]
  generalize cmpsOf s q = cs
  induction cs generalizing s with
  | nil => rfl
  | cons c cs ih =>
    rw [List.foldl_cons, ih, show addCmps s.hut.cmps (c :: cs) = addCmps (addCmp s.hut.cmps c) cs from rfl, addCmp]
    split <;> rfl

/-- The entries with those of the notices that wait. -/
def waitingCmps (s : State) : List Cmp :=
  (nringOf s 16).recs.foldl (fun l e => if bit e.2 0x1F 5 then l else addCmps l (cmpsOf s e.2)) s.hut.cmps

theorem cmpsOf_withCmps (s : State) (l : List Cmp) (q : List Byte) : cmpsOf (withCmps s l) q = cmpsOf s q := rfl

theorem openWaiting_eq (s : State) : openWaiting s = withCmps s (waitingCmps s) := by
  rw [openWaiting, waitingCmps]
  generalize (nringOf s 16).recs = rs
  suffices h : ∀ l, rs.foldl (fun s e => if bit e.2 0x1F 5 then s else openCmps s e.2) (withCmps s l) =
      withCmps s (rs.foldl (fun l e => if bit e.2 0x1F 5 then l else addCmps l (cmpsOf s e.2)) l) from h s.hut.cmps
  induction rs with
  | nil => exact fun l => rfl
  | cons e rs ih =>
    intro l
    rw [List.foldl_cons, List.foldl_cons]
    by_cases hb : bit e.2 0x1F 5 = true
    · rw [if_pos hb, if_pos hb, ih]
    · rw [if_neg hb, if_neg hb, openCmps_eq, cmpsOf_withCmps]
      exact ih _

theorem any_addCmp_of_any {p : Cmp → Bool} {l : List Cmp} (h : l.any p = true) (c : Cmp) : (addCmp l c).any p = true := by
  unfold addCmp
  split
  · exact h
  · rw [List.any_append, h, Bool.true_or]

theorem any_addCmp_self (l : List Cmp) (c : Cmp) : (addCmp l c).any (sameCmp c.zone c.ctr) = true := by
  unfold addCmp
  split
  · assumption
  · simp [sameCmp]

theorem any_addCmps {c : Cmp} {cs : List Cmp} (h : c ∈ cs) (l : List Cmp) : (addCmps l cs).any (sameCmp c.zone c.ctr) = true := by
  have keep : ∀ (cs l : List Cmp), l.any (sameCmp c.zone c.ctr) = true → (addCmps l cs).any (sameCmp c.zone c.ctr) = true := fun cs => by
    induction cs with
    | nil => exact fun l hl => hl
    | cons d cs ih => exact fun l hl => ih _ (any_addCmp_of_any hl d)
  induction cs generalizing l with
  | nil => cases h
  | cons d cs ih =>
    rcases List.mem_cons.mp h with rfl | h
    · exact keep cs _ (any_addCmp_self l c)
    · exact ih h _

theorem findCmp_isSome {l : List Cmp} {z ctr : Nat} (h : l.any (sameCmp z ctr) = true) : (findCmp l z ctr).isSome = true := by
  rw [findCmp, List.find?_isSome]
  exact List.any_eq_true.mp h

/-! ## Zones made invalid by a frame -/

theorem hzoneOf_modHzone_same (s : State) (z : Nat) (f : HZone → HZone) : hzoneOf (modHzone s z f) z = f (hzoneOf s z) := hzoneIn_modHzone_same s z f .a

/-- A zone that frame `ctr` makes invalid. -/
def barredBy (ctr : Nat) (x : HZone) : HZone := { x with valid := false, bar := if ctrPast ctr x.bar then some ctr else x.bar }

theorem barredBy_bar (ctr : Nat) (x : HZone) : (barredBy ctr x).bar.isSome = true := by
  unfold barredBy
  dsimp only
  cases h : x.bar with
  | none => rfl
  | some b => split <;> rfl

theorem zonesInvalid_shape (s : State) (ctr : Nat) (zs : List Nat) :
    ∃ a b, zonesInvalid s ctr zs = { s with hut := { s.hut with chA := a, chB := b } } :=
  List.foldlRecOn (motive := fun (u : State) => ∃ a b, u = { s with hut := { s.hut with chA := a, chB := b } }) _ _ ⟨_, _, rfl⟩ fun u h z _ => by
    obtain ⟨a, b, rfl⟩ := h
    exact ⟨_, _, rfl⟩

theorem zonesInvalid_regs (s : State) (ctr : Nat) (zs : List Nat) : (zonesInvalid s ctr zs).regs = s.regs := by
  obtain ⟨a, b, h⟩ := zonesInvalid_shape s ctr zs; rw [h]
theorem zonesInvalid_cmps (s : State) (ctr : Nat) (zs : List Nat) : (zonesInvalid s ctr zs).hut.cmps = s.hut.cmps := by
  obtain ⟨a, b, h⟩ := zonesInvalid_shape s ctr zs; rw [h]
theorem zonesInvalid_crops (s : State) (ctr : Nat) (zs : List Nat) : (zonesInvalid s ctr zs).hut.crops = s.hut.crops := by
  obtain ⟨a, b, h⟩ := zonesInvalid_shape s ctr zs; rw [h]
theorem zonesInvalid_lastCtr (s : State) (ctr : Nat) (zs : List Nat) : (zonesInvalid s ctr zs).hut.lastCtr = s.hut.lastCtr := by
  obtain ⟨a, b, h⟩ := zonesInvalid_shape s ctr zs; rw [h]
theorem zonesInvalid_ing (s : State) (ctr : Nat) (zs : List Nat) : (zonesInvalid s ctr zs).ing = s.ing := by
  obtain ⟨a, b, h⟩ := zonesInvalid_shape s ctr zs; rw [h]

/-- A zone that is out and barred stays so. -/
theorem hzoneOf_zonesInvalid {z : Nat} {zs : List Nat} (h : z ∈ zs) (s : State) (ctr : Nat) :
    (hzoneOf (zonesInvalid s ctr zs) z).valid = false ∧ (hzoneOf (zonesInvalid s ctr zs) z).bar.isSome = true := by
  have step : ∀ (v : State) (y : Nat), y = z ∨ ((hzoneOf v z).valid = false ∧ (hzoneOf v z).bar.isSome = true) →
      (hzoneOf (modHzone v y (barredBy ctr)) z).valid = false ∧ (hzoneOf (modHzone v y (barredBy ctr)) z).bar.isSome = true := fun v y hy => by
    by_cases hz : z = y
    · rw [← hz, hzoneOf_modHzone_same]
      exact ⟨rfl, barredBy_bar ctr _⟩
    · rw [hzoneOf, hzoneIn_modHzone_ne v hz]
      exact hy.resolve_left (Ne.symm hz)
  have keep : ∀ (zs : List Nat) (v : State), (hzoneOf v z).valid = false ∧ (hzoneOf v z).bar.isSome = true →
      (hzoneOf (zonesInvalid v ctr zs) z).valid = false ∧ (hzoneOf (zonesInvalid v ctr zs) z).bar.isSome = true := fun zs => by
    induction zs with
    | nil => exact fun v hv => hv
    | cons y zs ih => exact fun v hv => ih _ (step v y (.inr hv))
  induction zs generalizing s with
  | nil => cases h
  | cons y zs ih =>
    rcases List.mem_cons.mp h with rfl | h
    · exact keep zs _ (step s z (.inl rfl))
    · exact ih h _

end Sys2Proof.Proofs
end

section
/-!
Checker results and zone reports (R409, R410), and how a comparison ends (R411, R413).
-/
namespace Sys2Proof.Proofs
open Sys2Proof Sys2Proof.Machine Sys2Proof.Safety Sys2Proof.Laws
variable {s : State} {t : Time}

/-! ## CHECKER_RESULT -/

/-- The checker's result of a crop. -/
def checked (present : Bool) (s : State) (d : Cmp) : Cmp := if cmpOpen s d then { d with chk := some present } else d

theorem checked_zone (present : Bool) (s : State) (d : Cmp) : (checked present s d).zone = d.zone := by unfold checked; split <;> rfl
theorem checked_ctr (present : Bool) (s : State) (d : Cmp) : (checked present s d).ctr = d.ctr := by unfold checked; split <;> rfl

/-- The next crop is taken, and both channels note what the checker has found of the zone. -/
def cropChecked (z : Nat) (present : Bool) (c : Crops) (left : List Crops) (s : State) : State :=
  modHzone { s with hut := { s.hut with crops := left } } z fun x => { x with chk := some (c.ctr, present, c.cap) }

theorem exec_checkerResult_next {z : Fin 16} (present : Bool) {c : Crops} {im : List Byte} {ws : List (Nat × List Byte)} {rest : List Crops}
    (hc : s.hut.crops = c :: rest) (hz : c.zones = (z.val, im) :: ws) : exec (.checkerResult t z present) s = .next
      (modCmp (cropChecked z present c (if ws.isEmpty then rest else { c with zones := ws } :: rest) (advance s t)) z c.ctr
        (checked present (cropChecked z present c (if ws.isEmpty then rest else { c with zones := ws } :: rest) (advance s t)))) := by
  rw [exec_checkerResult, execCheckerResult]
  dsimp only
  rw [advance_hut, hc]
  dsimp only
  rw [hz]
  exact congrArg Host.Outcome.next (if_neg fun h => h rfl)

theorem checkerResult_keeps (t : Time) (z : Fin 16) (present : Bool) (s : State) (c : Crops) (im : List Byte) (ws : List (Nat × List Byte)) (rest : List Crops)
    (hc : s.hut.crops = c :: rest) (hz : c.zones = (z.val, im) :: ws) : ∃ u, exec (.checkerResult t z present) s = .next u ∧ u.regs = s.regs ∧ u.mem = s.mem ∧
      (∀ k, (hzoneIn u k z).chk = some (c.ctr, present, c.cap)) ∧ u.hut.crops = (if ws.isEmpty then rest else { c with zones := ws } :: rest) ∧
      ∀ d, cmpOf s z c.ctr = some d → cmpOf u z c.ctr = some (if cmpOpen (advance s t) d then { d with chk := some present } else d) := by
  obtain ⟨v, hv⟩ : ∃ v, v = cropChecked z present c (if ws.isEmpty then rest else { c with zones := ws } :: rest) (advance s t) := ⟨_, rfl⟩
  have e := exec_checkerResult_next (t := t) present hc hz
  rw [← hv] at e
  refine ⟨_, e, by rw [hv]; rfl, by rw [hv]; rfl, fun k => ?_, by rw [hv]; rfl, fun d hd => ?_⟩
  · rw [show modCmp v z c.ctr (checked present v) = withCmps v _ from rfl, hzoneIn_withCmps, hv, cropChecked, hzoneIn_modHzone_same]
  · have hvd : cmpOf v z c.ctr = some d := (cmpOf_of_hut (by rw [hv]; rfl) _ _).trans hd
    rw [cmpOf_modCmp (checked_zone present v) (checked_ctr present v), hvd, Option.map_some, checked, hv]
    rfl

/-! ## ZONE_REPORT -/

/-- What a report that is accepted puts into its comparison. -/
def reported (present : Bool) (p : Nat) (s : State) (c : Cmp) : Cmp := if cmpOpen s c then { c with rep := some present, part := some p } else c

theorem reported_zone (present : Bool) (p : Nat) (s : State) (c : Cmp) : (reported present p s c).zone = c.zone := by unfold reported; split <;> rfl
theorem reported_ctr (present : Bool) (p : Nat) (s : State) (c : Cmp) : (reported present p s c).ctr = c.ctr := by unfold reported; split <;> rfl

/-- The next entry of a zone ring is taken. -/
def entryTaken (s : State) (m : Nat) (base : Word) (e : Nat) : State := { s with hut := { s.hut with rings := tset s.hut.rings m (base, e + 1) } }

/-- The entry of a zone ring that a report is read from. -/
def reportBytes (s : State) (m e : Nat) : List Byte := rdMem s (zringAddr s m + e % zringLen s m * 32) 32

theorem zoneReport_takes {m : Nat} {base : Word} {e : Nat} (hr : tget? s.hut.rings m = some (base, e)) (h1 : ¬ (m = 1 ∧ oneRing s = true))
    (hd : (token s (zringTok s m).1 (zringTok s m).2 - base - BitVec.ofNat 32 e - 1).toNat < 2 ^ 31) :
    zoneReport s m = if ¬ reportOk s m (reportBytes s m e) = true then hutEvent 0x060E (le (reportBytes s m e) 7 1 % 16) (entryTaken s m base e)
      else modCmp (openWaiting (entryTaken s m base e)) (le (reportBytes s m e) 7 1 % 16) (le (reportBytes s m e) 0 4)
        (reported (decide (le (reportBytes s m e) 8 1 = 1)) (zringTok s m).1 (openWaiting (entryTaken s m base e))) := by
  rw [zoneReport, hr]
  exact if_neg (by rintro (h | h) <;> [exact h1 h; exact h hd])

theorem waitingCmps_entryTaken (s : State) (m : Nat) (base : Word) (e : Nat) : waitingCmps (entryTaken s m base e) = waitingCmps s := rfl

theorem zoneReport_counts (t : Time) (m : Fin 2) (s : State) (base : Word) (e : Nat) (hp : s.hut.passed = true) (hr : tget? s.hut.rings m = some (base, e))
    (h1 : ¬ (m.val = 1 ∧ oneRing s = true)) (hd : (token s (zringTok s m).1 (zringTok s m).2 - base - BitVec.ofNat 32 e - 1).toNat < 2 ^ 31) :
    ∃ u, exec (.zoneReport t m) s = .next u ∧ tget? u.hut.rings m = some (base, e + 1) ∧ u.mem = s.mem ∧
      (reportOk s m (reportBytes s m e) = false → fld u 0x20000 0 16 = 0x060E ∧ u.hut.cmps = s.hut.cmps) ∧
      (reportOk s m (reportBytes s m e) = true → ∀ c, cmpOf (openWaiting (advance s t)) (le (reportBytes s m e) 7 1 % 16) (le (reportBytes s m e) 0 4) = some c →
        cmpOpen (advance s t) c = true → u.regs = s.regs ∧ cmpOf u (le (reportBytes s m e) 7 1 % 16) (le (reportBytes s m e) 0 4) =
          some { c with rep := some (decide (le (reportBytes s m e) 8 1 = 1)), part := some (zringTok s m).1 }) := by
  have ex : exec (.zoneReport t m) s = .next (zoneReport (advance s t) m) := congrArg Host.Outcome.next (if_pos hp)
  have ez := zoneReport_takes (s := advance s t) hr h1 hd
  rw [show reportOk (advance s t) m (reportBytes (advance s t) m e) = reportOk s m (reportBytes s m e) from rfl,
    show reportBytes (advance s t) m e = reportBytes s m e from rfl] at ez
  rw [ex, ez]
  obtain ⟨b, hb⟩ : ∃ b, b = reportBytes s m e := ⟨_, rfl⟩
  rw [← hb]
  have hring : ∀ l, tget? (withCmps (entryTaken (advance s t) m base e) l).hut.rings m = some (base, e + 1) := fun l => tget?_tset_same _ _ _
  cases hok : reportOk s m b with
  | false =>
    rw [if_pos (by decide)]
    exact ⟨_, rfl, hring [], rfl, fun _ => ⟨fld_hutEvent _ _ (by decide), rfl⟩, fun h => by cases h⟩
  | true =>
    rw [if_neg (by decide), openWaiting_eq]
    refine ⟨_, rfl, hring _, rfl, fun h => (by cases h), fun _ c hc ho => ⟨rfl, ?_⟩⟩
    rw [openWaiting_eq] at hc
    rw [cmpOf_modCmp (reported_zone _ _ _) (reported_ctr _ _ _), waitingCmps_entryTaken,
      show cmpOf (withCmps (entryTaken (advance s t) m base e) (waitingCmps (advance s t))) (le b 7 1 % 16) (le b 0 4) = some c from hc, Option.map_some, reported]
    exact congrArg some (if_pos ho)

/-! ## The outcome of a comparison -/

theorem hzReg_apart {z x : Nat} (hz : z < 16) {o : Nat} (ho : o < 0x20) (h : x ≠ hzReg z o) (hx : soleName x) : canonOff x ≠ canonOff (hzReg z o) :=
  canonOff_ne_of_soleName hx (.inl (by unfold hzReg; omega)) h

/-- A zone in which the outcome of frame `ctr` is noted, `top` being its latest frame compared. -/
def disNoted (top ctr : Nat) (agree : Bool) (x : HZone) : HZone := { x with dis := x.disNow top ctr agree }

/-- A zone whose state frame `ctr` sets. -/
def zoneSet (ctr cap : Nat) (agree : Bool) (x : HZone) : HZone :=
  { disNoted ctr ctr agree x with valid := agree && (ctrPast ctr x.bar || x.valid), capAt := some cap }

/-- The number of disagreements is shown. -/
def disShown (z : Nat) (s : State) : State := setFld s (hzReg z 0x18) 0 2 (min 3 (hzoneOf s z).dis.length)

theorem zoneOutcome_stale {z ctr : Nat} (hf : cmpFresh s z ctr = false) (cap : Nat) (agree : Bool) :
    zoneOutcome s z ctr cap agree = disShown z (modHzone s z (disNoted (rd s (hzReg z 0x14)).toNat ctr agree)) := by
  rw [zoneOutcome]
  simp only [hf, Bool.false_eq_true, if_false]
  rfl

theorem zoneOutcome_fresh {z ctr : Nat} (hf : cmpFresh s z ctr = true) (cap : Nat) (agree : Bool) :
    zoneOutcome s z ctr cap agree = wrReg (disShown z (modHzone s z (zoneSet ctr cap agree))) (hzReg z 0x14) (BitVec.ofNat 32 ctr) := by
  rw [zoneOutcome]
  simp only [hf, if_true]
  rfl

/-- What the outcome of frame `ctr` leaves of the zone. -/
structure Outcome (z ctr cap : Nat) (agree : Bool) (s u : State) : Prop where
  zone : hzoneOf u z = if cmpFresh s z ctr then zoneSet ctr cap agree (hzoneOf s z) else disNoted (rd s (hzReg z 0x14)).toNat ctr agree (hzoneOf s z)
  shown : rd u (hzReg z 0x14) = if cmpFresh s z ctr then BitVec.ofNat 32 ctr else rd s (hzReg z 0x14)
  other : ∀ x, soleName x → x ≠ hzReg z 0x14 → x ≠ hzReg z 0x18 → rd u x = rd s x
  sio : u.sio = s.sio

theorem outcome_zoneOutcome {z : Nat} (hz : z < 16) (ctr cap : Nat) (agree : Bool) (s : State) : Outcome z ctr cap agree s (zoneOutcome s z ctr cap agree) := by
  have h14 : soleName (hzReg z 0x14) := .inl (by unfold hzReg; omega)
  have hne : hzReg z 0x14 ≠ hzReg z 0x18 := by unfold hzReg; omega
  have hshow : ∀ (v : State) x, soleName x → x ≠ hzReg z 0x18 → rd (disShown z v) x = rd v x := fun v x hx h =>
    rd_setFld_ne _ _ _ _ _ _ (hzReg_apart hz (by decide) h hx)
  cases hf : cmpFresh s z ctr with
  | false =>
    rw [zoneOutcome_stale hf]
    refine ⟨?_, ?_, fun x hx _ hx18 => ?_, rfl⟩
    · rw [hf]
      exact hzoneOf_modHzone_same s z _
    · rw [hshow _ _ h14 hne, hf]
      rfl
    · rw [hshow _ x hx hx18]
      rfl
  | true =>
    rw [zoneOutcome_fresh hf]
    refine ⟨?_, ?_, fun x hx hx14 hx18 => ?_, rfl⟩
    · rw [hf]
      exact hzoneOf_modHzone_same s z _
    · rw [rd_wrReg_same, hf]
      rfl
    · rw [rd_wrReg_ne _ _ _ _ (hzReg_apart hz (by decide) hx14 hx), hshow _ x hx hx18]
      rfl

theorem zoneOutcome_cmps (s : State) (z ctr cap : Nat) (agree : Bool) : (zoneOutcome s z ctr cap agree).hut.cmps = s.hut.cmps := by
  cases hf : cmpFresh s z ctr with
  | false => rw [zoneOutcome_stale hf]; rfl
  | true => rw [zoneOutcome_fresh hf]; rfl

/-- The frame itself lies in its window of disagreements. -/
theorem disWindow_self (ctr : Nat) (l : List Nat) : (disWindow ctr ([ctr] ++ l)).length = (disWindow ctr l).length + 1 := by
  have h : decide ((ctr + 2 ^ 32 - ctr) % 2 ^ 32 < 100) = true := by
    rw [Nat.add_sub_cancel_left]
    rfl
  rw [disWindow, List.singleton_append, List.filter_cons_of_pos (p := fun d => decide ((ctr + 2 ^ 32 - d) % 2 ^ 32 < 100)) h, List.length_cons, disWindow]

/-! ## ZONE_COMPARE -/

/-- A zone's comparison is closed with its outcome. -/
def comparedZone (s : State) (z ctr : Nat) (c : Cmp) (agree : Bool) : State := zoneOutcome (withCmps s (closedCmps s z ctr)) z ctr c.cap agree

/-- A disagreement, counted and recorded. -/
def disagreed (z : Nat) (s : State) : State := hutEvent 0x0601 z (bump (bump s (hctReg 0)) (hzReg z 0x1C))

theorem zoneCompare_eq {z ctr : Nat} {c : Cmp} {a b : Bool} (hc : cmpOf s z ctr = some c) (ho : c.closed = false) (ha : c.chk = some a) (hb : c.rep = some b) :
    zoneCompare s z ctr = if a = b then comparedZone s z ctr c (decide (a = b)) else
      if 3 ≤ (hzoneOf (comparedZone s z ctr c (decide (a = b))) z).dis.length
      then sRestart (disagreed z (comparedZone s z ctr c (decide (a = b)))) (c.part.getD (zonePart s z)) else disagreed z (comparedZone s z ctr c (decide (a = b))) := by
  rw [zoneCompare, hc]
  dsimp only
  rw [ho, ha, hb]
  rfl

section
variable {z ctr : Nat} {c : Cmp}

theorem cmpOf_comparedZone (hc : cmpOf s z ctr = some c) (ho : c.closed = false) (agree : Bool) :
    cmpOf (comparedZone s z ctr c agree) z ctr = some { c with closed := true } :=
  (congrArg (fun l => findCmp l z ctr) (zoneOutcome_cmps (withCmps s (closedCmps s z ctr)) z ctr c.cap agree)).trans (cmpOf_closed hc ho)

theorem outcome_comparedZone (hz : z < 16) (c : Cmp) (agree : Bool) : Outcome z ctr c.cap agree s (comparedZone s z ctr c agree) := by
  obtain ⟨hzone, hshown, hother, hsio⟩ := outcome_zoneOutcome hz ctr c.cap agree (withCmps s (closedCmps s z ctr))
  exact ⟨hzone, hshown, hother, hsio⟩

theorem disagreed_reads (hz : z < 16) (v : State) : rd (disagreed z v) (hctReg 0) = rd v (hctReg 0) + 1 ∧ rd (disagreed z v) (hzReg z 0x1C) = rd v (hzReg z 0x1C) + 1 ∧
    rd (disagreed z v) (hzReg z 0x14) = rd v (hzReg z 0x14) := by
  have s1C : soleName (hzReg z 0x1C) := .inl (by unfold hzReg; omega)
  have s14 : soleName (hzReg z 0x14) := .inl (by unfold hzReg; omega)
  have h0 : soleName (hctReg 0) := .inl (by decide)
  refine ⟨?_, ?_, ?_⟩
  · rw [disagreed, rd_hutEvent_ne _ h0 (by decide), rd_bump_ne _ (canonOff_ne_of_soleName h0 s1C (by unfold hctReg hzReg; omega)), rd_bump]
  · rw [disagreed, rd_hutEvent_ne _ s1C (by unfold hzReg; omega), rd_bump, rd_bump_ne _ (canonOff_ne_of_soleName s1C h0 (by unfold hctReg hzReg; omega))]
  · rw [disagreed, rd_hutEvent_ne _ s14 (by unfold hzReg; omega), rd_bump_ne _ (canonOff_ne_of_soleName s14 s1C (by unfold hzReg; omega)),
      rd_bump_ne _ (canonOff_ne_of_soleName s14 h0 (by unfold hctReg hzReg; omega))]

end

/-! ## The restart of a class-S partition (R413, R422) -/

theorem partGroups_of_motion {u : State} (h : ∀ x, 0x200000 ≤ x → rd u x = rd s x) (p : Nat) : partGroups u p = partGroups s p := by
  have ht : topo u = topo s := by rw [topo, fld_of_rd (h _ (by decide)), topo]
  have hc : ∀ m, cpartOf u m = cpartOf s m := fun m => by rw [cpartOf, fld_of_rd (h _ (by unfold mpReg; omega)), cpartOf]
  have ha : ∀ a, rd u (axReg a 0) = rd s (axReg a 0) := fun a => h _ (by unfold axReg; omega)
  have hp : ∀ m, portAxes u m = portAxes s m := fun m => by
    rw [portAxes, portAxes]
    refine congrArg (fun f => (rangeFrom 0 64).filter f) (funext fun a => ?_)
    rw [axisEn, axisPort, ht, flag_of_rd (ha a), fld_of_rd (ha a), axisEn, axisPort]
  have hg : ∀ m, portGroups u m = portGroups s m := fun m => by
    rw [portGroups, portGroups, hp]
    refine congrArg (fun f => (rangeFrom 0 8).filter f) (funext fun g => congrArg (fun f => (portAxes s m).any f) (funext fun a => ?_))
    rw [axisGroup, fld_of_rd (ha a), axisGroup]
  rw [partGroups, partGroups]
  refine congrArg (fun f => (rangeFrom 0 8).filter f) (funext fun g => congrArg (fun f => (rangeFrom 0 2).any f) (funext fun m => ?_))
  rw [hc, groupOnPort, hg, groupOnPort]

theorem sRestart_trips (s : State) (p : Nat) : fld (sRestart s p) 0x20000 0 16 = 0x0607 ∧ ∀ g, g ∈ partGroups s p → ∀ k, (latOf (sRestart s p) g k).isSome = true := by
  refine ⟨fld_hutEvent _ _ (by decide), fun g hg k => ?_⟩
  have hf : Follows ⟨true, false, true⟩ (hutchStop (partGroups s p) s) (sRestart s p) :=
    ((((Follows.foldl (.refl _ _) fun _ _ h => h.modHzone.setFld).alike (by rfl)).statusRecord rfl).bump.partReset rfl).hutEvent
  rw [latOf_of_grps (congrArg Sio.grps (hf.sio rfl))]
  exact latched_hutchStop hg s k

/-! ## ZONE_COMPARE, case by case -/

theorem exec_zoneCompare_eq {z : Fin 16} {ctr : Nat} {c : Cmp} {a b : Bool} (hc : cmpOf s z ctr = some c) (ho : c.closed = false) (ha : c.chk = some a) (hb : c.rep = some b) :
    exec (.zoneCompare t z ctr) s = .next (if a = b then comparedZone (advance s t) z ctr c (decide (a = b)) else
      if 3 ≤ (hzoneOf (comparedZone (advance s t) z ctr c (decide (a = b))) z).dis.length
      then sRestart (disagreed z (comparedZone (advance s t) z ctr c (decide (a = b)))) (c.part.getD (zonePart s z))
      else disagreed z (comparedZone (advance s t) z ctr c (decide (a = b)))) :=
  congrArg Host.Outcome.next (zoneCompare_eq (s := advance s t) hc ho ha hb)

theorem zoneCompare_decides (t : Time) (z : Fin 16) (ctr : Nat) (s : State) (c : Cmp) (a b : Bool) (hc : cmpOf s z ctr = some c) (ho : c.closed = false)
    (ha : c.chk = some a) (hb : c.rep = some b) :
    (a = b → cmpFresh s z ctr = false → ∃ u, exec (.zoneCompare t z ctr) s = .next u ∧ (hzoneOf u z).valid = (hzoneOf s z).valid ∧
      (hzoneOf u z).capAt = (hzoneOf s z).capAt ∧ rd u (hzReg z 0x14) = rd s (hzReg z 0x14) ∧ cmpOf u z ctr = some { c with closed := true }) ∧
    (a = b → cmpFresh s z ctr = true → ∃ u, exec (.zoneCompare t z ctr) s = .next u ∧
      (hzoneOf u z).valid = (ctrPast ctr (hzoneOf s z).bar || (hzoneOf s z).valid) ∧ (hzoneOf u z).capAt = some c.cap ∧
      rd u (hzReg z 0x14) = BitVec.ofNat 32 ctr ∧ cmpOf u z ctr = some { c with closed := true } ∧ rd u (hctReg 0) = rd s (hctReg 0) ∧ u.sio = s.sio) ∧
    (a ≠ b → cmpFresh s z ctr = true → (disWindow ctr (hzoneOf s z).dis).length < 2 → ∃ u, exec (.zoneCompare t z ctr) s = .next u ∧ (hzoneOf u z).valid = false ∧
      rd u (hzReg z 0x14) = BitVec.ofNat 32 ctr ∧ cmpOf u z ctr = some { c with closed := true } ∧
      rd u (hctReg 0) = rd s (hctReg 0) + 1 ∧ rd u (hzReg z 0x1C) = rd s (hzReg z 0x1C) + 1 ∧ fld u 0x20000 0 16 = 0x0601 ∧ u.sio = s.sio) ∧
    (a ≠ b → cmpFresh s z ctr = true → 2 ≤ (disWindow ctr (hzoneOf s z).dis).length → ∃ u, exec (.zoneCompare t z ctr) s = .next u ∧ fld u 0x20000 0 16 = 0x0607 ∧
      ∀ g, g ∈ partGroups s (c.part.getD (zonePart s z)) → ∀ k, (latOf u g k).isSome = true) := by
  obtain ⟨v, hv⟩ : ∃ v, v = comparedZone (advance s t) z ctr c (decide (a = b)) := ⟨_, rfl⟩
  have e := exec_zoneCompare_eq (t := t) hc ho ha hb
  have hcmp : cmpOf v z ctr = some { c with closed := true } := hv ▸ cmpOf_comparedZone (s := advance s t) hc ho _
  obtain ⟨hzone, hshown, hother, hsio⟩ : Outcome z ctr c.cap (decide (a = b)) (advance s t) v := hv ▸ outcome_comparedZone z.isLt c _
  rw [show cmpFresh (advance s t) z ctr = cmpFresh s z ctr from rfl] at hzone hshown
  have h0 : rd v (hctReg 0) = rd s (hctReg 0) := hother _ (.inl (by decide)) (by unfold hctReg hzReg; omega) (by unfold hctReg hzReg; omega)
  rw [← hv] at e
  refine ⟨fun hab hf => ?_, fun hab hf => ?_, fun hab hf hl => ?_, fun hab hf hl => ?_⟩
  · rw [if_pos hab] at e
    rw [hf, if_neg (by decide)] at hzone hshown
    exact ⟨v, e, (congrArg HZone.valid hzone).trans rfl, (congrArg HZone.capAt hzone).trans rfl, hshown, hcmp⟩
  · rw [if_pos hab] at e
    rw [hf, if_pos rfl] at hzone hshown
    refine ⟨v, e, (congrArg HZone.valid hzone).trans ?_, congrArg HZone.capAt hzone, hshown, hcmp, h0, hsio⟩
    rw [zoneSet, decide_eq_true hab, Bool.true_and]
    rfl
  all_goals
    rw [if_neg hab] at e
    rw [hf, if_pos rfl] at hzone hshown
    rw [decide_eq_false hab] at hzone
    have hlen : (hzoneOf v z).dis.length = (disWindow ctr (hzoneOf s z).dis).length + 1 :=
      (congrArg (fun x : HZone => x.dis.length) hzone).trans (disWindow_self ctr (hzoneOf s z).dis)
  · rw [if_neg (by omega)] at e
    obtain ⟨hn0, hn1C, h14⟩ := disagreed_reads z.isLt v
    have h1C : rd v (hzReg z 0x1C) = rd s (hzReg z 0x1C) := hother _ (.inl (by unfold hzReg; omega)) (by unfold hzReg; omega) (by unfold hzReg; omega)
    exact ⟨_, e, congrArg HZone.valid hzone, h14.trans hshown, hcmp, hn0.trans (by rw [h0]), hn1C.trans (by rw [h1C]), fld_hutEvent _ _ (by decide), hsio⟩
  · rw [if_pos (by omega)] at e
    obtain ⟨hfld, hlat⟩ := sRestart_trips (disagreed z v) (c.part.getD (zonePart s z))
    refine ⟨_, e, hfld, fun g hg k => hlat g ?_ k⟩
    rw [partGroups_of_motion (s := s) fun x hx => ?_]
    · exact hg
    · have hs : soleName x := .inr hx
      have hm : ∀ o, o < 0x20 → x ≠ hzReg z o := fun o ho => by unfold hzReg; omega
      rw [disagreed, rd_hutEvent_ne _ hs (by omega), rd_bump_ne _ (hzReg_apart z.isLt (by decide) (hm _ (by decide)) hs),
        rd_bump_ne _ (canonOff_ne_of_soleName hs (.inl (by decide)) (by unfold hctReg; omega)), hother x hs (hm _ (by decide)) (hm _ (by decide))]
      rfl

/-! ## CMP_BUDGET_EXPIRE and ZONE_AGE_EXPIRE -/

theorem cmpBudgetExpire_closes (t : Time) (z : Fin 16) (ctr : Nat) (s : State) (c : Cmp) (hc : cmpOf (openWaiting (advance s t)) z ctr = some c) (ho : c.closed = false)
    (hb : c.publish + zoneBudget s z ≤ max s.clk.tb t) (hm : c.chk = none ∨ c.rep = none) : ∃ u, exec (.cmpBudgetExpire t z ctr) s = .next u ∧
      (hzoneOf u z).valid = false ∧ cmpOf u z ctr = some { c with closed := true } ∧ rd u (hctReg 1) = rd s (hctReg 1) + 1 ∧ fld u 0x20000 0 16 = 0x0602 := by
  obtain ⟨v, hv⟩ : ∃ v, v = openWaiting (advance s t) := ⟨_, rfl⟩
  rw [← hv] at hc
  have hregs : v.regs = s.regs := by rw [hv, openWaiting_eq]; rfl
  have hclk : v.clk.tb = max s.clk.tb t := by rw [hv, openWaiting_eq]; rfl
  have hbudget : zoneBudget v z = zoneBudget s z := by rw [zoneBudget, fld_of_rd (rd_of_regs hregs _), zoneBudget]
  have hn : ¬ (c.closed = true ∨ v.clk.tb < c.publish + zoneBudget v z ∨ (c.chk.isSome && c.rep.isSome) = true) := by
    rw [hclk, hbudget, ho]
    rintro (h | h | h)
    · cases h
    · exact absurd hb (Nat.not_le.mpr h)
    · obtain hm | hm := hm <;> simp [hm] at h
  have e : exec (.cmpBudgetExpire t z ctr) s = .next (hutEvent 0x0602 z (bump (zonesInvalid (withCmps v (closedCmps v z ctr)) ctr [z.val]) (hctReg 1))) := by
    rw [exec_cmpBudgetExpire, execCmpBudgetExpire]
    rw [← hv, hc]
    exact congrArg Host.Outcome.next (if_neg (by simpa using hn))
  obtain ⟨w, hw⟩ : ∃ w, w = zonesInvalid (withCmps v (closedCmps v z ctr)) ctr [z.val] := ⟨_, rfl⟩
  have hcmps : w.hut.cmps = closedCmps v z ctr := by rw [hw, zonesInvalid_cmps]; rfl
  have hwr : w.regs = s.regs := by rw [hw, zonesInvalid_regs]; exact hregs
  have hvalid : (hzoneOf w z).valid = false := by rw [hw]; exact (hzoneOf_zonesInvalid (List.mem_singleton_self z.val) _ ctr).1
  rw [← hw] at e
  refine ⟨_, e, hvalid, ?_, ?_, fld_hutEvent _ _ (by decide)⟩
  · exact (congrArg (fun l => findCmp l z ctr) hcmps).trans (cmpOf_closed hc ho)
  · rw [rd_hutEvent_ne _ (.inl (by decide)) (by decide), rd_bump, rd_of_regs hwr]

/-- A zone whose latest frame compared may be too old. -/
def agedOut (now limit : Nat) (x : HZone) : HZone := if x.aged now limit then { x with valid := false } else x

theorem zoneAgeExpire_ends (t : Time) (z : Fin 16) (c : Nat) (s : State) (hc : (hzoneOf s z).capAt = some c) (ha : c + zoneAge s z < max s.clk.tb t) :
    ∃ u, exec (.zoneAgeExpire t z) s = .next u ∧ (hzoneOf u z).valid = false ∧ u.regs = s.regs ∧ u.mem = s.mem ∧
      ∀ y, y ≠ z.val → ∀ k, hzoneIn u k y = hzoneIn s k y := by
  have haged : (hzoneOf s z).aged (max s.clk.tb t) (zoneAge s z) = true := by
    rw [HZone.aged, hc]
    exact decide_eq_true ha
  have e : exec (.zoneAgeExpire t z) s = .next (modHzone (advance s t) z (agedOut (max s.clk.tb t) (zoneAge s z))) :=
    congrArg Host.Outcome.next (if_pos (Bool.or_eq_true_iff.mpr (.inl haged)))
  refine ⟨_, e, ?_, rfl, rfl, fun y hy k => ?_⟩
  · rw [hzoneOf_modHzone_same, agedOut, if_pos (by exact haged)]
  · rw [hzoneIn_modHzone_ne _ hy]
    cases k <;> rfl

end Sys2Proof.Proofs
end

section
/-!
Reading a picture (R407, R408), and the statement about pictures, reports and comparisons.
-/
namespace Sys2Proof.Proofs
open Sys2Proof Sys2Proof.Machine Sys2Proof.Safety Sys2Proof.Laws
variable {s : State} {t : Time}

/-! ## The notice is released -/

/-- The notice at place `i` of the Hutch's ring is free again, and the next one is read next. -/
def noticeRead (rel i : Nat) (s : State) : State := setNring (freeNotice s 16 i) 16 { nringOf (freeNotice s 16 i) 16 with rel := rel + 1 }

theorem noticeRead_shape (rel i : Nat) (s : State) : ∃ g, noticeRead rel i s = { s with ing := g } := by
  unfold noticeRead freeNotice
  split
  · exact ⟨_, rfl⟩
  · exact ⟨_, rfl⟩

theorem noticeRead_hut (rel i : Nat) (s : State) : (noticeRead rel i s).hut = s.hut := by obtain ⟨g, h⟩ := noticeRead_shape rel i s; rw [h]
theorem noticeRead_regs (rel i : Nat) (s : State) : (noticeRead rel i s).regs = s.regs := by obtain ⟨g, h⟩ := noticeRead_shape rel i s; rw [h]

theorem hzoneOf_of_hut {u : State} (h : u.hut = s.hut) (z : Nat) : hzoneOf u z = hzoneOf s z := by
  rw [hzoneOf, hzoneOf, hzoneIn, hzoneIn, hchanOf_of_hut (congrArg Hut.chA h) (congrArg Hut.chB h)]

theorem nringOf_setNring_same (s : State) (k : Nat) (r : Ring) : nringOf (setNring s k r) k = r := by
  rw [nringOf, setNring]
  exact tget_tset_same _ _ _ _

theorem nringOf_freeNotice {i : Nat} {x : Nat × Nat} (h : tget? (nringOf s 16).slots i = some x) :
    (nringOf (freeNotice s 16 i) 16).slots = tdel (nringOf s 16).slots i := by
  rw [freeNotice, h]
  exact congrArg Ring.slots (nringOf_setNring_same s 16 { nringOf s 16 with slots := tdel (nringOf s 16).slots i, recs := tdel (nringOf s 16).recs i })

theorem nringOf_noticeRead (rel : Nat) {i : Nat} {x : Nat × Nat} (h : tget? (nringOf s 16).slots i = some x) :
    (nringOf (noticeRead rel i s) 16).rel = rel + 1 ∧ tget? (nringOf (noticeRead rel i s) 16).slots i = none := by
  rw [noticeRead, nringOf_setNring_same]
  refine ⟨rfl, ?_⟩
  rw [nringOf_freeNotice h]
  exact tget?_tdel_same _ _

/-! ## What reading makes of the picture -/

/-- STREAM, counter and capture of a frame record, and the picture that it describes. -/
def recStream (q : List Byte) : Nat := le q 0x1C 2 % 512
def recCtr (q : List Byte) : Nat := le q 0x18 4
def recPicture (s : State) (q : List Byte) : List Byte := rdMem s (le q 0x20 6) (le q 0x2C 4 * (le q 0x2A 2 + (le q 0x2A 2 + 1) / 2))

/-- The zones of a frame. -/
def recZones (s : State) (q : List Byte) : List Nat := (cmpsOf s q).map Cmp.zone

/-- The picture is later than the stream's last, and as its record says. -/
def pictureWhole (s : State) (bad : Bool) (q : List Byte) : Bool :=
  ctrPast (recCtr q) (tget? s.hut.lastCtr (recStream q)) && !bad && decide (crc32c (recPicture s q) = le q 0x3C 4)

/-- The zones for which the picture is fit, and those for which it is not. -/
def zonesFit (s : State) (whole : Bool) (q : List Byte) : List Nat := (recZones s q).filter fun z => whole && decide (s.clk.tb ≤ le q 0 8 + zoneAge s z)
def zonesUnfit (s : State) (whole : Bool) (q : List Byte) : List Nat := (recZones s q).filter fun z => !(zonesFit s whole q).contains z

/-- A picture that is unfit for a zone is counted once and makes those zones invalid. -/
def unfitCounted (whole : Bool) (q : List Byte) (lost : List Nat) (s : State) : State :=
  if whole = true ∧ lost = [] then s else hutEvent 0x0603 (lost.head?.getD 0) (bump (zonesInvalid s (recCtr q) lost) (hctReg 2))

/-- A picture that is fit for a zone, or that no zone is of, is its stream's latest. -/
def latestSet (whole : Bool) (q : List Byte) (zs ok : List Nat) (s : State) : State :=
  if whole = true ∧ (zs = [] ∨ ok ≠ []) then { s with hut := { s.hut with lastCtr := tset s.hut.lastCtr (recStream q) (recCtr q) } } else s

/-- The crops of a picture go to the checker. -/
def cropsSent (q : List Byte) (crops : List (Nat × List Byte)) (s : State) : State :=
  if crops = [] then s else { s with hut := { s.hut with crops := s.hut.crops ++ [⟨recStream q, recCtr q, le q 0 8, le q 0x10 8, crops⟩] } }

/-- What the Hutch makes of the picture of a record. -/
def pictureJudged (whole : Bool) (q : List Byte) (s : State) : State :=
  cropsSent q ((zonesFit s whole q).map (cropOf s q (recPicture s q)))
    (latestSet whole q (recZones s q) (zonesFit s whole q) (unfitCounted whole q (zonesUnfit s whole q) (openCmps s q)))

section
variable {x : Nat × Nat} {i : Nat} {q : List Byte}

theorem pictureRead_eq (hi : (nringOf s 16).rel % 64 = i) (hq : tget [] (nringOf s 16).recs i = q) (hx : tget? (nringOf s 16).slots i = some x) (bad : Bool) :
    pictureRead s bad = if bit q 0x1F 5 then noticeRead (nringOf s 16).rel i s
      else noticeRead (nringOf s 16).rel i (pictureJudged (pictureWhole s bad q) q s) := by
  unfold pictureRead
  extract_lets r j q' done n ctr cap s1 zs fresh bytes whole ok lost s2 h2 s3 h3
  have hj : j = i := hi
  clear_value j
  subst hj
  have hq' : q' = q := hq
  clear_value q'
  subst hq'
  have hx' : tget? r.slots j = some x := hx
  have hdone : ∀ v, done v = noticeRead (nringOf s 16).rel j v := fun _ => rfl
  have hjudged : (if ok = [] then s3 else { s3 with hut := { h3 with crops := s3.hut.crops ++ [⟨n, ctr, cap, le q' 0x10 8, ok.map (cropOf s q' bytes)⟩] } }) =
      pictureJudged (pictureWhole s bad q') q' s := by
    have hs2 : s2 = unfitCounted whole q' lost s1 := rfl
    have hs3 : s3 = latestSet whole q' zs ok s2 := rfl
    have hlost : lost = zonesUnfit s whole q' := rfl
    have hok : ok = zonesFit s whole q' := rfl
    have hcrops : (if ok = [] then s3 else { s3 with hut := { h3 with crops := s3.hut.crops ++ [⟨n, ctr, cap, le q' 0x10 8, ok.map (cropOf s q' bytes)⟩] } }) =
        cropsSent q' (ok.map (cropOf s q' bytes)) s3 := if_congr List.map_eq_nil_iff.symm rfl rfl
    rw [hcrops, hs3, hs2, hlost, hok]
    rfl
  rw [hx']
  clear_value done s3 ok
  dsimp only
  rw [hdone, hdone, ← hjudged]

end

/-! ## What a picture leaves, fit or not -/

section
variable (whole : Bool) (q : List Byte) (s : State)

theorem unfitCounted_keeps (lost : List Nat) : (unfitCounted whole q lost s).hut.cmps = s.hut.cmps ∧ (unfitCounted whole q lost s).ing = s.ing := by
  unfold unfitCounted
  split
  · exact ⟨rfl, rfl⟩
  · exact ⟨zonesInvalid_cmps s _ _, zonesInvalid_ing s _ _⟩

theorem latestSet_keeps (zs ok : List Nat) : (latestSet whole q zs ok s).hut.cmps = s.hut.cmps ∧ (latestSet whole q zs ok s).ing = s.ing := by
  unfold latestSet
  split <;> exact ⟨rfl, rfl⟩

theorem cropsSent_keeps (crops : List (Nat × List Byte)) : (cropsSent q crops s).hut.cmps = s.hut.cmps ∧ (cropsSent q crops s).ing = s.ing := by
  unfold cropsSent
  split <;> exact ⟨rfl, rfl⟩

theorem pictureJudged_keeps : (pictureJudged whole q s).hut.cmps = addCmps s.hut.cmps (cmpsOf s q) ∧ (pictureJudged whole q s).ing = s.ing := by
  obtain ⟨hc, hg⟩ := cropsSent_keeps q (latestSet whole q (recZones s q) (zonesFit s whole q) (unfitCounted whole q (zonesUnfit s whole q) (openCmps s q)))
    ((zonesFit s whole q).map (cropOf s q (recPicture s q)))
  obtain ⟨lc, lg⟩ := latestSet_keeps whole q (unfitCounted whole q (zonesUnfit s whole q) (openCmps s q)) (recZones s q) (zonesFit s whole q)
  obtain ⟨uc, ug⟩ := unfitCounted_keeps whole q (openCmps s q) (zonesUnfit s whole q)
  rw [pictureJudged, hc, hg, lc, lg, uc, ug, openCmps_eq]
  exact ⟨rfl, rfl⟩

theorem zonesFit_unfit : zonesFit s false q = [] := by simp [zonesFit]

theorem pictureJudged_unfit : pictureJudged false q s =
    hutEvent 0x0603 ((recZones s q).head?.getD 0) (bump (zonesInvalid (openCmps s q) (recCtr q) (recZones s q)) (hctReg 2)) := by
  have hl : zonesUnfit s false q = recZones s q := by rw [zonesUnfit, zonesFit_unfit]; exact List.filter_eq_self.mpr fun _ _ => rfl
  rw [pictureJudged, zonesFit_unfit, hl, cropsSent, if_pos (by rfl), latestSet, if_neg (by simp), unfitCounted, if_neg (by simp)]

/-- The stream's latest counter after the picture. -/
def withLatest (n ctr : Nat) (s : State) : State := { s with hut := { s.hut with lastCtr := tset s.hut.lastCtr n ctr } }

theorem pictureJudged_fit (h : ∀ z ∈ recZones s q, s.clk.tb ≤ le q 0 8 + zoneAge s z) :
    pictureJudged true q s = cropsSent q ((recZones s q).map (cropOf s q (recPicture s q))) (withLatest (recStream q) (recCtr q) (openCmps s q)) := by
  have hf : zonesFit s true q = recZones s q := List.filter_eq_self.mpr fun z hz => by rw [Bool.true_and]; exact decide_eq_true (h z hz)
  have hl : zonesUnfit s true q = [] := by
    rw [zonesUnfit, hf]
    exact List.filter_eq_nil_iff.mpr fun z hz => by simp [hz]
  have hany : true = true ∧ (recZones s q = [] ∨ recZones s q ≠ []) := ⟨rfl, em _⟩
  rw [pictureJudged, hf, hl, unfitCounted, if_pos ⟨rfl, rfl⟩, latestSet, if_pos hany]
  rfl

theorem cropsSent_hut (crops : List (Nat × List Byte)) : (cropsSent q crops s).hut.chA = s.hut.chA ∧ (cropsSent q crops s).hut.chB = s.hut.chB ∧
    (cropsSent q crops s).hut.lastCtr = s.hut.lastCtr ∧
    (crops ≠ [] → (cropsSent q crops s).hut.crops = s.hut.crops ++ [⟨recStream q, recCtr q, le q 0 8, le q 0x10 8, crops⟩]) := by
  unfold cropsSent
  split
  · next h => exact ⟨rfl, rfl, rfl, fun hn => absurd h hn⟩
  · exact ⟨rfl, rfl, rfl, fun _ => rfl⟩

end

/-! ## HUTCH_PICTURE_READ -/

/-- What the statement says of reading the picture of record `q`. -/
structure PictureSays (q : List Byte) (bad : Bool) (i : Nat) (t : Time) (s u : State) : Prop where
  rel : (nringOf u 16).rel = (nringOf s 16).rel + 1
  free : tget? (nringOf u 16).slots i = none
  skipped : bit q 0x1F 5 = true → u.hut = s.hut
  opened : bit q 0x1F 5 = false → ∀ c, c ∈ cmpsOf s q → (cmpOf u c.zone c.ctr).isSome = true
  unfit : bit q 0x1F 5 = false → bad = true → u.hut.crops = s.hut.crops ∧ u.hut.lastCtr = s.hut.lastCtr ∧
    (∀ c, c ∈ cmpsOf s q → (hzoneOf u c.zone).valid = false ∧ (hzoneOf u c.zone).bar.isSome = true) ∧
    rd u (hctReg 2) = rd s (hctReg 2) + 1 ∧ fld u 0x20000 0 16 = 0x0603
  fit : bit q 0x1F 5 = false → bad = false → tget? s.hut.lastCtr (recStream q) = none → crc32c (recPicture s q) = le q 0x3C 4 →
    (∀ c, c ∈ cmpsOf s q → max s.clk.tb t ≤ le q 0 8 + zoneAge s c.zone) →
    u.hut.chA.zones = s.hut.chA.zones ∧ u.hut.chB.zones = s.hut.chB.zones ∧ tget? u.hut.lastCtr (recStream q) = some (recCtr q) ∧
    (cmpsOf s q ≠ [] → u.hut.crops = s.hut.crops ++ [⟨recStream q, recCtr q, le q 0 8, le q 0x10 8,
      (cmpsOf s q).map (fun c => cropOf s q (recPicture s q) c.zone)⟩])

section
variable {x : Nat × Nat} {i : Nat} {q : List Byte}

/-- The clause about an unfit picture, of the state before the notice is released. -/
theorem pictureJudged_unfit_says (q : List Byte) (s : State) : (pictureJudged false q s).hut.crops = s.hut.crops ∧ (pictureJudged false q s).hut.lastCtr = s.hut.lastCtr ∧
    (∀ c, c ∈ cmpsOf s q → (hzoneOf (pictureJudged false q s) c.zone).valid = false ∧ (hzoneOf (pictureJudged false q s) c.zone).bar.isSome = true) ∧
    rd (pictureJudged false q s) (hctReg 2) = rd s (hctReg 2) + 1 ∧ fld (pictureJudged false q s) 0x20000 0 16 = 0x0603 := by
  rw [pictureJudged_unfit]
  obtain ⟨w, hw⟩ : ∃ w, w = zonesInvalid (openCmps s q) (recCtr q) (recZones s q) := ⟨_, rfl⟩
  have hcrops : w.hut.crops = s.hut.crops := by rw [hw, zonesInvalid_crops, openCmps_eq]; rfl
  have hlast : w.hut.lastCtr = s.hut.lastCtr := by rw [hw, zonesInvalid_lastCtr, openCmps_eq]; rfl
  have hregs : w.regs = s.regs := by rw [hw, zonesInvalid_regs, openCmps_eq]; rfl
  have hzone : ∀ c ∈ cmpsOf s q, (hzoneOf w c.zone).valid = false ∧ (hzoneOf w c.zone).bar.isSome = true := fun c hc => by
    rw [hw]
    exact hzoneOf_zonesInvalid (List.mem_map_of_mem hc) _ _
  rw [← hw]
  refine ⟨hcrops, hlast, hzone, ?_, fld_hutEvent _ _ (by decide)⟩
  rw [rd_hutEvent_ne _ (.inl (by decide)) (by decide), rd_bump, rd_of_regs hregs]

theorem pictureWhole_bad (q : List Byte) (s : State) : pictureWhole s true q = false := by
  rw [pictureWhole, Bool.not_true, Bool.and_false, Bool.false_and]

theorem pictureWhole_good (hl : tget? s.hut.lastCtr (recStream q) = none) (hc : crc32c (recPicture s q) = le q 0x3C 4) : pictureWhole s false q = true := by
  rw [pictureWhole, hl, decide_eq_true hc]
  rfl

/-- The clause about a fit picture, of the state before the notice is released. -/
theorem pictureJudged_fit_says (h : ∀ z ∈ recZones s q, s.clk.tb ≤ le q 0 8 + zoneAge s z) : (pictureJudged true q s).hut.chA = s.hut.chA ∧
    (pictureJudged true q s).hut.chB = s.hut.chB ∧ tget? (pictureJudged true q s).hut.lastCtr (recStream q) = some (recCtr q) ∧
    (recZones s q ≠ [] → (pictureJudged true q s).hut.crops = s.hut.crops ++
      [⟨recStream q, recCtr q, le q 0 8, le q 0x10 8, (recZones s q).map (cropOf s q (recPicture s q))⟩]) := by
  rw [pictureJudged_fit q s h]
  obtain ⟨hA, hB, hl, hc⟩ := cropsSent_hut q (withLatest (recStream q) (recCtr q) (openCmps s q)) ((recZones s q).map (cropOf s q (recPicture s q)))
  rw [openCmps_eq] at hA hB hl hc ⊢
  refine ⟨hA, hB, ?_, fun hn => hc (by simpa using hn)⟩
  rw [hl]
  exact tget?_tset_same _ _ _

theorem pictureSays (hi : (nringOf s 16).rel % 64 = i) (hq : tget [] (nringOf s 16).recs i = q) (hx : tget? (nringOf s 16).slots i = some x) (bad : Bool) :
    PictureSays q bad i t s (pictureRead (advance s t) bad) := by
  obtain ⟨v, hv⟩ : ∃ v, v = pictureJudged (pictureWhole (advance s t) bad q) q (advance s t) := ⟨_, rfl⟩
  have e := pictureRead_eq (s := advance s t) hi hq hx bad
  rw [← hv] at e
  cases hb : bit q 0x1F 5 with
  | true =>
    rw [hb, if_pos rfl] at e
    obtain ⟨hrel, hfree⟩ := nringOf_noticeRead (s := advance s t) (nringOf s 16).rel hx
    rw [e]
    exact ⟨hrel, hfree, fun _ => noticeRead_hut _ _ _, fun h => absurd (hb.symm.trans h) (by decide), fun h => absurd (hb.symm.trans h) (by decide), fun h => absurd (hb.symm.trans h) (by decide)⟩
  | false =>
    rw [hb, if_neg (by decide)] at e
    obtain ⟨hcmps, hing⟩ : v.hut.cmps = addCmps s.hut.cmps (cmpsOf s q) ∧ v.ing = s.ing := hv ▸ pictureJudged_keeps _ q (advance s t)
    have hring : nringOf v 16 = nringOf s 16 := by rw [nringOf, hing, nringOf]
    obtain ⟨hrel, hfree⟩ := nringOf_noticeRead (s := v) (nringOf s 16).rel (i := i) (by rw [hring]; exact hx)
    obtain ⟨u, hu⟩ : ∃ u, u = noticeRead (nringOf s 16).rel i v := ⟨_, rfl⟩
    have hhut : u.hut = v.hut := hu ▸ noticeRead_hut _ _ _
    have hregs : u.regs = v.regs := hu ▸ noticeRead_regs _ _ _
    rw [← hu] at hrel hfree
    rw [e, show noticeRead (nringOf (advance s t) 16).rel i v = u from hu.symm]
    refine ⟨hrel, hfree, fun h => absurd (hb.symm.trans h) (by decide), fun _ c hc => ?_, fun _ hbad => ?_, fun _ hbad hl hcrc hage => ?_⟩
    · rw [cmpOf_eq, hhut, hcmps]
      exact findCmp_isSome (any_addCmps hc _)
    · rw [hbad, pictureWhole_bad] at hv
      obtain ⟨hcrops, hlast, hzone, hn, hf⟩ := pictureJudged_unfit_says q (advance s t)
      rw [← hv] at hcrops hlast hzone hn hf
      refine ⟨by rw [hhut, hcrops]; rfl, by rw [hhut, hlast]; rfl, fun c hc => ?_, ?_, ?_⟩
      · rw [hzoneOf_of_hut hhut]
        exact hzone c hc
      · rw [rd_of_regs hregs, hn]
        rfl
      · rw [fld_of_rd (rd_of_regs hregs _), hf]
    · rw [hbad, pictureWhole_good (s := advance s t) hl hcrc] at hv
      have hages : ∀ z ∈ recZones (advance s t) q, (advance s t).clk.tb ≤ le q 0 8 + zoneAge (advance s t) z := fun z hz => by
        obtain ⟨c, hc, rfl⟩ := List.mem_map.mp hz
        exact hage c hc
      obtain ⟨hA, hB, hlast, hcrops⟩ := pictureJudged_fit_says hages
      rw [← hv] at hA hB hlast hcrops
      rw [hhut]
      refine ⟨congrArg HChan.zones hA, congrArg HChan.zones hB, hlast, fun hn => ?_⟩
      rw [hcrops fun h => hn (List.map_eq_nil_iff.mp h), recZones, List.map_map]
      rfl

end

/-! ## The statement -/

/-- Settles O46: opening, checking, reporting and closing act on the comparison of a zone and a frame (`cmpOf_modCmp`, `cmpOf_closed`), and a comparison's
outcome on its zone alone (`outcome_zoneOutcome`). -/
theorem picturesReportsAndComparison : Obligations.PicturesReportsAndComparison := by
  unfold Obligations.PicturesReportsAndComparison
  refine ⟨fun t bad s x hp hr hx => ?_, checkerResult_keeps, zoneReport_counts, zoneCompare_decides, cmpBudgetExpire_closes, zoneAgeExpire_ends⟩
  obtain ⟨hrel, hfree, hskip, hopen, hunfit, hfit⟩ := pictureSays (t := t) rfl rfl hx bad
  have e : exec (.hutchPictureRead t bad) s = .next (pictureRead (advance s t) bad) := congrArg Host.Outcome.next (if_pos (Bool.and_eq_true_iff.mpr ⟨hp, hr⟩))
  exact ⟨_, e, hrel, hfree, hskip, hopen, hunfit, hfit⟩

end Sys2Proof.Proofs
end
